-- ==== Sys2Proof/Word.lean ====
section
/-! DEFINITION. The word types of the block and the plainest bit helpers. -/

namespace Sys2Proof

/-- A 32-bit word: a general register, a register of a register block, an on-chip memory word. -/
abbrev Word := BitVec 32
/-- One byte of memory. -/
abbrev Byte := BitVec 8
/-- A 64-bit word: a postmark, a meter, a product pair. -/
abbrev DWord := BitVec 64

namespace Word

/-- A word from a natural number, modulo 2^32. -/
def of (n : Nat) : Word := BitVec.ofNat 32 n

/-- Bits `msb:lsb` of a word as a number. -/
def bits (w : Word) (msb lsb : Nat) : Nat := (w.toNat >>> lsb) % 2 ^ (msb + 1 - lsb)

/-- Bit `n` of a word. -/
def bit (w : Word) (n : Nat) : Bool := w.toNat.testBit n

/-- The word with bits `msb:lsb` replaced by the low bits of `v`. -/
def setBits (w : Word) (msb lsb v : Nat) : Word :=
  let m := (2 ^ (msb + 1 - lsb) - 1) <<< lsb
  of ((w.toNat - (w.toNat &&& m)) + ((v <<< lsb) &&& m))

/-- The word with bit `n` set to `b`. -/
def setBit (w : Word) (n : Nat) (b : Bool) : Word := setBits w n n b.toNat

end Word

/-- Sign extension of the low `w` bits of `n`, as an integer. -/
def sextInt (w n : Nat) : Int :=
  let m := n % 2 ^ w
  if m < 2 ^ (w - 1) then (m : Int) else (m : Int) - 2 ^ w

end Sys2Proof
end

