-- ==== Sys2Proof/Syntax.lean ====
section
/-! DEFINITION. The commands that the VG-64 takes: one constructor for each row of the opcode table, with its operands, and
the records that some of them carry. -/

namespace Sys2Proof.Machine

/-- Flipped bits of a stored word: a data mask and a check-bit mask (R162, R188). -/
structure BitErr where
  data : Nat
  chk : Nat
  deriving DecidableEq, Repr

/-- A request waiting at an arbiter (R190): postmark and origin of its issue, whether a sorter's request is its composer's and so of
class R (R196), a beat of a locked run and the last one of it (R195), and the beat it asks for: a read of as many bytes at `pa`, or a
write of the bytes given. -/
structure BusReq where
  postmark : Nat
  origin : Nat
  classR : Bool
  locked : Bool
  last : Bool
  write : Bool
  pa : Nat
  bytes : List Byte
  deriving DecidableEq, Repr

/-- A captured line (R474): address, byte mask, 64 bytes, and the 64-bit words of the line that are poisoned (R50). -/
structure CapLine where
  pa : Nat
  mask : Nat
  data : List Byte
  bad : List Nat
  deriving DecidableEq, Repr

/-- A snapshot (R470, R471): sequence number, postmark, the marks of streams 6 to 10, payload, and the payload words that are poisoned. -/
structure Snap where
  seq : Nat
  postmark : Nat
  marks : List Nat
  payload : List Byte
  bad : List Nat
  deriving DecidableEq, Repr

/-- A follow message (R477), and that it carries the end of a handover (R488). -/
structure Follow where
  postmark : Nat
  frame : Nat
  latched : Bool
  handover : Bool
  deriving DecidableEq, Repr

/-- A journal entry (R419): GEN, RTC seconds, full postmark, TKEY, SOURCE, CAUSE, ARG, the meter changes, the
cause-specific data, and the new values that the receipt of a request gave (R434). -/
structure JEntry where
  gen : Nat
  rtc : Nat
  postmark : Nat
  tkey : Nat
  source : Nat
  cause : Nat
  arg : Nat
  changes : List (Nat × Int)
  data : Nat
  vals : List Nat
  deriving DecidableEq, Repr

/-- An event of a Franking Unit on its way to the Lead (R422): source, cause, argument, changes and data of the entry to be committed, and
the RTC value and postmark of an event that was latched before (R419, R447). -/
structure FuEv where
  source : Nat
  cause : Nat
  arg : Nat
  changes : List (Nat × Int)
  data : Nat
  time : Option (Nat × Nat)
  deriving DecidableEq, Repr

/-- What the partner tells in AUTH (R463 to R465): its IDENT_PUB, that its signature verifies, its seal-slot digests, its FU
manifest in force, that the title manifests agree, its profile, ROM mode, its recorded partner, that it holds a non-zero
meter among 16 to 127, its ROLE_PREF, that its outputs run, its latest GEN, that its FU_DOOR[3] reads open, its count, the link's delay (R46), and the numbers of the last items acknowledged on
streams 6 to 10. -/
structure Peer where
  ident : List Byte
  authOk : Bool
  seals : List (List Byte)
  manifest : List Byte
  sameTitle : Bool
  profile : Nat
  rom : Bool
  partner : Option (List Byte)
  meters : Bool
  pref : Nat
  running : Bool
  gen : Nat
  door : Bool
  count : Nat
  delay : Nat
  base : List Nat
  deriving DecidableEq, Repr

/-- A link frame (R458, R459): SEQ, that its CRC holds, ACK, the partner's acknowledgements (by stream, and of a commit by its
GEN), and what its control items say: a window register of the Lead, DETACH, TRESET, CLEAR_DIV, a door of the partner; the Mirror's events, and how many of them the Lead
acknowledges (R422). -/
structure LinkFrame where
  seq : Nat
  crcOk : Bool
  ack : Nat
  acks : List (Nat × Nat)
  commitAck : Option Nat
  win : Option (Nat × Word)
  detach : Bool
  treset : Bool
  clearDiv : Bool
  door : Option Bool
  events : List FuEv
  eventAcks : Nat
  deriving DecidableEq, Repr

/-- Where an inbound PCI Express request goes (R575 to R577): an offset in BAR0 or in BAR2, a memory address in root-port mode, or
the mask bit of MSI-X vector 0. -/
inductive Inbound
  | bar0 (off : BitVec 21)
  | bar2 (off : BitVec 30)
  | addr (a : BitVec 64)
  | msixMask (masked : Bool)
  deriving DecidableEq, Repr

end Sys2Proof.Machine

namespace Sys2Proof

/-- What a Courier did on a wrong path (R138 to R141): the fetch groups discarded, and the physical addresses of the loads that reached its
D-cache. -/
structure WrongPath where
  groups : Nat
  loads : List (Fin 0x10000000000)
  deriving DecidableEq, Repr

/-- A command of the VG-64: one constructor for each row of the opcode table.  A core number `k` is that of R33, `cond` a condition
of R65, `o` the origin of an access. -/
inductive Instr
  /-- REG_WRITE (R5): A register write that has no row of its own sets or clears fields according to their access codes, subject to expert gating and the checks shared by all writes. -/
  | regWrite (o : BitVec 12) (b : Fin 26) (off : BitVec 12) (v : Word)
  /-- POST_NOW_LO_READ (R32): A read of POST_NOW_LO returns the low half of the master count and copies the high half into the reading origin's POST_NOW_HI copy. -/
  | postNowLoRead (o : BitVec 12) (peek : Bool)
  /-- REFCLK_LOSS (R22): REFCLK disappears, so the master count runs from the internal oscillator, FREERUN reads 1 and LOCKED reads 0. -/
  | refclkLoss
  /-- REFCLK_LOCK (R22): Within 1 ms after REFCLK becomes present, AON-M locks to it without a step, LOCKED becomes 1 and FREERUN becomes 0. -/
  | refclkLock
  /-- REPLICA_CHECK (R26): Once every 1 us, POST compares each island's postmark replica with the master count. -/
  | replicaCheck (i : Fin 236) (err : Int)
  /-- EPOCH_CROSSING (R30): The master count crosses a multiple of 2^48 ns; the Daybook appends an epoch entry, entry 0 is replaced, and EPOCH_EV is set. -/
  | epochCrossing
  /-- ARBITER_GRANT (R190): A shared target's arbiter grants the oldest waiting request in postmark order, and the beat or locked run is served. -/
  | arbiterGrant (arb : Fin 256) (reqs : List Machine.BusReq) (upset : Machine.BitErr) (hard : Bool) (fatal : Option (Fin 4097))
  /-- HOG_CUTOFF (R200): A DMA or Press grant held longer than HOG_LIMIT target cycles is cut off, the holder gets a bus error, and the cut-off is recorded. -/
  | hogCutoff (arb : Fin 256)
  /-- SCRUB_READ (R170): The patrol scrubber reads the next SECDED word of an on-chip array or of DRAM in an idle target cycle. -/
  | scrubRead (dram : Bool) (line : Fin 0x800000000) (upset : Machine.BitErr) (hard : Bool)
  /-- SCRUB_PASS_OVERRUN (R171): A scrub pass fails to finish within its period; SCRUB_LATE is set and the pass continues. -/
  | scrubPassOverrun
  /-- DLT_INSTALL (R177): A write of V=1 to MEM_DLT_ENTRY installs a dead-letter entry, copying the word into the spare. -/
  | dltInstall (o : BitVec 12) (offset : BitVec 22)
  /-- DLT_REMOVE (R177): A write of V=0 to MEM_DLT_ENTRY removes the entry, copying the spare back into the array. -/
  | dltRemove (o : BitVec 12) (offset : BitVec 22)
  /-- DRAMC_ENABLE (R648): A write that sets DRAMC_CONFIG.ENABLE starts channel training; the write is acknowledged only when training ends. -/
  | dramcEnable (o : BitVec 12) (cap rate : BitVec 4) (scrub : Bool)
  /-- DRAM_TRAINING_DONE (R648): Channel training ends; TRAINED, DEGRADED, DEG_CH and DRAMC_TOP take their new values together, and the ENABLE write is acknowledged. -/
  | dramTrainingDone (failed : List Nat)
  /-- DRAM_CHANNEL_FAIL (R185): A running DRAM channel stops responding; CH_FAIL and FAIL_CH are set, and its reads return poison while its writes end in a bus error. -/
  | dramChannelFail (ch : Fin 4)
  /-- ADD (R69): g[rd] = g[ra] + g[rb]. -/
  | add (k : Fin 64) (cond : BitVec 4) (rd ra rb : BitVec 5)
  /-- SUB (R69): g[rd] = g[ra] - g[rb]. -/
  | sub (k : Fin 64) (cond : BitVec 4) (rd ra rb : BitVec 5)
  /-- AND (R69): Bitwise AND of two registers. -/
  | and (k : Fin 64) (cond : BitVec 4) (rd ra rb : BitVec 5)
  /-- OR (R69): Bitwise OR of two registers. -/
  | or (k : Fin 64) (cond : BitVec 4) (rd ra rb : BitVec 5)
  /-- XOR (R69): Bitwise XOR of two registers. -/
  | xor (k : Fin 64) (cond : BitVec 4) (rd ra rb : BitVec 5)
  /-- ANDN (R69): g[ra] AND NOT g[rb]. -/
  | andn (k : Fin 64) (cond : BitVec 4) (rd ra rb : BitVec 5)
  /-- NOR (R69): NOT (g[ra] OR g[rb]). -/
  | nor (k : Fin 64) (cond : BitVec 4) (rd ra rb : BitVec 5)
  /-- SLL (R69): Logical shift left by register. -/
  | sll (k : Fin 64) (cond : BitVec 4) (rd ra rb : BitVec 5)
  /-- SRL (R69): Logical shift right by register. -/
  | srl (k : Fin 64) (cond : BitVec 4) (rd ra rb : BitVec 5)
  /-- SRA (R69): Arithmetic shift right by register. -/
  | sra (k : Fin 64) (cond : BitVec 4) (rd ra rb : BitVec 5)
  /-- ROR (R69): Rotate right by register. -/
  | ror (k : Fin 64) (cond : BitVec 4) (rd ra rb : BitVec 5)
  /-- MIN (R69): Signed minimum. -/
  | min (k : Fin 64) (cond : BitVec 4) (rd ra rb : BitVec 5)
  /-- MAX (R69): Signed maximum. -/
  | max (k : Fin 64) (cond : BitVec 4) (rd ra rb : BitVec 5)
  /-- MINU (R69): Unsigned minimum. -/
  | minu (k : Fin 64) (cond : BitVec 4) (rd ra rb : BitVec 5)
  /-- MAXU (R69): Unsigned maximum. -/
  | maxu (k : Fin 64) (cond : BitVec 4) (rd ra rb : BitVec 5)
  /-- CLZ (R69): Count leading zero bits. -/
  | clz (k : Fin 64) (cond : BitVec 4) (rd ra : BitVec 5)
  /-- POPC (R69): Count one bits. -/
  | popc (k : Fin 64) (cond : BitVec 4) (rd ra : BitVec 5)
  /-- SEXB (R69): Sign-extend a byte. -/
  | sexb (k : Fin 64) (cond : BitVec 4) (rd ra : BitVec 5)
  /-- SEXH (R69): Sign-extend a halfword. -/
  | sexh (k : Fin 64) (cond : BitVec 4) (rd ra : BitVec 5)
  /-- ZEXH (R69): Zero-extend a halfword. -/
  | zexh (k : Fin 64) (cond : BitVec 4) (rd ra : BitVec 5)
  /-- BSWAP (R69): Reverse the byte lanes. -/
  | bswap (k : Fin 64) (cond : BitVec 4) (rd ra : BitVec 5)
  /-- MFQ (R69): Copy the predicates q0-q7 into a register. -/
  | mfq (k : Fin 64) (cond : BitVec 4) (rd : BitVec 5)
  /-- MTQ (R69): Write predicates q1-q7 from a register. -/
  | mtq (k : Fin 64) (cond : BitVec 4) (ra : BitVec 5)
  /-- ADDI (R70): Add a sign-extended immediate. -/
  | addi (k : Fin 64) (cond : BitVec 4) (rd ra : BitVec 5) (imm : BitVec 12)
  /-- ANDI (R70): AND with a zero-extended immediate. -/
  | andi (k : Fin 64) (cond : BitVec 4) (rd ra : BitVec 5) (imm : BitVec 12)
  /-- ORI (R70): OR with a zero-extended immediate. -/
  | ori (k : Fin 64) (cond : BitVec 4) (rd ra : BitVec 5) (imm : BitVec 12)
  /-- XORI (R70): XOR with a zero-extended immediate. -/
  | xori (k : Fin 64) (cond : BitVec 4) (rd ra : BitVec 5) (imm : BitVec 12)
  /-- SHI (R70): Shift or rotate by an immediate amount. -/
  | shi (k : Fin 64) (cond : BitVec 4) (rd ra : BitVec 5) (kind : BitVec 2) (n : BitVec 5)
  /-- LUI (R70): Load a 16-bit immediate into the upper half. -/
  | lui (k : Fin 64) (cond : BitVec 4) (rd : BitVec 5) (imm : BitVec 16)
  /-- LLI (R70): Replace the lower half with a 16-bit immediate. -/
  | lli (k : Fin 64) (cond : BitVec 4) (rd : BitVec 5) (imm : BitVec 16)
  /-- PERMB (R70): Permute byte lanes by a selector. -/
  | permb (k : Fin 64) (cond : BitVec 4) (rd ra : BitVec 5) (sel : BitVec 8)
  /-- ADDB (R71): Lane-wise byte add, wrapping. -/
  | addb (k : Fin 64) (cond : BitVec 4) (rd ra rb : BitVec 5)
  /-- SUBB (R71): Lane-wise byte subtract, wrapping. -/
  | subb (k : Fin 64) (cond : BitVec 4) (rd ra rb : BitVec 5)
  /-- ADDUSB (R71): Lane-wise unsigned saturating add. -/
  | addusb (k : Fin 64) (cond : BitVec 4) (rd ra rb : BitVec 5)
  /-- SUBUSB (R71): Lane-wise unsigned saturating subtract. -/
  | subusb (k : Fin 64) (cond : BitVec 4) (rd ra rb : BitVec 5)
  /-- MINUB (R71): Lane-wise unsigned minimum. -/
  | minub (k : Fin 64) (cond : BitVec 4) (rd ra rb : BitVec 5)
  /-- MAXUB (R71): Lane-wise unsigned maximum. -/
  | maxub (k : Fin 64) (cond : BitVec 4) (rd ra rb : BitVec 5)
  /-- AVGUB (R71): Lane-wise rounded average. -/
  | avgub (k : Fin 64) (cond : BitVec 4) (rd ra rb : BitVec 5)
  /-- CMPEQB (R71): Lane-wise equality mask. -/
  | cmpeqb (k : Fin 64) (cond : BitVec 4) (rd ra rb : BitVec 5)
  /-- CMPGTUB (R71): Lane-wise unsigned greater-than mask. -/
  | cmpgtub (k : Fin 64) (cond : BitVec 4) (rd ra rb : BitVec 5)
  /-- SADUB (R71): Sum of absolute lane differences. -/
  | sadub (k : Fin 64) (cond : BitVec 4) (rd ra rb : BitVec 5)
  /-- CMP (R72): Compare two registers and combine the result into a predicate. -/
  | cmp (k : Fin 64) (cond : BitVec 4) (qd : BitVec 3) (comb : BitVec 2) (ra rb : BitVec 5) (cc : BitVec 3)
  /-- CMPI (R72): Compare a register with an immediate, or test a bit, and combine the result into a predicate. -/
  | cmpi (k : Fin 64) (cond : BitVec 4) (qd : BitVec 3) (comb : BitVec 2) (ra : BitVec 5) (cc : BitVec 3) (imm : BitVec 9)
  /-- PREDICATE_LOGIC (R74): Combine two predicates by AND, OR or XOR into a third. -/
  | predicateLogic (k : Fin 64) (cond : BitVec 4) (qd qa qb : BitVec 3) (na nb : Bool) (op : BitVec 2)
  /-- MUL (R75): Signed 64-bit product into ph:pl, with a shadow of 2. -/
  | mul (k : Fin 64) (cond : BitVec 4) (ra rb : BitVec 5)
  /-- MULU (R75): Unsigned 64-bit product into ph:pl. -/
  | mulu (k : Fin 64) (cond : BitVec 4) (ra rb : BitVec 5)
  /-- MAC (R75): Signed multiply-accumulate into ph:pl. -/
  | mac (k : Fin 64) (cond : BitVec 4) (ra rb : BitVec 5)
  /-- MACU (R75): Unsigned multiply-accumulate into ph:pl. -/
  | macu (k : Fin 64) (cond : BitVec 4) (ra rb : BitVec 5)
  /-- MSU (R75): Signed multiply-subtract from ph:pl. -/
  | msu (k : Fin 64) (cond : BitVec 4) (ra rb : BitVec 5)
  /-- DIV (R76): Signed division: quotient to pl and remainder to ph, with a shadow of 12. -/
  | div (k : Fin 64) (cond : BitVec 4) (ra rb : BitVec 5)
  /-- DIVU (R76): Unsigned division: quotient to pl and remainder to ph. -/
  | divu (k : Fin 64) (cond : BitVec 4) (ra rb : BitVec 5)
  /-- MFPL (R75): Copy pl into a register. -/
  | mfpl (k : Fin 64) (cond : BitVec 4) (rd : BitVec 5)
  /-- MFPH (R75): Copy ph into a register. -/
  | mfph (k : Fin 64) (cond : BitVec 4) (rd : BitVec 5)
  /-- MTPL (R75): Write pl from a register. -/
  | mtpl (k : Fin 64) (cond : BitVec 4) (ra : BitVec 5)
  /-- MTPH (R75): Write ph from a register. -/
  | mtph (k : Fin 64) (cond : BitVec 4) (ra : BitVec 5)
  /-- PRODUCT_VISIBLE (R77): A pending product becomes visible in pl and ph at the first instruction after its shadow. -/
  | productVisible (k : Fin 64)
  /-- LB (R81): Load a sign-extended byte. -/
  | lb (k : Fin 64) (cond : BitVec 4) (rd ra : BitVec 5) (off : BitVec 12)
  /-- LBU (R81): Load a zero-extended byte. -/
  | lbu (k : Fin 64) (cond : BitVec 4) (rd ra : BitVec 5) (off : BitVec 12)
  /-- LH (R81): Load a sign-extended halfword. -/
  | lh (k : Fin 64) (cond : BitVec 4) (rd ra : BitVec 5) (off : BitVec 12)
  /-- LHU (R81): Load a zero-extended halfword. -/
  | lhu (k : Fin 64) (cond : BitVec 4) (rd ra : BitVec 5) (off : BitVec 12)
  /-- LW (R81): Load a word. -/
  | lw (k : Fin 64) (cond : BitVec 4) (rd ra : BitVec 5) (off : BitVec 12)
  /-- SB (R81): Store a byte. -/
  | sb (k : Fin 64) (cond : BitVec 4) (rd ra : BitVec 5) (off : BitVec 12)
  /-- SH (R81): Store a halfword. -/
  | sh (k : Fin 64) (cond : BitVec 4) (rd ra : BitVec 5) (off : BitVec 12)
  /-- SW (R81): Store a word. -/
  | sw (k : Fin 64) (cond : BitVec 4) (rd ra : BitVec 5) (off : BitVec 12)
  /-- LL (R81): Load a word and set the reservation on its 64-byte granule. -/
  | ll (k : Fin 64) (cond : BitVec 4) (rd ra : BitVec 5) (off : BitVec 12)
  /-- SC (R81): Store the word only if the reservation holds, report success in a predicate, and clear the reservation. -/
  | sc (k : Fin 64) (cond : BitVec 4) (rd ra : BitVec 5) (qd : BitVec 3) (off : BitVec 9)
  /-- LDSW (R82): Load a word from the short window. -/
  | ldsw (k : Fin 64) (cond : BitVec 4) (rd : BitVec 5) (a : BitVec 16)
  /-- LDSHU (R82): Load a zero-extended halfword from the short window. -/
  | ldshu (k : Fin 64) (cond : BitVec 4) (rd : BitVec 5) (a : BitVec 16)
  /-- STSW (R82): Store a word into the short window. -/
  | stsw (k : Fin 64) (cond : BitVec 4) (rd : BitVec 5) (a : BitVec 16)
  /-- STSH (R82): Store a halfword into the short window. -/
  | stsh (k : Fin 64) (cond : BitVec 4) (rd : BitVec 5) (a : BitVec 16)
  /-- FENCE_S (R94): Make every earlier store visible before any later access. -/
  | fenceS (k : Fin 64) (cond : BitVec 4)
  /-- FENCE_F (R94): Perform every earlier access before any later one. -/
  | fenceF (k : Fin 64) (cond : BitVec 4)
  /-- FENCE_IO (R94): As FENCE.F, and also wait until every earlier access has been acknowledged and every store bus error has been reported. -/
  | fenceIo (k : Fin 64) (cond : BitVec 4)
  /-- ISYNC (R94): Refetch and retranslate later instructions after every earlier instruction has completed. -/
  | isync (k : Fin 64) (cond : BitVec 4)
  /-- B (R85): Branch pc-relative with a delay slot. -/
  | b (k : Fin 64) (cond : BitVec 4) (annul : Bool) (disp : BitVec 21)
  /-- BL (R85): Branch pc-relative and link into g31. -/
  | bl (k : Fin 64) (cond : BitVec 4) (annul : Bool) (disp : BitVec 21)
  /-- JR (R85): Jump to the address in a register. -/
  | jr (k : Fin 64) (cond : BitVec 4) (annul : Bool) (ra : BitVec 5)
  /-- JLR (R85): Jump to the address in a register and link. -/
  | jlr (k : Fin 64) (cond : BitVec 4) (annul : Bool) (ra rd : BitVec 5)
  /-- NOP (R67): A hint-space word that changes no architectural state. -/
  | nop (k : Fin 64) (low : BitVec 28)
  /-- PREFETCH (R67): A hint by which a Courier may bring a cacheable line into its D-cache. -/
  | prefetch (k : Fin 64) (ra : BitVec 5) (off : BitVec 12)
  /-- CSRR (R121): Read a control register. -/
  | csrr (k : Fin 64) (cond : BitVec 4) (ga : BitVec 5) (csr : BitVec 10)
  /-- CSRW (R121): Write a control register. -/
  | csrw (k : Fin 64) (cond : BitVec 4) (ga : BitVec 5) (csr : BitVec 10)
  /-- CSRS (R121): Set bits of a control register. -/
  | csrs (k : Fin 64) (cond : BitVec 4) (ga : BitVec 5) (csr : BitVec 10)
  /-- CSRC (R121): Clear bits of a control register. -/
  | csrc (k : Fin 64) (cond : BitVec 4) (ga : BitVec 5) (csr : BitVec 10)
  /-- ERET (R115): Restore the state saved at entry, reinstate any saved product, and resume. -/
  | eret (k : Fin 64) (cond : BitVec 4)
  /-- WAIT (R121): Stop fetch until an interrupt is pending towards the core. -/
  | wait (k : Fin 64) (cond : BitVec 4)
  /-- WAIT_RESUME (R121): An interrupt becomes pending towards a waiting core, which continues, first taking the interrupt if IE is 1. -/
  | waitResume (k : Fin 64)
  /-- REGSYNC (R108): Discard the region-table entries held for a context, or for all contexts. -/
  | regsync (k : Fin 64) (cond : BitVec 4) (ga : BitVec 5)
  /-- CLINE (R121): Clean or invalidate a Courier cache line. -/
  | cline (k : Fin 64) (cond : BitVec 4) (ga : BitVec 5) (kind : BitVec 2)
  /-- RDPM (R121): Read the core's postmark replica into two registers. -/
  | rdpm (k : Fin 64) (cond : BitVec 4) (ga gb : BitVec 5)
  /-- SYSCALL (R121): Raise cause 0x0D with the given code. -/
  | syscall (k : Fin 64) (cond : BitVec 4) (code : BitVec 13)
  /-- INTERRUPT_ENTRY (R113): At an interrupt point with IE set and an interrupt pending, the core takes the interrupt entry of R114. -/
  | interruptEntry (k : Fin 64)
  /-- STORE_BUS_ERROR_REPORT (R112): A store bus error that has arrived is reported imprecisely at the next interrupt point, ahead of pending interrupts. -/
  | storeBusErrorReport (k : Fin 64)
  /-- LOAD_DATA_RETURN (R148): The data of a blocking in-order load to a non-local region returns, releasing the pipeline from M. -/
  | loadDataReturn (k : Fin 64) (cycles : Nat)
  /-- STORE_ACK (R148): The acknowledgement of a posted store or device access arrives. -/
  | storeAck (k : Fin 64)
  /-- STORE_BUFFER_DRAIN (R146): The oldest store-buffer entry drains through the local port when R144 grants it. -/
  | storeBufferDrain (k : Fin 64)
  /-- FETCH_LINE_READ (R145): An in-order core reads a 32-byte instruction line through its local port. -/
  | fetchLineRead (k : Fin 64) (line : Word) (defer : Nat) (useless : Bool)
  /-- BRANCH_MISPREDICT (R128): A Courier branch resolves as mispredicted; younger work is discarded and the predictor state is restored from the checkpoint. -/
  | branchMispredict (k : Fin 8) (wrong : List (Nat × Bool)) (ret : Bool) (path : WrongPath)
  /-- MEMORDER_FLUSH (R135): An older store resolves to an address that overlaps a load issued early; the load and every younger instruction are refetched. -/
  | memorderFlush (k : Fin 8) (pc : Word)
  /-- OVERLAP_REPLAY (R134): A partly forwarded load is replayed after the youngest overlapping store has been written into the D-cache. -/
  | overlapReplay (k : Fin 8)
  /-- WAIT_TABLE_CLEAR (R135): The Courier wait table is cleared after every 2^20 retired loads. -/
  | waitTableClear (k : Fin 8)
  /-- PMC_OVERFLOW (R154): A performance counter wraps, setting its overflow flag and, with OVFIE, raising private source 30. -/
  | pmcOverflow (k : Fin 64) (n : Fin 10)
  /-- FRAME_START (R291): An output's timing generator starts a frame under the fixed or adaptive rule. -/
  | frameStart (o : Fin 4)
  /-- BIN_DONE (R230): The binner has handled the last descriptor and sets BIN_DONE. -/
  | binDone (o : Fin 4) (wait : Nat)
  /-- LINE_START (R285): The beam reaches column 0 of a line; READY is sampled and the line events are raised. -/
  | lineStart (o : Fin 4)
  /-- UNIT_OFFER (R255): The group offers the next unit to its member once BIN_DONE, the lead condition and the member's previous LEND all hold. -/
  | unitOffer (s : Fin 48)
  /-- OUT_SEGMENT_READ (R297): The output stage reads a ring segment LEAD_NS before its first pixel, sending fill pixels from an uncommitted segment. -/
  | outSegmentRead (o : Fin 4) (parity : Option (Fin 512))
  /-- LINE_TIMED_WRITE_PERFORM (R270): The beam reaches a line-timed write's LINE and PIXEL, and the write is performed on its target. -/
  | lineTimedWritePerform (o : Fin 4)
  /-- FRAME_DONE (R303): The last active pixel is sent; the frame seal and frame number are latched. -/
  | frameDone (o : Fin 4)
  /-- SORTER_RETIRE (R281): A 1 written to a COMP_RETIRE bit retires the sorter at once, abandoning its held unit and dropping its remaining units. -/
  | sorterRetire (o : BitVec 12) (n : Fin 48)
  /-- SORTER_RESTORE (R283): A 0 written to a COMP_RETIRE bit restores the sorter at the next frame start. -/
  | sorterRestore (o : BitVec 12) (n : Fin 48)
  /-- LNEXT (R275): Wait for an offered unit, then return the unit word, the route address and ARG. -/
  | lnext (k : Fin 64) (cond : BitVec 4) (gd ge : BitVec 5)
  /-- LSTAT (R275): Return the status of the held unit. -/
  | lstat (k : Fin 64) (cond : BitVec 4) (gd : BitVec 5)
  /-- LDEAD (R275): Return the signed sorter cycles until the line start of the held unit's line. -/
  | ldead (k : Fin 64) (cond : BitVec 4) (gd : BitVec 5)
  /-- MTX (R275): Copy a g register to an x register. -/
  | mtx (k : Fin 64) (cond : BitVec 4) (xd : BitVec 4) (ga : BitVec 5)
  /-- MFX (R275): Copy an x register to a g register. -/
  | mfx (k : Fin 64) (cond : BitVec 4) (gd : BitVec 5) (xa : BitVec 4)
  /-- LSET (R262): Set a line parameter in the held unit's private copy. -/
  | lset (k : Fin 64) (cond : BitVec 4) (gi gv : BitVec 5)
  /-- LGET (R262): Read a line parameter. -/
  | lget (k : Fin 64) (cond : BitVec 4) (gd gi : BitVec 5)
  /-- LGETR (R275): Read a route-area word. -/
  | lgetr (k : Fin 64) (cond : BitVec 4) (gd : BitVec 5) (n : BitVec 7)
  /-- LPUT (R265): Log a line-timed write to a palette entry or to OUT_BGCOLOR, waiting for room if the log is full. -/
  | lput (k : Fin 64) (cond : BitVec 4) (a : BitVec 2)
  /-- LCLOSE (R267): Close the held unit. -/
  | lclose (k : Fin 64) (cond : BitVec 4)
  /-- LDRAW (R275): Close the unit, wait for the earlier units to close, compose the line and commit its segments. -/
  | ldraw (k : Fin 64) (cond : BitVec 4)
  /-- LEND (R275): Draw the line if it has not been drawn, then end the unit. -/
  | lend (k : Fin 64) (cond : BitVec 4)
  /-- OUT_ENABLE (R289): Writing OUT_CTL.EN starts the timing generator with a frame start, or writing 0 requests a stop at the next VBLANK_START. -/
  | outEnable (o : Fin 4) (en : Bool)
  /-- SCENE_READY (R290): A write of 1 to OUT_SCENE.READY marks the next scene ready. -/
  | sceneReady (o : Fin 4)
  /-- PAIR_WRITE (R305): A write to OUT_CTL.PAIR takes effect only while both outputs are stopped; otherwise it sets PAIR_ERR. -/
  | pairWrite (o : Fin 4) (pair : Bool)
  /-- XBAR_WRITE (R306): A write to OUT_XBAR requests a port change, which begins at the old output's next VBLANK_START. -/
  | xbarWrite (d : Fin 4) (src : Fin 4) (en : Bool)
  /-- XBAR_DONE (R306): The port starts the new output at its frame start, and XBAR_DONE is set. -/
  | xbarDone (d : Fin 4)
  /-- HPD_RISE (R309): Hot-plug detect rises, and the port trains its link. -/
  | hpdRise (d : Fin 4)
  /-- LINK_TRAINED (R309): DisplayPort link training completes at the chosen rate and lane count. -/
  | linkTrained (d : Fin 4) (rates : List Nat) (lanes : Fin 3) (async : Bool) (range : Nat × Nat)
  /-- LINK_FAIL (R311): Hot-plug detect falls or the link fails; LINK_ERR is set and the port stops sending. -/
  | linkFail (d : Fin 4) (hpdFell : Bool)
  /-- RETRAIN (R309): A write of RETRAIN trains the port at the forced rate and lanes. -/
  | retrain (d : Fin 4)
  /-- AUX_START (R312): A write of 1 to BUSY starts one AUX transaction. -/
  | auxStart (d : Fin 4)
  /-- AUX_DONE (R312): The AUX transaction ends; BUSY clears and RESULT reports the outcome. -/
  | auxDone (d : Fin 4) (result : Fin 4) (data : List Byte)
  /-- BEAM_CAPTURE (R321): A BEAMCAP edge captures the compensated beam position into OUT_CAP and sets BEAM_CAP. -/
  | beamCapture (o : Fin 4) (x : Fin 16384)
  /-- OUT_CAP_READ (R322): A read of OUT_CAP without PEEK returns the capture and clears BEAM_CAP. -/
  | outCapRead (o : Fin 4) (m : Fin 256) (peek : Bool)
  /-- PRESS_GO (R326): A write of GO while idle starts the command list at PRESS_LIST; otherwise GO_IGNORED is set. -/
  | pressGo
  /-- PRESS_ABORT (R340): A write of ABORT is sampled and resolved under R57, ending the list DONE with ABORT_LATE or ABORTED. -/
  | pressAbort (late : Bool)
  /-- PRESS_COMMAND_FETCH (R330): A fetched command is checked; an invalid or failed fetch ends the list with CAUSE 5 or CAUSE 4. -/
  | pressCommandFetch
  /-- PRESS_COPY (R332): COPY writes source elements unchanged, chunk by chunk, in the chosen directions. -/
  | pressCopy
  /-- PRESS_FILL (R332): FILL writes the FILLV value into every element. -/
  | pressFill
  /-- PRESS_CONVERT (R333): CONVERT widens each source pixel and narrows it to DFMT. -/
  | pressConvert
  /-- PRESS_BLEND (R333): BLEND blends each source pixel onto the destination in the chosen mode. -/
  | pressBlend
  /-- PRESS_CLIP (R329): CLIP loads the four clip rectangles. -/
  | pressClip
  /-- PRESS_JUMP (R329): JUMP continues the list at a new address. -/
  | pressJump
  /-- PRESS_END (R339): END completes the list once every write has been acknowledged; RESULT reads DONE and END_EV is set. -/
  | pressEnd
  /-- PRESS_WRITE_ACK (R335): A chunk write of the Press is acknowledged or fails; a failure ends the list PARTIAL. -/
  | pressWriteAck
  /-- PRESS_DEAD_TIME_END (R338): The dead time after a burst expires, and the Press may issue requests again. -/
  | pressDeadTimeEnd
  /-- DMA_GO (R350): A 1 written to a DMA_GO bit starts the channel at DMA_HEAD if it is idle or halted. -/
  | dmaGo (i : Fin 32)
  /-- DMA_PAUSE (R351): Clearing a DMA_ENABLE bit pauses the channel at its next write-unit boundary, discarding its buffered data. -/
  | dmaPause (i : Fin 32) (outstanding : Bool)
  /-- DMA_RESUME (R351): Setting the DMA_ENABLE bit again resumes a paused channel. -/
  | dmaResume (i : Fin 32)
  /-- DMA_ABORT (R352): A 1 written to a DMA_ABORT bit is sampled at the next write-unit boundary and resolved under R57. -/
  | dmaAbort (i : Fin 32) (outstanding : Bool)
  /-- DMA_READ_RETURN (R343): A read beat of a channel returns into its buffer. -/
  | dmaReadReturn (i : Fin 32) (transient : Bool)
  /-- DMA_ENVELOPE_FETCH (R349): The next envelope arrives in the prefetch slot, or its fetch fails or is poisoned. -/
  | dmaEnvelopeFetch (i : Fin 32)
  /-- DMA_WRITE_ACK (R353): A channel's write unit is acknowledged or fails; a failure is retried or ends the envelope PARTIAL. -/
  | dmaWriteAck (i : Fin 32) (transient : Bool)
  /-- DMA_ENGINE_FAULT (R355): An engine fault stops every channel with CAUSE 6 and sets ENGINE_HALT. -/
  | dmaEngineFault
  /-- AUDIO_TICK (R357): A rate domain ticks once per sample. -/
  | audioTick (d : Fin 3)
  /-- BRIDGE_RATIO_MEASURE (R386): Every 2^16 destination samples, a bridge clocked from AUDCLK_B remeasures RATIO from postmarks. -/
  | bridgeRatioMeasure (b : Fin 16) (ratio : Nat)
  /-- DOMAIN_START (R381): Setting a domain's EN takes the next slip, zeroes its nodes and starts SN at 0, or clearing EN stops the domain at its next block start. -/
  | domainStart (d : Fin 3) (en : Bool)
  /-- SLIP_GO (R382): A write of GO requests a slip swap and starts the zeroing of new identifiers. -/
  | slipGo (d : Fin 3)
  /-- VCQ_WR_WRITE (R377): A write to a queue's WR advances the command queue, or is refused with CFG_ERR if it would lose entries. -/
  | vcqWrWrite (d : Fin 3) (wr : Fin 64)
  /-- AUD_VEND_READ (R378): A read of AUD_VEND without PEEK removes the oldest ended voice. -/
  | audVendRead (o : Fin 256) (peek : Bool)
  /-- AUD_SN_LO_READ (R32): A read of AUD_SN_LO returns SN[31:0] and copies SN[63:32] into the reading origin's copy. -/
  | audSnLoRead (o : Fin 256) (d : Fin 3) (peek : Bool)
  /-- RX_SAMPLE (R392): A receive port takes in one sample; a sample too late for its block is lost and sets RX_OVF. -/
  | rxSample (p : Fin 2) (slot : Fin 16) (v : Int) (late : Bool)
  /-- AUDCLK_B_LOSS (R358): AUDCLK_B stops while domain B uses it; CLK_LOSS is set and domain B holds its state. -/
  | audclkBLoss
  /-- VADD (R366): Lane-wise binary32 add. -/
  | vadd (k : Fin 64) (cond : BitVec 4) (vd va vb : BitVec 5)
  /-- VSUB (R366): Lane-wise binary32 subtract. -/
  | vsub (k : Fin 64) (cond : BitVec 4) (vd va vb : BitVec 5)
  /-- VMUL (R366): Lane-wise binary32 multiply. -/
  | vmul (k : Fin 64) (cond : BitVec 4) (vd va vb : BitVec 5)
  /-- VMAC (R366): Lane-wise multiply-accumulate. -/
  | vmac (k : Fin 64) (cond : BitVec 4) (vd va vb : BitVec 5)
  /-- VMINMAX (R366): Lane-wise minimum or maximum. -/
  | vminmax (k : Fin 64) (cond : BitVec 4) (vd va vb : BitVec 5) (greater : Bool)
  /-- VUNARY (R366): Lane-wise absolute value, negation or square root. -/
  | vunary (k : Fin 64) (cond : BitVec 4) (vd va : BitVec 5) (m : BitVec 2)
  /-- VDIV (R366): Lane-wise division. -/
  | vdiv (k : Fin 64) (cond : BitVec 4) (vd va vb : BitVec 5)
  /-- VCVTF (R366): Convert integer lanes to binary32 with scaling. -/
  | vcvtf (k : Fin 64) (cond : BitVec 4) (vd va : BitVec 5) (m : BitVec 2)
  /-- VCVTI (R366): Convert binary32 lanes to saturated integers. -/
  | vcvti (k : Fin 64) (cond : BitVec 4) (vd va : BitVec 5) (m : BitVec 2)
  /-- VIADD (R366): Lane-wise integer add or subtract. -/
  | viadd (k : Fin 64) (cond : BitVec 4) (vd va vb : BitVec 5) (sub : Bool)
  /-- VLOGIC (R366): Lane-wise logic operation. -/
  | vlogic (k : Fin 64) (cond : BitVec 4) (vd va vb : BitVec 5) (m : BitVec 2)
  /-- VSHI (R366): Lane-wise shift by an immediate. -/
  | vshi (k : Fin 64) (cond : BitVec 4) (vd va n : BitVec 5) (m : BitVec 2)
  /-- VCMP (R366): Lane-wise compare to a mask. -/
  | vcmp (k : Fin 64) (cond : BitVec 4) (vd va vb : BitVec 5) (m : BitVec 2)
  /-- VSEL (R366): Lane-wise select. -/
  | vsel (k : Fin 64) (cond : BitVec 4) (vd va vb : BitVec 5)
  /-- VBCAST (R366): Broadcast a g register to every lane. -/
  | vbcast (k : Fin 64) (cond : BitVec 4) (vd ga : BitVec 5)
  /-- VINS (R366): Insert a g register into one lane. -/
  | vins (k : Fin 64) (cond : BitVec 4) (vd ga : BitVec 5) (n : BitVec 3)
  /-- VEXT (R366): Extract one lane to a g register, trapping on a poisoned lane. -/
  | vext (k : Fin 64) (cond : BitVec 4) (gd va : BitVec 5) (n : BitVec 3)
  /-- VTRN (R366): Transpose an 8x8 block of lanes. -/
  | vtrn (k : Fin 64) (cond : BitVec 4) (vd va : BitVec 5)
  /-- VLD (R366): Load 32 bytes into a lane register. -/
  | vld (k : Fin 64) (cond : BitVec 4) (vd ga : BitVec 5)
  /-- VST (R366): Store a lane register as 32 bytes. -/
  | vst (k : Fin 64) (cond : BitVec 4) (va ga : BitVec 5)
  /-- VGATH (R366): Gather one word into each lane. -/
  | vgath (k : Fin 64) (cond : BitVec 4) (vd va gb : BitVec 5)
  /-- VSIN (R375): Lane-wise table sine of a phase. -/
  | vsin (k : Fin 64) (cond : BitVec 4) (vd va : BitVec 5)
  /-- VBIQ (R367): Run eight biquads and store back their state. -/
  | vbiq (k : Fin 64) (cond : BitVec 4) (vd va gb : BitVec 5)
  /-- VGEN (R373): Produce eight samples of a voice and update its state. -/
  | vgen (k : Fin 64) (cond : BitVec 4) (vd ga : BitVec 5)
  /-- DYN (R389): Pass eight samples of each channel through a dynamics block. -/
  | dyn (k : Fin 64) (cond : BitVec 4) (vd va gb : BitVec 5)
  /-- SNEXT (R368): Wait for a block or fade-run offer, then return the block word and the entry address. -/
  | snext (k : Fin 64) (cond : BitVec 4) (gd ge : BitVec 5)
  /-- SSTAT (R366): Return the block status or the state-bank offset. -/
  | sstat (k : Fin 64) (cond : BitVec 4) (gd : BitVec 5) (bank : Bool)
  /-- SOUT (R369): Write eight samples to an output point, held until SEND. -/
  | sout (k : Fin 64) (cond : BitVec 4) (va gb : BitVec 5)
  /-- SIN (R369): Read eight samples from an input point. -/
  | sin (k : Fin 64) (cond : BitVec 4) (vd gb : BitVec 5)
  /-- SBAR (R368): Wait until every horn of the domain has reached the same barrier count. -/
  | sbar (k : Fin 64) (cond : BitVec 4)
  /-- SEND (R368): End the horn's part of the run. -/
  | send (k : Fin 64) (cond : BitVec 4)
  /-- VDD_FU_RISE (R402): VDD_FU rises, causing an FU reset. -/
  | vddFuRise
  /-- FU_KEEP_ENTRY (R399): VDD_FU is lost while VSB_F is present, and the Franking Unit enters Keep. -/
  | fuKeepEntry
  /-- FU_WDT_EXPIRE (R403): The FU watchdog expires, causing an FU reset and a WDT journal entry. -/
  | fuWdtExpire
  /-- FU_WDT_KICK (R403): A write of 0x5A5A to FU_WDT.KICK restarts the FU watchdog period. -/
  | fuWdtKick (v : Word)
  /-- RTC_SECOND (R401): The RTC counts one second, applying any pending FU_RTC write. -/
  | rtcSecond
  /-- RTC_XTAL_STOP (R401): The 32.768 kHz crystal has stopped for more than 2 s; the RTC holds and RTC_VALID clears. -/
  | rtcXtalStop
  /-- OSC_TRIM (R401): Every 60 s, the FU oscillator is trimmed against FU_XTAL32. -/
  | oscTrim (meas : Fin 0x40000) (code : Fin 256)
  /-- PULSE_EDGE (R439): A pulse input accepts a change of level after GLITCH, and the active phase is classified. -/
  | pulseEdge (i : Fin 8) (level : Bool) (us : Nat)
  /-- PULSE_JAM (R439): An active phase reaches TMAX; JAM is journaled and counting stops. -/
  | pulseJam (i : Fin 8)
  /-- PULSE_RESUME (R439): A jammed input has held inactive for TREC, and counting resumes. -/
  | pulseResume (i : Fin 8)
  /-- PULSE_COMMIT (R440): Counted pulses are committed to METER_A and METER_B within 10 ms, or a JAM replaces the commit. -/
  | pulseCommit
  /-- METER_PULSE_START (R443): An output with a pending count decrements it, sets PULSE_ACTIVE and turns on. -/
  | meterPulseStart (k : Fin 8)
  /-- METER_PULSE_OFF (R443): TON expires and the output releases. -/
  | meterPulseOff (k : Fin 8)
  /-- METER_PULSE_END (R443): TOFF expires and PULSE_ACTIVE clears. -/
  | meterPulseEnd (k : Fin 8)
  /-- METER_READBACK (R445): 1 ms after a change, the output reads back its pin; a mismatch stops the output and journals METER_FAULT. -/
  | meterReadback (k : Fin 8) (high : Bool)
  /-- DOOR_OPEN (R447): A door input accepts opening after 32 samples; meter 2 is committed, or the opening is stored in Keep. -/
  | doorOpen (d : Fin 4)
  /-- TAMPER_TRIP (R448): A tamper detector trips, causing an FU reset or a latch in Keep, and TAMPER is journaled. -/
  | tamperTrip (n : Fin 3)
  /-- POBOX_CLAIM_READ (R427): A read of POBOX_CLAIM without PEEK claims the lowest free slot for the reader and sets its SEL. -/
  | poboxClaimRead (o : Fin 256) (peek : Bool)
  /-- POBOX_POST (R427): POST moves a CLAIMED slot to POSTED. -/
  | poboxPost (o : Fin 256)
  /-- POBOX_ABORT (R433): ABORT of a POSTED or BUSY slot is resolved under R57. -/
  | poboxAbort (o : Fin 256) (late : Bool)
  /-- POBOX_RELEASE (R427): RELEASE frees a CLAIMED or RECEIPT slot. -/
  | poboxRelease (o : Fin 256)
  /-- POBOX_XFORCE (R427): GO of POBOX_XFORCE frees a CLAIMED or RECEIPT slot whatever its owner, or sets STATE_ERR. -/
  | poboxXforce (v : Word)
  /-- POBOX_XINJ (R454): A write to NOTICE_INJ while the seal is broken makes the next CRC check of an output fail. -/
  | poboxXinj (v : Word)
  /-- POBOX_SERVE (R428): The Franking Unit begins serving the POSTED slot with the earliest POST postmark. -/
  | poboxServe
  /-- READ (R430): Return up to five meter values. -/
  | read
  /-- COMMIT (R416): Check up to four meter changes and apply them in one commit, or refuse them, or return a duplicate receipt. -/
  | commit
  /-- REPORT (R437): Snapshot the meters and sign a report with the identity key. -/
  | report
  /-- REPORT_READ (R430): Return one 40-byte chunk of a stored report. -/
  | reportRead
  /-- IDENT (R410): Return IDENT_PUB and the device serial. -/
  | ident
  /-- TIME (R430): Return the RTC, its validity and its sampling postmark. -/
  | time
  /-- SEAL_BREAK (R411): Verify the token and the logic door, break the seal and commit meter 0 + 1. -/
  | sealBreak
  /-- RESEAL (R411): Verify the token and restore the seal. -/
  | reseal
  /-- NOTICE (R452): Select the Notice layout in force. -/
  | notice
  /-- STAGE (R430): Write 48 bytes into the staging buffer. -/
  | stage
  /-- FW_WRITE (R430): Write 48 bytes into the inactive firmware slot. -/
  | fwWrite
  /-- FW_ACTIVATE (R430): Check the inactive slot, raise MIN_VERSION or enrol the seal slots, and cause an FU reset. -/
  | fwActivate
  /-- CLOCK_SET (R430): Set the RTC within the sealed limits and set RTC_VALID. -/
  | clockSet
  /-- METER_INIT (R430): Set meters 16-127 to 0 while the seal is broken. -/
  | meterInit
  /-- RECOVER_ACK (R449): Acknowledge recovery and clear RECOVERY. -/
  | recoverAck
  /-- FAULT_CLEAR (R445): Restart faulted meter outputs and resume jammed pulse inputs. -/
  | faultClear
  /-- ARCHIVE_WRITE (R450): A locally committed journal entry is archived to the external store within 50 ms. -/
  | archiveWrite (ok : Bool)
  /-- FU_SPI_GO (R450): A write of GO starts a command on FU_SPI. -/
  | fuSpiGo (v : Word)
  /-- FU_SPI_DONE (R450): The FU_SPI command ends, setting ERR if the device did not respond. -/
  | fuSpiDone (ok : Bool) (data : List Byte)
  /-- FU_SPI_DATA_ACCESS (R450): A read of FU_SPI_DATA removes 4 received bytes, and a write queues 4 bytes to send. -/
  | fuSpiDataAccess (w : Option Word)
  /-- FU_MIR_DATA_ACCESS (R422): A read of FU_MIR_DATA removes one received word, and a write appends one word to the item being built. -/
  | fuMirDataAccess (w : Option Word)
  /-- FU_MIR_SEND (R422): A write of SEND closes the item being built and hands it to the mirror stream. -/
  | fuMirSend
  /-- MIRROR_COMMIT_RECEIVE (R423): The Mirror receives a mirrored commit or receipt, applies it in GEN order and acknowledges it. -/
  | mirrorCommitReceive (e : Option Machine.JEntry) (receipt : Option (Nat × List Word)) (outs : List (Nat × Nat × Nat × Bool)) (tagOk : Bool)
  /-- MIRROR_ACK_TIMEOUT (R423): An acknowledgement is missing 2 ms after a commit was sent; the Lead marks the twin STALE and journals STALE. -/
  | mirrorAckTimeout
  /-- FU_DEMOTE (R484): A Lead's Franking Unit whose mirror stream has been silent for 250 us with its outputs stopped demotes itself. -/
  | fuDemote
  /-- NOTICE_GRACE_EXPIRE (R454): An output used by the layout has gone uncarried for NOTICE_GRACE; a Notice fault begins and meter 5 is committed. -/
  | noticeGraceExpire (o : Fin 4)
  /-- ZOW_ENABLE (R461): A write to ZOW_CTL.EN starts link training, or takes the link DOWN and leaves REFUSED. -/
  | zowEnable (en : Bool)
  /-- ZOW_TRAIN_DONE (R461): Every lane reaches block lock and is deskewed, and the link enters AUTH. -/
  | zowTrainDone (rate : Fin 3)
  /-- ZOW_TRAIN_TIMEOUT (R461): Training does not complete within 5 ms; both ends enter REFUSED with RATE. -/
  | zowTrainTimeout
  /-- ZOW_AUTH_DONE (R463): Authentication and the admission checks end, deciding the roles or refusing admission. -/
  | zowAuthDone (p : Machine.Peer)
  /-- SYNC_PROBE (R467): Every 100 us a time probe is exchanged, and the Mirror slews its rate; TWIN_SYNC is set after 16 good offsets. -/
  | syncProbe (t1 t2 t3 t4 : Nat)
  /-- ZOW_RESYNC (R490): The fork is found and the rejoining unit reverses its entries and replays the Lead's journal, or the rejoin is refused with FORK. -/
  | zowResync (peer : List Machine.JEntry) (wins : List Word)
  /-- ZOW_FRAME_RECEIVE (R459): A link frame is received whole and checked; bad or missing frames are resent, and good ones are delivered to the streams. -/
  | zowFrameReceive (f : Machine.LinkFrame)
  /-- LANE_FAIL (R460): A lane loses lock or exceeds BIP_LIMIT, and its share moves to the spare. -/
  | laneFail (l : Fin 5) (two : Fin 32)
  /-- HEARTBEAT_SEND (R468): A heartbeat is sent every HB_US. -/
  | heartbeatSend
  /-- HEARTBEAT_RECEIVE (R468): A heartbeat arrives from the partner. -/
  | heartbeatReceive (elig : Bool) (gen : Nat)
  /-- LEASE_RENEW (R482): ZOW renews the TWIN_LEAD lease every 50 us. -/
  | leaseRenew
  /-- LEASE_EXPIRE (R482): 100 us after the last renewal, the lease timer releases TWIN_LEAD. -/
  | leaseExpire
  /-- MIRROR_KEEPALIVE (R484): The mirror stream carries a keepalive every 50 us. -/
  | mirrorKeepalive
  /-- TAKEOVER (R487): With heartbeats missed and TWIN_PEER released for PEER_HOLD, the Mirror becomes Lead, or enters ISOLATED or sets TAKE_REFUSED. -/
  | takeover (missed held : Bool)
  /-- FOLLOW_RECEIVE (R477): The Mirror receives the Lead's frame-start follow message. -/
  | followReceive (o : Fin 4) (f : Machine.Follow)
  /-- FOLLOW_FRAME_START (R477): The Mirror starts its frame at the Lead postmark plus FOLLOW_US, latching its scene or setting SHADOW_LAG. -/
  | followFrameStart (o : Fin 4)
  /-- SEAL_RECEIVE (R478): A partner's seal arrives and is compared; a mismatch sets SEAL_MISMATCH. -/
  | sealReceive (o : Fin 4) (frame crc : BitVec 32)
  /-- SNAPSHOT_POST (R470): A write of GO to ZOW_SNAP_POST postmarks a snapshot, writes it into the ring and, on the Lead, sends it. -/
  | snapshotPost (len : Fin 4096)
  /-- SNAPSHOT_RECEIVE (R472): The Mirror writes a received snapshot into its ring once the window items up to its marks have been applied. -/
  | snapshotReceive (x : Machine.Snap)
  /-- REPLICATION_APPLY (R474): The Mirror writes a received replication line at the same address, in the Lead's order. -/
  | replicationApply (stream : Fin 5) (seq : Nat) (l : Machine.CapLine)
  /-- BULK_GO (R476): The Lead starts a bulk copy of DRAM lines to the Mirror. -/
  | bulkGo
  /-- BULK_DONE (R476): The Mirror acknowledges the last bulk line, and BULK_DONE is set. -/
  | bulkDone
  /-- HANDOVER (R488): The Lead swaps roles with an eligible Mirror at a frame boundary. -/
  | handover
  /-- DETACH (R468): The Lead detaches the Mirror, marks it STALE, and the link goes DOWN. -/
  | detach
  /-- TRESET (R489): The Lead requests a T reset of the Mirror. -/
  | treset
  /-- T_RESET (R489): A Mirror with T_ACCEPT performs a T reset on the twin's request. -/
  | tReset
  /-- SEED (R491): The Lead seeds the Mirror's meters at a GEN while the Mirror's logic door is open. -/
  | seed (copy : Option (Nat × List (Nat × Nat)))
  /-- CLEAR_DIV (R480): The Lead clears DIVERGED. -/
  | clearDiv
  /-- SOURCE_EVENT (R496): An enabled idle source meets its event and becomes pending with a postmarked record. -/
  | sourceEvent (n : Fin 1024) (k : Fin 64) (age : Fin 141)
  /-- RECORD_ELIGIBLE (R501): The ICU replica reaches a record's postmark plus WIN, and the record becomes eligible. -/
  | recordEligible
  /-- MOD_RELEASE (R504): A moderated request is released when its target's moderation interval has passed. -/
  | modRelease
  /-- ICU_CLAIM_READ (R502): A target claims its first eligible record, making the source active. -/
  | icuClaimRead (o : BitVec 12) (peek : Bool)
  /-- ICU_EOI_WRITE (R505): EOI ends the service of an active source, which may re-pend at once. -/
  | icuEoiWrite (o : BitVec 12) (v : Word)
  /-- ICU_SWI_WRITE (R493): A write raises a software line on a core's private source. -/
  | icuSwiWrite (o : BitVec 12) (v : Word)
  /-- ICU_SSET_WRITE (R494): A write raises an event on a software shared source, or sets CFG_ERR. -/
  | icuSsetWrite (o : BitVec 12) (v : Word)
  /-- ICU_CFG_WRITE (R499): Writing ICU_CFG enables a source or withdraws its pending record, and sets its SENSE, target and moderation. -/
  | icuCfgWrite (o : BitVec 12) (v : Word)
  /-- NAP_WAKE_LATCH (R509): In Nap, an asynchronous latch catches an enabled source event and restarts the clocks. -/
  | napWakeLatch (n : Fin 1024) (k : Fin 64) (level : Bool)
  /-- TIMER_TICK (R512): A timer channel's prescaler produces a tick and the count advances. -/
  | timerTick (k : Fin 32)
  /-- TIMER_WRAP (R512): The count passes TOP and wraps to 0, setting WRAPF and ending a one-shot. -/
  | timerWrap (k : Fin 32)
  /-- COMPARE_EVENT (R514): The count becomes equal to the compare value in force, setting CMPF. -/
  | compareEvent (k : Fin 32)
  /-- CAPTURE_EVENT (R515): A capture event copies the count into TMR_XCAP, setting CAPF or OVF. -/
  | captureEvent (k : Fin 32)
  /-- GATE_CHANGE (R516): A channel's gate input opens or closes, starting or holding its counting. -/
  | gateChange (k : Fin 32)
  /-- TMR_XCAP_READ (R515): A read of TMR_XCAP without PEEK returns the capture and clears CAPF. -/
  | tmrXcapRead (o : BitVec 12) (ch : Fin 32) (peek : Bool)
  /-- TMR_CS_WRITE (R513): Writing TMR_CS starts counting from 0 or holds the count, and a change of PS restarts the prescaler. -/
  | tmrCsWrite (o : BitVec 12) (ch : Fin 32) (v : Word)
  /-- TMR_TOP_WRITE (R512): A new TOP takes effect; a TOP below the count wraps it at the next tick. -/
  | tmrTopWrite (o : BitVec 12) (ch : Fin 32) (v : Word)
  /-- TMR_XCMP_WRITE (R514): A new compare value comes into force relative to the present count. -/
  | tmrXcmpWrite (o : BitVec 12) (ch : Fin 32) (v : Word)
  /-- GROUP_START (R517): A GO bit loads PHASE and enables every armed channel of a group in one cycle. -/
  | groupStart (o : BitVec 12) (groups : BitVec 8)
  /-- GROUP_STOP (R517): A STOP bit clears EN of every channel of a group in one cycle. -/
  | groupStop (o : BitVec 12) (groups : BitVec 8)
  /-- WDT_TICK (R521): Each microsecond, a counting watchdog decrements REMAIN. -/
  | wdtTick (w : Fin 16)
  /-- WDT_WARN (R523): REMAIN reaches WARN, setting WARNF. -/
  | wdtWarn (w : Fin 16)
  /-- WDT_EXPIRE (R523): REMAIN reaches 0, setting EXPF and causing a W reset, a U reset of SVC, or nothing further. -/
  | wdtExpire (w : Fin 16)
  /-- WDT_KICK (R522): A write to WDT_KICK forms a good kick, which reloads the watchdog, or a bad kick. -/
  | wdtKick (o : BitVec 12) (w : Fin 16) (v : Word)
  /-- WDT_CTL_WRITE (R521): Setting EN loads REMAIN with TIMEOUT; writes are ignored after LOCK. -/
  | wdtCtlWrite (w : Fin 16) (v : Word)
  /-- GPIO_OUT_WRITE (R529): A write to GPIO_OUT changes every affected pad of the bank at one GPIO edge, subject to ownership. -/
  | gpioOutWrite (o : BitVec 12) (b : Fin 6) (v : Word)
  /-- GPIO_SET_WRITE (R529): A write to GPIO_SET sets output bits of the bank at one GPIO edge. -/
  | gpioSetWrite (o : BitVec 12) (b : Fin 6) (v : Word)
  /-- GPIO_CLR_WRITE (R529): A write to GPIO_CLR clears output bits of the bank at one GPIO edge. -/
  | gpioClrWrite (o : BitVec 12) (b : Fin 6) (v : Word)
  /-- GPIO_OE_WRITE (R529): A write to GPIO_OE changes the output enables of the bank at one GPIO edge. -/
  | gpioOeWrite (o : BitVec 12) (b : Fin 6) (v : Word)
  /-- PIN_FILTER_ACCEPT (R531): A pin's filter accepts a new level, which GPIO_IN, the pin source and the input functions then see. -/
  | pinFilterAccept (p : Fin 192) (level : Bool)
  /-- PMUX_FUNC_WRITE (R535): A write that changes pin functions begins a hold of 2 PMUX cycles, freezing the pads. -/
  | pmuxFuncWrite (o : BitVec 12) (i : Fin 24) (v : Word)
  /-- PMUX_HOLD_END (R535): The hold ends, the incoming function takes the pad, and deferred writes are applied and acknowledged. -/
  | pmuxHoldEnd (i : Fin 24)
  /-- GPIO_RELEASE (R541): A write of RELEASE lets frozen pads take the bank's register values at the next GPIO edge. -/
  | gpioRelease (o : BitVec 12) (b : Fin 6)
  /-- VSB_RISE (R543): VSB rises through 2.60 V, causing a P reset. -/
  | vsbRise
  /-- VSB_FALL (R548): VSB falls below 2.45 V, ending AON-M and the main side, and the device enters Keep or Off. -/
  | vsbFall
  /-- MAIN_EN_AUTO_RISE (R554): MAIN_EN rises 10 ms after P unless the Postmaster holds it low. -/
  | mainEnAutoRise
  /-- PGOOD_RISE (R543): PGOOD rises with the main rails, causing an M reset that samples PROFILE_SEL. -/
  | pgoodRise (profileSel : BitVec 3)
  /-- PGOOD_FALL (R627): PGOOD falls for 1 us or more while MAIN_EN is high, isolating every main-side domain. -/
  | pgoodFall
  /-- NRESET_ASSERT (R543): nRESET is accepted low, causing an H reset. -/
  | nresetAssert
  /-- NRESET_DEASSERT (R545): nRESET rises, ending the cause so the reset sequence can continue. -/
  | nresetDeassert
  /-- SYS_RESET_KEY (R543): A write of 0x5AFE causes an S reset; any other value sets KEY_ERR. -/
  | sysResetKey (o : BitVec 12) (v : Word)
  /-- SYS_URST_WRITE (R547): A write applies a U reset to a power domain or a block, or sets URST_ERR. -/
  | sysUrstWrite (o : BitVec 12) (u : BitVec 9)
  /-- UNIT_RESET_DONE (R547): After outstanding writes have ended, the 16-cycle U reset of a unit completes and waiting accesses proceed. -/
  | unitResetDone (u : BitVec 9)
  /-- SYS_RUN_WRITE (R546): Setting a SYS_RUN bit releases a core from reset with its start values, or sets PD_ERR. -/
  | sysRunWrite (o : BitVec 12) (hi : Bool) (v : Word)
  /-- SYS_PD_CTL_WRITE (R557): Writing SYS_PD_CTL isolates, switches off, switches on or releases the selected domain, in order and under the conditions. -/
  | sysPdCtlWrite (o : BitVec 12) (v : Word)
  /-- PD_RAMP_DONE (R557): 20 us after being switched on, a domain sets PWR_OK. -/
  | pdRampDone (d : Fin 118)
  /-- NAP_ENTRY (R549): With MODE 1 and every Nap condition met, the main-side clocks stop. -/
  | napEntry
  /-- NAP_WAKE (R550): The main side leaves Nap, reloads replicas and sets SYS_EVT.WAKE. -/
  | napWake
  /-- DORMANT_ENTRY (R551): With MODE 2 and the conditions met, caches are written back, DRAM self-refreshes, registers are retained and MAIN_EN falls. -/
  | dormantEntry
  /-- DORMANT_WAKE (R552): A WAKE pin or the wake command raises MAIN_EN, restores the retained state and resumes through the ROM. -/
  | dormantWake (dramKept : Bool)
  /-- PGOOD_TIMEOUT (R552): PGOOD fails to rise within PGOOD_MAX, so MAIN_EN falls and the device stays Dormant. -/
  | pgoodTimeout
  /-- FUSE_PROGRAM_TITLE (R567): OP 1 programs a title key slot. -/
  | fuseProgramTitle (o : BitVec 12) (slot : Fin 4)
  /-- FUSE_PROGRAM_DEBUG (R567): OP 2 programs a debug key slot. -/
  | fuseProgramDebug (o : BitVec 12) (slot : Fin 4)
  /-- FUSE_REVOKE_TITLE (R567): OP 3 revokes a title key slot. -/
  | fuseRevokeTitle (o : BitVec 12) (slot : Fin 4)
  /-- FUSE_RAISE_ROLLBACK (R567): OP 4 adds 1 to the rollback count. -/
  | fuseRaiseRollback (o : BitVec 12)
  /-- FUSE_OP_DONE (R567): After 10 ms the fuse operation ends, BUSY clears and RESULT is set. -/
  | fuseOpDone
  /-- PCIE_INBOUND_REQUEST (R575): An inbound PCI Express request is performed with origin 224, or completes with UR, or is dropped. -/
  | pcieInboundRequest (target : Machine.Inbound) (write : Bool) (bytes : List Byte) (poison : Bool) (len : Fin 513)
  /-- PCIE_FUNDAMENTAL_RESET (R575): A fundamental reset from the host is a U reset of PCIE. -/
  | pcieFundamentalReset
  /-- PCIE_LINK_UP (R574): The PCI Express link comes up, setting LINK_UP. -/
  | pcieLinkUp (gen width : Fin 4) (l1 : Bool)
  /-- PCIE_LINK_DOWN (R574): The PCI Express link goes down, setting LINK_DOWN. -/
  | pcieLinkDown
  /-- PCIE_CFGDATA_ACCESS (R577): A read or write of PCIE_CFGDATA performs a configuration access at PCIE_CFGADDR. -/
  | pcieCfgdataAccess (o : BitVec 12) (write : Bool) (reply : Option Word)
  /-- PCIE_COMPLETION_TIMEOUT (R578): An outbound request receives no completion within CTO_MS, a transient failure. -/
  | pcieCompletionTimeout (o : BitVec 12)
  /-- STOR_ENABLE (R582): Setting STOR_CTL.EN initialises the eMMC or SD device in its fastest common mode. -/
  | storEnable (kind : BitVec 2) (dev : Option (Fin 5 × Fin 3 × Word))
  /-- STOR_BLK_GO (R582): GO starts a block transfer between the device and DRAM. -/
  | storBlkGo (v : Word)
  /-- STOR_BLK_DONE (R582): The block transfer ends, setting DONE or ERR. -/
  | storBlkDone (ok : Bool) (data : List Byte)
  /-- STOR_QCMD_GO (R580): GO issues a Quad-SPI command, or ends it LOST while the Postmaster holds the flash. -/
  | storQcmdGo (v : Word)
  /-- STOR_QCMD_DONE (R580): The Quad-SPI command ends, setting QDONE. -/
  | storQcmdDone (data : List Byte)
  /-- STOR_QDATA_ACCESS (R580): A read of STOR_QDATA removes 4 received bytes, and a write queues 4 bytes to send. -/
  | storQdataAccess (o : BitVec 12) (write : Bool) (v : Word)
  /-- CARD_CHANGE (R582): A card is inserted or removed, setting CARD_CHG. -/
  | cardChange (present : Bool)
  /-- USB_CONNECT_CHANGE (R583): A USB device connects or disconnects on a root port. -/
  | usbConnectChange (p : Fin 2) (speed : Fin 4)
  /-- USB_OVERCURRENT (R583): Overcurrent is reported on a port, and its PWR clears. -/
  | usbOvercurrent (p : Fin 2)
  /-- PM_RESTART (R585): The Postmaster's watchdog expires and the Postmaster restarts, ending open staging sessions. -/
  | pmRestart
  /-- PM_SCRUB (R585): Every 60 s the Postmaster ROM scrubs its RAM and the Daybook. -/
  | pmScrub
  /-- SMB_BLOCK_WRITE_APPEND (R587): Block Write to code 0x10 appends bytes to a request. -/
  | smbBlockWriteAppend (bytes : List Byte) (pecOk : Bool)
  /-- SMB_BLOCK_WRITE_SUBMIT (R587): Block Write to code 0x11 appends bytes and submits the request. -/
  | smbBlockWriteSubmit (bytes : List Byte) (pecOk : Bool)
  /-- SMB_BLOCK_READ (R587): Block Read from code 0x12 returns the next response bytes. -/
  | smbBlockRead
  /-- SMB_READ_STATE (R587): Read Byte from code 0x13 returns the transport state. -/
  | smbReadState
  /-- UDP_FRAME (R587): A command frame arrives as one UDP datagram on port 7463. -/
  | udpFrame (frame : List Byte)
  /-- INFO (R591): Return the identification and network information. -/
  | info
  /-- NONCE (R591): Issue a 16-byte nonce for the transport. -/
  | nonce
  /-- STATUS (R591): Return the main state and the key status words. -/
  | status
  /-- SENSORS (R591): Return all 28 sensor values. -/
  | sensors
  /-- DAYBOOK (R591): Return Daybook entries starting at a SEQ. -/
  | daybook
  /-- REPAIR (R591): Return the repair list. -/
  | repair
  /-- FU (R593): Post a request into PO Box slot 63 and return its receipt. -/
  | fu
  /-- POWER (R592): Switch the main rails off or on, or wake the device from Dormant. -/
  | power
  /-- RESET (R591): Cause an S reset with SOURCE 6. -/
  | reset
  /-- PROFILE_SET (R559): Set the next profile, optionally sticky, and end with an S reset. -/
  | profileSet
  /-- HOLD (R592): Hold the main side in H reset, or release it. -/
  | hold
  /-- STAGE_BEGIN (R594): Open a staging session, take the flash and erase the inactive slot. -/
  | stageBegin (erased : Bool) (held : List Byte)
  /-- STAGE_DATA (R595): Program bytes into the slot and read them back. -/
  | stageData (readBack : Bool) (held : List Byte)
  /-- STAGE_END (R595): Verify the staged manifest, optionally activate it, and give the flash back. -/
  | stageEnd (reads header : Bool) (held : List Byte)
  /-- STAGE_TIMEOUT (R595): A staging session ends without activation after 10 s with no STAGE_DATA. -/
  | stageTimeout
  /-- TWIN (R592): Write ZOW_CMD bits and return ZOW_STATUS. -/
  | twin
  /-- REPAIR_CLEAR (R602): Clear the repair list. -/
  | repairClear
  /-- NET_SET (R587): Set the network address by DHCP or statically. -/
  | netSet
  /-- OVERTEMP_TRIP (R592): A temperature channel reaches 115 C, so AON-M drops MAIN_EN within 1 ms and records KIND 10. -/
  | overtempTrip (ch : Fin 16) (v : Int)
  /-- SENS_SAMPLE (R601): Each millisecond SENS samples every channel, setting HOT or VOLT and updating the Courier operating point. -/
  | sensSample (vals : List Int)
  /-- DAYB_SWGO (R599): A write of GO appends a software entry, or sets SW_ERR for a bad origin. -/
  | daybSwgo (v : Word)
  /-- IDCODE (R603): JTAG instruction that selects the identification register. -/
  | idcode
  /-- SAMPLE_PRELOAD (R603): JTAG instruction that samples or preloads the boundary register. -/
  | samplePreload (preload : Option (BitVec 195))
  /-- EXTEST (R603): JTAG instruction that drives the boundary register at the SCAN level with the main side held. -/
  | extest (value : BitVec 195)
  /-- CHALLENGE (R603): JTAG instruction that captures the device serial and a nonce. -/
  | challenge
  /-- RESPONSE (R604): JTAG instruction that verifies a signed response and opens a session. -/
  | response (level : BitVec 8) (key : BitVec 256) (sig : BitVec 512)
  /-- DBGREG (R603): JTAG instruction that performs one DBG register access at Update-DR. -/
  | dbgreg (write : Bool) (off : BitVec 12) (data : Word)
  /-- BYPASS (R603): JTAG instruction that selects the 1-bit bypass register. -/
  | bypass
  /-- TAP_RESET (R606): The TAP enters Test-Logic-Reset, ending a JTAG session. -/
  | tapReset
  /-- DBG_OPEN (R605): Open a network debug session at the requested level. -/
  | dbgOpen (sender : BitVec 48) (frame : List Byte)
  /-- DBG_REG (R605): Perform up to 128 DBG register accesses. -/
  | dbgReg (sender : BitVec 48) (frame : List Byte)
  /-- DBG_CLOSE (R605): Close the network debug session. -/
  | dbgClose (sender : BitVec 48) (frame : List Byte)
  /-- SESSION_TIMEOUT (R606): A network session ends after 30 s without a frame. -/
  | sessionTimeout
  /-- DBG_HALT_WRITE (R608): A halt is requested for a core, or is ignored with NOT_AVAIL. -/
  | dbgHaltWrite (hi : Bool) (v : Word)
  /-- CORE_HALT (R609): The core halts at its next interrupt point, records its causes and freezes its groups. -/
  | coreHalt (k : Fin 63)
  /-- DBG_RESUME (R609): A halted core resumes at csr_dpc, reinstating any pending product. -/
  | dbgResume (hi : Bool) (v : Word)
  /-- DBG_STEP (R610): A halted core runs one instruction and halts with cause STEP. -/
  | dbgStep (core : BitVec 6)
  /-- DBG_FEED (R611): A fed word executes once on a halted core, or is refused. -/
  | dbgFeed (w : Word)
  /-- DBG_DAM_GO (R618): The debug access master performs one physical 32-bit access, with PEEK for reads. -/
  | dbgDamGo (ahi : BitVec 8) (write peek : Bool)
  /-- DOOR_CLOSE (R446): An FU_DOOR input accepts a change to closed after 32 samples, updating FU_PIN_IN.DOOR and setting DOOR_EV. -/
  | doorClose (d : Fin 4)
  /-- VSB_F_RISE (R399): VSB_F returns, AON-F starts afresh with its keep bank and RTC lost and FU_RTC_STAT.VALID at 0. -/
  | vsbFRise
  /-- VDDIO_FU_CHANGE (R441): VDDIO_FU falls or returns, releasing the meter outputs and stopping pulse counting, or restoring them. -/
  | vddioFuChange (present : Bool)
  /-- BANK_SUPPLY_CHANGE (R628): A bank rail VDDIO_G or VDDIO_L rises or falls while VSB is present, changing VOK and the bank's pads. -/
  | bankSupplyChange (b : Fin 6) (present : Bool)
  /-- PRESS_READ_RETURN (R335): A chunk source read of the Press returns its data, or fails transiently, permanently or poisoned. -/
  | pressReadReturn
  /-- ILLEGAL_INSTRUCTION (R66): A fetched word with an unassigned major or func, a non-zero reserved field, or a CP3 encoding executes with a true condition and raises its exception. -/
  | illegalInstruction (k : Fin 64) (word : Word)
  deriving DecidableEq, Repr

end Sys2Proof
end

