-- ==== Sys2Proof/Decode.lean ====
section
/-! DEFINITION. The command that a word of the opcode table spells.  The rows of this table give no bits: a command of the block
is no word, so no word spells one.  The decoder of the block's own 32-bit Glegan words, which DBG_FEED takes, is `fedDecode`
in Machine/Feed.lean. -/

namespace Sys2Proof

/-- The command that the table's bits spell: none, since no row of the table gives bits. -/
def decodeTableWord (_nbits _w : Nat) : Option Instr := none

end Sys2Proof
end

