-- ==== Sys2Proof/Config.lean ====
section
/-! DEFINITION. What one device fixes and the manual does not print, and the free values.  Every constant here is
opaque: nothing in Lean can see its value, so a claim holds whatever it is. -/

namespace Sys2Proof.Config

/-- A free value: what an open point of the manual gives, as a function of a counter the step advances (log entry 9). -/
opaque freeValue : Nat → BitVec 64

/-- The island of the unit with an origin number (R16 numbers 236 islands and prints no assignment). -/
opaque islandOf : Nat → Nat

/-- The power domain that an island lies in (R16: each island lies within one of the 118; no assignment is printed). -/
opaque islandDomain : Nat → Nat

/-- What the decoder of R162 makes of an error of three or more bits: a fixed function of the stored data, the data mask and the
check-bit mask, whose outcome the manual does not promise. -/
opaque eccOutcome : Nat → Nat → Nat → Nat

/-- The 8-byte device serial (R410, R603). -/
opaque serial : BitVec 64
/-- The Franking Unit's identity seed of 32 bytes and the archive secret of 64 bytes (R404, R410, R451). -/
opaque identitySeed : Nat → BitVec 8
opaque archiveSecret : Nat → BitVec 8
/-- The public key of the identity key (R410). -/
opaque identPub : Nat → BitVec 8

/-- SHA-512 of a byte string (RFC 6234, named by R565; 64 bytes). -/
opaque sha512 : List (BitVec 8) → List (BitVec 8)
/-- Ed25519 verification (RFC 8032, pure): public key, message, signature. -/
opaque ed25519Verify : List (BitVec 8) → List (BitVec 8) → List (BitVec 8) → Bool
/-- Ed25519 signature by the device's identity key (RFC 8032, pure; 64 bytes). -/
opaque ed25519Sign : List (BitVec 8) → List (BitVec 8)

/-- A notice segment holds a SEAL_OPEN region (R406; the segment's layout is not printed). -/
opaque hasSealOpen : List (BitVec 8) → Bool

/-- The bridge filters h (R385): filter, phase and tap, as the bits of a binary32. -/
opaque bridgeTap : Nat → Nat → Nat → BitVec 32

/-- The contents of the boot ROM, the FU ROM and the Postmaster ROM (R157, R404, R584), by physical address. -/
opaque romByte : Nat → BitVec 8

/-- The version of the Postmaster ROM that INFO returns (R591). -/
opaque pmRomVersion : BitVec 32

end Sys2Proof.Config
end

