-- ==== Sys2Proof/Machine/RegTable.lean ====
section
/-! DEFINITION. The register tables of the manual, chapter by chapter: for every register its offset, and for every
field its bits, its access code (R5), its reset value and the reset classes that restore it (R2, R3). -/

namespace Sys2Proof.Machine

/-- The access codes of R5. -/
inductive Acc | rw | ro | wo | w1c | w1s | rs | sl
  deriving DecidableEq, Repr

/-- One field of a register table: bits `msb:lsb`, access, reset value, and the classes that restore it, as a mask
(P 1, M 2, H 4, W 8, S 16, T 32, U 64, and 128 for the Franking Unit's own reset). -/
structure FieldDef where
  msb : Nat
  lsb : Nat
  acc : Acc
  val : Nat
  cls : Nat
  deriving DecidableEq, Repr

/-- One register, or a family of `count` registers `stride` apart. -/
structure RegDef where
  off : Nat
  stride : Nat
  count : Nat
  fields : List FieldDef
  deriving DecidableEq, Repr

namespace RegTable
/-- Restored on P M H W S T, kept on U. -/
def kU : Nat := 63
/-- Restored on every class. -/
def all : Nat := 127
/-- Restored on P and M only. -/
def pm : Nat := 3
/-- Restored on P only. -/
def p : Nat := 1
/-- Restored by no class: constant, or a view of other state. -/
def no : Nat := 0
/-- Restored at the Franking Unit's reset. -/
def fu : Nat := 128

/-- Register block 0x00, SYS. -/
def blk00 : List RegDef := [
  ⟨0x000, 0x0, 1, [⟨31, 16, .ro, 0x6400, no⟩, ⟨15, 12, .ro, 0xA, no⟩, ⟨11, 8, .ro, 1, no⟩]⟩,  -- SYS_ID
  ⟨0x004, 0x0, 1, [⟨3, 0, .ro, 0, no⟩, ⟨7, 4, .ro, 0, no⟩, ⟨13, 8, .w1c, 0, p⟩, ⟨14, 14, .w1c, 0, kU⟩]⟩,  -- SYS_RSTCAUSE
  ⟨0x008, 0x0, 1, [⟨31, 0, .wo, 0, kU⟩]⟩,  -- SYS_RESET
  -- SYS_PROFILE
  ⟨0x00C, 0x0, 1, [⟨2, 0, .ro, 0, no⟩, ⟨3, 3, .ro, 0, no⟩, ⟨6, 4, .ro, 0, no⟩, ⟨10, 8, .ro, 0, p⟩,
    ⟨11, 11, .ro, 0, p⟩, ⟨12, 12, .ro, 0, p⟩]⟩,
  ⟨0x010, 0x0, 1, [⟨25, 0, .rw, 0, kU⟩, ⟨31, 31, .w1s, 0, kU⟩]⟩,  -- SYS_EXPERT
  ⟨0x014, 0x0, 1, [⟨1, 0, .rw, 0, kU⟩, ⟨14, 8, .ro, 0, kU⟩]⟩,  -- SYS_SLEEP
  ⟨0x018, 0x0, 1, [⟨31, 2, .rw, 0, kU⟩]⟩,  -- SYS_RESUME
  -- SYS_BOOT
  ⟨0x01C, 0x0, 1, [⟨2, 0, .ro, 0, kU⟩, ⟨3, 3, .ro, 0, kU⟩, ⟨5, 4, .ro, 0, kU⟩, ⟨7, 6, .ro, 0, p⟩,
    ⟨8, 8, .w1s, 0, kU⟩, ⟨9, 9, .w1s, 0, kU⟩]⟩,
  ⟨0x020, 0x0, 1, [⟨6, 0, .rw, 0, kU⟩]⟩,  -- SYS_PD_SEL
  ⟨0x024, 0x0, 1, [⟨0, 0, .rw, 1, kU⟩, ⟨1, 1, .rw, 0, kU⟩, ⟨2, 2, .ro, 1, kU⟩, ⟨3, 3, .ro, 0, no⟩]⟩,  -- SYS_PD_CTL
  ⟨0x028, 0x0, 1, [⟨8, 0, .wo, 0, kU⟩]⟩,  -- SYS_URST
  ⟨0x02C, 0x0, 1, [⟨31, 0, .w1s, 1, kU⟩]⟩,  -- SYS_RUN_LO
  ⟨0x030, 0x0, 1, [⟨29, 0, .w1s, 0, kU⟩]⟩,  -- SYS_RUN_HI
  -- SYS_EVT
  ⟨0x034, 0x0, 1, [⟨0, 0, .w1c, 0, kU⟩, ⟨1, 1, .w1c, 0, kU⟩, ⟨2, 2, .w1c, 0, kU⟩, ⟨3, 3, .w1c, 0, kU⟩,
    ⟨4, 4, .w1c, 0, kU⟩]⟩,
  ⟨0x038, 0x0, 1, [⟨4, 0, .rw, 0, kU⟩]⟩,  -- SYS_IRQ_EN
  ⟨0x100, 0x0, 1, [⟨7, 0, .rw, 0x32, p⟩, ⟨15, 8, .rw, 1, p⟩]⟩,  -- SYS_XPWR
  -- SYS_XFUSE_CMD
  ⟨0x104, 0x0, 1, [⟨2, 0, .rw, 0, kU⟩, ⟨5, 4, .rw, 0, kU⟩, ⟨8, 8, .ro, 0, kU⟩, ⟨11, 9, .ro, 0, kU⟩,
    ⟨31, 31, .w1s, 0, kU⟩]⟩,
  ⟨0x108, 0x0, 1, [⟨3, 0, .ro, 0, no⟩, ⟨7, 4, .ro, 0, no⟩, ⟨9, 8, .ro, 0, no⟩, ⟨22, 16, .ro, 0, no⟩]⟩,  -- SYS_XFUSE_STAT
  ⟨0x140, 0x4, 16, [⟨31, 0, .rw, 0, kU⟩]⟩  -- SYS_XFUSE_DATA
  ]

/-- Register block 0x01, POST. -/
def blk01 : List RegDef := [
  ⟨0x000, 0x0, 1, [⟨31, 0, .rs, 0, p⟩]⟩,  -- POST_NOW_LO
  ⟨0x004, 0x0, 1, [⟨31, 0, .ro, 0, p⟩]⟩,  -- POST_NOW_HI
  -- POST_STATUS
  ⟨0x008, 0x0, 1, [⟨0, 0, .ro, 0, p⟩, ⟨1, 1, .ro, 1, p⟩, ⟨2, 2, .ro, 0, p⟩, ⟨3, 3, .w1c, 0, p⟩,
    ⟨4, 4, .w1c, 0, p⟩, ⟨5, 5, .w1c, 0, p⟩, ⟨31, 16, .ro, 0, p⟩]⟩,
  ⟨0x00C, 0x0, 1, [⟨3, 3, .rw, 0, kU⟩, ⟨4, 4, .rw, 0, kU⟩, ⟨5, 5, .rw, 0, kU⟩]⟩,  -- POST_IRQ_EN
  ⟨0x100, 0x0, 1, [⟨23, 0, .rw, 0, p⟩]⟩,  -- POST_TRIM
  ⟨0x104, 0x0, 1, [⟨2, 0, .rw, 4, p⟩]⟩,  -- POST_TOL
  ⟨0x108, 0x0, 1, [⟨7, 0, .ro, 0, p⟩, ⟨23, 8, .ro, 0, p⟩]⟩  -- POST_FAULT_ISL
  ]

/-- Register block 0x02, ICU. -/
def blk02 : List RegDef := [
  ⟨0x000, 0x0, 1, [⟨9, 0, .rw, 0, kU⟩, ⟨21, 16, .rw, 0, kU⟩]⟩,  -- ICU_SEL
  -- ICU_CFG
  ⟨0x004, 0x0, 1, [⟨0, 0, .rw, 0, kU⟩, ⟨3, 1, .rw, 0, kU⟩, ⟨4, 4, .rw, 0, kU⟩, ⟨5, 5, .rw, 0, kU⟩,
    ⟨14, 8, .rw, 0, kU⟩, ⟨17, 16, .ro, 0, all⟩, ⟨18, 18, .ro, 0, all⟩, ⟨19, 19, .w1c, 0, all⟩]⟩,
  ⟨0x008, 0x0, 1, [⟨9, 0, .rs, 0, all⟩, ⟨12, 12, .rs, 0, all⟩, ⟨13, 13, .rs, 0, all⟩, ⟨31, 31, .rs, 0, all⟩]⟩,  -- ICU_CLAIM
  ⟨0x00C, 0x0, 1, [⟨31, 0, .ro, 0, all⟩]⟩,  -- ICU_CLAIM_PM0
  ⟨0x010, 0x0, 1, [⟨15, 0, .ro, 0, all⟩, ⟨27, 16, .ro, 0, all⟩]⟩,  -- ICU_CLAIM_PM1
  ⟨0x014, 0x0, 1, [⟨9, 0, .wo, 0, all⟩]⟩,  -- ICU_EOI
  ⟨0x018, 0x0, 1, [⟨5, 0, .wo, 0, all⟩, ⟨10, 8, .wo, 0, all⟩]⟩,  -- ICU_SWI
  ⟨0x01C, 0x0, 1, [⟨9, 0, .wo, 0, all⟩]⟩,  -- ICU_SSET
  ⟨0x020, 0x0, 1, [⟨9, 0, .rw, 0, kU⟩]⟩,  -- ICU_MOD
  ⟨0x024, 0x0, 1, [⟨0, 0, .w1c, 0, kU⟩, ⟨1, 1, .w1c, 0, kU⟩, ⟨2, 2, .w1c, 0, kU⟩]⟩,  -- ICU_STAT
  ⟨0x100, 0x0, 1, [⟨9, 0, .rw, 0xA0, kU⟩]⟩,  -- ICU_XWIN
  ⟨0x200, 0x4, 65, [⟨19, 0, .rw, 0, kU⟩]⟩  -- ICU_XMOD
  ]

/-- Register block 0x03, TMR. -/
def blk03 : List RegDef := [
  ⟨0x000, 0x4, 32, [⟨31, 0, .rw, 0xFFFFFFFF, kU⟩]⟩,  -- TMR_TOP
  -- TMR_CS
  ⟨0x080, 0x4, 32, [⟨0, 0, .rw, 0, all⟩, ⟨1, 1, .rw, 0, kU⟩, ⟨5, 2, .rw, 0, kU⟩, ⟨8, 8, .rw, 0, kU⟩,
    ⟨9, 9, .rw, 0, kU⟩, ⟨10, 10, .rw, 0, kU⟩, ⟨11, 11, .rw, 0, kU⟩, ⟨16, 16, .w1c, 0, all⟩,
    ⟨17, 17, .w1c, 0, all⟩, ⟨18, 18, .ro, 0, all⟩, ⟨19, 19, .w1c, 0, all⟩]⟩,
  ⟨0x100, 0x0, 1, [⟨7, 0, .wo, 0, all⟩, ⟨15, 8, .wo, 0, all⟩]⟩,  -- TMR_XGSTART
  ⟨0x200, 0x20, 32, [⟨31, 0, .rw, 0, all⟩]⟩,  -- TMR_XCOUNT
  ⟨0x204, 0x20, 32, [⟨31, 0, .rw, 0, kU⟩]⟩,  -- TMR_XCMP
  ⟨0x208, 0x20, 32, [⟨31, 0, .ro, 0, kU⟩]⟩,  -- TMR_XCMPACT
  ⟨0x20C, 0x20, 32, [⟨31, 0, .rs, 0, all⟩]⟩,  -- TMR_XCAP
  -- TMR_XCFG
  ⟨0x210, 0x20, 32, [⟨0, 0, .rw, 0, kU⟩, ⟨3, 1, .rw, 0, kU⟩, ⟨5, 4, .rw, 0, kU⟩, ⟨7, 6, .rw, 0, kU⟩,
    ⟨8, 8, .rw, 0, kU⟩, ⟨9, 9, .rw, 0, kU⟩, ⟨11, 10, .rw, 0, kU⟩]⟩,
  ⟨0x214, 0x20, 32, [⟨31, 0, .rw, 0, kU⟩]⟩  -- TMR_XPHASE
  ]

/-- Register block 0x04, WDT. -/
def blk04 : List RegDef := [
  -- WDT_CTL
  ⟨0x000, 0x4, 16, [⟨0, 0, .rw, 0, kU⟩, ⟨1, 1, .w1s, 0, kU⟩, ⟨2, 2, .rw, 0, kU⟩, ⟨3, 3, .rw, 0, kU⟩,
    ⟨4, 4, .rw, 0, kU⟩, ⟨5, 5, .rw, 0, kU⟩, ⟨13, 8, .rw, 0, kU⟩, ⟨16, 16, .w1c, 0, kU⟩, ⟨17, 17, .w1c, 0, kU⟩,
    ⟨18, 18, .w1c, 0, kU⟩, ⟨19, 19, .rw, 0, kU⟩, ⟨20, 20, .rw, 0, kU⟩, ⟨21, 21, .rw, 0, kU⟩]⟩,
  ⟨0x040, 0x4, 16, [⟨31, 0, .rw, 0xF4240, kU⟩]⟩,  -- WDT_TIMEOUT
  ⟨0x080, 0x4, 16, [⟨31, 0, .wo, 0, all⟩]⟩,  -- WDT_KICK
  ⟨0x0C0, 0x4, 16, [⟨31, 0, .ro, 0, kU⟩]⟩,  -- WDT_REMAIN
  ⟨0x100, 0x4, 16, [⟨31, 0, .rw, 0x1E848, kU⟩]⟩,  -- WDT_XWARN
  ⟨0x140, 0x0, 1, [⟨23, 0, .rw, 0x3E8, kU⟩]⟩  -- WDT_XGRACE
  ]

/-- Register block 0x05, GPIO. -/
def blk05 : List RegDef := [
  ⟨0x000, 0x20, 6, [⟨31, 0, .rw, 0, kU⟩]⟩,  -- GPIO_OUT
  ⟨0x004, 0x20, 6, [⟨31, 0, .w1s, 0, kU⟩]⟩,  -- GPIO_SET
  ⟨0x008, 0x20, 6, [⟨31, 0, .w1c, 0, kU⟩]⟩,  -- GPIO_CLR
  ⟨0x00C, 0x20, 6, [⟨31, 0, .rw, 0, kU⟩]⟩,  -- GPIO_OE
  ⟨0x010, 0x20, 6, [⟨31, 0, .ro, 0, all⟩]⟩,  -- GPIO_IN
  -- GPIO_CFG
  ⟨0x014, 0x20, 6, [⟨1, 0, .rw, 1, kU⟩, ⟨3, 2, .rw, 0, kU⟩, ⟨4, 4, .rw, 0, pm⟩, ⟨5, 5, .wo, 0, all⟩,
    ⟨6, 6, .ro, 0, pm⟩, ⟨7, 7, .ro, 0, no⟩]⟩,
  ⟨0x018, 0x20, 6, [⟨11, 0, .rw, 0, kU⟩, ⟨31, 31, .rw, 0, kU⟩]⟩,  -- GPIO_OWN
  ⟨0x0C0, 0x0, 1, [⟨5, 0, .w1c, 0, kU⟩]⟩,  -- GPIO_STAT
  -- GPIO_XPULL_LO
  ⟨0x100, 0x20, 6, [⟨1, 0, .rw, 1, kU⟩, ⟨3, 2, .rw, 1, kU⟩, ⟨5, 4, .rw, 1, kU⟩, ⟨7, 6, .rw, 1, kU⟩,
    ⟨9, 8, .rw, 1, kU⟩, ⟨11, 10, .rw, 1, kU⟩, ⟨13, 12, .rw, 1, kU⟩, ⟨15, 14, .rw, 1, kU⟩, ⟨17, 16, .rw, 1, kU⟩,
    ⟨19, 18, .rw, 1, kU⟩, ⟨21, 20, .rw, 1, kU⟩, ⟨23, 22, .rw, 1, kU⟩, ⟨25, 24, .rw, 1, kU⟩, ⟨27, 26, .rw, 1, kU⟩,
    ⟨29, 28, .rw, 1, kU⟩, ⟨31, 30, .rw, 1, kU⟩]⟩,
  -- GPIO_XPULL_HI
  ⟨0x104, 0x20, 6, [⟨1, 0, .rw, 1, kU⟩, ⟨3, 2, .rw, 1, kU⟩, ⟨5, 4, .rw, 1, kU⟩, ⟨7, 6, .rw, 1, kU⟩,
    ⟨9, 8, .rw, 1, kU⟩, ⟨11, 10, .rw, 1, kU⟩, ⟨13, 12, .rw, 1, kU⟩, ⟨15, 14, .rw, 1, kU⟩, ⟨17, 16, .rw, 1, kU⟩,
    ⟨19, 18, .rw, 1, kU⟩, ⟨21, 20, .rw, 1, kU⟩, ⟨23, 22, .rw, 1, kU⟩, ⟨25, 24, .rw, 1, kU⟩, ⟨27, 26, .rw, 1, kU⟩,
    ⟨29, 28, .rw, 1, kU⟩, ⟨31, 30, .rw, 1, kU⟩]⟩,
  -- GPIO_XDRV_LO
  ⟨0x108, 0x20, 6, [⟨1, 0, .rw, 1, kU⟩, ⟨3, 2, .rw, 1, kU⟩, ⟨5, 4, .rw, 1, kU⟩, ⟨7, 6, .rw, 1, kU⟩,
    ⟨9, 8, .rw, 1, kU⟩, ⟨11, 10, .rw, 1, kU⟩, ⟨13, 12, .rw, 1, kU⟩, ⟨15, 14, .rw, 1, kU⟩, ⟨17, 16, .rw, 1, kU⟩,
    ⟨19, 18, .rw, 1, kU⟩, ⟨21, 20, .rw, 1, kU⟩, ⟨23, 22, .rw, 1, kU⟩, ⟨25, 24, .rw, 1, kU⟩, ⟨27, 26, .rw, 1, kU⟩,
    ⟨29, 28, .rw, 1, kU⟩, ⟨31, 30, .rw, 1, kU⟩]⟩,
  -- GPIO_XDRV_HI
  ⟨0x10C, 0x20, 6, [⟨1, 0, .rw, 1, kU⟩, ⟨3, 2, .rw, 1, kU⟩, ⟨5, 4, .rw, 1, kU⟩, ⟨7, 6, .rw, 1, kU⟩,
    ⟨9, 8, .rw, 1, kU⟩, ⟨11, 10, .rw, 1, kU⟩, ⟨13, 12, .rw, 1, kU⟩, ⟨15, 14, .rw, 1, kU⟩, ⟨17, 16, .rw, 1, kU⟩,
    ⟨19, 18, .rw, 1, kU⟩, ⟨21, 20, .rw, 1, kU⟩, ⟨23, 22, .rw, 1, kU⟩, ⟨25, 24, .rw, 1, kU⟩, ⟨27, 26, .rw, 1, kU⟩,
    ⟨29, 28, .rw, 1, kU⟩, ⟨31, 30, .rw, 1, kU⟩]⟩,
  -- GPIO_XFILT_LO
  ⟨0x110, 0x20, 6, [⟨1, 0, .rw, 0, kU⟩, ⟨3, 2, .rw, 0, kU⟩, ⟨5, 4, .rw, 0, kU⟩, ⟨7, 6, .rw, 0, kU⟩,
    ⟨9, 8, .rw, 0, kU⟩, ⟨11, 10, .rw, 0, kU⟩, ⟨13, 12, .rw, 0, kU⟩, ⟨15, 14, .rw, 0, kU⟩, ⟨17, 16, .rw, 0, kU⟩,
    ⟨19, 18, .rw, 0, kU⟩, ⟨21, 20, .rw, 0, kU⟩, ⟨23, 22, .rw, 0, kU⟩, ⟨25, 24, .rw, 0, kU⟩, ⟨27, 26, .rw, 0, kU⟩,
    ⟨29, 28, .rw, 0, kU⟩, ⟨31, 30, .rw, 0, kU⟩]⟩,
  -- GPIO_XFILT_HI
  ⟨0x114, 0x20, 6, [⟨1, 0, .rw, 0, kU⟩, ⟨3, 2, .rw, 0, kU⟩, ⟨5, 4, .rw, 0, kU⟩, ⟨7, 6, .rw, 0, kU⟩,
    ⟨9, 8, .rw, 0, kU⟩, ⟨11, 10, .rw, 0, kU⟩, ⟨13, 12, .rw, 0, kU⟩, ⟨15, 14, .rw, 0, kU⟩, ⟨17, 16, .rw, 0, kU⟩,
    ⟨19, 18, .rw, 0, kU⟩, ⟨21, 20, .rw, 0, kU⟩, ⟨23, 22, .rw, 0, kU⟩, ⟨25, 24, .rw, 0, kU⟩, ⟨27, 26, .rw, 0, kU⟩,
    ⟨29, 28, .rw, 0, kU⟩, ⟨31, 30, .rw, 0, kU⟩]⟩,
  ⟨0x118, 0x20, 6, [⟨31, 0, .rw, 0, kU⟩]⟩,  -- GPIO_XOD
  ⟨0x11C, 0x20, 6, [⟨7, 0, .rw, 0x14, kU⟩, ⟨23, 8, .rw, 0x7D0, kU⟩, ⟨24, 24, .rw, 0, kU⟩]⟩  -- GPIO_XTIME
  ]

/-- Register block 0x06, PMUX. -/
def blk06 : List RegDef := [
  -- PMUX_FUNC
  ⟨0x000, 0x4, 24, [⟨3, 0, .rw, 0, kU⟩, ⟨7, 4, .rw, 0, kU⟩, ⟨11, 8, .rw, 0, kU⟩, ⟨15, 12, .rw, 0, kU⟩,
    ⟨19, 16, .rw, 0, kU⟩, ⟨23, 20, .rw, 0, kU⟩, ⟨27, 24, .rw, 0, kU⟩, ⟨31, 28, .rw, 0, kU⟩]⟩,
  ⟨0x060, 0x0, 1, [⟨0, 0, .ro, 0, all⟩, ⟨1, 1, .w1c, 0, kU⟩, ⟨2, 2, .ro, 0, kU⟩]⟩  -- PMUX_STAT
  ]

/-- Register block 0x07, DMA. -/
def blk07 : List RegDef := [
  ⟨0x000, 0x0, 1, [⟨0, 0, .ro, 0, all⟩, ⟨1, 1, .w1c, 0, kU⟩]⟩,  -- DMA_STATUS
  ⟨0x004, 0x0, 1, [⟨31, 0, .wo, 0, all⟩]⟩,  -- DMA_GO
  ⟨0x008, 0x0, 1, [⟨31, 0, .wo, 0, all⟩]⟩,  -- DMA_ABORT
  ⟨0x00C, 0x0, 1, [⟨31, 0, .rw, 0xFFFFFFFF, all⟩]⟩,  -- DMA_ENABLE
  ⟨0x010, 0x0, 1, [⟨31, 0, .ro, 0, all⟩]⟩,  -- DMA_ACTIVE
  ⟨0x014, 0x0, 1, [⟨31, 0, .w1c, 0, kU⟩]⟩,  -- DMA_DONE_EV
  ⟨0x018, 0x0, 1, [⟨31, 0, .w1c, 0, kU⟩]⟩,  -- DMA_HALT_EV
  ⟨0x01C, 0x0, 1, [⟨31, 0, .rw, 0, kU⟩]⟩,  -- DMA_DONE_EN
  ⟨0x020, 0x0, 1, [⟨31, 0, .rw, 0, kU⟩]⟩,  -- DMA_HALT_EN
  ⟨0x024, 0x0, 1, [⟨31, 0, .rw, 0, kU⟩]⟩,  -- DMA_PRIO_LO
  ⟨0x028, 0x0, 1, [⟨31, 0, .rw, 0, kU⟩]⟩,  -- DMA_PRIO_HI
  ⟨0x080, 0x4, 32, [⟨31, 0, .rw, 0, kU⟩]⟩,  -- DMA_HEAD
  ⟨0x100, 0x0, 1, [⟨3, 0, .rw, 3, kU⟩]⟩,  -- DMA_XCFG
  ⟨0x200, 0x10, 32, [⟨31, 0, .ro, 0, kU⟩]⟩,  -- DMA_CH_CUR
  -- DMA_CH_STAT
  ⟨0x204, 0x10, 32, [⟨1, 0, .ro, 0, all⟩, ⟨4, 2, .ro, 0, kU⟩, ⟨5, 5, .ro, 0, kU⟩, ⟨10, 8, .ro, 0, kU⟩,
    ⟨15, 12, .ro, 0, kU⟩, ⟨25, 16, .ro, 0, kU⟩]⟩,
  ⟨0x208, 0x10, 32, [⟨31, 0, .ro, 0, kU⟩]⟩,  -- DMA_CH_OFF
  ⟨0x20C, 0x10, 32, [⟨31, 0, .ro, 0, kU⟩]⟩  -- DMA_CH_DONECNT
  ]

/-- Register block 0x08, PRESS. -/
def blk08 : List RegDef := [
  ⟨0x000, 0x0, 1, [⟨0, 0, .wo, 0, all⟩, ⟨1, 1, .wo, 0, all⟩, ⟨5, 4, .rw, 0, kU⟩]⟩,  -- PRESS_CTL
  ⟨0x004, 0x0, 1, [⟨30, 0, .rw, 0, kU⟩]⟩,  -- PRESS_LIST
  ⟨0x008, 0x0, 1, [⟨1, 0, .ro, 0, all⟩, ⟨4, 2, .ro, 0, kU⟩, ⟨5, 5, .ro, 0, kU⟩, ⟨10, 8, .ro, 0, kU⟩]⟩,  -- PRESS_STATUS
  ⟨0x00C, 0x0, 1, [⟨30, 0, .ro, 0, kU⟩]⟩,  -- PRESS_CUR
  ⟨0x010, 0x0, 1, [⟨13, 0, .ro, 0, kU⟩, ⟨29, 16, .ro, 0, kU⟩]⟩,  -- PRESS_POS
  ⟨0x014, 0x0, 1, [⟨0, 0, .w1c, 0, kU⟩, ⟨1, 1, .w1c, 0, kU⟩, ⟨2, 2, .w1c, 0, kU⟩]⟩,  -- PRESS_EVT
  ⟨0x018, 0x0, 1, [⟨2, 0, .rw, 0, kU⟩]⟩,  -- PRESS_IRQ_EN
  ⟨0x01C, 0x0, 1, [⟨31, 0, .ro, 0, kU⟩]⟩,  -- PRESS_CMDCNT
  ⟨0x100, 0x0, 1, [⟨15, 0, .rw, 0, kU⟩]⟩,  -- PRESS_XDEAD
  ⟨0x104, 0x0, 1, [⟨3, 0, .rw, 3, kU⟩]⟩  -- PRESS_XRETRY
  ]

/-- Register block 0x09, MEM. -/
def blk09 : List RegDef := [
  -- MEM_STATUS
  ⟨0x000, 0x0, 1, [⟨0, 0, .w1c, 0, kU⟩, ⟨1, 1, .w1c, 0, kU⟩, ⟨2, 2, .w1c, 0, kU⟩, ⟨3, 3, .w1c, 0, kU⟩,
    ⟨4, 4, .w1c, 0, kU⟩, ⟨5, 5, .w1c, 0, kU⟩]⟩,
  ⟨0x004, 0x0, 1, [⟨5, 0, .rw, 0, kU⟩]⟩,  -- MEM_IRQ_EN
  ⟨0x008, 0x0, 1, [⟨0, 0, .rw, 0, kU⟩, ⟨1, 1, .rw, 1, kU⟩, ⟨2, 2, .rw, 1, kU⟩, ⟨3, 3, .rw, 1, kU⟩]⟩,  -- MEM_CTL
  ⟨0x00C, 0x0, 1, [⟨31, 0, .ro, 0, kU⟩]⟩,  -- MEM_CE_COUNT
  ⟨0x010, 0x0, 1, [⟨7, 0, .ro, 0, kU⟩, ⟨8, 8, .ro, 0, kU⟩, ⟨9, 9, .ro, 0, kU⟩, ⟨23, 16, .ro, 0, kU⟩]⟩,  -- MEM_LAST_CE0
  ⟨0x014, 0x0, 1, [⟨31, 0, .ro, 0, kU⟩]⟩,  -- MEM_LAST_CE1
  ⟨0x018, 0x0, 1, [⟨11, 0, .ro, 0, kU⟩, ⟨19, 12, .ro, 0, kU⟩, ⟨20, 20, .ro, 0, kU⟩]⟩,  -- MEM_CUT
  ⟨0x100, 0x0, 1, [⟨15, 0, .rw, 0xE10, kU⟩]⟩,  -- MEM_SCRUB
  ⟨0x104, 0x0, 1, [⟨9, 0, .rw, 0x40, kU⟩, ⟨19, 16, .rw, 2, kU⟩, ⟨27, 24, .rw, 4, kU⟩]⟩,  -- MEM_ARB
  ⟨0x108, 0x0, 1, [⟨7, 0, .rw, 0x40, kU⟩]⟩,  -- MEM_EXT
  ⟨0x110, 0x0, 1, [⟨0, 0, .rw, 0, all⟩, ⟨1, 1, .rw, 0, all⟩, ⟨14, 8, .rw, 0, all⟩]⟩,  -- MEM_FLIP_CTL
  ⟨0x114, 0x0, 1, [⟨31, 2, .rw, 0, all⟩]⟩,  -- MEM_FLIP_ADDR
  ⟨0x118, 0x0, 1, [⟨31, 0, .rw, 0, all⟩]⟩,  -- MEM_FLIP_DATA
  ⟨0x120, 0x0, 1, [⟨7, 0, .rw, 0, kU⟩, ⟨13, 8, .rw, 0, kU⟩]⟩,  -- MEM_DLT_SEL
  ⟨0x124, 0x0, 1, [⟨23, 2, .rw, 0, pm⟩, ⟨31, 31, .rw, 0, pm⟩]⟩,  -- MEM_DLT_ENTRY
  ⟨0x130, 0x0, 1, [⟨15, 0, .ro, 0, kU⟩, ⟨31, 16, .ro, 0, kU⟩]⟩  -- MEM_SCRUB_STAT
  ]

/-- Register block 0x0A, DRAMC. -/
def blk0A : List RegDef := [
  -- DRAMC_STATUS
  ⟨0x000, 0x0, 1, [⟨3, 0, .ro, 0, kU⟩, ⟨4, 4, .ro, 0, kU⟩, ⟨6, 5, .ro, 0, kU⟩, ⟨8, 8, .w1c, 0, kU⟩,
    ⟨9, 9, .w1c, 0, kU⟩, ⟨10, 10, .w1c, 0, kU⟩, ⟨11, 11, .ro, 0, no⟩, ⟨13, 12, .ro, 0, kU⟩]⟩,
  ⟨0x004, 0x0, 1, [⟨10, 8, .rw, 0, kU⟩]⟩,  -- DRAMC_IRQ_EN
  ⟨0x008, 0x0, 1, [⟨3, 0, .rw, 0, pm⟩, ⟨7, 4, .rw, 0, pm⟩, ⟨30, 30, .rw, 0, pm⟩, ⟨31, 31, .rw, 0, pm⟩]⟩,  -- DRAMC_CONFIG
  ⟨0x00C, 0x0, 1, [⟨0, 0, .rw, 0, p⟩, ⟨2, 1, .rw, 0, p⟩]⟩,  -- DRAMC_DEGRADE
  ⟨0x010, 0x0, 1, [⟨27, 0, .ro, 0, kU⟩]⟩,  -- DRAMC_TOP
  ⟨0x014, 0x0, 1, [⟨23, 0, .ro, 0, kU⟩, ⟨31, 24, .ro, 0, kU⟩]⟩,  -- DRAMC_CE_COUNT
  ⟨0x018, 0x0, 1, [⟨31, 0, .ro, 0, kU⟩]⟩,  -- DRAMC_LAST_CE0
  ⟨0x01C, 0x0, 1, [⟨0, 0, .ro, 0, kU⟩, ⟨1, 1, .ro, 0, kU⟩]⟩,  -- DRAMC_LAST_CE1
  ⟨0x100, 0x0, 1, [⟨15, 0, .rw, 0x18, pm⟩]⟩,  -- DRAMC_SCRUB
  ⟨0x104, 0x0, 1, [⟨7, 0, .rw, 4, pm⟩, ⟨14, 8, .ro, 0, pm⟩, ⟨15, 15, .ro, 0, pm⟩]⟩,  -- DRAMC_RET
  ⟨0x108, 0x0, 1, [⟨5, 0, .rw, 0, kU⟩]⟩,  -- DRAMC_RETIDX
  ⟨0x10C, 0x0, 1, [⟨22, 0, .ro, 0, pm⟩, ⟨31, 31, .ro, 0, pm⟩]⟩,  -- DRAMC_RETDATA
  ⟨0x110, 0x0, 1, [⟨0, 0, .rw, 0, all⟩, ⟨15, 8, .rw, 0, all⟩]⟩,  -- DRAMC_FLIP_CTL
  ⟨0x114, 0x0, 1, [⟨31, 0, .rw, 0, all⟩]⟩,  -- DRAMC_FLIP_ADDR
  ⟨0x118, 0x0, 1, [⟨31, 0, .rw, 0, all⟩]⟩  -- DRAMC_FLIP_DATA
  ]

/-- Register block 0x0B, COMP. -/
def blk0B : List RegDef := [
  ⟨0x010, 0x8, 4, [⟨13, 0, .ro, 0, kU⟩, ⟨29, 16, .ro, 0, kU⟩, ⟨31, 31, .ro, 0, kU⟩]⟩,  -- COMP_NOTICE_A
  ⟨0x014, 0x8, 4, [⟨13, 0, .ro, 0, kU⟩, ⟨29, 16, .ro, 0, kU⟩]⟩,  -- COMP_NOTICE_B
  ⟨0x040, 0x20, 4, [⟨31, 0, .rw, 0, kU⟩]⟩,  -- COMP_SCENE_NEXT
  ⟨0x044, 0x20, 4, [⟨31, 0, .ro, 0, kU⟩]⟩,  -- COMP_SCENE_CUR
  ⟨0x048, 0x20, 4, [⟨23, 12, .rw, 0, kU⟩]⟩,  -- COMP_PH_BASE
  -- COMP_EVT
  ⟨0x04C, 0x20, 4, [⟨0, 0, .w1c, 0, kU⟩, ⟨1, 1, .w1c, 0, kU⟩, ⟨2, 2, .w1c, 0, kU⟩, ⟨3, 3, .w1c, 0, kU⟩,
    ⟨4, 4, .w1c, 0, kU⟩, ⟨5, 5, .w1c, 0, kU⟩, ⟨6, 6, .w1c, 0, kU⟩, ⟨7, 7, .w1c, 0, kU⟩, ⟨8, 8, .w1c, 0, kU⟩]⟩,
  ⟨0x050, 0x20, 4, [⟨8, 0, .rw, 0, kU⟩]⟩,  -- COMP_IRQ_EN
  ⟨0x054, 0x20, 4, [⟨16, 0, .ro, 0, kU⟩]⟩,  -- COMP_BIN_STAT
  ⟨0x058, 0x20, 4, [⟨23, 0, .ro, 0, kU⟩]⟩,  -- COMP_BIN_CYC
  ⟨0x05C, 0x20, 4, [⟨13, 0, .ro, 0, kU⟩, ⟨31, 31, .ro, 0, kU⟩]⟩,  -- COMP_OVF_LINE
  ⟨0x0C0, 0x8, 2, [⟨5, 0, .rw, 0, kU⟩, ⟨13, 8, .rw, 0xC, kU⟩, ⟨31, 31, .rw, 0, kU⟩]⟩,  -- COMP_GRP of 0 and 2
  ⟨0x0C4, 0x8, 2, [⟨5, 0, .rw, 0, kU⟩, ⟨13, 8, .rw, 0xC, kU⟩]⟩,  -- COMP_GRP of 1 and 3
  ⟨0x0D0, 0x0, 1, [⟨31, 0, .rw, 0, kU⟩]⟩,  -- COMP_RETIRE_LO
  ⟨0x0D4, 0x0, 1, [⟨15, 0, .rw, 0, kU⟩]⟩,  -- COMP_RETIRE_HI
  -- COMP_REVT
  ⟨0x0D8, 0x0, 1, [⟨0, 0, .w1c, 0, kU⟩, ⟨8, 8, .w1c, 0, kU⟩, ⟨16, 16, .w1c, 0, kU⟩, ⟨24, 24, .w1c, 0, kU⟩,
    ⟨1, 1, .w1c, 0, kU⟩, ⟨9, 9, .w1c, 0, kU⟩, ⟨17, 17, .w1c, 0, kU⟩, ⟨25, 25, .w1c, 0, kU⟩, ⟨2, 2, .w1c, 0, kU⟩,
    ⟨10, 10, .w1c, 0, kU⟩, ⟨18, 18, .w1c, 0, kU⟩, ⟨26, 26, .w1c, 0, kU⟩, ⟨3, 3, .w1c, 0, kU⟩,
    ⟨11, 11, .w1c, 0, kU⟩, ⟨19, 19, .w1c, 0, kU⟩, ⟨27, 27, .w1c, 0, kU⟩, ⟨4, 4, .w1c, 0, kU⟩,
    ⟨12, 12, .w1c, 0, kU⟩, ⟨20, 20, .w1c, 0, kU⟩, ⟨28, 28, .w1c, 0, kU⟩, ⟨5, 5, .w1c, 0, kU⟩,
    ⟨13, 13, .w1c, 0, kU⟩, ⟨21, 21, .w1c, 0, kU⟩, ⟨29, 29, .w1c, 0, kU⟩]⟩,
  ⟨0x0DC, 0x0, 1, [⟨5, 0, .rw, 0, kU⟩, ⟨13, 8, .rw, 0, kU⟩, ⟨21, 16, .rw, 0, kU⟩, ⟨29, 24, .rw, 0, kU⟩]⟩,  -- COMP_REVT_EN
  ⟨0x0E0, 0x4, 4, [⟨15, 2, .rw, 0, kU⟩]⟩,  -- COMP_RTAB
  ⟨0x0F0, 0x4, 4, [⟨5, 0, .ro, 0xC, kU⟩, ⟨6, 6, .ro, 0, kU⟩, ⟨11, 8, .ro, 0, kU⟩, ⟨25, 16, .ro, 0, kU⟩]⟩,  -- COMP_GSTAT
  ⟨0x100, 0x10, 4, [⟨5, 0, .rw, 8, kU⟩, ⟨8, 8, .rw, 0, kU⟩, ⟨9, 9, .rw, 0, kU⟩]⟩,  -- COMP_XCTL
  -- COMP_COEF_SEL
  ⟨0x140, 0x0, 1, [⟨1, 0, .rw, 0, kU⟩, ⟨2, 2, .rw, 0, kU⟩, ⟨3, 3, .rw, 0, kU⟩, ⟨9, 4, .rw, 0, kU⟩,
    ⟨12, 10, .rw, 0, kU⟩]⟩,
  ⟨0x144, 0x0, 1, [⟨11, 0, .rw, 0, pm⟩]⟩,  -- COMP_COEF_DATA
  ⟨0x180, 0x10, 4, [⟨6, 0, .rw, 0x40, kU⟩, ⟨11, 8, .rw, 0xF, kU⟩, ⟨12, 12, .rw, 1, kU⟩]⟩,  -- COMP_XGRP
  -- COMP_XSTAT
  ⟨0x184, 0x10, 4, [⟨13, 0, .ro, 0, kU⟩, ⟨14, 14, .ro, 0, kU⟩, ⟨15, 15, .ro, 0, kU⟩, ⟨21, 16, .ro, 0, kU⟩,
    ⟨31, 31, .ro, 0, kU⟩]⟩
  ]

/-- Register block 0x0C, OUT. The four output blocks share it. -/
def blk0C : List RegDef := [
  -- OUT_CTL
  ⟨0x000, 0x0, 1, [⟨0, 0, .rw, 0, kU⟩, ⟨2, 1, .rw, 0, kU⟩, ⟨3, 3, .rw, 0, kU⟩, ⟨4, 4, .rw, 0, kU⟩,
    ⟨5, 5, .rw, 0, kU⟩, ⟨6, 6, .rw, 0, kU⟩, ⟨10, 8, .rw, 0, kU⟩, ⟨11, 11, .rw, 0, kU⟩, ⟨12, 12, .rw, 0, kU⟩,
    ⟨31, 31, .ro, 0, all⟩]⟩,
  ⟨0x004, 0x0, 1, [⟨20, 0, .rw, 0, kU⟩]⟩,  -- OUT_PIXCLK
  ⟨0x008, 0x0, 1, [⟨13, 0, .rw, 0, kU⟩, ⟨29, 16, .rw, 0, kU⟩]⟩,  -- OUT_HTIME
  ⟨0x00C, 0x0, 1, [⟨13, 0, .rw, 0, kU⟩, ⟨29, 16, .rw, 0, kU⟩, ⟨30, 30, .rw, 0, kU⟩, ⟨31, 31, .rw, 0, kU⟩]⟩,  -- OUT_HSYNC
  ⟨0x010, 0x0, 1, [⟨13, 0, .rw, 0, kU⟩, ⟨23, 16, .rw, 0, kU⟩, ⟨29, 24, .rw, 0, kU⟩]⟩,  -- OUT_VTIME
  ⟨0x014, 0x0, 1, [⟨13, 0, .rw, 0, kU⟩, ⟨29, 16, .rw, 0, kU⟩]⟩,  -- OUT_VRANGE
  ⟨0x018, 0x0, 1, [⟨9, 0, .rw, 0, kU⟩, ⟨19, 10, .rw, 0, kU⟩, ⟨29, 20, .rw, 0, kU⟩]⟩,  -- OUT_BGCOLOR
  ⟨0x01C, 0x0, 1, [⟨0, 0, .w1s, 0, all⟩]⟩,  -- OUT_SCENE
  ⟨0x020, 0x0, 1, [⟨15, 0, .w1c, 0, kU⟩]⟩,  -- OUT_EVT
  ⟨0x024, 0x0, 1, [⟨15, 0, .rw, 0, kU⟩]⟩,  -- OUT_IRQ_EN
  ⟨0x028, 0x0, 1, [⟨13, 0, .rw, 0, kU⟩]⟩,  -- OUT_LINE_MATCH
  ⟨0x02C, 0x0, 1, [⟨13, 0, .ro, 0, all⟩, ⟨29, 16, .ro, 0, all⟩, ⟨30, 30, .ro, 0, all⟩]⟩,  -- OUT_BEAM
  ⟨0x030, 0x0, 1, [⟨31, 0, .rw, 0, kU⟩]⟩,  -- OUT_FRAME_COUNT
  ⟨0x034, 0x0, 1, [⟨13, 0, .ro, 0, kU⟩, ⟨29, 16, .ro, 0, kU⟩]⟩,  -- OUT_FRAME_STAT
  ⟨0x038, 0x0, 1, [⟨31, 0, .ro, 0, kU⟩]⟩,  -- OUT_SEAL
  ⟨0x03C, 0x0, 1, [⟨31, 0, .ro, 0, kU⟩]⟩,  -- OUT_SEAL_FRAME
  ⟨0x040, 0x0, 1, [⟨0, 0, .rw, 0, kU⟩, ⟨2, 1, .rw, 0, kU⟩, ⟨27, 16, .rw, 0, kU⟩]⟩,  -- OUT_CAP_CTL
  ⟨0x044, 0x0, 1, [⟨13, 0, .rs, 0, kU⟩, ⟨29, 16, .rs, 0, kU⟩, ⟨30, 30, .rs, 0, kU⟩]⟩,  -- OUT_CAP
  ⟨0x048, 0x0, 1, [⟨1, 0, .rw, 0, kU⟩, ⟨2, 2, .rw, 1, kU⟩, ⟨31, 31, .ro, 0, all⟩]⟩,  -- OUT_XBAR
  -- OUT_LINK
  ⟨0x04C, 0x0, 1, [⟨0, 0, .ro, 0, all⟩, ⟨1, 1, .ro, 0, all⟩, ⟨4, 2, .ro, 0, all⟩, ⟨6, 5, .ro, 0, all⟩,
    ⟨7, 7, .ro, 0, all⟩]⟩,
  -- OUT_AUX_CMD
  ⟨0x060, 0x0, 1, [⟨19, 0, .rw, 0, all⟩, ⟨23, 20, .rw, 0, all⟩, ⟨25, 24, .rw, 0, all⟩, ⟨27, 26, .ro, 0, all⟩,
    ⟨31, 31, .w1s, 0, all⟩]⟩,
  ⟨0x064, 0x4, 4, [⟨31, 0, .rw, 0, all⟩]⟩,  -- OUT_AUX_DATA
  ⟨0x100, 0x0, 1, [⟨8, 0, .rw, 0x64, kU⟩]⟩,  -- OUT_XFETCH
  -- OUT_XLINK
  ⟨0x104, 0x0, 1, [⟨0, 0, .rw, 0, kU⟩, ⟨3, 1, .rw, 0, kU⟩, ⟨5, 4, .rw, 2, kU⟩, ⟨6, 6, .rw, 0, kU⟩,
    ⟨7, 7, .wo, 0, all⟩]⟩,
  ⟨0x108, 0x0, 1, [⟨7, 0, .rw, 0, kU⟩, ⟨15, 8, .rw, 0, kU⟩, ⟨23, 16, .rw, 0, kU⟩, ⟨24, 24, .rw, 0, kU⟩]⟩  -- OUT_XDAC
  ]

/-- Register block 0x10, AUD. -/
def blk10 : List RegDef := [
  -- AUD_CTL
  ⟨0x000, 0x0, 1, [⟨2, 0, .rw, 0, kU⟩, ⟨3, 3, .rw, 0, kU⟩, ⟨4, 4, .rw, 0, kU⟩, ⟨6, 5, .rw, 0, kU⟩,
    ⟨8, 7, .rw, 0, kU⟩, ⟨14, 9, .rw, 0x2A, kU⟩]⟩,
  ⟨0x004, 0x0, 1, [⟨11, 0, .rw, 0x900, kU⟩]⟩,  -- AUD_HMAP
  -- AUD_EVT
  ⟨0x008, 0x0, 1, [⟨2, 0, .w1c, 0, kU⟩, ⟨5, 3, .w1c, 0, kU⟩, ⟨6, 6, .w1c, 0, kU⟩, ⟨7, 7, .w1c, 0, kU⟩,
    ⟨8, 8, .w1c, 0, kU⟩, ⟨9, 9, .w1c, 0, kU⟩, ⟨10, 10, .w1c, 0, kU⟩, ⟨11, 11, .w1c, 0, kU⟩, ⟨12, 12, .w1c, 0, kU⟩,
    ⟨13, 13, .w1c, 0, kU⟩, ⟨14, 14, .w1c, 0, kU⟩]⟩,
  ⟨0x00C, 0x0, 1, [⟨14, 0, .rw, 0, kU⟩]⟩,  -- AUD_IRQ_EN
  ⟨0x010, 0x4, 3, [⟨21, 8, .rw, 0, kU⟩, ⟨25, 24, .rw, 0, kU⟩, ⟨31, 31, .w1s, 0, all⟩]⟩,  -- AUD_SLIP_NEXT
  ⟨0x020, 0x4, 3, [⟨21, 0, .ro, 0, kU⟩]⟩,  -- AUD_SLIP_CUR
  ⟨0x030, 0x8, 3, [⟨31, 0, .rs, 0, kU⟩]⟩,  -- AUD_SN_LO
  ⟨0x034, 0x8, 3, [⟨31, 0, .ro, 0, kU⟩]⟩,  -- AUD_SN_HI
  ⟨0x048, 0x0, 1, [⟨21, 17, .rw, 0, kU⟩]⟩,  -- AUD_STATE_BASE
  ⟨0x04C, 0x0, 1, [⟨17, 6, .rw, 0, kU⟩]⟩,  -- AUD_VREC
  ⟨0x050, 0x4, 6, [⟨8, 0, .rw, 0, kU⟩, ⟨25, 16, .rw, 0, kU⟩]⟩,  -- AUD_VRANGE
  ⟨0x068, 0x4, 3, [⟨5, 0, .rw, 0, kU⟩, ⟨21, 10, .rw, 0, kU⟩, ⟨29, 24, .ro, 0, kU⟩]⟩,  -- AUD_VCQ
  ⟨0x074, 0x0, 1, [⟨8, 0, .rs, 0, kU⟩, ⟨30, 30, .w1c, 0, kU⟩, ⟨31, 31, .ro, 0, kU⟩]⟩,  -- AUD_VEND
  ⟨0x078, 0x0, 1, [⟨29, 0, .ro, 0, kU⟩]⟩,  -- AUD_LATE
  ⟨0x07C, 0x0, 1, [⟨7, 0, .ro, 0, kU⟩, ⟨9, 8, .ro, 0, kU⟩]⟩,  -- AUD_FAULT
  ⟨0x080, 0x0, 1, [⟨31, 0, .ro, 0, kU⟩]⟩,  -- AUD_VRATE
  ⟨0x084, 0x0, 1, [⟨3, 0, .rw, 0, kU⟩]⟩,  -- AUD_DYN_SEL
  -- AUD_DYN_CFG
  ⟨0x088, 0x0, 1, [⟨1, 0, .rw, 0, kU⟩, ⟨3, 2, .rw, 0, kU⟩, ⟨4, 4, .rw, 0, kU⟩, ⟨11, 5, .rw, 0, kU⟩,
    ⟨22, 12, .rw, 0xA, kU⟩]⟩,
  ⟨0x08C, 0x0, 1, [⟨31, 0, .rw, 0x3F800000, kU⟩]⟩,  -- AUD_DYN_THR
  ⟨0x090, 0x0, 1, [⟨31, 0, .rw, 0x3F800000, kU⟩]⟩,  -- AUD_DYN_MAKEUP
  ⟨0x094, 0x0, 1, [⟨10, 0, .rw, 0x190, kU⟩]⟩,  -- AUD_DYN_REL
  ⟨0x0A0, 0x4, 16, [⟨0, 0, .rw, 0, kU⟩, ⟨2, 1, .rw, 0, kU⟩, ⟨4, 3, .rw, 0, kU⟩, ⟨31, 31, .ro, 0, kU⟩]⟩,  -- AUD_BR_CFG
  ⟨0x110, 0x0, 1, [⟨31, 0, .rw, 0, kU⟩]⟩,  -- AUD_XDYN_ATT
  ⟨0x114, 0x0, 1, [⟨31, 0, .rw, 0, kU⟩]⟩,  -- AUD_XDYN_REL
  ⟨0x120, 0x0, 1, [⟨3, 0, .rw, 0, kU⟩, ⟨11, 4, .rw, 0, kU⟩, ⟨13, 12, .rw, 0, kU⟩]⟩,  -- AUD_XBRC_SEL
  ⟨0x124, 0x0, 1, [⟨31, 0, .ro, 0, no⟩]⟩  -- AUD_XBRC_DATA
  ]

/-- Register block 0x11, AIO. -/
def blk11 : List RegDef := [
  -- AIO_TDM
  ⟨0x000, 0x4, 4, [⟨0, 0, .rw, 0, kU⟩, ⟨2, 1, .rw, 0, kU⟩, ⟨4, 3, .rw, 0, kU⟩, ⟨8, 5, .rw, 1, kU⟩,
    ⟨10, 9, .rw, 2, kU⟩, ⟨12, 11, .rw, 2, kU⟩, ⟨13, 13, .rw, 0, kU⟩, ⟨14, 14, .rw, 0, kU⟩]⟩,
  -- AIO_SPDIF
  ⟨0x010, 0x0, 1, [⟨0, 0, .rw, 0, kU⟩, ⟨1, 1, .rw, 0, kU⟩, ⟨3, 2, .rw, 2, kU⟩, ⟨4, 4, .rw, 0, kU⟩,
    ⟨15, 8, .rw, 0, kU⟩]⟩,
  ⟨0x020, 0x4, 4, [⟨0, 0, .rw, 0, kU⟩, ⟨1, 1, .rw, 0, kU⟩, ⟨2, 2, .rw, 0, kU⟩, ⟨4, 3, .rw, 2, kU⟩]⟩,  -- AIO_DP
  ⟨0x030, 0x0, 1, [⟨1, 0, .w1c, 0, kU⟩, ⟨2, 2, .w1c, 0, kU⟩, ⟨3, 3, .w1c, 0, kU⟩, ⟨4, 4, .w1c, 0, kU⟩]⟩,  -- AIO_EVT
  ⟨0x034, 0x0, 1, [⟨4, 0, .rw, 0, kU⟩]⟩,  -- AIO_IRQ_EN
  ⟨0x100, 0x0, 1, [⟨3, 0, .rw, 0, kU⟩, ⟨7, 4, .rw, 0, kU⟩]⟩  -- AIO_XPAD
  ]

/-- Register block 0x12, PCIE. -/
def blk12 : List RegDef := [
  ⟨0x000, 0x0, 1, [⟨0, 0, .rw, 0, all⟩, ⟨2, 1, .rw, 0, kU⟩, ⟨4, 3, .rw, 3, kU⟩, ⟨6, 5, .rw, 2, kU⟩]⟩,  -- PCIE_CTL
  -- PCIE_STATUS
  ⟨0x004, 0x0, 1, [⟨0, 0, .ro, 0, all⟩, ⟨2, 1, .ro, 0, all⟩, ⟨4, 3, .ro, 0, all⟩, ⟨5, 5, .ro, 0, all⟩,
    ⟨6, 6, .ro, 1, all⟩]⟩,
  -- PCIE_EVT
  ⟨0x008, 0x0, 1, [⟨0, 0, .w1c, 0, kU⟩, ⟨1, 1, .w1c, 0, kU⟩, ⟨2, 2, .w1c, 0, kU⟩, ⟨3, 3, .w1c, 0, kU⟩,
    ⟨4, 4, .w1c, 0, kU⟩, ⟨5, 5, .w1c, 0, kU⟩]⟩,
  ⟨0x00C, 0x0, 1, [⟨5, 0, .rw, 0, kU⟩]⟩,  -- PCIE_IRQ_EN
  ⟨0x010, 0x0, 1, [⟨9, 0, .rw, 0, kU⟩]⟩,  -- PCIE_WIN
  ⟨0x014, 0x0, 1, [⟨28, 0, .rw, 0, kU⟩]⟩,  -- PCIE_OBASE
  ⟨0x018, 0x0, 1, [⟨11, 2, .rw, 0, all⟩, ⟨14, 12, .rw, 0, all⟩, ⟨19, 15, .rw, 0, all⟩, ⟨27, 20, .rw, 0, all⟩]⟩,  -- PCIE_CFGADDR
  ⟨0x01C, 0x0, 1, [⟨31, 0, .rs, 0, all⟩]⟩,  -- PCIE_CFGDATA
  ⟨0x020, 0x0, 1, [⟨31, 0, .w1c, 0, kU⟩]⟩,  -- PCIE_MSI
  ⟨0x100, 0x0, 1, [⟨15, 0, .ro, 0x1F6C, no⟩, ⟨31, 16, .ro, 0x6400, no⟩]⟩,  -- PCIE_XID
  ⟨0x104, 0x0, 1, [⟨15, 0, .rw, 0, kU⟩, ⟨31, 16, .rw, 0, kU⟩]⟩,  -- PCIE_XSUB
  ⟨0x108, 0x0, 1, [⟨15, 0, .rw, 0x32, kU⟩, ⟨16, 16, .rw, 1, kU⟩]⟩,  -- PCIE_XCFG
  ⟨0x10C, 0x0, 1, [⟨31, 0, .rw, 0xFEE00000, kU⟩]⟩  -- PCIE_XMSI
  ]

/-- Register block 0x13, STOR. -/
def blk13 : List RegDef := [
  ⟨0x000, 0x0, 1, [⟨0, 0, .rw, 0, kU⟩, ⟨2, 1, .rw, 0, kU⟩]⟩,  -- STOR_CTL
  -- STOR_STATUS
  ⟨0x004, 0x0, 1, [⟨0, 0, .ro, 0, all⟩, ⟨1, 1, .ro, 0, all⟩, ⟨2, 2, .ro, 0, all⟩, ⟨5, 3, .ro, 0, all⟩,
    ⟨7, 6, .ro, 0, all⟩]⟩,
  ⟨0x008, 0x0, 1, [⟨31, 0, .ro, 0, all⟩]⟩,  -- STOR_CAP
  ⟨0x00C, 0x0, 1, [⟨31, 0, .rw, 0, kU⟩]⟩,  -- STOR_BLK_LBA
  ⟨0x010, 0x0, 1, [⟨31, 0, .rw, 0, kU⟩]⟩,  -- STOR_BLK_ADDR
  ⟨0x014, 0x0, 1, [⟨15, 0, .rw, 0, kU⟩, ⟨30, 30, .rw, 0, kU⟩, ⟨31, 31, .wo, 0, all⟩]⟩,  -- STOR_BLK_CNT
  -- STOR_QCMD
  ⟨0x018, 0x0, 1, [⟨7, 0, .rw, 0, kU⟩, ⟨9, 8, .rw, 0, kU⟩, ⟨14, 10, .rw, 0, kU⟩, ⟨16, 15, .rw, 0, kU⟩,
    ⟨17, 17, .rw, 0, kU⟩, ⟨29, 18, .rw, 0, kU⟩, ⟨30, 30, .ro, 0, kU⟩, ⟨31, 31, .w1s, 0, all⟩]⟩,
  ⟨0x01C, 0x0, 1, [⟨31, 0, .rw, 0, kU⟩]⟩,  -- STOR_QADDR
  ⟨0x020, 0x0, 1, [⟨31, 0, .rs, 0, all⟩]⟩,  -- STOR_QDATA
  -- STOR_EVT
  ⟨0x024, 0x0, 1, [⟨0, 0, .w1c, 0, kU⟩, ⟨1, 1, .w1c, 0, kU⟩, ⟨2, 2, .w1c, 0, kU⟩, ⟨3, 3, .w1c, 0, kU⟩,
    ⟨4, 4, .w1c, 0, kU⟩]⟩,
  ⟨0x028, 0x0, 1, [⟨4, 0, .rw, 0, kU⟩]⟩,  -- STOR_IRQ_EN
  ⟨0x100, 0x0, 1, [⟨6, 0, .rw, 0x68, kU⟩]⟩  -- STOR_XQCLK
  ]

/-- Register block 0x14, USB. -/
def blk14 : List RegDef := [
  ⟨0x000, 0x0, 1, [⟨0, 0, .rw, 0, kU⟩, ⟨2, 1, .rw, 0, kU⟩]⟩,  -- USB_CTL
  ⟨0x004, 0x4, 2, [⟨0, 0, .ro, 0, all⟩, ⟨2, 1, .ro, 0, all⟩, ⟨3, 3, .ro, 0, all⟩]⟩,  -- USB_PORT
  ⟨0x00C, 0x0, 1, [⟨1, 0, .w1c, 0, kU⟩, ⟨3, 2, .w1c, 0, kU⟩]⟩,  -- USB_EVT
  ⟨0x010, 0x0, 1, [⟨3, 0, .rw, 0, kU⟩]⟩  -- USB_IRQ_EN
  ]

/-- Register block 0x15, ZOW. -/
def blk15 : List RegDef := [
  ⟨0x000, 0x0, 1, [⟨0, 0, .rw, 0, kU⟩, ⟨2, 1, .rw, 0, kU⟩, ⟨3, 3, .rw, 1, kU⟩, ⟨4, 4, .rw, 1, kU⟩]⟩,  -- ZOW_CTL
  -- ZOW_STATUS
  ⟨0x004, 0x0, 1, [⟨2, 0, .ro, 0, all⟩, ⟨4, 3, .ro, 0, all⟩, ⟨5, 5, .ro, 0, all⟩, ⟨6, 6, .ro, 0, all⟩,
    ⟨7, 7, .ro, 0, all⟩, ⟨10, 8, .ro, 0, all⟩, ⟨11, 11, .ro, 0, all⟩, ⟨15, 12, .ro, 0, all⟩, ⟨17, 16, .ro, 0, all⟩]⟩,
  ⟨0x008, 0x0, 1, [⟨16, 0, .w1c, 0, kU⟩]⟩,  -- ZOW_EVT
  ⟨0x00C, 0x0, 1, [⟨16, 0, .rw, 0, kU⟩]⟩,  -- ZOW_IRQ_EN
  ⟨0x010, 0x0, 1, [⟨5, 0, .wo, 0, all⟩]⟩,  -- ZOW_CMD
  ⟨0x014, 0x0, 1, [⟨31, 0, .rw, 0, kU⟩]⟩,  -- ZOW_SNAP_SRC
  ⟨0x018, 0x0, 1, [⟨11, 0, .rw, 0, kU⟩, ⟨31, 31, .wo, 0, all⟩]⟩,  -- ZOW_SNAP_POST
  ⟨0x01C, 0x0, 1, [⟨23, 0, .rw, 0, kU⟩, ⟨27, 24, .rw, 4, kU⟩]⟩,  -- ZOW_SNAP_RING
  ⟨0x020, 0x0, 1, [⟨31, 0, .ro, 0, kU⟩]⟩,  -- ZOW_SNAP_SEQ
  ⟨0x024, 0x0, 1, [⟨28, 0, .rw, 0, kU⟩]⟩,  -- ZOW_BULK_ADDR
  ⟨0x028, 0x0, 1, [⟨23, 0, .rw, 0, kU⟩]⟩,  -- ZOW_BULK_LEN
  ⟨0x040, 0x4, 8, [⟨14, 0, .rw, 0, kU⟩, ⟨29, 16, .rw, 0, kU⟩, ⟨31, 30, .rw, 0, kU⟩]⟩,  -- ZOW_WIN
  ⟨0x060, 0x0, 1, [⟨15, 0, .ro, 0, kU⟩, ⟨17, 16, .ro, 0, kU⟩]⟩,  -- ZOW_SEAL_MISS
  ⟨0x064, 0x0, 1, [⟨31, 0, .ro, 0, kU⟩]⟩,  -- ZOW_SEAL_LAST
  ⟨0x068, 0x0, 1, [⟨4, 0, .ro, 0, all⟩, ⟨12, 8, .ro, 0, all⟩, ⟨20, 16, .ro, 0, kU⟩]⟩,  -- ZOW_LANE
  ⟨0x100, 0x0, 1, [⟨7, 0, .rw, 0x64, kU⟩, ⟨11, 8, .rw, 5, kU⟩, ⟨23, 16, .rw, 0x14, kU⟩, ⟨31, 24, .rw, 4, kU⟩]⟩,  -- ZOW_XTIME
  -- ZOW_XLINK
  ⟨0x104, 0x0, 1, [⟨0, 0, .rw, 0, kU⟩, ⟨2, 1, .rw, 2, kU⟩, ⟨15, 8, .rw, 0x10, kU⟩, ⟨19, 16, .rw, 2, kU⟩,
    ⟨20, 20, .rw, 0, kU⟩]⟩,
  ⟨0x108, 0x0, 1, [⟨19, 0, .rw, 0x14444, kU⟩]⟩  -- ZOW_XSHARE
  ]

/-- Register block 0x16, POBOX. -/
def blk16 : List RegDef := [
  -- POBOX_STATUS
  ⟨0x000, 0x0, 1, [⟨0, 0, .ro, 0, no⟩, ⟨1, 1, .ro, 0, no⟩, ⟨3, 2, .ro, 0, no⟩, ⟨4, 4, .ro, 0, no⟩,
    ⟨5, 5, .ro, 0, no⟩, ⟨6, 6, .ro, 0, no⟩, ⟨7, 7, .ro, 0, no⟩, ⟨8, 8, .ro, 0, no⟩, ⟨9, 9, .ro, 0, no⟩,
    ⟨10, 10, .ro, 0, no⟩, ⟨11, 11, .ro, 0, no⟩, ⟨12, 12, .ro, 0, no⟩]⟩,
  ⟨0x004, 0x0, 1, [⟨31, 0, .ro, 0, no⟩]⟩,  -- POBOX_GEN
  ⟨0x008, 0x0, 1, [⟨5, 0, .rs, 0, all⟩, ⟨31, 31, .rs, 0, all⟩]⟩,  -- POBOX_CLAIM
  ⟨0x00C, 0x0, 1, [⟨5, 0, .rw, 0, kU⟩]⟩,  -- POBOX_SEL
  -- POBOX_SLOT
  ⟨0x010, 0x0, 1, [⟨2, 0, .ro, 0, no⟩, ⟨15, 4, .ro, 0, no⟩, ⟨23, 16, .ro, 0, no⟩, ⟨24, 24, .ro, 0, no⟩,
    ⟨25, 25, .ro, 0, no⟩]⟩,
  ⟨0x014, 0x0, 1, [⟨0, 0, .wo, 0, all⟩, ⟨1, 1, .wo, 0, all⟩, ⟨2, 2, .wo, 0, all⟩]⟩,  -- POBOX_CMD
  ⟨0x018, 0x0, 1, [⟨31, 0, .w1c, 0, kU⟩]⟩,  -- POBOX_DONE_LO
  ⟨0x01C, 0x0, 1, [⟨30, 0, .w1c, 0, kU⟩]⟩,  -- POBOX_DONE_HI
  ⟨0x020, 0x0, 1, [⟨31, 0, .rw, 0, kU⟩]⟩,  -- POBOX_DONE_EN_LO
  ⟨0x024, 0x0, 1, [⟨30, 0, .rw, 0, kU⟩]⟩,  -- POBOX_DONE_EN_HI
  ⟨0x028, 0x0, 1, [⟨0, 0, .w1c, 0, kU⟩, ⟨1, 1, .w1c, 0, kU⟩, ⟨2, 2, .w1c, 0, kU⟩]⟩,  -- POBOX_EVT
  ⟨0x02C, 0x0, 1, [⟨2, 0, .rw, 0, kU⟩]⟩,  -- POBOX_EVT_EN
  ⟨0x030, 0x0, 1, [⟨31, 0, .ro, 0, no⟩]⟩,  -- POBOX_RTC
  ⟨0x040, 0x4, 16, [⟨31, 0, .rw, 0, no⟩]⟩,  -- POBOX_DATA
  ⟨0x100, 0x0, 1, [⟨0, 0, .rw, 1, kU⟩]⟩,  -- POBOX_XCFG
  ⟨0x104, 0x0, 1, [⟨5, 0, .wo, 0, all⟩, ⟨31, 31, .wo, 0, all⟩]⟩,  -- POBOX_XFORCE
  ⟨0x108, 0x0, 1, [⟨3, 0, .sl, 0, all⟩]⟩  -- POBOX_XINJ
  ]

/-- Register block 0x17, DAYB. -/
def blk17 : List RegDef := [
  ⟨0x000, 0x0, 1, [⟨30, 0, .ro, 0, p⟩]⟩,  -- DAYB_HEAD
  ⟨0x004, 0x0, 1, [⟨30, 0, .ro, 0, p⟩]⟩,  -- DAYB_OLDEST
  ⟨0x008, 0x0, 1, [⟨30, 0, .rw, 0, kU⟩, ⟨31, 31, .rw, 0, kU⟩]⟩,  -- DAYB_RSEL
  ⟨0x00C, 0x0, 1, [⟨0, 0, .ro, 0, p⟩, ⟨1, 1, .ro, 0, p⟩]⟩,  -- DAYB_STAT
  ⟨0x010, 0x4, 8, [⟨31, 0, .ro, 0, no⟩]⟩,  -- DAYB_RDATA
  ⟨0x030, 0x4, 4, [⟨31, 0, .rw, 0, kU⟩]⟩,  -- DAYB_SW
  ⟨0x040, 0x0, 1, [⟨11, 0, .wo, 0, all⟩, ⟨23, 16, .wo, 0, all⟩, ⟨31, 31, .wo, 0, all⟩]⟩,  -- DAYB_SWGO
  ⟨0x044, 0x0, 1, [⟨0, 0, .w1c, 0, kU⟩, ⟨1, 1, .w1c, 0, kU⟩, ⟨2, 2, .w1c, 0, kU⟩]⟩,  -- DAYB_EVT
  ⟨0x048, 0x0, 1, [⟨2, 0, .rw, 0, kU⟩]⟩,  -- DAYB_IRQ_EN
  ⟨0x050, 0x0, 1, [⟨5, 0, .rw, 0, kU⟩, ⟨22, 16, .ro, 0, p⟩]⟩,  -- DAYB_REPSEL
  ⟨0x054, 0x4, 2, [⟨31, 0, .ro, 0, p⟩]⟩  -- DAYB_REPDATA
  ]

/-- Register block 0x18, DBG. -/
def blk18 : List RegDef := [
  ⟨0x000, 0x0, 1, [⟨1, 0, .ro, 0, pm⟩, ⟨4, 2, .ro, 0, pm⟩]⟩,  -- DBG_STATUS
  ⟨0x004, 0x0, 1, [⟨0, 0, .rw, 0, pm⟩, ⟨1, 1, .rw, 0, pm⟩]⟩,  -- DBG_CTL
  ⟨0x008, 0x0, 1, [⟨31, 0, .w1s, 0, all⟩]⟩,  -- DBG_HALT_LO
  ⟨0x00C, 0x0, 1, [⟨31, 0, .w1s, 0, all⟩]⟩,  -- DBG_HALT_HI
  ⟨0x010, 0x0, 1, [⟨31, 0, .wo, 0, all⟩]⟩,  -- DBG_RESUME_LO
  ⟨0x014, 0x0, 1, [⟨31, 0, .wo, 0, all⟩]⟩,  -- DBG_RESUME_HI
  ⟨0x018, 0x0, 1, [⟨5, 0, .wo, 0, all⟩, ⟨31, 31, .wo, 0, all⟩]⟩,  -- DBG_STEP
  ⟨0x01C, 0x0, 1, [⟨5, 0, .rw, 0, kU⟩]⟩,  -- DBG_FEED_SEL
  ⟨0x020, 0x0, 1, [⟨31, 0, .wo, 0, all⟩]⟩,  -- DBG_FEED
  ⟨0x024, 0x0, 1, [⟨0, 0, .ro, 0, all⟩, ⟨2, 1, .ro, 0, kU⟩, ⟨13, 8, .ro, 0, kU⟩]⟩,  -- DBG_FEED_STAT
  ⟨0x028, 0x0, 1, [⟨31, 0, .rw, 0, no⟩]⟩,  -- DBG_DATA
  ⟨0x030, 0x0, 1, [⟨31, 2, .rw, 0, kU⟩]⟩,  -- DBG_DAM_ADDR
  -- DBG_DAM_CTL
  ⟨0x034, 0x0, 1, [⟨7, 0, .rw, 0, kU⟩, ⟨8, 8, .rw, 0, kU⟩, ⟨9, 9, .rw, 1, kU⟩, ⟨13, 12, .ro, 0, kU⟩,
    ⟨30, 30, .ro, 0, all⟩, ⟨31, 31, .w1s, 0, all⟩]⟩,
  ⟨0x038, 0x0, 1, [⟨31, 0, .rw, 0, kU⟩]⟩,  -- DBG_DAM_DATA
  ⟨0x040, 0x0, 1, [⟨0, 0, .w1c, 0, kU⟩, ⟨1, 1, .w1c, 0, kU⟩, ⟨2, 2, .w1c, 0, kU⟩, ⟨3, 3, .w1c, 0, kU⟩]⟩,  -- DBG_EVT
  ⟨0x044, 0x0, 1, [⟨3, 0, .rw, 0, kU⟩]⟩,  -- DBG_IRQ_EN
  ⟨0x100, 0x10, 8, [⟨31, 0, .rw, 0, kU⟩]⟩,  -- DBG_FGRP_CORE_LO
  ⟨0x104, 0x10, 8, [⟨29, 0, .rw, 0, kU⟩]⟩,  -- DBG_FGRP_CORE_HI
  ⟨0x108, 0x10, 8, [⟨7, 0, .rw, 0, kU⟩, ⟨8, 8, .rw, 0, kU⟩, ⟨9, 9, .rw, 0, kU⟩, ⟨12, 10, .rw, 0, kU⟩]⟩  -- DBG_FGRP_UNIT
  ]

/-- Register block 0x19, SENS. -/
def blk19 : List RegDef := [
  ⟨0x000, 0x0, 1, [⟨4, 0, .rw, 0, kU⟩]⟩,  -- SENS_SEL
  ⟨0x004, 0x0, 1, [⟨15, 0, .ro, 0, all⟩, ⟨31, 16, .ro, 0, all⟩]⟩,  -- SENS_VAL
  ⟨0x008, 0x0, 1, [⟨0, 0, .w1c, 0, kU⟩, ⟨1, 1, .w1c, 0, kU⟩]⟩,  -- SENS_EVT
  ⟨0x00C, 0x0, 1, [⟨1, 0, .rw, 0, kU⟩]⟩,  -- SENS_IRQ_EN
  ⟨0x100, 0x0, 1, [⟨15, 0, .rw, 0x320, kU⟩, ⟨23, 16, .rw, 0x32, kU⟩]⟩  -- SENS_XLIM
  ]

/-- Register block 0x1A, FU. The Franking Unit's device window (R404); no block of the main side. -/
def blk1A : List RegDef := [
  ⟨0x000, 0x0, 1, [⟨31, 0, .rw, 0, no⟩]⟩,  -- FU_RTC
  ⟨0x004, 0x0, 1, [⟨0, 0, .rw, 0, no⟩, ⟨1, 1, .ro, 0, no⟩]⟩,  -- FU_RTC_STAT
  ⟨0x008, 0x0, 1, [⟨7, 0, .rw, 0x80, fu⟩, ⟨25, 8, .ro, 0, fu⟩]⟩,  -- FU_TRIM
  ⟨0x00C, 0x0, 1, [⟨31, 0, .ro, 0, fu⟩]⟩,  -- FU_USEC
  ⟨0x020, 0x0, 1, [⟨7, 0, .ro, 0, fu⟩, ⟨11, 8, .ro, 0, no⟩, ⟨23, 16, .ro, 0, fu⟩]⟩,  -- FU_PIN_IN
  ⟨0x024, 0x0, 1, [⟨7, 0, .w1c, 0, fu⟩, ⟨11, 8, .w1c, 0, fu⟩, ⟨23, 16, .w1c, 0, fu⟩]⟩,  -- FU_PIN_EV
  ⟨0x040, 0x4, 8, [⟨31, 0, .ro, 0, fu⟩]⟩,  -- FU_PULSE_T
  ⟨0x060, 0x4, 8, [⟨0, 0, .rw, 0, fu⟩, ⟨9, 1, .rw, 0x64, fu⟩]⟩,  -- FU_PULSE_CFG
  ⟨0x080, 0x0, 1, [⟨7, 0, .rw, 0, fu⟩]⟩,  -- FU_MOUT
  ⟨0x084, 0x0, 1, [⟨9, 0, .rw, 0x3E8, fu⟩, ⟨31, 16, .wo, 0, fu⟩]⟩,  -- FU_WDT
  ⟨0x088, 0x0, 1, [⟨2, 0, .w1c, 0, no⟩, ⟨3, 3, .w1c, 0, no⟩]⟩,  -- FU_TAMPER
  -- FU_SPI_CMD
  ⟨0x0A0, 0x0, 1, [⟨7, 0, .rw, 0, fu⟩, ⟨9, 8, .rw, 0, fu⟩, ⟨21, 10, .rw, 0, fu⟩, ⟨22, 22, .rw, 0, fu⟩,
    ⟨30, 30, .ro, 0, fu⟩, ⟨31, 31, .w1s, 0, fu⟩]⟩,
  -- FU_MIR_STAT
  ⟨0x0C4, 0x0, 1, [⟨7, 0, .ro, 0x80, fu⟩, ⟨15, 8, .ro, 0, fu⟩, ⟨16, 16, .ro, 0, fu⟩, ⟨17, 17, .wo, 0, fu⟩,
    ⟨18, 18, .ro, 0, fu⟩, ⟨20, 19, .ro, 0, fu⟩]⟩,
  -- FU_VIEW
  ⟨0x0E0, 0x0, 1, [⟨2, 0, .ro, 0, no⟩, ⟨8, 8, .ro, 0, no⟩, ⟨12, 12, .ro, 0, no⟩, ⟨16, 16, .ro, 0, no⟩,
    ⟨20, 20, .ro, 0, no⟩, ⟨9, 9, .ro, 0, no⟩, ⟨13, 13, .ro, 0, no⟩, ⟨17, 17, .ro, 0, no⟩, ⟨21, 21, .ro, 0, no⟩,
    ⟨10, 10, .ro, 0, no⟩, ⟨14, 14, .ro, 0, no⟩, ⟨18, 18, .ro, 0, no⟩, ⟨22, 22, .ro, 0, no⟩, ⟨11, 11, .ro, 0, no⟩,
    ⟨15, 15, .ro, 0, no⟩, ⟨19, 19, .ro, 0, no⟩, ⟨23, 23, .ro, 0, no⟩]⟩,
  -- FU_NOTICE_CTL
  ⟨0x100, 0x10, 4, [⟨0, 0, .rw, 0, fu⟩, ⟨1, 1, .ro, 0, fu⟩, ⟨2, 2, .rw, 1, fu⟩, ⟨3, 3, .w1c, 0, fu⟩,
    ⟨4, 4, .w1c, 0, fu⟩, ⟨5, 5, .w1c, 0, fu⟩]⟩,
  ⟨0x104, 0x10, 4, [⟨13, 0, .rw, 0, fu⟩, ⟨29, 16, .rw, 0, fu⟩, ⟨31, 31, .rw, 0, fu⟩]⟩,  -- FU_NOTICE_RECT_A
  ⟨0x108, 0x10, 4, [⟨13, 0, .rw, 0, fu⟩, ⟨29, 16, .rw, 0, fu⟩]⟩,  -- FU_NOTICE_RECT_B
  ⟨0x0A4, 0x0, 1, [⟨31, 0, .rw, 0, fu⟩]⟩,  -- FU_SPI_ADDR
  ⟨0x0A8, 0x0, 1, [⟨31, 0, .rs, 0, no⟩]⟩,  -- FU_SPI_DATA
  ⟨0x0C0, 0x0, 1, [⟨31, 0, .rs, 0, no⟩]⟩  -- FU_MIR_DATA
  ]

end RegTable

/-- The registers of block `b` (R8); the four output blocks 0x0C to 0x0F share one table. -/
def blockRegs (b : Nat) : List RegDef :=
  match b with
  | 0x00 => RegTable.blk00
  | 0x01 => RegTable.blk01
  | 0x02 => RegTable.blk02
  | 0x03 => RegTable.blk03
  | 0x04 => RegTable.blk04
  | 0x05 => RegTable.blk05
  | 0x06 => RegTable.blk06
  | 0x07 => RegTable.blk07
  | 0x08 => RegTable.blk08
  | 0x09 => RegTable.blk09
  | 0x0A => RegTable.blk0A
  | 0x0B => RegTable.blk0B
  | 0x0C | 0x0D | 0x0E | 0x0F => RegTable.blk0C
  | 0x10 => RegTable.blk10
  | 0x11 => RegTable.blk11
  | 0x12 => RegTable.blk12
  | 0x13 => RegTable.blk13
  | 0x14 => RegTable.blk14
  | 0x15 => RegTable.blk15
  | 0x16 => RegTable.blk16
  | 0x17 => RegTable.blk17
  | 0x18 => RegTable.blk18
  | 0x19 => RegTable.blk19
  | 0x1A => RegTable.blk1A
  | _ => []

/-- The key of the register at offset `off` of block `b`. -/
def rkey (b off : Nat) : Nat := b * 0x1000 + off

/-- Register `d` covers offset `off`. -/
def RegDef.covers (d : RegDef) (off : Nat) : Bool :=
  if d.stride = 0 then off = d.off
  else Nat.ble d.off off && (off - d.off) % d.stride = 0 && Nat.blt ((off - d.off) / d.stride) d.count

/-- The fields of the register with key `k`; none where no register is assigned (R10). -/
def regFields (k : Nat) : List FieldDef :=
  match (blockRegs (k / 0x1000)).find? (fun d => d.covers (k % 0x1000)) with
  | some d => d.fields
  | none => []

/-- The reset value of field `f` of register `k`, for the few whose value depends on the index: COMP_GRP_o.FIRST is
12 × o (R283), OUT_XBAR.SRC is the port's own number (R322), GPIO_XTIME_b.SLOW is 1 for banks 4 and 5 (R542), and
SYS_RUN_HI is 0 (R571). -/
def fieldReset (k : Nat) (f : FieldDef) : Nat :=
  if Nat.ble 0xB0C0 k && Nat.ble k 0xB0CC && f.lsb = 0 then 12 * ((k - 0xB0C0) / 4)
  else if Nat.ble 0xC (k / 0x1000) && Nat.ble (k / 0x1000) 0xF && k % 0x1000 = 0x48 && f.lsb = 0 then k / 0x1000 - 0xC
  else if k / 0x1000 = 5 && (k % 0x1000 = 0x19C || k % 0x1000 = 0x1BC) && f.lsb = 24 then 1
  else f.val

/-- The value of register `k` after P: every field at its reset value, reserved bits 0 (R7). -/
def regReset (k : Nat) : Word :=
  Word.of ((regFields k).foldl (fun a f => a + (fieldReset k f % 2 ^ (f.msb + 1 - f.lsb)) <<< f.lsb) 0)

end Sys2Proof.Machine
end

