-- ==== Sys2Proof/Machine/Fields.lean ====
section
/-! DEFINITION. Names for the registers and fields of the register tables, as the manual spells them.  A register's
name is its key; a field's name is its key and bits.  Families take their index. -/

namespace Sys2Proof.Machine

/-- A field: the key of its register and its bits. -/
structure Fld where
  key : Nat
  msb : Nat
  lsb : Nat
  deriving DecidableEq, Repr

def SYS_ID : Nat := 0x0
def SYS_ID_PART : Fld := ⟨SYS_ID, 31, 16⟩
def SYS_ID_STEP_LETTER : Fld := ⟨SYS_ID, 15, 12⟩
def SYS_ID_STEP_NUM : Fld := ⟨SYS_ID, 11, 8⟩
def SYS_RSTCAUSE : Nat := 0x4
def SYS_RSTCAUSE_CLASS : Fld := ⟨SYS_RSTCAUSE, 3, 0⟩
def SYS_RSTCAUSE_SOURCE : Fld := ⟨SYS_RSTCAUSE, 7, 4⟩
def SYS_RSTCAUSE_ACCUM : Fld := ⟨SYS_RSTCAUSE, 13, 8⟩
def SYS_RSTCAUSE_DORMANT_WAKE : Fld := ⟨SYS_RSTCAUSE, 14, 14⟩
def SYS_RESET : Nat := 0x8
def SYS_RESET_KEY : Fld := ⟨SYS_RESET, 31, 0⟩
def SYS_PROFILE : Nat := 0xC
def SYS_PROFILE_CUR : Fld := ⟨SYS_PROFILE, 2, 0⟩
def SYS_PROFILE_SRC : Fld := ⟨SYS_PROFILE, 3, 3⟩
def SYS_PROFILE_PINS : Fld := ⟨SYS_PROFILE, 6, 4⟩
def SYS_PROFILE_NEXT : Fld := ⟨SYS_PROFILE, 10, 8⟩
def SYS_PROFILE_PEND : Fld := ⟨SYS_PROFILE, 11, 11⟩
def SYS_PROFILE_STICKY : Fld := ⟨SYS_PROFILE, 12, 12⟩
def SYS_EXPERT : Nat := 0x10
def SYS_EXPERT_EN : Fld := ⟨SYS_EXPERT, 25, 0⟩
def SYS_EXPERT_LOCK : Fld := ⟨SYS_EXPERT, 31, 31⟩
def SYS_SLEEP : Nat := 0x14
def SYS_SLEEP_MODE : Fld := ⟨SYS_SLEEP, 1, 0⟩
def SYS_SLEEP_BLOCK : Fld := ⟨SYS_SLEEP, 14, 8⟩
def SYS_RESUME : Nat := 0x18
def SYS_RESUME_ADDR : Fld := ⟨SYS_RESUME, 31, 2⟩
def SYS_BOOT : Nat := 0x1C
def SYS_BOOT_RESULT : Fld := ⟨SYS_BOOT, 2, 0⟩
def SYS_BOOT_SLOT : Fld := ⟨SYS_BOOT, 3, 3⟩
def SYS_BOOT_KEYSLOT : Fld := ⟨SYS_BOOT, 5, 4⟩
def SYS_BOOT_TRIES : Fld := ⟨SYS_BOOT, 7, 6⟩
def SYS_BOOT_BOOT_OK : Fld := ⟨SYS_BOOT, 8, 8⟩
def SYS_BOOT_FUSE_LOCK : Fld := ⟨SYS_BOOT, 9, 9⟩
def SYS_PD_SEL : Nat := 0x20
def SYS_PD_SEL_DOMAIN : Fld := ⟨SYS_PD_SEL, 6, 0⟩
def SYS_PD_CTL : Nat := 0x24
def SYS_PD_CTL_PWR : Fld := ⟨SYS_PD_CTL, 0, 0⟩
def SYS_PD_CTL_ISO : Fld := ⟨SYS_PD_CTL, 1, 1⟩
def SYS_PD_CTL_PWR_OK : Fld := ⟨SYS_PD_CTL, 2, 2⟩
def SYS_PD_CTL_SWITCHABLE : Fld := ⟨SYS_PD_CTL, 3, 3⟩
def SYS_URST : Nat := 0x28
def SYS_URST_UNIT : Fld := ⟨SYS_URST, 8, 0⟩
def SYS_RUN_LO : Nat := 0x2C
def SYS_RUN_LO_RUN : Fld := ⟨SYS_RUN_LO, 31, 0⟩
def SYS_RUN_HI : Nat := 0x30
def SYS_RUN_HI_RUN : Fld := ⟨SYS_RUN_HI, 29, 0⟩
def SYS_EVT : Nat := 0x34
def SYS_EVT_KEY_ERR : Fld := ⟨SYS_EVT, 0, 0⟩
def SYS_EVT_PD_ERR : Fld := ⟨SYS_EVT, 1, 1⟩
def SYS_EVT_URST_ERR : Fld := ⟨SYS_EVT, 2, 2⟩
def SYS_EVT_PROFILE_ERR : Fld := ⟨SYS_EVT, 3, 3⟩
def SYS_EVT_WAKE : Fld := ⟨SYS_EVT, 4, 4⟩
def SYS_IRQ_EN : Nat := 0x38
def SYS_IRQ_EN_EN : Fld := ⟨SYS_IRQ_EN, 4, 0⟩
def SYS_XPWR : Nat := 0x100
def SYS_XPWR_PGOOD_MAX : Fld := ⟨SYS_XPWR, 7, 0⟩
def SYS_XPWR_OFF_MIN : Fld := ⟨SYS_XPWR, 15, 8⟩
def SYS_XFUSE_CMD : Nat := 0x104
def SYS_XFUSE_CMD_OP : Fld := ⟨SYS_XFUSE_CMD, 2, 0⟩
def SYS_XFUSE_CMD_SLOT : Fld := ⟨SYS_XFUSE_CMD, 5, 4⟩
def SYS_XFUSE_CMD_BUSY : Fld := ⟨SYS_XFUSE_CMD, 8, 8⟩
def SYS_XFUSE_CMD_RESULT : Fld := ⟨SYS_XFUSE_CMD, 11, 9⟩
def SYS_XFUSE_CMD_GO : Fld := ⟨SYS_XFUSE_CMD, 31, 31⟩
def SYS_XFUSE_STAT : Nat := 0x108
def SYS_XFUSE_STAT_PROG : Fld := ⟨SYS_XFUSE_STAT, 3, 0⟩
def SYS_XFUSE_STAT_REV : Fld := ⟨SYS_XFUSE_STAT, 7, 4⟩
def SYS_XFUSE_STAT_DBG : Fld := ⟨SYS_XFUSE_STAT, 9, 8⟩
def SYS_XFUSE_STAT_ROLLBACK : Fld := ⟨SYS_XFUSE_STAT, 22, 16⟩
def SYS_XFUSE_DATA (k : Nat) : Nat := 0x140 + 4 * k
def SYS_XFUSE_DATA_DATA (k : Nat) : Fld := ⟨SYS_XFUSE_DATA k, 31, 0⟩
def POST_NOW_LO : Nat := 0x1000
def POST_NOW_LO_NOW_LO : Fld := ⟨POST_NOW_LO, 31, 0⟩
def POST_NOW_HI : Nat := 0x1004
def POST_NOW_HI_NOW_HI : Fld := ⟨POST_NOW_HI, 31, 0⟩
def POST_STATUS : Nat := 0x1008
def POST_STATUS_LOCKED : Fld := ⟨POST_STATUS, 0, 0⟩
def POST_STATUS_FREERUN : Fld := ⟨POST_STATUS, 1, 1⟩
def POST_STATUS_TWIN_SYNC : Fld := ⟨POST_STATUS, 2, 2⟩
def POST_STATUS_STEPPED : Fld := ⟨POST_STATUS, 3, 3⟩
def POST_STATUS_REPL_FAULT : Fld := ⟨POST_STATUS, 4, 4⟩
def POST_STATUS_EPOCH_EV : Fld := ⟨POST_STATUS, 5, 5⟩
def POST_STATUS_EPOCH : Fld := ⟨POST_STATUS, 31, 16⟩
def POST_IRQ_EN : Nat := 0x100C
def POST_IRQ_EN_STEPPED_EN : Fld := ⟨POST_IRQ_EN, 3, 3⟩
def POST_IRQ_EN_REPL_FAULT_EN : Fld := ⟨POST_IRQ_EN, 4, 4⟩
def POST_IRQ_EN_EPOCH_EN : Fld := ⟨POST_IRQ_EN, 5, 5⟩
def POST_TRIM : Nat := 0x1100
def POST_TRIM_FREE_TRIM : Fld := ⟨POST_TRIM, 23, 0⟩
def POST_TOL : Nat := 0x1104
def POST_TOL_TOL : Fld := ⟨POST_TOL, 2, 0⟩
def POST_FAULT_ISL : Nat := 0x1108
def POST_FAULT_ISL_ISLAND : Fld := ⟨POST_FAULT_ISL, 7, 0⟩
def POST_FAULT_ISL_COUNT : Fld := ⟨POST_FAULT_ISL, 23, 8⟩
def ICU_SEL : Nat := 0x2000
def ICU_SEL_SRC : Fld := ⟨ICU_SEL, 9, 0⟩
def ICU_SEL_CORE : Fld := ⟨ICU_SEL, 21, 16⟩
def ICU_CFG : Nat := 0x2004
def ICU_CFG_EN : Fld := ⟨ICU_CFG, 0, 0⟩
def ICU_CFG_SENSE : Fld := ⟨ICU_CFG, 3, 1⟩
def ICU_CFG_MOD : Fld := ⟨ICU_CFG, 4, 4⟩
def ICU_CFG_WAKE : Fld := ⟨ICU_CFG, 5, 5⟩
def ICU_CFG_TGT : Fld := ⟨ICU_CFG, 14, 8⟩
def ICU_CFG_STATE : Fld := ⟨ICU_CFG, 17, 16⟩
def ICU_CFG_REFIRE : Fld := ⟨ICU_CFG, 18, 18⟩
def ICU_CFG_MERGED : Fld := ⟨ICU_CFG, 19, 19⟩
def ICU_CLAIM : Nat := 0x2008
def ICU_CLAIM_SRC : Fld := ⟨ICU_CLAIM, 9, 0⟩
def ICU_CLAIM_REFIRE : Fld := ⟨ICU_CLAIM, 12, 12⟩
def ICU_CLAIM_MERGED : Fld := ⟨ICU_CLAIM, 13, 13⟩
def ICU_CLAIM_VALID : Fld := ⟨ICU_CLAIM, 31, 31⟩
def ICU_CLAIM_PM0 : Nat := 0x200C
def ICU_CLAIM_PM0_PM_LO : Fld := ⟨ICU_CLAIM_PM0, 31, 0⟩
def ICU_CLAIM_PM1 : Nat := 0x2010
def ICU_CLAIM_PM1_PM_HI : Fld := ⟨ICU_CLAIM_PM1, 15, 0⟩
def ICU_CLAIM_PM1_ORIGIN : Fld := ⟨ICU_CLAIM_PM1, 27, 16⟩
def ICU_EOI : Nat := 0x2014
def ICU_EOI_SRC : Fld := ⟨ICU_EOI, 9, 0⟩
def ICU_SWI : Nat := 0x2018
def ICU_SWI_CORE : Fld := ⟨ICU_SWI, 5, 0⟩
def ICU_SWI_LINE : Fld := ⟨ICU_SWI, 10, 8⟩
def ICU_SSET : Nat := 0x201C
def ICU_SSET_SRC : Fld := ⟨ICU_SSET, 9, 0⟩
def ICU_MOD : Nat := 0x2020
def ICU_MOD_INTERVAL_US : Fld := ⟨ICU_MOD, 9, 0⟩
def ICU_STAT : Nat := 0x2024
def ICU_STAT_LATE_REC : Fld := ⟨ICU_STAT, 0, 0⟩
def ICU_STAT_EOI_ERR : Fld := ⟨ICU_STAT, 1, 1⟩
def ICU_STAT_CFG_ERR : Fld := ⟨ICU_STAT, 2, 2⟩
def ICU_XWIN : Nat := 0x2100
def ICU_XWIN_WIN_NS : Fld := ⟨ICU_XWIN, 9, 0⟩
def ICU_XMOD (t : Nat) : Nat := 0x2200 + 4 * t
def ICU_XMOD_NS (t : Nat) : Fld := ⟨ICU_XMOD t, 19, 0⟩
def TMR_TOP (k : Nat) : Nat := 0x3000 + 4 * k
def TMR_TOP_TOP (k : Nat) : Fld := ⟨TMR_TOP k, 31, 0⟩
def TMR_CS (k : Nat) : Nat := 0x3080 + 4 * k
def TMR_CS_EN (k : Nat) : Fld := ⟨TMR_CS k, 0, 0⟩
def TMR_CS_ONESHOT (k : Nat) : Fld := ⟨TMR_CS k, 1, 1⟩
def TMR_CS_PS (k : Nat) : Fld := ⟨TMR_CS k, 5, 2⟩
def TMR_CS_WRAP_IE (k : Nat) : Fld := ⟨TMR_CS k, 8, 8⟩
def TMR_CS_CMP_IE (k : Nat) : Fld := ⟨TMR_CS k, 9, 9⟩
def TMR_CS_CAP_IE (k : Nat) : Fld := ⟨TMR_CS k, 10, 10⟩
def TMR_CS_OVF_IE (k : Nat) : Fld := ⟨TMR_CS k, 11, 11⟩
def TMR_CS_WRAPF (k : Nat) : Fld := ⟨TMR_CS k, 16, 16⟩
def TMR_CS_CMPF (k : Nat) : Fld := ⟨TMR_CS k, 17, 17⟩
def TMR_CS_CAPF (k : Nat) : Fld := ⟨TMR_CS k, 18, 18⟩
def TMR_CS_OVF (k : Nat) : Fld := ⟨TMR_CS k, 19, 19⟩
def TMR_XGSTART : Nat := 0x3100
def TMR_XGSTART_GO : Fld := ⟨TMR_XGSTART, 7, 0⟩
def TMR_XGSTART_STOP : Fld := ⟨TMR_XGSTART, 15, 8⟩
def TMR_XCOUNT (k : Nat) : Nat := 0x3200 + 0x20 * k
def TMR_XCOUNT_COUNT (k : Nat) : Fld := ⟨TMR_XCOUNT k, 31, 0⟩
def TMR_XCMP (k : Nat) : Nat := 0x3204 + 0x20 * k
def TMR_XCMP_CMP (k : Nat) : Fld := ⟨TMR_XCMP k, 31, 0⟩
def TMR_XCMPACT (k : Nat) : Nat := 0x3208 + 0x20 * k
def TMR_XCMPACT_CMP_ACTIVE (k : Nat) : Fld := ⟨TMR_XCMPACT k, 31, 0⟩
def TMR_XCAP (k : Nat) : Nat := 0x320C + 0x20 * k
def TMR_XCAP_CAP (k : Nat) : Fld := ⟨TMR_XCAP k, 31, 0⟩
def TMR_XCFG (k : Nat) : Nat := 0x3210 + 0x20 * k
def TMR_XCFG_CMPEN (k : Nat) : Fld := ⟨TMR_XCFG k, 0, 0⟩
def TMR_XCFG_CSEL (k : Nat) : Fld := ⟨TMR_XCFG k, 3, 1⟩
def TMR_XCFG_CEDGE (k : Nat) : Fld := ⟨TMR_XCFG k, 5, 4⟩
def TMR_XCFG_GSEL (k : Nat) : Fld := ⟨TMR_XCFG k, 7, 6⟩
def TMR_XCFG_GLVL (k : Nat) : Fld := ⟨TMR_XCFG k, 8, 8⟩
def TMR_XCFG_ARM (k : Nat) : Fld := ⟨TMR_XCFG k, 9, 9⟩
def TMR_XCFG_OUTMODE (k : Nat) : Fld := ⟨TMR_XCFG k, 11, 10⟩
def TMR_XPHASE (k : Nat) : Nat := 0x3214 + 0x20 * k
def TMR_XPHASE_PHASE (k : Nat) : Fld := ⟨TMR_XPHASE k, 31, 0⟩
def WDT_CTL (w : Nat) : Nat := 0x4000 + 4 * w
def WDT_CTL_EN (w : Nat) : Fld := ⟨WDT_CTL w, 0, 0⟩
def WDT_CTL_LOCK (w : Nat) : Fld := ⟨WDT_CTL w, 1, 1⟩
def WDT_CTL_FREEZE (w : Nat) : Fld := ⟨WDT_CTL w, 2, 2⟩
def WDT_CTL_SLEEPSTOP (w : Nat) : Fld := ⟨WDT_CTL w, 3, 3⟩
def WDT_CTL_ACTION (w : Nat) : Fld := ⟨WDT_CTL w, 4, 4⟩
def WDT_CTL_BADEXP (w : Nat) : Fld := ⟨WDT_CTL w, 5, 5⟩
def WDT_CTL_SVC (w : Nat) : Fld := ⟨WDT_CTL w, 13, 8⟩
def WDT_CTL_WARNF (w : Nat) : Fld := ⟨WDT_CTL w, 16, 16⟩
def WDT_CTL_EXPF (w : Nat) : Fld := ⟨WDT_CTL w, 17, 17⟩
def WDT_CTL_BAD_KICK (w : Nat) : Fld := ⟨WDT_CTL w, 18, 18⟩
def WDT_CTL_WARN_IE (w : Nat) : Fld := ⟨WDT_CTL w, 19, 19⟩
def WDT_CTL_EXP_IE (w : Nat) : Fld := ⟨WDT_CTL w, 20, 20⟩
def WDT_CTL_BAD_IE (w : Nat) : Fld := ⟨WDT_CTL w, 21, 21⟩
def WDT_TIMEOUT (w : Nat) : Nat := 0x4040 + 4 * w
def WDT_TIMEOUT_US (w : Nat) : Fld := ⟨WDT_TIMEOUT w, 31, 0⟩
def WDT_KICK (w : Nat) : Nat := 0x4080 + 4 * w
def WDT_KICK_KEY (w : Nat) : Fld := ⟨WDT_KICK w, 31, 0⟩
def WDT_REMAIN (w : Nat) : Nat := 0x40C0 + 4 * w
def WDT_REMAIN_US (w : Nat) : Fld := ⟨WDT_REMAIN w, 31, 0⟩
def WDT_XWARN (w : Nat) : Nat := 0x4100 + 4 * w
def WDT_XWARN_US (w : Nat) : Fld := ⟨WDT_XWARN w, 31, 0⟩
def WDT_XGRACE : Nat := 0x4140
def WDT_XGRACE_US : Fld := ⟨WDT_XGRACE, 23, 0⟩
def GPIO_OUT (b : Nat) : Nat := 0x5000 + 0x20 * b
def GPIO_OUT_OUT (b : Nat) : Fld := ⟨GPIO_OUT b, 31, 0⟩
def GPIO_SET (b : Nat) : Nat := 0x5004 + 0x20 * b
def GPIO_SET_SET (b : Nat) : Fld := ⟨GPIO_SET b, 31, 0⟩
def GPIO_CLR (b : Nat) : Nat := 0x5008 + 0x20 * b
def GPIO_CLR_CLR (b : Nat) : Fld := ⟨GPIO_CLR b, 31, 0⟩
def GPIO_OE (b : Nat) : Nat := 0x500C + 0x20 * b
def GPIO_OE_OE (b : Nat) : Fld := ⟨GPIO_OE b, 31, 0⟩
def GPIO_IN (b : Nat) : Nat := 0x5010 + 0x20 * b
def GPIO_IN_IN (b : Nat) : Fld := ⟨GPIO_IN b, 31, 0⟩
def GPIO_CFG (b : Nat) : Nat := 0x5014 + 0x20 * b
def GPIO_CFG_PULL (b : Nat) : Fld := ⟨GPIO_CFG b, 1, 0⟩
def GPIO_CFG_FILT (b : Nat) : Fld := ⟨GPIO_CFG b, 3, 2⟩
def GPIO_CFG_RSTHOLD (b : Nat) : Fld := ⟨GPIO_CFG b, 4, 4⟩
def GPIO_CFG_RELEASE (b : Nat) : Fld := ⟨GPIO_CFG b, 5, 5⟩
def GPIO_CFG_FROZEN (b : Nat) : Fld := ⟨GPIO_CFG b, 6, 6⟩
def GPIO_CFG_VOK (b : Nat) : Fld := ⟨GPIO_CFG b, 7, 7⟩
def GPIO_OWN (b : Nat) : Nat := 0x5018 + 0x20 * b
def GPIO_OWN_OWNER (b : Nat) : Fld := ⟨GPIO_OWN b, 11, 0⟩
def GPIO_OWN_VALID (b : Nat) : Fld := ⟨GPIO_OWN b, 31, 31⟩
def GPIO_STAT : Nat := 0x50C0
def GPIO_STAT_OWN_ERR : Fld := ⟨GPIO_STAT, 5, 0⟩
def GPIO_XPULL_LO (b : Nat) : Nat := 0x5100 + 0x20 * b
def GPIO_XPULL_HI (b : Nat) : Nat := 0x5104 + 0x20 * b
def GPIO_XDRV_LO (b : Nat) : Nat := 0x5108 + 0x20 * b
def GPIO_XDRV_HI (b : Nat) : Nat := 0x510C + 0x20 * b
def GPIO_XFILT_LO (b : Nat) : Nat := 0x5110 + 0x20 * b
def GPIO_XFILT_HI (b : Nat) : Nat := 0x5114 + 0x20 * b
def GPIO_XOD (b : Nat) : Nat := 0x5118 + 0x20 * b
def GPIO_XOD_OD (b : Nat) : Fld := ⟨GPIO_XOD b, 31, 0⟩
def GPIO_XTIME (b : Nat) : Nat := 0x511C + 0x20 * b
def GPIO_XTIME_GLITCH (b : Nat) : Fld := ⟨GPIO_XTIME b, 7, 0⟩
def GPIO_XTIME_DEBOUNCE_US (b : Nat) : Fld := ⟨GPIO_XTIME b, 23, 8⟩
def GPIO_XTIME_SLOW (b : Nat) : Fld := ⟨GPIO_XTIME b, 24, 24⟩
def PMUX_FUNC (i : Nat) : Nat := 0x6000 + 4 * i
def PMUX_STAT : Nat := 0x6060
def PMUX_STAT_BUSY : Fld := ⟨PMUX_STAT, 0, 0⟩
def PMUX_STAT_FUNC_ERR : Fld := ⟨PMUX_STAT, 1, 1⟩
def PMUX_STAT_DUP : Fld := ⟨PMUX_STAT, 2, 2⟩
def DMA_STATUS : Nat := 0x7000
def DMA_STATUS_ENGINE_HALT : Fld := ⟨DMA_STATUS, 0, 0⟩
def DMA_STATUS_GO_IGNORED : Fld := ⟨DMA_STATUS, 1, 1⟩
def DMA_GO : Nat := 0x7004
def DMA_GO_GO : Fld := ⟨DMA_GO, 31, 0⟩
def DMA_ABORT : Nat := 0x7008
def DMA_ABORT_ABORT : Fld := ⟨DMA_ABORT, 31, 0⟩
def DMA_ENABLE : Nat := 0x700C
def DMA_ENABLE_EN : Fld := ⟨DMA_ENABLE, 31, 0⟩
def DMA_ACTIVE : Nat := 0x7010
def DMA_ACTIVE_ACT : Fld := ⟨DMA_ACTIVE, 31, 0⟩
def DMA_DONE_EV : Nat := 0x7014
def DMA_DONE_EV_DONE : Fld := ⟨DMA_DONE_EV, 31, 0⟩
def DMA_HALT_EV : Nat := 0x7018
def DMA_HALT_EV_HALT : Fld := ⟨DMA_HALT_EV, 31, 0⟩
def DMA_DONE_EN : Nat := 0x701C
def DMA_DONE_EN_EN : Fld := ⟨DMA_DONE_EN, 31, 0⟩
def DMA_HALT_EN : Nat := 0x7020
def DMA_HALT_EN_EN : Fld := ⟨DMA_HALT_EN, 31, 0⟩
def DMA_PRIO_LO : Nat := 0x7024
def DMA_PRIO_LO_PRIO : Fld := ⟨DMA_PRIO_LO, 31, 0⟩
def DMA_PRIO_HI : Nat := 0x7028
def DMA_PRIO_HI_PRIO : Fld := ⟨DMA_PRIO_HI, 31, 0⟩
def DMA_HEAD (c : Nat) : Nat := 0x7080 + 4 * c
def DMA_HEAD_ADDR (c : Nat) : Fld := ⟨DMA_HEAD c, 31, 0⟩
def DMA_XCFG : Nat := 0x7100
def DMA_XCFG_RETRIES : Fld := ⟨DMA_XCFG, 3, 0⟩
def DMA_CH_CUR (c : Nat) : Nat := 0x7200 + 0x10 * c
def DMA_CH_CUR_ADDR (c : Nat) : Fld := ⟨DMA_CH_CUR c, 31, 0⟩
def DMA_CH_STAT (c : Nat) : Nat := 0x7204 + 0x10 * c
def DMA_CH_STAT_STATE (c : Nat) : Fld := ⟨DMA_CH_STAT c, 1, 0⟩
def DMA_CH_STAT_RESULT (c : Nat) : Fld := ⟨DMA_CH_STAT c, 4, 2⟩
def DMA_CH_STAT_ABORT_LATE (c : Nat) : Fld := ⟨DMA_CH_STAT c, 5, 5⟩
def DMA_CH_STAT_CAUSE (c : Nat) : Fld := ⟨DMA_CH_STAT c, 10, 8⟩
def DMA_CH_STAT_RETRY_USED (c : Nat) : Fld := ⟨DMA_CH_STAT c, 15, 12⟩
def DMA_CH_STAT_LOST (c : Nat) : Fld := ⟨DMA_CH_STAT c, 25, 16⟩
def DMA_CH_OFF (c : Nat) : Nat := 0x7208 + 0x10 * c
def DMA_CH_OFF_OFFSET (c : Nat) : Fld := ⟨DMA_CH_OFF c, 31, 0⟩
def DMA_CH_DONECNT (c : Nat) : Nat := 0x720C + 0x10 * c
def DMA_CH_DONECNT_COUNT (c : Nat) : Fld := ⟨DMA_CH_DONECNT c, 31, 0⟩
def PRESS_CTL : Nat := 0x8000
def PRESS_CTL_GO : Fld := ⟨PRESS_CTL, 0, 0⟩
def PRESS_CTL_ABORT : Fld := ⟨PRESS_CTL, 1, 1⟩
def PRESS_CTL_SHARE : Fld := ⟨PRESS_CTL, 5, 4⟩
def PRESS_LIST : Nat := 0x8004
def PRESS_LIST_ADDR : Fld := ⟨PRESS_LIST, 30, 0⟩
def PRESS_STATUS : Nat := 0x8008
def PRESS_STATUS_STATE : Fld := ⟨PRESS_STATUS, 1, 0⟩
def PRESS_STATUS_RESULT : Fld := ⟨PRESS_STATUS, 4, 2⟩
def PRESS_STATUS_ABORT_LATE : Fld := ⟨PRESS_STATUS, 5, 5⟩
def PRESS_STATUS_CAUSE : Fld := ⟨PRESS_STATUS, 10, 8⟩
def PRESS_CUR : Nat := 0x800C
def PRESS_CUR_ADDR : Fld := ⟨PRESS_CUR, 30, 0⟩
def PRESS_POS : Nat := 0x8010
def PRESS_POS_FAIL_ROW : Fld := ⟨PRESS_POS, 13, 0⟩
def PRESS_POS_FAIL_X : Fld := ⟨PRESS_POS, 29, 16⟩
def PRESS_EVT : Nat := 0x8014
def PRESS_EVT_CMD_IRQ : Fld := ⟨PRESS_EVT, 0, 0⟩
def PRESS_EVT_END_EV : Fld := ⟨PRESS_EVT, 1, 1⟩
def PRESS_EVT_GO_IGNORED : Fld := ⟨PRESS_EVT, 2, 2⟩
def PRESS_IRQ_EN : Nat := 0x8018
def PRESS_IRQ_EN_EN : Fld := ⟨PRESS_IRQ_EN, 2, 0⟩
def PRESS_CMDCNT : Nat := 0x801C
def PRESS_CMDCNT_COUNT : Fld := ⟨PRESS_CMDCNT, 31, 0⟩
def PRESS_XDEAD : Nat := 0x8100
def PRESS_XDEAD_CYCLES : Fld := ⟨PRESS_XDEAD, 15, 0⟩
def PRESS_XRETRY : Nat := 0x8104
def PRESS_XRETRY_RETRIES : Fld := ⟨PRESS_XRETRY, 3, 0⟩
def MEM_STATUS : Nat := 0x9000
def MEM_STATUS_CE_EV : Fld := ⟨MEM_STATUS, 0, 0⟩
def MEM_STATUS_DLT_ALLOC : Fld := ⟨MEM_STATUS, 1, 1⟩
def MEM_STATUS_DLT_FULL : Fld := ⟨MEM_STATUS, 2, 2⟩
def MEM_STATUS_HOG : Fld := ⟨MEM_STATUS, 3, 3⟩
def MEM_STATUS_EMERG : Fld := ⟨MEM_STATUS, 4, 4⟩
def MEM_STATUS_SCRUB_LATE : Fld := ⟨MEM_STATUS, 5, 5⟩
def MEM_IRQ_EN : Nat := 0x9004
def MEM_IRQ_EN_EN : Fld := ⟨MEM_IRQ_EN, 5, 0⟩
def MEM_CTL : Nat := 0x9008
def MEM_CTL_SCRUB_EN : Fld := ⟨MEM_CTL, 0, 0⟩
def MEM_CTL_BREAKPT : Fld := ⟨MEM_CTL, 1, 1⟩
def MEM_CTL_EMERG : Fld := ⟨MEM_CTL, 2, 2⟩
def MEM_CTL_HOG : Fld := ⟨MEM_CTL, 3, 3⟩
def MEM_CE_COUNT : Nat := 0x900C
def MEM_CE_COUNT_COUNT : Fld := ⟨MEM_CE_COUNT, 31, 0⟩
def MEM_LAST_CE0 : Nat := 0x9010
def MEM_LAST_CE0_ARRAY : Fld := ⟨MEM_LAST_CE0, 7, 0⟩
def MEM_LAST_CE0_SPEC : Fld := ⟨MEM_LAST_CE0, 8, 8⟩
def MEM_LAST_CE0_SCRUB : Fld := ⟨MEM_LAST_CE0, 9, 9⟩
def MEM_LAST_CE0_PAHI : Fld := ⟨MEM_LAST_CE0, 23, 16⟩
def MEM_LAST_CE1 : Nat := 0x9014
def MEM_LAST_CE1_PALO : Fld := ⟨MEM_LAST_CE1, 31, 0⟩
def MEM_CUT : Nat := 0x9018
def MEM_CUT_ORIGIN : Fld := ⟨MEM_CUT, 11, 0⟩
def MEM_CUT_ARBITER : Fld := ⟨MEM_CUT, 19, 12⟩
def MEM_CUT_KIND : Fld := ⟨MEM_CUT, 20, 20⟩
def MEM_SCRUB : Nat := 0x9100
def MEM_SCRUB_PERIOD : Fld := ⟨MEM_SCRUB, 15, 0⟩
def MEM_ARB : Nat := 0x9104
def MEM_ARB_HOG_LIMIT : Fld := ⟨MEM_ARB, 9, 0⟩
def MEM_ARB_EMERG_LEAD : Fld := ⟨MEM_ARB, 19, 16⟩
def MEM_ARB_AUD_EMERG : Fld := ⟨MEM_ARB, 27, 24⟩
def MEM_EXT : Nat := 0x9108
def MEM_EXT_AGE : Fld := ⟨MEM_EXT, 7, 0⟩
def MEM_FLIP_CTL : Nat := 0x9110
def MEM_FLIP_CTL_ARM : Fld := ⟨MEM_FLIP_CTL, 0, 0⟩
def MEM_FLIP_CTL_TARGET : Fld := ⟨MEM_FLIP_CTL, 1, 1⟩
def MEM_FLIP_CTL_CHK : Fld := ⟨MEM_FLIP_CTL, 14, 8⟩
def MEM_FLIP_ADDR : Nat := 0x9114
def MEM_FLIP_ADDR_ADDR : Fld := ⟨MEM_FLIP_ADDR, 31, 2⟩
def MEM_FLIP_DATA : Nat := 0x9118
def MEM_FLIP_DATA_DATA : Fld := ⟨MEM_FLIP_DATA, 31, 0⟩
def MEM_DLT_SEL : Nat := 0x9120
def MEM_DLT_SEL_ARRAY : Fld := ⟨MEM_DLT_SEL, 7, 0⟩
def MEM_DLT_SEL_INDEX : Fld := ⟨MEM_DLT_SEL, 13, 8⟩
def MEM_DLT_ENTRY : Nat := 0x9124
def MEM_DLT_ENTRY_OFFSET : Fld := ⟨MEM_DLT_ENTRY, 23, 2⟩
def MEM_DLT_ENTRY_V : Fld := ⟨MEM_DLT_ENTRY, 31, 31⟩
def MEM_SCRUB_STAT : Nat := 0x9130
def MEM_SCRUB_STAT_PASSES : Fld := ⟨MEM_SCRUB_STAT, 15, 0⟩
def MEM_SCRUB_STAT_UNCORR : Fld := ⟨MEM_SCRUB_STAT, 31, 16⟩
def DRAMC_STATUS : Nat := 0xA000
def DRAMC_STATUS_TRAINED : Fld := ⟨DRAMC_STATUS, 3, 0⟩
def DRAMC_STATUS_DEGRADED : Fld := ⟨DRAMC_STATUS, 4, 4⟩
def DRAMC_STATUS_DEG_CH : Fld := ⟨DRAMC_STATUS, 6, 5⟩
def DRAMC_STATUS_CE_EV : Fld := ⟨DRAMC_STATUS, 8, 8⟩
def DRAMC_STATUS_RETIRE_EV : Fld := ⟨DRAMC_STATUS, 9, 9⟩
def DRAMC_STATUS_CH_FAIL : Fld := ⟨DRAMC_STATUS, 10, 10⟩
def DRAMC_STATUS_CFG_CHG : Fld := ⟨DRAMC_STATUS, 11, 11⟩
def DRAMC_STATUS_FAIL_CH : Fld := ⟨DRAMC_STATUS, 13, 12⟩
def DRAMC_IRQ_EN : Nat := 0xA004
def DRAMC_IRQ_EN_EN : Fld := ⟨DRAMC_IRQ_EN, 10, 8⟩
def DRAMC_CONFIG : Nat := 0xA008
def DRAMC_CONFIG_CAP : Fld := ⟨DRAMC_CONFIG, 3, 0⟩
def DRAMC_CONFIG_RATE : Fld := ⟨DRAMC_CONFIG, 7, 4⟩
def DRAMC_CONFIG_SCRUB_EN : Fld := ⟨DRAMC_CONFIG, 30, 30⟩
def DRAMC_CONFIG_ENABLE : Fld := ⟨DRAMC_CONFIG, 31, 31⟩
def DRAMC_DEGRADE : Nat := 0xA00C
def DRAMC_DEGRADE_REQ : Fld := ⟨DRAMC_DEGRADE, 0, 0⟩
def DRAMC_DEGRADE_CH : Fld := ⟨DRAMC_DEGRADE, 2, 1⟩
def DRAMC_TOP : Nat := 0xA010
def DRAMC_TOP_SIZE4K : Fld := ⟨DRAMC_TOP, 27, 0⟩
def DRAMC_CE_COUNT : Nat := 0xA014
def DRAMC_CE_COUNT_COUNT : Fld := ⟨DRAMC_CE_COUNT, 23, 0⟩
def DRAMC_CE_COUNT_SCRUB_UE : Fld := ⟨DRAMC_CE_COUNT, 31, 24⟩
def DRAMC_LAST_CE0 : Nat := 0xA018
def DRAMC_LAST_CE0_ADDR : Fld := ⟨DRAMC_LAST_CE0, 31, 0⟩
def DRAMC_LAST_CE1 : Nat := 0xA01C
def DRAMC_LAST_CE1_SPEC : Fld := ⟨DRAMC_LAST_CE1, 0, 0⟩
def DRAMC_LAST_CE1_SCRUB : Fld := ⟨DRAMC_LAST_CE1, 1, 1⟩
def DRAMC_SCRUB : Nat := 0xA100
def DRAMC_SCRUB_PERIOD : Fld := ⟨DRAMC_SCRUB, 15, 0⟩
def DRAMC_RET : Nat := 0xA104
def DRAMC_RET_THRESH : Fld := ⟨DRAMC_RET, 7, 0⟩
def DRAMC_RET_COUNT : Fld := ⟨DRAMC_RET, 14, 8⟩
def DRAMC_RET_FULL : Fld := ⟨DRAMC_RET, 15, 15⟩
def DRAMC_RETIDX : Nat := 0xA108
def DRAMC_RETIDX_IDX : Fld := ⟨DRAMC_RETIDX, 5, 0⟩
def DRAMC_RETDATA : Nat := 0xA10C
def DRAMC_RETDATA_PAGE : Fld := ⟨DRAMC_RETDATA, 22, 0⟩
def DRAMC_RETDATA_V : Fld := ⟨DRAMC_RETDATA, 31, 31⟩
def DRAMC_FLIP_CTL : Nat := 0xA110
def DRAMC_FLIP_CTL_ARM : Fld := ⟨DRAMC_FLIP_CTL, 0, 0⟩
def DRAMC_FLIP_CTL_CHK : Fld := ⟨DRAMC_FLIP_CTL, 15, 8⟩
def DRAMC_FLIP_ADDR : Nat := 0xA114
def DRAMC_FLIP_ADDR_ADDR : Fld := ⟨DRAMC_FLIP_ADDR, 31, 0⟩
def DRAMC_FLIP_DATA : Nat := 0xA118
def DRAMC_FLIP_DATA_DATA : Fld := ⟨DRAMC_FLIP_DATA, 31, 0⟩
def COMP_NOTICE_A (o : Nat) : Nat := 0xB010 + 8 * o
def COMP_NOTICE_A_X0 (o : Nat) : Fld := ⟨COMP_NOTICE_A o, 13, 0⟩
def COMP_NOTICE_A_Y0 (o : Nat) : Fld := ⟨COMP_NOTICE_A o, 29, 16⟩
def COMP_NOTICE_A_ON (o : Nat) : Fld := ⟨COMP_NOTICE_A o, 31, 31⟩
def COMP_NOTICE_B (o : Nat) : Nat := 0xB014 + 8 * o
def COMP_NOTICE_B_X1 (o : Nat) : Fld := ⟨COMP_NOTICE_B o, 13, 0⟩
def COMP_NOTICE_B_Y1 (o : Nat) : Fld := ⟨COMP_NOTICE_B o, 29, 16⟩
def COMP_SCENE_NEXT (o : Nat) : Nat := 0xB040 + 0x20 * o
def COMP_SCENE_NEXT_ADDR (o : Nat) : Fld := ⟨COMP_SCENE_NEXT o, 31, 0⟩
def COMP_SCENE_CUR (o : Nat) : Nat := 0xB044 + 0x20 * o
def COMP_SCENE_CUR_ADDR (o : Nat) : Fld := ⟨COMP_SCENE_CUR o, 31, 0⟩
def COMP_PH_BASE (o : Nat) : Nat := 0xB048 + 0x20 * o
def COMP_PH_BASE_BASE (o : Nat) : Fld := ⟨COMP_PH_BASE o, 23, 12⟩
def COMP_EVT (o : Nat) : Nat := 0xB04C + 0x20 * o
def COMP_EVT_BIN_DONE (o : Nat) : Fld := ⟨COMP_EVT o, 0, 0⟩
def COMP_EVT_PH_OVF (o : Nat) : Fld := ⟨COMP_EVT o, 1, 1⟩
def COMP_EVT_LINE_OVF (o : Nat) : Fld := ⟨COMP_EVT o, 2, 2⟩
def COMP_EVT_STAMP_ERR (o : Nat) : Fld := ⟨COMP_EVT o, 3, 3⟩
def COMP_EVT_SHEET_ERR (o : Nat) : Fld := ⟨COMP_EVT o, 4, 4⟩
def COMP_EVT_SCALE_CLAMP (o : Nat) : Fld := ⟨COMP_EVT o, 5, 5⟩
def COMP_EVT_SCENE_ERR (o : Nat) : Fld := ⟨COMP_EVT o, 6, 6⟩
def COMP_EVT_BIN_LATE (o : Nat) : Fld := ⟨COMP_EVT o, 7, 7⟩
def COMP_EVT_LATCHED (o : Nat) : Fld := ⟨COMP_EVT o, 8, 8⟩
def COMP_IRQ_EN (o : Nat) : Nat := 0xB050 + 0x20 * o
def COMP_IRQ_EN_EN (o : Nat) : Fld := ⟨COMP_IRQ_EN o, 8, 0⟩
def COMP_BIN_STAT (o : Nat) : Nat := 0xB054 + 0x20 * o
def COMP_BIN_STAT_BINNED (o : Nat) : Fld := ⟨COMP_BIN_STAT o, 16, 0⟩
def COMP_BIN_CYC (o : Nat) : Nat := 0xB058 + 0x20 * o
def COMP_BIN_CYC_CYCLES (o : Nat) : Fld := ⟨COMP_BIN_CYC o, 23, 0⟩
def COMP_OVF_LINE (o : Nat) : Nat := 0xB05C + 0x20 * o
def COMP_OVF_LINE_LINE (o : Nat) : Fld := ⟨COMP_OVF_LINE o, 13, 0⟩
def COMP_OVF_LINE_VALID (o : Nat) : Fld := ⟨COMP_OVF_LINE o, 31, 31⟩
def COMP_GRP (o : Nat) : Nat := 0xB0C0 + 4 * o
def COMP_GRP_FIRST (o : Nat) : Fld := ⟨COMP_GRP o, 5, 0⟩
def COMP_GRP_COUNT (o : Nat) : Fld := ⟨COMP_GRP o, 13, 8⟩
def COMP_GRP_PAIR (o : Nat) : Fld := ⟨COMP_GRP o, 31, 31⟩
def COMP_RETIRE_LO : Nat := 0xB0D0
def COMP_RETIRE_LO_RET : Fld := ⟨COMP_RETIRE_LO, 31, 0⟩
def COMP_RETIRE_HI : Nat := 0xB0D4
def COMP_RETIRE_HI_RET : Fld := ⟨COMP_RETIRE_HI, 15, 0⟩
def COMP_REVT : Nat := 0xB0D8
def COMP_REVT_ROUTE_ERR0 : Fld := ⟨COMP_REVT, 0, 0⟩
def COMP_REVT_ROUTE_ERR1 : Fld := ⟨COMP_REVT, 8, 8⟩
def COMP_REVT_ROUTE_ERR2 : Fld := ⟨COMP_REVT, 16, 16⟩
def COMP_REVT_ROUTE_ERR3 : Fld := ⟨COMP_REVT, 24, 24⟩
def COMP_REVT_PARAM_ERR0 : Fld := ⟨COMP_REVT, 1, 1⟩
def COMP_REVT_PARAM_ERR1 : Fld := ⟨COMP_REVT, 9, 9⟩
def COMP_REVT_PARAM_ERR2 : Fld := ⟨COMP_REVT, 17, 17⟩
def COMP_REVT_PARAM_ERR3 : Fld := ⟨COMP_REVT, 25, 25⟩
def COMP_REVT_LOG_OVF0 : Fld := ⟨COMP_REVT, 2, 2⟩
def COMP_REVT_LOG_OVF1 : Fld := ⟨COMP_REVT, 10, 10⟩
def COMP_REVT_LOG_OVF2 : Fld := ⟨COMP_REVT, 18, 18⟩
def COMP_REVT_LOG_OVF3 : Fld := ⟨COMP_REVT, 26, 26⟩
def COMP_REVT_ABANDON0 : Fld := ⟨COMP_REVT, 3, 3⟩
def COMP_REVT_ABANDON1 : Fld := ⟨COMP_REVT, 11, 11⟩
def COMP_REVT_ABANDON2 : Fld := ⟨COMP_REVT, 19, 19⟩
def COMP_REVT_ABANDON3 : Fld := ⟨COMP_REVT, 27, 27⟩
def COMP_REVT_RETIRED0 : Fld := ⟨COMP_REVT, 4, 4⟩
def COMP_REVT_RETIRED1 : Fld := ⟨COMP_REVT, 12, 12⟩
def COMP_REVT_RETIRED2 : Fld := ⟨COMP_REVT, 20, 20⟩
def COMP_REVT_RETIRED3 : Fld := ⟨COMP_REVT, 28, 28⟩
def COMP_REVT_GRP_ERR0 : Fld := ⟨COMP_REVT, 5, 5⟩
def COMP_REVT_GRP_ERR1 : Fld := ⟨COMP_REVT, 13, 13⟩
def COMP_REVT_GRP_ERR2 : Fld := ⟨COMP_REVT, 21, 21⟩
def COMP_REVT_GRP_ERR3 : Fld := ⟨COMP_REVT, 29, 29⟩
def COMP_REVT_EN : Nat := 0xB0DC
def COMP_REVT_EN_EN : Fld := ⟨COMP_REVT_EN, 31, 0⟩
def COMP_RTAB (o : Nat) : Nat := 0xB0E0 + 4 * o
def COMP_RTAB_OFFSET (o : Nat) : Fld := ⟨COMP_RTAB o, 15, 2⟩
def COMP_GSTAT (o : Nat) : Nat := 0xB0F0 + 4 * o
def COMP_GSTAT_N (o : Nat) : Fld := ⟨COMP_GSTAT o, 5, 0⟩
def COMP_GSTAT_PAIRED (o : Nat) : Fld := ⟨COMP_GSTAT o, 6, 6⟩
def COMP_GSTAT_LEAD (o : Nat) : Fld := ⟨COMP_GSTAT o, 11, 8⟩
def COMP_GSTAT_LOG (o : Nat) : Fld := ⟨COMP_GSTAT o, 25, 16⟩
def COMP_XCTL (o : Nat) : Nat := 0xB100 + 0x10 * o
def COMP_XCTL_STRIDE_KB (o : Nat) : Fld := ⟨COMP_XCTL o, 5, 0⟩
def COMP_XCTL_COEF_SRC0 (o : Nat) : Fld := ⟨COMP_XCTL o, 8, 8⟩
def COMP_XCTL_COEF_SRC1 (o : Nat) : Fld := ⟨COMP_XCTL o, 9, 9⟩
def COMP_COEF_SEL : Nat := 0xB140
def COMP_COEF_SEL_OUT : Fld := ⟨COMP_COEF_SEL, 1, 0⟩
def COMP_COEF_SEL_SHEET : Fld := ⟨COMP_COEF_SEL, 2, 2⟩
def COMP_COEF_SEL_VERT : Fld := ⟨COMP_COEF_SEL, 3, 3⟩
def COMP_COEF_SEL_PHASE : Fld := ⟨COMP_COEF_SEL, 9, 4⟩
def COMP_COEF_SEL_TAP : Fld := ⟨COMP_COEF_SEL, 12, 10⟩
def COMP_COEF_DATA : Nat := 0xB144
def COMP_COEF_DATA_COEF : Fld := ⟨COMP_COEF_DATA, 11, 0⟩
def COMP_XGRP (o : Nat) : Nat := 0xB180 + 0x10 * o
def COMP_XGRP_LPUT_MAX (o : Nat) : Fld := ⟨COMP_XGRP o, 6, 0⟩
def COMP_XGRP_LEAD_MAX (o : Nat) : Fld := ⟨COMP_XGRP o, 11, 8⟩
def COMP_XGRP_AUTO_RETIRE (o : Nat) : Fld := ⟨COMP_XGRP o, 12, 12⟩
def COMP_XSTAT (o : Nat) : Nat := 0xB184 + 0x10 * o
def COMP_XSTAT_LINE (o : Nat) : Fld := ⟨COMP_XSTAT o, 13, 0⟩
def COMP_XSTAT_DROPPED (o : Nat) : Fld := ⟨COMP_XSTAT o, 14, 14⟩
def COMP_XSTAT_HALF (o : Nat) : Fld := ⟨COMP_XSTAT o, 15, 15⟩
def COMP_XSTAT_SORTER (o : Nat) : Fld := ⟨COMP_XSTAT o, 21, 16⟩
def COMP_XSTAT_VALID (o : Nat) : Fld := ⟨COMP_XSTAT o, 31, 31⟩
def OUT_CTL (o : Nat) : Nat := (0x0C + o) * 0x1000 + 0x0
def OUT_CTL_EN (o : Nat) : Fld := ⟨OUT_CTL o, 0, 0⟩
def OUT_CTL_KIND (o : Nat) : Fld := ⟨OUT_CTL o, 2, 1⟩
def OUT_CTL_BPC8 (o : Nat) : Fld := ⟨OUT_CTL o, 3, 3⟩
def OUT_CTL_ADAPT (o : Nat) : Fld := ⟨OUT_CTL o, 4, 4⟩
def OUT_CTL_PAIR (o : Nat) : Fld := ⟨OUT_CTL o, 5, 5⟩
def OUT_CTL_SEAL_EN (o : Nat) : Fld := ⟨OUT_CTL o, 6, 6⟩
def OUT_CTL_CRT_MODE (o : Nat) : Fld := ⟨OUT_CTL o, 10, 8⟩
def OUT_CTL_INTERLACE (o : Nat) : Fld := ⟨OUT_CTL o, 11, 11⟩
def OUT_CTL_CSYNC (o : Nat) : Fld := ⟨OUT_CTL o, 12, 12⟩
def OUT_CTL_RUNNING (o : Nat) : Fld := ⟨OUT_CTL o, 31, 31⟩
def OUT_PIXCLK (o : Nat) : Nat := (0x0C + o) * 0x1000 + 0x4
def OUT_PIXCLK_KHZ (o : Nat) : Fld := ⟨OUT_PIXCLK o, 20, 0⟩
def OUT_HTIME (o : Nat) : Nat := (0x0C + o) * 0x1000 + 0x8
def OUT_HTIME_HACTIVE (o : Nat) : Fld := ⟨OUT_HTIME o, 13, 0⟩
def OUT_HTIME_HTOTAL (o : Nat) : Fld := ⟨OUT_HTIME o, 29, 16⟩
def OUT_HSYNC (o : Nat) : Nat := (0x0C + o) * 0x1000 + 0xC
def OUT_HSYNC_HS_START (o : Nat) : Fld := ⟨OUT_HSYNC o, 13, 0⟩
def OUT_HSYNC_HS_END (o : Nat) : Fld := ⟨OUT_HSYNC o, 29, 16⟩
def OUT_HSYNC_VPOL (o : Nat) : Fld := ⟨OUT_HSYNC o, 30, 30⟩
def OUT_HSYNC_HPOL (o : Nat) : Fld := ⟨OUT_HSYNC o, 31, 31⟩
def OUT_VTIME (o : Nat) : Nat := (0x0C + o) * 0x1000 + 0x10
def OUT_VTIME_VACTIVE (o : Nat) : Fld := ⟨OUT_VTIME o, 13, 0⟩
def OUT_VTIME_VSTART (o : Nat) : Fld := ⟨OUT_VTIME o, 23, 16⟩
def OUT_VTIME_VSYNC (o : Nat) : Fld := ⟨OUT_VTIME o, 29, 24⟩
def OUT_VRANGE (o : Nat) : Nat := (0x0C + o) * 0x1000 + 0x14
def OUT_VRANGE_VTOTAL_MIN (o : Nat) : Fld := ⟨OUT_VRANGE o, 13, 0⟩
def OUT_VRANGE_VTOTAL_MAX (o : Nat) : Fld := ⟨OUT_VRANGE o, 29, 16⟩
def OUT_BGCOLOR (o : Nat) : Nat := (0x0C + o) * 0x1000 + 0x18
def OUT_BGCOLOR_B (o : Nat) : Fld := ⟨OUT_BGCOLOR o, 9, 0⟩
def OUT_BGCOLOR_G (o : Nat) : Fld := ⟨OUT_BGCOLOR o, 19, 10⟩
def OUT_BGCOLOR_R (o : Nat) : Fld := ⟨OUT_BGCOLOR o, 29, 20⟩
def OUT_SCENE (o : Nat) : Nat := (0x0C + o) * 0x1000 + 0x1C
def OUT_SCENE_READY (o : Nat) : Fld := ⟨OUT_SCENE o, 0, 0⟩
def OUT_EVT (o : Nat) : Nat := (0x0C + o) * 0x1000 + 0x20
def OUT_EVT_EV (o : Nat) : Fld := ⟨OUT_EVT o, 15, 0⟩
def OUT_IRQ_EN (o : Nat) : Nat := (0x0C + o) * 0x1000 + 0x24
def OUT_IRQ_EN_EN (o : Nat) : Fld := ⟨OUT_IRQ_EN o, 15, 0⟩
def OUT_LINE_MATCH (o : Nat) : Nat := (0x0C + o) * 0x1000 + 0x28
def OUT_LINE_MATCH_MATCH (o : Nat) : Fld := ⟨OUT_LINE_MATCH o, 13, 0⟩
def OUT_BEAM (o : Nat) : Nat := (0x0C + o) * 0x1000 + 0x2C
def OUT_BEAM_V (o : Nat) : Fld := ⟨OUT_BEAM o, 13, 0⟩
def OUT_BEAM_X (o : Nat) : Fld := ⟨OUT_BEAM o, 29, 16⟩
def OUT_BEAM_FIELD (o : Nat) : Fld := ⟨OUT_BEAM o, 30, 30⟩
def OUT_FRAME_COUNT (o : Nat) : Nat := (0x0C + o) * 0x1000 + 0x30
def OUT_FRAME_COUNT_COUNT (o : Nat) : Fld := ⟨OUT_FRAME_COUNT o, 31, 0⟩
def OUT_FRAME_STAT (o : Nat) : Nat := (0x0C + o) * 0x1000 + 0x34
def OUT_FRAME_STAT_LAST_VTOTAL (o : Nat) : Fld := ⟨OUT_FRAME_STAT o, 13, 0⟩
def OUT_FRAME_STAT_UNDERRUNS (o : Nat) : Fld := ⟨OUT_FRAME_STAT o, 29, 16⟩
def OUT_SEAL (o : Nat) : Nat := (0x0C + o) * 0x1000 + 0x38
def OUT_SEAL_CRC (o : Nat) : Fld := ⟨OUT_SEAL o, 31, 0⟩
def OUT_SEAL_FRAME (o : Nat) : Nat := (0x0C + o) * 0x1000 + 0x3C
def OUT_SEAL_FRAME_FRAME (o : Nat) : Fld := ⟨OUT_SEAL_FRAME o, 31, 0⟩
def OUT_CAP_CTL (o : Nat) : Nat := (0x0C + o) * 0x1000 + 0x40
def OUT_CAP_CTL_EN (o : Nat) : Fld := ⟨OUT_CAP_CTL o, 0, 0⟩
def OUT_CAP_CTL_EDGE (o : Nat) : Fld := ⟨OUT_CAP_CTL o, 2, 1⟩
def OUT_CAP_CTL_COMP (o : Nat) : Fld := ⟨OUT_CAP_CTL o, 27, 16⟩
def OUT_CAP (o : Nat) : Nat := (0x0C + o) * 0x1000 + 0x44
def OUT_CAP_V (o : Nat) : Fld := ⟨OUT_CAP o, 13, 0⟩
def OUT_CAP_X (o : Nat) : Fld := ⟨OUT_CAP o, 29, 16⟩
def OUT_CAP_FIELD (o : Nat) : Fld := ⟨OUT_CAP o, 30, 30⟩
def OUT_XBAR (o : Nat) : Nat := (0x0C + o) * 0x1000 + 0x48
def OUT_XBAR_SRC (o : Nat) : Fld := ⟨OUT_XBAR o, 1, 0⟩
def OUT_XBAR_EN (o : Nat) : Fld := ⟨OUT_XBAR o, 2, 2⟩
def OUT_XBAR_PENDING (o : Nat) : Fld := ⟨OUT_XBAR o, 31, 31⟩
def OUT_LINK (o : Nat) : Nat := (0x0C + o) * 0x1000 + 0x4C
def OUT_LINK_HPD (o : Nat) : Fld := ⟨OUT_LINK o, 0, 0⟩
def OUT_LINK_TRAINED (o : Nat) : Fld := ⟨OUT_LINK o, 1, 1⟩
def OUT_LINK_RATE (o : Nat) : Fld := ⟨OUT_LINK o, 4, 2⟩
def OUT_LINK_LANES (o : Nat) : Fld := ⟨OUT_LINK o, 6, 5⟩
def OUT_LINK_SINK_ASYNC (o : Nat) : Fld := ⟨OUT_LINK o, 7, 7⟩
def OUT_AUX_CMD (o : Nat) : Nat := (0x0C + o) * 0x1000 + 0x60
def OUT_AUX_CMD_ADDR (o : Nat) : Fld := ⟨OUT_AUX_CMD o, 19, 0⟩
def OUT_AUX_CMD_LEN (o : Nat) : Fld := ⟨OUT_AUX_CMD o, 23, 20⟩
def OUT_AUX_CMD_KIND (o : Nat) : Fld := ⟨OUT_AUX_CMD o, 25, 24⟩
def OUT_AUX_CMD_RESULT (o : Nat) : Fld := ⟨OUT_AUX_CMD o, 27, 26⟩
def OUT_AUX_CMD_BUSY (o : Nat) : Fld := ⟨OUT_AUX_CMD o, 31, 31⟩
def OUT_AUX_DATA (o k : Nat) : Nat := (0x0C + o) * 0x1000 + 0x64 + 4 * k
def OUT_AUX_DATA_DATA (o k : Nat) : Fld := ⟨OUT_AUX_DATA o k, 31, 0⟩
def OUT_XFETCH (o : Nat) : Nat := (0x0C + o) * 0x1000 + 0x100
def OUT_XFETCH_LEAD_NS (o : Nat) : Fld := ⟨OUT_XFETCH o, 8, 0⟩
def OUT_XLINK (o : Nat) : Nat := (0x0C + o) * 0x1000 + 0x104
def OUT_XLINK_FORCE (o : Nat) : Fld := ⟨OUT_XLINK o, 0, 0⟩
def OUT_XLINK_RATE (o : Nat) : Fld := ⟨OUT_XLINK o, 3, 1⟩
def OUT_XLINK_LANES (o : Nat) : Fld := ⟨OUT_XLINK o, 5, 4⟩
def OUT_XLINK_SSC (o : Nat) : Fld := ⟨OUT_XLINK o, 6, 6⟩
def OUT_XLINK_RETRAIN (o : Nat) : Fld := ⟨OUT_XLINK o, 7, 7⟩
def OUT_XDAC (o : Nat) : Nat := (0x0C + o) * 0x1000 + 0x108
def OUT_XDAC_GAIN_B (o : Nat) : Fld := ⟨OUT_XDAC o, 7, 0⟩
def OUT_XDAC_GAIN_G (o : Nat) : Fld := ⟨OUT_XDAC o, 15, 8⟩
def OUT_XDAC_GAIN_RED (o : Nat) : Fld := ⟨OUT_XDAC o, 23, 16⟩
def OUT_XDAC_SETUP (o : Nat) : Fld := ⟨OUT_XDAC o, 24, 24⟩
def AUD_CTL : Nat := 0x10000
def AUD_CTL_EN : Fld := ⟨AUD_CTL, 2, 0⟩
def AUD_CTL_B_RATE : Fld := ⟨AUD_CTL, 3, 3⟩
def AUD_CTL_B_CLK : Fld := ⟨AUD_CTL, 4, 4⟩
def AUD_CTL_V_SPL : Fld := ⟨AUD_CTL, 6, 5⟩
def AUD_CTL_V_OUT : Fld := ⟨AUD_CTL, 8, 7⟩
def AUD_CTL_BLK : Fld := ⟨AUD_CTL, 14, 9⟩
def AUD_HMAP : Nat := 0x10004
def AUD_HMAP_MAP : Fld := ⟨AUD_HMAP, 11, 0⟩
def AUD_EVT : Nat := 0x10008
def AUD_EVT_BLOCK_LATE : Fld := ⟨AUD_EVT, 2, 0⟩
def AUD_EVT_SWAP_DONE : Fld := ⟨AUD_EVT, 5, 3⟩
def AUD_EVT_CMD_LATE : Fld := ⟨AUD_EVT, 6, 6⟩
def AUD_EVT_POISON : Fld := ⟨AUD_EVT, 7, 7⟩
def AUD_EVT_POINT_ERR : Fld := ⟨AUD_EVT, 8, 8⟩
def AUD_EVT_V_STOP : Fld := ⟨AUD_EVT, 9, 9⟩
def AUD_EVT_VEND : Fld := ⟨AUD_EVT, 10, 10⟩
def AUD_EVT_BRIDGE_ERR : Fld := ⟨AUD_EVT, 11, 11⟩
def AUD_EVT_CFG_ERR : Fld := ⟨AUD_EVT, 12, 12⟩
def AUD_EVT_DYN_ERR : Fld := ⟨AUD_EVT, 13, 13⟩
def AUD_EVT_SLIP_ERR : Fld := ⟨AUD_EVT, 14, 14⟩
def AUD_IRQ_EN : Nat := 0x1000C
def AUD_IRQ_EN_EN : Fld := ⟨AUD_IRQ_EN, 14, 0⟩
def AUD_SLIP_NEXT (d : Nat) : Nat := 0x10010 + 4 * d
def AUD_SLIP_NEXT_OFFSET (d : Nat) : Fld := ⟨AUD_SLIP_NEXT d, 21, 8⟩
def AUD_SLIP_NEXT_XF (d : Nat) : Fld := ⟨AUD_SLIP_NEXT d, 25, 24⟩
def AUD_SLIP_NEXT_GO (d : Nat) : Fld := ⟨AUD_SLIP_NEXT d, 31, 31⟩
def AUD_SLIP_CUR (d : Nat) : Nat := 0x10020 + 4 * d
def AUD_SLIP_CUR_OFFSET (d : Nat) : Fld := ⟨AUD_SLIP_CUR d, 21, 0⟩
def AUD_SN_LO (d : Nat) : Nat := 0x10030 + 8 * d
def AUD_SN_LO_SN_LO (d : Nat) : Fld := ⟨AUD_SN_LO d, 31, 0⟩
def AUD_SN_HI (d : Nat) : Nat := 0x10034 + 8 * d
def AUD_SN_HI_SN_HI (d : Nat) : Fld := ⟨AUD_SN_HI d, 31, 0⟩
def AUD_STATE_BASE : Nat := 0x10048
def AUD_STATE_BASE_BASE : Fld := ⟨AUD_STATE_BASE, 21, 17⟩
def AUD_VREC : Nat := 0x1004C
def AUD_VREC_OFFSET : Fld := ⟨AUD_VREC, 17, 6⟩
def AUD_VRANGE (h : Nat) : Nat := 0x10050 + 4 * h
def AUD_VRANGE_FIRST (h : Nat) : Fld := ⟨AUD_VRANGE h, 8, 0⟩
def AUD_VRANGE_COUNT (h : Nat) : Fld := ⟨AUD_VRANGE h, 25, 16⟩
def AUD_VCQ (d : Nat) : Nat := 0x10068 + 4 * d
def AUD_VCQ_WR (d : Nat) : Fld := ⟨AUD_VCQ d, 5, 0⟩
def AUD_VCQ_BASE (d : Nat) : Fld := ⟨AUD_VCQ d, 21, 10⟩
def AUD_VCQ_RD (d : Nat) : Fld := ⟨AUD_VCQ d, 29, 24⟩
def AUD_VEND : Nat := 0x10074
def AUD_VEND_VOICE : Fld := ⟨AUD_VEND, 8, 0⟩
def AUD_VEND_VEND_OVF : Fld := ⟨AUD_VEND, 30, 30⟩
def AUD_VEND_VALID : Fld := ⟨AUD_VEND, 31, 31⟩
def AUD_LATE : Nat := 0x10078
def AUD_LATE_COUNT : Fld := ⟨AUD_LATE, 29, 0⟩
def AUD_FAULT : Nat := 0x1007C
def AUD_FAULT_POINT : Fld := ⟨AUD_FAULT, 7, 0⟩
def AUD_FAULT_DOMAIN : Fld := ⟨AUD_FAULT, 9, 8⟩
def AUD_VRATE : Nat := 0x10080
def AUD_VRATE_RATE : Fld := ⟨AUD_VRATE, 31, 0⟩
def AUD_DYN_SEL : Nat := 0x10084
def AUD_DYN_SEL_BLOCK : Fld := ⟨AUD_DYN_SEL, 3, 0⟩
def AUD_DYN_CFG : Nat := 0x10088
def AUD_DYN_CFG_MODE : Fld := ⟨AUD_DYN_CFG, 1, 0⟩
def AUD_DYN_CFG_DOMAIN : Fld := ⟨AUD_DYN_CFG, 3, 2⟩
def AUD_DYN_CFG_LINK : Fld := ⟨AUD_DYN_CFG, 4, 4⟩
def AUD_DYN_CFG_LA : Fld := ⟨AUD_DYN_CFG, 11, 5⟩
def AUD_DYN_CFG_ATT : Fld := ⟨AUD_DYN_CFG, 22, 12⟩
def AUD_DYN_THR : Nat := 0x1008C
def AUD_DYN_THR_T : Fld := ⟨AUD_DYN_THR, 31, 0⟩
def AUD_DYN_MAKEUP : Nat := 0x10090
def AUD_DYN_MAKEUP_G : Fld := ⟨AUD_DYN_MAKEUP, 31, 0⟩
def AUD_DYN_REL : Nat := 0x10094
def AUD_DYN_REL_REL : Fld := ⟨AUD_DYN_REL, 10, 0⟩
def AUD_BR_CFG (b : Nat) : Nat := 0x100A0 + 4 * b
def AUD_BR_CFG_EN (b : Nat) : Fld := ⟨AUD_BR_CFG b, 0, 0⟩
def AUD_BR_CFG_SRC (b : Nat) : Fld := ⟨AUD_BR_CFG b, 2, 1⟩
def AUD_BR_CFG_DST (b : Nat) : Fld := ⟨AUD_BR_CFG b, 4, 3⟩
def AUD_BR_CFG_MEAS (b : Nat) : Fld := ⟨AUD_BR_CFG b, 31, 31⟩
def AUD_XDYN_ATT : Nat := 0x10110
def AUD_XDYN_ATT_A_ATT : Fld := ⟨AUD_XDYN_ATT, 31, 0⟩
def AUD_XDYN_REL : Nat := 0x10114
def AUD_XDYN_REL_A_REL : Fld := ⟨AUD_XDYN_REL, 31, 0⟩
def AUD_XBRC_SEL : Nat := 0x10120
def AUD_XBRC_SEL_TAP : Fld := ⟨AUD_XBRC_SEL, 3, 0⟩
def AUD_XBRC_SEL_PHASE : Fld := ⟨AUD_XBRC_SEL, 11, 4⟩
def AUD_XBRC_SEL_SET : Fld := ⟨AUD_XBRC_SEL, 13, 12⟩
def AUD_XBRC_DATA : Nat := 0x10124
def AUD_XBRC_DATA_H : Fld := ⟨AUD_XBRC_DATA, 31, 0⟩
def AIO_TDM (p : Nat) : Nat := 0x11000 + 4 * p
def AIO_TDM_EN (p : Nat) : Fld := ⟨AIO_TDM p, 0, 0⟩
def AIO_TDM_DOMAIN (p : Nat) : Fld := ⟨AIO_TDM p, 2, 1⟩
def AIO_TDM_MODE (p : Nat) : Fld := ⟨AIO_TDM p, 4, 3⟩
def AIO_TDM_SLOTS (p : Nat) : Fld := ⟨AIO_TDM p, 8, 5⟩
def AIO_TDM_SLOTW (p : Nat) : Fld := ⟨AIO_TDM p, 10, 9⟩
def AIO_TDM_SAMPW (p : Nat) : Fld := ⟨AIO_TDM p, 12, 11⟩
def AIO_TDM_RXEN (p : Nat) : Fld := ⟨AIO_TDM p, 13, 13⟩
def AIO_TDM_MCLK (p : Nat) : Fld := ⟨AIO_TDM p, 14, 14⟩
def AIO_SPDIF : Nat := 0x11010
def AIO_SPDIF_EN : Fld := ⟨AIO_SPDIF, 0, 0⟩
def AIO_SPDIF_DOMAIN : Fld := ⟨AIO_SPDIF, 1, 1⟩
def AIO_SPDIF_WIDTH : Fld := ⟨AIO_SPDIF, 3, 2⟩
def AIO_SPDIF_COPY : Fld := ⟨AIO_SPDIF, 4, 4⟩
def AIO_SPDIF_CAT : Fld := ⟨AIO_SPDIF, 15, 8⟩
def AIO_DP (o : Nat) : Nat := 0x11020 + 4 * o
def AIO_DP_EN (o : Nat) : Fld := ⟨AIO_DP o, 0, 0⟩
def AIO_DP_DOMAIN (o : Nat) : Fld := ⟨AIO_DP o, 1, 1⟩
def AIO_DP_CH8 (o : Nat) : Fld := ⟨AIO_DP o, 2, 2⟩
def AIO_DP_WIDTH (o : Nat) : Fld := ⟨AIO_DP o, 4, 3⟩
def AIO_EVT : Nat := 0x11030
def AIO_EVT_RX_OVF : Fld := ⟨AIO_EVT, 1, 0⟩
def AIO_EVT_RATE_ERR : Fld := ⟨AIO_EVT, 2, 2⟩
def AIO_EVT_CLK_LOSS : Fld := ⟨AIO_EVT, 3, 3⟩
def AIO_EVT_CFG_ERR : Fld := ⟨AIO_EVT, 4, 4⟩
def AIO_IRQ_EN : Nat := 0x11034
def AIO_IRQ_EN_EN : Fld := ⟨AIO_IRQ_EN, 4, 0⟩
def AIO_XPAD : Nat := 0x11100
def AIO_XPAD_FSINV : Fld := ⟨AIO_XPAD, 3, 0⟩
def AIO_XPAD_BCLKINV : Fld := ⟨AIO_XPAD, 7, 4⟩
def PCIE_CTL : Nat := 0x12000
def PCIE_CTL_EN : Fld := ⟨PCIE_CTL, 0, 0⟩
def PCIE_CTL_MODE : Fld := ⟨PCIE_CTL, 2, 1⟩
def PCIE_CTL_MAXGEN : Fld := ⟨PCIE_CTL, 4, 3⟩
def PCIE_CTL_MAXW : Fld := ⟨PCIE_CTL, 6, 5⟩
def PCIE_STATUS : Nat := 0x12004
def PCIE_STATUS_UP : Fld := ⟨PCIE_STATUS, 0, 0⟩
def PCIE_STATUS_GEN : Fld := ⟨PCIE_STATUS, 2, 1⟩
def PCIE_STATUS_WIDTH : Fld := ⟨PCIE_STATUS, 4, 3⟩
def PCIE_STATUS_L1 : Fld := ⟨PCIE_STATUS, 5, 5⟩
def PCIE_STATUS_IDLE : Fld := ⟨PCIE_STATUS, 6, 6⟩
def PCIE_EVT : Nat := 0x12008
def PCIE_EVT_LINK_UP : Fld := ⟨PCIE_EVT, 0, 0⟩
def PCIE_EVT_LINK_DOWN : Fld := ⟨PCIE_EVT, 1, 1⟩
def PCIE_EVT_AER_COR : Fld := ⟨PCIE_EVT, 2, 2⟩
def PCIE_EVT_AER_UNCOR : Fld := ⟨PCIE_EVT, 3, 3⟩
def PCIE_EVT_MSI : Fld := ⟨PCIE_EVT, 4, 4⟩
def PCIE_EVT_CFG_UR : Fld := ⟨PCIE_EVT, 5, 5⟩
def PCIE_IRQ_EN : Nat := 0x1200C
def PCIE_IRQ_EN_EN : Fld := ⟨PCIE_IRQ_EN, 5, 0⟩
def PCIE_WIN : Nat := 0x12010
def PCIE_WIN_BASE : Fld := ⟨PCIE_WIN, 9, 0⟩
def PCIE_OBASE : Nat := 0x12014
def PCIE_OBASE_ADDR : Fld := ⟨PCIE_OBASE, 28, 0⟩
def PCIE_CFGADDR : Nat := 0x12018
def PCIE_CFGADDR_REG : Fld := ⟨PCIE_CFGADDR, 11, 2⟩
def PCIE_CFGADDR_FN : Fld := ⟨PCIE_CFGADDR, 14, 12⟩
def PCIE_CFGADDR_DEV : Fld := ⟨PCIE_CFGADDR, 19, 15⟩
def PCIE_CFGADDR_BUS : Fld := ⟨PCIE_CFGADDR, 27, 20⟩
def PCIE_CFGDATA : Nat := 0x1201C
def PCIE_CFGDATA_DATA : Fld := ⟨PCIE_CFGDATA, 31, 0⟩
def PCIE_MSI : Nat := 0x12020
def PCIE_MSI_VEC : Fld := ⟨PCIE_MSI, 31, 0⟩
def PCIE_XID : Nat := 0x12100
def PCIE_XID_VID : Fld := ⟨PCIE_XID, 15, 0⟩
def PCIE_XID_DID : Fld := ⟨PCIE_XID, 31, 16⟩
def PCIE_XSUB : Nat := 0x12104
def PCIE_XSUB_SVID : Fld := ⟨PCIE_XSUB, 15, 0⟩
def PCIE_XSUB_SID : Fld := ⟨PCIE_XSUB, 31, 16⟩
def PCIE_XCFG : Nat := 0x12108
def PCIE_XCFG_CTO_MS : Fld := ⟨PCIE_XCFG, 15, 0⟩
def PCIE_XCFG_L1EN : Fld := ⟨PCIE_XCFG, 16, 16⟩
def PCIE_XMSI : Nat := 0x1210C
def PCIE_XMSI_ADDR : Fld := ⟨PCIE_XMSI, 31, 0⟩
def STOR_CTL : Nat := 0x13000
def STOR_CTL_EN : Fld := ⟨STOR_CTL, 0, 0⟩
def STOR_CTL_KIND : Fld := ⟨STOR_CTL, 2, 1⟩
def STOR_STATUS : Nat := 0x13004
def STOR_STATUS_PRESENT : Fld := ⟨STOR_STATUS, 0, 0⟩
def STOR_STATUS_READY : Fld := ⟨STOR_STATUS, 1, 1⟩
def STOR_STATUS_BUSY : Fld := ⟨STOR_STATUS, 2, 2⟩
def STOR_STATUS_SPEED : Fld := ⟨STOR_STATUS, 5, 3⟩
def STOR_STATUS_WIDTH : Fld := ⟨STOR_STATUS, 7, 6⟩
def STOR_CAP : Nat := 0x13008
def STOR_CAP_BLOCKS : Fld := ⟨STOR_CAP, 31, 0⟩
def STOR_BLK_LBA : Nat := 0x1300C
def STOR_BLK_LBA_LBA : Fld := ⟨STOR_BLK_LBA, 31, 0⟩
def STOR_BLK_ADDR : Nat := 0x13010
def STOR_BLK_ADDR_ADDR : Fld := ⟨STOR_BLK_ADDR, 31, 0⟩
def STOR_BLK_CNT : Nat := 0x13014
def STOR_BLK_CNT_COUNT : Fld := ⟨STOR_BLK_CNT, 15, 0⟩
def STOR_BLK_CNT_DIR : Fld := ⟨STOR_BLK_CNT, 30, 30⟩
def STOR_BLK_CNT_GO : Fld := ⟨STOR_BLK_CNT, 31, 31⟩
def STOR_QCMD : Nat := 0x13018
def STOR_QCMD_OPCODE : Fld := ⟨STOR_QCMD, 7, 0⟩
def STOR_QCMD_ABYTES : Fld := ⟨STOR_QCMD, 9, 8⟩
def STOR_QCMD_DUMMY : Fld := ⟨STOR_QCMD, 14, 10⟩
def STOR_QCMD_LANES : Fld := ⟨STOR_QCMD, 16, 15⟩
def STOR_QCMD_WRITE : Fld := ⟨STOR_QCMD, 17, 17⟩
def STOR_QCMD_LEN : Fld := ⟨STOR_QCMD, 29, 18⟩
def STOR_QCMD_LOST : Fld := ⟨STOR_QCMD, 30, 30⟩
def STOR_QCMD_GO : Fld := ⟨STOR_QCMD, 31, 31⟩
def STOR_QADDR : Nat := 0x1301C
def STOR_QADDR_ADDR : Fld := ⟨STOR_QADDR, 31, 0⟩
def STOR_QDATA : Nat := 0x13020
def STOR_QDATA_DATA : Fld := ⟨STOR_QDATA, 31, 0⟩
def STOR_EVT : Nat := 0x13024
def STOR_EVT_DONE : Fld := ⟨STOR_EVT, 0, 0⟩
def STOR_EVT_ERR : Fld := ⟨STOR_EVT, 1, 1⟩
def STOR_EVT_CARD_CHG : Fld := ⟨STOR_EVT, 2, 2⟩
def STOR_EVT_QDONE : Fld := ⟨STOR_EVT, 3, 3⟩
def STOR_EVT_QSPI_LOST : Fld := ⟨STOR_EVT, 4, 4⟩
def STOR_IRQ_EN : Nat := 0x13028
def STOR_IRQ_EN_EN : Fld := ⟨STOR_IRQ_EN, 4, 0⟩
def STOR_XQCLK : Nat := 0x13100
def STOR_XQCLK_MHZ : Fld := ⟨STOR_XQCLK, 6, 0⟩
def USB_CTL : Nat := 0x14000
def USB_CTL_EN : Fld := ⟨USB_CTL, 0, 0⟩
def USB_CTL_PWR : Fld := ⟨USB_CTL, 2, 1⟩
def USB_PORT (p : Nat) : Nat := 0x14004 + 4 * p
def USB_PORT_CONN (p : Nat) : Fld := ⟨USB_PORT p, 0, 0⟩
def USB_PORT_SPEED (p : Nat) : Fld := ⟨USB_PORT p, 2, 1⟩
def USB_PORT_OC (p : Nat) : Fld := ⟨USB_PORT p, 3, 3⟩
def USB_EVT : Nat := 0x1400C
def USB_EVT_CONN_CHG : Fld := ⟨USB_EVT, 1, 0⟩
def USB_EVT_OC_EV : Fld := ⟨USB_EVT, 3, 2⟩
def USB_IRQ_EN : Nat := 0x14010
def USB_IRQ_EN_EN : Fld := ⟨USB_IRQ_EN, 3, 0⟩
def ZOW_CTL : Nat := 0x15000
def ZOW_CTL_EN : Fld := ⟨ZOW_CTL, 0, 0⟩
def ZOW_CTL_ROLE_PREF : Fld := ⟨ZOW_CTL, 2, 1⟩
def ZOW_CTL_T_ACCEPT : Fld := ⟨ZOW_CTL, 3, 3⟩
def ZOW_CTL_SEAL_EN : Fld := ⟨ZOW_CTL, 4, 4⟩
def ZOW_STATUS : Nat := 0x15004
def ZOW_STATUS_STATE : Fld := ⟨ZOW_STATUS, 2, 0⟩
def ZOW_STATUS_ROLE : Fld := ⟨ZOW_STATUS, 4, 3⟩
def ZOW_STATUS_ELIGIBLE : Fld := ⟨ZOW_STATUS, 5, 5⟩
def ZOW_STATUS_DIVERGED : Fld := ⟨ZOW_STATUS, 6, 6⟩
def ZOW_STATUS_PEER : Fld := ⟨ZOW_STATUS, 7, 7⟩
def ZOW_STATUS_LANES : Fld := ⟨ZOW_STATUS, 10, 8⟩
def ZOW_STATUS_SPARE_USED : Fld := ⟨ZOW_STATUS, 11, 11⟩
def ZOW_STATUS_REFUSE : Fld := ⟨ZOW_STATUS, 15, 12⟩
def ZOW_STATUS_RATE : Fld := ⟨ZOW_STATUS, 17, 16⟩
def ZOW_EVT : Nat := 0x15008
def ZOW_EVT_EV : Fld := ⟨ZOW_EVT, 16, 0⟩
def ZOW_IRQ_EN : Nat := 0x1500C
def ZOW_IRQ_EN_EN : Fld := ⟨ZOW_IRQ_EN, 16, 0⟩
def ZOW_CMD : Nat := 0x15010
def ZOW_CMD_CMD : Fld := ⟨ZOW_CMD, 5, 0⟩
def ZOW_SNAP_SRC : Nat := 0x15014
def ZOW_SNAP_SRC_ADDR : Fld := ⟨ZOW_SNAP_SRC, 31, 0⟩
def ZOW_SNAP_POST : Nat := 0x15018
def ZOW_SNAP_POST_LEN : Fld := ⟨ZOW_SNAP_POST, 11, 0⟩
def ZOW_SNAP_POST_GO : Fld := ⟨ZOW_SNAP_POST, 31, 31⟩
def ZOW_SNAP_RING : Nat := 0x1501C
def ZOW_SNAP_RING_BASE : Fld := ⟨ZOW_SNAP_RING, 23, 0⟩
def ZOW_SNAP_RING_LOG2N : Fld := ⟨ZOW_SNAP_RING, 27, 24⟩
def ZOW_SNAP_SEQ : Nat := 0x15020
def ZOW_SNAP_SEQ_SEQ : Fld := ⟨ZOW_SNAP_SEQ, 31, 0⟩
def ZOW_BULK_ADDR : Nat := 0x15024
def ZOW_BULK_ADDR_ADDR : Fld := ⟨ZOW_BULK_ADDR, 28, 0⟩
def ZOW_BULK_LEN : Nat := 0x15028
def ZOW_BULK_LEN_LEN : Fld := ⟨ZOW_BULK_LEN, 23, 0⟩
def ZOW_WIN (w : Nat) : Nat := 0x15040 + 4 * w
def ZOW_WIN_BASE (w : Nat) : Fld := ⟨ZOW_WIN w, 14, 0⟩
def ZOW_WIN_SIZE (w : Nat) : Fld := ⟨ZOW_WIN w, 29, 16⟩
def ZOW_WIN_STREAM (w : Nat) : Fld := ⟨ZOW_WIN w, 31, 30⟩
def ZOW_SEAL_MISS : Nat := 0x15060
def ZOW_SEAL_MISS_COUNT : Fld := ⟨ZOW_SEAL_MISS, 15, 0⟩
def ZOW_SEAL_MISS_OUT : Fld := ⟨ZOW_SEAL_MISS, 17, 16⟩
def ZOW_SEAL_LAST : Nat := 0x15064
def ZOW_SEAL_LAST_FRAME : Fld := ⟨ZOW_SEAL_LAST, 31, 0⟩
def ZOW_LANE : Nat := 0x15068
def ZOW_LANE_LOCK : Fld := ⟨ZOW_LANE, 4, 0⟩
def ZOW_LANE_ACTIVE : Fld := ⟨ZOW_LANE, 12, 8⟩
def ZOW_LANE_FAILED : Fld := ⟨ZOW_LANE, 20, 16⟩
def ZOW_XTIME : Nat := 0x15100
def ZOW_XTIME_HB_US : Fld := ⟨ZOW_XTIME, 7, 0⟩
def ZOW_XTIME_HB_MISS : Fld := ⟨ZOW_XTIME, 11, 8⟩
def ZOW_XTIME_PEER_HOLD : Fld := ⟨ZOW_XTIME, 23, 16⟩
def ZOW_XTIME_FOLLOW_US : Fld := ⟨ZOW_XTIME, 31, 24⟩
def ZOW_XLINK : Nat := 0x15104
def ZOW_XLINK_FORCE : Fld := ⟨ZOW_XLINK, 0, 0⟩
def ZOW_XLINK_RATE : Fld := ⟨ZOW_XLINK, 2, 1⟩
def ZOW_XLINK_BIP_LIMIT : Fld := ⟨ZOW_XLINK, 15, 8⟩
def ZOW_XLINK_SEAL_WINDOW : Fld := ⟨ZOW_XLINK, 19, 16⟩
def ZOW_XLINK_STRICT : Fld := ⟨ZOW_XLINK, 20, 20⟩
def ZOW_XSHARE : Nat := 0x15108
def ZOW_XSHARE_W : Fld := ⟨ZOW_XSHARE, 19, 0⟩
def POBOX_STATUS : Nat := 0x16000
def POBOX_STATUS_FU_READY : Fld := ⟨POBOX_STATUS, 0, 0⟩
def POBOX_STATUS_SEALED : Fld := ⟨POBOX_STATUS, 1, 1⟩
def POBOX_STATUS_ROLE : Fld := ⟨POBOX_STATUS, 3, 2⟩
def POBOX_STATUS_STALE : Fld := ⟨POBOX_STATUS, 4, 4⟩
def POBOX_STATUS_NOTICE_FAULT : Fld := ⟨POBOX_STATUS, 5, 5⟩
def POBOX_STATUS_STORE_FAULT : Fld := ⟨POBOX_STATUS, 6, 6⟩
def POBOX_STATUS_RECOVERY : Fld := ⟨POBOX_STATUS, 7, 7⟩
def POBOX_STATUS_HOLD : Fld := ⟨POBOX_STATUS, 8, 8⟩
def POBOX_STATUS_RTC_VALID : Fld := ⟨POBOX_STATUS, 9, 9⟩
def POBOX_STATUS_PULSE_JAM : Fld := ⟨POBOX_STATUS, 10, 10⟩
def POBOX_STATUS_METER_FAULT : Fld := ⟨POBOX_STATUS, 11, 11⟩
def POBOX_STATUS_ROM_MODE : Fld := ⟨POBOX_STATUS, 12, 12⟩
def POBOX_GEN : Nat := 0x16004
def POBOX_GEN_GEN : Fld := ⟨POBOX_GEN, 31, 0⟩
def POBOX_CLAIM : Nat := 0x16008
def POBOX_CLAIM_SLOT : Fld := ⟨POBOX_CLAIM, 5, 0⟩
def POBOX_CLAIM_VALID : Fld := ⟨POBOX_CLAIM, 31, 31⟩
def POBOX_SEL : Nat := 0x1600C
def POBOX_SEL_SLOT : Fld := ⟨POBOX_SEL, 5, 0⟩
def POBOX_SLOT : Nat := 0x16010
def POBOX_SLOT_STATE : Fld := ⟨POBOX_SLOT, 2, 0⟩
def POBOX_SLOT_OWNER : Fld := ⟨POBOX_SLOT, 15, 4⟩
def POBOX_SLOT_RESULT : Fld := ⟨POBOX_SLOT, 23, 16⟩
def POBOX_SLOT_ABORT_LATE : Fld := ⟨POBOX_SLOT, 24, 24⟩
def POBOX_SLOT_DUP : Fld := ⟨POBOX_SLOT, 25, 25⟩
def POBOX_CMD : Nat := 0x16014
def POBOX_CMD_POST : Fld := ⟨POBOX_CMD, 0, 0⟩
def POBOX_CMD_ABORT : Fld := ⟨POBOX_CMD, 1, 1⟩
def POBOX_CMD_RELEASE : Fld := ⟨POBOX_CMD, 2, 2⟩
def POBOX_DONE_LO : Nat := 0x16018
def POBOX_DONE_LO_DONE : Fld := ⟨POBOX_DONE_LO, 31, 0⟩
def POBOX_DONE_HI : Nat := 0x1601C
def POBOX_DONE_HI_DONE : Fld := ⟨POBOX_DONE_HI, 30, 0⟩
def POBOX_DONE_EN_LO : Nat := 0x16020
def POBOX_DONE_EN_LO_EN : Fld := ⟨POBOX_DONE_EN_LO, 31, 0⟩
def POBOX_DONE_EN_HI : Nat := 0x16024
def POBOX_DONE_EN_HI_EN : Fld := ⟨POBOX_DONE_EN_HI, 30, 0⟩
def POBOX_EVT : Nat := 0x16028
def POBOX_EVT_STATUS_CHG : Fld := ⟨POBOX_EVT, 0, 0⟩
def POBOX_EVT_OWNER_ERR : Fld := ⟨POBOX_EVT, 1, 1⟩
def POBOX_EVT_STATE_ERR : Fld := ⟨POBOX_EVT, 2, 2⟩
def POBOX_EVT_EN : Nat := 0x1602C
def POBOX_EVT_EN_EN : Fld := ⟨POBOX_EVT_EN, 2, 0⟩
def POBOX_RTC : Nat := 0x16030
def POBOX_RTC_SECONDS : Fld := ⟨POBOX_RTC, 31, 0⟩
def POBOX_DATA (k : Nat) : Nat := 0x16040 + 4 * k
def POBOX_DATA_DATA (k : Nat) : Fld := ⟨POBOX_DATA k, 31, 0⟩
def POBOX_XCFG : Nat := 0x16100
def POBOX_XCFG_OWNER_CHECK : Fld := ⟨POBOX_XCFG, 0, 0⟩
def POBOX_XFORCE : Nat := 0x16104
def POBOX_XFORCE_SLOT : Fld := ⟨POBOX_XFORCE, 5, 0⟩
def POBOX_XFORCE_GO : Fld := ⟨POBOX_XFORCE, 31, 31⟩
def POBOX_XINJ : Nat := 0x16108
def POBOX_XINJ_NOTICE_INJ : Fld := ⟨POBOX_XINJ, 3, 0⟩
def DAYB_HEAD : Nat := 0x17000
def DAYB_HEAD_SEQ : Fld := ⟨DAYB_HEAD, 30, 0⟩
def DAYB_OLDEST : Nat := 0x17004
def DAYB_OLDEST_SEQ : Fld := ⟨DAYB_OLDEST, 30, 0⟩
def DAYB_RSEL : Nat := 0x17008
def DAYB_RSEL_SEQ : Fld := ⟨DAYB_RSEL, 30, 0⟩
def DAYB_RSEL_EPOCH : Fld := ⟨DAYB_RSEL, 31, 31⟩
def DAYB_STAT : Nat := 0x1700C
def DAYB_STAT_HELD : Fld := ⟨DAYB_STAT, 0, 0⟩
def DAYB_STAT_FROZEN : Fld := ⟨DAYB_STAT, 1, 1⟩
def DAYB_RDATA (k : Nat) : Nat := 0x17010 + 4 * k
def DAYB_RDATA_DATA (k : Nat) : Fld := ⟨DAYB_RDATA k, 31, 0⟩
def DAYB_SW (k : Nat) : Nat := 0x17030 + 4 * k
def DAYB_SW_DATA (k : Nat) : Fld := ⟨DAYB_SW k, 31, 0⟩
def DAYB_SWGO : Nat := 0x17040
def DAYB_SWGO_ORIGIN : Fld := ⟨DAYB_SWGO, 11, 0⟩
def DAYB_SWGO_KIND : Fld := ⟨DAYB_SWGO, 23, 16⟩
def DAYB_SWGO_GO : Fld := ⟨DAYB_SWGO, 31, 31⟩
def DAYB_EVT : Nat := 0x17044
def DAYB_EVT_ERR_EV : Fld := ⟨DAYB_EVT, 0, 0⟩
def DAYB_EVT_FROZEN_EV : Fld := ⟨DAYB_EVT, 1, 1⟩
def DAYB_EVT_SW_ERR : Fld := ⟨DAYB_EVT, 2, 2⟩
def DAYB_IRQ_EN : Nat := 0x17048
def DAYB_IRQ_EN_EN : Fld := ⟨DAYB_IRQ_EN, 2, 0⟩
def DAYB_REPSEL : Nat := 0x17050
def DAYB_REPSEL_INDEX : Fld := ⟨DAYB_REPSEL, 5, 0⟩
def DAYB_REPSEL_COUNT : Fld := ⟨DAYB_REPSEL, 22, 16⟩
def DAYB_REPDATA (k : Nat) : Nat := 0x17054 + 4 * k
def DAYB_REPDATA_DATA (k : Nat) : Fld := ⟨DAYB_REPDATA k, 31, 0⟩
def DBG_STATUS : Nat := 0x18000
def DBG_STATUS_SESSION : Fld := ⟨DBG_STATUS, 1, 0⟩
def DBG_STATUS_LEVEL : Fld := ⟨DBG_STATUS, 4, 2⟩
def DBG_CTL : Nat := 0x18004
def DBG_CTL_BOOTHALT : Fld := ⟨DBG_CTL, 0, 0⟩
def DBG_CTL_STEP_IRQ : Fld := ⟨DBG_CTL, 1, 1⟩
def DBG_HALT_LO : Nat := 0x18008
def DBG_HALT_LO_HALT : Fld := ⟨DBG_HALT_LO, 31, 0⟩
def DBG_HALT_HI : Nat := 0x1800C
def DBG_HALT_HI_HALT : Fld := ⟨DBG_HALT_HI, 31, 0⟩
def DBG_RESUME_LO : Nat := 0x18010
def DBG_RESUME_LO_RESUME : Fld := ⟨DBG_RESUME_LO, 31, 0⟩
def DBG_RESUME_HI : Nat := 0x18014
def DBG_RESUME_HI_RESUME : Fld := ⟨DBG_RESUME_HI, 31, 0⟩
def DBG_STEP : Nat := 0x18018
def DBG_STEP_CORE : Fld := ⟨DBG_STEP, 5, 0⟩
def DBG_STEP_GO : Fld := ⟨DBG_STEP, 31, 31⟩
def DBG_FEED_SEL : Nat := 0x1801C
def DBG_FEED_SEL_CORE : Fld := ⟨DBG_FEED_SEL, 5, 0⟩
def DBG_FEED : Nat := 0x18020
def DBG_FEED_INSN : Fld := ⟨DBG_FEED, 31, 0⟩
def DBG_FEED_STAT : Nat := 0x18024
def DBG_FEED_STAT_BUSY : Fld := ⟨DBG_FEED_STAT, 0, 0⟩
def DBG_FEED_STAT_RESULT : Fld := ⟨DBG_FEED_STAT, 2, 1⟩
def DBG_FEED_STAT_CAUSE : Fld := ⟨DBG_FEED_STAT, 13, 8⟩
def DBG_DATA : Nat := 0x18028
def DBG_DATA_DATA : Fld := ⟨DBG_DATA, 31, 0⟩
def DBG_DAM_ADDR : Nat := 0x18030
def DBG_DAM_ADDR_ADDR : Fld := ⟨DBG_DAM_ADDR, 31, 2⟩
def DBG_DAM_CTL : Nat := 0x18034
def DBG_DAM_CTL_AHI : Fld := ⟨DBG_DAM_CTL, 7, 0⟩
def DBG_DAM_CTL_WRITE : Fld := ⟨DBG_DAM_CTL, 8, 8⟩
def DBG_DAM_CTL_PEEK : Fld := ⟨DBG_DAM_CTL, 9, 9⟩
def DBG_DAM_CTL_RESULT : Fld := ⟨DBG_DAM_CTL, 13, 12⟩
def DBG_DAM_CTL_BUSY : Fld := ⟨DBG_DAM_CTL, 30, 30⟩
def DBG_DAM_CTL_GO : Fld := ⟨DBG_DAM_CTL, 31, 31⟩
def DBG_DAM_DATA : Nat := 0x18038
def DBG_DAM_DATA_DATA : Fld := ⟨DBG_DAM_DATA, 31, 0⟩
def DBG_EVT : Nat := 0x18040
def DBG_EVT_HALTED : Fld := ⟨DBG_EVT, 0, 0⟩
def DBG_EVT_AUTH_FAIL : Fld := ⟨DBG_EVT, 1, 1⟩
def DBG_EVT_NOT_AVAIL : Fld := ⟨DBG_EVT, 2, 2⟩
def DBG_EVT_SESSION_END : Fld := ⟨DBG_EVT, 3, 3⟩
def DBG_IRQ_EN : Nat := 0x18044
def DBG_IRQ_EN_EN : Fld := ⟨DBG_IRQ_EN, 3, 0⟩
def DBG_FGRP_CORE_LO (g : Nat) : Nat := 0x18100 + 0x10 * g
def DBG_FGRP_CORE_LO_CORES (g : Nat) : Fld := ⟨DBG_FGRP_CORE_LO g, 31, 0⟩
def DBG_FGRP_CORE_HI (g : Nat) : Nat := 0x18104 + 0x10 * g
def DBG_FGRP_CORE_HI_CORES (g : Nat) : Fld := ⟨DBG_FGRP_CORE_HI g, 31, 0⟩
def DBG_FGRP_UNIT (g : Nat) : Nat := 0x18108 + 0x10 * g
def DBG_FGRP_UNIT_TMR (g : Nat) : Fld := ⟨DBG_FGRP_UNIT g, 7, 0⟩
def DBG_FGRP_UNIT_DMA (g : Nat) : Fld := ⟨DBG_FGRP_UNIT g, 8, 8⟩
def DBG_FGRP_UNIT_PRESS (g : Nat) : Fld := ⟨DBG_FGRP_UNIT g, 9, 9⟩
def DBG_FGRP_UNIT_AUD (g : Nat) : Fld := ⟨DBG_FGRP_UNIT g, 12, 10⟩
def SENS_SEL : Nat := 0x19000
def SENS_SEL_CH : Fld := ⟨SENS_SEL, 4, 0⟩
def SENS_VAL : Nat := 0x19004
def SENS_VAL_VALUE : Fld := ⟨SENS_VAL, 15, 0⟩
def SENS_VAL_PEAK : Fld := ⟨SENS_VAL, 31, 16⟩
def SENS_EVT : Nat := 0x19008
def SENS_EVT_HOT : Fld := ⟨SENS_EVT, 0, 0⟩
def SENS_EVT_VOLT : Fld := ⟨SENS_EVT, 1, 1⟩
def SENS_IRQ_EN : Nat := 0x1900C
def SENS_IRQ_EN_EN : Fld := ⟨SENS_IRQ_EN, 1, 0⟩
def SENS_XLIM : Nat := 0x19100
def SENS_XLIM_HOT : Fld := ⟨SENS_XLIM, 15, 0⟩
def SENS_XLIM_VWIN : Fld := ⟨SENS_XLIM, 23, 16⟩
def FU_RTC : Nat := 0x1A000
def FU_RTC_SECONDS : Fld := ⟨FU_RTC, 31, 0⟩
def FU_RTC_STAT : Nat := 0x1A004
def FU_RTC_STAT_VALID : Fld := ⟨FU_RTC_STAT, 0, 0⟩
def FU_RTC_STAT_XTAL_OK : Fld := ⟨FU_RTC_STAT, 1, 1⟩
def FU_TRIM : Nat := 0x1A008
def FU_TRIM_CODE : Fld := ⟨FU_TRIM, 7, 0⟩
def FU_TRIM_MEAS : Fld := ⟨FU_TRIM, 25, 8⟩
def FU_USEC : Nat := 0x1A00C
def FU_USEC_US : Fld := ⟨FU_USEC, 31, 0⟩
def FU_PIN_IN : Nat := 0x1A020
def FU_PIN_IN_PULSE : Fld := ⟨FU_PIN_IN, 7, 0⟩
def FU_PIN_IN_DOOR : Fld := ⟨FU_PIN_IN, 11, 8⟩
def FU_PIN_IN_MOUT : Fld := ⟨FU_PIN_IN, 23, 16⟩
def FU_PIN_EV : Nat := 0x1A024
def FU_PIN_EV_PULSE_EV : Fld := ⟨FU_PIN_EV, 7, 0⟩
def FU_PIN_EV_DOOR_EV : Fld := ⟨FU_PIN_EV, 11, 8⟩
def FU_PIN_EV_MOUT_FLT : Fld := ⟨FU_PIN_EV, 23, 16⟩
def FU_PULSE_T (i : Nat) : Nat := 0x1A040 + 4 * i
def FU_PULSE_T_US (i : Nat) : Fld := ⟨FU_PULSE_T i, 31, 0⟩
def FU_PULSE_CFG (i : Nat) : Nat := 0x1A060 + 4 * i
def FU_PULSE_CFG_POL (i : Nat) : Fld := ⟨FU_PULSE_CFG i, 0, 0⟩
def FU_PULSE_CFG_GLITCH (i : Nat) : Fld := ⟨FU_PULSE_CFG i, 9, 1⟩
def FU_MOUT : Nat := 0x1A080
def FU_MOUT_ON : Fld := ⟨FU_MOUT, 7, 0⟩
def FU_WDT : Nat := 0x1A084
def FU_WDT_PERIOD_MS : Fld := ⟨FU_WDT, 9, 0⟩
def FU_WDT_KICK : Fld := ⟨FU_WDT, 31, 16⟩
def FU_TAMPER : Nat := 0x1A088
def FU_TAMPER_TRIP : Fld := ⟨FU_TAMPER, 2, 0⟩
def FU_TAMPER_KEEP_DOOR : Fld := ⟨FU_TAMPER, 3, 3⟩
def FU_SPI_CMD : Nat := 0x1A0A0
def FU_SPI_CMD_OPCODE : Fld := ⟨FU_SPI_CMD, 7, 0⟩
def FU_SPI_CMD_ABYTES : Fld := ⟨FU_SPI_CMD, 9, 8⟩
def FU_SPI_CMD_LEN : Fld := ⟨FU_SPI_CMD, 21, 10⟩
def FU_SPI_CMD_WRITE : Fld := ⟨FU_SPI_CMD, 22, 22⟩
def FU_SPI_CMD_ERR : Fld := ⟨FU_SPI_CMD, 30, 30⟩
def FU_SPI_CMD_GO : Fld := ⟨FU_SPI_CMD, 31, 31⟩
def FU_MIR_STAT : Nat := 0x1A0C4
def FU_MIR_STAT_TX_FREE : Fld := ⟨FU_MIR_STAT, 7, 0⟩
def FU_MIR_STAT_RX_WORDS : Fld := ⟨FU_MIR_STAT, 15, 8⟩
def FU_MIR_STAT_RX_LAST : Fld := ⟨FU_MIR_STAT, 16, 16⟩
def FU_MIR_STAT_SEND : Fld := ⟨FU_MIR_STAT, 17, 17⟩
def FU_MIR_STAT_PAIRED : Fld := ⟨FU_MIR_STAT, 18, 18⟩
def FU_MIR_STAT_ROLE : Fld := ⟨FU_MIR_STAT, 20, 19⟩
def FU_VIEW : Nat := 0x1A0E0
def FU_VIEW_PROFILE : Fld := ⟨FU_VIEW, 2, 0⟩
def FU_VIEW_EN0 : Fld := ⟨FU_VIEW, 8, 8⟩
def FU_VIEW_EN1 : Fld := ⟨FU_VIEW, 12, 12⟩
def FU_VIEW_EN2 : Fld := ⟨FU_VIEW, 16, 16⟩
def FU_VIEW_EN3 : Fld := ⟨FU_VIEW, 20, 20⟩
def FU_VIEW_RUNNING0 : Fld := ⟨FU_VIEW, 9, 9⟩
def FU_VIEW_RUNNING1 : Fld := ⟨FU_VIEW, 13, 13⟩
def FU_VIEW_RUNNING2 : Fld := ⟨FU_VIEW, 17, 17⟩
def FU_VIEW_RUNNING3 : Fld := ⟨FU_VIEW, 21, 21⟩
def FU_VIEW_CARRIED0 : Fld := ⟨FU_VIEW, 10, 10⟩
def FU_VIEW_CARRIED1 : Fld := ⟨FU_VIEW, 14, 14⟩
def FU_VIEW_CARRIED2 : Fld := ⟨FU_VIEW, 18, 18⟩
def FU_VIEW_CARRIED3 : Fld := ⟨FU_VIEW, 22, 22⟩
def FU_VIEW_ANALOG0 : Fld := ⟨FU_VIEW, 11, 11⟩
def FU_VIEW_ANALOG1 : Fld := ⟨FU_VIEW, 15, 15⟩
def FU_VIEW_ANALOG2 : Fld := ⟨FU_VIEW, 19, 19⟩
def FU_VIEW_ANALOG3 : Fld := ⟨FU_VIEW, 23, 23⟩
def FU_NOTICE_CTL (o : Nat) : Nat := 0x1A100 + 0x10 * o
def FU_NOTICE_CTL_HALF (o : Nat) : Fld := ⟨FU_NOTICE_CTL o, 0, 0⟩
def FU_NOTICE_CTL_SHOWN (o : Nat) : Fld := ⟨FU_NOTICE_CTL o, 1, 1⟩
def FU_NOTICE_CTL_FAULT (o : Nat) : Fld := ⟨FU_NOTICE_CTL o, 2, 2⟩
def FU_NOTICE_CTL_FRAME_EV (o : Nat) : Fld := ⟨FU_NOTICE_CTL o, 3, 3⟩
def FU_NOTICE_CTL_MISMATCH (o : Nat) : Fld := ⟨FU_NOTICE_CTL o, 4, 4⟩
def FU_NOTICE_CTL_LATE (o : Nat) : Fld := ⟨FU_NOTICE_CTL o, 5, 5⟩
def FU_NOTICE_RECT_A (o : Nat) : Nat := 0x1A104 + 0x10 * o
def FU_NOTICE_RECT_A_ON (o : Nat) : Fld := ⟨FU_NOTICE_RECT_A o, 31, 31⟩
def FU_NOTICE_RECT_B (o : Nat) : Nat := 0x1A108 + 0x10 * o
def FU_SPI_ADDR : Nat := 0x1A0A4
def FU_SPI_DATA : Nat := 0x1A0A8
def FU_MIR_DATA : Nat := 0x1A0C0

end Sys2Proof.Machine
end

