-- ==== Sys2Proof/Machine/Sparse.lean ====
section
/-! DEFINITION. Sparse tables: a list of (key, value) pairs in one canonical form, keys strictly
rising and no entry equal to the table's default at its key. Memory, the register file and every
array of like units are tables of this form, so that equal contents are equal data. -/

namespace Sys2Proof.Machine

/-- A sparse table over natural keys.  Memory is the table of bytes, a list of `Host.Cell`. -/
abbrev Sparse (α : Type) := List (Nat × α)

variable {α : Type}

/-- Read key `k`; an unlisted key reads as the default `d k`. -/
def sget (d : Nat → α) : Sparse α → Nat → α
  | [], k => d k
  | (a, x) :: t, k => if a = k then x else sget d t k

/-- Drop every entry of key `k`. -/
def sdrop : Sparse α → Nat → Sparse α
  | [], _ => []
  | (a, x) :: t, k => if a = k then sdrop t k else (a, x) :: sdrop t k

/-- Insert `(k, v)` before the first key above `k`. -/
def sins : Sparse α → Nat → α → Sparse α
  | [], k, v => [(k, v)]
  | (a, x) :: t, k, v => if k < a then (k, v) :: (a, x) :: t else (a, x) :: sins t k v

/-- Write key `k`.  Writing the default removes the entry. -/
def sset [DecidableEq α] (d : Nat → α) (m : Sparse α) (k : Nat) (v : α) : Sparse α :=
  if v = d k then sdrop m k else sins (sdrop m k) k v

/-- The table with the value at `k` changed by `f`. -/
def smod [DecidableEq α] (d : Nat → α) (m : Sparse α) (k : Nat) (f : α → α) : Sparse α :=
  sset d m k (f (sget d m k))

/-- Every listed key of the half-open range `[lo, hi)` is dropped: the range reads as the default. -/
def swipe (m : Sparse α) (lo hi : Nat) : Sparse α :=
  m.filter (fun p => !(Nat.ble lo p.1 && Nat.blt p.1 hi))

/-- The canonical form, from a key below which nothing may be listed. -/
def sparseFrom [DecidableEq α] (d : Nat → α) : Nat → Sparse α → Bool
  | _, [] => true
  | lo, (a, x) :: t => Nat.ble lo a && !decide (x = d a) && sparseFrom d (a + 1) t

/-- The canonical form: keys strictly rising, no entry equal to the default. -/
def sparseWf [DecidableEq α] (d : Nat → α) (m : Sparse α) : Bool := sparseFrom d 0 m

end Sys2Proof.Machine
end

