-- ==== Sys2Proof/Machine/State.lean ====
section
/-! DEFINITION. The state of the VG-64 as plain data: the chip, and the queue of waiting commands. -/

namespace Sys2Proof.Machine

/-- A stop with a fault.  No command of this model raises one: every event of the manual that goes wrong (a bus error,
poisoned data, an exception, a device-fatal error) has an effect the manual gives, and is a next state. -/
inductive Fault
  /-- Raised by no meaning; it keeps the type inhabited.  Safe. -/
  | none
  deriving DecidableEq, Repr

/-- A refusal. -/
inductive Refusal
  /-- Raised by the arm of a command that has no meaning yet, with its mnemonic.  Safe. -/
  | notModelled (mnemonic : String)
  deriving DecidableEq, Repr

/-! ### Cores (chapters 02, 03, 16) -/

/-- A pending product (R77): its value and the shadow positions that remain. -/
structure Product where
  val : DWord
  left : Nat
  deriving DecidableEq, Repr

/-- The delay slot about to execute (R86): where execution continues after it, and whether it is annulled. -/
structure Slot where
  cont : Word
  annulled : Bool
  deriving DecidableEq, Repr

/-- The reservation of R81: the virtual and the physical address of its 64-byte granule. -/
structure Resv where
  va : Word
  pa : Nat
  deriving DecidableEq, Repr

/-- An entry of the in-order store buffer (R146): a word address, a byte mask and the data. -/
structure SbEntry where
  pa : Nat
  mask : Nat
  data : Word
  deriving DecidableEq, Repr

/-- A posted store or device access (R148): whether it is a device access, whether its acknowledgement waits (it set
DRAMC_CONFIG.ENABLE, R648, or met a hold of PMUX, R537), and its store bus errors (R112). -/
structure Posted where
  device : Bool
  enable : Bool
  errs : List Word
  deriving DecidableEq, Repr

/-- A predictor checkpoint (R127): the global history, the return stack and the position in the counter log. -/
structure Checkpoint where
  hist : Nat
  ras : List Word
  logLen : Nat
  deriving DecidableEq, Repr

/-- What a halted core was doing when debug halted it (R608 to R612), and its comparators (R613). -/
structure CoreDebug where
  /-- halted by debug -/
  halted : Bool
  /-- a halt is requested -/
  haltReq : Bool
  /-- the halt is due to a comparator with ACTION 3, whose number is held -/
  haltHit : Option Nat
  /-- one instruction is to run, then a halt with cause STEP -/
  stepping : Bool
  data : Word
  dpc : Word
  dstat : Word
  dhit : Word
  /-- csr_dcmp_ctl_n, csr_dcmp_lo_n, csr_dcmp_hi_n at key 4n, 4n + 1, 4n + 2 -/
  cmp : Sparse Word
  /-- comparator n has been armed by its LINKSRC (R615) -/
  armed : Sparse Bool
  deriving DecidableEq, Repr

/-- The Courier's predictor and wait table (R124 to R128, R135). -/
structure Predictor where
  /-- the two-bit direction counters, by index -/
  dir : Sparse Nat
  /-- the 14 most recent outcomes -/
  hist : Nat
  /-- the counter log: index and value before the update, newest first -/
  log : List (Nat × Nat)
  /-- checkpoints of unresolved branches, newest first -/
  chk : List Checkpoint
  /-- the target buffer: branch address and target, newest first, at most 2,048 -/
  target : List (Word × Word)
  /-- the return stack, top first, at most 32 -/
  ras : List Word
  /-- the wait table, by pc[11:2] -/
  wait : Sparse Bool
  /-- loads retired since the wait table was cleared -/
  loads : Nat
  /-- the address of a load that was flushed and has not retired since (R135) -/
  flushed : Option Word
  deriving DecidableEq, Repr

/-- One Glegan core (R62). -/
structure Core where
  /-- g1 to g31 (g0 is never listed) -/
  g : Sparse Word
  /-- q1 to q7 in bits 7:1; bit 0 is never used -/
  q : BitVec 8
  pl : Word
  ph : Word
  pc : Word
  prod : Option Product
  slot : Option Slot
  resv : Option Resv
  /-- control registers (R116) -/
  status : Word
  cause : Word
  epc : Word
  estat : Word
  eaddr : Word
  etgt : Word
  epl : Word
  eph : Word
  vbase : Word
  scratch0 : Word
  scratch1 : Word
  ctx : Word
  rtbase : Word
  sbase : Word
  ubase : Word
  /-- the translation settings in force until the next ISYNC (R108) -/
  useRT : Bool
  useCtx : Nat
  useRtbase : Nat
  useUbase : Nat
  /-- region-table words held, by context × 64 + entry × 4 + word (R108) -/
  held : Sparse (Option Word)
  /-- the core is in WAIT (R121) -/
  waiting : Bool
  /-- store bus errors that have arrived and are not yet reported, in store order (R112) -/
  busErrs : List Word
  /-- the in-order store buffer, oldest first (R146) -/
  sbuf : List SbEntry
  /-- an in-order load holds the pipeline in M until its data returns (R148) -/
  loadHeld : Bool
  /-- posted stores and device accesses not yet acknowledged, oldest first (R148) -/
  posted : List Posted
  /-- the aligned 32-byte line in the instruction line buffer (R145) -/
  line : Option Word
  /-- performance counters (R154): control, overflow flags, selects and counters 0 to 7, fixed counters -/
  pmctl : Word
  pmovf : Word
  pmsel : Sparse Word
  pmcnt : Sparse DWord
  pmcyc : DWord
  pmret : DWord
  pred : Predictor
  dbg : CoreDebug
  deriving DecidableEq, Repr

namespace Core

/-- The kind of core `k` (R116, csr_corekind): 0 Courier, 1 sorter, 2 horn, 3 Franking core, 4 Postmaster. -/
def kind (k : Nat) : Nat := if k < 8 then 0 else if k < 56 then 1 else if k < 62 then 2 else if k = 62 then 3 else 4

/-- Where core `k` starts (R546, R569, R404, R584). -/
def startPc (k : Nat) : Nat :=
  match kind k with
  | 0 => 0xFFFC0000
  | 1 => 0x20000000 + (k - 8) * 0x10000
  | 2 => 0x30000000 + (k - 56) * 0x40000
  | 3 => 0
  | _ => 0x10000000

/-- csr_ubase of core `k` after a reset (R117, R404, R584). -/
def resetUbase (k : Nat) : Nat :=
  match kind k with
  | 3 => 0x1D
  | 4 => 0x1E
  | _ => 0x1F

/-- A comparator set with nothing armed. -/
def dbgReset : CoreDebug := ⟨false, false, none, false, 0, 0, 0, 0, [], []⟩

/-- A predictor with nothing recorded. -/
def predReset : Predictor := ⟨[], 0, [], [], [], [], [], 0, none⟩

/-- Core `k` after a reset (R63, R117), with its start values. -/
def reset (k : Nat) : Core where
  g := []
  q := 0
  pl := 0
  ph := 0
  pc := Word.of (startPc k)
  prod := none
  slot := none
  resv := none
  status := 1
  cause := 0
  epc := 0
  estat := 0
  eaddr := 0
  etgt := 0
  epl := 0
  eph := 0
  vbase := 0
  scratch0 := 0
  scratch1 := 0
  ctx := 0
  rtbase := 0
  sbase := 0
  ubase := Word.of (resetUbase k)
  useRT := false
  useCtx := 0
  useRtbase := 0
  useUbase := resetUbase k
  held := []
  waiting := false
  busErrs := []
  sbuf := []
  loadHeld := false
  posted := []
  line := none
  pmctl := 0
  pmovf := 0
  pmsel := []
  pmcnt := []
  pmcyc := 0
  pmret := 0
  pred := predReset
  dbg := dbgReset

end Core

/-- What a read returned to its master (R9, R11, R18, R51). -/
inductive Answer | none | data (w : Word) | bytes (l : List Byte) | poison | busError
  deriving DecidableEq, Repr

/-! ### Time (chapter 01) -/

/-- One island's postmark replica (R23 to R26): its error against the master, and the value it has already reached, below which
it never reads (R24). -/
structure Replica where
  err : Int
  low : Nat
  deriving DecidableEq, Repr

/-! ### Memory, integrity, arbitration (chapter 04) -/

/-- A dead-letter entry: the byte offset of the remapped word (R173, R177). -/
structure DltEntry where
  valid : Bool
  off : Nat
  deriving DecidableEq, Repr

/-- The grant of a DMA channel or of the Press in progress at an arbiter (R192, R195): its holder, the beats that its locked run may
still take (0 where the grant is one beat), the DRAM row of the run, the beat in transfer, and that the verify read of R163 will
find an error in that beat's word. -/
structure Grant where
  origin : Nat
  beats : Nat
  row : Nat
  cur : Option BusReq
  hard : Bool
  deriving DecidableEq, Repr

/-- A dirty line of the Courier caches and the L2 (R159, R160, R165), whose contents memory shows: what DRAM may hold of it instead,
newest first, each as its 64 bytes and the poison of its eight DRAM words; the poison of its sixteen 32-bit words; and their
bit errors. -/
structure DirtyLine where
  old : List (List Byte × Nat)
  poison : Nat
  flips : Sparse BitErr
  deriving DecidableEq, Repr

/-- A candidate page of the retirement list (R186): page number and corrections. -/
structure Page where
  page : Nat
  count : Nat
  deriving DecidableEq, Repr

/-- SRAM integrity, arbiters, dead-letter tables and the DRAM controller. -/
structure MemCtl where
  /-- the dead-letter tables, by array ID × 64 + index -/
  dlt : Sparse DltEntry
  /-- requests waiting at each arbiter, by arbiter ID (R201), oldest arrival first -/
  waiting : Sparse (List BusReq)
  /-- grants in progress, by arbiter ID -/
  grant : Sparse (Option Grant)
  /-- the scrubbers' next word (R170): by number in the on-chip arrays, in the order of their IDs, and by address in DRAM -/
  scrubPos : Nat
  dscrubPos : Nat
  /-- SECDED words whose check bits are valid (R167), by word address, and ranges of memory filled whole -/
  valid : Sparse Bool
  filled : List (Nat × Nat)
  /-- hard words (R173): a verify read of them finds an error, by word address -/
  hard : Sparse Bool
  /-- dirty lines, by line address -/
  cache : Sparse (Option DirtyLine)
  /-- candidate pages, oldest first, and the retirement list (R186, R187) -/
  cand : List Page
  retired : List Nat
  /-- a training is in progress, with the master whose ENABLE write waits (R648); none where a reset started it -/
  training : Option (Option Nat)
  /-- the channels that failed while running, until the next M (R184, R185) -/
  failedCh : List Nat
  /-- open rows, by channel × 16 + bank (R649) -/
  openRow : Sparse (Option Nat)
  deriving DecidableEq, Repr

/-! ### Reset, power, fuses (chapter 14) -/

/-- The power state of the main side (R548), and the stop of a device-fatal error (R50, R53). -/
inductive Power | run | nap | dormant | keep | off | fatal
  deriving DecidableEq, Repr

/-- A power domain (R556, R557). -/
structure Domain where
  pwr : Bool
  iso : Bool
  ok : Bool
  deriving DecidableEq, Repr

/-- A reset sequence whose cause has not ended (R544): its class and source. -/
structure RstSeq where
  cls : Nat
  source : Nat
  deriving DecidableEq, Repr

/-- A key slot of the fuses (R565). -/
structure KeySlot where
  digest : List Byte
  programmed : Bool
  revoked : Bool
  deriving DecidableEq, Repr

/-- The main-side fuses (R565, R567). -/
structure Fuses where
  title : Sparse KeySlot
  debug : Sparse KeySlot
  rollback : Nat
  deriving DecidableEq, Repr

/-- Where the boot ROM stands (R552, R569, R570): its next step (2 to 8 of R569, 4 once the profile segment is read until its last entry
is applied; 9 for the fill after Dormant); whether the memories are to be filled; the slot tried, and that it is the second one; the
title key slot that matched; the profile entries still to be applied; the registers that they have written, newest first. -/
structure Boot where
  phase : Nat
  fill : Bool
  slot : Nat
  second : Bool
  key : Nat
  entries : List (Nat × Word)
  written : List Nat
  deriving DecidableEq, Repr

/-- Reset sequencer, supplies, power domains, fuses. -/
structure PowerCtl where
  state : Power
  /-- supplies and board signals -/
  vsb : Bool
  vsbF : Bool
  mainEn : Bool
  pgood : Bool
  /-- nRESET is held low; HOLD holds the main side (R592) -/
  nresetLow : Bool
  pmHold : Bool
  /-- a reset whose cause has not ended -/
  seq : Option RstSeq
  /-- MAIN_EN is held low until POWER 1 (R592), or by the Postmaster (R554) -/
  mainEnHeld : Bool
  domain : Sparse Domain
  /-- units in U reset (R547) -/
  urst : List Nat
  /-- origins of units stopped by a unit-fatal error (R50) -/
  failed : List Nat
  /-- register fields kept in retention while Dormant (R551) -/
  retained : Option (Sparse Word)
  /-- a wake event latched (R551) -/
  wakeLatched : Bool
  /-- sources an asynchronous latch caught in Nap (R509) -/
  napLatch : List Nat
  /-- a sticky PROFILE_SET is in force (R559) -/
  stickyInForce : Bool
  fuses : Fuses
  /-- the boot ROM's program on Courier 0, until it ends (R552, R569) -/
  boot : Option Boot
  /-- the fuse operation in progress: OP, SLOT and the 64 bytes of SYS_XFUSE_DATA at GO (R567) -/
  fuseOp : Option (Nat × Nat × List Byte)
  deriving DecidableEq, Repr

/-! ### Postmaster, Daybook, hosts, debug (chapters 15, 16) -/

/-- A Daybook entry (R597). -/
structure DayEntry where
  seq : Nat
  postmark : Nat
  origin : Nat
  cls : Nat
  island : Nat
  kind : Nat
  flags : Nat
  item : Nat
  data : Nat
  deriving DecidableEq, Repr

/-- The Daybook (R596): the ring, newest first, entry 0, the next SEQ, and the freeze of R598. -/
structure Daybook where
  ring : List DayEntry
  epoch : Option DayEntry
  next : Nat
  frozen : Bool
  deriving DecidableEq, Repr

/-- A management transport (R587, R588): request bytes, response bytes still to read, state, outstanding nonce with its
time of issue, and the postmark of submission. -/
structure Transport where
  req : List Byte
  resp : List Byte
  state : Nat
  nonce : Option (List Byte × Nat)
  since : Nat
  deriving DecidableEq, Repr

/-- A staging session (R594, R595). -/
structure Staging where
  transport : Nat
  slot : Nat
  last : Nat
  deriving DecidableEq, Repr

/-- The Postmaster (R584 to R595, R602). -/
structure Postmaster where
  restarts : Nat
  trans : Sparse Transport
  staging : Option Staging
  /-- the Postmaster holds the flash pins (R581) -/
  holdsFlash : Bool
  /-- network: static address, address, mask, gateway (R587) -/
  netStatic : Bool
  ip : Word
  mask : Word
  gateway : Word
  /-- the repair list (R602), oldest first: words 0 and 1 -/
  repair : List (Word × Word)
  /-- the FU command of this transport waits for the receipt of slot 63 (R593) -/
  fuWait : Option Nat
  deriving DecidableEq, Repr

/-- PCIE, STOR, USB and SENS state that no register holds (R573 to R583, R601). -/
structure Hosts where
  /-- MSI-X vector 0: masked, pending (R576), and the messages sent for it -/
  msixMask : Bool
  msixPend : Bool
  msixSent : Nat
  /-- STOR_QDATA: bytes received and queued (R580) -/
  qRx : List Byte
  qTx : List Byte
  /-- SENS: latest sample of each channel, and its peak since SENS_EVT.HOT was written -/
  sample : Sparse (Option Int)
  peak : Sparse (Option Int)
  /-- the Courier operating point (R629): 0 to 3 for 1.0, 1.6, 2.0 and 2.4 GHz -/
  opPoint : Nat
  /-- the level of the STOR_VSEL output (R624): high asks for 1.8 V -/
  storVsel : Bool
  /-- the boot flash on the board (R563, R580): its bytes, FFh where it is erased, and its size; 0 where none answers -/
  flash : Sparse Byte
  flashSize : Nat
  deriving DecidableEq, Repr

/-- A debug session (R604, R606): over JTAG (1) or the network (2), the sender it is bound to, and its last frame. -/
structure Session where
  kind : Nat
  sender : Nat
  last : Nat
  deriving DecidableEq, Repr

/-- The TAP and the debug block (R603 to R606). -/
structure Debug where
  ir : Nat
  boundary : Nat
  dr : Nat
  /-- the nonce outstanding on the TAP and its time of issue; good for one attempt -/
  nonce : Option (List Byte × Nat)
  session : Option Session
  deriving DecidableEq, Repr

/-! ### The Zowyn link (chapter 11) -/

/-- The link engine: everything no ZOW register holds. -/
structure Zow where
  /-- sequence number of the last item sent, and of the last item applied in order, by stream; the first item is 1 -/
  sent : Sparse Nat
  applied : Sparse Nat
  /-- captured lines not yet acknowledged, by stream 6 to 10, oldest first, each with its sequence number -/
  captured : Sparse (List (Nat × CapLine))
  /-- replication lines that arrived after a gap and are held (R469) -/
  heldLines : Sparse (List (Nat × CapLine))
  /-- link frames (R458, R459): SEQ to send, SEQ expected, frames not acknowledged -/
  frameSeq : Nat
  frameExpect : Nat
  framesOut : List Nat
  /-- consecutive good offsets, and the offset last measured (R467) -/
  goodOffsets : Nat
  offset : Int
  /-- the count at which a Mirror's rate was last corrected by a nanosecond (R467) -/
  slewAt : Nat
  /-- heartbeats: postmarks of the last one sent and the last one that arrived; the partner's ELIGIBLE and GEN -/
  hbSent : Nat
  hbLast : Nat
  peerEligible : Bool
  peerGen : Nat
  /-- the TWIN_LEAD lease: driven, and when it was last renewed (R482) -/
  leaseOn : Bool
  leaseAt : Nat
  /-- TWIN_PEER: the postmark since which it has read released (R485) -/
  peerReleased : Nat
  /-- snapshots sent and not acknowledged, and snapshots held for their marks (R472, R473) -/
  snapsOut : List Nat
  snapsHeld : List Snap
  snapSeq : Nat
  /-- a bulk copy in progress: lines not yet acknowledged (R476) -/
  bulkLeft : Option Nat
  /-- follow messages that wait for their frame start, by output (R477) -/
  follow : Sparse (Option Follow)
  /-- the last 16 seals of each output, own and the partner's (R478) -/
  ownSeals : Sparse (List (Nat × Nat))
  peerSeals : Sparse (List (Nat × Nat))
  /-- frames since the last seal mismatch -/
  cleanFrames : Nat
  /-- the Lead's window registers as a paired Mirror reads them (R474) -/
  leadWin : Sparse Word
  /-- a handover in progress (R488): the step reached -/
  handover : Option Nat
  /-- a T reset has been requested of the Mirror (R489) -/
  treset : Bool
  /-- this device has been Mirror and has had no frame start as Lead since (R481) -/
  audioHeld : Bool
  /-- TWIN_LEAD is to be asserted at the next frame start (R487, R488) -/
  leadWait : Bool
  /-- the partner's FU_DOOR[3] reads open, as it last told (R464, R491) -/
  peerDoor : Bool
  deriving DecidableEq, Repr
/-! ### Interrupts, timers, watchdogs, pins (chapters 12, 13) -/

/-- An interrupt record (R496): postmark, origin, whether a re-fire made it (R498), whether edges were merged into it (R497; while
its source is active, into the record that the re-fire will make, R498), whether it reached the ICU after its eligibility (R506),
and whether its request is released (R504). -/
structure IrqRec where
  postmark : Nat
  origin : Nat
  refire : Bool
  merged : Bool
  late : Bool
  released : Bool
  deriving DecidableEq, Repr

/-- One interrupt source (R496 to R499): its configuration as ICU_CFG holds it, its state (0 idle, 1 pending, 2 active),
REFIRE, MERGED, the input level last sensed, the target in force (R507), and its record. -/
structure IrqSrc where
  cfg : Word
  st : Nat
  refire : Bool
  merged : Bool
  level : Bool
  tgt : Nat
  record : IrqRec
  deriving DecidableEq, Repr

/-- The ICU: sources 32 to 1023 at their own number, private source n of core k at 1024 + 32k + n; by target 0 to 64 the
last claimed record, the highest postmark claimed (R506) and the last interrupt entry (R502, R504). -/
structure Icu where
  src : Sparse IrqSrc
  claimPm : Sparse Nat
  claimOrg : Sparse Nat
  claimTop : Sparse Nat
  lastEntry : Sparse (Option Nat)
  deriving DecidableEq, Repr

/-- What no TMR register holds, by channel: the toggled output and the one-tick output (R518), the level at the gate
(R516), and a capture event on its way (R515). -/
structure Timers where
  toggle : Sparse Bool
  pulse : Sparse Bool
  gate : Sparse Bool
  capture : Sparse Bool
  deriving DecidableEq, Repr

/-- What no WDT register holds, by watchdog: the first kick word has come (R522), WARN was met in this count (R523), the
count is stopped (R524). -/
structure Watchdogs where
  kick : Sparse Bool
  warned : Sparse Bool
  stopped : Sparse Bool
  deriving DecidableEq, Repr

/-- A frozen pad (R535, R539): output value (none where an audio function's bit stream drives it), enable, bias. -/
structure Pad where
  value : Option Bool
  enable : Bool
  bias : Nat
  deriving DecidableEq, Repr

/-- A hold of R535 in one PMUX register: the pins that change, and the writes that wait for its end, each with
the master that waits with it (R537). -/
structure Hold where
  pins : List Nat
  deferred : List (Option Nat × Word)
  deriving DecidableEq, Repr

/-- Pins and pads, pin Gb.i at 32b + i: the level the filter accepted, the function in force, frozen pads, until when an
accepted level is the incoming function's first (R536), holds by PMUX register, frozen banks, absent bank supplies. -/
structure Pins where
  level : Sparse Bool
  func : Sparse Nat
  pad : Sparse (Option Pad)
  fresh : Sparse Nat
  hold : Sparse (Option Hold)
  frozen : Sparse Bool
  noSupply : Sparse Bool
  /-- a beam-capture edge on its way, by output, with its level (R321) -/
  beam : Sparse (Option Bool)
  deriving DecidableEq, Repr

/-! ### Composition and display (chapters 05 to 07) -/

/-- The timing in force of an output (R285 to R288, R316), with the pixel clock in Hz. -/
structure Timing where
  hz : Nat
  hactive : Nat
  htotal : Nat
  hsStart : Nat
  hsEnd : Nat
  hpol : Bool
  vpol : Bool
  vactive : Nat
  vstart : Nat
  vsync : Nat
  vmin : Nat
  vmax : Nat
  kind : Nat
  bpc8 : Bool
  adapt : Bool
  interlace : Bool
  csync : Bool
  crt : Nat
  deriving DecidableEq, Repr

/-- An output's timing generator, output stage and binner: what no OUT or COMP register holds. -/
structure Output where
  timing : Timing
  /-- the beam's frame line, the postmark of its line start, the field; field 1 has begun in mid-line (R317) -/
  v : Nat
  lineAt : Nat
  field : Nat
  halfLine : Bool
  /-- the first frame start is due (R289) -/
  starting : Bool
  /-- the pair with the next output is in force (R304) -/
  pairOn : Bool
  /-- the seal's switch at the frame start, and the running CRC -/
  sealOn : Bool
  crc : BitVec 32
  /-- the next segment to read: field line and segment -/
  rdLine : Nat
  rdSeg : Nat
  /-- the line being read is sent as fill from here on, and by the underrun rule from this pixel -/
  fill : Bool
  lateFrom : Option Nat
  unders : Nat
  /-- the pixels sent of the line being read, as the port takes them: red, green, blue in 30 bits, newest first -/
  sent : List Nat
  doneFrame : Bool
  nextNo : Option Word
  /-- the binner is at work, and has finished the current frame (R230) -/
  binBusy : Bool
  binned : Bool
  /-- pigeonhole area, stride and filter sources in force (R231, R225) -/
  phBase : Nat
  stride : Nat
  coefSrc : Nat
  xstatAge : Nat
  deriving DecidableEq, Repr

/-- The port DPd (R306 to R312). -/
structure Port where
  /-- the output carried, in force, and whether the port is in use -/
  src : Nat
  en : Bool
  /-- a change in progress: SRC, EN, the port has stopped, the new output has started a frame -/
  pend : Option (Nat × Bool × Bool × Bool)
  training : Bool
  /-- the lowest and the highest refresh rate that the sink reports, in Hz (R310) -/
  range : Nat × Nat
  /-- the link is trained and sends the idle pattern: it takes effect at a frame start of the output whose stream fits it (R308, R311) -/
  fresh : Bool
  deriving DecidableEq, Repr

/-- A unit that a member is offered or holds (R255, R260, R261). -/
structure LineUnit where
  u : Nat
  out : Nat
  half : Bool
  /-- the field line index, and the line of R260 -/
  idx : Nat
  line : Nat
  first : Bool
  field : Nat
  frame : Nat
  member : Nat
  route : Word
  arg : Word
  closed : Bool
  drawn : Bool
  drawing : Bool
  abandoned : Bool
  lputs : Nat
  /-- the private copy of the line parameters by PIDX, its poison marks, and the words as loaded (R261, R264) -/
  param : Sparse Word
  mark : Sparse Bool
  loaded : Sparse Word
  deriving DecidableEq, Repr

/-- A sorter's composer (R255, R275, R278): x0 to x15, the offered and the held unit, the next unit number of the frame,
whether it has had a unit of this frame. -/
structure Composer where
  x : Sparse Word
  offered : Option LineUnit
  held : Option LineUnit
  next : Nat
  had : Bool
  deriving DecidableEq, Repr

/-- A line-timed write (R265): its output, palette entry (none for OUT_BGCOLOR), value, place, unit. -/
structure LineWrite where
  out : Nat
  entry : Option Nat
  val : Nat
  line : Nat
  pixel : Nat
  u : Nat
  closed : Bool
  deriving DecidableEq, Repr

/-- A sorter group as the last frame start set it (R249 to R251, R282), its closed units, sorters retired since, and the
line-timed writes it holds in issue order (R271). -/
structure Group where
  members : List Nat
  /-- the sorters from FIRST to FIRST + COUNT - 1 in force -/
  range : List Nat
  paired : Bool
  rtab : Nat
  lputMax : Nat
  leadMax : Nat
  autoRetire : Bool
  gone : List Nat
  closed : List Nat
  log : List LineWrite
  deriving DecidableEq, Repr

/-- COMP, the sorters' composers, the line rings and the outputs. -/
structure Display where
  outs : Sparse Output
  ports : Sparse Port
  sorters : Sparse Composer
  groups : Sparse Group
  /-- ring pixels at (output × 16 + slot) × 4096 + column: colour in bits 29:0, poison in bit 30 -/
  ring : Sparse Nat
  /-- committed segments at (output × 16 + slot) × 8 + segment -/
  commit : Sparse Bool
  /-- filter coefficients written and in force, at ((output × 2 + sheet) × 2 + vertical) × 512 + phase × 8 + tap -/
  coef : Sparse Nat
  coefOn : Sparse Nat
  deriving DecidableEq, Repr


/-! ### The Franking Unit (chapter 10) -/

/-- One copy of the meters in the keep bank (R420): its CRC is good, its GEN, the 128 values. -/
structure MeterCopy where
  valid : Bool
  gen : Nat
  val : Sparse Nat
  deriving DecidableEq, Repr

/-- A PO Box slot (R426, R435): STATE, owner, the postmark of its POST, an ABORT that waits (1 in time, 2 after the
local commit), a receipt to be discarded, and the origin of its POST.  Its 64 bytes lie in the FU end of the PO Box. -/
structure BoxSlot where
  state : Nat
  owner : Nat
  posted : Nat
  abort : Nat
  discard : Bool
  poster : Nat
  deriving DecidableEq, Repr

/-- A pulse input (R439, R440): in its active phase, that phase is not counted (FAST), pulses not yet committed, the shadow
count (below 0 where the Lead has committed pulses that this unit has still to accept, R425), jammed, SHORT. -/
structure PulseIn where
  active : Bool
  fast : Bool
  counted : Nat
  shadow : Int
  jam : Bool
  short : Nat
  deriving DecidableEq, Repr

/-- A meter output (R442 to R445): pending count, remainder, PULSE_ACTIVE, phase (0 idle, 1 on, 2 off time), fault. -/
structure MeterOut where
  pending : Nat
  rest : Nat
  active : Bool
  phase : Nat
  fault : Bool
  deriving DecidableEq, Repr

/-- The Franking Unit's state beyond its registers and memories. -/
structure Franking where
  /-- VDD_FU and VDDIO_FU are present -/
  vdd : Bool
  vddio : Bool
  ready : Bool
  /-- ROM mode (R408), the active slot, MIN_VERSION, SHA-512 of the manifest in force, profile in force for meters -/
  rom : Bool
  slot : Nat
  minVersion : Nat
  manifest : List Byte
  profile : Nat
  /-- FU SRAM offset of the definitions segment, and the keep bank's copy of the profile block (R408) -/
  defs : Nat
  block : List Byte
  copyA : MeterCopy
  copyB : MeterCopy
  /-- journal entries in the keep bank, newest first, how many of them are not archived, and the archive, newest first -/
  journal : List JEntry
  unarchived : Nat
  archive : List JEntry
  /-- the archive's checkpoint of the meters and how many of its entries are older (R450, R491) -/
  archiveBase : MeterCopy
  archiveOld : Nat
  /-- the external store: a device responds and its checks pass; its bytes by device address (firmware slots A and B at 0x1000 and 0x41000) -/
  storeOk : Bool
  store : Sparse Byte
  storeFault : Bool
  sealed : Bool
  seals : Sparse KeySlot
  /-- 0 single, 1 Lead, 2 Mirror; STALE; demoted (R484); recovery, and that the archive could not serve it (R449) -/
  role : Nat
  stale : Bool
  demoted : Bool
  recovery : Bool
  recoveryHard : Bool
  /-- the recorded partner's IDENT_PUB (R466) -/
  partner : Option (List Byte)
  /-- a write of FU_RTC that waits for the second (R404), and the RTC at the last sealed CLOCK_SET (R430) -/
  rtcSet : Option Word
  lastClock : Option Nat
  staging : Sparse Byte
  /-- the last four reports, newest first, with their identifiers, and the next identifier -/
  reports : List (Nat × List Byte)
  nextReport : Nat
  layout : Nat
  slots : Sparse BoxSlot
  /-- POBOX_SEL by origin (R427) -/
  sel : Sparse Nat
  pulse : Sparse PulseIn
  out : Sparse MeterOut
  /-- door openings that wait, oldest first, each with its RTC value and postmark (0 in Keep, R419), and the overflow count (R447) -/
  doors : List (Nat × Nat × Nat)
  doorOvf : Nat
  /-- outputs in a Notice fault, and the frames since a fault: 0 one seen, 1 a whole frame began, 2 it passed (R454) -/
  noticeBad : Sparse Bool
  /-- of a faulty output the regions affected: bit r for region r, bit 8 for the whole rectangle where the region list could not be read
  (R454) -/
  noticeHit : Sparse Nat
  noticeOk : Sparse Nat
  /-- outputs whose NOTICE_GRACE has run out and that have not been carried again (R454) -/
  noticeLost : List Nat
  /-- mirror stream: the item being built, words received, commits sent and not acknowledged, commits held for a gap,
  receipts that arrived (R422 to R424) -/
  mirTx : List Word
  mirRx : List Word
  acksDue : List Nat
  heldCommits : List JEntry
  /-- a Mirror's own events that the Lead has not acknowledged, oldest first (R58, R422) -/
  eventsOut : List FuEv
  receipts : List (Nat × List Word)
  /-- requests are held for a handover (R488) -/
  holdRequests : Bool
  /-- FU_SPI: bytes received and queued -/
  spiRx : List Byte
  spiTx : List Byte
  /-- the watchdog's period can no longer be written -/
  wdtLocked : Bool
  /-- the postmark of the last FU reset, from which FU_USEC counts -/
  resetAt : Nat
  deriving DecidableEq, Repr

/-! ### The Press and the DMA engine (chapter 08) -/

/-- A chunk of the Press in flight (R335): row j, its lowest element and number of elements, the retries used, and once its
reads have returned the bytes to write, in runs. -/
structure PressChunk where
  row : Nat
  elem : Nat
  n : Nat
  tries : Nat
  data : Option (List (Nat × List Byte))
  deriving DecidableEq, Repr

/-- The Press beyond its registers: the command in progress (words; none between commands) and the address of the next, the
clip words, the next chunk by row and place in the order of the directions, chunks in flight, the burst, the dead time, and
how the list is ending: RESULT and CAUSE. -/
structure PressEng where
  cmd : List Nat
  next : Nat
  clip : List Nat
  row : Nat
  chunk : Nat
  flight : List PressChunk
  burst : Nat
  dead : Bool
  lastRow : Option Nat
  stop : Option (Nat × Nat)
  deriving DecidableEq, Repr

/-- A byte in a channel's buffer: its value, and 1 where its word was poisoned, 2 or 3 where its read failed for good or
after its retries. -/
structure DmaByte where
  val : Byte
  bad : Nat
  deriving DecidableEq, Repr

/-- A DMA channel beyond its registers: the envelope in progress, the prefetch slot (fetched: failed, or its words), bytes
read and written so far, retries of the present read and of the present write, the buffer, an ABORT that waits for the write-unit boundary. -/
structure DmaCh where
  env : List Nat
  slot : Option (Option (List Nat))
  rd : Nat
  wr : Nat
  tries : Nat
  wtries : Nat
  buf : List DmaByte
  abortReq : Bool
  deriving DecidableEq, Repr

/-! ### Sound (chapter 09) -/

/-- A run offered to a horn (R361, R368, R383): domain, block, old slip's run, in a fade, first block of the slip, and the
section's entry address. -/
structure HornRun where
  dom : Nat
  block : Nat
  old : Bool
  fade : Bool
  first : Bool
  entry : Word
  deriving DecidableEq, Repr

/-- A run in progress: the horns it was offered to, those that have ended it, the barriers of each, the writes sent so far
at (horn × 256 + point) × 64 + sample, and the input samples at point × 64 + sample. -/
structure BlockRun where
  block : Nat
  old : Bool
  horns : List Nat
  ended : List Nat
  bars : Sparse Nat
  pts : Sparse (Option Word)
  input : Sparse (Option Word)
  deriving DecidableEq, Repr

/-- A rate domain (R357 to R362, R381 to R383): running, AUD_CTL and AUD_VREC as taken at its start, SN of the last tick, the
slip, a swap that waits with its XF, a fade (old slip, first sample, length), the slip's first block is next, runs not ended,
blocks found late, the block that waits for its play, the block being played, source samples known so far, receive samples
of the present block period. -/
structure AudDomain where
  run : Bool
  ctl : Word
  vrec : Nat
  sn : Option Nat
  slip : Nat
  swap : Option (Nat × Nat)
  fade : Option (Nat × Nat × Nat)
  first : Bool
  runs : List BlockRun
  late : List Nat
  ready : Option (Nat × Sparse Word)
  play : Sparse Word
  known : Nat
  arrived : Sparse (Option Word)
  deriving DecidableEq, Repr

/-- A horn's CP2 (R364, R368): lanes and poison marks at register × 8 + lane, runs offered, the run in progress, the SBAR that
waits is counted, and SOUT writes held for SEND at point × 64 + sample. -/
structure HornUnit where
  v : Sparse Word
  mark : Sparse Bool
  offers : List HornRun
  cur : Option HornRun
  barred : Bool
  writes : Sparse (Option Word)
  deriving DecidableEq, Repr

/-- A bridge in force (R384 to R386): its start block, S0, RATIO, filter set, and source samples by number. -/
structure BridgeOn where
  on : Bool
  k0 : Nat
  s0 : Nat
  ratio : Nat
  set : Nat
  hist : Sparse Word
  deriving DecidableEq, Repr

/-- A dynamics block as its last block start set it (R387, R388), its detector and delay lines, newest first. -/
structure DynOn where
  mode : Nat
  link : Bool
  la : Nat
  thr : Word
  makeup : Word
  att : Word
  rel : Word
  e : Word
  dl : List Word
  dr : List Word
  deriving DecidableEq, Repr

/-- AUD and AIO beyond their registers: domains, horns, bridges, dynamics blocks, the settings behind the window (block × 8 +
0 CFG, 1 THR, 2 MAKEUP, 3 REL), coefficients written (block × 2 + 0 attack, 1 release), ended voices, the copies of
AUD_SN_HI by origin × 4 + domain, the sample each point last sent. -/
structure Audio where
  dom : Sparse AudDomain
  horn : Sparse HornUnit
  bridge : Sparse BridgeOn
  dyn : Sparse DynOn
  dynReg : Sparse Word
  dynCoef : Sparse (Option Word)
  vend : List Nat
  snHi : Sparse Word
  sent : Sparse Int
  deriving DecidableEq, Repr

/-! ### The chip -/

/-- Everything the manual gives the machine. -/
structure Chip where
  /-- the master postmark count (R20) -/
  count : DWord
  /-- REFCLK is present (R21, R22) -/
  refclk : Bool
  /-- the copies of POST_NOW_HI, by origin (R32) -/
  nowHi : Sparse Word
  /-- island replicas (R23) -/
  replicas : Sparse Replica
  /-- physical memory, one byte a key -/
  mem : Sparse Byte
  /-- poison marks, by word address (R164) -/
  poison : Sparse Bool
  /-- words whose stored bits differ from their data (R162, R188), by word address -/
  flips : Sparse BitErr
  memc : MemCtl
  /-- the register file: every register of every block, by key -/
  regs : Sparse Word
  cores : Sparse Core
  power : PowerCtl
  dayb : Daybook
  pm : Postmaster
  hosts : Hosts
  dbgPort : Debug
  zow : Zow
  /-- what the last read command of each origin returned: the model's own, for reads whose master is not modelled -/
  answer : Sparse Answer
  icu : Icu
  tmr : Timers
  wdt : Watchdogs
  pins : Pins
  disp : Display
  fu : Franking
  press : PressEng
  dma : Sparse DmaCh
  aud : Audio
  /-- the model's own: how many free values have been used (log entry 9) -/
  free : Nat
  deriving DecidableEq, Repr

/-- The state of the model: the chip and the commands that wait, first in, first out. -/
structure State where
  chip : Chip
  pending : List Sys2Proof.Instr
  deriving DecidableEq, Repr

/-! ### The state after reset (log entries 5 to 7) -/

/-- The link engine after a reset. -/
def zowReset : Zow where
  sent := []
  applied := []
  captured := []
  heldLines := []
  frameSeq := 0
  frameExpect := 0
  framesOut := []
  goodOffsets := 0
  offset := 0
  slewAt := 0
  hbSent := 0
  hbLast := 0
  peerEligible := false
  peerGen := 0
  leaseOn := false
  leaseAt := 0
  peerReleased := 0
  snapsOut := []
  snapsHeld := []
  snapSeq := 0
  bulkLeft := none
  follow := []
  ownSeals := []
  peerSeals := []
  cleanFrames := 0
  leadWin := []
  handover := none
  treset := false
  audioHeld := false
  leadWait := false
  peerDoor := false

/-- The audio state after a reset of class P, M, H, W, S or T. -/
def audioReset : Audio := ⟨[], [], [], [], [], [], [], [], []⟩

/-- The Press with no list. -/
def pressReset : PressEng := ⟨[], 0, [], 0, 0, [], 0, false, none, none⟩

/-- The Postmaster after a P, with nothing asked of it (R585, R587, R602). -/
def pmReset : Postmaster where
  restarts := 0
  trans := []
  staging := none
  holdsFlash := false
  netStatic := false
  ip := 0
  mask := 0
  gateway := 0
  repair := []
  fuWait := none

/-- The Franking Unit as it comes from the factory, after its power came up (log entry 7): unenrolled, in ROM mode, no store, the
keep bank started afresh with a RECOVERY entry, and the power-up counted on meter 1 (R402, R412, R418, R449). -/
def frankingReset : Franking where
  vdd := true
  vddio := true
  ready := true
  rom := true
  slot := 0
  minVersion := 0
  manifest := []
  profile := 0
  defs := 0
  block := []
  copyA := ⟨true, 2, [(1, 1), (3, 2)]⟩
  copyB := ⟨true, 2, [(1, 1), (3, 2)]⟩
  journal := [⟨2, 0, 0, 0, 3, 0, 0, [(1, 1)], 0, []⟩, ⟨1, 0, 0, 0, 3, 12, 0, [], 0, []⟩]
  unarchived := 2
  archive := []
  archiveBase := ⟨false, 0, []⟩
  archiveOld := 0
  storeOk := false
  store := []
  storeFault := false
  sealed := false
  seals := []
  role := 0
  stale := false
  demoted := false
  recovery := true
  recoveryHard := true
  partner := none
  rtcSet := none
  lastClock := none
  staging := []
  reports := []
  nextReport := 0
  layout := 0
  slots := []
  sel := []
  pulse := []
  out := []
  doors := []
  doorOvf := 0
  noticeBad := []
  noticeHit := []
  noticeOk := []
  noticeLost := []
  mirTx := []
  mirRx := []
  acksDue := []
  heldCommits := []
  eventsOut := []
  receipts := []
  holdRequests := false
  spiRx := []
  spiTx := []
  wdtLocked := false
  resetAt := 0

/-- The boot ROM after step 1 of R569, of a P or M. -/
def bootReset : Boot := ⟨2, true, 0, false, 0, [], []⟩

/-- The supplies are present, MAIN_EN and PGOOD are high, nRESET is high; the fuses are unprogrammed. -/
def powerReset : PowerCtl where
  state := .run
  vsb := true
  vsbF := true
  mainEn := true
  pgood := true
  nresetLow := false
  pmHold := false
  seq := none
  mainEnHeld := false
  domain := []
  urst := []
  failed := []
  retained := none
  wakeLatched := false
  napLatch := []
  stickyInForce := false
  fuses := ⟨[], [], 0⟩
  boot := some bootReset
  fuseOp := none

/-- A Daybook entry of the power-up, at postmark 0. -/
def dayReset (seq cls kind origin data : Nat) : DayEntry := ⟨seq, 0, origin, cls, Config.islandOf origin, kind, 0, 0, data⟩

/-- The Daybook after P and M (R30, R543, R554, R585, R596): epoch 0, the P, the Postmaster's restart with a free cause (log entry 132),
MAIN_EN, the M. -/
def daybookReset : Daybook :=
  ⟨[dayReset 4 0 1 251 0x311, dayReset 3 0 9 63 1, dayReset 2 0 7 63 (Config.freeValue 0).toNat, dayReset 1 0 1 251 0x100,
    dayReset 0 5 2 252 0], some (dayReset 0 5 2 252 0), 5, false⟩

/-- The registers that do not hold their reset value once Courier 0 is in the boot ROM: SYS_RSTCAUSE (class M, SOURCE 1, ACCUM P
and M), SYS_BOOT (RESULT 1, TRIES 1), watchdog 0 (EN, TIMEOUT and REMAIN 2 s), DRAMC_STATUS.CFG_CHG (R183, R544, R569), and
FU_RTC_STAT.XTAL_OK. -/
def regsReset : Sparse Word :=
  [(SYS_RSTCAUSE, 0x311), (SYS_BOOT, 0x41), (WDT_CTL 0, 1), (WDT_TIMEOUT 0, 2000000), (WDT_REMAIN 0, 2000000),
    (DRAMC_STATUS, 0x800), (FU_RTC_STAT, 2)]

/-- The chip right after reset: a P, then the M that the main rails bring, PROFILE_SEL reading 0 (log entry 6). -/
def chipReset : Chip where
  count := 0
  refclk := true
  nowHi := []
  replicas := []
  mem := []
  poison := []
  flips := []
  memc := ⟨[], [], [], 0, 0, [], [], [], [], [], [], none, [], []⟩
  regs := regsReset
  cores := []
  power := powerReset
  dayb := daybookReset
  pm := pmReset
  hosts := ⟨true, false, 0, [], [], [], [], 0, false, [], 0x2000000⟩
  dbgPort := ⟨1, 0, 0, none, none⟩
  zow := zowReset
  answer := []
  icu := ⟨[], [], [], [], []⟩
  tmr := ⟨[], [], [], []⟩
  wdt := ⟨[], [], []⟩
  pins := ⟨[], [], [], [], [], [], [], []⟩
  disp := ⟨[], [], [], [], [], [], [], []⟩
  fu := frankingReset
  press := pressReset
  dma := []
  aud := audioReset
  free := 1

/-- The machine right after reset; no command waits. -/
def State.reset : State := ⟨chipReset, []⟩

end Sys2Proof.Machine
end

