-- ==== Sys2Proof/Machine/Ops.lean ====
section
/-! DEFINITION. The named operations over the chip: registers and fields, free values, the Daybook, error records,
physical memory with its poison, and the helpers every family shares. -/

namespace Sys2Proof.Machine

/-- The outcome of a command. -/
abbrev Out := Host.Outcome State Fault Refusal

/-- A command whose effect is `f` on the chip; the queue is left alone. -/
def State.go (s : State) (f : Chip → Chip) : Out := .next { s with chip := f s.chip }

/-! ### Small helpers -/

/-- Number of 1 bits. -/
def popcount : Nat → Nat → Nat
  | 0, _ => 0
  | k + 1, n => n % 2 + popcount k (n / 2)

/-- Bits `msb:lsb` of a number. -/
def nbits (n msb lsb : Nat) : Nat := (n >>> lsb) % 2 ^ (msb + 1 - lsb)

/-- `lo ≤ x < hi`. -/
def within (lo hi x : Nat) : Bool := Nat.ble lo x && Nat.blt x hi

/-- `if b then x else y` on chips, for guards. -/
def onlyIf (b : Bool) (f : Chip → Chip) (c : Chip) : Chip := if b then f c else c

/-- Apply `f` for each element of a list in turn. -/
def forAll {α : Type} (l : List α) (f : α → Chip → Chip) (c : Chip) : Chip := l.foldl (fun c x => f x c) c

/-- Little-endian bytes of a number. -/
def leBytes : Nat → Nat → List Byte
  | 0, _ => []
  | k + 1, n => BitVec.ofNat 8 n :: leBytes k (n / 256)

/-- The number that little-endian bytes spell. -/
def leNat : List Byte → Nat
  | [] => 0
  | b :: t => b.toNat + 256 * leNat t

/-- A counter of `w` bits that stops at its largest value. -/
def satInc (w n : Nat) : Nat := min (n + 1) (2 ^ w - 1)

/-! ### Registers and fields -/

/-- The value of register `k`. -/
def Chip.reg (c : Chip) (k : Nat) : Word := sget regReset c.regs k

/-- Register `k` set whole. -/
def Chip.setReg (c : Chip) (k : Nat) (w : Word) : Chip := { c with regs := sset regReset c.regs k w }

/-- The value of a field. -/
def Chip.f (c : Chip) (x : Fld) : Nat := (c.reg x.key).bits x.msb x.lsb

/-- A field set by the hardware, whatever its access code. -/
def Chip.setF (c : Chip) (x : Fld) (v : Nat) : Chip :=
  c.setReg x.key ((c.reg x.key).setBits x.msb x.lsb v)

/-- A one-bit field as a Bool. -/
def Chip.fb (c : Chip) (x : Fld) : Bool := c.f x != 0

/-- A flag set by the hardware. -/
def Chip.flag (c : Chip) (x : Fld) : Chip := c.setF x 1

/-- A saturating counter field stepped by the hardware. -/
def Chip.countF (c : Chip) (x : Fld) : Chip := c.setF x (satInc (x.msb + 1 - x.lsb) (c.f x))

/-- Bit `n` of a register set by the hardware. -/
def Chip.setRegBit (c : Chip) (k n : Nat) (b : Bool) : Chip := c.setReg k ((c.reg k).setBit n b)

/-- Bit `n` of register `k`. -/
def Chip.regBit (c : Chip) (k n : Nat) : Bool := (c.reg k).bit n

/-- The block's bit of SYS_EXPERT (R13 to R15). -/
def Chip.expert (c : Chip) (b : Nat) : Bool := (c.reg SYS_EXPERT).bit b

/-- An expert field, or the derived setting while the block's SYS_EXPERT bit is clear (R15). -/
def Chip.xf (c : Chip) (x : Fld) (derived : Nat) : Nat :=
  if c.expert (x.key / 0x1000) then c.f x else derived

/-- What one field of a register becomes on a write of `v` (R5, R7).  `sealBroken` lets SL fields take effect. -/
def writeField (sealBroken : Bool) (old v : Word) (w : Word) (f : FieldDef) : Word :=
  let o := old.bits f.msb f.lsb
  let n := v.bits f.msb f.lsb
  match f.acc with
  | .rw => w.setBits f.msb f.lsb n
  | .w1c => w.setBits f.msb f.lsb (o - (o &&& n))
  | .w1s => w.setBits f.msb f.lsb (o ||| n)
  | .sl => if sealBroken then w.setBits f.msb f.lsb n else w
  | .ro | .wo | .rs => w

/-- The word a register holds after a write of `v`, by the access codes of its fields (R5, R7). -/
def writeWord (sealBroken : Bool) (k : Nat) (old v : Word) : Word :=
  (regFields k).foldl (writeField sealBroken old v) old

/-- Register `k` after a reset of the classes in `mask`: the fields those classes restore (R2, R3). -/
def resetWord (mask k : Nat) (w : Word) : Word :=
  (regFields k).foldl
    (fun a f => if f.cls &&& mask != 0 then a.setBits f.msb f.lsb (fieldReset k f) else a) w

/-- The register file after a reset of the classes in `mask`, on the registers that `sel` picks. -/
def resetRegs (mask : Nat) (sel : Nat → Bool) (r : Sparse Word) : Sparse Word :=
  r.filterMap fun p =>
    if sel p.1 then
      (if resetWord mask p.1 p.2 = regReset p.1 then none else some (p.1, resetWord mask p.1 p.2))
    else some p

/-- A reset of the classes in `mask` on every register of block `b` (a U reset names one block). -/
def Chip.resetBlock (c : Chip) (mask b : Nat) : Chip :=
  { c with regs := resetRegs mask (fun k => k / 0x1000 == b) c.regs }

/-- What a read command of origin `o` returned. -/
def Chip.answerTo (c : Chip) (o : Nat) (a : Answer) : Chip := { c with answer := sset (fun _ => Answer.none) c.answer o a }

/-! ### Free values (log entry 9) -/

/-- The next free value as a number below 2^w, and the chip with the counter stepped. -/
def Chip.freeBits (c : Chip) (w : Nat) : Nat × Chip :=
  ((Config.freeValue c.free).toNat % 2 ^ w, { c with free := c.free + 1 })

/-- The next free word. -/
def Chip.freeWord (c : Chip) : Word × Chip := (Word.of (c.freeBits 32).1, (c.freeBits 32).2)

/-- `n` free bytes (a nonce, R588 and R603). -/
def freeBytes : Nat → Chip → List Byte × Chip
  | 0, c => ([], c)
  | n + 1, c =>
    let (v, c) := c.freeBits 8
    let (t, c) := freeBytes n c
    (BitVec.ofNat 8 v :: t, c)

/-! ### Time -/

/-- The master count as a number. -/
def Chip.now (c : Chip) : Nat := c.count.toNat

/-- A short postmark: the low 48 bits (R30). -/
def short48 (n : Nat) : Nat := n % 2 ^ 48

/-- Replica `i` with no error. -/
def replica0 : Nat → Replica := fun _ => ⟨0, 0⟩

/-- The value of island `i`'s replica (R23, R24): the master with the replica's error, never below a value it has reached. -/
def Chip.replica (c : Chip) (i : Nat) : DWord :=
  let r := sget replica0 c.replicas i
  BitVec.ofNat 64 (max r.low ((c.now : Int) + r.err).toNat)

/-- The clock period of the unit with origin `o`, in nanoseconds as a fraction (R25, R629, chapters 03, 08, 09, 12); where the manual
gives no clock, one nanosecond (log entry 155). -/
def Chip.period (c : Chip) (o : Nat) : Nat × Nat :=
  if o < 8 then
    (match c.hosts.opPoint with | 3 => (5, 12) | 2 => (1, 2) | 1 => (5, 8) | _ => (1, 1))
  else if o < 56 then (5, 6)
  else if o < 62 || within 64 97 o || o = 101 || within 112 115 o then (5, 4)
  else if o = 62 then (5, 1)
  else if o = 63 then (5, 2)
  else if within 128 160 o then (4, 1)
  else (1, 1)

/-- The count of an island whose clock has period `p` once the time is `x`: whole cycles, carried exactly, and the whole nanoseconds
of the result (R25). -/
def wholeCycles (p : Nat × Nat) (x : Nat) : Nat := x * p.2 / p.1 * p.1 / p.2

/-- The postmark that the unit with origin `o` gives (R25): its island's replica, in whole cycles of the unit's clock; POST gives the
master count that it presents (R20). -/
def Chip.stamp (c : Chip) (o : Nat) : Nat :=
  if o = 252 then c.now else wholeCycles (c.period o) (c.replica (Config.islandOf o)).toNat

/-! ### The Daybook (R596 to R598) -/

/-- A main-side origin: every origin but the Postmaster's 63, the Daybook's 248 and POST's 252 (R598). -/
def mainOrigin (o : Nat) : Bool := o != 63 && o != 248 && o != 252

/-- An origin number that R33 assigns to a unit of the device. -/
def assignedOrigin (o : Nat) : Bool :=
  Nat.ble o 101 || within 104 108 o || within 112 116 o || within 128 176 o || within 192 198 o
    || [200, 208, 209, 224, 225, 226, 232, 240, 248, 249, 250, 251, 252, 253].contains o

/-- Append an entry (R596, R597): the next SEQ, at most 8,191 ring entries, a copy in entry 0 for an epoch entry.  While
frozen, main-side origins are refused (R598).  CLASS 1 to 4 sets ERR_EV. -/
def Chip.journalAt (c : Chip) (pm cls kind origin flags item data : Nat) : Chip :=
  if c.dayb.frozen && mainOrigin origin then c
  else
    let e : DayEntry := ⟨c.dayb.next, short48 pm, origin, cls, Config.islandOf origin, kind, flags, item, data⟩
    let c := { c with dayb := { c.dayb with
      ring := (e :: c.dayb.ring).take 8191
      epoch := if cls = 5 then some e else c.dayb.epoch
      next := (c.dayb.next + 1) % 2 ^ 31 } }
    if 1 ≤ cls && cls ≤ 4 then c.flag DAYB_EVT_ERR_EV else c

/-- Append an entry with the postmark that its unit gives now. -/
def Chip.journal (c : Chip) (cls kind origin flags item data : Nat) : Chip :=
  c.journalAt (c.stamp origin) cls kind origin flags item data

/-- Add an entry to the Postmaster's repair list, unless it is held already or the list is full (R602). -/
def Chip.repairAdd (c : Chip) (kind id off : Nat) : Chip :=
  let e : Word × Word := (Word.of (kind + id * 256), Word.of off)
  if c.pm.repair.contains e || Nat.ble 64 c.pm.repair.length then c
  else { c with pm := { c.pm with repair := c.pm.repair ++ [e] } }

/-- An error record of the poisoned class, made at the point of architectural use (R51, R52). -/
def Chip.poisonRecord (c : Chip) (origin addr : Nat) : Chip := c.journal 2 0 origin 0 addr 0

/-- The Daybook stops accepting main-side origins (R598). -/
def Chip.freezeDaybook (c : Chip) : Chip :=
  if c.dayb.frozen then c
  else
    let c := { c with dayb := { c.dayb with frozen := true } }
    c.flag DAYB_EVT_FROZEN_EV

/-- A device-fatal error (R50, R53, R598): its Daybook entry, then every main-side island stops and the Daybook is
frozen. -/
def Chip.deviceFatal (c : Chip) (origin cause : Nat) : Chip :=
  let c := c.journal 4 0 origin 0 0 cause
  let c := c.freezeDaybook
  { c with power := { c.power with state := .fatal } }

/-! ### Power domains -/

/-- A domain that is on and out of isolation, the state after every reset of P M H W S T (R557). -/
def domain0 : Nat → Domain := fun _ => ⟨true, false, true⟩

/-- Domain `d` is on, ready and not isolated. -/
def Chip.domainUp (c : Chip) (d : Nat) : Bool :=
  let x := sget domain0 c.power.domain d
  x.pwr && !x.iso && x.ok

/-- The main side runs: powered, clocked, not held by a reset whose cause has not ended, not stopped by a device-fatal
error. -/
def Chip.mainRuns (c : Chip) : Bool := c.power.state = .run && c.power.seq = none

/-- A write of master `o` is not acknowledged yet: it started a training (R648), or it waits for a hold of PMUX (R537). -/
def Chip.enableHolds (c : Chip) (o : Nat) : Bool :=
  c.memc.training == some (some o) || c.pins.hold.any fun e => match e.2 with | some h => h.deferred.any (·.1 == some o) | none => false

/-- The masters `m` no longer wait for an acknowledgement; what they wrote stands. -/
def Chip.forgetWaits (c : Chip) (m : Nat → Bool) : Chip :=
  let drop (o : Option Nat) : Option Nat := match o with | some o => if m o then none else some o | none => none
  { c with
    memc := { c.memc with training := c.memc.training.map drop }
    pins := { c.pins with hold := c.pins.hold.map fun e => (e.1, e.2.map fun h => { h with deferred := h.deferred.map fun w => (drop w.1, w.2) }) } }

/-- The power domain of register block `b` (R556); the blocks the table names in no domain of their own lie in the
spine. -/
def blockDomain (b : Nat) : Nat :=
  if Nat.ble 0x0C b && Nat.ble b 0x0F then 72 + (b - 0x0C)
  else match b with
  | 0x07 => 91
  | 0x08 => 92
  | 0x10 | 0x11 => 90
  | 0x12 => 97
  | 0x13 => 98
  | 0x14 => 99
  | 0x15 => 100
  | _ => 0

/-- The power domain of core `k` (R556). -/
def coreDomain (k : Nat) : Nat :=
  if k < 8 then 2 + k else if k < 56 then 18 + (k - 8) else if k < 62 then 66 + (k - 56) else if k = 62 then 114 else 112

/-- Register block `b` works: the main side runs, and the block's domain is on and not isolated (R18). -/
def Chip.blockRuns (c : Chip) (b : Nat) : Bool := c.mainRuns && c.domainUp (blockDomain b)

/-! ### The physical map -/

/-- What lies at a physical address (R157, R404, R584). -/
inductive Region
  | dram
  | pcieWindow
  | pattern
  | audio
  | palette (o : Nat)
  | sorterRam (s : Nat)
  | hornRam (h : Nat)
  | block (b : Nat)
  | rom
  | fuRom
  | fuSram
  | keepBank
  | notice
  | fuPobox
  | fuDevice
  | fuFuse
  | pmRam
  | pmRom
  | pmDevice
  | unassigned
  deriving DecidableEq, Repr

/-- The top of usable DRAM (R178, R648): DRAMC_TOP in 4 KiB units. -/
def Chip.dramTop (c : Chip) : Nat := c.f DRAMC_TOP_SIZE4K * 4096

/-- The main-side map of R157. -/
def mainRegion (top pa : Nat) : Region :=
  if within 0 0x800000000 pa then (if pa < top then .dram else .unassigned)
  else if within 0x800000000 0x1000000000 pa then .pcieWindow
  else if within 0x1000000000 0x1001000000 pa then .pattern
  else if within 0x1010000000 0x1010400000 pa then .audio
  else if within 0x1018000000 0x1018080000 pa then .palette ((pa - 0x1018000000) / 0x20000)
  else if within 0x1020000000 0x1020300000 pa then .sorterRam ((pa - 0x1020000000) / 0x10000)
  else if within 0x1030000000 0x1030180000 pa then .hornRam ((pa - 0x1030000000) / 0x40000)
  else if within 0x1800000000 0x18001A0000 pa then
    (if pa % 0x10000 < 0x1000 then .block ((pa - 0x1800000000) / 0x10000) else .unassigned)
  else if within 0x1FFFFC0000 0x2000000000 pa then .rom
  else .unassigned

/-- The Franking core's map (R404). -/
def fuRegion (pa : Nat) : Region :=
  if within 0x1D00000000 0x1D00020000 pa then .fuRom
  else if within 0x1D10000000 0x1D10030000 pa then .fuSram
  else if within 0x1D10030000 0x1D10040000 pa then .keepBank
  else if within 0x1D20000000 0x1D20040000 pa then .notice
  else if within 0x1D30000000 0x1D30001000 pa then .fuPobox
  else if within 0x1D40000000 0x1D40001000 pa then .fuDevice
  else if within 0x1D50000000 0x1D50000200 pa then .fuFuse
  else .unassigned

/-- The Postmaster's map (R584). -/
def pmRegion (pa : Nat) : Region :=
  if within 0x1E00000000 0x1E00080000 pa then .pmRam
  else if within 0x1E10000000 0x1E10010000 pa then .pmRom
  else if within 0x1E20000000 0x1E30000000 pa then .pmDevice
  else if within 0x1800000000 0x18001A0000 pa then
    (if pa % 0x10000 < 0x1000 then .block ((pa - 0x1800000000) / 0x10000) else .unassigned)
  else .unassigned

/-- What the master with origin `o` reaches at `pa`. -/
def Chip.region (c : Chip) (o pa : Nat) : Region :=
  if o = 62 then fuRegion pa else if o = 63 then pmRegion pa else mainRegion c.dramTop pa

/-- The DRAM channel of a DRAM-window address (R179, R182): the channel number as the board counts it. -/
def Chip.dramChannel (c : Chip) (pa : Nat) : Nat :=
  if c.fb DRAMC_STATUS_DEGRADED then
    let i := (pa / 256) % 3
    if i < c.f DRAMC_STATUS_DEG_CH then i else i + 1
  else (pa / 256) % 4

/-- The channel byte of a DRAM-window address (R179, R182). -/
def Chip.channelByte (c : Chip) (pa : Nat) : Nat :=
  let n := if c.fb DRAMC_STATUS_DEGRADED then 3 else 4
  let k := (pa / 256 / n) * 4 + nbits pa 7 6
  (k / 7) * 512 + (k % 7) * 64 + pa % 64

/-- The power domain of an address's region (R556). -/
def Chip.regionDomain (c : Chip) (r : Region) (pa : Nat) : Nat :=
  match r with
  | .dram => 93 + c.dramChannel pa
  | .pcieWindow => 97
  | .pattern => 81 + nbits pa 10 6 / 4
  | .audio => 89
  | .palette o => 72 + o
  | .sorterRam s => 18 + s
  | .hornRam h => 66 + h
  | .block b => blockDomain b
  | .rom => 1
  | .fuRom => 114
  | .fuSram => 115
  | .notice => 116
  | .fuPobox | .fuDevice | .fuFuse => 114
  | .keepBank => 113
  | .pmRam | .pmRom | .pmDevice => 112
  | .unassigned => 0

/-- The on-chip array that holds a mapped address (R161). -/
def arrayId (r : Region) (pa : Nat) : Nat :=
  match r with
  | .pattern => 0x20 + nbits pa 10 6
  | .palette o => 0x40 + o
  | .audio => 0x48 + nbits pa 8 6
  | .sorterRam s => 0x50 + s
  | .hornRam h => 0x80 + h
  | _ => 0

/-- A main-side memory whose words SECDED protects (R161, R167). -/
def memRegion (r : Region) : Bool :=
  match r with
  | .dram | .pattern | .audio | .palette _ | .sorterRam _ | .hornRam _ => true
  | _ => false

/-- Width in bytes of the SECDED word at an address (R162, R180). -/
def eccWidth (r : Region) : Nat := match r with | .dram => 8 | _ => 4

/-- The word address that keys the poison mark and the bit errors of an address. -/
def eccKey (r : Region) (pa : Nat) : Nat := pa - pa % eccWidth r

/-! ### Raw memory -/

/-- What an unlisted byte of memory holds.  A word that no whole-word write has made valid is undefined, and its first access
replaces it by a free value (R167, R168); what this gives is seen only where a fill or a reset wrote zeros, and in memories
outside R167 (log entry 4). -/
def memDefault : Nat → Byte := fun _ => 0

/-- No poison. -/
def clean : Nat → Bool := fun _ => false

/-- No bit errors. -/
def noErr : Nat → BitErr := fun _ => ⟨0, 0⟩

/-- One byte of memory. -/
def Chip.byte (c : Chip) (pa : Nat) : Byte := sget memDefault c.mem pa

/-- One byte of memory written. -/
def Chip.setByte (c : Chip) (pa : Nat) (b : Byte) : Chip := { c with mem := sset memDefault c.mem pa b }

/-- `n` bytes from `pa`. -/
def Chip.bytes (c : Chip) (pa : Nat) : Nat → List Byte
  | 0 => []
  | n + 1 => c.byte pa :: c.bytes (pa + 1) n

/-- Bytes written from `pa` up. -/
def Chip.setBytes (c : Chip) (pa : Nat) : List Byte → Chip
  | [] => c
  | b :: t => (c.setByte pa b).setBytes (pa + 1) t

/-- The little-endian number of `n` bytes at `pa` (R61). -/
def Chip.le (c : Chip) (pa n : Nat) : Nat := leNat (c.bytes pa n)

/-- The poison mark of a word. -/
def Chip.poisoned (c : Chip) (k : Nat) : Bool := sget clean c.poison k

/-- The poison mark of a word set or cleared (R164). -/
def Chip.setPoison (c : Chip) (k : Nat) (b : Bool) : Chip := { c with poison := sset clean c.poison k b }

/-- The canonical form of memory: addresses rising, no byte equal to what an unlisted one reads as. -/
def Memory.wf (m : Sparse Byte) : Bool := sparseWf memDefault m

end Sys2Proof.Machine
end

