-- ==== Sys2Proof/Machine/Memory.lean ====
section
/-! DEFINITION. Memory accesses with their integrity: SECDED and poison (R162 to R168), dead-letter allocation (R173),
the page retirement list (R186), planted errors (R188), replication windows (R474) and reservations (R95). -/

namespace Sys2Proof.Machine

/-! ### Corrections -/

/-- The dead-letter table has this many entries (R161): 64 for an L2 slice, 16 for the other arrays, none for a line ring or a
reserved ID. -/
def dltSize (a : Nat) : Nat :=
  if a < 8 then 64 else if within 0x08 0x18 a || within 0x20 0x44 a || within 0x48 0x86 a then 16 else 0

/-- No dead-letter entry. -/
def dlt0 : Nat → DltEntry := fun _ => ⟨false, 0⟩

/-- Entry `i` of array `a`. -/
def Chip.dlt (c : Chip) (a i : Nat) : DltEntry := sget dlt0 c.memc.dlt (a * 64 + i)

/-- Entry `i` of array `a` replaced. -/
def Chip.setDlt (c : Chip) (a i : Nat) (e : DltEntry) : Chip :=
  { c with memc := { c.memc with dlt := sset dlt0 c.memc.dlt (a * 64 + i) e } }

/-- The lowest free entry of array `a`, from index `i` up. -/
def Chip.dltFree (c : Chip) (a : Nat) : Nat → Nat → Option Nat
  | _, 0 => none
  | i, n + 1 => if (c.dlt a i).valid then c.dltFree a (i + 1) n else some i

/-- Byte offset of an address's word within its array, as the dead-letter registers count it (R177).  How the offset counts within
a bank of the interleaved pattern store and audio RAM, and within a cache array, the manual leaves open: the bank's own 64-byte
blocks in ascending address (log entry 156). -/
def arrayOffset (r : Region) (pa : Nat) : Nat :=
  let o := match r with
    | .pattern => pa % 0x1000000 / 0x800 * 64 + pa % 64
    | .audio => pa % 0x400000 / 0x200 * 64 + pa % 64
    | .palette _ => pa % 0x20000
    | .sorterRam _ => pa % 0x10000
    | .hornRam _ => pa % 0x40000
    | _ => pa / 0x200 * 64 % 0x100000 + pa % 64
  o - o % 4

/-- The word at offset `off` of array `a` is served from a spare (R173). -/
def Chip.remapped (c : Chip) (a off : Nat) : Bool :=
  (List.range (dltSize a)).any fun i => (c.dlt a i).valid && (c.dlt a i).off == off

/-- The verify read of the word at `k` of an on-chip array finds an error: the word is hard, and no spare serves it (R173, R175). -/
def Chip.stuck (c : Chip) (r : Region) (k : Nat) : Bool :=
  r != .dram && memRegion r && sget (fun _ => false) c.memc.hard k && !c.remapped (arrayId r k) (arrayOffset r k)

/-- A word found hard, or not (R173). -/
def Chip.setHard (c : Chip) (k : Nat) (b : Bool) : Chip :=
  { c with memc := { c.memc with hard := sset (fun _ => false) c.memc.hard k b } }

/-- A hard word at `k` of array `a` (R173 to R175): the lowest free entry takes it, or the table is full. -/
def Chip.dltAlloc (c : Chip) (a off k : Nat) : Chip :=
  match c.dltFree a 0 (dltSize a) with
  | none => c.flag MEM_STATUS_DLT_FULL
  | some i =>
    let c := c.setDlt a i ⟨true, off⟩
    let c := c.flag MEM_STATUS_DLT_ALLOC
    let c := c.journal 1 4 208 0 k a
    c.repairAdd 1 a off

/-- The verify read after a correction, or after a write that replaced poison (R163, R173): a hard word gets a spare. -/
def Chip.verify (c : Chip) (r : Region) (k : Nat) : Chip :=
  if c.stuck r k then c.dltAlloc (arrayId r k) (arrayOffset r k) k else c

/-- The record of a correction in an on-chip array (R163, R52). -/
def Chip.correctedSram (c : Chip) (a pa : Nat) (spec scrub : Bool) : Chip :=
  let c := c.countF MEM_CE_COUNT_COUNT
  let c := c.setF MEM_LAST_CE0_ARRAY a
  let c := c.setF MEM_LAST_CE0_SPEC spec.toNat
  let c := c.setF MEM_LAST_CE0_SCRUB scrub.toNat
  let c := c.setF MEM_LAST_CE0_PAHI (nbits pa 39 32)
  let c := c.setF MEM_LAST_CE1_PALO (nbits pa 31 0)
  let c := c.flag MEM_STATUS_CE_EV
  c.journal 1 0 208 (spec.toNat + 2 * scrub.toNat) pa a

/-- The threshold of R186. -/
def Chip.retThresh (c : Chip) : Nat := max 1 (c.xf DRAMC_RET_THRESH 4)

/-- Drop the candidate with the lowest count, among equals the oldest (R186). -/
def dropLowest (l : List Page) : List Page :=
  match l with
  | [] => []
  | p :: t =>
    let m := t.foldl (fun m x => min m x.count) p.count
    match l.findIdx? (fun x => x.count == m) with
    | some i => l.eraseIdx i
    | none => l

/-- A page whose count reaches the threshold is listed, or FULL is set (R186, R187). -/
def Chip.retirePage (c : Chip) (page : Nat) : Chip :=
  if c.memc.retired.contains page then c
  else if Nat.ble 64 c.memc.retired.length then c.flag DRAMC_RET_FULL
  else
    let c := { c with memc := { c.memc with retired := c.memc.retired ++ [page] } }
    let c := c.setF DRAMC_RET_COUNT c.memc.retired.length
    c.flag DRAMC_STATUS_RETIRE_EV

/-- Count a correction in a DRAM page (R186). -/
def Chip.countPage (c : Chip) (pa : Nat) : Chip :=
  let page := pa / 4096
  let cand := c.memc.cand
  let n := match cand.find? (fun p => p.page == page) with
    | some p => p.count + 1
    | none => 1
  let cand' :=
    if cand.any (fun p => p.page == page) then
      cand.map (fun p => if p.page == page then ⟨page, n⟩ else p)
    else (if Nat.ble 256 cand.length then dropLowest cand else cand) ++ [⟨page, 1⟩]
  let c := { c with memc := { c.memc with cand := cand' } }
  if Nat.ble c.retThresh n then c.retirePage page else c

/-- The record of a DRAM correction (R163, R180, R52). -/
def Chip.correctedDram (c : Chip) (pa : Nat) (spec scrub : Bool) : Chip :=
  let c := c.countF DRAMC_CE_COUNT_COUNT
  let c := c.setF DRAMC_LAST_CE0_ADDR (nbits pa 34 3)
  let c := c.setF DRAMC_LAST_CE1_SPEC spec.toNat
  let c := c.setF DRAMC_LAST_CE1_SCRUB scrub.toNat
  let c := c.flag DRAMC_STATUS_CE_EV
  let c := c.journal 1 0 209 (spec.toNat + 2 * scrub.toNat) pa 0
  c.countPage pa

/-- A correction in region `r` (R163). -/
def Chip.corrected (c : Chip) (r : Region) (pa : Nat) (spec scrub : Bool) : Chip :=
  match r with
  | .dram => c.correctedDram pa spec scrub
  | _ => c.correctedSram (arrayId r pa) pa spec scrub

/-! ### The SECDED check of a read -/

/-- The bit errors of a word. -/
def Chip.flipAt (c : Chip) (k : Nat) : BitErr := sget noErr c.flips k

/-- The bit errors of a word set. -/
def Chip.setFlip (c : Chip) (k : Nat) (e : BitErr) : Chip := { c with flips := sset noErr c.flips k e }

/-- The number of flipped bits. -/
def BitErr.count (e : BitErr) : Nat := popcount 64 e.data + popcount 8 e.chk

/-- The stored data of the word at `k` altered by a mask. -/
def Chip.xorWord (c : Chip) (k n mask : Nat) : Chip := c.setBytes k (leBytes n (Nat.xor (c.le k n) mask))

/-- The word at `k` has been written whole since its memory lost its contents (R167). -/
def Chip.defined (c : Chip) (k : Nat) : Bool :=
  sget (fun _ => false) c.memc.valid k || c.memc.filled.any fun p => within p.1 p.2 k

/-- The check bits of the word at `k` are valid from now on. -/
def Chip.setValid (c : Chip) (k : Nat) : Chip :=
  { c with memc := { c.memc with valid := sset (fun _ => false) c.memc.valid k true } }

/-- The first access to a word that was never written whole (R167, R168): its data is a free value, and so is what its check bits make
of it: poison, a word that will be corrected, or a word that passes.  What it is stays from then on. -/
def Chip.firstUse (c : Chip) (r : Region) (k : Nat) : Chip :=
  if !memRegion r || c.defined k then c
  else
    let (d, c) := c.freeBits 64
    let (v, c) := c.freeBits 16
    let c := (c.setBytes k (leBytes (eccWidth r) d)).setValid k
    if v % 3 = 0 then c.setPoison k true else if v % 3 = 1 then c.setFlip k ⟨1, 0⟩ else c

/-- What a check makes of a word of `w` bytes with data `d` and the errors `e`: poison, or the mask that alters its data and whether
the result counts as a correction (R162).  An error of three or more bits has one of three outcomes, fixed by the bits read; a
miscorrection flips one more of the word's data and check bits. -/
def eccResult (w d : Nat) (e : BitErr) : Option (Nat × Bool) :=
  if e.count = 0 then some (0, false)
  else if e.count = 1 then some (0, true)
  else if e.count = 2 then none
  else
    let v := Config.eccOutcome d e.data e.chk
    if v % 3 = 0 then none
    else if v % 3 = 1 then
      let b := v / 3 % (8 * w + if w = 8 then 8 else 7)
      some (Nat.xor e.data (if b < 8 * w then 2 ^ b else 0), true)
    else some (e.data, false)

/-- The check of a word at `k` of region `r` in its own memory: an error found correctable is corrected, recorded, written back and
verified (R163), an uncorrectable one leaves the poison code (R164), and a hard word without a spare is corrected at each access (R175). -/
def Chip.checkWord (c : Chip) (r : Region) (k : Nat) (spec scrub : Bool) : Chip :=
  let c := c.firstUse r k
  if c.poisoned k then c
  else
    let w := eccWidth r
    let e := c.flipAt k
    match eccResult w (c.le k w) e with
    | none => (c.setFlip k ⟨0, 0⟩).setPoison k true
    | some (m, ce) =>
      let c := if e = ⟨0, 0⟩ then c else (c.setFlip k ⟨0, 0⟩).xorWord k w m
      if ce || c.stuck r k then (c.corrected r k spec scrub).verify r k else c

/-! ### Dirty lines (R158 to R160, R165; log entry 12) -/

/-- The dirty line that holds a DRAM-window address. -/
def Chip.dirty (c : Chip) (pa : Nat) : Option DirtyLine := sget (fun _ => none) c.memc.cache (pa - pa % 64)

/-- The dirty line that holds `pa` replaced. -/
def Chip.setDirty (c : Chip) (pa : Nat) (l : Option DirtyLine) : Chip :=
  { c with memc := { c.memc with cache := sset (fun _ => none) c.memc.cache (pa - pa % 64) l } }

/-- A bit of a mask set or cleared. -/
def maskSet (m i : Nat) (b : Bool) : Nat := if m.testBit i = b then m else Nat.xor m (2 ^ i)

/-- The L2 slice of an address (R161). -/
def l2Slice (pa : Nat) : Nat := nbits pa 8 6

/-- The check of the 32-bit word that holds `pa` in the dirty line `l`, as cache array `a` holds it (R162 to R165): the address recorded
is the line's. -/
def Chip.checkLine (c : Chip) (a : Nat) (l : DirtyLine) (pa : Nat) (spec scrub : Bool) : Chip :=
  let i := pa % 64 / 4
  let k := pa - pa % 4
  if l.poison.testBit i then c
  else
    let e := sget noErr l.flips i
    let l' := { l with flips := sset noErr l.flips i ⟨0, 0⟩ }
    match eccResult 4 (c.le k 4) e with
    | none => c.setDirty pa (some { l' with poison := maskSet l.poison i true })
    | some (m, ce) =>
      let c := if e = ⟨0, 0⟩ then c else (c.setDirty pa (some l')).xorWord k 4 m
      if ce then c.correctedSram a (pa - pa % 64) spec scrub else c

/-- The SECDED check of the word that holds `pa`, on its way to a reader: in its own memory, or in the L2 where that holds the line
dirty. -/
def Chip.eccCheck (c : Chip) (r : Region) (pa : Nat) (spec scrub : Bool) : Chip :=
  match (if r = .dram then c.dirty pa else none) with
  | some l => c.checkLine (l2Slice pa) l pa spec scrub
  | none => c.checkWord r (eccKey r pa) spec scrub

/-- The word that holds `pa` is poisoned, in the L2 or in its own memory. -/
def Chip.wordPoison (c : Chip) (r : Region) (pa : Nat) : Bool :=
  match (if r = .dram then c.dirty pa else none) with
  | some l => l.poison.testBit (pa % 64 / 4)
  | none => c.poisoned (eccKey r pa)

/-- The word that holds `pa` is left poisoned by a store of poisoned data (R164). -/
def Chip.markPoison (c : Chip) (r : Region) (pa : Nat) : Chip :=
  match (if r = .dram then c.dirty pa else none) with
  | some l => c.setDirty pa (some { l with poison := maskSet l.poison (pa % 64 / 4) true })
  | none => c.setPoison (eccKey r pa) true

/-- The poison of the eight DRAM words of a line whose sixteen 32-bit words have the poison `m`. -/
def dramPoison (m : Nat) : Nat :=
  (List.range 8).foldl (fun a j => a + if m.testBit (2 * j) || m.testBit (2 * j + 1) then 2 ^ j else 0) 0

/-- The poison of the sixteen 32-bit words of a line of DRAM. -/
def Chip.linePoison (c : Chip) (la : Nat) : Nat :=
  (List.range 16).foldl (fun a i => a + if c.poisoned (la + i / 2 * 8) then 2 ^ i else 0) 0

/-- The check of every SECDED word that `n` bytes at `pa` touch. -/
def Chip.eccRange (c : Chip) (r : Region) (n pa : Nat) : Chip :=
  forAll (List.range n) (fun i c => if i = 0 || (pa + i) % 4 = 0 then c.eccCheck r (pa + i) false false else c) c

/-- The line that holds `pa` is brought into the L2 to be written by a Courier (R165): its poison comes with it. -/
def Chip.fillLine (c : Chip) (pa : Nat) : Chip :=
  match c.dirty pa with
  | some _ => c
  | none =>
    let la := pa - pa % 64
    let c := c.eccRange .dram 64 la
    c.setDirty pa (some ⟨[], c.linePoison la, []⟩)

/-- The line that holds `pa` becomes what one of its versions says: the newest, as memory shows it, or one that DRAM may still hold;
which of them has been written back last, the manual leaves open (a free value). -/
def Chip.loseLine (c : Chip) (pa : Nat) : Chip :=
  match c.dirty pa with
  | none => c
  | some l =>
    let la := pa - pa % 64
    let vs := (c.bytes la 64, dramPoison l.poison) :: l.old
    let (v, c) := c.freeBits 16
    let (b, p) := vs.getD (v % vs.length) ([], 0)
    let c := (c.setDirty pa none).setBytes la b
    forAll (List.range 8) (fun j c => c.setPoison (la + 8 * j) (p.testBit j)) c

/-- The caches are invalidated without write-back (R160): DRAM holds the values last written back to it. -/
def Chip.loseCaches (c : Chip) : Chip := forAll (c.memc.cache.map fun p => p.1) (fun la c => c.loseLine la) c

/-! ### Replication windows (R474) -/

/-- The link is PAIRED (R462). -/
def Chip.paired (c : Chip) : Bool := c.f ZOW_STATUS_STATE == 5

/-- This device is Lead, or Mirror, by ZOW_STATUS.ROLE. -/
def Chip.isLead (c : Chip) : Bool := c.f ZOW_STATUS_ROLE == 1
def Chip.isMirror (c : Chip) : Bool := c.f ZOW_STATUS_ROLE == 2

/-- The value of ZOW_WIN_w in force: a paired Mirror uses the Lead's (R474). -/
def Chip.zowWin (c : Chip) (w : Nat) : Word :=
  if c.paired && c.isMirror then sget (fun _ => 0) c.zow.leadWin w else c.reg (ZOW_WIN w)

/-- A window that holds `pa`: its stream 6 to 9. -/
def Chip.windowOf (c : Chip) (pa : Nat) : Option Nat :=
  ((List.range 8).find? fun w =>
      let v := c.zowWin w
      let lo := v.bits 14 0 * 0x100000
      within lo (lo + v.bits 29 16 * 0x100000) pa).map fun w => 6 + (c.zowWin w).bits 31 30

/-- A captured line: the whole aligned 64-byte line as it stands, with its poisoned words; `mask` names the bytes sent. -/
def Chip.line64 (c : Chip) (pa mask : Nat) : CapLine :=
  let la := pa - pa % 64
  ⟨la, mask, c.bytes la 64, (List.range 8).filter fun i => c.wordPoison .dram (la + 8 * i)⟩

/-- Queue a captured line on a stream with the stream's next sequence number (R468, R474). -/
def Chip.capture (c : Chip) (stream : Nat) (l : CapLine) : Chip :=
  let n := (sget (fun _ => 0) c.zow.sent stream + 1) % 2 ^ 32
  { c with zow := { c.zow with
    captured := smod (fun _ => []) c.zow.captured stream (fun q => q ++ [(n, l)])
    sent := sset (fun _ => 0) c.zow.sent stream n } }

/-- The capture buffer holds its 256 KiB: 4,096 lines of streams 6 to 9 not yet acknowledged (R475). -/
def Chip.captureFull (c : Chip) : Bool :=
  Nat.ble 4096 ((List.range 4).foldl (fun n i => n + (sget (fun _ => []) c.zow.captured (6 + i)).length) 0)

/-- A write at `pa` waits at its target: it lies in a replication window of the Lead, whose capture buffer is full (R475). -/
def Chip.writeWaits (c : Chip) (pa : Nat) : Bool :=
  c.paired && c.isLead && Nat.blt pa c.dramTop && (c.windowOf pa).isSome && c.captureFull

/-! ### Reservations (R95) -/

/-- The default of the core table: each core after reset. -/
def Chip.core (c : Chip) (k : Nat) : Core := sget Core.reset c.cores k

/-- Core `k` replaced. -/
def Chip.setCore (c : Chip) (k : Nat) (x : Core) : Chip := { c with cores := sset Core.reset c.cores k x }

/-- Core `k` changed by `f`. -/
def Chip.modCore (c : Chip) (k : Nat) (f : Core → Core) : Chip := c.setCore k (f (c.core k))

/-- A store to the granule of `pa` clears every reservation held on it (R95). -/
def clearResv (pa : Nat) (t : Sparse Core) : Sparse Core :=
  t.map fun p =>
    match p.2.resv with
    | some r => if r.pa = pa - pa % 64 then (p.1, { p.2 with resv := none }) else p
    | none => p

/-! ### Stores -/

/-- A planted error alters the word at `k` of region `r` as it is stored (R188): MEM target 0, or DRAMC; the fields act under expert
control alone (R15). -/
def Chip.plant (c : Chip) (r : Region) (k : Nat) : Chip :=
  match r with
  | .dram =>
    if c.xf DRAMC_FLIP_CTL_ARM 0 = 1 && nbits k 34 3 == c.f DRAMC_FLIP_ADDR_ADDR then
      (c.setFlip k ⟨c.f DRAMC_FLIP_DATA_DATA, c.f DRAMC_FLIP_CTL_CHK⟩).setF DRAMC_FLIP_CTL_ARM 0
    else c
  | _ =>
    if c.xf MEM_FLIP_CTL_ARM 0 = 1 && !c.fb MEM_FLIP_CTL_TARGET && k == 0x1000000000 + c.f MEM_FLIP_ADDR_ADDR * 4 then
      (c.setFlip k ⟨c.f MEM_FLIP_DATA_DATA, c.f MEM_FLIP_CTL_CHK⟩).setF MEM_FLIP_CTL_ARM 0
    else c

/-- The word at `k` is about to be stored whole (R164, R173): fresh check bits, no poison; where it replaces poison, the verify read
follows, unless an error is planted (R189). -/
def Chip.freshWord (c : Chip) (r : Region) (k : Nat) : Chip :=
  let was := c.poisoned k
  let c := (c.setFlip k ⟨0, 0⟩).setPoison k false
  let c := if memRegion r then c.setValid k else c
  if was then c.verify r k else c

/-- Bytes stored, each at its own address. -/
def Chip.putBytes (c : Chip) (l : List (Nat × Byte)) : Chip := forAll l (fun p c => c.setByte p.1 p.2) c

/-- Store bytes inside the SECDED word at `k` (R164, R181): a store of the whole word writes fresh check bits; a partial one
merges into the checked word and leaves its poison. -/
def Chip.storeWord (c : Chip) (r : Region) (k : Nat) (l : List (Nat × Byte)) : Chip :=
  let c := if l.length = eccWidth r then c.freshWord r k else c.checkWord r k false false
  let c := (c.putBytes l).plant r k
  { c with cores := clearResv k c.cores }

/-- Store bytes inside the 32-bit word at `k` of a line that the L2 holds dirty: the line as it stood may be what DRAM holds (R160); a
store of all four bytes clears the word's poison (R164); MEM target 1 plants an error in the word (R188). -/
def Chip.storeLine (c : Chip) (d : DirtyLine) (k : Nat) (l : List (Nat × Byte)) : Chip :=
  let i := k % 64 / 4
  let c := if l.length = 4 then c else c.checkLine (l2Slice k) d k false false
  let d := (c.dirty k).getD d
  let la := k - k % 64
  let plants := c.xf MEM_FLIP_CTL_ARM 0 = 1 && c.fb MEM_FLIP_CTL_TARGET
  let old := (c.bytes la 64, dramPoison d.poison) :: d.old
  let e : BitErr := if plants then ⟨c.f MEM_FLIP_DATA_DATA, c.f MEM_FLIP_CTL_CHK⟩ else ⟨0, 0⟩
  let c := c.setDirty k (some ⟨old, if l.length = 4 then maskSet d.poison i false else d.poison, sset noErr d.flips i e⟩)
  let c := (c.putBytes l).setF MEM_FLIP_CTL_ARM (if plants then 0 else c.f MEM_FLIP_CTL_ARM)
  { c with cores := clearResv k c.cores }

/-- Store bytes with their addresses inside one aligned word of 4 or 8 bytes of region `r`. -/
def Chip.storeIn (c : Chip) (r : Region) (pa : Nat) (l : List (Nat × Byte)) : Chip :=
  match (if r = .dram then c.dirty pa else none) with
  | some d => c.storeLine d (pa - pa % 4) l
  | none => c.storeWord r (eccKey r pa) l

/-- `n` bytes from `pa`, each with its address. -/
def placed : Nat → List Byte → List (Nat × Byte)
  | _, [] => []
  | pa, b :: t => (pa, b) :: placed (pa + 1) t

/-- The width of the word that a store at `pa` writes: the SECDED word, or the L2's 32-bit word. -/
def Chip.storeWidth (c : Chip) (r : Region) (pa : Nat) : Nat := if r = .dram && (c.dirty pa).isSome then 4 else eccWidth r

/-- Bytes of a store up to the end of the word at `pa`, then the rest. -/
def Chip.storeChunks (c : Chip) (r : Region) : Nat → Nat → List Byte → Chip
  | 0, _, _ => c
  | _, _, [] => c
  | fuel + 1, pa, bs =>
    let w := c.storeWidth r pa
    let n := w - pa % w
    (c.storeIn r pa (placed pa (bs.take n))).storeChunks r fuel (pa + n) (bs.drop n)

/-- The line that holds `pa` is written back and is dirty no longer (R160, R165): its words pass their check, and the poison that is
left travels with them. -/
def Chip.writeBack (c : Chip) (pa : Nat) : Chip :=
  match c.dirty pa with
  | none => c
  | some _ =>
    let la := pa - pa % 64
    let c := c.eccRange .dram 64 la
    let p := match c.dirty pa with | some l => dramPoison l.poison | none => 0
    let c := c.setDirty pa none
    forAll (List.range 8)
      (fun j c => (((c.freshWord .dram (la + 8 * j)).setPoison (la + 8 * j) (p.testBit j)).plant .dram (la + 8 * j))) c

/-- Every dirty line is written back (R551). -/
def Chip.writeBackAll (c : Chip) : Chip := forAll (c.memc.cache.map fun p => p.1) (fun la c => c.writeBack la) c

/-- The dirty lines of L2 slice `s` are written back (R547). -/
def Chip.writeBackSlice (c : Chip) (s : Nat) : Chip :=
  forAll ((c.memc.cache.map fun p => p.1).filter fun la => l2Slice la == s) (fun la c => c.writeBack la) c

/-- The byte mask of `n` bytes at `pa` within their 64-byte line. -/
def lineMask (pa n : Nat) : Nat := ((2 ^ n - 1) <<< (pa % 64)) % 2 ^ 64

/-- A store of bytes inside one 64-byte line to memory of region `r`.  On a paired Mirror a store of its own masters into
a window is discarded; on a paired Lead it is captured (R474). -/
def Chip.memStore (c : Chip) (r : Region) (pa : Nat) (bs : List Byte) : Chip :=
  match (if r = .dram && c.paired then c.windowOf pa else none) with
  | some stream =>
    if c.isMirror then c.setRegBit ZOW_EVT 12 true
    else
      let c := c.storeChunks r bs.length pa bs
      if c.isLead then c.capture stream (c.line64 pa (lineMask pa bs.length)) else c
  | none => c.storeChunks r bs.length pa bs

/-- Some SECDED word among `n` bytes at `pa` is poisoned. -/
def Chip.anyPoison (c : Chip) (r : Region) (pa n : Nat) : Bool :=
  (List.range n).any fun i => c.wordPoison r (pa + i)

/-- DRAM of a channel that failed while running (R185): it answers poison to a read and a bus error to a write, but for a line that
the L2 holds. -/
def Chip.deadDram (c : Chip) (r : Region) (pa : Nat) : Bool :=
  r = .dram && c.memc.failedCh.contains (c.dramChannel pa) && (c.dirty pa).isNone

end Sys2Proof.Machine
end

