-- ==== Sys2Proof/Machine/Post.lean ====
section
/-! DEFINITION. The postmark (R20 to R32): the master count, its reference, the replicas, epochs, and a step of a twin's
count (R46). -/

namespace Sys2Proof.Machine

/-- The epoch entry of a crossing (R30): origin 252, CLASS 5, KIND 2, ITEM the full postmark, DATA the epoch number. -/
def epochEntry (c : Chip) : Chip := c.journal 5 2 252 0 c.now (c.now / 2 ^ 48)

/-- The master count set to `n`; a crossing of a multiple of 2^48 makes the epoch entry and sets EPOCH_EV (R30).  Where a twin's step
crosses several multiples at once, the model makes one entry, for the last of them: the manual does not say whether each gets its
own (log entry 157). -/
def Chip.setCount (c : Chip) (n : Nat) : Chip :=
  let old := c.now
  let c := { c with count := BitVec.ofNat 64 n }
  if old / 2 ^ 48 < n / 2 ^ 48 then
    let c := c.journal 5 2 252 0 (n / 2 ^ 48 * 2 ^ 48) (n / 2 ^ 48)
    c.flag POST_STATUS_EPOCH_EV
  else c

/-- The correction that a Mirror makes to its count in this nanosecond (R47, R467): towards the Lead's by the offset measured, one
nanosecond in 20,000 at most, which is 50 ppm. -/
def Chip.slew (c : Chip) : Int :=
  if c.isMirror && within 3 6 (c.f ZOW_STATUS_STATE) && Nat.ble (c.zow.slewAt + 20000) c.now then c.zow.offset.sign else 0

/-- One nanosecond passes (log entry 1): the count runs from AON-M, which needs VSB; it never decreases. -/
def passTime (c : Chip) : Chip :=
  if !c.power.vsb then c
  else
    let d := c.slew
    let c := if d = 0 then c else { c with zow := { c.zow with offset := c.zow.offset - d, slewAt := c.now } }
    c.setCount ((c.now : Int) + 1 + d).toNat

/-- A read of POST_NOW_LO by origin `o` (R32): the low half, and without PEEK a copy of the high half for that origin. -/
def readNowLo (o : Nat) (peek : Bool) (c : Chip) : Word × Chip :=
  (c.count.truncate 32,
    if peek then c else { c with nowHi := sset (fun _ => 0) c.nowHi o ((c.count >>> 32).truncate 32) })

/-- A read of POST_NOW_HI by origin `o` (R32): that origin's copy. -/
def readNowHi (o : Nat) (c : Chip) : Word := sget (fun _ => 0) c.nowHi o

/-- POST_STATUS as it reads: EPOCH is bits 63:48 of the master count. -/
def readPostStatus (c : Chip) : Word := (c.reg POST_STATUS).setBits 31 16 (c.now / 2 ^ 48)

/-- REFCLK_LOSS (R22): the count runs from the internal oscillator; FREERUN 1, LOCKED 0. -/
def execRefclkLoss (s : State) : Out :=
  s.go fun c =>
    let c := { c with refclk := false }
    (c.setF POST_STATUS_LOCKED 0).setF POST_STATUS_FREERUN 1

/-- REFCLK_LOCK (R22): REFCLK is present and AON-M locks to it without a step; LOCKED 1, FREERUN 0. -/
def execRefclkLock (s : State) : Out :=
  s.go fun c =>
    let c := { c with refclk := true }
    (c.setF POST_STATUS_LOCKED 1).setF POST_STATUS_FREERUN 0

/-- The replica check tolerance in ns (R26, POST_TOL): 0 acts as 1, 5 to 7 act as 4. -/
def Chip.tolerance (c : Chip) : Nat :=
  let t := c.xf POST_TOL_TOL 4
  if t = 0 then 1 else min t 4

/-- A replica set to an error against the master; it never decreases (R24): what it has reached stays its lowest value. -/
def Chip.setReplica (c : Chip) (i : Nat) (err : Int) : Chip :=
  { c with replicas := sset replica0 c.replicas i ⟨err, (c.replica i).toNat⟩ }

/-- The clock of island `i` changes: its next whole cycle begins no lower than the postmark it has given (R24, R25). -/
def Chip.raiseReplica (c : Chip) (i : Nat) : Chip :=
  { c with replicas := sset replica0 c.replicas i ⟨(sget replica0 c.replicas i).err, (c.replica i).toNat + 1⟩ }

/-- The replicas of the islands in the power domains that `sel` picks are loaded from the master (R19, R550); none decreases (R24). -/
def Chip.loadReplicas (c : Chip) (sel : Nat → Bool) : Chip :=
  { c with replicas := c.replicas.filterMap fun p =>
      if sel (Config.islandDomain p.1) then
        (if (c.replica p.1).toNat = 0 then none else some (p.1, ⟨0, (c.replica p.1).toNat⟩))
      else some p }

/-- REPLICA_CHECK (R26): island `i`'s replica is found `err` ns from the master.  Outside the tolerance it is reloaded: one that was
ahead is held where it was found, and never below a value it had reached (R24); the reload is a corrected error of origin 252, and
REPL_FAULT is set. -/
def execReplicaCheck (i : Fin 236) (err : Int) (s : State) : Out :=
  s.go fun c =>
    let c' := c.setReplica i err
    if err.natAbs ≤ c.tolerance then c'
    else
      let c := c'.setReplica i 0
      let c := c.setF POST_FAULT_ISL_ISLAND i
      let c := c.countF POST_FAULT_ISL_COUNT
      let c := c.flag POST_STATUS_REPL_FAULT
      c.journal 1 0 252 0 i 0

/-- EPOCH_CROSSING (R30): the count reaches the next multiple of 2^48 ns. -/
def execEpochCrossing (s : State) : Out := s.go fun c => c.setCount ((c.now / 2 ^ 48 + 1) * 2 ^ 48)

/-- The step of a twin's count at pairing (R46): forward only; STEPPED is set and the Daybook records the postmarks before
and after. -/
def Chip.stepCount (c : Chip) (target : Nat) : Chip :=
  if target ≤ c.now then c
  else
    let old := c.now
    let c := c.setCount target
    let c := c.flag POST_STATUS_STEPPED
    c.journal 0 3 252 0 old target

end Sys2Proof.Machine
end

