-- ==== Sys2Proof/Machine/MemCtl.lean ====
section
/-! DEFINITION. The integrity machinery and the arbiters of chapter 04: scrubbing, dead-letter entries, DRAM training and
failure, and the grant of an arbiter. -/

namespace Sys2Proof.Machine

/-! ### Dead-letter registers (R177) -/

/-- MEM_DLT_ENTRY as it reads: the entry that MEM_DLT_SEL selects; beyond the array's table, 0. -/
def readDltEntry (c : Chip) : Word :=
  let a := c.f MEM_DLT_SEL_ARRAY
  let i := c.f MEM_DLT_SEL_INDEX
  if i < dltSize a then
    let e := c.dlt a i
    Word.of (e.off + if e.valid then 2 ^ 31 else 0)
  else 0

/-- A write of MEM_DLT_ENTRY (R177): V 1 installs, V 0 removes; the word's value goes with it (log entry 13). -/
def writeDltEntry (v : Word) (c : Chip) : Chip :=
  let a := c.f MEM_DLT_SEL_ARRAY
  let i := c.f MEM_DLT_SEL_INDEX
  if i < dltSize a then c.setDlt a i ⟨v.bit 31, v.bits 23 2 * 4⟩ else c

/-! ### Scrubbing (R170 to R172) -/

/-- The on-chip arrays that scrubbing reads, in the order of their IDs: first ID, how many, 32-bit words in each (R161, R170). -/
def scrubSpans : List (Nat × Nat × Nat) :=
  [(0x00, 8, 0x40000), (0x08, 16, 0x4000), (0x20, 32, 0x20000), (0x40, 4, 0x8000), (0x48, 8, 0x20000), (0x50, 48, 0x4000), (0x80, 6, 0x10000)]

/-- The array and the word in it at position `p` of a pass; none past its end. -/
def scrubAt : List (Nat × Nat × Nat) → Nat → Option (Nat × Nat)
  | [], _ => none
  | (a, n, w) :: t, p => if p < n * w then some (a + p / w, p % w) else scrubAt t (p - n * w)

/-- The words of the array at position `p` of a pass that are still to read. -/
def scrubLeft : List (Nat × Nat × Nat) → Nat → Nat
  | [], _ => 1
  | (_, n, w) :: t, p => if p < n * w then w - p % w else scrubLeft t (p - n * w)

/-- The power domain of an array (R556). -/
def arrayDomain (a : Nat) : Nat :=
  if a < 0x08 then 10 + a
  else if a < 0x18 then 2 + a % 8
  else if within 0x20 0x40 a then 81 + (a - 0x20) / 4
  else if within 0x40 0x48 a then 72 + a % 4
  else if within 0x48 0x50 a then 89
  else if within 0x50 0x80 a then 18 + (a - 0x50)
  else 66 + (a - 0x80)

/-- The region and the address of word `i` of a mapped array. -/
def arrayWord (a i : Nat) : Region × Nat :=
  if within 0x20 0x40 a then (.pattern, 0x1000000000 + i / 16 * 0x800 + (a - 0x20) * 64 + i % 16 * 4)
  else if within 0x40 0x44 a then (.palette (a - 0x40), 0x1018000000 + (a - 0x40) * 0x20000 + i * 4)
  else if within 0x48 0x50 a then (.audio, 0x1010000000 + i / 16 * 0x200 + (a - 0x48) * 64 + i % 16 * 4)
  else if within 0x50 0x80 a then (.sorterRam (a - 0x50), 0x1020000000 + (a - 0x50) * 0x10000 + i * 4)
  else (.hornRam (a - 0x80), 0x1030000000 + (a - 0x80) * 0x40000 + i * 4)

/-- The next position of a pass from `p` whose array is powered; none where none is left. -/
def Chip.scrubNext (c : Chip) : Nat → Nat → Option (Nat × Nat × Nat)
  | 0, _ => none
  | n + 1, p =>
    match scrubAt scrubSpans p with
    | none => none
    | some (a, i) => if c.domainUp (arrayDomain a) then some (p, a, i) else c.scrubNext n (p + scrubLeft scrubSpans p)

/-- Bits found flipped in the word of a memory that holds `pa`, beyond those it has. -/
def Chip.upsetWord (c : Chip) (r : Region) (pa : Nat) (u : BitErr) : Chip :=
  let k := eccKey r pa
  let e := c.flipAt k
  c.setFlip k ⟨Nat.xor e.data u.data, Nat.xor e.chk u.chk⟩

/-- An error `u` met in a word of cache array `a` that holds part of the line at `pa` (R163, R165): in a dirty line it is corrected, or
poisons the line's word; a clean line with an uncorrectable error is fetched again, which counts as corrected.  `hard`: the verify
read finds an error again (R173). -/
def cacheError (a pa : Nat) (u : BitErr) (hard spec scrub : Bool) (c : Chip) : Chip :=
  let la := pa - pa % 64
  let i := pa % 64 / 4
  let c := match c.dirty pa with
    | some l =>
      let e := sget noErr l.flips i
      let l := { l with flips := sset noErr l.flips i ⟨Nat.xor e.data u.data, Nat.xor e.chk u.chk⟩ }
      (c.setDirty pa (some l)).checkLine a l pa spec scrub
    | none =>
      match eccResult 4 (c.le (pa - pa % 4) 4) u with
      | some (_, false) => c
      | _ => c.correctedSram a la spec scrub
  if hard && u != ⟨0, 0⟩ && !(match c.dirty pa with | some l => l.poison.testBit i | none => false) then
    c.dltAlloc a (arrayOffset .dram pa) la
  else c

/-- A scrub read of the word at `pa` of a memory (R172, R163, R173): a correctable error is corrected with the scrub flag, an
uncorrectable one leaves the poison code and is counted without a record.  `upset` gives bits found flipped beyond the planted ones,
`hard` that the verify read finds an error. -/
def scrubWord (r : Region) (pa : Nat) (upset : BitErr) (hard : Bool) (c : Chip) : Chip :=
  let c := c.upsetWord r pa upset
  let c := if hard && r != .dram then c.setHard (eccKey r pa) true else c
  let c := c.eccCheck r pa false true
  if c.wordPoison r pa then
    (match r with
      | .dram => c.countF DRAMC_CE_COUNT_SCRUB_UE
      | _ => c.countF MEM_SCRUB_STAT_UNCORR)
  else c

/-- The arbiter of an array, or of a DRAM channel, has no request waiting and no grant in progress (R171). -/
def Chip.arbiterIdle (c : Chip) (arb : Nat) : Bool :=
  (sget (fun _ => []) c.memc.waiting arb).isEmpty && (sget (fun _ => (none : Option Grant)) c.memc.grant arb).isNone

/-- The on-chip scrubber's next read (R170): the words of the powered arrays in turn, each once in a pass. -/
def scrubChip (line : Nat) (upset : BitErr) (hard : Bool) (c : Chip) : Chip :=
  match c.scrubNext 130 c.memc.scrubPos with
  | none => { c with memc := { c.memc with scrubPos := 0 } }
  | some (p, a, i) =>
    if !c.arbiterIdle a then c
    else
      let c := if a < 0x20 then cacheError a (line - line % 64 + i % 16 * 4) upset hard false true c
        else scrubWord (arrayWord a i).1 (arrayWord a i).2 upset hard c
      if (c.scrubNext 130 (p + 1)).isNone then
        { c with memc := { c.memc with scrubPos := 0 } }.countF MEM_SCRUB_STAT_PASSES
      else { c with memc := { c.memc with scrubPos := p + 1 } }

/-- The DRAM scrubber's next read (R170): every 64-bit word below DRAMC_TOP in turn. -/
def scrubDram (upset : BitErr) (c : Chip) : Chip :=
  let pa := c.memc.dscrubPos
  if Nat.ble c.dramTop pa || !c.domainUp (93 + c.dramChannel pa) || !c.arbiterIdle (0xA0 + c.dramChannel pa) then
    (if Nat.ble c.dramTop pa then { c with memc := { c.memc with dscrubPos := 0 } } else c)
  else
    let c := scrubWord .dram pa upset false c
    { c with memc := { c.memc with dscrubPos := if c.dramTop ≤ pa + 8 then 0 else pa + 8 } }

/-- SCRUB_READ (R170, R171): a patrol scrubber whose enable is set reads its next word, of DRAM or of the on-chip arrays, where no request
waits; `line` is the line that a word of a cache array holds, `upset` and `hard` what the read finds. -/
def execScrubRead (dram : Bool) (line : Fin 0x800000000) (upset : BitErr) (hard : Bool) (s : State) : Out :=
  s.go fun c =>
    if !c.mainRuns then c
    else if dram then (if c.fb DRAMC_CONFIG_SCRUB_EN then scrubDram upset c else c)
    else if c.fb MEM_CTL_SCRUB_EN then scrubChip line upset hard c else c

/-- SCRUB_PASS_OVERRUN (R171): a pass in progress has not finished within its period. -/
def execScrubPassOverrun (s : State) : Out :=
  s.go fun c =>
    if c.mainRuns && (c.fb MEM_CTL_SCRUB_EN || c.fb DRAMC_CONFIG_SCRUB_EN) then c.flag MEM_STATUS_SCRUB_LATE else c

/-! ### DRAM training and failure (R178, R182 to R185, R648) -/

/-- Channel capacity C in bytes (DRAMC_CONFIG.CAP); other values leave DRAM unusable. -/
def Chip.capacity (c : Chip) : Nat :=
  match c.f DRAMC_CONFIG_CAP with | 1 => 2 ^ 30 | 2 => 2 ^ 31 | 3 => 2 ^ 32 | 4 => 2 ^ 33 | _ => 0

/-- Training starts (R648): nothing is trained and DRAMC_TOP reads 0 until it ends. -/
def Chip.startTraining (c : Chip) (master : Option Nat) : Chip :=
  let c := c.setF DRAMC_STATUS_TRAINED 0
  let c := c.setF DRAMC_TOP_SIZE4K 0
  { c with memc := { c.memc with training := some master, openRow := [] } }

/-- The write of DRAMC_CONFIG by origin `o`: CAP and RATE are ignored while ENABLE is 1, and setting ENABLE starts
training, clearing it ends one in progress (R648). -/
def writeDramcConfig (o : Nat) (v : Word) (c : Chip) : Chip :=
  let old := c.reg DRAMC_CONFIG
  let on := old.bit 31
  let c := c.setReg DRAMC_CONFIG ((if on then old.setBits 31 30 (v.bits 31 30) else v &&& 0xC00000FF))
  if !on && v.bit 31 then c.startTraining (some o)
  else if on && !v.bit 31 then
    let c := { c with memc := { c.memc with training := none } }
    (c.setF DRAMC_STATUS_TRAINED 0).setF DRAMC_TOP_SIZE4K 0
  else c

/-- The channels out at a training (R184): those that fail it, the one DRAMC_DEGRADE leaves out, those that failed while
running with no M since. -/
def Chip.channelsOut (c : Chip) (failed : List Nat) : List Nat :=
  (List.range 4).filter fun ch =>
    failed.contains ch || (c.fb DRAMC_DEGRADE_REQ && c.f DRAMC_DEGRADE_CH == ch) || c.memc.failedCh.contains ch

/-- The part of the ranges that lies outside `lo` to `hi`. -/
def cutRange (lo hi : Nat) (l : List (Nat × Nat)) : List (Nat × Nat) :=
  l.flatMap fun p =>
    (if p.1 < lo then [(p.1, min p.2 lo)] else []) ++ (if hi < p.2 then [(max p.1 hi, p.2)] else [])

/-- The memories from `lo` to `hi` lose their data, and what their words hold is undefined (R160, R167). -/
def Chip.wipe (c : Chip) (lo hi : Nat) : Chip :=
  { c with
    mem := swipe c.mem lo hi
    poison := swipe c.poison lo hi
    flips := swipe c.flips lo hi
    memc := { c.memc with
      valid := swipe c.memc.valid lo hi
      filled := cutRange lo hi c.memc.filled
      cache := swipe c.memc.cache lo hi } }

/-- The memories from `lo` to `hi` are filled with whole words of zeros (R169). -/
def Chip.fillZero (c : Chip) (lo hi : Nat) : Chip :=
  let c := c.wipe lo hi
  { c with memc := { c.memc with filled := c.memc.filled ++ [(lo, hi)] } }

/-- DRAM alone loses its data (R183). -/
def Chip.wipeDram (c : Chip) : Chip := c.wipe 0 0x800000000

/-- Training ends (R648, R184): TRAINED, DEGRADED, DEG_CH and DRAMC_TOP take their new values together.  One channel out
runs degraded, two or more leave DRAM unavailable; entering or leaving degraded running loses the data (R183). -/
def Chip.endTraining (c : Chip) (failed : List Nat) : Chip :=
  let out := c.channelsOut failed
  let c := { c with memc := { c.memc with training := none } }
  let was := if c.fb DRAMC_STATUS_DEGRADED then [c.f DRAMC_STATUS_DEG_CH] else []
  let c := if out.length ≤ 1 && out != was then c.wipeDram else c
  match out with
  | [] =>
    let c := c.setF DRAMC_STATUS_TRAINED 15
    let c := (c.setF DRAMC_STATUS_DEGRADED 0).setF DRAMC_STATUS_DEG_CH 0
    c.setF DRAMC_TOP_SIZE4K (4 * c.capacity * 7 / 8 / 4096)
  | [ch] =>
    let c := (c.setF DRAMC_DEGRADE_REQ 1).setF DRAMC_DEGRADE_CH ch
    let c := c.setF DRAMC_STATUS_TRAINED (15 - 2 ^ ch)
    let c := (c.setF DRAMC_STATUS_DEGRADED 1).setF DRAMC_STATUS_DEG_CH ch
    c.setF DRAMC_TOP_SIZE4K (3 * c.capacity * 7 / 8 / 4096)
  | _ =>
    let c := c.setF DRAMC_STATUS_TRAINED 0
    let c := (c.setF DRAMC_STATUS_DEGRADED 0).setF DRAMC_STATUS_DEG_CH 0
    c.setF DRAMC_TOP_SIZE4K 0

/-- DRAM_CHANNEL_FAIL (R185): a running channel stops responding, a unit-fatal error of that channel. -/
def execDramChannelFail (ch : Fin 4) (s : State) : Out :=
  s.go fun c =>
    if (c.reg DRAMC_STATUS).bit ch then
      let c := (c.flag DRAMC_STATUS_CH_FAIL).setF DRAMC_STATUS_FAIL_CH ch
      let c := { c with memc := { c.memc with failedCh := if c.memc.failedCh.contains ch then c.memc.failedCh else c.memc.failedCh ++ [ch.val] } }
      let c := c.journal 3 0 209 0 ch 0
      c.repairAdd 3 ch 0
    else c

/-! ### Cut-offs (R199 to R201) -/

/-- A cut-off (R201): MEM_STATUS, MEM_CUT and a Daybook entry of the corrected class with the holder's origin. -/
def Chip.recordCut (c : Chip) (holder arbiter : Nat) (emergency : Bool) : Chip :=
  let c := if emergency then c.flag MEM_STATUS_EMERG else c.flag MEM_STATUS_HOG
  let c := c.setF MEM_CUT_ORIGIN holder
  let c := c.setF MEM_CUT_ARBITER arbiter
  let c := c.setF MEM_CUT_KIND emergency.toNat
  let c := c.journal 1 5 holder 0 holder (c.reg MEM_CUT).toNat
  { c with memc := { c.memc with grant := sset (fun _ => none) c.memc.grant arbiter none } }

/-! ### The grant of an arbiter (R190 to R197) -/

/-- `a` is older than `b` in the order of R34. -/
def older (a b : BusReq) : Bool :=
  Nat.blt a.postmark b.postmark || (a.postmark == b.postmark && Nat.blt a.origin b.origin)

/-- The oldest request of a list, with its position. -/
def oldest : List BusReq → Option BusReq
  | [] => none
  | r :: t => match oldest t with
    | none => some r
    | some m => if older m r then some m else some r

/-- The row and bank of a DRAM access are opened (R649). -/
def Chip.openRowOf (c : Chip) (pa : Nat) : Chip :=
  let b := c.channelByte pa
  { c with memc := { c.memc with
    openRow := sset (fun _ => none) c.memc.openRow (c.dramChannel pa * 16 + nbits b 15 12) (some (b / 4096)) } }

end Sys2Proof.Machine
end

