-- ==== Sys2Proof/Machine/Hosts.lean ====
section
/-! DEFINITION. The host interfaces (chapter 15): the PCI Express link (R573, R574, R577), storage (R580 to R582), USB (R583),
the sensors (R601, R629) and the Daybook's registers (R599, R600, R602). -/

namespace Sys2Proof.Machine

/-! ### PCI Express -/

/-- The role in force: 0 off, 1 endpoint, 2 root port (R573; 3 acts as 0). -/
def Chip.pcieMode (c : Chip) : Nat := if c.f PCIE_CTL_MODE = 3 then 0 else c.f PCIE_CTL_MODE

/-- The link goes down (R574). -/
def pcieDown (c : Chip) : Chip :=
  if c.fb PCIE_STATUS_UP then (c.setReg PCIE_STATUS (c.reg PCIE_STATUS &&& 0xFFFFFFC0)).flag PCIE_EVT_LINK_DOWN else c

/-- A write of PCIE_CTL (R573): MODE takes effect only while EN is 0; a link whose EN clears goes down. -/
def writePcieCtl (v : Word) (c : Chip) : Chip :=
  let keep := c.fb PCIE_CTL_EN
  let m := c.f PCIE_CTL_MODE
  let c := c.setReg PCIE_CTL (v &&& 0x7F)
  let c := if keep then c.setF PCIE_CTL_MODE m else c
  if c.fb PCIE_CTL_EN then c else pcieDown c

/-- PCIE is idle (R579). -/
def Chip.pcieIdle (c : Chip) : Bool := c.pcieMode = 0 || !c.fb PCIE_STATUS_UP

/-- PCIE_STATUS as it reads. -/
def readPcieStatus (c : Chip) : Word := (c.reg PCIE_STATUS).setBit 6 c.pcieIdle

/-- PCIE_LINK_UP (R574): the link comes up at a rate and a width, each at most the register's maximum; `l1` tells whether it
lies in L1, as the partner's power management makes it, under XCFG.L1EN. -/
def execPcieLinkUp (gen width : Fin 4) (l1 : Bool) (s : State) : Out :=
  s.go fun c =>
    if c.blockRuns 0x12 && c.fb PCIE_CTL_EN && c.pcieMode != 0 then
      let low := l1 && c.xf PCIE_XCFG_L1EN 1 == 1
      if c.fb PCIE_STATUS_UP then c.setF PCIE_STATUS_L1 low.toNat
      else
        let c := (c.setF PCIE_STATUS_UP 1).setF PCIE_STATUS_GEN (min gen.val (c.f PCIE_CTL_MAXGEN))
        let c := c.setF PCIE_STATUS_WIDTH (min width.val (min 2 (c.f PCIE_CTL_MAXW)))
        (c.setF PCIE_STATUS_L1 low.toNat).flag PCIE_EVT_LINK_UP
    else c

/-- PCIE_LINK_DOWN (R574). -/
def execPcieLinkDown (s : State) : Out := s.go fun c => if c.blockRuns 0x12 then pcieDown c else c

/-- A read of PCIE_CFGDATA (R577): a configuration read at PCIE_CFGADDR, in root mode only.  Register 0 of bus 0 is the port's
own identity; `reply` is what the device there answers, none a UR. -/
def readCfgData (reply : Option Word) (c : Chip) : Word × Chip :=
  if c.pcieMode != 2 then c.freeWord
  else if c.f PCIE_CFGADDR_BUS = 0 && c.f PCIE_CFGADDR_REG = 0 then (c.reg PCIE_XID, c)
  else match reply with
    | some w => (w, c)
    | none => (0xFFFFFFFF, c.flag PCIE_EVT_CFG_UR)

/-- PCIE_CFGDATA_ACCESS (R577): origin `o` reads or writes PCIE_CFGDATA.  What a write does to the device on the link is
outside the block. -/
def execPcieCfgdataAccess (o : BitVec 12) (write : Bool) (reply : Option Word) (s : State) : Out :=
  s.go fun c =>
    if !(c.blockRuns 0x12) || write then c
    else
      let (w, c) := readCfgData reply c
      c.answerTo o.toNat (.data w)

/-! ### Storage -/

/-- STOR is idle (R579). -/
def Chip.storIdle (c : Chip) : Bool := !c.fb STOR_STATUS_BUSY && !c.fb STOR_QCMD_GO

/-- The STOR_VSEL output (R624): high asks for 1.8 V signalling, which HS200 and SDR104 use, low for 3.3 V (R582, log entry 22). -/
def setVsel (b : Bool) (c : Chip) : Chip := { c with hosts := { c.hosts with storVsel := b } }

/-- A write of STOR_CTL: with EN 0 the device is no longer served, and STOR_VSEL goes low. -/
def writeStorCtl (v : Word) (c : Chip) : Chip :=
  let c := c.setReg STOR_CTL (v &&& 7)
  if c.fb STOR_CTL_EN then c
  else setVsel false ((((c.setF STOR_STATUS_READY 0).setF STOR_STATUS_SPEED 0).setF STOR_STATUS_WIDTH 0).setReg STOR_CAP 0)

/-- STOR_ENABLE (R582): EN is set with a KIND and the initialisation ends: the device answers with its fastest mode (of those
that its kind has), its width and its capacity, or not at all. -/
def execStorEnable (kind : BitVec 2) (dev : Option (Fin 5 × Fin 3 × Word)) (s : State) : Out :=
  s.go fun c =>
    if !(c.blockRuns 0x13) then c
    else
      let c := writeStorCtl (Word.of (1 + 2 * kind.toNat)) c
      match dev with
      | some (speed, width, blocks) =>
        if kind = 1 || kind = 2 then
          let top := if kind = 1 then 3 else if speed.val = 3 then 2 else 4
          let c := setVsel (Nat.ble 3 (min speed.val top)) c
          let c := (c.setF STOR_STATUS_READY 1).setF STOR_STATUS_SPEED (min speed.val top)
          (c.setF STOR_STATUS_WIDTH (min width.val (if kind = 1 then 2 else 1))).setReg STOR_CAP blocks
        else c
      | none => c

/-- A write of STOR_BLK_CNT: GO starts a transfer unless one is in progress; COUNT 0 completes at once (R582). -/
def writeBlkCnt (v : Word) (c : Chip) : Chip :=
  let c := c.setReg STOR_BLK_CNT (v &&& 0x4000FFFF)
  if !v.bit 31 || c.fb STOR_STATUS_BUSY then c
  else if c.f STOR_BLK_CNT_COUNT = 0 then c.flag STOR_EVT_DONE
  else c.setF STOR_STATUS_BUSY 1

/-- STOR_BLK_GO (R582): a write of STOR_BLK_CNT with GO. -/
def execStorBlkGo (v : Word) (s : State) : Out := s.go fun c => if c.blockRuns 0x13 then writeBlkCnt (v.setBit 31 true) c else c

/-- Store bytes in DRAM from `pa` up, line by line. -/
def dramStore : Nat → Nat → List Byte → Chip → Chip
  | 0, _, _, c => c
  | n + 1, pa, bs, c => if bs.isEmpty then c else dramStore n (pa + 64) (bs.drop 64) (c.memStore .dram pa (bs.take 64))

/-- STOR_BLK_DONE (R582): the transfer in progress ends: with DONE, `data` being what a read of the device delivered, or with
ERR; a read delivers every block to channels that work or
fails (R185); one whose blocks must wait at a replication window has not ended (R475). -/
def execStorBlkDone (ok : Bool) (data : List Byte) (s : State) : Out :=
  s.go fun c =>
    if !(c.blockRuns 0x13 && c.fb STOR_STATUS_BUSY) then c
    else
      let pa := c.f STOR_BLK_ADDR_ADDR * 256
      let n := c.f STOR_BLK_CNT_COUNT * 512
      let waits := ok && !c.fb STOR_BLK_CNT_DIR && (List.range (n / 64)).any fun i => c.writeWaits (pa + 64 * i)
      let c := if waits then c else c.setF STOR_STATUS_BUSY 0
      if waits then c
      else if !ok || Nat.blt c.dramTop (pa + n) then c.flag STOR_EVT_ERR
      else if c.fb STOR_BLK_CNT_DIR then c.flag STOR_EVT_DONE
      else if (List.range (n / 64)).any fun i => c.deadDram .dram (pa + 64 * i) then c.flag STOR_EVT_ERR
      else if data.length = n then (dramStore (n / 64) pa data c).flag STOR_EVT_DONE
      else c.flag STOR_EVT_ERR

/-- A write of STOR_QCMD (R580, R581): GO issues the command, or ends it LOST while the Postmaster holds the flash. -/
def writeQcmd (v : Word) (c : Chip) : Chip :=
  if c.fb STOR_QCMD_GO then c
  else
    let c := c.setReg STOR_QCMD ((c.reg STOR_QCMD &&& 0x40000000) ||| (v &&& 0x3FFFFFFF))
    if !v.bit 31 then c
    else if c.pm.holdsFlash then ((c.setF STOR_QCMD_LOST 1).flag STOR_EVT_QSPI_LOST).flag STOR_EVT_QDONE
    else (c.setF STOR_QCMD_LOST 0).setF STOR_QCMD_GO 1

/-- STOR_QCMD_GO (R580): a write of STOR_QCMD with GO. -/
def execStorQcmdGo (v : Word) (s : State) : Out := s.go fun c => if c.blockRuns 0x13 then writeQcmd (v.setBit 31 true) c else c

/-- STOR_QCMD_DONE (R580): the command ends; a reading one has received LEN bytes, `data` being what the flash gave, and a
writing one has sent LEN queued bytes. -/
def execStorQcmdDone (data : List Byte) (s : State) : Out :=
  s.go fun c =>
    if !(c.blockRuns 0x13 && c.fb STOR_QCMD_GO) then c
    else
      let n := c.f STOR_QCMD_LEN
      let c := (c.setF STOR_QCMD_GO 0).flag STOR_EVT_QDONE
      if c.fb STOR_QCMD_WRITE then { c with hosts := { c.hosts with qTx := c.hosts.qTx.drop n } }
      else { c with hosts := { c.hosts with qRx := c.hosts.qRx ++ data.take n } }

/-- A read of STOR_QDATA removes 4 received bytes (PEEK removes none); bytes that have not been received are free. -/
def readQdata (peek : Bool) (c : Chip) : Word × Chip :=
  let b := c.hosts.qRx.take 4
  let (fill, c) := freeBytes (4 - b.length) c
  (Word.of (leNat (b ++ fill)), if peek then c else { c with hosts := { c.hosts with qRx := c.hosts.qRx.drop 4 } })

/-- A write of STOR_QDATA queues 4 bytes to send. -/
def writeQdata (v : Word) (c : Chip) : Chip := { c with hosts := { c.hosts with qTx := c.hosts.qTx ++ leBytes 4 v.toNat } }

/-- STOR_QDATA_ACCESS (R580) by origin `o`. -/
def execStorQdataAccess (o : BitVec 12) (write : Bool) (v : Word) (s : State) : Out :=
  s.go fun c =>
    if !(c.blockRuns 0x13) then c
    else if write then writeQdata v c
    else
      let (w, c) := readQdata false c
      c.answerTo o.toNat (.data w)

/-- CARD_CHANGE (R582): the card is present or not from now on. -/
def execCardChange (present : Bool) (s : State) : Out :=
  s.go fun c =>
    if c.blockRuns 0x13 && c.fb STOR_STATUS_PRESENT != present then (c.setF STOR_STATUS_PRESENT present.toNat).flag STOR_EVT_CARD_CHG else c

/-! ### USB -/

/-- USB is idle (R579). -/
def Chip.usbIdle (c : Chip) : Bool := !c.fb USB_CTL_EN

/-- USB_CONNECT_CHANGE (R583): port `p` has a device of a speed (1 low, 2 full, 3 high), or none. -/
def execUsbConnectChange (p : Fin 2) (speed : Fin 4) (s : State) : Out :=
  s.go fun c =>
    if !(c.blockRuns 0x14 && c.fb USB_CTL_EN) then c
    else
      let conn := speed.val != 0
      let was := c.fb (USB_PORT_CONN p)
      let c := (c.setF (USB_PORT_CONN p) conn.toNat).setF (USB_PORT_SPEED p) speed.val
      if was = conn then c else c.setRegBit USB_EVT p true

/-- USB_OVERCURRENT (R583): reported on port `p`, whose PWR clears. -/
def execUsbOvercurrent (p : Fin 2) (s : State) : Out :=
  s.go fun c =>
    if c.blockRuns 0x14 && c.fb USB_CTL_EN then
      ((c.setF (USB_PORT_OC p) 1).setRegBit USB_EVT (2 + p) true).setRegBit USB_CTL (1 + p) false
    else c

/-! ### Sensors -/

/-- The window of rail `n` (16 to 27) holds `mv`: within VWIN, in units of 0.1 %, of a nominal value of R622; a rail with no
single nominal value there is not judged. -/
def railOk (win n : Nat) (mv : Int) : Bool :=
  let near (nom : Int) : Bool := decide ((mv - nom).natAbs * 1000 ≤ nom.natAbs * win)
  match n with
  | 17 => near 750
  | 18 => near 800
  | 19 => near 1050
  | 20 => near 500
  | 21 | 22 | 23 | 24 => near 1800 || near 3300
  | _ => true

/-- One channel is sampled (R601): its latest value and its peak; a limit newly passed makes a Daybook entry. -/
def sampleChannel (n : Nat) (v : Int) (c : Chip) : Chip :=
  let peak := match sget (fun _ => none) c.hosts.peak n with | some p => max p v | none => v
  let c := { c with hosts := { c.hosts with
    sample := sset (fun _ => none) c.hosts.sample n (some v)
    peak := sset (fun _ => none) c.hosts.peak n (some peak) } }
  let alarm (x : Fld) (c : Chip) : Chip := if c.fb x then c else (c.flag x).journal 0 10 249 0 n (BitVec.ofInt 64 v).toNat
  if n < 16 then (if decide (((min 880 (c.xf SENS_XLIM_HOT 800) : Nat) : Int) ≤ v) then alarm SENS_EVT_HOT c else c)
  else if railOk (max 1 (c.xf SENS_XLIM_VWIN 50)) n v then c else alarm SENS_EVT_VOLT c

/-- The Courier operating point that a measurement of VDD_CPU in mV allows (R629): 0 to 3 for 1.0, 1.6, 2.0 and 2.4 GHz. -/
def opPointOf (mv : Int) : Nat := if 880 ≤ mv then 3 else if 800 ≤ mv then 2 else if 720 ≤ mv then 1 else 0

/-- SENS_SAMPLE (R601, R629): the millisecond's samples, by channel; temperatures in 0.125 °C, rails in mV. -/
def execSensSample (vals : List Int) (s : State) : Out :=
  s.go fun c =>
    if !c.mainRuns then c
    else
      let l := (List.range 28).zip vals
      let c := forAll l (fun p c => sampleChannel p.1 p.2 c) c
      match l.find? (fun p => p.1 == 16) with
      | some p =>
        if opPointOf p.2 = c.hosts.opPoint then c
        else
          let c := forAll (List.range 8) (fun k c => c.raiseReplica (Config.islandOf k)) c
          { c with hosts := { c.hosts with opPoint := opPointOf p.2 } }
      | none => c

/-- A sample as 16 bits; `none` where none was taken. -/
def sample16 (o : Option Int) : Option Nat := o.map fun v => (BitVec.ofInt 16 v).toNat

/-- SENS_VAL as it reads: the selected channel; 28 to 31 read 0. -/
def readSensVal (c : Chip) : Word :=
  let n := c.f SENS_SEL_CH
  let v (t : Sparse (Option Int)) := (sample16 (sget (fun _ => none) t n)).getD 0
  Word.of (v c.hosts.sample + 65536 * v c.hosts.peak)

/-- A write of SENS_EVT: a 1 in HOT also restarts the peaks. -/
def writeSensEvt (v : Word) (c : Chip) : Chip :=
  let c := c.setReg SENS_EVT (c.reg SENS_EVT &&& ~~~v)
  if v.bit 0 then { c with hosts := { c.hosts with peak := [] } } else c

/-! ### The Daybook's registers -/

/-- The 32 bytes of an entry (R597). -/
def DayEntry.bytes (e : DayEntry) : List Byte :=
  leBytes 4 e.seq ++ leBytes 6 e.postmark ++ leBytes 2 (e.origin % 4096 + 4096 * e.cls) ++ leBytes 1 e.island ++
    leBytes 1 e.kind ++ leBytes 2 e.flags ++ leBytes 8 e.item ++ leBytes 8 e.data

/-- The oldest SEQ held in the ring. -/
def Daybook.oldest (d : Daybook) : Nat := match d.ring.getLast? with | some e => e.seq | none => d.next

/-- The entry that DAYB_RSEL selects, while it is held (R600). -/
def Chip.dayEntry (c : Chip) : Option DayEntry :=
  if c.fb DAYB_RSEL_EPOCH then c.dayb.epoch else c.dayb.ring.find? fun e => e.seq == c.f DAYB_RSEL_SEQ

/-- DAYB_STAT, DAYB_RDATAk, DAYB_REPSEL and DAYB_REPDATAk as they read (R600, R602). -/
def readDayStat (c : Chip) : Word := Word.of (c.dayEntry.isSome.toNat + 2 * c.dayb.frozen.toNat)
def readDayData (k : Nat) (c : Chip) : Word :=
  match c.dayEntry with | some e => Word.of (leNat ((e.bytes.drop (4 * k)).take 4)) | none => 0
def readRepSel (c : Chip) : Word := Word.of (c.f DAYB_REPSEL_INDEX + 65536 * c.pm.repair.length)
def readRepData (k : Nat) (c : Chip) : Word :=
  match c.pm.repair[c.f DAYB_REPSEL_INDEX]? with
  | some e => if k = 0 then e.1 else e.2
  | none => 0

/-- A write of DAYB_SWGO (R599, R602): GO appends a software entry, or an origin outside 2048 to 4095 sets SW_ERR. -/
def writeSwgo (v : Word) (c : Chip) : Chip :=
  if !v.bit 31 then c
  else if v.bits 11 0 < 2048 then c.flag DAYB_EVT_SW_ERR
  else
    let w (k : Nat) := (c.reg (DAYB_SW k)).toNat
    let held := c.dayb.next
    let c := c.journal 6 (v.bits 23 16) (v.bits 11 0) 0 (w 0 + 2 ^ 32 * w 1) (w 2 + 2 ^ 32 * w 3)
    if v.bits 23 16 = 6 && c.dayb.next != held then c.repairAdd 5 0 0 else c

/-- DAYB_SWGO (R599). -/
def execDaybSwgo (v : Word) (s : State) : Out := s.go fun c => if c.mainRuns then writeSwgo (v.setBit 31 true) c else c

end Sys2Proof.Machine
end

