-- ==== Sys2Proof/Machine/CoreBase.lean ====
section
/-! DEFINITION. What happens to a core as a whole: the product shadow (R77 to R80), taking an exception (R114) and
returning from one (R115), the debug halt (R608 to R610) and the freeze groups (R616). -/

namespace Sys2Proof.Machine

/-! ### Registers -/

/-- Zero. -/
def zeroWord : Nat → Word := fun _ => 0

/-- g[n]; g0 reads 0 (R62). -/
def Core.rd (x : Core) (n : Nat) : Word := if n = 0 then 0 else sget zeroWord x.g n

/-- g[n] written; writes to g0 are discarded (R62). -/
def Core.wr (x : Core) (n : Nat) (v : Word) : Core :=
  if n = 0 then x else { x with g := sset zeroWord x.g n v }

/-- The core is in supervisor mode; what a halted core executes is fed words, which run in supervisor mode (R611). -/
def Core.sup (x : Core) : Bool := x.status.bit 0 || x.dbg.halted

/-- An in-order core (R143). -/
def inOrder (k : Nat) : Bool := Nat.ble 8 k

/-! ### Performance counters (R154 to R156) -/

/-- The event counts on this kind of core (R156). -/
def eventKind (kind ev : Nat) : Bool :=
  if ev = 0 || Nat.ble 0x15 ev then false
  else if (Nat.ble 0x04 ev && Nat.ble ev 0x0C) || ev = 0x0E then kind = 0
  else if Nat.ble 0x11 ev then kind != 0
  else true

/-- Programmable counter `n` of core `k` steps by one; a wrap sets its overflow flag (R154). -/
def Core.bump (x : Core) (n : Nat) : Core :=
  let v := sget (fun _ => (0 : DWord)) x.pmcnt n
  let x := { x with pmcnt := sset (fun _ => (0 : DWord)) x.pmcnt n (v + 1) }
  if v + 1 = 0 then { x with pmovf := x.pmovf.setBit n true } else x

/-- The counters of the core stand still: debug has halted it and HALTCNT is 0 (R154). -/
def Core.countsNot (x : Core) : Bool := x.dbg.halted && !x.pmctl.bit 11

/-- Event `ev` happens once on core `k`. -/
def Core.event (k ev : Nat) (x : Core) : Core :=
  if x.countsNot || !eventKind (Core.kind k) ev then x
  else (List.range (if inOrder k then 4 else 8)).foldl
    (fun x n => if x.pmctl.bit n && (sget zeroWord x.pmsel n).bits 7 0 = ev then x.bump n else x) x

/-- One instruction retires: the fixed counter and RETIRED (R154, R156). -/
def Core.retire (k : Nat) (x : Core) : Core :=
  let x := if x.pmctl.bit 8 && !x.countsNot then
      let x := { x with pmret := x.pmret + 1 }
      if x.pmret = 0 then { x with pmovf := x.pmovf.setBit 9 true } else x
    else x
  x.event k 0x02

/-- Some enabled counter of core `k` selects event `ev`. -/
def Core.selects (k ev : Nat) (x : Core) : Bool :=
  (List.range (if inOrder k then 4 else 8)).any fun n => x.pmctl.bit n && (sget zeroWord x.pmsel n).bits 7 0 = ev

/-! ### Products (R77 to R80) -/

/-- The pending product becomes visible (R77, R79). -/
def Core.showProduct (x : Core) : Core :=
  match x.prod with
  | some p => { x with ph := (p.val >>> 32).truncate 32, pl := p.val.truncate 32, prod := none }
  | none => x

/-- One position of the dynamic program order passes (R78). -/
def Core.passPosition (x : Core) : Core :=
  match x.prod with
  | some p => { x with prod := some ⟨p.val, p.left - 1⟩ }
  | none => x

/-- A product whose shadow is over is visible to the first instruction after it (R77). -/
def Core.ripen (x : Core) : Core :=
  match x.prod with
  | some p => if p.left = 0 then x.showProduct else x
  | none => x

/-- A product instruction's result: pending, with its shadow (R77), after the pending one is made visible (R79). -/
def Core.setProduct (x : Core) (v : DWord) (shadow : Nat) : Core :=
  { x.showProduct with prod := some ⟨v, shadow⟩ }

/-- {ph, pl}. -/
def Core.pair (x : Core) : DWord := x.ph ++ x.pl

/-! ### Exception entry and return (R114, R115) -/

/-- The saved state word csr_estat of an entry (R114). -/
def estatOf (x : Core) (inslot imprecise : Bool) (shrem : Nat) : Word :=
  Word.of ((x.status.bit 0).toNat + 2 * (x.status.bit 1).toNat + 4 * inslot.toNat + 8 * imprecise.toNat + 256 * shrem)

/-- The vector offset of a cause (R110). -/
def vectorOf (cause : Nat) : Nat := if cause = 0x0C then 0x200 else if cause = 0x10 then 0x100 else 0

/-- Exception and interrupt entry, one indivisible act (R114).  `epc` and `etgt` are as R90 gives: for an instruction in a
slot, its address and the continuation, with INSLOT set. -/
def Core.enter (x : Core) (cause : Nat) (addr : Word) (epc : Word) (slot : Option Slot) : Core :=
  let x := x.ripen
  let (shrem, epl, eph) := match x.prod with
    | some p => (p.left, p.val.truncate 32, (p.val >>> 32).truncate 32)
    | none => (0, x.epl, x.eph)
  { x with
    estat := estatOf x slot.isSome (cause == 0x0B) shrem
    epl := epl
    eph := eph
    epc := epc
    etgt := match slot with | some s => s.cont | none => x.etgt
    cause := Word.of cause
    eaddr := addr
    status := (x.status.setBit 0 true).setBit 1 false
    resv := none
    prod := none
    slot := none
    waiting := false
    pc := (x.vbase &&& 0xFFFFF000) + Word.of (vectorOf cause) }

/-- The load at the present pc is no longer one that was flushed (R135). -/
def Core.noFlush (x : Core) : Core :=
  if x.pred.flushed = some x.pc then { x with pred := { x.pred with flushed := none } } else x

/-- An exception of the instruction at the present pc (R90, R111). -/
def Core.trap (x : Core) (cause : Nat) (addr : Word) : Core := x.noFlush.enter cause addr x.pc x.slot

/-- ERET (R115): the pending result becomes visible, the saved mode and product are reinstated, and execution continues at
csr_epc, as a delay slot with its continuation when INSLOT is set. -/
def Core.eret (x : Core) : Core :=
  let x := x.showProduct
  let n := min 12 (x.estat.bits 11 8)
  { x with
    status := (x.status.setBit 0 (x.estat.bit 0)).setBit 1 (x.estat.bit 1)
    resv := none
    prod := if n = 0 then none else some ⟨x.eph ++ x.epl, n⟩
    slot := if x.estat.bit 2 then some ⟨x.etgt, false⟩ else none
    pc := x.epc }

/-! ### Debug halt (R608 to R610) -/

/-- Core `k`'s freeze-group members stop while some core of the group is halted (R616): the group's registers say which,
and `frozenUnits` reads them; nothing else is stored. -/
def Chip.groupFrozen (c : Chip) (g : Nat) : Bool :=
  c.expert 0x18 && (List.range 62).any fun k =>
    (c.core k).dbg.halted && (if k < 32 then c.regBit (DBG_FGRP_CORE_LO g) k else c.regBit (DBG_FGRP_CORE_HI g) (k - 32))

/-- Bit `n` of DBG_FGRP_UNIT_g of some frozen group (R616, R617). -/
def Chip.unitFrozen (c : Chip) (n : Nat) : Bool :=
  (List.range 8).any fun g => c.groupFrozen g && c.regBit (DBG_FGRP_UNIT g) n

/-- The core halts before the instruction at its pc (R609): the reservation is cleared and csr_dstat records the causes,
with the shadow positions that remain. -/
def Core.halt (x : Core) (causes hit : Nat) : Core :=
  let x := x.ripen
  let shrem := match x.prod with | some p => p.left | none => 0
  { x with
    resv := none
    waiting := false
    dbg := { x.dbg with
      halted := true
      haltReq := false
      haltHit := none
      stepping := false
      dpc := x.pc
      dstat := Word.of (causes + 16 * hit + 256 * shrem) } }

/-- Core `k` halts, and DBG_EVT.HALTED is set (R609). -/
def haltCore (k causes hit : Nat) (c : Chip) : Chip :=
  (c.modCore k fun x => x.halt causes hit).flag DBG_EVT_HALTED

/-- A session with the MAIN level is open (R604, R615). -/
def Chip.mainSession (c : Chip) : Bool := c.fb DBG_STATUS_SESSION && c.f DBG_STATUS_LEVEL % 2 == 1

end Sys2Proof.Machine
end

