-- ==== Sys2Proof/Machine/Session.lean ====
section
/-! DEFINITION. Resuming a halted core (R609) and the end of a debug session (R606, R607). -/

namespace Sys2Proof.Machine

/-- A halted core continues at csr_dpc, its pending product reinstated with the positions that csr_dstat records (R609). -/
def Core.resume (x : Core) : Core :=
  if !x.dbg.halted then x
  else
    let n := min 12 (x.dbg.dstat.bits 11 8)
    let x := match x.prod with
      | some p => if n = 0 then x.showProduct else { x with prod := some ⟨p.val, n⟩ }
      | none => x
    { x with pc := x.dbg.dpc, dbg := { x.dbg with halted := false, haltReq := false } }

/-- Core `k` resumes. -/
def resumeCore (k : Nat) (c : Chip) : Chip := c.modCore k Core.resume

/-- The Daybook's record of an open (1), close (2) or failure (3) of a session (R604). -/
def sessionEntry (what kind level : Nat) (c : Chip) : Chip := c.journal 0 0 250 (if what = 3 then 4 else 0) kind (what + 256 * level)

/-- The session ends (R607): every halted core resumes, no halt stays requested, and SESSION_END is set.  No core being
halted, every freeze group releases. -/
def endSession (c : Chip) : Chip :=
  if !c.fb DBG_STATUS_SESSION then c
  else
    let c := sessionEntry 2 (c.f DBG_STATUS_SESSION) (c.f DBG_STATUS_LEVEL) c
    let c := forAll (List.range 63) (fun k c => c.modCore k fun x => let x := x.resume; { x with dbg := { x.dbg with haltReq := false, stepping := false } }) c
    let c := (c.setF DBG_STATUS_SESSION 0).setF DBG_STATUS_LEVEL 0
    let c := { c with dbgPort := { c.dbgPort with session := none } }
    c.flag DBG_EVT_SESSION_END

/-- A network session ends with the Postmaster's restart (R606). -/
def endNetSession (c : Chip) : Chip := if c.f DBG_STATUS_SESSION = 2 then endSession c else c

end Sys2Proof.Machine
end

