-- ==== Sys2Proof/Machine/Icu.lean ====
section
/-! DEFINITION. The interrupt controller (R493 to R511): sources and their levels, sensing, records, claim and EOI,
moderation, and the latches of Nap. -/

namespace Sys2Proof.Machine

/-! ### Sources (R493 to R495) -/

/-- The key of a source: a shared source's own number, or private source `n` of core `k`. -/
def srcKey (k n : Nat) : Nat := if n < 32 then 1024 + 32 * k + n else n

/-- A source that exists (R493, R494). -/
def srcAssigned (key : Nat) : Bool :=
  if Nat.ble 1024 key then (let n := key % 32; Nat.blt n 8 || n = 28 || n = 30)
  else within 32 57 key || within 64 112 key || within 128 320 key || within 512 1024 key

/-- A pin source (R510). -/
def pinSource (key : Nat) : Bool := within 128 320 key

/-- A target of R495. -/
def tgtOk (t : Nat) : Bool := Nat.ble t 61 || t = 63 || t = 64

/-- A source after reset: idle, disabled; the target of a private source is its core. -/
def src0 (key : Nat) : IrqSrc :=
  ⟨0, 0, false, false, false, if Nat.ble 1024 key then (key - 1024) / 32 else 0, ⟨0, 0, false, false, false, false⟩⟩

/-- Source `key`, and its replacement. -/
def Chip.src (c : Chip) (key : Nat) : IrqSrc := sget src0 c.icu.src key
def Chip.setSrc (c : Chip) (key : Nat) (x : IrqSrc) : Chip := { c with icu := { c.icu with src := sset src0 c.icu.src key x } }

/-- An event register and its enables, position by position (R494). -/
def Chip.evtLevel (c : Chip) (evt en : Nat) : Bool := c.reg evt &&& c.reg en != 0

/-- The channels of DMA with an enabled event. -/
def Chip.dmaEvents (c : Chip) : Word := (c.reg DMA_DONE_EV &&& c.reg DMA_DONE_EN) ||| (c.reg DMA_HALT_EV &&& c.reg DMA_HALT_EN)

/-- The input of a source (R494, R493): software lines, and the debug event, stand at 0 between their pulses. -/
def Chip.srcInput (c : Chip) (key : Nat) : Bool :=
  if Nat.ble 1024 key then
    key % 32 = 30 && (let x := c.core ((key - 1024) / 32); x.pmctl.bit 10 && x.pmovf != 0)
  else if within 128 320 key then sget (fun _ => false) c.pins.level (key - 128)
  else if within 96 112 key then (let w := c.reg (WDT_CTL (key - 96)); w.bits 18 16 &&& w.bits 21 19 != 0)
  else if within 64 96 key then (let w := c.reg (TMR_CS (key - 64)); w.bits 19 16 &&& w.bits 11 8 != 0)
  else if within 32 36 key then
    let o := key - 32
    c.evtLevel (COMP_EVT o) (COMP_IRQ_EN o) || (c.reg COMP_REVT &&& c.reg COMP_REVT_EN).bits (8 * o + 7) (8 * o) != 0
  else if within 36 40 key then c.evtLevel (OUT_EVT (key - 36)) (OUT_IRQ_EN (key - 36))
  else match key with
  | 40 => c.evtLevel POST_STATUS POST_IRQ_EN
  | 41 => c.evtLevel MEM_STATUS MEM_IRQ_EN
  | 42 => c.evtLevel DRAMC_STATUS DRAMC_IRQ_EN
  | 43 => c.dmaEvents != 0
  | 44 => c.evtLevel PRESS_EVT PRESS_IRQ_EN
  | 45 => c.evtLevel AUD_EVT AUD_IRQ_EN
  | 46 => c.evtLevel AIO_EVT AIO_IRQ_EN
  | 47 => c.evtLevel POBOX_EVT POBOX_EVT_EN || c.evtLevel POBOX_DONE_LO POBOX_DONE_EN_LO || c.evtLevel POBOX_DONE_HI POBOX_DONE_EN_HI
  | 48 => c.evtLevel ZOW_EVT ZOW_IRQ_EN
  | 49 => c.evtLevel PCIE_EVT PCIE_IRQ_EN
  | 50 => c.evtLevel STOR_EVT STOR_IRQ_EN
  | 51 => c.evtLevel USB_EVT USB_IRQ_EN
  | 52 => c.evtLevel SENS_EVT SENS_IRQ_EN
  | 53 => c.evtLevel DAYB_EVT DAYB_IRQ_EN
  | 54 => c.evtLevel DBG_EVT DBG_IRQ_EN
  | 55 => c.evtLevel SYS_EVT SYS_IRQ_EN
  | 56 => c.reg ICU_STAT != 0
  | _ => false

/-- The audio domain that an AUD event bit belongs to: bits 2:0 and 5:3 by domain, V_STOP of domain V, the rest of A. -/
def audEventDomain (b : Nat) : Nat := if b < 6 then b % 3 else if b = 9 then 2 else 0

/-- The origin of a source's record (R494): where a block has several, the lowest among its units whose enabled event bits
are set. -/
def Chip.srcOrigin (c : Chip) (key : Nat) : Nat :=
  if Nat.ble 1024 key then (if key % 32 = 28 then 250 else (key - 1024) / 32)
  else if within 128 320 key then 192 + (key - 128) / 32
  else if within 96 112 key then 160 + (key - 96)
  else if within 64 96 key then 128 + (key - 64)
  else if within 32 36 key then 97 + (key - 32)
  else if within 36 40 key then 104 + (key - 36)
  else match key with
  | 40 => 252 | 41 => 208 | 42 => 209
  | 43 => 64 + (match (List.range 32).find? (fun n => c.dmaEvents.bit n) with | some n => n | none => 0)
  | 44 => 96
  | 45 =>
    let e := c.reg AUD_EVT &&& c.reg AUD_IRQ_EN
    112 + (((List.range 15).filter fun b => e.bit b).foldl (fun m b => min m (audEventDomain b)) 2)
  | 46 => 115 | 47 => 240 | 48 => 232 | 49 => 224 | 50 => 225 | 51 => 226 | 52 => 249 | 53 => 248 | 54 => 250 | 55 => 251
  | 56 => 253
  | _ => 0

/-! ### Windows and moderation (R501, R504, R511) -/

/-- The postmark that the island of source `key` gives an event now (R25, R496). -/
def Chip.srcStamp (c : Chip) (key : Nat) : Nat := c.stamp (c.srcOrigin key)

/-- The postmark of the ICU's island. -/
def Chip.icuNow (c : Chip) : Nat := (c.replica (Config.islandOf 253)).toNat

/-- The ordering window. -/
def Chip.icuWin (c : Chip) : Nat := c.xf ICU_XWIN_WIN_NS 160

/-- The moderation interval of target `t` in ns. -/
def Chip.modInterval (c : Chip) (t : Nat) : Nat := c.xf (ICU_XMOD_NS t) (c.f ICU_MOD_INTERVAL_US * 1000)

/-- The target is idle (R504). -/
def Chip.tgtIdle (c : Chip) (t : Nat) : Bool := t < 64 && ((c.core t).waiting || c.power.state = .nap)

/-- A pending record is eligible (R501, R506). -/
def Chip.eligible (c : Chip) (x : IrqSrc) : Bool := x.st = 1 && Nat.ble (x.record.postmark + c.icuWin) c.icuNow

/-- The moderated request of a record may be released (R504). -/
def Chip.modDue (c : Chip) (x : IrqSrc) : Bool :=
  c.tgtIdle x.tgt || (match sget (fun _ => none) c.icu.lastEntry x.tgt with
    | none => true
    | some t => Nat.ble (t + c.modInterval x.tgt) c.icuNow)

/-- An interrupt is pending towards target `t` (R504). -/
def Chip.irqPending (c : Chip) (t : Nat) : Bool :=
  c.icu.src.any fun p => p.2.tgt = t && p.2.record.released && c.eligible p.2

/-- An interrupt is pending towards core `k`. -/
def coreIrq (k : Nat) (c : Chip) : Bool := c.irqPending k

/-- MSI-X vector 0 (R576): sent, or kept in the pending bit array while masked. -/
def msixSend (c : Chip) : Chip :=
  if c.hosts.msixMask then { c with hosts := { c.hosts with msixPend := true } }
  else { c with hosts := { c.hosts with msixSent := c.hosts.msixSent + 1 } }

/-! ### Sensing (R496 to R500) -/

def IrqSrc.en (x : IrqSrc) : Bool := x.cfg.bit 0
def IrqSrc.moderated (x : IrqSrc) : Bool := x.cfg.bit 4
def IrqSrc.wake (x : IrqSrc) : Bool := x.cfg.bit 5
def IrqSrc.sense (x : IrqSrc) : Nat := x.cfg.bits 3 1
def IrqSrc.tgtField (x : IrqSrc) : Nat := x.cfg.bits 14 8

/-- An edge source. -/
def IrqSrc.edgeSense (x : IrqSrc) : Bool := within 2 5 x.sense

/-- A level source, and its level is active (SENSE 5 to 7 act as 0). -/
def IrqSrc.levelActive (x : IrqSrc) : Bool :=
  if x.edgeSense then false else if x.sense = 1 then !x.level else x.level

/-- Source `key` becomes pending (R495, R496): with a bad target it never does, and CFG_ERR is set. -/
def pend (key origin pm : Nat) (refire : Bool) (c : Chip) : Chip :=
  let x := c.src key
  if !srcAssigned key then c
  else if !tgtOk x.tgt then c.flag ICU_STAT_CFG_ERR
  else
    let late := Nat.blt (pm + c.icuWin) c.icuNow
    c.setSrc key { x with st := 1, refire := false, record := ⟨pm, origin, refire, refire && x.record.merged, late, false⟩ }

/-- An edge that a source senses (R497 to R499). -/
def edgeEvent (key origin pm : Nat) (c : Chip) : Chip :=
  let x := c.src key
  if !x.en then c
  else match x.st with
  | 0 => pend key origin pm false c
  | 1 => c.setSrc key { x with merged := true, record := { x.record with merged := true } }
  | _ => c.setSrc key (if x.refire then { x with merged := true, record := { x.record with merged := true } }
      else { x with refire := true, record := { x.record with origin := origin, merged := false } })

/-- The input of a source takes a level at postmark `pm` (R496). -/
def senseLevel (key : Nat) (level : Bool) (origin pm : Nat) (c : Chip) : Chip :=
  let x := c.src key
  if x.level = level then c
  else
    let c := c.setSrc key { x with level := level }
    let x := c.src key
    match x.sense with
    | 2 => if level then edgeEvent key origin pm c else c
    | 3 => if level then c else edgeEvent key origin pm c
    | 4 => edgeEvent key origin pm c
    | _ => if x.en && x.st = 0 && x.levelActive then pend key origin pm false c else c

/-- Source `key` senses its input as it stands. -/
def senseSrc (key pm : Nat) (c : Chip) : Chip := senseLevel key (c.srcInput key) (c.srcOrigin key) pm c

/-- A rising edge and a one-cycle high level on a source (ICU_SWI, ICU_SSET, the debug event). -/
def pulseSrc (key origin : Nat) (c : Chip) : Chip :=
  senseLevel key false origin (c.srcStamp key) (senseLevel key true origin (c.srcStamp key) c)

/-- Private source `n` of core `k` has its event: the counter overflow is a level, the others pulses (R493). -/
def raisePrivate (k n : Nat) (c : Chip) : Chip :=
  let key := srcKey k n
  if n = 30 then senseSrc key (c.srcStamp key) c else pulseSrc key (c.srcOrigin key) c

/-- The source becomes idle, its target takes the TGT last written (R507), and it pends again where REFIRE is set or its
level is active (R498). -/
def endService (key : Nat) (c : Chip) : Chip :=
  let x := c.src key
  let again := x.refire
  let y := { x with
    st := 0
    refire := false
    tgt := if Nat.ble 1024 key then x.tgt else x.tgtField
    level := if x.edgeSense then x.level else c.srcInput key
    record := { x.record with merged := x.refire && x.record.merged } }
  let c := c.setSrc key y
  if y.en && (again || y.levelActive) then
    pend key (if again then x.record.origin else c.srcOrigin key) (c.stamp 253) true c
  else c

/-! ### Delivery (R501 to R506) -/

/-- Record `a` comes before record `b`: postmark, origin, source number (R502). -/
def recBefore (a b : Nat × IrqSrc) : Bool :=
  let n (k : Nat) := if Nat.ble 1024 k then k % 32 else k
  Nat.blt a.2.record.postmark b.2.record.postmark || (a.2.record.postmark == b.2.record.postmark &&
    (Nat.blt a.2.record.origin b.2.record.origin || (a.2.record.origin == b.2.record.origin && Nat.blt (n a.1) (n b.1))))

/-- The first of a list of records. -/
def firstRec : List (Nat × IrqSrc) → Option (Nat × IrqSrc)
  | [] => none
  | p :: t => match firstRec t with
    | none => some p
    | some q => if recBefore q p then some q else some p

/-- The record that target `t` would claim. -/
def Chip.claimable (c : Chip) (t : Nat) : Option (Nat × IrqSrc) :=
  firstRec (c.icu.src.filter fun p => p.2.tgt == t && c.eligible p.2)

/-- The word a claim returns. -/
def claimWord (p : Nat × IrqSrc) : Word :=
  Word.of ((if Nat.ble 1024 p.1 then p.1 % 32 else p.1) + 4096 * p.2.record.refire.toNat + 8192 * p.2.record.merged.toNat + 2 ^ 31)

/-- The bank of an origin in the banked registers (R503). -/
def icuBank (o : Nat) : Option Nat := if Nat.ble o 61 || o = 63 then some o else if o = 224 then some 64 else none

/-- A read of ICU_CLAIM (R502, R6). -/
def readClaim (o : Nat) (peek : Bool) (c : Chip) : Word × Chip :=
  match icuBank o with
  | none => (0, c)
  | some t =>
    match c.claimable t with
    | none => (0, c)
    | some p =>
      if peek then (claimWord p, c)
      else
        let c := c.setSrc p.1 { p.2 with st := 2 }
        let c := { c with icu := { c.icu with
          claimPm := sset (fun _ => 0) c.icu.claimPm t p.2.record.postmark
          claimOrg := sset (fun _ => 0) c.icu.claimOrg t p.2.record.origin
          claimTop := smod (fun _ => 0) c.icu.claimTop t (max p.2.record.postmark)
          lastEntry := if t = 64 then sset (fun _ => none) c.icu.lastEntry 64 (some c.now) else c.icu.lastEntry } }
        (claimWord p, c)

/-- ICU_CLAIM_PM0 and ICU_CLAIM_PM1 as origin `o` reads them. -/
def readClaimPm (o : Nat) (hi : Bool) (c : Chip) : Word :=
  match icuBank o with
  | none => 0
  | some t =>
    let pm := short48 (sget (fun _ => 0) c.icu.claimPm t)
    if hi then Word.of (pm / 2 ^ 32 + 65536 * sget (fun _ => 0) c.icu.claimOrg t) else Word.of pm

/-- A write of ICU_EOI (R505). -/
def writeEoi (o : Nat) (v : Word) (c : Chip) : Chip :=
  match icuBank o with
  | none => c
  | some t =>
    let n := v.bits 9 0
    let key := srcKey t n
    let x := c.src key
    if (Nat.ble 32 n || Nat.blt t 64) && x.st = 2 && x.tgt = t then endService key c else c.flag ICU_STAT_EOI_ERR

/-- A late record (R506): LATE_REC and a corrected error, if its target has ever claimed a higher postmark. -/
def lateRecord (x : IrqSrc) (c : Chip) : Chip :=
  if x.record.late && Nat.blt x.record.postmark (sget (fun _ => 0) c.icu.claimTop x.tgt) then
    (c.flag ICU_STAT_LATE_REC).journal 1 0 253 0 x.record.postmark x.record.origin
  else c

/-- The request of source `key` is released (R504, R576). -/
def releaseRec (key : Nat) (c : Chip) : Chip :=
  let x := c.src key
  let c := c.setSrc key { x with record := { x.record with released := true, late := false } }
  if x.tgt = 64 then msixSend c else c

/-- Every record whose moment has come becomes eligible (R501), in the order of R502: a late one is reported, and a request
without moderation, or whose moderation is over, is released. -/
def recordsEligible (c : Chip) : Chip :=
  forAll (c.icu.src.map (·.1)) (fun key c =>
    let x := c.src key
    if c.eligible x && !x.record.released then
      let c := lateRecord x c
      if !x.moderated || c.modDue x then releaseRec key c
      else c.setSrc key { x with record := { x.record with late := false } }
    else c) c

/-- Every moderated request whose interval has passed is released (R504). -/
def moderatedRelease (c : Chip) : Chip :=
  forAll (c.icu.src.map (·.1)) (fun key c =>
    let x := c.src key
    if c.eligible x && !x.record.released && x.moderated && c.modDue x then releaseRec key c else c) c

/-- An interrupt entry of core `k` is made (R504). -/
def Chip.interruptEntered (c : Chip) (k : Nat) : Chip :=
  { c with icu := { c.icu with lastEntry := sset (fun _ => none) c.icu.lastEntry k (some c.now) } }

/-! ### Registers -/

/-- The source that ICU_SEL shows; none where ICU_CFG reads 0 and ignores writes. -/
def Chip.icuSel (c : Chip) : Option Nat :=
  let n := c.f ICU_SEL_SRC
  let k := c.f ICU_SEL_CORE
  if n < 32 then (if k = 62 then none else some (srcKey k n)) else some n

/-- ICU_CFG as it reads. -/
def readIcuCfg (c : Chip) : Word :=
  match c.icuSel with
  | none => 0
  | some key =>
    let x := c.src key
    let t := if Nat.ble 1024 key then (key - 1024) / 32 else x.tgtField
    Word.of ((x.cfg.bits 5 0) + 256 * t + 65536 * x.st + 2 ^ 18 * x.refire.toNat + 2 ^ 19 * x.merged.toNat)

/-- A write of ICU_CFG (R496, R499, R507). -/
def writeIcuCfg (v : Word) (c : Chip) : Chip :=
  match c.icuSel with
  | none => c
  | some key =>
    let x := c.src key
    let priv := Nat.ble 1024 key
    let cfg := v &&& (if priv then 0x1F else if pinSource key then 0x7F3F else 0x7F1F)
    let c := if !priv && !tgtOk (v.bits 14 8) then c.flag ICU_STAT_CFG_ERR else c
    let level := if x.en && x.edgeSense && ({ x with cfg := cfg } : IrqSrc).edgeSense then x.level else c.srcInput key
    let x := { x with cfg := cfg, merged := x.merged && !v.bit 19, level := level }
    let x := if v.bit 0 then x else { x with st := if x.st = 1 then 0 else x.st, refire := false }
    let x := if x.st = 0 && !priv then { x with tgt := x.tgtField } else x
    let c := c.setSrc key x
    if x.en && x.st = 0 && x.levelActive then pend key (c.srcOrigin key) (c.srcStamp key) false c else c

/-- A write of ICU_SWI by origin `o` (R493). -/
def writeIcuSwi (o : Nat) (v : Word) (c : Chip) : Chip :=
  if v.bits 5 0 = 62 then c else pulseSrc (srcKey (v.bits 5 0) (v.bits 10 8)) o c

/-- A write of ICU_SSET by origin `o` (R494). -/
def writeIcuSset (o : Nat) (v : Word) (c : Chip) : Chip :=
  let n := v.bits 9 0
  if Nat.ble 512 n then pulseSrc n o c else c.flag ICU_STAT_CFG_ERR

/-! ### Resets (R507) -/

/-- A U reset of core `k` ends the service of every source active there. -/
def icuCoreReset (k : Nat) (c : Chip) : Chip :=
  forAll (c.icu.src.map (·.1)) (fun key c => let x := c.src key; if x.st = 2 && x.tgt = k then endService key c else c) c

/-- The Daybook entry of a discarded record (R507). -/
def discardEntry (pos : Nat) (p : Nat × IrqSrc) (c : Chip) : Chip :=
  let n := if Nat.ble 1024 p.1 then p.1 % 32 else p.1
  c.journal 0 12 253 4 (n + 65536 * short48 p.2.record.postmark) (pos % 65536 + 65536 * p.2.tgt + 2 ^ 23 * (p.2.record.origin % 4096))

/-- Take the records of a list in the order of R502. -/
def sortRecs : Nat → List (Nat × IrqSrc) → List (Nat × IrqSrc)
  | 0, _ => []
  | n + 1, l => match firstRec l with
    | none => []
    | some p => p :: sortRecs n (l.erase p)

/-- A U reset of the ICU (R507, R60): discarded records go to the Daybook as failed, by target and in claim order, every
source becomes idle, and levels are sensed afresh. -/
def icuUnitReset (c : Chip) : Chip :=
  let recs := c.icu.src.filter fun p => p.2.st = 1
  let c := forAll (List.range 65) (fun t c =>
    let l := sortRecs recs.length (recs.filter fun p => p.2.tgt == t)
    forAll (l.zip (List.range l.length)) (fun p c => discardEntry p.2 p.1 c) c) c
  let c := { c with icu := { c.icu with claimPm := [], claimOrg := [], claimTop := [] } }
  forAll (c.icu.src.map (·.1)) (fun key c =>
    let x := c.src key
    let x := { x with st := 0, refire := false, merged := false, level := c.srcInput key,
                      tgt := if Nat.ble 1024 key then x.tgt else x.tgtField }
    let c := c.setSrc key x
    if x.en && x.levelActive then pend key (c.srcOrigin key) (c.srcStamp key) false c else c) c

/-! ### Commands -/

/-- SOURCE_EVENT (R496): source `n` (of core `k`, for a private one) meets its input as it stands; `age` is how long ago
the event was postmarked, at most 140 ns (R501). -/
def execSourceEvent (n : Fin 1024) (k : Fin 64) (age : Fin 141) (s : State) : Out :=
  s.go fun c => if c.mainRuns && k.val != 62 then senseSrc (srcKey k n) (c.srcStamp (srcKey k n) - age) c else c

/-- RECORD_ELIGIBLE (R501, R506). -/
def execRecordEligible (s : State) : Out := s.go fun c => if c.mainRuns then recordsEligible c else c

/-- MOD_RELEASE (R504). -/
def execModRelease (s : State) : Out := s.go fun c => if c.mainRuns then moderatedRelease c else c

/-- NAP_WAKE_LATCH (R509): in Nap, the event of an enabled source, whose input takes `level`, is caught. -/
def execNapWakeLatch (n : Fin 1024) (k : Fin 64) (level : Bool) (s : State) : Out :=
  s.go fun c =>
    let key := srcKey k n
    if c.power.state = .nap && srcAssigned key && (c.src key).en then
      let c := if pinSource key then { c with pins := { c.pins with level := sset (fun _ => false) c.pins.level (key - 128) level } } else c
      if c.power.napLatch.contains key then c
      else { c with power := { c.power with napLatch := c.power.napLatch ++ [key] } }
    else c

/-- The sources caught in Nap pend with the postmark of the restart (R509, R29). -/
def wakeSources (c : Chip) : Chip :=
  let l := c.power.napLatch
  let c := { c with power := { c.power with napLatch := [] } }
  forAll l (fun key c =>
    let x := c.src key
    let c := c.setSrc key { x with level := c.srcInput key }
    if x.en && x.st = 0 then pend key (c.srcOrigin key) (c.stamp 253) false c else c) c

end Sys2Proof.Machine
end

