-- ==== Sys2Proof/Machine/Timer.lean ====
section
/-! DEFINITION. The timer channels of TMR (R512 to R520).  A tick is a command; the cycles between ticks are not counted
(log entry 14). -/

namespace Sys2Proof.Machine

/-- A default of no events. -/
def off : Nat → Bool := fun _ => false

/-- The channel before channel `k` (R516). -/
def prevChannel (k : Nat) : Nat := (k + 31) % 32

/-- The output TOUTg.c of channel `k` (R518). -/
def Chip.tout (c : Chip) (k : Nat) : Bool :=
  if !c.fb (TMR_CS_EN k) then false
  else match c.xf (TMR_XCFG_OUTMODE k) 0 with
  | 1 => sget off c.tmr.toggle k
  | 2 => Nat.blt (c.reg (TMR_XCOUNT k)).toNat (c.reg (TMR_XCMPACT k)).toNat
  | 3 => sget off c.tmr.pulse k
  | _ => false

/-- The gate of channel `k` is open (R516). -/
def Chip.gateOpen (c : Chip) (k : Nat) : Bool :=
  match c.xf (TMR_XCFG_GSEL k) 0 with
  | 1 | 2 => sget off c.tmr.gate k == c.fb (TMR_XCFG_GLVL k)
  | _ => true

/-- Channel `k` counts: it is enabled, its gate is open, the timer clock runs (R550) and no freeze group stops it (R616). -/
def Chip.counting (c : Chip) (k : Nat) : Bool :=
  c.mainRuns && c.fb (TMR_CS_EN k) && c.gateOpen k && !c.unitFrozen (k / 4)

/-- A tick of channel `k` would wrap its count (R512). -/
def Chip.wraps (c : Chip) (k : Nat) : Bool := Nat.ble (c.reg (TMR_TOP k)).toNat (c.reg (TMR_XCOUNT k)).toNat

/-- The count after the next tick. -/
def Chip.nextCount (c : Chip) (k : Nat) : Word := if c.wraps k then 0 else c.reg (TMR_XCOUNT k) + 1

/-- The next tick of channel `k` fires its compare event (R514). -/
def Chip.compares (c : Chip) (k : Nat) : Bool :=
  c.xf (TMR_XCFG_CMPEN k) 0 != 0 && c.nextCount k == c.reg (TMR_XCMPACT k)

/-- An event arrives at the capture input of channel `k` through selection `sel` (R515). -/
def captureInput (k sel : Nat) (c : Chip) : Chip :=
  if c.xf (TMR_XCFG_CSEL k) 0 = sel then { c with tmr := { c.tmr with capture := sset off c.tmr.capture k true } } else c

/-- A compare event of channel `k` (R514, R518): CMPF, the output, and the capture input of the next channel. -/
def compareEvent (k : Nat) (c : Chip) : Chip :=
  let c := c.flag (TMR_CS_CMPF k)
  let c := { c with tmr := { c.tmr with
    toggle := smod off c.tmr.toggle k (fun b => b != (c.xf (TMR_XCFG_OUTMODE k) 0 == 1))
    pulse := sset off c.tmr.pulse k true } }
  captureInput ((k + 1) % 32) 2 c

/-- A tick of channel `k` (R512 to R514): the count advances or wraps, a one-shot ends at its wrap, and the compare event
fires where the count becomes equal to the value in force. -/
def timerTick (k : Nat) (c : Chip) : Chip :=
  let wrap := c.wraps k
  let cmp := c.compares k
  let c := { c with tmr := { c.tmr with pulse := sset off c.tmr.pulse k false } }.setReg (TMR_XCOUNT k) (c.nextCount k)
  let c := if wrap then
      let c := c.flag (TMR_CS_WRAPF k)
      if c.fb (TMR_CS_ONESHOT k) then c.setF (TMR_CS_EN k) 0 else c
    else c
  if cmp then compareEvent k c else c

/-- TIMER_TICK (R512). -/
def execTimerTick (k : Fin 32) (s : State) : Out := s.go fun c => if c.counting k then timerTick k c else c

/-- TIMER_WRAP (R512): the tick that wraps the count. -/
def execTimerWrap (k : Fin 32) (s : State) : Out :=
  s.go fun c => if c.counting k && c.wraps k then timerTick k c else c

/-- COMPARE_EVENT (R514): the tick that brings the count to the compare value in force. -/
def execCompareEvent (k : Fin 32) (s : State) : Out :=
  s.go fun c => if c.counting k && c.compares k then timerTick k c else c

/-- CAPTURE_EVENT (R515): the event on its way to channel `k` copies the count; a capture not yet read is overwritten and
OVF set. -/
def execCaptureEvent (k : Fin 32) (s : State) : Out :=
  s.go fun c =>
    if sget off c.tmr.capture k then
      let c := { c with tmr := { c.tmr with capture := sset off c.tmr.capture k false } }
      let c := c.setReg (TMR_XCAP k) (c.reg (TMR_XCOUNT k))
      if c.fb (TMR_CS_CAPF k) then c.flag (TMR_CS_OVF k) else c.flag (TMR_CS_CAPF k)
    else c

/-- A read of TMR_XCAP (R515). -/
def readXcap (k : Nat) (peek : Bool) (c : Chip) : Word × Chip :=
  (c.reg (TMR_XCAP k), if peek then c else c.setF (TMR_CS_CAPF k) 0)

/-- EN of channel `k` becomes 1 with its count at `n` (R513, R517). -/
def startChannel (k : Nat) (n : Word) (c : Chip) : Chip :=
  let c := { c with tmr := { c.tmr with toggle := sset off c.tmr.toggle k false, pulse := sset off c.tmr.pulse k false } }
  (c.setReg (TMR_XCOUNT k) n).setF (TMR_CS_EN k) 1

/-- A write of TMR_CS (R512, R513). -/
def writeTmrCs (k : Nat) (v : Word) (c : Chip) : Chip :=
  let was := c.fb (TMR_CS_EN k)
  let c := c.setReg (TMR_CS k) (writeWord false (TMR_CS k) (c.reg (TMR_CS k)) v)
  if v.bit 0 && !was then startChannel k 0 c else c

/-- A write of TMR_XCFG (R518): an output that comes to toggle goes on from the level at which it stands. -/
def writeXcfg (k : Nat) (v : Word) (c : Chip) : Chip :=
  let lvl := c.tout k
  let c := c.setReg (TMR_XCFG k) (writeWord false (TMR_XCFG k) (c.reg (TMR_XCFG k)) v)
  { c with tmr := { c.tmr with toggle := sset off c.tmr.toggle k lvl } }

/-- A write of TMR_XCMP (R514): the new value is in force relative to the present count. -/
def writeXcmp (k : Nat) (v : Word) (c : Chip) : Chip := (c.setReg (TMR_XCMP k) v).setReg (TMR_XCMPACT k) v

/-- Group starts (R517): every armed channel of the groups in `go`. -/
def groupStart (go : Nat) (c : Chip) : Chip :=
  forAll (List.range 32) (fun k c =>
    if go.testBit (k / 4) && c.xf (TMR_XCFG_ARM k) 0 != 0 then
      let p := c.reg (TMR_XPHASE k)
      startChannel k (if Nat.ble p.toNat (c.reg (TMR_TOP k)).toNat then p else 0) c
    else c) c

/-- Group stops (R517): every channel of the groups in `stop`. -/
def groupStop (stop : Nat) (c : Chip) : Chip :=
  forAll (List.range 32) (fun k c => if stop.testBit (k / 4) then c.setF (TMR_CS_EN k) 0 else c) c

/-- A write of TMR_XGSTART: starts, then stops. -/
def writeXgstart (v : Word) (c : Chip) : Chip := groupStop (v.bits 15 8) (groupStart (v.bits 7 0) c)

/-- A reset of TMR's inner state. -/
def timersReset (c : Chip) : Chip := { c with tmr := ⟨[], [], [], []⟩ }

end Sys2Proof.Machine
end

