-- ==== Sys2Proof/Machine/Gpio.lean ====
section
/-! DEFINITION. Pins, banks and multiplexing (R527 to R542).  Pin Gb.i has the number 32b + i. -/

namespace Sys2Proof.Machine

/-! ### Functions (R533, R534) -/

/-- The input functions of the function table. -/
inductive InFn
  | tcap (k : Nat)
  | tgate (k : Nat)
  | beamcap (o : Nat)
  | sdi (p : Nat)
  | audclkB
  | twinPeer
  deriving DecidableEq, Repr

/-- The output functions: a timer output, TWIN_LEAD, or an audio bit stream. -/
inductive OutFn
  | tout (k : Nat)
  | twinLead
  | audio
  deriving DecidableEq, Repr

/-- What function code `f` selects on pin `p`. -/
inductive PinFn
  | gpio
  | input (x : InFn)
  | output (x : OutFn)
  | none
  deriving DecidableEq, Repr

/-- The cabinet set of G3. -/
def cabinet (i : Nat) : PinFn :=
  if i = 3 then .input (.sdi 0) else if i = 8 then .input (.sdi 1)
  else if Nat.ble i 18 then .output .audio
  else if i = 19 then .input .audclkB
  else if within 20 24 i then .input (.beamcap (i - 20))
  else if i = 24 then .output .twinLead
  else if i = 25 then .input .twinPeer
  else .none

/-- The function table. -/
def pinFn (p f : Nat) : PinFn :=
  let i := p % 32
  match p / 32, f with
  | _, 0 => .gpio
  | 0, 1 | 4, 1 => .output (.tout i)
  | 1, 1 | 5, 1 => .input (.tcap i)
  | 2, 1 | 5, 2 => .input (.tgate i)
  | 3, 1 => cabinet i
  | 4, 2 => if within 20 24 i then .input (.beamcap (i - 20)) else .none
  | _, _ => .none

/-- The function code in force on pin `p`. -/
def Chip.pinCode (c : Chip) (p : Nat) : Nat := sget (fun _ => 0) c.pins.func p

/-- The function code that PMUX_FUNC holds for pin `p`. -/
def Chip.muxCode (c : Chip) (p : Nat) : Nat := (c.reg (PMUX_FUNC (p / 8))).bits (p % 8 * 4 + 3) (p % 8 * 4)

/-- Pin `p` is in a hold. -/
def Chip.inHold (c : Chip) (p : Nat) : Bool :=
  match sget (fun _ => none) c.pins.hold (p / 8) with | some h => h.pins.contains p | none => false

/-- The pins that select input function `x`, lowest first. -/
def Chip.selecting (c : Chip) (x : InFn) : List Nat := (List.range 192).filter fun p => pinFn p (c.pinCode p) = .input x

/-- The filtered level of pin `p` (R530). -/
def Chip.pinLevel (c : Chip) (p : Nat) : Bool := sget off c.pins.level p

/-- The level an input function sees (R534, R535): that of its lowest pin, its idle level during a hold or on no pin. -/
def Chip.fnLevel (c : Chip) (x : InFn) : Bool :=
  match c.selecting x with
  | p :: _ => !c.inHold p && c.pinLevel p
  | [] => false

/-- PMUX_STAT as it reads: BUSY and DUP follow the holds and the functions. -/
def readPmuxStat (c : Chip) : Word :=
  let busy := (List.range 24).any fun i => (sget (fun _ => none) c.pins.hold i).isSome
  let ins := (List.range 192).filterMap fun p => match pinFn p (c.pinCode p) with | .input x => some x | _ => none
  let dup := ins.any fun x => Nat.ble 2 ((ins.filter (· = x)).length)
  Word.of (busy.toNat + 2 * (c.f PMUX_STAT_FUNC_ERR) + 4 * dup.toNat)

/-! ### Pads (R528, R539, R542) -/

/-- The bias of pin `p`: 0 keeper, 1 pull-down, 2 pull-up; 3 acts as 0. -/
def Chip.pinPull (c : Chip) (p : Nat) : Nat :=
  let b := p / 32
  let i := p % 32
  let v := if c.expert 5 then
      (if i < 16 then (c.reg (GPIO_XPULL_LO b)).bits (2 * i + 1) (2 * i) else (c.reg (GPIO_XPULL_HI b)).bits (2 * (i - 16) + 1) (2 * (i - 16)))
    else c.f (GPIO_CFG_PULL b)
  if v = 3 then 0 else v

/-- The filter code of pin `p`; 3 acts as 0 (R531). -/
def Chip.pinFilt (c : Chip) (p : Nat) : Nat :=
  let b := p / 32
  let i := p % 32
  let v := if c.expert 5 then
      (if i < 16 then (c.reg (GPIO_XFILT_LO b)).bits (2 * i + 1) (2 * i) else (c.reg (GPIO_XFILT_HI b)).bits (2 * (i - 16) + 1) (2 * (i - 16)))
    else c.f (GPIO_CFG_FILT b)
  if v = 3 then 0 else v

/-- The time in ns from a pad's new level to its acceptance (R531). -/
def Chip.filterTime (c : Chip) (p : Nat) : Nat :=
  let b := p / 32
  match c.pinFilt p with
  | 1 => 10 + 5 * max 1 (c.xf (GPIO_XTIME_GLITCH b) 20)
  | 2 => 10 + 1000 * max 1 (c.xf (GPIO_XTIME_DEBOUNCE_US b) 2000)
  | _ => 15

/-- This device drives its audio pins: not as a Mirror, and after that from its first frame start as Lead (R481, R534). -/
def Chip.audioPadsOn (c : Chip) : Bool := !c.isMirror && !(c.zow.audioHeld && c.isLead)

/-- The output value and enable that function code `f` gives pin `p`. -/
def Chip.fnPad (c : Chip) (p f : Nat) : Option Bool × Bool :=
  let b := p / 32
  let i := p % 32
  match pinFn p f with
  | .gpio => (some (c.regBit (GPIO_OUT b) i), c.regBit (GPIO_OE b) i)
  | .output (.tout k) => (some (c.tout k), true)
  | .output .twinLead => (some true, c.zow.leaseOn)
  | .output .audio => (none, c.audioPadsOn)
  | .input _ | .none => (some false, false)

/-- The pad of pin `p`, as it stands: high impedance without its supply and in Keep and Off. -/
def Chip.pad (c : Chip) (p : Nat) : Pad :=
  if sget off c.pins.noSupply (p / 32) || !c.power.vsb then ⟨some false, false, 0⟩
  else match sget (fun _ => none) c.pins.pad p with
  | some x => x
  | none =>
    let (v, e) := c.fnPad p (c.pinCode p)
    let od := c.xf (GPIO_XOD_OD (p / 32)) 0
    ⟨v, e && !(od.testBit (p % 32) && v == some true), c.pinPull p⟩

/-- Freeze the pad of pin `p` at its last value. -/
def freezePad (p : Nat) (c : Chip) : Chip :=
  { c with pins := { c.pins with pad := sset (fun _ => none) c.pins.pad p (some (c.pad p)) } }

/-- Let go of the pad of pin `p`. -/
def thawPad (p : Nat) (c : Chip) : Chip := { c with pins := { c.pins with pad := sset (fun _ => none) c.pins.pad p none } }

/-- A change of the function in force on pin `p`. -/
def setPinCode (p f : Nat) (c : Chip) : Chip := { c with pins := { c.pins with func := sset (fun _ => 0) c.pins.func p f } }

/-! ### Ports and ownership (R529, R532) -/

/-- Origin `o` may write the port of bank `b`; if not, OWN_ERR is set. -/
def ownedWrite (o b : Nat) (f : Chip → Chip) (c : Chip) : Chip :=
  if c.fb (GPIO_OWN_VALID b) && c.f (GPIO_OWN_OWNER b) != o then c.setRegBit GPIO_STAT b true else f c

/-- Writes of GPIO_OUT, GPIO_SET, GPIO_CLR and GPIO_OE. -/
def writeGpioOut (o b : Nat) (v : Word) : Chip → Chip := ownedWrite o b fun c => c.setReg (GPIO_OUT b) v
def writeGpioSet (o b : Nat) (v : Word) : Chip → Chip := ownedWrite o b fun c => c.setReg (GPIO_OUT b) (c.reg (GPIO_OUT b) ||| v)
def writeGpioClr (o b : Nat) (v : Word) : Chip → Chip := ownedWrite o b fun c => c.setReg (GPIO_OUT b) (c.reg (GPIO_OUT b) &&& ~~~v)
def writeGpioOe (o b : Nat) (v : Word) : Chip → Chip := ownedWrite o b fun c => c.setReg (GPIO_OE b) v

/-- A bank frozen by a reset (R539). -/
def Chip.bankFrozen (c : Chip) (b : Nat) : Bool := sget off c.pins.frozen b

/-- The pads of bank `b` take its registers' values (R541). -/
def releaseBank (b : Nat) (c : Chip) : Chip :=
  if c.bankFrozen b then
    let c := forAll (List.range 32) (fun i c => setPinCode (32 * b + i) (c.muxCode (32 * b + i)) (thawPad (32 * b + i) c)) c
    { c with pins := { c.pins with frozen := sset off c.pins.frozen b false } }
  else c

/-- A write of GPIO_CFG (R541). -/
def writeGpioCfg (b : Nat) (v : Word) (c : Chip) : Chip :=
  let c := c.setReg (GPIO_CFG b) (v &&& 0x1F)
  if v.bit 5 then releaseBank b c else c

/-- GPIO_CFG and GPIO_IN as they read. -/
def readGpioCfg (b : Nat) (c : Chip) : Word :=
  Word.of ((c.reg (GPIO_CFG b)).bits 4 0 + 64 * (c.bankFrozen b).toNat + 128 * (!sget off c.pins.noSupply b).toNat)
def readGpioIn (b : Nat) (c : Chip) : Word :=
  Word.of ((List.range 32).foldl (fun a i => a + (c.pinLevel (32 * b + i)).toNat * 2 ^ i) 0)

/-! ### Changing functions (R535 to R538) -/

/-- A PMUX write taking effect on register `i` (R535, R538): unassigned codes leave their pins as they are and set
FUNC_ERR; the pins whose code changes begin a hold. -/
def applyPmux (i : Nat) (v : Word) (c : Chip) : Chip :=
  let code (j : Nat) := v.bits (4 * j + 3) (4 * j)
  let bad := (List.range 8).filter fun j => pinFn (8 * i + j) (code j) = .none
  let c := if bad = [] then c else c.flag PMUX_STAT_FUNC_ERR
  let js := (List.range 8).filter fun j => !bad.contains j && code j != c.muxCode (8 * i + j)
  let frozen := c.bankFrozen (i / 4)
  let ps := js.map fun j => 8 * i + j
  let c := forAll js (fun j c => c.setReg (PMUX_FUNC i) ((c.reg (PMUX_FUNC i)).setBits (4 * j + 3) (4 * j) (code j))) c
  if js = [] || frozen then c
  else
    let c := forAll ps freezePad c
    { c with pins := { c.pins with hold := sset (fun _ => none) c.pins.hold i (some ⟨ps, []⟩) } }

/-- A write of PMUX_FUNC (R535, R537): while a pin of the register is in its hold, the write waits. -/
def writePmux (o i : Nat) (v : Word) (c : Chip) : Chip :=
  match sget (fun _ => none) c.pins.hold i with
  | some h => { c with pins := { c.pins with hold := sset (fun _ => none) c.pins.hold i (some ⟨h.pins, h.deferred ++ [(some o, v)]⟩) } }
  | none => applyPmux i v c

/-- The writes that waited are applied in turn; one that begins a hold leaves the rest waiting. -/
def applyDeferred (i : Nat) : List (Option Nat × Word) → Chip → Chip
  | [], c => c
  | (_, v) :: t, c =>
    let c := applyPmux i v c
    match sget (fun _ => none) c.pins.hold i with
    | some h => { c with pins := { c.pins with hold := sset (fun _ => none) c.pins.hold i (some ⟨h.pins, t⟩) } }
    | none => applyDeferred i t c

/-- The hold of PMUX register `i` ends (R535, R536): the incoming functions take the pads; their first accepted level is no
event. -/
def endHold (i : Nat) (h : Hold) (c : Chip) : Chip :=
  forAll h.pins (fun p c =>
    let c := setPinCode p (c.muxCode p) (thawPad p c)
    { c with pins := { c.pins with fresh := sset (fun _ => 0) c.pins.fresh p (c.now + c.filterTime p) } })
    { c with pins := { c.pins with hold := sset (fun _ => none) c.pins.hold i none } }

/-- A U reset of PMUX (R537, R539): PMUX_STAT.BUSY resets to 0, so every hold ends, and the writes that waited are lost (log entry
182). -/
def pmuxUnitReset (c : Chip) : Chip :=
  forAll (List.range 24) (fun i c => match sget (fun _ => none) c.pins.hold i with | some h => endHold i h c | none => c) c

/-- A U reset of GPIO (R530, R539): GPIO_IN resets to 0, and the pin sources sense it; the pads stay as they are. -/
def gpioUnitReset (c : Chip) : Chip :=
  let l := c.pins.level
  forAll l (fun e c => senseSrc (128 + e.1) (c.srcStamp (128 + e.1)) c) { c with pins := { c.pins with level := [] } }

/-! ### Input functions -/

/-- An edge at pin `p` is an event of the input function it carries (R500, R515, R516, R321, R485): a capture, a beam
capture or a change of TWIN_PEER. -/
def pinEdge (p : Nat) (level : Bool) (c : Chip) : Chip :=
  match pinFn p (c.pinCode p) with
  | .input x =>
    if c.selecting x = [] || (c.selecting x).head? != some p || c.inHold p then c
    else match x with
    | .tcap k =>
      let hit := match c.f (TMR_XCFG_CEDGE k) with | 1 => !level | 2 => true | _ => level
      if hit then captureInput k 1 c else c
    | .beamcap o => { c with pins := { c.pins with beam := sset (fun _ => none) c.pins.beam o (some level) } }
    | .twinPeer => if level then c else { c with zow := { c.zow with peerReleased := c.now } }
    | _ => c
  | _ => c

/-- A new level of pin `p` is accepted by its filter at postmark now (R530, R531, R536). -/
def acceptLevel (p : Nat) (level : Bool) (c : Chip) : Chip :=
  if c.pinLevel p = level then c
  else
    let c := { c with pins := { c.pins with level := sset off c.pins.level p level } }
    let c := senseSrc (128 + p) (c.srcStamp (128 + p)) c
    if Nat.ble c.now (sget (fun _ => 0) c.pins.fresh p) then
      { c with pins := { c.pins with fresh := sset (fun _ => 0) c.pins.fresh p 0 } }
    else pinEdge p level c

/-- A WAKE pin's event in Dormant (R510, R540): its source pends with the AON-M postmark and the wake is latched. -/
def dormantPin (p : Nat) (level : Bool) (c : Chip) : Chip :=
  let key := 128 + p
  if (c.src key).wake && (c.src key).en && !sget off c.pins.noSupply (p / 32) && c.pinLevel p != level then
    let c := { c with pins := { c.pins with level := sset off c.pins.level p level } }
    let c := senseSrc key (c.srcStamp key) c
    if (c.src key).st = 1 then { c with power := { c.power with wakeLatched := true } } else c
  else c

/-- PIN_FILTER_ACCEPT (R531): the filter of pin `p` accepts a level.  A pad that this device drives has the level it
drives. -/
def execPinFilterAccept (p : Fin 192) (level : Bool) (s : State) : Out :=
  s.go fun c =>
    let pad := c.pad p
    if pad.enable && pad.value.isSome && pad.value != some level then c
    else if c.power.state = .dormant then dormantPin p level c
    else if c.mainRuns then acceptLevel p level c else c

/-- GATE_CHANGE (R516): the gate of channel `k` takes the level of its input. -/
def execGateChange (k : Fin 32) (s : State) : Out :=
  s.go fun c =>
    let lvl := match c.xf (TMR_XCFG_GSEL k) 0 with
      | 1 => c.fnLevel (.tgate k)
      | 2 => c.tout (prevChannel k)
      | _ => sget off c.tmr.gate k
    { c with tmr := { c.tmr with gate := sset off c.tmr.gate k lvl } }

/-- BANK_SUPPLY_CHANGE (R628, R539): the supply of bank `b` rises or falls; without it the pads are high impedance. -/
def execBankSupplyChange (b : Fin 6) (present : Bool) (s : State) : Out :=
  s.go fun c => { c with pins := { c.pins with noSupply := sset off c.pins.noSupply b (!present) } }

/-! ### Resets (R539) -/

/-- Bank `b` at a reset of class H, W, S or T; `hold` is RSTHOLD, which such a reset keeps.  Called with the state before
the registers are reset. -/
def freezeBank (b : Nat) (c : Chip) : Chip :=
  if c.fb (GPIO_CFG_RSTHOLD b) then
    let c := forAll (List.range 32) (fun i c => freezePad (32 * b + i) c) c
    { c with pins := { c.pins with frozen := sset off c.pins.frozen b true } }
  else c

/-- The pins of banks that are not frozen return to function 0; at P and M every pad is let go. -/
def pinsReset (cold : Bool) (c : Chip) : Chip :=
  let keep (p : Nat) := !cold && c.bankFrozen (p / 32)
  { c with pins := { c.pins with
    level := []
    func := c.pins.func.filter fun e => keep e.1
    pad := c.pins.pad.filter fun e => keep e.1
    fresh := []
    hold := []
    beam := []
    frozen := if cold then [] else c.pins.frozen } }

end Sys2Proof.Machine
end

