-- ==== Sys2Proof/Machine/Scene.lean ====
section
/-! DEFINITION. The scene and the binner (R203 to R236): scenes in force, sheet and stamp descriptors and their checks, and
the pigeonholes. -/

namespace Sys2Proof.Machine

/-! ### Tables -/

def timing0 : Timing := ⟨0, 0, 0, 0, 0, false, false, 0, 0, 0, 0, 0, 0, false, false, false, false, 0⟩

/-- An output that has never run. -/
def output0 : Nat → Output := fun _ =>
  ⟨timing0, 0, 0, 0, false, false, false, false, 0, 0, 0, false, none, 0, [], false, none, false, false, 0, 8192, 0, 0⟩

def Chip.out (c : Chip) (o : Nat) : Output := sget output0 c.disp.outs o
def Chip.setOut (c : Chip) (o : Nat) (x : Output) : Chip := { c with disp := { c.disp with outs := sset output0 c.disp.outs o x } }
def Chip.modOut (c : Chip) (o : Nat) (f : Output → Output) : Chip := c.setOut o (f (c.out o))

/-- The groups after reset hold sorters 12o to 12o + 11 (R249). -/
def group0 (g : Nat) : Group := ⟨(List.range 12).map (12 * g + ·), (List.range 12).map (12 * g + ·), false, 0, 64, 15, true, [], [], []⟩

def Chip.grp (c : Chip) (g : Nat) : Group := sget group0 c.disp.groups g
def Chip.setGrp (c : Chip) (g : Nat) (x : Group) : Chip := { c with disp := { c.disp with groups := sset group0 c.disp.groups g x } }
def Chip.modGrp (c : Chip) (g : Nat) (f : Group → Group) : Chip := c.setGrp g (f (c.grp g))

def composer0 : Nat → Composer := fun _ => ⟨[], none, none, 0, false⟩

def Chip.comp (c : Chip) (s : Nat) : Composer := sget composer0 c.disp.sorters s
def Chip.setComp (c : Chip) (s : Nat) (x : Composer) : Chip :=
  { c with disp := { c.disp with sorters := sset composer0 c.disp.sorters s x } }
def Chip.modComp (c : Chip) (s : Nat) (f : Composer → Composer) : Chip := c.setComp s (f (c.comp s))

/-! ### Reads by binners and composers -/

/-- `n` bytes at a physical address, with their poison.  Data outside memory has no value the manual states: it is free
(log entry 15). -/
def rdBytes (n pa : Nat) (c : Chip) : (Nat × Bool) × Chip :=
  let r := mainRegion c.dramTop pa
  match r with
  | .dram | .pattern | .palette _ | .sorterRam _ =>
    let c := c.eccRange r n pa
    ((c.le pa n, c.anyPoison r pa n || c.deadDram r pa), c)
  | _ =>
    let (v, c) := c.freeBits (8 * n)
    let (p, c) := c.freeBits 1
    ((v, p == 1), c)

/-- The address of a pattern-store offset, modulo 16 MiB (R210). -/
def patAddr (off : Nat) : Nat := 0x1000000000 + off % 0x1000000

/-- `size` bytes at `base` lie wholly in DRAM or wholly in the pattern store. -/
def Chip.tableIn (c : Chip) (base size : Nat) : Bool :=
  Nat.ble (base + size) c.dramTop || (Nat.ble 0x1000000000 base && Nat.ble (base + size) 0x1001000000)

/-- The scene block in force, and whether there is one (R205, R209). -/
def Chip.scene (c : Chip) (o : Nat) : Nat := (c.reg (COMP_SCENE_CUR o)).toNat * 256

/-- A word of the scene in force; 0 where there is none. -/
def sceneWord (o off : Nat) (c : Chip) : (Nat × Bool) × Chip :=
  if c.scene o = 0 then ((0, false), c) else rdBytes 4 (c.scene o + off) c

/-- Bits `msb:lsb` of a word that is a number. -/
def wb (w msb lsb : Nat) : Nat := nbits w msb lsb

/-! ### Descriptors (R215, R221, R226) -/

/-- The offset in the scene block of a line parameter (R262, R206). -/
def pidxOffset (i : Nat) : Option Nat :=
  if i < 2 then some (4 * i)
  else if within 0x10 0x50 i then (if i % 8 < 6 then some (0x40 + (i - 0x10) / 8 * 0x40 + i % 8 * 4) else none)
  else if within 0x50 0x70 i then (if i % 16 < 10 then some (0x240 + (i - 0x50) / 16 * 0x40 + i % 16 * 4) else none)
  else if within 0x200 0x250 i then some (0x2C0 + 4 * (i - 0x200))
  else none

/-- The rank of sheet `id` in the order words (R237, R238): the lowest at which it stands. -/
def rankOf (lo hi id : Nat) : Option Nat :=
  (List.range 11).find? fun r => (if r < 8 then wb lo (4 * r + 3) (4 * r) else wb hi (4 * (r - 8) + 3) (4 * (r - 8))) == id

/-- Some sheet stands at two ranks (R238). -/
def orderTwice (lo hi : Nat) : Bool :=
  let at_ (r : Nat) := if r < 8 then wb lo (4 * r + 3) (4 * r) else wb hi (4 * (r - 8) + 3) (4 * (r - 8))
  (List.range 11).any fun r => at_ r < 11 && (List.range r).any fun q => at_ q == at_ r

/-- A page sheet descriptor of words `w` is faulty (R216): an invalid value, or a page outside DRAM and the pattern store. -/
def Chip.pageBad (c : Chip) (w : Nat → Nat) : Bool :=
  let pw := wb (w 0) 11 8
  let ph := wb (w 0) 15 12
  wb (w 0) 3 2 == 3 || wb (w 0) 5 4 == 3 || !within 5 11 pw || !within 5 11 ph || !c.tableIn (w 1 * 256) (2 ^ pw * 2 ^ ph * 4)

/-- A bitmap sheet descriptor is faulty (R222). -/
def Chip.bitmapBad (c : Chip) (w : Nat → Nat) : Bool :=
  wb (w 0) 2 1 == 3 || wb (w 0) 4 3 == 3 || !Nat.blt (w 1 * 256) c.dramTop

/-- A step used as the nearer limit (R224), for VSTEP with its greatest value. -/
def clampStep (s hi : Nat) : Nat := max 0x1000 (min s hi)

/-- A step outside its limits. -/
def stepOff (w : Nat → Nat) : Bool :=
  clampStep (w 6) 0x80000 != w 6 || clampStep (w 7) (if wb (w 0) 5 5 == 0 then 0x20000 else 0x40000) != w 7

/-- A stamp descriptor. -/
structure Stamp where
  x : Int
  y : Int
  w : Nat
  h : Nat
  fmt : Nat
  prio : Nat
  hflip : Bool
  vflip : Bool
  affine : Bool
  dbl : Bool
  blend : Nat
  zeroOpaque : Bool
  en : Bool
  pix : Nat
  matrix : Nat
  pal : Nat
  ga : Nat
  idx : Nat
  deriving DecidableEq, Repr

/-- A descriptor's fields (R226). -/
def stampOf (a b d e : Nat) : Stamp :=
  ⟨sextInt 16 (wb a 15 0), sextInt 16 (wb a 31 16), wb b 8 0 + 1, wb b 17 9 + 1, wb b 19 18, wb b 21 20, wb b 22 22 == 1,
    wb b 23 23 == 1, wb b 24 24 == 1, wb b 25 25 == 1 && wb b 24 24 == 1, wb b 27 26, wb b 28 28 == 1, wb b 29 29 == 1,
    wb d 23 6 * 64, wb d 31 24, wb e 5 0, wb e 15 8, wb e 23 16⟩

/-- A stamp that is enabled and invalid (R227). -/
def Stamp.invalid (s : Stamp) : Bool := s.en && (s.w < 8 || s.h < 8 || s.blend == 3)

/-- The size of a stamp's box. -/
def Stamp.boxW (s : Stamp) : Nat := if s.dbl then 2 * s.w else s.w
def Stamp.boxH (s : Stamp) : Nat := if s.dbl then 2 * s.h else s.h

/-- The stamp's box covers line `y`. -/
def Stamp.onLine (s : Stamp) (y : Nat) : Bool := decide (s.y ≤ (y : Int)) && decide ((y : Int) < s.y + s.boxH)

/-- Stamp number `n` of the table at `base`, with its poison. -/
def readStamp (base n : Nat) (c : Chip) : (Stamp × Bool) × Chip :=
  let pa := base + n * 16
  let ((a, p0), c) := rdBytes 4 pa c
  let ((b, p1), c) := rdBytes 4 (pa + 4) c
  let ((d, p2), c) := rdBytes 4 (pa + 8) c
  let ((e, p3), c) := rdBytes 4 (pa + 12) c
  ((stampOf a b d e, p0 || p1 || p2 || p3), c)

/-! ### The binner (R230 to R236) -/

/-- What the binner has built: entries of each band, bands that overflowed, stamps entered, entries written, errors. -/
structure Bins where
  count : Sparse Nat
  ovf : List Nat
  binned : Nat
  entries : Nat
  stampErr : Bool
  deriving DecidableEq, Repr

/-- The entries a band holds (R231). -/
def Output.bandCap (x : Output) : Nat := x.stride / 4 - 1

/-- Enter a word in a band (R231, R232). -/
def enterBand (o b word : Nat) (a : Bins × Chip) : Bins × Chip :=
  let x := a.2.out o
  let n := sget (fun _ => 0) a.1.count b
  if x.bandCap ≤ n then ({ a.1 with ovf := if a.1.ovf.contains b then a.1.ovf else b :: a.1.ovf }, a.2)
  else
    ({ a.1 with count := sset (fun _ => 0) a.1.count b (n + 1), entries := a.1.entries + 1 },
      a.2.memStore .pattern (patAddr (x.phBase + b * x.stride + 4 * (n + 1))) (leBytes 4 word))

/-- The first column of output `o`'s positions (R204): the right half of a pair starts at the left half's HACTIVE. -/
def Chip.colOffset (c : Chip) (o : Nat) : Nat :=
  if o % 2 = 1 && (c.out (o - 1)).pairOn then (c.out (o - 1)).timing.hactive else 0

/-- The bands that a stamp's box covers within the output's lines and columns (R230). -/
def Chip.stampBands (c : Chip) (o : Nat) (s : Stamp) : List Nat :=
  let t := (c.out o).timing
  let off := c.colOffset o
  if decide (s.x < ((off + t.hactive : Nat) : Int)) && decide ((off : Int) < s.x + s.boxW) then
    (List.range ((t.vactive + 15) / 16)).filter fun b =>
      decide (s.y < ((min (16 * b + 16) t.vactive : Nat) : Int)) && decide (((16 * b : Nat) : Int) < s.y + s.boxH)
  else []

/-- Bin stamp number `n` of the table at `base`; `matrixOk` tells that the matrix table can be read (R219), `bad` that STAMP_BASE or
STAMP_COUNT was read poisoned, which affects every number (R236). -/
def binStamp (o base : Nat) (matrixOk bad : Bool) (a : Bins × Chip) (n : Nat) : Bins × Chip :=
  let ((s, ps), c) := if bad then ((stampOf 0 0 0 0, true), a.2) else readStamp base n a.2
  let t := (c.out o).timing
  let bands := if ps then List.range ((t.vactive + 15) / 16) else if s.en && !s.invalid then c.stampBands o s else []
  let b := { a.1 with stampErr := a.1.stampErr || (!ps && (s.invalid || (s.en && s.affine && !matrixOk))) }
  let r := bands.foldl (fun a k => enterBand o k (n + if ps then 65536 else 0) a) (b, c)
  ({ r.1 with binned := r.1.binned + (if Nat.blt b.entries r.1.entries then 1 else 0) }, r.2)

/-- Write word 0 of every band (R231). -/
def writeHeaders (o : Nat) (b : Bins) (c : Chip) : Chip :=
  let x := c.out o
  forAll (List.range ((x.timing.vactive + 15) / 16)) (fun k c =>
    c.memStore .pattern (patAddr (x.phBase + k * x.stride))
      (leBytes 4 (sget (fun _ => 0) b.count k + if b.ovf.contains k then 2 ^ 31 else 0))) c

/-- The binning of a frame (R226, R230, R233, R235): the pigeonholes filled and BIN_DONE set; `wait` is the binner cycles
that arbitration added. -/
def binFrame (o wait : Nat) (c : Chip) : Chip :=
  let ((mb, _), c) := sceneWord o 8 c
  let ((sb, p1), c) := sceneWord o 12 c
  let ((sc, p2), c) := sceneWord o 16 c
  let n := min (wb sc 16 0) 65536
  let bad := p1 || p2
  let ok := bad || c.tableIn (sb * 256) (n * 16)
  let matrixOk := c.tableIn (mb * 256) 8192
  let (b, c) := (List.range (if ok then n else 0)).foldl (binStamp o (sb * 256) matrixOk bad) (⟨[], [], 0, 0, false⟩, c)
  let c := writeHeaders o b c
  let c := if b.ovf = [] then c else c.flag (COMP_EVT_PH_OVF o)
  let c := if b.stampErr then c.flag (COMP_EVT_STAMP_ERR o) else c
  let c := c.setF (COMP_BIN_STAT_BINNED o) (min b.binned 65536)
  let c := c.setF (COMP_BIN_CYC_CYCLES o) (min (256 + n + b.entries + wait) 0xFFFFFF)
  (c.flag (COMP_EVT_BIN_DONE o)).modOut o fun x => { x with binBusy := false, binned := true }

/-- BIN_DONE (R230, R233): the binner of output `o` has handled the last descriptor. -/
def execBinDone (o : Fin 4) (wait : Nat) (s : State) : Out :=
  s.go fun c => if (c.out o).binBusy && c.mainRuns && !c.power.failed.contains (97 + o) then binFrame o wait c else c

/-! ### The latch and the checks of a frame start (R207, R209, R216, R219, R222, R224, R226, R238) -/

/-- COMP copies COMP_SCENE_NEXT into COMP_SCENE_CUR, or refuses it. -/
def sceneLatch (o : Nat) (c : Chip) : Chip :=
  let n := c.reg (COMP_SCENE_NEXT o)
  if n = 0 || c.tableIn (n.toNat * 256) 1 then (c.setReg (COMP_SCENE_CUR o) n).flag (COMP_EVT_LATCHED o)
  else c.flag (COMP_EVT_SCENE_ERR o)

/-- The words of a descriptor at an offset of the scene in force. -/
def descWords (o off : Nat) : Nat → Chip → List Nat × Chip
  | 0, c => ([], c)
  | n + 1, c =>
    let ((v, _), c) := sceneWord o off c
    let (t, c) := descWords o (off + 4) n c
    (v :: t, c)

/-- The checks of page sheet `k`: its descriptor, whether the sheet is enabled and ranked or not (log entry 36), and the matrix table of
an affine one that is drawn (R216, R219). -/
def checkPage (o k mb : Nat) (ranked : Bool) (c : Chip) : Bool × Chip :=
  let (l, c) := descWords o (0x40 + 0x40 * k) 6 c
  let w (i : Nat) := l.getD i 0
  (c.pageBad w || (ranked && wb (w 0) 0 0 == 1 && wb (w 0) 1 1 == 1 && !c.tableIn (mb * 256) 8192), c)

/-- The checks of bitmap sheet `j`: faulty, and drawn with a step clamped (R222, R224). -/
def checkBitmap (o j : Nat) (ranked : Bool) (c : Chip) : (Bool × Bool) × Chip :=
  let (l, c) := descWords o (0x240 + 0x40 * j) 10 c
  let w (i : Nat) := l.getD i 0
  ((c.bitmapBad w, ranked && wb (w 0) 0 0 == 1 && stepOff w), c)

/-- The errors that a scene in force shows at each frame start. -/
def checkScene (o : Nat) (c : Chip) : Chip :=
  if c.scene o = 0 then c
  else
    let ((lo, _), c) := sceneWord o 0 c
    let ((hi, _), c) := sceneWord o 4 c
    let ((mb, _), c) := sceneWord o 8 c
    let (bad, c) := (List.range 8).foldl (fun (a : Bool × Chip) k =>
      let (b, c) := checkPage o k mb (rankOf lo hi k).isSome a.2
      (a.1 || b, c)) (orderTwice lo hi, c)
    let (bm, c) := (List.range 2).foldl (fun (a : (Bool × Bool) × Chip) j =>
      let ((b, s), c) := checkBitmap o j (rankOf lo hi (8 + j)).isSome a.2
      ((a.1.1 || b, a.1.2 || s), c)) ((false, false), c)
    let ((sb, _), c) := sceneWord o 12 c
    let ((sc, _), c) := sceneWord o 16 c
    let n := wb sc 16 0
    let c := if n = 0 || c.tableIn (sb * 256) (min n 65536 * 16) then c else c.flag (COMP_EVT_STAMP_ERR o)
    let c := if bad || bm.1 then c.flag (COMP_EVT_SHEET_ERR o) else c
    if bm.2 then c.flag (COMP_EVT_SCALE_CLAMP o) else c

end Sys2Proof.Machine
end

