-- ==== Sys2Proof/Machine/Compose.lean ====
section
/-! DEFINITION. The pixels of a line: formats and colours (R210 to R213), page, affine and bitmap sheets (R214 to R225),
stamps (R226 to R236), palettes (R239), line-timed values (R269) and the fold (R237, R241, R242). -/

namespace Sys2Proof.Machine

/-- A pixel before the fold: colour channels of 10 bits, alpha of 8, poison. -/
structure Px where
  r : Nat
  g : Nat
  b : Nat
  a : Nat
  ps : Bool
  deriving DecidableEq, Repr

/-- A pixel of which only the poison counts. -/
def Px.poisoned : Px := ⟨0, 0, 0, 0, true⟩

/-- A contributing pixel (R237): its key, its place among equal keys, its mode. -/
structure Contrib where
  key : Nat
  sub : Nat
  mode : Nat
  px : Px
  deriving DecidableEq, Repr

/-- What composing one line needs: output, line, first column, the line parameters, the line-timed writes that count. -/
structure LineCtx where
  o : Nat
  line : Nat
  off : Nat
  param : Sparse Word
  writes : List LineWrite
  deriving DecidableEq, Repr

/-- Line parameter `i` as a number. -/
def LineCtx.p (k : LineCtx) (i : Nat) : Nat := (sget (fun _ => 0) k.param i).toNat

/-! ### Colours -/

/-- An 8-bit channel widened to 10 bits (R212). -/
def widen8 (v : Nat) : Nat := v * 4 ||| v / 64

/-- A direct pixel (R211, R212). -/
def directPx (v : Nat) : Px := ⟨widen8 (v % 256), widen8 (v / 256 % 256), widen8 (v / 65536 % 256), v / 2 ^ 24 % 256, false⟩

/-- Line-timed write `w` applies at line `l`, pixel `x` (R269). -/
def LineWrite.reached (w : LineWrite) (l x : Nat) : Bool := Nat.blt w.line l || (w.line == l && Nat.ble w.pixel x)

/-- `a` comes after `b` in the order of R269 (issue order decides among equals, and `a` is issued later). -/
def LineWrite.notBefore (a b : LineWrite) : Bool :=
  Nat.blt b.line a.line || (a.line == b.line && (Nat.blt b.pixel a.pixel || (a.pixel == b.pixel && Nat.ble b.u a.u)))

/-- The last of the writes to a target that apply at line `l`, pixel `x`. -/
def lastWrite (ws : List LineWrite) (entry : Option Nat) (l x : Nat) : Option LineWrite :=
  ws.foldl (fun m w =>
    if w.entry = entry && w.reached l x then
      (match m with | none => some w | some v => if w.notBefore v then some w else m)
    else m) none

/-- Entry `e` of palette `p` as it stands for pixel `x` of the line (R239, R269). -/
def palEntry (k : LineCtx) (x p e : Nat) (c : Chip) : (Nat × Bool) × Chip :=
  match lastWrite k.writes (some (p * 256 + e)) k.line x with
  | some w => ((w.val, false), c)
  | none => rdBytes 8 (0x1018000000 + k.o * 0x20000 + (p * 256 + e) * 8) c

/-- An indexed value's pixel (R213): transparent, or its palette entry. -/
def indexedPx (k : LineCtx) (x v base pal : Nat) (zeroOpaque : Bool) (c : Chip) : Option Px × Chip :=
  if v = 0 && !zeroOpaque then (none, c)
  else
    let ((w, ps), c) := palEntry k x pal ((base + v) % 256) c
    (some (if ps then Px.poisoned else ⟨nbits w 29 20, nbits w 19 10, nbits w 9 0, nbits w 37 30, false⟩), c)

/-- Bits per pixel of a format (R211). -/
def fmtBits (fmt : Nat) : Nat := match fmt with | 0 => 2 | 1 => 4 | 2 => 8 | _ => 32

/-- Pixel `n` of the image at pattern-store offset `base` (R210 to R213). -/
def imagePx (k : LineCtx) (x base n fmt idx pal : Nat) (zeroOpaque : Bool) (c : Chip) : Option Px × Chip :=
  if fmt = 3 then
    let ((v, ps), c) := rdBytes 4 (patAddr (base + 4 * n)) c
    (some (if ps then Px.poisoned else directPx v), c)
  else
    let bit := n * fmtBits fmt
    let ((v, ps), c) := rdBytes 1 (patAddr (base + bit / 8)) c
    if ps then (some Px.poisoned, c)
    else indexedPx k x (v / 2 ^ (bit % 8) % 2 ^ fmtBits fmt) idx pal zeroOpaque c

/-- A pixel's alpha scaled by the sheet's or the stamp's (R241). -/
def scaleAlpha (p : Px) (sa : Nat) : Px := { p with a := (p.a * sa + 127) / 255 }

/-! ### Matrices (R219, R263) -/

/-- The six numbers of a matrix, and their poison. -/
structure Matrix where
  pa : Int
  pb : Int
  pc : Int
  pd : Int
  u0 : Int
  v0 : Int
  ps : Bool
  deriving DecidableEq, Repr

/-- The bound override slot that supplies matrix `m` (R263): the lowest. -/
def LineCtx.slot (k : LineCtx) (m : Nat) : Option Nat :=
  (List.range 4).find? fun s => let b := k.p (0x100 + 8 * s + 6); nbits b 31 31 == 1 && nbits b 7 0 == m

/-- Matrix `m`; none where the matrix table cannot be read (R219). -/
def readMatrix (k : LineCtx) (m : Nat) (c : Chip) : Option Matrix × Chip :=
  let s32 (v : Nat) := sextInt 32 v
  match k.slot m with
  | some s =>
    let w (i : Nat) := s32 (k.p (0x100 + 8 * s + i))
    (some ⟨w 0, w 1, w 2, w 3, w 4, w 5, false⟩, c)
  | none =>
    let ((mb, p), c) := sceneWord k.o 8 c
    if !c.tableIn (mb * 256) 8192 then (none, c)
    else
      let at_ := mb * 256 + m * 32
      let ((a, p0), c) := rdBytes 4 at_ c
      let ((b, p1), c) := rdBytes 4 (at_ + 4) c
      let ((d, p2), c) := rdBytes 4 (at_ + 8) c
      let ((e, p3), c) := rdBytes 4 (at_ + 12) c
      let ((u, p4), c) := rdBytes 4 (at_ + 16) c
      let ((v, p5), c) := rdBytes 4 (at_ + 20) c
      (some ⟨s32 a, s32 b, s32 d, s32 e, s32 u, s32 v, p || p0 || p1 || p2 || p3 || p4 || p5⟩, c)

/-! ### Page sheets (R215 to R220) -/

/-- A page sheet drawn on the line: its number and rank, and its matrix in affine mode. -/
structure PageOn where
  k : Nat
  rank : Nat
  mat : Option Matrix
  deriving DecidableEq, Repr

/-- Word `w` of page sheet `n`'s descriptor among the line parameters. -/
def LineCtx.page (k : LineCtx) (n w : Nat) : Nat := k.p (0x10 + 8 * n + w)

/-- The position in the page of column `x` (the position's x, R204) (R217, R220). -/
def pagePos (k : LineCtx) (s : PageOn) (x wpx hpx : Nat) : Nat × Nat :=
  match s.mat with
  | some m =>
    let u := (m.u0 + m.pa * x + m.pb * k.line) % (2 ^ 32 : Int)
    let v := (m.v0 + m.pc * x + m.pd * k.line) % (2 ^ 32 : Int)
    (u.toNat / 65536 % wpx, v.toNat / 65536 % hpx)
  | none => ((x + wb (k.page s.k 3) 15 0) % wpx, (k.line + wb (k.page s.k 3) 31 16) % hpx)

/-- The pixel of a page sheet at column `x` (R214, R217, R218): key and pixel. -/
def pagePx (k : LineCtx) (s : PageOn) (x : Nat) (c : Chip) : Option Contrib × Chip :=
  let w (i : Nat) := k.page s.k i
  let xx := k.off + x
  if xx < wb (w 4) 13 0 || wb (w 4) 29 16 ≤ xx then (none, c)
  else
    let g := 8 * 2 ^ wb (w 0) 5 4
    let pw := wb (w 0) 11 8
    let (px, py) := pagePos k s xx (2 ^ pw * g) (2 ^ wb (w 0) 15 12 * g)
    let ((e, pe), c) := rdBytes 4 (w 1 * 256 + (py / g * 2 ^ pw + px / g) * 4) c
    let mode := wb (w 0) 3 2
    let mps := match s.mat with | some m => m.ps | none => false
    if pe || mps then
      let (prio, c) := c.freeBits 2
      (some ⟨prio * 16 + s.rank, 0, mode, Px.poisoned⟩, c)
    else if nbits e 30 30 = 1 then (none, c)
    else
      let gx := if nbits e 26 26 = 1 then g - 1 - px % g else px % g
      let gy := if nbits e 27 27 = 1 then g - 1 - py % g else py % g
      let fmt := wb (w 0) 7 6
      let base := wb (w 2) 23 6 * 64 + nbits e 19 0 * (g * g * fmtBits fmt / 8)
      let (p, c) := imagePx k x base (gy * g + gx) fmt (wb (w 0) 31 24) (nbits e 25 20) (wb (w 0) 16 16 == 1) c
      (p.map fun p => ⟨nbits e 29 28 * 16 + s.rank, 0, mode, scaleAlpha p (wb (w 5) 15 8)⟩, c)

/-! ### Bitmap sheets (R221 to R225) -/

/-- Word `w` of bitmap sheet `j`'s descriptor among the line parameters. -/
def LineCtx.bitmap (k : LineCtx) (j w : Nat) : Nat := k.p (0x50 + 16 * j + w)

/-- A source pixel of a surface (R222): its four channels. -/
def surfacePx (fmt v : Nat) : Px :=
  match fmt with
  | 0 => directPx v
  | 1 => ⟨nbits v 29 20, nbits v 19 10, nbits v 9 0, nbits v 31 30 * 85, false⟩
  | _ =>
    let c5 (x : Nat) := x * 32 ||| x
    let c6 (x : Nat) := x * 16 ||| x / 4
    ⟨c5 (nbits v 4 0), c6 (nbits v 10 5), c5 (nbits v 15 11), 255, false⟩

/-- A filter coefficient of a sheet (R225): derived bilinear, or loaded. -/
def Chip.coefOf (c : Chip) (o j : Nat) (vert : Bool) (phase tap : Nat) : Int :=
  if (c.out o).coefSrc.testBit j then
    sextInt 12 (sget (fun _ => 0) c.disp.coefOn (((o * 2 + j) * 2 + vert.toNat) * 512 + phase * 8 + tap))
  else
    let mid := if vert then 1 else 3
    if tap = mid then 1024 - 16 * (phase : Int) else if tap = mid + 1 then 16 * (phase : Int) else 0

/-- Four channel sums. -/
structure Quad where
  r : Int
  g : Int
  b : Int
  a : Int
  deriving DecidableEq, Repr

/-- Add a weighted pixel. -/
def Quad.add (q : Quad) (k : Int) (p : Px) : Quad := ⟨q.r + k * p.r, q.g + k * p.g, q.b + k * p.b, q.a + k * p.a⟩

/-- Round a sum of products by 1024 and clamp it (R223). -/
def roundClamp (v : Int) (hi : Nat) : Nat := min ((v + 512) / 1024).toNat hi

/-- A filtered pixel from its sums. -/
def Quad.px (q : Quad) : Px := ⟨roundClamp q.r 1023, roundClamp q.g 1023, roundClamp q.b 1023, roundClamp q.a 255, false⟩

/-- `v` clamped to 0 and `hi`. -/
def clampTo (v : Int) (hi : Nat) : Nat := min v.toNat hi

/-- Source pixel (a, b) of bitmap sheet `j`, its position clamped (R223). -/
def srcPx (k : LineCtx) (j : Nat) (a b : Int) (c : Chip) : Px × Chip :=
  let w (i : Nat) := k.bitmap j i
  let fmt := wb (w 0) 2 1
  let n := if fmt = 2 then 2 else 4
  let i := clampTo a (wb (w 3) 13 0)
  let r := clampTo b (wb (w 3) 29 16)
  let ((v, ps), c) := rdBytes n (w 1 * 256 + r * (wb (w 2) 17 6 * 64) + i * n) c
  (if ps then Px.poisoned else surfacePx fmt v, c)

/-- One vertically filtered column (R223). -/
def columnPx (k : LineCtx) (j : Nat) (a : Int) (row : Int) (pv : Nat) (c : Chip) : Px × Chip :=
  let taps := if wb (k.bitmap j 0) 5 5 = 0 then [0, 1, 2, 3] else [1, 2]
  let (q, ps, c) := taps.foldl (fun (t : Quad × Bool × Chip) (i : Nat) =>
    let (p, c) := srcPx k j a (row - 1 + (i : Int)) t.2.2
    (t.1.add (c.coefOf k.o j true pv i) p, t.2.1 || p.ps, c)) (⟨0, 0, 0, 0⟩, false, c)
  ({ q.px with ps := ps }, c)

/-- The pixel of bitmap sheet `j` at rank `rank` (R223, R224). -/
def bitmapPx (k : LineCtx) (j rank x : Nat) (c : Chip) : Option Contrib × Chip :=
  let w (i : Nat) := k.bitmap j i
  let lx : Int := (k.off + x : Nat) - sextInt 16 (wb (w 4) 15 0)
  let ly : Int := (k.line : Int) - sextInt 16 (wb (w 4) 31 16)
  if lx < 0 || ly < 0 || (wb (w 5) 13 0 : Int) ≤ lx || (wb (w 5) 29 16 : Int) ≤ ly then (none, c)
  else
    let sx := sextInt 32 (w 8) + lx * clampStep (w 6) 0x80000
    let sy := sextInt 32 (w 9) + ly * clampStep (w 7) (if wb (w 0) 5 5 = 0 then 0x20000 else 0x40000)
    let i := sx / 65536
    let ph := (sx / 1024 % 64).toNat
    let pv := (sy / 1024 % 64).toNat
    let (q, ps, c) := (List.range 8).foldl (fun (t : Quad × Bool × Chip) (n : Nat) =>
      let (p, c) := columnPx k j (i - 3 + (n : Int)) (sy / 65536) pv t.2.2
      (t.1.add (c.coefOf k.o j false ph n) p, t.2.1 || p.ps, c)) (⟨0, 0, 0, 0⟩, false, c)
    let p := if ps then Px.poisoned else q.px
    (some ⟨wb (w 0) 7 6 * 16 + rank, 0, wb (w 0) 4 3, scaleAlpha p (wb (w 0) 15 8)⟩, c)

/-! ### Stamps (R228, R229, R234, R236) -/

/-- A stamp drawn on the line: its number, descriptor and matrix. -/
structure StampOn where
  n : Nat
  s : Stamp
  mat : Option Matrix
  deriving DecidableEq, Repr

/-- The pixel of a stamp at column `x`, for the stamp sheet's rank. -/
def stampPx (k : LineCtx) (rank : Nat) (t : StampOn) (x : Nat) (c : Chip) : Option Contrib × Chip :=
  let s := t.s
  let xx : Int := (k.off + x : Nat)
  let y : Int := k.line
  if xx < s.x || s.x + s.boxW ≤ xx then (none, c)
  else
    let pos : Int × Int := match t.mat with
      | some m =>
        let dx := xx - (s.x + s.boxW / 2)
        let dy := y - (s.y + s.boxH / 2)
        ((m.u0 + m.pa * dx + m.pb * dy + s.w * 0x8000) / 65536, (m.v0 + m.pc * dx + m.pd * dy + s.h * 0x8000) / 65536)
      | none =>
        (if s.hflip then s.w - 1 - (xx - s.x) else xx - s.x, if s.vflip then s.h - 1 - (y - s.y) else y - s.y)
    let mps := match t.mat with | some m => m.ps | none => false
    let put (p : Px) : Contrib := ⟨s.prio * 16 + rank, 65535 - t.n, s.blend, p⟩
    if mps then (some (put Px.poisoned), c)
    else if pos.1 < 0 || pos.2 < 0 || (s.w : Int) ≤ pos.1 || (s.h : Int) ≤ pos.2 then (none, c)
    else
      let (p, c) := imagePx k x s.pix (pos.2.toNat * s.w + pos.1.toNat) s.fmt s.idx s.pal s.zeroOpaque c
      (p.map fun p => put (scaleAlpha p s.ga), c)

/-- What the stamp sheet brings to a line: the stamps drawn, how many cross it, up to the 1,024 that can be drawn, more than those
crossing, poison. -/
structure Band where
  stamps : List StampOn
  crossing : Nat
  tooMany : Bool
  ps : Bool
  deriving DecidableEq, Repr

/-- One entry of the line's band (R227, R234, R236). -/
def bandEntry (k : LineCtx) (base : Nat) (a : Band × Chip) (i : Nat) : Band × Chip :=
  let x := a.2.out k.o
  let ((e, p), c) := rdBytes 4 (patAddr (x.phBase + k.line / 16 * x.stride + 4 * (i + 1))) a.2
  if p || nbits e 16 16 = 1 then ({ a.1 with ps := true }, c)
  else
    let n := nbits e 15 0
    let ((s, sp), c) := readStamp base n c
    if sp then ({ a.1 with ps := true }, c)
    else if !s.en || s.invalid || !s.onLine k.line then (a.1, c)
    else if 1024 ≤ a.1.crossing then ({ a.1 with tooMany := true }, c)
    else
      let b := { a.1 with crossing := a.1.crossing + 1 }
      if s.affine then
        (match readMatrix k s.matrix c with
          | (some m, c) => ({ b with stamps := b.stamps ++ [⟨n, s, some m⟩] }, c)
          | (none, c) => (b, c))
      else ({ b with stamps := b.stamps ++ [⟨n, s, none⟩] }, c)

/-- No stamp. -/
def band0 : Band := ⟨[], 0, false, false⟩

/-- The stamp sheet of a line (R226, R231, R236). -/
def readBand (k : LineCtx) (c : Chip) : Band × Chip :=
  let x := c.out k.o
  let ((sb, p1), c) := sceneWord k.o 12 c
  let ((sc, p2), c) := sceneWord k.o 16 c
  if p1 || p2 then ({ band0 with ps := true }, c)
  else if !c.tableIn (sb * 256) (min (wb sc 16 0) 65536 * 16) then (band0, c)
  else
    let ((h, p), c) := rdBytes 4 (patAddr (x.phBase + k.line / 16 * x.stride)) c
    if p then ({ band0 with ps := true }, c)
    else (List.range (min (nbits h 15 0) x.bandCap)).foldl (bandEntry k (sb * 256)) (band0, c)

/-! ### The fold (R237, R242) -/

/-- Insert a contribution in ascending order. -/
def insertContrib (n : Contrib) : List Contrib → List Contrib
  | [] => [n]
  | h :: t => if n.key < h.key || (n.key = h.key && n.sub < h.sub) then n :: h :: t else h :: insertContrib n t

/-- One channel of the fold. -/
def blend1 (mode s a c : Nat) : Nat :=
  match mode with
  | 1 => min 1023 (s + c)
  | 2 => (s * c + 511) / 1023
  | _ => (s * a + c * (255 - a) + 127) / 255

/-- A folded pixel: colour and poison mark. -/
structure Folded where
  r : Nat
  g : Nat
  b : Nat
  p : Bool
  deriving DecidableEq, Repr

/-- Fold one contributing pixel over what lies beneath it. -/
def foldPx (c : Folded) (n : Contrib) : Folded :=
  let s := n.px
  if s.a = 0 && !s.ps then c
  else
    ⟨blend1 n.mode s.r s.a c.r, blend1 n.mode s.g s.a c.g, blend1 n.mode s.b s.a c.b,
      s.ps || (c.p && (n.mode != 0 || s.a != 255))⟩

/-- OUT_BGCOLOR as it stands for pixel `x` of the line (R269, R301). -/
def bgAt (k : LineCtx) (x : Nat) (c : Chip) : Nat :=
  match lastWrite k.writes none k.line x with
  | some w => w.val % 2 ^ 30
  | none => (c.reg (OUT_BGCOLOR k.o)).bits 29 0

/-- The sheets of a line that are drawn. -/
structure Sheets where
  pages : List PageOn
  bitmaps : List (Nat × Nat)
  stampRank : Option Nat
  band : Band
  deriving DecidableEq, Repr

/-- One pixel of the line: colour in 30 bits, and the poison mark (R242). -/
def composePx (k : LineCtx) (sh : Sheets) (x : Nat) (c : Chip) : (Nat × Bool) × Chip :=
  let add (l : List Contrib) (n : Option Contrib) := match n with | some n => insertContrib n l | none => l
  let (l, c) := sh.pages.foldl (fun (a : List Contrib × Chip) s => let (n, c) := pagePx k s x a.2; (add a.1 n, c)) ([], c)
  let (l, c) := sh.bitmaps.foldl (fun (a : List Contrib × Chip) s => let (n, c) := bitmapPx k s.1 s.2 x a.2; (add a.1 n, c)) (l, c)
  let (l, c) := match sh.stampRank with
    | none => (l, c)
    | some r =>
      let (l, c) := sh.band.stamps.foldl (fun (a : List Contrib × Chip) s => let (n, c) := stampPx k r s x a.2; (add a.1 n, c)) (l, c)
      (if sh.band.ps then insertContrib ⟨48 + r, 65536, 0, Px.poisoned⟩ l else l, c)
  let bg := bgAt k x c
  let f := l.foldl foldPx ⟨nbits bg 29 20, nbits bg 19 10, nbits bg 9 0, false⟩
  ((f.b + f.g * 2 ^ 10 + f.r * 2 ^ 20, f.p), c)

end Sys2Proof.Machine
end

