-- ==== Sys2Proof/Machine/Sorter.lean ====
section
/-! DEFINITION. Sorter groups and units (R249 to R283): offer, line parameters, close, draw, abandon, drop, retirement and
regrouping. -/

namespace Sys2Proof.Machine

/-! ### Groups (R249 to R251, R282) -/

/-- Sorter `s`'s bit in COMP_RETIRE. -/
def Chip.retired (c : Chip) (s : Nat) : Bool := if s < 32 then c.regBit COMP_RETIRE_LO s else c.regBit COMP_RETIRE_HI (s - 32)

/-- The group of which sorter `s` is a member. -/
def Chip.groupOf (c : Chip) (s : Nat) : Option Nat := (List.range 4).find? fun g => (c.grp g).members.contains s

/-- Set bit `n` of group `g`'s byte of COMP_REVT. -/
def Chip.revt (c : Chip) (g n : Nat) : Chip := c.setRegBit COMP_REVT (8 * g + n) true

/-- ROUTE_ERR of the group of sorter `s` (R276). -/
def routeErr (s : Nat) (c : Chip) : Chip := match c.groupOf s with | some g => c.revt g 0 | none => c

/-- The group range that COMP_GRP_g names, cut at 47 (R251). -/
def Chip.grpRange (c : Chip) (g : Nat) : List Nat :=
  let f := c.f (COMP_GRP_FIRST g)
  (List.range (min (c.f (COMP_GRP_COUNT g)) (48 - f))).map (f + ·)

/-- PAIR of group `g` is set and its two outputs are locked (R250, R251). -/
def Chip.grpPaired (c : Chip) (g : Nat) : Bool := g % 2 == 0 && c.fb (COMP_GRP_PAIR g) && (c.out g).pairOn

/-- Group `g` is left out because its even neighbour serves the pair (R251). -/
def Chip.grpIgnored (c : Chip) (g : Nat) : Bool := g % 2 == 1 && c.grpPaired (g - 1)

/-- The output's timing generator runs (R289). -/
def Chip.running (c : Chip) (o : Nat) : Bool := c.fb (OUT_CTL_RUNNING o)

/-- The sorters that lower-numbered groups take first: by the range in force while the group's output runs, by its register
while it is stopped (log entry 145). -/
def Chip.takenBelow (c : Chip) (g : Nat) : List Nat :=
  (List.range g).flatMap fun h => if c.running h then (c.grp h).range else if c.grpIgnored h then [] else c.grpRange h

/-- The group recomputes its members, N and its settings at a frame start (R251, R282, R284); a group whose output is stopped no longer
counts them as its own. -/
def regroup (g : Nat) (c : Chip) : Chip :=
  let range := if c.grpIgnored g then [] else c.grpRange g
  let taken := c.takenBelow g
  let members := range.filter fun s => !taken.contains s && !c.retired s
  let fault := (!c.grpIgnored g && Nat.blt 48 (c.f (COMP_GRP_FIRST g) + c.f (COMP_GRP_COUNT g))) || range.any (fun s => taken.contains s)
    || (g % 2 == 0 && c.fb (COMP_GRP_PAIR g) && !(c.out g).pairOn)
  let paired := c.grpPaired g
  let lput := c.xf (COMP_XGRP_LPUT_MAX g) 64
  let c := forAll ((List.range 4).filter fun h => h != g && !c.running h)
    (fun h c => c.modGrp h fun x => { x with members := x.members.filter fun s => !members.contains s }) c
  let c := c.setGrp g
    ⟨members, range, paired, c.f (COMP_RTAB_OFFSET g) * 4, max 1 (min lput 64), max 1 (c.xf (COMP_XGRP_LEAD_MAX g) 15),
      c.xf (COMP_XGRP_AUTO_RETIRE g) 1 != 0, [], [], (c.grp g).log⟩
  let c := (c.setF (COMP_GSTAT_N g) members.length).setF (COMP_GSTAT_PAIRED g) paired.toNat
  let c := if fault then c.revt g 5 else c
  forAll (members.zip (List.range members.length)) (fun p c =>
    c.modComp p.1 fun x => { x with offered := none, next := p.2, had := false }) c

/-! ### Lines and units (R250, R317) -/

/-- Active lines of a frame, or of a field when interlaced. -/
def Output.lines (x : Output) : Nat := if x.timing.interlace then x.timing.vactive / 2 else x.timing.vactive

/-- The line of R260 of field line `i`. -/
def Output.lineOf (x : Output) (i : Nat) : Nat := if x.timing.interlace then 2 * i + x.field else i

/-- Output and field line of unit `u` of group `g`. -/
def Chip.unitPlace (c : Chip) (g u : Nat) : Nat × Nat := if (c.grp g).paired then (g + u % 2, u / 2) else (g, u)

/-- Output `o` is the right output of a locked pair (R260). -/
def Chip.rightHalf (c : Chip) (o : Nat) : Bool := o % 2 == 1 && (c.out (o - 1)).pairOn

/-- COMP_XSTAT of group `g` (R279, R280). -/
def xstat (g line half s : Nat) (dropped : Bool) (c : Chip) : Chip :=
  let c := c.setReg (COMP_XSTAT g) (Word.of (line % 16384 + 16384 * dropped.toNat + 32768 * half + 65536 * s + 2 ^ 31))
  (c.modOut g fun x => { x with xstatAge := 0 }).revt g 3

/-- Unit `u` of group `g` closes: its line-timed writes are those issued before (R267). -/
def closeUnit (g u : Nat) (c : Chip) : Chip :=
  c.modGrp g fun x => { x with
    closed := if x.closed.contains u then x.closed else u :: x.closed
    log := x.log.map fun w => if w.u = u then { w with closed := true } else w }

/-- The unit that sorter `s` holds is abandoned (R279, R281). -/
def abandonUnit (s : Nat) (c : Chip) : Chip :=
  match (c.comp s).held, c.groupOf s with
  | some h, some g =>
    if h.abandoned then c
    else
      let c := closeUnit g h.u c
      let c := c.modComp s fun x => { x with held := some { h with closed := true, abandoned := true, drawing := false } }
      xstat g h.line h.half.toNat s false c
  | _, _ => c

/-- The unit that sorter `s` holds is abandoned, unless it is drawn: its line needs it no longer. -/
def abandonHeld (s : Nat) (c : Chip) : Chip :=
  match (c.comp s).held with
  | some h => if h.drawn then c else abandonUnit s c
  | none => c

/-- A unit that was never offered is dropped (R280). -/
def dropUnit (g u s : Nat) (c : Chip) : Chip :=
  let (o, i) := c.unitPlace g u
  let c := closeUnit g u c
  xstat g ((c.out o).lineOf i) (c.rightHalf o).toNat s true c

/-- Sorter `s`'s unit, offered and not yet held, is dropped as its line is sent without it, so that no later unit waits for it
(R280, R283, log entry 146). -/
def dropOffered (s : Nat) (c : Chip) : Chip :=
  match (c.comp s).offered, c.groupOf s with
  | some n, some g => dropUnit g n.u s (c.modComp s fun x => { x with offered := none, had := x.had && !n.first })
  | _, _ => c

/-- A frame of output `o` ends: what a member still holds is abandoned, what it was offered is taken back (log entry 146). -/
def endUnits (o : Nat) (c : Chip) : Chip :=
  forAll (c.grp (if o % 2 = 1 && (c.grp (o - 1)).paired then o - 1 else o)).members (fun s c =>
    (abandonHeld s c).modComp s fun x => { x with offered := none }) c

/-- The member that unit `u` belongs to (R250). -/
def Group.owner (x : Group) (u : Nat) : Option Nat := if x.members = [] then none else x.members[u % x.members.length]?

/-- The beam reaches field line `i` of output `o`, or its line is sent without its unit: the unit is dropped if it could not be
offered (R280). -/
def dropAtLine (o i : Nat) (c : Chip) : Chip :=
  let g := if o % 2 = 1 && (c.grp (o - 1)).paired then o - 1 else o
  let u := if (c.grp g).paired then 2 * i + (o - g) else i
  match (c.grp g).owner u with
  | none => c
  | some s =>
    if (c.comp s).next ≤ u && !(c.grp g).closed.contains u then
      let c := dropUnit g u s c
      c.modComp s fun x => { x with next := u + (c.grp g).members.length }
    else c

/-! ### The offer (R255, R258, R259, R261) -/

/-- A word of sorter `s`'s local RAM. -/
def localWord (s off : Nat) (c : Chip) : Nat × Chip :=
  let ((v, _), c) := rdBytes 4 (0x1020000000 + s * 0x10000 + off % 0x10000) c
  (v, c)

/-- The entries of a route table: first line, entry offset, ARG. -/
def routeEntries (s off : Nat) : Nat → Nat → Chip → List (Nat × Nat × Nat) × Chip
  | 0, _, c => ([], c)
  | n + 1, i, c =>
    let (a, c) := localWord s (off + 4 + 8 * i) c
    let (b, c) := localWord s (off + 8 + 8 * i) c
    let (t, c) := routeEntries s off n (i + 1) c
    ((nbits a 13 0, nbits a 31 16, b) :: t, c)

/-- First lines stand in ascending order. -/
def ascending : List (Nat × Nat × Nat) → Bool
  | a :: b :: t => Nat.blt a.1 b.1 && ascending (b :: t)
  | _ => true

/-- The lookup for line `l` (R259): route address, ARG, and whether it fell back to entry 0. -/
def routeLookup (s off l : Nat) (c : Chip) : (Word × Word × Bool) × Chip :=
  let (w, c) := localWord s off c
  let n := max 1 (min 64 (nbits w 6 0))
  let (t, c) := routeEntries s off n 0 c
  let ok := if ascending t then (t.filter fun e => Nat.ble e.1 l).getLast? else none
  let e := match ok with | some e => e | none => t.getD 0 (0, 0, 0)
  ((Word.of (nbits w 31 16 * 65536 + e.2.1), Word.of e.2.2, ok.isNone), c)

/-- Every PIDX that a scene word fills. -/
def scenePidx : List Nat := (List.range 0x250).filter fun i => (pidxOffset i).isSome

/-- The line parameters loaded from the scene in force, with their poison marks (R261).  The words at 0x2C0 to 0x3FF are read here, as
R261, R262 and R264 need, and by nothing else: R206 calls them words that the device never reads (log entry 172). -/
def loadParams (o : Nat) (c : Chip) : (Sparse Word × Sparse Bool) × Chip :=
  if c.scene o = 0 then (([], []), c)
  else scenePidx.foldl (fun (a : (Sparse Word × Sparse Bool) × Chip) i =>
    match pidxOffset i with
    | none => a
    | some off =>
      let ((v, p), c) := sceneWord o off a.2
      ((sset (fun _ => 0) a.1.1 i (Word.of v), sset (fun _ => false) a.1.2 i p), c)) (([], []), c)

/-- The conditions of R255 for sorter `s` of group `g`; its next unit, its output and field line. -/
def Chip.mayOffer (c : Chip) (g s : Nat) : Option (Nat × Nat × Nat) :=
  let x := c.comp s
  let grp := c.grp g
  let (o, i) := c.unitPlace g x.next
  let out := c.out o
  let free := x.offered.isNone && (match x.held with | none => true | some h => h.abandoned)
  let beam := Nat.blt i grp.leadMax || Nat.ble (out.timing.vstart + (i - grp.leadMax)) (c.out g).v
  if free && !grp.gone.contains s && c.running g && !(c.out g).starting && out.binned && i < out.lines && beam
  then some (x.next, o, i) else none

/-- The offer of its next unit to sorter `s` (R255): lookup, line parameters, dispatch. -/
def offerUnit (g s : Nat) (c : Chip) : Chip :=
  match c.mayOffer g s with
  | none => c
  | some (u, o, i) =>
    let x := c.comp s
    let grp := c.grp g
    let out := c.out o
    let line := out.lineOf i
    let ((route, arg, bad), c) := routeLookup s grp.rtab line c
    let ((ps, ms), c) := loadParams o c
    let n : LineUnit :=
      ⟨u, o, c.rightHalf o, i, line, !x.had, if out.timing.interlace then out.field else 0, (c.reg (OUT_FRAME_COUNT g)).toNat % 4096,
        u % grp.members.length, route, arg, false, false, false, false, 0, ps, ms, ps⟩
    let c := c.modComp s fun x => { x with offered := some n, next := u + grp.members.length, had := true }
    if bad then c.revt g 0 else c

/-- UNIT_OFFER (R255): the group offers sorter `s` its next unit. -/
def execUnitOffer (s : Fin 48) (st : State) : Out :=
  st.go fun c =>
    match c.groupOf s with
    | some g => if c.mainRuns then offerUnit g s c else c
    | none => c

/-! ### Drawing (R253, R264, R268, R269) -/

/-- Words `base`, `base` + 1, … below `n` of a parameter table as numbers. -/
def paramWord (t : Sparse Word) (base i : Nat) : Nat := (sget (fun _ => 0) t (base + i)).toNat

/-- Page sheet `n` is invalid with the parameters `t` (R264, R216, R219). -/
def Chip.pageInvalid (c : Chip) (k : LineCtx) (t : Sparse Word) (mbOk : Bool) (n : Nat) : Bool :=
  let w := paramWord t (0x10 + 8 * n)
  c.pageBad w || (wb (w 0) 1 1 == 1 && (({ k with param := t } : LineCtx).slot (wb (w 5) 7 0)).isNone && !mbOk)

/-- A line parameter that the composition uses carries a poison mark (R261). -/
def poisonUsed (k : LineCtx) (mark : Sparse Bool) : Bool :=
  let m (i : Nat) := sget (fun _ => false) mark i
  let lo := k.p 0
  let hi := k.p 1
  m 0 || m 1
    || ((List.range 8).any fun n => (rankOf lo hi n).isSome && (List.range 6).any fun w => m (0x10 + 8 * n + w))
    || ((List.range 2).any fun j => (rankOf lo hi (8 + j)).isSome && (List.range 10).any fun w => m (0x50 + 16 * j + w))
    || ((List.range 4).any fun s => nbits (k.p (0x100 + 8 * s + 6)) 31 31 == 1 && (List.range 6).any fun w => m (0x100 + 8 * s + w))

/-- The sheets drawn on a line (R216, R222, R226, R237, R264); none while no scene is in force (R209). -/
def drawnSheets (k : LineCtx) (c : Chip) : Sheets × Chip :=
  if c.scene k.o = 0 then (⟨[], [], none, band0⟩, c) else
  let lo := k.p 0
  let hi := k.p 1
  let ((mb, _), c) := sceneWord k.o 8 c
  let mbOk := c.tableIn (mb * 256) 8192
  let (pages, c) := (List.range 8).foldl (fun (a : List PageOn × Chip) n =>
    match rankOf lo hi n with
    | some r =>
      if wb (k.page n 0) 0 0 = 1 && !a.2.pageInvalid k k.param mbOk n then
        (if wb (k.page n 0) 1 1 = 1 then
          (let (m, c) := readMatrix k (wb (k.page n 5) 7 0) a.2
           (a.1 ++ [⟨n, r, m⟩], c))
        else (a.1 ++ [⟨n, r, none⟩], a.2))
      else a
    | none => a) ([], c)
  let bitmaps := (List.range 2).filterMap fun j =>
    match rankOf lo hi (8 + j) with
    | some r => if wb (k.bitmap j 0) 0 0 = 1 && !c.bitmapBad (k.bitmap j) then some (j, r) else none
    | none => none
  let rank := rankOf lo hi 10
  let (band, c) := if rank.isSome then readBand k c else (band0, c)
  (⟨pages, bitmaps, rank, band⟩, c)

/-- With the parameters `t`, page sheet `n` is enabled at a rank and invalid (R264). -/
def Chip.pageFails (c : Chip) (k : LineCtx) (t : Sparse Word) (mbOk : Bool) (n : Nat) : Bool :=
  (rankOf (paramWord t 0 0) (paramWord t 0 1) n).isSome && wb (paramWord t (0x10 + 8 * n) 0) 0 0 == 1 && c.pageInvalid k t mbOk n

/-- With the parameters `t`, bitmap sheet `j` is enabled at a rank and invalid (R264). -/
def Chip.bitmapFails (c : Chip) (t : Sparse Word) (j : Nat) : Bool :=
  (rankOf (paramWord t 0 0) (paramWord t 0 1) (8 + j)).isSome && wb (paramWord t (0x50 + 16 * j) 0) 0 0 == 1
    && c.bitmapBad (paramWord t (0x50 + 16 * j))

/-- An LSET has made a sheet invalid: it is to be drawn and fails, and did not with the parameters as loaded (R264). -/
def Chip.paramErr (c : Chip) (k : LineCtx) (loaded : Sparse Word) (mbOk : Bool) : Bool :=
  c.scene k.o != 0 &&
    (((List.range 8).any fun n => c.pageFails k k.param mbOk n && !c.pageFails k loaded mbOk n)
      || (List.range 2).any fun j => c.bitmapFails k.param j && !c.bitmapFails loaded j)

/-- A ring pixel written. -/
def setRing (o slot x v : Nat) (c : Chip) : Chip :=
  { c with disp := { c.disp with ring := sset (fun _ => 0) c.disp.ring ((o * 16 + slot) * 4096 + x) v } }

/-- A segment committed, or freed. -/
def setCommit (o slot seg : Nat) (b : Bool) (c : Chip) : Chip :=
  { c with disp := { c.disp with commit := sset off c.disp.commit ((o * 16 + slot) * 8 + seg) b } }

/-- A segment of a slot is committed (R253). -/
def Chip.committed (c : Chip) (o slot seg : Nat) : Bool := sget off c.disp.commit ((o * 16 + slot) * 8 + seg)

/-- LINE_OVF with the lowest line of the frame (R234). -/
def lineOverflow (o line : Nat) (c : Chip) : Chip :=
  let c := c.flag (COMP_EVT_LINE_OVF o)
  if c.fb (COMP_OVF_LINE_VALID o) && Nat.ble (c.f (COMP_OVF_LINE_LINE o)) line then c
  else (c.setF (COMP_OVF_LINE_LINE o) line).setF (COMP_OVF_LINE_VALID o) 1

/-- The composition of the held unit `h` of group `g`: every pixel into the ring, then the segments committed (R253). -/
def drawUnit (g : Nat) (h : LineUnit) (c : Chip) : Chip :=
  let t := (c.out h.out).timing
  let k : LineCtx := ⟨h.out, h.line, c.colOffset h.out, h.param, (c.grp g).log.filter fun w => w.closed && w.out = h.out⟩
  let ((mb, _), c) := sceneWord h.out 8 c
  let c := if c.paramErr k h.loaded (c.tableIn (mb * 256) 8192) then c.revt g 1 else c
  let all := poisonUsed k h.mark
  let (sh, c) := drawnSheets k c
  let c := if sh.band.tooMany then lineOverflow h.out h.line c else c
  let slot := h.idx % 16
  let c := forAll (List.range t.hactive) (fun x c =>
    let ((v, p), c) := composePx k sh x c
    setRing h.out slot x (v + if p || all then 2 ^ 30 else 0) c) c
  forAll (List.range ((t.hactive + 511) / 512)) (fun j c => setCommit h.out slot j true c) c

/-- Every unit of the group and frame with a lower number has closed (R268). -/
def Group.belowClosed (x : Group) (u : Nat) : Bool := (List.range u).all fun v => x.closed.contains v

/-! ### Retirement (R281) -/

/-- Sorter `s` is retired at once: its held unit is abandoned, the rest of its units of the frame are dropped.  The Daybook
and the repair list record it (R602). -/
def retireSorter (s : Nat) (c : Chip) : Chip :=
  let c := (c.journal 0 0 (8 + s) 0 s 0).repairAdd 2 s 0
  let c := if s < 32 then c.setRegBit COMP_RETIRE_LO s true else c.setRegBit COMP_RETIRE_HI (s - 32) true
  match c.groupOf s with
  | none => c
  | some g =>
    if (c.grp g).gone.contains s then c
    else
      let c := abandonUnit s c
      let n := (c.grp g).members.length
      let u0 := match (c.comp s).offered with | some x => x.u | none => (c.comp s).next
      let total := (if (c.grp g).paired then 2 else 1) * (c.out g).lines
      let rest := (List.range ((total - u0 + n - 1) / n)).map fun i => u0 + i * n
      let c := if c.running g then forAll rest (fun u c => dropUnit g u s c) c else c
      let c := c.modComp s fun x => { x with offered := none, next := u0 + rest.length * n }
      (c.modGrp g fun x => { x with gone := s :: x.gone }).revt g 4

/-- A write of COMP_RETIRE_LO or COMP_RETIRE_HI (R281, R283). -/
def writeRetire (hi : Bool) (v : Word) (c : Chip) : Chip :=
  let n := if hi then 16 else 32
  let key := if hi then COMP_RETIRE_HI else COMP_RETIRE_LO
  forAll (List.range n) (fun i c =>
    if v.bit i then (if c.regBit key i then c else retireSorter (i + if hi then 32 else 0) c)
    else c.setRegBit key i false) c

/-! ### Unit-fatal errors (R50, R281) -/

/-- A unit-fatal error of the unit with origin `o`: it stops until a U reset, with a Daybook entry; a member is retired while
AUTO_RETIRE is 1; ZOW's is device-fatal on a Lead with a paired Mirror (R483). -/
def unitFatal (o item : Nat) (c : Chip) : Chip :=
  if o = 232 && c.isLead && c.paired then c.deviceFatal 232 item
  else
    let c := c.journal 3 0 o 0 item 0
    let c := { c with power := { c.power with failed := if c.power.failed.contains o then c.power.failed else c.power.failed ++ [o] } }
    if within 8 56 o then
      (match c.groupOf (o - 8) with
        | some g => if (c.grp g).autoRetire then retireSorter (o - 8) c else c
        | none => c)
    else c

end Sys2Proof.Machine
end

