-- ==== Sys2Proof/Machine/Franking.lean ====
section
/-! DEFINITION. The Franking Unit (R397 to R425, R442): meters, commits and the journal, firmware images, and the FU reset. -/

namespace Sys2Proof.Machine

/-! ### CRC-32 (R302) -/

/-- One bit of the reflected CRC-32 of IEEE 802.3. -/
def crcBit (x : BitVec 32) : BitVec 32 := if x.getLsbD 0 then (x >>> 1) ^^^ 0xEDB88320#32 else x >>> 1

/-- One byte enters the running CRC. -/
def crcByte (x : BitVec 32) (b : Byte) : BitVec 32 :=
  let x := x ^^^ b.setWidth 32
  crcBit (crcBit (crcBit (crcBit (crcBit (crcBit (crcBit (crcBit x)))))))

/-- The CRC-32 of a byte string. -/
def crc32 (l : List Byte) : BitVec 32 := ~~~(l.foldl crcByte 0xFFFFFFFF#32)

/-! ### Access to the state -/

/-- The Franking Unit's state changed by `f`. -/
def Chip.modFu (c : Chip) (f : Franking → Franking) : Chip := { c with fu := f c.fu }

/-- A zero default. -/
def z0 : Nat → Nat := fun _ => 0

def slot0 : Nat → BoxSlot := fun _ => ⟨0, 0, 0, 0, false, 0⟩
def pulse0 : Nat → PulseIn := fun _ => ⟨false, false, 0, 0, false, 0⟩
def out0 : Nat → MeterOut := fun _ => ⟨0, 0, false, 0, false⟩
def seal0 : Nat → KeySlot := fun _ => ⟨[], false, false⟩

def Chip.pulseIn (c : Chip) (i : Nat) : PulseIn := sget pulse0 c.fu.pulse i
def Chip.modPulse (c : Chip) (i : Nat) (f : PulseIn → PulseIn) : Chip := c.modFu fun u => { u with pulse := smod pulse0 u.pulse i f }
def Chip.meterOut (c : Chip) (k : Nat) : MeterOut := sget out0 c.fu.out k
def Chip.modMeterOut (c : Chip) (k : Nat) (f : MeterOut → MeterOut) : Chip := c.modFu fun u => { u with out := smod out0 u.out k f }
def Chip.boxSlot (c : Chip) (s : Nat) : BoxSlot := sget slot0 c.fu.slots s
def Chip.modSlot (c : Chip) (s : Nat) (f : BoxSlot → BoxSlot) : Chip := c.modFu fun u => { u with slots := smod slot0 u.slots s f }

/-- The full postmark from the FU replica. -/
def Chip.fuNow (c : Chip) : Nat := (c.replica (Config.islandOf 62)).toNat

/-- The RTC. -/
def Chip.rtc (c : Chip) : Nat := (c.reg FU_RTC).toNat

/-- The identity public key and the serial as bytes (R410). -/
def identPubBytes : List Byte := (List.range 32).map Config.identPub
def serialBytes : List Byte := leBytes 8 Config.serial.toNat

/-- The digests of the programmed seal slots (R409). -/
def Chip.sealDigests (c : Chip) : List (List Byte) :=
  (List.range 2).filterMap fun k => let s := sget seal0 c.fu.seals k; if s.programmed then some s.digest else none

/-- No seal slot is programmed (R409). -/
def Chip.unenrolled (c : Chip) : Bool := c.sealDigests == []

/-- An item is issued on a stream of the paired link: its sequence number is used (R468). -/
def Chip.zowSend (c : Chip) (stream : Nat) : Chip :=
  if c.paired then { c with zow := { c.zow with sent := smod z0 c.zow.sent stream fun n => (n + 1) % 2 ^ 32 } } else c

/-! ### Status (R432, POBOX_STATUS) -/

/-- COMMIT is refused with HOLD (R432). -/
def Chip.commitHeld (c : Chip) : Bool :=
  c.fu.noticeBad != [] || Nat.ble 768 c.fu.unarchived || c.fu.recovery || c.fu.rom

/-- POBOX_STATUS as it reads. -/
def fuStatus (c : Chip) : Word :=
  let b (x : Bool) (n : Nat) : Nat := x.toNat * 2 ^ n
  Word.of (b (c.fu.vdd && c.fu.ready) 0 + b c.fu.sealed 1 + 4 * c.fu.role + b c.fu.stale 4 + b (c.fu.noticeBad != []) 5
    + b c.fu.storeFault 6 + b c.fu.recovery 7 + b c.commitHeld 8 + b (c.fb FU_RTC_STAT_VALID) 9
    + b (c.fu.pulse.any fun p => p.2.jam) 10 + b (c.fu.out.any fun p => p.2.fault) 11 + b c.fu.rom 12)

/-- An act of the Franking Unit: a change of POBOX_STATUS sets STATUS_CHG. -/
def fuDo (f : Chip → Chip) (c : Chip) : Chip :=
  let d := f c
  if fuStatus d = fuStatus c then d else d.flag POBOX_EVT_STATUS_CHG

/-! ### Definitions (R413 to R415) -/

/-- A byte of the profile block in force: that of the image, or in ROM mode the keep bank's copy (R408). -/
def Chip.blockByte (c : Chip) (off : Nat) : Nat :=
  if c.fu.rom then (c.fu.block.getD off 0).toNat
  else c.le (0x1D10000000 + c.fu.defs + 0x40 + 0x1000 * c.fu.profile + off) 1

/-- `n` bytes of the profile block as a number. -/
def Chip.blockNum (c : Chip) (off n : Nat) : Nat := (List.range n).foldr (fun i a => c.blockByte (off + i) + 256 * a) 0

/-- Word `w` of the definition entry of meter `m`. -/
def Chip.defWord (c : Chip) (m w : Nat) : Nat := if within 16 128 m then c.blockNum (32 * (m - 16) + 4 * w) 4 else 0

/-- KIND of meter `m` (R414): 0 undefined, 1 cumulative, 2 balance. -/
def Chip.meterKind (c : Chip) (m : Nat) : Nat := let k := nbits (c.defWord m 0) 1 0; if k = 3 then 0 else k
def Chip.meterRoll (c : Chip) (m : Nat) : Bool := nbits (c.defWord m 0) 2 2 == 1
def Chip.meterLimit (c : Chip) (m : Nat) : Nat := c.defWord m 2 + c.defWord m 3 * 2 ^ 32

/-- The value of a meter. -/
def Chip.meter (c : Chip) (m : Nat) : Nat := sget z0 c.fu.copyA.val m

/-- A meter's value after a change of `d` (R414): a cumulative meter with ROLL wraps modulo LIMIT + 1. -/
def Chip.meterPlus (c : Chip) (m v : Nat) (d : Int) : Nat :=
  let k : Nat := if c.meterKind m = 1 && c.meterRoll m then c.meterLimit m + 1 else 2 ^ 64
  (((v : Int) + d) % (k : Int)).toNat

/-! ### Commits (R417 to R420, R442) -/

/-- A copy of the meters after a journal entry (R420, R421): its changes, meter 3 + 1, and its GEN.  An INIT entry sets
meters 16 to 127 to 0 (R430). -/
def Chip.applyEntry (c : Chip) (x : MeterCopy) (e : JEntry) : MeterCopy :=
  let v := if e.cause = 16 then x.val.filter fun p => p.1 < 16 else x.val
  let v := e.changes.foldl (fun t p => smod z0 t p.1 fun n => c.meterPlus p.1 n p.2) v
  ⟨x.valid, e.gen, smod z0 v 3 fun n => (n + 1) % 2 ^ 64⟩

/-- Both copies and the journal take an entry, in the order of R420; a Lead sends it on the mirror stream (R422), but not while its
twin is STALE: live commits resume once the replay has reached its generation (R59). -/
def recordEntry (e : JEntry) (c : Chip) : Chip :=
  let c := c.modFu fun u => { u with
    journal := (e :: u.journal).take 896
    unarchived := min (u.unarchived + 1) 896
    copyA := c.applyEntry u.copyA e
    copyB := c.applyEntry u.copyB e }
  if c.paired && c.fu.role = 1 && !c.fu.stale then (c.modFu fun u => { u with acksDue := u.acksDue ++ [e.gen] }).zowSend 3 else c

/-- The next journal entry. -/
def Chip.newEntry (c : Chip) (source cause arg tkey : Nat) (changes : List (Nat × Int)) (data : Nat) (vals : List Nat) :
    JEntry :=
  ⟨(c.fu.copyA.gen + 1) % 2 ^ 32, c.rtc, c.fuNow, tkey, source, cause, arg, changes, data, vals⟩

/-- A commit that changes only meter 3. -/
def recordOnly (source cause arg data : Nat) (c : Chip) : Chip := recordEntry (c.newEntry source cause arg 0 [] data []) c

/-- An increase of meter `m` drives its output (R442): pending count, remainder, and PEND_OVF where the count would pass
2^32 − 1. -/
def driveOutput (m : Nat) (d : Int) (c : Chip) : Chip :=
  let w := c.defWord m 0
  if d ≤ 0 || nbits w 11 11 = 0 then c
  else
    let k := nbits w 10 8
    let dv := max 1 (nbits w 31 16)
    let acc := (c.meterOut k).rest + d.toNat
    let n := (c.meterOut k).pending + acc / dv
    let c := c.modMeterOut k fun x => { x with pending := min n (2 ^ 32 - 1), rest := acc % dv }
    if 2 ^ 32 ≤ n && c.fu.role != 2 then recordOnly 3 9 k 0 c else c

/-- A commit (R417, R420, R442). -/
def fuCommit (source cause arg tkey : Nat) (changes : List (Nat × Int)) (data : Nat) (vals : List Nat) (c : Chip) : Chip :=
  let c := recordEntry (c.newEntry source cause arg tkey changes data vals) c
  forAll changes (fun p c => driveOutput p.1 p.2 c) c

/-- The commit of an event, with the RTC value and postmark of one that was latched before (R419, R447). -/
def commitEvent (e : FuEv) (c : Chip) : Chip :=
  match e.time with
  | none => fuCommit e.source e.cause e.arg 0 e.changes e.data [] c
  | some (rtc, pm) =>
    let c := recordEntry { c.newEntry e.source e.cause e.arg 0 e.changes e.data [] with rtc := rtc, postmark := pm } c
    forAll e.changes (fun p c => driveOutput p.1 p.2 c) c

/-- An event of the unit: the Mirror sends it to the Lead, which commits it (R422), and keeps it until the Lead acknowledges it (R58); a
demoted unit commits nothing (R484). -/
def fuEventOf (e : FuEv) (c : Chip) : Chip :=
  if c.fu.role = 2 then (c.modFu fun u => { u with eventsOut := u.eventsOut ++ [e] }).zowSend 3
  else if c.fu.demoted then c
  else commitEvent e c

/-- An event that happens now. -/
def fuEvent (source cause arg : Nat) (changes : List (Nat × Int)) (data : Nat) (c : Chip) : Chip :=
  fuEventOf ⟨source, cause, arg, changes, data, none⟩ c

/-- The events of the Mirror are committed by the Lead, in their order (R422). -/
def commitEvents (l : List FuEv) (c : Chip) : Chip :=
  forAll l (fun e c => if c.fu.demoted then c else commitEvent e c) c

/-- A unit that has become Lead issues the events again that the failed Lead never acknowledged (R58). -/
def issueEvents (c : Chip) : Chip := commitEvents c.fu.eventsOut (c.modFu fun u => { u with eventsOut := [] })

/-- Generation `a` is after generation `b`; none where they are not comparable (R418). -/
def genAfter (a b : Nat) : Option Bool :=
  let d := (a + 2 ^ 32 - b % 2 ^ 32) % 2 ^ 32
  if d = 2 ^ 31 then none else some (decide (0 < d && d < 2 ^ 31))

/-! ### Images (R405 to R409, R413, R415) -/

/-- `n` bytes of the external store at `a`. -/
def Chip.storeBytes (c : Chip) (a n : Nat) : List Byte := (List.range n).map fun i => sget (fun _ => (0 : Byte)) c.fu.store (a + i)

/-- The store address of firmware slot `k` (R450). -/
def fwSlot (k : Nat) : Nat := 0x1000 + 0x40000 * k

/-- A number of `n` bytes at `off` of a byte string. -/
def numAt (l : List Byte) (off n : Nat) : Nat := leNat ((l.drop off).take n)

/-- A segment of a manifest: kind, offset, length, load offset, digest. -/
structure Seg where
  kind : Nat
  off : Nat
  len : Nat
  load : Nat
  digest : List Byte
  deriving DecidableEq, Repr

/-- The segments of a manifest (R405). -/
def segments (m : List Byte) : List Seg :=
  (List.range (min 8 (numAt m 8 4))).map fun s =>
    let b := 0x10 + 80 * s
    ⟨numAt m b 4, numAt m (b + 4) 4, numAt m (b + 8) 4, numAt m (b + 12) 4, (m.drop (b + 16)).take 64⟩

/-- A pulse-input entry within its ranges (R415). -/
def pulseEntryOk (b : List Byte) (off : Nat) : Bool :=
  let w0 := numAt b off 4
  let w1 := numAt b (off + 4) 4
  let w2 := numAt b (off + 8) 4
  let m (x : Nat) := x == 0 || (within 16 128 x && within 1 3 (nbits (numAt b (32 * (x - 16)) 4) 1 0))
  within 1 51 (nbits w0 6 1) && nbits w0 7 7 == 0 && nbits w0 31 23 == 0 && m (nbits w0 14 8) && m (nbits w0 22 16)
    && within 1 1001 (nbits w1 15 0) && within 1 1001 (nbits w1 31 16) && Nat.blt (nbits w1 15 0) (nbits w1 31 16)
    && within 1 1001 (nbits w2 15 0) && within 10 10001 (nbits w2 31 16)

/-- A profile block within its ranges (R415). -/
def blockOk (b : List Byte) : Bool :=
  ((List.range 8).all fun i => pulseEntryOk b (0xE00 + 16 * i))
    && ((List.range 8).all fun k => within 10 501 (numAt b (0xE80 + 4 * k) 2) && within 10 501 (numAt b (0xE82 + 4 * k) 2))
    && (b.drop 0xEA0).all (· == 0)
    && ((List.range 112).all fun m => (((b.drop (32 * m + 16)).take 16).all (· == 0)))

/-- Two profiles that both define meter entry `m` define it alike (R413). -/
def alike (p q : List Byte) (m : Nat) : Bool :=
  let d (b : List Byte) := within 1 3 (nbits (numAt b (32 * m) 4) 1 0)
  !(d p && d q) || (p.drop (32 * m)).take 32 == (q.drop (32 * m)).take 32

/-- A definitions segment that meets R413 and R415. -/
def definitionsOk (d : List Byte) : Bool :=
  let blk (p : Nat) := (d.drop (0x40 + 0x1000 * p)).take 0x1000
  d.length == 32832 && numAt d 0 4 == 1 && within 10 1001 (numAt d 4 4) && within 5 101 (numAt d 8 4)
    && ((d.drop 12).take 52).all (· == 0)
    && ((List.range 8).all fun p => blockOk (blk p))
    && ((List.range 8).all fun p => (List.range p).all fun q => (List.range 112).all fun m => alike (blk p) (blk q) m)

/-- The bytes of a segment of the image in slot `k`. -/
def Chip.segBytes (c : Chip) (k : Nat) (s : Seg) : List Byte := c.storeBytes (fwSlot k + s.off) s.len

/-- A segment lies within its slot and its load area, and matches its digest (R406 condition 4). -/
def Chip.segOk (c : Chip) (k : Nat) (s : Seg) : Bool :=
  within 1 4 s.kind && Nat.ble (s.off + s.len) 0x40000 && Nat.ble (s.load + s.len) (if s.kind = 3 then 0x40000 else 0x30000)
    && Config.sha512 (c.segBytes k s) == s.digest

/-- The manifest of slot `k`. -/
def Chip.manifestOf (c : Chip) (k : Nat) : List Byte := c.storeBytes (fwSlot k) 0x2F0

/-- The image in slot `k` passes R406 with the digests given standing for the seal slots. -/
def Chip.imageOk (c : Chip) (digests : List (List Byte)) (k : Nat) : Bool :=
  let m := c.manifestOf k
  let signer := (m.drop 0x290).take 32
  let segs := segments m
  c.fu.storeOk && numAt m 0 4 == 1 && within 1 9 (numAt m 8 4) && digests.contains (Config.sha512 signer)
    && Config.ed25519Verify signer (m.take 0x2B0) (m.drop 0x2B0)
    && Nat.ble c.fu.minVersion (numAt m 4 4)
    && segs.all (c.segOk k)
    && (segs.any fun s => s.kind == 2 && definitionsOk (c.segBytes k s))
    && (segs.any fun s => s.kind == 3 && Config.hasSealOpen (c.segBytes k s))

/-- Load a segment (R405). -/
def loadSeg (k : Nat) (s : Seg) (c : Chip) : Chip :=
  let d := c.segBytes k s
  if s.kind = 3 then c.storeChunks .notice d.length (0x1D20000000 + s.load) d
  else
    let c := c.storeChunks .fuSram d.length (0x1D10000000 + s.load) d
    if s.kind = 2 then c.modFu fun u => { u with defs := s.load } else c

/-- The image in slot `k` runs: loaded, its manifest and profile block kept (R405, R407, R408, R413). -/
def runImage (k : Nat) (c : Chip) : Chip :=
  let m := c.manifestOf k
  let c := forAll (segments m) (loadSeg k) c
  let c := c.modFu fun u => { u with
    rom := false
    slot := k
    minVersion := max u.minVersion (numAt m 4 4)
    manifest := Config.sha512 m
    profile := c.f SYS_PROFILE_CUR }
  let c := c.modFu fun u => { u with block := (List.range 4096).map fun i => BitVec.ofNat 8 (c.blockByte i) }
  c.setF FU_WDT_PERIOD_MS (c.le (0x1D10000000 + c.fu.defs + 4) 2)

/-- ROM mode (R408): the profile block in force is the keep bank's copy. -/
def romMode (c : Chip) : Chip := c.modFu fun u => { u with rom := true, manifest := [] }

/-! ### Pulses that are counted (R438 to R440) -/

/-- An input that ROM mode counts without a block (R408). -/
def Chip.noBlock (c : Chip) : Bool := c.fu.rom && c.fu.block == []

/-- Word `w` of the pulse-input entry of input `i`, with the defaults of R408. -/
def Chip.pulseWord (c : Chip) (i w : Nat) : Nat :=
  if c.noBlock then (match w with | 0 => 10 * 2 | 1 => 10 + 1000 * 65536 | 2 => 10 + 1000 * 65536 | _ => 0)
  else c.blockNum (0xE00 + 16 * i + 4 * w) 4

/-- The meters of input `i`. -/
def Chip.meterA (c : Chip) (i : Nat) : Nat := nbits (c.pulseWord i 0) 14 8
def Chip.meterB (c : Chip) (i : Nat) : Nat := nbits (c.pulseWord i 0) 22 16

/-- Input `i` is counted (R438). -/
def Chip.pulseCounted (c : Chip) (i : Nat) : Bool := c.noBlock || c.meterA i != 0 || c.meterB i != 0

/-- Input `i` jams (R439, R440): JAM is journaled and counting stops. -/
def jamInput (i : Nat) (c : Chip) : Chip := fuEvent 1 6 i [] 0 (c.modPulse i fun x => { x with jam := true })

/-- The meters of input `i` with their weights (R438). -/
def Chip.pulseWeights (c : Chip) (i : Nat) : List (Nat × Nat) :=
  let w := c.pulseWord i 3
  [(c.meterA i, nbits w 15 0), (c.meterB i, nbits w 31 16)].filter fun p => p.1 != 0

/-- The meter changes that the counted pulses of input `i` make (R440). -/
def Chip.pulseChanges (c : Chip) (i : Nat) : List (Nat × Int) :=
  let n := (c.pulseIn i).counted
  (c.pulseWeights i).map fun p => (p.1, ((n * p.2 : Nat) : Int))

/-- LIMIT or SIGN would refuse a change (R416, R440). -/
def Chip.pulseBad (c : Chip) (p : Nat × Int) : Bool :=
  let n : Int := (c.meter p.1 : Int) + p.2
  (c.meterKind p.1 = 2 || !c.meterRoll p.1) && decide ((c.meterLimit p.1 : Int) < n)

/-- LIMIT or SIGN would refuse one of `ch`, made in their order after the changes `acc` (R416, R440). -/
def Chip.pulsesRefused (c : Chip) : List (Nat × Int) → List (Nat × Int) → Bool
  | _, [] => false
  | acc, p :: t => c.pulseBad (p.1, p.2 + ((acc.filter fun q => q.1 == p.1).map (·.2)).sum) || c.pulsesRefused (acc ++ [p]) t

/-- The pulses of the inputs in ascending order, at most 4 changes a commit; `acc` are the changes that wait, with the
first input they come from. -/
def commitPulses : List Nat → Nat → List (Nat × Int) → Chip → Chip
  | [], i0, acc, c => if acc = [] then c else fuCommit 1 0 i0 0 acc 0 [] c
  | i :: t, i0, acc, c =>
    if (c.pulseIn i).counted = 0 then commitPulses t i0 acc c
    else
      let ch := c.pulseChanges i
      let full := Nat.blt 4 (acc.length + ch.length)
      let c := if full then fuCommit 1 0 i0 0 acc 0 [] c else c
      let (i0, acc) := if full || acc = [] then (i, []) else (i0, acc)
      if c.pulsesRefused acc ch then
        let c := if acc = [] then c else fuCommit 1 0 i0 0 acc 0 [] c
        commitPulses t i [] (jamInput i (c.modPulse i fun x => { x with counted := 0 }))
      else commitPulses t i0 (acc ++ ch) (c.modPulse i fun x => { x with counted := 0 })

/-! ### The FU reset (R402, R406, R421, R435, R444, R447 to R449) -/

/-- The keep bank is invalid (R449). -/
def Chip.keepInvalid (c : Chip) : Bool :=
  (!c.fu.copyA.valid && !c.fu.copyB.valid && c.fu.journal == []) || (c.f FU_TAMPER_TRIP).testBit 1

/-- Journal entries after a copy's GEN, oldest first. -/
def entriesAfter (gen : Nat) (j : List JEntry) : List JEntry := (j.filter fun e => genAfter e.gen gen == some true).reverse

/-- The meters rebuilt (R421): the valid copy of the later GEN, or copy A, takes every entry after it; both are rewritten. -/
def rebuild (c : Chip) : Chip :=
  let a := c.fu.copyA
  let b := c.fu.copyB
  let x := if a.valid && b.valid then (if genAfter b.gen a.gen == some true then b else a) else if b.valid then b else a
  let x := (entriesAfter x.gen c.fu.journal).foldl c.applyEntry { x with valid := true }
  c.modFu fun u => { u with copyA := x, copyB := x }

/-- The entries of an archive, newest first, that were not superseded by a later one (R490), oldest first. -/
def liveEntries (l : List JEntry) : List JEntry :=
  l.foldl (fun acc e => match acc with
    | [] => [e]
    | x :: _ => if genAfter x.gen e.gen == some true then e :: acc else acc) []

/-- The archive's entries from its checkpoint on. -/
def Chip.sinceCheckpoint (c : Chip) : List JEntry := liveEntries (c.fu.archive.take (c.fu.archive.length - c.fu.archiveOld))

/-- The meters rebuilt from the archive's checkpoint and entries after the keep bank is lost (R449). -/
def recover (c : Chip) : Chip :=
  let ok := c.fu.storeOk && (c.fu.archiveBase.valid || c.sinceCheckpoint != [])
  let x := c.sinceCheckpoint.foldl c.applyEntry (if c.fu.archiveBase.valid then c.fu.archiveBase else ⟨true, 0, []⟩)
  let c := c.modFu fun u => { u with
    copyA := if ok then x else ⟨true, 0, []⟩
    copyB := if ok then x else ⟨true, 0, []⟩
    journal := []
    unarchived := 0
    recovery := true
    recoveryHard := !ok }
  fuEvent 3 12 0 [] 0 c

/-- The ROM chooses what runs (R406): the active slot, the other, with the answer true, or ROM mode. -/
def chooseImage (c : Chip) : Bool × Chip :=
  let k := c.fu.slot
  if c.imageOk c.sealDigests k then (false, runImage k c)
  else if c.imageOk c.sealDigests (1 - k) then (true, runImage (1 - k) c)
  else (false, romMode c)

/-- The shadow count of input `i` joins its counted pulses. -/
def takeShadow (i : Nat) (c : Chip) : Chip :=
  c.modPulse i fun x =>
    let n : Int := (x.counted : Int) + x.shadow
    { x with counted := n.toNat, shadow := min n 0 }

/-- The shadow counts are committed as R440 commits pulses: by the first image that runs (R408), and by a new Lead (R425).
While 896 entries wait for the archive they wait (R450). -/
def commitShadows (c : Chip) : Chip :=
  if c.fu.rom || c.fu.role = 2 then c
  else
    let c := forAll (List.range 8) takeShadow c
    if Nat.blt c.fu.unarchived 896 then commitPulses (List.range 8) 0 [] c else c

/-- A unit that becomes Mirror counts what it has not committed in its shadow counts (R425). -/
def giveShadows (c : Chip) : Chip :=
  forAll (List.range 8) (fun i c => c.modPulse i fun x => { x with counted := 0, shadow := x.shadow + x.counted }) c

/-- A door opening can be committed now; otherwise it waits (R450, R484). -/
def Chip.mayCommitDoor (c : Chip) : Bool := Nat.blt c.fu.unarchived 896 && !c.fu.demoted

/-- The oldest opening that waits is committed. -/
def commitDoor (c : Chip) : Chip :=
  match c.fu.doors with
  | [] => c
  | d :: t => if c.mayCommitDoor then fuEventOf ⟨2, 0, d.1, [(2, 1)], 0, some d.2⟩ (c.modFu fun u => { u with doors := t }) else c

/-- The door openings that wait are committed in order, then the overflow count as one change (R447). -/
def commitDoors (c : Chip) : Chip :=
  let c := forAll (List.range 16) (fun _ => commitDoor) c
  let n := c.fu.doorOvf
  if n != 0 && c.fu.doors == [] && c.mayCommitDoor then
    fuEventOf ⟨2, 0, 0, [(2, n)], 0, some (c.rtc, 0)⟩ (c.modFu fun u => { u with doorOvf := 0 })
  else c

/-- Output pulses that are interrupted (R444); a Mirror sends none (R425). -/
def interruptPulses (c : Chip) : Chip :=
  if c.fu.role = 2 then c
  else forAll (List.range 8) (fun k c =>
    if (c.meterOut k).active then
      fuEvent 3 10 k [] 0 (c.modMeterOut k fun x => { x with active := false, phase := 0 })
    else c) c

/-- The session's FU level ends (R606). -/
def endFuLevel (c : Chip) : Chip := c.setF DBG_STATUS_LEVEL (c.f DBG_STATUS_LEVEL % 4)

/-- The word `w` of PO Box slot `s` at the FU end. -/
def Chip.boxWord (c : Chip) (s w : Nat) : Nat := c.le (0x1D30000000 + 64 * s + 4 * w) 4

/-- TKEY of the request in slot `s` (R429). -/
def Chip.tkey (c : Chip) (s : Nat) : Nat := c.boxWord s 1 + c.boxWord s 2 * 2 ^ 32

/-- The bit of POBOX_DONE for slot `s` set. -/
def Chip.doneBit (c : Chip) (s : Nat) : Chip :=
  if s < 32 then c.setRegBit POBOX_DONE_LO s true else if s < 63 then c.setRegBit POBOX_DONE_HI (s - 32) true else c

/-- The receipt of slot `s` (R431, R435): its words replace the request, the slot becomes RECEIPT, or FREE where a reset
discards it. -/
def putReceipt (s : Nat) (words : List Nat) (c : Chip) : Chip :=
  let c := (c.modSlot s fun x => if x.discard then ⟨0, 0, 0, 0, false, 0⟩ else { x with state := 4, abort := 0 })
  if (c.boxSlot s).state = 4 then
    (c.setBytes (0x1D30000000 + 64 * s) ((List.range 16).flatMap fun i => leBytes 4 (words.getD i 0))).doneBit s
  else c

/-- The words of a receipt (R431). -/
def receiptWords (status op : Nat) (dup late : Bool) (gen pm tkey : Nat) (data : List Nat) : List Nat :=
  [status + 256 * op + 65536 * dup.toNat + 131072 * late.toNat, gen, pm % 2 ^ 32, pm / 2 ^ 32, tkey % 2 ^ 32, tkey / 2 ^ 32] ++ data

/-- Words of a list of 64-bit values. -/
def words64 (l : List Nat) : List Nat := l.flatMap fun v => [v % 2 ^ 32, v / 2 ^ 32 % 2 ^ 32]

/-- A BUSY slot at an FU reset is completed from the journal (R435): DONE if its commit is found, else RESTART. -/
def finishBusy (c : Chip) : Chip :=
  forAll (List.range 64) (fun s c =>
    if (c.boxSlot s).state = 3 then
      let t := c.tkey s
      match c.fu.journal.find? (fun e => t != 0 && e.tkey == t) with
      | some e => putReceipt s (receiptWords 0 2 false false e.gen e.postmark t (words64 e.vals)) c
      | none => putReceipt s (receiptWords 0x0C (c.boxWord s 0 % 256) false false c.fu.copyA.gen c.fuNow t []) c
    else c) c

/-- Why an FU reset happens (R402). -/
inductive FuCause | vdd | watchdog | tamper | activate
  deriving DecidableEq, Repr

/-- The FU reset: registers and core, the keep bank, the image, and what the recovery commits. -/
def fuReset (why : FuCause) (c : Chip) : Chip :=
  let c := c.resetBlock 128 0x1A
  let c := c.setCore 62 (Core.reset 62)
  let c := endFuLevel c
  let c := c.modFu fun u => { u with ready := false, layout := 0, mirTx := [], mirRx := [], spiRx := [], spiTx := [],
                                     wdtLocked := false, resetAt := c.now, noticeBad := [], noticeHit := [], noticeOk := [],
                                     noticeLost := [], storeFault := !u.storeOk }
  let c := forAll (List.range 8) (fun i c => c.modPulse i fun x => { x with active := false, fast := false }) c
  let (fallback, c) := chooseImage c
  let c := if c.keepInvalid then recover c else rebuild c
  let c := if fallback then fuEvent 3 2 0 [] 0 c else c
  let c := if c.fu.block == [] && c.fu.rom then c else commitShadows c
  let c := match why with
    | .vdd => fuEvent 3 0 0 [(1, 1)] 0 c
    | .watchdog => fuEvent 3 1 0 [] 0 c
    | .tamper | .activate => c
  let kept := if why = .tamper then none else some (c.rtc, 0)
  let c := forAll (List.range 3) (fun n c => if (c.f FU_TAMPER_TRIP).testBit n then fuEventOf ⟨3, 4, n, [], 0, kept⟩ c else c) c
  let c := c.setF FU_TAMPER_TRIP 0
  let c := commitDoors c
  let c := interruptPulses c
  let c := finishBusy c
  let c := if c.fu.rom then c else forAll (List.range 4) (fun o c => c.setF (FU_NOTICE_CTL_FAULT o) 0) c
  c.modFu fun u => { u with ready := true }

end Sys2Proof.Machine
end

