-- ==== Sys2Proof/Machine/PoBox.lean ====
section
/-! DEFINITION. The PO Box (R426 to R437, R568): slots, ownership, service, and the operations of R430. -/

namespace Sys2Proof.Machine

/-! ### The main side's registers (R427, R433, R435) -/

/-- Origins with a POBOX_SEL of their own. -/
def selBanked (o : Nat) : Bool := o < 64 || within 64 96 o || o = 224 || o = 250

/-- POBOX_SEL as origin `o` reads it, and writes it. -/
def readPoboxSel (o : Nat) (c : Chip) : Word := if selBanked o then Word.of (sget z0 c.fu.sel o) else 0
def writePoboxSel (o : Nat) (v : Word) (c : Chip) : Chip :=
  if selBanked o then c.modFu fun u => { u with sel := sset z0 u.sel o (v.bits 5 0) } else c

/-- The slot that origin `o` works on; none where it shows slot 63. -/
def Chip.selected (c : Chip) (o : Nat) : Option Nat :=
  let s := if selBanked o then sget z0 c.fu.sel o else 0
  if s = 63 then none else some s

/-- Ownership is enforced (R427, R456). -/
def Chip.ownerCheck (c : Chip) : Bool := c.xf POBOX_XCFG_OWNER_CHECK 1 != 0

/-- Origin `o` may act on slot `s`. -/
def Chip.ownsSlot (c : Chip) (o s : Nat) : Bool := !c.ownerCheck || ((c.boxSlot s).state != 0 && (c.boxSlot s).owner == o)

/-- A read of POBOX_CLAIM (R427). -/
def readClaimSlot (o : Nat) (peek : Bool) (c : Chip) : Word × Chip :=
  match (List.range 63).find? fun s => (c.boxSlot s).state = 0 with
  | none => (0, c)
  | some s =>
    let w := Word.of (s + 2 ^ 31)
    if peek then (w, c)
    else
      let c := c.modSlot s fun _ => ⟨1, o, 0, 0, false, 0⟩
      (w, if selBanked o then c.modFu fun u => { u with sel := sset z0 u.sel o s } else c)

/-- POBOX_SLOT as it reads. -/
def readPoboxSlot (o : Nat) (c : Chip) : Word :=
  match c.selected o with
  | none => 0
  | some s =>
    let x := c.boxSlot s
    let w := if x.state = 4 then c.boxWord s 0 else 0
    Word.of (x.state + 16 * (if x.state = 0 then 0 else x.owner % 4096) + 65536 * (w % 256) + 2 ^ 24 * nbits w 17 17
      + 2 ^ 25 * nbits w 16 16)

/-- POBOX_DATAk as origin `o` reads it, and writes it. -/
def readPoboxData (o k : Nat) (c : Chip) : Word :=
  match c.selected o with
  | some s => if c.ownsSlot o s then Word.of (c.boxWord s k) else 0
  | none => 0
def writePoboxData (o k : Nat) (v : Word) (c : Chip) : Chip :=
  match c.selected o with
  | none => c
  | some s =>
    if !c.ownsSlot o s then c.flag POBOX_EVT_OWNER_ERR
    else if (c.boxSlot s).state = 1 then c.setBytes (0x1D30000000 + 64 * s + 4 * k) (leBytes 4 v.toNat)
    else c.flag POBOX_EVT_STATE_ERR

/-- The Mirror's slots 0 to 62 wait for the Lead's receipt of their TKEY (R424); one that has arrived is taken. -/
def takeMirrored (s : Nat) (c : Chip) : Chip :=
  if s < 63 && (c.boxSlot s).state = 2 && c.fu.role = 2 then
    match c.fu.receipts.find? fun r => r.1 == c.tkey s with
    | some r => putReceipt s (r.2.map (·.toNat)) (c.modFu fun u => { u with receipts := u.receipts.erase r })
    | none => c
  else c

/-- POST of slot `s` by origin `o` (R427, R428). -/
def postSlot (o s : Nat) (c : Chip) : Chip :=
  if (c.boxSlot s).state = 1 then
    takeMirrored s (c.modSlot s fun x => { x with state := 2, posted := c.stamp o, abort := 0, poster := o })
  else c.flag POBOX_EVT_STATE_ERR

/-- A Lead mirrors its receipts of slots 0 to 62 (R424). -/
def mirrorReceipt (s : Nat) (c : Chip) : Chip := if s < 63 && c.fu.role = 1 then c.zowSend 3 else c

/-- ABORT of slot `s` (R433): of a POSTED slot at once; of a BUSY one it waits to be sampled, before the local commit or,
where `late`, after it. -/
def abortSlot (s : Nat) (late : Bool) (c : Chip) : Chip :=
  match (c.boxSlot s).state with
  | 2 => mirrorReceipt s (putReceipt s (receiptWords 1 (c.boxWord s 0 % 256) false false c.fu.copyA.gen c.fuNow (c.tkey s) []) c)
  | 3 => c.modSlot s fun x => { x with abort := if late then 2 else 1 }
  | _ => c.flag POBOX_EVT_STATE_ERR

/-- RELEASE of slot `s`. -/
def releaseSlot (s : Nat) (c : Chip) : Chip :=
  let st := (c.boxSlot s).state
  if st = 1 || st = 4 then c.modSlot s fun _ => ⟨0, 0, 0, 0, false, 0⟩ else c.flag POBOX_EVT_STATE_ERR

/-- An access of POBOX_CMD by origin `o` under the ownership rule. -/
def poboxCmd (o : Nat) (f : Nat → Chip → Chip) (c : Chip) : Chip :=
  match c.selected o with
  | none => c
  | some s => if c.ownsSlot o s then f s c else c.flag POBOX_EVT_OWNER_ERR

/-- A write of POBOX_CMD: its commands in bit order. -/
def writePoboxCmd (o : Nat) (v : Word) (c : Chip) : Chip :=
  let c := if v.bit 0 then poboxCmd o (postSlot o) c else c
  let c := if v.bit 1 then poboxCmd o (fun s => abortSlot s false) c else c
  if v.bit 2 then poboxCmd o releaseSlot c else c

/-- A write of POBOX_XFORCE. -/
def writeXforce (v : Word) (c : Chip) : Chip :=
  if !v.bit 31 then c
  else
    let s := v.bits 5 0
    let st := (c.boxSlot s).state
    if s < 63 && (st = 1 || st = 4) then c.modSlot s fun _ => ⟨0, 0, 0, 0, false, 0⟩ else c.flag POBOX_EVT_STATE_ERR

/-- The seal is broken, as the SL fields see it (R5, R412). -/
def Chip.sealBroken (c : Chip) : Bool := !c.fu.sealed

/-- A write of POBOX_XINJ (R454): SL fields, which an intact seal refuses (R5). -/
def writeXinj (v : Word) (c : Chip) : Chip :=
  if c.sealBroken then c.setF POBOX_XINJ_NOTICE_INJ (v.bits 3 0) else c

/-- The slots at a main-side reset of class P, M, H, W, S or T (R435). -/
def slotsReset (c : Chip) : Chip :=
  forAll (List.range 63) (fun s c => c.modSlot s fun x => if x.state = 3 then { x with discard := true } else ⟨0, 0, 0, 0, false, 0⟩) c

/-- The POBOX part of chip commands that a master issues, while its block answers. -/
def poboxUp (c : Chip) : Bool := c.mainRuns

/-- POBOX_CLAIM_READ (R427): origin `o` reads POBOX_CLAIM. -/
def execPoboxClaimRead (o : Fin 256) (peek : Bool) (s : State) : Out :=
  s.go fun c =>
    if poboxUp c then
      let (w, c) := readClaimSlot o peek c
      { c with answer := sset (fun _ => .none) c.answer o (.data w) }
    else c

/-- POBOX_POST (R427). -/
def execPoboxPost (o : Fin 256) (s : State) : Out := s.go fun c => if poboxUp c then poboxCmd o (postSlot o) c else c

/-- POBOX_ABORT (R433): `late` tells that the local commit, or the receipt write, of a BUSY slot came first. -/
def execPoboxAbort (o : Fin 256) (late : Bool) (s : State) : Out :=
  s.go fun c => if poboxUp c then poboxCmd o (fun n => abortSlot n late) c else c

/-- POBOX_RELEASE (R427). -/
def execPoboxRelease (o : Fin 256) (s : State) : Out := s.go fun c => if poboxUp c then poboxCmd o releaseSlot c else c

/-- POBOX_XFORCE (R427). -/
def execPoboxXforce (v : Word) (s : State) : Out := s.go fun c => if poboxUp c && c.expert 0x16 then writeXforce v c else c

/-- POBOX_XINJ (R454). -/
def execPoboxXinj (v : Word) (s : State) : Out := s.go fun c => if poboxUp c && c.expert 0x16 then writeXinj v c else c

/-! ### Service (R428, R436) -/

/-- The unit serves requests. -/
def Chip.fuServes (c : Chip) : Bool := c.fu.vdd && c.fu.ready && !c.fu.demoted && !(c.core 62).dbg.halted

/-- Slot `a` is served before slot `b` (R428). -/
def servedBefore (a b : Nat × BoxSlot) : Bool :=
  Nat.blt a.2.posted b.2.posted || (a.2.posted == b.2.posted && (Nat.blt a.2.poster b.2.poster ||
    (a.2.poster == b.2.poster && Nat.blt a.1 b.1)))

/-- The first of a list of slots in the order of service. -/
def firstPosted : List (Nat × BoxSlot) → Option (Nat × BoxSlot)
  | [] => none
  | p :: t => match firstPosted t with
    | none => some p
    | some q => if servedBefore q p then some q else some p

/-- The slot to serve next: the Mirror and a handover hold slots 0 to 62 (R424, R488). -/
def Chip.nextPosted (c : Chip) : Option Nat :=
  (firstPosted (c.fu.slots.filter fun p => p.2.state == 2 && (p.1 == 63 || (c.fu.role != 2 && !c.fu.holdRequests)))).map (·.1)

/-- The slot being served. -/
def Chip.busySlot (c : Chip) : Option Nat := (c.fu.slots.find? fun p => p.2.state == 3).map (·.1)

/-- A receipt of the operation of slot `s`: a Lead mirrors those of slots 0 to 62 (R424). -/
def answerSlot (s status : Nat) (dup : Bool) (gen pm : Nat) (data : List Nat) (c : Chip) : Chip :=
  let late := (c.boxSlot s).abort = 2 && status = 0
  let w := receiptWords status (c.boxWord s 0 % 256) dup late gen pm (c.tkey s) data
  mirrorReceipt s (putReceipt s w c)

/-- A receipt of a request that commits nothing. -/
def answerPlain (s status : Nat) (data : List Nat) (c : Chip) : Chip := answerSlot s status false c.fu.copyA.gen c.fuNow data c

/-- A receipt of the latest commit. -/
def answerCommit (s : Nat) (data : List Nat) (c : Chip) : Chip := answerSlot s 0 false c.fu.copyA.gen c.fuNow data c

/-- Operation `op` of R430 is known. -/
def opKnown (op : Nat) : Bool := within 1 0x11 op

/-- The status with which operation `op` is refused in slot `s`, before its operands are looked at (R408, R430). -/
def Chip.opRefused (c : Chip) (op s : Nat) : Option Nat :=
  let any := [1, 3, 4, 5, 6].contains op
  let low := [2, 9].contains op
  if !(any || (low && s < 63) || (!any && !low && s == 63)) then some 0x02
  else if c.fu.rom && !any && !(s == 63 && [7, 8, 0x0A, 0x0B, 0x0C].contains op) then some 0x0A
  else none

/-- The request being served, where its operation is `op`: an ABORT sampled in time, a refusal, or the operation. -/
def serveOp (op : Nat) (body : Nat → Chip → Chip) (c : Chip) : Chip :=
  match c.busySlot with
  | none => c
  | some s =>
    if c.boxWord s 0 % 256 != op || !c.fuServes then c
    else fuDo (fun c =>
      if (c.boxSlot s).abort = 1 then answerPlain s 1 [] c
      else match c.opRefused op s with
        | some st => answerPlain s st [] c
        | none => body s c) c

/-- POBOX_SERVE (R428): the posted slot that comes first becomes BUSY; one whose operation does not exist is refused. -/
def execPoboxServe (s : State) : Out :=
  s.go fun c =>
    if c.fuServes && c.busySlot.isNone then
      match c.nextPosted with
      | none => c
      | some n =>
        let c := c.modSlot n fun x => { x with state := 3 }
        if opKnown (c.boxWord n 0 % 256) then c else fuDo (answerPlain n 2 []) c
    else c

/-! ### READ, COMMIT, reports, IDENT, TIME -/

/-- READ: the values of up to five meters. -/
def opRead (s : Nat) (c : Chip) : Chip :=
  let n := c.boxWord s 3
  let ms := (List.range n).map fun i => c.boxWord s (4 + i)
  if !within 1 6 n || ms.any (fun m => Nat.ble 128 m) then answerPlain s 2 [] c
  else answerPlain s 0 (words64 (ms.map c.meter)) c

/-- READ (R430). -/
def execRead (s : State) : Out := s.go fun c => serveOp 1 opRead c

/-- One change of a COMMIT on running values (R416): the status of a refusal, or the values with it applied. -/
def Chip.checkChange (c : Chip) (t : Sparse Nat) (m : Nat) (d : Int) : Except Nat (Sparse Nat) :=
  let v := sget z0 t m
  let k := c.meterKind m
  let step := c.defWord m 1
  let n : Int := (v : Int) + d
  if m < 16 || Nat.ble 128 m || k = 0 || nbits (c.defWord m 0) 6 6 = 0 then .error 3
  else if step != 0 && Nat.blt step d.natAbs then .error 6
  else if (k = 1 && decide (d < 0)) || (k = 2 && decide (n < 0)) then .error 5
  else if (k = 2 || !c.meterRoll m) && decide ((c.meterLimit m : Int) < n) then .error 4
  else .ok (sset z0 t m (c.meterPlus m v d))

/-- All changes of a COMMIT in request order. -/
def Chip.checkChanges (c : Chip) : List (Nat × Int) → Sparse Nat → Except Nat (Sparse Nat)
  | [], t => .ok t
  | (m, d) :: l, t =>
    match c.checkChange t m d with
    | .error e => .error e
    | .ok t => c.checkChanges l t

/-- COMMIT (R416, R429, R432, R434): a duplicate, a refusal, or one commit of every change. -/
def opCommit (s : Nat) (c : Chip) : Chip :=
  let n := c.boxWord s 3
  let t := c.tkey s
  let ch := (List.range n).map fun i => (c.boxWord s (4 + 2 * i), sextInt 32 (c.boxWord s (5 + 2 * i)))
  if t = 0 || !within 1 5 n then answerPlain s 2 [] c
  else match c.fu.journal.find? fun e => e.tkey == t with
    | some e => answerSlot s 0 true e.gen e.postmark (words64 e.vals) c
    | none =>
      if c.commitHeld then answerPlain s 0x0A [] c
      else if !c.fu.sealed then answerPlain s 7 [] c
      else match c.checkChanges ch c.fu.copyA.val with
        | .error e => answerPlain s e [] c
        | .ok v =>
          let vals := ch.map fun p => sget z0 v p.1
          answerCommit s (words64 vals) (fuCommit 0 0 s t ch 0 vals c)

/-- COMMIT (R416, R417, R420, R428 to R434). -/
def execCommit (s : State) : Out := s.go fun c => serveOp 2 opCommit c

/-- The bytes of a report but its signature (R437). -/
def Chip.reportBody (c : Chip) (nonce : List Byte) : List Byte :=
  leBytes 4 1 ++ leBytes 4 (c.fu.sealed.toNat + 2 * c.fu.stale.toNat + 4 * c.fu.role + 16 * c.fu.recovery.toNat)
    ++ leBytes 4 (c.reg SYS_ID).toNat ++ leBytes 4 (c.f SYS_PROFILE_CUR) ++ identPubBytes ++ nonce
    ++ leBytes 4 c.fu.copyA.gen ++ leBytes 4 c.rtc ++ leBytes 8 c.fuNow
    ++ (if c.fu.rom then leBytes 64 0 else c.fu.manifest) ++ (List.range 128).flatMap fun m => leBytes 8 (c.meter m)

/-- REPORT: the snapshot, signed, kept as one of the four most recent. -/
def opReport (s : Nat) (c : Chip) : Chip :=
  let nonce := (List.range 8).flatMap fun i => leBytes 4 (c.boxWord s (4 + i))
  let body := c.reportBody nonce
  let n := c.fu.nextReport
  let c := c.modFu fun u => { u with
    reports := ((n, body ++ Config.ed25519Sign body) :: u.reports.filter fun r => r.1 != n).take 4
    nextReport := (n + 1) % 4 }
  answerPlain s 0 [n, 1248] c

/-- REPORT (R437). -/
def execReport (s : State) : Out := s.go fun c => serveOp 3 opReport c

/-- REPORT_READ: one chunk of 40 bytes, or GONE. -/
def opReportRead (s : Nat) (c : Chip) : Chip :=
  let n := c.boxWord s 3
  let k := c.boxWord s 4
  if Nat.ble 4 n || Nat.ble 32 k then answerPlain s 2 [] c
  else match c.fu.reports.find? fun r => r.1 == n with
    | none => answerPlain s 0x0B [] c
    | some r => answerPlain s 0 ((List.range 10).map fun i => numAt r.2 (40 * k + 4 * i) 4) c

/-- REPORT_READ (R430, R432). -/
def execReportRead (s : State) : Out := s.go fun c => serveOp 4 opReportRead c

/-- IDENT (R410). -/
def opIdent (s : Nat) (c : Chip) : Chip :=
  let b := identPubBytes ++ serialBytes
  answerPlain s 0 ((List.range 10).map fun i => numAt b (4 * i) 4) c
def execIdent (s : State) : Out := s.go fun c => serveOp 5 opIdent c

/-- TIME (R430). -/
def opTime (s : Nat) (c : Chip) : Chip :=
  answerPlain s 0 [c.rtc, c.f FU_RTC_STAT_VALID, c.fuNow % 2 ^ 32, c.fuNow / 2 ^ 32] c
def execTime (s : State) : Out := s.go fun c => serveOp 6 opTime c

/-! ### The seal (R409 to R412) -/

/-- The staging buffer's bytes. -/
def Chip.staged (c : Chip) (off n : Nat) : List Byte := (List.range n).map fun i => sget (fun _ => (0 : Byte)) c.fu.staging (off + i)

/-- FU_DOOR[3], the logic door, reads open. -/
def Chip.logicDoor (c : Chip) : Bool := (c.f FU_PIN_IN_DOOR).testBit 3

/-- The seal slot whose digest a token's key matches, where the token verifies (R411). -/
def Chip.tokenSlot (c : Chip) (s tag : Nat) : Option Nat :=
  let key := (List.range 8).flatMap fun i => leBytes 4 (c.boxWord s (4 + i))
  let d := Config.sha512 key
  let msg := identPubBytes ++ leBytes 8 (c.meter 0) ++ leBytes 1 tag
  if Config.ed25519Verify key msg (c.staged 0 64) then
    (List.range 2).find? fun k => let x := sget seal0 c.fu.seals k; x.programmed && x.digest == d
  else none

/-- SEAL_BREAK (R411, R412): the token verifies and the logic door is open; meter 0 + 1 and the seal is broken. -/
def opSealBreak (s : Nat) (c : Chip) : Chip :=
  match (if c.logicDoor && !c.unenrolled then c.tokenSlot s 7 else none) with
  | none => answerPlain s 9 [] c
  | some k => answerCommit s [] ((fuCommit 4 3 s (c.tkey s) [(0, 1)] k [] c).modFu fun u => { u with sealed := false })
def execSealBreak (s : State) : Out := s.go fun c => serveOp 7 opSealBreak c

/-- RESEAL (R411, R412, R606): an image that passed R406 is in force and the token verifies. -/
def opReseal (s : Nat) (c : Chip) : Chip :=
  if c.unenrolled then answerPlain s 9 [] c
  else if c.fu.rom then answerPlain s 0x0A [] c
  else match c.tokenSlot s 8 with
    | none => answerPlain s 9 [] c
    | some k => answerCommit s [] (endFuLevel ((fuCommit 4 3 s (c.tkey s) [] k [] c).modFu fun u => { u with sealed := true }))
def execReseal (s : State) : Out := s.go fun c => serveOp 8 opReseal c

/-! ### NOTICE, STAGE, firmware -/

/-- NOTICE (R430, R452): the layout in force, with a LAYOUT entry. -/
def opNotice (s : Nat) (c : Chip) : Chip :=
  let n := c.boxWord s 3
  if Nat.ble 16 n then answerPlain s 2 [] c
  else answerCommit s [] ((fuCommit 0 13 s (c.tkey s) [] n [] c).modFu fun u => { u with layout := n })
def execNotice (s : State) : Out := s.go fun c => serveOp 9 opNotice c

/-- The 48 operand bytes of STAGE and FW_WRITE. -/
def Chip.opBytes (c : Chip) (s : Nat) : List Byte := (List.range 12).flatMap fun i => leBytes 4 (c.boxWord s (4 + i))

/-- Bytes written into a table of bytes. -/
def putBytes (t : Sparse Byte) (off : Nat) (l : List Byte) : Sparse Byte :=
  (l.zip (List.range l.length)).foldl (fun t p => sset (fun _ => (0 : Byte)) t (off + p.2) p.1) t

/-- STAGE (R430). -/
def opStage (s : Nat) (c : Chip) : Chip :=
  let off := c.boxWord s 3
  if Nat.blt 4048 off || off % 4 != 0 then answerPlain s 2 [] c
  else answerPlain s 0 [] (c.modFu fun u => { u with staging := putBytes u.staging off (c.opBytes s) })
def execStage (s : State) : Out := s.go fun c => serveOp 0x0A opStage c

/-- FW_WRITE (R430): 48 bytes into the inactive slot; with no healthy store it is refused with HOLD. -/
def opFwWrite (s : Nat) (c : Chip) : Chip :=
  let off := c.boxWord s 3
  if Nat.ble (0x40000 - 47) off || off % 4 != 0 then answerPlain s 2 [] c
  else if !c.fu.storeOk then answerPlain s 0x0A [] (c.modFu fun u => { u with storeFault := true })
  else answerPlain s 0 [] (c.modFu fun u => { u with store := putBytes u.store (fwSlot (1 - u.slot) + off) (c.opBytes s) })
def execFwWrite (s : State) : Out := s.go fun c => serveOp 0x0B opFwWrite c

/-- The digests that a staged enrolment brings (R568): for slot 0 and slot 1, where they are not 0. -/
def Chip.enrolment (c : Chip) : Option (List (Nat × List Byte)) :=
  let zero := leBytes 64 0
  let d0 := c.staged 0 64
  let d1 := c.staged 64 64
  let one := sget seal0 c.fu.seals 1
  if c.staged 128 4 != [0x53, 0x45, 0x41, 0x4C] then none
  else if c.unenrolled then
    (if c.fu.rom && c.logicDoor && d0 != zero then some ((0, d0) :: if d1 == zero then [] else [(1, d1)]) else none)
  else if d0 == zero && d1 != zero && !one.programmed && !c.fu.sealed then some [(1, d1)] else none

/-- Burn a seal slot. -/
def burnSeal (p : Nat × List Byte) (c : Chip) : Chip :=
  c.modFu fun u => { u with seals := sset seal0 u.seals p.1 ⟨p.2, true, false⟩ }

/-- FW_ACTIVATE (R406, R407, R430, R568): with the seal broken the inactive slot is checked, an enrolment burns its
digests, a journal entry is made, the slot becomes active and the FU reset follows. -/
def opFwActivate (s : Nat) (c : Chip) : Chip :=
  if c.fu.sealed then answerPlain s 8 [] c
  else
    let en := c.enrolment
    let new := match en with | some l => l | none => []
    if !c.imageOk (c.sealDigests ++ new.map (·.2)) (1 - c.fu.slot) then answerPlain s 9 [] c
    else
      let c := forAll new burnSeal c
      let c := fuCommit 4 (if en.isSome then 3 else 0) s (c.tkey s) [] 0 [] c
      let c := answerCommit s [] c
      let c := c.modFu fun u => { u with
        slot := 1 - u.slot
        minVersion := max u.minVersion (numAt (c.manifestOf (1 - u.slot)) 4 4) }
      fuReset .activate c
def execFwActivate (s : State) : Out := s.go fun c => serveOp 0x0C opFwActivate c

/-! ### CLOCK_SET, METER_INIT, RECOVER_ACK, FAULT_CLEAR -/

/-- CLOCK_SET (R430): inside the sealed limits, or with the seal broken or the RTC not valid. -/
def opClockSet (s : Nat) (c : Chip) : Chip :=
  let t := c.boxWord s 3
  let free := !c.fu.sealed || !c.fb FU_RTC_STAT_VALID
  let near := Nat.ble t (c.rtc + 60) && Nat.ble c.rtc (t + 60)
  let due := match c.fu.lastClock with | none => true | some l => Nat.ble (l + 86400) c.rtc
  if !(free || (near && due)) then answerPlain s 8 [] c
  else
    let c := fuCommit 4 14 s (c.tkey s) [] t [] c
    let c := c.modFu fun u => { u with rtcSet := some (Word.of t), lastClock := if u.sealed then some t else u.lastClock }
    answerCommit s [] (c.setF FU_RTC_STAT_VALID 1)
def execClockSet (s : State) : Out := s.go fun c => serveOp 0x0D opClockSet c

/-- METER_INIT (R430, R413, R449): meters 16 to 127 are 0; it also ends a recovery that the archive could not serve. -/
def opMeterInit (s : Nat) (c : Chip) : Chip :=
  if c.fu.sealed then answerPlain s 8 [] c
  else
    let c := fuCommit 4 16 s (c.tkey s) [] 0 [] c
    answerCommit s [] (c.modFu fun u => { u with recovery := u.recovery && !u.recoveryHard, recoveryHard := false })
def execMeterInit (s : State) : Out := s.go fun c => serveOp 0x0E opMeterInit c

/-- RECOVER_ACK (R449). -/
def opRecoverAck (s : Nat) (c : Chip) : Chip :=
  answerCommit s [] ((fuCommit 4 15 s (c.tkey s) [] 0 [] c).modFu fun u => { u with recovery := u.recoveryHard })
def execRecoverAck (s : State) : Out := s.go fun c => serveOp 0x0F opRecoverAck c

/-- FAULT_CLEAR (R439, R445): outputs restart, and jammed inputs count again with their next active phase. -/
def opFaultClear (s : Nat) (c : Chip) : Chip :=
  let w := c.boxWord s 3
  if Nat.ble 65536 w then answerPlain s 2 [] c
  else
    let c := fuCommit 4 0 s (c.tkey s) [] w [] c
    let c := forAll (List.range 8) (fun k c =>
      let c := if w.testBit k then c.modMeterOut k fun x => { x with fault := false } else c
      if w.testBit (8 + k) then c.modPulse k (fun x => { x with jam := false, active := x.active && !x.jam }) else c) c
    answerCommit s [] c
def execFaultClear (s : State) : Out := s.go fun c => serveOp 0x10 opFaultClear c

end Sys2Proof.Machine
end

