-- ==== Sys2Proof/Machine/FrankPins.lean ====
section
/-! DEFINITION. The Franking Unit's supplies, clock and pins (R399 to R403, R438 to R448), its external store (R450), its
mirror stream (R422 to R425, R484) and the Notice fault (R454). -/

namespace Sys2Proof.Machine

/-! ### Supplies and reset causes -/

/-- The meter outputs are released (R441): FU_MOUT is 0 and a pulse under way is interrupted (R444). -/
def releaseOutputs (c : Chip) : Chip := interruptPulses (c.setF FU_MOUT_ON 0)

/-- VDD_FU_RISE (R402, R404, R406): an FU reset. -/
def execVddFuRise (s : State) : Out :=
  s.go fun c => fuDo (fun c => fuReset .vdd (c.modFu fun u => { u with vdd := true })) c

/-- FU_KEEP_ENTRY (R399, R400, R441): VDD_FU is lost; what it feeds loses its contents, and the unit is in Keep, or Off
where VSB_F is absent too. -/
def execFuKeepEntry (s : State) : Out :=
  s.go fun c => fuDo (fun c =>
    let c := c.modFu fun u => { u with vdd := false, ready := false, mirTx := [], mirRx := [], spiRx := [], spiTx := [],
                                       reports := [], staging := [] }
    let c := c.setF FU_MOUT_ON 0
    { c with mem := swipe (swipe c.mem 0x1D10000000 0x1D10030000) 0x1D20000000 0x1D20040000 }) c

/-- VSB_F_RISE (R399): AON-F starts afresh; keep bank and RTC are lost and VALID is 0.  The seal state is that of the store
header (R412), where a store answers. -/
def execVsbFRise (s : State) : Out :=
  s.go fun c => fuDo (fun c =>
    let c := { c with power := { c.power with vsbF := true } }
    let c := c.modFu fun u => { u with
      block := []
      copyA := ⟨false, 0, []⟩
      copyB := ⟨false, 0, []⟩
      journal := []
      unarchived := 0
      sealed := u.sealed && u.storeOk
      minVersion := if u.storeOk then u.minVersion else 0
      partner := none
      rtcSet := none
      lastClock := none
      pulse := []
      out := []
      doors := []
      doorOvf := 0 }
    let c := { c with mem := swipe c.mem 0x1D10030000 0x1D10040000 }
    ((c.setReg FU_RTC 0).setF FU_RTC_STAT_VALID 0).setReg FU_TAMPER 0) c

/-- VDDIO_FU_CHANGE (R399, R441): without it the outputs are released and pulses are not counted. -/
def execVddioFuChange (present : Bool) (s : State) : Out :=
  s.go fun c => fuDo (fun c =>
    let c := c.modFu fun u => { u with vddio := present }
    if present then c else releaseOutputs c) c

/-- FU_WDT_EXPIRE (R402, R403). -/
def execFuWdtExpire (s : State) : Out := s.go fun c => if c.fu.vdd then fuDo (fuReset .watchdog) c else c

/-- A write of FU_WDT (R403): PERIOD_MS until the first KICK, and KICK. -/
def writeFuWdt (v : Word) (c : Chip) : Chip :=
  let c := if c.fu.wdtLocked then c else c.setF FU_WDT_PERIOD_MS (v.bits 9 0)
  if v.bits 31 16 = 0x5A5A then c.modFu fun u => { u with wdtLocked := true } else c

/-- FU_WDT_KICK (R403): the Franking core writes FU_WDT. -/
def execFuWdtKick (v : Word) (s : State) : Out := s.go fun c => if c.fu.vdd then writeFuWdt v c else c

/-! ### RTC and trim (R401) -/

/-- RTC_SECOND (R401): a write that waits takes effect, or the count advances. -/
def execRtcSecond (s : State) : Out :=
  s.go fun c =>
    if !c.power.vsbF then c
    else
      let c := c.setF FU_RTC_STAT_XTAL_OK 1
      match c.fu.rtcSet with
      | some v => (c.setReg FU_RTC v).modFu fun u => { u with rtcSet := none }
      | none => c.setReg FU_RTC (c.reg FU_RTC + 1)

/-- RTC_XTAL_STOP (R401): the RTC holds its count and RTC_VALID clears. -/
def execRtcXtalStop (s : State) : Out :=
  s.go fun c => fuDo (fun c => (c.setF FU_RTC_STAT_XTAL_OK 0).setF FU_RTC_STAT_VALID 0) c

/-- OSC_TRIM (R401): the trim found against FU_XTAL32, with the cycles measured. -/
def execOscTrim (meas : Fin 0x40000) (code : Fin 256) (s : State) : Out :=
  s.go fun c => if c.fu.vdd then (c.setF FU_TRIM_MEAS meas).setF FU_TRIM_CODE code else c

/-! ### Pulse inputs (R438 to R440) -/

/-- One pulse counted: into the shadow count on a Mirror and in ROM mode without a block (R408, R425), and where a former
Lead has already committed it. -/
def countPulse (i : Nat) (c : Chip) : Chip :=
  if c.noBlock || c.fu.role = 2 || decide ((c.pulseIn i).shadow < 0) then c.modPulse i fun x => { x with shadow := x.shadow + 1 }
  else c.modPulse i fun x => { x with counted := x.counted + 1 }

/-- An accepted change of level classifies the phase it ends, `us` microseconds long (R439). -/
def classifyEdge (i : Nat) (level : Bool) (us : Nat) (c : Chip) : Chip :=
  let x := c.pulseIn i
  let pol := nbits (c.pulseWord i 0) 0 0 == 1
  let w1 := c.pulseWord i 1
  if level == pol then
    c.modPulse i fun x => { x with active := true, fast := Nat.blt us (1000 * nbits (c.pulseWord i 2) 15 0) }
  else
    let c := c.modPulse i fun x => { x with active := false }
    if !x.active || x.jam then c
    else if us < 1000 * nbits w1 15 0 then c.modPulse i fun x => { x with short := x.short + 1 }
    else if 1000 * nbits w1 31 16 ≤ us then jamInput i c
    else if x.fast then fuEvent 1 7 i [] 0 c
    else countPulse i c

/-- PULSE_EDGE (R439): input `i` accepts a level, and the phase that ends lasted `us` microseconds. -/
def execPulseEdge (i : Fin 8) (level : Bool) (us : Nat) (s : State) : Out :=
  s.go fun c =>
    if c.fu.vdd && c.fu.vddio && c.regBit FU_PIN_IN i != level then
      fuDo (fun c =>
        let c := (c.setRegBit FU_PIN_IN i level).setRegBit FU_PIN_EV i true
        let c := c.setReg (FU_PULSE_T i) (Word.of ((c.now - c.fu.resetAt) / 1000))
        if c.pulseCounted i then classifyEdge i level us c else c) c
    else c

/-- PULSE_JAM (R439): the active phase of input `i` reaches TMAX. -/
def execPulseJam (i : Fin 8) (s : State) : Out :=
  s.go fun c =>
    let x := c.pulseIn i
    if c.fu.vdd && c.fu.vddio && c.pulseCounted i && x.active && !x.jam then fuDo (jamInput i) c else c

/-- PULSE_RESUME (R439): a jammed input has held inactive for TREC. -/
def execPulseResume (i : Fin 8) (s : State) : Out :=
  s.go fun c =>
    let x := c.pulseIn i
    if c.fu.vdd && x.jam && !x.active then fuDo (fun c => c.modPulse i fun x => { x with jam := false }) c else c

/-- PULSE_COMMIT (R440, R450): counted pulses are committed; while 896 entries wait for the archive they wait too. -/
def execPulseCommit (s : State) : Out :=
  s.go fun c =>
    if c.fu.vdd && c.fu.ready && !c.fu.demoted && c.fu.role != 2 && Nat.blt c.fu.unarchived 896 then
      fuDo (commitPulses (List.range 8) 0 []) c
    else c

/-! ### Meter outputs (R441 to R445) -/

/-- Output `k` may drive its pin: never in ROM mode, while demoted or on a Mirror (R425, R441, R484). -/
def Chip.mayPulse (c : Chip) : Bool :=
  c.fu.vdd && c.fu.vddio && c.fu.ready && !c.fu.rom && !c.fu.demoted && c.fu.role != 2

/-- METER_PULSE_START (R443). -/
def execMeterPulseStart (k : Fin 8) (s : State) : Out :=
  s.go fun c =>
    let x := c.meterOut k
    if c.mayPulse && Nat.blt 0 x.pending && !x.fault && x.phase = 0 then
      (c.modMeterOut k fun x => { x with pending := x.pending - 1, active := true, phase := 1 }).setRegBit FU_MOUT k true
    else c

/-- METER_PULSE_OFF (R443): TON expires. -/
def execMeterPulseOff (k : Fin 8) (s : State) : Out :=
  s.go fun c =>
    if c.fu.vdd && (c.meterOut k).phase = 1 then (c.modMeterOut k fun x => { x with phase := 2 }).setRegBit FU_MOUT k false else c

/-- METER_PULSE_END (R443): TOFF expires. -/
def execMeterPulseEnd (k : Fin 8) (s : State) : Out :=
  s.go fun c =>
    if c.fu.vdd && (c.meterOut k).phase = 2 then c.modMeterOut k fun x => { x with phase := 0, active := false } else c

/-- METER_READBACK (R445): the level read back from pin `k`; an output that is on pulls its pin low. -/
def execMeterReadback (k : Fin 8) (high : Bool) (s : State) : Out :=
  s.go fun c =>
    if !c.fu.vdd then c
    else
      let on := c.regBit FU_MOUT k
      let c := c.setRegBit FU_PIN_IN (16 + k) high
      if on != high then c
      else fuDo (fun c =>
        let c := (c.setRegBit FU_PIN_EV (16 + k) true).setRegBit FU_MOUT k false
        fuEvent 3 8 k [] 0 (c.modMeterOut k fun x => { x with fault := true, phase := 0, active := false })) c

/-! ### Doors and tamper (R446 to R448) -/

/-- An opening that waits in the FIFO, or is counted where the FIFO is full (R447). -/
def storeDoor (d : Nat) (c : Chip) : Chip :=
  c.modFu fun u =>
    if u.doors.length < 16 then { u with doors := u.doors ++ [(d, c.rtc, if u.vdd then c.fuNow else 0)] } else { u with doorOvf := min (u.doorOvf + 1) 65535 }

/-- DOOR_OPEN (R446, R447): door `d` is accepted as open. -/
def execDoorOpen (d : Fin 4) (s : State) : Out :=
  s.go fun c =>
    if c.power.vsbF && !c.regBit FU_PIN_IN (8 + d) then
      fuDo (fun c =>
        let c := c.setRegBit FU_PIN_IN (8 + d) true
        if !c.fu.vdd then (storeDoor d c).flag FU_TAMPER_KEEP_DOOR
        else
          let c := c.setRegBit FU_PIN_EV (8 + d) true
          if c.mayCommitDoor then fuEvent 2 0 d [(2, 1)] 0 c else storeDoor d c) c
    else c

/-- DOOR_CLOSE (R446). -/
def execDoorClose (d : Fin 4) (s : State) : Out :=
  s.go fun c =>
    if c.power.vsbF && c.regBit FU_PIN_IN (8 + d) then
      let c := c.setRegBit FU_PIN_IN (8 + d) false
      if c.fu.vdd then c.setRegBit FU_PIN_EV (8 + d) true else c
    else c

/-- TAMPER_TRIP (R448): detector `n` trips: an FU reset, or a latch in Keep. -/
def execTamperTrip (n : Fin 3) (s : State) : Out :=
  s.go fun c =>
    let c := c.setF FU_TAMPER_TRIP (c.f FU_TAMPER_TRIP ||| 2 ^ n.val)
    if c.fu.vdd then fuDo (fuReset .tamper) c else c

/-! ### The external store (R450, R451) -/

/-- ARCHIVE_WRITE (R450, R451): the oldest entry not archived is written; `ok` tells that the device responds and its checks
pass.  Openings that waited are committed. -/
def execArchiveWrite (ok : Bool) (s : State) : Out :=
  s.go fun c =>
    if !(c.fu.vdd && c.fu.ready) then c
    else fuDo (fun c =>
      if !ok then c.modFu fun u => { u with storeOk := false, storeFault := true }
      else
        let c := c.modFu fun u => match u.journal[u.unarchived - 1]? with
          | some e => if u.unarchived = 0 then { u with storeOk := true }
                      else { u with storeOk := true, archive := e :: u.archive, unarchived := u.unarchived - 1 }
          | none => { u with storeOk := true }
        if c.fu.doors == [] && c.fu.doorOvf = 0 then c else commitDoors c) c

/-- A write of FU_SPI_CMD: GO starts the command. -/
def writeFuSpiCmd (v : Word) (c : Chip) : Chip :=
  let go := c.fb FU_SPI_CMD_GO
  let c := c.setReg FU_SPI_CMD (writeWord false FU_SPI_CMD (c.reg FU_SPI_CMD) v)
  if v.bit 31 && !go then (c.setF FU_SPI_CMD_ERR 0).modFu fun u => { u with spiRx := [] } else c

/-- FU_SPI_GO (R450): the Franking core writes FU_SPI_CMD with GO. -/
def execFuSpiGo (v : Word) (s : State) : Out := s.go fun c => if c.fu.vdd then writeFuSpiCmd (v.setBit 31 true) c else c

/-- FU_SPI_DONE (R450): the command ends with the bytes received, or the device did not respond. -/
def execFuSpiDone (ok : Bool) (data : List Byte) (s : State) : Out :=
  s.go fun c =>
    if c.fu.vdd && c.fb FU_SPI_CMD_GO then
      let n := c.f FU_SPI_CMD_LEN
      let rx := ok && !c.fb FU_SPI_CMD_WRITE
      let c := (c.setF FU_SPI_CMD_GO 0).setF FU_SPI_CMD_ERR (!ok).toNat
      c.modFu fun u => { u with spiRx := if rx then data.take n else [], spiTx := [] }
    else c

/-- A read of a byte queue: 4 bytes are removed; bytes that have not arrived are free. -/
def popBytes (l : List Byte) (c : Chip) : (Word × List Byte) × Chip :=
  let (f, c) := freeBytes (4 - l.length) c
  ((Word.of (leNat (l.take 4 ++ f)), l.drop 4), c)

/-- A read, and a write, of FU_SPI_DATA. -/
def readFuSpiData (peek : Bool) (c : Chip) : Word × Chip :=
  let ((w, t), c) := popBytes c.fu.spiRx c
  (w, if peek then c else c.modFu fun u => { u with spiRx := t })
def writeFuSpiData (v : Word) (c : Chip) : Chip := c.modFu fun u => { u with spiTx := u.spiTx ++ leBytes 4 v.toNat }

/-- A register access whose master's answer is kept: a read where `w` is none. -/
def regAccess (o : Nat) (rd : Chip → Word × Chip) (wr : Word → Chip → Chip) (w : Option Word) (c : Chip) : Chip :=
  match w with
  | none =>
    let (x, c) := rd c
    { c with answer := sset (fun _ => .none) c.answer o (.data x) }
  | some v => wr v c

/-- FU_SPI_DATA_ACCESS (R450): a read, or a write of a word. -/
def execFuSpiDataAccess (w : Option Word) (s : State) : Out :=
  s.go fun c => if c.fu.vdd then regAccess 62 (readFuSpiData false) writeFuSpiData w c else c

/-! ### The mirror stream (R422 to R425, R484) -/

/-- A read, and a write, of FU_MIR_DATA. -/
def readFuMirData (peek : Bool) (c : Chip) : Word × Chip :=
  match c.fu.mirRx with
  | w :: t => (w, if peek then c else c.modFu fun u => { u with mirRx := t })
  | [] => c.freeWord
def writeFuMirData (v : Word) (c : Chip) : Chip :=
  if c.fu.mirTx.length < 128 then c.modFu fun u => { u with mirTx := u.mirTx ++ [v] } else c

/-- FU_MIR_STAT as it reads. -/
def readFuMirStat (c : Chip) : Word :=
  Word.of (128 - c.fu.mirTx.length + 256 * c.fu.mirRx.length + 65536 * (c.fu.mirRx.length == 1).toNat
    + 2 ^ 18 * c.paired.toNat + 2 ^ 19 * c.fu.role)

/-- FU_MIR_DATA_ACCESS (R422). -/
def execFuMirDataAccess (w : Option Word) (s : State) : Out :=
  s.go fun c => if c.fu.vdd then regAccess 62 (readFuMirData false) writeFuMirData w c else c

/-- SEND: the item being built is handed to stream 3. -/
def sendMirror (c : Chip) : Chip := (c.modFu fun u => { u with mirTx := [] }).zowSend 3

/-- FU_MIR_SEND (R422). -/
def execFuMirSend (s : State) : Out := s.go fun c => if c.fu.vdd then sendMirror c else c

/-- The pulses of input `i` that the first of `l` changes can stand for (R440): those changes are what `n` pulses make. -/
def Chip.pulsesOf (c : Chip) (i : Nat) (l : List (Nat × Int)) : Option Nat :=
  match c.pulseWeights i with
  | [] => none
  | (m, w) :: t =>
    match l with
    | [] => none
    | (_, d) :: _ =>
      let n := if w = 0 then 0 else d.toNat / w
      if n != 0 && l.take (t.length + 1) == ((m, w) :: t).map (fun p => (p.1, ((n * p.2 : Nat) : Int))) then some n else none

/-- The inputs from `i` on take their pulses from a list of changes: the first that can, one whose shadow count covers them
before one that does not. -/
def coverFrom : List Nat → List (Nat × Int) → Chip → Chip
  | [], _, c => c
  | i :: t, l, c =>
    match c.pulsesOf i l with
    | none => coverFrom t l c
    | some n =>
      let better := t.any fun j => c.pulsesOf j l == some n && decide ((n : Int) ≤ (c.pulseIn j).shadow)
      if decide ((c.pulseIn i).shadow < n) && better then coverFrom t l c
      else coverFrom t (l.drop (c.pulseWeights i).length) (c.modPulse i fun x => { x with shadow := x.shadow - n })

/-- A mirrored pulse commit takes the pulses it covers from the shadow counts (R425). -/
def coverPulses (e : JEntry) (c : Chip) : Chip :=
  if e.source != 1 || e.cause != 0 then c else coverFrom ((List.range 8).drop e.arg) e.changes c

/-- A mirrored commit is applied. -/
def applyMirrored (e : JEntry) (c : Chip) : Chip := coverPulses e (recordEntry e c)

/-- Held commits are applied as long as the next generation is among them (R423). -/
def applyHeld : Nat → Chip → Chip
  | 0, c => c
  | n + 1, c =>
    match c.fu.heldCommits.find? fun e => e.gen == (c.fu.copyA.gen + 1) % 2 ^ 32 with
    | some e => applyHeld n (applyMirrored e (c.modFu fun u => { u with heldCommits := u.heldCommits.erase e }))
    | none => c

/-- A mirrored commit arrives (R418, R423).  A STALE unit holds it until the replay (R59). -/
def receiveCommit (e : JEntry) (c : Chip) : Chip :=
  match genAfter e.gen c.fu.copyA.gen with
  | none => c.modFu fun u => { u with stale := true }
  | some false => c
  | some true =>
    let c := c.modFu fun u => { u with heldCommits := if u.heldCommits.any fun x => x.gen == e.gen then u.heldCommits else u.heldCommits ++ [e] }
    if c.fu.stale then c else applyHeld c.fu.heldCommits.length c

/-- The pending counts, remainders and PULSE_ACTIVE of the Lead's outputs (R425). -/
def mirrorOutputs (l : List (Nat × Nat × Nat × Bool)) (c : Chip) : Chip :=
  forAll l (fun p c => c.modMeterOut p.1 fun x => { x with pending := p.2.1, rest := p.2.2.1, active := p.2.2.2 }) c

/-- MIRROR_COMMIT_RECEIVE (R422 to R425): an item of the mirror stream: a commit, a receipt with its TKEY, the state of the
Lead's outputs; `tagOk` that its tag verifies (R463). -/
def execMirrorCommitReceive (e : Option JEntry) (receipt : Option (Nat × List Word)) (outs : List (Nat × Nat × Nat × Bool))
    (tagOk : Bool) (s : State) : Out :=
  s.go fun c =>
    if !(c.paired && c.fu.role = 2 && tagOk && c.fu.vdd) then c
    else fuDo (fun c =>
      let c := match e with | some e => receiveCommit e c | none => c
      let c := mirrorOutputs outs c
      let c := match receipt with
        | some r => forAll (List.range 63) takeMirrored (c.modFu fun u => { u with receipts := u.receipts ++ [r] })
        | none => c
      c.zowSend 3) c

/-- MIRROR_ACK_TIMEOUT (R423): the Lead marks the twin STALE. -/
def execMirrorAckTimeout (s : State) : Out :=
  s.go fun c =>
    if c.fu.role = 1 && c.fu.acksDue != [] then
      fuDo (fun c => fuEvent 3 11 0 [] 0 (c.modFu fun u => { u with stale := true, acksDue := [] })) c
    else c

/-- Some output of the device runs. -/
def Chip.anyRunning (c : Chip) : Bool := c.mainRuns && (List.range 4).any c.running

/-- FU_DEMOTE (R484): a Lead's unit whose mirror stream has been silent with the outputs stopped. -/
def execFuDemote (s : State) : Out :=
  s.go fun c =>
    if c.fu.role = 1 && !c.fu.demoted && !c.anyRunning then
      fuDo (fun c => (c.modFu fun u => { u with demoted := true, stale := true }).setF FU_MOUT_ON 0) c
    else c

/-! ### The Notice fault (R454) -/

/-- Output `o` shows Notice regions. -/
def Chip.usesNotice (c : Chip) (o : Nat) : Bool := c.fb (FU_NOTICE_RECT_A_ON o)

/-- Output `o` is analog: KIND as its last frame start or its enable took it (R288, R315). -/
def Chip.analog (c : Chip) (o : Nat) : Bool := (c.out o).timing.kind == 2

/-- A port or the analog pins carry output `o`. -/
def Chip.carried (c : Chip) (o : Nat) : Bool :=
  c.analog o || (List.range 4).any fun d => c.fb (OUT_XBAR_EN d) && c.f (OUT_XBAR_SRC d) == o

/-- Output `o` runs and is carried, as a layout that uses it requires (R454). -/
def Chip.shown (c : Chip) (o : Nat) : Bool := c.mainRuns && c.fb (OUT_CTL_EN o) && c.running o && c.carried o

/-- FU_VIEW as it reads. -/
def readFuView (c : Chip) : Word :=
  let on (o : Nat) := c.mainRuns && c.domainUp (72 + o)
  Word.of (c.f SYS_PROFILE_CUR + (List.range 4).foldl (fun a o => a + 2 ^ (8 + 4 * o) *
    (if on o then (c.f (OUT_CTL_EN o) + 2 * (c.running o).toNat + 4 * (c.carried o).toNat + 8 * (c.analog o).toNat) else 0)) 0)

/-- A Notice fault of output `o` that affects the regions of `hit` (R454): an episode begins, or goes on. -/
def noticeFault (o hit : Nat) (c : Chip) : Chip :=
  fuDo (fun c =>
    let first := c.fu.noticeBad == []
    let c := c.modFu fun u => { u with
      noticeBad := sset off u.noticeBad o true
      noticeHit := smod (fun _ => 0) u.noticeHit o (hit ||| ·)
      noticeOk := [] }
    if first then fuEvent 3 5 o [(5, 1)] 0 c else c) c

/-- NOTICE_GRACE_EXPIRE (R454): output `o`, which the layout uses, has been uncarried for NOTICE_GRACE. -/
def execNoticeGraceExpire (o : Fin 4) (s : State) : Out :=
  s.go fun c =>
    if c.fu.vdd && c.fu.ready && c.usesNotice o && !c.shown o then
      noticeFault o 255 (c.modFu fun u => { u with noticeLost := o.val :: u.noticeLost.filter (· != o.val) })
    else c

end Sys2Proof.Machine
end

