-- ==== Sys2Proof/Machine/Notice.lean ====
section
/-! DEFINITION. The Notice blender of each output (R244, R245, R453 to R455). -/

namespace Sys2Proof.Machine

/-- `n` bytes of the notice store, with their poison. -/
def rdNotice (n pa : Nat) (c : Chip) : (Nat × Bool) × Chip :=
  let c := c.eccRange .notice n pa
  ((c.le pa n, c.anyPoison .notice pa n), c)

/-- The base of the notice-store half that output `o` shows. -/
def Chip.noticeHalf (c : Chip) (o : Nat) : Nat := 0x1D20000000 + 0x20000 * c.f (FU_NOTICE_CTL_SHOWN o)

/-- A region of the region list, with its number (R404). -/
structure NoticeRegion where
  idx : Nat
  x0 : Nat
  y0 : Nat
  x1 : Nat
  y1 : Nat
  pix : Nat
  ctab : Nat
  crc : Nat
  deriving DecidableEq, Repr

/-- Region `r` of output `o`, where it is in use, and whether a word of it was unreadable. -/
def readRegion (o r : Nat) (c : Chip) : (Option NoticeRegion × Bool) × Chip :=
  let a := c.noticeHalf o + 0x100 * o + 0x20 * r
  let ((w0, p0), c) := rdNotice 4 a c
  let ((w1, p1), c) := rdNotice 4 (a + 4) c
  let ((w2, p2), c) := rdNotice 4 (a + 8) c
  let ((w3, p3), c) := rdNotice 4 (a + 12) c
  let ((w4, p4), c) := rdNotice 4 (a + 16) c
  let g : NoticeRegion := ⟨r, nbits w0 13 0, nbits w0 29 16, nbits w1 13 0, nbits w1 29 16, nbits w2 16 0, nbits w3 16 0, w4⟩
  ((if nbits w0 31 31 = 1 then some g else none, p0 || p1 || p2 || p3 || p4), c)

/-- The regions of output `o`, with a fault met while reading them. -/
def readRegions (o : Nat) (c : Chip) : (List NoticeRegion × Bool) × Chip :=
  (List.range 8).foldl (fun (a : (List NoticeRegion × Bool) × Chip) r =>
    let ((g, p), c) := readRegion o r a.2
    ((a.1.1 ++ g.toList, a.1.2 || p), c)) (([], false), c)

/-- A region holds position (x, y). -/
def NoticeRegion.has (g : NoticeRegion) (x y : Nat) : Bool := within g.x0 g.x1 x && within g.y0 g.y1 y

/-- One channel under the overlay (R244). -/
def overlay1 (n na v : Nat) : Nat := (n * na + v * (255 - na) + 127) / 255

/-- A rectangle in the layout of COMP_NOTICE holds position (x, y). -/
def rectHas (a b : Word) (x y : Nat) : Bool :=
  a.bit 31 && within (a.bits 13 0) (b.bits 13 0) x && within (a.bits 29 16) (b.bits 29 16) y

/-- The fault pattern covers position (x, y) of output `o`, whose regions are `gs` (R404, R454): the rectangle under FAULT, and each
region that a fault affects. -/
def Chip.faultAt (c : Chip) (o : Nat) (gs : List NoticeRegion) (x y : Nat) : Bool :=
  if c.fu.vdd && c.fu.ready then
    let hit := if sget off c.fu.noticeBad o then sget z0 c.fu.noticeHit o else 0
    ((c.fb (FU_NOTICE_CTL_FAULT o) || hit.testBit 8) && rectHas (c.reg (FU_NOTICE_RECT_A o)) (c.reg (FU_NOTICE_RECT_B o)) x y)
      || gs.any fun g => hit.testBit g.idx && g.has x y
  else rectHas (c.reg (COMP_NOTICE_A o)) (c.reg (COMP_NOTICE_B o)) x y

/-- The overlay over a pixel of 30 bits at position (x, y), and whether a notice-store read failed. -/
def overlayPx (o : Nat) (gs : List NoticeRegion) (x y v : Nat) (c : Chip) : (Nat × Bool) × Chip :=
  if c.faultAt o gs x y then ((0, false), c)
  else if !(c.fu.vdd && c.fu.ready) then ((v, false), c)
  else match gs.find? fun g => g.has x y with
    | none => ((v, false), c)
    | some g =>
      let n := (y - g.y0) * (g.x1 - g.x0) + (x - g.x0)
      let base := c.noticeHalf o
      let ((b, p), c) := rdNotice 1 (base + (g.pix + n / 2) % 0x20000) c
      let i := b / 2 ^ (n % 2 * 4) % 16
      let ((e, q), c) := rdNotice 8 (base + (g.ctab + 8 * i) % 0x20000) c
      if p || q then ((v, true), c)
      else
        let a := nbits e 37 30
        let ch (m l : Nat) := overlay1 (nbits e m l) a (nbits v m l)
        ((ch 9 0 + ch 19 10 * 2 ^ 10 + ch 29 20 * 2 ^ 20, false), c)

/-- A notice-store read of output `o` was uncorrectable or late (R454): it affects the regions of `hit`. -/
def noticeLate (o hit : Nat) (c : Chip) : Chip := noticeFault o hit (c.flag (FU_NOTICE_CTL_LATE o))

/-- The pixel bytes of a region. -/
def Chip.regionBytes (c : Chip) (o : Nat) (g : NoticeRegion) : List Byte :=
  c.bytes (c.noticeHalf o + g.pix) (((g.x1 - g.x0) * (g.y1 - g.y0) + 1) / 2)

/-- The CRC check at the end of a frame (R453, R454), with the injection of POBOX_XINJ. -/
def noticeCheck (o : Nat) (c : Chip) : Chip :=
  if !(c.fu.vdd && c.fu.ready) then c
  else
    let ((gs, p), c) := readRegions o c
    let inj := (c.f POBOX_XINJ_NOTICE_INJ).testBit o
    let c := if inj then c.setRegBit POBOX_XINJ o false else c
    let hit := (gs.filter fun g => inj || (crc32 (c.regionBytes o g)).toNat != g.crc).foldl (fun m g => m ||| 2 ^ g.idx) 0
    let c := if p then noticeLate o 256 c else c
    if inj || hit != 0 then noticeFault o hit (c.flag (FU_NOTICE_CTL_MISMATCH o))
    else if p then c
    else if sget z0 c.fu.noticeOk o = 1 && (c.shown o || !c.fu.noticeLost.contains o) then c.modFu fun u => { u with noticeOk := sset z0 u.noticeOk o 2 }
    else c

/-- A frame start of output `o` (R453 to R455): the half in use, the rectangle that the main side sees, FRAME_EV, and the
end of a fault episode after a whole frame without a fault on every output that shows regions. -/
def noticeFrame (o : Nat) (c : Chip) : Chip :=
  if !(c.fu.vdd && c.fu.ready) then c
  else
    let c := c.setF (FU_NOTICE_CTL_SHOWN o) (c.f (FU_NOTICE_CTL_HALF o))
    let c := c.flag (FU_NOTICE_CTL_FRAME_EV o)
    let c := (c.setReg (COMP_NOTICE_A o) (c.reg (FU_NOTICE_RECT_A o))).setReg (COMP_NOTICE_B o) (c.reg (FU_NOTICE_RECT_B o))
    if c.fu.noticeBad == [] then c
    else
      let c := if sget z0 c.fu.noticeOk o = 0 then c.modFu fun u => { u with noticeOk := sset z0 u.noticeOk o 1 } else c
      if (List.range 4).all fun p => !c.usesNotice p || sget z0 c.fu.noticeOk p == 2 then
        fuDo (fun c => c.modFu fun u => { u with noticeBad := [], noticeHit := [], noticeOk := [], noticeLost := [] }) c
      else c

end Sys2Proof.Machine
end

