-- ==== Sys2Proof/Machine/Output.lean ====
section
/-! DEFINITION. The display outputs and the beam (R285 to R305, R316 to R318, R321, R322): timing generators, frame starts,
the output stage, line-timed writes, seals, locked pairs and beam capture. -/

namespace Sys2Proof.Machine

/-! ### Names -/

/-- Set bits of OUT_EVT (R295). -/
def outEvt (o n : Nat) (c : Chip) : Chip := c.setRegBit (OUT_EVT o) n true

/-- The output whose registers govern output `o` (R304). -/
def Chip.lead (c : Chip) (o : Nat) : Nat := if o % 2 = 1 && (c.out (o - 1)).pairOn then o - 1 else o

/-- The outputs that run together with the governing output `o`. -/
def Chip.halves (c : Chip) (o : Nat) : List Nat := if (c.out o).pairOn then [o, o + 1] else [o]

/-- The output is powered, clocked and has met no unit-fatal error. -/
def Chip.outUp (c : Chip) (o : Nat) : Bool := c.mainRuns && c.domainUp (72 + o) && !c.power.failed.contains (104 + o)

/-- The port DPd after reset carries output d. -/
def port0 (d : Nat) : Port := ⟨d, true, none, false, (0, 0), false⟩

def Chip.port (c : Chip) (d : Nat) : Port := sget port0 c.disp.ports d
def Chip.setPort (c : Chip) (d : Nat) (p : Port) : Chip := { c with disp := { c.disp with ports := sset port0 c.disp.ports d p } }

/-! ### Timing (R285 to R288, R315 to R317) -/

/-- The timing of an analog mode (R316): clock in Hz, HACTIVE, HTOTAL, HS_START, HS_END, VACTIVE, VTOTAL, VSYNC, VSTART,
polarities. -/
structure CrtMode where
  hz : Nat
  hactive : Nat
  htotal : Nat
  hsStart : Nat
  hsEnd : Nat
  vactive : Nat
  vtotal : Nat
  vsync : Nat
  vstart : Nat
  pol : Bool
  deriving DecidableEq, Repr

/-- Modes 1 to 5 of R316. -/
def crtMode (m : Nat) : Option CrtMode :=
  match m with
  | 1 => some ⟨12576000, 640, 800, 656, 720, 240, 262, 3, 16, false⟩
  | 2 => some ⟨12600000, 640, 800, 656, 720, 480, 525, 3, 18, false⟩
  | 3 => some ⟨15974400, 512, 640, 528, 576, 384, 416, 3, 25, false⟩
  | 4 => some ⟨25200000, 640, 800, 656, 752, 480, 525, 2, 35, false⟩
  | 5 => some ⟨108000000, 1280, 1688, 1328, 1440, 1024, 1066, 3, 41, true⟩
  | _ => none

/-- KIND in force: 2 outside OUT3, and 3, act as 0 (R315). -/
def Chip.outKind (c : Chip) (o : Nat) : Nat :=
  match c.f (OUT_CTL_KIND o) with | 1 => 1 | 2 => if o = 3 then 2 else 0 | _ => 0

/-- The sink of port `p` reports a refresh range that takes in the range from VTOTAL_MIN to VTOTAL_MAX of output `o` (R310). -/
def Chip.rangeCovers (c : Chip) (o : Nat) (p : Port) : Bool :=
  let hz := 1000 * c.f (OUT_PIXCLK_KHZ o)
  let ht := c.f (OUT_HTIME_HTOTAL o)
  Nat.ble (p.range.1 * ht * c.f (OUT_VRANGE_VTOTAL_MAX o)) hz && Nat.ble hz (p.range.2 * ht * c.f (OUT_VRANGE_VTOTAL_MIN o))

/-- A sink of a port that carries output `o`, or the other half of its pair, stands in the way of adaptive blanking (R310). -/
def Chip.sinkRefuses (c : Chip) (o : Nat) : Bool :=
  c.outKind o != 2 && (List.range 4).any fun d =>
    let p := c.port d
    p.en && (c.halves o).contains p.src && (c.fb (OUT_LINK_TRAINED d) || p.fresh) && !(c.fb (OUT_LINK_SINK_ASYNC d) && c.rangeCovers o p)

/-- The timing that output `o`'s registers give. -/
def Chip.wantedTiming (c : Chip) (o : Nat) : Timing :=
  let kind := c.outKind o
  let mode := if kind = 2 then c.f (OUT_CTL_CRT_MODE o) else 0
  let inter := kind == 2 && (mode == 2 || (crtMode mode == none && c.fb (OUT_CTL_INTERLACE o)))
  let adapt := c.fb (OUT_CTL_ADAPT o) && !inter && !c.sinkRefuses o
  let vmax := c.f (OUT_VRANGE_VTOTAL_MAX o)
  let bpc := c.fb (OUT_CTL_BPC8 o)
  let cs := c.fb (OUT_CTL_CSYNC o)
  match crtMode mode with
  | some m => ⟨m.hz, m.hactive, m.htotal, m.hsStart, m.hsEnd, m.pol, m.pol, m.vactive, m.vstart, m.vsync, m.vtotal, vmax, kind,
      bpc, adapt, inter, cs, mode⟩
  | none => ⟨1000 * c.f (OUT_PIXCLK_KHZ o), c.f (OUT_HTIME_HACTIVE o), c.f (OUT_HTIME_HTOTAL o), c.f (OUT_HSYNC_HS_START o),
      c.f (OUT_HSYNC_HS_END o), c.fb (OUT_HSYNC_HPOL o), c.fb (OUT_HSYNC_VPOL o), c.f (OUT_VTIME_VACTIVE o),
      c.f (OUT_VTIME_VSTART o), c.f (OUT_VTIME_VSYNC o), c.f (OUT_VRANGE_VTOTAL_MIN o), vmax, kind, bpc, adapt, inter, cs, 0⟩

/-- The limits of R287; VTOTAL_MAX is ignored while ADAPT is 0 (R293, log entry 65). -/
def Timing.ok (t : Timing) : Bool :=
  within 64 3841 t.hactive && t.hactive % 8 == 0
    && within (t.hactive + 32) 16384 t.htotal
    && Nat.ble t.hactive t.hsStart && Nat.blt t.hsStart t.hsEnd && Nat.ble t.hsEnd t.htotal
    && within 16 2161 t.vactive && (!t.interlace || t.vactive % 2 == 0)
    && Nat.ble 1 t.vsync && Nat.blt t.vsync t.vstart && Nat.ble t.vstart 255
    && Nat.ble (t.vstart + t.vactive + 1) t.vmin && Nat.ble t.vmin 16383 && (!t.adapt || within t.vmin 16384 t.vmax)
    && (if t.kind = 2 then within 8000000 200000001 t.hz && Nat.ble (15000 * t.htotal) t.hz && Nat.ble t.hz (64000 * t.htotal)
        else within 25000000 1350000001 t.hz)

/-- Take the timing of the governing output `o` for output `h`, or keep the previous one with TIMING_ERR (R287). -/
def latchTiming (o h : Nat) (c : Chip) : Chip :=
  let t := c.wantedTiming o
  let c := if c.fb (OUT_CTL_ADAPT o) && !t.interlace && c.sinkRefuses o then outEvt h 13 c else c
  if t.ok then c.modOut h fun x => { x with timing := t } else outEvt h 10 c

/-- The lines of the frame or field in progress (R291 to R293, R317): with an odd VTOTAL_MIN field 0 has begun the line
in whose middle field 1 starts. -/
def Output.frameLines (x : Output) : Nat :=
  if x.timing.interlace then (if x.field = 0 then (x.timing.vmin + 1) / 2 else x.timing.vmin / 2) else x.timing.vmin

/-- The field in progress ends in mid-line (R317). -/
def Output.midLine (x : Output) : Bool := x.timing.interlace && x.timing.vmin % 2 == 1 && x.field == 0

/-! ### The beam -/

/-- The column of the beam: pixel clocks since the line start. -/
def Chip.beamX (c : Chip) (o : Nat) : Nat :=
  let x := c.out o
  min (x.timing.htotal - 1) ((c.now - x.lineAt) * x.timing.hz / 1000000000)

/-- OUT_BEAM as it reads. -/
def readBeam (o : Nat) (c : Chip) : Word :=
  let l := c.lead o
  if c.running o then Word.of ((c.out l).v + 65536 * c.beamX l + 2 ^ 30 * (c.out l).field) else 0

/-- Lines committed ahead of the output stage's reading: the ring lead (R198).  A line that is partly read is ahead no longer. -/
def Chip.ringLead (c : Chip) (o : Nat) : Nat :=
  let x := c.out o
  let segs := (x.timing.hactive + 511) / 512
  let first := x.rdLine + if x.rdSeg = 0 then 0 else 1
  let ready (i : Nat) := (List.range segs).all fun j => c.committed o ((first + i) % 16) j
  match (List.range 16).find? (fun i => !ready i) with | some n => n | none => 16

/-- Output `o` is in emergency (R198): its lead is EMERG_LEAD lines or fewer, never with EMERG_LEAD 0.  Once its last line has been read
no line of the frame can run short, and the model counts no emergency until the next frame start: the manual does not say (log entry
173). -/
def Chip.emergency (c : Chip) (o : Nat) : Bool :=
  let l := c.xf MEM_ARB_EMERG_LEAD 2
  c.running o && Nat.blt (c.out o).rdLine (c.out o).lines && l != 0 && Nat.ble (c.ringLead o) l

/-! ### Line-timed writes (R270, R301) -/

/-- The group that holds output `o`'s line-timed writes. -/
def Chip.logGroup (c : Chip) (o : Nat) : Nat := if o % 2 = 1 && (c.grp (o - 1)).paired then o - 1 else o

/-- Write `a` is performed before write `b`: line, pixel, unit; issue order decides among equals. -/
def LineWrite.earlier (a b : LineWrite) : Bool :=
  Nat.blt a.line b.line || (a.line == b.line && (Nat.blt a.pixel b.pixel || (a.pixel == b.pixel && Nat.blt a.u b.u)))

/-- The first of a list of writes in that order. -/
def firstWrite : List LineWrite → Option LineWrite
  | [] => none
  | w :: t => match firstWrite t with
    | none => some w
    | some v => if v.earlier w then some v else some w

/-- Perform write `w`: a palette entry is stored whole, or OUT_BGCOLOR takes its value; its place is free. -/
def performWrite (w : LineWrite) (c : Chip) : Chip :=
  let g := c.logGroup w.out
  let c := c.modGrp g fun x => { x with log := x.log.erase w }
  match w.entry with
  | some e => c.memStore (.palette w.out) (0x1018000000 + w.out * 0x20000 + e * 8) (leBytes 8 w.val)
  | none => c.setReg (OUT_BGCOLOR w.out) (Word.of (w.val % 2 ^ 30))

/-- Perform the closed writes of output `o` that `due` picks, in order. -/
def performDue (o : Nat) (due : LineWrite → Bool) : Nat → Chip → Chip
  | 0, c => c
  | n + 1, c =>
    match firstWrite ((c.grp (c.logGroup o)).log.filter fun w => w.out == o && w.closed && due w) with
    | some w => performDue o due n (performWrite w c)
    | none => c

/-- Every write of a line before `line` is performed: PIXEL at or above HACTIVE, and those of fill pixels, at the line's
end. -/
def performBefore (o line : Nat) (c : Chip) : Chip :=
  performDue o (fun w => Nat.blt w.line line) (c.grp (c.logGroup o)).log.length c

/-- The line of R260 at which the beam stands; none outside the active lines. -/
def Chip.beamLine (c : Chip) (o : Nat) : Option Nat :=
  let x := c.out o
  let v := (c.out (c.lead o)).v
  if within x.timing.vstart (x.timing.vstart + x.lines) v then some (x.lineOf (v - x.timing.vstart)) else none

/-- LINE_TIMED_WRITE_PERFORM (R270): the beam reaches the LINE and PIXEL of the first closed write that is due. -/
def execLineTimedWritePerform (o : Fin 4) (s : State) : Out :=
  s.go fun c =>
    match c.beamLine o with
    | some l =>
      if c.running o && c.outUp o then
        let x := c.out o
        let lim := match x.lateFrom with | some p => min p x.timing.hactive | none => x.timing.hactive
        performDue o (fun w => Nat.blt w.line l || (w.line == l && Nat.blt w.pixel lim && Nat.ble w.pixel (c.beamX (c.lead o)))) 1 c
      else c
    | none => c

/-! ### The frame start (R289 to R295, R303, R453, R455, R477) -/

/-- The number of the frame that starts on the governing output `o` (R294): `num` from a follow message, what was written, or the next. -/
def Chip.frameNumber (c : Chip) (o : Nat) (num : Option Word) : Word :=
  match num, (c.out o).nextNo with | some n, _ => n | none, some n => n | none, none => c.reg (OUT_FRAME_COUNT o) + 1

/-- What a frame start does to output `h` alone, governed by `o`: frame `n` starts, and `wrap` tells that the count passed to 0. -/
def frameStartHalf (o h : Nat) (ready late : Bool) (n : Word) (wrap : Bool) (c : Chip) : Chip :=
  let x := c.out h
  let c := performDue h (fun _ => true) (c.grp (c.logGroup h)).log.length c
  let c := c.setF (OUT_FRAME_STAT_LAST_VTOTAL h) (if x.starting then 0 else (c.out o).v + 1)
  let c := c.setF (OUT_FRAME_STAT_UNDERRUNS h) (if x.starting then 0 else x.unders)
  let c := outEvt h 0 (c.setReg (OUT_FRAME_COUNT h) n)
  let c := if wrap then outEvt h 6 c else c
  let c := if late then outEvt h 7 c else c
  let c := latchTiming o h c
  let c := if ready then sceneLatch h c else c
  let c := c.setF (COMP_OVF_LINE_VALID h) 0
  let c := c.modOut h fun x => { x with
    field := if x.timing.interlace && !x.starting then 1 - x.field else 0
    sealOn := c.fb (OUT_CTL_SEAL_EN h)
    crc := 0xFFFFFFFF
    rdLine := 0
    rdSeg := 0
    fill := false
    lateFrom := none
    unders := 0
    sent := []
    doneFrame := false
    nextNo := none
    binBusy := true
    binned := false
    phBase := c.f (COMP_PH_BASE_BASE h) * 4096
    stride := 1024 * max 1 (min 32 (c.xf (COMP_XCTL_STRIDE_KB h) 8))
    coefSrc := c.xf (COMP_XCTL_COEF_SRC0 h) 0 + 2 * c.xf (COMP_XCTL_COEF_SRC1 h) 0
    xstatAge := min 2 (x.xstatAge + 1) }
  let c := if Nat.ble 2 (c.out h).xstatAge then c.setF (COMP_XSTAT_VALID h) 0 else c
  let base := h * 2048
  let c := { c with disp := { c.disp with
    commit := swipe c.disp.commit (h * 128) (h * 128 + 128)
    coefOn := (swipe c.disp.coefOn base (base + 2048)).filter (fun p => p.1 < base)
      ++ c.disp.coef.filter (fun p => within base (base + 2048) p.1)
      ++ (swipe c.disp.coefOn base (base + 2048)).filter (fun p => Nat.ble (base + 2048) p.1) } }
  noticeFrame h c

/-- Payload of a lane in kb/s by RATE code (R308); 6 and 7 act as 5. -/
def lanePayload (r : Nat) : Nat :=
  match r with | 0 => 1296000 | 1 => 2160000 | 2 => 4320000 | 3 => 6480000 | 4 => 9697000 | _ => 13091000

/-- The lanes of a LANES code; 3 acts as 2. -/
def laneCount (l : Nat) : Nat := match l with | 0 => 1 | 1 => 2 | _ => 4

/-- What the stream of port `d` needs in kb/s (R308): nothing where its output is stopped or analog. -/
def Chip.streamNeed (c : Chip) (d : Nat) : Nat :=
  let p := c.port d
  let t := (c.out p.src).timing
  if p.en && c.running p.src && !c.analog p.src then t.hz / 1000 * (if t.bpc8 then 24 else 30) else 0

/-- The link of port `d` offers the payload that its stream needs (R308). -/
def Chip.linkFits (c : Chip) (d : Nat) : Bool :=
  Nat.ble (c.streamNeed d) (lanePayload (c.f (OUT_LINK_RATE d)) * laneCount (c.f (OUT_LINK_LANES d)))

/-- The stream of port `d` as its output starts a frame (R308, R309, R311): a trained link that offers the payload carries it from now on;
one that does not sends the idle pattern with LINK_BW, and with FORCE 0 the port trains another; so it does where no link is trained and
a stream needs one. -/
def checkLink (d : Nat) (c : Chip) : Chip :=
  let p := c.port d
  let auto := c.xf (OUT_XLINK_FORCE d) 0 == 0
  if c.fb (OUT_LINK_TRAINED d) || p.fresh then
    (if c.linkFits d then
      (if p.fresh then (c.setF (OUT_LINK_TRAINED d) 1).setPort d { p with fresh := false, training := false } else c)
    else (outEvt d 12 (c.setF (OUT_LINK_TRAINED d) 0)).setPort d { p with fresh := true, training := auto })
  else if auto && c.fb (OUT_LINK_HPD d) && c.streamNeed d != 0 then c.setPort d { p with training := true }
  else c

/-- Port `d` has stopped and sends the idle pattern (R306): output `s` is the next that it carries, and where the link offers too little
for its stream, the port retrains in between. -/
def turnPort (d s : Nat) (e : Bool) (c : Chip) : Chip :=
  let p := c.port d
  let up := p.fresh || c.fb (OUT_LINK_TRAINED d)
  let c := (c.setPort d { p with src := s, en := e, pend := some (s, e, true, false), fresh := up }).setF (OUT_LINK_TRAINED d) 0
  if up && !c.linkFits d && c.xf (OUT_XLINK_FORCE d) 0 == 0 then c.setPort d { c.port d with training := true } else c

/-- The ports that wait for output `o`: a port that has stopped starts it at its frame start (R306, R311). -/
def portFrame (o : Nat) (c : Chip) : Chip :=
  forAll (List.range 4) (fun d c =>
    let p := c.port d
    let q : Port := match p.pend with
      | some (s, e, true, _) => if s = o then { p with pend := some (s, e, true, true) } else p
      | _ => p
    let c := c.setPort d q
    if q.src = o then checkLink d c else c) c

/-- Step 4 of a handover on the old Lead (R488): TWIN_LEAD is released and the roles change. -/
def handOff (c : Chip) : Chip :=
  let c := { c with zow := { c.zow with handover := none, leaseOn := false, leadWait := false, audioHeld := true } }
  let c := giveShadows (c.modFu fun u => { u with role := 2, holdRequests := false })
  (c.setF ZOW_STATUS_ROLE 2).setRegBit ZOW_EVT 6 true

/-- A frame start of the governing output `o` (R290 to R295).  `ready` latches the scene, `late` sets FRAME_LATE, `num` is a
frame number taken from a follow message. -/
def frameStart (o : Nat) (ready late mid : Bool) (num : Option Word) (c : Chip) : Chip :=
  let hs := c.halves o
  let c := forAll hs endUnits c
  let n := c.frameNumber o num
  let wrap := c.reg (OUT_FRAME_COUNT o) == 0xFFFFFFFF && n == 0
  let c := forAll hs (fun h c => frameStartHalf o h ready late n wrap c) c
  let c := if ready then c.setF (OUT_SCENE_READY o) 0 else c
  let c := forAll hs (fun h c => c.modOut h fun x => { x with v := 0, starting := false, halfLine := mid,
                                                              lineAt := if mid then x.lineAt else c.now }) c
  let c := forAll hs regroup c
  let c := forAll hs (fun h c =>
    let c := checkScene h c
    let c := if !mid && c.f (OUT_LINE_MATCH_MATCH h) = 0 then outEvt h 2 c else c
    let c := portFrame h c
    forAll (List.range 32) (fun k c => captureInput k (3 + h) c) c) c
  let c := if c.isLead then { c with zow := { c.zow with
      audioHeld := false
      leaseOn := c.zow.leaseOn || c.zow.leadWait
      leaseAt := if c.zow.leadWait then c.now else c.zow.leaseAt
      leadWait := false } } else c
  let c := if c.paired && c.isLead then c.zowSend 4 else c
  if c.zow.handover.isSome && c.isLead && c.fu.acksDue = [] then handOff c else c

/-- Output `o` follows the Lead's output (R477). -/
def Chip.follows (c : Chip) (o : Nat) : Bool := c.paired && c.isMirror && c.fb (OUT_CTL_EN o)

/-- Why the next line start, or the middle of the present line, is a frame start (R289, R291 to R293, R317, R477). -/
def Chip.frameDue (c : Chip) (o : Nat) : Bool :=
  let x := c.out o
  let t := x.timing
  if x.starting then true
  else if c.follows o then x.v + 1 == t.vmax + 2
  else if t.adapt then (Nat.ble t.vmin (x.v + 1) && c.fb (OUT_SCENE_READY o)) || Nat.ble t.vmax (x.v + 1)
  else if x.halfLine then false
  else Nat.ble x.frameLines (x.v + 1)

/-- A port whose old output reaches VBLANK_START stops (R306). -/
def portBlank (o : Nat) (c : Chip) : Chip :=
  forAll (List.range 4) (fun d c =>
    let p := c.port d
    match p.pend with
    | some (s, e, false, _) => if p.src = o then turnPort d s e c else c
    | _ => c) c

/-- Output `o` stops, with the other half of a pair, in place of a frame start: EN was written 0 after VBLANK_START (R289, log
entry 147). -/
def stopInstead (o : Nat) (c : Chip) : Chip :=
  forAll (c.halves o) (fun h c => (portBlank h (c.setF (OUT_CTL_RUNNING h) 0)).modOut h fun x => { x with starting := false }) c

/-- The frame start that is due; with EN 0 no further frame starts. -/
def dueFrame (o : Nat) (c : Chip) : Chip :=
  if !c.fb (OUT_CTL_EN o) then stopInstead o c else
  let x := c.out o
  let ready := c.fb (OUT_SCENE_READY o)
  let lost := !x.starting && c.follows o
  let c := if lost then c.setRegBit ZOW_EVT 9 true else c
  frameStart o ready (!ready && !(x.starting && x.timing.adapt)) (x.midLine && !x.starting) none c

/-! ### The line start (R285, R286, R295, R296) -/

/-- The events of output `h` at the start of line `v`. -/
def lineEvents (h v : Nat) (c : Chip) : Chip :=
  let x := c.out h
  let t := x.timing
  let c := if v = c.f (OUT_LINE_MATCH_MATCH h) then outEvt h 2 c else c
  let c := if v = t.vstart + x.lines then portBlank h (outEvt h 1 c) else c
  let c := if v = t.vstart && !x.binned then c.flag (COMP_EVT_BIN_LATE h) else c
  if within t.vstart (t.vstart + x.lines) v then
    dropAtLine h (v - t.vstart) (performBefore h (x.lineOf (v - t.vstart)) c)
  else if v = t.vstart + x.lines then performDue h (fun _ => true) (c.grp (c.logGroup h)).log.length c
  else c

/-- The output stops at VBLANK_START where EN is 0 (R289). -/
def stopAtBlank (o v : Nat) (c : Chip) : Chip :=
  let x := c.out o
  if v = x.timing.vstart + x.lines && !c.fb (OUT_CTL_EN o) then
    forAll (c.halves o) (fun h c => c.setF (OUT_CTL_RUNNING h) 0) c
  else c

/-- The beam of output `o` starts a line that is no frame start. -/
def nextLine (o : Nat) (c : Chip) : Chip :=
  let v := if (c.out o).halfLine then 0 else (c.out o).v + 1
  let c := forAll (c.halves o) (fun h c => c.modOut h fun x => { x with v := v, halfLine := false, lineAt := c.now }) c
  let c := forAll (c.halves o) (fun h c => lineEvents h v c) c
  stopAtBlank o v c

/-- The line start of the governing output `o`: a frame start where one is due, else the next line.  A field that begins in
mid-line has begun before it. -/
def lineStart (o : Nat) (c : Chip) : Chip :=
  if c.frameDue o then
    let c := dueFrame o c
    if (c.out o).halfLine then nextLine o c else c
  else nextLine o c

/-- The output runs and has a beam of its own. -/
def Chip.beamRuns (c : Chip) (o : Nat) : Bool := c.running o && c.lead o == o && c.outUp o

/-- LINE_START (R285, R290, R295). -/
def execLineStart (o : Fin 4) (s : State) : Out := s.go fun c => if c.beamRuns o then lineStart o c else c

/-- FRAME_START (R289, R291 to R293, R317): the frame start that is due. -/
def execFrameStart (o : Fin 4) (s : State) : Out := s.go fun c => if c.beamRuns o && c.frameDue o then dueFrame o c else c

/-! ### The output stage (R297 to R303) -/

/-- A pixel narrowed to 8 bits per channel (R243). -/
def narrow8 (v : Nat) : Nat :=
  let q (x : Nat) := min 255 ((x + 2) / 4)
  q (nbits v 9 0) + q (nbits v 19 10) * 2 ^ 10 + q (nbits v 29 20) * 2 ^ 20

/-- The sorter that holds a unit of output `o`'s line index `i`, not drawn yet. -/
def Chip.holderOf (c : Chip) (o i : Nat) : Option Nat :=
  (List.range 48).find? fun s => match (c.comp s).held with
    | some h => h.out == o && h.idx == i && !h.drawn && !h.abandoned && ((c.grp (c.logGroup o)).members.contains s)
    | none => false

/-- The sorter that was offered the unit of output `o`'s line index `i` and has not taken it. -/
def Chip.offeredTo (c : Chip) (o i : Nat) : Option Nat :=
  (List.range 48).find? fun s => match (c.comp s).offered with
    | some h => h.out == o && h.idx == i && (c.grp (c.logGroup o)).members.contains s
    | none => false

/-- Line index `i` of output `o` is sent under the underrun rule: its unit is abandoned, or dropped if no member holds it
(R279, R280, log entry 146). -/
def missLine (o i : Nat) (c : Chip) : Chip :=
  match c.holderOf o i with
  | some s => abandonHeld s c
  | none => match c.offeredTo o i with
    | some s => dropOffered s c
    | none => dropAtLine o i c

/-- OUT_BGCOLOR in force at column `x` of a fill pixel (R298, R301): writes at fill pixels of the underrun rule wait for the
line's end. -/
def Chip.fillPx (c : Chip) (o line x : Nat) : Nat :=
  let t := c.out o
  let ws := (c.grp (c.logGroup o)).log.filter fun w =>
    w.out == o && w.closed && (Nat.blt w.line line || (match t.lateFrom with | some p => Nat.blt w.pixel p | none => true))
  bgAt ⟨o, line, c.colOffset o, [], ws⟩ x c

/-- A line of output `o` shows its first fill pixel: once per line (R295). -/
def startFill (o bit : Nat) (c : Chip) : Chip :=
  let c := outEvt o bit c
  if (c.out o).fill then c else c.modOut o fun x => { x with fill := true, unders := min (x.unders + 1) 16383 }

/-- One pixel at column `x` through the output stage (R51, R299, R300, R302); `bad` tells of a parity error (R166). -/
def stagePx (o line : Nat) (gs : List NoticeRegion) (bad : Bool) (x : Nat) (c : Chip) : Chip :=
  let t := c.out o
  let r := sget z0 c.disp.ring ((o * 16 + t.rdLine % 16) * 4096 + x)
  let c := if !t.fill && (bad || r.testBit 30) then (startFill o 5 c).poisonRecord (104 + o) 0 else c
  let fill := (c.out o).fill
  let v := if fill then c.fillPx o line x else r % 2 ^ 30
  let c := c.modOut o fun y => { y with crc := (leBytes 4 (v + 2 ^ 30 * fill.toNat)).foldl crcByte y.crc }
  let ((w, late), c) := overlayPx o gs (x + c.colOffset o) line v c
  let c := if late then noticeLate o ((gs.find? fun g => g.has (x + c.colOffset o) line).elim 0 fun g => 2 ^ g.idx) c else c
  c.modOut o fun y => { y with sent := (if y.timing.bpc8 && y.timing.kind != 2 then narrow8 w else w) :: y.sent }

/-- The read of the next segment (R297 to R300); `parity` is the first pixel of it with a parity error. -/
def readSegment (o : Nat) (parity : Option Nat) (c : Chip) : Chip :=
  let x := c.out o
  let i := x.rdLine
  let j := x.rdSeg
  let line := x.lineOf i
  let c := if j = 0 then c.modOut o fun x => { x with fill := false, lateFrom := none, sent := [] } else c
  let c :=
    if !(c.out o).fill && !c.committed o (i % 16) j then
      missLine o i ((startFill o 4 c).modOut o fun x => { x with lateFrom := some (512 * j) })
    else c
  let ((gs, p), c) := if c.fu.vdd && c.fu.ready then readRegions o c else (([], false), c)
  let c := if p then noticeLate o 256 c else c
  let c := forAll ((List.range 512).filter fun k => Nat.blt (512 * j + k) x.timing.hactive) (fun k c =>
    stagePx o line gs (parity == some k) (512 * j + k) c) c
  let segs := (x.timing.hactive + 511) / 512
  if Nat.ble segs (j + 1) then
    let c := forAll (List.range segs) (fun k c => setCommit o (i % 16) k false c) c
    c.modOut o fun x => { x with rdLine := i + 1, rdSeg := 0 }
  else c.modOut o fun x => { x with rdSeg := j + 1 }

/-- The fetch lead in nanoseconds (R297, R323). -/
def Chip.fetchLead (c : Chip) (o : Nat) : Nat := max 50 (c.xf (OUT_XFETCH_LEAD_NS o) 100)

/-- The beam is within the fetch lead of the pixel clock of the next segment's first column, or past it (R297). -/
def Chip.segmentDue (c : Chip) (o : Nat) : Bool :=
  let x := c.out o
  let l := c.out (c.lead o)
  let v := x.timing.vstart + x.rdLine
  Nat.blt v l.v || Nat.ble (((v - l.v) * x.timing.htotal + 512 * x.rdSeg) * 1000000000) ((c.now - l.lineAt + c.fetchLead o) * x.timing.hz)

/-- OUT_SEGMENT_READ (R297): the output stage reads the next segment, ahead of the beam by the fetch lead. -/
def execOutSegmentRead (o : Fin 4) (parity : Option (Fin 512)) (s : State) : Out :=
  s.go fun c =>
    let x := c.out o
    if c.running o && c.outUp o && !x.starting && Nat.blt x.rdLine x.lines && c.segmentDue o then
      readSegment o (parity.map (·.val)) c
    else c

/-- A seal is compared with the partner's of the same output and frame (R478). -/
def compareSeal (o frame crc other : Nat) (c : Chip) : Chip :=
  if crc = other then c
  else
    let c := c.countF ZOW_SEAL_MISS_COUNT
    let c := (c.setF ZOW_SEAL_MISS_OUT o).setReg ZOW_SEAL_LAST (Word.of frame)
    let c := c.setRegBit ZOW_EVT 7 true
    { c with zow := { c.zow with cleanFrames := 0 } }

/-- The seal of a frame is sent and compared while the twins exchange seals (R478). -/
def ownSeal (o frame crc : Nat) (c : Chip) : Chip :=
  if !(c.paired && c.fb ZOW_CTL_SEAL_EN) then c
  else
    let c := c.zowSend 4
    let c := { c with zow := { c.zow with
      ownSeals := smod (fun _ => []) c.zow.ownSeals o fun l => ((frame, crc) :: l).take 16
      cleanFrames := c.zow.cleanFrames + 1 } }
    match (sget (fun _ => []) c.zow.peerSeals o).find? fun p => p.1 == frame with
    | some p => compareSeal o frame crc p.2 c
    | none => c

/-- The end of a frame's active pixels (R295, R303, R453): the seal and its frame number are latched together. -/
def frameDone (o : Nat) (c : Chip) : Chip :=
  let x := c.out o
  let crc : Word := if x.sealOn then ~~~x.crc else 0
  let frame := c.reg (OUT_FRAME_COUNT o)
  let c := (c.setReg (OUT_SEAL o) crc).setReg (OUT_SEAL_FRAME o) frame
  let c := (outEvt o 3 c).modOut o fun x => { x with doneFrame := true }
  let c := if x.sealOn then ownSeal o frame.toNat crc.toNat c else c
  noticeCheck o c

/-- FRAME_DONE (R295, R303): the last active pixel has been sent. -/
def execFrameDone (o : Fin 4) (s : State) : Out :=
  s.go fun c =>
    let x := c.out o
    if c.running o && c.outUp o && !x.starting && !x.doneFrame && Nat.ble x.lines x.rdLine then frameDone o c else c

/-! ### Enabling and pairing (R289, R290, R304, R305) -/

/-- A stopped output starts, if its timing is within the limits (R287, R289). -/
def startOutput (o : Nat) (c : Chip) : Chip :=
  let hs := c.halves o
  if (c.wantedTiming o).ok then
    forAll hs (fun h c => ((latchTiming o h c).setF (OUT_CTL_RUNNING h) 1).modOut h fun x =>
      { x with starting := true, v := 0, field := 0, halfLine := false, lineAt := c.now, rdLine := 0, rdSeg := 0 }) c
  else forAll hs (fun h c => outEvt h 10 c) c

/-- A write of OUT_CTL: PAIR only while both outputs are stopped with KIND 0 or 1 (R305); EN starts, or asks to stop
(R289). -/
def writeOutCtl (o : Nat) (v : Word) (c : Chip) : Chip :=
  let old := c.fb (OUT_CTL_PAIR o)
  let pair := o % 2 == 0 && v.bit 5
  let c := c.setReg (OUT_CTL o) ((writeWord false (OUT_CTL o) (c.reg (OUT_CTL o)) v).setBit 5 old)
  let c :=
    if o % 2 = 1 || pair = old then c
    else if !c.running o && !c.running (o + 1) && c.outKind o != 2 && c.outKind (o + 1) != 2 then
      (c.setF (OUT_CTL_PAIR o) pair.toNat).modOut o fun x => { x with pairOn := pair }
    else outEvt o 14 c
  if c.lead o = o && v.bit 0 && !c.running o then startOutput o c else c

/-- OUT_ENABLE (R289): a write of OUT_CTL with EN as given and its other fields as they are. -/
def execOutEnable (o : Fin 4) (en : Bool) (s : State) : Out :=
  s.go fun c => if c.outUp o then writeOutCtl o ((c.reg (OUT_CTL o)).setBit 0 en) c else c

/-- PAIR_WRITE (R305): a write of OUT_CTL with PAIR as given and its other fields as they are. -/
def execPairWrite (o : Fin 4) (pair : Bool) (s : State) : Out :=
  s.go fun c => if c.outUp o then writeOutCtl o ((c.reg (OUT_CTL o)).setBit 5 pair) c else c

/-- SCENE_READY (R290). -/
def execSceneReady (o : Fin 4) (s : State) : Out := s.go fun c => if c.outUp o then c.setF (OUT_SCENE_READY o) 1 else c

/-- A write of OUT_FRAME_COUNT sets the number that the next frame start gives (R294). -/
def writeFrameCount (o : Nat) (v : Word) (c : Chip) : Chip := c.modOut o fun x => { x with nextNo := some v }

/-! ### Beam capture (R321, R322) -/

/-- The selected edge of OUT_CAP_CTL. -/
def Chip.capEdge (c : Chip) (o : Nat) (level : Bool) : Bool :=
  match c.f (OUT_CAP_CTL_EDGE o) with | 1 => !level | 2 => true | _ => level

/-- The edge on its way, met by the beam at column `x`: the position is moved back and kept if it is an active pixel. -/
def beamCapture (o x : Nat) (c : Chip) : Chip :=
  let l := c.out (c.lead o)
  let t := l.timing
  let pos : Int := (l.v * t.htotal + x : Int) - c.f (OUT_CAP_CTL_COMP o)
  let v := pos.toNat / t.htotal
  let col := pos.toNat % t.htotal
  if decide (pos < 0) || !within t.vstart (t.vstart + l.lines) v || Nat.ble t.hactive col then c
  else
    let c := if c.regBit (OUT_EVT o) 8 then outEvt o 9 c else c
    outEvt o 8 (c.setReg (OUT_CAP o) (Word.of (v + 65536 * col + 2 ^ 30 * l.field)))

/-- BEAM_CAPTURE (R321): the edge that arrived at the pin of BEAMCAPo passes the synchroniser with the beam at column `x`. -/
def execBeamCapture (o : Fin 4) (x : Fin 16384) (s : State) : Out :=
  s.go fun c =>
    match sget (fun _ => none) c.pins.beam o with
    | none => c
    | some level =>
      let c := { c with pins := { c.pins with beam := sset (fun _ => none) c.pins.beam o none } }
      if c.running o && c.outUp o && c.fb (OUT_CAP_CTL_EN o) && c.capEdge o level && Nat.blt x (c.out (c.lead o)).timing.htotal then
        beamCapture o x c
      else c

/-- A read of OUT_CAP (R322). -/
def readOutCap (o : Nat) (peek : Bool) (c : Chip) : Word × Chip :=
  (c.reg (OUT_CAP o), if peek then c else c.setRegBit (OUT_EVT o) 8 false)

/-! ### A unit reset of an output (R289) -/

/-- Units held for output `o` are abandoned, and its generator stops at once, with the right half that it governs (R304). -/
def outUnitReset (o : Nat) (c : Chip) : Chip :=
  let c := forAll (List.range 48) (fun s c => match (c.comp s).held with
    | some h => if h.out = o then abandonUnit s c else c
    | none => c) c
  let c := forAll (c.halves o) (fun h c => portBlank h (c.setF (OUT_CTL_RUNNING h) 0)) c
  c.modOut o fun x => { x with starting := false, v := 0, field := 0, halfLine := false, binBusy := false, sent := [] }

end Sys2Proof.Machine
end

