-- ==== Sys2Proof/Machine/Ports.lean ====
section
/-! DEFINITION. The ports DP0 to DP3 (R306 to R312), the analog pins (R315, R318, R319) and OUT_XDAC's trim. -/

namespace Sys2Proof.Machine

/-! ### The crossbar (R306) -/

/-- A write of OUT_XBAR (R306): a change waits for the old output's VBLANK_START; while one is pending it is replaced.  A
port that sends nothing has stopped already. -/
def writeXbar (d : Nat) (v : Word) (c : Chip) : Chip :=
  let p := c.port d
  let s := v.bits 1 0
  let e := v.bit 2
  let c := (c.setF (OUT_XBAR_SRC d) s).setF (OUT_XBAR_EN d) e.toNat
  match p.pend with
  | some (_, _, true, _) => turnPort d s e c
  | some (_, _, false, _) => c.setPort d { p with pend := some (s, e, false, false) }
  | none =>
    if s = p.src && e = p.en then c
    else
      let c := c.setF (OUT_XBAR_PENDING d) 1
      if !p.en || !c.running p.src || c.analog p.src then turnPort d s e c
      else c.setPort d { p with pend := some (s, e, false, false) }

/-- XBAR_WRITE (R306). -/
def execXbarWrite (d : Fin 4) (src : Fin 4) (en : Bool) (s : State) : Out :=
  s.go fun c => if c.outUp d then writeXbar d (Word.of (src.val + 4 * en.toNat)) c else c

/-- XBAR_DONE (R306): the port has stopped, and its new output has started a frame since, or the port is out of use. -/
def execXbarDone (d : Fin 4) (s : State) : Out :=
  s.go fun c =>
    let p := c.port d
    match p.pend with
    | some (n, e, true, started) =>
      if (started || !e) && c.outUp d then
        outEvt d 15 ((c.setPort d { p with src := n, en := e, pend := none }).setF (OUT_XBAR_PENDING d) 0)
      else c
    | _ => c

/-! ### The link (R307 to R311) -/

/-- `a` comes before `b` in the choice of R309: less payload, then fewer lanes. -/
def linkBefore (a b : Nat × Nat) : Bool :=
  let pa := lanePayload a.1 * laneCount a.2
  let pb := lanePayload b.1 * laneCount b.2
  Nat.blt pa pb || (pa == pb && Nat.blt a.2 b.2)

/-- The link of least payload. -/
def leastLink : List (Nat × Nat) → Option (Nat × Nat)
  | [] => none
  | p :: t => match leastLink t with
    | none => some p
    | some q => if linkBefore q p then some q else some p

/-- The link that port `d` trains (R309): the forced one, or the least that carries the stream among those that the sink
supports. -/
def Chip.chooseLink (c : Chip) (d : Nat) (rates : List Nat) (lanes : Nat) : Option (Nat × Nat) :=
  if c.xf (OUT_XLINK_FORCE d) 0 = 1 then
    let l := (min 5 (c.f (OUT_XLINK_RATE d)), min 2 (c.f (OUT_XLINK_LANES d)))
    if Nat.ble (c.streamNeed d) (lanePayload l.1 * laneCount l.2) then some l else none
  else
    leastLink (((List.range 6).filter rates.contains).flatMap (fun r => ((List.range 3).filter fun l => Nat.ble l lanes).map fun l => (r, l))
      |>.filter fun p => Nat.ble (c.streamNeed d) (lanePayload p.1 * laneCount p.2))

/-- HPD_RISE (R309). -/
def execHpdRise (d : Fin 4) (s : State) : Out :=
  s.go fun c =>
    if c.outUp d then
      (c.setF (OUT_LINK_HPD d) 1).setPort d { c.port d with training := c.xf (OUT_XLINK_FORCE d) 0 = 0 }
    else c

/-- The port carries an output that runs: a link trained now takes effect at its next frame start (R311). -/
def Chip.portBusy (c : Chip) (d : Nat) : Bool := let p := c.port d; p.en && c.running p.src && !c.analog p.src

/-- LINK_TRAINED (R308, R309, R311): the training that port `d` performs ends; `rates` and `lanes` are what the sink supports, `async` that
it reports Adaptive-Sync, `range` its lowest and highest refresh rate in Hz (R310).  A link that cannot carry the stream is trained only
where FORCE asks for it. -/
def execLinkTrained (d : Fin 4) (rates : List Nat) (lanes : Fin 3) (async : Bool) (range : Nat × Nat) (s : State) : Out :=
  s.go fun c =>
    if !(c.outUp d && c.fb (OUT_LINK_HPD d) && (c.port d).training) then c
    else
      let link := c.chooseLink d rates lanes
      let forced := c.xf (OUT_XLINK_FORCE d) 0 == 1
      let c := c.setPort d { c.port d with training := false, range := range, fresh := if link.isSome then c.portBusy d else forced }
      let c := c.setF (OUT_LINK_SINK_ASYNC d) async.toNat
      match link with
      | some l => ((c.setF (OUT_LINK_TRAINED d) (!c.portBusy d).toNat).setF (OUT_LINK_RATE d) l.1).setF (OUT_LINK_LANES d) l.2
      | none =>
        let c := outEvt d 12 (c.setF (OUT_LINK_TRAINED d) 0)
        if forced then
          (c.setF (OUT_LINK_RATE d) (min 5 (c.f (OUT_XLINK_RATE d)))).setF (OUT_LINK_LANES d) (min 2 (c.f (OUT_XLINK_LANES d)))
        else c

/-- LINK_FAIL (R311): hot-plug detect falls, or the link fails. -/
def execLinkFail (d : Fin 4) (hpdFell : Bool) (s : State) : Out :=
  s.go fun c =>
    if c.outUp d && c.fb (OUT_LINK_HPD d) then
      let c := outEvt d 11 (c.setF (OUT_LINK_TRAINED d) 0)
      let c := if hpdFell then c.setF (OUT_LINK_HPD d) 0 else c
      c.setPort d { c.port d with training := !hpdFell && c.xf (OUT_XLINK_FORCE d) 0 = 0, fresh := false }
    else c

/-- RETRAIN (R309). -/
def retrain (d : Nat) (c : Chip) : Chip :=
  if c.expert (12 + d) && c.fb (OUT_LINK_HPD d) then
    (c.setF (OUT_LINK_TRAINED d) 0).setPort d { c.port d with training := true, fresh := false }
  else c
def execRetrain (d : Fin 4) (s : State) : Out := s.go fun c => if c.outUp d then retrain d c else c

/-! ### AUX (R312) -/

/-- AUX_START (R312): BUSY is written 1. -/
def execAuxStart (d : Fin 4) (s : State) : Out := s.go fun c => if c.outUp d then c.setF (OUT_AUX_CMD_BUSY d) 1 else c

/-- AUX_DONE (R312): RESULT, and the bytes of a read that was acknowledged. -/
def execAuxDone (d : Fin 4) (result : Fin 4) (data : List Byte) (s : State) : Out :=
  s.go fun c =>
    if !(c.outUp d && c.fb (OUT_AUX_CMD_BUSY d)) then c
    else
      let c := (c.setF (OUT_AUX_CMD_BUSY d) 0).setF (OUT_AUX_CMD_RESULT d) result
      let rd := c.f (OUT_AUX_CMD_KIND d) % 2 = 0
      if result.val = 0 && rd then
        forAll ((data.take (c.f (OUT_AUX_CMD_LEN d) + 1)).zip (List.range 16)) (fun p c =>
          c.setReg (OUT_AUX_DATA d (p.2 / 4)) ((c.reg (OUT_AUX_DATA d (p.2 / 4))).setBits (8 * (p.2 % 4) + 7) (8 * (p.2 % 4)) p.1.toNat)) c
      else c

/-! ### The analog pins (R315, R318, R319) -/

/-- Horizontal and vertical sync of output `o` as asserted (R285, R286). -/
def Chip.hsyncOn (c : Chip) (o : Nat) : Bool := let t := (c.out o).timing; within t.hsStart t.hsEnd (c.beamX o)
def Chip.vsyncOn (c : Chip) (o : Nat) : Bool := Nat.blt (c.out o).v (c.out o).timing.vsync || (c.out o).halfLine

/-- The levels of VID_HS and VID_VS while OUT3 runs with KIND 2 (R318). -/
def Chip.vidSync (c : Chip) : Bool × Bool :=
  let t := (c.out 3).timing
  let h := c.hsyncOn 3
  let v := c.vsyncOn 3
  if t.csync then ((h != v) == t.hpol, !t.vpol) else (h == t.hpol, v == t.vpol)

/-- The drive of a colour pin for channel value `v` with trim `gain`, in units of 1 mV / 2,046,000 (R319). -/
def vidDrive (setup : Bool) (gain : Int) (v : Nat) : Int :=
  if setup then 107415000 + 1295 * v * (1000 + gain) else 1400 * v * (1000 + gain)

/-- The drives of VID_RED, VID_GRN and VID_BLU for a pixel of 30 bits (R319, R323). -/
def Chip.vidPins (c : Chip) (px : Nat) : Int × Int × Int :=
  let setup := c.xf (OUT_XDAC_SETUP 3) 0 = 1
  let g (x : Fld) := sextInt 8 (c.xf x 0)
  (vidDrive setup (g (OUT_XDAC_GAIN_RED 3)) (nbits px 29 20), vidDrive setup (g (OUT_XDAC_GAIN_G 3)) (nbits px 19 10),
    vidDrive setup (g (OUT_XDAC_GAIN_B 3)) (nbits px 9 0))

/-- The drives of the colour pins now (R319): those of the pixel at the beam's column on an active line, and 0 V in blanking and while OUT3
drives no analog picture. -/
def Chip.vidNow (c : Chip) : Int × Int × Int :=
  let t := c.out 3
  let x := c.beamX 3
  if c.running 3 && t.timing.kind == 2 && (c.beamLine 3).isSome && Nat.blt x t.timing.hactive then c.vidPins (t.sent.reverse.getD x 0)
  else (0, 0, 0)

end Sys2Proof.Machine
end

