-- ==== Sys2Proof/Machine/Press.lean ====
section
/-! DEFINITION. The Press (R324 to R342, R650). -/

namespace Sys2Proof.Machine

/-! ### Reach (R324) -/

/-- The region of `pa` answers (R18). -/
def Chip.answers (c : Chip) (pa : Nat) : Bool :=
  let r := mainRegion c.dramTop pa
  r != .unassigned && c.domainUp (c.regionDomain r pa)

/-- The region of `pa` takes a write: it answers, and its DRAM channel has not failed (R185). -/
def Chip.stores (c : Chip) (pa : Nat) : Bool := c.answers pa && !c.deadDram (mainRegion c.dramTop pa) pa

/-- `n` bytes at `pa` as a memory, or the boot ROM, gives them, with their poison. -/
def rdMem (n pa : Nat) (c : Chip) : (List Byte × Bool) × Chip :=
  let r := mainRegion c.dramTop pa
  match r with
  | .rom => (((List.range n).map fun i => Config.romByte (pa + i), false), c)
  | _ =>
    let c := c.eccRange r n pa
    ((c.bytes pa n, c.anyPoison r pa n || c.deadDram r pa), c)

/-- A fetch of `n` bytes of a list (R324): none where the address is outside the memories, does not answer, or is poisoned. -/
def fetchList (n pa : Nat) (c : Chip) : Option (List Byte) × Chip :=
  if memRegion (mainRegion c.dramTop pa) && c.answers pa then
    let ((b, p), c) := rdMem n pa c
    (if p then none else some b, c)
  else (none, c)

/-! ### Commands (R327 to R330, R650) -/

def Chip.modPress (c : Chip) (f : PressEng → PressEng) : Chip := { c with press := f c.press }

/-- The fields of a command's words. -/
structure PressCmd where
  op : Nat
  irq : Bool
  xdir : Bool
  ydir : Bool
  clipm : Nat
  sfmt : Nat
  dfmt : Nat
  ebytes : Nat
  bmode : Nat
  ga : Nat
  src : Nat
  dst : Nat
  ss : Nat
  ds : Nat
  w : Nat
  h : Nat
  dx : Nat
  dy : Nat
  fill : Nat
  deriving DecidableEq, Repr

/-- The command that sixteen words spell. -/
def pressCmd (l : List Nat) : PressCmd :=
  let w (i : Nat) := l.getD i 0
  ⟨wb (w 0) 3 0, wb (w 0) 4 4 == 1, wb (w 0) 5 5 == 1, wb (w 0) 6 6 == 1, wb (w 0) 8 7, wb (w 0) 10 9, wb (w 0) 12 11,
    wb (w 0) 14 13, wb (w 0) 16 15, wb (w 0) 31 24, w 1 + wb (w 2) 7 0 * 2 ^ 32, w 3 + wb (w 2) 15 8 * 2 ^ 32, wb (w 4) 17 0,
    wb (w 5) 17 0, wb (w 6) 13 0, wb (w 6) 29 16, wb (w 7) 13 0, wb (w 7) 29 16, w 8 + w 9 * 2 ^ 32⟩

/-- Bytes of a pixel of a format (R331). -/
def pixBytes (fmt : Nat) : Nat := if fmt = 2 then 2 else 4

/-- COPY and FILL. -/
def PressCmd.plain (k : PressCmd) : Bool := k.op == 1 || k.op == 2

/-- Element size at the source and at the destination (R331). -/
def PressCmd.se (k : PressCmd) : Nat := if k.plain then 2 ^ k.ebytes else pixBytes k.sfmt
def PressCmd.de (k : PressCmd) : Nat := if k.plain then 2 ^ k.ebytes else pixBytes k.dfmt

/-- Some bit of word `i` outside `mask` is set. -/
def extraBits (l : List Nat) (i mask : Nat) : Bool := (l.getD i 0) &&& (0xFFFFFFFF - mask) != 0

/-- A bit that R650 reserves for the OP is set. -/
def pressReserved (l : List Nat) : Bool :=
  let op := wb (l.getD 0 0) 3 0
  let zeroFrom (i : Nat) := (List.range 16).any fun k => Nat.ble i k && extraBits l k 0
  wb (l.getD 0 0) 23 17 != 0 ||
  match op with
  | 0 => zeroFrom 1
  | 5 => ((List.range 8).any fun k => extraBits l (k + 1) 0x3FFF3FFF) || extraBits l 9 0xF || zeroFrom 10
  | 6 => extraBits l 2 0xFF || zeroFrom 3
  | _ => extraBits l 2 0xFFFF || (op != 2 && extraBits l 4 0x3FFFF) || extraBits l 5 0x3FFFF || extraBits l 6 0x3FFF3FFF
      || extraBits l 7 0x3FFF3FFF || zeroFrom 10

/-- A command is invalid (R329, R330). -/
def pressInvalid (l : List Nat) : Bool :=
  let k := pressCmd l
  let copy := k.op = 1 || k.op = 3 || k.op = 4
  let rect := within 1 5 k.op
  Nat.ble 7 k.op || pressReserved l
    || (k.op = 6 && (l.getD 1 0) % 64 != 0)
    || (rect && k.clipm = 3)
    || ((k.op = 3 || k.op = 4) && (k.sfmt = 3 || k.dfmt = 3))
    || (k.op = 4 && k.bmode = 3)
    || (rect && (k.dst % k.de != 0 || k.ds % k.de != 0))
    || (copy && (k.src % k.se != 0 || k.ss % k.se != 0))
    || (rect && Nat.blt 1 k.h && (Nat.blt k.ds (k.w * k.de) || (copy && Nat.blt k.ss (k.w * k.se))))

/-! ### The end of a list (R339 to R341) -/

/-- The list ends with a RESULT and a CAUSE. -/
def endList (result cause : Nat) (c : Chip) : Chip :=
  let c := (c.setF PRESS_STATUS_STATE 0).setF PRESS_STATUS_RESULT result
  let c := (c.setF PRESS_STATUS_CAUSE cause).flag PRESS_EVT_END_EV
  c.modPress fun p => { p with cmd := [], flight := [], stop := none, dead := false, burst := 0 }

/-- The list ends once the writes in flight are acknowledged: chunks whose reads have not returned are dropped. -/
def stopList (result cause : Nat) (c : Chip) : Chip :=
  let c := c.modPress fun p => { p with flight := p.flight.filter fun k => k.data.isSome, stop := some (result, cause) }
  if c.press.flight = [] then endList result cause c else c.setF PRESS_STATUS_STATE 2

/-- The command in progress completes (R339). -/
def completeCmd (c : Chip) : Chip :=
  let irq := (pressCmd c.press.cmd).irq
  let c := c.setReg PRESS_CMDCNT (c.reg PRESS_CMDCNT + 1)
  let c := if irq then c.flag PRESS_EVT_CMD_IRQ else c
  c.modPress fun p => { p with cmd := [] }

/-- The Press is at work on a list and may issue requests (R338, R616). -/
def Chip.pressIssues (c : Chip) : Bool :=
  c.mainRuns && c.f PRESS_STATUS_STATE == 1 && !c.press.dead && !c.unitFrozen 9 && !c.power.failed.contains 96

/-- GO of PRESS_CTL (R326). -/
def pressGo (c : Chip) : Chip :=
  if c.f PRESS_STATUS_STATE != 0 then c.flag PRESS_EVT_GO_IGNORED
  else
    let c := (c.setReg PRESS_STATUS 1).setReg PRESS_POS 0
    let c := c.setReg PRESS_CMDCNT 0
    c.modPress fun _ => ⟨[], c.f PRESS_LIST_ADDR * 64, [], 0, 0, [], 0, false, none, none⟩

/-- The row in progress of the command in progress. -/
def Chip.pressRow (c : Chip) : Nat :=
  match c.press.flight with
  | k :: _ => k.row
  | [] => let k := pressCmd c.press.cmd; if k.h = 0 then 0 else if k.ydir then k.h - 1 - min c.press.row (k.h - 1) else min c.press.row (k.h - 1)

/-- ABORT of PRESS_CTL (R340), `late` in the cycle in which the list completes. -/
def pressAbort (late : Bool) (c : Chip) : Chip :=
  match c.f PRESS_STATUS_STATE with
  | 0 => if late && c.f PRESS_STATUS_RESULT = 1 then c.flag PRESS_STATUS_ABORT_LATE else c
  | 1 => stopList 2 0 (c.setReg PRESS_POS (Word.of c.pressRow))
  | _ => c

/-- A write of PRESS_CTL (R340): judged by the state before it. -/
def writePressCtl (v : Word) (c : Chip) : Chip :=
  let c := c.setF PRESS_CTL_SHARE (v.bits 5 4)
  let idle := c.f PRESS_STATUS_STATE = 0
  if v.bit 0 && v.bit 1 then (if idle then pressGo c else pressAbort false (pressGo c))
  else if v.bit 0 then pressGo c
  else if v.bit 1 then pressAbort false c
  else c

/-- PRESS_GO (R326). -/
def execPressGo (s : State) : Out := s.go fun c => if c.mainRuns && c.domainUp 92 then pressGo c else c

/-- PRESS_ABORT (R340, R57): `late` tells that it is sampled in the cycle in which the list completes. -/
def execPressAbort (late : Bool) (s : State) : Out := s.go fun c => if c.mainRuns && c.domainUp 92 then pressAbort late c else c

/-- PRESS_COMMAND_FETCH (R326, R330): the next command is fetched once every write of the last is acknowledged, and checked. -/
def execPressCommandFetch (s : State) : Out :=
  s.go fun c =>
    if c.pressIssues && c.press.cmd = [] && c.press.flight = [] then
      let a := c.press.next
      let c := c.setF PRESS_CUR_ADDR (a / 64)
      match fetchList 64 a c with
      | (none, c) => endList 4 4 c
      | (some b, c) =>
        let l := (List.range 16).map fun i => numAt b (4 * i) 4
        if pressInvalid l then endList 4 5 c
        else c.modPress fun p => { p with cmd := l, next := a + 64, row := 0, chunk := 0 }
    else c

/-! ### Chunks (R331, R334, R335) -/

/-- Rectangle `k` of the clip words covers (x, y) (R329). -/
def clipHas (l : List Nat) (x y k : Nat) : Bool :=
  let a := l.getD (2 * k) 0
  let b := l.getD (2 * k + 1) 0
  (l.getD 8 0).testBit k && within (wb a 13 0) (wb b 13 0) x && within (wb a 29 16) (wb b 29 16) y

/-- Element (i, j) is written (R334). -/
def elemWritten (l : List Nat) (k : PressCmd) (i j : Nat) : Bool :=
  let hit := (List.range 4).any (clipHas l (k.dx + i) (k.dy + j))
  match k.clipm with | 1 => hit | 2 => !hit | _ => true

/-- The addresses of element (i, j), in the 40 bits of a physical address (log entry 177). -/
def PressCmd.srcAt (k : PressCmd) (i j : Nat) : Nat := (k.src + j * k.ss + i * k.se) % 2 ^ 40
def PressCmd.dstAt (k : PressCmd) (i j : Nat) : Nat := (k.dst + j * k.ds + i * k.de) % 2 ^ 40

/-- Chunks of row j: the aligned 64-byte blocks its bytes lie in. -/
def PressCmd.chunks (k : PressCmd) (j : Nat) : Nat :=
  if k.w = 0 then 0 else (k.dstAt 0 j + k.w * k.de - 1) / 64 - k.dstAt 0 j / 64 + 1

/-- The first element and the number of elements of block `b` of row j. -/
def PressCmd.chunkElems (k : PressCmd) (j b : Nat) : Nat × Nat :=
  let a := k.dstAt 0 j
  let lo := if b = 0 then 0 else ((a / 64 + b) * 64 - a) / k.de
  let hi := min k.w (((a / 64 + b + 1) * 64 - a) / k.de)
  (lo, hi - lo)

/-- The elements of a chunk that are written. -/
def Chip.written (c : Chip) (k : PressCmd) (x : PressChunk) : List Nat :=
  ((List.range x.n).map (x.elem + ·)).filter fun i => elemWritten c.press.clip k i x.row

/-- The Press may read, or write, at `pa` (R324). -/
def Chip.pressReads (c : Chip) (pa : Nat) : Bool := let r := mainRegion c.dramTop pa; memRegion r || r == .rom
def Chip.pressWrites (c : Chip) (pa : Nat) : Bool := memRegion (mainRegion c.dramTop pa)

/-- A chunk fails (R341): nothing of it is written, and the list ends after the writes in flight.  A list that is stopping already,
on an ABORT (R57, R340) or on an earlier chunk, ends as that said. -/
def chunkFails (x : PressChunk) (cause : Nat) (c : Chip) : Chip :=
  let d := c.modPress fun p => { p with flight := p.flight.filter (· != x) }
  match c.press.stop with
  | some (r, z) => if d.press.flight = [] then endList r z d else d
  | none => stopList 3 cause (d.setReg PRESS_POS (Word.of (x.row + 65536 * x.elem)))

/-- The dead time after a burst is not 0 (R338). -/
def Chip.hasDead (c : Chip) : Bool :=
  if c.expert 8 then c.f PRESS_XDEAD_CYCLES != 0 else c.f PRESS_CTL_SHARE != 0

/-- The DRAM row of an address; none outside DRAM. -/
def Chip.dramRow (c : Chip) (pa : Nat) : Option Nat :=
  match mainRegion c.dramTop pa with
  | .dram => some (c.dramChannel pa + 4 * (c.channelByte pa / 4096))
  | _ => none

/-- Add a run of bytes, joined to the one before it where they touch. -/
def addRun (l : List (Nat × List Byte)) (a : Nat) (b : List Byte) : List (Nat × List Byte) :=
  match l.reverse with
  | (x, y) :: t => if x + y.length = a then (t.reverse ++ [(x, y ++ b)]) else l ++ [(a, b)]
  | [] => [(a, b)]

/-- The runs of a list of element writes. -/
def joinRuns (l : List (Nat × List Byte)) : List (Nat × List Byte) := l.foldl (fun a p => addRun a p.1 p.2) []

/-- The row, first element and number of elements of the next chunk, and whether it is the last of its row. -/
def PressCmd.next (k : PressCmd) (p : PressEng) : Nat × (Nat × Nat) × Bool :=
  let j := if k.ydir then k.h - 1 - p.row else p.row
  let n := k.chunks j
  (j, k.chunkElems j (if k.xdir then n - 1 - p.chunk else p.chunk), !Nat.blt (p.chunk + 1) n)

/-- A burst is open and the next chunk has something to write in another DRAM row (R338). -/
def Chip.burstOver (c : Chip) (k : PressCmd) : Bool :=
  let (j, (e, m), _) := k.next c.press
  c.press.burst != 0 && c.written k ⟨j, e, m, 0, none⟩ != [] && c.dramRow (k.dstAt e j) != c.press.lastRow

/-- The burst ends: a dead time follows it, if it is not 0 (R338). -/
def burstEnd (c : Chip) : Chip := c.modPress fun p => { p with burst := 0, dead := c.hasDead }

/-- A chunk of `m` writes (none where it is clipped) joins the burst, which ends after 16 chunks or at the end of a row (R338). -/
def burstAdd (r : Option Nat) (m : Nat) (lastOfRow : Bool) (c : Chip) : Chip :=
  let n := c.press.burst + (if m = 0 then 0 else 1)
  if n != 0 && (n == 16 || lastOfRow) then burstEnd c
  else if m = 0 then c
  else c.modPress fun p => { p with burst := n, lastRow := r }

/-- The next chunk of the command in progress is issued (R335), of a new row only when every write of the row before is
acknowledged (R336, R341): an access that its address forbids fails at once.  A DRAM row change ends the burst before it (R338). -/
def issueChunk (k : PressCmd) (c : Chip) : Chip :=
  let p := c.press
  let rows := if k.w = 0 then 0 else k.h
  if rows ≤ p.row then (if p.flight = [] then completeCmd c else c)
  else if 8 ≤ p.flight.length then c
  else
    let (j, (e, m), last) := k.next p
    if p.flight.any fun y => y.row != j then c
    else if c.burstOver k && c.hasDead then burstEnd c
    else
    let c := if c.burstOver k then burstEnd c else c
    let c := c.modPress fun p => if last then { p with row := p.row + 1, chunk := 0 } else { p with chunk := p.chunk + 1 }
    let x : PressChunk := ⟨j, e, m, 0, none⟩
    let l := c.written k x
    let fillData : List (Nat × List Byte) := joinRuns (l.map fun i => (k.dstAt i j, leBytes k.de k.fill))
    let c := burstAdd (c.dramRow (k.dstAt e j)) l.length last c
    if l = [] then c
    else
      let c := c.modPress fun p => { p with flight := p.flight ++ [if k.op = 2 then { x with data := some fillData } else x] }
      let x := if k.op = 2 then { x with data := some fillData } else x
      if l.any fun i => !c.pressWrites (k.dstAt i j) || (k.op != 2 && !c.pressReads (k.srcAt i j)) then chunkFails x 1 c else c

/-- A rectangle command's next step: the command of OP `op` is in progress. -/
def rectStep (op : Nat) (c : Chip) : Chip :=
  if c.pressIssues && c.press.cmd != [] && (pressCmd c.press.cmd).op = op then issueChunk (pressCmd c.press.cmd) c else c

/-- PRESS_COPY (R332): the next chunk of the COPY in progress is issued; with none left, the command completes. -/
def execPressCopy (s : State) : Out := s.go (rectStep 1)

/-- PRESS_FILL (R332). -/
def execPressFill (s : State) : Out := s.go (rectStep 2)

/-- PRESS_CONVERT (R333). -/
def execPressConvert (s : State) : Out := s.go (rectStep 3)

/-- PRESS_BLEND (R333). -/
def execPressBlend (s : State) : Out := s.go (rectStep 4)

/-- A command without accesses: the command of OP `op` is in progress. -/
def plainStep (op : Nat) (f : List Nat → Chip → Chip) (c : Chip) : Chip :=
  if c.pressIssues && c.press.cmd != [] && (pressCmd c.press.cmd).op = op then f c.press.cmd c else c

/-- PRESS_CLIP (R329). -/
def execPressClip (s : State) : Out :=
  s.go (plainStep 5 fun l c => completeCmd (c.modPress fun p => { p with clip := (l.drop 1).take 9 }))

/-- PRESS_JUMP (R329). -/
def execPressJump (s : State) : Out :=
  s.go (plainStep 6 fun l c => completeCmd (c.modPress fun p => { p with next := l.getD 1 0 + wb (l.getD 2 0) 7 0 * 2 ^ 32 }))

/-- PRESS_END (R339): the list completes. -/
def execPressEnd (s : State) : Out := s.go (plainStep 0 fun _ c => endList 1 0 (completeCmd c))

/-! ### Pixels (R333) -/

/-- A pixel narrowed to a format. -/
def narrowPx (fmt : Nat) (p : Px) : Nat :=
  match fmt with
  | 0 => p.r / 4 + p.g / 4 * 2 ^ 8 + p.b / 4 * 2 ^ 16 + p.a * 2 ^ 24
  | 1 => p.b + p.g * 2 ^ 10 + p.r * 2 ^ 20 + p.a / 64 * 2 ^ 30
  | _ => p.r / 32 + p.g / 16 * 2 ^ 5 + p.b / 32 * 2 ^ 11

/-- BLEND of a source pixel onto a destination pixel; none where nothing is written. -/
def pressBlend (k : PressCmd) (s d : Px) : Option Px :=
  let a := (s.a * k.ga + 127) / 255
  if a = 0 then none
  else
    let mode := match k.bmode with | 1 => 1 | 2 => 2 | _ => 0
    some ⟨blend1 mode s.r a d.r, blend1 mode s.g a d.g, blend1 mode s.b a d.b, d.a, false⟩

/-- What element (i, j) of a command writes: its bytes, nothing, or none where poison fails it. -/
def elemData (k : PressCmd) (i j : Nat) (c : Chip) : Option (Option (List Byte)) × Chip :=
  let ((sb, sp), c) := rdMem k.se (k.srcAt i j) c
  if sp then (none, c)
  else match k.op with
  | 1 => (some (some sb), c)
  | 3 => (some (some (leBytes k.de (narrowPx k.dfmt (surfacePx k.sfmt (leNat sb))))), c)
  | _ =>
    let ((db, dp), c) := rdMem k.de (k.dstAt i j) c
    match pressBlend k (surfacePx k.sfmt (leNat sb)) (surfacePx k.dfmt (leNat db)) with
    | none => (some none, c)
    | some p => if dp then (none, c) else (some (some (leBytes k.de (narrowPx k.dfmt p))), c)

/-- The bytes that a chunk writes; none where poison fails it. -/
def chunkData (k : PressCmd) (j : Nat) : List Nat → Chip → Option (List (Nat × List Byte)) × Chip
  | [], c => (some [], c)
  | i :: t, c =>
    match elemData k i j c with
    | (none, c) => (none, c)
    | (some b, c) =>
      match chunkData k j t c with
      | (none, c) => (none, c)
      | (some l, c) => (some (match b with | some b => (k.dstAt i j, b) :: l | none => l), c)

/-- The address of the data whose poison fails a chunk: the first poisoned source element, or destination element of a BLEND. -/
def poisonAt (k : PressCmd) (j : Nat) (l : List Nat) (c : Chip) : Nat :=
  (l.findSome? fun i =>
    if (elemData k i j c).1.isSome then none
    else if (rdMem k.se (k.srcAt i j) c).1.2 then some (k.srcAt i j) else some (k.dstAt i j)).getD 0

/-- Two byte ranges overlap. -/
def overlaps (a n b m : Nat) : Bool := Nat.blt a (b + m) && Nat.blt b (a + n)

/-- The reads of chunk `x` overlap a write of an earlier chunk in flight (R335). -/
def Chip.heldBack (c : Chip) (k : PressCmd) (x : PressChunk) : Bool :=
  let before := c.press.flight.takeWhile (· != x)
  before.any fun y => (c.written k y).any fun i =>
    (c.written k x).any fun m =>
      overlaps (k.srcAt m x.row) k.se (k.dstAt i y.row) k.de || (k.op == 4 && overlaps (k.dstAt m x.row) k.de (k.dstAt i y.row) k.de)

/-- A retry of chunk `x` after a cut-off (R325): none left ends the list; an emergency uses none up.  A list that is stopping issues no
request, and so no retry (R340, R341). -/
def retryChunk (x : PressChunk) (emergency : Bool) (c : Chip) : Chip :=
  if c.press.stop.isSome then chunkFails x 2 c
  else if emergency then c
  else if c.xf PRESS_XRETRY_RETRIES 3 ≤ x.tries then chunkFails x 2 c
  else c.modPress fun p => { p with flight := p.flight.map fun y => if y = x then { y with tries := y.tries + 1 } else y }

/-- The source reads of chunk `x` return (R325, R335, R341). -/
def chunkRead (k : PressCmd) (x : PressChunk) (c : Chip) : Chip :=
  if c.heldBack k x then c
  else
    let l := c.written k x
    if l.any fun i => !c.answers (k.srcAt i x.row) || (k.op == 4 && !c.answers (k.dstAt i x.row)) then chunkFails x 1 c
    else
      match chunkData k x.row l c with
      | (none, c) => chunkFails x 3 (c.poisonRecord 96 (poisonAt k x.row l c))
      | (some d, c) => c.modPress fun p => { p with flight := p.flight.map fun y => if y = x then { y with data := some (joinRuns d) } else y }

/-- PRESS_READ_RETURN (R335, R341): the reads of the oldest chunk that waits for its data return. -/
def execPressReadReturn (s : State) : Out :=
  s.go fun c =>
    if c.mainRuns && c.f PRESS_STATUS_STATE == 1 && c.press.cmd != [] && !c.unitFrozen 9 then
      match c.press.flight.find? fun x => x.data.isNone with
      | some x => chunkRead (pressCmd c.press.cmd) x c
      | none => c
    else c

/-- The oldest chunk's write is acknowledged, or fails for good (R335, R336, R341). -/
def chunkWrite (x : PressChunk) (d : List (Nat × List Byte)) (c : Chip) : Chip :=
  if d.any fun p => !c.stores p.1 then chunkFails x 1 c
  else
    let c := forAll d (fun p c => c.memStore (mainRegion c.dramTop p.1) p.1 p.2) c
    let k := pressCmd c.press.cmd
    let c := c.modPress fun p => { p with flight := p.flight.drop 1 }
    match c.press.stop with
    | some (r, z) => if c.press.flight = [] then endList r z c else c
    | none => if c.press.flight = [] && k.h ≤ c.press.row then completeCmd c else c

/-- PRESS_WRITE_ACK (R335, R336, R341): the write of the oldest chunk in flight is acknowledged, unless it waits at a replication window
(R475). -/
def execPressWriteAck (s : State) : Out :=
  s.go fun c =>
    if c.mainRuns && c.f PRESS_STATUS_STATE != 0 then
      match c.press.flight with
      | x :: _ => match x.data with
        | some d => if d.any fun p => c.writeWaits p.1 then c else chunkWrite x d c
        | none => c
      | [] => c
    else c

/-- PRESS_DEAD_TIME_END (R338): the dead time runs once the burst's last write is acknowledged. -/
def execPressDeadTimeEnd (s : State) : Out :=
  s.go fun c => if c.press.flight = [] then c.modPress fun p => { p with dead := false } else c

/-- A beat of chunk `x` lies in the aligned 64-byte block of `pa`: of its write, or of its reads. -/
def Chip.beatOf (c : Chip) (k : PressCmd) (pa : Nat) (write : Bool) (x : PressChunk) : Bool :=
  if write then (match x.data with | some d => d.any fun p => p.1 / 64 == pa / 64 | none => false)
  else x.data.isNone && (c.written k x).any fun i =>
    k.srcAt i x.row / 64 == pa / 64 || (k.op == 4 && k.dstAt i x.row / 64 == pa / 64)

/-- A cut-off of the Press's beat at `pa` (R199, R200, R202, R325): its chunk gets a bus error. -/
def pressCut (pa : Nat) (write emergency : Bool) (c : Chip) : Chip :=
  if c.f PRESS_STATUS_STATE = 0 then c
  else
    match c.press.flight.find? (c.beatOf (pressCmd c.press.cmd) pa write) with
    | some x => retryChunk x emergency c
    | none => c

/-- A U reset of the Press (R342): writes in flight end, then the list is STOPPED with CAUSE 7. -/
def pressUnitReset (c : Chip) : Chip :=
  if c.f PRESS_STATUS_STATE = 0 then c
  else
    let row := c.pressRow
    let c := forAll c.press.flight (fun x c => match x.data with
      | some d => forAll d (fun p c => if c.stores p.1 then c.memStore (mainRegion c.dramTop p.1) p.1 p.2 else c) c
      | none => c) c
    endList 5 7 (c.setReg PRESS_POS (Word.of row))

end Sys2Proof.Machine
end

