-- ==== Sys2Proof/Machine/Dma.lean ====
section
/-! DEFINITION. The DMA channels as such (R343 to R356): envelopes, starting, pausing, aborting and ending them.  Their
transfers stand in `DmaBus`. -/

namespace Sys2Proof.Machine

/-- A channel after a reset. -/
def dmaCh0 : Nat → DmaCh := fun _ => ⟨[], none, 0, 0, 0, 0, [], false⟩

/-- Channel `i`. -/
def Chip.dmaCh (c : Chip) (i : Nat) : DmaCh := sget dmaCh0 c.dma i

/-- Channel `i` changed. -/
def Chip.modDma (c : Chip) (i : Nat) (f : DmaCh → DmaCh) : Chip := { c with dma := sset dmaCh0 c.dma i (f (c.dmaCh i)) }

/-- STATE of channel `i`: 0 idle, 1 running, 2 paused, 3 halted. -/
def Chip.dmaState (c : Chip) (i : Nat) : Nat := c.f (DMA_CH_STAT_STATE i)

/-- STATE set, with the channel's bit of DMA_ACTIVE. -/
def setDmaState (i st : Nat) (c : Chip) : Chip :=
  (c.setF (DMA_CH_STAT_STATE i) st).setRegBit DMA_ACTIVE i (st == 1 || st == 2)

/-- The engine is powered, clocked and not frozen (R616). -/
def Chip.dmaRuns (c : Chip) : Bool := c.mainRuns && c.domainUp 91

/-- Retries of a transient failure (R325). -/
def Chip.dmaRetries (c : Chip) : Nat := c.xf DMA_XCFG_RETRIES 3

/-! ### Envelopes (R346, R347) -/

/-- What the eight words of an envelope say. -/
structure Envelope where
  twoD : Bool
  bad : Bool
  sinc : Bool
  dinc : Bool
  elem : Nat
  irq : Bool
  last : Bool
  src : Nat
  dst : Nat
  next : Nat
  rowb : Nat
  total : Nat
  sstride : Int
  dstride : Int
  deriving DecidableEq, Repr

/-- The envelope that eight words spell. -/
def envelope (l : List Nat) : Envelope :=
  let w (i : Nat) := l.getD i 0
  let two := nbits (w 0) 1 0 == 1
  let rowb := nbits (w 4) 15 0
  ⟨two, Nat.ble 2 (nbits (w 0) 1 0), nbits (w 0) 2 2 == 1, nbits (w 0) 3 3 == 1, 2 ^ nbits (w 0) 5 4, nbits (w 0) 6 6 == 1,
    nbits (w 0) 7 7 == 1, w 1 + nbits (w 3) 7 0 * 2 ^ 32, w 2 + nbits (w 3) 15 8 * 2 ^ 32,
    w 7 / 32 * 32 + nbits (w 3) 23 16 * 2 ^ 32, rowb, if two then rowb * nbits (w 4) 31 16 else w 4,
    sextInt 32 (w 5), sextInt 32 (w 6)⟩

/-- An invalid envelope (R347). -/
def Envelope.invalid (e : Envelope) : Bool :=
  let n := if e.twoD then e.rowb else e.total
  e.bad || (!e.sinc && (e.src % e.elem != 0 || n % e.elem != 0)) || (!e.dinc && (e.dst % e.elem != 0 || n % e.elem != 0))

/-- The address at which offset `k` lies on a side (R347), in the 40 bits of a physical address (log entry 177). -/
def sideAddr (e : Envelope) (inc : Bool) (base : Nat) (stride : Int) (k : Nat) : Nat :=
  if !inc then base
  else if e.twoD then (((base : Int) + (k / e.rowb : Nat) * stride + (k % e.rowb : Nat)) % 2 ^ 40).toNat
  else (base + k) % 2 ^ 40

def Envelope.srcAt (e : Envelope) (k : Nat) : Nat := sideAddr e e.sinc e.src e.sstride k
def Envelope.dstAt (e : Envelope) (k : Nat) : Nat := sideAddr e e.dinc e.dst e.dstride k

/-- Bytes from offset `k` that one access at `pa` can carry: up to the end of the envelope, of the row, and of the aligned
64-byte block or of the register word; ELEM at a fixed address. -/
def Envelope.unitLen (e : Envelope) (inc blk : Bool) (pa k : Nat) : Nat :=
  let rest := e.total - k
  let row := if e.twoD && inc then e.rowb - k % e.rowb else rest
  if !inc then min e.elem rest
  else min (min rest row) (if blk then 4 - pa % 4 else 64 - pa % 64)

/-! ### The end of an envelope or of a list (R352 to R356) -/

/-- A channel halts with a RESULT and a CAUSE; its buffer and prefetch slot are discarded. -/
def dmaHalt (i result cause off : Nat) (c : Chip) : Chip :=
  let c := setDmaState i 3 c
  let c := (c.setF (DMA_CH_STAT_RESULT i) result).setF (DMA_CH_STAT_CAUSE i) cause
  let c := c.setReg (DMA_CH_OFF i) (Word.of off)
  let c := c.setRegBit DMA_HALT_EV i true
  c.modDma i fun _ => dmaCh0 i

/-- An envelope completes (R354): counted, signalled, and the next one is in progress from now on (R352), or the list ends.
A NEXT that no fetch can reach fills the prefetch slot as failed. -/
def dmaComplete (i : Nat) (late : Bool) (c : Chip) : Chip :=
  let e := envelope (c.dmaCh i).env
  let c := c.setReg (DMA_CH_DONECNT i) (c.reg (DMA_CH_DONECNT i) + 1)
  let c := c.setF (DMA_CH_STAT_RESULT i) 1
  let c := if e.irq then c.setRegBit DMA_DONE_EV i true else c
  if late then
    let c := c.setF (DMA_CH_STAT_ABORT_LATE i) 1
    dmaHalt i 1 (c.f (DMA_CH_STAT_CAUSE i)) (c.reg (DMA_CH_OFF i)).toNat c
  else if e.last then setDmaState i 0 (c.modDma i fun _ => dmaCh0 i)
  else
    let c := c.setF (DMA_CH_CUR_ADDR i) (e.next / 32)
    c.modDma i fun d => ⟨[], if Nat.ble (2 ^ 37) e.next then some none else d.slot, 0, 0, 0, 0, [], false⟩

/-- The fetched envelope of a channel, if any, comes into use (R347, R349): a failed fetch and an invalid envelope halt the
channel, and one without bytes completes at once. -/
def dmaUse (i : Nat) : Nat → Chip → Chip
  | 0, c => c
  | fuel + 1, c =>
    let d := c.dmaCh i
    if d.env != [] then c
    else match d.slot with
      | none => c
      | some none => dmaHalt i 4 4 0 c
      | some (some l) =>
        if (envelope l).invalid then dmaHalt i 4 5 0 c
        else
          let c := c.modDma i fun _ => ⟨l, none, 0, 0, 0, 0, [], false⟩
          let c := c.setF (DMA_CH_STAT_RETRY_USED i) 0
          if (envelope l).total = 0 then dmaUse i fuel (dmaComplete i false c) else c

/-! ### Starting, pausing, aborting (R350 to R352) -/

/-- Start channel `i` at DMA_HEAD_i (R350, R324). -/
def dmaGo (i : Nat) (c : Chip) : Chip :=
  if c.fb DMA_STATUS_ENGINE_HALT then c
  else if c.dmaState i = 1 || c.dmaState i = 2 then c.flag DMA_STATUS_GO_IGNORED
  else
    let a := c.f (DMA_HEAD_ADDR i)
    let c := c.setReg (DMA_CH_CUR i) (Word.of a)
    let c := c.setF (DMA_CH_STAT_RESULT i) 0
    let c := (c.setF (DMA_CH_STAT_ABORT_LATE i) 0).setF (DMA_CH_STAT_LOST i) 0
    let c := (c.setF (DMA_CH_STAT_RETRY_USED i) 0).setReg (DMA_CH_OFF i) 0
    let c := c.modDma i fun _ => dmaCh0 i
    if memRegion (mainRegion c.dramTop (a * 32)) then setDmaState i (if c.regBit DMA_ENABLE i then 1 else 2) c
    else dmaHalt i 4 4 0 c

/-- The channel pauses at a write-unit boundary (R351). -/
def dmaPauseNow (i : Nat) (c : Chip) : Chip :=
  let c := setDmaState i 2 c
  let c := c.setF (DMA_CH_STAT_LOST i) (c.dmaCh i).buf.length
  c.modDma i fun d => { d with rd := d.wr, buf := [] }

/-- Bit `i` of DMA_ENABLE is written (R351): a running channel pauses, at once unless a write unit is outstanding; a paused
one resumes. -/
def dmaEnable (i : Nat) (v outstanding : Bool) (c : Chip) : Chip :=
  let c := c.setRegBit DMA_ENABLE i v
  if v then (if c.dmaState i = 2 then setDmaState i 1 c else c)
  else if c.dmaState i = 1 && !outstanding then dmaPauseNow i c else c

/-- An ABORT of channel `i` (R352, R57), at once unless a write unit is outstanding on the running channel. -/
def dmaAbort (i : Nat) (outstanding : Bool) (c : Chip) : Chip :=
  if c.dmaState i = 1 && outstanding then c.modDma i fun d => { d with abortReq := true }
  else if c.dmaState i = 1 || c.dmaState i = 2 then dmaHalt i 2 0 (c.dmaCh i).wr c
  else c

/-- DMA_GO (R350). -/
def execDmaGo (i : Fin 32) (s : State) : Out := s.go fun c => if c.dmaRuns then dmaGo i c else c

/-- DMA_PAUSE (R351): `outstanding` tells that a write unit of the channel is on its way, whose end is the boundary. -/
def execDmaPause (i : Fin 32) (outstanding : Bool) (s : State) : Out :=
  s.go fun c => if c.dmaRuns then dmaEnable i false outstanding c else c

/-- DMA_RESUME (R351). -/
def execDmaResume (i : Fin 32) (s : State) : Out := s.go fun c => if c.dmaRuns then dmaEnable i true false c else c

/-- DMA_ABORT (R352, R57): `outstanding` tells that a write unit of the channel is on its way, whose end is the boundary. -/
def execDmaAbort (i : Fin 32) (outstanding : Bool) (s : State) : Out :=
  s.go fun c => if c.dmaRuns then dmaAbort i outstanding c else c

/-- Writes of DMA_GO, DMA_ABORT and DMA_ENABLE: the channels in ascending order. -/
def writeDmaGo (v : Word) (c : Chip) : Chip := forAll (List.range 32) (fun i c => if v.bit i then dmaGo i c else c) c
def writeDmaAbort (v : Word) (c : Chip) : Chip := forAll (List.range 32) (fun i c => if v.bit i then dmaAbort i false c else c) c
def writeDmaEnable (v : Word) (c : Chip) : Chip :=
  forAll (List.range 32) (fun i c => if v.bit i != c.regBit DMA_ENABLE i then dmaEnable i (v.bit i) false c else c) c

/-- DMA_ENVELOPE_FETCH (R349, R346): the channel's present envelope arrives, or its next one in the prefetch slot. -/
def execDmaEnvelopeFetch (i : Fin 32) (s : State) : Out :=
  s.go fun c =>
    let d := c.dmaCh i
    if c.dmaRuns && (c.dmaState i = 1 || c.dmaState i = 2) && !c.unitFrozen 8 && d.slot = none then
      let e := envelope d.env
      if d.env != [] && e.last then c
      else
        let a := if d.env = [] then c.f (DMA_CH_CUR_ADDR i) * 32 else e.next
        let (b, c) := fetchList 32 a c
        let l := b.map fun b => (List.range 8).map fun k => numAt b (4 * k) 4
        dmaUse i 3 (c.modDma i fun d => { d with slot := some l })
    else c

/-! ### Engine faults (R355, R356) -/

/-- Every running or paused channel stops with RESULT STOPPED. -/
def dmaStopAll (cause : Nat) (c : Chip) : Chip :=
  forAll (List.range 32) (fun i c =>
    if c.dmaState i = 1 || c.dmaState i = 2 then dmaHalt i 5 cause (c.dmaCh i).wr c else c) c

/-- DMA_ENGINE_FAULT (R355). -/
def execDmaEngineFault (s : State) : Out :=
  s.go fun c => if c.dmaRuns then dmaStopAll 6 ((unitFatal 101 0 c).setF DMA_STATUS_ENGINE_HALT 1) else c

/-- What a U reset of DMA does before the registers take their reset values (R356); no channel waits for an
acknowledgement any more. -/
def dmaUnitReset (c : Chip) : Chip :=
  let c := dmaStopAll 7 c
  let c := { c with power := { c.power with failed := c.power.failed.filter (· != 101) } }
  ({ c with dma := [] }).forgetWaits (within 64 96)

end Sys2Proof.Machine
end

