-- ==== Sys2Proof/Machine/Float.lean ====
section
/-! DEFINITION. Binary32 arithmetic with round to nearest, ties to even (R359): every function takes and gives words.  A
subnormal operand is read as a zero, a subnormal result becomes a zero, any NaN result is 0x7FC00000. -/

namespace Sys2Proof.Machine.F32

def signBit (w : Word) : Bool := w.bit 31
def zero (s : Bool) : Word := if s then 0x80000000 else 0
def inf (s : Bool) : Word := if s then 0xFF800000 else 0x7F800000
def nan : Word := 0x7FC00000
def one : Word := 0x3F800000

def isNan (w : Word) : Bool := w.bits 30 23 == 255 && w.bits 22 0 != 0
def isInf (w : Word) : Bool := w.bits 30 23 == 255 && w.bits 22 0 == 0
/-- A zero, or a subnormal read as one. -/
def isZero (w : Word) : Bool := w.bits 30 23 == 0

/-- The significand of a finite operand, and its exponent: the value is sig × 2^ex. -/
def sig (w : Word) : Nat := if isZero w then 0 else 2 ^ 23 + w.bits 22 0
def ex (w : Word) : Int := (w.bits 30 23 : Int) - 150

/-- The signed significand. -/
def ssig (w : Word) : Int := if signBit w then -(sig w : Int) else sig w

/-- rn of ± m × 2^e, `rest` telling that a little more follows below the last bit of m. -/
def round (s : Bool) (m : Nat) (e : Int) (rest : Bool) : Word :=
  if m = 0 then zero s
  else
    let len : Int := m.log2 + 1
    let q : Int := max (e + len - 24) (-149)
    let n :=
      if q ≤ e then m <<< (e - q).toNat
      else
        let k := (q - e).toNat
        let r := m % 2 ^ k
        let half := 2 ^ (k - 1)
        let n0 := m >>> k
        if half < r || (r == half && (rest || n0 % 2 == 1)) then n0 + 1 else n0
    let (n, q) := if n = 2 ^ 24 then (2 ^ 23, q + 1) else (n, q)
    if n < 2 ^ 23 then zero s
    else
      let b := q + 150
      if 255 ≤ b then inf s else Word.of (n - 2 ^ 23 + b.toNat * 2 ^ 23) ||| zero s

/-- rn of an integer times 2^e; an exact zero has sign `s0`. -/
def ofInt (v : Int) (e : Int) (s0 : Bool := false) : Word := if v = 0 then zero s0 else round (decide (v < 0)) v.natAbs e false

/-- The sum of two finite operands, exact, as an integer and an exponent. -/
def exactAdd (a b : Word) : Int × Int :=
  let e := min (ex a) (ex b)
  (ssig a * 2 ^ (ex a - e).toNat + ssig b * 2 ^ (ex b - e).toNat, e)

/-- rn(a + b). -/
def add (a b : Word) : Word :=
  if isNan a || isNan b then nan
  else if isInf a then (if isInf b && signBit a != signBit b then nan else inf (signBit a))
  else if isInf b then inf (signBit b)
  else
    let (v, e) := exactAdd a b
    ofInt v e (isZero a && isZero b && signBit a && signBit b)

/-- The sign changed. -/
def negBits (a : Word) : Word := a ^^^ 0x80000000

/-- rn(a - b). -/
def sub (a b : Word) : Word := if isNan b then nan else add a (negBits b)

/-- rn(a × b). -/
def mul (a b : Word) : Word :=
  let s := signBit a != signBit b
  if isNan a || isNan b then nan
  else if isInf a || isInf b then (if isZero a || isZero b then nan else inf s)
  else round s (sig a * sig b) (ex a + ex b) false

/-- rn(a / b). -/
def div (a b : Word) : Word :=
  let s := signBit a != signBit b
  if isNan a || isNan b then nan
  else if isInf a then (if isInf b then nan else inf s)
  else if isInf b then zero s
  else if isZero b then (if isZero a then nan else inf s)
  else
    let n := sig a * 2 ^ 40
    round s (n / sig b) (ex a - ex b - 40) (n % sig b != 0)

/-- The integer square root, bit by bit from bit `k - 1` of the result down. -/
def isqrt (n : Nat) : Nat → Nat → Nat
  | 0, r => r
  | k + 1, r => let t := r + 2 ^ k; isqrt n k (if t * t ≤ n then t else r)

/-- The correctly rounded square root. -/
def sqrt (a : Word) : Word :=
  if isNan a then nan
  else if isZero a then zero (signBit a)
  else if signBit a then nan
  else if isInf a then a
  else
    let odd := ex a % 2 != 0
    let n := sig a * (if odd then 2 ^ 41 else 2 ^ 40)
    let e := ex a - (if odd then 41 else 40)
    let r := isqrt n 34 0
    round false r (e / 2) (r * r != n)

/-- An operand as arithmetic reads it: a subnormal is a zero of its sign, a NaN is 0x7FC00000. -/
def read (a : Word) : Word := if isNan a then nan else if isZero a then zero (signBit a) else a

/-- |a| and -a. -/
def abs (a : Word) : Word := if isNan a then nan else read a &&& 0x7FFFFFFF
def neg (a : Word) : Word := if isNan a then nan else negBits (read a)

/-- A number that orders finite operands and infinities; both zeros are 0. -/
def key (a : Word) : Int :=
  let m : Nat := if isZero a then 0 else a.bits 30 0
  if signBit a then -(m : Int) else m

/-- a < b, a ≤ b, a = b; false with a NaN. -/
def lt (a b : Word) : Bool := !isNan a && !isNan b && decide (key a < key b)
def le (a b : Word) : Bool := !isNan a && !isNan b && decide (key a ≤ key b)
def eq (a b : Word) : Bool := !isNan a && !isNan b && decide (key a = key b)

/-- The lesser and the greater of two numbers, -0 below +0. -/
def min (a b : Word) : Word := if key a < key b || (key a = key b && signBit a) then read a else read b
def max (a b : Word) : Word := if key a < key b || (key a = key b && signBit a) then read b else read a

/-- rn(v) × 2^-s of a signed integer. -/
def ofScaled (v : Int) (s : Nat) : Word := let r := ofInt v 0; if isZero r then r else round (signBit r) (sig r) (ex r - s) false

/-- The rn-even integer of a × 2^s, clamped to lo..hi; a NaN gives 0. -/
def toInt (a : Word) (s : Nat) (lo hi : Int) : Int :=
  if isNan a then 0
  else if isInf a then (if signBit a then lo else hi)
  else
    let e := ex a + s
    let m := sig a
    let n :=
      if 0 ≤ e then m * 2 ^ (Min.min e 64).toNat
      else
        let k := (-e).toNat
        let r := m % 2 ^ k
        let half := 2 ^ (k - 1)
        let n0 := m / 2 ^ k
        if half < r || (r == half && n0 % 2 == 1) then n0 + 1 else n0
    let v : Int := if signBit a then -(n : Int) else n
    Max.max lo (Min.min hi v)

/-! ### The sine table (R375) -/

/-- rn(sin(2π i / 1024)) for i = 0 to 256. -/
def sineTable : List Nat :=
  [0x00000000, 0x3BC90F88, 0x3C490E90, 0x3C96C9B6, 0x3CC90AB0, 0x3CFB49BA, 0x3D16C32C, 0x3D2FE007,
    0x3D48FB30, 0x3D621469, 0x3D7B2B74, 0x3D8A200A, 0x3D96A905, 0x3DA3308C, 0x3DAFB680, 0x3DBC3AC3,
    0x3DC8BD36, 0x3DD53DB9, 0x3DE1BC2E, 0x3DEE3876, 0x3DFAB273, 0x3E039502, 0x3E09CF86, 0x3E1008B7,
    0x3E164083, 0x3E1C76DE, 0x3E22ABB6, 0x3E28DEFC, 0x3E2F10A2, 0x3E354098, 0x3E3B6ECF, 0x3E419B37] ++
  [0x3E47C5C2, 0x3E4DEE60, 0x3E541501, 0x3E5A3997, 0x3E605C13, 0x3E667C66, 0x3E6C9A7F, 0x3E72B651,
    0x3E78CFCC, 0x3E7EE6E1, 0x3E827DC0, 0x3E8586CE, 0x3E888E93, 0x3E8B9507, 0x3E8E9A22, 0x3E919DDD,
    0x3E94A031, 0x3E97A117, 0x3E9AA086, 0x3E9D9E78, 0x3EA09AE5, 0x3EA395C5, 0x3EA68F12, 0x3EA986C4,
    0x3EAC7CD4, 0x3EAF713A, 0x3EB263EF, 0x3EB554EC, 0x3EB8442A, 0x3EBB31A0, 0x3EBE1D4A, 0x3EC1071E] ++
  [0x3EC3EF15, 0x3EC6D529, 0x3EC9B953, 0x3ECC9B8B, 0x3ECF7BCA, 0x3ED25A09, 0x3ED53641, 0x3ED8106B,
    0x3EDAE880, 0x3EDDBE79, 0x3EE0924F, 0x3EE363FA, 0x3EE63375, 0x3EE900B7, 0x3EEBCBBB, 0x3EEE9479,
    0x3EF15AEA, 0x3EF41F07, 0x3EF6E0CB, 0x3EF9A02D, 0x3EFC5D27, 0x3EFF17B2, 0x3F00E7E4, 0x3F0242B1,
    0x3F039C3D, 0x3F04F484, 0x3F064B82, 0x3F07A136, 0x3F08F59B, 0x3F0A48AD, 0x3F0B9A6B, 0x3F0CEAD0] ++
  [0x3F0E39DA, 0x3F0F8784, 0x3F10D3CD, 0x3F121EB0, 0x3F13682A, 0x3F14B039, 0x3F15F6D9, 0x3F173C07,
    0x3F187FC0, 0x3F19C200, 0x3F1B02C6, 0x3F1C420C, 0x3F1D7FD1, 0x3F1EBC12, 0x3F1FF6CB, 0x3F212FF9,
    0x3F226799, 0x3F239DA9, 0x3F24D225, 0x3F26050A, 0x3F273656, 0x3F286605, 0x3F299415, 0x3F2AC082,
    0x3F2BEB4A, 0x3F2D1469, 0x3F2E3BDE, 0x3F2F61A5, 0x3F3085BB, 0x3F31A81D, 0x3F32C8C9, 0x3F33E7BC] ++
  [0x3F3504F3, 0x3F36206C, 0x3F373A23, 0x3F385216, 0x3F396842, 0x3F3A7CA4, 0x3F3B8F3B, 0x3F3CA003,
    0x3F3DAEF9, 0x3F3EBC1B, 0x3F3FC767, 0x3F40D0DA, 0x3F41D870, 0x3F42DE29, 0x3F43E200, 0x3F44E3F5,
    0x3F45E403, 0x3F46E22A, 0x3F47DE65, 0x3F48D8B3, 0x3F49D112, 0x3F4AC77F, 0x3F4BBBF8, 0x3F4CAE79,
    0x3F4D9F02, 0x3F4E8D90, 0x3F4F7A1F, 0x3F5064AF, 0x3F514D3D, 0x3F5233C6, 0x3F531849, 0x3F53FAC3] ++
  [0x3F54DB31, 0x3F55B993, 0x3F5695E5, 0x3F577026, 0x3F584853, 0x3F591E6A, 0x3F59F26A, 0x3F5AC450,
    0x3F5B941A, 0x3F5C61C7, 0x3F5D2D53, 0x3F5DF6BE, 0x3F5EBE05, 0x3F5F8327, 0x3F604621, 0x3F6106F2,
    0x3F61C598, 0x3F628210, 0x3F633C5A, 0x3F63F473, 0x3F64AA59, 0x3F655E0B, 0x3F660F88, 0x3F66BECC,
    0x3F676BD8, 0x3F6816A8, 0x3F68BF3C, 0x3F696591, 0x3F6A09A7, 0x3F6AAB7B, 0x3F6B4B0C, 0x3F6BE858] ++
  [0x3F6C835E, 0x3F6D1C1D, 0x3F6DB293, 0x3F6E46BE, 0x3F6ED89E, 0x3F6F6830, 0x3F6FF573, 0x3F708066,
    0x3F710908, 0x3F718F57, 0x3F721352, 0x3F7294F8, 0x3F731447, 0x3F73913F, 0x3F740BDD, 0x3F748422,
    0x3F74FA0B, 0x3F756D97, 0x3F75DEC6, 0x3F764D97, 0x3F76BA07, 0x3F772417, 0x3F778BC5, 0x3F77F110,
    0x3F7853F8, 0x3F78B47B, 0x3F791298, 0x3F796E4E, 0x3F79C79D, 0x3F7A1E84, 0x3F7A7302, 0x3F7AC516] ++
  [0x3F7B14BE, 0x3F7B61FC, 0x3F7BACCD, 0x3F7BF531, 0x3F7C3B28, 0x3F7C7EB0, 0x3F7CBFC9, 0x3F7CFE73,
    0x3F7D3AAC, 0x3F7D7474, 0x3F7DABCC, 0x3F7DE0B1, 0x3F7E1324, 0x3F7E4323, 0x3F7E70B0, 0x3F7E9BC9,
    0x3F7EC46D, 0x3F7EEA9D, 0x3F7F0E58, 0x3F7F2F9D, 0x3F7F4E6D, 0x3F7F6AC7, 0x3F7F84AB, 0x3F7F9C18,
    0x3F7FB10F, 0x3F7FC38F, 0x3F7FD397, 0x3F7FE129, 0x3F7FEC43, 0x3F7FF4E6, 0x3F7FFB11, 0x3F7FFEC4] ++
  [0x3F800000]

/-- t_i (R375). -/
def sine (i : Nat) : Word :=
  let i := i % 1024
  let h := i % 512
  let q := if h ≤ 256 then h else 512 - h
  let v := Word.of (sineTable.getD q 0)
  if 512 < i then negBits v else v

/-- S(φ) of a phase N × 2^-k with N below 2^(32 + k) (R375). -/
def sinePhase (n k : Nat) : Word :=
  let i := n / 2 ^ (22 + k)
  let f := n % 2 ^ (22 + k)
  let t := sine i
  let d := sub (sine (i + 1)) t
  add t (round (signBit d) (f * sig d) (ex d - 22 - k) false)

/-! ### 1 - exp(-x) (R387) -/

/-- x - x^2/2! + x^3/3! - … for x = num/den, in units of 2^-160, from term n on: `t` is the present term. -/
def expSum (num den : Nat) : Nat → Nat → Nat → Int → Int
  | 0, _, _, acc => acc
  | fuel + 1, n, t, acc =>
    let t' := t * num / (den * n)
    expSum num den fuel (n + 1) t' (if n % 2 = 1 then acc + t' else acc - t')

/-- rn(1 - exp(-num/den)). -/
def oneMinusExp (num den : Nat) : Word :=
  if den = 0 then one
  else round false (expSum num den 60 1 (2 ^ 160) 0).toNat (-160) true

end Sys2Proof.Machine.F32
end

