-- ==== Sys2Proof/Machine/Audio.lean ====
section
/-! DEFINITION. Rate domains, blocks, voice commands, slips, bridges, dynamics settings and the sound ports (R357 to R363,
R371, R377 to R396).  The horns' own instructions stand in `Cp2`. -/

namespace Sys2Proof.Machine

/-! ### The state of AUD -/

def aDom0 : Nat → AudDomain := fun _ => ⟨false, 0, 0, none, 0, none, none, false, [], [], none, [], 0, []⟩
def hornU0 : Nat → HornUnit := fun _ => ⟨[], [], [], none, false, []⟩
def bridge0 : Nat → BridgeOn := fun _ => ⟨false, 0, 0, 0, 0, []⟩
def dyn0 : Nat → DynOn := fun _ => ⟨0, false, 0, F32.one, F32.one, 0, 0, 0, [], []⟩
/-- Reset values of the settings behind the window: ATT 10, T and G 1.0, REL 400. -/
def dynReg0 : Nat → Word := fun k => match k % 8 with | 0 => 0x0000A000 | 1 | 2 => F32.one | 3 => 400 | _ => 0
def noSample : Nat → Option Word := fun _ => none

def Chip.modAud (c : Chip) (f : Audio → Audio) : Chip := { c with aud := f c.aud }
def Chip.adom (c : Chip) (d : Nat) : AudDomain := sget aDom0 c.aud.dom d
def Chip.modDom (c : Chip) (d : Nat) (f : AudDomain → AudDomain) : Chip := c.modAud fun a => { a with dom := smod aDom0 a.dom d f }
def Chip.hornU (c : Chip) (h : Nat) : HornUnit := sget hornU0 c.aud.horn h
def Chip.modHorn (c : Chip) (h : Nat) (f : HornUnit → HornUnit) : Chip := c.modAud fun a => { a with horn := smod hornU0 a.horn h f }
def Chip.bridgeOn (c : Chip) (b : Nat) : BridgeOn := sget bridge0 c.aud.bridge b
def Chip.modBridge (c : Chip) (b : Nat) (f : BridgeOn → BridgeOn) : Chip := c.modAud fun a => { a with bridge := smod bridge0 a.bridge b f }
def Chip.dynOn (c : Chip) (b : Nat) : DynOn := sget dyn0 c.aud.dyn b
def Chip.modDyn (c : Chip) (b : Nat) (f : DynOn → DynOn) : Chip := c.modAud fun a => { a with dyn := smod dyn0 a.dyn b f }

/-- Bit `n` of AUD_EVT or AIO_EVT is set. -/
def audEvt (n : Nat) (c : Chip) : Chip := c.setRegBit AUD_EVT n true
def aioEvt (n : Nat) (c : Chip) : Chip := c.setRegBit AIO_EVT n true

/-- AUD is powered and clocked. -/
def Chip.audUp (c : Chip) : Bool := c.mainRuns && c.domainUp 90

/-- The audio RAM's base, and a store of bytes there. -/
def audioAt (off : Nat) : Nat := 0x1010000000 + off % 0x400000
def audioStore (off : Nat) (b : List Byte) (c : Chip) : Chip := c.memStore .audio (audioAt off) b
/-- A word of the audio RAM, checked on its way (R163). -/
def audioWord (off : Nat) (c : Chip) : Nat × Chip := let c := c.eccCheck .audio (audioAt off) false false; (c.le (audioAt off) 4, c)
/-- `n` zeros written 64 bytes at a time. -/
def audioZero (off n : Nat) (c : Chip) : Chip :=
  forAll (List.range ((n + 63) / 64)) (fun i c => audioStore (off + 64 * i) (List.replicate (min 64 (n - 64 * i)) 0) c) c

/-! ### Rates (R357, R358) -/

/-- AUD_CTL as it governs domain `d`: taken at the domain's start, else as written. -/
def Chip.audCtl (c : Chip) (d : Nat) : Word := if (c.adom d).run then (c.adom d).ctl else c.reg AUD_CTL

/-- The rate of domain V in Hz as a fraction, while its output runs; else 0 (R357). -/
def Chip.rateV (c : Chip) : Nat × Nat :=
  let w := c.audCtl 2
  let o := w.bits 8 7
  if c.running o then ((w.bits 6 5 + 1) * (c.out o).timing.hz, (c.out o).timing.htotal) else (0, 1)

/-- Domain V may tick: its rate lies between 8 and 64 kHz (R358). -/
def Chip.vTicks (c : Chip) : Bool := let (n, m) := c.rateV; m != 0 && Nat.ble (8000 * m) n && Nat.ble n (64000 * m)

/-- AUD_VRATE as it reads: units of 2^-16 Hz, 0 while V does not tick. -/
def Chip.vRate (c : Chip) : Nat := if (c.adom 2).run && c.vTicks then c.rateV.1 * 65536 / c.rateV.2 else 0

/-- The rate of a domain as a fraction of Hz (R357). -/
def Chip.domRate (c : Chip) (d : Nat) : Nat × Nat :=
  match d with
  | 0 => (48000, 1)
  | 1 => (if (c.audCtl 1).bit 3 then 32000 else 44100, 1)
  | _ => if c.vTicks then c.rateV else (0, 1)

/-- BLK of a domain (R360). -/
def Chip.blk (c : Chip) (d : Nat) : Nat := 8 * 2 ^ ((c.audCtl d).bits (10 + 2 * d) (9 + 2 * d))

/-- Horns that AUD_HMAP assigns to a domain. -/
def Chip.hornsOf (c : Chip) (d : Nat) : List Nat := (List.range 6).filter fun h => (c.reg AUD_HMAP).bits (2 * h + 1) (2 * h) == d

/-! ### Slips (R379 to R382) -/

/-- The node table of the slip at `off`: identifier, buffer offset and length in bytes of each entry. -/
def nodeTable (off : Nat) (c : Chip) : List (Nat × Nat × Nat) × Chip :=
  let (w0, c) := audioWord off c
  let (t, c) := audioWord (off + 4) c
  (List.range (nbits w0 25 16)).foldl (fun (p : List (Nat × Nat × Nat) × Chip) i =>
    let (a, c) := audioWord (off + t + 8 * i) p.2
    let (b, c) := audioWord (off + t + 8 * i + 4) c
    (p.1 ++ [(nbits a 9 0, b, nbits a 31 16 * 64)], c)) ([], c)

/-- No two elements are equal. -/
def distinct : List Nat → Bool
  | [] => true
  | a :: t => !t.contains a && distinct t

/-- The slip at `off` is refused for domain `d` (R379). -/
def slipRefused (d off : Nat) (c : Chip) : Bool × Chip :=
  let (w0, c) := audioWord off c
  let (t, c) := nodeTable off c
  (nbits w0 1 0 != d || !distinct (t.map fun n => n.1), c)

/-- Offset of AUD_STATE_BASE. -/
def Chip.stateBase (c : Chip) : Nat := c.f AUD_STATE_BASE_BASE * 0x20000

/-- Zero the records and buffers of nodes. -/
def zeroNodes (l : List (Nat × Nat × Nat)) (c : Chip) : Chip :=
  forAll l (fun n c => audioZero n.2.1 n.2.2 (audioZero (c.stateBase + 64 * n.1) 64 c)) c

/-! ### Dynamics settings (R387) -/

/-- Setting `i` of block `b` behind the window. -/
def Chip.dynReg (c : Chip) (b i : Nat) : Word := sget dynReg0 c.aud.dynReg (b * 8 + i)
/-- The block's domain; 3 acts as 0. -/
def Chip.dynDom (c : Chip) (b : Nat) : Nat := let d := (c.dynReg b 0).bits 3 2; if d = 3 then 0 else d

/-- The derived coefficient: attack (0) or release (1) of block `b` (R387). -/
def Chip.dynDerived (c : Chip) (b i : Nat) : Word :=
  let (n, m) := c.domRate (c.dynDom b)
  if i = 0 then F32.oneMinusExp (10000 * m) (max 1 (min 2000 ((c.dynReg b 0).bits 22 12)) * n)
  else F32.oneMinusExp (1000 * m) (max 5 (min 2000 ((c.dynReg b 3).bits 10 0)) * n)

/-- AUD_XDYN_ATT or AUD_XDYN_REL of block `b` as it reads: what expert control wrote since the last reload, else the derived
value. -/
def Chip.dynCoef (c : Chip) (b i : Nat) : Word :=
  match sget (fun _ => none) c.aud.dynCoef (b * 2 + i) with
  | some w => w
  | none => c.dynDerived b i

/-- The coefficient in force (R396). -/
def Chip.dynCoefOn (c : Chip) (b i : Nat) : Word := if c.expert 0x10 then c.dynCoef b i else c.dynDerived b i

/-- The derived coefficients are reloaded. -/
def dynReload (b : Nat) (c : Chip) : Chip :=
  c.modAud fun a => { a with dynCoef := sset (fun _ => none) (sset (fun _ => none) a.dynCoef (b * 2) none) (b * 2 + 1) none }

/-- Block `b`'s settings take effect at its domain's block start (R387): T at or below 0 is used as the smallest normal
number; the delay lines and e are cleared when MODE or LA changes. -/
def dynLatch (b : Nat) (c : Chip) : Chip :=
  let w := c.dynReg b 0
  let mode := w.bits 1 0
  let la := min 64 (w.bits 11 5)
  let t := c.dynReg b 1
  let t := if F32.le t 0 then 0x00800000 else t
  let att := c.dynCoefOn b 0
  let rel := c.dynCoefOn b 1
  let mk := c.dynReg b 2
  c.modDyn b fun x =>
    let keep := x.mode = mode && x.la = la
    ⟨mode, w.bit 4, la, t, mk, att, rel, if keep then x.e else 0, if keep then x.dl else [], if keep then x.dr else []⟩

/-- A write of setting `i` of the selected block (R387): a value outside its range sets DYN_ERR, and a write of ATT, REL or
DOMAIN reloads the coefficients. -/
def writeDyn (i : Nat) (v : Word) (c : Chip) : Chip :=
  let b := c.f AUD_DYN_SEL_BLOCK
  let v := match i with | 0 => v &&& 0x007FFFFF | 3 => v &&& 0x7FF | _ => v
  let old := c.dynReg b i
  let c := c.modAud fun a => { a with dynReg := sset dynReg0 a.dynReg (b * 8 + i) v }
  let bad := match i with
    | 0 => Nat.blt 64 (v.bits 11 5) || v.bits 22 12 == 0 || Nat.blt 2000 (v.bits 22 12)
    | 1 => F32.le v 0
    | 3 => Nat.blt v.toNat 5 || Nat.blt 2000 v.toNat
    | _ => false
  let c := if bad then audEvt 13 c else c
  if i = 3 || (i = 0 && (old.bits 22 12 != v.bits 22 12 || old.bits 3 2 != v.bits 3 2)) then dynReload b c else c

/-- A write of AUD_XDYN_ATT or AUD_XDYN_REL (R387). -/
def writeXdyn (i : Nat) (v : Word) (c : Chip) : Chip :=
  let b := c.f AUD_DYN_SEL_BLOCK
  c.modAud fun a => { a with dynCoef := sset (fun _ => none) a.dynCoef (b * 2 + i) (some v) }

/-! ### Starting, stopping and swapping (R381, R382) -/

/-- EN of domain `d` is set (R381). -/
def startDomain (d : Nat) (c : Chip) : Chip :=
  let off := c.f (AUD_SLIP_NEXT_OFFSET d) * 256
  let (bad, c) := slipRefused d off c
  if bad then audEvt 14 c
  else
    let (t, c) := nodeTable off c
    let c := zeroNodes t c
    let c := c.setF (AUD_SLIP_CUR_OFFSET d) off
    let c := c.modDom d fun _ =>
      ⟨true, c.reg AUD_CTL, c.f AUD_VREC_OFFSET * 64, none, off, none, none, true, [], [], none, [], 0, []⟩
    forAll (List.range 16) (fun b c => if c.dynDom b = d then dynReload b (c.modDyn b fun x => { x with e := 0, dl := [], dr := [] }) else c) c

/-- A domain stops at its block start (R381): its ports send 0.0 and its runs are gone. -/
def stopDomain (d : Nat) (c : Chip) : Chip :=
  let c := c.modDom d fun x => { aDom0 d with slip := x.slip }
  let c := c.setF (AUD_SLIP_NEXT_GO d) 0
  c.modAud fun a => { a with horn := a.horn.map fun p => (p.1, { p.2 with offers := p.2.offers.filter fun r => r.dom != d }) }

/-- A write of AUD_CTL: each EN bit that rises starts a stopped domain. -/
def writeAudCtl (v : Word) (c : Chip) : Chip :=
  let old := c.reg AUD_CTL
  let c := c.setReg AUD_CTL (writeWord false AUD_CTL old v)
  forAll (List.range 3) (fun d c => if v.bit d && !old.bit d && !(c.adom d).run then startDomain d c else c) c

/-- DOMAIN_START (R381): a write of EN. -/
def execDomainStart (d : Fin 3) (en : Bool) (s : State) : Out :=
  s.go fun c => if c.audUp then writeAudCtl ((c.reg AUD_CTL).setBit d en) c else c

/-- A write of AUD_SLIP_NEXT_d (R382): with GO a swap is requested and its new identifiers are zeroed. -/
def writeSlipNext (d : Nat) (v : Word) (c : Chip) : Chip :=
  let go := v.bit 31
  let c := c.setReg (AUD_SLIP_NEXT d) (writeWord false (AUD_SLIP_NEXT d) (c.reg (AUD_SLIP_NEXT d)) (v.setBit 31 false))
  let x := c.adom d
  if !go || !x.run then c
  else if x.swap.isSome then audEvt 12 c
  else
    let off := c.f (AUD_SLIP_NEXT_OFFSET d) * 256
    let (bad, c) := slipRefused d off c
    if bad then audEvt 14 c
    else
      let (new, c) := nodeTable off c
      let (old, c) := nodeTable x.slip c
      let c := zeroNodes (new.filter fun n => !(old.map fun m => m.1).contains n.1) c
      let c := c.setF (AUD_SLIP_NEXT_GO d) 1
      c.modDom d fun x => { x with swap := some (off, c.f (AUD_SLIP_NEXT_XF d)) }

/-- SLIP_GO (R382). -/
def execSlipGo (d : Fin 3) (s : State) : Out :=
  s.go fun c => if c.audUp then writeSlipNext d ((c.reg (AUD_SLIP_NEXT d)).setBit 31 true) c else c

/-- A write of AUD_HMAP: ignored with CFG_ERR where a horn changes whose old or new domain runs. -/
def writeHmap (v : Word) (c : Chip) : Chip :=
  let m (w : Word) (h : Nat) := w.bits (2 * h + 1) (2 * h)
  let old := c.reg AUD_HMAP
  let runs (d : Nat) := Nat.blt d 3 && (c.adom d).run
  if (List.range 6).any fun h => m old h != m v h && (runs (m old h) || runs (m v h)) then audEvt 12 c
  else c.setReg AUD_HMAP (writeWord false AUD_HMAP old v)

/-! ### Voice commands (R371, R377) -/

/-- The lowest horn whose range covers a voice. -/
def Chip.voiceHorn (c : Chip) (v : Nat) : Option Nat :=
  (List.range 6).find? fun h => within (c.f (AUD_VRANGE_FIRST h)) (c.f (AUD_VRANGE_FIRST h) + c.f (AUD_VRANGE_COUNT h)) v

/-- A write of AUD_VCQ_d (R377): a WR that would leave fewer entries than before is ignored; BASE is kept while the domain
runs. -/
def writeVcq (d : Nat) (v : Word) (c : Chip) : Chip :=
  let rd := c.f (AUD_VCQ_RD d)
  let left (w : Nat) := (w + 64 - rd) % 64
  if left (v.bits 5 0) < left (c.f (AUD_VCQ_WR d)) then audEvt 12 c
  else
    let c := c.setF (AUD_VCQ_WR d) (v.bits 5 0)
    if (c.adom d).run then c else c.setF (AUD_VCQ_BASE d) (v.bits 21 10)

/-- VCQ_WR_WRITE (R377). -/
def execVcqWrWrite (d : Fin 3) (wr : Fin 64) (s : State) : Out :=
  s.go fun c => if c.audUp then writeVcq d ((c.reg (AUD_VCQ d)).setBits 5 0 wr) c else c

/-- The entries at the head of domain `d`'s queue that are due for block `k` are applied (R377). -/
def applyVoices (d k : Nat) : Nat → Chip → Chip
  | 0, c => c
  | fuel + 1, c =>
    let rd := c.f (AUD_VCQ_RD d)
    if rd = c.f (AUD_VCQ_WR d) then c
    else
      let a := c.f (AUD_VCQ_BASE d) * 1024 + 16 * rd
      let (w0, c) := audioWord a c
      let (w1, c) := audioWord (a + 4) c
      let (w2, c) := audioWord (a + 8) c
      let sn := w0 + nbits w1 15 0 * 2 ^ 32
      let b := c.blk d
      if (k + 1) * b ≤ sn then c
      else
        let c := if sn < k * b then audEvt 6 c else c
        let word := nbits w1 28 25
        let voice := nbits w1 24 16
        let c := match c.voiceHorn voice with
          | some h =>
            if 11 < word then audEvt 12 c
            else c.memStore (.hornRam h) (0x1030000000 + h * 0x40000 + ((c.adom d).vrec + 64 * voice + 4 * word) % 0x40000) (leBytes 4 w2)
          | none => audEvt 12 c
        applyVoices d k fuel (c.setF (AUD_VCQ_RD d) ((rd + 1) % 64))

/-- Append an ended voice to the end FIFO (R378). -/
def voiceEnded (v : Nat) (c : Chip) : Chip :=
  if Nat.ble 16 c.aud.vend.length then c.setF AUD_VEND_VEND_OVF 1
  else audEvt 10 (c.modAud fun a => { a with vend := a.vend ++ [v] })

/-- A read of AUD_VEND (R378). -/
def readVend (peek : Bool) (c : Chip) : Word × Chip :=
  let w := (c.reg AUD_VEND &&& 0x40000000)
  match c.aud.vend with
  | [] => (w, c)
  | v :: t => ((w.setBits 8 0 v).setBit 31 true, if peek then c else c.modAud fun a => { a with vend := t })

/-- SN of a domain as AUD_SN_LO and AUD_SN_HI give it. -/
def Chip.snOf (c : Chip) (d : Nat) : Nat := match (c.adom d).sn with | some n => n | none => 0

/-- A read of AUD_SN_LO_d by origin `o` (R32). -/
def readSnLo (o d : Nat) (peek : Bool) (c : Chip) : Word × Chip :=
  let n := c.snOf d
  (Word.of n, if peek then c else c.modAud fun a => { a with snHi := sset (fun _ => 0) a.snHi (o * 4 + d) (Word.of (n / 2 ^ 32)) })

/-- A read of AUD_SN_HI_d by origin `o`. -/
def readSnHi (o d : Nat) (c : Chip) : Word := sget (fun _ => 0) c.aud.snHi (o * 4 + d)

/-! ### The commit of a block (R361, R362, R369, R383) -/

/-- An error of a point: AUD_FAULT and the event bit (R369, R370). -/
def pointFault (bit d p : Nat) (c : Chip) : Chip := ((c.setF AUD_FAULT_POINT p).setF AUD_FAULT_DOMAIN d) |> audEvt bit

/-- The horns' writes of a run merged in ascending horn number, with the points that two horns wrote (R369). -/
def mergePts (m : Sparse (Option Word)) : Sparse (Option Word) × List Nat :=
  m.foldl (fun (acc : Sparse (Option Word) × List Nat) p =>
    let k := p.1 % 16384
    (sset noSample acc.1 k p.2, if (sget noSample acc.1 k).isSome then acc.2 ++ [k / 64] else acc.2)) ([], [])

/-- A sample during a fade: `i` of `f` (R383). -/
def fadeMix (i f : Nat) (old new : Option Word) : Option Word :=
  let w := F32.div (F32.ofInt (i + 1) 0) (F32.ofInt f 0)
  let w' := F32.div (F32.ofInt (f - i - 1) 0) (F32.ofInt f 0)
  match old, new with
  | some a, some b => some (F32.add (F32.mul a w') (F32.mul b w))
  | some a, none => some (F32.mul a w')
  | none, some b => some (F32.mul b w)
  | none, none => none

/-- The samples of a block from its old and its new run. -/
def blendRuns (k blk : Nat) (fade : Option (Nat × Nat × Nat)) (old new : Sparse (Option Word)) : Sparse Word :=
  let keys := (old.map fun p => p.1) ++ (new.map fun p => p.1)
  keys.foldl (fun acc q =>
    let i := k * blk + q % 64
    let v := match fade with
      | some (_, s, f) => if s ≤ i && i < s + f then fadeMix (i - s) f (sget noSample old q) (sget noSample new q) else sget noSample new q
      | none => sget noSample new q
    match v with
    | some w => sset (fun _ => 0) acc q w
    | none => acc) []

/-- Bridges from domain `d` take the samples of the block that ends at `known` (R385). -/
def feedBridges (d first n : Nat) (pts : Sparse Word) (c : Chip) : Chip :=
  forAll (List.range 16) (fun b c =>
    if (c.bridgeOn b).on && c.f (AUD_BR_CFG_SRC b) = d then
      c.modBridge b fun x =>
        let h := (List.range n).foldl (fun h i => sset (fun _ => 0) h (first + i) (sget (fun _ => 0) pts ((0x70 + b) * 64 + i))) x.hist
        { x with hist := h.filter fun p => Nat.ble (first + n) (p.1 + 4096) }
    else c) c

/-- Block `k` of domain `d` has a run that is not ended. -/
def AudDomain.busy (x : AudDomain) (k : Nat) : Bool := x.runs.any fun r => r.block == k && r.horns.any fun h => !r.ended.contains h

/-- The domain of a TDM port, its slots, its slot width and its sample width. -/
def Chip.tdmDom (c : Chip) (p : Nat) : Nat := let d := c.f (AIO_TDM_DOMAIN p); if d = 3 then 0 else d
def Chip.tdmSlots (c : Chip) (p : Nat) : Nat := if c.f (AIO_TDM_MODE p) = 2 then max 2 (c.f (AIO_TDM_SLOTS p) + 1) else 2
def Chip.tdmSlotw (c : Chip) (p : Nat) : Nat := match c.f (AIO_TDM_SLOTW p) with | 0 => 16 | 1 => 24 | _ => 32
def Chip.tdmSampw (c : Chip) (p : Nat) : Nat :=
  min (c.tdmSlotw p) (match c.f (AIO_TDM_SAMPW p) with | 0 => 16 | 1 => 20 | 2 => 24 | _ => 32)

/-- FS of TDM port `p` and its data bit in BCLK period `b` of a frame (R391): I2S holds FS low for slot 0 and starts each slot one BCLK
after the FS edge, left-justified holds FS high for slot 0, TDM holds it high in the one BCLK before slot 0; a slot carries the sample's
bits, most significant first, then 0.  FSINV inverts FS (R396). -/
def Chip.tdmPins (c : Chip) (p b : Nat) : Bool × Bool :=
  let w := c.tdmSlotw p
  let n := c.tdmSlots p * w
  let (fs, q) := match c.f (AIO_TDM_MODE p) with
    | 1 => (Nat.blt (b % n) w, b % n)
    | 2 => (b % n == n - 1, b % n)
    | _ => (!Nat.blt (b % n) w, (b + n - 1) % n)
  let sw := c.tdmSampw p
  let v := (sget (fun _ => 0) c.aud.sent (16 * p + q / w) % 2 ^ sw).toNat
  (fs != (c.xf AIO_XPAD_FSINV 0).testBit p, Nat.blt (q % w) sw && v.testBit (sw - 1 - q % w))

/-- Data of TDM port `p` changes on the falling BCLK edge, with BCLKINV on the rising one (R391). -/
def Chip.tdmRisingEdge (c : Chip) (p : Nat) : Bool := (c.xf AIO_XPAD_BCLKINV 0).testBit p

/-- The channel status of the S/PDIF stream, bit 0 first (R393): consumer and linear PCM are 0, then the copyright bit, the category
code, the sampling frequency and the word length, whose codes are those of IEC 60958-3 (log entry 178). -/
def Chip.spdifStatus (c : Chip) : Nat :=
  let rate := if c.f AIO_SPDIF_DOMAIN = 0 then 2 else if (c.audCtl 1).bit 3 then 3 else 0
  let width := match c.f AIO_SPDIF_WIDTH with | 0 => 2 | 1 => 10 | _ => 11
  4 * c.f AIO_SPDIF_COPY + 2 ^ 8 * c.f AIO_SPDIF_CAT + 2 ^ 24 * rate + 2 ^ 32 * width

/-- BCLK of a port is at most 24.576 MHz (R391). -/
def Chip.tdmRateOk (c : Chip) (p : Nat) : Bool :=
  let (n, m) := c.domRate (c.tdmDom p)
  Nat.ble (n * c.tdmSlots p * c.tdmSlotw p) (24576000 * m)

/-- Width of WIDTH of AIO_SPDIF and AIO_DP_o. -/
def width3 (w : Nat) : Nat := match w with | 0 => 16 | 1 => 20 | _ => 24

/-- The output points that the running ports of domain `d` send, with their sample widths. -/
def Chip.portPoints (c : Chip) (d : Nat) : List (Nat × Nat) :=
  let tdm := (List.range 4).flatMap fun p =>
    if c.fb (AIO_TDM_EN p) && c.tdmDom p == d && c.tdmRateOk p then (List.range (c.tdmSlots p)).map fun s => (16 * p + s, c.tdmSampw p) else []
  let spdif := if c.fb AIO_SPDIF_EN && c.f AIO_SPDIF_DOMAIN == d then [(0x40, width3 (c.f AIO_SPDIF_WIDTH)), (0x41, width3 (c.f AIO_SPDIF_WIDTH))] else []
  let dp := (List.range 4).flatMap fun o =>
    if c.fb (AIO_DP_EN o) && c.f (AIO_DP_DOMAIN o) == d then
      (List.range (if c.fb (AIO_DP_CH8 o) then 8 else 2)).map fun ch => (0x48 + 8 * o + ch, width3 (c.f (AIO_DP_WIDTH o)))
    else []
  tdm ++ spdif ++ dp

/-- A port or a bridge of domain `d` uses output point `p` (R369). -/
def Chip.pointUsed (c : Chip) (d p : Nat) : Bool :=
  (c.portPoints d).any (fun q => q.1 == p) || (within 0x70 0x80 p && (c.bridgeOn (p - 0x70)).on && c.f (AUD_BR_CFG_SRC (p - 0x70)) == d)

/-- Block `k` commits once every horn has ended its runs; a late block's samples are discarded, and a write to a point that nothing
uses is discarded without error (R361, R362, R369). -/
def tryCommit (d k : Nat) (c : Chip) : Chip :=
  let x := c.adom d
  let rs := x.runs.filter fun r => r.block == k
  if rs = [] || x.busy k then c
  else
    let merged (o : Bool) := rs.foldl (fun acc r => if r.old == o then mergePts r.pts else acc) ([], [])
    let (new, e1) := merged false
    let (old, e2) := merged true
    let c := forAll ((e2 ++ e1).filter fun p => c.pointUsed d p) (fun p c => pointFault 8 d p c) c
    let c := c.modDom d fun x => { x with runs := x.runs.filter fun r => r.block != k, late := x.late.filter (· != k) }
    if x.late.contains k then c
    else
      let blk := c.blk d
      let pts := blendRuns k blk x.fade old new
      let c := feedBridges d (k * blk) blk pts c
      c.modDom d fun x => { x with ready := some (k, pts), known := (k + 1) * blk }

/-! ### A block start (R361, R362, R382 to R385) -/

/-- The swap that waits takes place (R382, R383). -/
def swapSlip (d k : Nat) (c : Chip) : Chip :=
  let x := c.adom d
  match x.swap with
  | none => c
  | some (off, xf) =>
    let (new, c) := nodeTable off c
    let (old, c) := nodeTable x.slip c
    let both := new.filter fun n => (old.map fun m => m.1).contains n.1
    let c := if xf = 0 then c else
      forAll both (fun n c =>
        let a := c.stateBase + 64 * n.1
        audioStore (a + 0x10000) (c.bytes (audioAt a) 64) c) c
    let c := (c.setF (AUD_SLIP_CUR_OFFSET d) off).setF (AUD_SLIP_NEXT_GO d) 0
    let c := audEvt (3 + d) c
    let fade := if xf = 0 then none else some (x.slip, k * c.blk d, 16 * 2 ^ xf)
    c.modDom d fun x => { x with slip := off, swap := none, fade := fade, first := true }

/-- A run of block `k` is offered to the domain's horns that have a section in the slip at `off` (R361, R379). -/
def offerRun (d k off : Nat) (old fade first : Bool) (c : Chip) : Chip :=
  let input := (c.adom d).arrived
  let (hs, c) := (c.hornsOf d).foldl (fun (p : List Nat × Chip) h =>
    let (e, c) := audioWord (off + 8 + 4 * h) p.2
    if e = 0 then (p.1, c)
    else (p.1 ++ [h], c.modHorn h fun x => { x with offers := x.offers ++ [⟨d, k, old, fade, first, Word.of e⟩] })) ([], c)
  c.modDom d fun x => { x with runs := x.runs ++ [⟨k, old, hs, [], [], [], input⟩] }

/-- Block `k` is offered: in a block with fade samples the old slip's run comes first (R383). -/
def offerBlock (d k : Nat) (c : Chip) : Chip :=
  let x := c.adom d
  let blk := c.blk d
  let fading := match x.fade with | some (_, s, f) => decide (k * blk < s + f) | none => false
  let c := if fading then c else c.modDom d fun x => { x with fade := none }
  let c := match x.fade with
    | some (old, _, _) => if fading then offerRun d k old true true false c else c
    | none => c
  let c := offerRun d k x.slip false fading x.first c
  let c := c.modDom d fun x => { x with first := false, arrived := [] }
  tryCommit d k c

/-- Block `k` - 1 begins to play; one not committed is late and plays 0.0 (R361, R362). -/
def playBlock (d k : Nat) (c : Chip) : Chip :=
  if k = 0 then c
  else match (c.adom d).ready with
    | some (j, pts) => if j + 1 = k then c.modDom d fun x => { x with play := pts, ready := none } else c
    | none =>
      let blk := c.blk d
      let n := nbits (c.f AUD_LATE_COUNT) (10 * d + 9) (10 * d)
      let c := c.setReg AUD_LATE ((c.reg AUD_LATE).setBits (10 * d + 9) (10 * d) (satInc 10 n))
      let c := feedBridges d ((k - 1) * blk) blk [] (audEvt d c)
      c.modDom d fun x => { x with play := [], late := x.late ++ [k - 1], known := k * blk }

/-- RATIO of a bridge and its filter set, none where the bridge is refused (R384, R385). -/
def Chip.bridgeRatio (c : Chip) (src dst : Nat) : Option (Nat × Nat) :=
  let f (d : Nat) : Nat × Nat := if d = 2 then (c.vRate, 65536) else c.domRate d
  let (sn, sd) := f src
  let (dn, dd) := f dst
  let a := dn * sd
  let b := sn * dd
  if src = dst || Nat.ble 3 src || Nat.ble 3 dst || a = 0 || b = 0 || 8 * a < b || 3 * b < a then none
  else some (b * 2 ^ 32 / a, if b ≤ a then 0 else if 2 * b ≤ 3 * a then 1 else 2)

/-- The ratio of bridge `b` is measured: an end is domain B clocked from AUDCLK_B (R386). -/
def Chip.bridgeMeasured (c : Chip) (b : Nat) : Bool :=
  (c.f (AUD_BR_CFG_SRC b) == 1 || c.f (AUD_BR_CFG_DST b) == 1) && (c.audCtl 1).bit 4

/-- The enabled bridges into domain `d` start at its block start `k` (R384). -/
def startBridges (d k : Nat) (c : Chip) : Chip :=
  forAll (List.range 16) (fun b c =>
    if c.fb (AUD_BR_CFG_EN b) && !(c.bridgeOn b).on && c.f (AUD_BR_CFG_DST b) = d then
      match c.bridgeRatio (c.f (AUD_BR_CFG_SRC b)) d with
      | none => audEvt 11 (c.setF (AUD_BR_CFG_EN b) 0)
      | some (r, set) =>
        let c := c.setF (AUD_BR_CFG_MEAS b) (c.bridgeMeasured b).toNat
        c.modBridge b fun _ => ⟨true, k, c.snOf (c.f (AUD_BR_CFG_SRC b)), r, set, []⟩
    else c) c

/-- Block start `k` of domain `d` (R361). -/
def blockStart (d k : Nat) (c : Chip) : Chip :=
  let c := forAll (List.range 16) (fun b c => if c.dynDom b = d then dynLatch b c else c) c
  let c := startBridges d k c
  let c := applyVoices d k 64 c
  offerBlock d k (playBlock d k (swapSlip d k c))

/-! ### Ports (R391 to R395) -/

/-- A port that carries output `o` sends its stream, not the idle pattern (R306, R308, R311). -/
def Chip.streamSent (c : Chip) (o : Nat) : Bool := (List.range 4).any fun d => (c.port d).src == o && c.portBusy d && c.fb (OUT_LINK_TRAINED d)

/-- What feeds output point `p` of a port goes out: a DisplayPort stream only while its output is sent (R314). -/
def Chip.pointSends (c : Chip) (p : Nat) : Bool := !within 0x48 0x68 p || c.streamSent ((p - 0x48) / 8)

/-- The ports of domain `d` send the samples that `f` gives for their points, as integers of their width (R391). -/
def sendSamples (d : Nat) (f : Nat → Word) (c : Chip) : Chip :=
  forAll ((c.portPoints d).filter fun p => c.pointSends p.1) (fun p c =>
    let w := p.2
    c.modAud fun a => { a with sent := sset (fun _ => 0) a.sent p.1 (F32.toInt (f p.1) (w - 1) (-(2 ^ (w - 1))) (2 ^ (w - 1) - 1)) }) c

/-- AUDIO_TICK (R357): the next sample of domain `d`, unless V does not tick or a freeze group holds the domain (R616). -/
def execAudioTick (d : Fin 3) (s : State) : Out :=
  s.go fun c =>
    if !c.audUp || !(c.adom d).run then c
    else if c.unitFrozen (10 + d) then sendSamples d (fun _ => 0) c
    else if d.val = 2 && !c.vTicks then sendSamples d (fun _ => 0) (audEvt 9 c)
    else
      let n := match (c.adom d).sn with | some n => (n + 1) % 2 ^ 64 | none => 0
      let c := c.modDom d fun x => { x with sn := some n }
      let blk := c.blk d
      if n % blk = 0 && !(c.reg AUD_CTL).bit d then stopDomain d (sendSamples d (fun _ => 0) c)
      else
        let c := if n % blk = 0 then blockStart d (n / blk) c else c
        let x := c.adom d
        sendSamples d (fun p => sget (fun _ => 0) x.play (p * 64 + n % blk)) c

/-- BRIDGE_RATIO_MEASURE (R386): the ratio found over 2^16 destination samples. -/
def execBridgeRatioMeasure (b : Fin 16) (ratio : Nat) (s : State) : Out :=
  s.go fun c =>
    if c.audUp && (c.bridgeOn b).on && c.bridgeMeasured b then
      c.modBridge b (fun x => { x with ratio := ratio % 2 ^ 36 }) |>.setF (AUD_BR_CFG_MEAS b) 1
    else c

/-- RX_SAMPLE (R392): integer `v` arrives in a slot of receive port `p`; `late` tells that its input block has been
delivered. -/
def execRxSample (p : Fin 2) (slot : Fin 16) (v : Int) (late : Bool) (s : State) : Out :=
  s.go fun c =>
    let d := c.tdmDom p
    if !c.audUp || !c.fb (AIO_TDM_EN p) || !c.fb (AIO_TDM_RXEN p) || !c.tdmRateOk p || !(c.adom d).run then c
    else if late then aioEvt p c
    else
      let w := c.tdmSampw p
      c.modDom d fun x => { x with
        arrived := sset noSample x.arrived ((16 * p + slot) * 64 + (match x.sn with | some n => n | none => 0) % c.blk d)
          (some (F32.ofInt (sextInt w (v % 2 ^ w).toNat) (-(w - 1 : Nat)))) }

/-- AUDCLK_B_LOSS (R358): AUDCLK_B stops while domain B uses it; its ticks end until the clock returns. -/
def execAudclkBLoss (s : State) : Out :=
  s.go fun c => if c.audUp && (c.adom 1).run && (c.audCtl 1).bit 4 then aioEvt 3 c else c

/-- A write of a port's register (R395): while the port runs only EN may change; a port that cannot start sets RATE_ERR
(R391). -/
def writePort (key : Nat) (v : Word) (c : Chip) : Chip :=
  let old := c.reg key
  let new := writeWord false key old v
  if old.bit 0 && old.setBit 0 false != new.setBit 0 false then aioEvt 4 c
  else
    let c := c.setReg key new
    let p := (key - AIO_TDM 0) / 4
    if !old.bit 0 && new.bit 0 && p < 4 && !c.tdmRateOk p then aioEvt 2 c else c

/-- A write of AUD_BR_CFG_b: a bridge whose EN falls stops; its ends change while it is stopped. -/
def writeBridge (b : Nat) (v : Word) (c : Chip) : Chip :=
  let c := c.setReg (AUD_BR_CFG b) (writeWord false (AUD_BR_CFG b) (c.reg (AUD_BR_CFG b)) v)
  if v.bit 0 then c else c.modBridge b fun _ => bridge0 b

/-- AUD_XBRC_DATA as it reads (R385): set 3 reads 0. -/
def Chip.bridgeCoef (c : Chip) : Word :=
  let s := c.f AUD_XBRC_SEL_SET
  if s = 3 then 0 else Config.bridgeTap s (c.f AUD_XBRC_SEL_PHASE) (c.f AUD_XBRC_SEL_TAP)

/-! ### The bridge's output (R385) -/

/-- Source sample `j` of a bridge: 0.0 before S0; none while it is not known yet. -/
def bridgeX (x : BridgeOn) (known : Nat) (j : Int) : Option Word :=
  if j < 0 || j < x.s0 then some 0
  else if j.toNat < known then some (sget (fun _ => 0) x.hist j.toNat)
  else none

/-- The sum of R385 in ascending k. -/
def bridgeSum (x : BridgeOn) (known : Nat) (i : Int) (p : Nat) : List Nat → Option Word → Option Word
  | [], acc => acc
  | k :: t, acc =>
    match bridgeX x known (i - 7 + k), acc with
    | some s, some a =>
      let m := F32.mul (Config.bridgeTap x.set p k) s
      bridgeSum x known i p t (some (if k = 0 then m else F32.add a m))
    | _, _ => none

/-- Sample `n` of the destination of bridge `b` (R385); none where a source sample it needs is not known yet. -/
def Chip.bridgeY (c : Chip) (b n : Nat) : Option Word :=
  let x := c.bridgeOn b
  if !x.on then none
  else
    let src := c.f (AUD_BR_CFG_SRC b)
    let dst := c.f (AUD_BR_CFG_DST b)
    let pos : Int := (x.s0 : Int) * 2 ^ 32 + ((n : Int) - x.k0 * c.blk dst - 24) * x.ratio - (c.blk src : Int) * 2 ^ 32
    bridgeSum x (c.adom src).known (pos / 2 ^ 32) (pos / 2 ^ 24 % 256).toNat (List.range 16) (some 0)

/-! ### Resets -/

/-- The least number of samples of committed blocks that a running domain has not yet played (R198). -/
def Chip.audLead (c : Chip) : Option Nat :=
  ((List.range 3).filter fun d => (c.adom d).run).foldl (fun m d =>
    let x := c.adom d
    let blk := c.blk d
    let n := (match x.sn with | some n => blk - 1 - n % blk | none => blk) + (if x.ready.isSome then blk else 0)
    some (match m with | some a => min a n | none => n)) none

/-- A U reset of horn `h` (R364): its lanes and marks are 0; the runs it held are never ended. -/
def hornReset (h : Nat) (c : Chip) : Chip := c.modHorn h fun _ => hornU0 h

end Sys2Proof.Machine
end

