-- ==== Sys2Proof/Machine/Zow.lean ====
section
/-! DEFINITION. Twin operation over the Zowyn link (R457 to R492): link states, streams, snapshots, windows, frame following,
seals, leadership, handover and resync. -/

namespace Sys2Proof.Machine

/-- A change of the link engine. -/
def Chip.modZow (c : Chip) (f : Zow → Zow) : Chip := { c with zow := f c.zow }

/-- Bit `n` of ZOW_EVT is set. -/
def zowEvt (n : Nat) (c : Chip) : Chip := c.setRegBit ZOW_EVT n true

/-- ZOW is powered, clocked and not stopped by a unit-fatal error. -/
def Chip.zowUp (c : Chip) : Bool := c.mainRuns && c.domainUp 100 && !c.power.failed.contains 232

/-- ZOW_STATUS.STATE. -/
def Chip.zowState (c : Chip) : Nat := c.f ZOW_STATUS_STATE
def setZowState (n : Nat) (c : Chip) : Chip := c.setF ZOW_STATUS_STATE n

/-- The link carries frames: AUTH, SYNC, RESYNC or PAIRED. -/
def Chip.linkUp (c : Chip) : Bool := within 2 6 c.zowState

/-- The link is gone (R460, R462, R49, R488): its state, its lanes, TWIN_SYNC, what waits for a frame start, and a handover
not yet at its step 4. -/
def linkDown (st : Nat) (c : Chip) : Chip :=
  let c := if c.linkUp then zowEvt 1 c else c
  let c := (setZowState st c).setF ZOW_STATUS_LANES 0
  let c := (c.setF ZOW_LANE_LOCK 0).setF ZOW_LANE_ACTIVE 0
  let c := c.setF POST_STATUS_TWIN_SYNC 0
  let c := c.modZow fun z => { z with follow := [], handover := none, goodOffsets := 0, framesOut := [] }
  c.modFu fun u => { u with holdRequests := false }

/-- ELIGIBLE (R462): a PAIRED Mirror, not STALE, not DIVERGED, with no seal mismatch in SEAL_WINDOW frames. -/
def Chip.zowEligible (c : Chip) : Bool :=
  c.paired && c.isMirror && !c.fu.stale && !c.fb ZOW_STATUS_DIVERGED && Nat.ble (c.xf ZOW_XLINK_SEAL_WINDOW 2) c.zow.cleanFrames

/-- ZOW_STATUS as it reads. -/
def readZowStatus (c : Chip) : Word :=
  ((c.reg ZOW_STATUS).setBit 5 c.zowEligible).setBit 7 (c.fnLevel .twinPeer)

/-- ZOW_WIN_w as it reads, and a write of it (R474). -/
def readZowWin (w : Nat) (c : Chip) : Word := c.zowWin w
def writeZowWin (w : Nat) (v : Word) (c : Chip) : Chip :=
  if c.paired && c.isMirror then c else c.setReg (ZOW_WIN w) (writeWord false (ZOW_WIN w) (c.reg (ZOW_WIN w)) v)

/-! ### Training (R460 to R462) -/

/-- A write of ZOW_CTL (R461, R462). -/
def writeZowCtl (v : Word) (c : Chip) : Chip :=
  let c := c.setReg ZOW_CTL (writeWord false ZOW_CTL (c.reg ZOW_CTL) v)
  if v.bit 0 then (if c.zowState = 0 then (setZowState 1 c).setF ZOW_STATUS_REFUSE 0 else c)
  else if c.zowState = 0 then c else (linkDown 0 c).setF ZOW_STATUS_REFUSE 0

/-- ZOW_ENABLE (R461). -/
def execZowEnable (en : Bool) (s : State) : Out := s.go fun c => if c.zowUp then writeZowCtl ((c.reg ZOW_CTL).setBit 0 en) c else c

/-- The link is refused, with its reason (R464). -/
def refuse (n : Nat) (c : Chip) : Chip := ((linkDown 7 c).setF ZOW_STATUS_REFUSE n) |> zowEvt 4

/-- ZOW_TRAIN_DONE (R461): every lane is locked at `rate`, and link frames are numbered anew; an end with FORCE trains only at its own
rate.  What the streams have not had acknowledged stays, under its numbers (R54, R58, R468). -/
def execZowTrainDone (rate : Fin 3) (s : State) : Out :=
  s.go fun c =>
    let force := c.xf ZOW_XLINK_FORCE 0 = 1
    let own := min 2 (c.xf ZOW_XLINK_RATE 2)
    let st := c.zowState
    if c.zowUp && c.fb ZOW_CTL_EN && (st = 0 || st = 1 || st = 6) && (!force || own = rate.val) then
      let c := ((setZowState 2 c).setF ZOW_STATUS_RATE rate).setF ZOW_STATUS_LANES 4
      let c := (c.setF ZOW_STATUS_SPARE_USED 0).setF ZOW_LANE_LOCK 31
      let c := zowEvt 0 (c.setF ZOW_LANE_ACTIVE 15)
      c.modZow fun z => { z with frameSeq := 0, frameExpect := 0, framesOut := [], goodOffsets := 0 }
    else c

/-- ZOW_TRAIN_TIMEOUT (R461). -/
def execZowTrainTimeout (s : State) : Out := s.go fun c => if c.zowUp && c.zowState = 1 then refuse 10 c else c

/-- LANE_FAIL (R460): lane `l` fails.  The first failed lane's share moves to the spare; with a second the link has the two
lanes of `two`; a third takes it down. -/
def execLaneFail (l : Fin 5) (two : Fin 32) (s : State) : Out :=
  s.go fun c =>
    if !(c.zowUp && c.linkUp && (c.f ZOW_LANE_LOCK).testBit l) then c
    else
      let c := c.setRegBit ZOW_LANE (16 + l) true
      let c := c.setRegBit ZOW_LANE l false
      let c := c.journal 3 0 232 0 l 0
      let c := c.repairAdd 4 l 0
      match 5 - popcount 5 (c.f ZOW_LANE_LOCK) with
      | 1 =>
        if l.val = 4 then c
        else
          let c := (c.setRegBit ZOW_LANE (8 + l) false).setRegBit ZOW_LANE 12 true
          zowEvt 2 (c.setF ZOW_STATUS_SPARE_USED 1)
      | 2 => (c.setF ZOW_LANE_ACTIVE two).setF ZOW_STATUS_LANES 2
      | _ => linkDown 0 c

/-! ### Admission (R463 to R466) -/

/-- This device's IDENT_PUB. -/
def identKey : List Byte := (List.range 32).map Config.identPub

/-- Bytewise order of two byte strings. -/
def bytesBelow : List Byte → List Byte → Bool
  | [], _ => false
  | _, [] => false
  | a :: s, b :: t => if a = b then bytesBelow s t else decide (a.toNat < b.toNat)

/-- A non-zero meter among 16 to 127. -/
def Chip.holdsMeters (c : Chip) : Bool := c.fu.copyA.val.any fun p => within 16 128 p.1 && p.2 != 0

/-- The role that R465 gives this device: true for Lead; none where both insist on one role. -/
def Chip.decideRole (c : Chip) (p : Peer) : Option Bool :=
  let own := if c.f ZOW_CTL_ROLE_PREF = 3 then 0 else c.f ZOW_CTL_ROLE_PREF
  let other := if p.pref = 3 then 0 else p.pref
  let former := c.fu.partner == some p.ident && p.partner == some identKey
  if own != other then some (own == 1 || other == 2)
  else if own != 0 then none
  else if c.anyRunning != p.running then some c.anyRunning
  else
    match (if former then genAfter c.fu.copyA.gen p.gen else none), genAfter p.gen c.fu.copyA.gen with
    | some true, _ => some true
    | some false, some true => some false
    | _, _ =>
      if c.holdsMeters != p.meters then some c.holdsMeters
      else some (bytesBelow identKey p.ident)

/-- The reason for which admission is refused; 0 where it is not (R464). -/
def Chip.admission (c : Chip) (p : Peer) (lead : Option Bool) : Nat :=
  let isLead := lead == some true
  let other (own : Option (List Byte)) (id : List Byte) := own != none && own != some id
  let leadPartner := if isLead then c.fu.partner else p.partner
  let mirPartner := if isLead then p.partner else c.fu.partner
  let leadId := if isLead then identKey else p.ident
  let mirId := if isLead then p.ident else identKey
  let leadDoor := if isLead then c.logicDoor else p.door
  let mirMeters := if isLead then p.meters else c.holdsMeters
  if !p.authOk then 1
  else if c.sealDigests != p.seals || c.fu.manifest != p.manifest then 2
  else if !p.sameTitle then 3
  else if c.f SYS_PROFILE_CUR != p.profile then 4
  else if lead == none then 7
  else if other leadPartner mirId && !leadDoor then 5
  else if mirPartner != some leadId && mirMeters then 6
  else if c.fu.rom || p.rom then 9
  else 0

/-- The streams as a pairing finds them (R58, R468): with the former partner and role each resumes at its first unacknowledged item; a
device that holds none of them, or another role, takes up the numbers at which its partner stands (log entry 87). -/
def pairStreams (p : Peer) (former : Bool) (z : Zow) : Zow :=
  if former && (z.sent != [] || z.applied != []) then z
  else
    let t := (List.range 5).foldl (fun t i => sset (fun _ => 0) t (6 + i) (p.base.getD i 0 % 2 ^ 32)) []
    { z with sent := t, applied := t, captured := [], heldLines := [], snapsOut := [], snapsHeld := [] }

/-- ZOW_AUTH_DONE (R463 to R466, R46): the roles are decided or admission is refused; a change of partner is committed; the
count steps forward to the larger one, the partner's corrected by the link's delay. -/
def execZowAuthDone (p : Peer) (s : State) : Out :=
  s.go fun c =>
    if !(c.zowUp && c.zowState = 2) then c
    else
      let lead := c.decideRole p
      match c.admission p lead with
      | 0 =>
        let isLead := lead == some true
        let former := c.fu.partner == some p.ident && c.f ZOW_STATUS_ROLE == (if isLead then 1 else 2)
        let c := if c.fu.partner = some p.ident then c
          else fuDo (fun c => recordOnly 3 0 0 (leNat (p.ident.take 12)) (c.modFu fun u => { u with partner := some p.ident })) c
        let c := c.modFu fun u => { u with role := if isLead then 1 else 2, demoted := false, acksDue := [], heldCommits := [] }
        let c := if isLead then forAll (List.range 8) takeShadow c else giveShadows c
        let c := (setZowState 3 c).setF ZOW_STATUS_ROLE (if isLead then 1 else 2)
        let c := c.modZow fun z =>
          { pairStreams p former z with
            audioHeld := z.audioHeld || !isLead
            leadWait := false
            peerDoor := p.door
            peerEligible := false
            peerGen := p.gen
            goodOffsets := 0
            cleanFrames := 0
            slewAt := 0
            offset := 0 }
        c.stepCount (min (2 ^ 64 - 1) (p.count + p.delay))
      | n => refuse n c

/-- SYNC_PROBE (R467, R47): one exchange of time probes; after 16 good offsets TWIN_SYNC is set and SYNC ends. -/
def execSyncProbe (t1 t2 t3 t4 : Nat) (s : State) : Out :=
  s.go fun c =>
    if !(c.zowUp && within 3 6 c.zowState) then c
    else
      let off : Int := (((t2 : Int) - t1) - ((t4 : Int) - t3)) / 2
      let good := if off.natAbs ≤ 20 then c.zow.goodOffsets + 1 else 0
      let c := c.modZow fun z => { z with offset := off, goodOffsets := min good 16 }
      let c := c.zowSend 2
      if 16 ≤ good then
        let c := c.setF POST_STATUS_TWIN_SYNC 1
        if c.zowState = 3 then setZowState 4 c else c
      else c

/-! ### Resync (R490, R491, R59) -/

/-- The highest GEN at which both journals hold equal entries (R490). -/
def forkOf (own peer : List JEntry) : Option Nat :=
  (own.filter fun e => peer.contains e).foldl (fun m e =>
      match m with | none => some e.gen | some g => if genAfter e.gen g == some true then some e.gen else some g) none

/-- An entry reversed on a copy of the meters. -/
def Chip.undoEntry (c : Chip) (x : MeterCopy) (e : JEntry) : MeterCopy :=
  let v := e.changes.foldl (fun t p => smod z0 t p.1 fun n => c.meterPlus p.1 n (-p.2)) x.val
  ⟨x.valid, (e.gen + 2 ^ 32 - 1) % 2 ^ 32, smod z0 v 3 fun n => n - 1⟩

/-- The GEN up to which entries follow `g` without a gap (R423). -/
def unbroken (src : List JEntry) : Nat → Nat → Nat
  | 0, g => g
  | n + 1, g => if src.any fun e => e.gen == (g + 1) % 2 ^ 32 then unbroken src n ((g + 1) % 2 ^ 32) else g

/-- The rejoining unit reverses its entries after the fork and applies the Lead's from there (R490). -/
def rejoin (fork : Nat) (peer : List JEntry) (c : Chip) : Chip :=
  let gone := c.fu.journal.filter fun e => genAfter e.gen fork == some true
  let base := gone.foldl c.undoEntry c.fu.copyA
  let c := c.modFu fun u => { u with
    journal := u.journal.filter fun e => genAfter e.gen fork != some true
    archive := gone.take u.unarchived ++ u.archive
    unarchived := u.unarchived - gone.length
    copyA := base
    copyB := base
    heldCommits := [] }
  forAll (entriesAfter fork peer) recordEntry c

/-- ZOW_RESYNC (R490, R59, R480): `peer` is the partner's journal, newest first, with what its archive adds; `wins` the Lead's
window registers.  A unit that holds no entry after its base rejoins from there (R491).  The rejoining unit is refused where the
fork is more than 64 generations back or the Lead's journal and archive do not hold every generation after it (R423); once the
journals agree the twins are PAIRED and DIVERGED, and the Lead commits meter 4 + 1 where a replay was needed. -/
def execZowResync (peer : List JEntry) (wins : List Word) (s : State) : Out :=
  s.go fun c =>
    if !(c.zowUp && c.zowState = 4 && c.fu.vdd) then c
    else
      let own := c.fu.journal ++ c.fu.archive
      let ahead (g fork : Nat) := (g + 2 ^ 32 - fork) % 2 ^ 32
      let mirGen := if c.isMirror then c.fu.copyA.gen else c.zow.peerGen
      let leadGen := if c.isMirror then c.zow.peerGen else c.fu.copyA.gen
      let fresh := if c.isMirror then c.fu.journal = [] else peer = []
      match (if fresh then some mirGen else forkOf own peer) with
      | none => refuse 8 c
      | some fork =>
        let src := if c.isMirror then peer else own
        if 64 < ahead mirGen fork || genAfter leadGen (unbroken src src.length fork) == some true then refuse 8 c
        else
          let c := if c.isMirror then fuDo (rejoin fork peer) c else c
          let c := if !c.isMirror && (mirGen != leadGen || c.fu.stale) then fuDo (fuCommit 5 0 0 0 [(4, 1)] 0 []) c else c
          let c := c.modFu fun u => { u with stale := false, acksDue := [] }
          let c := (setZowState 5 c).setF ZOW_STATUS_DIVERGED 1
          let c := c.modZow fun z => { z with
            leadWin := ((List.range 8).foldl (fun t i => sset (fun _ => (0 : Word)) t i (wins.getD i 0)) [])
            hbLast := c.now
            cleanFrames := 0
            ownSeals := []
            peerSeals := [] }
          zowEvt 3 c

/-! ### Link frames, heartbeats, the lease (R459, R468, R482) -/

/-- A DETACH of the twin (R423): it is STALE. -/
def markStale (c : Chip) : Chip :=
  fuDo (fun c => fuEvent 3 11 0 [] 0 (c.modFu fun u => { u with stale := true, acksDue := [] })) c

/-- The Mirror has acknowledged generation `g`: a replay that it reaches with the Lead's own generation is complete; the twin is STALE no
longer, and meter 4 + 1 is committed (R59, R423). -/
def replayed (g : Nat) (c : Chip) : Chip :=
  if c.fu.role = 1 && c.fu.stale && g = c.fu.copyA.gen then
    fuDo (fuCommit 5 0 0 0 [(4, 1)] 0 []) (c.modFu fun u => { u with stale := false })
  else c

/-- What a good frame carries: acknowledgements and control items (R468). -/
def deliverFrame (f : LinkFrame) (c : Chip) : Chip :=
  let c := forAll f.acks (fun a c => c.modZow fun z => { z with
    captured := smod (fun _ => []) z.captured a.1 fun q => q.filter fun l => genAfter l.1 a.2 == some true
    snapsOut := if a.1 = 5 then z.snapsOut.filter (fun n => genAfter n a.2 == some true) else z.snapsOut }) c
  let c := match f.commitAck with
    | some g => replayed g (c.modFu fun u => { u with acksDue := u.acksDue.filter fun x => x != g && genAfter x g == some true })
    | none => c
  let c := if c.isLead && c.fu.role = 1 then fuDo (commitEvents f.events) c else c
  let c := if c.isMirror then c.modFu (fun u => { u with eventsOut := u.eventsOut.drop f.eventAcks }) else c
  let c := match f.win with
    | some (w, v) => if c.isMirror && w < 8 then c.modZow (fun z => { z with leadWin := sset (fun _ => 0) z.leadWin w v }) else c
    | none => c
  let c := match f.door with | some b => c.modZow (fun z => { z with peerDoor := b }) | none => c
  let c := if f.clearDiv && c.isMirror then c.setF ZOW_STATUS_DIVERGED 0 else c
  let c := if f.treset && c.isMirror then c.modZow (fun z => { z with treset := true }) else c
  if f.detach && c.isMirror then linkDown 0 (c.modFu fun u => { u with stale := true }) else c

/-- ZOW_FRAME_RECEIVE (R459): the frame expected, whole, is delivered; another is asked for again, a corrected error. -/
def execZowFrameReceive (f : LinkFrame) (s : State) : Out :=
  s.go fun c =>
    if !(c.zowUp && c.linkUp) then c
    else
      let c := c.modZow fun z => { z with framesOut := z.framesOut.dropWhile fun n => n != f.ack }
      if f.crcOk && f.seq % 4096 = c.zow.frameExpect then
        deliverFrame f (c.modZow fun z => { z with frameExpect := (z.frameExpect + 1) % 4096 })
      else c.journal 1 0 232 0 f.seq 0

/-- HEARTBEAT_SEND (R468). -/
def execHeartbeatSend (s : State) : Out :=
  s.go fun c => if c.zowUp && c.linkUp then (c.modZow fun z => { z with hbSent := c.now }).zowSend 1 else c

/-- HEARTBEAT_RECEIVE (R468): the partner's ELIGIBLE and GEN. -/
def execHeartbeatReceive (elig : Bool) (gen : Nat) (s : State) : Out :=
  s.go fun c =>
    if c.zowUp && c.linkUp then c.modZow fun z => { z with hbLast := c.now, peerEligible := elig, peerGen := gen } else c

/-- LEASE_RENEW (R482): a Lead whose assertion does not wait for a frame start drives TWIN_LEAD. -/
def execLeaseRenew (s : State) : Out :=
  s.go fun c =>
    if c.zowUp && c.isLead && !c.zow.leadWait then c.modZow fun z => { z with leaseOn := true, leaseAt := c.now } else c

/-- LEASE_EXPIRE (R482): the lease timer in AON-M releases TWIN_LEAD. -/
def execLeaseExpire (s : State) : Out := s.go fun c => c.modZow fun z => { z with leaseOn := false }

/-- MIRROR_KEEPALIVE (R484). -/
def execMirrorKeepalive (s : State) : Out := s.go fun c => if c.zowUp && c.paired then c.zowSend 3 else c

/-! ### Takeover (R485 to R487) -/

/-- The new Lead applies what it holds, commits the remaining shadow counts (R425, R487), journals the output pulses that the failure
interrupted (R444), and issues its unacknowledged events again (R58). -/
def takeShadows (c : Chip) : Chip :=
  issueEvents (interruptPulses
    (commitShadows (applyHeld c.fu.heldCommits.length c |>.modFu fun u => { u with heldCommits := [], role := 1 })))

/-- TAKEOVER (R485 to R487): `missed` tells that no heartbeat has come for HB_MISS periods, `held` that TWIN_PEER has read
released for PEER_HOLD. -/
def execTakeover (missed held : Bool) (s : State) : Out :=
  s.go fun c =>
    if !(c.zowUp && c.isMirror && (missed || !c.linkUp) && within 0 7 c.zowState) then c
    else if !held || c.fnLevel .twinPeer then
      (if c.zowState = 6 then c else zowEvt 14 (linkDown 6 c))
    else if c.fu.stale || (c.fb ZOW_STATUS_DIVERGED && c.xf ZOW_XLINK_STRICT 0 = 1) then zowEvt 15 c
    else
      let c := fuDo takeShadows (linkDown 0 c)
      let c := c.setF ZOW_STATUS_ROLE 1
      let c := c.modZow fun z => { z with leadWait := true, sent := z.applied, captured := [] }
      zowEvt 5 c

/-! ### Frame following and seals (R477, R478) -/

/-- FOLLOW_RECEIVE (R477). -/
def execFollowReceive (o : Fin 4) (f : Follow) (s : State) : Out :=
  s.go fun c => if c.zowUp && c.paired && c.isMirror then c.modZow (fun z => { z with follow := sset (fun _ => none) z.follow o (some f) }) else c

/-- Step 4 and 5 of a handover on the new Lead (R488): the roles change at its followed frame start. -/
def takeOverHand (c : Chip) : Chip :=
  let c := issueEvents (commitShadows (c.modFu fun u => { u with role := 1 }))
  let c := c.setF ZOW_STATUS_ROLE 1
  zowEvt 6 (c.modZow fun z => { z with leaseOn := true, leaseAt := c.now, leadWait := false, audioHeld := false })

/-- FOLLOW_FRAME_START (R477): the frame that the follow message announced begins. -/
def execFollowFrameStart (o : Fin 4) (s : State) : Out :=
  s.go fun c =>
    match sget (fun _ => none) c.zow.follow o with
    | none => c
    | some f =>
      if !(c.zowUp && c.follows o && c.beamRuns o) then c
      else
        let ready := c.fb (OUT_SCENE_READY o)
        let c := c.modZow fun z => { z with follow := sset (fun _ => none) z.follow o none }
        let c := if f.latched && !ready then (zowEvt 8 c).setF ZOW_STATUS_DIVERGED 1 else c
        let c := frameStart o (f.latched && ready) false false (some (Word.of f.frame)) c
        if f.handover then fuDo takeOverHand c else c

/-- SEAL_RECEIVE (R478). -/
def execSealReceive (o : Fin 4) (frame crc : BitVec 32) (s : State) : Out :=
  s.go fun c =>
    if !(c.zowUp && c.paired && c.fb ZOW_CTL_SEAL_EN) then c
    else
      let c := c.modZow fun z => { z with peerSeals := smod (fun _ => []) z.peerSeals o fun l => ((frame.toNat, crc.toNat) :: l).take 16 }
      match (sget (fun _ => []) c.zow.ownSeals o).find? fun p => p.1 == frame.toNat with
      | some p => compareSeal o frame.toNat p.2 crc.toNat c
      | none => c

/-! ### Snapshots, windows, bulk copies (R470 to R476) -/

/-- Store bytes where the masters of ZOW may write: a memory that answers, and takes the write (R185). -/
def zowStore (pa : Nat) (b : List Byte) (c : Chip) : Chip :=
  let r := mainRegion c.dramTop pa
  if memRegion r && c.answers pa && !c.deadDram r pa then c.storeChunks r b.length pa b else c

/-- A snapshot is written into its ring entry (R471), its poisoned words as poison (R50). -/
def writeSnapshot (x : Snap) (c : Chip) : Chip :=
  let k := c.f ZOW_SNAP_RING_LOG2N
  let n := if k < 2 then 2 else if 8 < k then 8 else k
  let a := c.f ZOW_SNAP_RING_BASE * 65536 + x.seq % 2 ^ n * 4096
  let head := leBytes 4 x.seq ++ leBytes 4 x.payload.length ++ leBytes 8 x.postmark ++ x.marks.flatMap (leBytes 4) ++ List.replicate 28 0
  let c := zowStore (a + 64) x.payload (zowStore a head c)
  let c := forAll x.bad (fun i c =>
    let r := mainRegion c.dramTop (a + 64 + 4 * i)
    if memRegion r && c.answers (a + 64 + 4 * i) then c.markPoison r (a + 64 + 4 * i) else c) c
  zowEvt 10 (c.setReg ZOW_SNAP_SEQ (Word.of x.seq))

/-- The marks of a snapshot: the last items issued on streams 6 to 10. -/
def Chip.marks (c : Chip) : List Nat := (List.range 5).map fun i => sget (fun _ => 0) c.zow.sent (6 + i)

/-- A write of ZOW_SNAP_POST (R470, R473).  A source that does not answer ends ZOW's read in a bus error (R18), and no snapshot is posted
(log entry 93). -/
def writeSnapPost (v : Word) (c : Chip) : Chip :=
  let c := c.setF ZOW_SNAP_POST_LEN (v.bits 11 0)
  if !v.bit 31 || c.isMirror then c
  else
    let n := v.bits 11 0
    if n = 0 || 4032 < n then zowEvt 16 c
    else if !(memRegion (mainRegion c.dramTop (c.f ZOW_SNAP_SRC_ADDR * 256)) && c.answers (c.f ZOW_SNAP_SRC_ADDR * 256)
        && memRegion (mainRegion c.dramTop (c.f ZOW_SNAP_SRC_ADDR * 256 + n - 1))) then (c.answerTo 232 .busError) |> zowEvt 16
    else
      let pa := c.f ZOW_SNAP_SRC_ADDR * 256
      let ((b, _), c) := rdMem n pa c
      let r := mainRegion c.dramTop pa
      let bad := (List.range ((n + 3) / 4)).filter fun i => c.wordPoison r (pa + 4 * i) || c.deadDram r (pa + 4 * i)
      let seq := (c.zow.snapSeq + 1) % 2 ^ 32
      let c := c.modZow fun z => { z with snapSeq := seq }
      let c := writeSnapshot ⟨seq, c.stamp 232, c.marks, b, bad⟩ c
      if !(c.paired && c.isLead) then c
      else if Nat.ble 64 c.zow.snapsOut.length then (zowEvt 11 c).setF ZOW_STATUS_DIVERGED 1
      else (c.modZow fun z => { z with snapsOut := z.snapsOut ++ [seq] }).zowSend 5

/-- SNAPSHOT_POST (R470). -/
def execSnapshotPost (len : Fin 4096) (s : State) : Out :=
  s.go fun c => if c.zowUp then writeSnapPost (Word.of (len + 2 ^ 31)) c else c

/-- The held snapshots whose marks have been applied are written, in order (R472). -/
def releaseSnaps : Nat → Chip → Chip
  | 0, c => c
  | n + 1, c =>
    match c.zow.snapsHeld with
    | x :: t =>
      if (List.range 5).all fun i => genAfter (x.marks.getD i 0) (sget (fun _ => 0) c.zow.applied (6 + i)) != some true then
        releaseSnaps n (writeSnapshot x (c.modZow fun z => { z with snapsHeld := t, snapSeq := x.seq }))
      else c
    | [] => c

/-- SNAPSHOT_RECEIVE (R472): one that has been applied, or is held, is not applied again (R58). -/
def execSnapshotReceive (x : Snap) (s : State) : Out :=
  s.go fun c =>
    if !(c.zowUp && c.paired && c.isMirror) || genAfter x.seq c.zow.snapSeq != some true || c.zow.snapsHeld.any (fun y => y.seq == x.seq) then c
    else
      let c := c.modZow fun z => { z with snapsHeld := z.snapsHeld ++ [x] }
      releaseSnaps c.zow.snapsHeld.length c

/-- A replication line is written at its address (R474); a poisoned word that it writes arrives as poison (R50). -/
def applyLine (l : CapLine) (c : Chip) : Chip :=
  let c := if l.mask = 2 ^ 64 - 1 then zowStore l.pa l.data c
    else forAll (List.range 64) (fun i c => if l.mask.testBit i then zowStore (l.pa + i) ((l.data.drop i).take 1) c else c) c
  let r := mainRegion c.dramTop l.pa
  forAll l.bad (fun i c =>
    if l.mask / 2 ^ (8 * i) % 256 != 0 && memRegion r && c.answers l.pa then c.markPoison r (l.pa + 8 * i) else c) c

/-- The held lines of a stream are applied in sequence order (R469). -/
def applyLines (st : Nat) : Nat → Chip → Chip
  | 0, c => c
  | n + 1, c =>
    let next := (sget (fun _ => 0) c.zow.applied st + 1) % 2 ^ 32
    match (sget (fun _ => []) c.zow.heldLines st).find? fun p => p.1 == next with
    | some (k, l) =>
      let c := applyLine l (c.modZow fun z => { z with
        applied := sset (fun _ => 0) z.applied st k
        heldLines := smod (fun _ => []) z.heldLines st fun q => q.filter fun p => p.1 != k })
      applyLines st n c
    | none => c

/-- REPLICATION_APPLY (R474, R469): a line of stream 6 to 10 arrives with its sequence number. -/
def execReplicationApply (stream : Fin 5) (seq : Nat) (l : CapLine) (s : State) : Out :=
  s.go fun c =>
    let st := 6 + stream.val
    if !(c.zowUp && c.paired && c.isMirror) || genAfter seq (sget (fun _ => 0) c.zow.applied st) != some true
        || (sget (fun _ => []) c.zow.heldLines st).any (fun p => p.1 == seq) then c
    else
      let c := c.modZow fun z => { z with heldLines := smod (fun _ => []) z.heldLines st fun q => q ++ [(seq, l)] }
      let c := applyLines st (sget (fun _ => []) c.zow.heldLines st).length c
      releaseSnaps c.zow.snapsHeld.length c

/-! ### Commands of ZOW_CMD (R476, R480, R488, R489, R491) -/

/-- A command that is not met is ignored (ZOW_CMD). -/
def zowCmd (ok : Bool) (f : Chip → Chip) (c : Chip) : Chip := if c.isLead && ok then f c else zowEvt 16 c

/-- BULK_GO (R476): the lines go out on stream 10, where each is kept until it is acknowledged (R468). -/
def bulkGo (c : Chip) : Chip :=
  zowCmd c.paired (fun c =>
    let n := c.f ZOW_BULK_LEN_LEN
    let pa := c.f ZOW_BULK_ADDR_ADDR * 64
    if n = 0 then zowEvt 13 c
    else forAll (List.range n) (fun i c => c.capture 10 (c.line64 (pa + 64 * i) (2 ^ 64 - 1)))
      (c.modZow fun z => { z with bulkLeft := some n })) c
def execBulkGo (s : State) : Out := s.go fun c => if c.zowUp then bulkGo c else c

/-- BULK_DONE (R476): the Mirror has acknowledged the last line. -/
def execBulkDone (s : State) : Out :=
  s.go fun c => if c.zowUp && c.paired && c.zow.bulkLeft.isSome then zowEvt 13 (c.modZow fun z => { z with
    bulkLeft := none
    captured := sset (fun _ => []) z.captured 10 [] }) else c

/-- HANDOVER (R488): steps 1 to 3; step 4 follows at the frame start after the last acknowledgement. -/
def handover (c : Chip) : Chip :=
  zowCmd (c.paired && c.zow.peerEligible) (fun c =>
    let c := c.modFu fun u => { u with holdRequests := true }
    let c := fuDo (commitPulses (List.range 8) 0 []) c
    (c.modZow fun z => { z with handover := some 3 }).zowSend 0) c
def execHandover (s : State) : Out := s.go fun c => if c.zowUp then handover c else c

/-- DETACH (R423, R468). -/
def detach (c : Chip) : Chip := zowCmd c.linkUp (fun c => linkDown 0 (markStale (c.zowSend 0))) c
def execDetach (s : State) : Out := s.go fun c => if c.zowUp then detach c else c

/-- TRESET (R489): the request goes out on the control stream. -/
def treset (c : Chip) : Chip := zowCmd c.paired (fun c => c.zowSend 0) c
def execTreset (s : State) : Out := s.go fun c => if c.zowUp then treset c else c

/-- The twins of a seed replay next; one that comes in SYNC lets SYNC end first. -/
def seedState (c : Chip) : Chip := if c.zowState = 3 then c else setZowState 4 c

/-- SEED (R491) on the Lead: the twins replay from the snapshot of its meters, which a link that carries frames takes over. -/
def seedLead (c : Chip) : Chip := zowCmd (within 3 6 c.zowState && c.zow.peerDoor) (fun c => seedState (c.zowSend 0)) c

/-- The Mirror adopts the Lead's meter copy as its base; its own history goes to the archive. -/
def seedMirror (gen : Nat) (vals : List (Nat × Nat)) (c : Chip) : Chip :=
  let base : MeterCopy := ⟨true, gen, vals.foldl (fun t p => sset z0 t p.1 p.2) []⟩
  let old := c.fu.journal.take c.fu.unarchived ++ c.fu.archive
  seedState (c.modFu fun u => { u with
    copyA := base, copyB := base, archive := old, archiveBase := base, archiveOld := old.length, journal := [], unarchived := 0,
    heldCommits := [] })

/-- SEED (R491): on the Lead the command; on the Mirror, with its logic door open, the arrival of the Lead's meters at GEN
`gen`. -/
def execSeed (copy : Option (Nat × List (Nat × Nat))) (s : State) : Out :=
  s.go fun c =>
    if !c.zowUp then c
    else match copy with
      | none => seedLead c
      | some (g, v) => if within 3 6 c.zowState && c.isMirror && c.logicDoor then seedMirror g v c else c

/-- CLEAR_DIV (R480). -/
def clearDiv (c : Chip) : Chip := zowCmd true (fun c => (c.setF ZOW_STATUS_DIVERGED 0).zowSend 0) c
def execClearDiv (s : State) : Out := s.go fun c => if c.zowUp then clearDiv c else c

/-- A write of ZOW_CMD: its bits in ascending order. -/
def writeZowCmd (v : Word) (c : Chip) : Chip :=
  let c := if v.bit 0 then handover c else c
  let c := if v.bit 1 then detach c else c
  let c := if v.bit 2 then treset c else c
  let c := if v.bit 3 then seedLead c else c
  let c := if v.bit 4 then bulkGo c else c
  if v.bit 5 then clearDiv c else c

/-- The link engine after a reset of ZOW: the link is DOWN; the lease timer and TWIN_PEER go on (R482, R485).  A device alone is no
Mirror and drives its audio pins (R481). -/
def zowUnitReset (c : Chip) : Chip :=
  let c := linkDown 0 c
  c.modZow fun z => { zowReset with leaseOn := z.leaseOn, leaseAt := z.leaseAt, peerReleased := z.peerReleased, snapSeq := z.snapSeq }

end Sys2Proof.Machine
end

