-- ==== Sys2Proof/Machine/Units.lean ====
section
/-! DEFINITION. What a reset does to the state that no register holds: of every unit at a main-side reset (R545, R555), and of
one unit at a U reset (R547, R60). -/

namespace Sys2Proof.Machine

/-- The host interfaces after a reset; MSI-X vector 0 is masked (log entry 16) and the Courier operating point stands. -/
def hostsReset (c : Chip) : Hosts := 
  { c.hosts with msixMask := true, msixPend := false, msixSent := 0, qRx := [], qTx := [], sample := [], peak := [], storVsel := false }

/-- Every unit of the main side at a reset of class `cls` before the registers take their reset values: banks with RSTHOLD
freeze (R539, R541), and a P or M ends the debug session (R606). -/
def unitsBefore (cls : Nat) (c : Chip) : Chip :=
  if cls ≤ 1 then endSession c else forAll (List.range 6) freezeBank c

/-- Every unit of the main side after its registers took their reset values. -/
def unitsAfter (cls : Nat) (c : Chip) : Chip :=
  let c := zowUnitReset (slotsReset (pinsReset (decide (cls ≤ 1)) c))
  let c := { c with
    icu := ⟨[], [], [], [], []⟩
    tmr := ⟨[], [], [], []⟩
    wdt := ⟨[], [], []⟩
    disp := ⟨[], [], [], [], [], [], if cls ≤ 1 then [] else c.disp.coef, []⟩
    press := pressReset
    dma := []
    aud := audioReset
    hosts := hostsReset c }
  c.modFu fun u => { u with sel := [] }

/-- A core stops and its SYS_RUN bit clears (R547); the service of sources active there ends (R507),
and so does the boot ROM's program on Courier 0. -/
def stopCore (k : Nat) (c : Chip) : Chip :=
  let c := if k < 32 then c.setRegBit SYS_RUN_LO k false else c.setRegBit SYS_RUN_HI (k - 32) false
  let c := if k = 0 then { c with power := { c.power with boot := none } } else c
  icuCoreReset k (c.setCore k (Core.reset k))

/-- The core that lies in a power domain (R556). -/
def domainCore (d : Nat) : Option Nat :=
  if within 2 10 d then some (d - 2) else if within 18 66 d then some (8 + (d - 18)) else if within 66 72 d then some (56 + (d - 66))
  else none

/-- The register block that power domain `d` holds whole (R556). -/
def domainBlocks (d : Nat) : List Nat :=
  if within 72 76 d then [0x0C + (d - 72)]
  else match d with
  | 90 => [0x10, 0x11] | 91 => [0x07] | 92 => [0x08] | 97 => [0x12] | 98 => [0x13] | 99 => [0x14] | 100 => [0x15]
  | _ => []

/-- A sorter's composer at its U reset (R278, R60): the held unit is abandoned, x0 to x15 are 0. -/
def composerReset (s : Nat) (c : Chip) : Chip :=
  (abandonUnit s c).modComp s fun x => { x with x := [], held := none }

/-- The block transfer and the Quad-SPI command that a U reset of STOR abandons are reported as failed (R60, R597). -/
def storReset (c : Chip) : Chip :=
  let busy := c.fb STOR_STATUS_BUSY
  let c := if busy then (c.flag STOR_EVT_ERR).journal 0 12 225 4 (c.reg STOR_BLK_LBA).toNat 0 else c
  let c := if c.fb STOR_QCMD_GO then c.journal 0 12 225 4 (c.reg STOR_QADDR).toNat busy.toNat else c
  { c with hosts := { c.hosts with qRx := [], qTx := [] } }

/-- What register block `b` does at its U reset besides its registers (R60). -/
def blockReset (b : Nat) (c : Chip) : Chip :=
  let c :=
    if within 0x0C 0x10 b then outUnitReset (b - 0x0C) c
    else match b with
    | 0x02 => icuUnitReset c
    | 0x03 => timersReset c
    | 0x05 => gpioUnitReset c
    | 0x06 => pmuxUnitReset c
    | 0x07 => dmaUnitReset c
    | 0x08 => pressUnitReset c
    | 0x12 => { pcieDown c with hosts := { c.hosts with msixMask := true, msixPend := false } }
    | 0x10 => forAll (List.range 3) (fun d c => c.modDom d fun x => { x with swap := none }) c
    | 0x13 => storReset c
    | 0x15 => zowUnitReset c
    | 0x19 => { c with hosts := { c.hosts with sample := [], peak := [] } }
    | _ => c
  c.resetBlock 64 b

/-- The origins of the units that a U reset of unit `u` starts afresh (R50). -/
def unitOrigins (u : Nat) : List Nat :=
  let blocks := if Nat.ble 0x100 u then [u - 0x100] else domainBlocks u
  (match domainCore u with | some k => [k] | none => []) ++
    blocks.flatMap fun b =>
      if within 0x0C 0x10 b then [97 + (b - 0x0C), 104 + (b - 0x0C)]
      else match b with
      | 0x07 => 101 :: (List.range 32).map (64 + ·)
      | 0x08 => [96] | 0x10 => [112, 113, 114] | 0x11 => [115] | 0x15 => [232]
      | _ => []

/-- UNIT names a unit that SYS_URST can reset (R547). -/
def urstValid (u : Nat) : Bool := within 0x002 0x070 u || within 0x101 0x11A u

/-- A U reset of unit `u` begins (R547, R60): the dirty lines of a Courier or of an L2 slice are written back, its work stops, its state
takes its reset values, it no longer counts as failed, and it is busy until UNIT_RESET_DONE. -/
def unitReset (u : Nat) (c : Chip) : Chip :=
  let c := if within 2 10 u then c.writeBackAll else if within 10 18 u then c.writeBackSlice (u - 10) else c
  let c := match domainCore u with | some k => stopCore k c | none => c
  let c := if within 18 66 u then composerReset (u - 18) c else if within 66 72 u then hornReset (u - 66) c else c
  let c := if Nat.ble 0x100 u then blockReset (u - 0x100) c else forAll (domainBlocks u) blockReset c
  { c with power := { c.power with
    failed := c.power.failed.filter (fun o => !(unitOrigins u).contains o)
    urst := if c.power.urst.contains u then c.power.urst else c.power.urst ++ [u] } }

end Sys2Proof.Machine
end

