-- ==== Sys2Proof/Machine/Watchdog.lean ====
section
/-! DEFINITION. The watchdogs' counts (R521, R523, R524): loads, the warning, and when a count stops. -/

namespace Sys2Proof.Machine

/-- WARN in force (R526). -/
def Chip.wdtWarn (c : Chip) (w : Nat) : Nat := c.xf (WDT_XWARN_US w) (c.f (WDT_TIMEOUT_US w) / 8)

/-- The grace time in force (R526); 0 acts as 1. -/
def Chip.wdtGrace (c : Chip) : Nat := max 1 (c.xf WDT_XGRACE_US 1000)

/-- The servicing core in force: 0 to 61 or 63; other values act as 0. -/
def Chip.wdtSvc (c : Chip) (w : Nat) : Nat := if c.f (WDT_CTL_SVC w) = 62 then 0 else c.f (WDT_CTL_SVC w)

/-- WARNF is set once a count, at the first moment REMAIN stands at or below WARN (R523). -/
def wdtCheckWarn (w : Nat) (c : Chip) : Chip :=
  if !sget off c.wdt.warned w && Nat.ble (c.f (WDT_REMAIN_US w)) (c.wdtWarn w) then
    ({ c with wdt := { c.wdt with warned := sset off c.wdt.warned w true } }).flag (WDT_CTL_WARNF w)
  else c

/-- WARNF of a running count after a change of WARN (R523). -/
def wdtRecheck (w : Nat) (c : Chip) : Chip := if c.fb (WDT_CTL_EN w) then wdtCheckWarn w c else c

/-- REMAIN is loaded and a new count begins (R521); a TIMEOUT of 0 acts as 1. -/
def wdtLoad (w : Nat) (c : Chip) : Chip :=
  let c := c.setReg (WDT_REMAIN w) (Word.of (max 1 (c.f (WDT_TIMEOUT_US w))))
  wdtCheckWarn w { c with wdt := { c.wdt with warned := sset off c.wdt.warned w false } }

/-- The count of watchdog `w` stands still (R524): FREEZE with SVC halted by debug, SLEEPSTOP with SVC waiting or in Nap. -/
def Chip.wdtHeld (c : Chip) (w : Nat) : Bool :=
  let x := c.core (c.wdtSvc w)
  (c.fb (WDT_CTL_FREEZE w) && x.dbg.halted) || (c.fb (WDT_CTL_SLEEPSTOP w) && (x.waiting || c.power.state = .nap))

/-- The boot ROM's start of watchdog 0 at 2 s (R569 step 1). -/
def startWatchdog0 (c : Chip) : Chip :=
  let c := c.setReg (WDT_TIMEOUT 0) 2000000
  wdtLoad 0 (c.setF (WDT_CTL_EN 0) 1)

end Sys2Proof.Machine
end

