-- ==== Sys2Proof/Machine/Power.lean ====
section
/-! DEFINITION. Reset, power and fuses (chapter 14): the reset sequence and how causes merge (R543 to R547), power states
(R548 to R555), power domains (R556, R557), profiles (R558, R559), and the fuses (R565, R567). -/

namespace Sys2Proof.Machine

/-! ### Reset sequences (R543 to R546) -/

/-- Rank of a main-side class: P, M, H, W, T, S from highest to lowest (R544). -/
def classRank (cls : Nat) : Nat := match cls with | 0 => 5 | 1 => 4 | 2 => 3 | 3 => 2 | 5 => 1 | _ => 0

/-- SYS_RSTCAUSE.ACCUM records a class seen (R544). -/
def Chip.accum (c : Chip) (cls : Nat) : Chip := c.setRegBit SYS_RSTCAUSE (8 + cls) true

/-- The main-side memories lose their data (R160, R167): the on-chip arrays and DRAM, with what the caches held of it. -/
def Chip.wipeMain (c : Chip) : Chip := c.wipe 0 0x1D00000000

/-- The on-chip arrays alone lose their data. -/
def Chip.wipeArrays (c : Chip) : Chip := c.wipe 0x1000000000 0x1D00000000

/-- The profile in force after a sequence (R558, R559): a pending PROFILE_SET applies at any class; an M otherwise samples
PROFILE_SEL unless a sticky profile is in force. -/
def Chip.applyProfile (c : Chip) (cls : Nat) : Chip :=
  if c.fb SYS_PROFILE_PEND then
    let c := c.setF SYS_PROFILE_CUR (c.f SYS_PROFILE_NEXT)
    let c := (c.setF SYS_PROFILE_SRC 1).setF SYS_PROFILE_PEND 0
    { c with power := { c.power with stickyInForce := c.fb SYS_PROFILE_STICKY } }
  else if cls = 1 && !c.power.stickyInForce then
    (c.setF SYS_PROFILE_CUR (c.f SYS_PROFILE_PINS)).setF SYS_PROFILE_SRC 0
  else c

/-- DRAM at a reset of class H, W, S or T (R545 step 5, R182 to R184), given DRAMC_STATUS, DRAMC_TOP and whether a training was in
progress before it: a change of the channels in use loses the data, sets CFG_CHG and trains afresh; a training that the reset
interrupted starts again, what CFG_CHG said of it standing; otherwise the training stands. -/
def Chip.dramAfterReset (c : Chip) (before : Word) (top : Nat) (training : Bool) : Chip :=
  let was := if before.bit 4 then [before.bits 6 5] else []
  let now := c.channelsOut []
  if !c.fb DRAMC_CONFIG_ENABLE then c
  else if training then (c.setF DRAMC_STATUS_CFG_CHG (before.bits 11 11)).startTraining none
  else if now = was then
    let c := (c.setF DRAMC_STATUS_TRAINED (before.bits 3 0)).setF DRAMC_STATUS_DEGRADED (before.bits 4 4)
    (c.setF DRAMC_STATUS_DEG_CH (before.bits 6 5)).setF DRAMC_TOP_SIZE4K top
  else
    let c := (c.wipeDram).setF DRAMC_STATUS_CFG_CHG 1
    c.startTraining none

/-- The main-side domain of an island takes part in a main-side reset of class `cls` (R19, R557): after P and M every one comes on, after
the others those that were off or isolated. -/
def Chip.comesOn (c : Chip) (cls d : Nat) : Bool := Nat.blt d 112 && (decide (cls ≤ 1) || !c.domainUp d)

/-- Steps 1 to 5 of a main-side reset of class `cls` (R545, R546, R555): registers, cores 0 to 61, caches, memories, power
domains, the profile in force, DRAM, SYS_RSTCAUSE and the Daybook's entry.  The candidate pages of R186 go with the list that the
manual speaks of: kept at H, W, S and T, cleared at P and M (log entry 158). -/
def doReset (cls source : Nat) (c : Chip) : Chip :=
  let mask := 2 ^ cls
  let c := unitsBefore cls c
  let dram := c.reg DRAMC_STATUS
  let top := c.f DRAMC_TOP_SIZE4K
  let cold := decide (cls ≤ 1)
  let training := c.memc.training.isSome
  let c := if cold then c else c.loseCaches
  let c := c.loadReplicas (c.comesOn cls)
  let c := { c with
    regs := resetRegs mask (fun k => Nat.blt k 0x1A000) c.regs
    cores := c.cores.filter fun p => Nat.ble 62 p.1
    memc := { c.memc with
      waiting := []
      grant := []
      training := none
      openRow := []
      dlt := (if cold then [] else c.memc.dlt)
      cand := (if cold then [] else c.memc.cand)
      retired := (if cold then [] else c.memc.retired)
      failedCh := (if cold then [] else c.memc.failedCh)
      scrubPos := 0
      dscrubPos := 0 }
    power := { c.power with
      state := .run
      domain := []
      urst := []
      failed := []
      napLatch := []
      wakeLatched := false
      retained := none
      boot := none
      fuseOp := none } }
  let c := if cold then c.wipeMain.setF DRAMC_STATUS_CFG_CHG 1
    else (c.setF DRAMC_STATUS_CFG_CHG 0).dramAfterReset dram top training
  let c := unitsAfter cls c
  let c := c.applyProfile cls
  let c := if cls = 4 then c.modFu fun u => { u with profile := c.f SYS_PROFILE_CUR } else c
  let c := (c.setF SYS_RSTCAUSE_CLASS cls).setF SYS_RSTCAUSE_SOURCE source
  let c := c.accum cls
  let c := { c with dayb := { c.dayb with frozen := false } }
  c.journal 0 1 251 0 0 (c.reg SYS_RSTCAUSE).toNat

/-- Step 6 (R545, R569 step 1): Courier 0 enters the boot ROM, which reports RESULT 1, counts the try and starts watchdog 0
at 2 s, and goes on from step 2 in the idle steps that follow; BOOTHALT halts it first after H, W, S and T. -/
def bootStart (cls : Nat) (c : Chip) : Chip :=
  let c := c.setF SYS_BOOT_RESULT 1
  let c := c.setF SYS_BOOT_TRIES (min 3 (c.f SYS_BOOT_TRIES + 1))
  let c := startWatchdog0 c
  let c := { c with power := { c.power with boot := some { bootReset with fill := decide (cls ≤ 1) } } }
  if Nat.ble 2 cls && c.fb DBG_CTL_BOOTHALT then haltCore 0 8 0 c else c

/-- Causes that have not ended: nRESET low, or HOLD (R543, R592). -/
def Chip.causeHeld (c : Chip) : Bool := c.power.nresetLow || c.power.pmHold

/-- A main-side reset cause is accepted (R544): a new sequence; or, while one waits for its cause to end, a restart with
the higher class, or only a bit of ACCUM where it ranks below. -/
def causeReset (cls source : Nat) (c : Chip) : Chip :=
  match c.power.seq with
  | none =>
    let c := doReset cls source c
    if c.causeHeld then { c with power := { c.power with seq := some ⟨cls, source⟩ } } else bootStart cls c
  | some q =>
    if Nat.ble (classRank q.cls) (classRank cls) then
      let c := doReset cls source c
      { c with power := { c.power with seq := some ⟨cls, source⟩ } }
    else c.accum cls

/-- The cause of a waiting sequence has ended: it goes on to step 6 (R545 step 4). -/
def releaseReset (c : Chip) : Chip :=
  match c.power.seq with
  | some q => if c.causeHeld then c else bootStart q.cls { c with power := { c.power with seq := none } }
  | none => c

/-- The main side has power: rails up, whatever it does. -/
def Chip.mainPowered (c : Chip) : Bool :=
  match c.power.state with | .run | .nap | .fatal => true | _ => false

/-- NRESET_ASSERT (R543): an accepted low of nRESET, an H with SOURCE 2; the main side stays in reset while it is low. -/
def execNresetAssert (s : State) : Out :=
  s.go fun c =>
    let c := { c with power := { c.power with nresetLow := true } }
    if c.mainPowered then causeReset 2 2 c else c

/-- NRESET_DEASSERT (R545). -/
def execNresetDeassert (s : State) : Out :=
  s.go fun c => releaseReset { c with power := { c.power with nresetLow := false } }

/-- A write of SYS_RESET (R543): the key causes an S with SOURCE 4, any other value sets KEY_ERR. -/
def writeSysReset (v : Word) (c : Chip) : Chip :=
  if v = 0x00005AFE then causeReset 4 4 c else c.flag SYS_EVT_KEY_ERR

/-- T_RESET (R489): a Mirror of which the Lead has requested a T reset performs it while ZOW_CTL.T_ACCEPT is 1; a T with
SOURCE 7, which ends the link. -/
def execTReset (s : State) : Out :=
  s.go fun c => if c.mainRuns && c.zow.treset && c.fb ZOW_CTL_T_ACCEPT then causeReset 5 7 c else c

/-! ### Unit resets (R547) -/

/-- A write of SYS_URST (R547). -/
def writeSysUrst (v : Word) (c : Chip) : Chip :=
  let u := v.bits 8 0
  if urstValid u then unitReset u c else c.flag SYS_EVT_URST_ERR

/-- UNIT_RESET_DONE (R547): the 16 cycles are over and waiting accesses proceed. -/
def execUnitResetDone (u : BitVec 9) (s : State) : Out :=
  s.go fun c => { c with power := { c.power with urst := c.power.urst.filter (· != u.toNat) } }

/-! ### Releasing cores (R546) -/

/-- Core `k` can be released: its domain is on, released and ready. -/
def releasable (k : Nat) (c : Chip) : Bool := c.domainUp (coreDomain k)

/-- Core `k` as it starts at its release (R546): csr_ubase 0x10 on sorters and horns, written after the reset values. -/
def Core.started (k : Nat) : Core :=
  if within 8 62 k then { Core.reset k with ubase := 0x10, useUbase := 0x10 } else Core.reset k

/-- Release the cores `base`, `base` + 1, … whose bits are set in `v` (R546): a core newly released starts with its start
values; one whose domain is not ready releases nothing and sets PD_ERR. -/
def releaseCores (key base n : Nat) (v : Word) (c : Chip) : Chip :=
  forAll (List.range n) (fun i c =>
    if !v.bit i || c.regBit key i then c
    else if releasable (base + i) c then (c.setRegBit key i true).setCore (base + i) (Core.started (base + i))
    else c.flag SYS_EVT_PD_ERR) c

/-- A write of SYS_RUN_LO or SYS_RUN_HI. -/
def writeSysRun (hi : Bool) (v : Word) (c : Chip) : Chip :=
  if hi then releaseCores SYS_RUN_HI 32 30 v c else releaseCores SYS_RUN_LO 0 32 v c

/-! ### Power domains (R556, R557) -/

/-- The Press is idle; every audio domain is stopped; every audio port is off. -/
def Chip.pressIdle (c : Chip) : Bool := c.f PRESS_STATUS_STATE == 0
def Chip.audioStopped (c : Chip) : Bool := (List.range 3).all fun d => !(c.adom d).run
def Chip.audioPortsOff (c : Chip) : Bool :=
  ((List.range 4).all fun p => !c.fb (AIO_TDM_EN p)) && !c.fb AIO_SPDIF_EN && (List.range 4).all fun o => !c.fb (AIO_DP_EN o)

/-- The condition of R556 under which SYS_PD_CTL switches a domain. -/
def Chip.switchable (c : Chip) (d : Nat) : Bool :=
  if within 3 10 d then !c.regBit SYS_RUN_LO (d - 2)
  else if within 18 66 d then (if d - 18 < 32 then c.regBit COMP_RETIRE_LO (d - 18) else c.regBit COMP_RETIRE_HI (d - 50))
  else if within 66 72 d then (c.reg AUD_HMAP).bits (2 * (d - 66) + 1) (2 * (d - 66)) == 3
  else if within 72 76 d then !c.fb (OUT_CTL_RUNNING (d - 72))
  else if within 76 80 d then !c.fb (OUT_XBAR_EN (d - 76))
  else if d = 80 then c.f (OUT_CTL_KIND 3) != 2
  else if d = 90 then c.audioStopped && c.audioPortsOff
  else if d = 91 then c.reg DMA_ACTIVE == 0
  else if d = 92 then c.pressIdle
  else if within 93 97 d then
    (c.fb DRAMC_STATUS_DEGRADED && c.f DRAMC_STATUS_DEG_CH == d - 93) || (c.fb DRAMC_STATUS_CH_FAIL && c.f DRAMC_STATUS_FAIL_CH == d - 93)
  else if d = 97 then c.pcieIdle
  else if d = 98 then c.storIdle
  else if d = 99 then c.usbIdle
  else if d = 100 then c.f ZOW_STATUS_STATE == 0
  else if within 101 106 d then (c.reg ZOW_LANE).bit (16 + (d - 101))
  else false

/-- SYS_PD_CTL as it reads: the selected domain; selections 118 to 127 read 0. -/
def readPdCtl (c : Chip) : Word :=
  let d := c.f SYS_PD_SEL_DOMAIN
  if d < 118 then
    let x := sget domain0 c.power.domain d
    Word.of (x.pwr.toNat + 2 * x.iso.toNat + 4 * x.ok.toNat + 8 * (c.switchable d).toNat)
  else 0

/-- Domain `d` replaced. -/
def Chip.setDomain (c : Chip) (d : Nat) (x : Domain) : Chip :=
  { c with power := { c.power with domain := sset domain0 c.power.domain d x } }

/-- The arrays of domain `d` lose their data (R160, R167). -/
def Chip.wipeDomain (c : Chip) (d : Nat) : Chip :=
  if within 18 66 d then c.wipe (0x1020000000 + (d - 18) * 0x10000) (0x1020000000 + (d - 17) * 0x10000)
  else if within 66 72 d then c.wipe (0x1030000000 + (d - 66) * 0x40000) (0x1030000000 + (d - 65) * 0x40000)
  else if within 72 76 d then c.wipe (0x1018000000 + (d - 72) * 0x20000) (0x1018000000 + (d - 71) * 0x20000)
  else c

/-- The arrays and dead-letter entries of a domain that is switched off are lost (R160, R176). -/
def Chip.loseDomain (c : Chip) (d : Nat) : Chip :=
  let dropDlt (a : Nat) (c : Chip) : Chip :=
    { c with memc := { c.memc with dlt := swipe c.memc.dlt (a * 64) (a * 64 + 64) } }
  if within 2 10 d then dropDlt (0x10 + (d - 2)) (dropDlt (0x08 + (d - 2)) c.writeBackAll)
  else if within 18 66 d then dropDlt (0x50 + (d - 18)) (c.wipeDomain d)
  else if within 66 72 d then dropDlt (0x80 + (d - 66)) (c.wipeDomain d)
  else if within 72 76 d then dropDlt (0x40 + (d - 72)) (c.wipeDomain d)
  else c

/-- A domain comes on with its units held in U reset, and its registers hold their reset values, those that a U reset keeps
included, and its arrays hold no defined data (R557). -/
def domainOn (d : Nat) (c : Chip) : Chip := forAll (domainBlocks d) (fun b c => c.resetBlock 2 b) (unitReset d (c.wipeDomain d))

/-- One change of SYS_PD_CTL, judged against the present state (R557): `ok` is its own condition. -/
def pdChange (d : Nat) (ok : Bool) (f : Chip → Chip) (c : Chip) : Chip :=
  if ok && c.switchable d then f c else c.flag SYS_EVT_PD_ERR

/-- A write of SYS_PD_CTL (R556, R557): setting ISO, the change of PWR, clearing ISO, each judged in turn. -/
def writePdCtl (v : Word) (c : Chip) : Chip :=
  let d := c.f SYS_PD_SEL_DOMAIN
  if Nat.ble 118 d then c
  else if !c.switchable d then c.flag SYS_EVT_PD_ERR
  else
    let x := sget domain0 c.power.domain d
    let c := if v.bit 1 && !x.iso then pdChange d true (fun c => c.setDomain d { x with iso := true }) c else c
    let x := sget domain0 c.power.domain d
    let c :=
      if !v.bit 0 && x.pwr then pdChange d x.iso (fun c => (c.loseDomain d).setDomain d { x with pwr := false, ok := false }) c
      else if v.bit 0 && !x.pwr then pdChange d true (fun c => domainOn d (c.setDomain d { x with pwr := true })) c
      else c
    let x := sget domain0 c.power.domain d
    if !v.bit 1 && x.iso then pdChange d x.ok (fun c => (c.loadReplicas (· == d)).setDomain d { x with iso := false }) c else c

/-- PD_RAMP_DONE (R557): 20 µs after its PWR was set, a domain sets PWR_OK. -/
def execPdRampDone (d : Fin 118) (s : State) : Out :=
  s.go fun c =>
    let x := sget domain0 c.power.domain d
    if x.pwr then c.setDomain d { x with ok := true } else c

/-! ### Supplies (R543, R548, R553, R554, R627) -/

/-- MAIN_EN changes, with its Daybook entry (KIND 9, origin 63: the Postmaster's control of R554). -/
def Chip.setMainEn (c : Chip) (b : Bool) : Chip :=
  if c.power.mainEn = b then c
  else
    let c := { c with power := { c.power with mainEn := b } }
    c.journal 0 9 63 0 0 b.toNat

/-- The main side loses its rails: its memories and its work are gone; registers take their reset values at the M that
follows.  The debug session ends with it, and the Franking Unit runs on (R398, R606). -/
def Chip.mainOff (c : Chip) : Chip :=
  let c := endSession c
  let c := { c with
    cores := c.cores.filter (fun p => Nat.ble 62 p.1)
    power := { c.power with
      state := .off
      pgood := false
      seq := none
      domain := []
      urst := []
      failed := []
      boot := none
      retained := none } }
  unitsAfter 1 (c.wipeMain.loadReplicas (Nat.blt · 112))

/-- VSB_RISE (R543, R20, R30, R585): a P.  AON-M starts afresh: the count, POST, the Daybook with its epoch 0 entry, the
Postmaster, whose restart has an entry with a free cause; the main side awaits its rails. -/
def execVsbRise (s : State) : Out :=
  s.go fun c =>
    let c := { c with
      count := 0
      nowHi := []
      replicas := []
      dayb := ⟨[], none, 0, false⟩
      pm := pmReset
      dbgPort := ⟨1, 0, 0, none, none⟩
      power := { c.power with
        vsb := true
        mainEn := false
        pmHold := false
        mainEnHeld := false
        stickyInForce := false }
      cores := c.cores.filter fun p => p.1 == 62 }
    let c := epochEntry c
    let c := doReset 0 0 c
    let (cause, c) := c.freeBits 64
    (c.journal 0 7 63 0 0 cause).mainOff

/-- VSB_FALL (R543, R548): AON-M and the main side end; the device enters Keep while VSB_F is present, else Off.  The Franking
Unit has supplies of its own (R399). -/
def execVsbFall (s : State) : Out :=
  s.go fun c =>
    let c := c.mainOff
    { c with power := { c.power with
      vsb := false
      mainEn := false
      pgood := false
      state := if c.power.vsbF then .keep else .off } }

/-- MAIN_EN_AUTO_RISE (R554): 10 ms after P, unless the Postmaster holds it low. -/
def execMainEnAutoRise (s : State) : Out :=
  s.go fun c => if c.power.vsb && !c.power.mainEnHeld then c.setMainEn true else c

/-- PGOOD_RISE (R543, R558): with MAIN_EN high, an M that samples PROFILE_SEL. -/
def execPgoodRise (profileSel : BitVec 3) (s : State) : Out :=
  s.go fun c =>
    if c.power.vsb && c.power.mainEn && !c.power.pgood && c.power.state != .dormant then
      let c := { c with power := { c.power with pgood := true } }
      let c := c.setF SYS_PROFILE_PINS profileSel.toNat
      causeReset 1 1 c
    else c

/-- PGOOD_FALL (R627): PGOOD low for 1 µs or more while MAIN_EN is high isolates every main-side domain. -/
def execPgoodFall (s : State) : Out :=
  s.go fun c => if c.power.mainEn && c.power.pgood then (c.mainOff).journal 0 9 63 0 0 0 else c

/-! ### Nap and Dormant (R549 to R552) -/

/-- The unmet Nap conditions, as SYS_SLEEP.BLOCK shows them (R549). -/
def napBlock (c : Chip) : Nat :=
  let cores := (List.range 62).all fun k =>
    (c.core k).waiting || !(if k < 32 then c.regBit SYS_RUN_LO k else c.regBit SYS_RUN_HI (k - 32)) || !(sget domain0 c.power.domain (coreDomain k)).pwr
  let outs := (List.range 4).all fun o => !c.fb (OUT_CTL_RUNNING o)
  let pcie := !c.fb PCIE_STATUS_UP || c.fb PCIE_STATUS_L1
  (!cores).toNat + 2 * (!outs).toNat + 4 * (!c.audioStopped).toNat + 8 * (decide (c.reg DMA_ACTIVE ≠ 0)).toNat
    + 16 * (!c.pressIdle).toNat + 32 * (decide (c.f ZOW_STATUS_STATE ≠ 0)).toNat + 64 * (!pcie).toNat

/-- SYS_SLEEP as it reads. -/
def readSleep (c : Chip) : Word := (c.reg SYS_SLEEP).setBits 14 8 (napBlock c)

/-- NAP_ENTRY (R549): MODE 1 and every condition met. -/
def execNapEntry (s : State) : Out :=
  s.go fun c =>
    if c.mainRuns && c.f SYS_SLEEP_MODE = 1 && napBlock c = 0 then { c with power := { c.power with state := .nap } } else c

/-- NAP_WAKE (R550, R29, R509): clocks run again, replicas are reloaded, WAKE is set, and the events latched in Nap become
pending with the postmark of the restart. -/
def execNapWake (s : State) : Out :=
  s.go fun c =>
    if c.power.state = .nap && !c.power.napLatch.isEmpty then
      let c := { c.loadReplicas (Nat.blt · 112) with power := { c.power with state := .run } }
      wakeSources (c.flag SYS_EVT_WAKE)
    else c

/-- DORMANT_ENTRY (R551, R555): every dirty line is written back, register fields go to retention, every main-side domain is isolated, MAIN_EN falls; the cores
with their coprocessors and the on-chip arrays lose their state. -/
def execDormantEntry (s : State) : Out :=
  s.go fun c =>
    if c.mainRuns && c.f SYS_SLEEP_MODE = 2 && napBlock c = 0 then
      let c := (c.setMainEn false).writeBackAll
      { c.wipeArrays with
        cores := c.cores.filter (fun p => Nat.ble 62 p.1)
        memc := { c.memc with dlt := [], waiting := [], grant := [] }
        disp := { c.disp with sorters := [] }
        aud := { c.aud with horn := [] }
        power := { c.power with
          state := .dormant
          pgood := false
          boot := none
          retained := some c.regs } }
    else c

/-- The wake of Dormant (R552, R553): MAIN_EN rises, PGOOD follows, the retained fields return and Courier 0 enters the ROM
with DORMANT_WAKE set, where it fills the arrays and jumps to SYS_RESUME, every other core held in reset; SYS_PD_CTL is retained like
every register, so a domain that was off stays off; `dramKept` tells whether the board kept the memory supplies on. -/
def dormantWake (dramKept : Bool) (c : Chip) : Chip :=
  let c := (c.setMainEn true).loadReplicas (Nat.blt · 112)
  let c := { c with
    regs := (match c.power.retained with | some r => r | none => c.regs)
    power := { c.power with
      state := .run
      pgood := true
      retained := none
      boot := some { bootReset with phase := 9 }
      wakeLatched := false } }
  let c := (c.setReg SYS_RUN_LO 1).setReg SYS_RUN_HI 0
  let c := c.flag SYS_RSTCAUSE_DORMANT_WAKE
  if dramKept then c else c.wipeDram

/-- DORMANT_WAKE (R552): a wake event has been latched. -/
def execDormantWake (dramKept : Bool) (s : State) : Out :=
  s.go fun c => if c.power.state = .dormant && c.power.vsb && c.power.wakeLatched then dormantWake dramKept c else c

/-- PGOOD_TIMEOUT (R552): MAIN_EN rose for the wake and PGOOD has not followed within PGOOD_MAX; MAIN_EN falls again, the
Daybook records the failure, and the device stays Dormant until the next wake event. -/
def execPgoodTimeout (s : State) : Out :=
  s.go fun c =>
    if c.power.state = .dormant && c.power.wakeLatched then
      let c := c.setMainEn true
      let c := { c with power := { c.power with mainEn := false, wakeLatched := false } }
      c.journal 0 9 63 4 0 0
    else c

/-! ### Fuses (R565, R567) -/

/-- An unprogrammed key slot. -/
def keySlot0 : Nat → KeySlot := fun _ => ⟨[], false, false⟩

/-- SYS_XFUSE_STAT as it reads: the fuses. -/
def readFuseStat (c : Chip) : Word :=
  let f := c.power.fuses
  let prog (t : Sparse KeySlot) (n : Nat) := (List.range n).foldl (fun a i => a + if (sget keySlot0 t i).programmed then 2 ^ i else 0) 0
  let rev := (List.range 4).foldl (fun a i => a + if (sget keySlot0 f.title i).revoked then 2 ^ i else 0) 0
  Word.of (prog f.title 4 + 16 * rev + 256 * prog f.debug 2 + 65536 * f.rollback)

/-- The RESULT with which a fuse operation is refused (R567): 1 locked, 2 slot not free, 3 last title slot, 4 rollback
full, 5 bad OP; 0 where it may start. -/
def fuseRefusal (op slot : Nat) (c : Chip) : Nat :=
  let f := c.power.fuses
  let t := sget keySlot0 f.title slot
  if c.fb SYS_BOOT_FUSE_LOCK then 1
  else match op with
  | 1 => if t.programmed || t.revoked then 2 else 0
  | 2 => if Nat.ble 2 slot then 5 else if (sget keySlot0 f.debug slot).programmed then 2 else 0
  | 3 =>
    if t.revoked then 2
    else if (List.range 4).any fun i => i != slot && (sget keySlot0 f.title i).programmed && !(sget keySlot0 f.title i).revoked then 0
    else 3
  | 4 => if Nat.ble 64 f.rollback then 4 else 0
  | _ => 5

/-- The 64 bytes of SYS_XFUSE_DATA0 to 15. -/
def fuseData (c : Chip) : List Byte := (List.range 16).flatMap fun k => leBytes 4 (c.reg (SYS_XFUSE_DATA k)).toNat

/-- A write of SYS_XFUSE_CMD (R567): one operation per write of GO, which is ignored while BUSY. -/
def writeFuseCmd (v : Word) (c : Chip) : Chip :=
  let c := (c.setF SYS_XFUSE_CMD_OP (v.bits 2 0)).setF SYS_XFUSE_CMD_SLOT (v.bits 5 4)
  if !v.bit 31 || c.fb SYS_XFUSE_CMD_BUSY then c
  else match fuseRefusal (v.bits 2 0) (v.bits 5 4) c with
    | 0 =>
      let c := (c.setF SYS_XFUSE_CMD_BUSY 1).setF SYS_XFUSE_CMD_RESULT 0
      { c with power := { c.power with fuseOp := some (v.bits 2 0, v.bits 5 4, fuseData c) } }
    | r => c.setF SYS_XFUSE_CMD_RESULT r

/-- The fuses after an operation. -/
def Fuses.burn (f : Fuses) (op slot : Nat) (d : List Byte) : Fuses :=
  match op with
  | 1 => { f with title := smod keySlot0 f.title slot fun t => { t with digest := d, programmed := true } }
  | 2 => { f with debug := smod keySlot0 f.debug slot fun t => { t with digest := d, programmed := true } }
  | 3 => { f with title := smod keySlot0 f.title slot fun t => { t with revoked := true } }
  | 4 => { f with rollback := min 64 (f.rollback + 1) }
  | _ => f

/-- FUSE_OP_DONE (R567): after 10 ms the operation in progress ends, BUSY clears and RESULT is 0. -/
def execFuseOpDone (s : State) : Out :=
  s.go fun c =>
    match c.power.fuseOp with
    | some (op, slot, d) =>
      let c := { c with power := { c.power with fuseOp := none, fuses := c.power.fuses.burn op slot d } }
      ((c.setF SYS_XFUSE_CMD_BUSY 0).setF SYS_XFUSE_CMD_RESULT 0).setRegBit SYS_XFUSE_CMD 31 false
    | none => c

/-! ### Other SYS writes -/

/-- A write of SYS_EXPERT: EN is ignored once LOCK is 1.  The settings of R15 govern at once: an output of TMR that toggles
goes low as OUTMODE becomes 0 (R518, R520), and a WARN at or above REMAIN sets WARNF (R523, R526). -/
def writeExpert (v : Word) (c : Chip) : Chip :=
  let old := c.reg SYS_EXPERT
  if old.bit 31 then c
  else
    let c := c.setReg SYS_EXPERT (v &&& 0x83FFFFFF)
    let c := if v.bit 3 then c else { c with tmr := { c.tmr with toggle := [] } }
    forAll (List.range 16) wdtRecheck c

/-- A write of SYS_BOOT: FUSE_LOCK sets; BOOT_OK clears TRIES (R569). -/
def writeBoot (v : Word) (c : Chip) : Chip :=
  let c := if v.bit 9 then c.setRegBit SYS_BOOT 9 true else c
  if v.bit 8 then (c.setRegBit SYS_BOOT 8 true).setF SYS_BOOT_TRIES 0 else c

end Sys2Proof.Machine
end

