-- ==== Sys2Proof/Machine/WdtCommands.lean ====
section
/-! DEFINITION. The watchdogs' register writes, kicks, ticks and expiry (R521 to R525). -/

namespace Sys2Proof.Machine

/-- Watchdog `w` expires (R523): EXPF, then a W reset from watchdog 0, or the U reset of core SVC under ACTION; in every case
but the W reset the count starts again. -/
def wdtExpire (w : Nat) (c : Chip) : Chip :=
  let c := c.flag (WDT_CTL_EXPF w)
  if w = 0 then causeReset 3 3 c
  else
    let svc := c.wdtSvc w
    let c := if c.fb (WDT_CTL_ACTION w) && svc != 63 then unitReset (coreDomain svc) c else c
    wdtLoad w c

/-- A write of WDT_CTL_w (R521, R525): after LOCK only the flags clear; EN newly set loads REMAIN; watchdog 0 has no ACTION. -/
def writeWdtCtl (w : Nat) (v : Word) (c : Chip) : Chip :=
  let old := c.reg (WDT_CTL w)
  let v := if w = 0 then v.setBit 4 false else v
  let v := if old.bit 1 then (old &&& 0x3FFF) ||| (old &&& 0x00380000) ||| (v &&& 0x00070000) else v
  let c := c.setReg (WDT_CTL w) (writeWord false (WDT_CTL w) old v)
  if !old.bit 0 && (c.reg (WDT_CTL w)).bit 0 then
    wdtLoad w { c with wdt := { c.wdt with stopped := sset off c.wdt.stopped w false } }
  else c

/-- Writes of WDT_TIMEOUT_w and WDT_XWARN_w, ignored after LOCK (R525); a WARN that rises to a running count's REMAIN sets
WARNF (R523). -/
def writeWdtLocked (w key : Nat) (v : Word) (c : Chip) : Chip := if c.fb (WDT_CTL_LOCK w) then c else wdtRecheck w (c.setReg key v)

/-- A write of WDT_KICK_w by origin `o` (R522). -/
def writeWdtKick (o w : Nat) (v : Word) (c : Chip) : Chip :=
  let put (b : Bool) (c : Chip) : Chip := { c with wdt := { c.wdt with kick := sset off c.wdt.kick w b } }
  if o = c.wdtSvc w && v = 0x0000A55A then put true c
  else if o = c.wdtSvc w && v = 0x00005AA5 && sget off c.wdt.kick w then
    wdtLoad w (put false c)
  else
    let c := (put false c).flag (WDT_CTL_BAD_KICK w)
    if c.fb (WDT_CTL_BADEXP w) then wdtExpire w c else c

/-- One microsecond of watchdog `w` (R521, R523, R524): nothing while the count stands still; after a stop a REMAIN below the
grace time is reloaded to it. -/
def wdtTick (w : Nat) (c : Chip) : Chip :=
  let mark (b : Bool) (c : Chip) : Chip := { c with wdt := { c.wdt with stopped := sset off c.wdt.stopped w b } }
  let on := c.fb (WDT_CTL_EN w) && c.power.seq = none
  if !on then c
  else if c.power.state = .dormant || ((c.power.state = .run || c.power.state = .nap) && c.wdtHeld w) then mark true c
  else if c.power.state = .run || c.power.state = .nap then
    if sget off c.wdt.stopped w && Nat.blt (c.f (WDT_REMAIN_US w)) c.wdtGrace then
      wdtCheckWarn w ((mark false c).setReg (WDT_REMAIN w) (Word.of c.wdtGrace))
    else
      let n := c.f (WDT_REMAIN_US w) - 1
      let c := wdtCheckWarn w ((mark false c).setReg (WDT_REMAIN w) (Word.of n))
      if n = 0 then wdtExpire w c else c
  else c

/-- WDT_TICK (R521). -/
def execWdtTick (w : Fin 16) (s : State) : Out := s.go (wdtTick w)

/-- WDT_WARN (R523): the microsecond at which REMAIN comes to WARN. -/
def execWdtWarn (w : Fin 16) (s : State) : Out :=
  s.go fun c =>
    if !sget off c.wdt.warned w && Nat.ble (c.f (WDT_REMAIN_US w) - 1) (c.wdtWarn w) then wdtTick w c else c

/-- WDT_EXPIRE (R523): the microsecond at which REMAIN comes to 0. -/
def execWdtExpire (w : Fin 16) (s : State) : Out :=
  s.go fun c => if Nat.ble (c.f (WDT_REMAIN_US w)) 1 then wdtTick w c else c

/-- WDT_KICK (R522) by origin `o`. -/
def execWdtKick (o : BitVec 12) (w : Fin 16) (v : Word) (s : State) : Out :=
  s.go fun c => if c.mainRuns then writeWdtKick o.toNat w v c else c

/-- WDT_CTL_WRITE (R521, R525). -/
def execWdtCtlWrite (w : Fin 16) (v : Word) (s : State) : Out :=
  s.go fun c => if c.mainRuns then writeWdtCtl w v c else c

end Sys2Proof.Machine
end

