-- ==== Sys2Proof/Machine/Regs.lean ====
section
/-! DEFINITION. Reads and writes of the register blocks (R5 to R15): which registers show other state, and which writes act.
A register without an arm of its own is its stored word, written by its access codes. -/

namespace Sys2Proof.Machine

/-- A word and the chip unchanged. -/
def only (c : Chip) (w : Word) : Word × Chip := (w, c)

/-- The key of an array register: its index, when `k` is register `base` + `stride` i of `n`. -/
def indexOf (k base stride n : Nat) : Option Nat :=
  if Nat.ble base k && (k - base) % stride = 0 && Nat.blt ((k - base) / stride) n then some ((k - base) / stride) else none

/-- Index of the coefficient that COMP_COEF_SEL selects; none for taps 4 to 7 of a vertical table. -/
def Chip.coefIndex (c : Chip) : Option Nat :=
  let v := c.f COMP_COEF_SEL_VERT
  let t := c.f COMP_COEF_SEL_TAP
  if v = 1 && Nat.ble 4 t then none
  else some (((c.f COMP_COEF_SEL_OUT * 2 + c.f COMP_COEF_SEL_SHEET) * 2 + v) * 512 + c.f COMP_COEF_SEL_PHASE * 8 + t)

/-- COMP_GSTAT_o as it reads: LEAD and LOG follow the ring and the group's log. -/
def readGstat (o : Nat) (c : Chip) : Word :=
  ((c.reg (COMP_GSTAT o)).setBits 11 8 (if c.running o then min 15 (c.ringLead o) else 0)).setBits 25 16 (c.grp o).log.length

/-- DRAMC_RETDATA as it reads (R187): the list entry that DRAMC_RETIDX selects. -/
def readRetData (c : Chip) : Word :=
  match c.memc.retired[c.f DRAMC_RETIDX_IDX]? with | some p => Word.of (p + 2 ^ 31) | none => 0

/-- DBG_HALT_LO and DBG_HALT_HI as they read (R608): the halted cores. -/
def readHalted (hi : Bool) (c : Chip) : Word :=
  Word.of ((List.range (if hi then 31 else 32)).foldl
    (fun a i => a + if (c.core (i + if hi then 32 else 0)).dbg.halted then 2 ^ i else 0) 0)

/-- FU_USEC as it reads: microseconds since the FU reset. -/
def readFuUsec (c : Chip) : Word := Word.of ((c.now - c.fu.resetAt) / 1000)

/-- An offset of the standard register sets of R582 and R583, whose contents the manual does not print. -/
def standardSet (k : Nat) : Bool := within 0x13200 0x13300 k || within 0x14400 0x15000 k

/-- A read of blocks SYS to PMUX by origin `o`. -/
def readLow (o : Nat) (peek : Bool) (k : Nat) (c : Chip) : Word × Chip :=
  if k = SYS_SLEEP then only c (readSleep c)
  else if k = SYS_PD_CTL then only c (readPdCtl c)
  else if k = SYS_XFUSE_STAT then only c (readFuseStat c)
  else if k = POST_NOW_LO then readNowLo o peek c
  else if k = POST_NOW_HI then only c (readNowHi o c)
  else if k = POST_STATUS then only c (readPostStatus c)
  else if k = ICU_CFG then only c (readIcuCfg c)
  else if k = ICU_CLAIM then readClaim o peek c
  else if k = ICU_CLAIM_PM0 then only c (readClaimPm o false c)
  else if k = ICU_CLAIM_PM1 then only c (readClaimPm o true c)
  else if k = PMUX_STAT then only c (readPmuxStat c)
  else match indexOf k (TMR_XCAP 0) 0x20 32 with
    | some i => readXcap i peek c
    | none =>
      if k / 0x1000 = 5 && k % 0x1000 < 0xC0 then
        let b := k % 0x1000 / 0x20
        (match k % 0x20 with
          | 0x04 | 0x08 => only c (c.reg (GPIO_OUT b))
          | 0x10 => only c (readGpioIn b c)
          | 0x14 => only c (readGpioCfg b c)
          | _ => only c (c.reg k))
      else only c (c.reg k)

/-- A read of blocks DMA to OUT. -/
def readMid (peek : Bool) (k : Nat) (c : Chip) : Word × Chip :=
  if k = MEM_DLT_ENTRY then only c (readDltEntry c)
  else if k = DRAMC_RETDATA then only c (readRetData c)
  else if k = COMP_COEF_DATA then
    only c (match c.coefIndex with | some i => Word.of (sget (fun _ => 0) c.disp.coef i) | none => 0)
  else if within 0xC000 0x10000 k then
    let o := k / 0x1000 - 0x0C
    (match k % 0x1000 with
      | 0x2C => only c (readBeam o c)
      | 0x30 => only c (c.reg (OUT_FRAME_COUNT (c.lead o)))
      | 0x44 => readOutCap o peek c
      | _ => only c (c.reg k))
  else match indexOf k (COMP_GSTAT 0) 4 4 with
    | some o => only c (readGstat o c)
    | none => only c (c.reg k)

/-- A read of AUD and AIO by origin `o`. -/
def readSound (o : Nat) (peek : Bool) (k : Nat) (c : Chip) : Word × Chip :=
  let b := c.f AUD_DYN_SEL_BLOCK
  if k = AUD_VEND then readVend peek c
  else if k = AUD_DYN_CFG then only c (c.dynReg b 0)
  else if k = AUD_DYN_THR then only c (c.dynReg b 1)
  else if k = AUD_DYN_MAKEUP then only c (c.dynReg b 2)
  else if k = AUD_DYN_REL then only c (c.dynReg b 3)
  else if k = AUD_XDYN_ATT then only c (c.dynCoef b 0)
  else if k = AUD_XDYN_REL then only c (c.dynCoef b 1)
  else if k = AUD_XBRC_DATA then only c c.bridgeCoef
  else match indexOf k (AUD_SN_LO 0) 8 3, indexOf k (AUD_SN_HI 0) 8 3 with
    | some d, _ => readSnLo o d peek c
    | none, some d => only c (readSnHi o d c)
    | none, none => only c (c.reg k)

/-- A read of blocks PCIE to SENS by origin `o`; a configuration read (R577) gets a free answer here. -/
def readHigh (o : Nat) (peek : Bool) (k : Nat) (c : Chip) : Word × Chip :=
  if standardSet k then c.freeWord
  else if k = PCIE_STATUS then only c (readPcieStatus c)
  else if k = PCIE_CFGDATA then (let (w, c) := c.freeWord; readCfgData (some w) c)
  else if k = STOR_QDATA then readQdata peek c
  else if k = ZOW_STATUS then only c (readZowStatus c)
  else if k = POBOX_STATUS then only c (fuStatus c)
  else if k = POBOX_GEN then only c (Word.of c.fu.copyA.gen)
  else if k = POBOX_CLAIM then readClaimSlot o peek c
  else if k = POBOX_SEL then only c (readPoboxSel o c)
  else if k = POBOX_SLOT then only c (readPoboxSlot o c)
  else if k = POBOX_RTC then only c (c.reg FU_RTC)
  else if k = DAYB_HEAD then only c (Word.of c.dayb.next)
  else if k = DAYB_OLDEST then only c (Word.of c.dayb.oldest)
  else if k = DAYB_STAT then only c (readDayStat c)
  else if k = DAYB_REPSEL then only c (readRepSel c)
  else if k = DBG_HALT_LO then only c (readHalted false c)
  else if k = DBG_HALT_HI then only c (readHalted true c)
  else if k = DBG_DATA then only c (c.core (c.f DBG_FEED_SEL_CORE)).dbg.data
  else if k = SENS_VAL then only c (readSensVal c)
  else match indexOf k (ZOW_WIN 0) 4 8, indexOf k (POBOX_DATA 0) 4 16, indexOf k (DAYB_RDATA 0) 4 8, indexOf k (DAYB_REPDATA 0) 4 2 with
    | some w, _, _, _ => only c (readZowWin w c)
    | none, some j, _, _ => only c (readPoboxData o j c)
    | none, none, some j, _ => only c (readDayData j c)
    | none, none, none, some j => only c (readRepData j c)
    | none, none, none, none => only c (c.reg k)

/-- A read of register `k` by origin `o` (R5, R6, R14). -/
def readReg (o : Nat) (peek : Bool) (k : Nat) (c : Chip) : Word × Chip :=
  if k < 0x7000 then readLow o peek k c
  else if k < 0x10000 then readMid peek k c
  else if k < 0x12000 then readSound o peek k c
  else readHigh o peek k c

/-! ### Writes -/

/-- A write by the access codes alone (R5, R7). -/
def plainWrite (k : Nat) (v : Word) (c : Chip) : Chip := c.setReg k (writeWord c.sealBroken k (c.reg k) v)

/-- A write of blocks SYS to PMUX by origin `o`. -/
def writeLow (o k : Nat) (v : Word) (c : Chip) : Chip :=
  if k = SYS_RESET then writeSysReset v c
  else if k = SYS_EXPERT then writeExpert v c
  else if k = SYS_BOOT then writeBoot v c
  else if k = SYS_PD_CTL then writePdCtl v c
  else if k = SYS_URST then writeSysUrst v c
  else if k = SYS_RUN_LO then writeSysRun false v c
  else if k = SYS_RUN_HI then writeSysRun true v c
  else if k = SYS_XFUSE_CMD then writeFuseCmd v c
  else if k = ICU_CFG then writeIcuCfg v c
  else if k = ICU_EOI then writeEoi o v c
  else if k = ICU_SWI then writeIcuSwi o v c
  else if k = ICU_SSET then writeIcuSset o v c
  else if k = TMR_XGSTART then writeXgstart v c
  else match k / 0x1000 with
    | 3 =>
      (match indexOf k (TMR_CS 0) 4 32, indexOf k (TMR_XCMP 0) 0x20 32, indexOf k (TMR_XCFG 0) 0x20 32 with
        | some i, _, _ => writeTmrCs i v c
        | none, some i, _ => writeXcmp i v c
        | none, none, some i => writeXcfg i v c
        | none, none, none => plainWrite k v c)
    | 4 =>
      let w := k / 4 % 16
      (match k % 0x1000 / 0x40 with
        | 0 => writeWdtCtl w v c
        | 1 => writeWdtLocked w k v c
        | 2 => writeWdtKick o w v c
        | 4 => writeWdtLocked w k v c
        | _ => plainWrite k v c)
    | 5 =>
      let b := k % 0x1000 / 0x20
      if Nat.blt (k % 0x1000) 0xC0 then
        (match k % 0x20 with
          | 0x00 => writeGpioOut o b v c
          | 0x04 => writeGpioSet o b v c
          | 0x08 => writeGpioClr o b v c
          | 0x0C => writeGpioOe o b v c
          | 0x14 => writeGpioCfg b v c
          | _ => plainWrite k v c)
      else plainWrite k v c
    | 6 => (match indexOf k (PMUX_FUNC 0) 4 24 with | some i => writePmux o i v c | none => plainWrite k v c)
    | _ => plainWrite k v c

/-- A write of one register of an OUT block. -/
def writeOut (o k : Nat) (v : Word) (c : Chip) : Chip :=
  match k % 0x1000 with
  | 0x00 => writeOutCtl o v c
  | 0x30 => writeFrameCount o v c
  | 0x48 => writeXbar o v c
  | 0x60 => if c.fb (OUT_AUX_CMD_BUSY o) then c else plainWrite k v c
  | 0x104 => (let c := plainWrite k v c; if v.bit 7 then retrain o c else c)
  | _ => plainWrite k v c

/-- A write of blocks DMA to OUT by origin `o`. -/
def writeMid (o k : Nat) (v : Word) (c : Chip) : Chip :=
  if k = DMA_GO then writeDmaGo v c
  else if k = DMA_ABORT then writeDmaAbort v c
  else if k = DMA_ENABLE then writeDmaEnable v c
  else if k = PRESS_CTL then writePressCtl v c
  else if k = MEM_DLT_ENTRY then writeDltEntry v c
  else if k = DRAMC_CONFIG then writeDramcConfig o v c
  else if k = COMP_RETIRE_LO then writeRetire false v c
  else if k = COMP_RETIRE_HI then writeRetire true v c
  else if k = COMP_COEF_DATA then
    (match c.coefIndex with
      | some i => { c with disp := { c.disp with coef := sset (fun _ => 0) c.disp.coef i (v.bits 11 0) } }
      | none => c)
  else if within 0xC000 0x10000 k then writeOut (k / 0x1000 - 0x0C) k v c
  else plainWrite k v c

/-- A write of AUD and AIO. -/
def writeSound (k : Nat) (v : Word) (c : Chip) : Chip :=
  if k = AUD_CTL then writeAudCtl v c
  else if k = AUD_HMAP then writeHmap v c
  else if k = AUD_DYN_CFG then writeDyn 0 v c
  else if k = AUD_DYN_THR then writeDyn 1 v c
  else if k = AUD_DYN_MAKEUP then writeDyn 2 v c
  else if k = AUD_DYN_REL then writeDyn 3 v c
  else if k = AUD_XDYN_ATT then writeXdyn 0 v c
  else if k = AUD_XDYN_REL then writeXdyn 1 v c
  else if within 0x11000 0x11030 k then writePort k v c
  else match indexOf k (AUD_SLIP_NEXT 0) 4 3, indexOf k (AUD_VCQ 0) 4 3, indexOf k (AUD_BR_CFG 0) 4 8 with
    | some d, _, _ => writeSlipNext d v c
    | none, some d, _ => writeVcq d v c
    | none, none, some b => writeBridge b v c
    | none, none, none => plainWrite k v c

/-- A halt is requested of core `k` (R608), or is not available. -/
def requestHalt (k : Nat) (c : Chip) : Chip :=
  let level := c.f DBG_STATUS_LEVEL
  let ok :=
    if k < 62 then
      level % 2 = 1 && (if k < 32 then c.regBit SYS_RUN_LO k else c.regBit SYS_RUN_HI (k - 32)) && c.domainUp (coreDomain k)
    else k = 62 && level / 4 % 2 = 1 && c.fu.vdd
  if !ok then c.flag DBG_EVT_NOT_AVAIL
  else c.modCore k fun x => if x.dbg.halted then x else { x with dbg := { x.dbg with haltReq := true } }

/-- A write of DBG_HALT_LO or HI, of DBG_RESUME_LO or HI, of DBG_STEP (R608 to R610). -/
def writeHalt (hi : Bool) (v : Word) (c : Chip) : Chip :=
  forAll (List.range 32) (fun i c => if v.bit i then requestHalt (i + if hi then 32 else 0) c else c) c
def writeResume (hi : Bool) (v : Word) (c : Chip) : Chip :=
  forAll (List.range (if hi then 31 else 32)) (fun i c => if v.bit i then resumeCore (i + if hi then 32 else 0) c else c) c
def writeStep (v : Word) (c : Chip) : Chip :=
  let k := v.bits 5 0
  if v.bit 31 && (c.core k).dbg.halted then
    (resumeCore k c).modCore k fun x => { x with dbg := { x.dbg with stepping := true } }
  else c

/-- A write of DBG by origin `o` (R607): by an open session, from 250 alone, but for DBG_EVT and DBG_IRQ_EN.  DBG_FEED and DBG_DAM_CTL's GO act in
the session's own access. -/
def writeDbg (o k : Nat) (v : Word) (c : Chip) : Chip :=
  if k = DBG_EVT || k = DBG_IRQ_EN then plainWrite k v c
  else if o != 250 || !c.fb DBG_STATUS_SESSION then c
  else if k = DBG_HALT_LO then writeHalt false v c
  else if k = DBG_HALT_HI then writeHalt true v c
  else if k = DBG_RESUME_LO then writeResume false v c
  else if k = DBG_RESUME_HI then writeResume true v c
  else if k = DBG_STEP then writeStep v c
  else if k = DBG_DATA then c.modCore (c.f DBG_FEED_SEL_CORE) fun x => { x with dbg := { x.dbg with data := v } }
  else if k = DBG_DAM_CTL then plainWrite k (v.setBit 31 false) c
  else plainWrite k v c

/-- A write of blocks PCIE to SENS by origin `o`. -/
def writeHigh (o k : Nat) (v : Word) (c : Chip) : Chip :=
  if k = PCIE_CTL then writePcieCtl v c
  else if k = STOR_CTL then writeStorCtl v c
  else if k = STOR_BLK_CNT then writeBlkCnt v c
  else if k = STOR_QCMD then writeQcmd v c
  else if k = STOR_QDATA then writeQdata v c
  else if k = ZOW_CTL then writeZowCtl v c
  else if k = ZOW_CMD then writeZowCmd v c
  else if k = ZOW_SNAP_POST then writeSnapPost v c
  else if k = POBOX_SEL then writePoboxSel o v c
  else if k = POBOX_CMD then writePoboxCmd o v c
  else if k = POBOX_XFORCE then writeXforce v c
  else if k = POBOX_XINJ then writeXinj v c
  else if k = DAYB_SWGO then writeSwgo v c
  else if k = SENS_EVT then writeSensEvt v c
  else if within 0x18000 0x19000 k then writeDbg o k v c
  else match indexOf k (ZOW_WIN 0) 4 8, indexOf k (POBOX_DATA 0) 4 16 with
    | some w, _ => writeZowWin w v c
    | none, some j => writePoboxData o j v c
    | none, none => plainWrite k v c

/-- A write of register `k` by origin `o` (R5, R13): an expert register takes it only while its block is under expert
control. -/
def writeReg (o k : Nat) (v : Word) (c : Chip) : Chip :=
  if Nat.ble 0x100 (k % 0x1000) && !c.expert (k / 0x1000) then c
  else if k < 0x7000 then writeLow o k v c
  else if k < 0x10000 then writeMid o k v c
  else if k < 0x12000 then writeSound k v c
  else writeHigh o k v c

/-! ### The Franking core's device window (R404) -/

/-- A read of the device window. -/
def readFuReg (k : Nat) (c : Chip) : Word × Chip :=
  if k = FU_USEC then only c (readFuUsec c)
  else if k = FU_SPI_DATA then readFuSpiData false c
  else if k = FU_MIR_DATA then readFuMirData false c
  else if k = FU_MIR_STAT then only c (readFuMirStat c)
  else if k = FU_VIEW then only c (readFuView c)
  else only c (c.reg k)

/-- A write of the device window. -/
def writeFuReg (k : Nat) (v : Word) (c : Chip) : Chip :=
  if k = FU_RTC then c.modFu fun u => { u with rtcSet := some v }
  else if k = FU_MOUT then (if c.mayPulse && c.fu.vddio then plainWrite k v c else c)
  else if k = FU_WDT then writeFuWdt v c
  else if k = FU_SPI_CMD then writeFuSpiCmd v c
  else if k = FU_SPI_DATA then writeFuSpiData v c
  else if k = FU_MIR_STAT then (if v.bit 17 then sendMirror c else c)
  else if k = FU_MIR_DATA then writeFuMirData v c
  else plainWrite k v c

end Sys2Proof.Machine
end

