-- ==== Sys2Proof/Machine/Bus.lean ====
section
/-! DEFINITION. Accesses by physical address (R8 to R18, R157, R404, R584): what answers, register accesses, memories, the boot
ROM, the PCI Express window, and the Franking core's and the Postmaster's own maps. -/

namespace Sys2Proof.Machine

/-- What a read returns: its little-endian value, whether a word of it is poisoned, whether it ended in a bus error. -/
structure Load where
  val : Nat
  poison : Bool
  err : Bool
  chip : Chip

/-- A read that ends in a bus error (R11, R18, R157). -/
def busError (c : Chip) : Load := ⟨0, false, true, c⟩

/-- What lies at `pa` answers origin `o`: it is assigned, and its power domain is on and out of isolation (R18, R157). -/
def Chip.reachable (c : Chip) (o pa : Nat) (r : Region) : Bool :=
  match r with
  | .unassigned => false
  | .fuRom | .fuSram | .keepBank | .notice | .fuPobox | .fuDevice | .fuFuse => c.fu.vdd
  | .pmRam | .pmRom | .pmDevice => c.power.vsb
  | .block b => c.blockRuns b
  | .pcieWindow => c.mainRuns && c.domainUp 97 && c.pcieMode = 2 && c.fb PCIE_STATUS_UP
  | _ => c.mainRuns && o != 62 && c.domainUp (c.regionDomain r pa)

/-- The contents of a ROM. -/
def romNat (pa n : Nat) : Nat := leNat ((List.range n).map fun i => Config.romByte (pa + i))

/-- Byte `i` of the Franking Unit's fuse window (R404). -/
def fuseByte (c : Chip) (i : Nat) : Byte :=
  let digest (s : Nat) : List Byte := (sget keySlot0 c.fu.seals s).digest
  if i < 0x40 then (digest 0).getD i 0
  else if i < 0x80 then (digest 1).getD (i - 0x40) 0
  else if i = 0x80 then
    BitVec.ofNat 8 ((sget keySlot0 c.fu.seals 0).programmed.toNat + 2 * (sget keySlot0 c.fu.seals 1).programmed.toNat)
  else if within 0x88 0x90 i then BitVec.ofNat 8 (Config.serial.toNat >>> (8 * (i - 0x88)))
  else if within 0x100 0x120 i then Config.identitySeed (i - 0x100)
  else if within 0x120 0x140 i then Config.identPub (i - 0x120)
  else if within 0x180 0x1C0 i then Config.archiveSecret (i - 0x180)
  else 0

/-- A read of a memory of the main side, word by word checked (R162 to R168, R185). -/
def memLoad (r : Region) (pa n : Nat) (c : Chip) : Load :=
  let c := c.eccRange r n pa
  ⟨c.le pa n, c.anyPoison r pa n || c.deadDram r pa, false, c⟩

/-- A read of the PCI Express window (R577, R578): what the device there answers is free: data, an error, or poison. -/
def windowLoad (n : Nat) (c : Chip) : Load :=
  let (k, c) := c.freeBits 2
  let (v, c) := c.freeBits (8 * n)
  if k = 0 then ⟨v, false, false, c⟩ else if k = 1 then busError c else if k = 2 then ⟨v, true, false, c⟩ else ⟨v, false, false, c⟩

/-- A read of `n` bytes at `pa` by origin `o`. -/
def busLoad (o : Nat) (peek : Bool) (pa n : Nat) (c : Chip) : Load :=
  let r := c.region o pa
  if !c.reachable o pa r then busError c
  else match r with
    | .block b =>
      if n = 4 && pa % 4 = 0 then (let (w, c) := readReg o peek (b * 0x1000 + pa % 0x1000) c; ⟨w.toNat, false, false, c⟩)
      else busError c
    | .fuDevice =>
      if n = 4 && pa % 4 = 0 then (let (w, c) := readFuReg (0x1A000 + pa % 0x1000) c; ⟨w.toNat, false, false, c⟩) else busError c
    | .pmDevice => (let (v, c) := c.freeBits (8 * n); ⟨v, false, false, c⟩)
    | .pcieWindow => windowLoad n c
    | .rom | .fuRom | .pmRom => ⟨romNat pa n, false, false, c⟩
    | .fuFuse => ⟨leNat ((List.range n).map fun i => fuseByte c (pa % 0x200 + i)), false, false, c⟩
    | .dram | .pattern | .audio | .palette _ | .sorterRam _ | .hornRam _ => memLoad r pa n c
    | .fuSram | .keepBank | .notice | .fuPobox | .pmRam => ⟨c.le pa n, c.anyPoison r pa n, false, c⟩
    | .unassigned => busError c

/-- A word store to a seal slot of the fuse window (R404, R568): it burns the word of an unprogrammed slot, which is programmed
with its last word. -/
def burnSealWord (i : Nat) (bs : List Byte) (c : Chip) : Chip :=
  let s := i / 0x40
  let x := sget keySlot0 c.fu.seals s
  if Nat.ble 2 s || x.programmed || bs.length != 4 then c
  else
    let d := (List.range 64).map fun j => if within (i % 0x40) (i % 0x40 + 4) j then bs.getD (j - i % 0x40) 0 else x.digest.getD j 0
    c.modFu fun u => { u with seals := sset keySlot0 u.seals s ⟨d, i % 0x40 == 0x3C, x.revoked⟩ }

/-- A write of bytes at `pa` by origin `o`: whether it ends in a bus error. -/
def busStore (o pa : Nat) (bs : List Byte) (c : Chip) : Bool × Chip :=
  let r := c.region o pa
  if !c.reachable o pa r then (true, c)
  else match r with
    | .block b =>
      if bs.length = 4 && pa % 4 = 0 then (false, writeReg o (b * 0x1000 + pa % 0x1000) (Word.of (leNat bs)) c) else (true, c)
    | .fuDevice =>
      if bs.length = 4 && pa % 4 = 0 then (false, writeFuReg (0x1A000 + pa % 0x1000) (Word.of (leNat bs)) c) else (true, c)
    | .pmDevice | .pcieWindow => (false, c)
    | .rom | .fuRom | .pmRom | .unassigned => (true, c)
    | .fuFuse => (false, burnSealWord (pa % 0x200) bs c)
    | .dram => if c.deadDram r pa then (true, c) else (false, c.memStore r pa bs)
    | .pattern | .audio | .palette _ | .sorterRam _ | .hornRam _ => (false, c.memStore r pa bs)
    | .fuSram | .keepBank | .notice | .fuPobox | .pmRam => (false, c.storeChunks r bs.length pa bs)

/-- A store of poisoned data (R578): the words it covers keep the poison code (R164). -/
def busPoison (o pa : Nat) (bs : List Byte) (c : Chip) : Bool × Chip :=
  let r := c.region o pa
  match busStore o pa bs c with
  | (true, c) => (true, c)
  | (false, c) =>
    (match r with
      | .dram | .pattern | .audio | .palette _ | .sorterRam _ | .hornRam _ =>
        (false, forAll (List.range bs.length) (fun i c => c.markPoison r (pa + i)) c)
      | _ => (false, c))

/-- The address of register `k`. -/
def regAddr (k : Nat) : Nat := 0x1800000000 + k / 0x1000 * 0x10000 + k % 0x1000

/-- A read of register `k` by a command of origin `o`: what it returned is kept for that origin. -/
def readCmd (o k : Nat) (peek : Bool) (c : Chip) : Chip :=
  let l := busLoad o peek (regAddr k) 4 c
  l.chip.answerTo o (if l.err then .busError else .data (Word.of l.val))

/-- A write of register `k` by a command of origin `o`; a bus error is kept as its answer. -/
def writeCmd (o k : Nat) (v : Word) (c : Chip) : Chip :=
  match busStore o (regAddr k) (leBytes 4 v.toNat) c with
  | (true, c) => c.answerTo o .busError
  | (false, c) => c

end Sys2Proof.Machine
end

