-- ==== Sys2Proof/Machine/Flags.lean ====
section
/-! DEFINITION. The predicate computations of Glegan: conditions (R65), compare results (R72), how a result combines
into a predicate (R73), and predicate logic (R74). -/

namespace Sys2Proof.Machine

/-- Predicate `n` of the packed predicates; q0 reads 1 (R62). -/
def predicate (q : BitVec 8) (n : Nat) : Bool := n = 0 || q.toNat.testBit n

/-- The packed predicates with predicate `n` written; writes to q0 are discarded (R62). -/
def setPredicate (q : BitVec 8) (n : Nat) (b : Bool) : BitVec 8 :=
  if n = 0 then q else BitVec.ofNat 8 ((q.toNat - (q.toNat &&& 2 ^ n)) + b.toNat * 2 ^ n)

/-- The condition field: sense in bit 3, predicate number in bits 2:0 (R65). -/
def condTrue (q : BitVec 8) (cond : BitVec 4) : Bool :=
  xor (predicate q (cond.toNat % 8)) (cond.toNat / 8 == 1)

/-- CMP (R72). -/
def cmpResult (cc : Nat) (a b : Word) : Bool :=
  match cc with
  | 0 => a = b
  | 1 => a ≠ b
  | 2 => a.slt b
  | 3 => !a.slt b
  | 4 => a.ult b
  | 5 => !a.ult b
  | 6 => (a &&& b) ≠ 0
  | _ => (a &&& b) = 0

/-- CMPI (R72): imm9 is sign-extended for cc 0 to 3, zero-extended for 4 and 5, and names a bit for 6 and 7. -/
def cmpiResult (cc : Nat) (a : Word) (imm : BitVec 9) : Bool :=
  if cc < 4 then cmpResult cc a (imm.signExtend 32)
  else if cc < 6 then cmpResult cc a (imm.zeroExtend 32)
  else xor (a.bit (imm.toNat % 32)) (cc == 7)

/-- The comb field (R73). -/
def combine (comb : Nat) (old r : Bool) : Bool :=
  match comb with
  | 0 => r
  | 1 => old && r
  | 2 => old || r
  | _ => !r

/-- Predicate logic (R74): op 0 AND, 1 OR, 2 XOR. -/
def predLogic (op : Nat) (a b : Bool) : Bool :=
  match op with
  | 0 => a && b
  | 1 => a || b
  | _ => xor a b

end Sys2Proof.Machine
end

