-- ==== Sys2Proof/Machine/Operands.lean ====
section
/-! DEFINITION. Operands of Glegan instructions: registers, effective addresses, translation through the region tables
(R103 to R108), and the loads and stores every memory instruction is made of (R81 to R84, R92 to R102, R112, R146). -/

namespace Sys2Proof.Machine

/-! ### Own local memory -/

/-- Own local memory that core `k` fetches from (R143): base and size of its RAM, and for cores 62 and 63 their ROM. -/
def ownRam (k : Nat) : Nat × Nat :=
  match Core.kind k with
  | 1 => (0x1020000000 + (k - 8) * 0x10000, 0x10000)
  | 2 => (0x1030000000 + (k - 56) * 0x40000, 0x40000)
  | 3 => (0x1D10000000, 0x30000)
  | 4 => (0x1E00000000, 0x80000)
  | _ => (0, 0)

/-- A physical address in the own local RAM of in-order core `k`. -/
def inOwnRam (k pa : Nat) : Bool := inOrder k && within (ownRam k).1 ((ownRam k).1 + (ownRam k).2) pa

/-- A physical address that in-order core `k` may fetch from (R143). -/
def inOwnCode (k pa : Nat) : Bool :=
  inOwnRam k pa || (k = 62 && within 0x1D00000000 0x1D00020000 pa) || (k = 63 && within 0x1E10000000 0x1E10010000 pa)

/-! ### Translation (R103 to R108) -/

/-- What an access is for. -/
inductive Use | fetch | load | store
  deriving DecidableEq, Repr

/-- A translated access: its physical address, whether its region is a device region, and whether a Courier's caches serve it. -/
structure Phys where
  pa : Nat
  device : Bool
  cached : Bool
  deriving DecidableEq, Repr

/-- A region-table word: the one the core holds, or a read of the table, which the core then holds (R108).  `none` where
the read ends in a bus error or in poison (R107). -/
def tableWord (k idx pa : Nat) (c : Chip) : Option Word × Chip :=
  match sget (fun _ => none) (c.core k).held idx with
  | some w => (some w, c)
  | none =>
    let l := busLoad k false pa 4 c
    if l.err then (none, l.chip)
    else if l.poison then (none, l.chip.poisonRecord k pa)
    else
      (some (Word.of l.val),
        l.chip.modCore k fun x => { x with held := sset (fun _ => none) x.held idx (some (Word.of l.val)) })

/-- `va` matches entry word 0 (R105, R106): V set, SIZE 12 to 31, equal bits above SIZE. -/
def entryMatches (w0 : Word) (va : Nat) : Bool :=
  let size := w0.bits 4 0
  w0.bit 5 && Nat.ble 12 size && va / 2 ^ size == w0.bits 31 12 * 4096 / 2 ^ size

/-- Physical accesses that a Courier treats as device accesses whatever the TYPE (R136). -/
def courierDevice (k pa : Nat) : Bool := Nat.blt k 8 && within 0x1800000000 0x1801000000 pa

/-- The permission a matching entry gives (R107): EX, RD or WR, and USR in user mode. -/
def permits (sup : Bool) (u : Use) (w2 : Word) : Bool :=
  (match u with | .load => w2.bit 0 | .store => w2.bit 1 | .fetch => w2.bit 2) && (sup || w2.bit 3)

/-- A Courier's caches serve DRAM in regions of TYPE 0 and 2 (R105, R158). -/
def cacheable (k type pa : Nat) : Bool := Nat.blt k 8 && Nat.blt pa 0x800000000 && (type == 0 || type == 2)

/-- Walk entries `i`, `i + 1`, … of the table at `base` for context `ctx` (R104, R106): the place that the governing entry gives, and
whether it permits the access.  The entry's TYPE is bits 6:4 of word 2: 3 is a device region, 4 to 7 make the entry invalid. -/
def walk (k : Nat) (u : Use) (va base ctx : Nat) : Nat → Nat → Chip → Option (Phys × Bool) × Chip
  | 0, _, c => (none, c)
  | n + 1, i, c =>
    let key := ctx * 64 + i * 4
    let at_ := base + i * 16
    match tableWord k key at_ c with
    | (none, c) => (none, c)
    | (some w0, c) =>
      if !entryMatches w0 va then walk k u va base ctx n (i + 1) c
      else match tableWord k (key + 2) (at_ + 8) c with
        | (none, c) => (none, c)
        | (some w2, c) =>
          if w2.bit 6 then walk k u va base ctx n (i + 1) c
          else match tableWord k (key + 1) (at_ + 4) c with
            | (none, c) => (none, c)
            | (some w1, c) =>
              let size := w0.bits 4 0
              let pa := w1.bits 27 0 * 4096 / 2 ^ size * 2 ^ size + va % 2 ^ size
              (some (⟨pa, w2.bits 5 4 == 3 || courierDevice k pa, cacheable k (w2.bits 5 4) pa⟩,
                permits (c.core k).sup u w2), c)

/-- Where a virtual address of core `k` lies (R103 to R107), and whether the access is permitted there; `none` where no entry governs it.
Without translation every access is a normal uncached one with every permission. -/
def locate (k : Nat) (u : Use) (va : Word) (c : Chip) : Option (Phys × Bool) × Chip :=
  let x := c.core k
  if x.useRT then walk k u va.toNat (x.useRtbase * 0x10000 + x.useCtx * 256) x.useCtx 16 0 c
  else
    let pa := x.useUbase * 0x100000000 + va.toNat
    (some (⟨pa, courierDevice k pa, false⟩, true), c)

/-- Translate a virtual address of core `k` (R103 to R107); `none` is a region exception. -/
def translate (k : Nat) (u : Use) (va : Word) (c : Chip) : Option Phys × Chip :=
  match locate k u va c with
  | (some (p, true), c) => (some p, c)
  | (_, c) => (none, c)

/-! ### Halves of an access (R99) -/

/-- The aligned-word pieces of an access of `n` bytes at `va`: address and length. -/
def pieces (va : Word) (n : Nat) : List (Word × Nat) :=
  let m := 4 - va.toNat % 4
  if n ≤ m then [(va, n)] else [(va, m), (va + Word.of m, n - m)]

/-- The access is naturally aligned (R102). -/
def natural (va : Word) (n : Nat) : Bool := va.toNat % n = 0

/-- Translate every piece: the first address whose access is not permitted, and the places of all that an entry governs. -/
def placePieces (k : Nat) (u : Use) : List (Word × Nat) → Chip → (Option Word × List (Phys × Nat)) × Chip
  | [], c => ((none, []), c)
  | (va, n) :: t, c =>
    match locate k u va c with
    | (none, c) =>
      match placePieces k u t c with
      | ((_, l), c) => ((some va, l), c)
    | (some (p, ok), c) =>
      match placePieces k u t c with
      | ((e, l), c) => ((if ok then e else some va, (p, n) :: l), c)

/-! ### The in-order store buffer (R146, R147) -/

/-- Overlay the bytes of the store buffer on `n` bytes read at `pa`. -/
def sbufByte (sb : List SbEntry) (pa : Nat) (b : Byte) : Byte :=
  sb.foldl (fun b e =>
    if e.pa = pa - pa % 4 && e.mask.testBit (pa % 4) then BitVec.ofNat 8 (e.data.bits (pa % 4 * 8 + 7) (pa % 4 * 8)) else b) b

/-- The bytes an in-order load from own local memory sees (R147). -/
def sbufMerge (sb : List SbEntry) (pa : Nat) : List Byte → List Byte
  | [] => []
  | b :: t => sbufByte sb pa b :: sbufMerge sb (pa + 1) t

/-- The bytes of a buffered word that its mask covers, with their addresses. -/
def SbEntry.bytes (e : SbEntry) : List (Nat × Byte) :=
  ([0, 1, 2, 3].filter fun i => e.mask.testBit i).map fun i => (e.pa + i, BitVec.ofNat 8 (e.data.bits (8 * i + 7) (8 * i)))

/-- An entry drains: one store of the bytes that its mask covers (R144, R146).  The reservation of the core itself, made after the
store, stays (R95). -/
def drainStore (e : SbEntry) (k : Nat) (c : Chip) : Chip :=
  let held := (c.core k).resv
  let r := c.region k e.pa
  let c := if c.reachable k e.pa r then c.storeIn r e.pa e.bytes else c
  c.modCore k fun x => { x with resv := held }

/-- The oldest entry of the store buffer drains (R144, R146). -/
def drainOldest (k : Nat) (c : Chip) : Chip :=
  match (c.core k).sbuf with
  | [] => c
  | e :: t => drainStore e k (c.modCore k fun x => { x with sbuf := t })

/-- Both entries drain, oldest first. -/
def drainAll (k : Nat) (c : Chip) : Chip := drainOldest k (drainOldest k c)

/-- A store that leaves an in-order core takes its place behind the entries of the store buffer, which drain before it (R36, R146); the
core waits for a place where both are full. -/
def drainBefore (k : Nat) (c : Chip) : Chip :=
  drainAll k (if Nat.ble 2 (c.core k).sbuf.length then c.modCore k (Core.event k 0x13) else c)

/-- A store of `bs` at `pa` enters the store buffer (R146): it merges into the youngest entry, or takes a new one, the
core waiting for a drain while both are full (SBUF_FULL counts). -/
def sbufStore (k pa : Nat) (bs : List Byte) (c : Chip) : Chip :=
  let w := pa - pa % 4
  let m := (2 ^ bs.length - 1) * 2 ^ (pa % 4)
  let d := Word.of (leNat bs * 256 ^ (pa % 4))
  let mask := Word.of ((List.range 4).foldl (fun a i => if m.testBit i then a + 0xFF * 256 ^ i else a) 0)
  let sb := (c.core k).sbuf
  match sb.getLast? with
  | some e =>
    if e.pa = w then
      c.modCore k fun x =>
        { x with sbuf := sb.dropLast ++ [⟨w, e.mask ||| m, (e.data &&& ~~~mask) ||| d⟩] }
    else
      let c := if Nat.ble 2 sb.length then (drainOldest k c).modCore k (Core.event k 0x13) else c
      c.modCore k fun x => { x with sbuf := x.sbuf ++ [⟨w, m, d⟩] }
  | none => c.modCore k fun x => { x with sbuf := [⟨w, m, d⟩] }

/-! ### Acknowledgements (R112, R148) -/

/-- The oldest `n` posted accesses are acknowledged; their store bus errors have arrived, in store order. -/
def Core.ackFirst (n : Nat) (x : Core) : Core :=
  { x with busErrs := x.busErrs ++ (x.posted.take n).flatMap Posted.errs, posted := x.posted.drop n }

/-- Every posted access is acknowledged. -/
def ackAll (k : Nat) (c : Chip) : Chip := c.modCore k fun x => x.ackFirst x.posted.length

/-- The posted accesses up to the last device access. -/
def throughDevice (l : List Posted) : Nat := (l.reverse.dropWhile fun p => !p.device).length

/-- A device access waits until the previous one has been acknowledged (R148). -/
def ackDevice (k : Nat) (c : Chip) : Chip := c.modCore k fun x => x.ackFirst (throughDevice x.posted)

/-- A write of core `k` is not acknowledged yet: that of DRAMC_CONFIG.ENABLE waits for the training it started (R648), that of a PMUX
register for the hold it met (R537). -/
def Chip.enableWaits (c : Chip) (k : Nat) : Bool := c.enableHolds k && (c.core k).posted.any Posted.enable

/-- The oldest posted access is acknowledged, unless its acknowledgement waits. -/
def ackOldest (k : Nat) (c : Chip) : Chip :=
  if (match (c.core k).posted with | e :: _ => e.enable && c.enableWaits k | [] => false) then c
  else c.modCore k (Core.ackFirst 1)

/-! ### Loads and stores -/

/-- What a load brings: its value, or the exception it takes (R110). -/
inductive Loaded
  | value (v : Nat)
  | trap (cause : Nat) (addr : Word)
  deriving DecidableEq, Repr

/-- The fuses of the identity seed and of the archive secret (R404). -/
def secretFuse (pa : Nat) : Bool := within 0x1D50000100 0x1D50000120 pa || within 0x1D50000180 0x1D500001C0 pa

/-- The instruction that core `k` runs was fetched from the FU ROM (R410, R568, R619): fed words are not. -/
def romCode (k : Nat) (c : Chip) : Bool :=
  k = 62 && !(c.core k).dbg.halted && (match translate k .fetch (c.core k).pc c with
    | (some p, _) => within 0x1D00000000 0x1D00020000 p.pa
    | (none, _) => false)

/-- The fuse window takes no store, and its secrets read as 0, but for code in the FU ROM (R404, R410, R568). -/
def fuseGuard (k pa : Nat) (c : Chip) : Bool := k = 62 && within 0x1D50000000 0x1D50000200 pa && !romCode k c

/-- The store buffer covers every one of `n` bytes at `pa`. -/
def sbufCovers (sb : List SbEntry) (pa n : Nat) : Bool :=
  (List.range n).all fun i => sb.any fun e => e.pa = (pa + i) - (pa + i) % 4 && e.mask.testBit ((pa + i) % 4)

/-- One piece read: value, bus error, poison. -/
def loadPiece (k : Nat) (p : Phys) (n : Nat) (c : Chip) : Load :=
  let c := if p.device then ackDevice k c else c
  let l := busLoad k false p.pa n c
  if inOwnRam k p.pa then
    let sb := (l.chip.core k).sbuf
    { l with
      val := leNat (sbufMerge sb p.pa (leBytes n l.val))
      poison := l.poison && !sbufCovers sb p.pa n }
  else if secretFuse p.pa && fuseGuard k p.pa c then { l with val := 0 }
  else l

/-- The pieces read in turn: little-endian value, some bus error, some poison. -/
def loadPieces (k : Nat) : List (Phys × Nat) → Chip → Load
  | [], c => ⟨0, false, false, c⟩
  | (p, n) :: t, c =>
    let l := loadPiece k p n c
    let m := loadPieces k t l.chip
    ⟨l.val + 256 ^ n * m.val, l.poison || m.poison, l.err || m.err, m.chip⟩

/-- A free value decides whether core `k` counts event `ev` (log entry 161); none is drawn while no counter selects it. -/
def mayMiss (k ev : Nat) (c : Chip) : Chip :=
  if (c.core k).selects k ev && !(c.core k).countsNot then
    let (v, c) := c.freeBits 1
    if v = 1 then c.modCore k (Core.event k ev) else c
  else c

/-- The events of an access of core `k` that retires (R137, R156): a split access, and on a Courier the misses of its caches, which the
model does not fill by rule. -/
def retireAccess (k : Nat) (ps : List (Phys × Nat)) (c : Chip) : Chip :=
  let c := if Nat.blt 1 ps.length then c.modCore k (Core.event k 0x10) else c
  if ps.any fun p => p.1.cached then mayMiss k 0x0A (mayMiss k 0x09 c) else c

/-- The read of placed pieces, with the exceptions known only when it is performed (R99, R110, R51).  An in-order load
from outside own local memory holds the pipeline (R148). -/
def finishLoad (k : Nat) (ea : Word) (ps : List (Phys × Nat)) (c : Chip) : Loaded × Chip :=
  let l := loadPieces k ps c
  let c := l.chip
  if l.err then (.trap 0x0A ea, c)
  else if l.poison then (.trap 0x0C ea, c.poisonRecord k (match ps with | p :: _ => p.1.pa | [] => 0))
  else
    let c := retireAccess k ps c
    let far := inOrder k && ps.any fun p => !inOwnRam k p.1.pa
    (.value l.val, if far then c.modCore k fun x => { x with loadHeld := true } else c)

/-- The checks an access passes before it is performed (R96, R99, R102, R107, R110): access form, then region. -/
def checkAccess (k : Nat) (u : Use) (ea : Word) (n : Nat) (locked : Bool) (c : Chip) :
    Except (Nat × Word) (List (Phys × Nat)) × Chip :=
  if locked && !natural ea n then (.error (0x09, ea), c)
  else match placePieces k u (pieces ea n) c with
    | ((bad, ps), c) =>
      if ps.any (fun p => p.1.device) && (locked || !natural ea n) then (.error (0x09, ea), c)
      else match bad with
        | some a => (.error ((match u with | .store => 0x08 | _ => 0x07), a), c)
        | none => (.ok ps, c)

/-- An access of core `k` cannot be performed yet: a device access waits for the acknowledgement of the core's last device write (R148,
R537, R648), a store waits for space in the capture buffer (R475). -/
def Chip.accessWaits (c : Chip) (k : Nat) (store : Bool) (ps : List (Phys × Nat)) : Bool :=
  (c.enableWaits k && ps.any fun p => p.1.device) || (store && ps.any fun p => c.writeWaits p.1.pa)

/-- A store from outside own local memory, once it is performed: an in-order core's is posted, and a Courier's where it is not to DRAM or
met a bus error (R112, R148). -/
def postStore (k pa : Nat) (device enable : Bool) (errs : List Word) : List Posted :=
  if inOrder k || !Nat.blt pa 0x800000000 || errs != [] then [⟨device, enable, errs⟩] else []

/-- Store one piece; a bus error is reported later at the piece's own address (R112). -/
def storePiece (k : Nat) (va : Word) (p : Phys) (bs : List Byte) (c : Chip) : List Posted × Chip :=
  if inOwnRam k p.pa && !p.device then ([], sbufStore k p.pa bs c)
  else
    let c := if inOrder k then drainBefore k c else c
    let c := if p.device then ackDevice k c else c
    if fuseGuard k p.pa c then (postStore k p.pa p.device false [], c)
    else
      let c := if p.cached && c.reachable k p.pa (c.region k p.pa) && !c.deadDram .dram p.pa then c.fillLine p.pa else c
      match busStore k p.pa bs c with
      | (err, d) =>
        (if inOwnRam k p.pa then []
          else postStore k p.pa p.device (!c.enableHolds k && d.enableHolds k) (if err then [va] else []), d)

/-- The pieces stored in turn, lower word first (R99, R101, R152). -/
def storePieces (k : Nat) (va : Word) : List (Phys × Nat) → List Byte → Chip → List Posted × Chip
  | [], _, c => ([], c)
  | (p, n) :: t, bs, c =>
    let (e, c) := storePiece k va p (bs.take n) c
    let (e', c) := storePieces k (va + Word.of n) t (bs.drop n) c
    (e ++ e', c)

/-- A store of core `k` reset the core itself (R543, R546): its work is gone. -/
def selfReset (k : Nat) (before after : Chip) : Bool :=
  (before.core k).pc != (after.core k).pc || ((after.core k).g == [] && (before.core k).g != [])

/-- The store of placed pieces, and whether it reset the core; the stores that leave the core are posted (R148). -/
def finishStore (k : Nat) (ea : Word) (ps : List (Phys × Nat)) (bs : List Byte) (c : Chip) : Bool × Chip :=
  match storePieces k ea ps bs c with
  | (posts, d) =>
    if selfReset k c d then (true, d)
    else
      let d := d.modCore k fun x =>
        match x.resv with
        | some r => if ps.any (fun p => p.1.pa - p.1.pa % 64 = r.pa) then { x with resv := none } else x
        | none => x
      let d := retireAccess k ps d
      (false, if posts = [] then d else d.modCore k fun x => { x with posted := x.posted ++ posts })

end Sys2Proof.Machine
end

