-- ==== Sys2Proof/Machine/CoreOps.lean ====
section
/-! DEFINITION. How a core runs one instruction: availability, fetch (R110, R143), comparators (R614, R615), the slot and
the product shadow (R77 to R80, R86 to R91), taking an exception (R114) and returning from one (R115). -/

namespace Sys2Proof.Machine

/-! ### Comparators (R613 to R615) -/

/-- The breakpoints and the watches of core `k`'s kind (R613). -/
def breakpoints (k : Nat) : List Nat :=
  match Core.kind k with
  | 0 => [0, 1, 2, 3, 4, 5, 6, 7]
  | 1 | 2 => [0, 1, 2, 3]
  | 3 => [0, 1]
  | _ => []

def watches (k : Nat) : List Nat :=
  match Core.kind k with
  | 0 => [8, 9, 10, 11]
  | 1 | 2 | 3 => [8, 9]
  | _ => []

/-- The control, low and high registers of comparator `n`. -/
def Core.cmpCtl (x : Core) (n : Nat) : Word := sget zeroWord x.dbg.cmp (4 * n)
def Core.cmpLo (x : Core) (n : Nat) : Word := sget zeroWord x.dbg.cmp (4 * n + 1)
def Core.cmpHi (x : Core) (n : Nat) : Word := sget zeroWord x.dbg.cmp (4 * n + 2)

/-- Comparator `n`'s CTXEN, MODE and LINKEN conditions hold (R615). -/
def Core.cmpArmed (x : Core) (n : Nat) : Bool :=
  let w := x.cmpCtl n
  w.bits 1 0 != 0 && (!w.bit 4 || x.ctx.bits 7 0 == w.bits 15 8)
    && (match w.bits 7 6 with | 1 => !x.sup | 2 => x.sup | _ => true)
    && (!w.bit 16 || sget (fun _ => false) x.dbg.armed n)

/-- Some byte of `n` bytes at `va` lies in comparator `i`'s range. -/
def Core.cmpHits (x : Core) (i : Nat) (va : Word) (n : Nat) : Bool :=
  (List.range n).any fun j => let a := (va + Word.of j).toNat; Nat.ble (x.cmpLo i).toNat a && Nat.ble a (x.cmpHi i).toNat

/-- A watch of the kind its KIND field names (R613): 1 load, 2 store, 3 and 0 either. -/
def Core.watchKind (x : Core) (i : Nat) (u : Use) : Bool :=
  match (x.cmpCtl i).bits 3 2 with
  | 1 => u = .load
  | 2 => u = .store
  | _ => true

/-- The comparators fire (R615): each disarms itself and arms the comparators linked to it. -/
def Core.fire (x : Core) (l : List Nat) (hit : Word) : Core :=
  let armed := l.foldl (fun a n => sset (fun _ => false) a n false) x.dbg.armed
  let armed := (List.range 12).foldl
    (fun a m => if (x.cmpCtl m).bit 16 && l.contains ((x.cmpCtl m).bits 23 20) then sset (fun _ => false) a m true else a) armed
  { x with dbg := { x.dbg with armed := armed, dhit := hit } }

/-- What the comparators that match ask for: nothing, a halt, or the breakpoint exception (R615), with the chip after
they fired. -/
inductive Fired
  | no
  | halt (hit : Nat)
  | trap (addr : Word)
  deriving DecidableEq, Repr

/-- Comparators `l` of core `k` match at address `a` (R614, R615). -/
def fireAll (k : Nat) (l : List Nat) (a : Word) (c : Chip) : Fired × Chip :=
  match l with
  | [] => (.no, c)
  | n :: t =>
    let x := c.core k
    let c1 := c.modCore k fun x => x.fire (n :: t) a
    let c2 := if (n :: t).any fun i => (x.cmpCtl i).bit 5 then raisePrivate k 28 c1 else c1
    let acts := (n :: t).map fun i => (x.cmpCtl i).bits 1 0
    if acts.contains 3 && c.mainSession then (.halt n, c2)
    else if acts.contains 2 then (.trap (Word.of (n + (if t = [] then 0 else 16))), c2)
    else (.no, c2)

/-- The breakpoints at the instruction about to run, and for a branch those at its slot (R614). -/
def fireBreak (k : Nat) (branch : Bool) (c : Chip) : Fired × Chip :=
  let x := c.core k
  if x.slot.isSome then (.no, c)
  else
    let l := (breakpoints k).filter fun n => x.cmpArmed n && x.cmpHits n x.pc 1
    let l' := (breakpoints k).filter fun n => branch && x.cmpArmed n && x.cmpHits n (x.pc + 4) 1 && !l.contains n
    fireAll k (l ++ l') (if l = [] then x.pc + 4 else x.pc) c

/-- The watches that accesses of `n` bytes at the addresses `vas` match (R614), as one instruction: none for a fed word on a halted core
(R611).  In a slot a halt waits until the pair is over (R89, log entry 162). -/
def fireWatches (k : Nat) (u : Use) (vas : List Word) (n : Nat) (c : Chip) : Fired × Chip :=
  let x := c.core k
  let hits (i : Nat) (va : Word) : Bool := x.cmpArmed i && x.watchKind i u && x.cmpHits i va n
  if x.dbg.halted then (.no, c)
  else
    let l := (watches k).filter fun i => vas.any (hits i)
    match fireAll k l ((vas.find? fun va => l.any fun i => hits i va).getD 0) c with
    | (.halt h, c) =>
      if x.slot.isSome then (.no, c.modCore k fun x => { x with dbg := { x.dbg with haltHit := some h } }) else (.halt h, c)
    | r => r

/-- The watches that an access of `n` bytes at `va` matches. -/
def fireWatch (k : Nat) (u : Use) (va : Word) (n : Nat) (c : Chip) : Fired × Chip := fireWatches k u [va] n c

/-! ### Running one instruction -/

/-- What an instruction's own operation gives. -/
inductive Res
  /-- it is complete; execution goes on at the next instruction -/
  | done (c : Chip)
  /-- it raises a precise exception with this cause and csr_eaddr -/
  | trap (c : Chip) (cause : Nat) (addr : Word)
  /-- a comparator halts the core before it -/
  | stop (c : Chip) (hit : Nat)
  /-- a branch: taken, its target, its annul bit -/
  | branch (c : Chip) (taken : Bool) (target : Word) (annul : Bool)
  /-- the core's pc, slot and shadow are already as the instruction leaves them (ERET) -/
  | jumped (c : Chip)
  /-- SYSCALL: complete, then the exception, with csr_epc the instruction that would follow (R111) -/
  | syscall (c : Chip) (code : Nat)
  /-- the instruction waits and has not completed (LNEXT, SNEXT, SBAR, a full log) -/
  | hold (c : Chip)

/-- What decode says of an instruction before it runs: its word, whether it is a branch or ERET (R88), privileged, of
coprocessor `cp`, or an illegal word (R66). -/
structure Decoded where
  word : Word
  noSlot : Bool
  sup : Bool
  cp : Option Nat
  illegal : Bool
  deriving DecidableEq, Repr

/-- An instruction with nothing special about it. -/
def plain (w : Word) : Decoded := ⟨w, false, false, none, false⟩

/-- The core is clocked and released (R546): the main side runs, or for cores 62 and 63 their islands do; its domain is up,
and no unit-fatal error stopped it (R50). -/
def Chip.coreOn (c : Chip) (k : Nat) : Bool :=
  if k < 62 then c.mainRuns && c.domainUp (coreDomain k) && !c.power.urst.contains (coreDomain k)
      && !c.power.failed.contains k && (if k < 32 then c.regBit SYS_RUN_LO k else c.regBit SYS_RUN_HI (k - 32))
  else if k = 62 then c.fu.vdd else c.power.vsb

/-- The core stands between two instructions and can go on: clocked, not halted by debug, no load holding its pipeline. -/
def Chip.coreFree (c : Chip) (k : Nat) : Bool := c.coreOn k && !(c.core k).dbg.halted && !(c.core k).loadHeld

/-- The core can run an instruction now: it is not in WAIT either. -/
def Chip.canRun (c : Chip) (k : Nat) : Bool := c.coreFree k && !(c.core k).waiting

/-- The coprocessors of core `k` (R116, R118). -/
def hasCp (k n : Nat) : Bool := n = 0 || (n = 1 && Core.kind k = 1) || (n = 2 && Core.kind k = 2)

/-- The coprocessor check of R119: csr_eaddr of its exception, if it is absent or disabled. -/
def cpFault (k : Nat) (x : Core) (n : Nat) : Option Word :=
  if !hasCp k n then some (Word.of n)
  else if n = 0 then none
  else if x.status.bit (3 + n) then none else some (Word.of (n + 256))

/-- The checks of decode in the order of R110: illegal, slot fault, privilege, coprocessor.  A coprocessor instruction
whose coprocessor is absent or disabled is not otherwise checked (R119). -/
def decodeFault (k : Nat) (x : Core) (d : Decoded) : Option (Nat × Word) :=
  let cpf := match d.cp with | some n => cpFault k x n | none => none
  if d.illegal && cpf.isNone then some (0x01, d.word)
  else if d.noSlot && x.slot.isSome then some (0x02, d.word)
  else if d.sup && !x.sup then some (0x03, d.word)
  else match cpf with
    | some a => some (0x04, a)
    | none => none

/-- The fetch at the pc (R91, R107, R110, R143): its exception, or the instruction line it reads. -/
def fetchFault (k : Nat) (c : Chip) : Option (Nat × Word) × Chip :=
  let x := c.core k
  if x.pc.toNat % 4 != 0 then (some (0x05, x.pc), c)
  else match translate k .fetch x.pc c with
    | (none, c) => (some (0x06, x.pc), c)
    | (some p, c) =>
      if inOrder k && !inOwnCode k p.pa then (some (0x06, x.pc), c)
      else
        let l := busLoad k false p.pa 4 c
        if l.err then (some (0x06, x.pc), l.chip)
        else if l.poison then (some (0x0C, x.pc), l.chip.poisonRecord k p.pa)
        else
          (none, if inOrder k then l.chip.modCore k (fun x => { x with line := some (x.pc &&& 0xFFFFFFE0) })
            else if p.cached then mayMiss k 0x0A (mayMiss k 0x08 l.chip) else l.chip)

/-- The instruction at the pc completes: one position of the shadow passes, the slot's continuation or the next word
follows, and it retires (R77, R86, R156). -/
def Core.advance (k : Nat) (x : Core) : Core :=
  let x := x.passPosition
  let x := match x.slot with
    | some s => { x with pc := s.cont, slot := none }
    | none => { x with pc := x.pc + 4 }
  x.retire k

/-- A branch completes (R86): its slot comes next, annulled where the annul bit is set and the branch is not taken. -/
def Core.branch (k : Nat) (x : Core) (taken : Bool) (target : Word) (annul : Bool) : Core :=
  let x := x.passPosition
  let x := { x with
    slot := some ⟨if taken then target else x.pc + 8, annul && !taken⟩
    pc := x.pc + 4 }
  (x.retire k).event k 0x03

/-- Outside a branch and slot pair, a halt that a watch in a slot asked for is taken (R89), and a single step under debug is over
(R610): the core halts with cause STEP. -/
def endStep (k : Nat) (c : Chip) : Chip :=
  let x := c.core k
  if x.slot.isSome || x.dbg.halted then c
  else match x.dbg.haltHit with
    | some h => haltCore k (2 + 4 * x.dbg.stepping.toNat) h c
    | none => if x.dbg.stepping then haltCore k 4 0 c else c

/-- What follows from the result of an instruction. -/
def settle (k : Nat) (r : Res) : Chip :=
  match r with
  | .done c => endStep k (c.modCore k (Core.advance k))
  | .trap c cause addr => endStep k (c.modCore k fun x => x.trap cause addr)
  | .stop c hit => haltCore k 2 hit c
  | .branch c t a n => c.modCore k fun x => x.branch k t a n
  | .jumped c => endStep k (c.modCore k (Core.retire k))
  | .syscall c code =>
    endStep k (c.modCore k fun x => let x := x.advance k; x.enter 0x0D (Word.of code) x.pc none)
  | .hold c => c

/-- The instruction's operation on core `k`, under its condition (R65) and the checks of decode. -/
def operate (k : Nat) (cond : BitVec 4) (d : Decoded) (op : Chip → Res) (c : Chip) : Res :=
  let x := c.core k
  if cond = 8 then .done c
  else if d.noSlot && x.slot.isSome then
    (match decodeFault k x { d with illegal := d.illegal && condTrue x.q cond } with
    | some (cause, a) => .trap c cause a
    | none => .done c)
  else if !condTrue x.q cond then .done c
  else match decodeFault k x d with
    | some (cause, a) => .trap c cause a
    | none => op c

/-- A Courier's predictor after a branch at `pc` resolves (R124, R125, R128): the counter of a conditional branch moves
towards the outcome, the outcome enters H, and a taken branch writes the target buffer as it retires.  The manual does not say how a
counter moves, nor what H holds of a mispredicted branch: it saturates, and H holds the outcome (log entry 163).  Nor does it
organise the target buffer: any of its entries serves any branch, and the oldest is replaced (log entry 164). -/
def Predictor.train (p : Predictor) (pc : Word) (conditional taken : Bool) (target : Word) : Predictor :=
  let i := Nat.xor (pc.bits 15 2) p.hist
  let v := sget (fun _ => 0) p.dir i
  let p := if conditional then
      { p with
        dir := sset (fun _ => 0) p.dir i (if taken then min 3 (v + 1) else v - 1)
        hist := (p.hist * 2 + taken.toNat) % 2 ^ 14 }
    else p
  if taken then { p with target := ((pc, target) :: p.target.filter fun e => e.1 != pc).take 2048 } else p

/-- Train the predictor of a Courier with the branch that `r` completes. -/
def trainWith (k : Nat) (cond : BitVec 4) (r : Res) : Res :=
  match r with
  | .branch c t a n =>
    if k < 8 then .branch (c.modCore k fun x => { x with pred := x.pred.train x.pc (cond != 0) t a }) t a n else r
  | _ => r

/-- A branch under its condition: not taken where it is false (R86). -/
def operateBranch (k : Nat) (cond : BitVec 4) (annul : Bool) (d : Decoded) (op : Chip → Res) (c : Chip) : Res :=
  let x := c.core k
  if cond = 8 then .done c
  else match decodeFault k x d with
    | some (cause, a) => .trap c cause a
    | none => trainWith k cond (if condTrue x.q cond then op c else .branch c false 0 annul)

/-! ### Interrupt points (R112, R113, R608) -/

/-- A store bus error that has arrived is reported at an interrupt point, ahead of interrupts, whatever IE holds: the
oldest first, with csr_epc the first instruction not yet performed (R112). -/
def reportBusError (k : Nat) (c : Chip) : Chip :=
  let x := c.core k
  match x.busErrs, x.slot with
  | a :: t, none => endStep k (c.setCore k ({ x with busErrs := t }.enter 0x0B a x.pc none))
  | _, _ => c

/-- An LDRAW of sorter core `k` is not over (R277). -/
def Chip.drawingOn (c : Chip) (k : Nat) : Bool :=
  within 8 56 k && (match (c.comp (k - 8)).held with | some h => h.drawing | none => false)

/-- An interrupt is pending towards core `k`, enabled, and not held off by a single step (R113, R610). -/
def Chip.irqDue (c : Chip) (k : Nat) : Bool :=
  coreIrq k c && (c.core k).status.bit 1 && (!(c.core k).dbg.stepping || c.fb DBG_CTL_STEP_IRQ)

/-- The interrupt entry of core `k` (R113, R114): cause 0x10, csr_eaddr 0, csr_epc the instruction not yet performed.  In a single
step the step halts at the handler's first instruction (R610). -/
def enterInterrupt (k : Nat) (c : Chip) : Chip :=
  let x := c.core k
  let c := (c.setCore k (x.enter 0x10 0 x.pc none)).interruptEntered k
  if x.dbg.stepping then haltCore k 4 0 c else c

/-- Core `k` stands at an interrupt point: not inside a branch and slot pair, nor in an LDRAW. -/
def Chip.atPoint (c : Chip) (k : Nat) : Bool := (c.core k).slot.isNone && !c.drawingOn k

/-- What core `k` does at an interrupt point before its next instruction: a requested halt (R608), a store bus error (R112), an interrupt
(R113). -/
def pointEvent (k : Nat) (c : Chip) : Option Chip :=
  let x := c.core k
  if !c.atPoint k then none
  else if x.dbg.haltReq then some (haltCore k 1 0 c)
  else if x.busErrs != [] then some (reportBusError k c)
  else if c.irqDue k then some (enterInterrupt k c)
  else none

/-- An overflow flag that was not set before raises private source 30 where OVFIE is 1 (R154). -/
def pmcIrq (k : Nat) (old : Word) (c : Chip) : Chip :=
  let x := c.core k
  if x.pmctl.bit 10 && x.pmovf &&& ~~~old != 0 then raisePrivate k 30 c else c

/-- The breakpoint exception of an instruction whose operation is `r`, with the chip `c` before it: an exception that ranks higher is
reported in its place (R110). -/
def breakpointTrap (a : Word) (r : Res) (c : Chip) : Res :=
  match r with
  | .trap d cause addr => .trap d cause addr
  | .syscall d code => .syscall d code
  | _ => .trap c 0x0E a

/-- Core `k` fetches the instruction at its pc and runs it: the fetch's exception; the breakpoints; then the operation `body`. -/
def perform (k : Nat) (branch : Bool) (body : Chip → Res) (c : Chip) : Chip :=
  match fetchFault k (c.modCore k Core.ripen) with
  | (some (cause, a), c) => settle k (.trap c cause a)
  | (none, c) =>
    match fireBreak k branch c with
    | (.halt h, c) => settle k (.stop c h)
    | (.trap a, c) => settle k (breakpointTrap a (body c) c)
    | (.no, c) => settle k (body c)

/-- Core `k` comes to the instruction at its pc: nothing where the core cannot run; what is due at the interrupt point before it; an
annulled slot, which is not decoded (R88); or the instruction. -/
def runAt (k : Nat) (branch : Bool) (body : Chip → Res) (c : Chip) : Chip :=
  if !c.canRun k then c
  else match pointEvent k c with
    | some d => d
    | none =>
      pmcIrq k (c.core k).pmovf
        (if (match (c.core k).slot with | some s => s.annulled | none => false) then endStep k (c.modCore k (Core.advance k))
        else perform k branch body c)

/-- A command that runs an ordinary instruction on core `k`. -/
def instr (k : Nat) (cond : BitVec 4) (d : Decoded) (op : Chip → Res) (s : State) : Out :=
  s.go (runAt k false (operate k cond d op))

/-- A command that runs a branch on core `k`. -/
def instrBranch (k : Nat) (cond : BitVec 4) (annul : Bool) (d : Decoded) (op : Chip → Res) (s : State) : Out :=
  s.go (runAt k true (operateBranch k cond annul d op))

/-! ### Bodies of the common shapes -/

/-- A change of the core alone. -/
def onCore (k : Nat) (f : Core → Core) (c : Chip) : Res := .done (c.modCore k f)

/-- A load's operation `read` after its watches have fired (R614): an exception of the read ranks above the breakpoint (R110). -/
def watchedRead (f : Fired × Chip) (read : Chip → Res) : Res :=
  match f with
  | (.halt h, c) => .stop c h
  | (.trap a, c) => breakpointTrap a (read c) c
  | (.no, c) => read c

/-- A store's operation `write` after its watches have fired (R614): its own bus error is imprecise, so that the breakpoint ranks above
it (R110). -/
def watchedWrite (f : Fired × Chip) (write : Chip → Res) : Res :=
  match f with
  | (.halt h, c) => .stop c h
  | (.trap a, c) => .trap c 0x0E a
  | (.no, c) => write c

/-- The operation of a load whose places are known. -/
def loadPlaced (k n : Nat) (ea : Word) (ps : List (Phys × Nat)) (f : Nat → Core → Core) (c : Chip) : Res :=
  if c.accessWaits k false ps then .hold c
  else watchedRead (fireWatch k .load ea n c) fun c =>
    match finishLoad k ea ps c with
    | (.trap cause a, c) => .trap c cause a
    | (.value v, c) => .done (c.modCore k (f v))

/-- The operation of a store whose places are known. -/
def storePlaced (k n : Nat) (ea : Word) (ps : List (Phys × Nat)) (v : Nat) (f : Core → Core) (c : Chip) : Res :=
  if c.accessWaits k true ps then .hold c
  else watchedWrite (fireWatch k .store ea n c) fun c =>
    match finishStore k ea ps (leBytes n v) c with
    | (true, c) => .hold c
    | (false, c) => .done (c.modCore k f)

/-- A load of `n` bytes at `ea` with its exceptions and watches; `f` puts the value into the core (R81, R110, R614). -/
def loadBody (k n : Nat) (locked : Bool) (ea : Word) (f : Nat → List (Phys × Nat) → Core → Core) (c : Chip) : Res :=
  match checkAccess k .load ea n locked c with
  | (.error (cause, a), c) => .trap c cause a
  | (.ok ps, c) => loadPlaced k n ea ps (fun v => f v ps) c

/-- A store of `n` bytes at `ea` (R81, R112, R614); `f` is what else it does to the core. -/
def storeBody (k n : Nat) (locked : Bool) (ea : Word) (v : Nat) (f : Core → Core) (c : Chip) : Res :=
  match checkAccess k .store ea n locked c with
  | (.error (cause, a), c) => .trap c cause a
  | (.ok ps, c) => storePlaced k n ea ps v f c

end Sys2Proof.Machine
end

