-- ==== Sys2Proof/Machine/Alu.lean ====
section
/-! DEFINITION. The integer, lane and predicate instructions (R69 to R74). -/

namespace Sys2Proof.Machine

/-- An instruction word whose checks of decode cannot fail and whose word no exception reports. -/
def ordinary : Decoded := plain 0

/-- g[rd] = f g[ra] g[rb]. -/
def alu2 (k rd ra rb : Nat) (f : Word → Word → Word) : Chip → Res := onCore k fun x => x.wr rd (f (x.rd ra) (x.rd rb))

/-- g[rd] = f g[ra]. -/
def alu1 (k rd ra : Nat) (f : Word → Word) : Chip → Res := onCore k fun x => x.wr rd (f (x.rd ra))

/-- Leading zero bits, 0 to 32. -/
def clz32 (a : Word) : Word := Word.of (if a = 0 then 32 else 31 - a.toNat.log2)

/-- Lane i of the result is lane sel[2i+1:2i]. -/
def permLanes (a : Word) (sel : Nat) : Word :=
  Word.of ((List.range 4).foldl (fun r i => r + (let l := nbits sel (2 * i + 1) (2 * i); a.bits (8 * l + 7) (8 * l)) * 256 ^ i) 0)

/-- A lane operation on the four unsigned bytes (R71). -/
def lanes (f : Nat → Nat → Nat) (a b : Word) : Word :=
  Word.of ((List.range 4).foldl (fun r i => r + f (a.bits (8 * i + 7) (8 * i)) (b.bits (8 * i + 7) (8 * i)) % 256 * 256 ^ i) 0)

/-- The sum of absolute lane differences (R71). -/
def sumAbs (a b : Word) : Word :=
  Word.of ((List.range 4).foldl
    (fun r i => let x := a.bits (8 * i + 7) (8 * i); let y := b.bits (8 * i + 7) (8 * i); r + ((x - y) + (y - x))) 0)

/-- SHI (R70): kind 0 SLL, 1 SRL, 2 SRA, 3 ROR. -/
def shiftBy (kind n : Nat) (a : Word) : Word :=
  match kind with
  | 0 => a <<< n
  | 1 => a >>> n
  | 2 => a.sshiftRight n
  | _ => a.rotateRight n

/-- The predicates as MFQ packs them: bit 0 reads 1. -/
def packPredicates (q : BitVec 8) : Word := Word.of (q.toNat / 2 * 2 + 1)

/-- The predicates as MTQ unpacks them: q1 to q7. -/
def unpackPredicates (a : Word) : BitVec 8 := BitVec.ofNat 8 (a.toNat % 256 / 2 * 2)

/-- A compare result combined into q[qd] (R73). -/
def Core.setQ (x : Core) (qd comb : Nat) (r : Bool) : Core :=
  { x with q := setPredicate x.q qd (combine comb (predicate x.q qd) r) }

/-- CMPI: for cc 6 and 7, imm9[8:5] must be 0 (R72, R66). -/
def cmpiDecoded (cond : BitVec 4) (qd : BitVec 3) (comb : BitVec 2) (ra : BitVec 5) (cc : BitVec 3) (imm : BitVec 9) : Decoded :=
  ⟨cond ++ (0x05 : BitVec 6) ++ qd ++ comb ++ ra ++ cc ++ imm, false, false, none, Nat.ble 6 cc.toNat && Nat.ble 32 imm.toNat⟩

/-- Predicate logic: an op of 3 is unassigned (R74, R66). -/
def predDecoded (cond : BitVec 4) (qd qa qb : BitVec 3) (na nb : Bool) (op : BitVec 2) : Decoded :=
  ⟨cond ++ (0x03 : BitVec 6) ++ qd ++ qa ++ qb ++ BitVec.ofBool na ++ BitVec.ofBool nb ++ (0 : BitVec 9) ++ op, false, false,
    none, op == 3⟩

/-- ADD (R69): g[rd] = g[ra] + g[rb]. -/
def bodyAdd (k : Nat) (rd ra rb : BitVec 5) : Chip → Res :=
  alu2 k rd.toNat ra.toNat rb.toNat (fun a b => a + b)
/-- The command ADD on core `k` under `cond`. -/
def execAdd (k : Fin 64) (cond : BitVec 4) (rd ra rb : BitVec 5) (s : State) : Out := instr k cond ordinary (bodyAdd k rd ra rb) s

/-- SUB (R69): g[rd] = g[ra] - g[rb]. -/
def bodySub (k : Nat) (rd ra rb : BitVec 5) : Chip → Res :=
  alu2 k rd.toNat ra.toNat rb.toNat (fun a b => a - b)
/-- The command SUB on core `k` under `cond`. -/
def execSub (k : Fin 64) (cond : BitVec 4) (rd ra rb : BitVec 5) (s : State) : Out := instr k cond ordinary (bodySub k rd ra rb) s

/-- AND (R69): g[rd] = g[ra] and g[rb]. -/
def bodyAnd (k : Nat) (rd ra rb : BitVec 5) : Chip → Res :=
  alu2 k rd.toNat ra.toNat rb.toNat (fun a b => a &&& b)
/-- The command AND on core `k` under `cond`. -/
def execAnd (k : Fin 64) (cond : BitVec 4) (rd ra rb : BitVec 5) (s : State) : Out := instr k cond ordinary (bodyAnd k rd ra rb) s

/-- OR (R69): g[rd] = g[ra] or g[rb]. -/
def bodyOr (k : Nat) (rd ra rb : BitVec 5) : Chip → Res :=
  alu2 k rd.toNat ra.toNat rb.toNat (fun a b => a ||| b)
/-- The command OR on core `k` under `cond`. -/
def execOr (k : Fin 64) (cond : BitVec 4) (rd ra rb : BitVec 5) (s : State) : Out := instr k cond ordinary (bodyOr k rd ra rb) s

/-- XOR (R69): g[rd] = g[ra] xor g[rb]. -/
def bodyXor (k : Nat) (rd ra rb : BitVec 5) : Chip → Res :=
  alu2 k rd.toNat ra.toNat rb.toNat (fun a b => a ^^^ b)
/-- The command XOR on core `k` under `cond`. -/
def execXor (k : Fin 64) (cond : BitVec 4) (rd ra rb : BitVec 5) (s : State) : Out := instr k cond ordinary (bodyXor k rd ra rb) s

/-- ANDN (R69): g[rd] = g[ra] and not g[rb]. -/
def bodyAndn (k : Nat) (rd ra rb : BitVec 5) : Chip → Res :=
  alu2 k rd.toNat ra.toNat rb.toNat (fun a b => a &&& ~~~b)
/-- The command ANDN on core `k` under `cond`. -/
def execAndn (k : Fin 64) (cond : BitVec 4) (rd ra rb : BitVec 5) (s : State) : Out := instr k cond ordinary (bodyAndn k rd ra rb) s

/-- NOR (R69): g[rd] = not (g[ra] or g[rb]). -/
def bodyNor (k : Nat) (rd ra rb : BitVec 5) : Chip → Res :=
  alu2 k rd.toNat ra.toNat rb.toNat (fun a b => ~~~(a ||| b))
/-- The command NOR on core `k` under `cond`. -/
def execNor (k : Fin 64) (cond : BitVec 4) (rd ra rb : BitVec 5) (s : State) : Out := instr k cond ordinary (bodyNor k rd ra rb) s

/-- SLL (R69): g[rd] = g[ra] << g[rb][4:0]. -/
def bodySll (k : Nat) (rd ra rb : BitVec 5) : Chip → Res :=
  alu2 k rd.toNat ra.toNat rb.toNat (fun a b => a <<< (b.toNat % 32))
/-- The command SLL on core `k` under `cond`. -/
def execSll (k : Fin 64) (cond : BitVec 4) (rd ra rb : BitVec 5) (s : State) : Out := instr k cond ordinary (bodySll k rd ra rb) s

/-- SRL (R69): g[rd] = g[ra] >> g[rb][4:0]. -/
def bodySrl (k : Nat) (rd ra rb : BitVec 5) : Chip → Res :=
  alu2 k rd.toNat ra.toNat rb.toNat (fun a b => a >>> (b.toNat % 32))
/-- The command SRL on core `k` under `cond`. -/
def execSrl (k : Fin 64) (cond : BitVec 4) (rd ra rb : BitVec 5) (s : State) : Out := instr k cond ordinary (bodySrl k rd ra rb) s

/-- SRA (R69): g[rd] = g[ra] >>s g[rb][4:0]. -/
def bodySra (k : Nat) (rd ra rb : BitVec 5) : Chip → Res :=
  alu2 k rd.toNat ra.toNat rb.toNat (fun a b => a.sshiftRight (b.toNat % 32))
/-- The command SRA on core `k` under `cond`. -/
def execSra (k : Fin 64) (cond : BitVec 4) (rd ra rb : BitVec 5) (s : State) : Out := instr k cond ordinary (bodySra k rd ra rb) s

/-- ROR (R69): g[rd] = g[ra] rotated right by g[rb][4:0]. -/
def bodyRor (k : Nat) (rd ra rb : BitVec 5) : Chip → Res :=
  alu2 k rd.toNat ra.toNat rb.toNat (fun a b => a.rotateRight (b.toNat % 32))
/-- The command ROR on core `k` under `cond`. -/
def execRor (k : Fin 64) (cond : BitVec 4) (rd ra rb : BitVec 5) (s : State) : Out := instr k cond ordinary (bodyRor k rd ra rb) s

/-- MIN (R69): g[rd] = signed minimum. -/
def bodyMin (k : Nat) (rd ra rb : BitVec 5) : Chip → Res :=
  alu2 k rd.toNat ra.toNat rb.toNat (fun a b => if a.slt b then a else b)
/-- The command MIN on core `k` under `cond`. -/
def execMin (k : Fin 64) (cond : BitVec 4) (rd ra rb : BitVec 5) (s : State) : Out := instr k cond ordinary (bodyMin k rd ra rb) s

/-- MAX (R69): g[rd] = signed maximum. -/
def bodyMax (k : Nat) (rd ra rb : BitVec 5) : Chip → Res :=
  alu2 k rd.toNat ra.toNat rb.toNat (fun a b => if a.slt b then b else a)
/-- The command MAX on core `k` under `cond`. -/
def execMax (k : Fin 64) (cond : BitVec 4) (rd ra rb : BitVec 5) (s : State) : Out := instr k cond ordinary (bodyMax k rd ra rb) s

/-- MINU (R69): g[rd] = unsigned minimum. -/
def bodyMinu (k : Nat) (rd ra rb : BitVec 5) : Chip → Res :=
  alu2 k rd.toNat ra.toNat rb.toNat (fun a b => if a.ult b then a else b)
/-- The command MINU on core `k` under `cond`. -/
def execMinu (k : Fin 64) (cond : BitVec 4) (rd ra rb : BitVec 5) (s : State) : Out := instr k cond ordinary (bodyMinu k rd ra rb) s

/-- MAXU (R69): g[rd] = unsigned maximum. -/
def bodyMaxu (k : Nat) (rd ra rb : BitVec 5) : Chip → Res :=
  alu2 k rd.toNat ra.toNat rb.toNat (fun a b => if a.ult b then b else a)
/-- The command MAXU on core `k` under `cond`. -/
def execMaxu (k : Fin 64) (cond : BitVec 4) (rd ra rb : BitVec 5) (s : State) : Out := instr k cond ordinary (bodyMaxu k rd ra rb) s

/-- CLZ (R69): g[rd] = number of leading zero bits of g[ra]. -/
def bodyClz (k : Nat) (rd ra : BitVec 5) : Chip → Res :=
  alu1 k rd.toNat ra.toNat (clz32)
/-- The command CLZ on core `k` under `cond`. -/
def execClz (k : Fin 64) (cond : BitVec 4) (rd ra : BitVec 5) (s : State) : Out := instr k cond ordinary (bodyClz k rd ra) s

/-- POPC (R69): g[rd] = number of 1 bits of g[ra]. -/
def bodyPopc (k : Nat) (rd ra : BitVec 5) : Chip → Res :=
  alu1 k rd.toNat ra.toNat (fun a => Word.of (popcount 32 a.toNat))
/-- The command POPC on core `k` under `cond`. -/
def execPopc (k : Fin 64) (cond : BitVec 4) (rd ra : BitVec 5) (s : State) : Out := instr k cond ordinary (bodyPopc k rd ra) s

/-- SEXB (R69): g[rd] = sext(g[ra][7:0]). -/
def bodySexb (k : Nat) (rd ra : BitVec 5) : Chip → Res :=
  alu1 k rd.toNat ra.toNat (fun a => (a.truncate 8).signExtend 32)
/-- The command SEXB on core `k` under `cond`. -/
def execSexb (k : Fin 64) (cond : BitVec 4) (rd ra : BitVec 5) (s : State) : Out := instr k cond ordinary (bodySexb k rd ra) s

/-- SEXH (R69): g[rd] = sext(g[ra][15:0]). -/
def bodySexh (k : Nat) (rd ra : BitVec 5) : Chip → Res :=
  alu1 k rd.toNat ra.toNat (fun a => (a.truncate 16).signExtend 32)
/-- The command SEXH on core `k` under `cond`. -/
def execSexh (k : Fin 64) (cond : BitVec 4) (rd ra : BitVec 5) (s : State) : Out := instr k cond ordinary (bodySexh k rd ra) s

/-- ZEXH (R69): g[rd] = zext(g[ra][15:0]). -/
def bodyZexh (k : Nat) (rd ra : BitVec 5) : Chip → Res :=
  alu1 k rd.toNat ra.toNat (fun a => (a.truncate 16).zeroExtend 32)
/-- The command ZEXH on core `k` under `cond`. -/
def execZexh (k : Fin 64) (cond : BitVec 4) (rd ra : BitVec 5) (s : State) : Out := instr k cond ordinary (bodyZexh k rd ra) s

/-- BSWAP (R69): g[rd] = the byte lanes reversed. -/
def bodyBswap (k : Nat) (rd ra : BitVec 5) : Chip → Res :=
  alu1 k rd.toNat ra.toNat (fun a => permLanes a 0x1B)
/-- The command BSWAP on core `k` under `cond`. -/
def execBswap (k : Fin 64) (cond : BitVec 4) (rd ra : BitVec 5) (s : State) : Out := instr k cond ordinary (bodyBswap k rd ra) s

/-- MFQ (R69): g[rd] = the predicates, bit 0 reading 1. -/
def bodyMfq (k : Nat) (rd : BitVec 5) : Chip → Res :=
  onCore k fun x => x.wr rd.toNat (packPredicates x.q)
/-- The command MFQ on core `k` under `cond`. -/
def execMfq (k : Fin 64) (cond : BitVec 4) (rd : BitVec 5) (s : State) : Out := instr k cond ordinary (bodyMfq k rd) s

/-- MTQ (R69): q[n] = g[ra][n] for n = 1 to 7. -/
def bodyMtq (k : Nat) (ra : BitVec 5) : Chip → Res :=
  onCore k fun x => { x with q := unpackPredicates (x.rd ra.toNat) }
/-- The command MTQ on core `k` under `cond`. -/
def execMtq (k : Fin 64) (cond : BitVec 4) (ra : BitVec 5) (s : State) : Out := instr k cond ordinary (bodyMtq k ra) s

/-- ADDI (R70): g[rd] = g[ra] + sext(imm12). -/
def bodyAddi (k : Nat) (rd ra : BitVec 5) (imm : BitVec 12) : Chip → Res :=
  alu1 k rd.toNat ra.toNat (fun a => a + imm.signExtend 32)
/-- The command ADDI on core `k` under `cond`. -/
def execAddi (k : Fin 64) (cond : BitVec 4) (rd ra : BitVec 5) (imm : BitVec 12) (s : State) : Out := instr k cond ordinary (bodyAddi k rd ra imm) s

/-- ANDI (R70): g[rd] = g[ra] and zext(imm12). -/
def bodyAndi (k : Nat) (rd ra : BitVec 5) (imm : BitVec 12) : Chip → Res :=
  alu1 k rd.toNat ra.toNat (fun a => a &&& imm.zeroExtend 32)
/-- The command ANDI on core `k` under `cond`. -/
def execAndi (k : Fin 64) (cond : BitVec 4) (rd ra : BitVec 5) (imm : BitVec 12) (s : State) : Out := instr k cond ordinary (bodyAndi k rd ra imm) s

/-- ORI (R70): g[rd] = g[ra] or zext(imm12). -/
def bodyOri (k : Nat) (rd ra : BitVec 5) (imm : BitVec 12) : Chip → Res :=
  alu1 k rd.toNat ra.toNat (fun a => a ||| imm.zeroExtend 32)
/-- The command ORI on core `k` under `cond`. -/
def execOri (k : Fin 64) (cond : BitVec 4) (rd ra : BitVec 5) (imm : BitVec 12) (s : State) : Out := instr k cond ordinary (bodyOri k rd ra imm) s

/-- XORI (R70): g[rd] = g[ra] xor zext(imm12). -/
def bodyXori (k : Nat) (rd ra : BitVec 5) (imm : BitVec 12) : Chip → Res :=
  alu1 k rd.toNat ra.toNat (fun a => a ^^^ imm.zeroExtend 32)
/-- The command XORI on core `k` under `cond`. -/
def execXori (k : Fin 64) (cond : BitVec 4) (rd ra : BitVec 5) (imm : BitVec 12) (s : State) : Out := instr k cond ordinary (bodyXori k rd ra imm) s

/-- SHI (R70): a shift or rotate by n; kind 0 SLL, 1 SRL, 2 SRA, 3 ROR. -/
def bodyShi (k : Nat) (rd ra : BitVec 5) (kind : BitVec 2) (n : BitVec 5) : Chip → Res :=
  alu1 k rd.toNat ra.toNat (shiftBy kind.toNat n.toNat)
/-- The command SHI on core `k` under `cond`. -/
def execShi (k : Fin 64) (cond : BitVec 4) (rd ra : BitVec 5) (kind : BitVec 2) (n : BitVec 5) (s : State) : Out := instr k cond ordinary (bodyShi k rd ra kind n) s

/-- LUI (R70): g[rd] = imm16 << 16. -/
def bodyLui (k : Nat) (rd : BitVec 5) (imm : BitVec 16) : Chip → Res :=
  onCore k fun x => x.wr rd.toNat (imm.zeroExtend 32 <<< 16)
/-- The command LUI on core `k` under `cond`. -/
def execLui (k : Fin 64) (cond : BitVec 4) (rd : BitVec 5) (imm : BitVec 16) (s : State) : Out := instr k cond ordinary (bodyLui k rd imm) s

/-- LLI (R70): the lower half of g[rd] replaced by imm16. -/
def bodyLli (k : Nat) (rd : BitVec 5) (imm : BitVec 16) : Chip → Res :=
  onCore k fun x => x.wr rd.toNat ((x.rd rd.toNat &&& 0xFFFF0000) ||| imm.zeroExtend 32)
/-- The command LLI on core `k` under `cond`. -/
def execLli (k : Fin 64) (cond : BitVec 4) (rd : BitVec 5) (imm : BitVec 16) (s : State) : Out := instr k cond ordinary (bodyLli k rd imm) s

/-- PERMB (R70): lane i of g[rd] = lane sel[2i+1:2i] of g[ra]. -/
def bodyPermb (k : Nat) (rd ra : BitVec 5) (sel : BitVec 8) : Chip → Res :=
  alu1 k rd.toNat ra.toNat (fun a => permLanes a sel.toNat)
/-- The command PERMB on core `k` under `cond`. -/
def execPermb (k : Fin 64) (cond : BitVec 4) (rd ra : BitVec 5) (sel : BitVec 8) (s : State) : Out := instr k cond ordinary (bodyPermb k rd ra sel) s

/-- ADDB (R71): in each lane, (a + b) mod 256. -/
def bodyAddb (k : Nat) (rd ra rb : BitVec 5) : Chip → Res :=
  alu2 k rd.toNat ra.toNat rb.toNat (lanes (fun a b => (a + b) % 256))
/-- The command ADDB on core `k` under `cond`. -/
def execAddb (k : Fin 64) (cond : BitVec 4) (rd ra rb : BitVec 5) (s : State) : Out := instr k cond ordinary (bodyAddb k rd ra rb) s

/-- SUBB (R71): in each lane, (a - b) mod 256. -/
def bodySubb (k : Nat) (rd ra rb : BitVec 5) : Chip → Res :=
  alu2 k rd.toNat ra.toNat rb.toNat (lanes (fun a b => (a + 256 - b) % 256))
/-- The command SUBB on core `k` under `cond`. -/
def execSubb (k : Fin 64) (cond : BitVec 4) (rd ra rb : BitVec 5) (s : State) : Out := instr k cond ordinary (bodySubb k rd ra rb) s

/-- ADDUSB (R71): in each lane, min(255, a + b). -/
def bodyAddusb (k : Nat) (rd ra rb : BitVec 5) : Chip → Res :=
  alu2 k rd.toNat ra.toNat rb.toNat (lanes (fun a b => Nat.min 255 (a + b)))
/-- The command ADDUSB on core `k` under `cond`. -/
def execAddusb (k : Fin 64) (cond : BitVec 4) (rd ra rb : BitVec 5) (s : State) : Out := instr k cond ordinary (bodyAddusb k rd ra rb) s

/-- SUBUSB (R71): in each lane, max(0, a - b). -/
def bodySubusb (k : Nat) (rd ra rb : BitVec 5) : Chip → Res :=
  alu2 k rd.toNat ra.toNat rb.toNat (lanes (fun a b => a - b))
/-- The command SUBUSB on core `k` under `cond`. -/
def execSubusb (k : Fin 64) (cond : BitVec 4) (rd ra rb : BitVec 5) (s : State) : Out := instr k cond ordinary (bodySubusb k rd ra rb) s

/-- MINUB (R71): in each lane, min(a, b). -/
def bodyMinub (k : Nat) (rd ra rb : BitVec 5) : Chip → Res :=
  alu2 k rd.toNat ra.toNat rb.toNat (lanes (fun a b => Nat.min a b))
/-- The command MINUB on core `k` under `cond`. -/
def execMinub (k : Fin 64) (cond : BitVec 4) (rd ra rb : BitVec 5) (s : State) : Out := instr k cond ordinary (bodyMinub k rd ra rb) s

/-- MAXUB (R71): in each lane, max(a, b). -/
def bodyMaxub (k : Nat) (rd ra rb : BitVec 5) : Chip → Res :=
  alu2 k rd.toNat ra.toNat rb.toNat (lanes (fun a b => Nat.max a b))
/-- The command MAXUB on core `k` under `cond`. -/
def execMaxub (k : Fin 64) (cond : BitVec 4) (rd ra rb : BitVec 5) (s : State) : Out := instr k cond ordinary (bodyMaxub k rd ra rb) s

/-- AVGUB (R71): in each lane, (a + b + 1) >> 1. -/
def bodyAvgub (k : Nat) (rd ra rb : BitVec 5) : Chip → Res :=
  alu2 k rd.toNat ra.toNat rb.toNat (lanes (fun a b => (a + b + 1) / 2))
/-- The command AVGUB on core `k` under `cond`. -/
def execAvgub (k : Fin 64) (cond : BitVec 4) (rd ra rb : BitVec 5) (s : State) : Out := instr k cond ordinary (bodyAvgub k rd ra rb) s

/-- CMPEQB (R71): in each lane, 0xff if a = b, else 0. -/
def bodyCmpeqb (k : Nat) (rd ra rb : BitVec 5) : Chip → Res :=
  alu2 k rd.toNat ra.toNat rb.toNat (lanes (fun a b => if a = b then 255 else 0))
/-- The command CMPEQB on core `k` under `cond`. -/
def execCmpeqb (k : Fin 64) (cond : BitVec 4) (rd ra rb : BitVec 5) (s : State) : Out := instr k cond ordinary (bodyCmpeqb k rd ra rb) s

/-- CMPGTUB (R71): in each lane, 0xff if a > b, else 0. -/
def bodyCmpgtub (k : Nat) (rd ra rb : BitVec 5) : Chip → Res :=
  alu2 k rd.toNat ra.toNat rb.toNat (lanes (fun a b => if b < a then 255 else 0))
/-- The command CMPGTUB on core `k` under `cond`. -/
def execCmpgtub (k : Fin 64) (cond : BitVec 4) (rd ra rb : BitVec 5) (s : State) : Out := instr k cond ordinary (bodyCmpgtub k rd ra rb) s

/-- SADUB (R71): g[rd] = the sum over the lanes of abs(a - b). -/
def bodySadub (k : Nat) (rd ra rb : BitVec 5) : Chip → Res :=
  alu2 k rd.toNat ra.toNat rb.toNat sumAbs
/-- The command SADUB on core `k` under `cond`. -/
def execSadub (k : Fin 64) (cond : BitVec 4) (rd ra rb : BitVec 5) (s : State) : Out := instr k cond ordinary (bodySadub k rd ra rb) s

/-- CMP (R72, R73). -/
def bodyCmp (k : Nat) (qd : BitVec 3) (comb : BitVec 2) (ra rb : BitVec 5) (cc : BitVec 3) : Chip → Res :=
  onCore k fun x => x.setQ qd.toNat comb.toNat (cmpResult cc.toNat (x.rd ra.toNat) (x.rd rb.toNat))
/-- The command CMP on core `k` under `cond`. -/
def execCmp (k : Fin 64) (cond : BitVec 4) (qd : BitVec 3) (comb : BitVec 2) (ra rb : BitVec 5) (cc : BitVec 3) (s : State) : Out := instr k cond ordinary (bodyCmp k qd comb ra rb cc) s

/-- CMPI (R72, R73). -/
def bodyCmpi (k : Nat) (qd : BitVec 3) (comb : BitVec 2) (ra : BitVec 5) (cc : BitVec 3) (imm : BitVec 9) : Chip → Res :=
  onCore k fun x => x.setQ qd.toNat comb.toNat (cmpiResult cc.toNat (x.rd ra.toNat) imm)
/-- The command CMPI on core `k` under `cond`. -/
def execCmpi (k : Fin 64) (cond : BitVec 4) (qd : BitVec 3) (comb : BitVec 2) (ra : BitVec 5) (cc : BitVec 3) (imm : BitVec 9) (s : State) : Out := instr k cond (cmpiDecoded cond qd comb ra cc imm) (bodyCmpi k qd comb ra cc imm) s

/-- Predicate logic (R74): q[qd] = (q[qa] xor na) op (q[qb] xor nb); an op of 3 is unassigned (R66). -/
def bodyPredicateLogic (k : Nat) (qd qa qb : BitVec 3) (na nb : Bool) (op : BitVec 2) : Chip → Res :=
  onCore k fun x => { x with q := setPredicate x.q qd.toNat (predLogic op.toNat (xor (predicate x.q qa.toNat) na) (xor (predicate x.q qb.toNat) nb)) }
/-- The command PREDICATE_LOGIC on core `k` under `cond`. -/
def execPredicateLogic (k : Fin 64) (cond : BitVec 4) (qd qa qb : BitVec 3) (na nb : Bool) (op : BitVec 2) (s : State) : Out := instr k cond (predDecoded cond qd qa qb na nb op) (bodyPredicateLogic k qd qa qb na nb op) s

end Sys2Proof.Machine
end

