-- ==== Sys2Proof/Machine/DmaBus.lean ====
section
/-! DEFINITION. The transfers of the DMA channels (R324, R325, R343 to R347, R353, R354). -/

namespace Sys2Proof.Machine

/-- The region is a register block, whose accesses are aligned 32-bit words (R9, R324). -/
def Region.isBlock (r : Region) : Bool := match r with | .block _ => true | _ => false

/-- A DMA read, or write, of `n` bytes at `pa` is permitted by its address (R324, R325). -/
def dmaPermits (write : Bool) (r : Region) (pa n : Nat) : Bool :=
  match r with
  | .block _ => n = 4 && pa % 4 = 0
  | .pcieWindow => true
  | .rom => !write
  | _ => memRegion r

/-- The bytes of a read as a buffer holds them: `bad` where the whole read failed, else 1 for a byte of a poisoned word. -/
def bufBytes (r : Region) (pa n : Nat) (l : Load) : List DmaByte :=
  let bs := leBytes n l.val
  (List.range n).map fun i =>
    let p := if memRegion r then l.chip.wordPoison r (pa + i) || l.chip.deadDram r (pa + i) else l.poison
    ⟨bs.getD i 0, if l.err then 2 else p.toNat⟩

/-- Retries used are counted (R325). -/
def countRetry (i : Nat) (c : Chip) : Chip := c.countF (DMA_CH_STAT_RETRY_USED i)

/-- A channel that may issue accesses: running, with an envelope in progress, its engine not frozen. -/
def Chip.dmaMoves (c : Chip) (i : Nat) : Bool :=
  c.dmaRuns && c.dmaState i = 1 && !c.unitFrozen 8 && (c.dmaCh i).env != []

/-- The next read beat of channel `i`: its address, region and length. -/
def Chip.dmaReadBeat (c : Chip) (i : Nat) : Nat × Region × Nat :=
  let d := c.dmaCh i
  let e := envelope d.env
  let pa := e.srcAt d.rd
  let r := mainRegion c.dramTop pa
  (pa, r, e.unitLen e.sinc r.isBlock pa d.rd)

/-- The next write unit of channel `i`: its address, region and length. -/
def Chip.dmaWriteUnit (c : Chip) (i : Nat) : Nat × Region × Nat :=
  let d := c.dmaCh i
  let e := envelope d.env
  let pa := e.dstAt d.wr
  let r := mainRegion c.dramTop pa
  (pa, r, e.unitLen e.dinc r.isBlock pa d.wr)

/-- A read of channel `i` is due: bytes are left, its enable is set, the buffer has room, and no byte in it has failed. -/
def Chip.dmaReadDue (c : Chip) (i : Nat) : Bool :=
  let d := c.dmaCh i
  c.dmaMoves i && c.regBit DMA_ENABLE i && Nat.blt d.rd (envelope d.env).total
    && Nat.ble (d.buf.length + (c.dmaReadBeat i).2.2) 512 && d.buf.all fun b => b.bad == 0

/-- Bytes that a read left, put into the channel's buffer. -/
def bufferRead (i n : Nat) (l : List DmaByte) (c : Chip) : Chip :=
  c.modDma i fun d => { d with rd := d.rd + n, tries := 0, buf := d.buf ++ l }

/-- The read of channel `i` fails transiently (R325); an emergency cut-off uses up no retry (R202). -/
def dmaReadRetry (i : Nat) (free : Bool) (c : Chip) : Chip :=
  let n := (c.dmaReadBeat i).2.2
  if free then c
  else if c.dmaRetries ≤ (c.dmaCh i).tries then bufferRead i n (List.replicate n ⟨0, 3⟩) c
  else countRetry i (c.modDma i fun d => { d with tries := d.tries + 1 })

/-- The read of channel `i` returns. -/
def dmaReadDone (i : Nat) (c : Chip) : Chip :=
  let (pa, r, n) := c.dmaReadBeat i
  if !dmaPermits false r pa n then bufferRead i n (List.replicate n ⟨0, 2⟩) c
  else
    let l := busLoad (64 + i) false pa n c
    if l.chip.dmaMoves i then bufferRead i n (bufBytes r pa n l) l.chip else l.chip

/-- DMA_READ_RETURN (R343, R353): the next read beat of channel `i` returns, or fails transiently (R325). -/
def execDmaReadReturn (i : Fin 32) (transient : Bool) (s : State) : Out :=
  s.go fun c =>
    if !c.dmaReadDue i then c
    else if transient && dmaPermits false (c.dmaReadBeat i).2.1 (c.dmaReadBeat i).1 (c.dmaReadBeat i).2.2 then dmaReadRetry i false c
    else dmaReadDone i c

/-! ### Write units -/

/-- The envelope ends PARTIAL (R353, R341): CAUSE 1 permanent, 2 retries used up, 3 poisoned. -/
def dmaPartial (i cause off : Nat) (c : Chip) : Chip := dmaHalt i 3 cause off c

/-- The cause that the mark of a bad byte stands for. -/
def badCause (bad : Nat) : Nat := if bad = 1 then 3 else if bad = 2 then 1 else 2

/-- A write unit has ended: `n` bytes are written.  The envelope may be complete; a waiting ABORT or a cleared enable takes
effect at this boundary (R351, R352, R354). -/
def dmaUnitDone (i n : Nat) (c : Chip) : Chip :=
  let late := (c.dmaCh i).abortReq
  let c := c.modDma i fun d => { d with wr := d.wr + n, wtries := 0, buf := d.buf.drop n }
  if Nat.ble (envelope (c.dmaCh i).env).total (c.dmaCh i).wr then
    let c := dmaComplete i late c
    let c := if c.dmaState i = 1 && !c.regBit DMA_ENABLE i then setDmaState i 2 c else c
    dmaUse i 3 c
  else if late then dmaHalt i 2 0 (c.dmaCh i).wr c
  else if c.regBit DMA_ENABLE i then c
  else dmaPauseNow i c

/-- The write of channel `i` fails transiently: a waiting ABORT or a cleared enable takes effect, or it is retried (R325,
R352); an emergency cut-off uses up no retry (R202). -/
def dmaWriteRetry (i : Nat) (free : Bool) (c : Chip) : Chip :=
  let d := c.dmaCh i
  if d.abortReq then dmaHalt i 2 0 d.wr c
  else if !c.regBit DMA_ENABLE i then dmaPauseNow i c
  else if free then c
  else if c.dmaRetries ≤ d.wtries then dmaPartial i 2 d.wr c
  else countRetry i (c.modDma i fun d => { d with wtries := d.wtries + 1 })

/-- The bytes of the write unit's good prefix are stored; then it is done, or the envelope ends at its first bad byte (R353).
A register word is written whole or not at all.  Where an ABORT waits and the unit fails for good or on poison, the envelope reads
PARTIAL and the ABORT is spent: between R352 and R353 the manual leaves this open (log entry 159). -/
def dmaWriteDone (i : Nat) (c : Chip) : Chip :=
  let (pa, r, n) := c.dmaWriteUnit i
  let d := c.dmaCh i
  let u := d.buf.take n
  let good := u.takeWhile fun b => b.bad == 0
  let k := if r.isBlock && good.length != n then 0 else good.length
  let fail (c : Chip) : Chip :=
    match u.getD good.length ⟨0, 0⟩ with
    | b =>
      let c := if b.bad = 1 then c.poisonRecord (64 + i) ((envelope d.env).srcAt (d.wr + good.length)) else c
      dmaPartial i (badCause b.bad) (d.wr + k) c
  if k = 0 then fail c
  else if !dmaPermits true r pa n then dmaPartial i 1 d.wr c
  else
    match busStore (64 + i) pa ((good.take k).map fun b => b.val) c with
    | (true, c) => dmaPartial i 1 d.wr c
    | (false, c) => if !c.dmaMoves i || c.enableHolds (64 + i) then c else if k = n then dmaUnitDone i n c else fail c

/-- The write unit of channel `i` is due: all its bytes are buffered, or the first bad one is; a write to a replication window may have to
wait (R475). -/
def Chip.dmaWriteDue (c : Chip) (i : Nat) : Bool :=
  let d := c.dmaCh i
  let n := (c.dmaWriteUnit i).2.2
  c.dmaMoves i && !c.writeWaits (c.dmaWriteUnit i).1 && !c.enableHolds (64 + i) && (Nat.ble n d.buf.length || d.buf.any fun b => b.bad != 0)

/-- DMA_WRITE_ACK (R353): channel `i`'s write unit is acknowledged, or fails, transiently where the operand says so (R325). -/
def execDmaWriteAck (i : Fin 32) (transient : Bool) (s : State) : Out :=
  s.go fun c =>
    if !c.dmaWriteDue i then c
    else if transient && dmaPermits true (c.dmaWriteUnit i).2.1 (c.dmaWriteUnit i).1 (c.dmaWriteUnit i).2.2
        && ((c.dmaCh i).buf.take (c.dmaWriteUnit i).2.2).all (fun b => b.bad == 0) then dmaWriteRetry i false c
    else dmaWriteDone i c

/-- The waits of `m` are over (R537, R648): a DMA channel whose write was acknowledged so is done with its write unit. -/
def acked (m : List (Option Nat)) (c : Chip) : Chip :=
  forAll (List.range 32) (fun i c =>
    if m.contains (some (64 + i)) && !c.enableHolds (64 + i) && c.dmaMoves i then dmaUnitDone i (c.dmaWriteUnit i).2.2 c else c) c

/-- PMUX_HOLD_END (R535 to R537): the hold ends, and the writes that waited for it are applied and acknowledged. -/
def execPmuxHoldEnd (i : Fin 24) (s : State) : Out :=
  s.go fun c =>
    match sget (fun _ => none) c.pins.hold i with
    | none => c
    | some h => acked (h.deferred.map (·.1)) (applyDeferred i h.deferred (endHold i h c))

/-- The bus error of a cut-off (R56, R199, R202) reaches channel `i`: its waiting write, or read, is retried. -/
def dmaCut (i : Nat) (write emergency : Bool) (c : Chip) : Chip :=
  if write then (if c.dmaWriteDue i then dmaWriteRetry i emergency c else c)
  else if c.dmaReadDue i then dmaReadRetry i emergency c else c

end Sys2Proof.Machine
end

