-- ==== Sys2Proof/Machine/Arbiter.lean ====
section
/-! DEFINITION. The arbiters (R190 to R202): the grant of a beat, emergency pre-emption and the hog cut-off. -/

namespace Sys2Proof.Machine

/-- The masters that issue requests to shared targets (R33, R190). -/
def isMaster (o : Nat) : Bool := o < 62 || within 64 101 o || within 104 108 o || o = 224 || o = 250

/-- The arbiters of the targets that hold `pa` (R190, R201): an array's, or for DRAM the L2 slice's and the channel's. -/
def Chip.arbitersOf (c : Chip) (pa : Nat) : List Nat :=
  let r := mainRegion c.dramTop pa
  match r with
  | .dram => [l2Slice pa, 0xA0 + c.dramChannel pa]
  | _ => if memRegion r then [arrayId r pa] else []

/-- A request that arbiter `arb` can get: of a master, for one beat within an aligned 64-byte block of its target. -/
def Chip.takesReq (c : Chip) (arb : Nat) (r : BusReq) : Bool :=
  isMaster r.origin && (c.arbitersOf r.pa).contains arb && Nat.ble 1 r.bytes.length && Nat.ble (r.pa % 64 + r.bytes.length) 64

/-- Class R (R196): requests of the composers, of the output stages and of the horns. -/
def BusReq.inR (r : BusReq) : Bool := (within 8 56 r.origin && r.classR) || within 56 62 r.origin || within 104 108 r.origin

/-- A class R request comes from a unit in emergency (R198): an output stage or a composer of an output in emergency, or a horn.  In a
paired group either half's emergency counts: the manual does not say which (log entry 160). -/
def Chip.inEmergency (c : Chip) (r : BusReq) : Bool :=
  let o := r.origin
  r.inR &&
  if within 104 108 o then c.emergency (o - 104)
  else if within 8 56 o then
    match c.groupOf (o - 8) with
    | some g => c.emergency g || ((c.grp g).paired && c.emergency (g + 1))
    | none => false
  else (match c.audLead with | some n => Nat.blt n (c.xf MEM_ARB_AUD_EMERG 4) | none => false)

/-- A grant held by a DMA channel or by the Press can be cut off (R195). -/
def cuttable (o : Nat) : Bool := within 64 97 o

/-- The grant in progress at an arbiter. -/
def Chip.grantAt (c : Chip) (arb : Nat) : Option Grant := sget (fun _ => none) c.memc.grant arb

/-- The grant in progress at an arbiter replaced. -/
def Chip.setGrant (c : Chip) (arb : Nat) (g : Option Grant) : Chip :=
  { c with memc := { c.memc with grant := sset (fun _ => none) c.memc.grant arb g } }

/-- The requests waiting at an arbiter. -/
def Chip.waitingAt (c : Chip) (arb : Nat) : List BusReq := sget (fun _ => []) c.memc.waiting arb

/-- The requests waiting at an arbiter replaced. -/
def Chip.setWaiting (c : Chip) (arb : Nat) (q : List BusReq) : Chip :=
  { c with memc := { c.memc with waiting := sset (fun _ => []) c.memc.waiting arb q } }

/-- The beat of a request is performed: a write is stored, a read passes its check (R163, R164); a target that does not answer gives its
master a bus error (R18, R157). -/
def Chip.serve (c : Chip) (r : BusReq) : Chip :=
  let c := match mainRegion c.dramTop r.pa with | .dram => c.openRowOf r.pa | _ => c
  if r.write then (match busStore r.origin r.pa r.bytes c with | (true, c) => c.answerTo r.origin .busError | (false, c) => c)
  else let l := busLoad r.origin false r.pa r.bytes.length c; if l.err then l.chip.answerTo r.origin .busError else l.chip

/-- What a beat of `r` at arbiter `arb` finds: bits flipped in its word, and that the verify read of R163 finds an error there. -/
def Chip.meets (c : Chip) (arb : Nat) (r : BusReq) (upset : BitErr) (hard : Bool) : Chip :=
  let g := mainRegion c.dramTop r.pa
  if upset = ⟨0, 0⟩ then c
  else if arb < 8 then cacheError arb r.pa upset hard false false c
  else
    let c := c.upsetWord g r.pa upset
    if hard && g != .dram then c.setHard (eccKey g r.pa) true else c

/-- A request is a beat of the run of grant `g`: its holder's, of a locked run, within the run's row. -/
def Chip.ofRun (c : Chip) (g : Grant) (r : BusReq) : Bool :=
  r.locked && r.origin == g.origin && mainRegion c.dramTop r.pa == .dram && c.channelByte r.pa / 4096 == g.row

/-- The beat in transfer at arbiter `arb` is complete (R192): a run of beats to come keeps its grant. -/
def completeBeat (arb : Nat) (c : Chip) : Chip :=
  match c.grantAt arb with
  | some g =>
    match g.cur with
    | some r => (c.serve r).setGrant arb (if g.beats = 0 then none else some { g with cur := none })
    | none => c
  | none => c

/-- A locked run whose next beat does not wait at the beat boundary is over: its beats are consecutive (R195). -/
def endRun (arb : Nat) (c : Chip) : Chip :=
  match c.grantAt arb with
  | some g => if (c.waitingAt arb).any (c.ofRun g) then c else c.setGrant arb none
  | none => c

/-- The emergency request to be granted now (R199). -/
def Chip.emergencyReq (c : Chip) (q : List BusReq) : Option BusReq :=
  if c.fb MEM_CTL_EMERG then oldest (q.filter c.inEmergency) else none

/-- The holder of a cut-off grant goes on with the beat: its retry carries the original postmark and origin (R191, R202). -/
def Chip.retries (c : Chip) (r : BusReq) : Bool :=
  if r.origin = 96 then c.f PRESS_STATUS_STATE == 1
  else if r.write then c.dmaWriteDue (r.origin - 64) else c.dmaReadDue (r.origin - 64)

/-- A grant is cut off (R199 to R202): its beat is abandoned, the cut-off recorded, and the holder gets a bus error for the beat, which
waits again where the holder retries it. -/
def cutGrant (arb : Nat) (g : Grant) (r : BusReq) (emergency : Bool) (c : Chip) : Chip :=
  let c := c.recordCut g.origin arb emergency
  let c := if g.origin = 96 then pressCut r.pa r.write emergency c else dmaCut (g.origin - 64) r.write emergency c
  if c.retries r then c.setWaiting arb (r :: c.waitingAt arb) else c

/-- The cycles that the owner of a local RAM counts in `ns` nanoseconds: a sorter's at 1.2 GHz, a horn's at 800 MHz. -/
def ownerCycles (arb ns : Nat) : Nat := if arb < 0x80 then ns * 6 / 5 else ns * 4 / 5

/-- The core that owns the local RAM behind an external port. -/
def portOwner (arb : Nat) : Option Nat := if within 0x50 0x86 arb then some (arb - 0x50 + 8) else none

/-- An external request may be served (R194): no request of the owner's own waits at its port, or it has waited MEM_EXT.AGE cycles. -/
def Chip.portOpen (c : Chip) (arb : Nat) (r : BusReq) : Bool :=
  match portOwner arb with
  | none => true
  | some k => (c.core k).sbuf.isEmpty || Nat.ble (max 1 (c.xf MEM_EXT_AGE 64)) (ownerCycles arb (c.now - r.postmark))

/-- A request can be granted: its port is open to it, and no write to a replication window waits for space in the capture buffer (R475). -/
def Chip.servable (c : Chip) (arb : Nat) (r : BusReq) : Bool := c.portOpen arb r && !(r.write && c.writeWaits r.pa)

/-- An external request costs the owner a port cycle (R194): a core whose full store buffer waits for it counts SBUF_FULL. -/
def portCost (arb : Nat) (c : Chip) : Chip :=
  match portOwner arb with
  | some k => if Nat.ble 2 (c.core k).sbuf.length then c.modCore k (Core.event k 0x13) else c
  | none => c

/-- The request that the arbiter grants: the oldest of a unit in emergency; while a locked run holds a DRAM channel and
BREAKPT is 1, the oldest class R request at its beat boundary (R197); otherwise the run's next beat (R195), and with no run the
oldest request (R190). -/
def Chip.choose (c : Chip) (arb : Nat) (q : List BusReq) : Option BusReq :=
  match c.emergencyReq q with
  | some r => some r
  | none =>
    match c.grantAt arb with
    | some g =>
      match (if c.fb MEM_CTL_BREAKPT then oldest (q.filter BusReq.inR) else none) with
      | some r => some r
      | none => oldest (q.filter (c.ofRun g))
    | none => oldest q

/-- A request obtains a locked run: one of a DMA channel or of the Press at a DRAM channel (R195). -/
def Chip.mayLock (c : Chip) (arb : Nat) (r : BusReq) : Bool :=
  r.locked && cuttable r.origin && within 0xA0 0xA4 arb && mainRegion c.dramTop r.pa == .dram

/-- Request `r` is granted at arbiter `arb`: the beat of a DMA channel or of the Press is in transfer until it completes or is cut off; any
other is served at once, for it always completes (R195). -/
def grantBeat (arb : Nat) (r : BusReq) (upset : BitErr) (hard : Bool) (c : Chip) : Chip :=
  let c := c.setWaiting arb ((c.waitingAt arb).erase r)
  let c := (portCost arb c).meets arb r upset hard
  if cuttable r.origin then
    let left := match c.grantAt arb with
      | some g => g.beats - 1
      | none => if c.mayLock arb r then 15 else 0
    c.setGrant arb (some ⟨r.origin, if r.last then 0 else left, c.channelByte r.pa / 4096, some r, hard⟩)
  else c.serve r

/-- The requests given join those waiting at arbiter `arb`; one for an address that no row of R157 assigns ends in a bus error. -/
def joinQueue (arb : Nat) (reqs : List BusReq) (c : Chip) : Chip :=
  let c := c.setWaiting arb (c.waitingAt arb ++ reqs.filter (c.takesReq arb))
  forAll reqs (fun r c =>
    if isMaster r.origin && mainRegion c.dramTop r.pa == .unassigned then c.answerTo r.origin .busError else c) c

/-- An emergency request ends the grant that R195 allows to be cut off; any other beat in transfer completes (R192, R199). -/
def beatBoundary (arb : Nat) (c : Chip) : Chip :=
  match c.grantAt arb with
  | some g =>
    match g.cur with
    | some r => if (c.emergencyReq (c.waitingAt arb)).isSome then cutGrant arb g r true c else completeBeat arb c
    | none => c
  | none => c

/-- ARBITER_GRANT (R190): the requests given join those waiting at arbiter `arb`, the beat in transfer there completes or is cut off, and
the request that the rules choose is granted; `upset` gives bits found flipped in its word, `hard` that the verify read of R163
finds an error there, and `fatal` a unit-fatal error (R50) of the unit with that origin, or 4096 for a device-fatal one. -/
def execArbiterGrant (arb : Fin 256) (reqs : List BusReq) (upset : BitErr) (hard : Bool) (fatal : Option (Fin 4097))
    (s : State) : Out :=
  s.go fun c =>
    let c := endRun arb (beatBoundary arb (joinQueue arb reqs c))
    let c := match c.choose arb ((c.waitingAt arb).filter (c.servable arb)) with
      | none => c
      | some r => grantBeat arb r upset hard c
    match fatal with
    | none => c
    | some o => if o.val = 4096 then c.deviceFatal 208 arb else if assignedOrigin o then unitFatal o arb c else c

/-- HOG_CUTOFF (R200): the beat in transfer at arbiter `arb`, of a DMA channel or the Press, has been held longer than
HOG_LIMIT. -/
def execHogCutoff (arb : Fin 256) (s : State) : Out :=
  s.go fun c =>
    match c.grantAt arb with
    | some g =>
      match g.cur with
      | some r => if c.fb MEM_CTL_HOG then cutGrant arb g r false c else c
      | none => c
    | none => c

/-- DRAM_TRAINING_DONE (R648): the training in progress ends with the channels in `failed` not trained, and the write of ENABLE is
acknowledged; a DMA channel's write unit is over with it. -/
def execDramTrainingDone (failed : List Nat) (s : State) : Out :=
  s.go fun c =>
    match c.memc.training with
    | none => c
    | some m => acked [m] (c.endTraining failed)

end Sys2Proof.Machine
end

