-- ==== Sys2Proof/Machine/Product.lean ====
section
/-! DEFINITION. The product instructions and their shadow (R75 to R80). -/

namespace Sys2Proof.Machine

/-- Signed division (R76): truncates towards zero, the remainder takes the dividend's sign; the corners of R76. -/
def divPair (a b : Word) : DWord :=
  if b = 0 then a ++ (0xFFFFFFFF : Word)
  else if a = 0x80000000 ∧ b = 0xFFFFFFFF then (0 : Word) ++ (0x80000000 : Word)
  else a.srem b ++ a.sdiv b

/-- Unsigned division (R76). -/
def divuPair (a b : Word) : DWord := if b = 0 then a ++ (0xFFFFFFFF : Word) else a.umod b ++ a.udiv b

/-- A product instruction: the pending result becomes visible first (R79), then its own is pending for `shadow` positions
(R77). The position the instruction itself takes is not one of them. -/
def product (k ra rb shadow : Nat) (f : DWord → Word → Word → DWord) : Chip → Res :=
  onCore k fun x =>
    let x := x.showProduct
    x.setProduct (f x.pair (x.rd ra) (x.rd rb)) (shadow + 1)

/-- MUL (R75, R77): the signed product, visible after a shadow of 2. -/
def bodyMul (k : Nat) (ra rb : BitVec 5) : Chip → Res :=
  product k ra.toNat rb.toNat 2 (fun _ a b => a.signExtend 64 * b.signExtend 64)
/-- The command MUL on core `k` under `cond`. -/
def execMul (k : Fin 64) (cond : BitVec 4) (ra rb : BitVec 5) (s : State) : Out := instr k cond ordinary (bodyMul k ra rb) s

/-- MULU (R75, R77): the unsigned product, visible after a shadow of 2. -/
def bodyMulu (k : Nat) (ra rb : BitVec 5) : Chip → Res :=
  product k ra.toNat rb.toNat 2 (fun _ a b => a.zeroExtend 64 * b.zeroExtend 64)
/-- The command MULU on core `k` under `cond`. -/
def execMulu (k : Fin 64) (cond : BitVec 4) (ra rb : BitVec 5) (s : State) : Out := instr k cond ordinary (bodyMulu k ra rb) s

/-- MAC (R75, R77): {ph, pl} + the signed product, visible after a shadow of 2. -/
def bodyMac (k : Nat) (ra rb : BitVec 5) : Chip → Res :=
  product k ra.toNat rb.toNat 2 (fun p a b => p + a.signExtend 64 * b.signExtend 64)
/-- The command MAC on core `k` under `cond`. -/
def execMac (k : Fin 64) (cond : BitVec 4) (ra rb : BitVec 5) (s : State) : Out := instr k cond ordinary (bodyMac k ra rb) s

/-- MACU (R75, R77): {ph, pl} + the unsigned product, visible after a shadow of 2. -/
def bodyMacu (k : Nat) (ra rb : BitVec 5) : Chip → Res :=
  product k ra.toNat rb.toNat 2 (fun p a b => p + a.zeroExtend 64 * b.zeroExtend 64)
/-- The command MACU on core `k` under `cond`. -/
def execMacu (k : Fin 64) (cond : BitVec 4) (ra rb : BitVec 5) (s : State) : Out := instr k cond ordinary (bodyMacu k ra rb) s

/-- MSU (R75, R77): {ph, pl} - the signed product, visible after a shadow of 2. -/
def bodyMsu (k : Nat) (ra rb : BitVec 5) : Chip → Res :=
  product k ra.toNat rb.toNat 2 (fun p a b => p - a.signExtend 64 * b.signExtend 64)
/-- The command MSU on core `k` under `cond`. -/
def execMsu (k : Fin 64) (cond : BitVec 4) (ra rb : BitVec 5) (s : State) : Out := instr k cond ordinary (bodyMsu k ra rb) s

/-- DIV (R75, R77): signed division, quotient in pl and remainder in ph (R76), visible after a shadow of 12. -/
def bodyDiv (k : Nat) (ra rb : BitVec 5) : Chip → Res :=
  product k ra.toNat rb.toNat 12 (fun _ a b => divPair a b)
/-- The command DIV on core `k` under `cond`. -/
def execDiv (k : Fin 64) (cond : BitVec 4) (ra rb : BitVec 5) (s : State) : Out := instr k cond ordinary (bodyDiv k ra rb) s

/-- DIVU (R75, R77): unsigned division, quotient in pl and remainder in ph (R76), visible after a shadow of 12. -/
def bodyDivu (k : Nat) (ra rb : BitVec 5) : Chip → Res :=
  product k ra.toNat rb.toNat 12 (fun _ a b => divuPair a b)
/-- The command DIVU on core `k` under `cond`. -/
def execDivu (k : Fin 64) (cond : BitVec 4) (ra rb : BitVec 5) (s : State) : Out := instr k cond ordinary (bodyDivu k ra rb) s

/-- MFPL (R75): g[rd] = pl. -/
def bodyMfpl (k : Nat) (rd : BitVec 5) : Chip → Res :=
  onCore k fun x => x.wr rd.toNat x.pl
/-- The command MFPL on core `k` under `cond`. -/
def execMfpl (k : Fin 64) (cond : BitVec 4) (rd : BitVec 5) (s : State) : Out := instr k cond ordinary (bodyMfpl k rd) s

/-- MFPH (R75): g[rd] = ph. -/
def bodyMfph (k : Nat) (rd : BitVec 5) : Chip → Res :=
  onCore k fun x => x.wr rd.toNat x.ph
/-- The command MFPH on core `k` under `cond`. -/
def execMfph (k : Fin 64) (cond : BitVec 4) (rd : BitVec 5) (s : State) : Out := instr k cond ordinary (bodyMfph k rd) s

/-- MTPL (R75, R79): a pending result becomes visible, then pl = g[ra]. -/
def bodyMtpl (k : Nat) (ra : BitVec 5) : Chip → Res :=
  onCore k fun x => { x.showProduct with pl := x.rd ra.toNat }
/-- The command MTPL on core `k` under `cond`. -/
def execMtpl (k : Fin 64) (cond : BitVec 4) (ra : BitVec 5) (s : State) : Out := instr k cond ordinary (bodyMtpl k ra) s

/-- MTPH (R75, R79): a pending result becomes visible, then ph = g[ra]. -/
def bodyMtph (k : Nat) (ra : BitVec 5) : Chip → Res :=
  onCore k fun x => { x.showProduct with ph := x.rd ra.toNat }
/-- The command MTPH on core `k` under `cond`. -/
def execMtph (k : Fin 64) (cond : BitVec 4) (ra : BitVec 5) (s : State) : Out := instr k cond ordinary (bodyMtph k ra) s

/-- PRODUCT_VISIBLE (R77): a pending product whose shadow is over becomes visible in pl and ph. -/
def execProductVisible (k : Fin 64) (s : State) : Out := s.go fun c => c.modCore k Core.ripen

end Sys2Proof.Machine
end

