-- ==== Sys2Proof/Machine/Branch.lean ====
section
/-! DEFINITION. The branches and their delay slot (R85 to R91), and the predictor events of a Courier (R122 to R135). -/

namespace Sys2Proof.Machine

/-- sext(disp21) × 4. -/
def dispBytes (disp : BitVec 21) : Word := disp.signExtend 32 <<< 2

/-- The word of a B-format instruction (R64). -/
def branchWord (cond : BitVec 4) (major : BitVec 6) (annul : Bool) (disp : BitVec 21) : Decoded :=
  ⟨cond ++ major ++ BitVec.ofBool annul ++ disp, true, false, none, false⟩

/-- The word of a J-format instruction (R64). -/
def jumpWord (cond : BitVec 4) (major : BitVec 6) (annul : Bool) (ra rd : BitVec 5) : Decoded :=
  ⟨cond ++ major ++ BitVec.ofBool annul ++ (0 : BitVec 4) ++ ra ++ rd ++ (0 : BitVec 7), true, false, none, false⟩

/-- A taken branch: the target is read before the link is written (R85, R87); on a Courier a call pushes its link on the
return stack of 32 entries, dropping the oldest (R126). -/
def jump (k : Nat) (target : Core → Word) (link : Core → Core) (call annul : Bool) (c : Chip) : Res :=
  let t := target (c.core k)
  let c := c.modCore k fun x =>
    let l := x.pc + 8
    let x := link x
    if call && Nat.blt k 8 then { x with pred := { x.pred with ras := (l :: x.pred.ras).take 32 } } else x
  .branch c true t annul

/-- JR through g31 pops the return stack of a Courier (R126). -/
def popReturn (k : Nat) (c : Chip) : Chip :=
  if k < 8 then c.modCore k fun x => { x with pred := { x.pred with ras := x.pred.ras.tail } } else c

/-- B (R85): target pc + sext(disp21) × 4. -/
def bodyB (k : Nat) (annul : Bool) (disp : BitVec 21) : Chip → Res :=
  jump k (fun x => x.pc + dispBytes disp) (fun x => x) false annul
/-- The command B on core `k` under `cond`. -/
def execB (k : Fin 64) (cond : BitVec 4) (annul : Bool) (disp : BitVec 21) (s : State) : Out := instrBranch k cond annul (branchWord cond 0x20 annul disp) (bodyB k annul disp) s

/-- BL (R85): as B, with g31 = pc + 8. -/
def bodyBl (k : Nat) (annul : Bool) (disp : BitVec 21) : Chip → Res :=
  jump k (fun x => x.pc + dispBytes disp) (fun x => x.wr 31 (x.pc + 8)) true annul
/-- The command BL on core `k` under `cond`. -/
def execBl (k : Fin 64) (cond : BitVec 4) (annul : Bool) (disp : BitVec 21) (s : State) : Out := instrBranch k cond annul (branchWord cond 0x21 annul disp) (bodyBl k annul disp) s

/-- JR (R85): target g[ra]. -/
def bodyJr (k : Nat) (annul : Bool) (ra : BitVec 5) : Chip → Res :=
  fun c => jump k (fun x => x.rd ra.toNat) (fun x => x) false annul (if ra == 31 then popReturn k c else c)
/-- The command JR on core `k` under `cond`. -/
def execJr (k : Fin 64) (cond : BitVec 4) (annul : Bool) (ra : BitVec 5) (s : State) : Out := instrBranch k cond annul (jumpWord cond 0x22 annul ra 0) (bodyJr k annul ra) s

/-- JLR (R85, R87): target g[ra], read before g[rd] = pc + 8 is written. -/
def bodyJlr (k : Nat) (annul : Bool) (ra rd : BitVec 5) : Chip → Res :=
  jump k (fun x => x.rd ra.toNat) (fun x => x.wr rd.toNat (x.pc + 8)) (rd == 31) annul
/-- The command JLR on core `k` under `cond`. -/
def execJlr (k : Fin 64) (cond : BitVec 4) (annul : Bool) (ra rd : BitVec 5) (s : State) : Out := instrBranch k cond annul (jumpWord cond 0x23 annul ra rd) (bodyJlr k annul ra rd) s

/-! ### Wrong path, replay and flush (R128, R134, R135) -/

/-- One update of a direction counter on the wrong path: logged, then made (R128). -/
def Predictor.wrongUpdate (p : Predictor) (i : Nat) (taken : Bool) : Predictor :=
  let v := sget (fun _ => 0) p.dir i
  { p with
    log := (i, v) :: p.log
    dir := sset (fun _ => 0) p.dir i (if taken then min 3 (v + 1) else v - 1)
    hist := (p.hist * 2 + taken.toNat) % 2 ^ 14 }

/-- Undo the newest `n` entries of the counter log (R128). -/
def Predictor.undo (p : Predictor) : Nat → Predictor
  | 0 => p
  | n + 1 =>
    match p.log with
    | [] => p
    | (i, v) :: t => ({ p with dir := sset (fun _ => 0) p.dir i v, log := t } : Predictor).undo n

/-- The wrong path after a mispredicted branch and its repair (R127, R128): the branch's checkpoint is taken, younger
branches update counters and history, and everything is restored from the checkpoint. -/
def Predictor.mispredict (p : Predictor) (wrong : List (Nat × Bool)) : Predictor :=
  let chk : Checkpoint := ⟨p.hist, p.ras, p.log.length⟩
  let p := wrong.foldl (fun p w => p.wrongUpdate (w.1 % 16384) w.2) { p with chk := chk :: p.chk }
  let p := p.undo (p.log.length - chk.logLen)
  { p with hist := chk.hist, ras := chk.ras, chk := p.chk.tail }

/-- A wrong-path load of Courier `k` that accesses the D-cache (R138 to R141): DRAM alone, and a word found correctable is corrected with
the speculative flag; an uncorrectable one is met anew by a later access. -/
def wrongLoad (k pa : Nat) (c : Chip) : Chip :=
  if !c.reachable k pa (c.region k pa) || c.region k pa != .dram || c.deadDram .dram pa then c
  else
    let d := c.eccCheck .dram pa true false
    (if d.wordPoison .dram pa then c else d).modCore k (Core.event k 0x0E)

/-- BRANCH_MISPREDICT (R128, R138 to R141): a branch of Courier `k` resolves as mispredicted after the wrong-path updates and loads
given; `ret` tells that the return stack mispredicted it. -/
def execBranchMispredict (k : Fin 8) (wrong : List (Nat × Bool)) (ret : Bool) (path : WrongPath) (s : State) : Out :=
  s.go fun c =>
    let d := c.modCore k fun x =>
      let x := { x with pred := x.pred.mispredict wrong }
      let x := x.event k 0x04
      let x := if ret then x.event k 0x05 else x
      (List.range path.groups).foldl (fun x _ => x.event k 0x0D) x
    pmcIrq k (c.core k).pmovf (forAll path.loads (fun pa d => wrongLoad k pa d) d)

/-- MEMORDER_FLUSH (R135): a load of Courier `k` at `pc` that issued early is discarded and refetched; its wait-table entry is set as it
retires. -/
def execMemorderFlush (k : Fin 8) (pc : Word) (s : State) : Out :=
  s.go fun c => pmcIrq k (c.core k).pmovf (c.modCore k fun x =>
    ({ x with pred := { x.pred with flushed := some pc } }).event k 0x0C)

/-- OVERLAP_REPLAY (R134): a partly forwarded load of Courier `k` is replayed; OVERLAP_REPLAY counts it. -/
def execOverlapReplay (k : Fin 8) (s : State) : Out :=
  s.go fun c => pmcIrq k (c.core k).pmovf (c.modCore k (Core.event k 0x0B))

/-- WAIT_TABLE_CLEAR (R135): every wait-table entry of Courier `k` is cleared once 2^20 loads have retired since the last time. -/
def execWaitTableClear (k : Fin 8) (s : State) : Out :=
  s.go fun c => c.modCore k fun x =>
    if Nat.ble (2 ^ 20) x.pred.loads then { x with pred := { x.pred with wait := [], loads := x.pred.loads - 2 ^ 20 } } else x

end Sys2Proof.Machine
end

