-- ==== Sys2Proof/Machine/LoadStore.lean ====
section
/-! DEFINITION. Loads, stores, LL and SC, short addressing and fences (R81 to R84, R92 to R102), and the events of the
store buffer and of posted accesses (R144 to R148). -/

namespace Sys2Proof.Machine

/-- ea = g[ra] + sext(off12). -/
def effAddr (c : Chip) (k : Nat) (ra : BitVec 5) (off : BitVec 12) : Word := (c.core k).rd ra.toNat + off.signExtend 32

/-- A load of Courier `k` retires (R135): the wait table counts it, and one that was flushed sets its entry. -/
def Core.loadRetires (k : Nat) (x : Core) : Core :=
  if k < 8 then
    let p := { x.pred with loads := x.pred.loads + 1 }
    { x with pred := if p.flushed = some x.pc then { p with flushed := none, wait := sset (fun _ => false) p.wait (x.pc.bits 11 2) true } else p }
  else x

/-- A load of `n` bytes into g[rd]; `ext` extends the value (R81). -/
def loadTo (k n : Nat) (rd : BitVec 5) (ext : Nat → Word) (ea : Word) : Chip → Res :=
  loadBody k n false ea fun v _ x =>
    (x.wr rd.toNat (ext v)).loadRetires k

/-- A store of the low `n` bytes of g[rd] (R81). -/
def storeFrom (k n : Nat) (rd : BitVec 5) (ea : Word) (c : Chip) : Res :=
  storeBody k n false ea ((c.core k).rd rd.toNat).toNat (fun x => x) c

/-- LB (R81): g[rd] = sext(mem8[ea]). -/
def bodyLb (k : Nat) (rd ra : BitVec 5) (off : BitVec 12) (c : Chip) : Res :=
  loadTo k 1 rd (fun v => (BitVec.ofNat 8 v).signExtend 32) (effAddr c k ra off) c
/-- The command LB. -/
def execLb (k : Fin 64) (cond : BitVec 4) (rd ra : BitVec 5) (off : BitVec 12) (s : State) : Out :=
  instr k cond ordinary (bodyLb k rd ra off) s

/-- LBU (R81): g[rd] = zext(mem8[ea]). -/
def bodyLbu (k : Nat) (rd ra : BitVec 5) (off : BitVec 12) (c : Chip) : Res :=
  loadTo k 1 rd (Word.of) (effAddr c k ra off) c
/-- The command LBU. -/
def execLbu (k : Fin 64) (cond : BitVec 4) (rd ra : BitVec 5) (off : BitVec 12) (s : State) : Out :=
  instr k cond ordinary (bodyLbu k rd ra off) s

/-- LH (R81): g[rd] = sext(mem16[ea]). -/
def bodyLh (k : Nat) (rd ra : BitVec 5) (off : BitVec 12) (c : Chip) : Res :=
  loadTo k 2 rd (fun v => (BitVec.ofNat 16 v).signExtend 32) (effAddr c k ra off) c
/-- The command LH. -/
def execLh (k : Fin 64) (cond : BitVec 4) (rd ra : BitVec 5) (off : BitVec 12) (s : State) : Out :=
  instr k cond ordinary (bodyLh k rd ra off) s

/-- LHU (R81): g[rd] = zext(mem16[ea]). -/
def bodyLhu (k : Nat) (rd ra : BitVec 5) (off : BitVec 12) (c : Chip) : Res :=
  loadTo k 2 rd (Word.of) (effAddr c k ra off) c
/-- The command LHU. -/
def execLhu (k : Fin 64) (cond : BitVec 4) (rd ra : BitVec 5) (off : BitVec 12) (s : State) : Out :=
  instr k cond ordinary (bodyLhu k rd ra off) s

/-- LW (R81): g[rd] = mem32[ea]. -/
def bodyLw (k : Nat) (rd ra : BitVec 5) (off : BitVec 12) (c : Chip) : Res :=
  loadTo k 4 rd (Word.of) (effAddr c k ra off) c
/-- The command LW. -/
def execLw (k : Fin 64) (cond : BitVec 4) (rd ra : BitVec 5) (off : BitVec 12) (s : State) : Out :=
  instr k cond ordinary (bodyLw k rd ra off) s

/-- SB (R81): mem8[ea] = g[rd][7:0]. -/
def bodySb (k : Nat) (rd ra : BitVec 5) (off : BitVec 12) (c : Chip) : Res :=
  storeFrom k 1 rd (effAddr c k ra off) c
/-- The command SB. -/
def execSb (k : Fin 64) (cond : BitVec 4) (rd ra : BitVec 5) (off : BitVec 12) (s : State) : Out :=
  instr k cond ordinary (bodySb k rd ra off) s

/-- SH (R81): mem16[ea] = g[rd][15:0]. -/
def bodySh (k : Nat) (rd ra : BitVec 5) (off : BitVec 12) (c : Chip) : Res :=
  storeFrom k 2 rd (effAddr c k ra off) c
/-- The command SH. -/
def execSh (k : Fin 64) (cond : BitVec 4) (rd ra : BitVec 5) (off : BitVec 12) (s : State) : Out :=
  instr k cond ordinary (bodySh k rd ra off) s

/-- SW (R81): mem32[ea] = g[rd]. -/
def bodySw (k : Nat) (rd ra : BitVec 5) (off : BitVec 12) (c : Chip) : Res :=
  storeFrom k 4 rd (effAddr c k ra off) c
/-- The command SW. -/
def execSw (k : Fin 64) (cond : BitVec 4) (rd ra : BitVec 5) (off : BitVec 12) (s : State) : Out :=
  instr k cond ordinary (bodySw k rd ra off) s

/-- LL (R81, R96): a word load that sets the reservation on its 64-byte granule. -/
def bodyLl (k : Nat) (rd ra : BitVec 5) (off : BitVec 12) (c : Chip) : Res :=
  let ea := effAddr c k ra off
  loadBody k 4 true ea (fun v ps x =>
    { (x.wr rd.toNat (Word.of v)).loadRetires k with
      resv := some ⟨ea &&& 0xFFFFFFC0, match ps with | p :: _ => p.1.pa - p.1.pa % 64 | [] => 0⟩ }) c
/-- The command LL. -/
def execLl (k : Fin 64) (cond : BitVec 4) (rd ra : BitVec 5) (off : BitVec 12) (s : State) : Out :=
  instr k cond ordinary (bodyLl k rd ra off) s

/-- SC (R81, R96): the word is stored only if the reservation holds; q[qd] reports it, and the reservation is cleared. -/
def bodySc (k : Nat) (rd ra : BitVec 5) (qd : BitVec 3) (off : BitVec 9) (c : Chip) : Res :=
  let x := c.core k
  let ea := x.rd ra.toNat + off.signExtend 32
  let report (b : Bool) (x : Core) : Core := { x with q := setPredicate x.q qd.toNat b, resv := none }
  if (match x.resv with | some r => r.va == ea &&& 0xFFFFFFC0 | none => false) then
    storeBody k 4 true ea (x.rd rd.toNat).toNat (report true) (if inOrder k then drainAll k c else c)
  else match checkAccess k .store ea 4 true c with
    | (.error (cause, a), c) => .trap c cause a
    | (.ok _, c) => .done (c.modCore k (report false))
/-- The command SC. -/
def execSc (k : Fin 64) (cond : BitVec 4) (rd ra : BitVec 5) (qd : BitVec 3) (off : BitVec 9) (s : State) : Out :=
  instr k cond ordinary (bodySc k rd ra qd off) s

/-! ### The short window (R82 to R84) -/

/-- An in-order core reaches the first 64 KiB of its own local RAM directly, in either mode (R83); the access is placed
without translation.  An access at the end of the window goes on to the next physical bytes: the manual does not say what becomes of
bytes past offset 0xFFFF (log entry 165). -/
def shortPieces (k : Nat) (a : BitVec 16) (n : Nat) : List (Phys × Nat) :=
  (pieces (a.zeroExtend 32) n).map fun p => (⟨(ownRam k).1 + p.1.toNat, false, false⟩, p.2)

/-- A short load (R82 to R84).  The window of an in-order core has no virtual address: its watches and its exceptions take the offset in
the window for one (log entry 166). -/
def shortLoad (k n : Nat) (rd : BitVec 5) (a : BitVec 16) (c : Chip) : Res :=
  if inOrder k then loadPlaced k n (a.zeroExtend 32) (shortPieces k a n) (fun v x => x.wr rd.toNat (Word.of v)) c
  else loadTo k n rd Word.of ((c.core k).sbase + a.zeroExtend 32) c

/-- A short store (R82 to R84), whose watches and bus errors take the offset in the window for its address (log entry 166). -/
def shortStore (k n : Nat) (rd : BitVec 5) (a : BitVec 16) (c : Chip) : Res :=
  if inOrder k then storePlaced k n (a.zeroExtend 32) (shortPieces k a n) ((c.core k).rd rd.toNat).toNat (fun x => x) c
  else storeFrom k n rd ((c.core k).sbase + a.zeroExtend 32) c

/-- LDSW (R82): a word load at offset a16 of the short window. -/
def bodyLdsw (k : Nat) (rd : BitVec 5) (a : BitVec 16) : Chip → Res := shortLoad k 4 rd a
/-- The command LDSW. -/
def execLdsw (k : Fin 64) (cond : BitVec 4) (rd : BitVec 5) (a : BitVec 16) (s : State) : Out :=
  instr k cond ordinary (bodyLdsw k rd a) s

/-- LDSHU (R82): a zero-extending halfword load at offset a16 of the short window. -/
def bodyLdshu (k : Nat) (rd : BitVec 5) (a : BitVec 16) : Chip → Res := shortLoad k 2 rd a
/-- The command LDSHU. -/
def execLdshu (k : Fin 64) (cond : BitVec 4) (rd : BitVec 5) (a : BitVec 16) (s : State) : Out :=
  instr k cond ordinary (bodyLdshu k rd a) s

/-- STSW (R82): a word store at offset a16 of the short window. -/
def bodyStsw (k : Nat) (rd : BitVec 5) (a : BitVec 16) : Chip → Res := shortStore k 4 rd a
/-- The command STSW. -/
def execStsw (k : Fin 64) (cond : BitVec 4) (rd : BitVec 5) (a : BitVec 16) (s : State) : Out :=
  instr k cond ordinary (bodyStsw k rd a) s

/-- STSH (R82): a halfword store at offset a16 of the short window. -/
def bodyStsh (k : Nat) (rd : BitVec 5) (a : BitVec 16) : Chip → Res := shortStore k 2 rd a
/-- The command STSH. -/
def execStsh (k : Fin 64) (cond : BitVec 4) (rd : BitVec 5) (a : BitVec 16) (s : State) : Out :=
  instr k cond ordinary (bodyStsh k rd a) s

/-! ### Fences (R94) -/

/-- Every earlier store of an in-order core has been acknowledged (R149); a Courier's store is visible once it is performed.  The core
waits while the write that started a training is not acknowledged (R648). -/
def fenceStores (k : Nat) (c : Chip) : Res :=
  if inOrder k && c.enableWaits k then .hold c
  else .done (if inOrder k then ackAll k (drainAll k c) else c)

/-- FENCE.S: every earlier store is visible to all observers. -/
def bodyFenceS (k : Nat) (c : Chip) : Res := fenceStores k c
/-- The command FENCE.S. -/
def execFenceS (k : Fin 64) (cond : BitVec 4) (s : State) : Out := instr k cond ordinary (bodyFenceS k) s

/-- FENCE.F: every earlier access is performed. -/
def bodyFenceF (k : Nat) (c : Chip) : Res := fenceStores k c
/-- The command FENCE.F. -/
def execFenceF (k : Fin 64) (cond : BitVec 4) (s : State) : Out := instr k cond ordinary (bodyFenceF k) s

/-- FENCE.IO: as FENCE.F, and every earlier access is acknowledged (R94).  The store bus errors that have arrived are reported at the
interrupt points that follow, one by one, before any other instruction (R112). -/
def bodyFenceIo (k : Nat) (c : Chip) : Res := if c.enableWaits k then .hold c else .done (ackAll k (drainAll k c))
/-- The command FENCE.IO. -/
def execFenceIo (k : Fin 64) (cond : BitVec 4) (s : State) : Out := instr k cond ordinary (bodyFenceIo k) s

/-- ISYNC (R94, R108): later instructions are translated under the current control settings. -/
def bodyIsync (k : Nat) : Chip → Res :=
  onCore k fun x =>
    { x with
      useRT := x.status.bit 2
      useCtx := x.ctx.bits 7 0
      useRtbase := x.rtbase.bits 23 0
      useUbase := x.ubase.bits 7 0 }
/-- The command ISYNC. -/
def execIsync (k : Fin 64) (cond : BitVec 4) (s : State) : Out := instr k cond ordinary (bodyIsync k) s

/-! ### Events of the memory pipeline -/

/-- STORE_BUS_ERROR_REPORT (R112): at an interrupt point of a core that debug has not halted. -/
def execStoreBusErrorReport (k : Fin 64) (s : State) : Out :=
  s.go fun c => if c.coreFree k && c.atPoint k then reportBusError k c else c

/-- LOAD_DATA_RETURN (R148): the data of the load in M returns and the pipeline is released; LOAD_STALL counts the cycles
held. -/
def execLoadDataReturn (k : Fin 64) (cycles : Nat) (s : State) : Out :=
  s.go fun c =>
    if (c.core k).loadHeld then
      pmcIrq k (c.core k).pmovf
        (c.modCore k fun x => (List.range cycles).foldl (fun x _ => x.event k 0x11) { x with loadHeld := false })
    else c

/-- STORE_ACK (R148, R112): the acknowledgement of the oldest posted store or device access arrives, with its store bus
errors. -/
def execStoreAck (k : Fin 64) (s : State) : Out := s.go (ackOldest k)

/-- STORE_BUFFER_DRAIN (R144, R146): the oldest store-buffer entry of an in-order core drains. -/
def execStoreBufferDrain (k : Fin 64) (s : State) : Out := s.go (drainOldest k)

/-- The lines that an in-order core reads for its fetch (R145): the one at its pc, the next sequential one, and the target's of a branch
whose slot is next. -/
def Core.fetchLines (x : Core) : List Word :=
  let l := x.pc &&& 0xFFFFFFE0
  [l, l + 32] ++ (match x.slot with | some s => [s.cont &&& 0xFFFFFFE0] | none => [])

/-- The next sequential line is made useless by a taken branch (R145). -/
def Core.lineUseless (x : Core) (line : Word) : Bool :=
  line == (x.pc &&& 0xFFFFFFE0) + 32 && (match x.slot with | some s => s.cont != x.pc + 4 && s.cont &&& 0xFFFFFFE0 != line | none => false)

/-- FETCH_LINE_READ (R144, R145): an in-order core reads a 32-byte line of its own local memory for its fetch, having waited `defer`
cycles; `useless` counts a sequential line that a taken branch made useless. -/
def execFetchLineRead (k : Fin 64) (line : Word) (defer : Nat) (useless : Bool) (s : State) : Out :=
  s.go fun c =>
    let line := line &&& 0xFFFFFFE0
    if inOrder k && c.canRun k && (c.core k).fetchLines.contains line then
      match translate k .fetch line c with
      | (some p, d) =>
        if inOwnCode k p.pa then
          pmcIrq k (d.core k).pmovf (d.modCore k fun x =>
            let y := (List.range defer).foldl (fun x _ => x.event k 0x12) { x with line := some line }
            if useless && x.lineUseless line then y.event k 0x0D else y)
        else c
      | (none, _) => c
    else c

end Sys2Proof.Machine
end

