-- ==== Sys2Proof/Machine/System.lean ====
section
/-! DEFINITION. The system coprocessor CP0 (R116, R117, R121), interrupts and waiting (R112, R113), hints (R67), illegal
words (R66) and the performance counters' registers (R154, R155). -/

namespace Sys2Proof.Machine

/-! ### Control registers (R116) -/

/-- The counters and selects that an in-order core has (R154). -/
def hasCounter (k n : Nat) : Bool := Nat.blt n (if inOrder k then 4 else 8)

/-- CSR `n` is assigned (R116, R154, R613). -/
def csrAssigned (n : Nat) : Bool :=
  Nat.ble n 0x00A || within 0x010 0x014 n || within 0x020 0x023 n || within 0x100 0x104 n
    || (within 0x110 0x140 n && n % 4 != 3) || n = 0x200 || n = 0x201 || within 0x210 0x220 n || within 0x220 0x228 n
    || within 0x230 0x234 n

/-- CSR `n` may be read in user mode (R116, R154). -/
def csrUser (x : Core) (n : Nat) : Bool :=
  within 0x020 0x023 n || (x.pmctl.bit 9 && (within 0x210 0x228 n || within 0x230 0x234 n))

/-- A half of a 64-bit counter. -/
def half (v : DWord) (hi : Bool) : Word := if hi then (v >>> 32).truncate 32 else v.truncate 32

/-- A half of a 64-bit counter replaced (R155). -/
def setHalf (v : DWord) (hi : Bool) (w : Word) : DWord := if hi then w ++ (v.truncate 32 : Word) else half v true ++ w

/-- The coprocessors present, as csr_cpmask shows them. -/
def cpMask (k : Nat) : Word := match Core.kind k with | 1 => 3 | 2 => 5 | _ => 1

/-- The comparator that a comparator CSR belongs to exists on core `k` (R613). -/
def hasCmp (k n : Nat) : Bool := (breakpoints k).contains ((n - 0x110) / 4) || (watches k).contains ((n - 0x110) / 4)

/-- Read CSR `n` of core `k` (R116). -/
def Core.csr (k : Nat) (x : Core) (n : Nat) : Word :=
  if within 0x110 0x140 n then (if hasCmp k n then sget zeroWord x.dbg.cmp (n - 0x110) else 0)
  else if within 0x210 0x220 n then
    (if hasCounter k ((n - 0x210) / 2) then half (sget (fun _ => 0) x.pmcnt ((n - 0x210) / 2)) (n % 2 == 1) else 0)
  else if within 0x220 0x228 n then sget zeroWord x.pmsel (n - 0x220)
  else match n with
  | 0x000 => x.status
  | 0x001 => x.cause
  | 0x002 => x.epc
  | 0x003 => x.estat
  | 0x004 => x.eaddr
  | 0x005 => x.etgt
  | 0x006 => x.epl
  | 0x007 => x.eph
  | 0x008 => x.vbase
  | 0x009 => x.scratch0
  | 0x00A => x.scratch1
  | 0x010 => x.ctx
  | 0x011 => x.rtbase
  | 0x012 => if k < 8 then x.sbase else 0
  | 0x013 => x.ubase
  | 0x020 => Word.of k
  | 0x021 => Word.of (Core.kind k)
  | 0x022 => cpMask k
  | 0x100 => x.dbg.data
  | 0x101 => x.dbg.dpc
  | 0x102 => x.dbg.dstat
  | 0x103 => x.dbg.dhit
  | 0x200 => x.pmctl
  | 0x201 => x.pmovf
  | 0x230 => half x.pmcyc false
  | 0x231 => half x.pmcyc true
  | 0x232 => half x.pmret false
  | 0x233 => half x.pmret true
  | _ => 0

/-- The writable bits of csr_dcmp_ctl_n: KIND reads 0 on breakpoints (R613). -/
def cmpCtlMask (n : Nat) : Word := if (n - 0x110) / 4 < 8 then 0x00F1FFF3 else 0x00F1FFFF

/-- A write of a comparator CSR (R613, R615): writing a comparator disarms it. -/
def Core.writeCmp (k : Nat) (x : Core) (n : Nat) (v : Word) : Core :=
  if hasCmp k n then
    let v := if n % 4 = 0 then v &&& cmpCtlMask n else v
    { x with dbg := { x.dbg with
      cmp := sset zeroWord x.dbg.cmp (n - 0x110) v
      armed := sset (fun _ => false) x.dbg.armed ((n - 0x110) / 4) false } }
  else x

/-- Write CSR `n` of core `k` (R116).  Reserved bits stay 0, read-only registers ignore writes, csr_pmovf clears the bits
written 1, a write of csr_ctx clears the reservation (R95), and a write of csr_dpc on a halted core makes a pending product
visible (R609). -/
def Core.setCsr (k : Nat) (x : Core) (n : Nat) (v : Word) : Core :=
  if within 0x110 0x140 n then x.writeCmp k n v
  else if within 0x210 0x220 n then
    (if hasCounter k ((n - 0x210) / 2) then
      { x with pmcnt := smod (fun _ => 0) x.pmcnt ((n - 0x210) / 2) fun d => setHalf d (n % 2 == 1) v } else x)
  else if within 0x220 0x228 n then
    { x with pmsel := sset zeroWord x.pmsel (n - 0x220) (v &&& 0xFF) }
  else match n with
  | 0x000 => { x with status := v &&& 0x37 }
  | 0x001 => { x with cause := v &&& 0x3F }
  | 0x002 => { x with epc := v }
  | 0x003 => { x with estat := v &&& 0xF0F }
  | 0x004 => { x with eaddr := v }
  | 0x005 => { x with etgt := v }
  | 0x006 => { x with epl := v }
  | 0x007 => { x with eph := v }
  | 0x008 => { x with vbase := v &&& 0xFFFFF000 }
  | 0x009 => { x with scratch0 := v }
  | 0x00A => { x with scratch1 := v }
  | 0x010 => { x with ctx := v &&& 0xFF, resv := none }
  | 0x011 => { x with rtbase := v &&& 0xFFFFFF }
  | 0x012 => if k < 8 then { x with sbase := v &&& 0xFFFF0000 } else x
  | 0x013 => { x with ubase := v &&& 0xFF }
  | 0x100 => { x with dbg := { x.dbg with data := v } }
  | 0x101 =>
    if x.dbg.halted then
      let x := x.showProduct
      { x with dbg := { x.dbg with dpc := v, dstat := x.dbg.dstat &&& 0xFFFFF0FF } }
    else { x with dbg := { x.dbg with dpc := v } }
  | 0x102 => { x with dbg := { x.dbg with dstat := v &&& 0xFFF } }
  | 0x103 => { x with dbg := { x.dbg with dhit := v } }
  | 0x200 => { x with pmctl := v &&& (if inOrder k then 0xF0F else 0xFFF) }
  | 0x201 => { x with pmovf := x.pmovf &&& ~~~v }
  | 0x230 => { x with pmcyc := setHalf x.pmcyc false v }
  | 0x231 => { x with pmcyc := setHalf x.pmcyc true v }
  | 0x232 => { x with pmret := setHalf x.pmret false v }
  | 0x233 => { x with pmret := setHalf x.pmret true v }
  | _ => x

/-- A CP0 word (R121): OP in bits 21:18, ga in 17:13, FIELD in 12:0. -/
def cp0Word (cond : BitVec 4) (op : BitVec 4) (ga : BitVec 5) (field : BitVec 13) : Word :=
  cond ++ (0x3C : BitVec 6) ++ op ++ ga ++ field

/-- A CSR access: an unassigned number is illegal, and all but user reads need supervisor mode (R116). -/
def csrDecoded (cond op : BitVec 4) (ga : BitVec 5) (csr : BitVec 10) (sup : Bool) : Decoded :=
  ⟨cp0Word cond op ga (csr.zeroExtend 13), false, sup, some 0, !csrAssigned csr.toNat⟩

/-- CSRR (R121): g[ga] = csr. -/
def bodyCsrr (k : Nat) (ga : BitVec 5) (csr : BitVec 10) : Chip → Res :=
  onCore k fun x => x.wr ga.toNat (x.csr k csr.toNat)
/-- The command CSRR: in user mode only for the registers marked user (R116). -/
def execCsrr (k : Fin 64) (cond : BitVec 4) (ga : BitVec 5) (csr : BitVec 10) (s : State) : Out :=
  instr k cond (csrDecoded cond 0 ga csr (!csrUser (s.chip.core k) csr.toNat)) (bodyCsrr k ga csr) s

/-- CSRW (R121): csr = g[ga]. -/
def bodyCsrw (k : Nat) (ga : BitVec 5) (csr : BitVec 10) : Chip → Res :=
  onCore k fun x => x.setCsr k csr.toNat (x.rd ga.toNat)
/-- The command CSRW. -/
def execCsrw (k : Fin 64) (cond : BitVec 4) (ga : BitVec 5) (csr : BitVec 10) (s : State) : Out :=
  instr k cond (csrDecoded cond 1 ga csr true) (bodyCsrw k ga csr) s

/-- CSRS (R121): csr = csr or g[ga]. -/
def bodyCsrs (k : Nat) (ga : BitVec 5) (csr : BitVec 10) : Chip → Res :=
  onCore k fun x => x.setCsr k csr.toNat (x.csr k csr.toNat ||| x.rd ga.toNat)
/-- The command CSRS. -/
def execCsrs (k : Fin 64) (cond : BitVec 4) (ga : BitVec 5) (csr : BitVec 10) (s : State) : Out :=
  instr k cond (csrDecoded cond 2 ga csr true) (bodyCsrs k ga csr) s

/-- CSRC (R121): csr = csr and not g[ga]. -/
def bodyCsrc (k : Nat) (ga : BitVec 5) (csr : BitVec 10) : Chip → Res :=
  onCore k fun x => x.setCsr k csr.toNat (x.csr k csr.toNat &&& ~~~x.rd ga.toNat)
/-- The command CSRC. -/
def execCsrc (k : Fin 64) (cond : BitVec 4) (ga : BitVec 5) (csr : BitVec 10) (s : State) : Out :=
  instr k cond (csrDecoded cond 3 ga csr true) (bodyCsrc k ga csr) s

/-! ### Exception return, waiting, system call -/

/-- ERET (R115). -/
def bodyEret (k : Nat) (c : Chip) : Res := .jumped (c.modCore k Core.eret)
/-- The command ERET: no delay slot, none in a slot (R88), supervisor mode (R121). -/
def execEret (k : Fin 64) (cond : BitVec 4) (s : State) : Out :=
  instr k cond ⟨cp0Word cond 4 0 0, true, true, some 0, false⟩ (bodyEret k) s

/-- WAIT (R121): fetch stops until an interrupt is pending towards the core, and the core stands on the WAIT (R608); with one
pending already it continues. -/
def bodyWait (k : Nat) (c : Chip) : Res :=
  if coreIrq k c then .done c else .hold (c.modCore k fun x => { x with waiting := true })
/-- The command WAIT. -/
def execWait (k : Fin 64) (cond : BitVec 4) (s : State) : Out :=
  instr k cond ⟨cp0Word cond 5 0 0, false, true, some 0, false⟩ (bodyWait k) s

/-- A core that stands in WAIT with an interrupt pending continues after it (R121). -/
def wakeCore (k : Nat) (c : Chip) : Chip :=
  if c.coreFree k && (c.core k).waiting && coreIrq k c then
    endStep k (c.modCore k fun x => { x with waiting := false }.advance k)
  else c

/-- Core `k` takes what is due at its interrupt point (R112, R113, R608), if it can run. -/
def takeDue (k : Nat) (c : Chip) : Chip := if c.canRun k then (pointEvent k c).getD c else c

/-- INTERRUPT_ENTRY (R113): core `k` takes what is due at its interrupt point; a WAIT that an interrupt ends is over. -/
def execInterruptEntry (k : Fin 64) (s : State) : Out :=
  s.go fun c => pmcIrq k (c.core k).pmovf (takeDue k (wakeCore k c))

/-- WAIT_RESUME (R121): a waiting core with an interrupt pending continues, first taking the interrupt if IE is 1. -/
def execWaitResume (k : Fin 64) (s : State) : Out :=
  s.go fun c => if (c.core k).waiting then pmcIrq k (c.core k).pmovf (takeDue k (wakeCore k c)) else c

/-- REGSYNC (R108): the region-table entries held for context g[ga][7:0], or for all contexts when ga is g0, go. -/
def bodyRegsync (k : Nat) (ga : BitVec 5) : Chip → Res :=
  onCore k fun x =>
    let ctx := (x.rd ga.toNat).bits 7 0
    { x with held := if ga = 0 then [] else swipe x.held (ctx * 64) (ctx * 64 + 64) }
/-- The command REGSYNC. -/
def execRegsync (k : Fin 64) (cond : BitVec 4) (ga : BitVec 5) (s : State) : Out :=
  instr k cond ⟨cp0Word cond 6 ga 0, false, true, some 0, false⟩ (bodyRegsync k ga) s

/-- The address that CLINE acts on: the DRAM line that g[ga] reaches, if any, through the core's region table. -/
def clineAt (k : Nat) (ga : BitVec 5) (c : Chip) : Option Nat × Chip :=
  match locate k .load ((c.core k).rd ga.toNat) c with
  | (some (p, _), c) => (if Nat.blt p.pa c.dramTop then some p.pa else none, c)
  | (none, c) => (none, c)

/-- CLINE (R121): on a Courier the line is cleaned, invalidated, or both; the I-cache holds nothing but what memory does, so that
invalidating its line changes no data (log entry 12).  No operation on other cores. -/
def bodyCline (k : Nat) (ga : BitVec 5) (kind : BitVec 2) (c : Chip) : Res :=
  if Nat.ble 8 k || kind == 3 then .done c
  else match clineAt k ga c with
    | (some pa, c) => .done (if kind == 1 then c.loseLine pa else c.writeBack pa)
    | (none, c) => .done c
/-- The command CLINE: kinds 1 and 2 need supervisor mode. -/
def execCline (k : Fin 64) (cond : BitVec 4) (ga : BitVec 5) (kind : BitVec 2) (s : State) : Out :=
  instr k cond ⟨cp0Word cond 7 ga (kind.zeroExtend 13), false, kind == 1 || kind == 2, some 0, false⟩ (bodyCline k ga kind) s

/-- RDPM (R121): one read of the core's replica; g[ga] low, g[gb] high, and where they are one register it receives the
high half. -/
def bodyRdpm (k : Nat) (ga gb : BitVec 5) (c : Chip) : Res :=
  let v : DWord := BitVec.ofNat 64 (c.stamp k)
  .done (c.modCore k fun x => (x.wr ga.toNat (half v false)).wr gb.toNat (half v true))
/-- The command RDPM. -/
def execRdpm (k : Fin 64) (cond : BitVec 4) (ga gb : BitVec 5) (s : State) : Out :=
  instr k cond ⟨cp0Word cond 8 ga (gb ++ (0 : BitVec 8)), false, false, some 0, false⟩ (bodyRdpm k ga gb) s

/-- SYSCALL (R111, R121): cause 0x0D with csr_eaddr the code, and csr_epc the instruction that would follow. -/
def bodySyscall (_k : Nat) (code : BitVec 13) (c : Chip) : Res := .syscall c code.toNat
/-- The command SYSCALL. -/
def execSyscall (k : Fin 64) (cond : BitVec 4) (code : BitVec 13) (s : State) : Out :=
  instr k cond ⟨cp0Word cond 9 0 code, false, false, some 0, false⟩ (bodySyscall k code) s

/-! ### Hints and illegal words (R66, R67) -/

/-- NOP (R67): a word of the hint space changes nothing but that one instruction passes. -/
def execNop (k : Fin 64) (_low : BitVec 28) (s : State) : Out := instr k 8 ordinary Res.done s

/-- PREFETCH (R67): a hint; the line a Courier may bring into its D-cache is no architectural state. -/
def execPrefetch (k : Fin 64) (_ra : BitVec 5) (_off : BitVec 12) (s : State) : Out := instr k 8 ordinary Res.done s

/-- ILLEGAL_INSTRUCTION (R66, R119): a word no row of the encoding assigns raises cause 0x01 with csr_eaddr the word, where
its condition is true; a word of an absent or disabled coprocessor, CP3 always, raises cause 0x04. -/
def execIllegalInstruction (k : Fin 64) (word : Word) (s : State) : Out :=
  let major := word.bits 27 22
  instr k (word.extractLsb' 28 4)
    ⟨word, within 0x20 0x24 major, false, if Nat.ble 0x3C major then some (major - 0x3C) else none, true⟩ Res.done s

/-! ### Counters -/

/-- Counter `n` of core `k` stands before its wrap and counts (R154): 0 to 7 programmable, 8 cycles, 9 retired instructions. -/
def Core.wraps (k : Nat) (x : Core) (n : Nat) : Bool :=
  !x.countsNot &&
  if n < 8 then hasCounter k n && x.pmctl.bit n && sget (fun _ => 0) x.pmcnt n == BitVec.allOnes 64
  else x.pmctl.bit 8 && (if n = 8 then x.pmcyc else x.pmret) == BitVec.allOnes 64

/-- PMC_OVERFLOW (R154): counter `n` of core `k` wraps from 2^64 - 1 to 0 and sets its overflow flag; with OVFIE the flag raises
private source 30. -/
def execPmcOverflow (k : Fin 64) (n : Fin 10) (s : State) : Out :=
  s.go fun c =>
    if (c.core k).wraps k n then
      pmcIrq k (c.core k).pmovf (c.modCore k fun x =>
        let x := if n.val < 8 then { x with pmcnt := sset (fun _ => 0) x.pmcnt n 0 }
          else if n.val = 8 then { x with pmcyc := 0 } else { x with pmret := 0 }
        { x with pmovf := x.pmovf.setBit n true })
    else c

end Sys2Proof.Machine
end

