-- ==== Sys2Proof/Machine/Cp1.lean ====
section
/-! DEFINITION. The sorter's coprocessor CP1 (R260 to R279): units, line parameters, line-timed writes, drawing. -/

namespace Sys2Proof.Machine

/-- A CP1 instruction: its coprocessor check precedes everything else (R119, R274). -/
def cp1 : Decoded := ⟨0, false, false, some 1, false⟩

/-- Register x`i` of sorter `s`. -/
def Chip.xreg (c : Chip) (s i : Nat) : Word := sget (fun _ => 0) (c.comp s).x i

/-- Register x`i` of sorter `s` written. -/
def Chip.setXreg (c : Chip) (s i : Nat) (v : Word) : Chip := c.modComp s fun x => { x with x := sset (fun _ => 0) x.x i v }

/-- The unit word of LNEXT (R260). -/
def unitWord (h : LineUnit) : Word :=
  Word.of (h.line % 2 ^ 14 + h.out % 4 * 2 ^ 14 + 2 ^ 16 * h.half.toNat + 2 ^ 17 * h.first.toNat + 2 ^ 18 * h.field + 2 ^ 20 * (h.frame % 4096))

/-- LNEXT (R275, R277): waits for an offered unit, which the member then holds. -/
def bodyLnext (k : Nat) (gd ge : BitVec 5) (c : Chip) : Res :=
  let s := k - 8
  match (c.comp s).offered, (c.comp s).held with
  | some n, held =>
    if (match held with | some h => h.abandoned | none => true) then
      let c := c.modComp s fun x => { x with offered := none, held := some n }
      let c := c.setXreg s 15 n.arg
      .done (c.modCore k fun x => (x.wr gd.toNat (unitWord n)).wr ge.toNat n.route)
    else .hold c
  | none, _ => .hold c
/-- The command LNEXT. -/
def execLnext (k : Fin 64) (cond : BitVec 4) (gd ge : BitVec 5) (s : State) : Out := instr k cond cp1 (bodyLnext k gd ge) s

/-- Member number and N of a sorter's group; both 0 for a sorter in no group. -/
def Chip.memberOf (c : Chip) (s : Nat) : Nat × Nat :=
  match c.groupOf s with
  | some g => ((c.grp g).members.findIdx (· == s), (c.grp g).members.length)
  | none => (0, 0)

/-- The status word of LSTAT (R275). -/
def statusWord (c : Chip) (s : Nat) : Word :=
  let (m, n) := c.memberOf s
  Word.of (2 ^ 16 * m + 2 ^ 22 * n + match (c.comp s).held with
    | some h => 1 + 2 * h.closed.toNat + 4 * h.drawn.toNat + 8 * h.abandoned.toNat + 16 * min h.lputs 127 + 2 ^ 12 * (h.idx % 16)
    | none => 0)

/-- LSTAT (R275, R276). -/
def bodyLstat (k : Nat) (gd : BitVec 5) (c : Chip) : Res := onCore k (fun x => x.wr gd.toNat (statusWord c (k - 8))) c
/-- The command LSTAT. -/
def execLstat (k : Fin 64) (cond : BitVec 4) (gd : BitVec 5) (s : State) : Out := instr k cond cp1 (bodyLstat k gd) s

/-- Sorter cycles until the line start of unit `h`, at 1.2 cycles a nanosecond. -/
def Chip.cyclesTo (c : Chip) (g : Nat) (h : LineUnit) : Int :=
  let x := c.out g
  let lines : Int := ((x.timing.vstart + h.idx : Nat) : Int) - x.v
  (lines * x.timing.htotal * 12000000000 - ((c.now : Int) - x.lineAt) * 12 * x.timing.hz) / (10 * x.timing.hz)

/-- A signed value saturated to 32 bits. -/
def sat32 (v : Int) : Word := BitVec.ofInt 32 (max (-(2 ^ 31)) (min (2 ^ 31 - 1) v))

/-- LDEAD (R275, R276): with no unit held, or while the output does not run, the manual states no value: it is free. -/
def bodyLdead (k : Nat) (gd : BitVec 5) (c : Chip) : Res :=
  match (c.comp (k - 8)).held, c.groupOf (k - 8) with
  | some h, some g =>
    if c.running g then onCore k (fun x => x.wr gd.toNat (sat32 (c.cyclesTo g h))) c
    else (let (v, c) := c.freeWord; onCore k (fun x => x.wr gd.toNat v) c)
  | _, _ => let (v, c) := c.freeWord; onCore k (fun x => x.wr gd.toNat v) c
/-- The command LDEAD. -/
def execLdead (k : Fin 64) (cond : BitVec 4) (gd : BitVec 5) (s : State) : Out := instr k cond cp1 (bodyLdead k gd) s

/-- MTX (R275): x[xd] = g[ga]. -/
def bodyMtx (k : Nat) (xd : BitVec 4) (ga : BitVec 5) (c : Chip) : Res :=
  .done (c.setXreg (k - 8) xd.toNat ((c.core k).rd ga.toNat))
/-- The command MTX. -/
def execMtx (k : Fin 64) (cond : BitVec 4) (xd : BitVec 4) (ga : BitVec 5) (s : State) : Out := instr k cond cp1 (bodyMtx k xd ga) s

/-- MFX (R275): g[gd] = x[xa]. -/
def bodyMfx (k : Nat) (gd : BitVec 5) (xa : BitVec 4) (c : Chip) : Res :=
  onCore k (fun x => x.wr gd.toNat (c.xreg (k - 8) xa.toNat)) c
/-- The command MFX. -/
def execMfx (k : Fin 64) (cond : BitVec 4) (gd : BitVec 5) (xa : BitVec 4) (s : State) : Out := instr k cond cp1 (bodyMfx k gd xa) s

/-! ### Line parameters (R261, R262) -/

/-- What an instruction that needs a held unit does: nothing but ROUTE_ERR without one (R276). -/
def withUnit (k : Nat) (f : LineUnit → Chip → Res) (c : Chip) : Res :=
  match (c.comp (k - 8)).held with
  | some h => f h c
  | none => .done (routeErr (k - 8) c)

/-- The held unit of sorter core `k` replaced. -/
def Chip.setHeld (c : Chip) (k : Nat) (h : LineUnit) : Chip := c.modComp (k - 8) fun x => { x with held := some h }

/-- A PIDX that LSET may name (R262). -/
def pidxWritable (i : Nat) : Bool := (Nat.blt i 0x200 && (pidxOffset i).isSome) || (within 0x100 0x120 i && i % 8 < 7)

/-- LSET (R262, R276, R279): the private copy takes the value and loses the word's poison mark. -/
def bodyLset (k : Nat) (gi gv : BitVec 5) : Chip → Res :=
  withUnit k fun h c =>
    let i := ((c.core k).rd gi.toNat).bits 9 0
    if h.abandoned then .done c
    else if h.drawn || !pidxWritable i then .done (routeErr (k - 8) c)
    else
      .done (c.setHeld k { h with
        param := sset (fun _ => 0) h.param i ((c.core k).rd gv.toNat)
        mark := sset (fun _ => false) h.mark i false })
/-- The command LSET. -/
def execLset (k : Fin 64) (cond : BitVec 4) (gi gv : BitVec 5) (s : State) : Out := instr k cond cp1 (bodyLset k gi gv) s

/-- Line parameter `i` into g[gd] (R261, R262): a marked word is consumed poison (R51); its csr_eaddr is free. -/
def getParam (k i : Nat) (gd : BitVec 5) (h : LineUnit) (c : Chip) : Res :=
  if sget (fun _ => false) h.mark i then
    let c := c.poisonRecord k (c.scene h.out + match pidxOffset i with | some o => o | none => 0)
    let (a, c) := c.freeWord
    .trap c 0x0C a
  else
    let v : Word := if pidxWritable i || within 0x200 0x250 i then sget (fun _ => 0) h.param i else 0
    onCore k (fun x => x.wr gd.toNat v) c

/-- LGET (R262). -/
def bodyLget (k : Nat) (gd gi : BitVec 5) : Chip → Res :=
  withUnit k fun h c => getParam k (((c.core k).rd gi.toNat).bits 9 0) gd h c
/-- The command LGET. -/
def execLget (k : Fin 64) (cond : BitVec 4) (gd gi : BitVec 5) (s : State) : Out := instr k cond cp1 (bodyLget k gd gi) s

/-- LGETR (R275): route-area word `n`; 80 to 127 return 0. -/
def bodyLgetr (k : Nat) (gd : BitVec 5) (n : BitVec 7) : Chip → Res :=
  withUnit k fun h c => getParam k (0x200 + n.toNat) gd h c
/-- The command LGETR. -/
def execLgetr (k : Fin 64) (cond : BitVec 4) (gd : BitVec 5) (n : BitVec 7) (s : State) : Out := instr k cond cp1 (bodyLgetr k gd n) s

/-! ### Line-timed writes (R265, R266, R271) -/

/-- The target and value of an LPUT; none where the target is invalid (R265, R266, R301). -/
def lputTarget (tgt lo hi : Word) : Option (Option Nat × Nat) :=
  match tgt.bits 31 28 with
  | 0 => if tgt.bits 27 14 = 0 then some (some (tgt.bits 13 0), lo.toNat + hi.toNat * 2 ^ 32) else none
  | 1 => if tgt.bits 27 0 = 0x018 then some (none, lo.toNat) else none
  | _ => none

/-- LPUT xa (R265, R266, R271): `a` counts registers by fours. -/
def bodyLput (k : Nat) (a : BitVec 2) : Chip → Res :=
  withUnit k fun h c =>
    let s := k - 8
    let x (i : Nat) := c.xreg s (4 * a.toNat + i)
    let line := (x 3).bits 13 0
    match c.groupOf s, lputTarget (x 0) (x 1) (x 2) with
    | some g, some (entry, v) =>
      if h.abandoned then .done c
      else if h.closed || Nat.blt line h.line || Nat.blt (h.line + 15) line || Nat.ble (c.out h.out).timing.vactive line then
        .done (routeErr s c)
      else if Nat.ble (c.grp g).lputMax h.lputs then .done (c.revt g 2)
      else if Nat.ble 512 (c.grp g).log.length then .hold c
      else
        let w : LineWrite := ⟨h.out, entry, v, line, (x 3).bits 29 16, h.u, false⟩
        let c := c.modGrp g fun y => { y with log := y.log ++ [w] }
        .done (c.setHeld k { h with lputs := h.lputs + 1 })
    | _, _ => if h.abandoned then .done c else .done (routeErr s c)
/-- The command LPUT. -/
def execLput (k : Fin 64) (cond : BitVec 4) (a : BitVec 2) (s : State) : Out := instr k cond cp1 (bodyLput k a) s

/-! ### Closing, drawing, ending (R267, R268, R275) -/

/-- The held unit closes (R267). -/
def closeHeld (k : Nat) (h : LineUnit) (c : Chip) : Chip :=
  match c.groupOf (k - 8) with
  | some g => (closeUnit g h.u c).setHeld k { h with closed := true }
  | none => c.setHeld k { h with closed := true }

/-- LCLOSE (R267). -/
def bodyLclose (k : Nat) : Chip → Res := withUnit k fun h c => .done (if h.closed then c else closeHeld k h c)
/-- The command LCLOSE. -/
def execLclose (k : Fin 64) (cond : BitVec 4) (s : State) : Out := instr k cond cp1 (bodyLclose k) s

/-- LDRAW of the held unit `h` (R253, R267, R268): it closes, waits for the lower units, and is composed; whether it is over. -/
def drawHeld (k : Nat) (h : LineUnit) (c : Chip) : Bool × Chip :=
  let c := if h.closed then c else closeHeld k h c
  match c.groupOf (k - 8) with
  | none => (false, c)
  | some g =>
    if (c.grp g).belowClosed h.u then
      let n : LineUnit := { h with closed := true, drawn := true, drawing := false }
      (true, (drawUnit g n c).setHeld k n)
    else (false, c.setHeld k { h with closed := true, drawing := true })

/-- LDRAW (R275, R276, R279). -/
def bodyLdraw (k : Nat) : Chip → Res :=
  withUnit k fun h c =>
    if h.abandoned then .done c
    else if h.drawn then .done (routeErr (k - 8) c)
    else match drawHeld k h c with
      | (true, c) => .done c
      | (false, c) => .hold c
/-- The command LDRAW: while an earlier unit has not closed, the core stays on it. -/
def execLdraw (k : Fin 64) (cond : BitVec 4) (s : State) : Out := instr k cond cp1 (bodyLdraw k) s

/-- The member has ended its unit. -/
def endHeld (k : Nat) (c : Chip) : Chip := c.modComp (k - 8) fun x => { x with held := none }

/-- LEND (R275, R279): LDRAW if the unit has not been drawn, then the unit ends. -/
def bodyLend (k : Nat) : Chip → Res :=
  withUnit k fun h c =>
    if h.abandoned || h.drawn then .done (endHeld k c)
    else match drawHeld k h c with
      | (true, c) => .done (endHeld k c)
      | (false, c) => .hold c
/-- The command LEND. -/
def execLend (k : Fin 64) (cond : BitVec 4) (s : State) : Out := instr k cond cp1 (bodyLend k) s

end Sys2Proof.Machine
end

