-- ==== Sys2Proof/Machine/Lanes.lean ====
section
/-! DEFINITION. The lane registers of CP2 and its lane operations (R364 to R366, R370, R375). -/

namespace Sys2Proof.Machine

/-- A CP2 instruction: its coprocessor check precedes everything else (R119, R365). -/
def cp2 : Decoded := ⟨0, false, false, some 2, false⟩

/-- A CP2 word (R365). -/
def cp2Word (cond : BitVec 4) (op : BitVec 5) (d a b : BitVec 5) (m : BitVec 2) : Word :=
  cond ++ (0x3E : BitVec 6) ++ op ++ d ++ a ++ b ++ m

/-- A lane: 32 bits and a poison mark. -/
structure Lane where
  val : Word
  mark : Bool
  deriving DecidableEq, Repr

/-- The horn of core `k`. -/
def hornOf (k : Nat) : Nat := k - 56

/-- Lane `i` of v[r] of horn core `k`. -/
def Chip.lane (c : Chip) (k r i : Nat) : Lane :=
  let u := c.hornU (hornOf k)
  ⟨sget (fun _ => 0) u.v (r * 8 + i), sget (fun _ => false) u.mark (r * 8 + i)⟩

/-- The eight lanes of v[r]. -/
def Chip.lanesOf (c : Chip) (k r : Nat) : List Lane := (List.range 8).map fun i => c.lane k r i

/-- Lane `i` of v[r] written. -/
def Chip.setLane (c : Chip) (k r i : Nat) (l : Lane) : Chip :=
  c.modHorn (hornOf k) fun u => { u with
    v := sset (fun _ => 0) u.v (r * 8 + i) l.val
    mark := sset (fun _ => false) u.mark (r * 8 + i) l.mark }

/-- v[r] written with eight lanes. -/
def Chip.setLanes (c : Chip) (k r : Nat) (l : List Lane) : Chip :=
  forAll (List.range 8) (fun i c => c.setLane k r i (l.getD i ⟨0, false⟩)) c

/-- A lane operation on va (R366, R370). -/
def lane1 (k : Nat) (d a : BitVec 5) (f : Word → Word) (c : Chip) : Res :=
  .done (c.setLanes k d.toNat ((c.lanesOf k a.toNat).map fun x => ⟨f x.val, x.mark⟩))

/-- A lane operation on va and vb: a result lane is marked where it depends on a marked lane (R370). -/
def lane2 (k : Nat) (d a b : BitVec 5) (f : Word → Word → Word) (c : Chip) : Res :=
  .done (c.setLanes k d.toNat (List.zipWith (fun x y => ⟨f x.val y.val, x.mark || y.mark⟩) (c.lanesOf k a.toNat) (c.lanesOf k b.toNat)))

/-- VADD (R366): rn(a + b). -/
def bodyVadd (k : Nat) (d a b : BitVec 5) : Chip → Res := lane2 k d a b F32.add
/-- The command VADD. -/
def execVadd (k : Fin 64) (cond : BitVec 4) (vd va vb : BitVec 5) (s : State) : Out := instr k cond cp2 (bodyVadd k vd va vb) s

/-- VSUB (R366): rn(a - b). -/
def bodyVsub (k : Nat) (d a b : BitVec 5) : Chip → Res := lane2 k d a b F32.sub
/-- The command VSUB. -/
def execVsub (k : Fin 64) (cond : BitVec 4) (vd va vb : BitVec 5) (s : State) : Out := instr k cond cp2 (bodyVsub k vd va vb) s

/-- VMUL (R366): rn(a × b). -/
def bodyVmul (k : Nat) (d a b : BitVec 5) : Chip → Res := lane2 k d a b F32.mul
/-- The command VMUL. -/
def execVmul (k : Fin 64) (cond : BitVec 4) (vd va vb : BitVec 5) (s : State) : Out := instr k cond cp2 (bodyVmul k vd va vb) s

/-- VMAC (R366): d = rn(d + rn(a × b)). -/
def bodyVmac (k : Nat) (d a b : BitVec 5) (c : Chip) : Res :=
  .done (c.setLanes k d.toNat ((List.range 8).map fun i =>
    let x := c.lane k a.toNat i
    let y := c.lane k b.toNat i
    let z := c.lane k d.toNat i
    ⟨F32.add z.val (F32.mul x.val y.val), x.mark || y.mark || z.mark⟩))
/-- The command VMAC. -/
def execVmac (k : Fin 64) (cond : BitVec 4) (vd va vb : BitVec 5) (s : State) : Out := instr k cond cp2 (bodyVmac k vd va vb) s

/-- The lesser (or greater) of two numbers; with a NaN the manual states no result: it is free. -/
def minMax (greater : Bool) (a b : Word) (c : Chip) : Word × Chip :=
  if F32.isNan a || F32.isNan b then c.freeWord else (if greater then F32.max a b else F32.min a b, c)

/-- VMINMAX (R366): -0 is below +0. -/
def bodyVminmax (k : Nat) (d a b : BitVec 5) (greater : Bool) (c : Chip) : Res :=
  let xs := c.lanesOf k a.toNat
  let ys := c.lanesOf k b.toNat
  .done (forAll (List.range 8) (fun i c =>
    let x := xs.getD i ⟨0, false⟩
    let y := ys.getD i ⟨0, false⟩
    let (v, c) := minMax greater x.val y.val c
    c.setLane k d.toNat i ⟨v, x.mark || y.mark⟩) c)
/-- The command VMINMAX: `greater` is M. -/
def execVminmax (k : Fin 64) (cond : BitVec 4) (vd va vb : BitVec 5) (greater : Bool) (s : State) : Out :=
  instr k cond cp2 (bodyVminmax k vd va vb greater) s

/-- VUNARY (R366): M 0 absolute value, 1 negation, 2 square root. -/
def bodyVunary (k : Nat) (d a : BitVec 5) (m : Nat) : Chip → Res :=
  lane1 k d a (match m with | 0 => F32.abs | 1 => F32.neg | _ => F32.sqrt)
/-- The command VUNARY: M 3 is unassigned. -/
def execVunary (k : Fin 64) (cond : BitVec 4) (vd va : BitVec 5) (m : BitVec 2) (s : State) : Out :=
  instr k cond { cp2 with word := cp2Word cond 0x05 vd va 0 m, illegal := m == 3 } (bodyVunary k vd va m.toNat) s

/-- VDIV (R366): rn(a / b). -/
def bodyVdiv (k : Nat) (d a b : BitVec 5) : Chip → Res := lane2 k d a b F32.div
/-- The command VDIV. -/
def execVdiv (k : Fin 64) (cond : BitVec 4) (vd va vb : BitVec 5) (s : State) : Out := instr k cond cp2 (bodyVdiv k vd va vb) s

/-- The scale s that M selects: 0, 7, 15, 31. -/
def cvtScale (m : BitVec 2) : Nat := match m.toNat with | 0 => 0 | 1 => 7 | 2 => 15 | _ => 31

/-- VCVTF (R366): rn(a) × 2^-s. -/
def bodyVcvtf (k : Nat) (d a : BitVec 5) (m : BitVec 2) : Chip → Res := lane1 k d a fun x => F32.ofScaled x.toInt (cvtScale m)
/-- The command VCVTF. -/
def execVcvtf (k : Fin 64) (cond : BitVec 4) (vd va : BitVec 5) (m : BitVec 2) (s : State) : Out := instr k cond cp2 (bodyVcvtf k vd va m) s

/-- VCVTI (R366): the rn-even integer of a × 2^s, saturated to 32 bits; a NaN gives 0. -/
def bodyVcvti (k : Nat) (d a : BitVec 5) (m : BitVec 2) : Chip → Res :=
  lane1 k d a fun x => BitVec.ofInt 32 (F32.toInt x (cvtScale m) (-(2 ^ 31)) (2 ^ 31 - 1))
/-- The command VCVTI. -/
def execVcvti (k : Fin 64) (cond : BitVec 4) (vd va : BitVec 5) (m : BitVec 2) (s : State) : Out := instr k cond cp2 (bodyVcvti k vd va m) s

/-- VIADD (R366): M 0 a + b, M 1 a - b. -/
def bodyViadd (k : Nat) (d a b : BitVec 5) (sub : Bool) : Chip → Res := lane2 k d a b fun x y => if sub then x - y else x + y
/-- The command VIADD: `sub` is M. -/
def execViadd (k : Fin 64) (cond : BitVec 4) (vd va vb : BitVec 5) (sub : Bool) (s : State) : Out :=
  instr k cond cp2 (bodyViadd k vd va vb sub) s

/-- VLOGIC (R366): M 0 and, 1 or, 2 xor, 3 a and not b. -/
def bodyVlogic (k : Nat) (d a b : BitVec 5) (m : BitVec 2) : Chip → Res :=
  lane2 k d a b fun x y => match m.toNat with | 0 => x &&& y | 1 => x ||| y | 2 => x ^^^ y | _ => x &&& ~~~y
/-- The command VLOGIC. -/
def execVlogic (k : Fin 64) (cond : BitVec 4) (vd va vb : BitVec 5) (m : BitVec 2) (s : State) : Out :=
  instr k cond cp2 (bodyVlogic k vd va vb m) s

/-- VSHI (R366): M 0 left, 1 logical right, 2 arithmetic right. -/
def bodyVshi (k : Nat) (d a n : BitVec 5) (m : BitVec 2) : Chip → Res := lane1 k d a (shiftBy m.toNat n.toNat)
/-- The command VSHI: M 3 is unassigned. -/
def execVshi (k : Fin 64) (cond : BitVec 4) (vd va n : BitVec 5) (m : BitVec 2) (s : State) : Out :=
  instr k cond { cp2 with word := cp2Word cond 0x0B vd va n m, illegal := m == 3 } (bodyVshi k vd va n m) s

/-- The compare of VCMP. -/
def laneCmp (m : Nat) (a b : Word) : Bool :=
  match m with | 0 => F32.lt a b | 1 => F32.le a b | 2 => F32.eq a b | _ => a.ult b

/-- VCMP (R366): M 0 a < b, 1 a ≤ b, 2 a = b (binary32), 3 a < b (unsigned). -/
def bodyVcmp (k : Nat) (d a b : BitVec 5) (m : BitVec 2) : Chip → Res :=
  lane2 k d a b fun x y => if laneCmp m.toNat x y then 0xFFFFFFFF else 0
/-- The command VCMP. -/
def execVcmp (k : Fin 64) (cond : BitVec 4) (vd va vb : BitVec 5) (m : BitVec 2) (s : State) : Out := instr k cond cp2 (bodyVcmp k vd va vb m) s

/-- VSEL (R366): a where d ≠ 0, else b. -/
def bodyVsel (k : Nat) (d a b : BitVec 5) (c : Chip) : Res :=
  .done (c.setLanes k d.toNat ((List.range 8).map fun i =>
    let z := c.lane k d.toNat i
    let x := if z.val != 0 then c.lane k a.toNat i else c.lane k b.toNat i
    ⟨x.val, x.mark || z.mark⟩))
/-- The command VSEL. -/
def execVsel (k : Fin 64) (cond : BitVec 4) (vd va vb : BitVec 5) (s : State) : Out := instr k cond cp2 (bodyVsel k vd va vb) s

/-- VBCAST (R366): every lane = g[ga]. -/
def bodyVbcast (k : Nat) (d ga : BitVec 5) (c : Chip) : Res :=
  .done (c.setLanes k d.toNat (List.replicate 8 ⟨(c.core k).rd ga.toNat, false⟩))
/-- The command VBCAST. -/
def execVbcast (k : Fin 64) (cond : BitVec 4) (vd ga : BitVec 5) (s : State) : Out := instr k cond cp2 (bodyVbcast k vd ga) s

/-- VINS (R366): lane n = g[ga]. -/
def bodyVins (k : Nat) (d ga : BitVec 5) (n : BitVec 3) (c : Chip) : Res :=
  .done (c.setLane k d.toNat n.toNat ⟨(c.core k).rd ga.toNat, false⟩)
/-- The command VINS. -/
def execVins (k : Fin 64) (cond : BitVec 4) (vd ga : BitVec 5) (n : BitVec 3) (s : State) : Out := instr k cond cp2 (bodyVins k vd ga n) s

/-- VEXT (R366, R370): g[gd] = lane n of va; a marked lane takes the data-error exception, whose csr_eaddr is free. -/
def bodyVext (k : Nat) (gd a : BitVec 5) (n : BitVec 3) (c : Chip) : Res :=
  let x := c.lane k a.toNat n.toNat
  if x.mark then (let (e, c) := (c.poisonRecord k 0).freeWord; .trap c 0x0C e)
  else onCore k (fun y => y.wr gd.toNat x.val) c
/-- The command VEXT. -/
def execVext (k : Fin 64) (cond : BitVec 4) (gd va : BitVec 5) (n : BitVec 3) (s : State) : Out := instr k cond cp2 (bodyVext k gd va n) s

/-- VTRN (R366): v[d + j] lane i = v[a + i] lane j. -/
def bodyVtrn (k : Nat) (d a : BitVec 5) (c : Chip) : Res :=
  .done (forAll (List.range 8) (fun j d' =>
    d'.setLanes k (d.toNat + j) ((List.range 8).map fun i => c.lane k (a.toNat + i) j)) c)
/-- The command VTRN: D and A are multiples of 8 and differ; any other word is unassigned. -/
def execVtrn (k : Fin 64) (cond : BitVec 4) (vd va : BitVec 5) (s : State) : Out :=
  instr k cond { cp2 with word := cp2Word cond 0x11 vd va 0 0, illegal := vd.toNat % 8 != 0 || va.toNat % 8 != 0 || vd == va }
    (bodyVtrn k vd va) s

/-- VSIN (R375): S(a) of each lane as a phase. -/
def bodyVsin (k : Nat) (d a : BitVec 5) : Chip → Res := lane1 k d a fun x => F32.sinePhase x.toNat 0
/-- The command VSIN. -/
def execVsin (k : Fin 64) (cond : BitVec 4) (vd va : BitVec 5) (s : State) : Out := instr k cond cp2 (bodyVsin k vd va) s

end Sys2Proof.Machine
end

