-- ==== Sys2Proof/Machine/Cp2.lean ====
section
/-! DEFINITION. CP2's memory accesses, biquads, dynamics, and its runs and points (R366 to R370, R387 to R389). -/

namespace Sys2Proof.Machine

/-! ### Memory (R366, R370) -/

/-- The places of CP2 accesses at the addresses given, aligned to `al` (R102, R107, R110): access form, then region. -/
def cp2Places (k : Nat) (u : Use) (al : Nat) (eas : List Word) (c : Chip) : Except (Nat × Word) (List Phys) × Chip :=
  match eas.find? fun ea => ea.toNat % al != 0 with
  | some ea => (.error (0x09, ea), c)
  | none =>
    match placePieces k u (eas.map fun ea => (ea, 4)) c with
    | ((some ea, _), c) => (.error ((match u with | .store => 0x08 | _ => 0x07), ea), c)
    | ((none, ps), c) => (.ok (ps.map fun p => p.1), c)

/-- The older stores of the core that a CP2 access at `p` must follow: those that it would overlook in the store buffer, and for a store
every one (R36); a device access waits for the previous one (R148). -/
def cp2Ready (k : Nat) (store : Bool) (p : Phys) (c : Chip) : Chip :=
  let c := if store || inOwnRam k p.pa then drainBefore k c else c
  if p.device then ackDevice k c else c

/-- Word `i` of a read, with its poison mark. -/
def laneAt (k pa : Nat) (l : Load) (i : Nat) : Lane :=
  let r := l.chip.region k pa
  ⟨Word.of (nbits l.val (32 * i + 31) (32 * i)),
    if memRegion r then l.chip.wordPoison r (pa + 4 * i) || l.chip.deadDram r (pa + 4 * i) else l.poison⟩

/-- Words read at the places given, `n` at each; the address of the first read that ends in a bus error. -/
def cp2Read (k n : Nat) : List (Word × Phys) → Chip → Except Word (List Lane) × Chip
  | [], c => (.ok [], c)
  | (ea, p) :: t, c =>
    let l := busLoad k false p.pa (4 * n) (cp2Ready k false p c)
    if l.err then (.error ea, l.chip)
    else
      let w := (List.range n).map (laneAt k p.pa l)
      match cp2Read k n t l.chip with
      | (.error e, c) => (.error e, c)
      | (.ok ls, c) => (.ok (w ++ ls), c)

/-- A CP2 load of `n` words at each of the addresses (R366, R370): `f` takes the words; a load from outside own local memory holds the
pipeline until its data returns (R148). -/
def cp2Load (k n al : Nat) (eas : List Word) (f : List Lane → Chip → Chip) (c : Chip) : Res :=
  match cp2Places k .load al eas c with
  | (.error (cause, a), c) => .trap c cause a
  | (.ok ps, c) =>
    if c.accessWaits k false (ps.map fun p => (p, 4 * n)) then .hold c
    else watchedRead (fireWatches k .load eas (4 * n) c) fun c =>
      match cp2Read k n (eas.zip ps) c with
      | (.error ea, c) => .trap c 0x0A ea
      | (.ok l, c) =>
        let far := ps.any fun p => !inOwnRam k p.pa
        .done (f l (if far then c.modCore k fun x => { x with loadHeld := true } else c))

/-- VLD (R366, R370): 32 bytes; a poisoned word marks its lane. -/
def bodyVld (k : Nat) (d ga : BitVec 5) (c : Chip) : Res :=
  cp2Load k 8 32 [(c.core k).rd ga.toNat] (fun l c => c.setLanes k d.toNat l) c
/-- The command VLD. -/
def execVld (k : Fin 64) (cond : BitVec 4) (vd ga : BitVec 5) (s : State) : Out := instr k cond cp2 (bodyVld k vd ga) s

/-- Lanes stored as words at `pa`: a marked lane stores the poison code in its word (R164, R370). -/
def storeLanes (k pa : Nat) (l : List Lane) (c : Chip) : Bool × Chip :=
  let r := c.region k pa
  match busStore k pa (l.flatMap fun x => leBytes 4 x.val.toNat) c with
  | (true, c) => (true, c)
  | (false, c) =>
    (false, forAll (l.zip (List.range l.length)) (fun x c =>
      if x.1.mark && memRegion r then (c.markPoison r (pa + 4 * x.2)).poisonRecord k (pa + 4 * x.2) else c) c)

/-- VST (R366, R370). -/
def bodyVst (k : Nat) (a ga : BitVec 5) (c : Chip) : Res :=
  let ea := (c.core k).rd ga.toNat
  match cp2Places k .store 32 [ea] c with
  | (.error (cause, a), c) => .trap c cause a
  | (.ok ps, c) =>
    if c.accessWaits k true (ps.map fun p => (p, 32)) then .hold c
    else watchedWrite (fireWatch k .store ea 32 c) fun c =>
      .done (ps.foldl (fun c p =>
        let (err, c) := storeLanes k p.pa (c.lanesOf k a.toNat) (cp2Ready k true p c)
        if inOwnRam k p.pa then c
        else c.modCore k fun x => { x with posted := x.posted ++ postStore k p.pa p.device false (if err then [ea] else []) }) c)
/-- The command VST. -/
def execVst (k : Fin 64) (cond : BitVec 4) (va ga : BitVec 5) (s : State) : Out := instr k cond cp2 (bodyVst k va ga) s

/-- VGATH (R366): lane = mem32[g[gb] + 4 × a]; the lane of a marked index is marked. -/
def bodyVgath (k : Nat) (d a gb : BitVec 5) (c : Chip) : Res :=
  let base := (c.core k).rd gb.toNat
  let idx := c.lanesOf k a.toNat
  cp2Load k 1 4 (idx.map fun x => base + x.val * 4)
    (fun l c => c.setLanes k d.toNat (l.zipWith (fun (y x : Lane) => ⟨y.val, y.mark || x.mark⟩) idx)) c
/-- The command VGATH. -/
def execVgath (k : Fin 64) (cond : BitVec 4) (vd va gb : BitVec 5) (s : State) : Out := instr k cond cp2 (bodyVgath k vd va gb) s

/-- A place in own local RAM for an instruction that reads and writes `n` bytes there, with its watches; elsewhere a region exception. -/
def ownPlace (k : Nat) (ea : Word) (n al : Nat) (c : Chip) : Except Res Nat × Chip :=
  match cp2Places k .load al [ea] c with
  | (.error (cause, a), c) => (.error (.trap c cause a), c)
  | (.ok ps, c) =>
    let pa := match ps with | p :: _ => p.pa | [] => 0
    if !inOwnRam k pa || !inOwnRam k (pa + n - 1) then (.error (.trap c 0x07 ea), c)
    else match translate k .store ea c with
      | (none, c) => (.error (.trap c 0x08 ea), c)
      | (some _, c) =>
        match fireWatch k .load ea n c with
        | (.halt h, c) => (.error (.stop c h), c)
        | (.trap a, c) => (.error (.trap c 0x0E a), c)
        | (.no, c) =>
          match fireWatch k .store ea n c with
          | (.halt h, c) => (.error (.stop c h), c)
          | (.trap a, c) => (.error (.trap c 0x0E a), c)
          | (.no, c) => (.ok pa, drainBefore k c)

/-- `n` words of own local RAM from `pa`. -/
def ownWords (k pa n : Nat) (c : Chip) : List Lane × Chip :=
  let l := busLoad k false pa (4 * n) c
  ((List.range n).map (laneAt k pa l), l.chip)

/-- Words stored in own local RAM with their marks as poison; no point of architectural use. -/
def ownStore (k pa : Nat) (l : List Lane) (c : Chip) : Chip :=
  let r := c.region k pa
  let c := (busStore k pa (l.flatMap fun x => leBytes 4 x.val.toNat) c).2
  forAll (l.zip (List.range l.length)) (fun x c => if x.1.mark then c.markPoison r (pa + 4 * x.2) else c) c

/-- A biquad's step (R367): y from its coefficients and state. -/
def biquad (b0 b1 b2 a1 a2 x x1 x2 y1 y2 : Word) : Word :=
  F32.sub (F32.sub (F32.add (F32.add (F32.mul b0 x) (F32.mul b1 x1)) (F32.mul b2 x2)) (F32.mul a1 y1)) (F32.mul a2 y2)

/-- VBIQ (R367, R370): a marked input lane is read as 0.0. -/
def bodyVbiq (k : Nat) (d a gb : BitVec 5) (c : Chip) : Res :=
  match ownPlace k ((c.core k).rd gb.toNat) 288 32 c with
  | (.error r, _) => r
  | (.ok pa, c) =>
    let xs := c.lanesOf k a.toNat
    let (w, c) := ownWords k pa 72 c
    let m (v i : Nat) := w.getD (8 * v + i) ⟨0, false⟩
    let out := (List.range 8).map fun i =>
      let x := xs.getD i ⟨0, false⟩
      let xv := if x.mark then 0 else x.val
      let y := biquad (m 0 i).val (m 1 i).val (m 2 i).val (m 3 i).val (m 4 i).val xv (m 5 i).val (m 6 i).val (m 7 i).val (m 8 i).val
      let bad := (List.range 9).any fun v => (m v i).mark
      (xv, y, bad, x.mark || bad)
    let c := ownStore k (pa + 160) (out.map (fun o => (⟨o.1, false⟩ : Lane)) ++ (List.range 8).map (m 5)
      ++ out.map (fun o => (⟨o.2.1, o.2.2.1⟩ : Lane)) ++ (List.range 8).map (m 7)) c
    .done (c.setLanes k d.toNat (out.map fun o => ⟨o.2.1, o.2.2.2⟩))
/-- The command VBIQ. -/
def execVbiq (k : Fin 64) (cond : BitVec 4) (vd va gb : BitVec 5) (s : State) : Out := instr k cond cp2 (bodyVbiq k vd va gb) s

/-! ### Dynamics (R388, R389) -/

/-- The gain of a dynamics block for the detector value `e` (R388). -/
def dynGain (x : DynOn) (e : Word) : Word :=
  let q := if F32.lt x.thr e then F32.div x.thr e else F32.one
  match x.mode with
  | 0 => F32.one
  | 1 => F32.sqrt q
  | 2 => F32.mul (F32.sqrt q) (F32.sqrt (F32.sqrt q))
  | _ => q

/-- One sample of a dynamics block (R388): the outputs of both channels. -/
def dynSample (x : DynOn) (l r : Word) : Word × Word × DynOn :=
  let lv := F32.abs l
  let rv := F32.abs r
  let p := if x.link then F32.max lv rv else lv
  let a := if F32.lt x.e p then x.att else x.rel
  let e := F32.add x.e (F32.mul a (F32.sub p x.e))
  let g := dynGain x e
  let delay (v : Word) (line : List Word) := if x.la = 0 then v else line.getD (x.la - 1) 0
  let out (v : Word) := F32.mul (F32.mul v g) x.makeup
  (out (delay l x.dl), out (delay r x.dr), { x with e := e, dl := (l :: x.dl).take x.la, dr := (r :: x.dr).take x.la })

/-- DYN (R389, R370): eight samples of each channel; a marked lane is read as 0.0 and marks its own channel's output; the right output of a block without LINK is not stated: it is free. -/
def bodyDyn (k : Nat) (d a gb : BitVec 5) (c : Chip) : Res :=
  let b := ((c.core k).rd gb.toNat).bits 3 0
  let ls := c.lanesOf k a.toNat
  let rs := c.lanesOf k ((a.toNat + 1) % 32)
  .done (forAll (List.range 8) (fun i c =>
    let l := ls.getD i ⟨0, false⟩
    let r := rs.getD i ⟨0, false⟩
    let x := c.dynOn b
    let (lo, ro, y) := dynSample x (if l.mark then 0 else l.val) (if r.mark then 0 else r.val)
    let c := c.modDyn b fun _ => y
    let (ro, c) := if x.link then (ro, c) else c.freeWord
    (c.setLane k d.toNat i ⟨lo, l.mark⟩).setLane k ((d.toNat + 1) % 32) i ⟨ro, r.mark⟩) c)
/-- The command DYN. -/
def execDyn (k : Fin 64) (cond : BitVec 4) (vd va gb : BitVec 5) (s : State) : Out := instr k cond cp2 (bodyDyn k vd va gb) s

/-! ### Runs (R368) -/

/-- The block word of SNEXT (R368). -/
def blockWord (r : HornRun) : Word :=
  Word.of (r.block % 2 ^ 24 + 2 ^ 24 * r.dom + 2 ^ 26 * r.old.toNat + 2 ^ 27 * r.fade.toNat + 2 ^ 28 * r.first.toNat)

/-- SNEXT (R368): waits for an offered run. -/
def bodySnext (k : Nat) (gd ge : BitVec 5) (c : Chip) : Res :=
  match (c.hornU (hornOf k)).offers with
  | [] => .hold c
  | r :: t =>
    let c := c.modHorn (hornOf k) fun u => { u with offers := t, cur := some r, barred := false, writes := [] }
    .done (c.modCore k fun x => (x.wr gd.toNat (blockWord r)).wr ge.toNat r.entry)
/-- The command SNEXT. -/
def execSnext (k : Fin 64) (cond : BitVec 4) (gd ge : BitVec 5) (s : State) : Out := instr k cond cp2 (bodySnext k gd ge) s

/-- The run that a horn holds, as its domain keeps it. -/
def Chip.runOf (c : Chip) (r : HornRun) : Option BlockRun :=
  (c.adom r.dom).runs.find? fun x => x.block == r.block && x.old == r.old

/-- That run changed. -/
def Chip.modRun (c : Chip) (r : HornRun) (f : BlockRun → BlockRun) : Chip :=
  c.modDom r.dom fun x => { x with runs := x.runs.map fun y => if y.block == r.block && y.old == r.old then f y else y }

/-- SSTAT (R366): the block status, or the state bank of the run.  What STAGE holds is not stated: it is free; so is the bank
without a run. -/
def bodySstat (k : Nat) (gd : BitVec 5) (bank : Bool) (c : Chip) : Res :=
  let cur := (c.hornU (hornOf k)).cur
  if bank then
    match cur with
    | some r => onCore k (fun x => x.wr gd.toNat (Word.of (c.stateBase + if r.old then 0x10000 else 0))) c
    | none => let (v, c) := c.freeWord; onCore k (fun x => x.wr gd.toNat v) c
  else
    let d := match cur with | some r => r.dom | none => (c.reg AUD_HMAP).bits (2 * hornOf k + 1) (2 * hornOf k)
    let (stage, c) := c.freeBits 3
    onCore k (fun x => x.wr gd.toNat (Word.of (cur.isSome.toNat + 2 * stage + 16 * (c.hornsOf d).length))) c
/-- The command SSTAT: `bank` is M. -/
def execSstat (k : Fin 64) (cond : BitVec 4) (gd : BitVec 5) (bank : Bool) (s : State) : Out := instr k cond cp2 (bodySstat k gd bank) s

/-- The barriers that horn `h` has issued in a run. -/
def BlockRun.barCount (x : BlockRun) (h : Nat) : Nat := sget (fun _ => 0) x.bars h

/-- SBAR (R368): counted once, then it waits until every horn of the domain has issued as many, or SEND. -/
def bodySbar (k : Nat) (c : Chip) : Res :=
  let h := hornOf k
  match (c.hornU h).cur with
  | none => .done c
  | some r =>
    let c := if (c.hornU h).barred then c else
      (c.modHorn h fun u => { u with barred := true }).modRun r fun x => { x with bars := smod (fun _ => 0) x.bars h (· + 1) }
    match c.runOf r with
    | none => .done (c.modHorn h fun u => { u with barred := false })
    | some x =>
      if x.horns.all fun j => x.ended.contains j || Nat.ble (x.barCount h) (x.barCount j) then
        .done (c.modHorn h fun u => { u with barred := false })
      else .hold c
/-- The command SBAR. -/
def execSbar (k : Fin 64) (cond : BitVec 4) (s : State) : Out := instr k cond cp2 (bodySbar k) s

/-- SEND (R368, R369, R361): the horn's writes join the run's, and the horn has ended it. -/
def bodySend (k : Nat) (c : Chip) : Res :=
  let h := hornOf k
  let u := c.hornU h
  match u.cur with
  | none => .done c
  | some r =>
    let c := c.modHorn h fun u => { u with cur := none, barred := false, writes := [] }
    let c := c.modRun r fun x => { x with
      ended := if x.ended.contains h then x.ended else x.ended ++ [h]
      pts := u.writes.foldl (fun m p => sset noSample m (h * 16384 + p.1) p.2) x.pts }
    .done (tryCommit r.dom r.block c)
/-- The command SEND. -/
def execSend (k : Fin 64) (cond : BitVec 4) (s : State) : Out := instr k cond cp2 (bodySend k) s

/-! ### Points (R369, R370) -/

/-- Point and first sample that g[gb] names. -/
def pointOf (w : Word) : Nat × Nat := (w.bits 7 0, w.bits 13 8 * 8)

/-- SOUT (R369, R370): held until SEND; a marked lane plays 0.0, sets POISON and is recorded.  Samples at or beyond BLK, and
those of a horn without a run, are discarded. -/
def bodySout (k : Nat) (a gb : BitVec 5) (c : Chip) : Res :=
  let h := hornOf k
  let (p, o) := pointOf ((c.core k).rd gb.toNat)
  match (c.hornU h).cur with
  | none => .done c
  | some r =>
    if c.blk r.dom ≤ o then .done c
    else
      let l := c.lanesOf k a.toNat
      let c := if l.any fun x => x.mark then pointFault 7 r.dom p (c.poisonRecord k p) else c
      .done (c.modHorn h fun u => { u with
        writes := (List.range 8).foldl (fun m i =>
          let x := l.getD i ⟨0, false⟩
          sset noSample m (p * 64 + o + i) (some (if x.mark then 0 else x.val))) u.writes })
/-- The command SOUT. -/
def execSout (k : Fin 64) (cond : BitVec 4) (va gb : BitVec 5) (s : State) : Out := instr k cond cp2 (bodySout k va gb) s

/-- Sample `i` of input point `p` for a run: a receive slot's, a bridge's; any other is free. -/
def inputSample (r : HornRun) (p i : Nat) (c : Chip) : Word × Chip :=
  let v :=
    if p < 0x20 then (match c.runOf r with | some x => sget noSample x.input (p * 64 + i) | none => none)
    else if within 0x70 0x80 p then c.bridgeY (p - 0x70) (r.block * c.blk r.dom + i)
    else none
  match v with | some w => (w, c) | none => c.freeWord

/-- SIN (R369). -/
def bodySin (k : Nat) (d gb : BitVec 5) (c : Chip) : Res :=
  let (p, o) := pointOf ((c.core k).rd gb.toNat)
  .done (forAll (List.range 8) (fun i c =>
    let (v, c) := match (c.hornU (hornOf k)).cur with
      | some r => if o + i < c.blk r.dom then inputSample r p (o + i) c else c.freeWord
      | none => c.freeWord
    c.setLane k d.toNat i ⟨v, false⟩) c)
/-- The command SIN. -/
def execSin (k : Fin 64) (cond : BitVec 4) (vd gb : BitVec 5) (s : State) : Out := instr k cond cp2 (bodySin k vd gb) s

end Sys2Proof.Machine
end

