-- ==== Sys2Proof/Machine/Voice.lean ====
section
/-! DEFINITION. Voices: VGEN (R371 to R376, R378). -/

namespace Sys2Proof.Machine

/-! ### A voice in the making -/

/-- A voice while VGEN runs: words 0 to 11 as read, 12 to 15 as they change, that a word it depends on is poisoned, the
operators' words (FM), and where its record and data lie. -/
structure Voice where
  w : List Nat
  w12 : Nat
  w13 : Nat
  gain : Word
  w15 : Nat
  bad : Bool
  ops : List Lane
  base : Nat
  deriving DecidableEq, Repr

def Voice.word (v : Voice) (i : Nat) : Nat := v.w.getD i 0
def Voice.f (v : Voice) (msb lsb : Nat) : Nat := nbits (v.word 0) msb lsb

/-- TYPE; 7 acts as 0. -/
def Voice.type (v : Voice) : Nat := if v.f 2 0 = 7 then 0 else v.f 2 0
def Voice.loops (v : Voice) : Bool := v.f 4 4 == 1
def Voice.ended (v : Voice) : Bool := nbits v.w15 31 31 == 1
/-- The voice sounds (R373). -/
def Voice.sounds (v : Voice) : Bool := v.f 3 3 == 1 && v.type != 0 && !v.ended

/-- What a step of a voice gives: y, whether it depends on poison. -/
structure Tone where
  y : Word
  mark : Bool
  deriving DecidableEq, Repr

/-- A tone whose value the manual does not state. -/
def freeTone (c : Chip) : Tone × Chip := let (w, c) := c.freeWord; (⟨w, false⟩, c)

/-- `n` bytes of sample data at byte offset `off`, in audio RAM or in own local RAM (R372), with poison; beyond the RAM the
manual states no data: it is free. -/
def voiceBytes (v : Voice) (off n : Nat) (c : Chip) : (Nat × Bool) × Chip :=
  let (r, b, size) : Region × Nat × Nat :=
    if v.f 5 5 = 1 then (.audio, 0x1010000000, 0x400000) else (.hornRam ((v.base - 0x1030000000) / 0x40000), v.base, 0x40000)
  if size < off + n then (let (x, c) := c.freeBits (8 * n); ((x, false), c))
  else
    let l := memLoad r (b + off) n c
    ((l.val, l.poison), l.chip)

/-- Sample `i` of PCM data of `n` bytes a sample, scaled to ±1 (R374). -/
def pcmSample (v : Voice) (n i : Nat) (c : Chip) : (Word × Bool) × Chip :=
  let ((x, p), c) := voiceBytes v (v.word 1 + n * i) n c
  ((F32.ofScaled (sextInt (8 * n) x) (8 * n - 1), p), c)

/-- rn(a + rn(f × rn(b - a))) (R374). -/
def interpolate (a b f : Word) : Word := F32.add a (F32.mul f (F32.sub b a))

/-! ### The types (R374 to R376) -/

/-- ENDED is set. -/
def Voice.stop (v : Voice) : Voice := { v with w15 := v.w15 % 2 ^ 31 + 2 ^ 31 }

/-- PCM8 and PCM16 of `n` bytes a sample (R374): y, then the position advances, wraps or ends. -/
def pcmTone (n : Nat) (v : Voice) (c : Chip) : (Tone × Voice) × Chip :=
  let pos := v.w12
  let len := v.word 2
  let ((s0, p0), c) := pcmSample v n pos c
  let next := pos + 1
  let ((s1, p1), c) :=
    if next = len then (if v.loops then pcmSample v n (v.word 3) c else ((0, false), c)) else pcmSample v n next c
  let f := F32.ofScaled (v.w13 % 65536) 16
  let a := pos * 65536 + v.w13 % 65536 + v.word 4
  let np := a / 65536
  let v := { v with w13 := v.w13 / 65536 * 65536 + a % 65536 }
  let t : Tone := ⟨interpolate s0 s1 f, p0 || p1⟩
  if np < len then ((t, { v with w12 := np }), c)
  else if v.loops then
    let back := v.word 3
    if back < len then ((t, { v with w12 := back + (np - back) % (len - back) }), c)
    else (let (x, c) := c.freeBits 32; ((t, { v with w12 := x }), c))
  else ((t, { v.stop with w12 := np % 2 ^ 32 }), c)

/-- A wavetable of 2^n samples (R374); n outside 4 to 12 is not stated. -/
def waveTone (v : Voice) (c : Chip) : (Tone × Voice) × Chip :=
  let n := v.f 15 12
  let ph := v.w12
  let v' := { v with w12 := (ph + v.word 4) % 2 ^ 32 }
  if !within 4 13 n then (let (t, c) := freeTone c; ((t, v'), c))
  else
    let i := ph / 2 ^ (32 - n)
    let ((s0, p0), c) := pcmSample v 2 i c
    let ((s1, p1), c) := pcmSample v 2 ((i + 1) % 2 ^ n) c
    ((⟨interpolate s0 s1 (F32.ofScaled (nbits ph (31 - n) (16 - n)) 16), p0 || p1⟩, v'), c)

/-- The step sizes of the IMA ADPCM algorithm.  PRESUMED: the manual names the algorithm and prints no table. -/
def imaStep : List Nat :=
  [7, 8, 9, 10, 11, 12, 13, 14, 16, 17, 19, 21, 23, 25, 28, 31, 34, 37, 41, 45, 50, 55, 60, 66, 73, 80, 88, 97, 107, 118, 130,
    143, 157, 173, 190, 209, 230, 253, 279, 307, 337, 371, 408, 449] ++
  [494, 544, 598, 658, 724, 796, 876, 963, 1060, 1166, 1282, 1411, 1552, 1707, 1878, 2066, 2272, 2499, 2749, 3024, 3327, 3660,
    4026, 4428, 4871, 5358, 5894, 6484, 7132, 7845, 8630, 9493, 10442, 11487, 12635, 13899, 15289, 16818, 18500, 20350, 22385,
    24623, 27086, 29794, 32767]

/-- The index change of a code's low three bits. -/
def imaIndex (code : Nat) : Int := match code % 8 with | 4 => 2 | 5 => 4 | 6 => 6 | 7 => 8 | _ => -1

/-- One code decoded: predictor and index (PRESUMED, as the table). -/
def imaDecode (pred : Int) (index code : Nat) : Int × Nat :=
  let s := imaStep.getD (min 88 index) 7
  let d := s / 8 + (if code.testBit 2 then s else 0) + (if code.testBit 1 then s / 2 else 0) + (if code.testBit 0 then s / 4 else 0)
  let p := if code.testBit 3 then pred - d else pred + d
  (max (-32768) (min 32767 p), (max 0 (min 88 ((min 88 index : Nat) + imaIndex code))).toNat)

/-- The ADPCM position passes `n` codes (R374): each is decoded; at LEN the loop's state is loaded, or the voice ends. -/
def adpcmPass : Nat → Voice → Chip → Voice × Chip
  | 0, v, c => (v, c)
  | n + 1, v, c =>
    if v.ended then (v, c)
    else
      let ((b, p), c) := voiceBytes v (v.word 1 + v.w12 / 2) 1 c
      let (pr, ix) := imaDecode (sextInt 16 (v.w15 % 65536)) (nbits v.w15 22 16) (if v.w12 % 2 = 0 then b % 16 else b / 16)
      let v := { v with w15 := (pr % 65536).toNat + ix * 65536, w12 := (v.w12 + 1) % 2 ^ 32, bad := v.bad || p }
      let v :=
        if v.w12 < v.word 2 then v
        else if v.loops then { v with w12 := v.word 3, w15 := v.word 8 % 2 ^ 23 }
        else v.stop
      adpcmPass n v c

/-- IMA ADPCM (R374): y is the predictor; STEP above 0x40000 acts as 0x40000. -/
def adpcmTone (v : Voice) (c : Chip) : (Tone × Voice) × Chip :=
  let y := F32.ofScaled (sextInt 16 (v.w15 % 65536)) 15
  let t : Tone := ⟨y, v.bad⟩
  let a := v.w13 % 65536 + min (v.word 4) 0x40000
  let (v, c) := adpcmPass (a / 65536) { v with w13 := v.w13 / 65536 * 65536 + a % 65536 } c
  ((t, v), c)

/-- The modulators of operator `k` in algorithm `alg` (R375). -/
def fmModulators (alg k : Nat) : List Nat :=
  match alg, k with
  | 0, 1 => [0] | 0, 2 => [1] | 0, 3 => [2]
  | 1, 2 => [0, 1] | 1, 3 => [2]
  | 2, 2 => [1] | 2, 3 => [0, 2]
  | 3, 1 => [0] | 3, 3 => [1, 2]
  | 4, 1 => [0] | 4, 3 => [2]
  | 5, 1 => [0] | 5, 2 => [0] | 5, 3 => [0]
  | 6, 1 => [0]
  | _, _ => []

/-- The carriers of an algorithm (R375). -/
def fmCarriers (alg : Nat) : List Nat :=
  match alg with | 0 | 1 | 2 | 3 => [3] | 4 => [1, 3] | 5 | 6 => [1, 2, 3] | _ => [0, 1, 2, 3]

/-- A sum in list order, each addition rounded; of nothing, 0.0. -/
def fsum : List Word → Word
  | [] => 0
  | a :: t => t.foldl F32.add a

/-- S of a phase moved by m, clamped to ±8, times 2^30, exactly (R375). -/
def fmSine (phase : Nat) (m : Word) : Word :=
  let m := F32.max (F32.min m 0x41000000) 0xC1000000
  let e := F32.ex m + 30
  let k := (-e).toNat
  let n : Int := (phase * 2 ^ k : Nat) + F32.ssig m * 2 ^ e.toNat
  F32.sinePhase (n % (2 ^ (32 + k) : Int)).toNat k

/-- Operator `k` (R375): its output joins those before it, and PHASE and PREV move on.  A modulation that is a NaN has no
stated phase: the output is free. -/
def fmOperator (v : Voice) (outs : List Word) (k : Nat) (c : Chip) : (Voice × List Word) × Chip :=
  let op (i : Nat) := (v.ops.getD (4 * k + i) ⟨0, false⟩).val
  let m := fsum ((fmModulators (v.f 10 8) k).map fun j => outs.getD j 0)
  let m := if k = 0 then F32.add m (F32.mul (Word.of (v.word 7)) (op 3)) else m
  let (s, c) := if F32.isNan m then c.freeWord else (fmSine (op 2).toNat m, c)
  let out := F32.mul (op 1) s
  let set (l : List Lane) (i : Nat) (w : Word) : List Lane := l.set (4 * k + i) ⟨w, v.bad⟩
  (({ v with ops := set (set v.ops 2 (op 2 + op 0)) 3 out }, outs ++ [out]), c)

/-- An FM voice (R375). -/
def fmTone (v : Voice) (c : Chip) : (Tone × Voice) × Chip :=
  let ((v, outs), c) := (List.range 4).foldl (fun a k => fmOperator a.1.1 a.1.2 k a.2) ((v, []), c)
  ((⟨fsum ((fmCarriers (v.f 10 8)).map fun j => outs.getD j 0), v.bad⟩, v), c)

/-- A PSG voice (R376). -/
def psgTone (v : Voice) : Tone × Voice :=
  let ph := v.w12
  let sgn (b : Bool) : Word := if b then F32.one else F32.neg F32.one
  let y := match v.f 7 6 with
    | 0 => sgn (decide (ph < 2 ^ 31))
    | 1 => sgn (decide (ph < v.word 7))
    | 2 => F32.ofInt (4 * (((ph / 256 : Nat) : Int) - 2 ^ 23).natAbs - 2 ^ 24) (-24)
    | _ => sgn (v.w15 % 2 == 0)
  let a := ph + v.word 4
  let lfsr := v.w15 % 2 ^ 15
  let w15 := if v.f 7 6 = 3 && Nat.ble (2 ^ 32) a
    then v.w15 / 2 ^ 15 * 2 ^ 15 + lfsr / 2 + (if lfsr.testBit 0 != lfsr.testBit 1 then 2 ^ 14 else 0) else v.w15
  (⟨y, v.bad⟩, { v with w12 := a % 2 ^ 32, w15 := w15 })

/-- One sample of a voice by its type. -/
def voiceTone (v : Voice) (c : Chip) : (Tone × Voice) × Chip :=
  match v.type with
  | 1 => pcmTone 1 v c
  | 2 => pcmTone 2 v c
  | 3 => adpcmTone v c
  | 4 => waveTone v c
  | 5 => fmTone v c
  | _ => (psgTone v, c)

/-! ### VGEN (R373) -/

/-- The gain moves towards its target without passing it (R373); with a NaN among the three the manual states no gain. -/
def moveGain (g tgt step : Word) (c : Chip) : Word × Chip :=
  if F32.isNan g || F32.isNan tgt || F32.isNan step then c.freeWord
  else if F32.lt g tgt then (F32.min tgt (F32.add g step), c)
  else (F32.max tgt (F32.sub g step), c)

/-- A voice that has nothing left to play ends (R374). -/
def Voice.exhausted (v : Voice) : Bool := Nat.ble v.type 3 && !v.loops && Nat.ble (v.word 2) v.w12

/-- `n` samples of a voice: the lanes, and the voice as it stands after them. -/
def voiceRun : Nat → Voice → Chip → (List Lane × Voice) × Chip
  | 0, v, c => (([], v), c)
  | n + 1, v, c =>
    let v := if v.sounds && v.exhausted then v.stop else v
    if !v.sounds then
      let ((l, w), c) := voiceRun n v c
      ((⟨0, false⟩ :: l, w), c)
    else
      let ((t, v), c) := voiceTone v c
      let (g, c) := moveGain v.gain (Word.of (v.word 5)) (Word.of (v.word 6)) c
      let ((l, w), c) := voiceRun n { v with gain := g } c
      ((⟨F32.mul t.y g, t.mark || v.bad⟩ :: l, w), c)

/-- The voice whose record's sixteen words are given: RESTART clears words 12 to 15 and loads the initial state (R372, R376). -/
def openVoice (w : List Lane) (ops : List Lane) (base : Nat) : Voice :=
  let n (i : Nat) := (w.getD i ⟨0, false⟩).val.toNat
  let ws := (List.range 12).map n
  let fresh := nbits (n 0) 11 11 == 1 && nbits (n 0) 3 3 == 1 && nbits (n 0) 2 0 != 0 && nbits (n 0) 2 0 != 7
  let used := if fresh then w.take 12 else w
  let bad := used.any (fun l => l.mark) || ops.any (fun l => l.mark)
  if fresh then ⟨ws, 0, 0, 0, if nbits (n 0) 2 0 = 6 then 1 else 0, bad, ops, base⟩
  else ⟨ws, n 12, n 13, Word.of (n 14), n 15, bad, ops, base⟩

/-- VGEN (R373): eight samples of the voice at the record at g[ga], whose state is stored back; a voice that ends is put into
the end FIFO (R378). -/
def bodyVgen (k : Nat) (d ga : BitVec 5) (c : Chip) : Res :=
  match ownPlace k ((c.core k).rd ga.toNat) 64 64 c with
  | (.error r, _) => r
  | (.ok pa, c) =>
    let (w, c) := ownWords k pa 16 c
    let base := (ownRam k).1
    let w0 := (w.getD 0 ⟨0, false⟩).val.toNat
    let table := (w.getD 1 ⟨0, false⟩).val.toNat
    let fm := nbits w0 2 0 == 5 && Nat.ble (table + 64) 0x40000
    let (ops, c) := if fm then ownWords k (base + table) 16 c else ([], c)
    let (ops, c) := if nbits w0 2 0 = 5 && !fm then
        (List.range 16).foldl (fun (a : List Lane × Chip) _ => let (x, c) := a.2.freeWord; (a.1 ++ [⟨x, false⟩], c)) ([], c)
      else (ops, c)
    let v := openVoice w ops base
    let was := v.ended
    if !v.sounds then .done (c.setLanes k d.toNat (List.replicate 8 ⟨0, false⟩))
    else
      let ((l, v), c) := voiceRun 8 v c
      let c := if nbits w0 11 11 = 1 then ownStore k pa [⟨Word.of (w0 - 2 ^ 11), (w.getD 0 ⟨0, false⟩).mark⟩] c else c
      let c := ownStore k (pa + 48) [⟨Word.of v.w12, v.bad⟩, ⟨Word.of v.w13, v.bad⟩, ⟨v.gain, v.bad⟩, ⟨Word.of v.w15, v.bad⟩] c
      let c := if fm then ownStore k (base + table) v.ops c else c
      let dom := (c.reg AUD_HMAP).bits (2 * hornOf k + 1) (2 * hornOf k)
      let vrec := if Nat.blt dom 3 && (c.adom dom).run then (c.adom dom).vrec else c.f AUD_VREC_OFFSET * 64
      let c := if v.ended && !was then voiceEnded ((pa - base - vrec) / 64 % 512) c else c
      .done (c.setLanes k d.toNat l)
/-- The command VGEN. -/
def execVgen (k : Fin 64) (cond : BitVec 4) (vd ga : BitVec 5) (s : State) : Out := instr k cond cp2 (bodyVgen k vd ga) s

end Sys2Proof.Machine
end

