-- ==== Sys2Proof/Machine/Feed.lean ====
section
/-! DEFINITION. The decoder of fed words (R611, R612): from the 32 bits of a Glegan word to the checks of decode and the operation that
its command performs (R64 to R75, R81, R82, R94, R121, R274, R275, R365, R366). -/

namespace Sys2Proof.Machine

/-- A decoded word: what decode says of it, and its operation. -/
structure Fed where
  dec : Decoded
  op : Chip → Res

/-- Fields of the formats (R64): rd, ra, rb and the coprocessor fields at the same places. -/
def wRd (w : Word) : BitVec 5 := w.extractLsb' 17 5
def wRa (w : Word) : BitVec 5 := w.extractLsb' 12 5
def wRb (w : Word) : BitVec 5 := w.extractLsb' 7 5
def wImm (w : Word) : BitVec 12 := w.extractLsb' 0 12
def wImm16 (w : Word) : BitVec 16 := w.extractLsb' 0 16

/-- A word that no row of the encoding assigns (R66), of coprocessor `cp`. -/
def fedBad (cp : Option Nat) (w : Word) : Fed := ⟨⟨w, false, false, cp, true⟩, Res.done⟩

/-- An assigned word whose bits that must be 0 are `bad` where they are not. -/
def fedOk (bad : Bool) (w : Word) (op : Chip → Res) : Fed := ⟨⟨w, false, false, none, bad⟩, op⟩

/-- The ALU register group (R69). -/
def fedAlu (k : Nat) (w : Word) : Fed :=
  let d := wRd w
  let a := wRa w
  let b := wRb w
  match w.bits 6 0 with
  | 0x00 => fedOk false w (bodyAdd k d a b)
  | 0x01 => fedOk false w (bodySub k d a b)
  | 0x02 => fedOk false w (bodyAnd k d a b)
  | 0x03 => fedOk false w (bodyOr k d a b)
  | 0x04 => fedOk false w (bodyXor k d a b)
  | 0x05 => fedOk false w (bodyAndn k d a b)
  | 0x06 => fedOk false w (bodyNor k d a b)
  | 0x08 => fedOk false w (bodySll k d a b)
  | 0x09 => fedOk false w (bodySrl k d a b)
  | 0x0A => fedOk false w (bodySra k d a b)
  | 0x0B => fedOk false w (bodyRor k d a b)
  | 0x0C => fedOk false w (bodyMin k d a b)
  | 0x0D => fedOk false w (bodyMax k d a b)
  | 0x0E => fedOk false w (bodyMinu k d a b)
  | 0x0F => fedOk false w (bodyMaxu k d a b)
  | 0x10 => fedOk (b != 0) w (bodyClz k d a)
  | 0x11 => fedOk (b != 0) w (bodyPopc k d a)
  | 0x12 => fedOk (b != 0) w (bodySexb k d a)
  | 0x13 => fedOk (b != 0) w (bodySexh k d a)
  | 0x14 => fedOk (b != 0) w (bodyZexh k d a)
  | 0x15 => fedOk (b != 0) w (bodyBswap k d a)
  | 0x18 => fedOk (a != 0 || b != 0) w (bodyMfq k d)
  | 0x19 => fedOk (d != 0 || b != 0) w (bodyMtq k a)
  | _ => fedBad none w

/-- The lane group (R71). -/
def fedLane (k : Nat) (w : Word) : Fed :=
  let d := wRd w
  let a := wRa w
  let b := wRb w
  match w.bits 6 0 with
  | 0x00 => fedOk false w (bodyAddb k d a b)
  | 0x01 => fedOk false w (bodySubb k d a b)
  | 0x02 => fedOk false w (bodyAddusb k d a b)
  | 0x03 => fedOk false w (bodySubusb k d a b)
  | 0x04 => fedOk false w (bodyMinub k d a b)
  | 0x05 => fedOk false w (bodyMaxub k d a b)
  | 0x06 => fedOk false w (bodyAvgub k d a b)
  | 0x07 => fedOk false w (bodyCmpeqb k d a b)
  | 0x08 => fedOk false w (bodyCmpgtub k d a b)
  | 0x09 => fedOk false w (bodySadub k d a b)
  | _ => fedBad none w

/-- The product group (R75). -/
def fedProduct (k : Nat) (w : Word) : Fed :=
  let d := wRd w
  let a := wRa w
  let b := wRb w
  match w.bits 6 0 with
  | 0x00 => fedOk (d != 0) w (bodyMul k a b)
  | 0x01 => fedOk (d != 0) w (bodyMulu k a b)
  | 0x02 => fedOk (d != 0) w (bodyMac k a b)
  | 0x03 => fedOk (d != 0) w (bodyMacu k a b)
  | 0x04 => fedOk (d != 0) w (bodyMsu k a b)
  | 0x08 => fedOk (d != 0) w (bodyDiv k a b)
  | 0x09 => fedOk (d != 0) w (bodyDivu k a b)
  | 0x10 => fedOk (a != 0 || b != 0) w (bodyMfpl k d)
  | 0x11 => fedOk (a != 0 || b != 0) w (bodyMfph k d)
  | 0x12 => fedOk (d != 0 || b != 0) w (bodyMtpl k a)
  | 0x13 => fedOk (d != 0 || b != 0) w (bodyMtph k a)
  | _ => fedBad none w

/-- The fence group (R94): every field but func is 0. -/
def fedFence (k : Nat) (w : Word) : Fed :=
  let bad := w.bits 21 7 != 0
  match w.bits 6 0 with
  | 0 => fedOk bad w (bodyFenceS k)
  | 1 => fedOk bad w (bodyFenceF k)
  | 2 => fedOk bad w (bodyFenceIo k)
  | 3 => fedOk bad w (bodyIsync k)
  | _ => fedBad none w

/-- CP0 (R121): OP in bits 21:18, ga in 17:13, FIELD in 12:0; ERET, WAIT and SYSCALL are refused before (R612). -/
def fedCp0 (k : Nat) (w : Word) : Fed :=
  let ga : BitVec 5 := w.extractLsb' 13 5
  let csr : BitVec 10 := w.extractLsb' 0 10
  let mk (sup bad : Bool) (op : Chip → Res) : Fed := ⟨⟨w, false, sup, some 0, bad⟩, op⟩
  let bad := w.bits 12 10 != 0 || !csrAssigned csr.toNat
  match w.bits 21 18 with
  | 0 => mk false bad (bodyCsrr k ga csr)
  | 1 => mk true bad (bodyCsrw k ga csr)
  | 2 => mk true bad (bodyCsrs k ga csr)
  | 3 => mk true bad (bodyCsrc k ga csr)
  | 6 => mk true (w.bits 12 0 != 0) (bodyRegsync k ga)
  | 7 => mk false (w.bits 12 2 != 0) (bodyCline k ga (w.extractLsb' 0 2))
  | 8 => mk false (w.bits 7 0 != 0) (bodyRdpm k ga (w.extractLsb' 8 5))
  | _ => fedBad (some 0) w

/-- CP1 (R274, R275): OP in bits 21:17, FA in 16:12, FB in 11:7, IMM7 in 6:0; an x operand has bit 4 of its field 0. -/
def fedCp1 (k : Nat) (w : Word) : Fed :=
  let fa := wRa w
  let fb := wRb w
  let z := w.bits 6 0 != 0
  let mk (bad : Bool) (op : Chip → Res) : Fed := ⟨⟨w, false, false, some 1, bad⟩, op⟩
  match w.bits 21 17 with
  | 0x01 => mk (fb != 0 || z) (bodyLstat k fa)
  | 0x02 => mk (fb != 0 || z) (bodyLdead k fa)
  | 0x04 => mk (fa.getLsbD 4 || z) (bodyMtx k (fa.extractLsb' 0 4) fb)
  | 0x05 => mk (fb.getLsbD 4 || z) (bodyMfx k fa (fb.extractLsb' 0 4))
  | 0x08 => mk z (bodyLset k fa fb)
  | 0x09 => mk z (bodyLget k fa fb)
  | 0x0A => mk (fb != 0) (bodyLgetr k fa (w.extractLsb' 0 7))
  | 0x0C => mk (fa.getLsbD 4 || fa.toNat % 4 != 0 || fb != 0 || z) (bodyLput k (fa.extractLsb' 2 2))
  | 0x0D => mk (fa != 0 || fb != 0 || z) (bodyLclose k)
  | 0x10 => mk (fa != 0 || fb != 0 || z) (bodyLdraw k)
  | 0x11 => mk (fa != 0 || fb != 0 || z) (bodyLend k)
  | _ => fedBad (some 1) w

/-- CP2 (R365, R366): OP in bits 21:17, D in 16:12, A in 11:7, B in 6:2, M in 1:0; an unused field must be 0. -/
def fedCp2 (k : Nat) (w : Word) : Fed :=
  let d := wRa w
  let a := wRb w
  let b : BitVec 5 := w.extractLsb' 2 5
  let m : BitVec 2 := w.extractLsb' 0 2
  let n : BitVec 3 := w.extractLsb' 2 3
  let z := m != 0
  let mk (bad : Bool) (op : Chip → Res) : Fed := ⟨⟨w, false, false, some 2, bad⟩, op⟩
  match w.bits 21 17 with
  | 0x00 => mk z (bodyVadd k d a b)
  | 0x01 => mk z (bodyVsub k d a b)
  | 0x02 => mk z (bodyVmul k d a b)
  | 0x03 => mk z (bodyVmac k d a b)
  | 0x04 => mk (m.getLsbD 1) (bodyVminmax k d a b (m.getLsbD 0))
  | 0x05 => mk (m == 3 || b != 0) (bodyVunary k d a m.toNat)
  | 0x06 => mk z (bodyVdiv k d a b)
  | 0x07 => mk (b != 0) (bodyVcvtf k d a m)
  | 0x08 => mk (b != 0) (bodyVcvti k d a m)
  | 0x09 => mk (m.getLsbD 1) (bodyViadd k d a b (m.getLsbD 0))
  | 0x0A => mk false (bodyVlogic k d a b m)
  | 0x0B => mk (m == 3) (bodyVshi k d a b m)
  | 0x0C => mk false (bodyVcmp k d a b m)
  | 0x0D => mk z (bodyVsel k d a b)
  | 0x0E => mk (b != 0 || z) (bodyVbcast k d a)
  | 0x0F => mk (b.toNat / 8 != 0 || z) (bodyVins k d a n)
  | 0x10 => mk (b.toNat / 8 != 0 || z) (bodyVext k d a n)
  | 0x11 => mk (b != 0 || z || d.toNat % 8 != 0 || a.toNat % 8 != 0 || d == a) (bodyVtrn k d a)
  | 0x13 => mk (b != 0 || z) (bodyVld k d a)
  | 0x14 => mk (d != 0 || z) (bodyVst k a b)
  | 0x15 => mk z (bodyVgath k d a b)
  | 0x16 => mk (b != 0 || z) (bodyVsin k d a)
  | 0x17 => mk z (bodyVbiq k d a b)
  | 0x18 => mk (b != 0 || z) (bodyVgen k d a)
  | 0x19 => mk z (bodyDyn k d a b)
  | 0x1B => mk (a != 0 || b != 0 || m.getLsbD 1) (bodySstat k d (m.getLsbD 0))
  | 0x1C => mk (d != 0 || z) (bodySout k a b)
  | 0x1D => mk (a != 0 || z) (bodySin k d b)
  | 0x1F => mk (d != 0 || a != 0 || b != 0 || z) (bodySend k)
  | _ => fedBad (some 2) w

/-- The decoder of a fed word on core `k` (R68); branches are refused before (R612). -/
def fedDecode (k : Nat) (w : Word) : Fed :=
  let d := wRd w
  let a := wRa w
  let b := wRb w
  let qd : BitVec 3 := w.extractLsb' 19 3
  let comb : BitVec 2 := w.extractLsb' 17 2
  let hi := w.bit 16
  match w.bits 27 22 with
  | 0x00 => fedAlu k w
  | 0x01 => fedLane k w
  | 0x02 => fedProduct k w
  | 0x03 =>
    fedOk (w.bits 10 2 != 0 || w.bits 1 0 == 3) w
      (bodyPredicateLogic k qd (w.extractLsb' 16 3) (w.extractLsb' 13 3) (w.bit 12) (w.bit 11) (w.extractLsb' 0 2))
  | 0x04 => fedOk (w.bits 6 3 != 0) w (bodyCmp k qd comb a b (w.extractLsb' 0 3))
  | 0x05 =>
    fedOk (Nat.ble 6 (w.bits 11 9) && Nat.ble 32 (w.bits 8 0)) w
      (bodyCmpi k qd comb a (w.extractLsb' 9 3) (w.extractLsb' 0 9))
  | 0x06 => fedOk (w.bits 11 8 != 0) w (bodyPermb k d a (w.extractLsb' 0 8))
  | 0x08 => fedOk false w (bodyAddi k d a (wImm w))
  | 0x09 => fedOk false w (bodyAndi k d a (wImm w))
  | 0x0A => fedOk false w (bodyOri k d a (wImm w))
  | 0x0B => fedOk false w (bodyXori k d a (wImm w))
  | 0x0C => fedOk (w.bits 11 7 != 0) w (bodyShi k d a (w.extractLsb' 5 2) (w.extractLsb' 0 5))
  | 0x0D => fedOk hi w (bodyLui k d (wImm16 w))
  | 0x0E => fedOk hi w (bodyLli k d (wImm16 w))
  | 0x10 => fedOk false w (bodyLb k d a (wImm w))
  | 0x11 => fedOk false w (bodyLbu k d a (wImm w))
  | 0x12 => fedOk false w (bodyLh k d a (wImm w))
  | 0x13 => fedOk false w (bodyLhu k d a (wImm w))
  | 0x14 => fedOk false w (bodyLw k d a (wImm w))
  | 0x15 => fedOk false w (bodySb k d a (wImm w))
  | 0x16 => fedOk false w (bodySh k d a (wImm w))
  | 0x17 => fedOk false w (bodySw k d a (wImm w))
  | 0x18 => fedOk false w (bodyLl k d a (wImm w))
  | 0x19 => fedOk false w (bodySc k d a (w.extractLsb' 9 3) (w.extractLsb' 0 9))
  | 0x1A => fedOk hi w (bodyLdsw k d (wImm16 w))
  | 0x1B => fedOk hi w (bodyLdshu k d (wImm16 w))
  | 0x1C => fedOk hi w (bodyStsw k d (wImm16 w))
  | 0x1D => fedOk hi w (bodyStsh k d (wImm16 w))
  | 0x1E => fedFence k w
  | 0x3C => fedCp0 k w
  | 0x3D => fedCp1 k w
  | 0x3E => fedCp2 k w
  | 0x3F => fedBad (some 3) w
  | _ => fedBad none w

/-- A word that feeding refuses (R612): majors 0x20 to 0x23; ERET, WAIT, SYSCALL; LNEXT, SNEXT, SBAR. -/
def fedRefused (w : Word) : Bool :=
  match w.bits 27 22 with
  | 0x20 | 0x21 | 0x22 | 0x23 => true
  | 0x3C => w.bits 21 18 == 4 || w.bits 21 18 == 5 || w.bits 21 18 == 9
  | 0x3D => w.bits 21 17 == 0
  | 0x3E => w.bits 21 17 == 0x1A || (w.bits 21 17 == 0x1F && w.bits 1 0 == 1)
  | _ => false

/-- A product instruction whose condition is true (R75, R76). -/
def fedIsProduct (x : Core) (w : Word) : Bool :=
  w.bits 27 22 == 2 && Nat.blt (w.bits 6 0) 0x10 && condTrue x.q (w.extractLsb' 28 4)

end Sys2Proof.Machine
end

