-- ==== Sys2Proof/Machine/Boot.lean ====
section
/-! DEFINITION. The boot ROM's program on Courier 0 (R560 to R563, R566, R569, R570; R552 steps 8 and 9), the boot flash, and the start
of the other Couriers in the ROM (R546). -/

namespace Sys2Proof.Machine

/-! ### The boot flash and its slots (R563, R564, R594) -/

/-- The little-endian number of `n` bytes at offset `i` of a frame or an image. -/
def frameNum (l : List Byte) (i n : Nat) : Nat := leNat ((l.drop i).take n)

/-- An erased byte of the flash. -/
def flash0 : Nat → Byte := fun _ => 0xFF

/-- `n` bytes of the flash from offset `a`. -/
def Chip.flashBytes (c : Chip) (a n : Nat) : List Byte := (List.range n).map fun i => sget flash0 c.hosts.flash (a + i)

/-- Bytes programmed into the flash from offset `a`. -/
def Chip.program (c : Chip) (a : Nat) (bs : List Byte) : Chip :=
  { c with hosts := { c.hosts with flash := ((List.range bs.length).foldl (fun t i => sset flash0 t (a + i) (bs.getD i 0)) c.hosts.flash) } }

/-- The bytes of the flash from `lo` to `hi` erased. -/
def Chip.eraseFlash (c : Chip) (lo hi : Nat) : Chip := { c with hosts := { c.hosts with flash := swipe c.hosts.flash lo hi } }

/-- The boot header at offset 0 has its MAGIC (R563). -/
def Chip.headerOk (c : Chip) : Bool := frameNum (c.flashBytes 0 4) 0 4 == 0x34364756

/-- Where slot `s` begins (R563).  Where no header says it, the model's choice is 4 KiB for slot A and the middle of the flash for
slot B (log entry 168). -/
def Chip.slotAt (c : Chip) (s : Nat) : Nat :=
  if c.headerOk then frameNum (c.flashBytes (4 + 4 * s) 4) 0 4 else if s = 0 then 0x1000 else c.hosts.flashSize / 2

/-- Where slot `s` ends: at the other slot, or at the end of the flash (R594). -/
def Chip.slotEnd (c : Chip) (s : Nat) : Nat := if c.slotAt s < c.slotAt (1 - s) then c.slotAt (1 - s) else c.hosts.flashSize

/-- The slot that a valid boot header names ACTIVE (R563). -/
def Chip.activeSlot (c : Chip) : Option Nat := if c.headerOk then some (frameNum (c.flashBytes 12 4) 0 4 % 2) else none

/-- The manifest with which slot `s` begins. -/
def Chip.manifest (c : Chip) (s : Nat) : List Byte := c.flashBytes (c.slotAt s) 0x570

/-- KIND, OFFSET, LENGTH, LOAD and the digest of segment `i` (R564). -/
def segKind (m : List Byte) (i : Nat) : Nat := frameNum m (0x10 + 80 * i) 4
def segOffset (m : List Byte) (i : Nat) : Nat := frameNum m (0x14 + 80 * i) 4
def segLength (m : List Byte) (i : Nat) : Nat := frameNum m (0x18 + 80 * i) 4
def segLoad (m : List Byte) (i : Nat) : Nat := frameNum m (0x1C + 80 * i) 4 * 64
def segDigest (m : List Byte) (i : Nat) : List Byte := (m.drop (0x20 + 80 * i)).take 64

/-- The segments of a manifest. -/
def segmentIds (m : List Byte) : List Nat := List.range (frameNum m 8 4)

/-- The segments of a manifest meet what R564 says of the manifest alone: 2 to 16 of them, exactly one of KIND 4 with LENGTH
8,192, every other of KIND 1 with a LENGTH that is a multiple of 64. -/
def segmentsOk (m : List Byte) : Bool :=
  within 2 17 (frameNum m 8 4) && ((segmentIds m).filter fun i => segKind m i == 4).length == 1
    && (segmentIds m).all fun i => (segKind m i == 4 && segLength m i == 8192) || (segKind m i == 1 && segLength m i % 64 == 0)

/-- Segment `i` lies within slot `s` (R566). -/
def Chip.segmentFits (c : Chip) (s : Nat) (m : List Byte) (i : Nat) : Bool :=
  Nat.ble (c.slotAt s + segOffset m i + segLength m i) (c.slotEnd s)

/-- The bytes of segment `i` as the flash holds them. -/
def Chip.segment (c : Chip) (s : Nat) (m : List Byte) (i : Nat) : List Byte := c.flashBytes (c.slotAt s + segOffset m i) (segLength m i)

/-- Segment `i` matches its digest (R566). -/
def Chip.segmentMatches (c : Chip) (s : Nat) (m : List Byte) (i : Nat) : Bool := Config.sha512 (c.segment s m i) == segDigest m i

/-- A KIND 1 segment loads below DRAMC_TOP (R564). -/
def Chip.loadsBelow (c : Chip) (m : List Byte) (i : Nat) : Bool := segKind m i != 1 || Nat.ble (segLoad m i + segLength m i) c.dramTop

/-- A digest is that of a title slot, programmed and not revoked, or of a debug slot (R565, R589). -/
def titleKey (f : Fuses) (d : List Byte) : Option Nat :=
  (List.range 4).find? fun i => let k := sget keySlot0 f.title i; k.programmed && !k.revoked && k.digest == d
def debugKey (f : Fuses) (d : List Byte) : Option Nat :=
  (List.range 2).find? fun i => let k := sget keySlot0 f.debug i; k.programmed && k.digest == d

/-- The title slot with which a manifest passes (R566): `segs` tells that its segments do. -/
def manifestSlot (f : Fuses) (m : List Byte) (segs : Bool) : Option Nat :=
  let key := (m.drop 0x510).take 32
  if m.length = 0x570 && frameNum m 0 4 = 2 && Nat.ble f.rollback (frameNum m 4 4) && segmentsOk m && segs
      && Config.ed25519Verify key (m.take 0x530) (m.drop 0x530) then titleKey f (Config.sha512 key)
  else none

/-! ### Profile records (R560) -/

/-- The segment of KIND 4. -/
def profileSegment (m : List Byte) : Nat := ((segmentIds m).find? fun i => segKind m i == 4).getD 0

/-- Record `p` of the profile segment of slot `s`, of which `m` is the manifest. -/
def Chip.profileRecord (c : Chip) (s : Nat) (p : Nat) : List Byte :=
  let m := c.manifest s
  ((c.segment s m (profileSegment m)).drop (1024 * p)).take 1024

/-- VALID and FILL_ALL, FILL_MB, WDT0_US of a record. -/
def recordValid (r : List Byte) : Bool := frameNum r 0 4 % 2 == 1
def recordFillAll (r : List Byte) : Bool := frameNum r 0 4 / 2 % 2 == 1
def recordFill (r : List Byte) : Nat := frameNum r 4 4 * 2 ^ 20
def recordWdt (r : List Byte) : Word := Word.of (frameNum r 8 4)

/-- The NREG entries of a record, each a register and a value. -/
def recordEntries (r : List Byte) : List (Nat × Word) :=
  (List.range (min 126 (frameNum r 12 4))).map fun i =>
    let w := frameNum r (16 + 8 * i) 4
    (nbits w 23 16 * 0x1000 + w % 0x1000, Word.of (frameNum r (20 + 8 * i) 4))

/-- The record of the profile in force, in the slot being booted. -/
def Chip.recordInForce (c : Chip) (s : Nat) : List Byte := c.profileRecord s (c.f SYS_PROFILE_CUR)

/-! ### How a boot ends, and how a slot fails (R570) -/

/-- The ROM's place. -/
def Chip.setBoot (c : Chip) (b : Option Boot) : Chip := { c with power := { c.power with boot := b } }

/-- The ROM stops (R570): RESULT, a Daybook entry of KIND 8 with origin 251, watchdog 0 stopped, Courier 0 in WAIT. -/
def bootFail (result : Nat) (c : Chip) : Chip :=
  let c := c.setF SYS_BOOT_RESULT result
  let c := (c.journal 0 8 251 0 0 (c.reg SYS_BOOT).toNat).setF (WDT_CTL_EN 0) 0
  (c.setCore 0 { c.core 0 with waiting := true }).setBoot none

/-- A slot fails at step 3, 4 or 6 (R570): every register that step 4 wrote is written with its reset value, the newest first, and the
other slot is tried; with both failed there is no image. -/
def slotFails (b : Boot) (c : Chip) : Chip :=
  let c := c.setBoot (some { b with phase := 3, slot := 1 - b.slot, second := true, entries := [], written := [] })
  let c := forAll b.written (fun k c => (busStore 0 (regAddr k) (leBytes 4 (regReset k).toNat) c).2) c
  if b.second then bootFail 2 c else c

/-! ### The steps of R569 -/

/-- Every on-chip SECDED array of R167 is filled with zeros (R569 step 2, R552 step 8). -/
def fillArrays (c : Chip) : Chip :=
  forAll [(0x1000000000, 0x1001000000), (0x1010000000, 0x1010400000), (0x1018000000, 0x1018080000), (0x1020000000, 0x1020300000),
    (0x1030000000, 0x1030180000)] (fun p c => c.fillZero p.1 p.2) c

/-- The flash does not answer the ROM: none is there, or the Postmaster holds its pins (R570, R581). -/
def Chip.flashMute (c : Chip) : Bool := c.pm.holdsFlash || c.hosts.flashSize == 0

/-- The slot tried first (R569 step 3): ACTIVE's, or the other once TRIES has reached 3. -/
def Chip.firstSlot (c : Chip) : Nat :=
  let a := c.activeSlot.getD 0
  if c.f SYS_BOOT_TRIES = 3 then 1 - a else a

/-- The profile in force (R562): profile 0 with PROFILE_ERR where its record is not valid; nothing where record 0 is not valid either. -/
def bootProfile (b : Boot) (c : Chip) : Chip :=
  let go (c : Chip) : Chip := c.setBoot (some { b with phase := 4, entries := recordEntries (c.recordInForce b.slot), written := [] })
  if recordValid (c.recordInForce b.slot) then go c
  else if recordValid (c.profileRecord b.slot 0) then go ((c.flag SYS_EVT_PROFILE_ERR).setF SYS_PROFILE_CUR 0)
  else bootFail 3 c

/-- The header and the manifest of a slot are read and checked (step 3), then its profile segment is read into the pattern store and
checked (step 4). -/
def bootManifest (b : Boot) (c : Chip) : Chip :=
  if c.flashMute then bootFail 5 c
  else if !c.headerOk then bootFail 2 c
  else
    let b := { b with slot := if b.second then b.slot else c.firstSlot }
    let m := c.manifest b.slot
    match manifestSlot c.power.fuses m ((segmentIds m).all fun i => c.segmentFits b.slot m i) with
    | none => slotFails b c
    | some k =>
      let p := profileSegment m
      let seg := c.segment b.slot m p
      let c := forAll (List.range 128) (fun j c => c.memStore .pattern (0x1000FFE000 + 64 * j) ((seg.drop (64 * j)).take 64)) c
      if c.segmentMatches b.slot m p then bootProfile { b with key := k } c else slotFails b c

/-- The registers that an entry may not name (R561). -/
def bootSkips (k : Nat) : Bool :=
  [SYS_RESET, SYS_URST, SYS_PD_CTL, SYS_RUN_LO, SYS_RUN_HI, SYS_XFUSE_CMD, SYS_XFUSE_STAT].contains k
    || within (SYS_XFUSE_DATA 0) (SYS_XFUSE_DATA 16) k

/-- The next entry of the profile is applied (R561): a 32-bit write of its register by Courier 0. -/
def bootEntry (b : Boot) (c : Chip) : Chip :=
  match b.entries with
  | [] => c.setBoot (some { b with phase := 5 })
  | (k, v) :: t =>
    let b := { b with entries := t }
    if bootSkips k then (c.setBoot (some b)).flag SYS_EVT_PROFILE_ERR
    else
      match busStore 0 (regAddr k) (leBytes 4 v.toNat) (c.setBoot (some { b with written := k :: b.written })) with
      | (true, c) => c.setBoot (some b)
      | (false, c) => c

/-- A channel in use that has failed: a fill of DRAM fails. -/
def Chip.channelDead (c : Chip) : Bool := c.memc.failedCh.any fun ch => (c.reg DRAMC_STATUS).bit ch

/-- DRAM is filled where step 5 says so. -/
def bootFill (b : Boot) (c : Chip) : Chip :=
  let r := c.recordInForce b.slot
  let hi := if recordFillAll r then c.dramTop else recordFill r
  let c := c.setBoot (some { b with phase := 6 })
  if c.fb DRAMC_CONFIG_ENABLE && c.dramTop = 0 then bootFail 4 c
  else if !(b.fill || c.fb DRAMC_STATUS_CFG_CHG) || hi = 0 then c
  else if Nat.blt c.dramTop hi || c.channelDead then bootFail 6 c
  else c.fillZero 0 hi

/-- Segment `i` is loaded, where all before it were, and checked as it is read (step 6). -/
def loadSegment (s : Nat) (m : List Byte) (r : Bool × Chip) (i : Nat) : Bool × Chip :=
  let c := r.2
  if !r.1 || segKind m i != 1 then r
  else if !c.loadsBelow m i then (false, c)
  else
    let data := c.segment s m i
    let r := (List.range (segLength m i / 64)).foldl
      (fun r j => let w := busStore 0 (segLoad m i + 64 * j) ((data.drop (64 * j)).take 64) r.2; (r.1 && !w.1, w.2)) (true, c)
    (r.1 && c.segmentMatches s m i, r.2)

/-- Step 6. -/
def bootLoad (b : Boot) (c : Chip) : Chip :=
  if c.flashMute then bootFail 5 c
  else
    let m := c.manifest b.slot
    match (segmentIds m).foldl (loadSegment b.slot m) (true, c.setBoot (some { b with phase := 7 })) with
    | (true, c) => c
    | (false, c) => slotFails b c

/-- Step 7: WDT0_US goes to watchdog 0, unless the profile has locked it (R525), SLOT and KEYSLOT to SYS_BOOT. -/
def bootReport (b : Boot) (c : Chip) : Chip :=
  let us := recordWdt (c.recordInForce b.slot)
  let c := if c.fb (WDT_CTL_LOCK 0) then c else wdtLoad 0 ((c.setReg (WDT_TIMEOUT 0) us).setF (WDT_CTL_EN 0) 1)
  ((c.setF SYS_BOOT_SLOT b.slot).setF SYS_BOOT_KEYSLOT b.key).setBoot (some { b with phase := 8 })

/-- Courier `k` goes on at `pc` with csr_ubase 0, untranslated, in supervisor mode (R546, R552, R569 step 8). -/
def enterImage (k : Nat) (pc : Word) (c : Chip) : Chip :=
  let x := c.core k
  c.setCore k { x with pc := pc, ubase := 0, useUbase := 0, useRT := false, status := (x.status.setBit 2 false).setBit 0 true }

/-- The next step of the ROM: 2 to 8 of R569, or 9, the steps 8 and 9 of R552. -/
def bootPhase (b : Boot) (c : Chip) : Chip :=
  match b.phase with
  | 2 => (if b.fill then fillArrays c else c).setBoot (some { b with phase := 3 })
  | 3 => bootManifest b c
  | 4 => bootEntry b c
  | 5 => bootFill b c
  | 6 => bootLoad b c
  | 7 => bootReport b c
  | 8 => (enterImage 0 (Word.of (frameNum (c.manifest b.slot) 12 4)) c).setBoot none
  | _ => (enterImage 0 (c.reg SYS_RESUME) (fillArrays c)).setBoot none

/-- The ROM waits: Courier 0 is not running, a write of its own is not acknowledged, or DRAM is needed and its training
has not ended (R537, R545 step 5, R561, R648). -/
def Chip.romWaits (c : Chip) (b : Boot) : Bool :=
  !c.regBit SYS_RUN_LO 0 || (c.core 0).dbg.halted || c.power.failed.contains 0 || c.enableHolds 0
    || (Nat.ble 5 b.phase && b.phase != 9 && c.memc.training.isSome)

/-- A released Courier `k` in the ROM jumps to the address in SYS_RESUME (R546). -/
def romJump (k : Nat) (c : Chip) : Chip :=
  let x := c.core k
  if c.regBit SYS_RUN_LO k && !x.dbg.halted && !x.waiting && x.pc == Word.of (Core.startPc 0) && x.useUbase == 0x1F && c.domainUp (coreDomain k) then
    enterImage k (c.reg SYS_RESUME) c
  else c

/-- What the boot ROM does in an idle step (log entry 167): the released Couriers jump, and Courier 0 performs its next step. -/
def bootTick (c : Chip) : Chip :=
  if !c.mainRuns then c
  else
    let c := forAll [1, 2, 3, 4, 5, 6, 7] romJump c
    match c.power.boot with
    | none => c
    | some b => if c.romWaits b then c else bootPhase b c

end Sys2Proof.Machine
end

