-- ==== Sys2Proof/Machine/Postmaster.lean ====
section
/-! DEFINITION. The Postmaster (R584 to R595, R602): its restarts, the two management transports, the command frames and their
signatures, and every command of its table. -/

namespace Sys2Proof.Machine

/-! ### Frames and transports (R586 to R590) -/

/-- A transport with nothing on it. -/
def transport0 : Nat → Transport := fun _ => ⟨[], [], 0, none, 0⟩

/-- Transport `t`: 0 SMBus, 1 UDP port 7463, 2 the answers of the debug port 7464. -/
def Chip.trans (c : Chip) (t : Nat) : Transport := sget transport0 c.pm.trans t

/-- The Postmaster's record changed. -/
def Chip.modPm (c : Chip) (f : Postmaster → Postmaster) : Chip := { c with pm := f c.pm }

/-- Transport `t` changed. -/
def Chip.modTrans (c : Chip) (t : Nat) (f : Transport → Transport) : Chip :=
  c.modPm fun p => { p with trans := smod transport0 p.trans t f }

/-- Byte `i` of a frame. -/
def frameByte (l : List Byte) (i : Nat) : Nat := (l.getD i 0).toNat

/-- CMD, LEN, SIGNED and the body of a frame (R586). -/
def frameCmd (l : List Byte) : Nat := frameByte l 1
def frameLen (l : List Byte) : Nat := frameNum l 4 2
def frameSigned (l : List Byte) : Bool := frameByte l 6 % 2 == 1
def frameBody (l : List Byte) : List Byte := (l.drop 8).take (frameLen l)

/-- VER, LEN and the size are right (R586, R590): a signed frame has 112 bytes after its body. -/
def frameOk (l : List Byte) : Bool :=
  Nat.ble 8 l.length && frameByte l 0 == 1 && Nat.ble (frameLen l) 1024
    && l.length == 8 + frameLen l + (if frameSigned l then 112 else 0)

/-- A response frame (R586): CMD + 0x80, the request's TAG, STATUS. -/
def responseFrame (req : List Byte) (status : Nat) (body : List Byte) : List Byte :=
  leBytes 1 1 ++ leBytes 1 (frameCmd req + 0x80) ++ leBytes 2 (frameNum req 2 2) ++ leBytes 2 body.length ++ leBytes 1 0
    ++ leBytes 1 status ++ body

/-- Transport `t` has its response, to the request `req` (R588). -/
def respond (t : Nat) (req : List Byte) (status : Nat) (body : List Byte) (c : Chip) : Chip :=
  c.modTrans t fun x => { x with req := [], resp := responseFrame req status body, state := 3 }

/-- The commands of R591. -/
def pmCommand (cmd : Nat) : Bool := within 1 8 cmd || within 0x10 0x1A cmd

/-- The first signed frame consumes the nonce (R589). -/
def takeNonce (t : Nat) (l : List Byte) (c : Chip) : Chip :=
  if frameSigned l then c.modTrans t fun x => { x with nonce := none } else c

/-- A request on transport `t` is complete (R587, R588): it waits with the postmark of its submission; a bad frame and an
unknown command are answered at once (R590). -/
def submit (t : Nat) (req : List Byte) (c : Chip) : Chip :=
  let c := c.modTrans t fun x => { x with req := req, resp := [], state := 2, since := c.now }
  if !frameOk req then respond t req 1 [] c else if !pmCommand (frameCmd req) then respond t req 2 [] (takeNonce t req c) else c

/-- The Postmaster works: VSB is present. -/
def Chip.pmUp (c : Chip) : Bool := c.power.vsb

/-- SMB_BLOCK_WRITE_APPEND (R587): up to 255 bytes of a request; a new request discards the response that is unread, a write whose
PEC fails is discarded, and so is one that arrives while the transport's request waits. -/
def execSmbBlockWriteAppend (bytes : List Byte) (pecOk : Bool) (s : State) : Out :=
  s.go fun c =>
    if !c.pmUp || !pecOk || Nat.blt 255 bytes.length || (c.trans 0).state = 2 then c
    else c.modTrans 0 fun x => { x with req := (if x.state = 1 then x.req else []) ++ bytes, resp := [], state := 1 }

/-- SMB_BLOCK_WRITE_SUBMIT (R587). -/
def execSmbBlockWriteSubmit (bytes : List Byte) (pecOk : Bool) (s : State) : Out :=
  s.go fun c =>
    if !c.pmUp || !pecOk || Nat.blt 255 bytes.length || (c.trans 0).state = 2 then c
    else submit 0 ((if (c.trans 0).state = 1 then (c.trans 0).req else []) ++ bytes) c

/-- The key of `answer` under which the SMBus controller finds what it read. -/
def smbusReader : Nat := 4096

/-- SMB_BLOCK_READ (R587): the next bytes of the response, at most 255; a count of 0 when none remain. -/
def execSmbBlockRead (s : State) : Out :=
  s.go fun c =>
    if !c.pmUp then c
    else
      let x := c.trans 0
      let b := x.resp.take 255
      let c := c.modTrans 0 fun x => { x with
        resp := x.resp.drop 255
        state := if x.state = 3 && Nat.ble x.resp.length 255 then 0 else x.state }
      c.answerTo smbusReader (.bytes b)

/-- SMB_READ_STATE (R587). -/
def execSmbReadState (s : State) : Out :=
  s.go fun c => if c.pmUp then c.answerTo smbusReader (.data (Word.of (c.trans 0).state)) else c

/-- UDP_FRAME (R587): one frame as a datagram on port 7463; it discards a response still held, and is dropped while the
transport's request waits. -/
def execUdpFrame (frame : List Byte) (s : State) : Out :=
  s.go fun c => if !c.pmUp || (c.trans 1).state = 2 then c else submit 1 frame c

/-! ### Execution and signatures (R588, R589) -/

/-- The transport whose request is executed next: the earliest submission (R588), none while FU waits for its receipt. -/
def Chip.nextRequest (c : Chip) : Option Nat :=
  if c.pm.fuWait.isSome then none
  else match (c.trans 0).state == 2, (c.trans 1).state == 2 with
    | true, true => if Nat.ble (c.trans 0).since (c.trans 1).since then some 0 else some 1
    | true, false => some 0
    | false, true => some 1
    | false, false => none

/-- NONCE, KEY and SIG of a signed frame. -/
def frameNonce (l : List Byte) : List Byte := (l.drop (8 + frameLen l)).take 16
def frameKey (l : List Byte) : List Byte := (l.drop (24 + frameLen l)).take 32
def frameSig (l : List Byte) : List Byte := (l.drop (56 + frameLen l)).take 64

/-- The conditions of R589 for a frame on transport `t`, its key in a slot that `slot` accepts. -/
def Chip.signatureOk (c : Chip) (t : Nat) (slot : List Byte → Bool) (l : List Byte) : Bool :=
  frameSigned l && slot (Config.sha512 (frameKey l))
    && (match (c.trans t).nonce with
      | some (n, at_) => n == frameNonce l && Nat.ble c.now (at_ + 60 * 10 ^ 9)
      | none => false)
    && Config.ed25519Verify (frameKey l) (serialBytes ++ frameNonce l ++ l.take (8 + frameLen l)) (frameSig l)

/-- A title slot or a debug slot (R589). -/
def Chip.managementKey (c : Chip) (d : List Byte) : Bool := (titleKey c.power.fuses d).isSome || (debugKey c.power.fuses d).isSome

/-- The Daybook's record of a signed command (R589, R597): KIND 11, CMD, the first 8 bytes of the key's digest; FAILED where
R589 was not met. -/
def signedEntry (l : List Byte) (ok : Bool) (c : Chip) : Chip :=
  if frameSigned l then
    c.journal 0 11 63 (if ok then 0 else 4) (frameCmd l) (leNat ((Config.sha512 (frameKey l)).take 8))
  else c

/-- The next request, where its command is `cmd`: `signed` tells whether this request needs R589; `size` what body lengths are
right; `body` gives STATUS, the response's body and the chip, for the transport and the request's body. -/
def serve (cmd : Nat) (signed : List Byte → Bool) (size : Nat → Bool)
    (body : Nat → List Byte → Chip → Nat × List Byte × Chip) (c : Chip) : Chip :=
  match (if c.pmUp then c.nextRequest else none) with
  | none => c
  | some t =>
    let l := (c.trans t).req
    if frameCmd l != cmd then c
    else if !size (frameLen l) then respond t l 1 [] (takeNonce t l c)
    else if signed (frameBody l) then
      let ok := c.signatureOk t c.managementKey l
      let c := signedEntry l ok (takeNonce t l c)
      if ok then (let (st, r, c) := body t (frameBody l) c; respond t l st r c) else respond t l 3 [] c
    else
      let (st, r, c) := body t (frameBody l) (takeNonce t l c)
      respond t l st r c

/-- Open and signed commands; a body of exactly `n` bytes. -/
def open_ (_ : List Byte) : Bool := false
def signed_ (_ : List Byte) : Bool := true
def exactly (n len : Nat) : Bool := len == n

/-! ### What the Postmaster sees of the main side (R591, R592) -/

/-- Main state: 0 running, 1 Dormant, 2 off, 3 held. -/
def Chip.mainState (c : Chip) : Nat :=
  match c.power.state with
  | .run | .nap | .fatal => if c.power.seq.isSome then 3 else 0
  | .dormant => 1
  | .keep | .off => 2

/-- A main-side register as the Postmaster reads it: 0 while the main side is not running. -/
def pmWord (k : Nat) (c : Chip) : Nat := if c.mainRuns then (readReg 63 true k c).1.toNat else 0

/-- The MAC address: 0x02 and the low 5 bytes of the serial (R587). -/
def macBytes : List Byte := leBytes 1 2 ++ serialBytes.take 5

/-! ### Open commands -/

/-- INFO (R591). -/
def execInfo (s : State) : Out :=
  s.go (serve 0x01 open_ (exactly 0) fun _ _ c =>
    (0, leBytes 4 (pmWord SYS_ID c) ++ serialBytes ++ leBytes 4 Config.pmRomVersion.toNat ++ macBytes ++ leBytes 4 c.pm.ip.toNat, c))

/-- NONCE (R589, R591): 16 fresh bytes, the transport's outstanding nonce from now on. -/
def execNonce (s : State) : Out :=
  s.go (serve 0x02 open_ (exactly 0) fun t _ c =>
    let (n, c) := freeBytes 16 c
    (0, n, c.modTrans t fun x => { x with nonce := some (n, c.now) }))

/-- STATUS (R591); the measurement of VSB is free. -/
def execStatus (s : State) : Out :=
  s.go (serve 0x03 open_ (exactly 0) fun _ _ c =>
    let (mv, c) := c.freeBits 16
    (0, [c.mainState, pmWord SYS_RSTCAUSE c, pmWord SYS_BOOT c, pmWord SYS_PROFILE c, pmWord POBOX_STATUS c, pmWord ZOW_STATUS c, mv,
        c.pm.restarts].flatMap (leBytes 4), c))

/-- SENSORS (R591): 28 signed values; 0x8000 where none is available. -/
def execSensors (s : State) : Out :=
  s.go (serve 0x04 open_ (exactly 0) fun _ _ c =>
    (0, (List.range 28).flatMap fun n =>
      leBytes 2 (if c.mainRuns then (sample16 (sget (fun _ => none) c.hosts.sample n)).getD 0x8000 else 0x8000), c))

/-- The ring entries from the later of `seq` and OLDEST, at most `n`, oldest first (R591, R597). -/
def Daybook.since (d : Daybook) (seq n : Nat) : List DayEntry :=
  let held := d.ring.length
  let ahead := (seq + 2 ^ 31 - d.oldest) % 2 ^ 31
  let skip := if Nat.ble (2 ^ 30) ahead then 0 else min held ahead
  (d.ring.reverse.drop skip).take n

/-- DAYBOOK (R591). -/
def execDaybook (s : State) : Out :=
  s.go (serve 0x05 open_ (exactly 8) fun _ b c =>
    let seq := frameNum b 0 4
    let n := frameNum b 4 4
    if !within 1 31 n then (2, [], c)
    else
      let e := match c.dayb.epoch with | some e => e.bytes | none => leBytes 32 0
      (0, leBytes 4 c.dayb.next ++ leBytes 4 c.dayb.oldest ++ e ++ (c.dayb.since (seq % 2 ^ 31) n).flatMap DayEntry.bytes, c))

/-- REPAIR (R591, R602). -/
def execRepair (s : State) : Out :=
  s.go (serve 0x06 open_ (exactly 0) fun _ _ c =>
    (0, leBytes 4 c.pm.repair.length ++ c.pm.repair.flatMap fun e => leBytes 4 e.1.toNat ++ leBytes 4 e.2.toNat, c))

/-- REPAIR_CLEAR (R591, R602). -/
def execRepairClear (s : State) : Out :=
  s.go (serve 0x18 signed_ (exactly 0) fun _ _ c => (0, [], c.modPm fun p => { p with repair := [] }))

/-- NET_SET (R587, R591): static values, or DHCP, whose address is free. -/
def execNetSet (s : State) : Out :=
  s.go (serve 0x19 signed_ (exactly 16) fun _ b c =>
    match frameNum b 0 4 with
    | 0 =>
      let (ip, c) := c.freeWord
      let (m, c) := c.freeWord
      let (g, c) := c.freeWord
      (0, [], c.modPm fun p => { p with netStatic := false, ip := ip, mask := m, gateway := g })
    | 1 =>
      (0, [], c.modPm fun p => { p with
        netStatic := true
        ip := Word.of (frameNum b 4 4)
        mask := Word.of (frameNum b 8 4)
        gateway := Word.of (frameNum b 12 4) })
    | _ => (2, [], c))

/-! ### FU (R593) -/

/-- A request of the Franking Unit that runs open: READ, REPORT, REPORT_READ, IDENT, TIME. -/
def fuOpen (b : List Byte) : Bool := within 1 2 (frameByte b 0) || within 3 7 (frameByte b 0)

/-- FU_READY, as POBOX_STATUS shows it. -/
def Chip.fuReady (c : Chip) : Bool := c.fu.vdd && c.fu.ready

/-- The receipt of slot 63 has come: it is returned unchanged. -/
def fuReceipt (t : Nat) (c : Chip) : Chip :=
  let r := c.bytes (0x1D30000000 + 64 * 63) 64
  let c := (c.modSlot 63 fun _ => ⟨0, 0, 0, 0, false, 0⟩).modPm fun p => { p with fuWait := none }
  respond t (c.trans t).req 0 r c

/-- No receipt came within 300 ms: slot 63 is given up. -/
def fuGiveUp (t : Nat) (c : Chip) : Chip :=
  let c := (c.modSlot 63 fun x => if x.state = 3 then { x with discard := true } else ⟨0, 0, 0, 0, false, 0⟩).modPm
    fun p => { p with fuWait := none }
  respond t (c.trans t).req 6 [] c

/-- The 64-byte request is written into slot 63 and posted; FU_FAIL while the unit is not ready. -/
def fuPost (t : Nat) (l : List Byte) (c : Chip) : Chip :=
  if !c.fuReady || (c.boxSlot 63).state != 0 then respond t l 6 [] c
  else
    let c := c.setBytes (0x1D30000000 + 64 * 63) (frameBody l)
    (c.modSlot 63 fun _ => ⟨2, 63, c.stamp 63, 0, false, 63⟩).modPm fun p => { p with fuWait := some t }

/-- FU (R593): it posts the next request, or, while a posted one waits, returns its receipt once it is there. -/
def execFu (s : State) : Out :=
  s.go fun c =>
    if !c.pmUp then c
    else match c.pm.fuWait with
      | some t =>
        if (c.boxSlot 63).state = 4 then fuReceipt t c
        else if Nat.ble ((c.boxSlot 63).posted + 300 * 10 ^ 6) (c.stamp 63) || !c.fuReady then fuGiveUp t c
        else c
      | none =>
        match c.nextRequest with
        | none => c
        | some t =>
          let l := (c.trans t).req
          if frameCmd l != 0x07 then c
          else if frameLen l != 64 then respond t l 1 [] (takeNonce t l c)
          else if fuOpen (frameBody l) then fuPost t l (takeNonce t l c)
          else
            let ok := c.signatureOk t c.managementKey l
            let c := signedEntry l ok (takeNonce t l c)
            if ok then fuPost t l c else respond t l 3 [] c

/-! ### Power, reset, profile, hold (R559, R592) -/

/-- The main rails go down by the Postmaster's hand, and stay down until POWER 1. -/
def pmPowerOff (c : Chip) : Chip :=
  let c := (c.setMainEn false).mainOff
  { c with power := { c.power with mainEnHeld := true } }

/-- MAIN_EN is raised: out of Dormant too this leads to an M (R554). -/
def pmPowerOn (c : Chip) : Chip :=
  let c := if c.power.state = .dormant then c.mainOff else c
  { c with power := { c.power with mainEnHeld := false } }.setMainEn true

/-- POWER (R592): 0 off, 1 on, 2 wake from Dormant. -/
def execPower (s : State) : Out :=
  s.go (serve 0x10 signed_ (exactly 4) fun _ b c =>
    match frameNum b 0 4 with
    | 0 => (0, [], pmPowerOff c)
    | 1 => (0, [], pmPowerOn c)
    | 2 => if c.power.state = .dormant then (0, [], { c with power := { c.power with wakeLatched := true } }) else (5, [], c)
    | _ => (2, [], c))

/-- RESET (R591, R592): an S with SOURCE 6. -/
def execReset (s : State) : Out :=
  s.go (serve 0x11 signed_ (exactly 0) fun _ _ c => if c.mainState = 0 then (0, [], causeReset 4 6 c) else (5, [], c))

/-- PROFILE_SET (R559): NEXT and PEND, then an S with SOURCE 5. -/
def execProfileSet (s : State) : Out :=
  s.go (serve 0x12 signed_ (exactly 4) fun _ b c =>
    let w := Word.of (frameNum b 0 4)
    if w &&& 0x107 != w then (2, [], c)
    else if c.mainState != 0 then (5, [], c)
    else
      let c := ((c.setF SYS_PROFILE_NEXT (w.bits 2 0)).setF SYS_PROFILE_STICKY (w.bits 8 8)).setF SYS_PROFILE_PEND 1
      (0, [], causeReset 4 5 c))

/-- HOLD (R592): 1 acts as nRESET held low, an H with SOURCE 2, unless it holds already; 0 releases. -/
def execHold (s : State) : Out :=
  s.go (serve 0x13 signed_ (exactly 4) fun _ b c =>
    match frameNum b 0 4 with
    | 0 => (0, [], releaseReset { c with power := { c.power with pmHold := false } })
    | 1 =>
      let again := c.power.pmHold && c.power.seq.isSome
      let c := { c with power := { c.power with pmHold := true } }
      (0, [], if c.mainPowered && !again then causeReset 2 2 c else c)
    | _ => (2, [], c))

/-- TWIN (R592): a write of ZOW_CMD by origin 63, and ZOW_STATUS after it. -/
def execTwin (s : State) : Out :=
  s.go (serve 0x17 signed_ (exactly 4) fun _ b c =>
    if c.mainState != 0 then (5, [], c)
    else
      let c := (busStore 63 (regAddr ZOW_CMD) (leBytes 4 (frameNum b 0 4)) c).2
      let l := busLoad 63 false (regAddr ZOW_STATUS) 4 c
      (0, leBytes 4 l.val, l.chip))

/-- OVERTEMP_TRIP (R592): a temperature channel reaches 115 °C, 920 units of 0.125 °C. -/
def execOvertempTrip (ch : Fin 16) (v : Int) (s : State) : Out :=
  s.go fun c =>
    if c.power.vsb && c.mainPowered && decide (920 ≤ v) then
      pmPowerOff (c.journal 0 10 63 0 ch.val (BitVec.ofInt 64 v).toNat)
    else c

/-! ### Firmware staging (R581, R594, R595) -/

/-- A staging session may begin: the main side is off, Dormant or held, or its boot failed (R594). -/
def Chip.mayStage (c : Chip) : Bool := c.mainState != 0 || Nat.ble 2 (c.f SYS_BOOT_RESULT)

/-- STAGE_BEGIN (R594): the session opens, the flash is taken and the slot is erased; where the erasure fails (`erased` false), the
slot begins with the bytes `held` (log entry 169). -/
def execStageBegin (erased : Bool) (held : List Byte) (s : State) : Out :=
  s.go (serve 0x14 signed_ (exactly 4) fun t b c =>
    let slot := frameNum b 0 4
    if Nat.ble 2 slot then (2, [], c)
    else if (match c.pm.staging with | some x => x.transport != t | none => false) then (4, [], c)
    else if !c.mayStage || c.activeSlot == some slot then (5, [], c)
    else
      let c := c.modPm fun p => { p with staging := some ⟨t, slot, c.now⟩, holdsFlash := true }
      if erased then (0, [], c.eraseFlash (c.slotAt slot) (c.slotEnd slot))
      else (7, [], c.program (c.slotAt slot) (held.take (c.slotEnd slot - c.slotAt slot))))

/-- The session of transport `t`. -/
def Chip.stagingOf (c : Chip) (t : Nat) : Option Staging :=
  match c.pm.staging with | some x => if x.transport = t then some x else none | none => none

/-- STAGE_DATA (R595): the bytes are programmed at OFFSET within the slot; `readBack` tells that the flash gave them back as written, else it
holds `held` there. -/
def execStageData (readBack : Bool) (held : List Byte) (s : State) : Out :=
  s.go (serve 0x15 open_ (within 8 1025) fun t b c =>
    match c.stagingOf t with
    | none => (5, [], c)
    | some x =>
      let at_ := c.slotAt x.slot + frameNum b 0 4
      let bs := b.drop 4
      if Nat.blt (c.slotEnd x.slot) (at_ + bs.length) then (2, [], c)
      else
        let c := c.modPm fun p => { p with staging := some { x with last := c.now } }
        if readBack then (0, [], c.program at_ bs) else (7, [], c.program at_ (held.take bs.length)))

/-- The staging session ends and the flash is given back (R595). -/
def endStaging (c : Chip) : Chip := c.modPm fun p => { p with staging := none, holdsFlash := false }

/-- What the Postmaster checks of the segments of slot `slot` (R566, R595): each lies within the slot, matches its digest, and loads below
DRAMC_TOP where DRAM is trained (log entry 170). -/
def Chip.stagedSegments (c : Chip) (slot : Nat) : Bool :=
  let m := c.manifest slot
  (segmentIds m).all fun i => c.segmentFits slot m i && c.segmentMatches slot m i && (c.dramTop == 0 || c.loadsBelow m i)

/-- The boot header (R563): MAGIC, the offsets of the slots, ACTIVE. -/
def Chip.headerFor (c : Chip) (slot : Nat) : List Byte := [0x34364756, c.slotAt 0, c.slotAt 1, slot].flatMap (leBytes 4)

/-- STAGE_END (R595): the slot's manifest and segments are checked as the flash gives them, `reads` telling that it gave what it
holds; with ACTIVATE 1 the header is rewritten, `header` telling that it was read back as written, else the flash holds `held` there. -/
def execStageEnd (reads header : Bool) (held : List Byte) (s : State) : Out :=
  s.go (serve 0x16 open_ (exactly 4) fun t b c =>
    match c.stagingOf t with
    | none => (5, [], c)
    | some x =>
      let act := frameNum b 0 4
      let m := c.manifest x.slot
      if Nat.ble 2 act then (2, [], endStaging c)
      else
        match manifestSlot c.power.fuses m (reads && c.stagedSegments x.slot) with
        | none => (8, [], endStaging c)
        | some k =>
          let r := leBytes 4 (frameNum m 4 4) ++ leBytes 4 k
          if act = 0 then (0, r, endStaging c)
          else if header then (0, r, endStaging (c.program 0 (c.headerFor x.slot)))
          else (7, [], endStaging (c.program 0 (held.take 16))))

/-- STAGE_TIMEOUT (R595): 10 s with no STAGE_DATA. -/
def execStageTimeout (s : State) : Out :=
  s.go fun c =>
    match c.pm.staging with
    | some x => if Nat.ble (x.last + 10 * 10 ^ 9) c.now then endStaging c else c
    | none => c

/-! ### Restart and scrubbing (R585) -/

/-- PM_RESTART (R585, R595, R606): its watchdog expired; core 63 takes its restart state, staging ends, the network debug session
ends, all else of AON-M stays as it was; the Daybook's cause code is free. -/
def execPmRestart (s : State) : Out :=
  s.go fun c =>
    if !c.pmUp then c
    else
      let c := endNetSession (endStaging c)
      let c := c.setCore 63 (Core.reset 63)
      let c := c.modPm fun p => { p with restarts := p.restarts + 1 }
      let (cause, c) := c.freeBits 64
      c.journal 0 7 63 0 0 cause

/-- The words of the Postmaster RAM with bit errors. -/
def Chip.pmErrors (c : Chip) : List (Nat × BitErr) := c.flips.filter fun p => within 0x1E00000000 0x1E00080000 p.1

/-- PM_SCRUB (R163, R585): one flipped bit of a word of the Postmaster's RAM is corrected and written back, with a record. -/
def execPmScrub (s : State) : Out :=
  s.go fun c =>
    if !c.pmUp then c
    else forAll c.pmErrors (fun p c =>
      if popcount 64 p.2.data + popcount 8 p.2.chk = 1 then (c.setFlip p.1 ⟨0, 0⟩).journal 1 0 63 2 p.1 0 else c) c

end Sys2Proof.Machine
end

