-- ==== Sys2Proof/Machine/Debug.lean ====
section
/-! DEFINITION. The TAP, debug sessions and run control (R603 to R619). -/

namespace Sys2Proof.Machine

/-! ### The session's accesses to DBG (R603, R605, R607) -/

/-- A session is open, with the level bit `b` granted (0 MAIN, 1 SCAN, 2 FU). -/
def Chip.sessionOpen (c : Chip) : Bool := c.fb DBG_STATUS_SESSION
def Chip.granted (c : Chip) (b : Nat) : Bool := c.sessionOpen && (c.f DBG_STATUS_LEVEL).testBit b

/-- The level that feeding core `k` needs (R604). -/
def Chip.mayFeed (c : Chip) (k : Nat) : Bool := if k < 62 then c.granted 0 else k = 62 && c.granted 2

/-- DBG_FEED_STAT with a result and a cause; the word is complete. -/
def feedResult (res cause : Nat) (c : Chip) : Chip :=
  ((c.setF DBG_FEED_STAT_BUSY 0).setF DBG_FEED_STAT_RESULT res).setF DBG_FEED_STAT_CAUSE cause

/-- Earlier accesses of the core are performed and acknowledged, as FENCE.IO has it; its pipeline is free. -/
def feedFence (k : Nat) (c : Chip) : Chip :=
  (ackAll k (drainAll k c)).modCore k fun x => { x with loadHeld := false }

/-- A fed word has been performed on core `k` (R611, R612): its own store bus errors are its exception, and a product is
visible to the next fed word. -/
def feedDone (k : Nat) (product : Bool) (held : List Word) (c : Chip) : Chip :=
  let c := feedFence k c
  let c := if product then c.modCore k Core.showProduct else c
  if (c.core k).busErrs.length = held.length then feedResult 0 0 c
  else feedResult 1 0x0B (c.modCore k fun x => { x with busErrs := held })

/-- A word is fed to the core that DBG_FEED_SEL names (R611, R612).  BUSY stays while the word waits (a full log, an earlier unit
that has not closed). -/
def feedWord (w : Word) (c : Chip) : Chip :=
  let k := c.f DBG_FEED_SEL_CORE
  if !c.mayFeed k then c
  else if !(c.core k).dbg.halted then feedResult 3 0 c
  else if fedRefused w then feedResult 2 0 c
  else
    let e := fedDecode k w
    let c := feedFence k c
    let held := (c.core k).busErrs
    match operate k (w.extractLsb' 28 4) e.dec e.op c with
    | .done c' => feedDone k (fedIsProduct (c.core k) w) held c'
    | .trap c' cause _ => feedResult 1 cause (feedFence k c')
    | .hold c' => if (c'.core k).dbg.halted then c'.setF DBG_FEED_STAT_BUSY 1 else c'
    | .stop c' _ | .branch c' _ _ _ | .jumped c' | .syscall c' _ => c'

/-- The debug access master's access (R618): physical, aligned, origin 250, coherent. -/
def damAccess (c : Chip) : Chip :=
  let pa := c.f DBG_DAM_CTL_AHI * 2 ^ 32 + c.f DBG_DAM_ADDR_ADDR * 4
  if c.fb DBG_DAM_CTL_WRITE then
    let v := c.reg DBG_DAM_DATA
    if c.writeWaits pa then c
    else if pa = regAddr DBG_FEED then (feedWord v c).setF DBG_DAM_CTL_RESULT 0
    else match busStore 250 pa (leBytes 4 v.toNat) c with
      | (err, c) => c.setF DBG_DAM_CTL_RESULT err.toNat
  else
    let l := busLoad 250 (c.fb DBG_DAM_CTL_PEEK) pa 4 c
    if l.err then l.chip.setF DBG_DAM_CTL_RESULT 1
    else if l.poison then (l.chip.setReg DBG_DAM_DATA 0).setF DBG_DAM_CTL_RESULT 2
    else (l.chip.setReg DBG_DAM_DATA (Word.of l.val)).setF DBG_DAM_CTL_RESULT 0

/-- A write of DBG_DAM_CTL by the session: GO performs the access, at the MAIN level. -/
def writeDam (v : Word) (c : Chip) : Chip :=
  let c := plainWrite DBG_DAM_CTL (v.setBit 31 false) c
  if v.bit 31 && c.granted 0 then damAccess c else c

/-- A write of register `k` of DBG by the session (R607); nothing where the block does not answer. -/
def sessionWrite (k : Nat) (v : Word) (c : Chip) : Chip :=
  if !c.sessionOpen || !c.mainRuns then c
  else if k = DBG_FEED then feedWord v c
  else if k = DBG_DAM_CTL then writeDam v c
  else writeReg 250 k v c

/-- A read of register `k` of DBG by the session; 0 where the block does not answer. -/
def sessionRead (k : Nat) (c : Chip) : Word × Chip :=
  if !c.sessionOpen || !c.mainRuns then (0, c) else readReg 250 false k c

/-! ### Opening and closing (R604, R606) -/

/-- The levels granted of those requested: FU only while SEALED is 0. -/
def grantLevel (level : Nat) (c : Chip) : Nat := level % 4 + (if c.fu.sealed then 0 else nbits level 2 2 * 4)

/-- A session opens. -/
def openSession (kind sender level : Nat) (c : Chip) : Chip :=
  let c := (c.setF DBG_STATUS_SESSION kind).setF DBG_STATUS_LEVEL (grantLevel level c)
  let c := { c with dbgPort := { c.dbgPort with session := some ⟨kind, sender, c.now⟩ } }
  sessionEntry 1 kind (c.f DBG_STATUS_LEVEL) c

/-- A signature failed (R604). -/
def failSession (kind level : Nat) (c : Chip) : Chip := sessionEntry 3 kind level (c.flag DBG_EVT_AUTH_FAIL)

/-! ### The TAP (R603) -/

/-- The TAP works: VSB is present. -/
def tap (f : Chip → Chip) (c : Chip) : Chip := if c.power.vsb then f c else c

/-- The debug record changed. -/
def Chip.modDebug (c : Chip) (f : Debug → Debug) : Chip := { c with dbgPort := f c.dbgPort }

/-- The boundary register captured: the pins of G0 to G5 at 32b + i, each at the level this device drives or else at
the last accepted one, VID_HS and VID_VS (their sync levels while OUT3 runs with
KIND 2, else free), then nRESET (log entry 17). -/
def captureBoundary (c : Chip) : Nat × Chip :=
  let level (p : Nat) : Bool := let x := c.pad p; if x.enable then x.value.getD (c.pinLevel p) else c.pinLevel p
  let pins := (List.range 192).foldl (fun a p => if level p then a + 2 ^ p else a) 0
  let (f, c) := c.freeBits 2
  let v := if c.running 3 && (c.out 3).timing.kind == 2 then c.vidSync.1.toNat + 2 * c.vidSync.2.toNat else f
  (pins + 2 ^ 192 * v + 2 ^ 194 * (!c.power.nresetLow).toNat, c)

/-- IDCODE (R603). -/
def execIdcode (s : State) : Out := s.go (tap fun c => c.modDebug fun d => { d with ir := 0x01, dr := 0x1640075B })

/-- SAMPLE/PRELOAD (R603): the boundary register is captured, and a value may be preloaded. -/
def execSamplePreload (preload : Option (BitVec 195)) (s : State) : Out :=
  s.go (tap fun c =>
    let (v, c) := captureBoundary c
    c.modDebug fun d => { d with
      ir := 0x02
      dr := v
      boundary := match preload with | some b => b.toNat | none => d.boundary })

/-- EXTEST (R603): with the SCAN level, and the main side held under H, the boundary register drives the pins. -/
def execExtest (value : BitVec 195) (s : State) : Out :=
  s.go (tap fun c =>
    if c.granted 1 && (match c.power.seq with | some q => q.cls == 2 | none => false) then
      let (v, c) := captureBoundary c
      c.modDebug fun d => { d with ir := 0x03, dr := v, boundary := value.toNat }
    else c)

/-- CHALLENGE (R603, R604): the serial and a fresh nonce are captured. -/
def execChallenge (s : State) : Out :=
  s.go (tap fun c =>
    let (n, c) := freeBytes 16 c
    c.modDebug fun d => { d with
      ir := 0x10
      dr := leNat (serialBytes ++ n)
      nonce := some (n, c.now) })

/-- The signature of RESPONSE verifies (R604): a debug slot's key, over serial, nonce, LEVEL and 0x0A, within 60 s. -/
def responseOk (level : BitVec 8) (key sig : List Byte) (c : Chip) : Bool :=
  match c.dbgPort.nonce with
  | some (n, at_) =>
    Nat.ble c.now (at_ + 60 * 10 ^ 9) && (debugKey c.power.fuses (Config.sha512 key)).isSome
      && Config.ed25519Verify key (serialBytes ++ n ++ [level] ++ leBytes 1 0x0A) sig
  | none => false

/-- RESPONSE (R604, R606): without effect while a session is open; the nonce is good for one attempt. -/
def execResponse (level : BitVec 8) (key : BitVec 256) (sig : BitVec 512) (s : State) : Out :=
  s.go (tap fun c =>
    let c := c.modDebug fun d => { d with ir := 0x11, dr := level.toNat + 2 ^ 8 * key.toNat + 2 ^ 264 * sig.toNat }
    if c.sessionOpen then c
    else
      let ok := responseOk level (leBytes 32 key.toNat) (leBytes 64 sig.toNat) c
      let c := c.modDebug fun d => { d with nonce := none }
      if ok then openSession 1 0 level.toNat c else failSession 1 level.toNat c)

/-- DBGREG (R603): one access to the DBG register at an offset, in an open JTAG session; a read's result is captured next. -/
def execDbgreg (write : Bool) (off : BitVec 12) (data : Word) (s : State) : Out :=
  s.go (tap fun c =>
    let c := c.modDebug fun d => { d with ir := 0x20, dr := write.toNat + 2 * off.toNat + 2 ^ 13 * data.toNat }
    if c.f DBG_STATUS_SESSION != 1 then c
    else if write then sessionWrite (0x18000 + off.toNat) data c
    else
      let (w, c) := sessionRead (0x18000 + off.toNat) c
      c.modDebug fun d => { d with dr := 2 * off.toNat + 2 ^ 13 * w.toNat })

/-- BYPASS (R603). -/
def execBypass (s : State) : Out := s.go (tap fun c => c.modDebug fun d => { d with ir := 0xFF, dr := 0 })

/-- TAP_RESET (R606): Test-Logic-Reset selects IDCODE and ends a JTAG session. -/
def execTapReset (s : State) : Out :=
  s.go (tap fun c =>
    let c := c.modDebug fun d => { d with ir := 0x01, dr := 0x1640075B, nonce := none }
    if c.f DBG_STATUS_SESSION = 1 then endSession c else c)

/-! ### Network debug (R605, R606) -/

/-- The session that a sender holds over the network. -/
def Chip.netSession (c : Chip) (sender : Nat) : Bool :=
  c.f DBG_STATUS_SESSION = 2 && (match c.dbgPort.session with | some x => x.sender == sender | none => false)

/-- The answer to a datagram on port 7464. -/
def debugAnswer (l : List Byte) (status : Nat) (body : List Byte) (c : Chip) : Chip :=
  c.modTrans 2 fun x => { x with resp := responseFrame l status body, state := 3 }

/-- A datagram on port 7464 with command `cmd`: a bad frame and an unknown command are answered as R590 says. -/
def debugFrame (cmd : Nat) (l : List Byte) (size : Nat → Bool) (f : Chip → Chip) (c : Chip) : Chip :=
  if !c.pmUp then c
  else if !frameOk l then debugAnswer l 1 [] c
  else if !within 0x40 0x43 (frameCmd l) then debugAnswer l 2 [] c
  else if frameCmd l != cmd then c
  else if !size (frameLen l) then debugAnswer l 1 [] c
  else f c

/-- The bound session has had a frame. -/
def refresh (c : Chip) : Chip :=
  c.modDebug fun d => { d with session := d.session.map fun x => { x with last := c.now } }

/-- DBG_OPEN (R589, R604 to R606): signed with a debug slot's key; the nonce is the UDP transport's. -/
def execDbgOpen (sender : BitVec 48) (frame : List Byte) (s : State) : Out :=
  s.go (debugFrame 0x40 frame (exactly 4) fun c =>
    let level := frameNum (frameBody frame) 0 4 % 256
    let ok := c.signatureOk 1 (fun d => (debugKey c.power.fuses d).isSome) frame
    let c := takeNonce 1 frame c
    if c.sessionOpen then debugAnswer frame 4 [] c
    else
      let c := signedEntry frame ok c
      if ok then
        let c := openSession 2 sender.toNat level c
        debugAnswer frame 0 (leBytes 4 (c.f DBG_STATUS_LEVEL)) c
      else debugAnswer frame 3 [] (failSession 2 level c))

/-- The accesses of a DBG_REG frame in turn: word 0 OFFSET and WRITE, word 1 DATA; one word each comes back. -/
def debugAccesses (b : List Byte) : Nat → Nat → Chip → List Byte × Chip
  | _, 0, c => ([], c)
  | i, n + 1, c =>
    let a := Word.of (frameNum b (8 * i) 4)
    let k := 0x18000 + a.bits 11 0
    let (w, c) := if a.bit 31 then ((0 : Word), sessionWrite k (Word.of (frameNum b (8 * i + 4) 4)) c) else sessionRead k c
    let (t, c) := debugAccesses b (i + 1) n c
    (leBytes 4 w.toNat ++ t, c)

/-- DBG_REG (R605). -/
def execDbgReg (sender : BitVec 48) (frame : List Byte) (s : State) : Out :=
  s.go (debugFrame 0x41 frame (fun n => n % 8 == 0) fun c =>
    if !c.netSession sender.toNat then debugAnswer frame 5 [] c
    else
      let (r, c) := debugAccesses (frameBody frame) 0 (frameLen frame / 8) (refresh c)
      debugAnswer frame 0 r c)

/-- DBG_CLOSE (R605, R606). -/
def execDbgClose (sender : BitVec 48) (frame : List Byte) (s : State) : Out :=
  s.go (debugFrame 0x42 frame (exactly 0) fun c =>
    if c.netSession sender.toNat then debugAnswer frame 0 [] (endSession c) else debugAnswer frame 5 [] c)

/-- SESSION_TIMEOUT (R606): 30 s without a frame on a network session. -/
def execSessionTimeout (s : State) : Out :=
  s.go fun c =>
    match c.dbgPort.session with
    | some x => if x.kind = 2 && Nat.ble (x.last + 30 * 10 ^ 9) c.now then endNetSession c else c
    | none => c

/-! ### Halt, resume, step, feed, access (R608 to R612, R618) -/

/-- DBG_HALT_WRITE (R608): the session writes DBG_HALT_LO or DBG_HALT_HI. -/
def execDbgHaltWrite (hi : Bool) (v : Word) (s : State) : Out := s.go (sessionWrite (if hi then DBG_HALT_HI else DBG_HALT_LO) v)

/-- CORE_HALT (R608, R609): a requested halt is taken at an interrupt point: not inside a branch and slot pair, a split access or an
LDRAW; a core that waits in WAIT, LNEXT, SNEXT or SBAR halts on it. -/
def execCoreHalt (k : Fin 63) (s : State) : Out :=
  s.go fun c =>
    if (c.core k).dbg.haltReq && c.coreFree k && (c.core k).slot.isNone && !c.drawingOn k then haltCore k 1 0 c else c

/-- DBG_RESUME (R609): the session writes DBG_RESUME_LO or DBG_RESUME_HI. -/
def execDbgResume (hi : Bool) (v : Word) (s : State) : Out := s.go (sessionWrite (if hi then DBG_RESUME_HI else DBG_RESUME_LO) v)

/-- DBG_STEP (R610): the session writes DBG_STEP with GO; the core's next instruction command is the step. -/
def execDbgStep (core : BitVec 6) (s : State) : Out := s.go (sessionWrite DBG_STEP (Word.of (2 ^ 31 + core.toNat)))

/-- DBG_FEED (R611, R612): the session writes a word to DBG_FEED. -/
def execDbgFeed (w : Word) (s : State) : Out := s.go (sessionWrite DBG_FEED w)

/-- DBG_DAM_GO (R618): the session writes DBG_DAM_CTL with GO. -/
def execDbgDamGo (ahi : BitVec 8) (write peek : Bool) (s : State) : Out :=
  s.go (sessionWrite DBG_DAM_CTL (Word.of (2 ^ 31 + 512 * peek.toNat + 256 * write.toNat + ahi.toNat)))

end Sys2Proof.Machine
end

