-- ==== Sys2Proof/Machine/Pcie.lean ====
section
/-! DEFINITION. Requests that cross the PCI Express link, and its reset (R575 to R578). -/

namespace Sys2Proof.Machine

/-- The parts of `n` bytes at `pa` that lie in one aligned 64-byte block each. -/
def lineParts : Nat → Nat → Nat → List (Nat × Nat)
  | 0, _, _ => []
  | fuel + 1, pa, n =>
    let m := min n (64 - pa % 64)
    if n = 0 then [] else (pa, m) :: lineParts fuel (pa + m) (n - m)

/-- An inbound read of `n` bytes at `pa` (R575): its bytes, or UR; poisoned words poison the completion. -/
def inboundRead (pa n : Nat) (c : Chip) : Answer × Chip :=
  (lineParts 16 pa n).foldl (fun (a : Answer × Chip) p =>
    match a.1 with
    | .bytes l =>
      let x := busLoad 224 false p.1 p.2 a.2
      if x.err then (.busError, x.chip)
      else if x.poison then (.poison, x.chip)
      else (.bytes (l ++ leBytes p.2 x.val), x.chip)
    | _ => a) (.bytes [], c)

/-- An inbound write at `pa` (R575, R578): a bus error drops what remains of it and sets AER_UNCOR. -/
def inboundWrite (poison : Bool) (pa : Nat) (bs : List Byte) (c : Chip) : Chip :=
  ((lineParts 16 pa bs.length).foldl (fun (a : Bool × List Byte × Chip) p =>
    if a.1 then a
    else
      let (err, c) := if poison then busPoison 224 p.1 (a.2.1.take p.2) a.2.2 else busStore 224 p.1 (a.2.1.take p.2) a.2.2
      (err, a.2.1.drop p.2, if err then c.flag PCIE_EVT_AER_UNCOR else c)) (false, bs, c)).2.2

/-- A request at a physical address: a read of `n` bytes, answered to origin 224, or a write; one to a replication window may have to wait,
and is not performed until it comes again (R475, log entry 23). -/
def inboundAt (write poison : Bool) (pa n : Nat) (bs : List Byte) (c : Chip) : Chip :=
  if write then (if c.writeWaits pa || c.writeWaits (pa + bs.length - 1) then c else inboundWrite poison pa bs c)
  else let (a, c) := inboundRead pa n c; c.answerTo 224 a

/-- A request completes with UR (R577): a read is answered so; a write is dropped. -/
def unsupported (write : Bool) (c : Chip) : Chip :=
  if write then c.flag PCIE_EVT_AER_UNCOR else c.answerTo 224 .busError

/-- A memory request in root-port mode (R577). -/
def rootRequest (write poison : Bool) (a n : Nat) (bs : List Byte) (c : Chip) : Chip :=
  if write && a / 4 == c.xf PCIE_XMSI_ADDR 0xFEE00000 / 4 && Nat.blt (leNat bs) 32 then
    (c.setRegBit PCIE_MSI (leNat bs) true).flag PCIE_EVT_MSI
  else if a < c.dramTop then inboundAt write poison a n bs c
  else unsupported write c

/-- The mask bit of MSI-X vector 0 is written (R576): unmasked, a message in the pending bit array is sent. -/
def writeMsixMask (m : Bool) (c : Chip) : Chip :=
  let c := { c with hosts := { c.hosts with msixMask := m } }
  if !m && c.hosts.msixPend then msixSend { c with hosts := { c.hosts with msixPend := false } } else c

/-- PCIE_INBOUND_REQUEST (R575, R577, R578): a read of `len` bytes (at most 512), or a write of `bytes` (at most 256 are taken),
poisoned or not, arrives over a link that is up. -/
def execPcieInboundRequest (target : Inbound) (write : Bool) (bytes : List Byte) (poison : Bool) (len : Fin 513) (s : State) : Out :=
  s.go fun c =>
    if !(c.blockRuns 0x12) || !c.fb PCIE_STATUS_UP then c
    else
      let bs := bytes.take 256
      match target, c.pcieMode with
      | .bar0 off, 1 => inboundAt write poison (0x1800000000 + off.toNat) len bs c
      | .bar2 off, 1 => inboundAt write poison (c.f PCIE_WIN_BASE * 2 ^ 30 + off.toNat) len bs c
      | .msixMask m, 1 => writeMsixMask m c
      | .addr a, 2 => rootRequest write poison a.toNat len bs c
      | _, _ => unsupported write c

/-- PCIE_FUNDAMENTAL_RESET (R575): a U reset of PCIE. -/
def execPcieFundamentalReset (s : State) : Out :=
  s.go fun c => if c.mainRuns && c.pcieMode = 1 then unitReset 0x112 c else c

/-- PCIE_COMPLETION_TIMEOUT (R578): an outbound read of origin `o` receives no completion within CTO_MS: transient for a DMA
channel, and a bus error for any other master. -/
def execPcieCompletionTimeout (o : BitVec 12) (s : State) : Out :=
  s.go fun c =>
    let i := o.toNat - 64
    if !c.mainRuns then c
    else if within 64 96 o.toNat then
      (if c.dmaReadDue i && (c.dmaReadBeat i).2.1 = .pcieWindow then dmaReadRetry i false c else c)
    else c.answerTo o.toNat .busError

end Sys2Proof.Machine
end

