-- ==== Sys2Proof/Machine/RegCmds.lean ====
section
/-! DEFINITION. The commands that are reads and writes of registers (R5, R9): each is an access of the origin given to the
register, and what it does is what `readReg` and `writeReg` say of that register. -/

namespace Sys2Proof.Machine

/-- Origins are numbers of 12 bits (R33). -/
abbrev Origin := BitVec 12

/-- REG_WRITE (R5, R7, R13): a write of the register at offset `off` of block `b`; origin 250 writes DBG as the session
does (R607). -/
def execRegWrite (o : Origin) (b : Fin 26) (off : BitVec 12) (v : Word) (s : State) : Out :=
  s.go fun c =>
    if o = 250 && b = 0x18 && c.sessionOpen then sessionWrite (0x18000 + off.toNat) v c
    else writeCmd o.toNat (b * 0x1000 + off.toNat) v c

/-- POST_NOW_LO_READ (R32). -/
def execPostNowLoRead (o : Origin) (peek : Bool) (s : State) : Out := s.go (readCmd o.toNat POST_NOW_LO peek)

/-- DLT_INSTALL (R177): MEM_DLT_ENTRY is written with V 1 and an OFFSET, for the entry that MEM_DLT_SEL names. -/
def execDltInstall (o : Origin) (offset : BitVec 22) (s : State) : Out :=
  s.go (writeCmd o.toNat MEM_DLT_ENTRY (Word.of (2 ^ 31 + 4 * offset.toNat)))

/-- DLT_REMOVE (R177): MEM_DLT_ENTRY is written with V 0. -/
def execDltRemove (o : Origin) (offset : BitVec 22) (s : State) : Out :=
  s.go (writeCmd o.toNat MEM_DLT_ENTRY (Word.of (4 * offset.toNat)))

/-- DRAMC_ENABLE (R648): DRAMC_CONFIG is written with ENABLE 1. -/
def execDramcEnable (o : Origin) (cap rate : BitVec 4) (scrub : Bool) (s : State) : Out :=
  s.go (writeCmd o.toNat DRAMC_CONFIG (Word.of (2 ^ 31 + 2 ^ 30 * scrub.toNat + 16 * rate.toNat + cap.toNat)))

/-- The COMP_RETIRE register that holds sorter `s`'s bit, and that bit's place. -/
def retireReg (s : Nat) : Nat × Nat := if s < 32 then (COMP_RETIRE_LO, s) else (COMP_RETIRE_HI, s - 32)

/-- SORTER_RETIRE (R281): the sorter's COMP_RETIRE bit is written 1, the others as they stand. -/
def execSorterRetire (o : Origin) (n : Fin 48) (s : State) : Out :=
  s.go fun c => writeCmd o.toNat (retireReg n).1 ((c.reg (retireReg n).1).setBit (retireReg n).2 true) c

/-- SORTER_RESTORE (R283): the sorter's COMP_RETIRE bit is written 0, the others as they stand. -/
def execSorterRestore (o : Origin) (n : Fin 48) (s : State) : Out :=
  s.go fun c => writeCmd o.toNat (retireReg n).1 ((c.reg (retireReg n).1).setBit (retireReg n).2 false) c

/-- ICU_CLAIM_READ (R502). -/
def execIcuClaimRead (o : Origin) (peek : Bool) (s : State) : Out := s.go (readCmd o.toNat ICU_CLAIM peek)
/-- ICU_EOI_WRITE (R505). -/
def execIcuEoiWrite (o : Origin) (v : Word) (s : State) : Out := s.go (writeCmd o.toNat ICU_EOI v)
/-- ICU_SWI_WRITE (R493). -/
def execIcuSwiWrite (o : Origin) (v : Word) (s : State) : Out := s.go (writeCmd o.toNat ICU_SWI v)
/-- ICU_SSET_WRITE (R494). -/
def execIcuSsetWrite (o : Origin) (v : Word) (s : State) : Out := s.go (writeCmd o.toNat ICU_SSET v)
/-- ICU_CFG_WRITE (R499). -/
def execIcuCfgWrite (o : Origin) (v : Word) (s : State) : Out := s.go (writeCmd o.toNat ICU_CFG v)

/-- AUD_VEND_READ (R378). -/
def execAudVendRead (o : Fin 256) (peek : Bool) (s : State) : Out := s.go (readCmd o AUD_VEND peek)
/-- AUD_SN_LO_READ (R32). -/
def execAudSnLoRead (o : Fin 256) (d : Fin 3) (peek : Bool) (s : State) : Out := s.go (readCmd o (AUD_SN_LO d) peek)
/-- OUT_CAP_READ (R322): origin `m` reads OUT_CAP of output `o`. -/
def execOutCapRead (o : Fin 4) (m : Fin 256) (peek : Bool) (s : State) : Out := s.go (readCmd m (OUT_CAP o) peek)

/-- TMR_XCAP_READ (R515). -/
def execTmrXcapRead (o : Origin) (ch : Fin 32) (peek : Bool) (s : State) : Out := s.go (readCmd o.toNat (TMR_XCAP ch) peek)
/-- TMR_CS_WRITE (R513). -/
def execTmrCsWrite (o : Origin) (ch : Fin 32) (v : Word) (s : State) : Out := s.go (writeCmd o.toNat (TMR_CS ch) v)
/-- TMR_TOP_WRITE (R512). -/
def execTmrTopWrite (o : Origin) (ch : Fin 32) (v : Word) (s : State) : Out := s.go (writeCmd o.toNat (TMR_TOP ch) v)
/-- TMR_XCMP_WRITE (R514). -/
def execTmrXcmpWrite (o : Origin) (ch : Fin 32) (v : Word) (s : State) : Out := s.go (writeCmd o.toNat (TMR_XCMP ch) v)
/-- GROUP_START (R517): GO bits of TMR_XGSTART. -/
def execGroupStart (o : Origin) (groups : BitVec 8) (s : State) : Out := s.go (writeCmd o.toNat TMR_XGSTART (Word.of groups.toNat))
/-- GROUP_STOP (R517): STOP bits of TMR_XGSTART. -/
def execGroupStop (o : Origin) (groups : BitVec 8) (s : State) : Out :=
  s.go (writeCmd o.toNat TMR_XGSTART (Word.of (256 * groups.toNat)))

/-- GPIO_OUT_WRITE (R529). -/
def execGpioOutWrite (o : Origin) (b : Fin 6) (v : Word) (s : State) : Out := s.go (writeCmd o.toNat (GPIO_OUT b) v)
/-- GPIO_SET_WRITE (R529). -/
def execGpioSetWrite (o : Origin) (b : Fin 6) (v : Word) (s : State) : Out := s.go (writeCmd o.toNat (GPIO_SET b) v)
/-- GPIO_CLR_WRITE (R529). -/
def execGpioClrWrite (o : Origin) (b : Fin 6) (v : Word) (s : State) : Out := s.go (writeCmd o.toNat (GPIO_CLR b) v)
/-- GPIO_OE_WRITE (R529). -/
def execGpioOeWrite (o : Origin) (b : Fin 6) (v : Word) (s : State) : Out := s.go (writeCmd o.toNat (GPIO_OE b) v)
/-- PMUX_FUNC_WRITE (R535). -/
def execPmuxFuncWrite (o : Origin) (i : Fin 24) (v : Word) (s : State) : Out := s.go (writeCmd o.toNat (PMUX_FUNC i) v)
/-- GPIO_RELEASE (R541): GPIO_CFG_b is written with RELEASE 1, its other fields as they stand. -/
def execGpioRelease (o : Origin) (b : Fin 6) (s : State) : Out :=
  s.go fun c => writeCmd o.toNat (GPIO_CFG b) ((c.reg (GPIO_CFG b)).setBit 5 true) c

/-- SYS_RESET_KEY (R543). -/
def execSysResetKey (o : Origin) (v : Word) (s : State) : Out := s.go (writeCmd o.toNat SYS_RESET v)
/-- SYS_URST_WRITE (R547). -/
def execSysUrstWrite (o : Origin) (u : BitVec 9) (s : State) : Out := s.go (writeCmd o.toNat SYS_URST (Word.of u.toNat))
/-- SYS_RUN_WRITE (R546): SYS_RUN_LO or SYS_RUN_HI. -/
def execSysRunWrite (o : Origin) (hi : Bool) (v : Word) (s : State) : Out :=
  s.go (writeCmd o.toNat (if hi then SYS_RUN_HI else SYS_RUN_LO) v)
/-- SYS_PD_CTL_WRITE (R557). -/
def execSysPdCtlWrite (o : Origin) (v : Word) (s : State) : Out := s.go (writeCmd o.toNat SYS_PD_CTL v)

/-- A write of SYS_XFUSE_CMD with an OP, a SLOT and GO (R567). -/
def fuseCmd (o : Origin) (op slot : Nat) : Chip → Chip := writeCmd o.toNat SYS_XFUSE_CMD (Word.of (2 ^ 31 + 16 * slot + op))

/-- FUSE_PROGRAM_TITLE (R567): OP 1. -/
def execFuseProgramTitle (o : Origin) (slot : Fin 4) (s : State) : Out := s.go (fuseCmd o 1 slot)
/-- FUSE_PROGRAM_DEBUG (R567): OP 2. -/
def execFuseProgramDebug (o : Origin) (slot : Fin 4) (s : State) : Out := s.go (fuseCmd o 2 slot)
/-- FUSE_REVOKE_TITLE (R567): OP 3. -/
def execFuseRevokeTitle (o : Origin) (slot : Fin 4) (s : State) : Out := s.go (fuseCmd o 3 slot)
/-- FUSE_RAISE_ROLLBACK (R567): OP 4. -/
def execFuseRaiseRollback (o : Origin) (s : State) : Out := s.go (fuseCmd o 4 0)

end Sys2Proof.Machine
end

