-- ==== Sys2Proof/Machine/Dispatch.lean ====
section
/-! DEFINITION. The dispatch: one arm for each constructor of Instr, a direct call of its meaning. -/

namespace Sys2Proof.Machine

/-- The effect of a command on everything but the queue. -/
def exec (i : Instr) (s : State) : Host.Outcome State Fault Refusal :=
  match i with
  | .regWrite o b off v => Sys2Proof.Machine.execRegWrite o b off v s
  | .postNowLoRead o peek => Sys2Proof.Machine.execPostNowLoRead o peek s
  | .refclkLoss => Sys2Proof.Machine.execRefclkLoss s
  | .refclkLock => Sys2Proof.Machine.execRefclkLock s
  | .replicaCheck n err => Sys2Proof.Machine.execReplicaCheck n err s
  | .epochCrossing => Sys2Proof.Machine.execEpochCrossing s
  | .arbiterGrant arb reqs upset hard fatal => Sys2Proof.Machine.execArbiterGrant arb reqs upset hard fatal s
  | .hogCutoff arb => Sys2Proof.Machine.execHogCutoff arb s
  | .scrubRead dram line upset hard => Sys2Proof.Machine.execScrubRead dram line upset hard s
  | .scrubPassOverrun => Sys2Proof.Machine.execScrubPassOverrun s
  | .dltInstall o offset => Sys2Proof.Machine.execDltInstall o offset s
  | .dltRemove o offset => Sys2Proof.Machine.execDltRemove o offset s
  | .dramcEnable o cap rate scrub => Sys2Proof.Machine.execDramcEnable o cap rate scrub s
  | .dramTrainingDone failed => Sys2Proof.Machine.execDramTrainingDone failed s
  | .dramChannelFail ch => Sys2Proof.Machine.execDramChannelFail ch s
  | .add k cond rd ra rb => Sys2Proof.Machine.execAdd k cond rd ra rb s
  | .sub k cond rd ra rb => Sys2Proof.Machine.execSub k cond rd ra rb s
  | .and k cond rd ra rb => Sys2Proof.Machine.execAnd k cond rd ra rb s
  | .or k cond rd ra rb => Sys2Proof.Machine.execOr k cond rd ra rb s
  | .xor k cond rd ra rb => Sys2Proof.Machine.execXor k cond rd ra rb s
  | .andn k cond rd ra rb => Sys2Proof.Machine.execAndn k cond rd ra rb s
  | .nor k cond rd ra rb => Sys2Proof.Machine.execNor k cond rd ra rb s
  | .sll k cond rd ra rb => Sys2Proof.Machine.execSll k cond rd ra rb s
  | .srl k cond rd ra rb => Sys2Proof.Machine.execSrl k cond rd ra rb s
  | .sra k cond rd ra rb => Sys2Proof.Machine.execSra k cond rd ra rb s
  | .ror k cond rd ra rb => Sys2Proof.Machine.execRor k cond rd ra rb s
  | .min k cond rd ra rb => Sys2Proof.Machine.execMin k cond rd ra rb s
  | .max k cond rd ra rb => Sys2Proof.Machine.execMax k cond rd ra rb s
  | .minu k cond rd ra rb => Sys2Proof.Machine.execMinu k cond rd ra rb s
  | .maxu k cond rd ra rb => Sys2Proof.Machine.execMaxu k cond rd ra rb s
  | .clz k cond rd ra => Sys2Proof.Machine.execClz k cond rd ra s
  | .popc k cond rd ra => Sys2Proof.Machine.execPopc k cond rd ra s
  | .sexb k cond rd ra => Sys2Proof.Machine.execSexb k cond rd ra s
  | .sexh k cond rd ra => Sys2Proof.Machine.execSexh k cond rd ra s
  | .zexh k cond rd ra => Sys2Proof.Machine.execZexh k cond rd ra s
  | .bswap k cond rd ra => Sys2Proof.Machine.execBswap k cond rd ra s
  | .mfq k cond rd => Sys2Proof.Machine.execMfq k cond rd s
  | .mtq k cond ra => Sys2Proof.Machine.execMtq k cond ra s
  | .addi k cond rd ra imm => Sys2Proof.Machine.execAddi k cond rd ra imm s
  | .andi k cond rd ra imm => Sys2Proof.Machine.execAndi k cond rd ra imm s
  | .ori k cond rd ra imm => Sys2Proof.Machine.execOri k cond rd ra imm s
  | .xori k cond rd ra imm => Sys2Proof.Machine.execXori k cond rd ra imm s
  | .shi k cond rd ra kind n => Sys2Proof.Machine.execShi k cond rd ra kind n s
  | .lui k cond rd imm => Sys2Proof.Machine.execLui k cond rd imm s
  | .lli k cond rd imm => Sys2Proof.Machine.execLli k cond rd imm s
  | .permb k cond rd ra sel => Sys2Proof.Machine.execPermb k cond rd ra sel s
  | .addb k cond rd ra rb => Sys2Proof.Machine.execAddb k cond rd ra rb s
  | .subb k cond rd ra rb => Sys2Proof.Machine.execSubb k cond rd ra rb s
  | .addusb k cond rd ra rb => Sys2Proof.Machine.execAddusb k cond rd ra rb s
  | .subusb k cond rd ra rb => Sys2Proof.Machine.execSubusb k cond rd ra rb s
  | .minub k cond rd ra rb => Sys2Proof.Machine.execMinub k cond rd ra rb s
  | .maxub k cond rd ra rb => Sys2Proof.Machine.execMaxub k cond rd ra rb s
  | .avgub k cond rd ra rb => Sys2Proof.Machine.execAvgub k cond rd ra rb s
  | .cmpeqb k cond rd ra rb => Sys2Proof.Machine.execCmpeqb k cond rd ra rb s
  | .cmpgtub k cond rd ra rb => Sys2Proof.Machine.execCmpgtub k cond rd ra rb s
  | .sadub k cond rd ra rb => Sys2Proof.Machine.execSadub k cond rd ra rb s
  | .cmp k cond qd comb ra rb cc => Sys2Proof.Machine.execCmp k cond qd comb ra rb cc s
  | .cmpi k cond qd comb ra cc imm => Sys2Proof.Machine.execCmpi k cond qd comb ra cc imm s
  | .predicateLogic k cond qd qa qb na nb op => Sys2Proof.Machine.execPredicateLogic k cond qd qa qb na nb op s
  | .mul k cond ra rb => Sys2Proof.Machine.execMul k cond ra rb s
  | .mulu k cond ra rb => Sys2Proof.Machine.execMulu k cond ra rb s
  | .mac k cond ra rb => Sys2Proof.Machine.execMac k cond ra rb s
  | .macu k cond ra rb => Sys2Proof.Machine.execMacu k cond ra rb s
  | .msu k cond ra rb => Sys2Proof.Machine.execMsu k cond ra rb s
  | .div k cond ra rb => Sys2Proof.Machine.execDiv k cond ra rb s
  | .divu k cond ra rb => Sys2Proof.Machine.execDivu k cond ra rb s
  | .mfpl k cond rd => Sys2Proof.Machine.execMfpl k cond rd s
  | .mfph k cond rd => Sys2Proof.Machine.execMfph k cond rd s
  | .mtpl k cond ra => Sys2Proof.Machine.execMtpl k cond ra s
  | .mtph k cond ra => Sys2Proof.Machine.execMtph k cond ra s
  | .productVisible k => Sys2Proof.Machine.execProductVisible k s
  | .lb k cond rd ra off => Sys2Proof.Machine.execLb k cond rd ra off s
  | .lbu k cond rd ra off => Sys2Proof.Machine.execLbu k cond rd ra off s
  | .lh k cond rd ra off => Sys2Proof.Machine.execLh k cond rd ra off s
  | .lhu k cond rd ra off => Sys2Proof.Machine.execLhu k cond rd ra off s
  | .lw k cond rd ra off => Sys2Proof.Machine.execLw k cond rd ra off s
  | .sb k cond rd ra off => Sys2Proof.Machine.execSb k cond rd ra off s
  | .sh k cond rd ra off => Sys2Proof.Machine.execSh k cond rd ra off s
  | .sw k cond rd ra off => Sys2Proof.Machine.execSw k cond rd ra off s
  | .ll k cond rd ra off => Sys2Proof.Machine.execLl k cond rd ra off s
  | .sc k cond rd ra qd off => Sys2Proof.Machine.execSc k cond rd ra qd off s
  | .ldsw k cond rd a => Sys2Proof.Machine.execLdsw k cond rd a s
  | .ldshu k cond rd a => Sys2Proof.Machine.execLdshu k cond rd a s
  | .stsw k cond rd a => Sys2Proof.Machine.execStsw k cond rd a s
  | .stsh k cond rd a => Sys2Proof.Machine.execStsh k cond rd a s
  | .fenceS k cond => Sys2Proof.Machine.execFenceS k cond s
  | .fenceF k cond => Sys2Proof.Machine.execFenceF k cond s
  | .fenceIo k cond => Sys2Proof.Machine.execFenceIo k cond s
  | .isync k cond => Sys2Proof.Machine.execIsync k cond s
  | .b k cond annul disp => Sys2Proof.Machine.execB k cond annul disp s
  | .bl k cond annul disp => Sys2Proof.Machine.execBl k cond annul disp s
  | .jr k cond annul ra => Sys2Proof.Machine.execJr k cond annul ra s
  | .jlr k cond annul ra rd => Sys2Proof.Machine.execJlr k cond annul ra rd s
  | .nop k low => Sys2Proof.Machine.execNop k low s
  | .prefetch k ra off => Sys2Proof.Machine.execPrefetch k ra off s
  | .csrr k cond ga csr => Sys2Proof.Machine.execCsrr k cond ga csr s
  | .csrw k cond ga csr => Sys2Proof.Machine.execCsrw k cond ga csr s
  | .csrs k cond ga csr => Sys2Proof.Machine.execCsrs k cond ga csr s
  | .csrc k cond ga csr => Sys2Proof.Machine.execCsrc k cond ga csr s
  | .eret k cond => Sys2Proof.Machine.execEret k cond s
  | .wait k cond => Sys2Proof.Machine.execWait k cond s
  | .waitResume k => Sys2Proof.Machine.execWaitResume k s
  | .regsync k cond ga => Sys2Proof.Machine.execRegsync k cond ga s
  | .cline k cond ga kind => Sys2Proof.Machine.execCline k cond ga kind s
  | .rdpm k cond ga gb => Sys2Proof.Machine.execRdpm k cond ga gb s
  | .syscall k cond code => Sys2Proof.Machine.execSyscall k cond code s
  | .interruptEntry k => Sys2Proof.Machine.execInterruptEntry k s
  | .storeBusErrorReport k => Sys2Proof.Machine.execStoreBusErrorReport k s
  | .loadDataReturn k cycles => Sys2Proof.Machine.execLoadDataReturn k cycles s
  | .storeAck k => Sys2Proof.Machine.execStoreAck k s
  | .storeBufferDrain k => Sys2Proof.Machine.execStoreBufferDrain k s
  | .fetchLineRead k line defer useless => Sys2Proof.Machine.execFetchLineRead k line defer useless s
  | .branchMispredict k wrong ret path => Sys2Proof.Machine.execBranchMispredict k wrong ret path s
  | .memorderFlush k pc => Sys2Proof.Machine.execMemorderFlush k pc s
  | .overlapReplay k => Sys2Proof.Machine.execOverlapReplay k s
  | .waitTableClear k => Sys2Proof.Machine.execWaitTableClear k s
  | .pmcOverflow k n => Sys2Proof.Machine.execPmcOverflow k n s
  | .frameStart o => Sys2Proof.Machine.execFrameStart o s
  | .binDone o wait => Sys2Proof.Machine.execBinDone o wait s
  | .lineStart o => Sys2Proof.Machine.execLineStart o s
  | .unitOffer n => Sys2Proof.Machine.execUnitOffer n s
  | .outSegmentRead o parity => Sys2Proof.Machine.execOutSegmentRead o parity s
  | .lineTimedWritePerform o => Sys2Proof.Machine.execLineTimedWritePerform o s
  | .frameDone o => Sys2Proof.Machine.execFrameDone o s
  | .sorterRetire o n => Sys2Proof.Machine.execSorterRetire o n s
  | .sorterRestore o n => Sys2Proof.Machine.execSorterRestore o n s
  | .lnext k cond gd ge => Sys2Proof.Machine.execLnext k cond gd ge s
  | .lstat k cond gd => Sys2Proof.Machine.execLstat k cond gd s
  | .ldead k cond gd => Sys2Proof.Machine.execLdead k cond gd s
  | .mtx k cond xd ga => Sys2Proof.Machine.execMtx k cond xd ga s
  | .mfx k cond gd xa => Sys2Proof.Machine.execMfx k cond gd xa s
  | .lset k cond gi gv => Sys2Proof.Machine.execLset k cond gi gv s
  | .lget k cond gd gi => Sys2Proof.Machine.execLget k cond gd gi s
  | .lgetr k cond gd n => Sys2Proof.Machine.execLgetr k cond gd n s
  | .lput k cond a => Sys2Proof.Machine.execLput k cond a s
  | .lclose k cond => Sys2Proof.Machine.execLclose k cond s
  | .ldraw k cond => Sys2Proof.Machine.execLdraw k cond s
  | .lend k cond => Sys2Proof.Machine.execLend k cond s
  | .outEnable o en => Sys2Proof.Machine.execOutEnable o en s
  | .sceneReady o => Sys2Proof.Machine.execSceneReady o s
  | .pairWrite o pair => Sys2Proof.Machine.execPairWrite o pair s
  | .xbarWrite d src en => Sys2Proof.Machine.execXbarWrite d src en s
  | .xbarDone d => Sys2Proof.Machine.execXbarDone d s
  | .hpdRise d => Sys2Proof.Machine.execHpdRise d s
  | .linkTrained d rates lanes async range => Sys2Proof.Machine.execLinkTrained d rates lanes async range s
  | .linkFail d hpdFell => Sys2Proof.Machine.execLinkFail d hpdFell s
  | .retrain d => Sys2Proof.Machine.execRetrain d s
  | .auxStart d => Sys2Proof.Machine.execAuxStart d s
  | .auxDone d result data => Sys2Proof.Machine.execAuxDone d result data s
  | .beamCapture o x => Sys2Proof.Machine.execBeamCapture o x s
  | .outCapRead o m peek => Sys2Proof.Machine.execOutCapRead o m peek s
  | .pressGo => Sys2Proof.Machine.execPressGo s
  | .pressAbort late => Sys2Proof.Machine.execPressAbort late s
  | .pressCommandFetch => Sys2Proof.Machine.execPressCommandFetch s
  | .pressCopy => Sys2Proof.Machine.execPressCopy s
  | .pressFill => Sys2Proof.Machine.execPressFill s
  | .pressConvert => Sys2Proof.Machine.execPressConvert s
  | .pressBlend => Sys2Proof.Machine.execPressBlend s
  | .pressClip => Sys2Proof.Machine.execPressClip s
  | .pressJump => Sys2Proof.Machine.execPressJump s
  | .pressEnd => Sys2Proof.Machine.execPressEnd s
  | .pressWriteAck => Sys2Proof.Machine.execPressWriteAck s
  | .pressDeadTimeEnd => Sys2Proof.Machine.execPressDeadTimeEnd s
  | .dmaGo n => Sys2Proof.Machine.execDmaGo n s
  | .dmaPause n outstanding => Sys2Proof.Machine.execDmaPause n outstanding s
  | .dmaResume n => Sys2Proof.Machine.execDmaResume n s
  | .dmaAbort n outstanding => Sys2Proof.Machine.execDmaAbort n outstanding s
  | .dmaReadReturn n transient => Sys2Proof.Machine.execDmaReadReturn n transient s
  | .dmaEnvelopeFetch n => Sys2Proof.Machine.execDmaEnvelopeFetch n s
  | .dmaWriteAck n transient => Sys2Proof.Machine.execDmaWriteAck n transient s
  | .dmaEngineFault => Sys2Proof.Machine.execDmaEngineFault s
  | .audioTick d => Sys2Proof.Machine.execAudioTick d s
  | .bridgeRatioMeasure b ratio => Sys2Proof.Machine.execBridgeRatioMeasure b ratio s
  | .domainStart d en => Sys2Proof.Machine.execDomainStart d en s
  | .slipGo d => Sys2Proof.Machine.execSlipGo d s
  | .vcqWrWrite d wr => Sys2Proof.Machine.execVcqWrWrite d wr s
  | .audVendRead o peek => Sys2Proof.Machine.execAudVendRead o peek s
  | .audSnLoRead o d peek => Sys2Proof.Machine.execAudSnLoRead o d peek s
  | .rxSample p slot v late => Sys2Proof.Machine.execRxSample p slot v late s
  | .audclkBLoss => Sys2Proof.Machine.execAudclkBLoss s
  | .vadd k cond vd va vb => Sys2Proof.Machine.execVadd k cond vd va vb s
  | .vsub k cond vd va vb => Sys2Proof.Machine.execVsub k cond vd va vb s
  | .vmul k cond vd va vb => Sys2Proof.Machine.execVmul k cond vd va vb s
  | .vmac k cond vd va vb => Sys2Proof.Machine.execVmac k cond vd va vb s
  | .vminmax k cond vd va vb greater => Sys2Proof.Machine.execVminmax k cond vd va vb greater s
  | .vunary k cond vd va m => Sys2Proof.Machine.execVunary k cond vd va m s
  | .vdiv k cond vd va vb => Sys2Proof.Machine.execVdiv k cond vd va vb s
  | .vcvtf k cond vd va m => Sys2Proof.Machine.execVcvtf k cond vd va m s
  | .vcvti k cond vd va m => Sys2Proof.Machine.execVcvti k cond vd va m s
  | .viadd k cond vd va vb sub => Sys2Proof.Machine.execViadd k cond vd va vb sub s
  | .vlogic k cond vd va vb m => Sys2Proof.Machine.execVlogic k cond vd va vb m s
  | .vshi k cond vd va n m => Sys2Proof.Machine.execVshi k cond vd va n m s
  | .vcmp k cond vd va vb m => Sys2Proof.Machine.execVcmp k cond vd va vb m s
  | .vsel k cond vd va vb => Sys2Proof.Machine.execVsel k cond vd va vb s
  | .vbcast k cond vd ga => Sys2Proof.Machine.execVbcast k cond vd ga s
  | .vins k cond vd ga n => Sys2Proof.Machine.execVins k cond vd ga n s
  | .vext k cond gd va n => Sys2Proof.Machine.execVext k cond gd va n s
  | .vtrn k cond vd va => Sys2Proof.Machine.execVtrn k cond vd va s
  | .vld k cond vd ga => Sys2Proof.Machine.execVld k cond vd ga s
  | .vst k cond va ga => Sys2Proof.Machine.execVst k cond va ga s
  | .vgath k cond vd va gb => Sys2Proof.Machine.execVgath k cond vd va gb s
  | .vsin k cond vd va => Sys2Proof.Machine.execVsin k cond vd va s
  | .vbiq k cond vd va gb => Sys2Proof.Machine.execVbiq k cond vd va gb s
  | .vgen k cond vd ga => Sys2Proof.Machine.execVgen k cond vd ga s
  | .dyn k cond vd va gb => Sys2Proof.Machine.execDyn k cond vd va gb s
  | .snext k cond gd ge => Sys2Proof.Machine.execSnext k cond gd ge s
  | .sstat k cond gd bank => Sys2Proof.Machine.execSstat k cond gd bank s
  | .sout k cond va gb => Sys2Proof.Machine.execSout k cond va gb s
  | .sin k cond vd gb => Sys2Proof.Machine.execSin k cond vd gb s
  | .sbar k cond => Sys2Proof.Machine.execSbar k cond s
  | .send k cond => Sys2Proof.Machine.execSend k cond s
  | .vddFuRise => Sys2Proof.Machine.execVddFuRise s
  | .fuKeepEntry => Sys2Proof.Machine.execFuKeepEntry s
  | .fuWdtExpire => Sys2Proof.Machine.execFuWdtExpire s
  | .fuWdtKick v => Sys2Proof.Machine.execFuWdtKick v s
  | .rtcSecond => Sys2Proof.Machine.execRtcSecond s
  | .rtcXtalStop => Sys2Proof.Machine.execRtcXtalStop s
  | .oscTrim meas code => Sys2Proof.Machine.execOscTrim meas code s
  | .pulseEdge n level us => Sys2Proof.Machine.execPulseEdge n level us s
  | .pulseJam n => Sys2Proof.Machine.execPulseJam n s
  | .pulseResume n => Sys2Proof.Machine.execPulseResume n s
  | .pulseCommit => Sys2Proof.Machine.execPulseCommit s
  | .meterPulseStart k => Sys2Proof.Machine.execMeterPulseStart k s
  | .meterPulseOff k => Sys2Proof.Machine.execMeterPulseOff k s
  | .meterPulseEnd k => Sys2Proof.Machine.execMeterPulseEnd k s
  | .meterReadback k high => Sys2Proof.Machine.execMeterReadback k high s
  | .doorOpen d => Sys2Proof.Machine.execDoorOpen d s
  | .tamperTrip n => Sys2Proof.Machine.execTamperTrip n s
  | .poboxClaimRead o peek => Sys2Proof.Machine.execPoboxClaimRead o peek s
  | .poboxPost o => Sys2Proof.Machine.execPoboxPost o s
  | .poboxAbort o late => Sys2Proof.Machine.execPoboxAbort o late s
  | .poboxRelease o => Sys2Proof.Machine.execPoboxRelease o s
  | .poboxXforce v => Sys2Proof.Machine.execPoboxXforce v s
  | .poboxXinj v => Sys2Proof.Machine.execPoboxXinj v s
  | .poboxServe => Sys2Proof.Machine.execPoboxServe s
  | .read => Sys2Proof.Machine.execRead s
  | .commit => Sys2Proof.Machine.execCommit s
  | .report => Sys2Proof.Machine.execReport s
  | .reportRead => Sys2Proof.Machine.execReportRead s
  | .ident => Sys2Proof.Machine.execIdent s
  | .time => Sys2Proof.Machine.execTime s
  | .sealBreak => Sys2Proof.Machine.execSealBreak s
  | .reseal => Sys2Proof.Machine.execReseal s
  | .notice => Sys2Proof.Machine.execNotice s
  | .stage => Sys2Proof.Machine.execStage s
  | .fwWrite => Sys2Proof.Machine.execFwWrite s
  | .fwActivate => Sys2Proof.Machine.execFwActivate s
  | .clockSet => Sys2Proof.Machine.execClockSet s
  | .meterInit => Sys2Proof.Machine.execMeterInit s
  | .recoverAck => Sys2Proof.Machine.execRecoverAck s
  | .faultClear => Sys2Proof.Machine.execFaultClear s
  | .archiveWrite ok => Sys2Proof.Machine.execArchiveWrite ok s
  | .fuSpiGo v => Sys2Proof.Machine.execFuSpiGo v s
  | .fuSpiDone ok data => Sys2Proof.Machine.execFuSpiDone ok data s
  | .fuSpiDataAccess w => Sys2Proof.Machine.execFuSpiDataAccess w s
  | .fuMirDataAccess w => Sys2Proof.Machine.execFuMirDataAccess w s
  | .fuMirSend => Sys2Proof.Machine.execFuMirSend s
  | .mirrorCommitReceive e receipt outs tagOk => Sys2Proof.Machine.execMirrorCommitReceive e receipt outs tagOk s
  | .mirrorAckTimeout => Sys2Proof.Machine.execMirrorAckTimeout s
  | .fuDemote => Sys2Proof.Machine.execFuDemote s
  | .noticeGraceExpire o => Sys2Proof.Machine.execNoticeGraceExpire o s
  | .zowEnable en => Sys2Proof.Machine.execZowEnable en s
  | .zowTrainDone rate => Sys2Proof.Machine.execZowTrainDone rate s
  | .zowTrainTimeout => Sys2Proof.Machine.execZowTrainTimeout s
  | .zowAuthDone p => Sys2Proof.Machine.execZowAuthDone p s
  | .syncProbe t1 t2 t3 t4 => Sys2Proof.Machine.execSyncProbe t1 t2 t3 t4 s
  | .zowResync peer wins => Sys2Proof.Machine.execZowResync peer wins s
  | .zowFrameReceive f => Sys2Proof.Machine.execZowFrameReceive f s
  | .laneFail l two => Sys2Proof.Machine.execLaneFail l two s
  | .heartbeatSend => Sys2Proof.Machine.execHeartbeatSend s
  | .heartbeatReceive elig gen => Sys2Proof.Machine.execHeartbeatReceive elig gen s
  | .leaseRenew => Sys2Proof.Machine.execLeaseRenew s
  | .leaseExpire => Sys2Proof.Machine.execLeaseExpire s
  | .mirrorKeepalive => Sys2Proof.Machine.execMirrorKeepalive s
  | .takeover missed held => Sys2Proof.Machine.execTakeover missed held s
  | .followReceive o f => Sys2Proof.Machine.execFollowReceive o f s
  | .followFrameStart o => Sys2Proof.Machine.execFollowFrameStart o s
  | .sealReceive o frame crc => Sys2Proof.Machine.execSealReceive o frame crc s
  | .snapshotPost len => Sys2Proof.Machine.execSnapshotPost len s
  | .snapshotReceive x => Sys2Proof.Machine.execSnapshotReceive x s
  | .replicationApply stream seq l => Sys2Proof.Machine.execReplicationApply stream seq l s
  | .bulkGo => Sys2Proof.Machine.execBulkGo s
  | .bulkDone => Sys2Proof.Machine.execBulkDone s
  | .handover => Sys2Proof.Machine.execHandover s
  | .detach => Sys2Proof.Machine.execDetach s
  | .treset => Sys2Proof.Machine.execTreset s
  | .tReset => Sys2Proof.Machine.execTReset s
  | .seed copy => Sys2Proof.Machine.execSeed copy s
  | .clearDiv => Sys2Proof.Machine.execClearDiv s
  | .sourceEvent n k age => Sys2Proof.Machine.execSourceEvent n k age s
  | .recordEligible => Sys2Proof.Machine.execRecordEligible s
  | .modRelease => Sys2Proof.Machine.execModRelease s
  | .icuClaimRead o peek => Sys2Proof.Machine.execIcuClaimRead o peek s
  | .icuEoiWrite o v => Sys2Proof.Machine.execIcuEoiWrite o v s
  | .icuSwiWrite o v => Sys2Proof.Machine.execIcuSwiWrite o v s
  | .icuSsetWrite o v => Sys2Proof.Machine.execIcuSsetWrite o v s
  | .icuCfgWrite o v => Sys2Proof.Machine.execIcuCfgWrite o v s
  | .napWakeLatch n k level => Sys2Proof.Machine.execNapWakeLatch n k level s
  | .timerTick k => Sys2Proof.Machine.execTimerTick k s
  | .timerWrap k => Sys2Proof.Machine.execTimerWrap k s
  | .compareEvent k => Sys2Proof.Machine.execCompareEvent k s
  | .captureEvent k => Sys2Proof.Machine.execCaptureEvent k s
  | .gateChange k => Sys2Proof.Machine.execGateChange k s
  | .tmrXcapRead o ch peek => Sys2Proof.Machine.execTmrXcapRead o ch peek s
  | .tmrCsWrite o ch v => Sys2Proof.Machine.execTmrCsWrite o ch v s
  | .tmrTopWrite o ch v => Sys2Proof.Machine.execTmrTopWrite o ch v s
  | .tmrXcmpWrite o ch v => Sys2Proof.Machine.execTmrXcmpWrite o ch v s
  | .groupStart o groups => Sys2Proof.Machine.execGroupStart o groups s
  | .groupStop o groups => Sys2Proof.Machine.execGroupStop o groups s
  | .wdtTick w => Sys2Proof.Machine.execWdtTick w s
  | .wdtWarn w => Sys2Proof.Machine.execWdtWarn w s
  | .wdtExpire w => Sys2Proof.Machine.execWdtExpire w s
  | .wdtKick o w v => Sys2Proof.Machine.execWdtKick o w v s
  | .wdtCtlWrite w v => Sys2Proof.Machine.execWdtCtlWrite w v s
  | .gpioOutWrite o b v => Sys2Proof.Machine.execGpioOutWrite o b v s
  | .gpioSetWrite o b v => Sys2Proof.Machine.execGpioSetWrite o b v s
  | .gpioClrWrite o b v => Sys2Proof.Machine.execGpioClrWrite o b v s
  | .gpioOeWrite o b v => Sys2Proof.Machine.execGpioOeWrite o b v s
  | .pinFilterAccept p level => Sys2Proof.Machine.execPinFilterAccept p level s
  | .pmuxFuncWrite o n v => Sys2Proof.Machine.execPmuxFuncWrite o n v s
  | .pmuxHoldEnd n => Sys2Proof.Machine.execPmuxHoldEnd n s
  | .gpioRelease o b => Sys2Proof.Machine.execGpioRelease o b s
  | .vsbRise => Sys2Proof.Machine.execVsbRise s
  | .vsbFall => Sys2Proof.Machine.execVsbFall s
  | .mainEnAutoRise => Sys2Proof.Machine.execMainEnAutoRise s
  | .pgoodRise profileSel => Sys2Proof.Machine.execPgoodRise profileSel s
  | .pgoodFall => Sys2Proof.Machine.execPgoodFall s
  | .nresetAssert => Sys2Proof.Machine.execNresetAssert s
  | .nresetDeassert => Sys2Proof.Machine.execNresetDeassert s
  | .sysResetKey o v => Sys2Proof.Machine.execSysResetKey o v s
  | .sysUrstWrite o u => Sys2Proof.Machine.execSysUrstWrite o u s
  | .unitResetDone u => Sys2Proof.Machine.execUnitResetDone u s
  | .sysRunWrite o hi v => Sys2Proof.Machine.execSysRunWrite o hi v s
  | .sysPdCtlWrite o v => Sys2Proof.Machine.execSysPdCtlWrite o v s
  | .pdRampDone d => Sys2Proof.Machine.execPdRampDone d s
  | .napEntry => Sys2Proof.Machine.execNapEntry s
  | .napWake => Sys2Proof.Machine.execNapWake s
  | .dormantEntry => Sys2Proof.Machine.execDormantEntry s
  | .dormantWake dramKept => Sys2Proof.Machine.execDormantWake dramKept s
  | .pgoodTimeout => Sys2Proof.Machine.execPgoodTimeout s
  | .fuseProgramTitle o slot => Sys2Proof.Machine.execFuseProgramTitle o slot s
  | .fuseProgramDebug o slot => Sys2Proof.Machine.execFuseProgramDebug o slot s
  | .fuseRevokeTitle o slot => Sys2Proof.Machine.execFuseRevokeTitle o slot s
  | .fuseRaiseRollback o => Sys2Proof.Machine.execFuseRaiseRollback o s
  | .fuseOpDone => Sys2Proof.Machine.execFuseOpDone s
  | .pcieInboundRequest target write bytes poison len => Sys2Proof.Machine.execPcieInboundRequest target write bytes poison len s
  | .pcieFundamentalReset => Sys2Proof.Machine.execPcieFundamentalReset s
  | .pcieLinkUp gen width l1 => Sys2Proof.Machine.execPcieLinkUp gen width l1 s
  | .pcieLinkDown => Sys2Proof.Machine.execPcieLinkDown s
  | .pcieCfgdataAccess o write reply => Sys2Proof.Machine.execPcieCfgdataAccess o write reply s
  | .pcieCompletionTimeout o => Sys2Proof.Machine.execPcieCompletionTimeout o s
  | .storEnable kind dev => Sys2Proof.Machine.execStorEnable kind dev s
  | .storBlkGo v => Sys2Proof.Machine.execStorBlkGo v s
  | .storBlkDone ok data => Sys2Proof.Machine.execStorBlkDone ok data s
  | .storQcmdGo v => Sys2Proof.Machine.execStorQcmdGo v s
  | .storQcmdDone data => Sys2Proof.Machine.execStorQcmdDone data s
  | .storQdataAccess o write v => Sys2Proof.Machine.execStorQdataAccess o write v s
  | .cardChange present => Sys2Proof.Machine.execCardChange present s
  | .usbConnectChange p speed => Sys2Proof.Machine.execUsbConnectChange p speed s
  | .usbOvercurrent p => Sys2Proof.Machine.execUsbOvercurrent p s
  | .pmRestart => Sys2Proof.Machine.execPmRestart s
  | .pmScrub => Sys2Proof.Machine.execPmScrub s
  | .smbBlockWriteAppend bytes pecOk => Sys2Proof.Machine.execSmbBlockWriteAppend bytes pecOk s
  | .smbBlockWriteSubmit bytes pecOk => Sys2Proof.Machine.execSmbBlockWriteSubmit bytes pecOk s
  | .smbBlockRead => Sys2Proof.Machine.execSmbBlockRead s
  | .smbReadState => Sys2Proof.Machine.execSmbReadState s
  | .udpFrame frame => Sys2Proof.Machine.execUdpFrame frame s
  | .info => Sys2Proof.Machine.execInfo s
  | .nonce => Sys2Proof.Machine.execNonce s
  | .status => Sys2Proof.Machine.execStatus s
  | .sensors => Sys2Proof.Machine.execSensors s
  | .daybook => Sys2Proof.Machine.execDaybook s
  | .repair => Sys2Proof.Machine.execRepair s
  | .fu => Sys2Proof.Machine.execFu s
  | .power => Sys2Proof.Machine.execPower s
  | .reset => Sys2Proof.Machine.execReset s
  | .profileSet => Sys2Proof.Machine.execProfileSet s
  | .hold => Sys2Proof.Machine.execHold s
  | .stageBegin erased held => Sys2Proof.Machine.execStageBegin erased held s
  | .stageData readBack held => Sys2Proof.Machine.execStageData readBack held s
  | .stageEnd reads header held => Sys2Proof.Machine.execStageEnd reads header held s
  | .stageTimeout => Sys2Proof.Machine.execStageTimeout s
  | .twin => Sys2Proof.Machine.execTwin s
  | .repairClear => Sys2Proof.Machine.execRepairClear s
  | .netSet => Sys2Proof.Machine.execNetSet s
  | .overtempTrip ch v => Sys2Proof.Machine.execOvertempTrip ch v s
  | .sensSample vals => Sys2Proof.Machine.execSensSample vals s
  | .daybSwgo v => Sys2Proof.Machine.execDaybSwgo v s
  | .idcode => Sys2Proof.Machine.execIdcode s
  | .samplePreload preload => Sys2Proof.Machine.execSamplePreload preload s
  | .extest value => Sys2Proof.Machine.execExtest value s
  | .challenge => Sys2Proof.Machine.execChallenge s
  | .response level key sig => Sys2Proof.Machine.execResponse level key sig s
  | .dbgreg write off data => Sys2Proof.Machine.execDbgreg write off data s
  | .bypass => Sys2Proof.Machine.execBypass s
  | .tapReset => Sys2Proof.Machine.execTapReset s
  | .dbgOpen sender frame => Sys2Proof.Machine.execDbgOpen sender frame s
  | .dbgReg sender frame => Sys2Proof.Machine.execDbgReg sender frame s
  | .dbgClose sender frame => Sys2Proof.Machine.execDbgClose sender frame s
  | .sessionTimeout => Sys2Proof.Machine.execSessionTimeout s
  | .dbgHaltWrite hi v => Sys2Proof.Machine.execDbgHaltWrite hi v s
  | .coreHalt k => Sys2Proof.Machine.execCoreHalt k s
  | .dbgResume hi v => Sys2Proof.Machine.execDbgResume hi v s
  | .dbgStep core => Sys2Proof.Machine.execDbgStep core s
  | .dbgFeed w => Sys2Proof.Machine.execDbgFeed w s
  | .dbgDamGo ahi write peek => Sys2Proof.Machine.execDbgDamGo ahi write peek s
  | .doorClose d => Sys2Proof.Machine.execDoorClose d s
  | .vsbFRise => Sys2Proof.Machine.execVsbFRise s
  | .vddioFuChange present => Sys2Proof.Machine.execVddioFuChange present s
  | .bankSupplyChange b present => Sys2Proof.Machine.execBankSupplyChange b present s
  | .pressReadReturn => Sys2Proof.Machine.execPressReadReturn s
  | .illegalInstruction k word => Sys2Proof.Machine.execIllegalInstruction k word s

end Sys2Proof.Machine
end

