-- ==== Sys2Proof/Machine/Step.lean ====
section
/-! DEFINITION. One step: the command at the front of the queue, or what happens while none waits. -/

namespace Sys2Proof.Machine

/-- While no command waits (log entries 1, 167): one nanosecond passes, and the boot ROM goes on. -/
def idle (c : Chip) : Chip := bootTick (passTime c)

/-- One step (log entry 1): the command at the front of the queue is taken and performed with the rest waiting; while none
waits, the device idles. -/
def step (s : State) : Host.Outcome State Fault Refusal :=
  match s.pending with
  | [] => .next { s with chip := idle s.chip }
  | i :: rest => exec i { s with pending := rest }

/-- `s` with the command that a word spells at the front of its queue; no word spells one. -/
def State.withFetchWord (s : State) (nbits w : Nat) : State :=
  match decodeTableWord nbits w with
  | some i => { s with pending := i :: s.pending }
  | none => s

end Sys2Proof.Machine
end

