-- ==== Sys2Proof/WellFormed.lean ====
section
/-! DEFINITION. Which commands are well-formed: the operands whose types are wider than what the manual lets arrive. -/

namespace Sys2Proof

/-- A request at an arbiter (R190, R195): an origin of R33, a beat of 1 to 64 bytes. -/
def reqWf (r : Machine.BusReq) : Bool :=
  Nat.blt r.origin 4096 && Nat.ble 1 r.bytes.length && Nat.ble r.bytes.length 64

/-- A captured line (R474): 64-byte aligned, 64 bytes, a mask of 64 bits. -/
def lineWf (l : Machine.CapLine) : Bool := l.pa % 64 == 0 && l.data.length == 64 && Nat.blt l.mask (2 ^ 64)

/-- A sequence number of a link stream is 32 bits wide (R468). -/
def seqWf (n : Nat) : Bool := Nat.blt n (2 ^ 32)

/-- The operands of a command lie where the manual lets them lie. -/
def Instr.wellFormed : Instr → Bool
  | .arbiterGrant _ reqs _ _ _ => reqs.all reqWf
  | .dramTrainingDone failed => failed.all (Nat.blt · 4) && decide failed.Nodup
  | .nop _ low => (low.toNat / 2 ^ 22) % 64 != 0x14
  | .illegalInstruction _ word => word.bits 31 28 != 8
  | .auxDone _ _ data => Nat.ble data.length 16
  | .rxSample _ _ v _ => decide (-(2 ^ 23) ≤ v) && decide (v < 2 ^ 23)
  | .bridgeRatioMeasure _ ratio => Nat.blt ratio (2 ^ 36)
  | .mirrorCommitReceive _ _ outs _ => outs.all fun p => Nat.blt p.1 8
  | .zowAuthDone p => p.ident.length == 32 && Nat.blt p.count (2 ^ 64) && p.base.length == 5 && p.base.all seqWf
  | .zowResync _ wins => wins.length == 8
  | .syncProbe t1 t2 t3 t4 => [t1, t2, t3, t4].all (Nat.blt · (2 ^ 64))
  | .snapshotReceive x => seqWf x.seq && x.marks.length == 5 && x.marks.all seqWf && Nat.ble x.payload.length 4032
  | .replicationApply _ seq l => seqWf seq && lineWf l
  | .pcieInboundRequest _ write bytes _ len => if write then Nat.ble 1 bytes.length && Nat.ble bytes.length 256 else bytes == [] && len != 0
  | .storQcmdDone data => Nat.blt data.length 4096
  | .smbBlockWriteAppend bytes _ => Nat.ble bytes.length 255
  | .smbBlockWriteSubmit bytes _ => Nat.ble bytes.length 255
  | .sensSample vals => vals.length == 28
  | _ => true

end Sys2Proof
end

