-- ==== Sys2Proof/Safety.lean ====
section
/-! DEFINITION. What the statements speak in: the canonical form of memory, a safe state, and when an instruction of a core comes
to perform its own operation. -/

namespace Sys2Proof.Machine

/-! ### Safe states -/

/-- Memory is in its canonical form. -/
def Chip.canonical (c : Chip) : Bool := Memory.wf c.mem

/-- No device-fatal error has stopped the main side (R50, R53, R598), and no unit is stopped by a unit-fatal error (R50). -/
def Chip.safe (c : Chip) : Bool := c.power.state != .fatal && c.power.failed == []

/-- A run is safe while its commands are well-formed and its chip is safe. -/
def State.safe (s : State) : Bool := s.chip.safe && s.pending.all Instr.wellFormed

/-! ### An instruction that comes to operate -/

/-- The delay slot that core `k` is about to execute is annulled (R86, R88). -/
def Chip.annulled (c : Chip) (k : Nat) : Bool :=
  match (c.core k).slot with
  | some s => s.annulled
  | none => false

/-- The chip with which the instruction at the pc of core `k` operates: the core can run, nothing is due at its interrupt point (R112,
R113, R608), no annulled slot is next, a product whose shadow is over has become visible (R77), the fetch meets no exception (R110) and
no comparator stops it (R614).  `none` where it does not come so far. -/
def Chip.prepared (c : Chip) (k : Nat) (branch : Bool) : Option Chip :=
  if c.canRun k && (pointEvent k c).isNone && !c.annulled k then
    match fetchFault k (c.modCore k Core.ripen) with
    | (none, d) =>
      match fireBreak k branch d with
      | (.no, e) => some e
      | _ => none
    | _ => none
  else none

/-- The condition of R65 holds, and the word lies outside the hint space (R67). -/
def Core.takes (x : Core) (cond : BitVec 4) : Bool := cond != 8 && condTrue x.q cond

/-- The instruction at the pc of core `k` completes with the effect `f` on the core, where its condition holds: its position of
the shadow passes (R78), execution goes on (R86), it retires (R156), and a single step is over (R610). -/
def Chip.complete (c : Chip) (k : Nat) (cond : BitVec 4) (f : Core → Core) : Chip :=
  endStep k (c.modCore k fun x => (if x.takes cond then f x else x).advance k)

/-- The instruction at the pc of core `k` raises an exception with this cause and csr_eaddr (R110, R111, R114). -/
def Chip.except (c : Chip) (k : Nat) (cause : Nat) (addr : Word) : Chip :=
  endStep k (c.modCore k fun x => x.trap cause addr)

/-- The command `i` in the state `s` answers a next state, with the queue as it was and a chip that satisfies `P`. -/
def Answers (i : Instr) (s : State) (P : Chip → Prop) : Prop := ∃ t, exec i s = .next t ∧ t.pending = s.pending ∧ P t.chip

/-- Register `k` answers a read of origin `o`: the main side runs, the block's domain is up and out of isolation (R18), and the origin's own map
reaches it (R404). -/
def Chip.answersRead (c : Chip) (o k : Nat) : Bool := o != 62 && c.mainRuns && c.domainUp (blockDomain (k / 0x1000))

/-- Register `k` takes a write of origin `o`: it answers, and it is no expert register or its block is under expert control (R13). -/
def Chip.takesWrite (c : Chip) (o k : Nat) : Bool :=
  c.answersRead o k && (Nat.blt (k % 0x1000) 0x100 || c.expert (k / 0x1000))

/-- `s` with the chip `c`. -/
def State.at (s : State) (c : Chip) : State := { s with chip := c }

/-- `s` after core `k` ran an instruction that left the chip `d`: an overflow flag of its counters that was not set before raises the
core's private source 30 where OVFIE is 1 (R154). -/
def State.ran (s : State) (k : Nat) (d : Chip) : State := s.at (pmcIrq k (s.chip.core k).pmovf d)

/-- The state in which a Courier reaches usable DRAM directly: no translation (R103), no armed comparator, the main side runs, no channel
has failed, and the SECDED word at `pa`, written whole before, holds no error and no poison and is in no dirty line. -/
def DirectDram (k : Nat) (c : Chip) (ea : Word) (n : Nat) (pa : Nat) : Prop :=
  k < 8 ∧ (c.core k).useRT = false ∧ (c.core k).dbg.cmp = [] ∧ c.mainRuns = true ∧ ea.toNat % n = 0
    ∧ pa = (c.core k).useUbase * 0x100000000 + ea.toNat ∧ pa < c.dramTop ∧ pa < 0x800000000
    ∧ c.domainUp (93 + c.dramChannel pa) = true
    ∧ sget noErr c.flips (pa - pa % 8) = ⟨0, 0⟩ ∧ c.poisoned (pa - pa % 8) = false ∧ c.defined (pa - pa % 8) = true
    ∧ c.dirty pa = none ∧ c.memc.failedCh = [] ∧ c.paired = false ∧ (c.core k).dbg.stepping = false ∧ (c.core k).dbg.haltHit = none

end Sys2Proof.Machine
end

