-- ==== Sys2Proof/Certificates/Slice0/Obligations.lean ====
section
/-! DEFINITION. The statements for the provers: what the commands of the VG-64 do, by the rules of its manual. -/

section
open Sys2Proof Sys2Proof.Machine

/-- Log entry 3.  With a command at the front of the queue, a step performs that command with the rest of the queue waiting. -/
def Obligations.StepRunsFrontCommand : Prop :=
  ∀ (i : Instr) (s : State), step { s with pending := i :: s.pending } = exec i s

/-- What command `i` makes of a chip. -/
def effectOn (c : Chip) (i : Instr) : Chip :=
  match exec i ⟨c, []⟩ with
  | .next t => t.chip
  | _ => c

/-- The state after `n` steps, each of which answers a next state. -/
def stepsTo : Nat → State → State → Prop
  | 0, s, t => t = s
  | n + 1, s, t => ∃ u, step s = .next u ∧ stepsTo n u t

/-- Log entry 3.  Waiting commands are performed first in, first out, one in each step and each exactly once: after as many steps as `q` has
commands, the chip is the one to which each command of `q` in turn has had its effect, and the commands behind `q` wait still. -/
def Obligations.QueueRunsInOrder : Prop :=
  ∀ (q r : List Instr) (c : Chip), stepsTo q.length ⟨c, q ++ r⟩ ⟨q.foldl effectOn c, r⟩

/-- The canonical form of memory is an invariant of every step, whatever the command, its operands and the state. -/
def Obligations.StepKeepsMemoryCanonical : Prop :=
  ∀ (s t : State), s.chip.canonical = true → step s = .next t → t.chip.canonical = true

/-- R77.  No pending product ever has more than 12 positions of its shadow left, the shadow of a division: an invariant of every step,
whatever the command, its operands and the state. -/
def Obligations.StepKeepsShadowBound : Prop :=
  ∀ (s t : State), (∀ k p, (s.chip.core k).prod = some p → p.left ≤ 12) → step s = .next t → ∀ k p, (t.chip.core k).prod = some p → p.left ≤ 12

/-- R7, R117, R118, R154, R546, R569.  The machine after reset: no command waits, memory lists nothing and has its canonical form, Courier 0 alone is released, at
the start of the boot ROM, and every core has its start state: supervisor mode, interrupts off, its product not pending, no reservation, translation off.
Reset values that the manual does not state are the model's choice (log entries 5 and 6). -/
def Obligations.ResetState : Prop :=
  State.reset.pending = [] ∧ State.reset.chip.mem = [] ∧ State.reset.chip.canonical = true ∧ State.reset.chip.safe = true
  ∧ State.reset.chip.mainRuns = true ∧ State.reset.chip.reg SYS_RUN_LO = 1 ∧ State.reset.chip.reg SYS_RUN_HI = 0
  ∧ State.reset.chip.f SYS_BOOT_RESULT = 1 ∧ State.reset.chip.fb (WDT_CTL_EN 0) = true ∧ State.reset.chip.f (WDT_REMAIN_US 0) = 2000000
  ∧ State.reset.chip.reg SYS_EXPERT = 0 ∧ State.reset.chip.reg (TMR_TOP 31) = 0xFFFFFFFF ∧ State.reset.chip.dramTop = 0
  ∧ (State.reset.chip.core 0).pc = 0xFFFC0000 ∧ (State.reset.chip.core 62).pc = 0 ∧ (State.reset.chip.core 63).pc = 0x10000000
  ∧ (∀ i : Fin 48, (State.reset.chip.core (8 + i)).pc.toNat = 0x20000000 + i.val * 0x10000)
  ∧ (∀ h : Fin 6, (State.reset.chip.core (56 + h)).pc.toNat = 0x30000000 + h.val * 0x40000)
  ∧ ∀ k : Fin 64, let x := State.reset.chip.core k
      x.status = 1 ∧ x.cause = 0 ∧ x.vbase = 0 ∧ x.ctx = 0 ∧ x.rtbase = 0 ∧ x.prod = none ∧ x.slot = none ∧ x.resv = none ∧ x.useRT = false
      ∧ x.pmctl = 0 ∧ x.dbg.halted = false ∧ x.dbg.cmp = []

/-- R74, R110, R114, R156.  The frame of every instruction of a core: one that completes changes, beside what its own effect names, only the core's pc, slot,
product shadow and event counts, and one that raises an exception only what exception entry names; memory, the other cores, the registers of every block
but DBG_EVT (a halt that ends a step or answers a watch in a slot) and the postmark stay as they are.  A new overflow flag of its counters changes the
core's private source 30 and ICU_STAT alone (R154). -/
def Obligations.CompletionFrame : Prop :=
  ∀ (c : Chip) (k : Fin 64) (cond : BitVec 4) (f : Core → Core) (cause : Nat) (addr : Word),
    let x := c.core k
    let y := if x.takes cond then f x else x
    let others (d : Chip) : Prop := d.mem = c.mem ∧ d.count = c.count ∧ d.power = c.power ∧ (∀ r, r ≠ DBG_EVT → d.reg r = c.reg r)
      ∧ ∀ j, j ≠ k.val → d.core j = c.core j
    (let d := c.complete k cond f
     let z := d.core k
     others d ∧ z.g = y.g ∧ z.q = y.q ∧ z.status = y.status ∧ z.cause = y.cause ∧ z.epc = y.epc ∧ z.estat = y.estat ∧ z.eaddr = y.eaddr ∧ z.etgt = y.etgt
      ∧ z.epl = y.epl ∧ z.eph = y.eph ∧ z.vbase = y.vbase ∧ z.scratch0 = y.scratch0 ∧ z.scratch1 = y.scratch1 ∧ z.ctx = y.ctx ∧ z.rtbase = y.rtbase
      ∧ z.sbase = y.sbase ∧ z.ubase = y.ubase ∧ z.useRT = y.useRT ∧ z.useCtx = y.useCtx ∧ z.useRtbase = y.useRtbase ∧ z.useUbase = y.useUbase
      ∧ z.sbuf = y.sbuf ∧ z.busErrs = y.busErrs ∧ z.pmctl = y.pmctl ∧ z.pred = y.pred
      ∧ z.pc = (match y.slot with | some s => s.cont | none => y.pc + 4) ∧ z.slot = none
      ∧ (y.dbg.stepping = false → y.dbg.haltHit = none → z.pl = y.pl ∧ z.ph = y.ph ∧ z.resv = y.resv ∧ z.waiting = y.waiting ∧ z.dbg = y.dbg
        ∧ z.prod = (match y.prod with | some p => some ⟨p.val, p.left - 1⟩ | none => none)))
    ∧ (let d := c.except k cause addr
       let z := d.core k
       others d ∧ z.g = x.g ∧ z.q = x.q ∧ z.pl = x.ripen.pl ∧ z.ph = x.ripen.ph ∧ z.vbase = x.vbase ∧ z.scratch0 = x.scratch0 ∧ z.scratch1 = x.scratch1
        ∧ z.ctx = x.ctx ∧ z.rtbase = x.rtbase ∧ z.sbase = x.sbase ∧ z.ubase = x.ubase ∧ z.pmcnt = x.pmcnt ∧ z.pmret = x.pmret
        ∧ (∀ n, 2 ≤ n → n < 32 → z.status.bit n = x.status.bit n))
    ∧ (∀ old, let d := pmcIrq k old c
       d.mem = c.mem ∧ d.count = c.count ∧ d.power = c.power ∧ (∀ j, d.core j = c.core j) ∧ (∀ r, r ≠ ICU_STAT → d.reg r = c.reg r)
        ∧ (∀ j, j ≠ srcKey k 30 → d.src j = c.src j) ∧ (x.pmctl.bit 10 = false → d = c))

/-- R69.  The ALU register group: g[rd] receives the result of the table for g[ra] and g[rb]; under a false condition only the
pc goes on. -/
def Obligations.AluRegisterResults : Prop :=
  ∀ (k : Fin 64) (cond : BitVec 4) (rd ra rb : BitVec 5) (s : State) (d : Chip), s.chip.prepared k false = some d →
    let fin (f : Core → Core) : Out := .next (s.ran k (d.complete k cond f))
    let two (f : Word → Word → Word) : Out := fin fun x => x.wr rd.toNat (f (x.rd ra.toNat) (x.rd rb.toNat))
    let one (f : Word → Word) : Out := fin fun x => x.wr rd.toNat (f (x.rd ra.toNat))
    exec (.add k cond rd ra rb) s = two (fun a b => a + b)
    ∧ exec (.sub k cond rd ra rb) s = two (fun a b => a - b)
    ∧ exec (.and k cond rd ra rb) s = two (fun a b => a &&& b)
    ∧ exec (.or k cond rd ra rb) s = two (fun a b => a ||| b)
    ∧ exec (.xor k cond rd ra rb) s = two (fun a b => a ^^^ b)
    ∧ exec (.andn k cond rd ra rb) s = two (fun a b => a &&& ~~~b)
    ∧ exec (.nor k cond rd ra rb) s = two (fun a b => ~~~(a ||| b))
    ∧ exec (.sll k cond rd ra rb) s = two (fun a b => a <<< (b.toNat % 32))
    ∧ exec (.srl k cond rd ra rb) s = two (fun a b => a >>> (b.toNat % 32))
    ∧ exec (.sra k cond rd ra rb) s = two (fun a b => a.sshiftRight (b.toNat % 32))
    ∧ exec (.ror k cond rd ra rb) s = two (fun a b => (a >>> (b.toNat % 32)) ||| (a <<< (32 - b.toNat % 32)))
    ∧ exec (.min k cond rd ra rb) s = two (fun a b => if a.toInt ≤ b.toInt then a else b)
    ∧ exec (.max k cond rd ra rb) s = two (fun a b => if a.toInt ≤ b.toInt then b else a)
    ∧ exec (.minu k cond rd ra rb) s = two (fun a b => if a.toNat ≤ b.toNat then a else b)
    ∧ exec (.maxu k cond rd ra rb) s = two (fun a b => if a.toNat ≤ b.toNat then b else a)
    ∧ exec (.popc k cond rd ra) s = one (fun a => Word.of ((List.range 32).countP fun i => a.bit i))
    ∧ exec (.sexb k cond rd ra) s = one (fun a => (a.truncate 8).signExtend 32)
    ∧ exec (.sexh k cond rd ra) s = one (fun a => (a.truncate 16).signExtend 32)
    ∧ exec (.zexh k cond rd ra) s = one (fun a => a &&& 0xFFFF)
    ∧ exec (.bswap k cond rd ra) s = one (fun a => a.extractLsb' 0 8 ++ a.extractLsb' 8 8 ++ a.extractLsb' 16 8 ++ a.extractLsb' 24 8)
    ∧ exec (.mfq k cond rd) s = fin (fun x => x.wr rd.toNat (Word.of ((List.range 8).foldl (fun n i => n + (predicate x.q i).toNat * 2 ^ i) 0)))
    ∧ (∃ f : Core → BitVec 8, exec (.mtq k cond ra) s = fin (fun x => { x with q := f x }) ∧
        ∀ x n, 1 ≤ n → n < 8 → predicate (f x) n = (x.rd ra.toNat).bit n)
    ∧ (∃ f : Word → Word, exec (.clz k cond rd ra) s = one f ∧
        f 0 = 32 ∧ ∀ a i, (∀ j, i < j → j < 32 → a.bit j = false) → i < 32 → a.bit i = true → f a = Word.of (31 - i))

/-- R70.  The immediate instructions: g[rd] receives the result of the table. -/
def Obligations.AluImmediateResults : Prop :=
  ∀ (k : Fin 64) (cond : BitVec 4) (rd ra : BitVec 5) (imm : BitVec 12) (imm16 : BitVec 16) (n : BitVec 5) (sel : BitVec 8) (s : State)
    (d : Chip), s.chip.prepared k false = some d →
    let fin (f : Core → Core) : Out := .next (s.ran k (d.complete k cond f))
    let one (f : Word → Word) : Out := fin fun x => x.wr rd.toNat (f (x.rd ra.toNat))
    exec (.addi k cond rd ra imm) s = one (fun a => a + imm.signExtend 32)
    ∧ exec (.andi k cond rd ra imm) s = one (fun a => a &&& imm.zeroExtend 32)
    ∧ exec (.ori k cond rd ra imm) s = one (fun a => a ||| imm.zeroExtend 32)
    ∧ exec (.xori k cond rd ra imm) s = one (fun a => a ^^^ imm.zeroExtend 32)
    ∧ exec (.shi k cond rd ra 0 n) s = one (fun a => a <<< n.toNat)
    ∧ exec (.shi k cond rd ra 1 n) s = one (fun a => a >>> n.toNat)
    ∧ exec (.shi k cond rd ra 2 n) s = one (fun a => a.sshiftRight n.toNat)
    ∧ exec (.shi k cond rd ra 3 n) s = one (fun a => (a >>> n.toNat) ||| (a <<< (32 - n.toNat)))
    ∧ exec (.lui k cond rd imm16) s = fin (fun x => x.wr rd.toNat (imm16 ++ (0 : BitVec 16)))
    ∧ exec (.lli k cond rd imm16) s = fin (fun x => x.wr rd.toNat ((x.rd rd.toNat).extractLsb' 16 16 ++ imm16))
    ∧ (∃ f : Word → Word, exec (.permb k cond rd ra sel) s = one f ∧
        ∀ a i, i < 4 → (f a).bits (8 * i + 7) (8 * i) =
          (let l := nbits sel.toNat (2 * i + 1) (2 * i); a.bits (8 * l + 7) (8 * l)))

/-- R71.  The lane group: each lane of g[rd] receives the operation of the table on the lanes of g[ra] and g[rb]; SADUB gives one
word. -/
def Obligations.ByteLaneResults : Prop :=
  ∀ (k : Fin 64) (cond : BitVec 4) (rd ra rb : BitVec 5) (s : State) (d : Chip), s.chip.prepared k false = some d →
    let lane (w : Word) (i : Nat) : Nat := w.bits (8 * i + 7) (8 * i)
    let two (f : Word → Word → Word) : Out :=
      .next (s.ran k (d.complete k cond fun x => x.wr rd.toNat (f (x.rd ra.toNat) (x.rd rb.toNat))))
    let lanewise (i : Instr) (g : Nat → Nat → Nat) : Prop :=
      ∃ f : Word → Word → Word, exec i s = two f ∧ ∀ a b j, j < 4 → lane (f a b) j = g (lane a j) (lane b j)
    lanewise (.addb k cond rd ra rb) (fun a b => (a + b) % 256)
    ∧ lanewise (.subb k cond rd ra rb) (fun a b => (256 + a - b) % 256)
    ∧ lanewise (.addusb k cond rd ra rb) (fun a b => Nat.min 255 (a + b))
    ∧ lanewise (.subusb k cond rd ra rb) (fun a b => a - b)
    ∧ lanewise (.minub k cond rd ra rb) (fun a b => Nat.min a b)
    ∧ lanewise (.maxub k cond rd ra rb) (fun a b => Nat.max a b)
    ∧ lanewise (.avgub k cond rd ra rb) (fun a b => (a + b + 1) / 2)
    ∧ lanewise (.cmpeqb k cond rd ra rb) (fun a b => if a = b then 0xFF else 0)
    ∧ lanewise (.cmpgtub k cond rd ra rb) (fun a b => if a > b then 0xFF else 0)
    ∧ exec (.sadub k cond rd ra rb) s = two (fun a b =>
        Word.of (((List.range 4).map fun i => ((lane a i : Int) - lane b i).natAbs).sum))

/-- R72 to R74.  CMP, CMPI and predicate logic write the predicate q[qd] with the result of the tables; an unassigned form (CMPI
with cc 6 or 7 and a set bit among imm9[8:5], predicate logic with op 3) raises the illegal-instruction exception with
csr_eaddr its word, where its condition holds (R66). -/
def Obligations.CompareResults : Prop :=
  ∀ (k : Fin 64) (cond : BitVec 4) (qd qa qb : BitVec 3) (comb : BitVec 2) (ra rb : BitVec 5) (cc : BitVec 3) (imm : BitVec 9)
    (na nb : Bool) (op : BitVec 2) (s : State) (d : Chip), s.chip.prepared k false = some d →
    let q (x : Core) (n : BitVec 3) : Bool := predicate x.q n.toNat
    let write (f : Core → Bool) : Out :=
      .next (s.ran k (d.complete k cond fun x => { x with q := setPredicate x.q qd.toNat (f x) }))
    let comp (x : Core) (r : Bool) : Bool := [r, q x qd && r, q x qd || r, !r].getD comb.toNat false
    let table (a b : Word) : Bool :=
      [a == b, a != b, decide (a.toInt < b.toInt), decide (b.toInt ≤ a.toInt), decide (a.toNat < b.toNat),
        decide (b.toNat ≤ a.toNat), a &&& b != 0, a &&& b == 0].getD cc.toNat false
    exec (.cmp k cond qd comb ra rb cc) s = write (fun x => comp x (table (x.rd ra.toNat) (x.rd rb.toNat)))
    ∧ (cc.toNat < 4 → exec (.cmpi k cond qd comb ra cc imm) s =
        write (fun x => comp x (table (x.rd ra.toNat) (imm.signExtend 32))))
    ∧ (cc = 4 ∨ cc = 5 → exec (.cmpi k cond qd comb ra cc imm) s =
        write (fun x => comp x (table (x.rd ra.toNat) (imm.zeroExtend 32))))
    ∧ (6 ≤ cc.toNat → imm.toNat < 32 → exec (.cmpi k cond qd comb ra cc imm) s =
        write (fun x => comp x ((x.rd ra.toNat).bit imm.toNat == (cc == 6))))
    ∧ (6 ≤ cc.toNat → 32 ≤ imm.toNat → (d.core k).takes cond = true → exec (.cmpi k cond qd comb ra cc imm) s =
        .next (s.ran k (d.except k 0x01 (cond ++ (0x05 : BitVec 6) ++ qd ++ comb ++ ra ++ cc ++ imm))))
    ∧ (op ≠ 3 → exec (.predicateLogic k cond qd qa qb na nb op) s =
        write (fun x => (let a := q x qa != na; let b := q x qb != nb; [a && b, a || b, a != b].getD op.toNat false)))
    ∧ ((d.core k).takes cond = true → exec (.predicateLogic k cond qd qa qb na nb 3) s =
        .next (s.ran k (d.except k 0x01
          (cond ++ (0x03 : BitVec 6) ++ qd ++ qa ++ qb ++ BitVec.ofBool na ++ BitVec.ofBool nb ++ (3 : BitVec 11)))))

/-- R62.  g0 and q0 are hard-wired: g0 reads 0 and q0 reads 1, a write of either is discarded, and a write of another register
changes that one alone. -/
def Obligations.HardwiredRegisters : Prop :=
  ∀ (x : Core) (q : BitVec 8) (n m : Nat) (v : Word) (b : Bool),
    x.rd 0 = 0 ∧ x.wr 0 v = x ∧ predicate q 0 = true ∧ setPredicate q 0 b = q
    ∧ (n ≠ 0 → (x.wr n v).rd n = v) ∧ (m ≠ n → (x.wr n v).rd m = x.rd m)
    ∧ (1 ≤ n → n < 8 → predicate (setPredicate q n b) n = b) ∧ (n < 8 → m < 8 → m ≠ n → predicate (setPredicate q n b) m = predicate q m)

/-- R75 to R79. A product instruction whose condition holds first makes a pending result visible, and its own result is then pending: visible in {ph,
pl} to the third instruction after it, or to the thirteenth after a division (R77); the division's quotient and remainder are those of R76 with its
corners. R77 to R79. The shadow: each position passed counts one, executed, predicated off or annulled alike; a pending product is held in neither
pl nor ph until its positions are passed, and PRODUCT_VISIBLE then moves it there. -/
def Obligations.ProductOperations : Prop :=
  (
    ∀ (k : Fin 64) (cond : BitVec 4) (rd ra rb : BitVec 5) (s : State) (d : Chip), s.chip.prepared k false = some d →
      let fin (f : Core → Core) : Out := .next (s.ran k (d.complete k cond f))
      let pend (shadow : Nat) (f : DWord → Word → Word → DWord) : Out := fin fun x =>
        { x.showProduct with prod := some ⟨f (x.showProduct.ph ++ x.showProduct.pl) (x.rd ra.toNat) (x.rd rb.toNat), shadow + 1⟩ }
      exec (.mul k cond ra rb) s = pend 2 (fun _ a b => BitVec.ofInt 64 (a.toInt * b.toInt))
      ∧ exec (.mulu k cond ra rb) s = pend 2 (fun _ a b => BitVec.ofNat 64 (a.toNat * b.toNat))
      ∧ exec (.mac k cond ra rb) s = pend 2 (fun p a b => p + BitVec.ofInt 64 (a.toInt * b.toInt))
      ∧ exec (.macu k cond ra rb) s = pend 2 (fun p a b => p + BitVec.ofNat 64 (a.toNat * b.toNat))
      ∧ exec (.msu k cond ra rb) s = pend 2 (fun p a b => p - BitVec.ofInt 64 (a.toInt * b.toInt))
      ∧ exec (.div k cond ra rb) s = pend 12 (fun _ a b =>
          if b = 0 then a ++ (0xFFFFFFFF : Word)
          else BitVec.ofInt 32 (a.toInt.tmod b.toInt) ++ BitVec.ofInt 32 (a.toInt.tdiv b.toInt))
      ∧ exec (.divu k cond ra rb) s = pend 12 (fun _ a b =>
          if b = 0 then a ++ (0xFFFFFFFF : Word)
          else BitVec.ofNat 32 (a.toNat % b.toNat) ++ BitVec.ofNat 32 (a.toNat / b.toNat))
      ∧ exec (.mfpl k cond rd) s = fin (fun x => x.wr rd.toNat x.pl)
      ∧ exec (.mfph k cond rd) s = fin (fun x => x.wr rd.toNat x.ph)
      ∧ exec (.mtpl k cond ra) s = fin (fun x => { x.showProduct with pl := x.rd ra.toNat })
      ∧ exec (.mtph k cond ra) s = fin (fun x => { x.showProduct with ph := x.rd ra.toNat }))
  ∧
  (
    (∀ (k : Nat) (x : Core) (p : Product), x.prod = some p → 0 < p.left →
      (x.advance k).prod = some ⟨p.val, p.left - 1⟩ ∧ (x.advance k).pl = x.pl ∧ (x.advance k).ph = x.ph ∧ x.ripen = x)
    ∧ (∀ (k : Fin 64) (s : State) (v : DWord), (s.chip.core k).prod = some ⟨v, 0⟩ →
      ∃ t, exec (.productVisible k) s = .next t ∧ (t.chip.core k).ph ++ (t.chip.core k).pl = v ∧ (t.chip.core k).prod = none
        ∧ t = { s with chip := s.chip.modCore k fun x => { x with ph := (t.chip.core k).ph, pl := (t.chip.core k).pl, prod := none } }))

/-- R65, R67.  An instruction whose condition is false, or whose word lies in the hint space, has no effect and raises no
exception, whatever its operands: execution goes on after it. -/
def Obligations.FalseConditionHasNoEffect : Prop :=
  ∀ (k : Fin 64) (cond i4 : BitVec 4) (r1 r2 r3 : BitVec 5) (i7 : BitVec 7) (i8 : BitVec 8) (i9 : BitVec 9) (i10 : BitVec 10) (i12 : BitVec 12)
    (i13 : BitVec 13) (i16 : BitVec 16) (p1 p2 p3 : BitVec 3) (m1 : BitVec 2) (b1 b2 : Bool) (low : BitVec 28) (word : Word)
    (s : State) (d : Chip), s.chip.prepared k false = some d → (d.core k).takes cond = false →
    (∀ i ∈ ([
        .add k cond r1 r2 r3, .sub k cond r1 r2 r3, .and k cond r1 r2 r3, .or k cond r1 r2 r3, .xor k cond r1 r2 r3,
        .andn k cond r1 r2 r3, .nor k cond r1 r2 r3, .sll k cond r1 r2 r3, .srl k cond r1 r2 r3, .sra k cond r1 r2 r3,
        .ror k cond r1 r2 r3, .min k cond r1 r2 r3, .max k cond r1 r2 r3, .minu k cond r1 r2 r3, .maxu k cond r1 r2 r3,
        .clz k cond r1 r2, .popc k cond r1 r2, .sexb k cond r1 r2, .sexh k cond r1 r2, .zexh k cond r1 r2, .bswap k cond r1 r2,
        .mfq k cond r1, .mtq k cond r1, .addi k cond r1 r2 i12, .andi k cond r1 r2 i12, .ori k cond r1 r2 i12,
        .xori k cond r1 r2 i12, .shi k cond r1 r2 m1 r3, .lui k cond r1 i16, .lli k cond r1 i16, .permb k cond r1 r2 i8,
        .addb k cond r1 r2 r3, .subb k cond r1 r2 r3, .addusb k cond r1 r2 r3, .subusb k cond r1 r2 r3, .minub k cond r1 r2 r3,
        .maxub k cond r1 r2 r3, .avgub k cond r1 r2 r3, .cmpeqb k cond r1 r2 r3, .cmpgtub k cond r1 r2 r3,
        .sadub k cond r1 r2 r3, .cmp k cond p1 m1 r1 r2 p2, .cmpi k cond p1 m1 r1 p2 i9,
        .predicateLogic k cond p1 p2 p3 b1 b2 m1, .mul k cond r1 r2, .mulu k cond r1 r2, .mac k cond r1 r2, .macu k cond r1 r2,
        .msu k cond r1 r2, .div k cond r1 r2, .divu k cond r1 r2, .mfpl k cond r1, .mfph k cond r1, .mtpl k cond r1,
        .mtph k cond r1, .lb k cond r1 r2 i12, .lbu k cond r1 r2 i12, .lh k cond r1 r2 i12, .lhu k cond r1 r2 i12,
        .lw k cond r1 r2 i12, .sb k cond r1 r2 i12, .sh k cond r1 r2 i12, .sw k cond r1 r2 i12, .ll k cond r1 r2 i12,
        .sc k cond r1 r2 p1 i9, .ldsw k cond r1 i16, .ldshu k cond r1 i16, .stsw k cond r1 i16, .stsh k cond r1 i16,
        .fenceS k cond, .fenceF k cond, .fenceIo k cond, .isync k cond, .csrr k cond r1 i10, .csrw k cond r1 i10,
        .csrs k cond r1 i10, .csrc k cond r1 i10, .wait k cond, .regsync k cond r1, .cline k cond r1 m1, .rdpm k cond r1 r2,
        .syscall k cond i13, .lnext k cond r1 r2, .lstat k cond r1, .ldead k cond r1, .mtx k cond i4 r1, .mfx k cond r1 i4,
        .lset k cond r1 r2, .lget k cond r1 r2, .lgetr k cond r1 i7, .lput k cond m1, .lclose k cond, .ldraw k cond,
        .lend k cond, .vadd k cond r1 r2 r3, .vsub k cond r1 r2 r3, .vmul k cond r1 r2 r3, .vmac k cond r1 r2 r3,
        .vminmax k cond r1 r2 r3 b1, .vunary k cond r1 r2 m1, .vdiv k cond r1 r2 r3, .vcvtf k cond r1 r2 m1,
        .vcvti k cond r1 r2 m1, .viadd k cond r1 r2 r3 b1, .vlogic k cond r1 r2 r3 m1, .vshi k cond r1 r2 r3 m1,
        .vcmp k cond r1 r2 r3 m1, .vsel k cond r1 r2 r3, .vbcast k cond r1 r2, .vins k cond r1 r2 p1, .vext k cond r1 r2 p1,
        .vtrn k cond r1 r2, .vld k cond r1 r2, .vst k cond r1 r2, .vgath k cond r1 r2 r3, .vsin k cond r1 r2,
        .vbiq k cond r1 r2 r3, .vgen k cond r1 r2, .dyn k cond r1 r2 r3, .snext k cond r1 r2, .sstat k cond r1 b1,
        .sout k cond r1 r2, .sin k cond r1 r2, .sbar k cond, .send k cond] : List Instr),
      exec i s = .next (s.ran k (d.complete k cond id)))
    ∧ ((d.core k).slot = none → exec (.eret k cond) s = .next (s.ran k (d.complete k cond id)))
    ∧ exec (.nop k low) s = .next (s.ran k (d.complete k 8 id))
    ∧ exec (.prefetch k r1 i12) s = .next (s.ran k (d.complete k 8 id))
    ∧ (word.bits 31 28 = 8 ∨ (word.bits 31 28 = cond.toNat ∧ ¬ (0x20 ≤ word.bits 27 22 ∧ word.bits 27 22 < 0x24)) →
        exec (.illegalInstruction k word) s = .next (s.ran k (d.complete k cond id)))

/-- R85 to R87.  A branch outside a slot is taken when its condition is true: its slot comes next, execution then continues at
the target if it was taken and at the branch's address plus 8 if not, the slot is annulled exactly when the annul bit is set and
the branch is not taken, and a link is written only when it is taken, after the target was read. -/
def Obligations.BranchResults : Prop :=
  ∀ (k : Fin 64) (cond : BitVec 4) (annul : Bool) (disp : BitVec 21) (ra rd : BitVec 5) (s : State) (d : Chip),
    s.chip.prepared k true = some d → (d.core k).slot = none → cond ≠ 8 →
    let x := d.core k
    let taken := condTrue x.q cond
    let leaves (i : Instr) (target : Word) (link : Option (BitVec 5)) : Prop :=
      ∃ e, exec i s = .next (s.ran k e) ∧ e.mem = d.mem ∧ e.regs = d.regs
        ∧ (e.core k).pc = x.pc + 4
        ∧ (e.core k).slot = some ⟨if taken then target else x.pc + 8, annul && !taken⟩
        ∧ (∀ n, (e.core k).rd n =
            if taken ∧ link.map BitVec.toNat = some n ∧ n ≠ 0 then x.pc + 8 else x.rd n)
        ∧ (e.core k).q = x.q ∧ (e.core k).status = x.status ∧ (e.core k).resv = x.resv
        ∧ ∀ j, j ≠ k.val → e.core j = d.core j
    leaves (.b k cond annul disp) (x.pc + disp.signExtend 32 * 4) none
    ∧ leaves (.bl k cond annul disp) (x.pc + disp.signExtend 32 * 4) (some 31)
    ∧ leaves (.jr k cond annul ra) (x.rd ra.toNat) none
    ∧ leaves (.jlr k cond annul ra rd) (x.rd ra.toNat) (some rd)

/-- R86. The instruction in a slot completes to the slot's continuation, and an annulled slot passes to it without being decoded (R88): whatever its
word, nothing else happens. R88. A slot that holds a branch encoding or ERET raises a slot fault, whatever its own condition, unless its cond is
0x8. -/
def Obligations.BranchSlots : Prop :=
  (
    ∀ (k : Fin 64) (cond : BitVec 4) (annul : Bool) (disp : BitVec 21) (rd ra rb : BitVec 5) (off : BitVec 12) (word : Word) (s : State) (sl : Slot),
      (s.chip.core k).slot = some sl →
      (∀ x : Core, x.slot = some sl → (x.advance k).pc = sl.cont ∧ (x.advance k).slot = none)
      ∧ (s.chip.canRun k = true → sl.annulled = true →
          ∀ i ∈ ([.add k cond rd ra rb, .lw k cond rd ra off, .sw k cond rd ra off, .b k cond annul disp, .jr k cond annul ra, .eret k cond,
              .illegalInstruction k word] : List Instr),
            exec i s = .next (s.ran k (endStep k (s.chip.modCore k (Core.advance k))))))
  ∧
  (
    ∀ (k : Fin 64) (cond : BitVec 4) (annul : Bool) (disp : BitVec 21) (ra rd : BitVec 5) (s : State) (d : Chip) (sl : Slot),
      (d.core k).slot = some sl → cond ≠ 8 →
      (s.chip.prepared k true = some d →
        exec (.b k cond annul disp) s = .next (s.ran k (d.except k 0x02 (cond ++ (0x20 : BitVec 6) ++ BitVec.ofBool annul ++ disp)))
        ∧ exec (.bl k cond annul disp) s = .next (s.ran k (d.except k 0x02 (cond ++ (0x21 : BitVec 6) ++ BitVec.ofBool annul ++ disp)))
        ∧ exec (.jr k cond annul ra) s =
            .next (s.ran k (d.except k 0x02 (cond ++ (0x22 : BitVec 6) ++ BitVec.ofBool annul ++ (0 : BitVec 4) ++ ra ++ (0 : BitVec 12))))
        ∧ exec (.jlr k cond annul ra rd) s =
            .next (s.ran k (d.except k 0x02 (cond ++ (0x23 : BitVec 6) ++ BitVec.ofBool annul ++ (0 : BitVec 4) ++ ra ++ rd ++ (0 : BitVec 7)))))
      ∧ (s.chip.prepared k false = some d →
        exec (.eret k cond) s = .next (s.ran k (d.except k 0x02 (cond ++ (0x3C : BitVec 6) ++ (4 : BitVec 4) ++ (0 : BitVec 18))))))

/-- R127, R128, R134, R135, R138 to R141.  The events of a Courier's predictor: a mispredicted branch leaves history, return stack and
counters as its checkpoint held them, whatever it loaded on the wrong path; a flush marks the load whose wait-table bit is set as it
retires; a replay is counted; and once 2^20 loads have retired the wait table is cleared.  None of them touches a register or another core. -/
def Obligations.PredictorEvents : Prop :=
  ∀ (k : Fin 8) (wrong : List (Nat × Bool)) (ret : Bool) (groups : Nat) (loads : List (Fin 0x10000000000)) (pc : Word) (s : State),
    let x := s.chip.core k
    let same (y : Core) : Prop := y.g = x.g ∧ y.pc = x.pc ∧ y.q = x.q ∧ y.status = x.status ∧ y.slot = x.slot ∧ y.prod = x.prod
    let apart (e : Chip) : Prop := e = s.chip.setCore k (e.core k) ∧ same (e.core k)
    let restored (p : Predictor) : Prop := p.hist = x.pred.hist ∧ p.ras = x.pred.ras ∧ p.chk = x.pred.chk ∧ p.log = x.pred.log
      ∧ p.wait = x.pred.wait ∧ ∀ i, sget (fun _ => 0) p.dir i = sget (fun _ => 0) x.pred.dir i
    (∃ e, exec (.branchMispredict k wrong ret ⟨groups, []⟩) s = .next (s.ran k e) ∧ apart e ∧ restored (e.core k).pred)
    ∧ (∃ e, exec (.branchMispredict k wrong ret ⟨groups, loads⟩) s = .next (s.ran k e) ∧ same (e.core k) ∧ restored (e.core k).pred
      ∧ ∀ j, j ≠ k.val → e.core j = s.chip.core j)
    ∧ (∃ e, exec (.memorderFlush k pc) s = .next (s.ran k e) ∧ apart e ∧ (e.core k).pred.flushed = some pc ∧ (e.core k).pred.wait = x.pred.wait)
    ∧ (∀ y : Core, y.pred.flushed = some y.pc → (y.loadRetires k).pred.flushed = none ∧ (y.loadRetires k).pred.loads = y.pred.loads + 1
      ∧ ∀ i, sget (fun _ => false) (y.loadRetires k).pred.wait i = (i == y.pc.bits 11 2 || sget (fun _ => false) y.pred.wait i))
    ∧ (∃ e, exec (.overlapReplay k) s = .next (s.ran k e) ∧ apart e ∧ (e.core k).pred = x.pred
      ∧ (x.countsNot = false → x.pmctl.bit 0 = true → (sget zeroWord x.pmsel 0).bits 7 0 = 0x0B →
          sget (fun _ => (0 : DWord)) (e.core k).pmcnt 0 = sget (fun _ => 0) x.pmcnt 0 + 1))
    ∧ (2 ^ 20 ≤ x.pred.loads → ∃ e, exec (.waitTableClear k) s = .next (s.at e) ∧ apart e
      ∧ (e.core k).pred.loads = x.pred.loads - 2 ^ 20 ∧ ∀ i, sget (fun _ => false) (e.core k).pred.wait i = false)
    ∧ (x.pred.loads < 2 ^ 20 → ∃ e, exec (.waitTableClear k) s = .next (s.at e) ∧ apart e ∧ (e.core k).pred = x.pred)

/-- R81, R99, R102, R110.  The loads: ea = g[ra] + sext(off12), the checks of the access, the watches, then the value read, extended
as the table says into g[rd]; where a check fails, or the read meets a bus error or poison, the exception it gives is taken and
g[rd] keeps its value.  A device access stays where it is while the write before it that started a training is not acknowledged (R648). -/
def Obligations.LoadResults : Prop :=
  ∀ (k : Fin 64) (cond : BitVec 4) (rd ra : BitVec 5) (off : BitVec 12) (s : State) (d : Chip),
    s.chip.prepared k false = some d → (d.core k).takes cond = true →
    let ea := (d.core k).rd ra.toNat + off.signExtend 32
    let loads (i : Instr) (n : Nat) (ext : Nat → Word) : Prop :=
      (∀ ps e f v g, checkAccess k .load ea n false d = (.ok ps, e) → e.accessWaits k false ps = false →
        fireWatch k .load ea n e = (.no, f) → finishLoad k ea ps f = (.value v, g) →
        exec i s = .next (s.ran k (endStep k (g.modCore k fun x => ((x.wr rd.toNat (ext v)).loadRetires k).advance k))))
      ∧ (∀ ps e, checkAccess k .load ea n false d = (.ok ps, e) → e.accessWaits k false ps = true → exec i s = .next (s.ran k e))
      ∧ (∀ cause a e, checkAccess k .load ea n false d = (.error (cause, a), e) → exec i s = .next (s.ran k (e.except k cause a)))
      ∧ (∀ ps e f cause a g, checkAccess k .load ea n false d = (.ok ps, e) → e.accessWaits k false ps = false →
        fireWatch k .load ea n e = (.no, f) → finishLoad k ea ps f = (.trap cause a, g) → exec i s = .next (s.ran k (g.except k cause a)))
    loads (.lb k cond rd ra off) 1 (fun v => (BitVec.ofNat 8 v).signExtend 32)
    ∧ loads (.lbu k cond rd ra off) 1 (fun v => BitVec.ofNat 32 v)
    ∧ loads (.lh k cond rd ra off) 2 (fun v => (BitVec.ofNat 16 v).signExtend 32)
    ∧ loads (.lhu k cond rd ra off) 2 (fun v => BitVec.ofNat 32 v)
    ∧ loads (.lw k cond rd ra off) 4 (fun v => BitVec.ofNat 32 v)

/-- R81, R99, R110, R112.  The stores: ea = g[ra] + sext(off12), the checks of the access, the watches, then the low bytes of
g[rd] stored at the places the checks gave; where a check fails the exception is taken and nothing is stored.  A store to a replication
window stays where it is while the capture buffer is full (R475). -/
def Obligations.StoreResults : Prop :=
  ∀ (k : Fin 64) (cond : BitVec 4) (rd ra : BitVec 5) (off : BitVec 12) (s : State) (d : Chip),
    s.chip.prepared k false = some d → (d.core k).takes cond = true →
    let ea := (d.core k).rd ra.toNat + off.signExtend 32
    let v := (d.core k).rd rd.toNat
    let stores (i : Instr) (n : Nat) : Prop :=
      (∀ ps e f g, checkAccess k .store ea n false d = (.ok ps, e) → e.accessWaits k true ps = false →
        fireWatch k .store ea n e = (.no, f) → finishStore k ea ps ((List.range n).map fun j => v.extractLsb' (8 * j) 8) f = (false, g) →
        exec i s = .next (s.ran k (endStep k (g.modCore k (Core.advance k)))))
      ∧ (∀ ps e, checkAccess k .store ea n false d = (.ok ps, e) → e.accessWaits k true ps = true → exec i s = .next (s.ran k e))
      ∧ (∀ cause a e, checkAccess k .store ea n false d = (.error (cause, a), e) → exec i s = .next (s.ran k (e.except k cause a)))
    stores (.sb k cond rd ra off) 1 ∧ stores (.sh k cond rd ra off) 2 ∧ stores (.sw k cond rd ra off) 4

/-- R81, R103, R61. A Courier's naturally aligned load from DRAM outside translation reads the little-endian bytes at (csr_ubase << 32) + ea, and leaves
memory and every other register as they were. R81, R95, R103. A Courier's naturally aligned store to DRAM outside translation writes the low bytes
of g[rd] at (csr_ubase << 32) + ea; every byte of memory outside them, every general register and every other core's registers stay, and the
reservations on the granule, and no others, are gone. -/
def Obligations.DramAccesses : Prop :=
  (
    ∀ (k : Fin 64) (cond : BitVec 4) (rd ra : BitVec 5) (off : BitVec 12) (s : State) (d : Chip) (n pa : Nat),
      s.chip.prepared k false = some d → (d.core k).takes cond = true →
      DirectDram k d ((d.core k).rd ra.toNat + off.signExtend 32) n pa →
      let reads (i : Instr) (w : Word) : Prop :=
        ∃ e, exec i s = .next (s.ran k e) ∧ (∀ j, (e.core k).rd j = if j = rd.toNat ∧ j ≠ 0 then w else (d.core k).rd j)
          ∧ e.mem = d.mem ∧ e.regs = d.regs ∧ (e.core k).q = (d.core k).q ∧ (e.core k).status = (d.core k).status
          ∧ ∀ j, j ≠ k.val → e.core j = d.core j
      (n = 1 → reads (.lb k cond rd ra off) ((d.byte pa).signExtend 32) ∧ reads (.lbu k cond rd ra off) ((d.byte pa).zeroExtend 32))
      ∧ (n = 2 → reads (.lh k cond rd ra off) ((d.byte (pa + 1) ++ d.byte pa).signExtend 32)
        ∧ reads (.lhu k cond rd ra off) ((d.byte (pa + 1) ++ d.byte pa).zeroExtend 32))
      ∧ (n = 4 → reads (.lw k cond rd ra off) (d.byte (pa + 3) ++ d.byte (pa + 2) ++ d.byte (pa + 1) ++ d.byte pa)))
  ∧
  (
    ∀ (k : Fin 64) (cond : BitVec 4) (rd ra : BitVec 5) (off : BitVec 12) (s : State) (d : Chip) (n pa : Nat) (i : Instr),
      s.chip.prepared k false = some d → (d.core k).takes cond = true →
      DirectDram k d ((d.core k).rd ra.toNat + off.signExtend 32) n pa →
      (i = .sb k cond rd ra off ∧ n = 1 ∨ i = .sh k cond rd ra off ∧ n = 2 ∨ i = .sw k cond rd ra off ∧ n = 4) →
      ∃ e, exec i s = .next (s.ran k e)
        ∧ (∀ a, e.byte a = if pa ≤ a ∧ a < pa + n then ((d.core k).rd rd.toNat).extractLsb' (8 * (a - pa)) 8 else d.byte a)
        ∧ (∀ j n, (e.core j).rd n = (d.core j).rd n) ∧ (∀ j, (e.core j).q = (d.core j).q)
        ∧ (∀ j, (e.core j).status = (d.core j).status)
        ∧ ∀ j, (e.core j).resv = match (d.core j).resv with
          | some r => if r.pa = pa - pa % 64 then none else some r
          | none => none)

/-- R95, R96. LL reads as LW and sets the reservation on the granule of ea; it and SC raise the access-form exception where ea is not word-aligned. R81,
R95, R96. SC stores only under a valid reservation on the granule of ea, and says in q[qd] whether it did; in both cases the reservation is cleared. -/
def Obligations.ReservationPair : Prop :=
  (
    ∀ (k : Fin 64) (cond : BitVec 4) (rd ra : BitVec 5) (off : BitVec 12) (s : State) (d : Chip),
      s.chip.prepared k false = some d → (d.core k).takes cond = true →
      let ea := (d.core k).rd ra.toNat + off.signExtend 32
      (∀ p e f v g, checkAccess k .load ea 4 true d = (.ok [p], e) → e.accessWaits k false [p] = false →
        fireWatch k .load ea 4 e = (.no, f) → finishLoad k ea [p] f = (.value v, g) →
        exec (.ll k cond rd ra off) s = .next (s.ran k (endStep k (g.modCore k fun x =>
          ({ (x.wr rd.toNat (BitVec.ofNat 32 v)).loadRetires k with resv := some ⟨ea &&& ~~~63, p.1.pa - p.1.pa % 64⟩ } : Core).advance k))))
      ∧ (ea.toNat % 4 ≠ 0 → exec (.ll k cond rd ra off) s = .next (s.ran k (d.except k 0x09 ea))))
  ∧
  (
    ∀ (k : Fin 64) (cond : BitVec 4) (rd ra : BitVec 5) (qd : BitVec 3) (off : BitVec 9) (s : State) (d : Chip),
      s.chip.prepared k false = some d → (d.core k).takes cond = true →
      let x := d.core k
      let ea := x.rd ra.toNat + off.signExtend 32
      let held := ∃ r, x.resv = some r ∧ r.va = ea &&& ~~~63
      (¬ held → ∀ ps e, checkAccess k .store ea 4 true d = (.ok ps, e) →
        exec (.sc k cond rd ra qd off) s = .next (s.ran k (endStep k (e.modCore k fun x =>
          ({ x with q := setPredicate x.q qd.toNat false, resv := none } : Core).advance k))))
      ∧ (held → ∀ ps e f g, checkAccess k .store ea 4 true (if k.val < 8 then d else drainAll k d) = (.ok ps, e) →
        e.accessWaits k true ps = false → fireWatch k .store ea 4 e = (.no, f) → finishStore k ea ps (leBytes 4 (x.rd rd.toNat).toNat) f = (false, g) →
        exec (.sc k cond rd ra qd off) s = .next (s.ran k (endStep k (g.modCore k fun x =>
          ({ x with q := setPredicate x.q qd.toNat true, resv := none } : Core).advance k))))
      ∧ (ea.toNat % 4 ≠ 0 → ¬ held → exec (.sc k cond rd ra qd off) s = .next (s.ran k (d.except k 0x09 ea))))

/-- R82 to R84.  The short window: on a Courier the 64 KiB from csr_sbase, reached as by LW, LHU, SW and SH; on an in-order core
the first 64 KiB of its own local RAM, without translation, in either mode. -/
def Obligations.ShortWindow : Prop :=
  ∀ (k : Fin 64) (cond : BitVec 4) (rd : BitVec 5) (a : BitVec 16) (s : State) (d : Chip),
    s.chip.prepared k false = some d → (d.core k).takes cond = true →
    let va : Word := a.zeroExtend 32
    let ea := (d.core k).sbase + va
    let own (n : Nat) : List (Phys × Nat) := (pieces va n).map fun p => (⟨(ownRam k).1 + p.1.toNat, false, false⟩, p.2)
    let loads (i : Instr) (n : Nat) : Prop :=
      (8 ≤ k.val → ∀ f v g, fireWatch k .load va n d = (.no, f) → finishLoad k va (own n) f = (.value v, g) →
        exec i s = .next (s.ran k (endStep k (g.modCore k fun x => (x.wr rd.toNat (BitVec.ofNat 32 v)).advance k))))
      ∧ (k.val < 8 → ∀ ps e f v g, checkAccess k .load ea n false d = (.ok ps, e) → e.accessWaits k false ps = false →
        fireWatch k .load ea n e = (.no, f) → finishLoad k ea ps f = (.value v, g) →
        ∃ y, exec i s = .next (s.ran k y)
          ∧ ∀ j, (y.core k).rd j = if j = rd.toNat ∧ j ≠ 0 then BitVec.ofNat 32 v else (g.core k).rd j)
    let stores (i : Instr) (n : Nat) : Prop :=
      let bs := leBytes n ((d.core k).rd rd.toNat).toNat
      (8 ≤ k.val → d.accessWaits k true (own n) = false → ∀ f g, fireWatch k .store va n d = (.no, f) → finishStore k va (own n) bs f = (false, g) →
        exec i s = .next (s.ran k (endStep k (g.modCore k (Core.advance k)))))
      ∧ (k.val < 8 → ∀ ps e f g, checkAccess k .store ea n false d = (.ok ps, e) → e.accessWaits k true ps = false →
        fireWatch k .store ea n e = (.no, f) → finishStore k ea ps bs f = (false, g) → exec i s = .next (s.ran k (endStep k (g.modCore k (Core.advance k)))))
    loads (.ldsw k cond rd a) 4 ∧ loads (.ldshu k cond rd a) 2 ∧ stores (.stsw k cond rd a) 4 ∧ stores (.stsh k cond rd a) 2

/-- R94, R148, R149. The fences: FENCE.S and FENCE.F leave no store of the core in its buffer and none unacknowledged; FENCE.IO leaves no access
unacknowledged; each waits while the write that started a training is not acknowledged (R648). Store bus errors that have arrived are then reported
before the next instruction (InterruptEntry). ISYNC puts the current translation settings in force (R108). R112, R144 to R148, R648. The events of
the memory pipeline. -/
def Obligations.FencesAndPipeline : Prop :=
  (
    ∀ (k : Fin 64) (cond : BitVec 4) (s : State) (d : Chip),
      s.chip.prepared k false = some d → (d.core k).takes cond = true →
      let fin (c : Chip) : Out := .next (s.ran k (endStep k (c.modCore k (Core.advance k))))
      (∀ i ∈ ([.fenceS k cond, .fenceF k cond] : List Instr),
        (k.val < 8 → exec i s = fin d)
        ∧ (8 ≤ k.val → d.enableWaits k = false → exec i s = fin (ackAll k (drainAll k d)))
        ∧ (8 ≤ k.val → d.enableWaits k = true → exec i s = .next (s.ran k d)))
      ∧ (d.enableWaits k = false → exec (.fenceIo k cond) s = fin (ackAll k (drainAll k d)))
      ∧ (d.enableWaits k = true → exec (.fenceIo k cond) s = .next (s.ran k d))
      ∧ (∀ k' c, (c.core k').sbuf.length ≤ 2 → ((drainAll k' c).core k').sbuf = [])
      ∧ (∀ k' c, let x := c.core k'
          (ackAll k' c).core k' = { x with posted := [], busErrs := x.busErrs ++ x.posted.flatMap Posted.errs })
      ∧ exec (.isync k cond) s = .next (s.ran k (endStep k (d.modCore k fun x =>
          ({ x with useRT := x.status.bit 2, useCtx := x.ctx.bits 7 0, useRtbase := x.rtbase.bits 23 0, useUbase := x.ubase.bits 7 0 }
            : Core).advance k))))
  ∧
  (
    ∀ (k : Fin 64) (cycles : Nat) (line : Word) (useless : Bool) (s : State),
      let c := s.chip
      let x := c.core k
      let l := line &&& ~~~31
      (x.loadHeld = true → ∃ e, exec (.loadDataReturn k cycles) s = .next (s.ran k e) ∧ (e.core k).loadHeld = false
        ∧ (e.core k).g = x.g ∧ (e.core k).pc = x.pc ∧ (e.core k).q = x.q ∧ e = c.setCore k (e.core k))
      ∧ (x.loadHeld = false → exec (.loadDataReturn k cycles) s = .next s)
      ∧ (∀ e t, x.posted = e :: t → e.enable = false ∨ c.enableWaits k = false →
          exec (.storeAck k) s = .next (s.at (c.modCore k fun x => { x with busErrs := x.busErrs ++ e.errs, posted := t })))
      ∧ (∀ e t, x.posted = e :: t → e.enable = true → c.enableWaits k = true → exec (.storeAck k) s = .next s)
      ∧ (∀ e t, x.sbuf = e :: t → e.mask = 15 → inOwnRam k e.pa = true → e.pa % 4 = 0 → c.reachable k e.pa (c.region k e.pa) = true →
          ∃ u, exec (.storeBufferDrain k) s = .next u ∧ u.pending = s.pending ∧ (u.chip.core k).sbuf = t ∧ (u.chip.core k).resv = x.resv
            ∧ ∀ a, u.chip.byte a = if e.pa ≤ a ∧ a < e.pa + 4 then e.data.extractLsb' (8 * (a - e.pa)) 8 else c.byte a)
      ∧ (∀ p e, 8 ≤ k.val → c.canRun k = true → l ∈ x.fetchLines → translate k .fetch l c = (some p, e) → inOwnCode k p.pa = true →
          ∃ u, exec (.fetchLineRead k line 0 useless) s = .next u ∧ u.pending = s.pending ∧ (u.chip.core k).line = some l
            ∧ (u.chip.core k).g = (e.core k).g ∧ (u.chip.core k).pc = (e.core k).pc ∧ u.chip.mem = e.mem)
      ∧ (k.val < 8 ∨ c.canRun k = false ∨ l ∉ x.fetchLines → exec (.fetchLineRead k line 0 useless) s = .next s))

/-- R96, R103 to R107, R110.  Translation: off, va reaches (csr_ubase << 32) + va; on, with the table's words held (R108), the
lowest-numbered valid matching entry gives the address and its permissions, and with none the access is refused.  An aligned word access
passes its checks where the entry permits it and raises a region exception where it does not; LL and SC of a device region raise the
access-form exception, which ranks above it, whatever the entry permits. -/
def Obligations.TranslationByLowestEntry : Prop :=
  ∀ (k : Nat) (u : Use) (va : Word) (c : Chip) (w : Nat → Nat → Word),
    let x := c.core k
    (x.useRT = false → translate k u va c =
      (some ⟨x.useUbase * 2 ^ 32 + va.toNat, courierDevice k (x.useUbase * 2 ^ 32 + va.toNat), false⟩, c))
    ∧ (x.useRT = true → (∀ i j, i < 16 → j < 3 → sget (fun _ => none) x.held (x.useCtx * 64 + i * 4 + j) = some (w i j)) →
      translate k u va c =
        (match (List.range 16).find? fun i =>
            (w i 0).bit 5 && decide (12 ≤ (w i 0).bits 4 0) && va.toNat / 2 ^ (w i 0).bits 4 0 == (w i 0).bits 31 12 * 4096 / 2 ^ (w i 0).bits 4 0
              && !(w i 2).bit 6 with
          | none => none
          | some i =>
            let pa := (w i 1).bits 27 0 * 4096 / 2 ^ (w i 0).bits 4 0 * 2 ^ (w i 0).bits 4 0 + va.toNat % 2 ^ (w i 0).bits 4 0
            if (w i 2).bit (match u with | .load => 0 | .store => 1 | .fetch => 2) = true ∧ (x.sup = true ∨ (w i 2).bit 3 = true) then
              some ⟨pa, (w i 2).bits 5 4 == 3 || courierDevice k pa,
                decide (k < 8) && decide (pa < 0x800000000) && ((w i 2).bits 5 4 == 0 || (w i 2).bits 5 4 == 2)⟩
            else none, c))
    ∧ (∀ p ok e, locate k u va c = (some (p, ok), e) → p.device = true → va.toNat % 4 = 0 → checkAccess k u va 4 true c = (.error (0x09, va), e))
    ∧ (∀ p e, locate k u va c = (some (p, true), e) → p.device = false → va.toNat % 4 = 0 → checkAccess k u va 4 false c = (.ok [(p, 4)], e))
    ∧ (∀ p e, locate k u va c = (some (p, false), e) → p.device = false → va.toNat % 4 = 0 →
        checkAccess k u va 4 false c = (.error (if u = .store then 0x08 else 0x07, va), e))

/-- R114, R80, R110.  Exception and interrupt entry as one act: what csr_estat, csr_epc, csr_etgt, csr_cause, csr_eaddr, csr_epl and
csr_eph save, the mode, the reservation, and the vector.  A product whose shadow is over is visible and not saved (R77).  That a shadow never has
more than 12 positions left is the premise; StepKeepsShadowBound states it as an invariant. -/
def Obligations.ExceptionEntry : Prop :=
  ∀ (x : Core) (cause : Nat) (addr epc : Word) (slot : Option Slot), (∀ p, x.prod = some p → p.left ≤ 12) → cause < 64 →
    let w := x.ripen
    let y := x.enter cause addr epc slot
    y.estat.bit 0 = x.status.bit 0 ∧ y.estat.bit 1 = x.status.bit 1 ∧ y.estat.bit 2 = slot.isSome ∧ y.estat.bit 3 = (cause == 0x0B)
    ∧ y.estat.bits 7 4 = 0 ∧ y.estat.bits 31 12 = 0
    ∧ (match w.prod with
      | some p => 0 < p.left ∧ y.estat.bits 11 8 = p.left ∧ y.eph ++ y.epl = p.val
      | none => y.estat.bits 11 8 = 0 ∧ y.epl = x.epl ∧ y.eph = x.eph)
    ∧ y.epc = epc ∧ y.cause.toNat = cause ∧ y.eaddr = addr
    ∧ (∀ sl, slot = some sl → y.etgt = sl.cont)
    ∧ y.status.bit 0 = true ∧ y.status.bit 1 = false ∧ (∀ n, 2 ≤ n → n < 32 → y.status.bit n = x.status.bit n)
    ∧ y.resv = none ∧ y.prod = none ∧ y.slot = none
    ∧ y.pc = (x.vbase &&& 0xFFFFF000) + (if cause = 0x0C then 0x200 else if cause = 0x10 then 0x100 else 0)
    ∧ y.g = x.g ∧ y.q = x.q ∧ y.pl = w.pl ∧ y.ph = w.ph ∧ y.vbase = x.vbase ∧ y.scratch0 = x.scratch0 ∧ y.scratch1 = x.scratch1
    ∧ y.ctx = x.ctx ∧ y.rtbase = x.rtbase ∧ y.sbase = x.sbase ∧ y.ubase = x.ubase

/-- R115, R79.  ERET in supervisor mode: a pending product becomes visible, SUP and IE come back, the reservation is cleared, the saved
product is pending again with its remaining positions, and execution goes on at csr_epc, as a slot with its continuation where
INSLOT is set. -/
def Obligations.ReturnFromException : Prop :=
  ∀ (k : Fin 64) (cond : BitVec 4) (s : State) (d : Chip),
    s.chip.prepared k false = some d → (d.core k).takes cond = true → (d.core k).slot = none → (d.core k).sup = true →
    (d.core k).dbg.stepping = false → (d.core k).dbg.haltHit = none →
    let x := d.core k
    ∃ e, exec (.eret k cond) s = .next (s.ran k e) ∧ e.mem = d.mem ∧ e.regs = d.regs ∧
      let y := e.core k
      y.status.bit 0 = x.estat.bit 0 ∧ y.status.bit 1 = x.estat.bit 1 ∧ (∀ n, 2 ≤ n → n < 32 → y.status.bit n = x.status.bit n)
      ∧ y.resv = none ∧ y.pc = x.epc
      ∧ y.slot = (if x.estat.bit 2 then some ⟨x.etgt, false⟩ else none)
      ∧ y.prod = (if x.estat.bits 11 8 = 0 then none else some ⟨x.eph ++ x.epl, Nat.min 12 (x.estat.bits 11 8)⟩)
      ∧ y.pair = (match x.prod with | some p => p.val | none => x.pair)
      ∧ y.g = x.g ∧ y.q = x.q ∧ y.epc = x.epc ∧ y.estat = x.estat ∧ y.cause = x.cause ∧ y.vbase = x.vbase
      ∧ ∀ j, j ≠ k.val → e.core j = d.core j

/-- R110, R116, R121. A privileged instruction in user mode raises the privilege exception with its word: CSRW, CSRS, CSRC of an assigned register, CSRR
of one not marked user, ERET outside a slot, WAIT, REGSYNC, and CLINE of kinds 1 and 2; a CSR number that is not assigned is illegal in either mode.
R116, R121. The accesses to control registers where they are allowed: CSRR brings the register into g[ga]; CSRW, CSRS and CSRC write it, with the
bits of g[ga] set or cleared in the last two. R116, R117. What the control registers hold after a write: their writable bits, the rest reading 0; a
read-only register ignores the write; a write of csr_ctx clears the reservation (R95). -/
def Obligations.ControlRegisterUse : Prop :=
  (
    ∀ (k : Fin 64) (cond : BitVec 4) (ga : BitVec 5) (csr : BitVec 10) (s : State) (d : Chip),
      s.chip.prepared k false = some d → (d.core k).takes cond = true →
      let word (op : BitVec 4) (ga : BitVec 5) (field : BitVec 13) : Word := cond ++ (0x3C : BitVec 6) ++ op ++ ga ++ field
      let raises (i : Instr) (cause : Nat) (w : Word) : Prop := exec i s = .next (s.ran k (d.except k cause w))
      let n := csr.toNat
      let num : BitVec 13 := csr.zeroExtend 13
      ((d.core k).sup = false →
        (csrAssigned n = true →
          raises (.csrw k cond ga csr) 0x03 (word 1 ga num) ∧ raises (.csrs k cond ga csr) 0x03 (word 2 ga num)
          ∧ raises (.csrc k cond ga csr) 0x03 (word 3 ga num)
          ∧ (csrUser (s.chip.core k) n = false → raises (.csrr k cond ga csr) 0x03 (word 0 ga num)))
        ∧ ((d.core k).slot = none → raises (.eret k cond) 0x03 (word 4 0 0))
        ∧ raises (.wait k cond) 0x03 (word 5 0 0) ∧ raises (.regsync k cond ga) 0x03 (word 6 ga 0)
        ∧ raises (.cline k cond ga 1) 0x03 (word 7 ga 1) ∧ raises (.cline k cond ga 2) 0x03 (word 7 ga 2))
      ∧ (csrAssigned n = false →
          raises (.csrr k cond ga csr) 0x01 (word 0 ga num) ∧ raises (.csrw k cond ga csr) 0x01 (word 1 ga num)
          ∧ raises (.csrs k cond ga csr) 0x01 (word 2 ga num) ∧ raises (.csrc k cond ga csr) 0x01 (word 3 ga num)))
  ∧
  (
    ∀ (k : Fin 64) (cond : BitVec 4) (ga : BitVec 5) (csr : BitVec 10) (s : State) (d : Chip),
      s.chip.prepared k false = some d → csrAssigned csr.toNat = true → 
      let fin (f : Core → Core) : Out := .next (s.ran k (d.complete k cond f))
      ((d.core k).sup = true ∨ csrUser (s.chip.core k) csr.toNat = true →
        exec (.csrr k cond ga csr) s = fin (fun x => x.wr ga.toNat (x.csr k csr.toNat)))
      ∧ ((d.core k).sup = true →
        exec (.csrw k cond ga csr) s = fin (fun x => x.setCsr k csr.toNat (x.rd ga.toNat))
        ∧ exec (.csrs k cond ga csr) s = fin (fun x => x.setCsr k csr.toNat (x.csr k csr.toNat ||| x.rd ga.toNat))
        ∧ exec (.csrc k cond ga csr) s = fin (fun x => x.setCsr k csr.toNat (x.csr k csr.toNat &&& ~~~(x.rd ga.toNat)))))
  ∧
  (
    ∀ (k : Nat) (x : Core) (v : Word),
      (∀ p ∈ ([(0x000, 0x37), (0x001, 0x3F), (0x002, 0xFFFFFFFF), (0x003, 0xF0F), (0x004, 0xFFFFFFFF), (0x005, 0xFFFFFFFF),
          (0x006, 0xFFFFFFFF), (0x007, 0xFFFFFFFF), (0x008, 0xFFFFF000), (0x009, 0xFFFFFFFF), (0x00A, 0xFFFFFFFF), (0x010, 0xFF),
          (0x011, 0xFFFFFF), (0x013, 0xFF)] : List (Nat × Word)), (x.setCsr k p.1 v).csr k p.1 = v &&& p.2)
      ∧ (x.setCsr k 0x012 v).csr k 0x012 = (if k < 8 then v &&& 0xFFFF0000 else 0)
      ∧ (x.csr k 0x020 = Word.of k ∧ x.csr k 0x021 = Word.of (Core.kind k))
      ∧ x.setCsr k 0x020 v = x ∧ x.setCsr k 0x021 v = x ∧ x.setCsr k 0x022 v = x
      ∧ (x.setCsr k 0x010 v).resv = none
      ∧ (∀ n, n ≠ 0x010 → (x.setCsr k n v).resv = x.resv) ∧ (∀ n, (x.setCsr k n v).g = x.g))

/-- R108, R111, R121.  REGSYNC, CLINE, RDPM, WAIT and SYSCALL where they may run: the table words of one context, or of all, are let
go; a Courier's line is written back, or let go for kind 1, and elsewhere CLINE does nothing; the replica's halves reach g[ga] and g[gb]; a WAIT with an interrupt pending goes on
and without one waits on its instruction; SYSCALL completes and takes exception 0x0D, csr_epc naming the instruction after it. -/
def Obligations.SystemInstructionResults : Prop :=
  ∀ (k : Fin 64) (cond : BitVec 4) (ga gb : BitVec 5) (kind : BitVec 2) (code : BitVec 13) (s : State) (d : Chip),
    s.chip.prepared k false = some d → (d.core k).takes cond = true →
    ((d.core k).sup = true →
      (∃ t, exec (.regsync k cond ga) s = .next t ∧ t.pending = s.pending ∧ (t.chip.core k).g = (d.core k).g
        ∧ ∀ n, sget (fun _ => none) (t.chip.core k).held n =
            if ga = 0 ∨ n / 64 = ((d.core k).rd ga.toNat).bits 7 0 then none else sget (fun _ => none) (d.core k).held n)
      ∧ (coreIrq k d = true → exec (.wait k cond) s = .next (s.ran k (endStep k (d.modCore k (Core.advance k)))))
      ∧ (coreIrq k d = false → exec (.wait k cond) s = .next (s.ran k (d.modCore k fun x => { x with waiting := true }))))
    ∧ (let fin (c : Chip) : Out := .next (s.ran k (endStep k (c.modCore k (Core.advance k))))
       ((d.core k).sup = true ∨ kind = 0 ∨ kind = 3 → 8 ≤ k.val ∨ kind = 3 → exec (.cline k cond ga kind) s = fin d)
       ∧ ((d.core k).sup = true ∨ kind = 0 → k.val < 8 → kind ≠ 3 →
          (∀ pa e, clineAt k ga d = (some pa, e) →
            exec (.cline k cond ga kind) s = fin (if kind = 1 then e.loseLine pa else e.writeBack pa) ∧ (e.writeBack pa).dirty pa = none)
          ∧ (∀ e, clineAt k ga d = (none, e) → exec (.cline k cond ga kind) s = fin e)))
    ∧ (let v : DWord := BitVec.ofNat 64 (d.stamp k)
       exec (.rdpm k cond ga gb) s = .next (s.ran k (endStep k (d.modCore k fun x =>
         ((x.wr ga.toNat (v.extractLsb' 0 32)).wr gb.toNat (v.extractLsb' 32 32)).advance k))))
    ∧ (let n := (d.core k).advance k
       exec (.syscall k cond code) s = .next (s.ran k (endStep k (d.setCore k (n.enter 0x0D (code.zeroExtend 32) n.pc none)))))

/-- R112 to R114, R121, R608.  What a core does at an interrupt point, outside a branch and slot pair and an LDRAW, before its next instruction:
a requested halt first; then a store bus error that has arrived, whatever IE holds; then, with IE set, a pending interrupt: cause 0x10,
csr_eaddr 0, csr_epc the instruction not yet performed.  INTERRUPT_ENTRY takes it, and so does the command of any instruction, which is
not performed.  A waiting core towards which an interrupt is pending goes on after its WAIT first (WAIT_RESUME); with IE clear it takes none. -/
def Obligations.InterruptEntry : Prop :=
  ∀ (k : Fin 64) (cond : BitVec 4) (rd ra rb : BitVec 5) (off : BitVec 12) (annul : Bool) (disp : BitVec 21) (word : Word) (s : State),
    let c := s.chip
    let x := c.core k
    let entry (d : Chip) : Chip := (d.setCore k ((d.core k).enter 0x10 0 (d.core k).pc none)).interruptEntered k
    let woken : Chip := c.modCore k fun x => ({ x with waiting := false } : Core).advance k
    let anyOf : List Instr := [.interruptEntry k, .add k cond rd ra rb, .lw k cond rd ra off, .sw k cond rd ra off, .b k cond annul disp,
      .eret k cond, .wait k cond, .illegalInstruction k word]
    c.coreFree k = true → x.slot = none → c.drawingOn k = false → x.dbg.stepping = false → x.dbg.haltHit = none →
    (x.waiting = false → x.dbg.haltReq = true → ∀ i ∈ anyOf, exec i s = .next (s.at (haltCore k 1 0 c)))
    ∧ (x.dbg.haltReq = false → ∀ a l, x.busErrs = a :: l →
        let d := c.setCore k (({ x with busErrs := l } : Core).enter 0x0B a x.pc none)
        exec (.storeBusErrorReport k) s = .next (s.at d) ∧ (x.waiting = false → ∀ i ∈ anyOf, exec i s = .next (s.at d)))
    ∧ (x.dbg.haltReq = false → x.busErrs = [] → coreIrq k c = true →
        (x.waiting = false → x.status.bit 1 = true → ∀ i ∈ anyOf, exec i s = .next (s.at (entry c)))
        ∧ (x.waiting = false → x.status.bit 1 = false → exec (.interruptEntry k) s = .next s)
        ∧ (x.waiting = true → x.status.bit 1 = true → ∀ i ∈ ([.waitResume k, .interruptEntry k] : List Instr),
            exec i s = .next (s.ran k (entry woken)))
        ∧ (x.waiting = true → x.status.bit 1 = false → ∀ i ∈ ([.waitResume k, .interruptEntry k] : List Instr),
            exec i s = .next (s.ran k woken)))
    ∧ (x.waiting = true → coreIrq k c = false → exec (.waitResume k) s = .next s)

/-- R66, R67, R119, R154.  A word of the hint space passes; a word that no encoding assigns raises the illegal-instruction exception
with csr_eaddr the word, and one of a coprocessor that the core lacks, CP3 always, the coprocessor exception; a counter that counts
and stands before its wrap reads 0 then, and its overflow flag is set. -/
def Obligations.HintsIllegalWordsAndOverflow : Prop :=
  ∀ (k : Fin 64) (low : BitVec 28) (ra : BitVec 5) (off : BitVec 12) (word : Word) (n : Fin 10) (s : State),
    (∀ d, s.chip.prepared k false = some d →
      exec (.nop k low) s = .next (s.ran k (endStep k (d.modCore k (Core.advance k))))
      ∧ exec (.prefetch k ra off) s = .next (s.ran k (endStep k (d.modCore k (Core.advance k))))
      ∧ ((d.core k).takes (word.extractLsb' 28 4) = true → (d.core k).slot = none → word.bits 27 22 < 0x3C →
          exec (.illegalInstruction k word) s = .next (s.ran k (d.except k 0x01 word)))
      ∧ ((d.core k).takes (word.extractLsb' 28 4) = true → word.bits 27 22 = 0x3F →
          exec (.illegalInstruction k word) s = .next (s.ran k (d.except k 0x04 3))))
    ∧ ((s.chip.core k).wraps k n = false → exec (.pmcOverflow k n) s = .next s)
    ∧ ((s.chip.core k).wraps k n = true → ∃ e, exec (.pmcOverflow k n) s = .next (s.ran k e) ∧ e = s.chip.setCore k (e.core k)
        ∧ (e.core k).pmovf = (s.chip.core k).pmovf.setBit n true ∧ (e.core k).g = (s.chip.core k).g ∧ (e.core k).pc = (s.chip.core k).pc
        ∧ (n.val < 8 → sget (fun _ => (0 : DWord)) (e.core k).pmcnt n = 0)
        ∧ (n.val = 8 → (e.core k).pmcyc = 0) ∧ (n.val = 9 → (e.core k).pmret = 0))

/-- R119.  An instruction of a coprocessor that the core lacks raises exception 0x04 with csr_eaddr the coprocessor's number, and of one that
is present but disabled the same with bit 8 set, whatever the rest of the word. -/
def Obligations.CoprocessorExceptions : Prop :=
  ∀ (k : Fin 64) (cond i4 : BitVec 4) (r1 r2 r3 : BitVec 5) (i7 : BitVec 7) (p1 : BitVec 3) (m1 : BitVec 2) (b1 : Bool) (s : State) (d : Chip),
    s.chip.prepared k false = some d → (d.core k).takes cond = true →
    let raises (n : Nat) (i : Instr) : Prop :=
      exec i s = .next (s.ran k (d.except k 0x04 (BitVec.ofNat 32 (n + if Core.kind k = n then 256 else 0))))
    ((Core.kind k = 1 → (d.core k).status.bit 4 = false) →
      ∀ i ∈ ([.lnext k cond r1 r2, .lstat k cond r1, .ldead k cond r1, .mtx k cond i4 r1, .mfx k cond r1 i4, .lset k cond r1 r2,
          .lget k cond r1 r2, .lgetr k cond r1 i7, .lput k cond m1, .lclose k cond, .ldraw k cond, .lend k cond] : List Instr), raises 1 i)
    ∧ ((Core.kind k = 2 → (d.core k).status.bit 5 = false) →
      ∀ i ∈ ([.vadd k cond r1 r2 r3, .vsub k cond r1 r2 r3, .vmul k cond r1 r2 r3, .vmac k cond r1 r2 r3, .vminmax k cond r1 r2 r3 b1,
          .vunary k cond r1 r2 m1, .vdiv k cond r1 r2 r3, .vcvtf k cond r1 r2 m1, .vcvti k cond r1 r2 m1, .viadd k cond r1 r2 r3 b1,
          .vlogic k cond r1 r2 r3 m1, .vshi k cond r1 r2 r3 m1, .vcmp k cond r1 r2 r3 m1, .vsel k cond r1 r2 r3, .vbcast k cond r1 r2,
          .vins k cond r1 r2 p1, .vext k cond r1 r2 p1, .vtrn k cond r1 r2, .vsin k cond r1 r2, .vld k cond r1 r2, .vst k cond r1 r2,
          .vgath k cond r1 r2 r3, .vbiq k cond r1 r2 r3, .vgen k cond r1 r2, .dyn k cond r1 r2 r3, .snext k cond r1 r2, .sstat k cond r1 b1,
          .sout k cond r1 r2, .sin k cond r1 r2, .sbar k cond, .send k cond] : List Instr), raises 2 i)

/-- R260 to R262, R275 to R279. What CP1 does for a sorter with its unit: LNEXT takes the offered unit and gives its unit word, route address and ARG,
and waits where none is offered; LSTAT, LDEAD, MTX and MFX work at any time; LSET and LGET reach the unit's own line parameters, LGETR the route
area. R265 to R268, R271, R275, R276, R279. What CP1 does with a unit it holds: LPUT puts a line-timed write in the group's log, or waits while it
is full, or sets LPUT_OVF past the unit's limit; LCLOSE closes the unit; LDRAW closes it, waits for the lower units of the group, and draws it; LEND
draws it if it has not drawn and ends it. Without a unit each has no effect but ROUTE_ERR. -/
def Obligations.LineUnits : Prop :=
  (
    ∀ (k : Fin 64) (cond xi : BitVec 4) (r1 r2 : BitVec 5) (n : BitVec 7) (s : State) (d : Chip),
      s.chip.prepared k false = some d → (d.core k).takes cond = true → Core.kind k = 1 → (d.core k).status.bit 4 = true →
      let u := k.val - 8
      let x := d.core k
      let fin (c : Chip) (f : Core → Core) : Out := .next (s.ran k (endStep k (c.modCore k fun x => (f x).advance k)))
      (∀ h, (d.comp u).offered = some h → ((d.comp u).held = none ∨ ∃ h', (d.comp u).held = some h' ∧ h'.abandoned = true) →
        ∃ t w, exec (.lnext k cond r1 r2) s = .next t ∧ t.pending = s.pending
          ∧ (t.chip.comp u).held = some h ∧ (t.chip.comp u).offered = none ∧ t.chip.xreg u 15 = h.arg
          ∧ (∀ i, i < 15 → t.chip.xreg u i = d.xreg u i)
          ∧ (∀ j, (t.chip.core k).rd j = ((x.wr r1.toNat w).wr r2.toNat h.route).rd j)
          ∧ w.bits 13 0 = h.line % 2 ^ 14 ∧ w.bits 15 14 = h.out % 4 ∧ w.bit 16 = h.half ∧ w.bit 17 = h.first
          ∧ (h.field < 2 → w.bits 19 18 = h.field) ∧ (h.field < 2 → w.bits 31 20 = h.frame % 4096))
      ∧ ((d.comp u).offered = none → exec (.lnext k cond r1 r2) s = .next (s.ran k d))
      ∧ (∃ w, exec (.lstat k cond r1) s = fin d (fun x => x.wr r1.toNat w) ∧ w.bit 0 = (d.comp u).held.isSome
          ∧ ∀ h, (d.comp u).held = some h → (d.memberOf u).1 < 64 → (d.memberOf u).2 < 64 →
            w.bit 1 = h.closed ∧ w.bit 2 = h.drawn ∧ w.bit 3 = h.abandoned ∧ w.bits 10 4 = Nat.min h.lputs 127
            ∧ w.bits 15 12 = h.idx % 16 ∧ w.bits 21 16 = (d.memberOf u).1 ∧ w.bits 27 22 = (d.memberOf u).2)
      ∧ (∀ h g, (d.comp u).held = some h → d.groupOf u = some g → d.running g = true →
          exec (.ldead k cond r1) s = fin d (fun x => x.wr r1.toNat (BitVec.ofInt 32 (max (-(2 ^ 31)) (min (2 ^ 31 - 1) (d.cyclesTo g h))))))
      ∧ ((d.comp u).held = none → ∃ w, exec (.ldead k cond r1) s = fin { d with free := d.free + 1 } (fun x => x.wr r1.toNat w))
      ∧ (∃ t, exec (.mtx k cond xi r1) s = .next t ∧ t.pending = s.pending ∧ (t.chip.core k).g = x.g
          ∧ ∀ i, t.chip.xreg u i = if i = xi.toNat then x.rd r1.toNat else d.xreg u i)
      ∧ exec (.mfx k cond r1 xi) s = fin d (fun x => x.wr r1.toNat (d.xreg u xi.toNat))
      ∧ (∀ h, (d.comp u).held = some h →
          let i := (x.rd r1.toNat).bits 9 0
          (h.abandoned = false → h.drawn = false → pidxWritable i = true →
            ∃ t h', exec (.lset k cond r1 r2) s = .next t ∧ t.pending = s.pending ∧ (t.chip.comp u).held = some h'
              ∧ (∀ j, sget (fun _ => 0) h'.param j = if j = i then x.rd r2.toNat else sget (fun _ => 0) h.param j)
              ∧ (∀ j, sget (fun _ => false) h'.mark j = if j = i then false else sget (fun _ => false) h.mark j))
          ∧ (let i2 := (x.rd r2.toNat).bits 9 0
             sget (fun _ => false) h.mark i2 = false →
             exec (.lget k cond r1 r2) s = fin d (fun x => x.wr r1.toNat
              (if pidxWritable i2 || within 0x200 0x250 i2 then sget (fun _ => 0) h.param i2 else 0)))
          ∧ (n.toNat < 80 → sget (fun _ => false) h.mark (0x200 + n.toNat) = false →
            exec (.lgetr k cond r1 n) s = fin d (fun x => x.wr r1.toNat (sget (fun _ => 0) h.param (0x200 + n.toNat))))
          ∧ (80 ≤ n.toNat → sget (fun _ => false) h.mark (0x200 + n.toNat) = false →
            exec (.lgetr k cond r1 n) s = fin d (fun x => x.wr r1.toNat 0))))
  ∧
  (
    ∀ (k : Fin 64) (cond : BitVec 4) (r1 r2 : BitVec 5) (n : BitVec 7) (a : BitVec 2) (s : State) (d : Chip),
      s.chip.prepared k false = some d → (d.core k).takes cond = true → Core.kind k = 1 → (d.core k).status.bit 4 = true →
      let u := k.val - 8
      let fin (c : Chip) : Out := .next (s.ran k (endStep k (c.modCore k (Core.advance k))))
      ((d.comp u).held = none →
        (∀ i ∈ ([.lset k cond r1 r2, .lget k cond r1 r2, .lgetr k cond r1 n, .lput k cond a, .lclose k cond, .ldraw k cond, .lend k cond] : List Instr),
          exec i s = fin (routeErr u d)))
      ∧ (∀ h g, (d.comp u).held = some h → d.groupOf u = some g →
        (let x (i : Nat) := d.xreg u (4 * a.toNat + i)
         let line := (x 3).bits 13 0
         ∀ e v, lputTarget (x 0) (x 1) (x 2) = some (e, v) → h.abandoned = false → h.closed = false → h.line ≤ line → line ≤ h.line + 15 →
          line < (d.out h.out).timing.vactive →
          ((d.grp g).lputMax ≤ h.lputs → exec (.lput k cond a) s = fin (d.revt g 2))
          ∧ (h.lputs < (d.grp g).lputMax → (d.grp g).log.length < 512 →
            ∃ t, exec (.lput k cond a) s = .next t ∧ t.pending = s.pending
              ∧ (t.chip.grp g).log = (d.grp g).log ++ [⟨h.out, e, v, line, (x 3).bits 29 16, h.u, false⟩]
              ∧ (t.chip.comp u).held = some { h with lputs := h.lputs + 1 })
          ∧ (h.lputs < (d.grp g).lputMax → 512 ≤ (d.grp g).log.length → exec (.lput k cond a) s = .next (s.ran k d)))
        ∧ (∃ t, exec (.lclose k cond) s = .next t ∧ t.pending = s.pending ∧ (t.chip.comp u).held = some { h with closed := true }
            ∧ (h.closed = false → h.u ∈ (t.chip.grp g).closed ∧ ∀ w ∈ (t.chip.grp g).log, w.u = h.u → w.closed = true))
        ∧ (h.abandoned = false → h.drawn = true → exec (.ldraw k cond) s = fin (routeErr u d))
        ∧ (h.abandoned = true → exec (.ldraw k cond) s = fin d)
        ∧ (h.abandoned = false → h.drawn = false → (d.grp g).belowClosed h.u = true → h.closed = true →
            let h' : LineUnit := { h with closed := true, drawn := true, drawing := false }
            exec (.ldraw k cond) s = fin ((drawUnit g h' d).setHeld k h')
            ∧ exec (.lend k cond) s = fin (endHeld k ((drawUnit g h' d).setHeld k h')))
        ∧ (h.abandoned = false → h.drawn = false → (d.grp g).belowClosed h.u = false → h.closed = true →
            exec (.ldraw k cond) s = .next (s.ran k (d.setHeld k { h with closed := true, drawing := true })))
        ∧ (h.abandoned = true ∨ h.drawn = true →
            ∃ t, exec (.lend k cond) s = .next t ∧ t.pending = s.pending ∧ (t.chip.comp u).held = none)))

/-- R364 to R366, R370, R375. The lane operations of CP2: each lane of v[vd] receives the operation on the lanes of the sources, and is marked where one
of them is; every other vector register, the general registers and memory stay. R364 to R366, R370. Between lanes and general registers, and the
transpose: VBCAST, VINS, VEXT and VTRN; the unassigned forms of VUNARY, VSHI (M 3) and VTRN (a number that is no multiple of 8, or one block onto
itself) raise the illegal-instruction exception with their word. -/
def Obligations.LaneInstructions : Prop :=
  (
    ∀ (k : Fin 64) (cond : BitVec 4) (vd va vb : BitVec 5) (m : BitVec 2) (b : Bool) (s : State) (d : Chip),
      s.chip.prepared k false = some d → (d.core k).takes cond = true → Core.kind k = 2 → (d.core k).status.bit 5 = true →
      let gives (i : Instr) (f : Nat → Lane) : Prop :=
        ∃ t, exec i s = .next t ∧ t.pending = s.pending ∧ t.chip.mem = d.mem ∧ (t.chip.core k).g = (d.core k).g
          ∧ ∀ r j, j < 8 → t.chip.lane k r j = if r = vd.toNat then f j else d.lane k r j
      let A (j : Nat) := d.lane k va.toNat j
      let B (j : Nat) := d.lane k vb.toNat j
      let D (j : Nat) := d.lane k vd.toNat j
      let two (f : Word → Word → Word) (j : Nat) : Lane := ⟨f (A j).val (B j).val, (A j).mark || (B j).mark⟩
      let one (f : Word → Word) (j : Nat) : Lane := ⟨f (A j).val, (A j).mark⟩
      gives (.vadd k cond vd va vb) (two F32.add) ∧ gives (.vsub k cond vd va vb) (two F32.sub)
      ∧ gives (.vmul k cond vd va vb) (two F32.mul) ∧ gives (.vdiv k cond vd va vb) (two F32.div)
      ∧ gives (.vmac k cond vd va vb) (fun j => ⟨F32.add (D j).val (F32.mul (A j).val (B j).val), (A j).mark || (B j).mark || (D j).mark⟩)
      ∧ ((∀ j, j < 8 → F32.isNan (A j).val = false ∧ F32.isNan (B j).val = false) →
          gives (.vminmax k cond vd va vb b) (two (if b then F32.max else F32.min)))
      ∧ gives (.vunary k cond vd va 0) (one F32.abs) ∧ gives (.vunary k cond vd va 1) (one F32.neg)
      ∧ gives (.vunary k cond vd va 2) (one F32.sqrt)
      ∧ gives (.vcvtf k cond vd va m) (one fun x => F32.ofScaled x.toInt ([0, 7, 15, 31].getD m.toNat 0))
      ∧ gives (.vcvti k cond vd va m)
          (one fun x => BitVec.ofInt 32 (F32.toInt x ([0, 7, 15, 31].getD m.toNat 0) (-(2 ^ 31)) (2 ^ 31 - 1)))
      ∧ gives (.viadd k cond vd va vb b) (two fun x y => if b then x - y else x + y)
      ∧ gives (.vlogic k cond vd va vb m) (two fun x y => [x &&& y, x ||| y, x ^^^ y, x &&& ~~~y].getD m.toNat 0)
      ∧ gives (.vshi k cond vd va vb 0) (one fun x => x <<< vb.toNat) ∧ gives (.vshi k cond vd va vb 1) (one fun x => x >>> vb.toNat)
      ∧ gives (.vshi k cond vd va vb 2) (one fun x => x.sshiftRight vb.toNat)
      ∧ gives (.vcmp k cond vd va vb m)
          (two fun x y => if [F32.lt x y, F32.le x y, F32.eq x y, decide (x.toNat < y.toNat)].getD m.toNat false then 0xFFFFFFFF else 0)
      ∧ gives (.vsel k cond vd va vb)
          (fun j => if (D j).val = 0 then ⟨(B j).val, (B j).mark || (D j).mark⟩ else ⟨(A j).val, (A j).mark || (D j).mark⟩)
      ∧ gives (.vsin k cond vd va) (one fun x => F32.sinePhase x.toNat 0))
  ∧
  (
    ∀ (k : Fin 64) (cond : BitVec 4) (vd va ga : BitVec 5) (n : BitVec 3) (s : State) (d : Chip),
      s.chip.prepared k false = some d → (d.core k).takes cond = true → Core.kind k = 2 → (d.core k).status.bit 5 = true →
      let keeps (t : State) : Prop := t.pending = s.pending ∧ t.chip.mem = d.mem ∧ (t.chip.core k).g = (d.core k).g
      let word (op d a b : BitVec 5) (m : BitVec 2) : Word := cond ++ (0x3E : BitVec 6) ++ op ++ d ++ a ++ b ++ m
      (∃ t, exec (.vbcast k cond vd ga) s = .next t ∧ keeps t
        ∧ ∀ r j, j < 8 → t.chip.lane k r j = if r = vd.toNat then ⟨(d.core k).rd ga.toNat, false⟩ else d.lane k r j)
      ∧ (∃ t, exec (.vins k cond vd ga n) s = .next t ∧ keeps t
        ∧ ∀ r j, j < 8 → t.chip.lane k r j = if r = vd.toNat ∧ j = n.toNat then ⟨(d.core k).rd ga.toNat, false⟩ else d.lane k r j)
      ∧ ((d.lane k va.toNat n.toNat).mark = false → exec (.vext k cond ga va n) s =
          .next (s.ran k (endStep k (d.modCore k fun x => (x.wr ga.toNat (d.lane k va.toNat n.toNat).val).advance k))))
      ∧ ((d.lane k va.toNat n.toNat).mark = true → ∃ (a : Word) (c : Chip), exec (.vext k cond ga va n) s = .next (s.ran k (c.except k 0x0C a))
          ∧ c.core k = d.core k)
      ∧ (vd.toNat % 8 = 0 → va.toNat % 8 = 0 → vd ≠ va → ∃ t, exec (.vtrn k cond vd va) s = .next t ∧ keeps t
        ∧ ∀ r j, j < 8 → t.chip.lane k r j =
            if vd.toNat ≤ r ∧ r < vd.toNat + 8 then d.lane k (va.toNat + j) (r - vd.toNat) else d.lane k r j)
      ∧ (vd.toNat % 8 ≠ 0 ∨ va.toNat % 8 ≠ 0 ∨ vd = va →
          exec (.vtrn k cond vd va) s = .next (s.ran k (d.except k 0x01 (word 0x11 vd va 0 0))))
      ∧ exec (.vunary k cond vd va 3) s = .next (s.ran k (d.except k 0x01 (word 0x05 vd va 0 3)))
      ∧ exec (.vshi k cond vd va ga 3) s = .next (s.ran k (d.except k 0x01 (word 0x0B vd va ga 3))))

/-- R366, R370.  CP2's memory accesses, each checked as other accesses are (R110): VLD brings 32 bytes into the lanes, VST stores them, VGATH
gathers words; an address that is not a multiple of the access raises the access-form exception.  What leaves the horn is posted, and what
comes from outside holds its pipeline (R148). -/
def Obligations.VectorMemoryAccesses : Prop :=
  ∀ (k : Fin 64) (cond : BitVec 4) (v va gb : BitVec 5) (s : State) (d : Chip),
    s.chip.prepared k false = some d → (d.core k).takes cond = true → Core.kind k = 2 → (d.core k).status.bit 5 = true →
    let ea := (d.core k).rd gb.toNat
    let fin (c : Chip) : Out := .next (s.ran k (endStep k (c.modCore k (Core.advance k))))
    (ea.toNat % 32 ≠ 0 → exec (.vld k cond v gb) s = .next (s.ran k (d.except k 0x09 ea))
      ∧ exec (.vst k cond v gb) s = .next (s.ran k (d.except k 0x09 ea)))
    ∧ (∀ p e f, cp2Places k .load 32 [ea] d = (.ok [p], e) → e.accessWaits k false [(p, 32)] = false → fireWatches k .load [ea] 32 e = (.no, f) →
        let l := busLoad k false p.pa 32 (cp2Ready k false p f)
        (l.err = true → exec (.vld k cond v gb) s = .next (s.ran k (l.chip.except k 0x0A ea)))
        ∧ (l.err = false → ∃ y, exec (.vld k cond v gb) s = .next (s.ran k y) ∧ (y.core k).g = (l.chip.core k).g ∧ y.mem = l.chip.mem
            ∧ (y.core k).loadHeld = (!inOwnRam k p.pa || (l.chip.core k).loadHeld)
            ∧ (∀ j, j < 8 → (y.lane k v.toNat j).val = BitVec.ofNat 32 (l.val / 2 ^ (32 * j)))
            ∧ ∀ r j, j < 8 → r ≠ v.toNat → y.lane k r j = l.chip.lane k r j))
    ∧ (∀ p e f, cp2Places k .store 32 [ea] d = (.ok [p], e) → e.accessWaits k true [(p, 32)] = false → fireWatch k .store ea 32 e = (.no, f) →
        let w := storeLanes k p.pa (f.lanesOf k v.toNat) (cp2Ready k true p f)
        (inOwnRam k p.pa = true → exec (.vst k cond v gb) s = fin w.2)
        ∧ (inOwnRam k p.pa = false → exec (.vst k cond v gb) s = fin (w.2.modCore k fun x =>
            { x with posted := x.posted ++ [⟨p.device, false, if w.1 then [ea] else []⟩] })))
    ∧ (let eas := (d.lanesOf k va.toNat).map fun x => ea + x.val * 4
       ∀ ps e f ls g, cp2Places k .load 4 eas d = (.ok ps, e) → e.accessWaits k false (ps.map fun p => (p, 4)) = false →
        fireWatches k .load eas 4 e = (.no, f) → cp2Read k 1 (eas.zip ps) f = (.ok ls, g) → (∀ p ∈ ps, inOwnRam k p.pa = true) →
        exec (.vgath k cond v va gb) s =
          fin (g.setLanes k v.toNat (ls.zipWith (fun (y x : Lane) => ⟨y.val, y.mark || x.mark⟩) (d.lanesOf k va.toNat))))

/-- R367. VBIQ on a record in the horn's own local RAM, without marks: each lane gives the biquad's output for its coefficients and state, and the state
vectors x1, x2, y1 and y2 move on in memory. R388, R389. DYN on a block with LINK and unmarked lanes: eight samples of both channels through the
block, one after the other, whose detector and delay lines move on. -/
def Obligations.SoundUnits : Prop :=
  (
    ∀ (k : Fin 64) (cond : BitVec 4) (vd va gb : BitVec 5) (s : State) (d e : Chip) (pa : Nat),
      s.chip.prepared k false = some d → (d.core k).takes cond = true → Core.kind k = 2 → (d.core k).status.bit 5 = true →
      ownPlace k ((d.core k).rd gb.toNat) 288 32 d = (.ok pa, e) → e.reachable k pa (e.region k pa) = true → e.flips = [] → e.poison = [] →
      e.memc.hard = [] → (∀ j, j < 72 → e.defined (pa + 4 * j) = true) →
      (∀ j, j < 8 → (e.lane k va.toNat j).mark = false) →
      let w (c : Chip) (v j : Nat) : Word := BitVec.ofNat 32 (c.le (pa + 32 * v + 4 * j) 4)
      let x (j : Nat) : Word := (e.lane k va.toNat j).val
      let y (j : Nat) : Word := biquad (w e 0 j) (w e 1 j) (w e 2 j) (w e 3 j) (w e 4 j) (x j) (w e 5 j) (w e 6 j) (w e 7 j) (w e 8 j)
      ∃ t, exec (.vbiq k cond vd va gb) s = .next t ∧ t.pending = s.pending ∧ (t.chip.core k).g = (d.core k).g
        ∧ ∀ j, j < 8 → t.chip.lane k vd.toNat j = ⟨y j, false⟩
          ∧ w t.chip 5 j = x j ∧ w t.chip 6 j = w e 5 j ∧ w t.chip 7 j = y j ∧ w t.chip 8 j = w e 7 j
          ∧ ∀ v, v < 5 → w t.chip v j = w e v j)
  ∧
  (
    ∀ (k : Fin 64) (cond : BitVec 4) (vd va gb : BitVec 5) (s : State) (d : Chip),
      s.chip.prepared k false = some d → (d.core k).takes cond = true → Core.kind k = 2 → (d.core k).status.bit 5 = true →
      let b := ((d.core k).rd gb.toNat).bits 3 0
      let L (i : Nat) := d.lane k va.toNat i
      let R (i : Nat) := d.lane k ((va.toNat + 1) % 32) i
      (d.dynOn b).link = true → (∀ i, i < 8 → (L i).mark = false ∧ (R i).mark = false) →
      let x (n : Nat) : DynOn := (List.range n).foldl (fun y i => (dynSample y (L i).val (R i).val).2.2) (d.dynOn b)
      ∃ t, exec (.dyn k cond vd va gb) s = .next t ∧ t.pending = s.pending ∧ t.chip.mem = d.mem ∧ t.chip.dynOn b = x 8
        ∧ ∀ i, i < 8 → t.chip.lane k vd.toNat i = ⟨(dynSample (x i) (L i).val (R i).val).1, false⟩
          ∧ t.chip.lane k ((vd.toNat + 1) % 32) i = ⟨(dynSample (x i) (L i).val (R i).val).2.1, false⟩)

/-- R372, R373.  VGEN on a voice record in the horn's own local RAM: a voice that does not sound gives eight lanes of 0 and stays as it is; one that
sounds, of a TYPE other than FM, gives its next eight samples, and its state words 12 to 15 are stored back. -/
def Obligations.VoiceResults : Prop :=
  ∀ (k : Fin 64) (cond : BitVec 4) (vd ga : BitVec 5) (s : State) (d e : Chip) (pa : Nat),
    s.chip.prepared k false = some d → (d.core k).takes cond = true → Core.kind k = 2 → (d.core k).status.bit 5 = true →
    ownPlace k ((d.core k).rd ga.toNat) 64 64 d = (.ok pa, e) → e.reachable k pa (e.region k pa) = true → e.flips = [] → e.poison = [] →
    e.memc.hard = [] → (∀ j, j < 16 → e.defined (pa + 4 * j) = true) →
    let word (c : Chip) (i : Nat) : Nat := c.le (pa + 4 * i) 4
    let v := openVoice ((List.range 16).map fun i => ⟨BitVec.ofNat 32 (word e i), false⟩) [] (ownRam k).1
    word e 0 % 8 ≠ 5 →
    (v.sounds = false → ∃ t, exec (.vgen k cond vd ga) s = .next t ∧ t.pending = s.pending ∧ t.chip.mem = e.mem
      ∧ (∀ r j, j < 8 → t.chip.lane k r j = if r = vd.toNat then ⟨0, false⟩ else e.lane k r j))
    ∧ (let l := (voiceRun 8 v e).1.1
       let v' := (voiceRun 8 v e).1.2
       v.sounds = true → ∃ t, exec (.vgen k cond vd ga) s = .next t ∧ t.pending = s.pending
      ∧ (∀ j, j < 8 → t.chip.lane k vd.toNat j = l.getD j ⟨0, false⟩)
      ∧ word t.chip 12 = v'.w12 % 2 ^ 32 ∧ word t.chip 13 = v'.w13 % 2 ^ 32 ∧ word t.chip 14 = v'.gain.toNat ∧ word t.chip 15 = v'.w15 % 2 ^ 32)

/-- R361, R366, R368, R369.  A horn's runs and points: SNEXT takes the oldest offered run and gives its block word and entry, or waits; SSTAT gives the
block status, or the run's state bank; SBAR waits for the other horns' barriers; SOUT holds its samples until SEND, SIN reads an
input point, SEND ends the run. -/
def Obligations.RunInstructions : Prop :=
  ∀ (k : Fin 64) (cond : BitVec 4) (g1 g2 v gb : BitVec 5) (s : State) (d : Chip),
    s.chip.prepared k false = some d → (d.core k).takes cond = true → Core.kind k = 2 → (d.core k).status.bit 5 = true →
    let h := k.val - 56
    let u := d.hornU h
    let fin (c : Chip) (f : Core → Core) : Out := .next (s.ran k (endStep k (c.modCore k fun x => (f x).advance k)))
    let p := ((d.core k).rd gb.toNat).bits 7 0
    let o := ((d.core k).rd gb.toNat).bits 13 8 * 8
    (u.offers = [] → exec (.snext k cond g1 g2) s = .next (s.ran k d))
    ∧ (∀ r l, u.offers = r :: l → r.dom < 4 → ∃ t w, exec (.snext k cond g1 g2) s = .next t ∧ t.pending = s.pending
        ∧ (t.chip.hornU h).cur = some r ∧ (t.chip.hornU h).offers = l
        ∧ (∀ j, (t.chip.core k).rd j = (((d.core k).wr g1.toNat w).wr g2.toNat r.entry).rd j)
        ∧ w.bits 23 0 = r.block % 2 ^ 24 ∧ w.bits 25 24 = r.dom ∧ w.bit 26 = r.old ∧ w.bit 27 = r.fade ∧ w.bit 28 = r.first ∧ w.bits 31 29 = 0)
    ∧ (∀ r, u.cur = some r →
        exec (.sstat k cond g1 true) s = fin d (fun x => x.wr g1.toNat (BitVec.ofNat 32 (d.stateBase + if r.old then 0x10000 else 0))))
    ∧ (∃ w, exec (.sstat k cond g1 false) s = fin { d with free := d.free + 1 } (fun x => x.wr g1.toNat w) ∧ w.bit 0 = u.cur.isSome)
    ∧ (u.cur = none → exec (.sbar k cond) s = fin d id ∧ exec (.send k cond) s = fin d id ∧ exec (.sout k cond v gb) s = fin d id)
    ∧ (∀ r x, u.cur = some r → u.barred = true → d.runOf r = some x →
        ((∀ j ∈ x.horns, j ∈ x.ended ∨ x.barCount h ≤ x.barCount j) → ∃ t, exec (.sbar k cond) s = .next t ∧ t.pending = s.pending
          ∧ t.chip.hornU h = { u with barred := false } ∧ (t.chip.core k).g = (d.core k).g)
        ∧ ((∃ j ∈ x.horns, j ∉ x.ended ∧ x.barCount j < x.barCount h) → exec (.sbar k cond) s = .next (s.ran k d)))
    ∧ (∀ r, u.cur = some r → ∃ t, exec (.send k cond) s = .next t ∧ t.pending = s.pending ∧ (t.chip.hornU h).cur = none
        ∧ (t.chip.core k).g = (d.core k).g)
    ∧ (∀ r, u.cur = some r → o < d.blk r.dom → (∀ j, j < 8 → (d.lane k v.toNat j).mark = false) →
        ∃ t, exec (.sout k cond v gb) s = .next t ∧ t.pending = s.pending
          ∧ ∀ j, j < 8 → sget noSample (t.chip.hornU h).writes (p * 64 + o + j) = some (d.lane k v.toNat j).val)
    ∧ (∀ r x, u.cur = some r → d.runOf r = some x → p < 0x20 → o + 8 ≤ d.blk r.dom → (∀ j, j < 8 → sget noSample x.input (p * 64 + o + j) ≠ none) →
        ∃ t, exec (.sin k cond v gb) s = .next t ∧ t.pending = s.pending
          ∧ ∀ j, j < 8 → some (t.chip.lane k v.toNat j) = (sget noSample x.input (p * 64 + o + j)).map fun w => ⟨w, false⟩)

/-- R22 to R26, R30, R32.  The postmark: reading POST_NOW_LO gives the low half and keeps the high half for the reader alone; loss and return of
REFCLK change LOCKED and FREERUN and step nothing; a replica inside the tolerance is taken, one outside it is reloaded, or held
where it is ahead, and reported; it never decreases; a crossing makes the epoch entry and sets EPOCH_EV. -/
def Obligations.PostmarkEvents : Prop :=
  ∀ (o : BitVec 12) (i : Fin 236) (err : Int) (s : State),
    let c := s.chip
    (c.answersRead o.toNat POST_NOW_LO = true →
      (∀ peek, Answers (.postNowLoRead o peek) s fun d =>
        sget (fun _ => Answer.none) d.answer o.toNat = .data (c.count.extractLsb' 0 32) ∧ d.count = c.count ∧ d.mem = c.mem
        ∧ ∀ j, sget (fun _ => 0) d.nowHi j =
            if j = o.toNat ∧ peek = false then c.count.extractLsb' 32 32 else sget (fun _ => 0) c.nowHi j))
    ∧ Answers .refclkLoss s (fun d => d.fb POST_STATUS_LOCKED = false ∧ d.fb POST_STATUS_FREERUN = true ∧ d.refclk = false ∧ d.count = c.count
        ∧ d.mem = c.mem)
    ∧ Answers .refclkLock s (fun d => d.fb POST_STATUS_LOCKED = true ∧ d.fb POST_STATUS_FREERUN = false ∧ d.refclk = true ∧ d.count = c.count
        ∧ d.mem = c.mem)
    ∧ (err.natAbs ≤ c.tolerance → (c.now : Int) + err ≥ (c.replica i).toNat → (c.now : Int) + err < 2 ^ 64 →
        Answers (.replicaCheck i err) s fun d =>
          ((d.replica i).toNat : Int) = c.now + err ∧ d.regs = c.regs ∧ d.dayb = c.dayb ∧ d.count = c.count)
    ∧ (c.tolerance < err.natAbs → Answers (.replicaCheck i err) s fun d =>
        d.fb POST_STATUS_REPL_FAULT = true ∧ d.f POST_FAULT_ISL_ISLAND = i.val ∧ d.count = c.count
        ∧ (err ≤ 0 → (c.replica i).toNat ≤ c.now → d.replica i = c.count)
        ∧ (0 < err → (c.replica i).toNat ≤ c.now + err.natAbs → c.now + err.natAbs < 2 ^ 64 → (d.replica i).toNat = c.now + err.natAbs)
        ∧ (c.dayb.frozen = false → ∃ e l, d.dayb.ring = e :: l ∧ e.cls = 1 ∧ e.origin = 252 ∧ e.item = i.val))
    ∧ (c.now + err.natAbs < 2 ^ 64 → Answers (.replicaCheck i err) s fun d => (c.replica i).toNat ≤ (d.replica i).toNat)
    ∧ ((c.now / 2 ^ 48 + 1) * 2 ^ 48 < 2 ^ 64 → Answers .epochCrossing s fun d =>
        d.now = (c.now / 2 ^ 48 + 1) * 2 ^ 48 ∧ d.fb POST_STATUS_EPOCH_EV = true
        ∧ ∃ e, d.dayb.epoch = some e ∧ e.cls = 5 ∧ e.origin = 252 ∧ e.data = c.now / 2 ^ 48 + 1)

/-- Log entries 1 and 167, R20, R47.  While no command waits, a step lets one nanosecond pass and then lets the boot ROM go on: the master
count rises by one, or by the correction of a Mirror that slews besides, and nothing but an epoch crossing happens with it; the ROM acts only
on a main side that runs.  That an idle step is one nanosecond is the model's choice. -/
def Obligations.IdleStepIsOneNanosecond : Prop :=
  ∀ (s : State), s.pending = [] →
    let c := s.chip
    let d := passTime c
    step s = .next (s.at (bootTick d))
    ∧ d.mem = c.mem ∧ d.cores = c.cores ∧ d.power = c.power
    ∧ (c.power.vsb = false → d = c)
    ∧ (c.power.vsb = true → c.slew = 0 → d.count = c.count + 1 ∧ (c.now % 2 ^ 48 ≠ 2 ^ 48 - 1 → d = { c with count := c.count + 1 }))
    ∧ (c.power.vsb = true → c.slew = 1 → d.count = c.count + 2 ∧ d.zow.offset = c.zow.offset - 1 ∧ d.zow.slewAt = c.now)
    ∧ (c.power.vsb = true → c.slew = -1 → d.count = c.count ∧ d.zow.offset = c.zow.offset + 1 ∧ d.zow.slewAt = c.now)
    ∧ (c.isMirror = false ∨ c.zow.offset = 0 ∨ c.now < c.zow.slewAt + 20000 → c.slew = 0)
    ∧ (d.mainRuns = false → bootTick d = d)

/-- R170 to R174, R178, R182 to R185, R648.  Memory upkeep: a scrubber whose enable is set reads the next word of its pass, where no request waits
there, corrects a single flipped bit and records it; an overrun of a pass in progress sets SCRUB_LATE;
a dead-letter entry is installed and removed in the table that MEM_DLT_SEL names; setting ENABLE starts training, whose end gives
TRAINED, DEGRADED, DEG_CH and the top of usable DRAM together; a running channel that fails is recorded. -/
def Obligations.MemoryUpkeep : Prop :=
  ∀ (o : BitVec 12) (line : Fin 0x800000000) (offset : BitVec 22) (cap rate : BitVec 4) (scrub : Bool) (ch : Fin 4) (s : State),
    let c := s.chip
    let scrubs : Bool := c.fb MEM_CTL_SCRUB_EN || c.fb DRAMC_CONFIG_SCRUB_EN
    (c.mainRuns = true → scrubs = true → Answers .scrubPassOverrun s fun d => d.fb MEM_STATUS_SCRUB_LATE = true ∧ d.mem = c.mem)
    ∧ (c.mainRuns = false ∨ scrubs = false → exec .scrubPassOverrun s = .next s)
    ∧ (∀ p a i, c.mainRuns = true → c.fb MEM_CTL_SCRUB_EN = true → c.scrubNext 130 c.memc.scrubPos = some (p, a, i) →
        (c.arbiterIdle a = false → exec (.scrubRead false line ⟨1, 0⟩ false) s = .next s)
        ∧ (c.arbiterIdle a = true → 0x20 ≤ a →
          let r := (arrayWord a i).1
          let pa := (arrayWord a i).2
          c.defined pa = true → c.poisoned pa = false → sget noErr c.flips pa = ⟨0, 0⟩ → c.stuck r pa = false →
          Answers (.scrubRead false line ⟨1, 0⟩ false) s fun d =>
            d.fb MEM_STATUS_CE_EV = true ∧ d.fb MEM_LAST_CE0_SCRUB = true ∧ d.f MEM_LAST_CE0_ARRAY = arrayId r pa ∧ (∀ x, d.byte x = c.byte x)
            ∧ sget noErr d.flips pa = ⟨0, 0⟩ ∧ d.memc.scrubPos = (if (c.scrubNext 130 (p + 1)).isNone then 0 else p + 1)))
    ∧ (c.mainRuns = true → c.fb DRAMC_CONFIG_SCRUB_EN = true → c.memc.dscrubPos < c.dramTop → c.arbiterIdle (0xA0 + c.dramChannel c.memc.dscrubPos) = false →
        exec (.scrubRead true line ⟨1, 0⟩ false) s = .next s)
    ∧ (let a := c.f MEM_DLT_SEL_ARRAY
       let n := c.f MEM_DLT_SEL_INDEX
       c.takesWrite o.toNat MEM_DLT_ENTRY = true → n < dltSize a →
        Answers (.dltInstall o offset) s (fun d => d.dlt a n = ⟨true, offset.toNat * 4⟩ ∧ d.mem = c.mem ∧ d.regs = c.regs)
        ∧ Answers (.dltRemove o offset) s (fun d => (d.dlt a n).valid = false ∧ d.mem = c.mem ∧ d.regs = c.regs))
    ∧ (c.takesWrite o.toNat DRAMC_CONFIG = true → (c.reg DRAMC_CONFIG).bit 31 = false →
        Answers (.dramcEnable o cap rate scrub) s fun d =>
          d.fb DRAMC_CONFIG_ENABLE = true ∧ d.f DRAMC_CONFIG_CAP = cap.toNat ∧ d.f DRAMC_STATUS_TRAINED = 0 ∧ d.f DRAMC_TOP_SIZE4K = 0
          ∧ d.memc.training = some (some o.toNat) ∧ d.mem = c.mem)
    ∧ (∀ failed, c.memc.training.isSome = true →
        (c.channelsOut failed = [] → Answers (.dramTrainingDone failed) s fun d =>
          d.f DRAMC_STATUS_TRAINED = 15 ∧ d.fb DRAMC_STATUS_DEGRADED = false ∧ d.memc.training = none
          ∧ (c.f DRAMC_CONFIG_CAP = 1 → d.dramTop = 7 * 2 ^ 29))
        ∧ (∀ x, c.channelsOut failed = [x] → Answers (.dramTrainingDone failed) s fun d =>
          d.f DRAMC_STATUS_TRAINED = 15 - 2 ^ x ∧ d.fb DRAMC_STATUS_DEGRADED = true ∧ d.f DRAMC_STATUS_DEG_CH = x ∧ d.memc.training = none
          ∧ (c.f DRAMC_CONFIG_CAP = 1 → d.dramTop = 21 * 2 ^ 27))
        ∧ (2 ≤ (c.channelsOut failed).length → Answers (.dramTrainingDone failed) s fun d =>
          d.f DRAMC_STATUS_TRAINED = 0 ∧ d.dramTop = 0 ∧ d.memc.training = none))
    ∧ ((c.reg DRAMC_STATUS).bit ch = true → Answers (.dramChannelFail ch) s fun d =>
        d.fb DRAMC_STATUS_CH_FAIL = true ∧ d.f DRAMC_STATUS_FAIL_CH = ch.val ∧ d.mem = c.mem
        ∧ (∀ x, x ∈ d.memc.failedCh ↔ x = ch.val ∨ x ∈ c.memc.failedCh)
        ∧ (∀ pa, c.dramChannel pa = ch.val → c.dirty pa = none → d.deadDram .dram pa = true)
        ∧ (c.dayb.frozen = false → ∃ e l, d.dayb.ring = e :: l ∧ e.cls = 3 ∧ e.origin = 209))

/-- R34, R190, R192, R200, R201.  An arbiter with no emergency and no grant in progress serves the oldest of its requests in the order of postmark
and origin: a DMA channel's or the Press's beat is in transfer until the next beat boundary, where it completes, and any other is performed at
once; a beat held too long is cut off and recorded, where MEM_CTL.HOG allows it. -/
def Obligations.ArbiterOrder : Prop :=
  ∀ (arb : Fin 256) (reqs : List BusReq) (hard : Bool) (s : State),
    let c := s.chip
    let q := c.waitingAt arb ++ reqs
    (c.fb MEM_CTL_EMERG = false → c.grantAt arb = none → (∀ x ∈ reqs, c.takesReq arb x = true) → (∀ x ∈ q, c.servable arb x = true) → q.Nodup →
      ∀ r ∈ q, (∀ r' ∈ q, r' = r ∨ r.postmark < r'.postmark ∨ (r.postmark = r'.postmark ∧ r.origin < r'.origin)) →
      (cuttable r.origin = false → r.write = true → mainRegion c.dramTop r.pa = .pattern → c.reachable r.origin r.pa .pattern = true →
        r.origin < 62 → r.pa % 4 = 0 → r.bytes.length = 4 →
        Answers (.arbiterGrant arb reqs ⟨0, 0⟩ hard none) s fun d =>
          (∀ x, x ∈ d.waitingAt arb ↔ x ∈ q ∧ x ≠ r) ∧ d.grantAt arb = none
          ∧ ∀ a, d.byte a = if r.pa ≤ a ∧ a < r.pa + 4 then r.bytes.getD (a - r.pa) 0 else c.byte a)
      ∧ (cuttable r.origin = true → Answers (.arbiterGrant arb reqs ⟨0, 0⟩ hard none) s fun d =>
          (∀ x, x ∈ d.waitingAt arb ↔ x ∈ q ∧ x ≠ r) ∧ d.mem = c.mem
          ∧ ∃ g, d.grantAt arb = some g ∧ g.origin = r.origin ∧ g.cur = some r))
    ∧ (∀ g r, c.grantAt arb = some g → g.cur = some r → c.fb MEM_CTL_EMERG = false → c.waitingAt arb = [] →
        Answers (.arbiterGrant arb [] ⟨0, 0⟩ hard none) s fun d => d.grantAt arb = none ∧ d.mem = (c.serve r).mem)
    ∧ (∀ g r, c.grantAt arb = some g → g.cur = some r → c.fb MEM_CTL_HOG = true → 64 ≤ g.origin → g.origin ≤ 96 →
        Answers (.hogCutoff arb) s fun d => d.fb MEM_STATUS_HOG = true ∧ d.f MEM_CUT_ORIGIN = g.origin ∧ d.f MEM_CUT_ARBITER = arb.val
          ∧ d.grantAt arb = none)
    ∧ (c.grantAt arb = none → exec (.hogCutoff arb) s = .next s)

/-- Registers, one or more of every register group, that the manual gives no effect besides their own bits. -/
def plainRegisters : List Nat :=
  [SYS_SLEEP, SYS_RESUME, SYS_IRQ_EN, SYS_EVT, SYS_PD_SEL, POST_IRQ_EN, POST_STATUS, MEM_CTL, MEM_STATUS, MEM_IRQ_EN, MEM_DLT_SEL, DRAMC_IRQ_EN,
    ICU_SEL, ICU_STAT, DMA_DONE_EV, DMA_HALT_EV, DMA_DONE_EN, PRESS_EVT, PRESS_IRQ_EN, COMP_EVT 0, COMP_IRQ_EN 1, OUT_EVT 2, OUT_IRQ_EN 3,
    AUD_EVT, AUD_IRQ_EN, AIO_EVT, AIO_IRQ_EN, PCIE_EVT, PCIE_IRQ_EN, STOR_EVT, STOR_IRQ_EN, USB_EVT, USB_IRQ_EN, ZOW_EVT, ZOW_IRQ_EN,
    POBOX_EVT, POBOX_EVT_EN, DAYB_EVT, DAYB_IRQ_EN, SENS_IRQ_EN]

/-- R5, R7, R9, R13, R18.  A register write: RW fields take the written bits, RO fields keep theirs, W1C fields lose the bits written 1, W1S fields
gain them; a register with no other effect changes nothing else; an expert register of a block that is not under expert control ignores the
write; a block that does not answer gives a bus error. -/
def Obligations.RegisterAccess : Prop :=
  (∀ (k : Nat) (sb : Bool) (old v : Word), ∀ f ∈ regFields k,
    let n := (writeWord sb k old v).bits f.msb f.lsb
    let o := old.bits f.msb f.lsb
    let w := v.bits f.msb f.lsb
    match f.acc with
    | .rw => n = w
    | .ro | .wo | .rs => n = o
    | .w1c => n = o - (o &&& w)
    | .w1s => n = o ||| w
    | .sl => n = if sb then w else o)
  ∧ ∀ (o : BitVec 12) (b : Fin 26) (off : BitVec 12) (v : Word) (s : State),
    let c := s.chip
    let k := b.val * 0x1000 + off.toNat
    (k ∈ plainRegisters → c.takesWrite o.toNat k = true →
      exec (.regWrite o b off v) s = .next (s.at (c.setReg k (writeWord c.sealBroken k (c.reg k) v))))
    ∧ (off.toNat % 4 = 0 → 0x100 ≤ off.toNat → b.val ≠ 0x18 → c.expert b.val = false → c.answersRead o.toNat k = true →
      exec (.regWrite o b off v) s = .next s)
    ∧ (o.toNat ≠ 62 → b.val ≠ 0x18 → c.answersRead o.toNat k = false → Answers (.regWrite o b off v) s fun d =>
        sget (fun _ => Answer.none) d.answer o.toNat = .busError ∧ d.regs = c.regs ∧ d.mem = c.mem ∧ d.cores = c.cores)

/-- R493 to R507.  The interrupt controller.  An event of an enabled source makes a record with its postmark and origin, or, where the source is
pending, sets MERGED, and where it is active, REFIRE; records become eligible after the window, and are claimed in the order of postmark,
origin and source number, each by the target of its source; an EOI ends the service, and the source pends again where REFIRE stands. -/
def Obligations.InterruptController : Prop :=
  ∀ (o : BitVec 12) (v : Word) (n : Fin 1024) (k : Fin 64) (age : Fin 141) (s : State),
    let c := s.chip
    (∀ t p, c.claimable t = some p → p ∈ c.icu.src ∧ p.2.tgt = t ∧ p.2.st = 1 ∧ p.2.record.postmark + c.icuWin ≤ c.icuNow
      ∧ ∀ q ∈ c.icu.src, q.2.tgt = t → c.eligible q.2 = true → p.2.record.postmark ≤ q.2.record.postmark
        ∧ (p.2.record.postmark = q.2.record.postmark → p.2.record.origin ≤ q.2.record.origin))
    ∧ (∀ t p, icuBank o.toNat = some t → c.answersRead o.toNat ICU_CLAIM = true → c.claimable t = some p →
      (Answers (.icuClaimRead o false) s fun d => sget (fun _ => Answer.none) d.answer o.toNat = .data (claimWord p)
        ∧ d.src p.1 = { p.2 with st := 2 } ∧ sget (fun _ => 0) d.icu.claimPm t = p.2.record.postmark
        ∧ sget (fun _ => 0) d.icu.claimOrg t = p.2.record.origin ∧ (∀ j, j ≠ p.1 → d.src j = c.src j) ∧ d.regs = c.regs ∧ d.mem = c.mem)
      ∧ Answers (.icuClaimRead o true) s fun d => sget (fun _ => Answer.none) d.answer o.toNat = .data (claimWord p) ∧ d.icu = c.icu
        ∧ d.regs = c.regs ∧ d.mem = c.mem)
    ∧ (∀ t, icuBank o.toNat = some t → c.takesWrite o.toNat ICU_EOI = true →
      let key := srcKey t (v.bits 9 0)
      let x := c.src key
      ((32 ≤ v.bits 9 0 ∨ t < 64) → x.st = 2 → x.tgt = t →
        (x.cfg.bit 0 = false → Answers (.icuEoiWrite o v) s fun d => (d.src key).st = 0 ∧ (d.src key).refire = false ∧ d.regs = c.regs
          ∧ (1024 ≤ key ∨ (d.src key).tgt = x.cfg.bits 14 8) ∧ (∀ j, j ≠ key → d.src j = c.src j) ∧ d.mem = c.mem)
        ∧ (x.cfg.bit 0 = true → x.refire = true → srcAssigned key = true → tgtOk (if 1024 ≤ key then x.tgt else x.cfg.bits 14 8) = true →
          Answers (.icuEoiWrite o v) s fun d => (d.src key).st = 1 ∧ (d.src key).record.postmark = c.stamp 253 ∧ (d.src key).record.refire = true
            ∧ (d.src key).record.origin = x.record.origin ∧ (d.src key).refire = false ∧ d.regs = c.regs ∧ d.mem = c.mem))
      ∧ (x.st ≠ 2 ∨ x.tgt ≠ t → Answers (.icuEoiWrite o v) s fun d => d.fb ICU_STAT_EOI_ERR = true ∧ d.icu = c.icu ∧ d.mem = c.mem))
    ∧ (let key := srcKey (v.bits 5 0) (v.bits 10 8)
       let x := c.src key
       c.takesWrite o.toNat ICU_SWI = true → v.bits 5 0 ≠ 62 → x.sense = 2 → x.cfg.bit 0 = true → x.st = 0 → x.level = false → tgtOk x.tgt = true →
        Answers (.icuSwiWrite o v) s fun d => (d.src key).st = 1 ∧ (d.src key).record.postmark = c.srcStamp key ∧ (d.src key).record.origin = o.toNat
          ∧ (∀ j, j ≠ key → d.src j = c.src j) ∧ d.regs = c.regs ∧ d.mem = c.mem)
    ∧ (let key := v.bits 9 0
       let x := c.src key
       c.takesWrite o.toNat ICU_SSET = true →
        (512 ≤ key → x.sense = 2 → x.cfg.bit 0 = true → x.st = 0 → x.level = false → tgtOk x.tgt = true →
          Answers (.icuSsetWrite o v) s fun d => (d.src key).st = 1 ∧ (d.src key).record.postmark = c.srcStamp key ∧ (d.src key).record.origin = o.toNat
            ∧ (∀ j, j ≠ key → d.src j = c.src j) ∧ d.regs = c.regs ∧ d.mem = c.mem)
        ∧ (key < 512 → Answers (.icuSsetWrite o v) s fun d => d.fb ICU_STAT_CFG_ERR = true ∧ d.icu = c.icu ∧ d.mem = c.mem))
    ∧ (∀ key, c.icuSel = some key → c.takesWrite o.toNat ICU_CFG = true → Answers (.icuCfgWrite o v) s fun d =>
        (d.src key).cfg = v &&& (if 1024 ≤ key then 0x1F else if 128 ≤ key ∧ key < 320 then 0x7F3F else 0x7F1F)
        ∧ (v.bit 0 = false → (d.src key).st = (if (c.src key).st = 1 then 0 else (c.src key).st) ∧ (d.src key).refire = false)
        ∧ (v.bit 19 = true → (d.src key).merged = false) ∧ (∀ j, j ≠ key → d.src j = c.src j) ∧ d.mem = c.mem)
    ∧ (let key := srcKey k n
       let x := c.src key
       c.mainRuns = true → k.val ≠ 62 → x.cfg.bit 0 = true → x.sense = 2 → x.level = false → c.srcInput key = true → srcAssigned key = true →
        (x.st = 0 → tgtOk x.tgt = true → Answers (.sourceEvent n k age) s fun d =>
          (d.src key).st = 1 ∧ (d.src key).record.postmark = c.srcStamp key - age.val ∧ (d.src key).record.origin = c.srcOrigin key
          ∧ (∀ j, j ≠ key → d.src j = c.src j) ∧ d.regs = c.regs ∧ d.mem = c.mem)
        ∧ (x.st = 1 → Answers (.sourceEvent n k age) s fun d => (d.src key).merged = true ∧ (d.src key).st = 1 ∧ (d.src key).record = { x.record with merged := true }
          ∧ d.regs = c.regs ∧ d.mem = c.mem)
        ∧ (x.st = 2 → x.refire = false → Answers (.sourceEvent n k age) s fun d => (d.src key).refire = true ∧ (d.src key).st = 2
          ∧ d.regs = c.regs ∧ d.mem = c.mem))
    ∧ (c.mainRuns = true → Answers .recordEligible s fun d => d.mem = c.mem ∧ ∀ key ∈ c.icu.src.map (·.1),
        let x := c.src key
        ((d.src key).st = x.st ∧ (d.src key).record.postmark = x.record.postmark ∧ (d.src key).record.origin = x.record.origin)
        ∧ (c.eligible x = true → x.moderated = false → (d.src key).record.released = true)
        ∧ (c.eligible x = false → d.src key = x))
    ∧ (c.mainRuns = true → Answers .modRelease s fun d => d.regs = c.regs ∧ d.mem = c.mem ∧ ∀ key ∈ c.icu.src.map (·.1),
        let x := c.src key
        (c.eligible x = true → x.moderated = true → c.modDue x = true → (d.src key).record.released = true)
        ∧ (x.moderated = false ∨ c.eligible x = false → d.src key = x))
    ∧ (∀ level, c.power.state = .nap → srcAssigned (srcKey k n) = true → (c.src (srcKey k n)).cfg.bit 0 = true →
        Answers (.napWakeLatch n k level) s fun d => srcKey k n ∈ d.power.napLatch ∧ d.icu = c.icu ∧ d.regs = c.regs ∧ d.mem = c.mem)

/-- R512 to R518.  Timer channels: a tick counts up to TOP and wraps, a wrap ends a one-shot, the compare event comes with the tick that reaches
the value in force; a capture copies the count, and overwriting one sets OVF; a start sets the count to 0, a group start to the phase. -/
def Obligations.TimerResults : Prop :=
  ∀ (o : BitVec 12) (k : Fin 32) (v : Word) (groups : BitVec 8) (s : State),
    let c := s.chip
    let ticked (d : Chip) : Prop :=
      d.reg (TMR_XCOUNT k) = (if (c.reg (TMR_TOP k)).toNat ≤ (c.reg (TMR_XCOUNT k)).toNat then 0 else c.reg (TMR_XCOUNT k) + 1)
      ∧ d.fb (TMR_CS_WRAPF k) = (c.wraps k || c.fb (TMR_CS_WRAPF k))
      ∧ d.fb (TMR_CS_EN k) = (c.fb (TMR_CS_EN k) && !(c.wraps k && c.fb (TMR_CS_ONESHOT k)))
      ∧ d.fb (TMR_CS_CMPF k) = (c.compares k || c.fb (TMR_CS_CMPF k))
      ∧ (∀ j, j ≠ TMR_XCOUNT k → j ≠ TMR_CS k → d.reg j = c.reg j) ∧ d.mem = c.mem
    (c.counting k = true → Answers (.timerTick k) s ticked)
    ∧ (c.counting k = false → exec (.timerTick k) s = .next s)
    ∧ (c.counting k = true → c.wraps k = true → Answers (.timerWrap k) s ticked)
    ∧ (c.counting k = true → c.compares k = true → Answers (.compareEvent k) s ticked)
    ∧ (sget off c.tmr.capture k = true → Answers (.captureEvent k) s fun d =>
        d.reg (TMR_XCAP k) = c.reg (TMR_XCOUNT k) ∧ d.fb (TMR_CS_CAPF k) = true
        ∧ d.fb (TMR_CS_OVF k) = (c.fb (TMR_CS_CAPF k) || c.fb (TMR_CS_OVF k)) ∧ sget off d.tmr.capture k = false ∧ d.mem = c.mem)
    ∧ (c.answersRead o.toNat (TMR_XCAP k) = true → ∀ peek, Answers (.tmrXcapRead o k peek) s fun d =>
        sget (fun _ => Answer.none) d.answer o.toNat = .data (c.reg (TMR_XCAP k)) ∧ d.fb (TMR_CS_CAPF k) = (peek && c.fb (TMR_CS_CAPF k))
        ∧ (∀ j, j ≠ TMR_CS k → d.reg j = c.reg j) ∧ d.mem = c.mem)
    ∧ (c.takesWrite o.toNat (TMR_CS k) = true → Answers (.tmrCsWrite o k v) s fun d =>
        d.fb (TMR_CS_EN k) = v.bit 0 ∧ d.fb (TMR_CS_OVF k) = (c.fb (TMR_CS_OVF k) && !v.bit 19) ∧ d.fb (TMR_CS_CAPF k) = c.fb (TMR_CS_CAPF k)
        ∧ d.reg (TMR_XCOUNT k) = (if v.bit 0 = true ∧ c.fb (TMR_CS_EN k) = false then 0 else c.reg (TMR_XCOUNT k)) ∧ d.mem = c.mem)
    ∧ (c.takesWrite o.toNat (TMR_TOP k) = true → Answers (.tmrTopWrite o k v) s fun d =>
        d.reg (TMR_TOP k) = v ∧ (∀ j, j ≠ TMR_TOP k → d.reg j = c.reg j) ∧ d.mem = c.mem)
    ∧ (c.takesWrite o.toNat (TMR_XCMP k) = true → Answers (.tmrXcmpWrite o k v) s fun d =>
        d.reg (TMR_XCMP k) = v ∧ d.reg (TMR_XCMPACT k) = v ∧ (∀ j, j ≠ TMR_XCMP k → j ≠ TMR_XCMPACT k → d.reg j = c.reg j) ∧ d.mem = c.mem)
    ∧ (c.takesWrite o.toNat TMR_XGSTART = true → Answers (.groupStart o groups) s fun d => d.mem = c.mem ∧
        if groups.toNat.testBit (k.val / 4) = true ∧ c.f (TMR_XCFG_ARM k) ≠ 0 then d.fb (TMR_CS_EN k) = true ∧ d.reg (TMR_XCOUNT k) =
          (if (c.reg (TMR_XPHASE k)).toNat ≤ (c.reg (TMR_TOP k)).toNat then c.reg (TMR_XPHASE k) else 0)
        else d.reg (TMR_CS k) = c.reg (TMR_CS k) ∧ d.reg (TMR_XCOUNT k) = c.reg (TMR_XCOUNT k))
    ∧ (c.takesWrite o.toNat TMR_XGSTART = true → Answers (.groupStop o groups) s fun d => d.mem = c.mem
        ∧ d.fb (TMR_CS_EN k) = (c.fb (TMR_CS_EN k) && !groups.toNat.testBit (k.val / 4)) ∧ d.reg (TMR_XCOUNT k) = c.reg (TMR_XCOUNT k))
    ∧ Answers (.gateChange k) s (fun d => d.regs = c.regs ∧ d.mem = c.mem
        ∧ (c.xf (TMR_XCFG_GSEL k) 0 = 1 → sget off d.tmr.gate k = c.fnLevel (.tgate k))
        ∧ (c.xf (TMR_XCFG_GSEL k) 0 = 2 → sget off d.tmr.gate k = c.tout ((k.val + 31) % 32)))

/-- R521 to R525.  Watchdogs: a microsecond takes one from REMAIN, WARNF is set when REMAIN comes to WARN, at 0 EXPF is set: watchdog 0 causes a W
reset, another starts its count again; a kick takes its two words in order from the servicing core, any other is a bad kick; after LOCK a write
changes the flags alone. -/
def Obligations.WatchdogResults : Prop :=
  ∀ (o : BitVec 12) (w : Fin 16) (v : Word) (s : State),
    let c := s.chip
    let n := c.f (WDT_REMAIN_US w)
    let counts := c.fb (WDT_CTL_EN w) = true ∧ c.power.seq = none ∧ c.power.state = .run ∧ c.wdtHeld w = false ∧ sget off c.wdt.stopped w = false
    let down (d : Chip) : Prop := d.f (WDT_REMAIN_US w) = n - 1
      ∧ d.fb (WDT_CTL_WARNF w) = (c.fb (WDT_CTL_WARNF w) || (!sget off c.wdt.warned w && decide (n - 1 ≤ c.wdtWarn w)))
      ∧ d.fb (WDT_CTL_EXPF w) = c.fb (WDT_CTL_EXPF w) ∧ (∀ j, j ≠ WDT_REMAIN w → j ≠ WDT_CTL w → d.reg j = c.reg j) ∧ d.mem = c.mem
    (counts → 2 ≤ n → Answers (.wdtTick w) s down)
    ∧ (c.fb (WDT_CTL_EN w) = false → exec (.wdtTick w) s = .next s)
    ∧ (counts → 2 ≤ n → sget off c.wdt.warned w = false → n - 1 ≤ c.wdtWarn w → Answers (.wdtWarn w) s down)
    ∧ (counts → n ≤ 1 → w.val ≠ 0 → c.fb (WDT_CTL_ACTION w) = false → Answers (.wdtExpire w) s fun d =>
        d.fb (WDT_CTL_EXPF w) = true ∧ d.f (WDT_REMAIN_US w) = max 1 (c.f (WDT_TIMEOUT_US w)) ∧ d.cores = c.cores ∧ d.mem = c.mem)
    ∧ (counts → n ≤ 1 → w.val = 0 → Answers (.wdtExpire w) s fun d => d.f SYS_RSTCAUSE_CLASS = 3 ∧ d.f SYS_RSTCAUSE_SOURCE = 3)
    ∧ (c.mainRuns = true → o.toNat = c.wdtSvc w → Answers (.wdtKick o w 0x0000A55A) s fun d => sget off d.wdt.kick w = true ∧ d.regs = c.regs
        ∧ d.mem = c.mem)
    ∧ (c.mainRuns = true → o.toNat = c.wdtSvc w → sget off c.wdt.kick w = true → c.fb (WDT_CTL_EN w) = true →
        Answers (.wdtKick o w 0x00005AA5) s fun d => sget off d.wdt.kick w = false ∧ d.f (WDT_REMAIN_US w) = max 1 (c.f (WDT_TIMEOUT_US w))
          ∧ d.fb (WDT_CTL_BAD_KICK w) = c.fb (WDT_CTL_BAD_KICK w) ∧ d.mem = c.mem)
    ∧ (c.mainRuns = true → o.toNat ≠ c.wdtSvc w ∨ (v ≠ 0x0000A55A ∧ (v ≠ 0x00005AA5 ∨ sget off c.wdt.kick w = false)) →
        c.fb (WDT_CTL_BADEXP w) = false → Answers (.wdtKick o w v) s fun d => d.fb (WDT_CTL_BAD_KICK w) = true ∧ sget off d.wdt.kick w = false
          ∧ d.f (WDT_REMAIN_US w) = n ∧ d.mem = c.mem)
    ∧ (c.mainRuns = true → (c.reg (WDT_CTL w)).bit 1 = false → Answers (.wdtCtlWrite w v) s fun d =>
        d.fb (WDT_CTL_EN w) = v.bit 0 ∧ d.fb (WDT_CTL_EXPF w) = (c.fb (WDT_CTL_EXPF w) && !v.bit 17) ∧ d.mem = c.mem
        ∧ (w.val = 0 → d.fb (WDT_CTL_ACTION w) = false)
        ∧ (v.bit 0 = true → c.fb (WDT_CTL_EN w) = false → d.f (WDT_REMAIN_US w) = max 1 (c.f (WDT_TIMEOUT_US w))))
    ∧ (c.mainRuns = true → (c.reg (WDT_CTL w)).bit 1 = true → Answers (.wdtCtlWrite w v) s fun d =>
        (d.reg (WDT_CTL w)).bits 13 0 = (c.reg (WDT_CTL w)).bits 13 0 ∧ (d.reg (WDT_CTL w)).bits 21 19 = (c.reg (WDT_CTL w)).bits 21 19
        ∧ (∀ j, j ≠ WDT_CTL w → d.reg j = c.reg j) ∧ d.mem = c.mem)

/-- R529 to R538, R541.  Pins: the port registers of a bank are written by its owner alone; a change of function begins a hold, in which
further writes wait, and ends with the new functions in force; a release lets the pads of a frozen bank take their registers' values; a
bank without its supply drives nothing; the filter's accepted level is the pin's. -/
def Obligations.PinResults : Prop :=
  ∀ (o : BitVec 12) (b : Fin 6) (i : Fin 24) (p : Fin 192) (v : Word) (s : State),
    let c := s.chip
    let owned := c.fb (GPIO_OWN_VALID b) = false ∨ c.f (GPIO_OWN_OWNER b) = o.toNat
    let port (key : Nat) (w : Word) (d : Chip) : Prop := d.reg key = w ∧ (∀ j, j ≠ key → d.reg j = c.reg j) ∧ d.pins = c.pins ∧ d.mem = c.mem
    let code (j : Fin 8) := v.bits (4 * j.val + 3) (4 * j.val)
    (owned → (c.takesWrite o.toNat (GPIO_OUT b) = true → Answers (.gpioOutWrite o b v) s (port (GPIO_OUT b) v))
      ∧ (c.takesWrite o.toNat (GPIO_SET b) = true → Answers (.gpioSetWrite o b v) s (port (GPIO_OUT b) (c.reg (GPIO_OUT b) ||| v)))
      ∧ (c.takesWrite o.toNat (GPIO_CLR b) = true → Answers (.gpioClrWrite o b v) s (port (GPIO_OUT b) (c.reg (GPIO_OUT b) &&& ~~~v)))
      ∧ (c.takesWrite o.toNat (GPIO_OE b) = true → Answers (.gpioOeWrite o b v) s (port (GPIO_OE b) v)))
    ∧ (c.fb (GPIO_OWN_VALID b) = true → c.f (GPIO_OWN_OWNER b) ≠ o.toNat → c.takesWrite o.toNat (GPIO_OUT b) = true →
        Answers (.gpioOutWrite o b v) s fun d => d.regBit GPIO_STAT b = true ∧ d.reg (GPIO_OUT b) = c.reg (GPIO_OUT b)
          ∧ (∀ j, j ≠ GPIO_STAT → d.reg j = c.reg j) ∧ d.mem = c.mem)
    ∧ (c.takesWrite o.toNat (PMUX_FUNC i) = true →
        (sget (fun _ => none) c.pins.hold i = none → c.bankFrozen (i.val / 4) = false → (∀ j : Fin 8, pinFn (8 * i.val + j.val) (code j) ≠ .none) →
          Answers (.pmuxFuncWrite o i v) s fun d => d.reg (PMUX_FUNC i) = v ∧ d.fb PMUX_STAT_FUNC_ERR = c.fb PMUX_STAT_FUNC_ERR ∧ d.mem = c.mem
            ∧ d.pins.func = c.pins.func
            ∧ if (∀ j : Fin 8, code j = c.muxCode (8 * i.val + j.val)) then sget (fun _ => none) d.pins.hold i = none
              else ∃ h, sget (fun _ => none) d.pins.hold i = some h ∧ h.deferred = []
                ∧ ∀ j : Fin 8, 8 * i.val + j.val ∈ h.pins ↔ code j ≠ c.muxCode (8 * i.val + j.val))
        ∧ (∀ h, sget (fun _ => none) c.pins.hold i = some h → Answers (.pmuxFuncWrite o i v) s fun d =>
            sget (fun _ => none) d.pins.hold i = some ⟨h.pins, h.deferred ++ [(some o.toNat, v)]⟩ ∧ d.regs = c.regs ∧ d.mem = c.mem))
    ∧ (∀ h, sget (fun _ => none) c.pins.hold i = some h → h.deferred = [] → p.val ∈ h.pins → Answers (.pmuxHoldEnd i) s fun d =>
        sget (fun _ => none) d.pins.hold i = none ∧ d.pinCode p = c.muxCode p ∧ d.regs = c.regs ∧ d.mem = c.mem)
    ∧ (c.takesWrite o.toNat (GPIO_CFG b) = true → c.bankFrozen b = true → p.val / 32 = b.val → Answers (.gpioRelease o b) s fun d =>
        d.bankFrozen b = false ∧ d.pinCode p = c.muxCode p ∧ sget (fun _ => none) d.pins.pad p = none ∧ d.mem = c.mem)
    ∧ (∀ level, c.mainRuns = true → c.power.state ≠ .dormant → (c.pad p).enable = false → Answers (.pinFilterAccept p level) s fun d =>
        d.pinLevel p = level ∧ (∀ q, q ≠ p.val → d.pinLevel q = c.pinLevel q) ∧ d.mem = c.mem)
    ∧ (∀ present, Answers (.bankSupplyChange b present) s fun d => sget off d.pins.noSupply b = !present ∧ d.regs = c.regs ∧ d.mem = c.mem
        ∧ (present = false → p.val / 32 = b.val → (d.pad p).enable = false))

/-- What a main-side reset of class `cls` with this SOURCE leaves: the cause, no core but Courier 0 released, every core but it in its start
state, the registers of reset classes H, W, S and T at their reset values, and watchdog 0 started. -/
def ResetTo (cls source : Nat) (d : Chip) : Prop :=
  d.f SYS_RSTCAUSE_CLASS = cls ∧ d.f SYS_RSTCAUSE_SOURCE = source ∧ d.regBit SYS_RSTCAUSE (8 + cls) = true
    ∧ d.reg SYS_RUN_LO = 1 ∧ (d.reg SYS_RUN_HI).bits 29 0 = 0 ∧ (d.reg SYS_EXPERT).bits 25 0 = 0 ∧ d.f MEM_DLT_SEL_INDEX = 0
    ∧ (∀ j, j < 32 → d.reg (TMR_TOP j) = 0xFFFFFFFF ∧ d.fb (TMR_CS_EN j) = false) ∧ d.power.state = .run ∧ d.dma = [] ∧ ∀ k, 0 < k → k < 62 → d.core k = Core.reset k

/-- R543 to R547, R569.  Reset: each cause starts a sequence of its class and source, the Dispatch key alone among the words written to SYS_RESET;
nRESET low holds the sequence until its rise lets Courier 0 enter the boot ROM; a U reset names a unit that exists, which is busy until it ends;
a core is released where its power domain is on. -/
def Obligations.ResetResults : Prop :=
  ∀ (o : BitVec 12) (v : Word) (u : BitVec 9) (sel : BitVec 3) (k : Fin 62) (s : State),
    let c := s.chip
    (c.power.seq = none →
      (c.takesWrite o.toNat SYS_RESET = true → Answers (.sysResetKey o 0x00005AFE) s (ResetTo 4 4))
      ∧ (c.mainPowered = true → Answers .nresetAssert s fun d => ResetTo 2 2 d ∧ d.power.nresetLow = true ∧ d.power.seq = some ⟨2, 2⟩)
      ∧ (c.mainRuns = true → c.zow.treset = true → c.fb ZOW_CTL_T_ACCEPT = true → Answers .tReset s (ResetTo 5 7))
      ∧ (c.power.vsb = true → c.power.mainEn = true → c.power.pgood = false → c.power.state ≠ .dormant → Answers (.pgoodRise sel) s fun d =>
          ResetTo 1 1 d ∧ d.f SYS_PROFILE_PINS = sel.toNat ∧ d.power.pgood = true ∧ d.dramTop = 0))
    ∧ (c.takesWrite o.toNat SYS_RESET = true → v ≠ 0x00005AFE → Answers (.sysResetKey o v) s fun d =>
        d.fb SYS_EVT_KEY_ERR = true ∧ (∀ j, j ≠ SYS_EVT → d.reg j = c.reg j) ∧ d.cores = c.cores ∧ d.mem = c.mem)
    ∧ (∀ q, c.power.seq = some q → c.power.pmHold = false → Answers .nresetDeassert s fun d =>
        d.power.nresetLow = false ∧ d.power.seq = none ∧ d.f SYS_BOOT_RESULT = 1 ∧ d.fb (WDT_CTL_EN 0) = true ∧ d.f (WDT_REMAIN_US 0) = 2000000
        ∧ d.mem = c.mem)
    ∧ (c.takesWrite o.toNat SYS_URST = true →
        (urstValid u.toNat = true → Answers (.sysUrstWrite o u) s fun d => u.toNat ∈ d.power.urst
          ∧ (∀ x, 2 ≤ u.toNat → u.toNat < 10 → x = u.toNat - 2 → d.regBit SYS_RUN_LO x = false ∧ d.core x = Core.reset x))
        ∧ (urstValid u.toNat = false → Answers (.sysUrstWrite o u) s fun d => d.fb SYS_EVT_URST_ERR = true
          ∧ (∀ j, j ≠ SYS_EVT → d.reg j = c.reg j) ∧ d.cores = c.cores ∧ d.mem = c.mem))
    ∧ Answers (.unitResetDone u) s (fun d => u.toNat ∉ d.power.urst ∧ (∀ x, x ≠ u.toNat → (x ∈ d.power.urst ↔ x ∈ c.power.urst)) ∧ d.regs = c.regs
        ∧ d.cores = c.cores ∧ d.mem = c.mem)
    ∧ (let hi := decide (32 ≤ k.val)
       let key := if hi then SYS_RUN_HI else SYS_RUN_LO
       let i := k.val % 32
       c.takesWrite o.toNat key = true → Answers (.sysRunWrite o hi v) s fun d =>
        d.regBit key i = (c.regBit key i || (v.bit i && c.domainUp (coreDomain k)))
        ∧ d.core k = (if v.bit i = true ∧ c.regBit key i = false ∧ c.domainUp (coreDomain k) = true then
            (if 8 ≤ k.val then { Core.reset k with ubase := 0x10, useUbase := 0x10 } else Core.reset k) else c.core k)
        ∧ (v.bit i = true → c.regBit key i = false → c.domainUp (coreDomain k) = false → d.fb SYS_EVT_PD_ERR = true) ∧ d.mem = c.mem)

/-- R19, R548 to R557, R585, R627. Power: supplies, MAIN_EN and PGOOD, Nap and Dormant and their wakes, and the power domains that SYS_PD_CTL switches
where the condition of R556 holds, with PD_ERR where it does not; a domain that comes out of isolation loads its replicas from the master. R565,
R567. Fuses: an operation is refused with its RESULT where the fuse lock is set, the slot is not free or does not exist, no other valid title key
would remain, or the rollback count is full; else BUSY is set, and its end burns the fuses. R546, R561 to R563, R566, R569, R570. The boot ROM on
Courier 0, one step in an idle step (log entry 167): a flash that does not answer, no header, and no slot whose manifest passes end the boot with
their RESULT, a Daybook entry of KIND 8, watchdog 0 stopped and Courier 0 in WAIT, but a first slot that fails is followed by the other; a profile's
entry that may not be applied is skipped with PROFILE_ERR; a DRAM that did not train ends the boot; and the ROM's last step enters the image at its
entry, outside translation with csr_ubase 0. -/
def Obligations.PowerAndFuses : Prop :=
  (
    ∀ (o : BitVec 12) (v : Word) (d0 : Fin 118) (kept : Bool) (s : State),
      let c := s.chip
      let x := sget domain0 c.power.domain (c.f SYS_PD_SEL_DOMAIN)
      let dom (d : Chip) := sget domain0 d.power.domain (c.f SYS_PD_SEL_DOMAIN)
      (c.takesWrite o.toNat SYS_PD_CTL = true → c.f SYS_PD_SEL_DOMAIN < 118 →
        (c.switchable (c.f SYS_PD_SEL_DOMAIN) = true → x.pwr = true → x.iso = false → v.bit 0 = true → v.bit 1 = true →
          Answers (.sysPdCtlWrite o v) s fun d => dom d = { x with iso := true } ∧ d.regs = c.regs ∧ d.mem = c.mem)
        ∧ (c.switchable (c.f SYS_PD_SEL_DOMAIN) = true → x.pwr = true → x.iso = true → v.bit 0 = false → v.bit 1 = true →
          Answers (.sysPdCtlWrite o v) s fun d => dom d = { x with pwr := false, ok := false } ∧ (c.memc.cache = [] → d.regs = c.regs))
        ∧ (c.switchable (c.f SYS_PD_SEL_DOMAIN) = true → x.pwr = true → x.iso = true → x.ok = true → v.bit 0 = true → v.bit 1 = false →
          Answers (.sysPdCtlWrite o v) s fun d => dom d = { x with iso := false } ∧ d.regs = c.regs ∧ d.mem = c.mem
            ∧ ∀ i, Config.islandDomain i = c.f SYS_PD_SEL_DOMAIN → (c.replica i).toNat ≤ c.now → d.replica i = c.count)
        ∧ (c.switchable (c.f SYS_PD_SEL_DOMAIN) = false → Answers (.sysPdCtlWrite o v) s fun d =>
            d.fb SYS_EVT_PD_ERR = true ∧ dom d = x ∧ (∀ j, j ≠ SYS_EVT → d.reg j = c.reg j) ∧ d.mem = c.mem))
      ∧ ((sget domain0 c.power.domain d0).pwr = true → Answers (.pdRampDone d0) s fun d =>
          sget domain0 d.power.domain d0 = { sget domain0 c.power.domain d0 with ok := true } ∧ d.regs = c.regs ∧ d.mem = c.mem)
      ∧ Answers .vsbRise s (fun d => d.count = 0 ∧ d.power.vsb = true ∧ d.power.mainEn = false ∧ d.power.state = .off ∧ d.f SYS_RSTCAUSE_CLASS = 0
          ∧ d.regBit SYS_RSTCAUSE 8 = true ∧ d.dayb.epoch.isSome = true ∧ d.fb DBG_STATUS_SESSION = false)
      ∧ Answers .vsbFall s (fun d => d.power.vsb = false ∧ d.power.mainEn = false ∧ d.power.pgood = false
          ∧ d.power.state = (if c.power.vsbF then .keep else .off) ∧ ∀ k, k < 62 → d.core k = Core.reset k)
      ∧ (c.power.vsb = true → c.power.mainEnHeld = false → Answers .mainEnAutoRise s fun d => d.power.mainEn = true ∧ d.mem = c.mem
          ∧ (c.power.mainEn = false → c.dayb.frozen = false → ∃ e l, d.dayb.ring = e :: l ∧ e.cls = 0 ∧ e.kind = 9 ∧ e.data = 1))
      ∧ (c.power.mainEn = true → c.power.pgood = true → Answers .pgoodFall s fun d => d.power.pgood = false ∧ d.power.state = .off
          ∧ d.power.seq = none ∧ ∀ k, k < 62 → d.core k = Core.reset k)
      ∧ (c.mainRuns = true → c.f SYS_SLEEP_MODE = 1 → napBlock c = 0 → Answers .napEntry s fun d => d.power.state = .nap ∧ d.regs = c.regs
          ∧ d.cores = c.cores ∧ d.mem = c.mem)
      ∧ (c.power.state = .nap → c.power.napLatch ≠ [] → Answers .napWake s fun d => d.power.state = .run ∧ d.power.napLatch = []
          ∧ d.fb SYS_EVT_WAKE = true ∧ d.cores = c.cores ∧ d.mem = c.mem)
      ∧ (c.mainRuns = true → c.f SYS_SLEEP_MODE = 2 → napBlock c = 0 → Answers .dormantEntry s fun d => d.power.state = .dormant
          ∧ d.power.pgood = false ∧ d.power.mainEn = false ∧ d.power.retained.isSome = true ∧ (∀ k, k < 62 → d.core k = Core.reset k)
          ∧ (c.memc.cache = [] → ∀ a, a < 0x800000000 → d.byte a = c.byte a))
      ∧ (c.power.state = .dormant → c.power.vsb = true → c.power.wakeLatched = true →
          (Answers (.dormantWake kept) s fun d => d.power.state = .run ∧ d.power.mainEn = true ∧ d.power.pgood = true ∧ d.power.wakeLatched = false
            ∧ d.fb SYS_RSTCAUSE_DORMANT_WAKE = true ∧ d.reg SYS_RUN_LO = 1 ∧ d.reg SYS_RUN_HI = 0 ∧ (kept = true → d.mem = c.mem))
          ∧ Answers .pgoodTimeout s fun d => d.power.state = .dormant ∧ d.power.mainEn = false ∧ d.power.wakeLatched = false ∧ d.mem = c.mem
            ∧ (c.dayb.frozen = false → ∃ e l, d.dayb.ring = e :: l ∧ e.kind = 9 ∧ e.data = 0)))
  ∧
  (
    ∀ (o : BitVec 12) (n : Fin 4) (op : Fin 4) (s : State),
      let c := s.chip
      let cmd : Instr := match op with
        | 0 => .fuseProgramTitle o n | 1 => .fuseProgramDebug o n | 2 => .fuseRevokeTitle o n | 3 => .fuseRaiseRollback o
      let slot := if op.val = 3 then 0 else n.val
      let t := sget keySlot0 c.power.fuses.title n
      (c.takesWrite o.toNat SYS_XFUSE_CMD = true → c.fb SYS_XFUSE_CMD_BUSY = false →
        (fuseRefusal (op.val + 1) slot c = 0 → Answers cmd s fun d => d.fb SYS_XFUSE_CMD_BUSY = true ∧ d.f SYS_XFUSE_CMD_OP = op.val + 1
          ∧ d.f SYS_XFUSE_CMD_SLOT = slot ∧ (∃ l, d.power.fuseOp = some (op.val + 1, slot, l)) ∧ d.power.fuses = c.power.fuses ∧ d.mem = c.mem)
        ∧ (fuseRefusal (op.val + 1) slot c ≠ 0 → Answers cmd s fun d => d.f SYS_XFUSE_CMD_RESULT = fuseRefusal (op.val + 1) slot c
          ∧ d.fb SYS_XFUSE_CMD_BUSY = false ∧ d.power = c.power ∧ d.mem = c.mem))
      ∧ (c.fb SYS_BOOT_FUSE_LOCK = true → fuseRefusal (op.val + 1) slot c = 1)
      ∧ (c.fb SYS_BOOT_FUSE_LOCK = false →
          (t.programmed = false → t.revoked = false → fuseRefusal 1 n c = 0)
          ∧ (t.programmed = true → fuseRefusal 1 n c = 2)
          ∧ (2 ≤ n.val → fuseRefusal 2 n c = 5)
          ∧ (t.revoked = false → (∀ m : Fin 4, m ≠ n → (sget keySlot0 c.power.fuses.title m).programmed = false) → fuseRefusal 3 n c = 3)
          ∧ (64 ≤ c.power.fuses.rollback → fuseRefusal 4 0 c = 4))
      ∧ (∀ slot l, c.power.fuseOp = some (1, slot, l) → Answers .fuseOpDone s fun d => d.fb SYS_XFUSE_CMD_BUSY = false
          ∧ d.f SYS_XFUSE_CMD_RESULT = 0 ∧ d.power.fuseOp = none ∧ (sget keySlot0 d.power.fuses.title slot).programmed = true
          ∧ (sget keySlot0 d.power.fuses.title slot).digest = l ∧ (∀ j, j ≠ slot → sget keySlot0 d.power.fuses.title j = sget keySlot0 c.power.fuses.title j)
          ∧ d.power.fuses.debug = c.power.fuses.debug ∧ d.power.fuses.rollback = c.power.fuses.rollback ∧ d.mem = c.mem)
      ∧ (∀ slot l, c.power.fuseOp = some (4, slot, l) → Answers .fuseOpDone s fun d =>
          d.power.fuses.rollback = min 64 (c.power.fuses.rollback + 1) ∧ d.power.fuses.title = c.power.fuses.title ∧ d.mem = c.mem))
  ∧
  (
    ∀ (c : Chip) (b : Boot), c.power.boot = some b → c.mainRuns = true → (∀ j, 1 ≤ j → j < 8 → c.regBit SYS_RUN_LO j = false) →
      c.romWaits b = false →
      let d := bootTick c
      let failed (result : Nat) : Prop := d.f SYS_BOOT_RESULT = result ∧ d.fb (WDT_CTL_EN 0) = false ∧ (d.core 0).waiting = true
        ∧ d.power.boot = none ∧ d.mem = c.mem ∧ (∀ k, 0 < k → d.core k = c.core k)
        ∧ (c.dayb.frozen = false → ∃ e l, d.dayb.ring = e :: l ∧ e.cls = 0 ∧ e.kind = 8 ∧ e.origin = 251)
      (b.phase = 3 → c.flashMute = true → failed 5)
      ∧ (b.phase = 3 → c.flashMute = false → c.headerOk = false → failed 2)
      ∧ (b.phase = 3 → c.flashMute = false → c.headerOk = true → b.written = [] →
          let n := if b.second then b.slot else if c.f SYS_BOOT_TRIES = 3 then 1 - c.activeSlot.getD 0 else c.activeSlot.getD 0
          manifestSlot c.power.fuses (c.manifest n) ((segmentIds (c.manifest n)).all fun i => c.segmentFits n (c.manifest n) i) = none →
          (b.second = true → failed 2)
          ∧ (b.second = false → d.power.boot = some { b with slot := 1 - n, second := true, entries := [] } ∧ d.regs = c.regs ∧ d.mem = c.mem
            ∧ d.cores = c.cores))
      ∧ (∀ k v t, b.phase = 4 → b.entries = (k, v) :: t → bootSkips k = true →
          d.fb SYS_EVT_PROFILE_ERR = true ∧ d.power.boot = some { b with entries := t } ∧ d.mem = c.mem ∧ d.cores = c.cores
          ∧ ∀ j, j ≠ SYS_EVT → d.reg j = c.reg j)
      ∧ (b.phase = 4 → b.entries = [] → d = c.setBoot (some { b with phase := 5 }))
      ∧ (b.phase = 5 → c.fb DRAMC_CONFIG_ENABLE = true → c.dramTop = 0 → failed 4)
      ∧ (b.phase = 8 → let x := d.core 0
          x.pc = Word.of (frameNum (c.manifest b.slot) 12 4) ∧ x.ubase = 0 ∧ x.useUbase = 0 ∧ x.useRT = false ∧ x.status.bit 0 = true
          ∧ x.status.bit 2 = false ∧ d.power.boot = none ∧ d.regs = c.regs ∧ d.mem = c.mem ∧ ∀ k, 0 < k → d.core k = c.core k))

/-- The SECDED words of pattern memory that `n` bytes at `pa` touch have been written, hold no error and no poison and are not hard, and their
power domains answer. -/
def CleanPattern (c : Chip) (pa n : Nat) : Prop :=
  ∀ j, j < n → mainRegion c.dramTop (pa + j) = .pattern ∧ sget noErr c.flips (eccKey .pattern (pa + j)) = ⟨0, 0⟩
    ∧ c.poisoned (eccKey .pattern (pa + j)) = false ∧ c.defined (eccKey .pattern (pa + j)) = true
    ∧ c.stuck .pattern (eccKey .pattern (pa + j)) = false ∧ c.domainUp (c.regionDomain .pattern (pa + j)) = true

/-- R324, R325, R343 to R355.  A DMA channel starts at its head, running or paused; a transfer reads bytes into the buffer and writes them where
the envelope says; the last unit of the last envelope ends the list as done; a pause discards what is buffered and counts it, an abort halts
the channel with the bytes written, an engine fault stops every channel. -/
def Obligations.DmaResults : Prop :=
  ∀ (i : Fin 32) (s : State),
    let c := s.chip
    let x := c.dmaCh i
    let e := envelope x.env
    (c.dmaRuns = true →
      (c.fb DMA_STATUS_ENGINE_HALT = false → c.dmaState i ≠ 1 → c.dmaState i ≠ 2 →
        memRegion (mainRegion c.dramTop (c.f (DMA_HEAD_ADDR i) * 32)) = true → Answers (.dmaGo i) s fun d =>
          d.dmaState i = (if c.regBit DMA_ENABLE i then 1 else 2) ∧ d.regBit DMA_ACTIVE i = true ∧ d.f (DMA_CH_STAT_RESULT i) = 0
          ∧ d.reg (DMA_CH_OFF i) = 0 ∧ d.f (DMA_CH_CUR_ADDR i) = c.f (DMA_HEAD_ADDR i) ∧ (d.dmaCh i).env = [] ∧ d.mem = c.mem)
      ∧ (c.fb DMA_STATUS_ENGINE_HALT = false → c.dmaState i = 1 ∨ c.dmaState i = 2 → Answers (.dmaGo i) s fun d =>
          d.fb DMA_STATUS_GO_IGNORED = true ∧ d.dma = c.dma ∧ (∀ j, j ≠ DMA_STATUS → d.reg j = c.reg j) ∧ d.mem = c.mem)
      ∧ (c.dmaState i = 1 → (Answers (.dmaPause i false) s fun d => d.regBit DMA_ENABLE i = false ∧ d.dmaState i = 2 ∧ (d.dmaCh i).buf = []
            ∧ (d.dmaCh i).rd = x.wr ∧ (d.dmaCh i).wr = x.wr ∧ (x.buf.length ≤ 512 → d.f (DMA_CH_STAT_LOST i) = x.buf.length) ∧ d.mem = c.mem)
          ∧ Answers (.dmaPause i true) s fun d => d.regBit DMA_ENABLE i = false ∧ d.dmaState i = 1 ∧ d.dma = c.dma ∧ d.mem = c.mem)
      ∧ (c.dmaState i = 2 → Answers (.dmaResume i) s fun d => d.regBit DMA_ENABLE i = true ∧ d.dmaState i = 1 ∧ d.dma = c.dma ∧ d.mem = c.mem)
      ∧ (c.dmaState i = 1 ∨ c.dmaState i = 2 → Answers (.dmaAbort i false) s fun d => d.dmaState i = 3 ∧ d.f (DMA_CH_STAT_RESULT i) = 2
          ∧ d.reg (DMA_CH_OFF i) = Word.of x.wr ∧ d.regBit DMA_HALT_EV i = true ∧ d.regBit DMA_ACTIVE i = false ∧ (d.dmaCh i).buf = [] ∧ d.mem = c.mem)
      ∧ (c.dmaState i = 1 → Answers (.dmaAbort i true) s fun d => (d.dmaCh i).abortReq = true ∧ d.regs = c.regs ∧ d.mem = c.mem)
      ∧ (c.dmaState i = 1 → c.unitFrozen 8 = false → x.env = [] → x.slot = none → ∀ b c',
          fetchList 32 (c.f (DMA_CH_CUR_ADDR i) * 32) c = (some b, c') →
          let l := (List.range 8).map fun k => numAt b (4 * k) 4
          ((envelope l).invalid = false → (envelope l).total ≠ 0 → Answers (.dmaEnvelopeFetch i) s fun d =>
            d.dmaCh i = ⟨l, none, 0, 0, 0, 0, [], false⟩ ∧ d.dmaState i = c'.dmaState i)
          ∧ ((envelope l).invalid = true → Answers (.dmaEnvelopeFetch i) s fun d => d.dmaState i = 3 ∧ d.f (DMA_CH_STAT_RESULT i) = 4
            ∧ d.f (DMA_CH_STAT_CAUSE i) = 5 ∧ d.regBit DMA_HALT_EV i = true))
      ∧ (c.dmaState i = 1 ∨ c.dmaState i = 2 → Answers .dmaEngineFault s fun d => d.fb DMA_STATUS_ENGINE_HALT = true ∧ d.dmaState i = 3
          ∧ d.f (DMA_CH_STAT_RESULT i) = 5 ∧ d.f (DMA_CH_STAT_CAUSE i) = 6 ∧ d.mem = c.mem))
    ∧ (let pa := (c.dmaReadBeat i).1
       let n := (c.dmaReadBeat i).2.2
       c.dmaReadDue i = true → mainRegion c.dramTop pa = .pattern → 0 < n → CleanPattern c pa n →
        (Answers (.dmaReadReturn i false) s fun d => (d.dmaCh i).buf = x.buf ++ (List.range n).map (fun j => ⟨c.byte (pa + j), 0⟩)
          ∧ (d.dmaCh i).rd = x.rd + n ∧ (d.dmaCh i).wr = x.wr ∧ d.regs = c.regs ∧ d.mem = c.mem)
        ∧ (x.tries < c.dmaRetries → Answers (.dmaReadReturn i true) s fun d => (d.dmaCh i).tries = x.tries + 1 ∧ (d.dmaCh i).rd = x.rd
          ∧ (d.dmaCh i).buf = x.buf ∧ d.mem = c.mem))
    ∧ (let pa := (c.dmaWriteUnit i).1
       let n := (c.dmaWriteUnit i).2.2
       c.dmaWriteDue i = true → 0 < n → n ≤ x.buf.length → (x.buf.take n).all (fun b => b.bad == 0) = true →
        mainRegion c.dramTop pa = .pattern → CleanPattern c pa n →
        (∀ a, Answers (.dmaWriteAck i false) s fun d => d.byte a = if pa ≤ a ∧ a < pa + n then (x.buf.getD (a - pa) ⟨0, 0⟩).val else c.byte a)
        ∧ (x.wr + n < e.total → x.abortReq = false → c.regBit DMA_ENABLE i = true → Answers (.dmaWriteAck i false) s fun d =>
            (d.dmaCh i).wr = x.wr + n ∧ (d.dmaCh i).buf = x.buf.drop n ∧ (d.dmaCh i).env = x.env ∧ d.dmaState i = 1)
        ∧ (x.wr + n = e.total → x.abortReq = false → e.last = true → Answers (.dmaWriteAck i false) s fun d =>
            d.dmaState i = 0 ∧ d.f (DMA_CH_STAT_RESULT i) = 1 ∧ d.reg (DMA_CH_DONECNT i) = c.reg (DMA_CH_DONECNT i) + 1
            ∧ (e.irq = true → d.regBit DMA_DONE_EV i = true)))

/-- R326 to R341.  The Press: GO starts a list at PRESS_LIST, a command is fetched and checked, a chunk's reads return its data, its write
changes the bytes it names and no other, a command that has no chunk left is counted, CLIP and JUMP change the clip list and the next address,
END completes the list; an ABORT ends the list at the row it has reached. -/
def Obligations.PressResults : Prop :=
  ∀ (late : Bool) (s : State),
    let c := s.chip
    let k := pressCmd c.press.cmd
    let step (op : Nat) (i : Instr) : Prop := c.pressIssues = true → c.press.cmd ≠ [] → k.op = op →
      ((k.w = 0 ∨ k.h ≤ c.press.row) → c.press.flight = [] → Answers i s fun d =>
        d.reg PRESS_CMDCNT = c.reg PRESS_CMDCNT + 1 ∧ d.press.cmd = [] ∧ (k.irq = true → d.fb PRESS_EVT_CMD_IRQ = true) ∧ d.mem = c.mem)
      ∧ (let j := if k.ydir then k.h - 1 - c.press.row else c.press.row
        k.w ≠ 0 → c.press.row < k.h → c.press.flight.length < 8 →
        ((∀ y ∈ c.press.flight, y.row = j) → c.burstOver k = false → Answers i s fun d => d.mem = c.mem ∧ d.press.clip = c.press.clip
          ∧ (d.f PRESS_STATUS_STATE = 1 → d.press.cmd = c.press.cmd
            ∧ d.press.row = (if c.press.chunk + 1 < k.chunks j then c.press.row else c.press.row + 1)))
        ∧ ((∀ y ∈ c.press.flight, y.row = j) → c.burstOver k = true → c.hasDead = true → Answers i s fun d =>
            d.press = { c.press with burst := 0, dead := true } ∧ d.regs = c.regs ∧ d.mem = c.mem)
        ∧ ((∃ y ∈ c.press.flight, y.row ≠ j) → exec i s = .next s))
    (c.mainRuns = true → c.domainUp 92 = true → c.f PRESS_STATUS_STATE = 0 → Answers .pressGo s fun d => d.f PRESS_STATUS_STATE = 1
      ∧ d.reg PRESS_CMDCNT = 0 ∧ d.press.next = c.f PRESS_LIST_ADDR * 64 ∧ d.press.cmd = [] ∧ d.press.clip = [] ∧ d.mem = c.mem)
    ∧ (c.mainRuns = true → c.domainUp 92 = true → c.f PRESS_STATUS_STATE ≠ 0 → Answers .pressGo s fun d => d.fb PRESS_EVT_GO_IGNORED = true
      ∧ d.press = c.press ∧ (∀ j, j ≠ PRESS_EVT → d.reg j = c.reg j) ∧ d.mem = c.mem)
    ∧ (c.mainRuns = true → c.domainUp 92 = true → c.f PRESS_STATUS_STATE = 1 → c.press.flight = [] → Answers (.pressAbort late) s fun d =>
        d.f PRESS_STATUS_STATE = 0 ∧ d.f PRESS_STATUS_RESULT = 2 ∧ d.fb PRESS_EVT_END_EV = true ∧ d.reg PRESS_POS = Word.of c.pressRow
        ∧ d.press.cmd = [] ∧ d.mem = c.mem)
    ∧ (c.mainRuns = true → c.domainUp 92 = true → c.f PRESS_STATUS_STATE = 0 → c.f PRESS_STATUS_RESULT = 1 → Answers (.pressAbort true) s fun d =>
        d.fb PRESS_STATUS_ABORT_LATE = true ∧ d.press = c.press ∧ d.mem = c.mem)
    ∧ (c.pressIssues = true → c.press.cmd = [] → c.press.flight = [] → ∀ b c', 
        fetchList 64 c.press.next (c.setF PRESS_CUR_ADDR (c.press.next / 64)) = (some b, c') →
        let l := (List.range 16).map fun i => numAt b (4 * i) 4
        (pressInvalid l = false → Answers .pressCommandFetch s fun d => d.press.cmd = l ∧ d.press.next = c.press.next + 64 ∧ d.press.row = 0
          ∧ d.press.chunk = 0 ∧ d.regs = c'.regs)
        ∧ (pressInvalid l = true → Answers .pressCommandFetch s fun d => d.f PRESS_STATUS_STATE = 0 ∧ d.f PRESS_STATUS_RESULT = 4
          ∧ d.f PRESS_STATUS_CAUSE = 5 ∧ d.fb PRESS_EVT_END_EV = true))
    ∧ step 1 .pressCopy ∧ step 2 .pressFill ∧ step 3 .pressConvert ∧ step 4 .pressBlend
    ∧ (c.pressIssues = true → c.press.cmd ≠ [] →
        (k.op = 5 → Answers .pressClip s fun d => d.press.clip = (c.press.cmd.drop 1).take 9 ∧ d.press.cmd = []
          ∧ d.reg PRESS_CMDCNT = c.reg PRESS_CMDCNT + 1 ∧ d.mem = c.mem)
        ∧ (k.op = 6 → Answers .pressJump s fun d => d.press.next = c.press.cmd.getD 1 0 + c.press.cmd.getD 2 0 % 256 * 2 ^ 32 ∧ d.press.cmd = []
          ∧ d.reg PRESS_CMDCNT = c.reg PRESS_CMDCNT + 1 ∧ d.mem = c.mem)
        ∧ (k.op = 0 → Answers .pressEnd s fun d => d.f PRESS_STATUS_STATE = 0 ∧ d.f PRESS_STATUS_RESULT = 1 ∧ d.f PRESS_STATUS_CAUSE = 0
          ∧ d.fb PRESS_EVT_END_EV = true ∧ d.reg PRESS_CMDCNT = c.reg PRESS_CMDCNT + 1 ∧ d.mem = c.mem))
    ∧ (∀ x rest d', c.mainRuns = true → c.f PRESS_STATUS_STATE = 1 → c.press.cmd ≠ [] → c.unitFrozen 9 = false → c.press.flight = x :: rest →
        x.data = none → (c.written k x).all (fun i => c.answers (k.srcAt i x.row) && (k.op != 4 || c.answers (k.dstAt i x.row))) = true →
        ∀ r, chunkData k x.row (c.written k x) c = (some r, d') → Answers .pressReadReturn s fun d =>
          (∃ y t, d.press.flight = y :: t ∧ y = { x with data := some (joinRuns r) }) ∧ d.mem = d'.mem)
    ∧ (∀ x rest a b, c.mainRuns = true → c.f PRESS_STATUS_STATE ≠ 0 → c.press.flight = x :: rest → x.data = some [(a, b)] → c.answers a = true →
        b.length = 4 → a % 4 = 0 → mainRegion c.dramTop a = .pattern →
        Answers .pressWriteAck s fun d => ∀ p, d.byte p = if a ≤ p ∧ p < a + 4 then b.getD (p - a) 0 else c.byte p)
    ∧ (c.press.flight = [] → Answers .pressDeadTimeEnd s fun d => d.press = { c.press with dead := false } ∧ d.regs = c.regs ∧ d.mem = c.mem)

/-- R573 to R578. The PCI Express link: it comes up at a rate and width within the register's maxima and goes down, each with its event; inbound
requests of an endpoint reach the register window and the memory window, a write of MSI-X's mask sends what is pending; a root port turns a write to
its message address into an interrupt message; a configuration read that nothing answers reads all ones; a fundamental reset is a U reset. R580 to
R583, R599, R601, R624, R629. Storage transfers and flash commands start with GO and end with their events; the card, the USB ports and the sensors
report what they meet; STOR_VSEL asks a card or eMMC for 1.8 V signalling in its fastest modes; a Courier operating point follows the measured rail;
a software entry goes to the Daybook from an origin of 2048 or above. -/
def Obligations.HostInterfaces : Prop :=
  (
    ∀ (gen width : Fin 4) (o : BitVec 12) (v w : Word) (s : State),
      let c := s.chip
      (c.mainRuns = true → c.domainUp (blockDomain 0x12) = true →
        (c.fb PCIE_CTL_EN = true → c.pcieMode ≠ 0 → c.fb PCIE_STATUS_UP = false → Answers (.pcieLinkUp gen width false) s fun d =>
          d.fb PCIE_STATUS_UP = true ∧ d.f PCIE_STATUS_GEN = min gen.val (c.f PCIE_CTL_MAXGEN) ∧ d.f PCIE_STATUS_WIDTH = min width.val (min 2 (c.f PCIE_CTL_MAXW))
          ∧ d.fb PCIE_STATUS_L1 = false ∧ d.fb PCIE_EVT_LINK_UP = true ∧ d.mem = c.mem)
        ∧ (c.fb PCIE_STATUS_UP = true → Answers .pcieLinkDown s fun d => d.fb PCIE_STATUS_UP = false ∧ d.fb PCIE_EVT_LINK_DOWN = true
          ∧ (∀ j, j ≠ PCIE_STATUS → j ≠ PCIE_EVT → d.reg j = c.reg j) ∧ d.mem = c.mem)
        ∧ (c.pcieMode = 2 → c.f PCIE_CFGADDR_BUS ≠ 0 →
            (Answers (.pcieCfgdataAccess o false (some w)) s fun d => sget (fun _ => Answer.none) d.answer o.toNat = .data w ∧ d.regs = c.regs ∧ d.mem = c.mem)
            ∧ Answers (.pcieCfgdataAccess o false none) s fun d => sget (fun _ => Answer.none) d.answer o.toNat = .data 0xFFFFFFFF
              ∧ d.fb PCIE_EVT_CFG_UR = true ∧ d.mem = c.mem)
        ∧ (c.fb PCIE_STATUS_UP = true → c.pcieMode = 1 →
            (c.domainUp (blockDomain 0x09) = true → Answers (.pcieInboundRequest (.bar0 0x90004#21) true (leBytes 4 v.toNat) false 0) s fun d =>
              d.reg MEM_IRQ_EN = writeWord c.sealBroken MEM_IRQ_EN (c.reg MEM_IRQ_EN) v ∧ (∀ j, j ≠ MEM_IRQ_EN → d.reg j = c.reg j) ∧ d.mem = c.mem)
            ∧ (∀ m, Answers (.pcieInboundRequest (.msixMask m) true [] false 0) s fun d => d.hosts.msixMask = m ∧ d.regs = c.regs ∧ d.mem = c.mem
              ∧ d.hosts.msixSent = (if m = false ∧ c.hosts.msixPend = true then c.hosts.msixSent + 1 else c.hosts.msixSent)
              ∧ d.hosts.msixPend = (m && c.hosts.msixPend)))
        ∧ (c.fb PCIE_STATUS_UP = true → c.pcieMode = 2 → v.toNat < 32 → ∀ a : BitVec 64, a.toNat / 4 = c.xf PCIE_XMSI_ADDR 0xFEE00000 / 4 →
            Answers (.pcieInboundRequest (.addr a) true (leBytes 4 v.toNat) false 0) s fun d => d.regBit PCIE_MSI v.toNat = true
              ∧ d.fb PCIE_EVT_MSI = true ∧ d.mem = c.mem)
        ∧ (c.pcieMode = 1 → Answers .pcieFundamentalReset s fun d => 0x112 ∈ d.power.urst ∧ d.fb PCIE_STATUS_UP = false ∧ d.hosts.msixMask = true
          ∧ d.hosts.msixPend = false ∧ d.cores = c.cores ∧ d.mem = c.mem)
        ∧ (o.toNat < 64 ∨ 96 ≤ o.toNat → Answers (.pcieCompletionTimeout o) s fun d => sget (fun _ => Answer.none) d.answer o.toNat = .busError
          ∧ d.regs = c.regs ∧ d.mem = c.mem)
        ∧ (∀ i : Fin 32, o.toNat = 64 + i.val → c.dmaReadDue i = true → (c.dmaReadBeat i).2.1 = .pcieWindow → (c.dmaCh i).tries < c.dmaRetries →
            Answers (.pcieCompletionTimeout o) s fun d => (d.dmaCh i).tries = (c.dmaCh i).tries + 1 ∧ (d.dmaCh i).buf = (c.dmaCh i).buf ∧ d.mem = c.mem)))
  ∧
  (
    ∀ (o : BitVec 12) (v : Word) (p : Fin 2) (sp : Fin 5) (wd : Fin 3) (x y : Int) (s : State),
      let c := s.chip
      c.mainRuns = true → c.domainUp (blockDomain 0x13) = true → c.domainUp (blockDomain 0x14) = true →
      (Answers (.storEnable 1 (some (sp, wd, v))) s fun d => d.fb STOR_CTL_EN = true ∧ d.fb STOR_STATUS_READY = true ∧ d.f STOR_STATUS_SPEED = min sp.val 3
          ∧ d.f STOR_STATUS_WIDTH = wd.val ∧ d.reg STOR_CAP = v ∧ d.hosts.storVsel = decide (3 ≤ sp.val) ∧ d.mem = c.mem)
      ∧ (c.fb STOR_STATUS_BUSY = false → Answers (.storBlkGo v) s fun d => d.f STOR_BLK_CNT_COUNT = v.bits 15 0 ∧ d.mem = c.mem
          ∧ (if v.bits 15 0 = 0 then d.fb STOR_EVT_DONE = true ∧ d.fb STOR_STATUS_BUSY = false else d.fb STOR_STATUS_BUSY = true))
      ∧ (∀ data, c.fb STOR_STATUS_BUSY = true →
          (Answers (.storBlkDone false data) s fun d => d.fb STOR_STATUS_BUSY = false ∧ d.fb STOR_EVT_ERR = true ∧ d.mem = c.mem)
          ∧ (c.f STOR_BLK_ADDR_ADDR * 256 + c.f STOR_BLK_CNT_COUNT * 512 ≤ c.dramTop → c.fb STOR_BLK_CNT_DIR = true →
              Answers (.storBlkDone true data) s fun d => d.fb STOR_STATUS_BUSY = false ∧ d.fb STOR_EVT_DONE = true ∧ d.mem = c.mem))
      ∧ (c.fb STOR_QCMD_GO = false → Answers (.storQcmdGo v) s fun d => d.mem = c.mem ∧ d.f STOR_QCMD_LEN = v.bits 29 18
          ∧ (if c.pm.holdsFlash then d.fb STOR_QCMD_LOST = true ∧ d.fb STOR_EVT_QSPI_LOST = true ∧ d.fb STOR_EVT_QDONE = true ∧ d.fb STOR_QCMD_GO = false
            else d.fb STOR_QCMD_GO = true ∧ d.fb STOR_QCMD_LOST = false))
      ∧ (∀ data, c.fb STOR_QCMD_GO = true → Answers (.storQcmdDone data) s fun d => d.fb STOR_QCMD_GO = false ∧ d.fb STOR_EVT_QDONE = true ∧ d.mem = c.mem
          ∧ (if c.fb STOR_QCMD_WRITE then d.hosts.qTx = c.hosts.qTx.drop (c.f STOR_QCMD_LEN) else d.hosts.qRx = c.hosts.qRx ++ data.take (c.f STOR_QCMD_LEN)))
      ∧ (Answers (.storQdataAccess o true v) s fun d => d.hosts.qTx = c.hosts.qTx ++ leBytes 4 v.toNat ∧ d.hosts.qRx = c.hosts.qRx ∧ d.regs = c.regs ∧ d.mem = c.mem)
      ∧ (4 ≤ c.hosts.qRx.length → Answers (.storQdataAccess o false v) s fun d =>
          sget (fun _ => Answer.none) d.answer o.toNat = .data (Word.of (leNat (c.hosts.qRx.take 4))) ∧ d.hosts.qRx = c.hosts.qRx.drop 4 ∧ d.regs = c.regs ∧ d.mem = c.mem)
      ∧ (∀ present, c.fb STOR_STATUS_PRESENT ≠ present → Answers (.cardChange present) s fun d => d.fb STOR_STATUS_PRESENT = present
          ∧ d.fb STOR_EVT_CARD_CHG = true ∧ d.mem = c.mem)
      ∧ (c.fb USB_CTL_EN = true →
          (∀ speed : Fin 4, Answers (.usbConnectChange p speed) s fun d => d.fb (USB_PORT_CONN p) = decide (speed.val ≠ 0) ∧ d.f (USB_PORT_SPEED p) = speed.val
            ∧ d.regBit USB_EVT p = (c.regBit USB_EVT p || c.fb (USB_PORT_CONN p) != decide (speed.val ≠ 0)) ∧ d.mem = c.mem)
          ∧ Answers (.usbOvercurrent p) s fun d => d.fb (USB_PORT_OC p) = true ∧ d.regBit USB_EVT (2 + p.val) = true ∧ d.regBit USB_CTL (1 + p.val) = false
            ∧ d.mem = c.mem)
      ∧ (∀ vals : List Int, vals.length = 28 → vals[16]? = some y → vals[3]? = some x → Answers (.sensSample vals) s fun d =>
          sget (fun _ => none) d.hosts.sample 3 = some x ∧ d.hosts.opPoint = (if 880 ≤ y then 3 else if 800 ≤ y then 2 else if 720 ≤ y then 1 else 0)
          ∧ (∀ old, sget (fun _ => none) c.hosts.peak 3 = some old → sget (fun _ => none) d.hosts.peak 3 = some (max old x))
          ∧ (880 ≤ x → d.fb SENS_EVT_HOT = true) ∧ d.mem = c.mem ∧ d.cores = c.cores)
      ∧ (2048 ≤ v.bits 11 0 → c.dayb.frozen = false → Answers (.daybSwgo v) s fun d => ∃ e l, d.dayb.ring = e :: l ∧ e.cls = 6 ∧ e.origin = v.bits 11 0
          ∧ e.kind = v.bits 23 16 ∧ e.item = (c.reg (DAYB_SW 0)).toNat + 2 ^ 32 * (c.reg (DAYB_SW 1)).toNat
          ∧ e.data = (c.reg (DAYB_SW 2)).toNat + 2 ^ 32 * (c.reg (DAYB_SW 3)).toNat ∧ d.mem = c.mem)
      ∧ (v.bits 11 0 < 2048 → Answers (.daybSwgo v) s fun d => d.fb DAYB_EVT_SW_ERR = true ∧ d.dayb = c.dayb ∧ d.mem = c.mem))

/-- Transport `t` holds the response to the request `l`, with this STATUS and body (R586, R588). -/
def Served (t : Nat) (l : List Byte) (st : Nat) (body : List Byte) (d : Chip) : Prop :=
  (d.trans t).state = 3 ∧ (d.trans t).req = [] ∧ (d.trans t).resp = responseFrame l st body

/-- The request that the Postmaster executes next stands on transport `t`: the frame `l` with command `cmd` and a body of `n` bytes. -/
def NextFrame (c : Chip) (t : Nat) (l : List Byte) (cmd n : Nat) : Prop :=
  c.pmUp = true ∧ c.nextRequest = some t ∧ (c.trans t).req = l ∧ frameCmd l = cmd ∧ frameLen l = n

/-- R585 to R591, R594, R595, R602.  The Postmaster's transports and open commands: a request is gathered, waits with the postmark of its
submission, is executed in that order, and has its response read; a bad frame and an unknown command are answered at once. -/
def Obligations.PostmasterOpenCommands : Prop :=
  ∀ (t : Fin 2) (l bytes : List Byte) (s : State),
    let c := s.chip
    let e := takeNonce t l c
    let x := c.trans 0
    let whole := (if x.state = 1 then x.req else []) ++ bytes
    ((c.trans 0).state = 2 → (c.trans 1).state = 2 → c.pm.fuWait = none →
      c.nextRequest = some (if (c.trans 0).since ≤ (c.trans 1).since then 0 else 1))
    ∧ (c.pmUp = true → bytes.length ≤ 255 → x.state ≠ 2 →
        (Answers (.smbBlockWriteAppend bytes true) s fun d => (d.trans 0).req = whole ∧ (d.trans 0).state = 1 ∧ (d.trans 0).resp = []
          ∧ d.trans 1 = c.trans 1 ∧ d.regs = c.regs ∧ d.mem = c.mem)
        ∧ (frameOk whole = true → pmCommand (frameCmd whole) = true → Answers (.smbBlockWriteSubmit bytes true) s fun d =>
            (d.trans 0).req = whole ∧ (d.trans 0).state = 2 ∧ (d.trans 0).since = c.now ∧ d.trans 1 = c.trans 1 ∧ d.regs = c.regs ∧ d.mem = c.mem)
        ∧ (frameOk whole = false → Answers (.smbBlockWriteSubmit bytes true) s (Served 0 whole 1 []))
        ∧ (frameOk whole = true → pmCommand (frameCmd whole) = false → Answers (.smbBlockWriteSubmit bytes true) s (Served 0 whole 2 [])))
    ∧ (c.pmUp = true →
        (Answers .smbBlockRead s fun d => sget (fun _ => Answer.none) d.answer 4096 = .bytes (x.resp.take 255) ∧ (d.trans 0).resp = x.resp.drop 255
          ∧ d.trans 1 = c.trans 1 ∧ d.regs = c.regs ∧ d.mem = c.mem)
        ∧ (Answers .smbReadState s fun d => sget (fun _ => Answer.none) d.answer 4096 = .data (Word.of x.state) ∧ d.pm = c.pm ∧ d.regs = c.regs
          ∧ d.mem = c.mem)
        ∧ ((c.trans 1).state ≠ 2 → frameOk l = true → pmCommand (frameCmd l) = true → Answers (.udpFrame l) s fun d =>
          (d.trans 1).req = l ∧ (d.trans 1).state = 2 ∧ (d.trans 1).since = c.now ∧ d.trans 0 = c.trans 0 ∧ d.regs = c.regs ∧ d.mem = c.mem))
    ∧ (NextFrame c t l 0x01 0 → Answers .info s fun d => d.regs = c.regs ∧ d.mem = c.mem ∧ Served t l 0
        (leBytes 4 (if c.mainRuns then (c.reg SYS_ID).toNat else 0) ++ serialBytes ++ leBytes 4 Config.pmRomVersion.toNat ++ macBytes
          ++ leBytes 4 c.pm.ip.toNat) d)
    ∧ (NextFrame c t l 0x02 0 → Answers .nonce s fun d => d.regs = c.regs ∧ d.mem = c.mem ∧ ∃ n, n.length = 16
        ∧ (d.trans t).nonce = some (n, c.now) ∧ Served t l 0 n d)
    ∧ (NextFrame c t l 0x03 0 → Answers .status s fun d => d.regs = c.regs ∧ d.mem = c.mem ∧ ∃ mv, Served t l 0
        ([e.mainState, pmWord SYS_RSTCAUSE e, pmWord SYS_BOOT e, pmWord SYS_PROFILE e, pmWord POBOX_STATUS e, pmWord ZOW_STATUS e, mv,
          c.pm.restarts].flatMap (leBytes 4)) d)
    ∧ (NextFrame c t l 0x04 0 → c.mainRuns = false → Answers .sensors s fun d => d.regs = c.regs ∧ d.mem = c.mem
        ∧ Served t l 0 ((List.range 28).flatMap fun _ => leBytes 2 0x8000) d)
    ∧ (NextFrame c t l 0x04 0 → c.mainRuns = true → Answers .sensors s fun d => d.regs = c.regs ∧ d.mem = c.mem
        ∧ Served t l 0 ((List.range 28).flatMap fun n => leBytes 2 ((sample16 (sget (fun _ => none) c.hosts.sample n)).getD 0x8000)) d)
    ∧ (NextFrame c t l 0x05 8 → let n := frameNum (frameBody l) 4 4
        (n = 0 ∨ 31 ≤ n → Answers .daybook s fun d => d.regs = c.regs ∧ d.mem = c.mem ∧ Served t l 2 [] d)
        ∧ (1 ≤ n → n ≤ 30 → ∀ ep, c.dayb.epoch = some ep → Answers .daybook s fun d => d.dayb = c.dayb ∧ d.mem = c.mem ∧ Served t l 0
          (leBytes 4 c.dayb.next ++ leBytes 4 c.dayb.oldest ++ ep.bytes
            ++ (c.dayb.since (frameNum (frameBody l) 0 4 % 2 ^ 31) n).flatMap DayEntry.bytes) d))
    ∧ (NextFrame c t l 0x06 0 → Answers .repair s fun d => d.pm.repair = c.pm.repair ∧ d.mem = c.mem ∧ Served t l 0
        (leBytes 4 c.pm.repair.length ++ c.pm.repair.flatMap fun p => leBytes 4 p.1.toNat ++ leBytes 4 p.2.toNat) d)
    ∧ (∀ n x back held, NextFrame c t l 0x15 n → 8 ≤ n → n ≤ 1024 → c.stagingOf t = some x →
        let lo := c.slotAt x.slot + frameNum (frameBody l) 0 4
        let bs := (frameBody l).drop 4
        Answers (.stageData back held) s fun d => d.mem = c.mem ∧ if lo + bs.length ≤ c.slotEnd x.slot
          then Served t l (if back then 0 else 7) [] d ∧ d.pm.staging = some { x with last := c.now }
            ∧ ∀ a, (¬(lo ≤ a ∧ a < lo + bs.length) → d.flashBytes a 1 = c.flashBytes a 1)
              ∧ (back = true → lo ≤ a → a < lo + bs.length → d.flashBytes a 1 = [bs.getD (a - lo) 0])
          else Served t l 2 [] d ∧ d.pm.staging = c.pm.staging ∧ d.hosts = c.hosts)
    ∧ (∀ n back held, NextFrame c t l 0x15 n → 8 ≤ n → n ≤ 1024 → c.stagingOf t = none → Answers (.stageData back held) s fun d =>
        Served t l 5 [] d ∧ d.pm.staging = c.pm.staging ∧ d.hosts = c.hosts ∧ d.mem = c.mem)
    ∧ (∀ x reads header held, NextFrame c t l 0x16 4 → c.stagingOf t = some x → frameNum (frameBody l) 0 4 < 2 →
        Answers (.stageEnd reads header held) s fun d => d.pm.staging = none ∧ d.pm.holdsFlash = false ∧ d.mem = c.mem
          ∧ (∀ a, 16 ≤ a → d.flashBytes a 1 = c.flashBytes a 1)
          ∧ match manifestSlot c.power.fuses (c.manifest x.slot) (reads && c.stagedSegments x.slot) with
            | none => Served t l 8 [] d ∧ d.hosts = c.hosts
            | some k => if frameNum (frameBody l) 0 4 = 1 then
                (header = false → Served t l 7 [] d)
                ∧ (header = true → Served t l 0 (leBytes 4 (frameNum (c.manifest x.slot) 4 4) ++ leBytes 4 k) d
                  ∧ d.flashBytes 0 16 = leBytes 4 0x34364756 ++ leBytes 4 (c.slotAt 0) ++ leBytes 4 (c.slotAt 1) ++ leBytes 4 x.slot)
              else Served t l 0 (leBytes 4 (frameNum (c.manifest x.slot) 4 4) ++ leBytes 4 k) d ∧ d.hosts = c.hosts)
    ∧ (∀ x, c.pm.staging = some x → x.last + 10 * 10 ^ 9 ≤ c.now → Answers .stageTimeout s fun d => d.pm.staging = none ∧ d.pm.holdsFlash = false
        ∧ d.regs = c.regs ∧ d.mem = c.mem)
    ∧ (c.pmUp = true → Answers .pmRestart s fun d => d.pm.restarts = c.pm.restarts + 1 ∧ d.pm.staging = none ∧ d.core 63 = Core.reset 63
        ∧ d.pm.trans = c.pm.trans ∧ d.pm.repair = c.pm.repair ∧ d.count = c.count ∧ d.mem = c.mem ∧ ∃ e l, d.dayb.ring = e :: l ∧ e.kind = 7)
    ∧ (∀ k, c.pmUp = true → 0x1E00000000 ≤ k → k < 0x1E00080000 → (let e := sget noErr c.flips k; popcount 64 e.data + popcount 8 e.chk = 1) →
        Answers .pmScrub s fun d => sget noErr d.flips k = ⟨0, 0⟩ ∧ d.mem = c.mem)

/-- R559, R581, R587, R589, R591 to R594.  The Postmaster's signed commands: each has its effect where the conditions of R589 hold, and is
answered with STATUS 3 and no effect where they do not; FU posts its request in slot 63 and returns the receipt; 115 °C switches the
main rails off. -/
def Obligations.PostmasterSignedCommands : Prop :=
  ∀ (t : Fin 2) (l : List Byte) (erased : Bool) (held : List Byte) (ch : Fin 16) (v : Int) (s : State),
    let c := s.chip
    let ok := c.signatureOk t c.managementKey l
    let arg := frameNum (frameBody l) 0 4
    let judged (d : Chip) (p : Prop) : Prop := if ok then p else Served t l 3 [] d ∧ d.power = c.power ∧ d.mem = c.mem
    (NextFrame c t l 0x18 0 → Answers .repairClear s fun d => judged d (d.pm.repair = [] ∧ Served t l 0 [] d))
    ∧ (NextFrame c t l 0x19 16 → arg = 1 → Answers .netSet s fun d => judged d (Served t l 0 [] d ∧ d.pm.netStatic = true
        ∧ d.pm.ip = Word.of (frameNum (frameBody l) 4 4) ∧ d.pm.mask = Word.of (frameNum (frameBody l) 8 4)
        ∧ d.pm.gateway = Word.of (frameNum (frameBody l) 12 4)))
    ∧ (NextFrame c t l 0x19 16 → arg = 0 → Answers .netSet s fun d => judged d (Served t l 0 [] d ∧ d.pm.netStatic = false))
    ∧ (NextFrame c t l 0x10 4 →
        (arg = 0 → Answers .power s fun d => judged d (Served t l 0 [] d ∧ d.power.mainEn = false ∧ d.power.mainEnHeld = true ∧ d.power.state = .off
          ∧ d.power.pgood = false))
        ∧ (arg = 1 → Answers .power s fun d => judged d (Served t l 0 [] d ∧ d.power.mainEn = true ∧ d.power.mainEnHeld = false))
        ∧ (arg = 2 → c.power.state = .dormant → Answers .power s fun d => judged d (Served t l 0 [] d ∧ d.power.wakeLatched = true))
        ∧ (arg = 2 → c.power.state ≠ .dormant → Answers .power s fun d => judged d (Served t l 5 [] d ∧ d.power = c.power)))
    ∧ (NextFrame c t l 0x11 0 → c.mainState = 0 → Answers .reset s fun d => judged d (Served t l 0 [] d ∧ ResetTo 4 6 d))
    ∧ (NextFrame c t l 0x11 0 → c.mainState ≠ 0 → Answers .reset s fun d => judged d (Served t l 5 [] d ∧ d.power = c.power))
    ∧ (NextFrame c t l 0x12 4 → c.mainState = 0 → Word.of arg &&& 0x107 = Word.of arg → Answers .profileSet s fun d => judged d
        (Served t l 0 [] d ∧ ResetTo 4 5 d ∧ d.f SYS_PROFILE_CUR = (Word.of arg).bits 2 0 ∧ d.f SYS_PROFILE_SRC = 1 ∧ d.f SYS_PROFILE_PEND = 0))
    ∧ (NextFrame c t l 0x13 4 → arg = 1 → c.mainPowered = true → c.power.seq = none → Answers .hold s fun d => judged d
        (Served t l 0 [] d ∧ ResetTo 2 2 d ∧ d.power.pmHold = true ∧ d.power.seq = some ⟨2, 2⟩))
    ∧ (∀ q, NextFrame c t l 0x13 4 → arg = 0 → c.power.seq = some q → c.power.nresetLow = false → Answers .hold s fun d => judged d
        (Served t l 0 [] d ∧ d.power.pmHold = false ∧ d.power.seq = none ∧ d.f SYS_BOOT_RESULT = 1))
    ∧ (NextFrame c t l 0x17 4 → c.mainState = 0 → c.answersRead 63 ZOW_CMD = true → Answers .twin s fun d => judged d
        (let f := (busStore 63 (regAddr ZOW_CMD) (leBytes 4 arg) (signedEntry l true (takeNonce t l c))).2
         Served t l 0 (leBytes 4 (busLoad 63 false (regAddr ZOW_STATUS) 4 f).val) d))
    ∧ (NextFrame c t l 0x14 4 → arg < 2 → c.pm.staging = none →
        (c.mayStage = true → c.activeSlot ≠ some arg → Answers (.stageBegin erased held) s fun d => judged d
          (Served t l (if erased then 0 else 7) [] d ∧ d.pm.staging = some ⟨t, arg, c.now⟩ ∧ d.pm.holdsFlash = true
          ∧ ∀ a, if c.slotAt arg ≤ a ∧ a < c.slotEnd arg then (erased = true → d.flashBytes a 1 = [0xFF]) else d.flashBytes a 1 = c.flashBytes a 1))
        ∧ (c.mayStage = false ∨ c.activeSlot = some arg → Answers (.stageBegin erased held) s fun d => judged d
          (Served t l 5 [] d ∧ d.pm.staging = none ∧ d.hosts = c.hosts)))
    ∧ (NextFrame c t l 0x07 64 → fuOpen (frameBody l) = true → c.fuReady = true → (c.boxSlot 63).state = 0 → 72 ≤ l.length → Answers .fu s fun d =>
        d.boxSlot 63 = ⟨2, 63, c.stamp 63, 0, false, 63⟩ ∧ d.pm.fuWait = some t.val ∧ d.bytes (0x1D30000000 + 64 * 63) 64 = frameBody l)
    ∧ (c.pmUp = true → c.pm.fuWait = some t.val → (c.boxSlot 63).state = 4 → (c.trans t).req = l → Answers .fu s fun d =>
        Served t l 0 (c.bytes (0x1D30000000 + 64 * 63) 64) d ∧ (d.boxSlot 63).state = 0 ∧ d.pm.fuWait = none ∧ d.mem = c.mem)
    ∧ (c.power.vsb = true → c.mainPowered = true → 920 ≤ v → Answers (.overtempTrip ch v) s fun d => d.power.state = .off
        ∧ d.power.mainEn = false ∧ d.power.mainEnHeld = true)

/-- R603 to R606. The TAP and the network debug port: IDCODE, BYPASS and the boundary register, a challenge and its response, sessions that open with
the levels granted where the signature holds, and end; while VSB is absent the TAP does nothing. R607 to R612, R618. Run control: a halt is
requested and taken at an interrupt point, a resume continues at csr_dpc, a step resumes for one instruction; a fed word runs on a halted core
alone; the debug access master reads and writes physical memory. -/
def Obligations.DebugAccess : Prop :=
  (
    ∀ (p : Fin 192) (pre : BitVec 195) (level : BitVec 8) (key : BitVec 256) (sig : BitVec 512) (write : Bool) (off : BitVec 12) (data : Word)
      (sender : BitVec 48) (frame : List Byte) (s : State),
      let c := s.chip
      let kept (d : Chip) : Prop := d.regs = c.regs ∧ d.cores = c.cores ∧ d.mem = c.mem
      let answered (st : Nat) (body : List Byte) (d : Chip) : Prop := (d.trans 2).resp = responseFrame frame st body ∧ (d.trans 2).state = 3
      (c.power.vsb = true →
        (Answers .idcode s fun d => d.dbgPort.ir = 0x01 ∧ d.dbgPort.dr = 0x1640075B ∧ kept d)
        ∧ (Answers .bypass s fun d => d.dbgPort.ir = 0xFF ∧ d.dbgPort.dr = 0 ∧ kept d)
        ∧ (Answers (.samplePreload (some pre)) s fun d => d.dbgPort.ir = 0x02 ∧ d.dbgPort.boundary = pre.toNat ∧ kept d
            ∧ d.dbgPort.dr.testBit p = sget (fun _ => false) c.pins.level p ∧ d.dbgPort.dr.testBit 194 = !c.power.nresetLow)
        ∧ (∀ src, c.granted 1 = true → c.power.seq = some ⟨2, src⟩ → Answers (.extest pre) s fun d => d.dbgPort.ir = 0x03 ∧ d.dbgPort.boundary = pre.toNat
            ∧ kept d)
        ∧ (Answers .challenge s fun d => d.dbgPort.ir = 0x10 ∧ kept d ∧ ∃ n, n.length = 16 ∧ d.dbgPort.nonce = some (n, c.now)
            ∧ d.dbgPort.dr = leNat (serialBytes ++ n))
        ∧ (c.fb DBG_STATUS_SESSION = false → Answers (.response level key sig) s fun d => d.dbgPort.ir = 0x11 ∧ d.dbgPort.nonce = none ∧ d.mem = c.mem
            ∧ if responseOk level (leBytes 32 key.toNat) (leBytes 64 sig.toNat) c then d.f DBG_STATUS_SESSION = 1
                ∧ d.f DBG_STATUS_LEVEL = level.toNat % 4 + (if c.fu.sealed then 0 else level.toNat / 4 % 2 * 4)
              else d.fb DBG_EVT_AUTH_FAIL = true ∧ d.fb DBG_STATUS_SESSION = false)
        ∧ (c.fb DBG_STATUS_SESSION = true → Answers (.response level key sig) s kept)
        ∧ (c.f DBG_STATUS_SESSION ≠ 1 → Answers (.dbgreg write off data) s kept)
        ∧ (c.f DBG_STATUS_SESSION = 1 → c.mainRuns = true → 0x18000 + off.toNat = DBG_STATUS → Answers (.dbgreg false off data) s fun d =>
            d.dbgPort.dr = 2 * off.toNat + 2 ^ 13 * (c.reg DBG_STATUS).toNat ∧ kept d)
        ∧ (c.f DBG_STATUS_SESSION = 1 → c.mainRuns = true → 0x18000 + off.toNat = DBG_IRQ_EN → Answers (.dbgreg true off data) s fun d =>
            d.f DBG_IRQ_EN_EN = data.bits 3 0 ∧ (∀ j, j ≠ DBG_IRQ_EN → d.reg j = c.reg j) ∧ d.cores = c.cores ∧ d.mem = c.mem)
        ∧ (Answers .tapReset s fun d => d.dbgPort.ir = 0x01 ∧ d.dbgPort.nonce = none ∧ d.mem = c.mem ∧ (c.f DBG_STATUS_SESSION = 1 →
            d.fb DBG_STATUS_SESSION = false ∧ d.fb DBG_EVT_SESSION_END = true ∧ ∀ k, k < 63 → (d.core k).dbg.halted = false)))
      ∧ (c.power.vsb = false → Answers .idcode s fun d => kept d ∧ d.dbgPort = c.dbgPort)
      ∧ (c.pmUp = true → frameOk frame = true →
        (frameCmd frame = 0x40 → frameLen frame = 4 → c.fb DBG_STATUS_SESSION = false → Answers (.dbgOpen sender frame) s fun d => d.mem = c.mem
          ∧ if c.signatureOk 1 (fun g => (debugKey c.power.fuses g).isSome) frame then d.f DBG_STATUS_SESSION = 2
              ∧ (∃ x, d.dbgPort.session = some x ∧ x.sender = sender.toNat) ∧ ∃ w, answered 0 (leBytes 4 w) d
            else d.fb DBG_EVT_AUTH_FAIL = true ∧ d.fb DBG_STATUS_SESSION = false ∧ answered 3 [] d)
        ∧ (frameCmd frame = 0x40 → frameLen frame = 4 → c.fb DBG_STATUS_SESSION = true → Answers (.dbgOpen sender frame) s fun d =>
            answered 4 [] d ∧ kept d)
        ∧ (frameCmd frame = 0x41 → frameLen frame % 8 = 0 → c.netSession sender.toNat = true → Answers (.dbgReg sender frame) s
            (answered 0 (debugAccesses (frameBody frame) 0 (frameLen frame / 8) (refresh c)).1))
        ∧ (frameCmd frame = 0x41 → frameLen frame % 8 = 0 → c.netSession sender.toNat = false → Answers (.dbgReg sender frame) s fun d =>
            answered 5 [] d ∧ kept d)
        ∧ (frameCmd frame = 0x42 → frameLen frame = 0 → c.netSession sender.toNat = true → Answers (.dbgClose sender frame) s fun d =>
            answered 0 [] d ∧ d.fb DBG_STATUS_SESSION = false ∧ d.dbgPort.session = none ∧ d.fb DBG_EVT_SESSION_END = true ∧ d.mem = c.mem))
      ∧ (∀ x, c.dbgPort.session = some x → x.kind = 2 → x.last + 30 * 10 ^ 9 ≤ c.now → c.f DBG_STATUS_SESSION = 2 → Answers .sessionTimeout s fun d =>
          d.fb DBG_STATUS_SESSION = false ∧ d.dbgPort.session = none ∧ d.fb DBG_EVT_SESSION_END = true ∧ d.mem = c.mem))
  ∧
  (
    ∀ (k : Fin 62) (v w : Word) (ahi : BitVec 8) (peek : Bool) (s : State),
      let c := s.chip
      let hi := decide (32 ≤ k.val)
      let i := k.val % 32
      let pa := ahi.toNat * 2 ^ 32 + c.f DBG_DAM_ADDR_ADDR * 4
      let fed := fedDecode (c.f DBG_FEED_SEL_CORE) w
      (c.fb DBG_STATUS_SESSION = true → c.mainRuns = true →
        (c.granted 0 = true → v.bit i = true → c.regBit (if hi then SYS_RUN_HI else SYS_RUN_LO) i = true → c.domainUp (coreDomain k) = true →
          (c.core k).dbg.halted = false → Answers (.dbgHaltWrite hi v) s fun d => (d.core k).dbg.haltReq = true ∧ (d.core k).dbg.halted = false
            ∧ (d.core k).pc = (c.core k).pc ∧ d.mem = c.mem)
        ∧ (v.bit i = true → (c.core k).dbg.halted = true → Answers (.dbgResume hi v) s fun d => (d.core k).dbg.halted = false
            ∧ (d.core k).pc = (c.core k).dbg.dpc ∧ d.regs = c.regs ∧ d.mem = c.mem)
        ∧ ((c.core k).dbg.halted = true → Answers (.dbgStep (BitVec.ofNat 6 k.val)) s fun d => (d.core k).dbg.halted = false
            ∧ (d.core k).dbg.stepping = true ∧ (d.core k).pc = (c.core k).dbg.dpc ∧ d.regs = c.regs ∧ d.mem = c.mem)
        ∧ (c.mayFeed (c.f DBG_FEED_SEL_CORE) = true → (c.core (c.f DBG_FEED_SEL_CORE)).dbg.halted = false → Answers (.dbgFeed w) s fun d =>
            d.f DBG_FEED_STAT_RESULT = 3 ∧ d.cores = c.cores ∧ d.mem = c.mem)
        ∧ (c.mayFeed (c.f DBG_FEED_SEL_CORE) = true → (c.core (c.f DBG_FEED_SEL_CORE)).dbg.halted = true → fedRefused w = true →
            Answers (.dbgFeed w) s fun d => d.f DBG_FEED_STAT_RESULT = 2 ∧ d.cores = c.cores ∧ d.mem = c.mem)
        ∧ (∀ c', c.mayFeed (c.f DBG_FEED_SEL_CORE) = true → (c.core (c.f DBG_FEED_SEL_CORE)).dbg.halted = true → fedRefused w = false →
            operate (c.f DBG_FEED_SEL_CORE) (w.extractLsb' 28 4) fed.dec fed.op (feedFence (c.f DBG_FEED_SEL_CORE) c) = .done c' →
            Answers (.dbgFeed w) s fun d => d.fb DBG_FEED_STAT_BUSY = false
              ∧ (d.f DBG_FEED_STAT_RESULT = 0 ∨ (d.f DBG_FEED_STAT_RESULT = 1 ∧ d.f DBG_FEED_STAT_CAUSE = 0x0B)))
        ∧ (c.granted 0 = true → CleanPattern c pa 4 →
            (Answers (.dbgDamGo ahi false peek) s fun d => d.f DBG_DAM_CTL_RESULT = 0 ∧ d.reg DBG_DAM_DATA = Word.of (c.le pa 4) ∧ d.mem = c.mem
              ∧ d.cores = c.cores)
            ∧ Answers (.dbgDamGo ahi true peek) s fun d => d.f DBG_DAM_CTL_RESULT = 0
              ∧ ∀ a, d.byte a = if pa ≤ a ∧ a < pa + 4 then (leBytes 4 (c.reg DBG_DAM_DATA).toNat).getD (a - pa) 0 else c.byte a))
      ∧ ((c.core k).dbg.haltReq = true → c.coreFree k = true → (c.core k).slot = none → c.drawingOn k = false → 
          Answers (.coreHalt ⟨k.val, by omega⟩) s fun d => (d.core k).dbg.halted = true ∧ (d.core k).dbg.dpc = (c.core k).pc ∧ d.fb DBG_EVT_HALTED = true
            ∧ (∀ j, j ≠ k.val → d.core j = c.core j) ∧ d.mem = c.mem))

/-- Slot `s` of the PO Box holds a receipt of these words (R431). -/
def Receipted (s : Nat) (words : List Nat) (d : Chip) : Prop :=
  (d.boxSlot s).state = 4 ∧ d.bytes (0x1D30000000 + 64 * s) 64 = (List.range 16).flatMap fun i => leBytes 4 (words.getD i 0)

/-- The unit serves slot `s`, whose request has operation `op`, is not aborted or discarded, and may run there (R408, R428, R430). -/
def Serving (c : Chip) (s op : Nat) : Prop :=
  c.busySlot = some s ∧ c.boxWord s 0 % 256 = op ∧ c.fuServes = true ∧ (c.boxSlot s).abort = 0 ∧ (c.boxSlot s).discard = false
    ∧ c.opRefused op s = none

/-- R427, R428, R433.  The PO Box: a claim gives the lowest free slot, its owner posts it with its postmark, aborts it and releases it; the unit
takes the posted slot with the earliest postmark. -/
def Obligations.PoBoxSlots : Prop :=
  ∀ (o : Fin 256) (late : Bool) (v : Word) (s : State),
    let c := s.chip
    (c.mainRuns = true →
      (∀ n, n < 63 → (c.boxSlot n).state = 0 → (∀ m, m < n → (c.boxSlot m).state ≠ 0) →
        (Answers (.poboxClaimRead o false) s fun d => sget (fun _ => Answer.none) d.answer o = .data (Word.of (n + 2 ^ 31))
          ∧ d.boxSlot n = ⟨1, o, 0, 0, false, 0⟩ ∧ (∀ m, m ≠ n → d.boxSlot m = c.boxSlot m) ∧ (selBanked o = true → d.selected o = some n)
          ∧ d.regs = c.regs ∧ d.mem = c.mem)
        ∧ Answers (.poboxClaimRead o true) s fun d => sget (fun _ => Answer.none) d.answer o = .data (Word.of (n + 2 ^ 31)) ∧ d.fu = c.fu
          ∧ d.regs = c.regs ∧ d.mem = c.mem)
      ∧ ((∀ m, m < 63 → (c.boxSlot m).state ≠ 0) → Answers (.poboxClaimRead o false) s fun d =>
          sget (fun _ => Answer.none) d.answer o = .data 0 ∧ d.fu = c.fu ∧ d.mem = c.mem)
      ∧ (∀ n, c.selected o = some n →
        (c.ownsSlot o n = true →
          ((c.boxSlot n).state = 1 → c.fu.role ≠ 2 → Answers (.poboxPost o) s fun d => (d.boxSlot n).state = 2 ∧ (d.boxSlot n).posted = c.stamp o
            ∧ (d.boxSlot n).owner = (c.boxSlot n).owner ∧ (d.boxSlot n).poster = o.val ∧ (∀ m, m ≠ n → d.boxSlot m = c.boxSlot m) ∧ d.regs = c.regs ∧ d.mem = c.mem)
          ∧ ((c.boxSlot n).state ≠ 1 → Answers (.poboxPost o) s fun d => d.fb POBOX_EVT_STATE_ERR = true ∧ d.fu = c.fu ∧ d.mem = c.mem)
          ∧ ((c.boxSlot n).state = 2 → (c.boxSlot n).discard = false → Answers (.poboxAbort o late) s
              (Receipted n (receiptWords 1 (c.boxWord n 0 % 256) false false c.fu.copyA.gen c.fuNow (c.tkey n) [])))
          ∧ ((c.boxSlot n).state = 3 → Answers (.poboxAbort o late) s fun d => (d.boxSlot n).state = 3 ∧ (d.boxSlot n).abort = (if late then 2 else 1)
              ∧ d.regs = c.regs ∧ d.mem = c.mem)
          ∧ ((c.boxSlot n).state = 1 ∨ (c.boxSlot n).state = 4 → Answers (.poboxRelease o) s fun d => (d.boxSlot n).state = 0
              ∧ (∀ m, m ≠ n → d.boxSlot m = c.boxSlot m) ∧ d.regs = c.regs ∧ d.mem = c.mem))
        ∧ (c.ownsSlot o n = false → Answers (.poboxPost o) s fun d => d.fb POBOX_EVT_OWNER_ERR = true ∧ d.fu = c.fu ∧ d.mem = c.mem))
      ∧ (c.expert 0x16 = true →
        (v.bit 31 = true → v.bits 5 0 < 63 → (c.boxSlot (v.bits 5 0)).state = 1 ∨ (c.boxSlot (v.bits 5 0)).state = 4 →
          Answers (.poboxXforce v) s fun d => (d.boxSlot (v.bits 5 0)).state = 0 ∧ d.regs = c.regs ∧ d.mem = c.mem)
        ∧ (c.fu.sealed = false → Answers (.poboxXinj v) s fun d => d.f POBOX_XINJ_NOTICE_INJ = v.bits 3 0
          ∧ (∀ j, j ≠ POBOX_XINJ → d.reg j = c.reg j) ∧ d.fu = c.fu ∧ d.mem = c.mem)
        ∧ (c.fu.sealed = true → exec (.poboxXinj v) s = .next s)))
    ∧ (∀ n, c.nextPosted = some n → (∃ x, (n, x) ∈ c.fu.slots ∧ x.state = 2 ∧ ∀ q ∈ c.fu.slots, q.2.state = 2 → c.fu.role ≠ 2 →
        c.fu.holdRequests = false → x.posted ≤ q.2.posted)
      ∧ (c.fuServes = true → c.busySlot = none →
        (opKnown (c.boxWord n 0 % 256) = true → Answers .poboxServe s fun d => (d.boxSlot n).state = 3 ∧ (∀ m, m ≠ n → d.boxSlot m = c.boxSlot m)
          ∧ d.regs = c.regs ∧ d.mem = c.mem)
        ∧ (opKnown (c.boxWord n 0 % 256) = false → (c.boxSlot n).abort = 0 → (c.boxSlot n).discard = false → Answers .poboxServe s
          (Receipted n (receiptWords 2 (c.boxWord n 0 % 256) false false c.fu.copyA.gen c.fuNow (c.tkey n) [])))))

/-- R408, R410 to R412, R416 to R420, R429 to R434, R437, R449, R568.  The operations of the Franking Unit: what each changes, and the receipt that
reports it.  A COMMIT makes one journal entry with all its changes, a duplicate TKEY returns the old receipt, a refusal changes no meter; the seal
is broken and restored by a token that verifies alone. -/
def Obligations.FrankingOperations : Prop :=
  ∀ (n : Fin 64) (s : State),
    let c := s.chip
    let w (i : Nat) := c.boxWord n i
    let gives (op st : Nat) (data : List Nat) (d : Chip) : Prop :=
      Receipted n (receiptWords st op false false d.fu.copyA.gen c.fuNow (c.tkey n) data) d
    let kept (d : Chip) : Prop := d.fu.copyA = c.fu.copyA ∧ d.fu.journal = c.fu.journal ∧ d.fu.sealed = c.fu.sealed
    let committed (d : Chip) (source cause : Nat) : Prop :=
      ∃ e ∈ d.fu.journal, e.gen = (c.fu.copyA.gen + 1) % 2 ^ 32 ∧ e.source = source ∧ e.cause = cause ∧ e.tkey = c.tkey n
    (∀ op i, (op = 1 ∧ i = Instr.read ∨ op = 2 ∧ i = Instr.commit ∨ op = 3 ∧ i = Instr.report) → c.busySlot = some n.val → w 0 % 256 = op →
        c.fuServes = true → (c.boxSlot n).abort = 1 → (c.boxSlot n).discard = false → Answers i s fun d => gives op 1 [] d ∧ kept d)
    ∧ (Serving c n 1 → 1 ≤ w 3 → w 3 ≤ 5 → (∀ i, i < w 3 → w (4 + i) < 128) → Answers .read s fun d =>
        gives 1 0 (words64 ((List.range (w 3)).map fun i => c.meter (w (4 + i)))) d ∧ kept d)
    ∧ (Serving c n 2 →
        let ch := (List.range (w 3)).map fun i => (w (4 + 2 * i), sextInt 32 (w (5 + 2 * i)))
        (c.tkey n = 0 ∨ w 3 = 0 ∨ 5 ≤ w 3 → Answers .commit s fun d => gives 2 2 [] d ∧ kept d)
        ∧ (c.tkey n ≠ 0 → 1 ≤ w 3 → w 3 ≤ 4 →
          (∀ e, c.fu.journal.find? (fun e => e.tkey == c.tkey n) = some e → Answers .commit s fun d => kept d
            ∧ Receipted n (receiptWords 0 2 true false e.gen e.postmark (c.tkey n) (words64 e.vals)) d)
          ∧ (c.fu.journal.find? (fun e => e.tkey == c.tkey n) = none →
            (c.commitHeld = true → Answers .commit s fun d => gives 2 0x0A [] d ∧ kept d)
            ∧ (c.commitHeld = false → c.fu.sealed = false → Answers .commit s fun d => gives 2 7 [] d ∧ kept d)
            ∧ (c.commitHeld = false → c.fu.sealed = true →
              (∀ e, c.checkChanges ch c.fu.copyA.val = .error e → Answers .commit s fun d => gives 2 e [] d ∧ kept d)
              ∧ (∀ v, c.checkChanges ch c.fu.copyA.val = .ok v → Answers .commit s fun d =>
                gives 2 0 (words64 (ch.map fun p => sget z0 v p.1)) d
                ∧ (∃ e ∈ d.fu.journal, e.gen = (c.fu.copyA.gen + 1) % 2 ^ 32 ∧ e.tkey = c.tkey n ∧ e.source = 0 ∧ e.changes = ch)
                ∧ (w 3 = 1 → d.meter (w 4) = c.meterPlus (w 4) (c.meter (w 4)) (sextInt 32 (w 5))))))))
    ∧ (Serving c n 3 → Answers .report s fun d => gives 3 0 [c.fu.nextReport, 1248] d ∧ kept d ∧ d.fu.nextReport = (c.fu.nextReport + 1) % 4
        ∧ ∃ b l, d.fu.reports = (c.fu.nextReport, b) :: l)
    ∧ (Serving c n 4 → w 3 < 4 → w 4 < 32 →
        (∀ r, c.fu.reports.find? (fun r => r.1 == w 3) = some r → Answers .reportRead s fun d => kept d
          ∧ gives 4 0 ((List.range 10).map fun i => numAt r.2 (40 * w 4 + 4 * i) 4) d)
        ∧ (c.fu.reports.find? (fun r => r.1 == w 3) = none → Answers .reportRead s fun d => gives 4 0x0B [] d ∧ kept d))
    ∧ (Serving c n 5 → Answers .ident s fun d => kept d ∧ gives 5 0 ((List.range 10).map fun i => numAt (identPubBytes ++ serialBytes) (4 * i) 4) d)
    ∧ (Serving c n 6 → Answers .time s fun d => kept d
        ∧ gives 6 0 [c.rtc, c.f FU_RTC_STAT_VALID, c.fuNow % 2 ^ 32, c.fuNow / 2 ^ 32] d)
    ∧ (Serving c n 7 → c.unenrolled = false → c.logicDoor = true → Answers .sealBreak s fun d => match c.tokenSlot n 7 with
        | none => gives 7 9 [] d ∧ kept d
        | some _ => gives 7 0 [] d ∧ d.fu.sealed = false ∧ committed d 4 3)
    ∧ (Serving c n 7 → c.logicDoor = false → Answers .sealBreak s fun d => gives 7 9 [] d ∧ kept d)
    ∧ (Serving c n 8 → c.unenrolled = false → c.fu.rom = false → Answers .reseal s fun d => match c.tokenSlot n 8 with
        | none => gives 8 9 [] d ∧ kept d
        | some _ => gives 8 0 [] d ∧ d.fu.sealed = true ∧ committed d 4 3)
    ∧ (Serving c n 9 → w 3 < 16 → Answers .notice s fun d => gives 9 0 [] d ∧ d.fu.layout = w 3 ∧ committed d 0 13)
    ∧ (Serving c n 0x0A → w 3 ≤ 4048 → w 3 % 4 = 0 → Answers .stage s fun d => gives 0x0A 0 [] d ∧ kept d
        ∧ ∀ i, i < 48 → sget (fun _ => (0 : Byte)) d.fu.staging (w 3 + i) = (c.opBytes n).getD i 0)
    ∧ (Serving c n 0x0B → w 3 ≤ 0x3FFD0 → w 3 % 4 = 0 → c.fu.storeOk = true → Answers .fwWrite s fun d => gives 0x0B 0 [] d ∧ kept d
        ∧ ∀ i, i < 48 → sget (fun _ => (0 : Byte)) d.fu.store (fwSlot (1 - c.fu.slot) + w 3 + i) = (c.opBytes n).getD i 0)
    ∧ (Serving c n 0x0C → c.fu.sealed = true → Answers .fwActivate s fun d => gives 0x0C 8 [] d ∧ kept d)
    ∧ (Serving c n 0x0C → c.fu.sealed = false → c.enrolment = none → Answers .fwActivate s fun d =>
        if c.imageOk c.sealDigests (1 - c.fu.slot) then d.fu.ready = true ∧ d.core 62 = Core.reset 62 ∧ (d.boxSlot n).state = 4
        else gives 0x0C 9 [] d ∧ kept d)
    ∧ (Serving c n 0x0D → c.fu.sealed = false ∨ c.fb FU_RTC_STAT_VALID = false → Answers .clockSet s fun d => gives 0x0D 0 [] d
        ∧ d.fu.rtcSet = some (Word.of (w 3)) ∧ d.fb FU_RTC_STAT_VALID = true ∧ committed d 4 14)
    ∧ (Serving c n 0x0D → c.fu.sealed = true → c.fb FU_RTC_STAT_VALID = true → c.rtc + 60 < w 3 → Answers .clockSet s fun d => gives 0x0D 8 [] d
        ∧ kept d ∧ d.fu.rtcSet = c.fu.rtcSet)
    ∧ (Serving c n 0x0E → c.fu.sealed = true → Answers .meterInit s fun d => gives 0x0E 8 [] d ∧ kept d)
    ∧ (Serving c n 0x0E → c.fu.sealed = false → Answers .meterInit s fun d => gives 0x0E 0 [] d ∧ committed d 4 16 ∧ ∀ m, 16 ≤ m → d.meter m = 0)
    ∧ (Serving c n 0x0F → Answers .recoverAck s fun d => gives 0x0F 0 [] d ∧ committed d 4 15 ∧ d.fu.recovery = c.fu.recoveryHard)
    ∧ (Serving c n 0x10 → w 3 < 65536 → Answers .faultClear s fun d => gives 0x10 0 [] d ∧ committed d 4 0
        ∧ ∀ k, k < 8 → ((w 3).testBit k = true → (d.meterOut k).fault = false) ∧ ((w 3).testBit (8 + k) = true → (d.pulseIn k).jam = false))

/-- R399 to R408, R422 to R425, R438 to R454.  The Franking Unit's supplies, clock, pins, store and mirror: pulses are counted and committed, meter
outputs pulse while they may, a fault stops one, doors and tampering are recorded; VDD_FU's loss keeps the keep bank, VSB_F's does not. -/
def Obligations.FrankingPins : Prop :=
  ∀ (i : Fin 8) (dr : Fin 4) (tp : Fin 3) (us : Nat) (v : Word) (meas : Fin 0x40000) (code : Fin 256) (ok high : Bool) (data : List Byte) (s : State),
    let c := s.chip
    let x := c.pulseIn i
    let y := c.meterOut i
    Answers .vddFuRise s (fun d => d.fu.vdd = true ∧ d.fu.ready = true ∧ d.core 62 = Core.reset 62 ∧ d.f FU_TAMPER_TRIP = 0)
    ∧ Answers .fuKeepEntry s (fun d => d.fu.vdd = false ∧ d.fu.ready = false ∧ d.fu.copyA = c.fu.copyA ∧ d.fu.journal = c.fu.journal
        ∧ (∀ a, 0x1D10000000 ≤ a → a < 0x1D10030000 → d.byte a = 0) ∧ ∀ a, 0x1D10030000 ≤ a → a < 0x1D10040000 → d.byte a = c.byte a)
    ∧ Answers .vsbFRise s (fun d => d.power.vsbF = true ∧ d.fu.copyA = ⟨false, 0, []⟩ ∧ d.fu.copyB = ⟨false, 0, []⟩ ∧ d.fu.journal = []
        ∧ d.reg FU_RTC = 0 ∧ d.fb FU_RTC_STAT_VALID = false)
    ∧ Answers (.vddioFuChange true) s (fun d => d.fu.vddio = true ∧ d.mem = c.mem)
    ∧ Answers (.vddioFuChange false) s (fun d => d.fu.vddio = false ∧ d.f FU_MOUT_ON = 0 ∧ (c.fu.role ≠ 2 → (d.meterOut i).active = false) ∧ d.mem = c.mem)
    ∧ (c.fu.vdd = true →
        (Answers .fuWdtExpire s fun d => d.fu.ready = true ∧ d.core 62 = Core.reset 62 ∧ d.fu.wdtLocked = false)
        ∧ (Answers (.fuWdtKick v) s fun d => (c.fu.wdtLocked = true → d.f FU_WDT_PERIOD_MS = c.f FU_WDT_PERIOD_MS)
            ∧ (c.fu.wdtLocked = false → d.f FU_WDT_PERIOD_MS = v.bits 9 0)
            ∧ d.fu.wdtLocked = (c.fu.wdtLocked || decide (v.bits 31 16 = 0x5A5A)) ∧ d.mem = c.mem)
        ∧ (Answers (.oscTrim meas code) s fun d => d.f FU_TRIM_MEAS = meas.val ∧ d.f FU_TRIM_CODE = code.val ∧ d.fu = c.fu ∧ d.mem = c.mem)
        ∧ (Answers (.tamperTrip tp) s fun d => d.fu.ready = true ∧ d.core 62 = Core.reset 62 ∧ d.f FU_TAMPER_TRIP = 0)
        ∧ (Answers (.fuSpiDataAccess (some v)) s fun d => d.fu.spiTx = c.fu.spiTx ++ leBytes 4 v.toNat ∧ d.regs = c.regs ∧ d.mem = c.mem)
        ∧ (4 ≤ c.fu.spiRx.length → Answers (.fuSpiDataAccess none) s fun d => d.fu.spiRx = c.fu.spiRx.drop 4
            ∧ sget (fun _ => Answer.none) d.answer 62 = .data (Word.of (leNat (c.fu.spiRx.take 4))) ∧ d.regs = c.regs ∧ d.mem = c.mem)
        ∧ (c.fb FU_SPI_CMD_GO = false → Answers (.fuSpiGo v) s fun d => d.fb FU_SPI_CMD_GO = true ∧ d.fb FU_SPI_CMD_ERR = false ∧ d.fu.spiRx = []
            ∧ d.mem = c.mem)
        ∧ (c.fb FU_SPI_CMD_GO = true → Answers (.fuSpiDone ok data) s fun d => d.fb FU_SPI_CMD_GO = false ∧ d.fb FU_SPI_CMD_ERR = !ok
            ∧ d.fu.spiRx = (if ok = true ∧ c.fb FU_SPI_CMD_WRITE = false then data.take (c.f FU_SPI_CMD_LEN) else []) ∧ d.mem = c.mem)
        ∧ (c.fu.mirTx.length < 128 → Answers (.fuMirDataAccess (some v)) s fun d => d.fu.mirTx = c.fu.mirTx ++ [v] ∧ d.regs = c.regs ∧ d.mem = c.mem)
        ∧ (∀ m l, c.fu.mirRx = m :: l → Answers (.fuMirDataAccess none) s fun d => d.fu.mirRx = l
            ∧ sget (fun _ => Answer.none) d.answer 62 = .data m ∧ d.regs = c.regs ∧ d.mem = c.mem)
        ∧ (Answers .fuMirSend s fun d => d.fu.mirTx = [] ∧ d.mem = c.mem ∧ (c.paired = true →
            sget z0 d.zow.sent 3 = (sget z0 c.zow.sent 3 + 1) % 2 ^ 32))
        ∧ (c.fu.vddio = true → c.regBit FU_PIN_IN i ≠ high → Answers (.pulseEdge i high us) s fun d => d.regBit FU_PIN_IN i = high
            ∧ d.regBit FU_PIN_EV i = true ∧ d.mem = c.mem
            ∧ (c.pulseCounted i = true → high = (nbits (c.pulseWord i 0) 0 0 == 1) → (d.pulseIn i).active = true)
            ∧ (c.pulseCounted i = true → high ≠ (nbits (c.pulseWord i 0) 0 0 == 1) → x.active = true → x.jam = false → x.fast = false → 0 ≤ x.shadow →
                1000 * nbits (c.pulseWord i 1) 15 0 ≤ us → us < 1000 * nbits (c.pulseWord i 1) 31 16 → c.fu.rom = false → c.fu.role ≠ 2 →
                (d.pulseIn i).counted = x.counted + 1 ∧ (d.pulseIn i).active = false))
        ∧ (c.fu.vddio = true → c.pulseCounted i = true → x.active = true → x.jam = false → Answers (.pulseJam i) s fun d =>
            (d.pulseIn i).jam = true ∧ d.mem = c.mem)
        ∧ (x.jam = true → x.active = false → Answers (.pulseResume i) s fun d => (d.pulseIn i).jam = false ∧ d.mem = c.mem)
        ∧ (c.mayPulse = true → 0 < y.pending → y.fault = false → y.phase = 0 → Answers (.meterPulseStart i) s fun d =>
            (d.meterOut i).pending = y.pending - 1 ∧ (d.meterOut i).phase = 1 ∧ (d.meterOut i).active = true ∧ d.regBit FU_MOUT i = true
            ∧ d.mem = c.mem)
        ∧ (y.phase = 1 → Answers (.meterPulseOff i) s fun d => (d.meterOut i).phase = 2 ∧ d.regBit FU_MOUT i = false ∧ d.mem = c.mem)
        ∧ (y.phase = 2 → Answers (.meterPulseEnd i) s fun d => (d.meterOut i).phase = 0 ∧ (d.meterOut i).active = false ∧ d.mem = c.mem)
        ∧ (Answers (.meterReadback i high) s fun d => d.regBit FU_PIN_IN (16 + i.val) = high ∧ d.mem = c.mem
            ∧ (c.regBit FU_MOUT i = high → (d.meterOut i).fault = true ∧ d.regBit FU_MOUT i = false)
            ∧ (c.regBit FU_MOUT i ≠ high → d.meterOut i = y))
        ∧ (c.fu.ready = true → Answers (.archiveWrite false) s fun d => d.fu.storeOk = false ∧ d.fu.storeFault = true ∧ d.fu.journal = c.fu.journal
            ∧ d.mem = c.mem)
        ∧ (∀ e, c.fu.ready = true → 0 < c.fu.unarchived → c.fu.journal[c.fu.unarchived - 1]? = some e → c.fu.doors = [] → c.fu.doorOvf = 0 →
            Answers (.archiveWrite true) s fun d => d.fu.archive = e :: c.fu.archive ∧ d.fu.unarchived = c.fu.unarchived - 1 ∧ d.fu.storeOk = true
              ∧ d.mem = c.mem)
        ∧ (c.fu.ready = true → c.fu.demoted = false → c.fu.role ≠ 2 → c.fu.unarchived < 896 → 0 < x.counted → Answers .pulseCommit s fun d =>
            (d.pulseIn i).counted = 0 ∧ d.mem = c.mem ∧ ((∀ j, j < i.val → (c.pulseIn j).counted = 0) → (c.pulseChanges i).any c.pulseBad = true → (d.pulseIn i).jam = true))
        ∧ (c.fu.ready = true → c.usesNotice dr = true → c.mainRuns = false → Answers (.noticeGraceExpire dr) s fun d =>
            sget off d.fu.noticeBad dr = true ∧ d.commitHeld = true ∧ d.mem = c.mem))
    ∧ (c.power.vsbF = true →
        (∀ w, c.fu.rtcSet = some w → Answers .rtcSecond s fun d => d.reg FU_RTC = w ∧ d.fu.rtcSet = none ∧ d.mem = c.mem)
        ∧ (c.fu.rtcSet = none → Answers .rtcSecond s fun d => d.reg FU_RTC = c.reg FU_RTC + 1 ∧ d.fb FU_RTC_STAT_XTAL_OK = true ∧ d.mem = c.mem)
        ∧ (c.regBit FU_PIN_IN (8 + dr.val) = false →
          (c.fu.vdd = false → c.fu.doors.length < 16 → Answers (.doorOpen dr) s fun d => d.regBit FU_PIN_IN (8 + dr.val) = true
            ∧ d.fu.doors = c.fu.doors ++ [(dr.val, c.rtc, 0)] ∧ d.fb FU_TAMPER_KEEP_DOOR = true ∧ d.mem = c.mem)
          ∧ (c.fu.vdd = true → c.fu.unarchived < 896 → c.fu.role ≠ 2 → c.fu.demoted = false → Answers (.doorOpen dr) s fun d =>
            d.regBit FU_PIN_IN (8 + dr.val) = true ∧ d.meter 2 = c.meterPlus 2 (c.meter 2) 1 ∧ d.mem = c.mem
            ∧ ∃ e ∈ d.fu.journal, e.source = 2 ∧ e.arg = dr.val ∧ e.changes = [(2, 1)]))
        ∧ (c.regBit FU_PIN_IN (8 + dr.val) = true → Answers (.doorClose dr) s fun d => d.regBit FU_PIN_IN (8 + dr.val) = false
            ∧ (c.fu.vdd = true → d.regBit FU_PIN_EV (8 + dr.val) = true) ∧ d.mem = c.mem))
    ∧ Answers .rtcXtalStop s (fun d => d.fb FU_RTC_STAT_XTAL_OK = false ∧ d.fb FU_RTC_STAT_VALID = false ∧ d.reg FU_RTC = c.reg FU_RTC ∧ d.mem = c.mem)
    ∧ (c.fu.vdd = false → Answers (.tamperTrip tp) s fun d => (d.f FU_TAMPER_TRIP).testBit tp = true ∧ d.fu = c.fu ∧ d.mem = c.mem)
    ∧ (c.fu.role = 1 → c.fu.acksDue ≠ [] → Answers .mirrorAckTimeout s fun d => d.fu.stale = true
        ∧ (c.fu.demoted = false → ∃ e ∈ d.fu.journal, e.source = 3 ∧ e.cause = 11) ∧ d.mem = c.mem)
    ∧ (c.fu.role = 1 → c.fu.demoted = false → c.anyRunning = false → Answers .fuDemote s fun d => d.fu.demoted = true ∧ d.fu.stale = true
        ∧ d.f FU_MOUT_ON = 0 ∧ d.fu.copyA = c.fu.copyA ∧ d.mem = c.mem)
    ∧ (∀ e, c.paired = true → c.fu.role = 2 → c.fu.vdd = true → c.fu.heldCommits = [] → e.gen = (c.fu.copyA.gen + 1) % 2 ^ 32 →
        Answers (.mirrorCommitReceive (some e) none [] true) s fun d => d.mem = c.mem
          ∧ (c.fu.stale = false → d.fu.copyA.gen = e.gen ∧ (∃ l, d.fu.journal = e :: l) ∧ d.fu.heldCommits = [])
          ∧ (c.fu.stale = true → d.fu.copyA = c.fu.copyA ∧ d.fu.journal = c.fu.journal ∧ d.fu.heldCommits = [e]))
    ∧ (∀ e r outs, c.paired = true → c.fu.role = 2 → Answers (.mirrorCommitReceive e r outs false) s fun d => d = c)

/-- R457 to R468, R482 to R491. The Zowyn link: training, lane failures, admission with its role and refusals, the time probes, frames in order,
heartbeats, the lease, a takeover, and the resync that makes the twins PAIRED. R469 to R480, R488, R489, R491. What crosses the paired link:
followed frames, seals, snapshots, replicated lines in sequence, bulk copies, and the commands that the Lead alone may give. -/
def Obligations.ZowynResults : Prop :=
  (
    ∀ (rate : Fin 3) (two : Fin 32) (l : Fin 5) (p : Peer) (t1 t2 t3 t4 : Nat) (fr : LinkFrame) (elig : Bool) (gen : Nat) (s : State),
      let c := s.chip
      let st := c.zowState
      let off : Int := (((t2 : Int) - t1) - ((t4 : Int) - t3)) / 2
      Answers .leaseExpire s (fun d => d.zow.leaseOn = false ∧ d.regs = c.regs ∧ d.mem = c.mem)
      ∧ (c.zowUp = true →
        (st = 0 → Answers (.zowEnable true) s fun d => d.zowState = 1 ∧ d.fb ZOW_CTL_EN = true ∧ d.mem = c.mem)
        ∧ (st ≠ 0 → Answers (.zowEnable false) s fun d => d.zowState = 0 ∧ d.fb ZOW_CTL_EN = false ∧ d.f ZOW_STATUS_LANES = 0 ∧ d.mem = c.mem)
        ∧ (c.fb ZOW_CTL_EN = true → st = 0 ∨ st = 1 ∨ st = 6 → c.xf ZOW_XLINK_FORCE 0 ≠ 1 ∨ min 2 (c.xf ZOW_XLINK_RATE 2) = rate.val →
            Answers (.zowTrainDone rate) s fun d => d.zowState = 2 ∧ d.f ZOW_STATUS_RATE = rate.val ∧ d.f ZOW_STATUS_LANES = 4
              ∧ d.f ZOW_LANE_LOCK = 31 ∧ d.f ZOW_LANE_ACTIVE = 15 ∧ d.regBit ZOW_EVT 0 = true ∧ d.zow.sent = c.zow.sent ∧ d.zow.applied = c.zow.applied
              ∧ d.zow.captured = c.zow.captured ∧ d.zow.snapsOut = c.zow.snapsOut ∧ d.zow.frameExpect = 0 ∧ d.mem = c.mem)
        ∧ (st = 1 → Answers .zowTrainTimeout s fun d => d.zowState = 7 ∧ d.f ZOW_STATUS_REFUSE = 10 ∧ d.regBit ZOW_EVT 4 = true ∧ d.mem = c.mem)
        ∧ (c.linkUp = true → c.f ZOW_LANE_LOCK = 31 → l.val ≠ 4 → Answers (.laneFail l two) s fun d => d.regBit ZOW_LANE (16 + l.val) = true
            ∧ (d.f ZOW_LANE_LOCK).testBit l = false ∧ (d.f ZOW_LANE_ACTIVE).testBit l = false ∧ (d.f ZOW_LANE_ACTIVE).testBit 4 = true
            ∧ d.fb ZOW_STATUS_SPARE_USED = true ∧ d.zowState = st ∧ d.mem = c.mem
            ∧ (c.dayb.frozen = false → ∃ e r, d.dayb.ring = e :: r ∧ e.cls = 3 ∧ e.origin = 232 ∧ e.item = l.val))
        ∧ (st = 2 →
            (∀ lead, c.decideRole p = some lead → c.admission p (some lead) = 0 → Answers (.zowAuthDone p) s fun d => d.zowState = 3
              ∧ d.f ZOW_STATUS_ROLE = (if lead then 1 else 2) ∧ d.fu.role = (if lead then 1 else 2) ∧ d.fu.partner = some p.ident
              ∧ d.fu.demoted = false ∧ d.mem = c.mem ∧ d.now = max c.now (min (2 ^ 64 - 1) (p.count + p.delay))
              ∧ (c.now < min (2 ^ 64 - 1) (p.count + p.delay) → d.fb POST_STATUS_STEPPED = true)
              ∧ (c.fu.partner = some p.ident → c.f ZOW_STATUS_ROLE = (if lead then 1 else 2) → c.zow.sent ≠ [] →
                d.zow.sent = c.zow.sent ∧ d.zow.applied = c.zow.applied ∧ d.zow.captured = c.zow.captured ∧ d.zow.snapsOut = c.zow.snapsOut))
            ∧ (c.admission p (c.decideRole p) ≠ 0 → Answers (.zowAuthDone p) s fun d => d.zowState = 7
              ∧ d.f ZOW_STATUS_REFUSE = c.admission p (c.decideRole p) % 16 ∧ d.fu.partner = c.fu.partner ∧ d.fu.role = c.fu.role ∧ d.mem = c.mem)
            ∧ (p.authOk = false → c.admission p (c.decideRole p) = 1))
        ∧ (3 ≤ st → st < 6 →
            (20 < off.natAbs → Answers (.syncProbe t1 t2 t3 t4) s fun d => d.zow.goodOffsets = 0 ∧ d.zow.offset = off ∧ d.zowState = st ∧ d.mem = c.mem)
            ∧ (off.natAbs ≤ 20 → c.zow.goodOffsets < 15 → Answers (.syncProbe t1 t2 t3 t4) s fun d => d.zow.goodOffsets = c.zow.goodOffsets + 1
              ∧ d.zow.offset = off ∧ d.zowState = st ∧ d.mem = c.mem)
            ∧ (off.natAbs ≤ 20 → 15 ≤ c.zow.goodOffsets → Answers (.syncProbe t1 t2 t3 t4) s fun d => d.fb POST_STATUS_TWIN_SYNC = true
              ∧ d.zowState = (if st = 3 then 4 else st) ∧ d.mem = c.mem))
        ∧ (c.linkUp = true →
            (Answers .heartbeatSend s fun d => d.zow.hbSent = c.now ∧ d.regs = c.regs ∧ d.mem = c.mem)
            ∧ (Answers (.heartbeatReceive elig gen) s fun d => d.zow.hbLast = c.now ∧ d.zow.peerEligible = elig ∧ d.zow.peerGen = gen ∧ d.regs = c.regs
              ∧ d.mem = c.mem)
            ∧ (fr.crcOk = true → fr.seq % 4096 = c.zow.frameExpect → fr.detach = false → Answers (.zowFrameReceive fr) s fun d =>
                d.zow.frameExpect = (c.zow.frameExpect + 1) % 4096 ∧ d.mem = c.mem
                ∧ (fr.commitAck = none → fr.events = [] → d.dayb = c.dayb)
                ∧ (c.isMirror = true → d.fu.eventsOut = c.fu.eventsOut.drop fr.eventAcks)
                ∧ (∀ v, c.isLead = true → c.fu.role = 1 → c.fu.demoted = false → fr.commitAck = none → fr.events = [v] →
                  ∃ e r, d.fu.journal = e :: r ∧ e.source = v.source ∧ e.cause = v.cause ∧ e.changes = v.changes ∧ e.gen = (c.fu.copyA.gen + 1) % 2 ^ 32)
                ∧ (c.isMirror = true → fr.treset = true → d.zow.treset = true)
                ∧ (c.isMirror = true → fr.clearDiv = true → d.fb ZOW_STATUS_DIVERGED = false)
                ∧ (c.isMirror = true → ∀ w v, w < 8 → fr.win = some (w, v) → sget (fun _ => 0) d.zow.leadWin w = v))
            ∧ (fr.crcOk = false ∨ fr.seq % 4096 ≠ c.zow.frameExpect → Answers (.zowFrameReceive fr) s fun d => d.zow.frameExpect = c.zow.frameExpect
                ∧ d.fu = c.fu ∧ d.zow.leadWin = c.zow.leadWin ∧ d.mem = c.mem
                ∧ (c.dayb.frozen = false → ∃ e r, d.dayb.ring = e :: r ∧ e.cls = 1 ∧ e.origin = 232)))
        ∧ (c.isLead = true → c.zow.leadWait = false → Answers .leaseRenew s fun d => d.zow.leaseOn = true ∧ d.zow.leaseAt = c.now ∧ d.regs = c.regs
            ∧ d.mem = c.mem)
        ∧ (c.paired = true → Answers .mirrorKeepalive s fun d => sget z0 d.zow.sent 3 = (sget z0 c.zow.sent 3 + 1) % 2 ^ 32 ∧ d.regs = c.regs
            ∧ d.mem = c.mem)
        ∧ (c.isMirror = true → c.paired = true →
            (c.fnLevel .twinPeer = false → c.fu.stale = false → c.fb ZOW_STATUS_DIVERGED = false → Answers (.takeover true true) s fun d =>
              d.f ZOW_STATUS_ROLE = 1 ∧ d.fu.role = 1 ∧ d.zow.leadWait = true ∧ d.zowState = 0 ∧ d.regBit ZOW_EVT 5 = true ∧ d.mem = c.mem)
            ∧ (Answers (.takeover true false) s fun d => d.zowState = 6 ∧ d.isMirror = true ∧ d.regBit ZOW_EVT 14 = true ∧ d.fu.role = c.fu.role
              ∧ d.mem = c.mem)
            ∧ (c.fnLevel .twinPeer = false → c.fu.stale = true → Answers (.takeover true true) s fun d => d.regBit ZOW_EVT 15 = true
              ∧ d.isMirror = true ∧ d.zow = c.zow ∧ d.mem = c.mem))
        ∧ (st = 4 → c.fu.vdd = true → c.isMirror = true →
            (c.fu.journal ≠ [] → (∀ peer wins, (∀ e ∈ c.fu.journal ++ c.fu.archive, e ∉ peer) → Answers (.zowResync peer wins) s fun d =>
              d.zowState = 7 ∧ d.f ZOW_STATUS_REFUSE = 8 ∧ d.fu.copyA = c.fu.copyA ∧ d.mem = c.mem))
            ∧ (c.fu.journal = [] →
                (∀ peer wins, entriesAfter c.fu.copyA.gen peer = [] → genAfter c.zow.peerGen c.fu.copyA.gen ≠ some true →
                  Answers (.zowResync peer wins) s fun d => d.zowState = 5 ∧ d.fb ZOW_STATUS_DIVERGED = true ∧ d.fu.stale = false
                    ∧ d.regBit ZOW_EVT 3 = true ∧ d.fu.copyA = c.fu.copyA ∧ d.mem = c.mem)
                ∧ (∀ wins, genAfter c.zow.peerGen c.fu.copyA.gen = some true → Answers (.zowResync [] wins) s fun d =>
                    d.zowState = 7 ∧ d.f ZOW_STATUS_REFUSE = 8 ∧ d.fu.copyA = c.fu.copyA ∧ d.mem = c.mem)))))
  ∧
  (
    ∀ (o : Fin 4) (f : Follow) (frame crc : BitVec 32) (len : Fin 4096) (x : Snap) (stream : Fin 5) (ln : CapLine) (s : State),
      let c := s.chip
      c.zowUp = true →
      (c.paired = true → c.isMirror = true → Answers (.followReceive o f) s fun d => sget (fun _ => none) d.zow.follow o = some f ∧ d.regs = c.regs
          ∧ d.mem = c.mem)
      ∧ (sget (fun _ => none) c.zow.follow o = some f → c.follows o = true → c.beamRuns o = true → Answers (.followFrameStart o) s fun d =>
          sget (fun _ => none) d.zow.follow o = none ∧ d.reg (OUT_FRAME_COUNT o) = Word.of f.frame
          ∧ (f.latched = true → c.fb (OUT_SCENE_READY o) = false → d.fb ZOW_STATUS_DIVERGED = true))
      ∧ (c.paired = true → c.fb ZOW_CTL_SEAL_EN = true → ∀ own, (sget (fun _ => []) c.zow.ownSeals o).find? (fun p => p.1 == frame.toNat) = some own →
          Answers (.sealReceive o frame crc) s fun d => d.mem = c.mem ∧
            if own.2 = crc.toNat then d.regs = c.regs ∧ d.zow.cleanFrames = c.zow.cleanFrames
            else d.f ZOW_SEAL_MISS_OUT = o.val ∧ d.reg ZOW_SEAL_LAST = frame ∧ d.regBit ZOW_EVT 7 = true ∧ d.zow.cleanFrames = 0)
      ∧ (c.isMirror = false → len.val = 0 ∨ 4032 < len.val → Answers (.snapshotPost len) s fun d => d.regBit ZOW_EVT 16 = true ∧ d.zow = c.zow
          ∧ d.mem = c.mem)
      ∧ (c.isMirror = false → 0 < len.val → len.val ≤ 4032 →
          let src := c.f ZOW_SNAP_SRC_ADDR * 256
          let readable := memRegion (mainRegion c.dramTop src) && c.answers src && memRegion (mainRegion c.dramTop (src + len.val - 1))
          (readable = true → Answers (.snapshotPost len) s fun d => d.zow.snapSeq = (c.zow.snapSeq + 1) % 2 ^ 32
            ∧ d.reg ZOW_SNAP_SEQ = Word.of ((c.zow.snapSeq + 1) % 2 ^ 32) ∧ d.regBit ZOW_EVT 10 = true)
          ∧ (readable = false → Answers (.snapshotPost len) s fun d => sget (fun _ => Answer.none) d.answer 232 = .busError ∧ d.zow = c.zow
            ∧ d.regBit ZOW_EVT 16 = true ∧ d.mem = c.mem))
      ∧ (c.paired = true → c.isMirror = true →
          (genAfter x.seq c.zow.snapSeq ≠ some true → exec (.snapshotReceive x) s = .next s)
          ∧ (genAfter x.seq c.zow.snapSeq = some true → c.zow.snapsHeld = [] → (∀ i, i < 5 → genAfter (x.marks.getD i 0) (sget (fun _ => 0) c.zow.applied (6 + i)) ≠ some true) → Answers (.snapshotReceive x) s fun d =>
            d.zow.snapSeq = x.seq ∧ d.zow.snapsHeld = [] ∧ d.reg ZOW_SNAP_SEQ = Word.of x.seq ∧ d.regBit ZOW_EVT 10 = true)
          ∧ (genAfter x.seq c.zow.snapSeq = some true → c.zow.snapsHeld = [] → (∃ i, i < 5 ∧ genAfter (x.marks.getD i 0) (sget (fun _ => 0) c.zow.applied (6 + i)) = some true) → Answers (.snapshotReceive x) s fun d =>
            d.zow.snapSeq = c.zow.snapSeq ∧ d.zow.snapsHeld = [x] ∧ d.regs = c.regs ∧ d.mem = c.mem)
          ∧ (let n := sget (fun _ => 0) c.zow.applied (6 + stream.val)
             sget (fun _ => []) c.zow.heldLines (6 + stream.val) = [] → c.zow.snapsHeld = [] →
              (n < 2 ^ 32 → ln.mask = 2 ^ 64 - 1 → ln.data.length = 64 → ln.pa % 64 = 0 → CleanPattern c ln.pa 64 →
                ln.bad = [] → Answers (.replicationApply stream ((n + 1) % 2 ^ 32) ln) s fun d =>
                  sget (fun _ => 0) d.zow.applied (6 + stream.val) = (n + 1) % 2 ^ 32
                  ∧ ∀ a, d.byte a = if ln.pa ≤ a ∧ a < ln.pa + 64 then ln.data.getD (a - ln.pa) 0 else c.byte a)
              ∧ (n < 2 ^ 32 → Answers (.replicationApply stream ((n + 2) % 2 ^ 32) ln) s fun d => sget (fun _ => 0) d.zow.applied (6 + stream.val) = n
                ∧ sget (fun _ => []) d.zow.heldLines (6 + stream.val) = [((n + 2) % 2 ^ 32, ln)] ∧ d.mem = c.mem)
              ∧ ∀ m, genAfter m n ≠ some true → exec (.replicationApply stream m ln) s = .next s))
      ∧ (∀ i, i = Instr.bulkGo ∨ i = Instr.handover ∨ i = Instr.detach ∨ i = Instr.treset ∨ i = Instr.seed none ∨ i = Instr.clearDiv → c.isLead = false →
          Answers i s fun d => d.regBit ZOW_EVT 16 = true ∧ d.zow = c.zow ∧ d.fu = c.fu ∧ d.mem = c.mem)
      ∧ (c.isLead = true →
          (c.paired = true → c.f ZOW_BULK_LEN_LEN ≠ 0 → Answers .bulkGo s fun d => d.zow.bulkLeft = some (c.f ZOW_BULK_LEN_LEN) ∧ d.regs = c.regs
            ∧ d.mem = c.mem)
          ∧ (c.paired = true → c.zow.peerEligible = true → Answers .handover s fun d => d.fu.holdRequests = true ∧ d.zow.handover = some 3 ∧ d.mem = c.mem)
          ∧ (c.linkUp = true → Answers .detach s fun d => d.zowState = 0 ∧ d.fu.stale = true ∧ d.mem = c.mem)
          ∧ (c.paired = true → Answers .treset s fun d => sget z0 d.zow.sent 0 = (sget z0 c.zow.sent 0 + 1) % 2 ^ 32 ∧ d.regs = c.regs ∧ d.mem = c.mem)
          ∧ (within 3 6 c.zowState = true → c.zow.peerDoor = true → Answers (.seed none) s fun d =>
              d.zowState = (if c.zowState = 3 then 3 else 4) ∧ d.fu = c.fu ∧ d.mem = c.mem)
          ∧ (Answers .clearDiv s fun d => d.fb ZOW_STATUS_DIVERGED = false ∧ d.fu = c.fu ∧ d.mem = c.mem))
      ∧ (∀ g, within 3 6 c.zowState = true → c.isMirror = true → c.logicDoor = true → Answers (.seed (some (g, []))) s fun d =>
          d.zowState = (if c.zowState = 3 then 3 else 4) ∧ d.fu.copyA = ⟨true, g, []⟩
          ∧ d.fu.journal = [] ∧ d.fu.archive = c.fu.journal.take c.fu.unarchived ++ c.fu.archive ∧ d.mem = c.mem)
      ∧ (∀ n, c.paired = true → c.zow.bulkLeft = some n → Answers .bulkDone s fun d => d.zow.bulkLeft = none ∧ d.regBit ZOW_EVT 13 = true
          ∧ d.mem = c.mem))

/-- R230, R233, R250 to R255, R281 to R283, R285 to R305, R321, R322.  A display: an output starts and stops by EN and pairs while both halves are
stopped; a line start counts the line with its events, a frame start counts the frame and latches a ready scene; the binner ends with BIN_DONE; the
group offers a sorter its next unit; line-timed writes are performed in order, not before the pixel they name; the output stage reads segment by segment, ahead of the beam by the fetch
lead, filling
from one that is not committed; the seal is latched with the frame's last pixel; the beam's position is captured; a sorter is retired and restored. -/
def Obligations.DisplayResults : Prop :=
  ∀ (o : Fin 4) (n : Fin 48) (m : BitVec 12) (x : Fin 16384) (s : State),
    let c := s.chip
    let y := c.out o
    (c.outUp o = true →
      (Answers (.sceneReady o) s fun d => d.fb (OUT_SCENE_READY o) = true ∧ (∀ j, j ≠ OUT_SCENE o → d.reg j = c.reg j) ∧ d.mem = c.mem)
      ∧ (c.running o = false → c.lead o = o.val → (c.wantedTiming o).ok = true → Answers (.outEnable o true) s fun d =>
          d.fb (OUT_CTL_EN o) = true ∧ d.running o = true ∧ (d.out o).starting = true ∧ (d.out o).timing = c.wantedTiming o ∧ d.mem = c.mem)
      ∧ (c.running o = false → c.lead o = o.val → (c.wantedTiming o).ok = false → Answers (.outEnable o true) s fun d =>
          d.running o = false ∧ d.regBit (OUT_EVT o) 10 = true ∧ d.mem = c.mem)
      ∧ (Answers (.outEnable o false) s fun d => d.fb (OUT_CTL_EN o) = false ∧ d.running o = c.running o ∧ d.disp = c.disp ∧ d.mem = c.mem)
      ∧ (∀ pair, o.val % 2 = 0 → c.fb (OUT_CTL_EN o) = false → c.fb (OUT_CTL_PAIR o) ≠ pair →
          (c.running o = false → c.running (o + 1) = false → c.outKind o ≠ 2 → c.outKind (o + 1) ≠ 2 → Answers (.pairWrite o pair) s fun d =>
            d.fb (OUT_CTL_PAIR o) = pair ∧ (d.out o).pairOn = pair ∧ d.mem = c.mem)
          ∧ (c.running o = true ∨ c.running (o + 1) = true → Answers (.pairWrite o pair) s fun d =>
            d.fb (OUT_CTL_PAIR o) = !pair ∧ d.regBit (OUT_EVT o) 14 = true ∧ d.disp = c.disp ∧ d.mem = c.mem)))
    ∧ (c.beamRuns o = true →
      (c.frameDue o = false → y.halfLine = false → Answers (.lineStart o) s fun d => (d.out o).v = y.v + 1 ∧ (d.out o).lineAt = c.now
        ∧ (c.f (OUT_LINE_MATCH_MATCH o) = y.v + 1 → d.regBit (OUT_EVT o) 2 = true)
        ∧ (y.v + 1 = y.timing.vstart + y.lines → d.regBit (OUT_EVT o) 1 = true ∧ d.running o = (c.running o && c.fb (OUT_CTL_EN o)))
        ∧ ((∀ g, (c.grp g).log = []) → d.mem = c.mem))
      ∧ (c.frameDue o = true → c.fb (OUT_CTL_EN o) = true → Answers (.frameStart o) s fun d =>
          d.reg (OUT_FRAME_COUNT o) = (match y.nextNo with | some k => k | none => c.reg (OUT_FRAME_COUNT o) + 1)
          ∧ d.regBit (OUT_EVT o) 0 = true ∧ (d.out o).v = 0 ∧ (d.out o).starting = false ∧ (d.out o).crc = 0xFFFFFFFF
          ∧ (d.out o).sealOn = c.fb (OUT_CTL_SEAL_EN o) ∧ d.fb (OUT_SCENE_READY o) = false
          ∧ (c.fb (OUT_SCENE_READY o) = false → y.starting = false → d.regBit (OUT_EVT o) 7 = true)
          ∧ (c.fb (OUT_SCENE_READY o) = true → c.reg (COMP_SCENE_NEXT o) = 0 ∨ c.tableIn ((c.reg (COMP_SCENE_NEXT o)).toNat * 256) 1 = true →
              d.reg (COMP_SCENE_CUR o) = c.reg (COMP_SCENE_NEXT o))))
    ∧ (y.binBusy = true → c.mainRuns = true → c.power.failed.contains (97 + o.val) = false → ∀ wait, Answers (.binDone o wait) s fun d =>
        d.fb (COMP_EVT_BIN_DONE o) = true ∧ (d.out o).binBusy = false ∧ (d.out o).binned = true
        ∧ (c.scene o = 0 → d.f (COMP_BIN_STAT_BINNED o) = 0 ∧ d.f (COMP_BIN_CYC_CYCLES o) = min (256 + wait) 0xFFFFFF))
    ∧ (∀ g u p i, c.mainRuns = true → c.groupOf n = some g → c.mayOffer g n = some (u, p, i) → Answers (.unitOffer n) s fun d =>
        (d.comp n).next = u + (c.grp g).members.length ∧ (d.comp n).had = true
        ∧ ∃ h, (d.comp n).offered = some h ∧ h.u = u ∧ h.out = p ∧ h.idx = i ∧ h.line = (c.out p).lineOf i ∧ h.first = (!(c.comp n).had)
          ∧ h.closed = false ∧ (h.route, h.arg) = ((routeLookup n (c.grp g).rtab ((c.out p).lineOf i) c).1.1, (routeLookup n (c.grp g).rtab ((c.out p).lineOf i) c).1.2.1))
    ∧ (∀ l w, let lim := match y.lateFrom with | some p => min p y.timing.hactive | none => y.timing.hactive
        c.running o = true → c.outUp o = true → c.beamLine o = some l →
        firstWrite ((c.grp (c.logGroup o)).log.filter fun w =>
          w.out == o.val && w.closed && (Nat.blt w.line l || (w.line == l && Nat.blt w.pixel lim && Nat.ble w.pixel (c.beamX (c.lead o))))) = some w →
        Answers (.lineTimedWritePerform o) s fun d => (d.grp (c.logGroup o)).log = (c.grp (c.logGroup o)).log.erase w
          ∧ (w.entry = none → d.reg (OUT_BGCOLOR o) = Word.of (w.val % 2 ^ 30) ∧ (∀ j, j ≠ OUT_BGCOLOR o → d.reg j = c.reg j) ∧ d.mem = c.mem)
          ∧ ∀ e, w.entry = some e → ∀ a, d.byte a =
              let b := 0x1018000000 + o.val * 0x20000 + e * 8
              if b ≤ a ∧ a < b + 8 then (leBytes 8 w.val).getD (a - b) 0 else c.byte a)
    ∧ (c.segmentDue o = false → ∀ parity, exec (.outSegmentRead o parity) s = .next s)
    ∧ (let segs := (y.timing.hactive + 511) / 512
       c.running o = true → c.outUp o = true → y.starting = false → y.rdLine < y.lines → c.segmentDue o = true →
        ∀ parity, Answers (.outSegmentRead o parity) s fun d =>
          (if y.rdSeg + 1 < segs then (d.out o).rdLine = y.rdLine ∧ (d.out o).rdSeg = y.rdSeg + 1
            else (d.out o).rdLine = y.rdLine + 1 ∧ (d.out o).rdSeg = 0 ∧ ∀ j, j < segs → d.committed o (y.rdLine % 16) j = false)
          ∧ (c.committed o (y.rdLine % 16) y.rdSeg = false → y.rdSeg = 0 ∨ y.fill = false → d.regBit (OUT_EVT o) 4 = true ∧ (d.out o).fill = true)
          ∧ (c.committed o (y.rdLine % 16) y.rdSeg = true → y.rdSeg ≠ 0 → y.fill = false → parity = none → (c.fu.vdd && c.fu.ready) = false →
              (c.reg (COMP_NOTICE_A o)).bit 31 = false → y.timing.bpc8 = false → 512 * y.rdSeg + 512 ≤ y.timing.hactive →
              let px (k : Nat) := sget (fun _ => 0) c.disp.ring ((o.val * 16 + y.rdLine % 16) * 4096 + 512 * y.rdSeg + k)
              (∀ k, k < 512 → px k < 2 ^ 30) → (d.out o).sent = (List.range 512).reverse.map px ++ y.sent ∧ d.mem = c.mem))
    ∧ (c.running o = true → c.outUp o = true → y.starting = false → y.doneFrame = false → y.lines ≤ y.rdLine → Answers (.frameDone o) s fun d =>
        d.reg (OUT_SEAL o) = (if y.sealOn then ~~~y.crc else 0) ∧ d.reg (OUT_SEAL_FRAME o) = c.reg (OUT_FRAME_COUNT o)
        ∧ d.regBit (OUT_EVT o) 3 = true ∧ (d.out o).doneFrame = true)
    ∧ (let l := c.out (c.lead o)
       let pos := l.v * l.timing.htotal + x.val - c.f (OUT_CAP_CTL_COMP o)
       let v := pos / l.timing.htotal
       let col := pos % l.timing.htotal
       ∀ level, sget (fun _ => none) c.pins.beam o = some level → c.running o = true → c.outUp o = true → c.fb (OUT_CAP_CTL_EN o) = true →
        c.capEdge o level = true → x.val < l.timing.htotal → c.f (OUT_CAP_CTL_COMP o) ≤ l.v * l.timing.htotal + x.val →
        l.timing.vstart ≤ v → v < l.timing.vstart + l.lines → col < l.timing.hactive → Answers (.beamCapture o x) s fun d =>
          d.reg (OUT_CAP o) = Word.of (v + 65536 * col + 2 ^ 30 * l.field) ∧ d.regBit (OUT_EVT o) 8 = true
          ∧ d.regBit (OUT_EVT o) 9 = (c.regBit (OUT_EVT o) 8 || c.regBit (OUT_EVT o) 9) ∧ d.mem = c.mem)
    ∧ (∀ r : Fin 256, c.answersRead r (OUT_CAP o) = true → ∀ peek, Answers (.outCapRead o r peek) s fun d =>
        sget (fun _ => Answer.none) d.answer r = .data (c.reg (OUT_CAP o)) ∧ d.regBit (OUT_EVT o) 8 = (peek && c.regBit (OUT_EVT o) 8)
        ∧ (∀ j, j ≠ OUT_EVT o → d.reg j = c.reg j) ∧ d.mem = c.mem)
    ∧ (c.takesWrite m.toNat (retireReg n).1 = true →
      (c.retired n = false → Answers (.sorterRetire m n) s fun d => d.retired n = true ∧ (∀ k, k < 48 → k ≠ n.val → d.retired k = c.retired k)
        ∧ (∀ g, c.groupOf n = some g → n.val ∈ (d.grp g).gone) ∧ d.mem = c.mem)
      ∧ Answers (.sorterRestore m n) s fun d => d.retired n = false ∧ (∀ k, k < 48 → k ≠ n.val → d.retired k = c.retired k)
        ∧ d.disp = c.disp ∧ d.mem = c.mem)

/-- R306 to R312.  The ports: a crossbar change waits for the port to stop and for its new output to start; a rise of hot-plug detect begins
training, which chooses the least link that carries the stream or none, and the stream begins on it at the next frame start; a failed link loses TRAINED; an AUX transaction is busy from BUSY's
write to its RESULT. -/
def Obligations.PortResults : Prop :=
  ∀ (d : Fin 4) (src : Fin 4) (en : Bool) (lanes : Fin 3) (async : Bool) (lo hi : Nat) (rates : List Nat) (result : Fin 4) (data : List Byte) (s : State),
    let c := s.chip
    let p := c.port d
    c.outUp d = true →
      (p.pend = none → Answers (.xbarWrite d src en) s fun e => e.f (OUT_XBAR_SRC d) = src ∧ e.fb (OUT_XBAR_EN d) = en ∧ e.mem = c.mem
        ∧ (src.val = p.src → en = p.en → e.port d = p)
        ∧ (src.val ≠ p.src ∨ en ≠ p.en → e.fb (OUT_XBAR_PENDING d) = true ∧ let idle := !p.en || !c.running p.src || c.analog p.src
            (e.port d).src = (if idle then src.val else p.src) ∧ (e.port d).en = (if idle then en else p.en)
            ∧ (e.port d).pend = some (src.val, en, idle, false)))
      ∧ (∀ a b stopped f, p.pend = some (a, b, stopped, f) → Answers (.xbarWrite d src en) s fun e =>
          (e.port d).pend = some (src.val, en, stopped, false) ∧ (e.port d).src = (if stopped then src.val else p.src)
            ∧ (e.port d).en = (if stopped then en else p.en) ∧ (stopped = true → e.fb (OUT_LINK_TRAINED d) = false) ∧ e.mem = c.mem)
      ∧ (∀ a b f, p.pend = some (a, b, true, f) → f = true ∨ b = false → Answers (.xbarDone d) s fun e =>
          (e.port d).src = a ∧ (e.port d).en = b ∧ (e.port d).pend = none ∧ e.fb (OUT_XBAR_PENDING d) = false ∧ e.regBit (OUT_EVT d) 15 = true ∧ e.mem = c.mem)
      ∧ (Answers (.hpdRise d) s fun e => e.fb (OUT_LINK_HPD d) = true ∧ ((e.port d).training = true ↔ c.xf (OUT_XLINK_FORCE d) 0 = 0)
          ∧ (∀ j, j ≠ OUT_LINK d → e.reg j = c.reg j) ∧ e.mem = c.mem)
      ∧ (c.fb (OUT_LINK_HPD d) = true →
          (p.training = false → exec (.linkTrained d rates lanes async (lo, hi)) s = .next s)
          ∧ (∀ l, p.training = true → c.chooseLink d rates lanes = some l → Answers (.linkTrained d rates lanes async (lo, hi)) s fun e =>
            e.fb (OUT_LINK_TRAINED d) = !c.portBusy d ∧ (e.port d).fresh = c.portBusy d ∧ (e.port d).range = (lo, hi) ∧ e.f (OUT_LINK_RATE d) = l.1 ∧ e.f (OUT_LINK_LANES d) = l.2
            ∧ e.fb (OUT_LINK_SINK_ASYNC d) = async ∧ (e.port d).training = false ∧ e.mem = c.mem)
          ∧ (p.training = true → c.chooseLink d rates lanes = none → Answers (.linkTrained d rates lanes async (lo, hi)) s fun e =>
            e.fb (OUT_LINK_TRAINED d) = false ∧ e.regBit (OUT_EVT d) 12 = true ∧ (e.port d).training = false ∧ e.mem = c.mem)
          ∧ (∀ l, c.chooseLink d rates lanes = some l → c.xf (OUT_XLINK_FORCE d) 0 ≠ 1 →
            c.streamNeed d ≤ lanePayload l.1 * laneCount l.2 ∧ l.1 ∈ rates ∧ l.2 ≤ lanes.val
            ∧ ∀ r k, r < 6 → r ∈ rates → k ≤ lanes.val → c.streamNeed d ≤ lanePayload r * laneCount k → linkBefore (r, k) l = false)
          ∧ (∀ fell, Answers (.linkFail d fell) s fun e => e.fb (OUT_LINK_TRAINED d) = false ∧ e.fb (OUT_LINK_HPD d) = !fell
            ∧ e.regBit (OUT_EVT d) 11 = true ∧ ((e.port d).training = true ↔ fell = false ∧ c.xf (OUT_XLINK_FORCE d) 0 = 0) ∧ e.mem = c.mem)
          ∧ (c.expert (12 + d.val) = true → Answers (.retrain d) s fun e => e.fb (OUT_LINK_TRAINED d) = false ∧ (e.port d).training = true
            ∧ (∀ j, j ≠ OUT_LINK d → e.reg j = c.reg j) ∧ e.mem = c.mem))
      ∧ (Answers (.auxStart d) s fun e => e.fb (OUT_AUX_CMD_BUSY d) = true ∧ (∀ j, j ≠ OUT_AUX_CMD d → e.reg j = c.reg j) ∧ e.mem = c.mem)
      ∧ (c.fb (OUT_AUX_CMD_BUSY d) = true → Answers (.auxDone d result data) s fun e =>
          e.fb (OUT_AUX_CMD_BUSY d) = false ∧ e.f (OUT_AUX_CMD_RESULT d) = result.val ∧ e.mem = c.mem
          ∧ ∀ n, n < 16 → (e.reg (OUT_AUX_DATA d (n / 4))).bits (8 * (n % 4) + 7) (8 * (n % 4)) =
              if result.val = 0 ∧ c.f (OUT_AUX_CMD_KIND d) % 2 = 0 ∧ n ≤ c.f (OUT_AUX_CMD_LEN d) ∧ n < data.length then (data.getD n 0).toNat
              else (c.reg (OUT_AUX_DATA d (n / 4))).bits (8 * (n % 4) + 7) (8 * (n % 4)))

/-- R357 to R362, R371, R377 to R386, R391, R392.  Audio: EN starts a stopped domain on its slip unless the slip is refused; GO asks for a swap; a tick
takes the next sample number and sends each port that carries its stream its sample, 0.0 while frozen; a domain whose EN is 0 stops at a block start; voice commands are appended
by WR; a measured bridge takes the ratio found; a received sample joins its point; ended voices and the sample number are read. -/
def Obligations.AudioResults : Prop :=
  ∀ (i : Fin 3) (wr : Fin 64) (b : Fin 16) (ratio : Nat) (p : Fin 2) (slot : Fin 16) (v : Int) (o : Fin 256) (peek : Bool) (s : State),
    let c := s.chip
    let x := c.adom i
    (c.audUp = true →
      (let r := c.setReg AUD_CTL (writeWord false AUD_CTL (c.reg AUD_CTL) ((c.reg AUD_CTL).setBit i true))
       let off := c.f (AUD_SLIP_NEXT_OFFSET i) * 256
       (c.reg AUD_CTL).bit i = false → x.run = false →
        ((slipRefused i off r).1 = false → Answers (.domainStart i true) s fun d => (d.reg AUD_CTL).bit i = true ∧ (d.adom i).run = true
          ∧ (d.adom i).slip = off ∧ (d.adom i).sn = none ∧ d.f (AUD_SLIP_CUR_OFFSET i) = off)
        ∧ ((slipRefused i off r).1 = true → Answers (.domainStart i true) s fun d => d.regBit AUD_EVT 14 = true ∧ d.adom i = x))
      ∧ (Answers (.domainStart i false) s fun d => (d.reg AUD_CTL).bit i = false ∧ d.aud = c.aud ∧ (∀ j, j ≠ AUD_CTL → d.reg j = c.reg j) ∧ d.mem = c.mem)
      ∧ (x.run = true → x.swap = none →
          let w := writeWord false (AUD_SLIP_NEXT i) (c.reg (AUD_SLIP_NEXT i)) (((c.reg (AUD_SLIP_NEXT i)).setBit 31 true).setBit 31 false)
          (slipRefused i (c.f (AUD_SLIP_NEXT_OFFSET i) * 256) (c.setReg (AUD_SLIP_NEXT i) w)).1 = false → Answers (.slipGo i) s fun d =>
            (d.adom i).swap = some (c.f (AUD_SLIP_NEXT_OFFSET i) * 256, c.f (AUD_SLIP_NEXT_XF i)) ∧ (d.adom i).slip = x.slip
            ∧ d.fb (AUD_SLIP_NEXT_GO i) = true)
      ∧ (x.run = true → x.swap.isSome = true → Answers (.slipGo i) s fun d => d.regBit AUD_EVT 12 = true ∧ d.aud = c.aud ∧ d.mem = c.mem)
      ∧ (let left (n : Nat) := (n + 64 - c.f (AUD_VCQ_RD i)) % 64
         (left (c.f (AUD_VCQ_WR i)) ≤ left wr → Answers (.vcqWrWrite i wr) s fun d => d.f (AUD_VCQ_WR i) = wr ∧ d.f (AUD_VCQ_RD i) = c.f (AUD_VCQ_RD i)
            ∧ d.f (AUD_VCQ_BASE i) = c.f (AUD_VCQ_BASE i) ∧ (∀ j, j ≠ AUD_VCQ i → d.reg j = c.reg j) ∧ d.aud = c.aud ∧ d.mem = c.mem)
         ∧ (left wr < left (c.f (AUD_VCQ_WR i)) → Answers (.vcqWrWrite i wr) s fun d => d.regBit AUD_EVT 12 = true ∧ d.reg (AUD_VCQ i) = c.reg (AUD_VCQ i)
            ∧ d.aud = c.aud ∧ d.mem = c.mem))
      ∧ (let n := match x.sn with | some n => (n + 1) % 2 ^ 64 | none => 0
         x.run = true → c.unitFrozen (10 + i.val) = false → (i.val = 2 → c.vTicks = true) →
          (n % c.blk i ≠ 0 → Answers (.audioTick i) s fun d => (d.adom i).sn = some n ∧ (d.adom i).play = x.play ∧ d.regs = c.regs ∧ d.mem = c.mem
            ∧ ∀ q w, (q, w) ∈ c.portPoints i → c.pointSends q = true →
              sget (fun _ => 0) d.aud.sent q = F32.toInt (sget (fun _ => 0) x.play (q * 64 + n % c.blk i)) (w - 1) (-(2 ^ (w - 1))) (2 ^ (w - 1) - 1))
          ∧ (n % c.blk i = 0 → (c.reg AUD_CTL).bit i = true → Answers (.audioTick i) s fun d => (d.adom i).sn = some n ∧ (d.adom i).run = true)
          ∧ (n % c.blk i = 0 → (c.reg AUD_CTL).bit i = false → Answers (.audioTick i) s fun d => (d.adom i).run = false ∧ (d.adom i).slip = x.slip
            ∧ d.mem = c.mem))
      ∧ (x.run = true → c.unitFrozen (10 + i.val) = true → Answers (.audioTick i) s fun d => d.adom i = x ∧ d.regs = c.regs ∧ d.mem = c.mem
          ∧ ∀ q w, (q, w) ∈ c.portPoints i → c.pointSends q = true → sget (fun _ => 0) d.aud.sent q = 0)
      ∧ ((c.bridgeOn b).on = true → c.bridgeMeasured b = true → Answers (.bridgeRatioMeasure b ratio) s fun d =>
          d.bridgeOn b = { c.bridgeOn b with ratio := ratio % 2 ^ 36 } ∧ d.fb (AUD_BR_CFG_MEAS b) = true
          ∧ (∀ j, j ≠ AUD_BR_CFG b → d.reg j = c.reg j) ∧ d.mem = c.mem)
      ∧ (c.fb (AIO_TDM_EN p) = true → c.fb (AIO_TDM_RXEN p) = true → c.tdmRateOk p = true → (c.adom (c.tdmDom p)).run = true →
          (Answers (.rxSample p slot v true) s fun d => d.regBit AIO_EVT p = true ∧ d.aud = c.aud ∧ d.mem = c.mem)
          ∧ Answers (.rxSample p slot v false) s fun d => d.regs = c.regs ∧ d.mem = c.mem
            ∧ sget (fun _ => none) (d.adom (c.tdmDom p)).arrived
                ((16 * p.val + slot.val) * 64 + (match (c.adom (c.tdmDom p)).sn with | some n => n | none => 0) % c.blk (c.tdmDom p))
              = some (F32.ofInt (sextInt (c.tdmSampw p) (v % 2 ^ c.tdmSampw p).toNat) (-(c.tdmSampw p - 1 : Nat))))
      ∧ ((c.adom 1).run = true → (c.audCtl 1).bit 4 = true → Answers .audclkBLoss s fun d => d.regBit AIO_EVT 3 = true ∧ d.aud = c.aud
          ∧ (∀ j, j ≠ AIO_EVT → d.reg j = c.reg j) ∧ d.mem = c.mem))
    ∧ (c.answersRead o AUD_VEND = true → Answers (.audVendRead o peek) s fun d => d.regs = c.regs ∧ d.mem = c.mem
        ∧ d.aud.vend = (if peek then c.aud.vend else c.aud.vend.tail)
        ∧ sget (fun _ => Answer.none) d.answer o = .data (match c.aud.vend with
          | [] => c.reg AUD_VEND &&& 0x40000000
          | e :: _ => ((c.reg AUD_VEND &&& 0x40000000).setBits 8 0 e).setBit 31 true))
    ∧ (c.answersRead o (AUD_SN_LO i) = true → Answers (.audSnLoRead o i peek) s fun d =>
        sget (fun _ => Answer.none) d.answer o = .data (Word.of (c.snOf i)) ∧ d.regs = c.regs ∧ d.mem = c.mem
        ∧ (peek = false → sget (fun _ => 0) d.aud.snHi (o.val * 4 + i.val) = Word.of (c.snOf i / 2 ^ 32))
        ∧ (peek = true → d.aud = c.aud))

end
end

