-- ==== Sys2Proof/Laws/Sparse.lean ====
section
/-! SUPPORT. The laws of sparse tables: a read after a write, and that every operation keeps the canonical form. -/

namespace Sys2Proof.Machine

variable {α : Type} [DecidableEq α] {d : Nat → α}

omit [DecidableEq α] in
/-- A dropped key reads as the default. -/
theorem sget_sdrop_same (m : Sparse α) (k : Nat) : sget d (sdrop m k) k = d k := by
  induction m with
  | nil => rfl
  | cons p t ih =>
    by_cases h : p.1 = k
    · simp [sdrop, h, ih]
    · simp [sdrop, sget, h, ih]

omit [DecidableEq α] in
/-- Dropping a key leaves every other key as it was. -/
theorem sget_sdrop_other (m : Sparse α) {k j : Nat} (h : j ≠ k) : sget d (sdrop m k) j = sget d m j := by
  induction m with
  | nil => rfl
  | cons p t ih =>
    by_cases hk : p.1 = k
    · have : p.1 ≠ j := by omega
      simp [sdrop, sget, hk, ih, Ne.symm h]
    · by_cases hj : p.1 = j <;> simp [sdrop, sget, hk, hj, ih, h]

omit [DecidableEq α] in
/-- An inserted key reads as its value. -/
theorem sget_sins_same (m : Sparse α) (k : Nat) (v : α) (h : ∀ x, (k, x) ∉ m) : sget d (sins m k v) k = v := by
  induction m with
  | nil => simp [sins, sget]
  | cons p t ih =>
    have hp : p.1 ≠ k := by
      intro e
      exact h p.2 (by simp [← e])
    have ht : ∀ x, (k, x) ∉ t := fun x hx => h x (by simp [hx])
    by_cases hk : k < p.1
    · simp [sins, sget, hk]
    · simp [sins, sget, hk, hp, ih ht]

omit [DecidableEq α] in
/-- Inserting a key leaves every other key as it was. -/
theorem sget_sins_other (m : Sparse α) {k j : Nat} (v : α) (h : j ≠ k) : sget d (sins m k v) j = sget d m j := by
  induction m with
  | nil => simp [sins, sget, Ne.symm h]
  | cons p t ih =>
    by_cases hk : k < p.1
    · simp [sins, sget, hk, Ne.symm h]
    · have : sins (p :: t) k v = p :: sins t k v := by simp [sins, hk]
      rw [this]
      simp only [sget, ih]

omit [DecidableEq α] in
/-- A dropped key is listed no more. -/
theorem not_mem_sdrop (m : Sparse α) (k : Nat) (x : α) : (k, x) ∉ sdrop m k := by
  induction m with
  | nil => simp [sdrop]
  | cons p t ih =>
    by_cases hk : p.1 = k
    · simp [sdrop, hk, ih]
    · have : (k, x) ≠ p := fun e => hk (by rw [← e])
      simp [sdrop, hk, ih, this]

/-- A read of the key written gives the value written. -/
@[simp] theorem sget_sset_same (m : Sparse α) (k : Nat) (v : α) : sget d (sset d m k v) k = v := by
  unfold sset
  split
  · rw [sget_sdrop_same]; exact Eq.symm ‹_›
  · exact sget_sins_same _ _ _ (not_mem_sdrop m k)

/-- A write leaves every other key as it was. -/
theorem sget_sset_other (m : Sparse α) {k j : Nat} (v : α) (h : j ≠ k) : sget d (sset d m k v) j = sget d m j := by
  unfold sset
  split
  · exact sget_sdrop_other m h
  · rw [sget_sins_other _ _ h, sget_sdrop_other m h]

omit [DecidableEq α] in
/-- Dropping a key twice. -/
theorem sdrop_sdrop (m : Sparse α) (k : Nat) : sdrop (sdrop m k) k = sdrop m k := by
  induction m with
  | nil => rfl
  | cons p t ih => by_cases h : p.1 = k <;> simp [sdrop, h, ih]

omit [DecidableEq α] in
/-- Dropping a key just inserted. -/
theorem sdrop_sins (m : Sparse α) (k : Nat) (v : α) : sdrop (sins m k v) k = sdrop m k := by
  induction m with
  | nil => simp [sins, sdrop]
  | cons p t ih =>
    by_cases hk : k < p.1
    · simp [sins, hk, sdrop]
    · by_cases h : p.1 = k <;> simp [sins, sdrop, hk, h, ih]

/-- The later of two writes of one key stands. -/
@[simp] theorem sset_sset (m : Sparse α) (k : Nat) (v w : α) : sset d (sset d m k v) k w = sset d m k w := by
  have h : sdrop (sset d m k v) k = sdrop m k := by
    unfold sset
    split
    · exact sdrop_sdrop m k
    · rw [sdrop_sins, sdrop_sdrop]
  unfold sset at h ⊢
  rw [h]

/-- Either key. -/
theorem sget_sset (m : Sparse α) (k j : Nat) (v : α) : sget d (sset d m k v) j = if j = k then v else sget d m j := by
  split
  · subst_vars; exact sget_sset_same m _ v
  · exact sget_sset_other m v ‹_›

/-- A read of the key changed gives the changed value. -/
@[simp] theorem sget_smod_same (m : Sparse α) (k : Nat) (f : α → α) : sget d (smod d m k f) k = f (sget d m k) := by
  simp [smod]

/-- A change leaves every other key as it was. -/
theorem sget_smod_other (m : Sparse α) {k j : Nat} (f : α → α) (h : j ≠ k) : sget d (smod d m k f) j = sget d m j :=
  sget_sset_other m _ h

/-- A table canonical from `lo` up is canonical from any lower key up. -/
theorem sparseFrom_mono {lo lo' : Nat} (h : lo' ≤ lo) : ∀ {m : Sparse α}, sparseFrom d lo m = true → sparseFrom d lo' m = true
  | [], _ => rfl
  | (a, x) :: t, hm => by
    simp only [sparseFrom, Bool.and_eq_true, Nat.ble_eq] at hm ⊢
    exact ⟨⟨by omega, hm.1.2⟩, hm.2⟩

/-- Dropping a key keeps the canonical form. -/
theorem sparseFrom_sdrop (k : Nat) : ∀ {lo : Nat} {m : Sparse α}, sparseFrom d lo m = true → sparseFrom d lo (sdrop m k) = true
  | _, [], _ => rfl
  | lo, (a, x) :: t, hm => by
    simp only [sparseFrom, Bool.and_eq_true, Nat.ble_eq] at hm
    have ih := sparseFrom_sdrop k hm.2
    by_cases ha : a = k
    · simpa [sdrop, ha] using sparseFrom_mono (by omega) (ha ▸ ih)
    · simp only [sdrop, ha, if_false, sparseFrom, Bool.and_eq_true, Nat.ble_eq]
      exact ⟨hm.1, ih⟩

/-- Inserting a value other than the default keeps the canonical form. -/
theorem sparseFrom_sins {k : Nat} {v : α} (hv : v ≠ d k) :
    ∀ {lo : Nat} {m : Sparse α}, lo ≤ k → (∀ x, (k, x) ∉ m) → sparseFrom d lo m = true → sparseFrom d lo (sins m k v) = true
  | _, [], hl, _, _ => by simp [sins, sparseFrom, hl, hv]
  | lo, (a, x) :: t, hl, hn, hm => by
    have ha : a ≠ k := by
      intro e
      exact hn x (by simp [e])
    simp only [sparseFrom, Bool.and_eq_true, Nat.ble_eq] at hm
    by_cases hk : k < a
    · simp only [sins, hk, if_true, sparseFrom, Bool.and_eq_true, Nat.ble_eq]
      exact ⟨⟨hl, by simp [hv]⟩, ⟨⟨by omega, hm.1.2⟩, hm.2⟩⟩
    · simp only [sins, hk, if_false, sparseFrom, Bool.and_eq_true, Nat.ble_eq]
      exact ⟨hm.1, sparseFrom_sins hv (by omega) (fun y hy => hn y (by simp [hy])) hm.2⟩

/-- A write keeps the canonical form. -/
theorem sparseWf_sset (m : Sparse α) (k : Nat) (v : α) (h : sparseWf d m = true) : sparseWf d (sset d m k v) = true := by
  unfold sparseWf sset at *
  split
  · exact sparseFrom_sdrop k h
  · exact sparseFrom_sins ‹_› (Nat.zero_le k) (not_mem_sdrop m k) (sparseFrom_sdrop k h)

/-- A change keeps the canonical form. -/
theorem sparseWf_smod (m : Sparse α) (k : Nat) (f : α → α) (h : sparseWf d m = true) : sparseWf d (smod d m k f) = true :=
  sparseWf_sset m k _ h

/-- Leaving entries out keeps the canonical form. -/
theorem sparseFrom_filter (p : Nat × α → Bool) :
    ∀ {lo : Nat} {m : Sparse α}, sparseFrom d lo m = true → sparseFrom d lo (m.filter p) = true
  | _, [], _ => rfl
  | lo, (a, x) :: t, hm => by
    simp only [sparseFrom, Bool.and_eq_true, Nat.ble_eq] at hm
    have ih := sparseFrom_filter p hm.2
    by_cases hp : p (a, x)
    · simp only [List.filter_cons, hp, if_true, sparseFrom, Bool.and_eq_true, Nat.ble_eq]
      exact ⟨hm.1, ih⟩
    · simp only [List.filter_cons, hp]
      exact sparseFrom_mono (by omega) ih

/-- Wiping a range keeps the canonical form. -/
theorem sparseWf_swipe (m : Sparse α) (lo hi : Nat) (h : sparseWf d m = true) : sparseWf d (swipe m lo hi) = true :=
  sparseFrom_filter _ h

omit [DecidableEq α] in
/-- A key inside the wiped range reads as the default, any other as before. -/
theorem sget_swipe (m : Sparse α) (lo hi k : Nat) :
    sget d (swipe m lo hi) k = if lo ≤ k ∧ k < hi then d k else sget d m k := by
  induction m with
  | nil => simp [swipe, sget]
  | cons p t ih =>
    by_cases hp : lo ≤ p.1 ∧ p.1 < hi
    · have e : swipe (p :: t) lo hi = swipe t lo hi := by
        simp [swipe, Nat.ble_eq, Nat.blt_eq, hp]
      rw [e, ih]
      by_cases hk : p.1 = k
      · subst hk; simp [hp]
      · simp [sget, hk]
    · have e : swipe (p :: t) lo hi = p :: swipe t lo hi := by
        have : (!(Nat.ble lo p.1 && Nat.blt p.1 hi)) = true := by
          rw [Bool.not_eq_true', Bool.eq_false_iff]
          intro h
          rw [Bool.and_eq_true, Nat.ble_eq, Nat.blt_eq] at h
          exact hp h
        simp only [swipe, List.filter_cons, this, if_true]
      rw [e]
      simp only [sget, ih]
      by_cases hk : p.1 = k
      · subst hk; simp [hp]
      · simp [hk]

end Sys2Proof.Machine
end

