-- ==== Sys2Proof/Laws/Word.lean ====
section
/-! SUPPORT. The laws of bit fields: what a field reads after it, or another one, is set. -/

namespace Sys2Proof.Word

/-- The number of `of n`. -/
@[simp] theorem toNat_of (n : Nat) : (of n).toNat = n % 2 ^ 32 := by simp [of]

/-- A number under a mask of `k` bits at `l`: the field there. -/
theorem and_mask (n k l : Nat) : n &&& ((2 ^ k - 1) <<< l) = (n / 2 ^ l % 2 ^ k) * 2 ^ l := by
  apply Nat.eq_of_testBit_eq
  intro i
  rw [Nat.testBit_and, Nat.testBit_shiftLeft, ← Nat.shiftLeft_eq, Nat.testBit_shiftLeft, Nat.testBit_two_pow_sub_one,
    Nat.testBit_mod_two_pow, Nat.testBit_div_two_pow]
  by_cases h : l ≤ i
  · simp [h, Bool.and_comm, Nat.sub_add_cancel h]
  · simp [h]

/-- The word that `setBits` makes: what lies above the field, the field, what lies below. -/
theorem setBits_eq (w : Word) (msb lsb v : Nat) :
    setBits w msb lsb v =
      of (((w.toNat / 2 ^ lsb / 2 ^ (msb + 1 - lsb)) <<< (msb + 1 - lsb) ||| v % 2 ^ (msb + 1 - lsb)) <<< lsb
        ||| w.toNat % 2 ^ lsb) := by
  unfold setBits
  simp only [and_mask]
  congr 1
  rw [Nat.shiftLeft_eq v, Nat.mul_div_cancel _ (Nat.two_pow_pos lsb)]
  generalize msb + 1 - lsb = k
  rw [← Nat.shiftLeft_add_eq_or_of_lt (Nat.mod_lt _ (Nat.two_pow_pos k)),
    ← Nat.shiftLeft_add_eq_or_of_lt (Nat.mod_lt _ (Nat.two_pow_pos lsb)), Nat.shiftLeft_eq, Nat.shiftLeft_eq]
  have h1 := Nat.div_add_mod w.toNat (2 ^ lsb)
  have h2 := Nat.div_add_mod (w.toNat / 2 ^ lsb) (2 ^ k)
  generalize w.toNat / 2 ^ lsb = q at *
  generalize w.toNat % 2 ^ lsb = r at *
  generalize q / 2 ^ k = a at *
  generalize q % 2 ^ k = b at *
  rw [← h1, ← h2]
  have : 2 ^ lsb * (2 ^ k * a + b) + r = a * 2 ^ k * 2 ^ lsb + r + b * 2 ^ lsb := by ring
  rw [this, Nat.add_sub_cancel]
  ring

/-- Bit `i` after the field `msb:lsb` is set. -/
theorem testBit_setBits (w : Word) {msb lsb : Nat} (v i : Nat) (hl : lsb ≤ msb) (hm : msb < 32) :
    (setBits w msb lsb v).toNat.testBit i =
      if lsb ≤ i ∧ i ≤ msb then v.testBit (i - lsb) else w.toNat.testBit i := by
  rw [setBits_eq, toNat_of, Nat.testBit_mod_two_pow, Nat.testBit_or, Nat.testBit_shiftLeft, Nat.testBit_or,
    Nat.testBit_shiftLeft, Nat.testBit_mod_two_pow, Nat.testBit_mod_two_pow, Nat.testBit_div_two_pow, Nat.testBit_div_two_pow]
  by_cases h32 : i < 32
  · by_cases h1 : lsb ≤ i
    · by_cases h2 : i ≤ msb
      · have a : i - lsb < msb + 1 - lsb := by omega
        have b : ¬ i < lsb := by omega
        have e : ¬ (msb + 1 - lsb ≤ i - lsb) := by omega
        simp [h32, h1, h2, a, b, e]
      · have a : ¬ i - lsb < msb + 1 - lsb := by omega
        have b : ¬ i < lsb := by omega
        have e : msb + 1 - lsb ≤ i - lsb := by omega
        simp [h32, h1, h2, a, b, e]
    · have b : i < lsb := by omega
      simp [h32, h1, b]
  · have h2 : ¬ i ≤ msb := by omega
    have hw : w.toNat < 2 ^ i := lt_of_lt_of_le w.isLt (Nat.pow_le_pow_right (by decide) (by omega))
    simp [h32, h2, Nat.testBit_lt_two_pow hw]

/-- Bit `i` of a field. -/
theorem testBit_bits (w : Word) (msb lsb i : Nat) :
    (w.bits msb lsb).testBit i = (decide (i < msb + 1 - lsb) && w.toNat.testBit (lsb + i)) := by
  simp [bits, Nat.testBit_mod_two_pow, Nat.testBit_shiftRight]

/-- A field reads what it was set to. -/
theorem bits_setBits_same (w : Word) {msb lsb : Nat} (v : Nat) (hl : lsb ≤ msb) (hm : msb < 32) :
    (setBits w msb lsb v).bits msb lsb = v % 2 ^ (msb + 1 - lsb) := by
  apply Nat.eq_of_testBit_eq
  intro i
  rw [testBit_bits, testBit_setBits _ _ _ hl hm, Nat.testBit_mod_two_pow]
  by_cases h : i < msb + 1 - lsb
  · have : lsb + i ≤ msb := by omega
    simp [h, this]
  · simp [h]

/-- A field that lies apart from the one set reads as before. -/
theorem bits_setBits_other (w : Word) {msb lsb m l : Nat} (v : Nat) (hl : lsb ≤ msb) (hm : msb < 32)
    (h : m < lsb ∨ msb < l) : (setBits w msb lsb v).bits m l = w.bits m l := by
  apply Nat.eq_of_testBit_eq
  intro i
  rw [testBit_bits, testBit_bits, testBit_setBits _ _ _ hl hm]
  by_cases hi : i < m + 1 - l
  · have : ¬ (lsb ≤ l + i ∧ l + i ≤ msb) := by omega
    simp [hi, this]
  · simp [hi]

/-- A bit reads what it was set to. -/
theorem bit_setBit_same (w : Word) {n : Nat} (b : Bool) (hn : n < 32) : (setBit w n b).bit n = b := by
  unfold setBit bit
  rw [testBit_setBits _ _ _ (Nat.le_refl n) hn]
  cases b <;> simp

/-- A bit other than the one set reads as before. -/
theorem bit_setBit_other (w : Word) {n j : Nat} (b : Bool) (hn : n < 32) (h : j ≠ n) : (setBit w n b).bit j = w.bit j := by
  unfold setBit bit
  rw [testBit_setBits _ _ _ (Nat.le_refl n) hn, if_neg (by omega)]

end Sys2Proof.Word
end

