-- ==== Sys2Proof/Laws/State.lean ====
section
/-! SUPPORT. What each update of the chip leaves as it was, one lemma a field, and what a read after a write gives. -/

namespace Sys2Proof.Machine

@[simp] theorem Chip.setReg_count (c : Chip) (k : Nat) (w : Word) : (c.setReg k w).count = c.count := rfl
@[simp] theorem Chip.setReg_refclk (c : Chip) (k : Nat) (w : Word) : (c.setReg k w).refclk = c.refclk := rfl
@[simp] theorem Chip.setReg_nowHi (c : Chip) (k : Nat) (w : Word) : (c.setReg k w).nowHi = c.nowHi := rfl
@[simp] theorem Chip.setReg_replicas (c : Chip) (k : Nat) (w : Word) : (c.setReg k w).replicas = c.replicas := rfl
@[simp] theorem Chip.setReg_mem (c : Chip) (k : Nat) (w : Word) : (c.setReg k w).mem = c.mem := rfl
@[simp] theorem Chip.setReg_poison (c : Chip) (k : Nat) (w : Word) : (c.setReg k w).poison = c.poison := rfl
@[simp] theorem Chip.setReg_flips (c : Chip) (k : Nat) (w : Word) : (c.setReg k w).flips = c.flips := rfl
@[simp] theorem Chip.setReg_memc (c : Chip) (k : Nat) (w : Word) : (c.setReg k w).memc = c.memc := rfl
@[simp] theorem Chip.setReg_cores (c : Chip) (k : Nat) (w : Word) : (c.setReg k w).cores = c.cores := rfl
@[simp] theorem Chip.setReg_power (c : Chip) (k : Nat) (w : Word) : (c.setReg k w).power = c.power := rfl
@[simp] theorem Chip.setReg_dayb (c : Chip) (k : Nat) (w : Word) : (c.setReg k w).dayb = c.dayb := rfl
@[simp] theorem Chip.setReg_pm (c : Chip) (k : Nat) (w : Word) : (c.setReg k w).pm = c.pm := rfl
@[simp] theorem Chip.setReg_hosts (c : Chip) (k : Nat) (w : Word) : (c.setReg k w).hosts = c.hosts := rfl
@[simp] theorem Chip.setReg_dbgPort (c : Chip) (k : Nat) (w : Word) : (c.setReg k w).dbgPort = c.dbgPort := rfl
@[simp] theorem Chip.setReg_zow (c : Chip) (k : Nat) (w : Word) : (c.setReg k w).zow = c.zow := rfl
@[simp] theorem Chip.setReg_answer (c : Chip) (k : Nat) (w : Word) : (c.setReg k w).answer = c.answer := rfl
@[simp] theorem Chip.setReg_icu (c : Chip) (k : Nat) (w : Word) : (c.setReg k w).icu = c.icu := rfl
@[simp] theorem Chip.setReg_tmr (c : Chip) (k : Nat) (w : Word) : (c.setReg k w).tmr = c.tmr := rfl
@[simp] theorem Chip.setReg_wdt (c : Chip) (k : Nat) (w : Word) : (c.setReg k w).wdt = c.wdt := rfl
@[simp] theorem Chip.setReg_pins (c : Chip) (k : Nat) (w : Word) : (c.setReg k w).pins = c.pins := rfl
@[simp] theorem Chip.setReg_disp (c : Chip) (k : Nat) (w : Word) : (c.setReg k w).disp = c.disp := rfl
@[simp] theorem Chip.setReg_fu (c : Chip) (k : Nat) (w : Word) : (c.setReg k w).fu = c.fu := rfl
@[simp] theorem Chip.setReg_press (c : Chip) (k : Nat) (w : Word) : (c.setReg k w).press = c.press := rfl
@[simp] theorem Chip.setReg_dma (c : Chip) (k : Nat) (w : Word) : (c.setReg k w).dma = c.dma := rfl
@[simp] theorem Chip.setReg_aud (c : Chip) (k : Nat) (w : Word) : (c.setReg k w).aud = c.aud := rfl
@[simp] theorem Chip.setReg_free (c : Chip) (k : Nat) (w : Word) : (c.setReg k w).free = c.free := rfl

@[simp] theorem Chip.setF_count (c : Chip) (x : Fld) (v : Nat) : (c.setF x v).count = c.count := rfl
@[simp] theorem Chip.setF_refclk (c : Chip) (x : Fld) (v : Nat) : (c.setF x v).refclk = c.refclk := rfl
@[simp] theorem Chip.setF_nowHi (c : Chip) (x : Fld) (v : Nat) : (c.setF x v).nowHi = c.nowHi := rfl
@[simp] theorem Chip.setF_replicas (c : Chip) (x : Fld) (v : Nat) : (c.setF x v).replicas = c.replicas := rfl
@[simp] theorem Chip.setF_mem (c : Chip) (x : Fld) (v : Nat) : (c.setF x v).mem = c.mem := rfl
@[simp] theorem Chip.setF_poison (c : Chip) (x : Fld) (v : Nat) : (c.setF x v).poison = c.poison := rfl
@[simp] theorem Chip.setF_flips (c : Chip) (x : Fld) (v : Nat) : (c.setF x v).flips = c.flips := rfl
@[simp] theorem Chip.setF_memc (c : Chip) (x : Fld) (v : Nat) : (c.setF x v).memc = c.memc := rfl
@[simp] theorem Chip.setF_cores (c : Chip) (x : Fld) (v : Nat) : (c.setF x v).cores = c.cores := rfl
@[simp] theorem Chip.setF_power (c : Chip) (x : Fld) (v : Nat) : (c.setF x v).power = c.power := rfl
@[simp] theorem Chip.setF_dayb (c : Chip) (x : Fld) (v : Nat) : (c.setF x v).dayb = c.dayb := rfl
@[simp] theorem Chip.setF_pm (c : Chip) (x : Fld) (v : Nat) : (c.setF x v).pm = c.pm := rfl
@[simp] theorem Chip.setF_hosts (c : Chip) (x : Fld) (v : Nat) : (c.setF x v).hosts = c.hosts := rfl
@[simp] theorem Chip.setF_dbgPort (c : Chip) (x : Fld) (v : Nat) : (c.setF x v).dbgPort = c.dbgPort := rfl
@[simp] theorem Chip.setF_zow (c : Chip) (x : Fld) (v : Nat) : (c.setF x v).zow = c.zow := rfl
@[simp] theorem Chip.setF_answer (c : Chip) (x : Fld) (v : Nat) : (c.setF x v).answer = c.answer := rfl
@[simp] theorem Chip.setF_icu (c : Chip) (x : Fld) (v : Nat) : (c.setF x v).icu = c.icu := rfl
@[simp] theorem Chip.setF_tmr (c : Chip) (x : Fld) (v : Nat) : (c.setF x v).tmr = c.tmr := rfl
@[simp] theorem Chip.setF_wdt (c : Chip) (x : Fld) (v : Nat) : (c.setF x v).wdt = c.wdt := rfl
@[simp] theorem Chip.setF_pins (c : Chip) (x : Fld) (v : Nat) : (c.setF x v).pins = c.pins := rfl
@[simp] theorem Chip.setF_disp (c : Chip) (x : Fld) (v : Nat) : (c.setF x v).disp = c.disp := rfl
@[simp] theorem Chip.setF_fu (c : Chip) (x : Fld) (v : Nat) : (c.setF x v).fu = c.fu := rfl
@[simp] theorem Chip.setF_press (c : Chip) (x : Fld) (v : Nat) : (c.setF x v).press = c.press := rfl
@[simp] theorem Chip.setF_dma (c : Chip) (x : Fld) (v : Nat) : (c.setF x v).dma = c.dma := rfl
@[simp] theorem Chip.setF_aud (c : Chip) (x : Fld) (v : Nat) : (c.setF x v).aud = c.aud := rfl
@[simp] theorem Chip.setF_free (c : Chip) (x : Fld) (v : Nat) : (c.setF x v).free = c.free := rfl

@[simp] theorem Chip.flag_count (c : Chip) (x : Fld) : (c.flag x).count = c.count := rfl
@[simp] theorem Chip.flag_refclk (c : Chip) (x : Fld) : (c.flag x).refclk = c.refclk := rfl
@[simp] theorem Chip.flag_nowHi (c : Chip) (x : Fld) : (c.flag x).nowHi = c.nowHi := rfl
@[simp] theorem Chip.flag_replicas (c : Chip) (x : Fld) : (c.flag x).replicas = c.replicas := rfl
@[simp] theorem Chip.flag_mem (c : Chip) (x : Fld) : (c.flag x).mem = c.mem := rfl
@[simp] theorem Chip.flag_poison (c : Chip) (x : Fld) : (c.flag x).poison = c.poison := rfl
@[simp] theorem Chip.flag_flips (c : Chip) (x : Fld) : (c.flag x).flips = c.flips := rfl
@[simp] theorem Chip.flag_memc (c : Chip) (x : Fld) : (c.flag x).memc = c.memc := rfl
@[simp] theorem Chip.flag_cores (c : Chip) (x : Fld) : (c.flag x).cores = c.cores := rfl
@[simp] theorem Chip.flag_power (c : Chip) (x : Fld) : (c.flag x).power = c.power := rfl
@[simp] theorem Chip.flag_dayb (c : Chip) (x : Fld) : (c.flag x).dayb = c.dayb := rfl
@[simp] theorem Chip.flag_pm (c : Chip) (x : Fld) : (c.flag x).pm = c.pm := rfl
@[simp] theorem Chip.flag_hosts (c : Chip) (x : Fld) : (c.flag x).hosts = c.hosts := rfl
@[simp] theorem Chip.flag_dbgPort (c : Chip) (x : Fld) : (c.flag x).dbgPort = c.dbgPort := rfl
@[simp] theorem Chip.flag_zow (c : Chip) (x : Fld) : (c.flag x).zow = c.zow := rfl
@[simp] theorem Chip.flag_answer (c : Chip) (x : Fld) : (c.flag x).answer = c.answer := rfl
@[simp] theorem Chip.flag_icu (c : Chip) (x : Fld) : (c.flag x).icu = c.icu := rfl
@[simp] theorem Chip.flag_tmr (c : Chip) (x : Fld) : (c.flag x).tmr = c.tmr := rfl
@[simp] theorem Chip.flag_wdt (c : Chip) (x : Fld) : (c.flag x).wdt = c.wdt := rfl
@[simp] theorem Chip.flag_pins (c : Chip) (x : Fld) : (c.flag x).pins = c.pins := rfl
@[simp] theorem Chip.flag_disp (c : Chip) (x : Fld) : (c.flag x).disp = c.disp := rfl
@[simp] theorem Chip.flag_fu (c : Chip) (x : Fld) : (c.flag x).fu = c.fu := rfl
@[simp] theorem Chip.flag_press (c : Chip) (x : Fld) : (c.flag x).press = c.press := rfl
@[simp] theorem Chip.flag_dma (c : Chip) (x : Fld) : (c.flag x).dma = c.dma := rfl
@[simp] theorem Chip.flag_aud (c : Chip) (x : Fld) : (c.flag x).aud = c.aud := rfl
@[simp] theorem Chip.flag_free (c : Chip) (x : Fld) : (c.flag x).free = c.free := rfl

@[simp] theorem Chip.countF_count (c : Chip) (x : Fld) : (c.countF x).count = c.count := rfl
@[simp] theorem Chip.countF_refclk (c : Chip) (x : Fld) : (c.countF x).refclk = c.refclk := rfl
@[simp] theorem Chip.countF_nowHi (c : Chip) (x : Fld) : (c.countF x).nowHi = c.nowHi := rfl
@[simp] theorem Chip.countF_replicas (c : Chip) (x : Fld) : (c.countF x).replicas = c.replicas := rfl
@[simp] theorem Chip.countF_mem (c : Chip) (x : Fld) : (c.countF x).mem = c.mem := rfl
@[simp] theorem Chip.countF_poison (c : Chip) (x : Fld) : (c.countF x).poison = c.poison := rfl
@[simp] theorem Chip.countF_flips (c : Chip) (x : Fld) : (c.countF x).flips = c.flips := rfl
@[simp] theorem Chip.countF_memc (c : Chip) (x : Fld) : (c.countF x).memc = c.memc := rfl
@[simp] theorem Chip.countF_cores (c : Chip) (x : Fld) : (c.countF x).cores = c.cores := rfl
@[simp] theorem Chip.countF_power (c : Chip) (x : Fld) : (c.countF x).power = c.power := rfl
@[simp] theorem Chip.countF_dayb (c : Chip) (x : Fld) : (c.countF x).dayb = c.dayb := rfl
@[simp] theorem Chip.countF_pm (c : Chip) (x : Fld) : (c.countF x).pm = c.pm := rfl
@[simp] theorem Chip.countF_hosts (c : Chip) (x : Fld) : (c.countF x).hosts = c.hosts := rfl
@[simp] theorem Chip.countF_dbgPort (c : Chip) (x : Fld) : (c.countF x).dbgPort = c.dbgPort := rfl
@[simp] theorem Chip.countF_zow (c : Chip) (x : Fld) : (c.countF x).zow = c.zow := rfl
@[simp] theorem Chip.countF_answer (c : Chip) (x : Fld) : (c.countF x).answer = c.answer := rfl
@[simp] theorem Chip.countF_icu (c : Chip) (x : Fld) : (c.countF x).icu = c.icu := rfl
@[simp] theorem Chip.countF_tmr (c : Chip) (x : Fld) : (c.countF x).tmr = c.tmr := rfl
@[simp] theorem Chip.countF_wdt (c : Chip) (x : Fld) : (c.countF x).wdt = c.wdt := rfl
@[simp] theorem Chip.countF_pins (c : Chip) (x : Fld) : (c.countF x).pins = c.pins := rfl
@[simp] theorem Chip.countF_disp (c : Chip) (x : Fld) : (c.countF x).disp = c.disp := rfl
@[simp] theorem Chip.countF_fu (c : Chip) (x : Fld) : (c.countF x).fu = c.fu := rfl
@[simp] theorem Chip.countF_press (c : Chip) (x : Fld) : (c.countF x).press = c.press := rfl
@[simp] theorem Chip.countF_dma (c : Chip) (x : Fld) : (c.countF x).dma = c.dma := rfl
@[simp] theorem Chip.countF_aud (c : Chip) (x : Fld) : (c.countF x).aud = c.aud := rfl
@[simp] theorem Chip.countF_free (c : Chip) (x : Fld) : (c.countF x).free = c.free := rfl

@[simp] theorem Chip.setRegBit_count (c : Chip) (k n : Nat) (b : Bool) : (c.setRegBit k n b).count = c.count := rfl
@[simp] theorem Chip.setRegBit_refclk (c : Chip) (k n : Nat) (b : Bool) : (c.setRegBit k n b).refclk = c.refclk := rfl
@[simp] theorem Chip.setRegBit_nowHi (c : Chip) (k n : Nat) (b : Bool) : (c.setRegBit k n b).nowHi = c.nowHi := rfl
@[simp] theorem Chip.setRegBit_replicas (c : Chip) (k n : Nat) (b : Bool) : (c.setRegBit k n b).replicas = c.replicas := rfl
@[simp] theorem Chip.setRegBit_mem (c : Chip) (k n : Nat) (b : Bool) : (c.setRegBit k n b).mem = c.mem := rfl
@[simp] theorem Chip.setRegBit_poison (c : Chip) (k n : Nat) (b : Bool) : (c.setRegBit k n b).poison = c.poison := rfl
@[simp] theorem Chip.setRegBit_flips (c : Chip) (k n : Nat) (b : Bool) : (c.setRegBit k n b).flips = c.flips := rfl
@[simp] theorem Chip.setRegBit_memc (c : Chip) (k n : Nat) (b : Bool) : (c.setRegBit k n b).memc = c.memc := rfl
@[simp] theorem Chip.setRegBit_cores (c : Chip) (k n : Nat) (b : Bool) : (c.setRegBit k n b).cores = c.cores := rfl
@[simp] theorem Chip.setRegBit_power (c : Chip) (k n : Nat) (b : Bool) : (c.setRegBit k n b).power = c.power := rfl
@[simp] theorem Chip.setRegBit_dayb (c : Chip) (k n : Nat) (b : Bool) : (c.setRegBit k n b).dayb = c.dayb := rfl
@[simp] theorem Chip.setRegBit_pm (c : Chip) (k n : Nat) (b : Bool) : (c.setRegBit k n b).pm = c.pm := rfl
@[simp] theorem Chip.setRegBit_hosts (c : Chip) (k n : Nat) (b : Bool) : (c.setRegBit k n b).hosts = c.hosts := rfl
@[simp] theorem Chip.setRegBit_dbgPort (c : Chip) (k n : Nat) (b : Bool) : (c.setRegBit k n b).dbgPort = c.dbgPort := rfl
@[simp] theorem Chip.setRegBit_zow (c : Chip) (k n : Nat) (b : Bool) : (c.setRegBit k n b).zow = c.zow := rfl
@[simp] theorem Chip.setRegBit_answer (c : Chip) (k n : Nat) (b : Bool) : (c.setRegBit k n b).answer = c.answer := rfl
@[simp] theorem Chip.setRegBit_icu (c : Chip) (k n : Nat) (b : Bool) : (c.setRegBit k n b).icu = c.icu := rfl
@[simp] theorem Chip.setRegBit_tmr (c : Chip) (k n : Nat) (b : Bool) : (c.setRegBit k n b).tmr = c.tmr := rfl
@[simp] theorem Chip.setRegBit_wdt (c : Chip) (k n : Nat) (b : Bool) : (c.setRegBit k n b).wdt = c.wdt := rfl
@[simp] theorem Chip.setRegBit_pins (c : Chip) (k n : Nat) (b : Bool) : (c.setRegBit k n b).pins = c.pins := rfl
@[simp] theorem Chip.setRegBit_disp (c : Chip) (k n : Nat) (b : Bool) : (c.setRegBit k n b).disp = c.disp := rfl
@[simp] theorem Chip.setRegBit_fu (c : Chip) (k n : Nat) (b : Bool) : (c.setRegBit k n b).fu = c.fu := rfl
@[simp] theorem Chip.setRegBit_press (c : Chip) (k n : Nat) (b : Bool) : (c.setRegBit k n b).press = c.press := rfl
@[simp] theorem Chip.setRegBit_dma (c : Chip) (k n : Nat) (b : Bool) : (c.setRegBit k n b).dma = c.dma := rfl
@[simp] theorem Chip.setRegBit_aud (c : Chip) (k n : Nat) (b : Bool) : (c.setRegBit k n b).aud = c.aud := rfl
@[simp] theorem Chip.setRegBit_free (c : Chip) (k n : Nat) (b : Bool) : (c.setRegBit k n b).free = c.free := rfl

@[simp] theorem Chip.setByte_count (c : Chip) (pa : Nat) (b : Byte) : (c.setByte pa b).count = c.count := rfl
@[simp] theorem Chip.setByte_refclk (c : Chip) (pa : Nat) (b : Byte) : (c.setByte pa b).refclk = c.refclk := rfl
@[simp] theorem Chip.setByte_nowHi (c : Chip) (pa : Nat) (b : Byte) : (c.setByte pa b).nowHi = c.nowHi := rfl
@[simp] theorem Chip.setByte_replicas (c : Chip) (pa : Nat) (b : Byte) : (c.setByte pa b).replicas = c.replicas := rfl
@[simp] theorem Chip.setByte_poison (c : Chip) (pa : Nat) (b : Byte) : (c.setByte pa b).poison = c.poison := rfl
@[simp] theorem Chip.setByte_flips (c : Chip) (pa : Nat) (b : Byte) : (c.setByte pa b).flips = c.flips := rfl
@[simp] theorem Chip.setByte_memc (c : Chip) (pa : Nat) (b : Byte) : (c.setByte pa b).memc = c.memc := rfl
@[simp] theorem Chip.setByte_regs (c : Chip) (pa : Nat) (b : Byte) : (c.setByte pa b).regs = c.regs := rfl
@[simp] theorem Chip.setByte_cores (c : Chip) (pa : Nat) (b : Byte) : (c.setByte pa b).cores = c.cores := rfl
@[simp] theorem Chip.setByte_power (c : Chip) (pa : Nat) (b : Byte) : (c.setByte pa b).power = c.power := rfl
@[simp] theorem Chip.setByte_dayb (c : Chip) (pa : Nat) (b : Byte) : (c.setByte pa b).dayb = c.dayb := rfl
@[simp] theorem Chip.setByte_pm (c : Chip) (pa : Nat) (b : Byte) : (c.setByte pa b).pm = c.pm := rfl
@[simp] theorem Chip.setByte_hosts (c : Chip) (pa : Nat) (b : Byte) : (c.setByte pa b).hosts = c.hosts := rfl
@[simp] theorem Chip.setByte_dbgPort (c : Chip) (pa : Nat) (b : Byte) : (c.setByte pa b).dbgPort = c.dbgPort := rfl
@[simp] theorem Chip.setByte_zow (c : Chip) (pa : Nat) (b : Byte) : (c.setByte pa b).zow = c.zow := rfl
@[simp] theorem Chip.setByte_answer (c : Chip) (pa : Nat) (b : Byte) : (c.setByte pa b).answer = c.answer := rfl
@[simp] theorem Chip.setByte_icu (c : Chip) (pa : Nat) (b : Byte) : (c.setByte pa b).icu = c.icu := rfl
@[simp] theorem Chip.setByte_tmr (c : Chip) (pa : Nat) (b : Byte) : (c.setByte pa b).tmr = c.tmr := rfl
@[simp] theorem Chip.setByte_wdt (c : Chip) (pa : Nat) (b : Byte) : (c.setByte pa b).wdt = c.wdt := rfl
@[simp] theorem Chip.setByte_pins (c : Chip) (pa : Nat) (b : Byte) : (c.setByte pa b).pins = c.pins := rfl
@[simp] theorem Chip.setByte_disp (c : Chip) (pa : Nat) (b : Byte) : (c.setByte pa b).disp = c.disp := rfl
@[simp] theorem Chip.setByte_fu (c : Chip) (pa : Nat) (b : Byte) : (c.setByte pa b).fu = c.fu := rfl
@[simp] theorem Chip.setByte_press (c : Chip) (pa : Nat) (b : Byte) : (c.setByte pa b).press = c.press := rfl
@[simp] theorem Chip.setByte_dma (c : Chip) (pa : Nat) (b : Byte) : (c.setByte pa b).dma = c.dma := rfl
@[simp] theorem Chip.setByte_aud (c : Chip) (pa : Nat) (b : Byte) : (c.setByte pa b).aud = c.aud := rfl
@[simp] theorem Chip.setByte_free (c : Chip) (pa : Nat) (b : Byte) : (c.setByte pa b).free = c.free := rfl

@[simp] theorem Chip.setPoison_count (c : Chip) (k : Nat) (b : Bool) : (c.setPoison k b).count = c.count := rfl
@[simp] theorem Chip.setPoison_refclk (c : Chip) (k : Nat) (b : Bool) : (c.setPoison k b).refclk = c.refclk := rfl
@[simp] theorem Chip.setPoison_nowHi (c : Chip) (k : Nat) (b : Bool) : (c.setPoison k b).nowHi = c.nowHi := rfl
@[simp] theorem Chip.setPoison_replicas (c : Chip) (k : Nat) (b : Bool) : (c.setPoison k b).replicas = c.replicas := rfl
@[simp] theorem Chip.setPoison_mem (c : Chip) (k : Nat) (b : Bool) : (c.setPoison k b).mem = c.mem := rfl
@[simp] theorem Chip.setPoison_flips (c : Chip) (k : Nat) (b : Bool) : (c.setPoison k b).flips = c.flips := rfl
@[simp] theorem Chip.setPoison_memc (c : Chip) (k : Nat) (b : Bool) : (c.setPoison k b).memc = c.memc := rfl
@[simp] theorem Chip.setPoison_regs (c : Chip) (k : Nat) (b : Bool) : (c.setPoison k b).regs = c.regs := rfl
@[simp] theorem Chip.setPoison_cores (c : Chip) (k : Nat) (b : Bool) : (c.setPoison k b).cores = c.cores := rfl
@[simp] theorem Chip.setPoison_power (c : Chip) (k : Nat) (b : Bool) : (c.setPoison k b).power = c.power := rfl
@[simp] theorem Chip.setPoison_dayb (c : Chip) (k : Nat) (b : Bool) : (c.setPoison k b).dayb = c.dayb := rfl
@[simp] theorem Chip.setPoison_pm (c : Chip) (k : Nat) (b : Bool) : (c.setPoison k b).pm = c.pm := rfl
@[simp] theorem Chip.setPoison_hosts (c : Chip) (k : Nat) (b : Bool) : (c.setPoison k b).hosts = c.hosts := rfl
@[simp] theorem Chip.setPoison_dbgPort (c : Chip) (k : Nat) (b : Bool) : (c.setPoison k b).dbgPort = c.dbgPort := rfl
@[simp] theorem Chip.setPoison_zow (c : Chip) (k : Nat) (b : Bool) : (c.setPoison k b).zow = c.zow := rfl
@[simp] theorem Chip.setPoison_answer (c : Chip) (k : Nat) (b : Bool) : (c.setPoison k b).answer = c.answer := rfl
@[simp] theorem Chip.setPoison_icu (c : Chip) (k : Nat) (b : Bool) : (c.setPoison k b).icu = c.icu := rfl
@[simp] theorem Chip.setPoison_tmr (c : Chip) (k : Nat) (b : Bool) : (c.setPoison k b).tmr = c.tmr := rfl
@[simp] theorem Chip.setPoison_wdt (c : Chip) (k : Nat) (b : Bool) : (c.setPoison k b).wdt = c.wdt := rfl
@[simp] theorem Chip.setPoison_pins (c : Chip) (k : Nat) (b : Bool) : (c.setPoison k b).pins = c.pins := rfl
@[simp] theorem Chip.setPoison_disp (c : Chip) (k : Nat) (b : Bool) : (c.setPoison k b).disp = c.disp := rfl
@[simp] theorem Chip.setPoison_fu (c : Chip) (k : Nat) (b : Bool) : (c.setPoison k b).fu = c.fu := rfl
@[simp] theorem Chip.setPoison_press (c : Chip) (k : Nat) (b : Bool) : (c.setPoison k b).press = c.press := rfl
@[simp] theorem Chip.setPoison_dma (c : Chip) (k : Nat) (b : Bool) : (c.setPoison k b).dma = c.dma := rfl
@[simp] theorem Chip.setPoison_aud (c : Chip) (k : Nat) (b : Bool) : (c.setPoison k b).aud = c.aud := rfl
@[simp] theorem Chip.setPoison_free (c : Chip) (k : Nat) (b : Bool) : (c.setPoison k b).free = c.free := rfl

@[simp] theorem Chip.setFlip_count (c : Chip) (k : Nat) (e : BitErr) : (c.setFlip k e).count = c.count := rfl
@[simp] theorem Chip.setFlip_refclk (c : Chip) (k : Nat) (e : BitErr) : (c.setFlip k e).refclk = c.refclk := rfl
@[simp] theorem Chip.setFlip_nowHi (c : Chip) (k : Nat) (e : BitErr) : (c.setFlip k e).nowHi = c.nowHi := rfl
@[simp] theorem Chip.setFlip_replicas (c : Chip) (k : Nat) (e : BitErr) : (c.setFlip k e).replicas = c.replicas := rfl
@[simp] theorem Chip.setFlip_mem (c : Chip) (k : Nat) (e : BitErr) : (c.setFlip k e).mem = c.mem := rfl
@[simp] theorem Chip.setFlip_poison (c : Chip) (k : Nat) (e : BitErr) : (c.setFlip k e).poison = c.poison := rfl
@[simp] theorem Chip.setFlip_memc (c : Chip) (k : Nat) (e : BitErr) : (c.setFlip k e).memc = c.memc := rfl
@[simp] theorem Chip.setFlip_regs (c : Chip) (k : Nat) (e : BitErr) : (c.setFlip k e).regs = c.regs := rfl
@[simp] theorem Chip.setFlip_cores (c : Chip) (k : Nat) (e : BitErr) : (c.setFlip k e).cores = c.cores := rfl
@[simp] theorem Chip.setFlip_power (c : Chip) (k : Nat) (e : BitErr) : (c.setFlip k e).power = c.power := rfl
@[simp] theorem Chip.setFlip_dayb (c : Chip) (k : Nat) (e : BitErr) : (c.setFlip k e).dayb = c.dayb := rfl
@[simp] theorem Chip.setFlip_pm (c : Chip) (k : Nat) (e : BitErr) : (c.setFlip k e).pm = c.pm := rfl
@[simp] theorem Chip.setFlip_hosts (c : Chip) (k : Nat) (e : BitErr) : (c.setFlip k e).hosts = c.hosts := rfl
@[simp] theorem Chip.setFlip_dbgPort (c : Chip) (k : Nat) (e : BitErr) : (c.setFlip k e).dbgPort = c.dbgPort := rfl
@[simp] theorem Chip.setFlip_zow (c : Chip) (k : Nat) (e : BitErr) : (c.setFlip k e).zow = c.zow := rfl
@[simp] theorem Chip.setFlip_answer (c : Chip) (k : Nat) (e : BitErr) : (c.setFlip k e).answer = c.answer := rfl
@[simp] theorem Chip.setFlip_icu (c : Chip) (k : Nat) (e : BitErr) : (c.setFlip k e).icu = c.icu := rfl
@[simp] theorem Chip.setFlip_tmr (c : Chip) (k : Nat) (e : BitErr) : (c.setFlip k e).tmr = c.tmr := rfl
@[simp] theorem Chip.setFlip_wdt (c : Chip) (k : Nat) (e : BitErr) : (c.setFlip k e).wdt = c.wdt := rfl
@[simp] theorem Chip.setFlip_pins (c : Chip) (k : Nat) (e : BitErr) : (c.setFlip k e).pins = c.pins := rfl
@[simp] theorem Chip.setFlip_disp (c : Chip) (k : Nat) (e : BitErr) : (c.setFlip k e).disp = c.disp := rfl
@[simp] theorem Chip.setFlip_fu (c : Chip) (k : Nat) (e : BitErr) : (c.setFlip k e).fu = c.fu := rfl
@[simp] theorem Chip.setFlip_press (c : Chip) (k : Nat) (e : BitErr) : (c.setFlip k e).press = c.press := rfl
@[simp] theorem Chip.setFlip_dma (c : Chip) (k : Nat) (e : BitErr) : (c.setFlip k e).dma = c.dma := rfl
@[simp] theorem Chip.setFlip_aud (c : Chip) (k : Nat) (e : BitErr) : (c.setFlip k e).aud = c.aud := rfl
@[simp] theorem Chip.setFlip_free (c : Chip) (k : Nat) (e : BitErr) : (c.setFlip k e).free = c.free := rfl

@[simp] theorem Chip.setDlt_count (c : Chip) (a i : Nat) (e : DltEntry) : (c.setDlt a i e).count = c.count := rfl
@[simp] theorem Chip.setDlt_refclk (c : Chip) (a i : Nat) (e : DltEntry) : (c.setDlt a i e).refclk = c.refclk := rfl
@[simp] theorem Chip.setDlt_nowHi (c : Chip) (a i : Nat) (e : DltEntry) : (c.setDlt a i e).nowHi = c.nowHi := rfl
@[simp] theorem Chip.setDlt_replicas (c : Chip) (a i : Nat) (e : DltEntry) : (c.setDlt a i e).replicas = c.replicas := rfl
@[simp] theorem Chip.setDlt_mem (c : Chip) (a i : Nat) (e : DltEntry) : (c.setDlt a i e).mem = c.mem := rfl
@[simp] theorem Chip.setDlt_poison (c : Chip) (a i : Nat) (e : DltEntry) : (c.setDlt a i e).poison = c.poison := rfl
@[simp] theorem Chip.setDlt_flips (c : Chip) (a i : Nat) (e : DltEntry) : (c.setDlt a i e).flips = c.flips := rfl
@[simp] theorem Chip.setDlt_regs (c : Chip) (a i : Nat) (e : DltEntry) : (c.setDlt a i e).regs = c.regs := rfl
@[simp] theorem Chip.setDlt_cores (c : Chip) (a i : Nat) (e : DltEntry) : (c.setDlt a i e).cores = c.cores := rfl
@[simp] theorem Chip.setDlt_power (c : Chip) (a i : Nat) (e : DltEntry) : (c.setDlt a i e).power = c.power := rfl
@[simp] theorem Chip.setDlt_dayb (c : Chip) (a i : Nat) (e : DltEntry) : (c.setDlt a i e).dayb = c.dayb := rfl
@[simp] theorem Chip.setDlt_pm (c : Chip) (a i : Nat) (e : DltEntry) : (c.setDlt a i e).pm = c.pm := rfl
@[simp] theorem Chip.setDlt_hosts (c : Chip) (a i : Nat) (e : DltEntry) : (c.setDlt a i e).hosts = c.hosts := rfl
@[simp] theorem Chip.setDlt_dbgPort (c : Chip) (a i : Nat) (e : DltEntry) : (c.setDlt a i e).dbgPort = c.dbgPort := rfl
@[simp] theorem Chip.setDlt_zow (c : Chip) (a i : Nat) (e : DltEntry) : (c.setDlt a i e).zow = c.zow := rfl
@[simp] theorem Chip.setDlt_answer (c : Chip) (a i : Nat) (e : DltEntry) : (c.setDlt a i e).answer = c.answer := rfl
@[simp] theorem Chip.setDlt_icu (c : Chip) (a i : Nat) (e : DltEntry) : (c.setDlt a i e).icu = c.icu := rfl
@[simp] theorem Chip.setDlt_tmr (c : Chip) (a i : Nat) (e : DltEntry) : (c.setDlt a i e).tmr = c.tmr := rfl
@[simp] theorem Chip.setDlt_wdt (c : Chip) (a i : Nat) (e : DltEntry) : (c.setDlt a i e).wdt = c.wdt := rfl
@[simp] theorem Chip.setDlt_pins (c : Chip) (a i : Nat) (e : DltEntry) : (c.setDlt a i e).pins = c.pins := rfl
@[simp] theorem Chip.setDlt_disp (c : Chip) (a i : Nat) (e : DltEntry) : (c.setDlt a i e).disp = c.disp := rfl
@[simp] theorem Chip.setDlt_fu (c : Chip) (a i : Nat) (e : DltEntry) : (c.setDlt a i e).fu = c.fu := rfl
@[simp] theorem Chip.setDlt_press (c : Chip) (a i : Nat) (e : DltEntry) : (c.setDlt a i e).press = c.press := rfl
@[simp] theorem Chip.setDlt_dma (c : Chip) (a i : Nat) (e : DltEntry) : (c.setDlt a i e).dma = c.dma := rfl
@[simp] theorem Chip.setDlt_aud (c : Chip) (a i : Nat) (e : DltEntry) : (c.setDlt a i e).aud = c.aud := rfl
@[simp] theorem Chip.setDlt_free (c : Chip) (a i : Nat) (e : DltEntry) : (c.setDlt a i e).free = c.free := rfl

@[simp] theorem Chip.setCore_count (c : Chip) (k : Nat) (x : Core) : (c.setCore k x).count = c.count := rfl
@[simp] theorem Chip.setCore_refclk (c : Chip) (k : Nat) (x : Core) : (c.setCore k x).refclk = c.refclk := rfl
@[simp] theorem Chip.setCore_nowHi (c : Chip) (k : Nat) (x : Core) : (c.setCore k x).nowHi = c.nowHi := rfl
@[simp] theorem Chip.setCore_replicas (c : Chip) (k : Nat) (x : Core) : (c.setCore k x).replicas = c.replicas := rfl
@[simp] theorem Chip.setCore_mem (c : Chip) (k : Nat) (x : Core) : (c.setCore k x).mem = c.mem := rfl
@[simp] theorem Chip.setCore_poison (c : Chip) (k : Nat) (x : Core) : (c.setCore k x).poison = c.poison := rfl
@[simp] theorem Chip.setCore_flips (c : Chip) (k : Nat) (x : Core) : (c.setCore k x).flips = c.flips := rfl
@[simp] theorem Chip.setCore_memc (c : Chip) (k : Nat) (x : Core) : (c.setCore k x).memc = c.memc := rfl
@[simp] theorem Chip.setCore_regs (c : Chip) (k : Nat) (x : Core) : (c.setCore k x).regs = c.regs := rfl
@[simp] theorem Chip.setCore_power (c : Chip) (k : Nat) (x : Core) : (c.setCore k x).power = c.power := rfl
@[simp] theorem Chip.setCore_dayb (c : Chip) (k : Nat) (x : Core) : (c.setCore k x).dayb = c.dayb := rfl
@[simp] theorem Chip.setCore_pm (c : Chip) (k : Nat) (x : Core) : (c.setCore k x).pm = c.pm := rfl
@[simp] theorem Chip.setCore_hosts (c : Chip) (k : Nat) (x : Core) : (c.setCore k x).hosts = c.hosts := rfl
@[simp] theorem Chip.setCore_dbgPort (c : Chip) (k : Nat) (x : Core) : (c.setCore k x).dbgPort = c.dbgPort := rfl
@[simp] theorem Chip.setCore_zow (c : Chip) (k : Nat) (x : Core) : (c.setCore k x).zow = c.zow := rfl
@[simp] theorem Chip.setCore_answer (c : Chip) (k : Nat) (x : Core) : (c.setCore k x).answer = c.answer := rfl
@[simp] theorem Chip.setCore_icu (c : Chip) (k : Nat) (x : Core) : (c.setCore k x).icu = c.icu := rfl
@[simp] theorem Chip.setCore_tmr (c : Chip) (k : Nat) (x : Core) : (c.setCore k x).tmr = c.tmr := rfl
@[simp] theorem Chip.setCore_wdt (c : Chip) (k : Nat) (x : Core) : (c.setCore k x).wdt = c.wdt := rfl
@[simp] theorem Chip.setCore_pins (c : Chip) (k : Nat) (x : Core) : (c.setCore k x).pins = c.pins := rfl
@[simp] theorem Chip.setCore_disp (c : Chip) (k : Nat) (x : Core) : (c.setCore k x).disp = c.disp := rfl
@[simp] theorem Chip.setCore_fu (c : Chip) (k : Nat) (x : Core) : (c.setCore k x).fu = c.fu := rfl
@[simp] theorem Chip.setCore_press (c : Chip) (k : Nat) (x : Core) : (c.setCore k x).press = c.press := rfl
@[simp] theorem Chip.setCore_dma (c : Chip) (k : Nat) (x : Core) : (c.setCore k x).dma = c.dma := rfl
@[simp] theorem Chip.setCore_aud (c : Chip) (k : Nat) (x : Core) : (c.setCore k x).aud = c.aud := rfl
@[simp] theorem Chip.setCore_free (c : Chip) (k : Nat) (x : Core) : (c.setCore k x).free = c.free := rfl

@[simp] theorem Chip.modCore_count (c : Chip) (k : Nat) (f : Core → Core) : (c.modCore k f).count = c.count := rfl
@[simp] theorem Chip.modCore_refclk (c : Chip) (k : Nat) (f : Core → Core) : (c.modCore k f).refclk = c.refclk := rfl
@[simp] theorem Chip.modCore_nowHi (c : Chip) (k : Nat) (f : Core → Core) : (c.modCore k f).nowHi = c.nowHi := rfl
@[simp] theorem Chip.modCore_replicas (c : Chip) (k : Nat) (f : Core → Core) : (c.modCore k f).replicas = c.replicas := rfl
@[simp] theorem Chip.modCore_mem (c : Chip) (k : Nat) (f : Core → Core) : (c.modCore k f).mem = c.mem := rfl
@[simp] theorem Chip.modCore_poison (c : Chip) (k : Nat) (f : Core → Core) : (c.modCore k f).poison = c.poison := rfl
@[simp] theorem Chip.modCore_flips (c : Chip) (k : Nat) (f : Core → Core) : (c.modCore k f).flips = c.flips := rfl
@[simp] theorem Chip.modCore_memc (c : Chip) (k : Nat) (f : Core → Core) : (c.modCore k f).memc = c.memc := rfl
@[simp] theorem Chip.modCore_regs (c : Chip) (k : Nat) (f : Core → Core) : (c.modCore k f).regs = c.regs := rfl
@[simp] theorem Chip.modCore_power (c : Chip) (k : Nat) (f : Core → Core) : (c.modCore k f).power = c.power := rfl
@[simp] theorem Chip.modCore_dayb (c : Chip) (k : Nat) (f : Core → Core) : (c.modCore k f).dayb = c.dayb := rfl
@[simp] theorem Chip.modCore_pm (c : Chip) (k : Nat) (f : Core → Core) : (c.modCore k f).pm = c.pm := rfl
@[simp] theorem Chip.modCore_hosts (c : Chip) (k : Nat) (f : Core → Core) : (c.modCore k f).hosts = c.hosts := rfl
@[simp] theorem Chip.modCore_dbgPort (c : Chip) (k : Nat) (f : Core → Core) : (c.modCore k f).dbgPort = c.dbgPort := rfl
@[simp] theorem Chip.modCore_zow (c : Chip) (k : Nat) (f : Core → Core) : (c.modCore k f).zow = c.zow := rfl
@[simp] theorem Chip.modCore_answer (c : Chip) (k : Nat) (f : Core → Core) : (c.modCore k f).answer = c.answer := rfl
@[simp] theorem Chip.modCore_icu (c : Chip) (k : Nat) (f : Core → Core) : (c.modCore k f).icu = c.icu := rfl
@[simp] theorem Chip.modCore_tmr (c : Chip) (k : Nat) (f : Core → Core) : (c.modCore k f).tmr = c.tmr := rfl
@[simp] theorem Chip.modCore_wdt (c : Chip) (k : Nat) (f : Core → Core) : (c.modCore k f).wdt = c.wdt := rfl
@[simp] theorem Chip.modCore_pins (c : Chip) (k : Nat) (f : Core → Core) : (c.modCore k f).pins = c.pins := rfl
@[simp] theorem Chip.modCore_disp (c : Chip) (k : Nat) (f : Core → Core) : (c.modCore k f).disp = c.disp := rfl
@[simp] theorem Chip.modCore_fu (c : Chip) (k : Nat) (f : Core → Core) : (c.modCore k f).fu = c.fu := rfl
@[simp] theorem Chip.modCore_press (c : Chip) (k : Nat) (f : Core → Core) : (c.modCore k f).press = c.press := rfl
@[simp] theorem Chip.modCore_dma (c : Chip) (k : Nat) (f : Core → Core) : (c.modCore k f).dma = c.dma := rfl
@[simp] theorem Chip.modCore_aud (c : Chip) (k : Nat) (f : Core → Core) : (c.modCore k f).aud = c.aud := rfl
@[simp] theorem Chip.modCore_free (c : Chip) (k : Nat) (f : Core → Core) : (c.modCore k f).free = c.free := rfl

@[simp] theorem Chip.setSrc_count (c : Chip) (k : Nat) (x : IrqSrc) : (c.setSrc k x).count = c.count := rfl
@[simp] theorem Chip.setSrc_refclk (c : Chip) (k : Nat) (x : IrqSrc) : (c.setSrc k x).refclk = c.refclk := rfl
@[simp] theorem Chip.setSrc_nowHi (c : Chip) (k : Nat) (x : IrqSrc) : (c.setSrc k x).nowHi = c.nowHi := rfl
@[simp] theorem Chip.setSrc_replicas (c : Chip) (k : Nat) (x : IrqSrc) : (c.setSrc k x).replicas = c.replicas := rfl
@[simp] theorem Chip.setSrc_mem (c : Chip) (k : Nat) (x : IrqSrc) : (c.setSrc k x).mem = c.mem := rfl
@[simp] theorem Chip.setSrc_poison (c : Chip) (k : Nat) (x : IrqSrc) : (c.setSrc k x).poison = c.poison := rfl
@[simp] theorem Chip.setSrc_flips (c : Chip) (k : Nat) (x : IrqSrc) : (c.setSrc k x).flips = c.flips := rfl
@[simp] theorem Chip.setSrc_memc (c : Chip) (k : Nat) (x : IrqSrc) : (c.setSrc k x).memc = c.memc := rfl
@[simp] theorem Chip.setSrc_regs (c : Chip) (k : Nat) (x : IrqSrc) : (c.setSrc k x).regs = c.regs := rfl
@[simp] theorem Chip.setSrc_cores (c : Chip) (k : Nat) (x : IrqSrc) : (c.setSrc k x).cores = c.cores := rfl
@[simp] theorem Chip.setSrc_power (c : Chip) (k : Nat) (x : IrqSrc) : (c.setSrc k x).power = c.power := rfl
@[simp] theorem Chip.setSrc_dayb (c : Chip) (k : Nat) (x : IrqSrc) : (c.setSrc k x).dayb = c.dayb := rfl
@[simp] theorem Chip.setSrc_pm (c : Chip) (k : Nat) (x : IrqSrc) : (c.setSrc k x).pm = c.pm := rfl
@[simp] theorem Chip.setSrc_hosts (c : Chip) (k : Nat) (x : IrqSrc) : (c.setSrc k x).hosts = c.hosts := rfl
@[simp] theorem Chip.setSrc_dbgPort (c : Chip) (k : Nat) (x : IrqSrc) : (c.setSrc k x).dbgPort = c.dbgPort := rfl
@[simp] theorem Chip.setSrc_zow (c : Chip) (k : Nat) (x : IrqSrc) : (c.setSrc k x).zow = c.zow := rfl
@[simp] theorem Chip.setSrc_answer (c : Chip) (k : Nat) (x : IrqSrc) : (c.setSrc k x).answer = c.answer := rfl
@[simp] theorem Chip.setSrc_tmr (c : Chip) (k : Nat) (x : IrqSrc) : (c.setSrc k x).tmr = c.tmr := rfl
@[simp] theorem Chip.setSrc_wdt (c : Chip) (k : Nat) (x : IrqSrc) : (c.setSrc k x).wdt = c.wdt := rfl
@[simp] theorem Chip.setSrc_pins (c : Chip) (k : Nat) (x : IrqSrc) : (c.setSrc k x).pins = c.pins := rfl
@[simp] theorem Chip.setSrc_disp (c : Chip) (k : Nat) (x : IrqSrc) : (c.setSrc k x).disp = c.disp := rfl
@[simp] theorem Chip.setSrc_fu (c : Chip) (k : Nat) (x : IrqSrc) : (c.setSrc k x).fu = c.fu := rfl
@[simp] theorem Chip.setSrc_press (c : Chip) (k : Nat) (x : IrqSrc) : (c.setSrc k x).press = c.press := rfl
@[simp] theorem Chip.setSrc_dma (c : Chip) (k : Nat) (x : IrqSrc) : (c.setSrc k x).dma = c.dma := rfl
@[simp] theorem Chip.setSrc_aud (c : Chip) (k : Nat) (x : IrqSrc) : (c.setSrc k x).aud = c.aud := rfl
@[simp] theorem Chip.setSrc_free (c : Chip) (k : Nat) (x : IrqSrc) : (c.setSrc k x).free = c.free := rfl

@[simp] theorem Chip.setPort_count (c : Chip) (d : Nat) (p : Port) : (c.setPort d p).count = c.count := rfl
@[simp] theorem Chip.setPort_refclk (c : Chip) (d : Nat) (p : Port) : (c.setPort d p).refclk = c.refclk := rfl
@[simp] theorem Chip.setPort_nowHi (c : Chip) (d : Nat) (p : Port) : (c.setPort d p).nowHi = c.nowHi := rfl
@[simp] theorem Chip.setPort_replicas (c : Chip) (d : Nat) (p : Port) : (c.setPort d p).replicas = c.replicas := rfl
@[simp] theorem Chip.setPort_mem (c : Chip) (d : Nat) (p : Port) : (c.setPort d p).mem = c.mem := rfl
@[simp] theorem Chip.setPort_poison (c : Chip) (d : Nat) (p : Port) : (c.setPort d p).poison = c.poison := rfl
@[simp] theorem Chip.setPort_flips (c : Chip) (d : Nat) (p : Port) : (c.setPort d p).flips = c.flips := rfl
@[simp] theorem Chip.setPort_memc (c : Chip) (d : Nat) (p : Port) : (c.setPort d p).memc = c.memc := rfl
@[simp] theorem Chip.setPort_regs (c : Chip) (d : Nat) (p : Port) : (c.setPort d p).regs = c.regs := rfl
@[simp] theorem Chip.setPort_cores (c : Chip) (d : Nat) (p : Port) : (c.setPort d p).cores = c.cores := rfl
@[simp] theorem Chip.setPort_power (c : Chip) (d : Nat) (p : Port) : (c.setPort d p).power = c.power := rfl
@[simp] theorem Chip.setPort_dayb (c : Chip) (d : Nat) (p : Port) : (c.setPort d p).dayb = c.dayb := rfl
@[simp] theorem Chip.setPort_pm (c : Chip) (d : Nat) (p : Port) : (c.setPort d p).pm = c.pm := rfl
@[simp] theorem Chip.setPort_hosts (c : Chip) (d : Nat) (p : Port) : (c.setPort d p).hosts = c.hosts := rfl
@[simp] theorem Chip.setPort_dbgPort (c : Chip) (d : Nat) (p : Port) : (c.setPort d p).dbgPort = c.dbgPort := rfl
@[simp] theorem Chip.setPort_zow (c : Chip) (d : Nat) (p : Port) : (c.setPort d p).zow = c.zow := rfl
@[simp] theorem Chip.setPort_answer (c : Chip) (d : Nat) (p : Port) : (c.setPort d p).answer = c.answer := rfl
@[simp] theorem Chip.setPort_icu (c : Chip) (d : Nat) (p : Port) : (c.setPort d p).icu = c.icu := rfl
@[simp] theorem Chip.setPort_tmr (c : Chip) (d : Nat) (p : Port) : (c.setPort d p).tmr = c.tmr := rfl
@[simp] theorem Chip.setPort_wdt (c : Chip) (d : Nat) (p : Port) : (c.setPort d p).wdt = c.wdt := rfl
@[simp] theorem Chip.setPort_pins (c : Chip) (d : Nat) (p : Port) : (c.setPort d p).pins = c.pins := rfl
@[simp] theorem Chip.setPort_fu (c : Chip) (d : Nat) (p : Port) : (c.setPort d p).fu = c.fu := rfl
@[simp] theorem Chip.setPort_press (c : Chip) (d : Nat) (p : Port) : (c.setPort d p).press = c.press := rfl
@[simp] theorem Chip.setPort_dma (c : Chip) (d : Nat) (p : Port) : (c.setPort d p).dma = c.dma := rfl
@[simp] theorem Chip.setPort_aud (c : Chip) (d : Nat) (p : Port) : (c.setPort d p).aud = c.aud := rfl
@[simp] theorem Chip.setPort_free (c : Chip) (d : Nat) (p : Port) : (c.setPort d p).free = c.free := rfl

@[simp] theorem Chip.setOut_count (c : Chip) (o : Nat) (x : Output) : (c.setOut o x).count = c.count := rfl
@[simp] theorem Chip.setOut_refclk (c : Chip) (o : Nat) (x : Output) : (c.setOut o x).refclk = c.refclk := rfl
@[simp] theorem Chip.setOut_nowHi (c : Chip) (o : Nat) (x : Output) : (c.setOut o x).nowHi = c.nowHi := rfl
@[simp] theorem Chip.setOut_replicas (c : Chip) (o : Nat) (x : Output) : (c.setOut o x).replicas = c.replicas := rfl
@[simp] theorem Chip.setOut_mem (c : Chip) (o : Nat) (x : Output) : (c.setOut o x).mem = c.mem := rfl
@[simp] theorem Chip.setOut_poison (c : Chip) (o : Nat) (x : Output) : (c.setOut o x).poison = c.poison := rfl
@[simp] theorem Chip.setOut_flips (c : Chip) (o : Nat) (x : Output) : (c.setOut o x).flips = c.flips := rfl
@[simp] theorem Chip.setOut_memc (c : Chip) (o : Nat) (x : Output) : (c.setOut o x).memc = c.memc := rfl
@[simp] theorem Chip.setOut_regs (c : Chip) (o : Nat) (x : Output) : (c.setOut o x).regs = c.regs := rfl
@[simp] theorem Chip.setOut_cores (c : Chip) (o : Nat) (x : Output) : (c.setOut o x).cores = c.cores := rfl
@[simp] theorem Chip.setOut_power (c : Chip) (o : Nat) (x : Output) : (c.setOut o x).power = c.power := rfl
@[simp] theorem Chip.setOut_dayb (c : Chip) (o : Nat) (x : Output) : (c.setOut o x).dayb = c.dayb := rfl
@[simp] theorem Chip.setOut_pm (c : Chip) (o : Nat) (x : Output) : (c.setOut o x).pm = c.pm := rfl
@[simp] theorem Chip.setOut_hosts (c : Chip) (o : Nat) (x : Output) : (c.setOut o x).hosts = c.hosts := rfl
@[simp] theorem Chip.setOut_dbgPort (c : Chip) (o : Nat) (x : Output) : (c.setOut o x).dbgPort = c.dbgPort := rfl
@[simp] theorem Chip.setOut_zow (c : Chip) (o : Nat) (x : Output) : (c.setOut o x).zow = c.zow := rfl
@[simp] theorem Chip.setOut_answer (c : Chip) (o : Nat) (x : Output) : (c.setOut o x).answer = c.answer := rfl
@[simp] theorem Chip.setOut_icu (c : Chip) (o : Nat) (x : Output) : (c.setOut o x).icu = c.icu := rfl
@[simp] theorem Chip.setOut_tmr (c : Chip) (o : Nat) (x : Output) : (c.setOut o x).tmr = c.tmr := rfl
@[simp] theorem Chip.setOut_wdt (c : Chip) (o : Nat) (x : Output) : (c.setOut o x).wdt = c.wdt := rfl
@[simp] theorem Chip.setOut_pins (c : Chip) (o : Nat) (x : Output) : (c.setOut o x).pins = c.pins := rfl
@[simp] theorem Chip.setOut_fu (c : Chip) (o : Nat) (x : Output) : (c.setOut o x).fu = c.fu := rfl
@[simp] theorem Chip.setOut_press (c : Chip) (o : Nat) (x : Output) : (c.setOut o x).press = c.press := rfl
@[simp] theorem Chip.setOut_dma (c : Chip) (o : Nat) (x : Output) : (c.setOut o x).dma = c.dma := rfl
@[simp] theorem Chip.setOut_aud (c : Chip) (o : Nat) (x : Output) : (c.setOut o x).aud = c.aud := rfl
@[simp] theorem Chip.setOut_free (c : Chip) (o : Nat) (x : Output) : (c.setOut o x).free = c.free := rfl

@[simp] theorem Chip.modOut_count (c : Chip) (o : Nat) (f : Output → Output) : (c.modOut o f).count = c.count := rfl
@[simp] theorem Chip.modOut_refclk (c : Chip) (o : Nat) (f : Output → Output) : (c.modOut o f).refclk = c.refclk := rfl
@[simp] theorem Chip.modOut_nowHi (c : Chip) (o : Nat) (f : Output → Output) : (c.modOut o f).nowHi = c.nowHi := rfl
@[simp] theorem Chip.modOut_replicas (c : Chip) (o : Nat) (f : Output → Output) : (c.modOut o f).replicas = c.replicas := rfl
@[simp] theorem Chip.modOut_mem (c : Chip) (o : Nat) (f : Output → Output) : (c.modOut o f).mem = c.mem := rfl
@[simp] theorem Chip.modOut_poison (c : Chip) (o : Nat) (f : Output → Output) : (c.modOut o f).poison = c.poison := rfl
@[simp] theorem Chip.modOut_flips (c : Chip) (o : Nat) (f : Output → Output) : (c.modOut o f).flips = c.flips := rfl
@[simp] theorem Chip.modOut_memc (c : Chip) (o : Nat) (f : Output → Output) : (c.modOut o f).memc = c.memc := rfl
@[simp] theorem Chip.modOut_regs (c : Chip) (o : Nat) (f : Output → Output) : (c.modOut o f).regs = c.regs := rfl
@[simp] theorem Chip.modOut_cores (c : Chip) (o : Nat) (f : Output → Output) : (c.modOut o f).cores = c.cores := rfl
@[simp] theorem Chip.modOut_power (c : Chip) (o : Nat) (f : Output → Output) : (c.modOut o f).power = c.power := rfl
@[simp] theorem Chip.modOut_dayb (c : Chip) (o : Nat) (f : Output → Output) : (c.modOut o f).dayb = c.dayb := rfl
@[simp] theorem Chip.modOut_pm (c : Chip) (o : Nat) (f : Output → Output) : (c.modOut o f).pm = c.pm := rfl
@[simp] theorem Chip.modOut_hosts (c : Chip) (o : Nat) (f : Output → Output) : (c.modOut o f).hosts = c.hosts := rfl
@[simp] theorem Chip.modOut_dbgPort (c : Chip) (o : Nat) (f : Output → Output) : (c.modOut o f).dbgPort = c.dbgPort := rfl
@[simp] theorem Chip.modOut_zow (c : Chip) (o : Nat) (f : Output → Output) : (c.modOut o f).zow = c.zow := rfl
@[simp] theorem Chip.modOut_answer (c : Chip) (o : Nat) (f : Output → Output) : (c.modOut o f).answer = c.answer := rfl
@[simp] theorem Chip.modOut_icu (c : Chip) (o : Nat) (f : Output → Output) : (c.modOut o f).icu = c.icu := rfl
@[simp] theorem Chip.modOut_tmr (c : Chip) (o : Nat) (f : Output → Output) : (c.modOut o f).tmr = c.tmr := rfl
@[simp] theorem Chip.modOut_wdt (c : Chip) (o : Nat) (f : Output → Output) : (c.modOut o f).wdt = c.wdt := rfl
@[simp] theorem Chip.modOut_pins (c : Chip) (o : Nat) (f : Output → Output) : (c.modOut o f).pins = c.pins := rfl
@[simp] theorem Chip.modOut_fu (c : Chip) (o : Nat) (f : Output → Output) : (c.modOut o f).fu = c.fu := rfl
@[simp] theorem Chip.modOut_press (c : Chip) (o : Nat) (f : Output → Output) : (c.modOut o f).press = c.press := rfl
@[simp] theorem Chip.modOut_dma (c : Chip) (o : Nat) (f : Output → Output) : (c.modOut o f).dma = c.dma := rfl
@[simp] theorem Chip.modOut_aud (c : Chip) (o : Nat) (f : Output → Output) : (c.modOut o f).aud = c.aud := rfl
@[simp] theorem Chip.modOut_free (c : Chip) (o : Nat) (f : Output → Output) : (c.modOut o f).free = c.free := rfl

@[simp] theorem Chip.modGrp_count (c : Chip) (g : Nat) (f : Group → Group) : (c.modGrp g f).count = c.count := rfl
@[simp] theorem Chip.modGrp_refclk (c : Chip) (g : Nat) (f : Group → Group) : (c.modGrp g f).refclk = c.refclk := rfl
@[simp] theorem Chip.modGrp_nowHi (c : Chip) (g : Nat) (f : Group → Group) : (c.modGrp g f).nowHi = c.nowHi := rfl
@[simp] theorem Chip.modGrp_replicas (c : Chip) (g : Nat) (f : Group → Group) : (c.modGrp g f).replicas = c.replicas := rfl
@[simp] theorem Chip.modGrp_mem (c : Chip) (g : Nat) (f : Group → Group) : (c.modGrp g f).mem = c.mem := rfl
@[simp] theorem Chip.modGrp_poison (c : Chip) (g : Nat) (f : Group → Group) : (c.modGrp g f).poison = c.poison := rfl
@[simp] theorem Chip.modGrp_flips (c : Chip) (g : Nat) (f : Group → Group) : (c.modGrp g f).flips = c.flips := rfl
@[simp] theorem Chip.modGrp_memc (c : Chip) (g : Nat) (f : Group → Group) : (c.modGrp g f).memc = c.memc := rfl
@[simp] theorem Chip.modGrp_regs (c : Chip) (g : Nat) (f : Group → Group) : (c.modGrp g f).regs = c.regs := rfl
@[simp] theorem Chip.modGrp_cores (c : Chip) (g : Nat) (f : Group → Group) : (c.modGrp g f).cores = c.cores := rfl
@[simp] theorem Chip.modGrp_power (c : Chip) (g : Nat) (f : Group → Group) : (c.modGrp g f).power = c.power := rfl
@[simp] theorem Chip.modGrp_dayb (c : Chip) (g : Nat) (f : Group → Group) : (c.modGrp g f).dayb = c.dayb := rfl
@[simp] theorem Chip.modGrp_pm (c : Chip) (g : Nat) (f : Group → Group) : (c.modGrp g f).pm = c.pm := rfl
@[simp] theorem Chip.modGrp_hosts (c : Chip) (g : Nat) (f : Group → Group) : (c.modGrp g f).hosts = c.hosts := rfl
@[simp] theorem Chip.modGrp_dbgPort (c : Chip) (g : Nat) (f : Group → Group) : (c.modGrp g f).dbgPort = c.dbgPort := rfl
@[simp] theorem Chip.modGrp_zow (c : Chip) (g : Nat) (f : Group → Group) : (c.modGrp g f).zow = c.zow := rfl
@[simp] theorem Chip.modGrp_answer (c : Chip) (g : Nat) (f : Group → Group) : (c.modGrp g f).answer = c.answer := rfl
@[simp] theorem Chip.modGrp_icu (c : Chip) (g : Nat) (f : Group → Group) : (c.modGrp g f).icu = c.icu := rfl
@[simp] theorem Chip.modGrp_tmr (c : Chip) (g : Nat) (f : Group → Group) : (c.modGrp g f).tmr = c.tmr := rfl
@[simp] theorem Chip.modGrp_wdt (c : Chip) (g : Nat) (f : Group → Group) : (c.modGrp g f).wdt = c.wdt := rfl
@[simp] theorem Chip.modGrp_pins (c : Chip) (g : Nat) (f : Group → Group) : (c.modGrp g f).pins = c.pins := rfl
@[simp] theorem Chip.modGrp_fu (c : Chip) (g : Nat) (f : Group → Group) : (c.modGrp g f).fu = c.fu := rfl
@[simp] theorem Chip.modGrp_press (c : Chip) (g : Nat) (f : Group → Group) : (c.modGrp g f).press = c.press := rfl
@[simp] theorem Chip.modGrp_dma (c : Chip) (g : Nat) (f : Group → Group) : (c.modGrp g f).dma = c.dma := rfl
@[simp] theorem Chip.modGrp_aud (c : Chip) (g : Nat) (f : Group → Group) : (c.modGrp g f).aud = c.aud := rfl
@[simp] theorem Chip.modGrp_free (c : Chip) (g : Nat) (f : Group → Group) : (c.modGrp g f).free = c.free := rfl

@[simp] theorem Chip.modComp_count (c : Chip) (s : Nat) (f : Composer → Composer) : (c.modComp s f).count = c.count := rfl
@[simp] theorem Chip.modComp_refclk (c : Chip) (s : Nat) (f : Composer → Composer) : (c.modComp s f).refclk = c.refclk := rfl
@[simp] theorem Chip.modComp_nowHi (c : Chip) (s : Nat) (f : Composer → Composer) : (c.modComp s f).nowHi = c.nowHi := rfl
@[simp] theorem Chip.modComp_replicas (c : Chip) (s : Nat) (f : Composer → Composer) : (c.modComp s f).replicas = c.replicas := rfl
@[simp] theorem Chip.modComp_mem (c : Chip) (s : Nat) (f : Composer → Composer) : (c.modComp s f).mem = c.mem := rfl
@[simp] theorem Chip.modComp_poison (c : Chip) (s : Nat) (f : Composer → Composer) : (c.modComp s f).poison = c.poison := rfl
@[simp] theorem Chip.modComp_flips (c : Chip) (s : Nat) (f : Composer → Composer) : (c.modComp s f).flips = c.flips := rfl
@[simp] theorem Chip.modComp_memc (c : Chip) (s : Nat) (f : Composer → Composer) : (c.modComp s f).memc = c.memc := rfl
@[simp] theorem Chip.modComp_regs (c : Chip) (s : Nat) (f : Composer → Composer) : (c.modComp s f).regs = c.regs := rfl
@[simp] theorem Chip.modComp_cores (c : Chip) (s : Nat) (f : Composer → Composer) : (c.modComp s f).cores = c.cores := rfl
@[simp] theorem Chip.modComp_power (c : Chip) (s : Nat) (f : Composer → Composer) : (c.modComp s f).power = c.power := rfl
@[simp] theorem Chip.modComp_dayb (c : Chip) (s : Nat) (f : Composer → Composer) : (c.modComp s f).dayb = c.dayb := rfl
@[simp] theorem Chip.modComp_pm (c : Chip) (s : Nat) (f : Composer → Composer) : (c.modComp s f).pm = c.pm := rfl
@[simp] theorem Chip.modComp_hosts (c : Chip) (s : Nat) (f : Composer → Composer) : (c.modComp s f).hosts = c.hosts := rfl
@[simp] theorem Chip.modComp_dbgPort (c : Chip) (s : Nat) (f : Composer → Composer) : (c.modComp s f).dbgPort = c.dbgPort := rfl
@[simp] theorem Chip.modComp_zow (c : Chip) (s : Nat) (f : Composer → Composer) : (c.modComp s f).zow = c.zow := rfl
@[simp] theorem Chip.modComp_answer (c : Chip) (s : Nat) (f : Composer → Composer) : (c.modComp s f).answer = c.answer := rfl
@[simp] theorem Chip.modComp_icu (c : Chip) (s : Nat) (f : Composer → Composer) : (c.modComp s f).icu = c.icu := rfl
@[simp] theorem Chip.modComp_tmr (c : Chip) (s : Nat) (f : Composer → Composer) : (c.modComp s f).tmr = c.tmr := rfl
@[simp] theorem Chip.modComp_wdt (c : Chip) (s : Nat) (f : Composer → Composer) : (c.modComp s f).wdt = c.wdt := rfl
@[simp] theorem Chip.modComp_pins (c : Chip) (s : Nat) (f : Composer → Composer) : (c.modComp s f).pins = c.pins := rfl
@[simp] theorem Chip.modComp_fu (c : Chip) (s : Nat) (f : Composer → Composer) : (c.modComp s f).fu = c.fu := rfl
@[simp] theorem Chip.modComp_press (c : Chip) (s : Nat) (f : Composer → Composer) : (c.modComp s f).press = c.press := rfl
@[simp] theorem Chip.modComp_dma (c : Chip) (s : Nat) (f : Composer → Composer) : (c.modComp s f).dma = c.dma := rfl
@[simp] theorem Chip.modComp_aud (c : Chip) (s : Nat) (f : Composer → Composer) : (c.modComp s f).aud = c.aud := rfl
@[simp] theorem Chip.modComp_free (c : Chip) (s : Nat) (f : Composer → Composer) : (c.modComp s f).free = c.free := rfl

@[simp] theorem Chip.modDom_count (c : Chip) (d : Nat) (f : AudDomain → AudDomain) : (c.modDom d f).count = c.count := rfl
@[simp] theorem Chip.modDom_refclk (c : Chip) (d : Nat) (f : AudDomain → AudDomain) : (c.modDom d f).refclk = c.refclk := rfl
@[simp] theorem Chip.modDom_nowHi (c : Chip) (d : Nat) (f : AudDomain → AudDomain) : (c.modDom d f).nowHi = c.nowHi := rfl
@[simp] theorem Chip.modDom_replicas (c : Chip) (d : Nat) (f : AudDomain → AudDomain) : (c.modDom d f).replicas = c.replicas := rfl
@[simp] theorem Chip.modDom_mem (c : Chip) (d : Nat) (f : AudDomain → AudDomain) : (c.modDom d f).mem = c.mem := rfl
@[simp] theorem Chip.modDom_poison (c : Chip) (d : Nat) (f : AudDomain → AudDomain) : (c.modDom d f).poison = c.poison := rfl
@[simp] theorem Chip.modDom_flips (c : Chip) (d : Nat) (f : AudDomain → AudDomain) : (c.modDom d f).flips = c.flips := rfl
@[simp] theorem Chip.modDom_memc (c : Chip) (d : Nat) (f : AudDomain → AudDomain) : (c.modDom d f).memc = c.memc := rfl
@[simp] theorem Chip.modDom_regs (c : Chip) (d : Nat) (f : AudDomain → AudDomain) : (c.modDom d f).regs = c.regs := rfl
@[simp] theorem Chip.modDom_cores (c : Chip) (d : Nat) (f : AudDomain → AudDomain) : (c.modDom d f).cores = c.cores := rfl
@[simp] theorem Chip.modDom_power (c : Chip) (d : Nat) (f : AudDomain → AudDomain) : (c.modDom d f).power = c.power := rfl
@[simp] theorem Chip.modDom_dayb (c : Chip) (d : Nat) (f : AudDomain → AudDomain) : (c.modDom d f).dayb = c.dayb := rfl
@[simp] theorem Chip.modDom_pm (c : Chip) (d : Nat) (f : AudDomain → AudDomain) : (c.modDom d f).pm = c.pm := rfl
@[simp] theorem Chip.modDom_hosts (c : Chip) (d : Nat) (f : AudDomain → AudDomain) : (c.modDom d f).hosts = c.hosts := rfl
@[simp] theorem Chip.modDom_dbgPort (c : Chip) (d : Nat) (f : AudDomain → AudDomain) : (c.modDom d f).dbgPort = c.dbgPort := rfl
@[simp] theorem Chip.modDom_zow (c : Chip) (d : Nat) (f : AudDomain → AudDomain) : (c.modDom d f).zow = c.zow := rfl
@[simp] theorem Chip.modDom_answer (c : Chip) (d : Nat) (f : AudDomain → AudDomain) : (c.modDom d f).answer = c.answer := rfl
@[simp] theorem Chip.modDom_icu (c : Chip) (d : Nat) (f : AudDomain → AudDomain) : (c.modDom d f).icu = c.icu := rfl
@[simp] theorem Chip.modDom_tmr (c : Chip) (d : Nat) (f : AudDomain → AudDomain) : (c.modDom d f).tmr = c.tmr := rfl
@[simp] theorem Chip.modDom_wdt (c : Chip) (d : Nat) (f : AudDomain → AudDomain) : (c.modDom d f).wdt = c.wdt := rfl
@[simp] theorem Chip.modDom_pins (c : Chip) (d : Nat) (f : AudDomain → AudDomain) : (c.modDom d f).pins = c.pins := rfl
@[simp] theorem Chip.modDom_disp (c : Chip) (d : Nat) (f : AudDomain → AudDomain) : (c.modDom d f).disp = c.disp := rfl
@[simp] theorem Chip.modDom_fu (c : Chip) (d : Nat) (f : AudDomain → AudDomain) : (c.modDom d f).fu = c.fu := rfl
@[simp] theorem Chip.modDom_press (c : Chip) (d : Nat) (f : AudDomain → AudDomain) : (c.modDom d f).press = c.press := rfl
@[simp] theorem Chip.modDom_dma (c : Chip) (d : Nat) (f : AudDomain → AudDomain) : (c.modDom d f).dma = c.dma := rfl
@[simp] theorem Chip.modDom_free (c : Chip) (d : Nat) (f : AudDomain → AudDomain) : (c.modDom d f).free = c.free := rfl

@[simp] theorem Chip.modAud_count (c : Chip) (f : Audio → Audio) : (c.modAud f).count = c.count := rfl
@[simp] theorem Chip.modAud_refclk (c : Chip) (f : Audio → Audio) : (c.modAud f).refclk = c.refclk := rfl
@[simp] theorem Chip.modAud_nowHi (c : Chip) (f : Audio → Audio) : (c.modAud f).nowHi = c.nowHi := rfl
@[simp] theorem Chip.modAud_replicas (c : Chip) (f : Audio → Audio) : (c.modAud f).replicas = c.replicas := rfl
@[simp] theorem Chip.modAud_mem (c : Chip) (f : Audio → Audio) : (c.modAud f).mem = c.mem := rfl
@[simp] theorem Chip.modAud_poison (c : Chip) (f : Audio → Audio) : (c.modAud f).poison = c.poison := rfl
@[simp] theorem Chip.modAud_flips (c : Chip) (f : Audio → Audio) : (c.modAud f).flips = c.flips := rfl
@[simp] theorem Chip.modAud_memc (c : Chip) (f : Audio → Audio) : (c.modAud f).memc = c.memc := rfl
@[simp] theorem Chip.modAud_regs (c : Chip) (f : Audio → Audio) : (c.modAud f).regs = c.regs := rfl
@[simp] theorem Chip.modAud_cores (c : Chip) (f : Audio → Audio) : (c.modAud f).cores = c.cores := rfl
@[simp] theorem Chip.modAud_power (c : Chip) (f : Audio → Audio) : (c.modAud f).power = c.power := rfl
@[simp] theorem Chip.modAud_dayb (c : Chip) (f : Audio → Audio) : (c.modAud f).dayb = c.dayb := rfl
@[simp] theorem Chip.modAud_pm (c : Chip) (f : Audio → Audio) : (c.modAud f).pm = c.pm := rfl
@[simp] theorem Chip.modAud_hosts (c : Chip) (f : Audio → Audio) : (c.modAud f).hosts = c.hosts := rfl
@[simp] theorem Chip.modAud_dbgPort (c : Chip) (f : Audio → Audio) : (c.modAud f).dbgPort = c.dbgPort := rfl
@[simp] theorem Chip.modAud_zow (c : Chip) (f : Audio → Audio) : (c.modAud f).zow = c.zow := rfl
@[simp] theorem Chip.modAud_answer (c : Chip) (f : Audio → Audio) : (c.modAud f).answer = c.answer := rfl
@[simp] theorem Chip.modAud_icu (c : Chip) (f : Audio → Audio) : (c.modAud f).icu = c.icu := rfl
@[simp] theorem Chip.modAud_tmr (c : Chip) (f : Audio → Audio) : (c.modAud f).tmr = c.tmr := rfl
@[simp] theorem Chip.modAud_wdt (c : Chip) (f : Audio → Audio) : (c.modAud f).wdt = c.wdt := rfl
@[simp] theorem Chip.modAud_pins (c : Chip) (f : Audio → Audio) : (c.modAud f).pins = c.pins := rfl
@[simp] theorem Chip.modAud_disp (c : Chip) (f : Audio → Audio) : (c.modAud f).disp = c.disp := rfl
@[simp] theorem Chip.modAud_fu (c : Chip) (f : Audio → Audio) : (c.modAud f).fu = c.fu := rfl
@[simp] theorem Chip.modAud_press (c : Chip) (f : Audio → Audio) : (c.modAud f).press = c.press := rfl
@[simp] theorem Chip.modAud_dma (c : Chip) (f : Audio → Audio) : (c.modAud f).dma = c.dma := rfl
@[simp] theorem Chip.modAud_free (c : Chip) (f : Audio → Audio) : (c.modAud f).free = c.free := rfl

@[simp] theorem Chip.modDma_count (c : Chip) (i : Nat) (f : DmaCh → DmaCh) : (c.modDma i f).count = c.count := rfl
@[simp] theorem Chip.modDma_refclk (c : Chip) (i : Nat) (f : DmaCh → DmaCh) : (c.modDma i f).refclk = c.refclk := rfl
@[simp] theorem Chip.modDma_nowHi (c : Chip) (i : Nat) (f : DmaCh → DmaCh) : (c.modDma i f).nowHi = c.nowHi := rfl
@[simp] theorem Chip.modDma_replicas (c : Chip) (i : Nat) (f : DmaCh → DmaCh) : (c.modDma i f).replicas = c.replicas := rfl
@[simp] theorem Chip.modDma_mem (c : Chip) (i : Nat) (f : DmaCh → DmaCh) : (c.modDma i f).mem = c.mem := rfl
@[simp] theorem Chip.modDma_poison (c : Chip) (i : Nat) (f : DmaCh → DmaCh) : (c.modDma i f).poison = c.poison := rfl
@[simp] theorem Chip.modDma_flips (c : Chip) (i : Nat) (f : DmaCh → DmaCh) : (c.modDma i f).flips = c.flips := rfl
@[simp] theorem Chip.modDma_memc (c : Chip) (i : Nat) (f : DmaCh → DmaCh) : (c.modDma i f).memc = c.memc := rfl
@[simp] theorem Chip.modDma_regs (c : Chip) (i : Nat) (f : DmaCh → DmaCh) : (c.modDma i f).regs = c.regs := rfl
@[simp] theorem Chip.modDma_cores (c : Chip) (i : Nat) (f : DmaCh → DmaCh) : (c.modDma i f).cores = c.cores := rfl
@[simp] theorem Chip.modDma_power (c : Chip) (i : Nat) (f : DmaCh → DmaCh) : (c.modDma i f).power = c.power := rfl
@[simp] theorem Chip.modDma_dayb (c : Chip) (i : Nat) (f : DmaCh → DmaCh) : (c.modDma i f).dayb = c.dayb := rfl
@[simp] theorem Chip.modDma_pm (c : Chip) (i : Nat) (f : DmaCh → DmaCh) : (c.modDma i f).pm = c.pm := rfl
@[simp] theorem Chip.modDma_hosts (c : Chip) (i : Nat) (f : DmaCh → DmaCh) : (c.modDma i f).hosts = c.hosts := rfl
@[simp] theorem Chip.modDma_dbgPort (c : Chip) (i : Nat) (f : DmaCh → DmaCh) : (c.modDma i f).dbgPort = c.dbgPort := rfl
@[simp] theorem Chip.modDma_zow (c : Chip) (i : Nat) (f : DmaCh → DmaCh) : (c.modDma i f).zow = c.zow := rfl
@[simp] theorem Chip.modDma_answer (c : Chip) (i : Nat) (f : DmaCh → DmaCh) : (c.modDma i f).answer = c.answer := rfl
@[simp] theorem Chip.modDma_icu (c : Chip) (i : Nat) (f : DmaCh → DmaCh) : (c.modDma i f).icu = c.icu := rfl
@[simp] theorem Chip.modDma_tmr (c : Chip) (i : Nat) (f : DmaCh → DmaCh) : (c.modDma i f).tmr = c.tmr := rfl
@[simp] theorem Chip.modDma_wdt (c : Chip) (i : Nat) (f : DmaCh → DmaCh) : (c.modDma i f).wdt = c.wdt := rfl
@[simp] theorem Chip.modDma_pins (c : Chip) (i : Nat) (f : DmaCh → DmaCh) : (c.modDma i f).pins = c.pins := rfl
@[simp] theorem Chip.modDma_disp (c : Chip) (i : Nat) (f : DmaCh → DmaCh) : (c.modDma i f).disp = c.disp := rfl
@[simp] theorem Chip.modDma_fu (c : Chip) (i : Nat) (f : DmaCh → DmaCh) : (c.modDma i f).fu = c.fu := rfl
@[simp] theorem Chip.modDma_press (c : Chip) (i : Nat) (f : DmaCh → DmaCh) : (c.modDma i f).press = c.press := rfl
@[simp] theorem Chip.modDma_aud (c : Chip) (i : Nat) (f : DmaCh → DmaCh) : (c.modDma i f).aud = c.aud := rfl
@[simp] theorem Chip.modDma_free (c : Chip) (i : Nat) (f : DmaCh → DmaCh) : (c.modDma i f).free = c.free := rfl

@[simp] theorem Chip.modPress_count (c : Chip) (f : PressEng → PressEng) : (c.modPress f).count = c.count := rfl
@[simp] theorem Chip.modPress_refclk (c : Chip) (f : PressEng → PressEng) : (c.modPress f).refclk = c.refclk := rfl
@[simp] theorem Chip.modPress_nowHi (c : Chip) (f : PressEng → PressEng) : (c.modPress f).nowHi = c.nowHi := rfl
@[simp] theorem Chip.modPress_replicas (c : Chip) (f : PressEng → PressEng) : (c.modPress f).replicas = c.replicas := rfl
@[simp] theorem Chip.modPress_mem (c : Chip) (f : PressEng → PressEng) : (c.modPress f).mem = c.mem := rfl
@[simp] theorem Chip.modPress_poison (c : Chip) (f : PressEng → PressEng) : (c.modPress f).poison = c.poison := rfl
@[simp] theorem Chip.modPress_flips (c : Chip) (f : PressEng → PressEng) : (c.modPress f).flips = c.flips := rfl
@[simp] theorem Chip.modPress_memc (c : Chip) (f : PressEng → PressEng) : (c.modPress f).memc = c.memc := rfl
@[simp] theorem Chip.modPress_regs (c : Chip) (f : PressEng → PressEng) : (c.modPress f).regs = c.regs := rfl
@[simp] theorem Chip.modPress_cores (c : Chip) (f : PressEng → PressEng) : (c.modPress f).cores = c.cores := rfl
@[simp] theorem Chip.modPress_power (c : Chip) (f : PressEng → PressEng) : (c.modPress f).power = c.power := rfl
@[simp] theorem Chip.modPress_dayb (c : Chip) (f : PressEng → PressEng) : (c.modPress f).dayb = c.dayb := rfl
@[simp] theorem Chip.modPress_pm (c : Chip) (f : PressEng → PressEng) : (c.modPress f).pm = c.pm := rfl
@[simp] theorem Chip.modPress_hosts (c : Chip) (f : PressEng → PressEng) : (c.modPress f).hosts = c.hosts := rfl
@[simp] theorem Chip.modPress_dbgPort (c : Chip) (f : PressEng → PressEng) : (c.modPress f).dbgPort = c.dbgPort := rfl
@[simp] theorem Chip.modPress_zow (c : Chip) (f : PressEng → PressEng) : (c.modPress f).zow = c.zow := rfl
@[simp] theorem Chip.modPress_answer (c : Chip) (f : PressEng → PressEng) : (c.modPress f).answer = c.answer := rfl
@[simp] theorem Chip.modPress_icu (c : Chip) (f : PressEng → PressEng) : (c.modPress f).icu = c.icu := rfl
@[simp] theorem Chip.modPress_tmr (c : Chip) (f : PressEng → PressEng) : (c.modPress f).tmr = c.tmr := rfl
@[simp] theorem Chip.modPress_wdt (c : Chip) (f : PressEng → PressEng) : (c.modPress f).wdt = c.wdt := rfl
@[simp] theorem Chip.modPress_pins (c : Chip) (f : PressEng → PressEng) : (c.modPress f).pins = c.pins := rfl
@[simp] theorem Chip.modPress_disp (c : Chip) (f : PressEng → PressEng) : (c.modPress f).disp = c.disp := rfl
@[simp] theorem Chip.modPress_fu (c : Chip) (f : PressEng → PressEng) : (c.modPress f).fu = c.fu := rfl
@[simp] theorem Chip.modPress_dma (c : Chip) (f : PressEng → PressEng) : (c.modPress f).dma = c.dma := rfl
@[simp] theorem Chip.modPress_aud (c : Chip) (f : PressEng → PressEng) : (c.modPress f).aud = c.aud := rfl
@[simp] theorem Chip.modPress_free (c : Chip) (f : PressEng → PressEng) : (c.modPress f).free = c.free := rfl

@[simp] theorem Chip.modFu_count (c : Chip) (f : Franking → Franking) : (c.modFu f).count = c.count := rfl
@[simp] theorem Chip.modFu_refclk (c : Chip) (f : Franking → Franking) : (c.modFu f).refclk = c.refclk := rfl
@[simp] theorem Chip.modFu_nowHi (c : Chip) (f : Franking → Franking) : (c.modFu f).nowHi = c.nowHi := rfl
@[simp] theorem Chip.modFu_replicas (c : Chip) (f : Franking → Franking) : (c.modFu f).replicas = c.replicas := rfl
@[simp] theorem Chip.modFu_mem (c : Chip) (f : Franking → Franking) : (c.modFu f).mem = c.mem := rfl
@[simp] theorem Chip.modFu_poison (c : Chip) (f : Franking → Franking) : (c.modFu f).poison = c.poison := rfl
@[simp] theorem Chip.modFu_flips (c : Chip) (f : Franking → Franking) : (c.modFu f).flips = c.flips := rfl
@[simp] theorem Chip.modFu_memc (c : Chip) (f : Franking → Franking) : (c.modFu f).memc = c.memc := rfl
@[simp] theorem Chip.modFu_regs (c : Chip) (f : Franking → Franking) : (c.modFu f).regs = c.regs := rfl
@[simp] theorem Chip.modFu_cores (c : Chip) (f : Franking → Franking) : (c.modFu f).cores = c.cores := rfl
@[simp] theorem Chip.modFu_power (c : Chip) (f : Franking → Franking) : (c.modFu f).power = c.power := rfl
@[simp] theorem Chip.modFu_dayb (c : Chip) (f : Franking → Franking) : (c.modFu f).dayb = c.dayb := rfl
@[simp] theorem Chip.modFu_pm (c : Chip) (f : Franking → Franking) : (c.modFu f).pm = c.pm := rfl
@[simp] theorem Chip.modFu_hosts (c : Chip) (f : Franking → Franking) : (c.modFu f).hosts = c.hosts := rfl
@[simp] theorem Chip.modFu_dbgPort (c : Chip) (f : Franking → Franking) : (c.modFu f).dbgPort = c.dbgPort := rfl
@[simp] theorem Chip.modFu_zow (c : Chip) (f : Franking → Franking) : (c.modFu f).zow = c.zow := rfl
@[simp] theorem Chip.modFu_answer (c : Chip) (f : Franking → Franking) : (c.modFu f).answer = c.answer := rfl
@[simp] theorem Chip.modFu_icu (c : Chip) (f : Franking → Franking) : (c.modFu f).icu = c.icu := rfl
@[simp] theorem Chip.modFu_tmr (c : Chip) (f : Franking → Franking) : (c.modFu f).tmr = c.tmr := rfl
@[simp] theorem Chip.modFu_wdt (c : Chip) (f : Franking → Franking) : (c.modFu f).wdt = c.wdt := rfl
@[simp] theorem Chip.modFu_pins (c : Chip) (f : Franking → Franking) : (c.modFu f).pins = c.pins := rfl
@[simp] theorem Chip.modFu_disp (c : Chip) (f : Franking → Franking) : (c.modFu f).disp = c.disp := rfl
@[simp] theorem Chip.modFu_press (c : Chip) (f : Franking → Franking) : (c.modFu f).press = c.press := rfl
@[simp] theorem Chip.modFu_dma (c : Chip) (f : Franking → Franking) : (c.modFu f).dma = c.dma := rfl
@[simp] theorem Chip.modFu_aud (c : Chip) (f : Franking → Franking) : (c.modFu f).aud = c.aud := rfl
@[simp] theorem Chip.modFu_free (c : Chip) (f : Franking → Franking) : (c.modFu f).free = c.free := rfl

@[simp] theorem Chip.modZow_count (c : Chip) (f : Zow → Zow) : (c.modZow f).count = c.count := rfl
@[simp] theorem Chip.modZow_refclk (c : Chip) (f : Zow → Zow) : (c.modZow f).refclk = c.refclk := rfl
@[simp] theorem Chip.modZow_nowHi (c : Chip) (f : Zow → Zow) : (c.modZow f).nowHi = c.nowHi := rfl
@[simp] theorem Chip.modZow_replicas (c : Chip) (f : Zow → Zow) : (c.modZow f).replicas = c.replicas := rfl
@[simp] theorem Chip.modZow_mem (c : Chip) (f : Zow → Zow) : (c.modZow f).mem = c.mem := rfl
@[simp] theorem Chip.modZow_poison (c : Chip) (f : Zow → Zow) : (c.modZow f).poison = c.poison := rfl
@[simp] theorem Chip.modZow_flips (c : Chip) (f : Zow → Zow) : (c.modZow f).flips = c.flips := rfl
@[simp] theorem Chip.modZow_memc (c : Chip) (f : Zow → Zow) : (c.modZow f).memc = c.memc := rfl
@[simp] theorem Chip.modZow_regs (c : Chip) (f : Zow → Zow) : (c.modZow f).regs = c.regs := rfl
@[simp] theorem Chip.modZow_cores (c : Chip) (f : Zow → Zow) : (c.modZow f).cores = c.cores := rfl
@[simp] theorem Chip.modZow_power (c : Chip) (f : Zow → Zow) : (c.modZow f).power = c.power := rfl
@[simp] theorem Chip.modZow_dayb (c : Chip) (f : Zow → Zow) : (c.modZow f).dayb = c.dayb := rfl
@[simp] theorem Chip.modZow_pm (c : Chip) (f : Zow → Zow) : (c.modZow f).pm = c.pm := rfl
@[simp] theorem Chip.modZow_hosts (c : Chip) (f : Zow → Zow) : (c.modZow f).hosts = c.hosts := rfl
@[simp] theorem Chip.modZow_dbgPort (c : Chip) (f : Zow → Zow) : (c.modZow f).dbgPort = c.dbgPort := rfl
@[simp] theorem Chip.modZow_answer (c : Chip) (f : Zow → Zow) : (c.modZow f).answer = c.answer := rfl
@[simp] theorem Chip.modZow_icu (c : Chip) (f : Zow → Zow) : (c.modZow f).icu = c.icu := rfl
@[simp] theorem Chip.modZow_tmr (c : Chip) (f : Zow → Zow) : (c.modZow f).tmr = c.tmr := rfl
@[simp] theorem Chip.modZow_wdt (c : Chip) (f : Zow → Zow) : (c.modZow f).wdt = c.wdt := rfl
@[simp] theorem Chip.modZow_pins (c : Chip) (f : Zow → Zow) : (c.modZow f).pins = c.pins := rfl
@[simp] theorem Chip.modZow_disp (c : Chip) (f : Zow → Zow) : (c.modZow f).disp = c.disp := rfl
@[simp] theorem Chip.modZow_fu (c : Chip) (f : Zow → Zow) : (c.modZow f).fu = c.fu := rfl
@[simp] theorem Chip.modZow_press (c : Chip) (f : Zow → Zow) : (c.modZow f).press = c.press := rfl
@[simp] theorem Chip.modZow_dma (c : Chip) (f : Zow → Zow) : (c.modZow f).dma = c.dma := rfl
@[simp] theorem Chip.modZow_aud (c : Chip) (f : Zow → Zow) : (c.modZow f).aud = c.aud := rfl
@[simp] theorem Chip.modZow_free (c : Chip) (f : Zow → Zow) : (c.modZow f).free = c.free := rfl

@[simp] theorem Chip.modPm_count (c : Chip) (f : Postmaster → Postmaster) : (c.modPm f).count = c.count := rfl
@[simp] theorem Chip.modPm_refclk (c : Chip) (f : Postmaster → Postmaster) : (c.modPm f).refclk = c.refclk := rfl
@[simp] theorem Chip.modPm_nowHi (c : Chip) (f : Postmaster → Postmaster) : (c.modPm f).nowHi = c.nowHi := rfl
@[simp] theorem Chip.modPm_replicas (c : Chip) (f : Postmaster → Postmaster) : (c.modPm f).replicas = c.replicas := rfl
@[simp] theorem Chip.modPm_mem (c : Chip) (f : Postmaster → Postmaster) : (c.modPm f).mem = c.mem := rfl
@[simp] theorem Chip.modPm_poison (c : Chip) (f : Postmaster → Postmaster) : (c.modPm f).poison = c.poison := rfl
@[simp] theorem Chip.modPm_flips (c : Chip) (f : Postmaster → Postmaster) : (c.modPm f).flips = c.flips := rfl
@[simp] theorem Chip.modPm_memc (c : Chip) (f : Postmaster → Postmaster) : (c.modPm f).memc = c.memc := rfl
@[simp] theorem Chip.modPm_regs (c : Chip) (f : Postmaster → Postmaster) : (c.modPm f).regs = c.regs := rfl
@[simp] theorem Chip.modPm_cores (c : Chip) (f : Postmaster → Postmaster) : (c.modPm f).cores = c.cores := rfl
@[simp] theorem Chip.modPm_power (c : Chip) (f : Postmaster → Postmaster) : (c.modPm f).power = c.power := rfl
@[simp] theorem Chip.modPm_dayb (c : Chip) (f : Postmaster → Postmaster) : (c.modPm f).dayb = c.dayb := rfl
@[simp] theorem Chip.modPm_hosts (c : Chip) (f : Postmaster → Postmaster) : (c.modPm f).hosts = c.hosts := rfl
@[simp] theorem Chip.modPm_dbgPort (c : Chip) (f : Postmaster → Postmaster) : (c.modPm f).dbgPort = c.dbgPort := rfl
@[simp] theorem Chip.modPm_zow (c : Chip) (f : Postmaster → Postmaster) : (c.modPm f).zow = c.zow := rfl
@[simp] theorem Chip.modPm_answer (c : Chip) (f : Postmaster → Postmaster) : (c.modPm f).answer = c.answer := rfl
@[simp] theorem Chip.modPm_icu (c : Chip) (f : Postmaster → Postmaster) : (c.modPm f).icu = c.icu := rfl
@[simp] theorem Chip.modPm_tmr (c : Chip) (f : Postmaster → Postmaster) : (c.modPm f).tmr = c.tmr := rfl
@[simp] theorem Chip.modPm_wdt (c : Chip) (f : Postmaster → Postmaster) : (c.modPm f).wdt = c.wdt := rfl
@[simp] theorem Chip.modPm_pins (c : Chip) (f : Postmaster → Postmaster) : (c.modPm f).pins = c.pins := rfl
@[simp] theorem Chip.modPm_disp (c : Chip) (f : Postmaster → Postmaster) : (c.modPm f).disp = c.disp := rfl
@[simp] theorem Chip.modPm_fu (c : Chip) (f : Postmaster → Postmaster) : (c.modPm f).fu = c.fu := rfl
@[simp] theorem Chip.modPm_press (c : Chip) (f : Postmaster → Postmaster) : (c.modPm f).press = c.press := rfl
@[simp] theorem Chip.modPm_dma (c : Chip) (f : Postmaster → Postmaster) : (c.modPm f).dma = c.dma := rfl
@[simp] theorem Chip.modPm_aud (c : Chip) (f : Postmaster → Postmaster) : (c.modPm f).aud = c.aud := rfl
@[simp] theorem Chip.modPm_free (c : Chip) (f : Postmaster → Postmaster) : (c.modPm f).free = c.free := rfl

@[simp] theorem Chip.modDebug_count (c : Chip) (f : Debug → Debug) : (c.modDebug f).count = c.count := rfl
@[simp] theorem Chip.modDebug_refclk (c : Chip) (f : Debug → Debug) : (c.modDebug f).refclk = c.refclk := rfl
@[simp] theorem Chip.modDebug_nowHi (c : Chip) (f : Debug → Debug) : (c.modDebug f).nowHi = c.nowHi := rfl
@[simp] theorem Chip.modDebug_replicas (c : Chip) (f : Debug → Debug) : (c.modDebug f).replicas = c.replicas := rfl
@[simp] theorem Chip.modDebug_mem (c : Chip) (f : Debug → Debug) : (c.modDebug f).mem = c.mem := rfl
@[simp] theorem Chip.modDebug_poison (c : Chip) (f : Debug → Debug) : (c.modDebug f).poison = c.poison := rfl
@[simp] theorem Chip.modDebug_flips (c : Chip) (f : Debug → Debug) : (c.modDebug f).flips = c.flips := rfl
@[simp] theorem Chip.modDebug_memc (c : Chip) (f : Debug → Debug) : (c.modDebug f).memc = c.memc := rfl
@[simp] theorem Chip.modDebug_regs (c : Chip) (f : Debug → Debug) : (c.modDebug f).regs = c.regs := rfl
@[simp] theorem Chip.modDebug_cores (c : Chip) (f : Debug → Debug) : (c.modDebug f).cores = c.cores := rfl
@[simp] theorem Chip.modDebug_power (c : Chip) (f : Debug → Debug) : (c.modDebug f).power = c.power := rfl
@[simp] theorem Chip.modDebug_dayb (c : Chip) (f : Debug → Debug) : (c.modDebug f).dayb = c.dayb := rfl
@[simp] theorem Chip.modDebug_pm (c : Chip) (f : Debug → Debug) : (c.modDebug f).pm = c.pm := rfl
@[simp] theorem Chip.modDebug_hosts (c : Chip) (f : Debug → Debug) : (c.modDebug f).hosts = c.hosts := rfl
@[simp] theorem Chip.modDebug_zow (c : Chip) (f : Debug → Debug) : (c.modDebug f).zow = c.zow := rfl
@[simp] theorem Chip.modDebug_answer (c : Chip) (f : Debug → Debug) : (c.modDebug f).answer = c.answer := rfl
@[simp] theorem Chip.modDebug_icu (c : Chip) (f : Debug → Debug) : (c.modDebug f).icu = c.icu := rfl
@[simp] theorem Chip.modDebug_tmr (c : Chip) (f : Debug → Debug) : (c.modDebug f).tmr = c.tmr := rfl
@[simp] theorem Chip.modDebug_wdt (c : Chip) (f : Debug → Debug) : (c.modDebug f).wdt = c.wdt := rfl
@[simp] theorem Chip.modDebug_pins (c : Chip) (f : Debug → Debug) : (c.modDebug f).pins = c.pins := rfl
@[simp] theorem Chip.modDebug_disp (c : Chip) (f : Debug → Debug) : (c.modDebug f).disp = c.disp := rfl
@[simp] theorem Chip.modDebug_fu (c : Chip) (f : Debug → Debug) : (c.modDebug f).fu = c.fu := rfl
@[simp] theorem Chip.modDebug_press (c : Chip) (f : Debug → Debug) : (c.modDebug f).press = c.press := rfl
@[simp] theorem Chip.modDebug_dma (c : Chip) (f : Debug → Debug) : (c.modDebug f).dma = c.dma := rfl
@[simp] theorem Chip.modDebug_aud (c : Chip) (f : Debug → Debug) : (c.modDebug f).aud = c.aud := rfl
@[simp] theorem Chip.modDebug_free (c : Chip) (f : Debug → Debug) : (c.modDebug f).free = c.free := rfl

@[simp] theorem Chip.setHard_count (c : Chip) (k : Nat) (b : Bool) : (c.setHard k b).count = c.count := rfl
@[simp] theorem Chip.setHard_refclk (c : Chip) (k : Nat) (b : Bool) : (c.setHard k b).refclk = c.refclk := rfl
@[simp] theorem Chip.setHard_nowHi (c : Chip) (k : Nat) (b : Bool) : (c.setHard k b).nowHi = c.nowHi := rfl
@[simp] theorem Chip.setHard_replicas (c : Chip) (k : Nat) (b : Bool) : (c.setHard k b).replicas = c.replicas := rfl
@[simp] theorem Chip.setHard_mem (c : Chip) (k : Nat) (b : Bool) : (c.setHard k b).mem = c.mem := rfl
@[simp] theorem Chip.setHard_poison (c : Chip) (k : Nat) (b : Bool) : (c.setHard k b).poison = c.poison := rfl
@[simp] theorem Chip.setHard_flips (c : Chip) (k : Nat) (b : Bool) : (c.setHard k b).flips = c.flips := rfl
@[simp] theorem Chip.setHard_regs (c : Chip) (k : Nat) (b : Bool) : (c.setHard k b).regs = c.regs := rfl
@[simp] theorem Chip.setHard_cores (c : Chip) (k : Nat) (b : Bool) : (c.setHard k b).cores = c.cores := rfl
@[simp] theorem Chip.setHard_power (c : Chip) (k : Nat) (b : Bool) : (c.setHard k b).power = c.power := rfl
@[simp] theorem Chip.setHard_dayb (c : Chip) (k : Nat) (b : Bool) : (c.setHard k b).dayb = c.dayb := rfl
@[simp] theorem Chip.setHard_pm (c : Chip) (k : Nat) (b : Bool) : (c.setHard k b).pm = c.pm := rfl
@[simp] theorem Chip.setHard_hosts (c : Chip) (k : Nat) (b : Bool) : (c.setHard k b).hosts = c.hosts := rfl
@[simp] theorem Chip.setHard_dbgPort (c : Chip) (k : Nat) (b : Bool) : (c.setHard k b).dbgPort = c.dbgPort := rfl
@[simp] theorem Chip.setHard_zow (c : Chip) (k : Nat) (b : Bool) : (c.setHard k b).zow = c.zow := rfl
@[simp] theorem Chip.setHard_answer (c : Chip) (k : Nat) (b : Bool) : (c.setHard k b).answer = c.answer := rfl
@[simp] theorem Chip.setHard_icu (c : Chip) (k : Nat) (b : Bool) : (c.setHard k b).icu = c.icu := rfl
@[simp] theorem Chip.setHard_tmr (c : Chip) (k : Nat) (b : Bool) : (c.setHard k b).tmr = c.tmr := rfl
@[simp] theorem Chip.setHard_wdt (c : Chip) (k : Nat) (b : Bool) : (c.setHard k b).wdt = c.wdt := rfl
@[simp] theorem Chip.setHard_pins (c : Chip) (k : Nat) (b : Bool) : (c.setHard k b).pins = c.pins := rfl
@[simp] theorem Chip.setHard_disp (c : Chip) (k : Nat) (b : Bool) : (c.setHard k b).disp = c.disp := rfl
@[simp] theorem Chip.setHard_fu (c : Chip) (k : Nat) (b : Bool) : (c.setHard k b).fu = c.fu := rfl
@[simp] theorem Chip.setHard_press (c : Chip) (k : Nat) (b : Bool) : (c.setHard k b).press = c.press := rfl
@[simp] theorem Chip.setHard_dma (c : Chip) (k : Nat) (b : Bool) : (c.setHard k b).dma = c.dma := rfl
@[simp] theorem Chip.setHard_aud (c : Chip) (k : Nat) (b : Bool) : (c.setHard k b).aud = c.aud := rfl
@[simp] theorem Chip.setHard_free (c : Chip) (k : Nat) (b : Bool) : (c.setHard k b).free = c.free := rfl

@[simp] theorem Chip.setValid_count (c : Chip) (k : Nat) : (c.setValid k).count = c.count := rfl
@[simp] theorem Chip.setValid_refclk (c : Chip) (k : Nat) : (c.setValid k).refclk = c.refclk := rfl
@[simp] theorem Chip.setValid_nowHi (c : Chip) (k : Nat) : (c.setValid k).nowHi = c.nowHi := rfl
@[simp] theorem Chip.setValid_replicas (c : Chip) (k : Nat) : (c.setValid k).replicas = c.replicas := rfl
@[simp] theorem Chip.setValid_mem (c : Chip) (k : Nat) : (c.setValid k).mem = c.mem := rfl
@[simp] theorem Chip.setValid_poison (c : Chip) (k : Nat) : (c.setValid k).poison = c.poison := rfl
@[simp] theorem Chip.setValid_flips (c : Chip) (k : Nat) : (c.setValid k).flips = c.flips := rfl
@[simp] theorem Chip.setValid_regs (c : Chip) (k : Nat) : (c.setValid k).regs = c.regs := rfl
@[simp] theorem Chip.setValid_cores (c : Chip) (k : Nat) : (c.setValid k).cores = c.cores := rfl
@[simp] theorem Chip.setValid_power (c : Chip) (k : Nat) : (c.setValid k).power = c.power := rfl
@[simp] theorem Chip.setValid_dayb (c : Chip) (k : Nat) : (c.setValid k).dayb = c.dayb := rfl
@[simp] theorem Chip.setValid_pm (c : Chip) (k : Nat) : (c.setValid k).pm = c.pm := rfl
@[simp] theorem Chip.setValid_hosts (c : Chip) (k : Nat) : (c.setValid k).hosts = c.hosts := rfl
@[simp] theorem Chip.setValid_dbgPort (c : Chip) (k : Nat) : (c.setValid k).dbgPort = c.dbgPort := rfl
@[simp] theorem Chip.setValid_zow (c : Chip) (k : Nat) : (c.setValid k).zow = c.zow := rfl
@[simp] theorem Chip.setValid_answer (c : Chip) (k : Nat) : (c.setValid k).answer = c.answer := rfl
@[simp] theorem Chip.setValid_icu (c : Chip) (k : Nat) : (c.setValid k).icu = c.icu := rfl
@[simp] theorem Chip.setValid_tmr (c : Chip) (k : Nat) : (c.setValid k).tmr = c.tmr := rfl
@[simp] theorem Chip.setValid_wdt (c : Chip) (k : Nat) : (c.setValid k).wdt = c.wdt := rfl
@[simp] theorem Chip.setValid_pins (c : Chip) (k : Nat) : (c.setValid k).pins = c.pins := rfl
@[simp] theorem Chip.setValid_disp (c : Chip) (k : Nat) : (c.setValid k).disp = c.disp := rfl
@[simp] theorem Chip.setValid_fu (c : Chip) (k : Nat) : (c.setValid k).fu = c.fu := rfl
@[simp] theorem Chip.setValid_press (c : Chip) (k : Nat) : (c.setValid k).press = c.press := rfl
@[simp] theorem Chip.setValid_dma (c : Chip) (k : Nat) : (c.setValid k).dma = c.dma := rfl
@[simp] theorem Chip.setValid_aud (c : Chip) (k : Nat) : (c.setValid k).aud = c.aud := rfl
@[simp] theorem Chip.setValid_free (c : Chip) (k : Nat) : (c.setValid k).free = c.free := rfl

@[simp] theorem Chip.setDirty_count (c : Chip) (pa : Nat) (l : Option DirtyLine) : (c.setDirty pa l).count = c.count := rfl
@[simp] theorem Chip.setDirty_refclk (c : Chip) (pa : Nat) (l : Option DirtyLine) : (c.setDirty pa l).refclk = c.refclk := rfl
@[simp] theorem Chip.setDirty_nowHi (c : Chip) (pa : Nat) (l : Option DirtyLine) : (c.setDirty pa l).nowHi = c.nowHi := rfl
@[simp] theorem Chip.setDirty_replicas (c : Chip) (pa : Nat) (l : Option DirtyLine) : (c.setDirty pa l).replicas = c.replicas := rfl
@[simp] theorem Chip.setDirty_mem (c : Chip) (pa : Nat) (l : Option DirtyLine) : (c.setDirty pa l).mem = c.mem := rfl
@[simp] theorem Chip.setDirty_poison (c : Chip) (pa : Nat) (l : Option DirtyLine) : (c.setDirty pa l).poison = c.poison := rfl
@[simp] theorem Chip.setDirty_flips (c : Chip) (pa : Nat) (l : Option DirtyLine) : (c.setDirty pa l).flips = c.flips := rfl
@[simp] theorem Chip.setDirty_regs (c : Chip) (pa : Nat) (l : Option DirtyLine) : (c.setDirty pa l).regs = c.regs := rfl
@[simp] theorem Chip.setDirty_cores (c : Chip) (pa : Nat) (l : Option DirtyLine) : (c.setDirty pa l).cores = c.cores := rfl
@[simp] theorem Chip.setDirty_power (c : Chip) (pa : Nat) (l : Option DirtyLine) : (c.setDirty pa l).power = c.power := rfl
@[simp] theorem Chip.setDirty_dayb (c : Chip) (pa : Nat) (l : Option DirtyLine) : (c.setDirty pa l).dayb = c.dayb := rfl
@[simp] theorem Chip.setDirty_pm (c : Chip) (pa : Nat) (l : Option DirtyLine) : (c.setDirty pa l).pm = c.pm := rfl
@[simp] theorem Chip.setDirty_hosts (c : Chip) (pa : Nat) (l : Option DirtyLine) : (c.setDirty pa l).hosts = c.hosts := rfl
@[simp] theorem Chip.setDirty_dbgPort (c : Chip) (pa : Nat) (l : Option DirtyLine) : (c.setDirty pa l).dbgPort = c.dbgPort := rfl
@[simp] theorem Chip.setDirty_zow (c : Chip) (pa : Nat) (l : Option DirtyLine) : (c.setDirty pa l).zow = c.zow := rfl
@[simp] theorem Chip.setDirty_answer (c : Chip) (pa : Nat) (l : Option DirtyLine) : (c.setDirty pa l).answer = c.answer := rfl
@[simp] theorem Chip.setDirty_icu (c : Chip) (pa : Nat) (l : Option DirtyLine) : (c.setDirty pa l).icu = c.icu := rfl
@[simp] theorem Chip.setDirty_tmr (c : Chip) (pa : Nat) (l : Option DirtyLine) : (c.setDirty pa l).tmr = c.tmr := rfl
@[simp] theorem Chip.setDirty_wdt (c : Chip) (pa : Nat) (l : Option DirtyLine) : (c.setDirty pa l).wdt = c.wdt := rfl
@[simp] theorem Chip.setDirty_pins (c : Chip) (pa : Nat) (l : Option DirtyLine) : (c.setDirty pa l).pins = c.pins := rfl
@[simp] theorem Chip.setDirty_disp (c : Chip) (pa : Nat) (l : Option DirtyLine) : (c.setDirty pa l).disp = c.disp := rfl
@[simp] theorem Chip.setDirty_fu (c : Chip) (pa : Nat) (l : Option DirtyLine) : (c.setDirty pa l).fu = c.fu := rfl
@[simp] theorem Chip.setDirty_press (c : Chip) (pa : Nat) (l : Option DirtyLine) : (c.setDirty pa l).press = c.press := rfl
@[simp] theorem Chip.setDirty_dma (c : Chip) (pa : Nat) (l : Option DirtyLine) : (c.setDirty pa l).dma = c.dma := rfl
@[simp] theorem Chip.setDirty_aud (c : Chip) (pa : Nat) (l : Option DirtyLine) : (c.setDirty pa l).aud = c.aud := rfl
@[simp] theorem Chip.setDirty_free (c : Chip) (pa : Nat) (l : Option DirtyLine) : (c.setDirty pa l).free = c.free := rfl

@[simp] theorem Chip.setBoot_count (c : Chip) (b : Option Boot) : (c.setBoot b).count = c.count := rfl
@[simp] theorem Chip.setBoot_refclk (c : Chip) (b : Option Boot) : (c.setBoot b).refclk = c.refclk := rfl
@[simp] theorem Chip.setBoot_nowHi (c : Chip) (b : Option Boot) : (c.setBoot b).nowHi = c.nowHi := rfl
@[simp] theorem Chip.setBoot_replicas (c : Chip) (b : Option Boot) : (c.setBoot b).replicas = c.replicas := rfl
@[simp] theorem Chip.setBoot_mem (c : Chip) (b : Option Boot) : (c.setBoot b).mem = c.mem := rfl
@[simp] theorem Chip.setBoot_poison (c : Chip) (b : Option Boot) : (c.setBoot b).poison = c.poison := rfl
@[simp] theorem Chip.setBoot_flips (c : Chip) (b : Option Boot) : (c.setBoot b).flips = c.flips := rfl
@[simp] theorem Chip.setBoot_memc (c : Chip) (b : Option Boot) : (c.setBoot b).memc = c.memc := rfl
@[simp] theorem Chip.setBoot_regs (c : Chip) (b : Option Boot) : (c.setBoot b).regs = c.regs := rfl
@[simp] theorem Chip.setBoot_cores (c : Chip) (b : Option Boot) : (c.setBoot b).cores = c.cores := rfl
@[simp] theorem Chip.setBoot_dayb (c : Chip) (b : Option Boot) : (c.setBoot b).dayb = c.dayb := rfl
@[simp] theorem Chip.setBoot_pm (c : Chip) (b : Option Boot) : (c.setBoot b).pm = c.pm := rfl
@[simp] theorem Chip.setBoot_hosts (c : Chip) (b : Option Boot) : (c.setBoot b).hosts = c.hosts := rfl
@[simp] theorem Chip.setBoot_dbgPort (c : Chip) (b : Option Boot) : (c.setBoot b).dbgPort = c.dbgPort := rfl
@[simp] theorem Chip.setBoot_zow (c : Chip) (b : Option Boot) : (c.setBoot b).zow = c.zow := rfl
@[simp] theorem Chip.setBoot_answer (c : Chip) (b : Option Boot) : (c.setBoot b).answer = c.answer := rfl
@[simp] theorem Chip.setBoot_icu (c : Chip) (b : Option Boot) : (c.setBoot b).icu = c.icu := rfl
@[simp] theorem Chip.setBoot_tmr (c : Chip) (b : Option Boot) : (c.setBoot b).tmr = c.tmr := rfl
@[simp] theorem Chip.setBoot_wdt (c : Chip) (b : Option Boot) : (c.setBoot b).wdt = c.wdt := rfl
@[simp] theorem Chip.setBoot_pins (c : Chip) (b : Option Boot) : (c.setBoot b).pins = c.pins := rfl
@[simp] theorem Chip.setBoot_disp (c : Chip) (b : Option Boot) : (c.setBoot b).disp = c.disp := rfl
@[simp] theorem Chip.setBoot_fu (c : Chip) (b : Option Boot) : (c.setBoot b).fu = c.fu := rfl
@[simp] theorem Chip.setBoot_press (c : Chip) (b : Option Boot) : (c.setBoot b).press = c.press := rfl
@[simp] theorem Chip.setBoot_dma (c : Chip) (b : Option Boot) : (c.setBoot b).dma = c.dma := rfl
@[simp] theorem Chip.setBoot_aud (c : Chip) (b : Option Boot) : (c.setBoot b).aud = c.aud := rfl
@[simp] theorem Chip.setBoot_free (c : Chip) (b : Option Boot) : (c.setBoot b).free = c.free := rfl

/-! ### A read after a write -/

@[simp] theorem Chip.setReg_regs (c : Chip) (k : Nat) (w : Word) : (c.setReg k w).regs = sset regReset c.regs k w := rfl
@[simp] theorem Chip.setByte_mem (c : Chip) (pa : Nat) (b : Byte) : (c.setByte pa b).mem = sset memDefault c.mem pa b := rfl
@[simp] theorem Chip.setPoison_poison (c : Chip) (k : Nat) (b : Bool) : (c.setPoison k b).poison = sset clean c.poison k b := rfl
@[simp] theorem Chip.modZow_zow (c : Chip) (f : Zow → Zow) : (c.modZow f).zow = f c.zow := rfl
@[simp] theorem Chip.modFu_fu (c : Chip) (f : Franking → Franking) : (c.modFu f).fu = f c.fu := rfl
@[simp] theorem Chip.modPm_pm (c : Chip) (f : Postmaster → Postmaster) : (c.modPm f).pm = f c.pm := rfl
@[simp] theorem Chip.modDebug_dbgPort (c : Chip) (f : Debug → Debug) : (c.modDebug f).dbgPort = f c.dbgPort := rfl
@[simp] theorem Chip.modPress_press (c : Chip) (f : PressEng → PressEng) : (c.modPress f).press = f c.press := rfl
@[simp] theorem Chip.modAud_aud (c : Chip) (f : Audio → Audio) : (c.modAud f).aud = f c.aud := rfl

@[simp] theorem Chip.setBoot_boot (c : Chip) (b : Option Boot) : (c.setBoot b).power.boot = b := rfl
@[simp] theorem Chip.setBoot_state (c : Chip) (b : Option Boot) : (c.setBoot b).power.state = c.power.state := rfl
@[simp] theorem Chip.setDirty_failedCh (c : Chip) (pa : Nat) (l : Option DirtyLine) :
    (c.setDirty pa l).memc.failedCh = c.memc.failedCh := rfl

/-- A dirty line reads as it was set. -/
@[simp] theorem Chip.dirty_setDirty (c : Chip) (pa : Nat) (l : Option DirtyLine) : (c.setDirty pa l).dirty pa = l :=
  sget_sset_same _ _ _

/-- A register reads what was written to it. -/
@[simp] theorem Chip.reg_setReg_same (c : Chip) (k : Nat) (w : Word) : (c.setReg k w).reg k = w :=
  sget_sset_same _ _ _

/-- Writing a register leaves every other as it was. -/
theorem Chip.reg_setReg_other (c : Chip) {k j : Nat} (w : Word) (h : j ≠ k) : (c.setReg k w).reg j = c.reg j :=
  sget_sset_other _ _ h

/-- A field reads what the hardware set it to. -/
theorem Chip.f_setF_same (c : Chip) (x : Fld) (v : Nat) (hl : x.lsb ≤ x.msb) (hm : x.msb < 32) :
    (c.setF x v).f x = v % 2 ^ (x.msb + 1 - x.lsb) := by
  simp only [Chip.f, Chip.setF, Chip.reg_setReg_same]
  exact Word.bits_setBits_same _ _ hl hm

/-- Setting a field leaves a field of another register, or elsewhere in the register, as it was. -/
theorem Chip.f_setF_other (c : Chip) (x y : Fld) (v : Nat) (hl : x.lsb ≤ x.msb) (hm : x.msb < 32)
    (h : y.key ≠ x.key ∨ y.msb < x.lsb ∨ x.msb < y.lsb) : (c.setF x v).f y = c.f y := by
  simp only [Chip.f, Chip.setF]
  by_cases hk : y.key = x.key
  · rw [hk, Chip.reg_setReg_same]
    exact Word.bits_setBits_other _ _ hl hm (by rcases h with h | h | h <;> first | exact absurd hk h | exact .inl h | exact .inr h)
  · rw [Chip.reg_setReg_other _ _ hk]

/-- A core reads as it was made. -/
@[simp] theorem Chip.core_setCore_same (c : Chip) (k : Nat) (x : Core) : (c.setCore k x).core k = x :=
  sget_sset_same _ _ _

/-- Changing one core leaves every other as it was. -/
theorem Chip.core_setCore_other (c : Chip) {k j : Nat} (x : Core) (h : j ≠ k) : (c.setCore k x).core j = c.core j :=
  sget_sset_other _ _ h

/-- A core reads as it was changed. -/
@[simp] theorem Chip.core_modCore_same (c : Chip) (k : Nat) (f : Core → Core) : (c.modCore k f).core k = f (c.core k) :=
  Chip.core_setCore_same _ _ _

/-- Changing one core leaves every other as it was. -/
theorem Chip.core_modCore_other (c : Chip) {k j : Nat} (f : Core → Core) (h : j ≠ k) : (c.modCore k f).core j = c.core j :=
  Chip.core_setCore_other _ _ h

/-- A change of a core is what it makes of that core. -/
theorem Chip.modCore_congr {c : Chip} {k : Nat} {f g : Core → Core} (h : f (c.core k) = g (c.core k)) :
    c.modCore k f = c.modCore k g := by
  unfold Chip.modCore
  rw [h]

/-- Two changes of one core in turn. -/
@[simp] theorem Chip.modCore_modCore (c : Chip) (k : Nat) (f g : Core → Core) :
    (c.modCore k f).modCore k g = c.modCore k (fun x => g (f x)) := by
  unfold Chip.modCore
  rw [Chip.core_setCore_same]
  unfold Chip.setCore
  simp only [sset_sset]

/-- A byte reads what was written to it. -/
@[simp] theorem Chip.byte_setByte_same (c : Chip) (pa : Nat) (b : Byte) : (c.setByte pa b).byte pa = b :=
  sget_sset_same _ _ _

/-- Writing a byte leaves every other as it was. -/
theorem Chip.byte_setByte_other (c : Chip) {pa a : Nat} (b : Byte) (h : a ≠ pa) : (c.setByte pa b).byte a = c.byte a :=
  sget_sset_other _ _ h

/-- What a command answers. -/
@[simp] theorem State.go_eq (s : State) (f : Chip → Chip) : s.go f = .next { s with chip := f s.chip } := rfl

end Sys2Proof.Machine
end

