-- ==== Sys2Proof/Laws/Cores.lean ====
section
/-! SUPPORT. How a core runs one instruction, said once: what `runAt` does with a prepared chip, and what the common shapes of
instruction answer. -/

namespace Sys2Proof.Machine

/-! ### The overflow interrupt touches the interrupt sources alone -/

/-- The parts of the chip that sensing a source leaves alone. -/
theorem senseLevel_keeps {α : Type} (p : Chip → α) (hs : ∀ c j y, p (c.setSrc j y) = p c) (hf : ∀ c : Chip, p (c.flag ICU_STAT_CFG_ERR) = p c)
    (key : Nat) (l : Bool) (o pm : Nat) (c : Chip) : p (senseLevel key l o pm c) = p c := by
  unfold senseLevel edgeEvent pend
  dsimp only
  repeat' split
  all_goals simp only [hs, hf]

/-- What sensing a source leaves alone, an overflow of the counters leaves alone (R154). -/
theorem pmcIrq_keeps {α : Type} (p : Chip → α) (hs : ∀ c j y, p (c.setSrc j y) = p c) (hf : ∀ c : Chip, p (c.flag ICU_STAT_CFG_ERR) = p c)
    (k : Nat) (old : Word) (c : Chip) : p (pmcIrq k old c) = p c := by
  unfold pmcIrq raisePrivate
  dsimp only
  rw [if_pos rfl]
  split
  · exact senseLevel_keeps p hs hf ..
  · rfl

@[simp] theorem pmcIrq_mem (k : Nat) (old : Word) (c : Chip) : (pmcIrq k old c).mem = c.mem :=
  pmcIrq_keeps _ (fun _ _ _ => rfl) (fun _ => rfl) k old c

@[simp] theorem pmcIrq_core (k : Nat) (old : Word) (c : Chip) (j : Nat) : (pmcIrq k old c).core j = c.core j :=
  pmcIrq_keeps (fun c => c.core j) (fun _ _ _ => rfl) (fun _ => rfl) k old c

/-! ### One instruction -/

/-- What a prepared chip went through. -/
theorem Chip.prepared_cases {c : Chip} {k : Nat} {b : Bool} {d : Chip} (h : c.prepared k b = some d) :
    c.canRun k = true ∧ pointEvent k c = none ∧ c.annulled k = false ∧
      ∃ e, fetchFault k (c.modCore k Core.ripen) = (none, e) ∧ fireBreak k b e = (.no, d) := by
  unfold Chip.prepared at h
  split at h
  · rename_i hc
    simp only [Bool.and_eq_true, Bool.not_eq_true', Option.isNone_iff_eq_none] at hc
    refine ⟨hc.1.1, hc.1.2, hc.2, ?_⟩
    split at h
    · rename_i e he
      split at h
      · rename_i f hf
        cases h
        exact ⟨e, he, hf⟩
      · cases h
    · cases h
  · cases h

/-- A core whose instruction comes to operate settles what the operation gives. -/
theorem runAt_prepared {c : Chip} {k : Nat} {b : Bool} {d : Chip} (h : c.prepared k b = some d) (body : Chip → Res) :
    runAt k b body c = pmcIrq k (c.core k).pmovf (settle k (body d)) := by
  obtain ⟨h1, hp, h2, e, h3, h4⟩ := Chip.prepared_cases h
  unfold Chip.annulled at h2
  unfold runAt
  rw [h1, if_neg (by simp), hp, if_neg (by rw [Bool.not_eq_true]; exact h2)]
  simp only [perform, h3, h4]

/-- A core that cannot run changes nothing. -/
theorem runAt_stopped {c : Chip} {k : Nat} (b : Bool) (h : c.canRun k = false) (body : Chip → Res) : runAt k b body c = c := by
  simp [runAt, h]

/-- What is due at an interrupt point comes before the instruction (R112, R113, R608). -/
theorem runAt_point {c : Chip} {k : Nat} (b : Bool) {d : Chip} (h : c.canRun k = true) (hp : pointEvent k c = some d) (body : Chip → Res) :
    runAt k b body c = d := by
  unfold runAt
  rw [h, hp, if_neg (by simp)]

/-- A slot is no interrupt point (R113). -/
theorem pointEvent_slot {c : Chip} {k : Nat} {sl : Slot} (h : (c.core k).slot = some sl) : pointEvent k c = none := by
  simp [pointEvent, Chip.atPoint, h]

/-- An annulled slot passes without being decoded (R88). -/
theorem runAt_annulled {c : Chip} {k : Nat} (b : Bool) (h : c.canRun k = true) (ha : c.annulled k = true) (body : Chip → Res) :
    runAt k b body c = pmcIrq k (c.core k).pmovf (endStep k (c.modCore k (Core.advance k))) := by
  unfold Chip.annulled at ha
  have hp : pointEvent k c = none := by
    cases hs : (c.core k).slot with
    | none => rw [hs] at ha; cases ha
    | some sl => exact pointEvent_slot hs
  unfold runAt
  rw [h, hp, if_neg (by simp)]
  exact congrArg (pmcIrq k (c.core k).pmovf) (if_pos ha)

/-- An ordinary instruction that changes the core alone completes with that change. -/
theorem instr_onCore {k : Nat} {cond : BitVec 4} {s : State} {d : Chip} (h : s.chip.prepared k false = some d) {dd : Decoded}
    (hd : decodeFault k (d.core k) dd = none) (hn : dd.noSlot = false) (f : Core → Core) :
    instr k cond dd (onCore k f) s = .next (s.ran k (d.complete k cond f)) := by
  unfold instr
  rw [State.go_eq, runAt_prepared h]
  unfold State.ran State.at
  congr 3
  unfold operate Chip.complete
  by_cases h8 : cond = 8
  · rw [if_pos h8]
    simp only [settle]
    exact congrArg _ (Chip.modCore_congr (by simp [Core.takes, h8]))
  · by_cases hc : condTrue (d.core k).q cond = true
    · simp only [if_neg h8, hn, Bool.false_and, Bool.false_eq_true, if_false, hc, Bool.not_true, hd, onCore, settle,
        Chip.modCore_modCore]
      refine congrArg _ (Chip.modCore_congr ?_)
      have : (d.core k).takes cond = true := by rw [Core.takes, hc, Bool.and_true, bne_iff_ne]; exact h8
      rw [if_pos this]
    · simp only [if_neg h8, hn, Bool.false_and, Bool.false_eq_true, if_false, hc, Bool.not_false, if_true, settle]
      exact congrArg _ (Chip.modCore_congr (by simp [Core.takes, hc]))

/-- No check of decode stops an ordinary instruction. -/
@[simp] theorem decodeFault_plain (k : Nat) (x : Core) (w : Word) : decodeFault k x (plain w) = none := by
  simp [decodeFault, plain]

/-- An ordinary instruction whose condition holds settles what its operation gives. -/
theorem instr_taken {k : Nat} {cond : BitVec 4} {s : State} {d : Chip} (h : s.chip.prepared k false = some d) {dd : Decoded}
    (hd : decodeFault k (d.core k) dd = none) (hn : dd.noSlot = false) (ht : (d.core k).takes cond = true)
    (op : Chip → Res) : instr k cond dd op s = .next (s.ran k (settle k (op d))) := by
  unfold instr
  rw [State.go_eq, runAt_prepared h]
  simp only [Core.takes, Bool.and_eq_true, bne_iff_ne] at ht
  simp only [operate, if_neg ht.1, hn, hd, ht.2, Bool.false_and, Bool.false_eq_true, if_false, Bool.not_true]
  rfl

/-- An instruction whose condition does not hold has no effect, and execution goes on (R65). -/
theorem instr_not_taken {k : Nat} {cond : BitVec 4} {s : State} {d : Chip} (h : s.chip.prepared k false = some d) {dd : Decoded}
    (hn : dd.noSlot = false) (ht : (d.core k).takes cond = false)
    (op : Chip → Res) : instr k cond dd op s = .next (s.ran k (d.complete k cond id)) := by
  unfold instr
  rw [State.go_eq, runAt_prepared h]
  unfold State.ran State.at
  congr 3
  unfold operate Chip.complete
  by_cases h8 : cond = 8
  · rw [if_pos h8]
    simp only [settle]
    exact congrArg _ (Chip.modCore_congr (by simp))
  · have hc : condTrue (d.core k).q cond = false := by
      rw [Core.takes, Bool.and_eq_false_iff] at ht
      rcases ht with ht | ht
      · exact absurd (by simpa [bne] using ht) h8
      · exact ht
    simp only [if_neg h8, hn, Bool.false_and, Bool.false_eq_true, if_false, hc, Bool.not_false, if_true, settle]
    exact congrArg _ (Chip.modCore_congr (by simp))

end Sys2Proof.Machine
end

