-- ==== Sys2Proof/Laws/Memory.lean ====
section
/-! SUPPORT. The laws of memory: every memory operation keeps the canonical form, a read after a write of several bytes, and
which operations leave memory alone. -/

namespace Sys2Proof.Machine

/-! ### Operations that leave memory alone -/

@[simp] theorem Chip.freeBits_mem (c : Chip) (w : Nat) : (c.freeBits w).2.mem = c.mem := rfl

@[simp] theorem Chip.journalAt_mem (c : Chip) (pm cls kind o fl item data : Nat) :
    (c.journalAt pm cls kind o fl item data).mem = c.mem := by
  unfold Chip.journalAt
  split
  · rfl
  · dsimp only
    split <;> rfl

@[simp] theorem Chip.journal_mem (c : Chip) (cls kind o fl item data : Nat) :
    (c.journal cls kind o fl item data).mem = c.mem := Chip.journalAt_mem ..

@[simp] theorem Chip.repairAdd_mem (c : Chip) (kind id off : Nat) : (c.repairAdd kind id off).mem = c.mem := by
  unfold Chip.repairAdd
  dsimp only
  split <;> rfl

@[simp] theorem Chip.retirePage_mem (c : Chip) (page : Nat) : (c.retirePage page).mem = c.mem := by
  unfold Chip.retirePage
  split
  · rfl
  · split <;> simp

@[simp] theorem Chip.countPage_mem (c : Chip) (pa : Nat) : (c.countPage pa).mem = c.mem := by
  unfold Chip.countPage
  dsimp only
  repeat' split
  all_goals first | rfl | rw [Chip.retirePage_mem]

@[simp] theorem Chip.correctedDram_mem (c : Chip) (pa : Nat) (spec scrub : Bool) : (c.correctedDram pa spec scrub).mem = c.mem := by
  simp [Chip.correctedDram]

@[simp] theorem Chip.correctedSram_mem (c : Chip) (a pa : Nat) (spec scrub : Bool) :
    (c.correctedSram a pa spec scrub).mem = c.mem := by
  simp [Chip.correctedSram]

/-- Recording a correction leaves memory alone. -/
@[simp] theorem Chip.corrected_mem (c : Chip) (r : Region) (pa : Nat) (spec scrub : Bool) :
    (c.corrected r pa spec scrub).mem = c.mem := by
  unfold Chip.corrected
  split <;> simp

/-- A dead-letter allocation leaves memory alone. -/
@[simp] theorem Chip.dltAlloc_mem (c : Chip) (a off k : Nat) : (c.dltAlloc a off k).mem = c.mem := by
  unfold Chip.dltAlloc
  split <;> simp

/-- A verify read leaves memory alone. -/
@[simp] theorem Chip.verify_mem (c : Chip) (r : Region) (k : Nat) : (c.verify r k).mem = c.mem := by
  unfold Chip.verify
  split <;> simp

/-- A planted error flips bits beside memory. -/
@[simp] theorem Chip.plant_mem (c : Chip) (r : Region) (k : Nat) : (c.plant r k).mem = c.mem := by
  unfold Chip.plant
  split <;> split <;> simp

/-- Fresh check bits leave the data alone. -/
@[simp] theorem Chip.freshWord_mem (c : Chip) (r : Region) (k : Nat) : (c.freshWord r k).mem = c.mem := by
  unfold Chip.freshWord
  dsimp only
  repeat' split
  all_goals simp

@[simp] theorem Chip.capture_mem (c : Chip) (n : Nat) (l : CapLine) : (c.capture n l).mem = c.mem := rfl

/-! ### The canonical form is kept -/

/-- Memory right after reset has its canonical form. -/
theorem reset_memory_wf : Memory.wf State.reset.chip.mem = true := by decide

/-- A byte written. -/
theorem Chip.setByte_wf (c : Chip) (pa : Nat) (b : Byte) (h : Memory.wf c.mem = true) : Memory.wf (c.setByte pa b).mem = true :=
  sparseWf_sset _ _ _ h

/-- Bytes written. -/
theorem Chip.setBytes_wf : ∀ (bs : List Byte) (c : Chip) (pa : Nat), Memory.wf c.mem = true → Memory.wf (c.setBytes pa bs).mem = true
  | [], _, _, h => h
  | b :: t, c, pa, h => Chip.setBytes_wf t (c.setByte pa b) (pa + 1) (Chip.setByte_wf c pa b h)

/-- A property that each element's change keeps holds after all of them. -/
theorem forAll_keeps {α : Type} {P : Chip → Prop} {f : α → Chip → Chip} (h : ∀ a c, P c → P (f a c)) :
    ∀ (l : List α) (c : Chip), P c → P (forAll l f c)
  | [], _, hc => hc
  | a :: t, _, hc => forAll_keeps h t _ (h a _ hc)

/-- Bytes written at places of their own. -/
theorem Chip.putBytes_wf (c : Chip) (l : List (Nat × Byte)) (h : Memory.wf c.mem = true) : Memory.wf (c.putBytes l).mem = true :=
  forAll_keeps (P := fun c => Memory.wf c.mem = true) (fun p c h => Chip.setByte_wf c p.1 p.2 h) l c h

/-- A range that loses its data. -/
theorem wipe_wf (m : Sparse Byte) (lo hi : Nat) (h : Memory.wf m = true) : Memory.wf (swipe m lo hi) = true :=
  sparseWf_swipe m lo hi h

theorem Chip.wipe_wf (c : Chip) (lo hi : Nat) (h : Memory.wf c.mem = true) : Memory.wf (c.wipe lo hi).mem = true := Machine.wipe_wf _ _ _ h
theorem Chip.fillZero_wf (c : Chip) (lo hi : Nat) (h : Memory.wf c.mem = true) : Memory.wf (c.fillZero lo hi).mem = true :=
  Machine.wipe_wf _ _ _ h
theorem Chip.wipeMain_wf (c : Chip) (h : Memory.wf c.mem = true) : Memory.wf c.wipeMain.mem = true := c.wipe_wf _ _ h
theorem Chip.wipeArrays_wf (c : Chip) (h : Memory.wf c.mem = true) : Memory.wf c.wipeArrays.mem = true := c.wipe_wf _ _ h
theorem Chip.wipeDram_wf (c : Chip) (h : Memory.wf c.mem = true) : Memory.wf c.wipeDram.mem = true := c.wipe_wf _ _ h

/-- Stored data altered by an uncorrected error. -/
theorem Chip.xorWord_wf (c : Chip) (k n mask : Nat) (h : Memory.wf c.mem = true) : Memory.wf (c.xorWord k n mask).mem = true :=
  Chip.setBytes_wf _ c k h

/-- The first use of a word. -/
theorem Chip.firstUse_wf (c : Chip) (r : Region) (k : Nat) (h : Memory.wf c.mem = true) : Memory.wf (c.firstUse r k).mem = true := by
  unfold Chip.firstUse
  dsimp only
  repeat' split
  all_goals first | exact h | exact Chip.setBytes_wf _ _ _ h

/-- The SECDED check of a word in its own memory. -/
theorem Chip.checkWord_wf (c : Chip) (r : Region) (k : Nat) (spec scrub : Bool) (h : Memory.wf c.mem = true) :
    Memory.wf (c.checkWord r k spec scrub).mem = true := by
  have h1 := Chip.firstUse_wf c r k h
  unfold Chip.checkWord
  dsimp only
  generalize c.firstUse r k = d at h1
  repeat' split
  all_goals try rw [Chip.verify_mem, Chip.corrected_mem]
  all_goals first | exact h1 | exact Chip.xorWord_wf _ _ _ _ h1

/-- The SECDED check of a word that the L2 holds. -/
theorem Chip.checkLine_wf (c : Chip) (a : Nat) (l : DirtyLine) (pa : Nat) (spec scrub : Bool) (h : Memory.wf c.mem = true) :
    Memory.wf (c.checkLine a l pa spec scrub).mem = true := by
  unfold Chip.checkLine
  dsimp only
  repeat' split
  all_goals try rw [Chip.correctedSram_mem]
  all_goals first | exact h | exact Chip.xorWord_wf _ _ _ _ h

/-- The SECDED check. -/
theorem Chip.eccCheck_wf (c : Chip) (r : Region) (pa : Nat) (spec scrub : Bool) (h : Memory.wf c.mem = true) :
    Memory.wf (c.eccCheck r pa spec scrub).mem = true := by
  unfold Chip.eccCheck
  split
  · exact Chip.checkLine_wf _ _ _ _ _ _ h
  · exact Chip.checkWord_wf _ _ _ _ _ h

/-- The SECDED checks of a range. -/
theorem Chip.eccRange_wf (c : Chip) (r : Region) (n pa : Nat) (h : Memory.wf c.mem = true) :
    Memory.wf (c.eccRange r n pa).mem = true := by
  refine forAll_keeps (P := fun c => Memory.wf c.mem = true) (fun i c h => ?_) _ c h
  split
  · exact Chip.eccCheck_wf _ _ _ _ _ h
  · exact h

/-- A line brought into the L2. -/
theorem Chip.fillLine_wf (c : Chip) (pa : Nat) (h : Memory.wf c.mem = true) : Memory.wf (c.fillLine pa).mem = true := by
  unfold Chip.fillLine
  split
  · exact h
  · exact Chip.eccRange_wf _ _ _ _ h

/-- A line invalidated without write-back. -/
theorem Chip.loseLine_wf (c : Chip) (pa : Nat) (h : Memory.wf c.mem = true) : Memory.wf (c.loseLine pa).mem = true := by
  unfold Chip.loseLine
  split
  · exact h
  · dsimp only
    refine forAll_keeps (P := fun c => Memory.wf c.mem = true) ?_ _ _ ?_
    · exact fun _ _ h => h
    · exact Chip.setBytes_wf _ _ _ h

/-- The caches invalidated. -/
theorem Chip.loseCaches_wf (c : Chip) (h : Memory.wf c.mem = true) : Memory.wf c.loseCaches.mem = true :=
  forAll_keeps (P := fun c => Memory.wf c.mem = true) (fun a c h => Chip.loseLine_wf c a h) _ c h

/-- A line written back. -/
theorem Chip.writeBack_wf (c : Chip) (pa : Nat) (h : Memory.wf c.mem = true) : Memory.wf (c.writeBack pa).mem = true := by
  unfold Chip.writeBack
  split
  · exact h
  · refine forAll_keeps (P := fun c => Memory.wf c.mem = true) (fun j c h => ?_) _ _ ?_
    · rw [Chip.plant_mem, Chip.setPoison_mem, Chip.freshWord_mem]
      exact h
    · exact Chip.eccRange_wf _ _ _ _ h

theorem Chip.writeBackAll_wf (c : Chip) (h : Memory.wf c.mem = true) : Memory.wf c.writeBackAll.mem = true :=
  forAll_keeps (P := fun c => Memory.wf c.mem = true) (fun a c h => Chip.writeBack_wf c a h) _ c h

theorem Chip.writeBackSlice_wf (c : Chip) (s : Nat) (h : Memory.wf c.mem = true) : Memory.wf (c.writeBackSlice s).mem = true :=
  forAll_keeps (P := fun c => Memory.wf c.mem = true) (fun a c h => Chip.writeBack_wf c a h) _ c h

/-- The arrays of a domain lost. -/
theorem Chip.wipeDomain_wf (c : Chip) (d : Nat) (h : Memory.wf c.mem = true) : Memory.wf (c.wipeDomain d).mem = true := by
  unfold Chip.wipeDomain
  repeat' split
  all_goals first | exact h | exact Chip.wipe_wf _ _ _ h

/-- A domain switched off. -/
theorem Chip.loseDomain_wf (c : Chip) (d : Nat) (h : Memory.wf c.mem = true) : Memory.wf (c.loseDomain d).mem = true := by
  unfold Chip.loseDomain
  dsimp only
  repeat' split
  all_goals first | exact h | exact Chip.writeBackAll_wf _ h | exact Chip.wipeDomain_wf _ _ h

/-- A store inside one SECDED word. -/
theorem Chip.storeWord_wf (c : Chip) (r : Region) (k : Nat) (l : List (Nat × Byte)) (h : Memory.wf c.mem = true) :
    Memory.wf (c.storeWord r k l).mem = true := by
  unfold Chip.storeWord
  dsimp only
  rw [Chip.plant_mem]
  apply Chip.putBytes_wf
  split
  · rwa [Chip.freshWord_mem]
  · exact Chip.checkWord_wf _ _ _ _ _ h

/-- A store inside one word of a line that the L2 holds. -/
theorem Chip.storeLine_wf (c : Chip) (d : DirtyLine) (k : Nat) (l : List (Nat × Byte)) (h : Memory.wf c.mem = true) :
    Memory.wf (c.storeLine d k l).mem = true := by
  unfold Chip.storeLine
  dsimp only
  rw [Chip.setF_mem]
  apply Chip.putBytes_wf
  rw [Chip.setDirty_mem]
  split
  · exact h
  · exact Chip.checkLine_wf _ _ _ _ _ _ h

/-- A store inside one word, wherever it is held. -/
theorem Chip.storeIn_wf (c : Chip) (r : Region) (pa : Nat) (l : List (Nat × Byte)) (h : Memory.wf c.mem = true) :
    Memory.wf (c.storeIn r pa l).mem = true := by
  unfold Chip.storeIn
  split
  · exact Chip.storeLine_wf _ _ _ _ h
  · exact Chip.storeWord_wf _ _ _ _ h

/-- A store cut into SECDED words. -/
theorem Chip.storeChunks_wf (r : Region) : ∀ (fuel : Nat) (c : Chip) (pa : Nat) (bs : List Byte), Memory.wf c.mem = true →
    Memory.wf (c.storeChunks r fuel pa bs).mem = true
  | 0, _, _, _, h => by unfold Chip.storeChunks; exact h
  | _ + 1, _, _, [], h => by unfold Chip.storeChunks; exact h
  | n + 1, c, pa, b :: t, h => by
    unfold Chip.storeChunks
    exact Chip.storeChunks_wf r n _ _ _ (Chip.storeIn_wf c r pa _ h)

/-- A store of a master, its discard on a paired Mirror and its capture on a paired Lead included (R474). -/
theorem Chip.memStore_wf (c : Chip) (r : Region) (pa : Nat) (bs : List Byte) (h : Memory.wf c.mem = true) :
    Memory.wf (c.memStore r pa bs).mem = true := by
  unfold Chip.memStore
  dsimp only
  repeat' split
  all_goals first
    | (rw [Chip.setRegBit_mem]; exact h)
    | (rw [Chip.capture_mem]; exact Chip.storeChunks_wf _ _ _ _ _ h)
    | exact Chip.storeChunks_wf _ _ _ _ _ h

/-! ### A read after a write -/

/-- Bytes written leave every byte outside them as it was. -/
theorem Chip.byte_setBytes_other : ∀ (bs : List Byte) (c : Chip) (pa a : Nat), a < pa ∨ pa + bs.length ≤ a →
    (c.setBytes pa bs).byte a = c.byte a
  | [], _, _, _, _ => rfl
  | b :: t, c, pa, a, h => by
    rw [List.length_cons] at h
    unfold Chip.setBytes
    rw [Chip.byte_setBytes_other t _ _ _ (by omega)]
    exact Chip.byte_setByte_other c b (by omega)

/-- Bytes written read as written. -/
theorem Chip.bytes_setBytes : ∀ (bs : List Byte) (c : Chip) (pa : Nat), (c.setBytes pa bs).bytes pa bs.length = bs
  | [], _, _ => rfl
  | b :: t, c, pa => by
    have hb : ((c.setByte pa b).setBytes (pa + 1) t).byte pa = b := by
      rw [Chip.byte_setBytes_other t _ _ _ (by omega)]
      exact Chip.byte_setByte_same c pa b
    rw [List.length_cons]
    unfold Chip.bytes Chip.setBytes
    rw [hb, Chip.bytes_setBytes t (c.setByte pa b) (pa + 1)]

/-- A byte of a domain that was switched off reads as unlisted, or as before. -/
theorem byte_swipe (m : Sparse Byte) (lo hi a : Nat) :
    sget memDefault (swipe m lo hi) a = if lo ≤ a ∧ a < hi then memDefault a else sget memDefault m a :=
  sget_swipe m lo hi a

end Sys2Proof.Machine
end

