-- ==== Sys2Proof/Laws/Registers.lean ====
section
/-! SUPPORT. What a register access of a command does where its block answers, and where it does not. -/

namespace Sys2Proof.Machine

/-- Membership in a range of addresses. -/
theorem within_iff (lo hi x : Nat) : within lo hi x = true ↔ lo ≤ x ∧ x < hi := by
  simp [within]

theorem regAddr_bounds {k : Nat} (hk : k < 0x1A000) : 0x1800000000 ≤ regAddr k ∧ regAddr k < 0x18001A0000
    ∧ regAddr k % 0x10000 = k % 0x1000 ∧ regAddr k % 0x1000 = k % 0x1000 ∧ (regAddr k - 0x1800000000) / 0x10000 = k / 0x1000 := by
  have h : regAddr k = 0x1800000000 + k / 0x1000 * 0x10000 + k % 0x1000 := rfl
  rw [h]; omega

/-- The address of a register of a block lies in that block, for every master but the Franking core. -/
theorem region_regAddr (c : Chip) {o k : Nat} (ho : o ≠ 62) (hk : k < 0x1A000) : c.region o (regAddr k) = .block (k / 0x1000) := by
  obtain ⟨h1, h2, h3, -, h5⟩ := regAddr_bounds hk
  have nin : ∀ lo hi, hi ≤ 0x1800000000 → within lo hi (regAddr k) = false := by
    intro lo hi h
    have : within lo hi (regAddr k) ≠ true := by rw [Ne, within_iff]; omega
    simpa using this
  have nin' : ∀ lo hi, 0x18001A0000 ≤ lo → within lo hi (regAddr k) = false := by
    intro lo hi h
    have : within lo hi (regAddr k) ≠ true := by rw [Ne, within_iff]; omega
    simpa using this
  have inn : within 0x1800000000 0x18001A0000 (regAddr k) = true := by rw [within_iff]; omega
  have low : regAddr k % 0x10000 < 0x1000 := by omega
  unfold Chip.region
  rw [if_neg ho]
  split
  · simp [pmRegion, nin', inn, low, h5]
  · simp [mainRegion, nin, inn, low, h5]

theorem leNat_leBytes (n v : Nat) : leNat (leBytes n v) = v % 256 ^ n := by
  induction n generalizing v with
  | zero => simp [leNat, leBytes]; omega
  | succ n ih =>
    simp only [leBytes, leNat, ih, BitVec.toNat_ofNat]
    rw [show 2 ^ 8 = 256 from rfl, show 256 ^ (n + 1) = 256 * 256 ^ n by ring, Nat.mod_mul]

@[simp] theorem leBytes_length (n v : Nat) : (leBytes n v).length = n := by
  induction n generalizing v with
  | zero => rfl
  | succ n ih => simp [leBytes, ih]

/-- Whether a register access of origin `o` is answered. -/
theorem reachable_reg (c : Chip) {o k : Nat} (ho : o ≠ 62) (hk : k < 0x1A000) :
    c.reachable o (regAddr k) (c.region o (regAddr k)) = c.answersRead o k := by
  rw [region_regAddr c ho hk]
  have : (o != 62) = true := by simp [ho]
  simp [Chip.reachable, Chip.answersRead, Chip.blockRuns, this]

theorem takesWrite_reads {c : Chip} {o k : Nat} (h : c.takesWrite o k = true) : c.answersRead o k = true := by
  simp only [Chip.takesWrite, Bool.and_eq_true] at h; exact h.1

theorem answersRead_ne {c : Chip} {o k : Nat} (h : c.answersRead o k = true) : o ≠ 62 := by
  simp [Chip.answersRead] at h; tauto

theorem word_of_leNat (v : Word) : Word.of (leNat (leBytes 4 v.toNat)) = v := by
  rw [leNat_leBytes]
  have := v.isLt
  simp only [Word.of]
  apply BitVec.eq_of_toNat_eq
  simp; omega

/-- A write command acts on a register whose block answers. -/
theorem writeCmd_eq {c : Chip} {o k : Nat} (v : Word) (h : c.answersRead o k = true) (hk : k < 0x1A000) (h4 : k % 4 = 0) :
    writeCmd o k v c = writeReg o k v c := by
  have ho := answersRead_ne h
  have hr := reachable_reg c ho hk
  rw [h, region_regAddr c ho hk] at hr
  obtain ⟨-, -, -, h3, -⟩ := regAddr_bounds hk
  have ha : regAddr k % 4 = 0 := by omega
  unfold writeCmd busStore
  rw [region_regAddr c ho hk]
  simp only [hr, ha, h3, leBytes_length, word_of_leNat]
  have : k / 0x1000 * 0x1000 + k % 0x1000 = k := by omega
  simp [this]

/-- A write command to a register whose block does not answer ends in a bus error and does nothing else (R18). -/
theorem writeCmd_busError {c : Chip} {o k : Nat} (v : Word) (ho : o ≠ 62) (h : c.answersRead o k = false) (hk : k < 0x1A000) :
    writeCmd o k v c = c.answerTo o .busError := by
  have hr := reachable_reg c ho hk
  rw [h, region_regAddr c ho hk] at hr
  unfold writeCmd busStore
  rw [region_regAddr c ho hk]
  simp [hr]

/-- A read command of a register whose block answers. -/
theorem readCmd_eq {c : Chip} {o k : Nat} (peek : Bool) (h : c.answersRead o k = true) (hk : k < 0x1A000) (h4 : k % 4 = 0) :
    readCmd o k peek c = (readReg o peek k c).2.answerTo o (.data (readReg o peek k c).1) := by
  have ho := answersRead_ne h
  have hr := reachable_reg c ho hk
  rw [h, region_regAddr c ho hk] at hr
  obtain ⟨-, -, -, h3, -⟩ := regAddr_bounds hk
  have ha : regAddr k % 4 = 0 := by omega
  unfold readCmd busLoad
  rw [region_regAddr c ho hk]
  have : k / 0x1000 * 0x1000 + k % 0x1000 = k := by omega
  simp [hr, ha, h3, this, Word.of]

/-- A write that an expert register's gate lets pass is the write of its block (R13). -/
theorem writeReg_eq {c : Chip} {o k : Nat} (v : Word) (h : c.takesWrite o k = true) :
    writeReg o k v c = if k < 0x7000 then writeLow o k v c else if k < 0x10000 then writeMid o k v c
      else if k < 0x12000 then writeSound k v c else writeHigh o k v c := by
  unfold writeReg
  rw [if_neg]
  simp only [Chip.takesWrite, Bool.and_eq_true, Bool.or_eq_true, Nat.blt_eq] at h
  rcases h.2 with h | h
  · simp; omega
  · simp [h]

end Sys2Proof.Machine
end

