-- ==== Sys2Proof/Tests/Slice0.lean ====
section
/-! SUPPORT. Tests: an ill-formed command for each check of WellFormed.lean, the manual's worked examples, and, for each obligation that has
hypotheses, states and operands that meet them, clause by clause (a comment names the commands of the clause). -/

set_option maxRecDepth 100000
set_option Elab.async false
open Sys2Proof Sys2Proof.Machine

namespace Sys2Proof.Tests
/-- the chip at reset -/
def R : Chip := { State.reset.chip with memc := { State.reset.chip.memc with filled := [(0, 2 ^ 60)] } }
/-- a machine with nothing waiting -/
def st (c : Chip) : State := ⟨c, []⟩
/-- the chip with which an instruction operates -/
def prep (c : Chip) (k : Nat) (b : Bool) : Chip := (c.prepared k b).getD c
theorem prep_eq {c : Chip} {k : Nat} {b : Bool} (h : (c.prepared k b).isSome = true) :
    c.prepared k b = some (prep c k b) := by
  unfold prep
  cases e : c.prepared k b with
  | none => rw [e] at h; cases h
  | some d => rfl
theorem fstPair {α β : Type} {x : α × β} {v : α} (h : x.1 = v) : x = (v, x.2) := by
  rw [← h]
/-- the value of an answer -/
def okValue {ε α : Type} (r : Except ε α) (h : r.toBool = true) : α :=
  match r, h with
  | .ok v, _ => v
theorem okPair {ε α β : Type} {x : Except ε α × β} (h : x.1.toBool = true) : x = (.ok (okValue x.1 h), x.2) := by
  obtain ⟨r, d⟩ := x
  cases r with
  | ok v => rfl
  | error e => cases h
/-- what a load delivers -/
def Loaded.get? (r : Loaded) : Option Nat := match r with
  | .value v => some v
  | .trap _ _ => none
theorem valuePair {β : Type} {x : Loaded × β} (h : (Loaded.get? x.1).isSome = true) :
    x = (.value ((Loaded.get? x.1).get h), x.2) := by
  obtain ⟨r, d⟩ := x
  cases r with
  | value v => rfl
  | trap a b => cases h
/-- the one piece of an answer of one piece -/
def oneOf {ε α : Type} (r : Except ε (List α)) : Option α := match r with
  | .ok [q] => some q
  | _ => none
theorem onePair {ε α β : Type} {x : Except ε (List α) × β} (h : (oneOf x.1).isSome = true) :
    x = (.ok [(oneOf x.1).get h], x.2) := by
  obtain ⟨r, d⟩ := x
  match r, h with
  | .ok [q], _ => rfl
theorem someEq {α : Type} {x : Option α} (h : x.isSome = true) : x = some (x.get h) := by
  cases x with
  | some v => rfl
  | none => cases h
theorem somePair {α β : Type} {x : Option α × β} (h : x.1.isSome = true) : x = (some (x.1.get h), x.2) := by
  obtain ⟨r, d⟩ := x
  cases r with
  | some v => rfl
  | none => cases h
/-- the error of an answer -/
def errOf {ε α : Type} (r : Except ε α) : Option ε := match r with
  | .error e => some e
  | _ => none
theorem errEq {ε α : Type} {x : Except ε α} (h : (errOf x).isSome = true) : x = .error ((errOf x).get h) := by
  cases x with
  | error v => rfl
  | ok v => cases h
/-- the state after a step that answers one -/
def nextState (o : Host.Outcome State Fault Refusal) : State := match o with
  | .next t => t
  | _ => State.reset
def core (k : Nat) (f : Core → Core) : Chip := R.modCore k f
def regs (c : Chip) (k : Nat) (l : List (Nat × Word)) : Chip := c.modCore k fun x => { x with g := l, useUbase := if k < 8 then x.useUbase else 0x10 }
def dram (c : Chip) : Chip := c.setF DRAMC_TOP_SIZE4K 0x70000
end Sys2Proof.Tests

open Sys2Proof.Tests

namespace Sys2Proof.Tests

/-! ### Ill-formed commands, one for each check of WellFormed.lean -/

def good : BusReq := ⟨50, 3, false, false, true, true, 0x1000000010, [1, 2, 3, 4]⟩
theorem wf_arbiterGrant : Instr.wellFormed (.arbiterGrant 1 [good, { good with bytes := [] }] ⟨0, 0⟩ false none) = false
    ∧ Instr.wellFormed (.arbiterGrant 1 [good] ⟨0, 0⟩ false none) = true := by decide +kernel
theorem wf_dramTrainingDone : Instr.wellFormed (.dramTrainingDone [4]) = false ∧ Instr.wellFormed (.dramTrainingDone [1, 1]) = false := by decide +kernel
theorem wf_nop : Instr.wellFormed (.nop 0 0x5000000) = false := by decide +kernel
theorem wf_illegalInstruction : Instr.wellFormed (.illegalInstruction 0 0x80000000) = false := by decide +kernel
theorem wf_auxDone : Instr.wellFormed (.auxDone 0 0 (List.replicate 17 0)) = false := by decide +kernel
theorem wf_rxSample : Instr.wellFormed (.rxSample 0 0 (2 ^ 23) true) = false := by decide +kernel
theorem wf_bridgeRatioMeasure : Instr.wellFormed (.bridgeRatioMeasure 0 (2 ^ 36)) = false := by decide +kernel
theorem wf_mirrorCommitReceive : Instr.wellFormed (.mirrorCommitReceive none none [(8, 1, 0, true)] true) = false := by decide +kernel
def twin : Peer := ⟨List.replicate 32 7, true, [], [], true, 0, false, none, false, 2, false, 1, false, 3, 0, [0, 0, 0, 0, 0]⟩
theorem wf_zowAuthDone : Instr.wellFormed (.zowAuthDone twin) = true ∧ Instr.wellFormed (.zowAuthDone { twin with ident := [] }) = false
    ∧ Instr.wellFormed (.zowAuthDone { twin with count := 2 ^ 64 }) = false ∧ Instr.wellFormed (.zowAuthDone { twin with base := [0] }) = false := by
  decide +kernel
theorem wf_zowResync : Instr.wellFormed (.zowResync [] []) = false := by decide +kernel
theorem wf_syncProbe : Instr.wellFormed (.syncProbe 0 0 0 (2 ^ 64)) = false := by decide +kernel
theorem wf_snapshotReceive : Instr.wellFormed (.snapshotReceive ⟨4, 5, [1], [], []⟩) = false
    ∧ Instr.wellFormed (.snapshotReceive ⟨2 ^ 32, 5, [0, 0, 0, 0, 0], [], []⟩) = false := by decide +kernel
theorem wf_replicationApply : Instr.wellFormed (.replicationApply 0 1 ⟨0x1000000041, 0, List.replicate 64 0, []⟩) = false
    ∧ Instr.wellFormed (.replicationApply 0 (2 ^ 32) ⟨0x1000000040, 0, List.replicate 64 0, []⟩) = false := by decide +kernel
theorem wf_pcieInboundRequest : Instr.wellFormed (.pcieInboundRequest (.bar0 0) true [] false 0) = false := by decide +kernel
theorem wf_storQcmdDone : Instr.wellFormed (.storQcmdDone (List.replicate 4096 0)) = false := by decide +kernel
theorem wf_smbBlockWriteAppend : Instr.wellFormed (.smbBlockWriteAppend (List.replicate 256 0) true) = false := by decide +kernel
theorem wf_smbBlockWriteSubmit : Instr.wellFormed (.smbBlockWriteSubmit (List.replicate 256 0) true) = false := by decide +kernel
theorem wf_sensSample : Instr.wellFormed (.sensSample [200]) = false := by decide +kernel

/-! ### The manual's worked examples -/

/-- the chip after a command -/
def after (i : Instr) (c : Chip) : Chip := (nextState (exec i (st c))).chip
/-- Chapter 2, the example of LUI, LLI and PERMB. -/
theorem test_lui : ((after (.lui 0 0 7 0x1800) R).core 0).rd 7 = 0x18000000 := by decide +kernel
theorem test_lli : ((after (.lli 0 0 7 0x0040) (regs R 0 [(7, 0x18000000)])).core 0).rd 7 = 0x18000040 := by decide +kernel
theorem test_permb : ((after (.permb 0 0 8 7 0) (regs R 0 [(7, 0x18000040)])).core 0).rd 8 = 0x40404040 := by decide +kernel
/-- Chapter 2, the example of R77 to R80. -/
def mulReady : Chip := R.modCore 0 fun x => { x with g := [(4, 0x10000), (5, 0x30000)], pl := 0x10, ph := 0 }
theorem test_mul_shadow : ((after (.mul 0 0 4 5) mulReady).core 0).prod = some ⟨0x300000000, 2⟩
    ∧ ((after (.mul 0 0 4 5) mulReady).core 0).pl = 0x10 := by decide +kernel
theorem test_product_ripens :
    ((after (.mfpl 0 0 8) (mulReady.modCore 0 fun x => { x with prod := some ⟨0x300000000, 0⟩ })).core 0).rd 8 = 0 := by decide +kernel
/-- Chapter 2, the example of R106: an entry of 16 MiB of the pattern store. -/
def mapped : Chip := R.modCore 0 fun x => { x with
  useRT := true, useCtx := 0
  held := [(0, some 0x40000038), (1, some 0x01000000), (2, some 3), (3, some 0)] }
theorem test_translate : (translate 0 .load 0x40123456 mapped).1 = some ⟨0x1000123456, false, false⟩ := by decide +kernel
/-- Chapter 4, the example of R179 and R182. -/
theorem test_dram_address : (R.setF DRAMC_TOP_SIZE4K 0x70000).dramChannel 0x12345640 = 2 := by decide +kernel
/-- Chapter 10, the example of R418. -/
theorem test_generation_order : genAfter 5 0xFFFFFFF0 = some true ∧ genAfter 0 0x80000000 = none := by decide +kernel
/-- Chapter 0: what SYS_ID reads on a TVG-6400 of stepping A1. -/
theorem test_sys_id : (readReg 0 false SYS_ID R).1 = 0x6400A100 := by decide +kernel

end Sys2Proof.Tests

namespace Sys2Proof.Tests

/-- The queue of the two order statements may hold anything; the two invariants hold at reset, where a step answers a next state. -/
theorem witness_StepKeepsMemoryCanonical : State.reset.chip.canonical = true ∧ ∃ t, step State.reset = .next t :=
  ⟨by decide +kernel, _, rfl⟩
theorem witness_StepKeepsShadowBound :
    (∀ k p, (State.reset.chip.core k).prod = some p → p.left ≤ 12) ∧ ∃ t, step State.reset = .next t := by
  refine ⟨fun k p h => ?_, _, rfl⟩
  have e : (State.reset.chip.core k).prod = none := rfl
  rw [e] at h
  cases h
/-- a core that is not stepping -/
theorem witness_CompletionFrame : (R.core 0).dbg.stepping = false ∧ (R.core 0).dbg.haltHit = none ∧ (R.core 0).pmctl.bit 10 = false := by
  decide +kernel
/-- a paired Mirror `off` nanoseconds from its Lead -/
def slewing (off : Int) : Chip :=
  let c := (R.setF ZOW_STATUS_ROLE 2).setF ZOW_STATUS_STATE 5
  { c with count := 100000, zow := { c.zow with offset := off, slewAt := 0 } }
/-- supplies absent, an ordinary nanosecond, a count that slews up and one that slews down, a main side that does not run -/
theorem witness_IdleStepIsOneNanosecond :
    (st R).pending = [] ∧ ({ R with power := { R.power with vsb := false } } : Chip).power.vsb = false ∧ R.power.vsb = true ∧ R.slew = 0 ∧
    R.now % 2 ^ 48 ≠ 2 ^ 48 - 1 ∧ (slewing 5).slew = 1 ∧ (slewing 5).power.vsb = true ∧ (slewing (-5)).slew = -1 ∧ R.isMirror = false ∧
    (passTime { R with power := { R.power with state := .off } }).mainRuns = false := by decide +kernel
/-- the boot ROM at step `n` with the flash `l`, of which slot 0 begins at 4 KiB -/
def booting (b : Boot) (size : Nat) (l : List Byte) : Chip :=
  let c := R.program 0 l
  { c with power := { c.power with boot := some b }, hosts := { c.hosts with flashSize := size } }
def bootAt (n : Nat) : Boot := ⟨n, true, 0, false, 0, [], []⟩
def bootHead : List Byte := [0x34364756, 0x1000, 0x800000, 0].flatMap (leBytes 4)
/-- what every clause asks of the chip -/
def romRuns (c : Chip) (b : Boot) : Prop :=
  c.power.boot = some b ∧ c.mainRuns = true ∧ (∀ j, 1 ≤ j → j < 8 → c.regBit SYS_RUN_LO j = false) ∧ c.romWaits b = false
/-- a flash that is absent, one without a header, one whose slots fail, first and second; an entry that is skipped, the last entry; DRAM that
is enabled and not usable; the entry of the image -/
theorem witness_BootResults :
    (let c := booting (bootAt 3) 0 []; romRuns c (bootAt 3) ∧ c.flashMute = true) ∧
    (let c := booting (bootAt 3) 0x1000000 []; romRuns c (bootAt 3) ∧ c.flashMute = false ∧ c.headerOk = false) ∧
    (let c := booting (bootAt 3) 0x1000000 bootHead
     romRuns c (bootAt 3) ∧ c.flashMute = false ∧ c.headerOk = true ∧
      manifestSlot c.power.fuses (c.manifest 0) ((segmentIds (c.manifest 0)).all fun i => c.segmentFits 0 (c.manifest 0) i) = none) ∧
    (let b : Boot := { bootAt 3 with second := true }
     let c := booting b 0x1000000 bootHead
     romRuns c b ∧ c.flashMute = false ∧ c.headerOk = true ∧
      manifestSlot c.power.fuses (c.manifest 0) ((segmentIds (c.manifest 0)).all fun i => c.segmentFits 0 (c.manifest 0) i) = none) ∧
    (let b : Boot := { bootAt 4 with entries := [(SYS_RESET, 1)] }; romRuns (booting b 0x1000000 bootHead) b ∧ bootSkips SYS_RESET = true) ∧
    romRuns (booting (bootAt 4) 0x1000000 bootHead) (bootAt 4) ∧
    (let c := (booting (bootAt 5) 0x1000000 bootHead).setF DRAMC_CONFIG_ENABLE 1
     romRuns c (bootAt 5) ∧ c.fb DRAMC_CONFIG_ENABLE = true ∧ c.dramTop = 0) ∧
    romRuns (booting (bootAt 8) 0x1000000 bootHead) (bootAt 8) := by
  have h : ∀ (c : Chip) (b : Boot), c.power.boot = some b →
      (c.mainRuns && (List.range 8).all (fun j => j == 0 || !c.regBit SYS_RUN_LO j) && !c.romWaits b) = true → romRuns c b := by
    intro c b hb e
    simp only [Bool.and_eq_true, List.all_eq_true, List.mem_range, Bool.or_eq_true, beq_iff_eq, Bool.not_eq_true'] at e
    exact ⟨hb, e.1.1, fun j hj hk => (e.1.2 j hk).resolve_left (by omega), e.2⟩
  have short : ∀ (c : Chip) (s : Bool), (c.manifest 0).length ≠ 0x570 ∨ frameNum (c.manifest 0) 0 4 ≠ 2 →
      manifestSlot c.power.fuses (c.manifest 0) s = none := by
    intro c s e
    unfold manifestSlot
    rw [if_neg]
    simp only [Bool.and_eq_true, decide_eq_true_eq]
    rcases e with e | e
    · exact fun x => e x.1.1.1.1.1
    · exact fun x => e x.1.1.1.1.2
  refine ⟨⟨h _ _ rfl (by decide +kernel), by decide +kernel⟩, ⟨h _ _ rfl (by decide +kernel), by decide +kernel, by decide +kernel⟩,
    ⟨h _ _ rfl (by decide +kernel), by decide +kernel, by decide +kernel, short _ _ (.inr (by decide +kernel))⟩,
    ⟨h _ _ rfl (by decide +kernel), by decide +kernel, by decide +kernel, short _ _ (.inr (by decide +kernel))⟩,
    ⟨h _ _ rfl (by decide +kernel), by decide +kernel⟩, h _ _ rfl (by decide +kernel),
    ⟨h _ _ rfl (by decide +kernel), by decide +kernel, by decide +kernel⟩, h _ _ rfl (by decide +kernel)⟩
theorem witness_HardwiredRegisters : (31 : Nat) ≠ 0 ∧ (1 : Nat) ≠ 31 ∧ 1 ≤ (7 : Nat) ∧ (7 : Nat) < 8 ∧ (0 : Nat) < 8 ∧ (0 : Nat) ≠ 7 := by decide
/-- 2^20 loads since the wait table was cleared, a flushed load about to retire, and core 0 counting event 0x0B on counter 0 -/
theorem witness_PredictorEvents :
    (let x := (core 0 fun x => { x with pred := { x.pred with loads := 2 ^ 20, flushed := some x.pc } }).core 0
     2 ^ 20 ≤ x.pred.loads ∧ x.pred.flushed = some x.pc ∧ (R.core 0).pred.loads < 2 ^ 20) ∧
    let x := (core 0 fun x => { x with pmctl := 1, pmsel := [(0, 0x0B)] }).core 0
    x.pmctl.bit 0 = true ∧ (sget zeroWord x.pmsel 0).bits 7 0 = 0x0B := by decide +kernel
/-- core 0 with and without its region table, every entry held (an invalid one) -/
theorem witness_TranslationByLowestEntry :
    (R.core 0).useRT = false ∧
    (let x := (core 0 fun x => { x with useRT := true, useCtx := 0, held := (List.range 64).map fun n => (n, some 0) }).core 0
     x.useRT = true ∧ ∀ i, i < 16 → ∀ j, j < 3 → sget (fun _ => none) x.held (x.useCtx * 64 + i * 4 + j) = some 0) := by decide +kernel
/-- a pending product of the longest shadow, the highest cause, and a delay slot -/
theorem witness_ExceptionEntry :
    (∀ p, ({ R.core 0 with prod := some ⟨5, 12⟩ } : Core).prod = some p → p.left ≤ 12) ∧ 63 < 64 ∧
    (some (⟨0x1000, true⟩ : Slot)) = some ⟨0x1000, true⟩ ∧ (none : Option Slot) = none := by
  refine ⟨fun p h => ?_, by decide, rfl, rfl⟩
  cases h
  decide

/-- the chip of the two requests below -/
def noHog : Chip := { R with count := 100000 }.setF MEM_CTL_EMERG 0
def rqFirst : BusReq := ⟨50, 3, false, false, true, true, 0x1000000010, [1, 2, 3, 4]⟩
def rqSecond : BusReq := ⟨50, 7, false, false, true, true, 0x1000000020, [1, 2, 3, 4]⟩
def rqPress : BusReq := ⟨49, 96, false, false, true, true, 0x1000000030, [1, 2, 3, 4]⟩
/-- two requests of one postmark, of which the origin with the lower number goes first, and one of the Press before both -/
theorem witness_ArbiterOrder_grant :
    let c := noHog
    (∀ x ∈ [rqSecond, rqFirst, rqPress], c.takesReq 0x20 x = true ∧ c.servable 0x20 x = true) ∧ c.waitingAt 0x20 = [] ∧
    c.fb MEM_CTL_EMERG = false ∧ c.grantAt 0x20 = none ∧ [rqSecond, rqFirst].Nodup ∧ [rqSecond, rqPress].Nodup ∧
    (∀ r' ∈ [rqSecond, rqFirst], r' = rqFirst ∨ rqFirst.postmark < r'.postmark ∨ (rqFirst.postmark = r'.postmark ∧ rqFirst.origin < r'.origin)) ∧
    (∀ r' ∈ [rqSecond, rqPress], r' = rqPress ∨ rqPress.postmark < r'.postmark) ∧
    cuttable rqFirst.origin = false ∧ rqFirst.write = true ∧ mainRegion c.dramTop rqFirst.pa = .pattern ∧
    c.reachable rqFirst.origin rqFirst.pa .pattern = true ∧ rqFirst.origin < 62 ∧ rqFirst.pa % 4 = 0 ∧ rqFirst.bytes.length = 4 ∧
    cuttable rqPress.origin = true := by decide +kernel

/-- slot 5 of the PO Box, posted with operation `op` and taken by the unit -/
def posted (op abort : Nat) : Chip :=
  let c : Chip := { R with count := 20000000000 }
  { c.setBytes (0x1D30000000 + 64 * 5) ([op, 9, 0, 1, 1].flatMap (leBytes 4)) with
    fu := { c.fu with slots := [(5, ⟨3, 0, 77, abort, false, 0⟩)] } }
/-- each of the three operations, aborted before it began -/
theorem witness_FrankingOperations_aborted :
    ∀ op, op = 1 ∨ op = 2 ∨ op = 3 → (posted op 1).busySlot = some 5 ∧ (posted op 1).boxWord 5 0 % 256 = op ∧ (posted op 1).fuServes = true ∧
      ((posted op 1).boxSlot 5).abort = 1 ∧ ((posted op 1).boxSlot 5).discard = false := by
  rintro _ (rfl | rfl | rfl) <;> decide +kernel
/-- a block that does not lead a pair -/
theorem witness_ZowynResults_notLead : R.zowUp = true ∧ R.isLead = false := by decide +kernel

end Sys2Proof.Tests

namespace Sys2Proof.Tests.A1

def c1 : Chip := regs R 0 [(1, 0x80000003), (2, 0xFFFFFFFE)]
def s1 := st c1
def d1 := prep c1 0 false
def c2 : Chip := c1.modCore 0 fun x => { x with slot := some ⟨0x1000, false⟩ }
def c3 : Chip := c1.modCore 0 fun x => { x with slot := some ⟨0x1000, true⟩ }
def c4 : Chip := c1.modCore 0 fun x => { x with prod := some ⟨0x123456789A, 2⟩ }
def d4 := prep c4 0 false
def c5 : Chip := c1.modCore 0 fun x => { x with prod := some ⟨0x123456789A, 0⟩ }

/-- states and operands that meet the hypotheses of `Obligations.AluRegisterResults`, clause by clause -/
theorem witness_AluRegisterResults :
    -- add, sub, and, or, xor, andn, nor, sll, srl, sra, ror, min, max, minu, maxu, popc, sexb, sexh, zexh, bswap, mfq
    (s1.chip.prepared 0 false = some d1) :=
  (prep_eq (by decide +kernel))

/-- states and operands that meet the hypotheses of `Obligations.AluImmediateResults`, clause by clause -/
theorem witness_AluImmediateResults :
    -- addi, andi, ori, xori, shi, lui, lli
    (s1.chip.prepared 0 false = some d1) :=
  (prep_eq (by decide +kernel))

/-- states and operands that meet the hypotheses of `Obligations.ByteLaneResults`, clause by clause -/
theorem witness_ByteLaneResults :
    -- sadub
    (s1.chip.prepared 0 false = some d1) :=
  (prep_eq (by decide +kernel))

/-- states and operands that meet the hypotheses of `Obligations.CompareResults`, clause by clause -/
theorem witness_CompareResults :
    -- cmp
    (s1.chip.prepared 0 false = some d1) ∧
    -- cmpi
    (s1.chip.prepared 0 false = some d1 ∧ 2 < 4) ∧
    -- predicateLogic
    (s1.chip.prepared 0 false = some d1 ∧ 1 ≠ 3) ∧
    -- predicateLogic
    (s1.chip.prepared 0 false = some d1 ∧ (d1.core 0).takes 0 = true) ∧
    -- cmpi
    (s1.chip.prepared 0 false = some d1 ∧ (4 = 4 ∨ 4 = 5)) ∧
    -- cmpi
    (s1.chip.prepared 0 false = some d1 ∧ 6 ≤ 7 ∧ 31 < 32) ∧
    -- cmpi
    (s1.chip.prepared 0 false = some d1 ∧ 6 ≤ 6 ∧ 32 ≤ 32 ∧ (d1.core 0).takes 0 = true) :=
  ⟨(prep_eq (by decide +kernel)),
    ⟨prep_eq (by decide +kernel), by decide +kernel⟩,
    ⟨prep_eq (by decide +kernel), by decide +kernel⟩,
    ⟨prep_eq (by decide +kernel), by decide +kernel⟩,
    ⟨prep_eq (by decide +kernel), by decide +kernel⟩,
    by refine ⟨prep_eq ?_, ?_, ?_⟩ <;> decide +kernel,
    by refine ⟨prep_eq ?_, ?_, ?_, ?_⟩ <;> decide +kernel⟩

/-- states and operands that meet the hypotheses of `Obligations.ProductOperations`, clause by clause -/
theorem witness_ProductOperations :
    -- mul, mulu, mac, macu, msu, div, divu, mfpl, mfph, mtpl, mtph
    (s1.chip.prepared 0 false = some d1) ∧
    -- mul, mulu, mac, macu, msu, div, divu, mfpl, mfph, mtpl, mtph
    ((st c4).chip.prepared 0 false = some d4) ∧
    -- productVisible
    (((st c5).chip.core 0).prod = some { val := 78187493530, left := 0 }) :=
  ⟨(prep_eq (by decide +kernel)),
    (prep_eq (by decide +kernel)),
    by and_intros <;> decide +kernel⟩

/-- states and operands that meet the hypotheses of `Obligations.BranchResults`, clause by clause -/
theorem witness_BranchResults :
    -- b, bl, jr, jlr
    (s1.chip.prepared 0 true = some (prep c1 0 true) ∧ ((prep c1 0 true).core 0).slot = none ∧ 0 ≠ 8) :=
  by refine ⟨prep_eq ?_, ?_, ?_⟩ <;> decide +kernel

/-- states and operands that meet the hypotheses of `Obligations.BranchSlots`, clause by clause -/
theorem witness_BranchSlots :
    -- b, bl, jr, jlr
    (((prep c2 0 true).core 0).slot = some { cont := 4096, annulled := false } ∧ 0 ≠ 8 ∧ (st c2).chip.prepared 0 true = some (prep c2 0 true)) ∧
    -- eret
    (((prep c2 0 true).core 0).slot = some { cont := 4096, annulled := false } ∧ 0 ≠ 8 ∧ (st c2).chip.prepared 0 false = some (prep c2 0 true)) ∧
    -- add, lw, sw, b, jr, eret, illegalInstruction
    (((st c3).chip.core 0).slot = some { cont := 4096, annulled := true } ∧ (st c3).chip.canRun 0 = true ∧ (⟨4096, true⟩ : Slot).annulled = true) :=
  ⟨by refine ⟨?_, ?_, prep_eq ?_⟩ <;> decide +kernel,
    by refine ⟨?_, ?_, prep_eq ?_⟩ <;> decide +kernel,
    by and_intros <;> decide +kernel⟩

/-- states and operands that meet the hypotheses of `Obligations.PredictorEvents`, clause by clause -/
theorem witness_PredictorEvents :
    -- waitTableClear
    ((s1.chip.core 0).pred.loads < 2 ^ 20) :=
  by and_intros <;> decide +kernel

end Sys2Proof.Tests.A1

namespace Sys2Proof.Tests.A2B

def c1 : Chip := regs R 0 [(1, 0x80000003), (2, 0xFFFFFFFE)]
def s1 := st c1
def d1 := prep c1 0 false
def m1 : Chip := ((((dram (regs R 0 [(1, 0x1004), (2, 0xF1F2F3F4), (3, 0x1003)])).setByte 0x1004 0x81).setByte 0x1005 0x82).modCore 0 fun x => { x with useUbase := 0, pc := 0x2000 })
def m2 : Chip := m1.modCore 1 fun x => { x with resv := some ⟨0x1000, 0x1000⟩ }
def n1 := prep m1 0 false
def n2 := prep m2 0 false
def m5 : Chip := m1.modCore 0 fun x => { x with g := [(1, 0x1003), (2, 5)] }
def n5 := prep m5 0 false

/-- states and operands that meet the hypotheses of `Obligations.FalseConditionHasNoEffect`, clause by clause -/
theorem witness_FalseConditionHasNoEffect :
    -- add, sub, and, or, xor, andn, nor, sll, srl, sra, ror, min, max, minu, maxu, clz, popc, sexb, sexh, zexh, bswap, mfq, mtq, addi, andi, ori, xori, shi, lui, lli, permb, addb, subb, addusb, subusb, minub, maxub, avgub, cmpeqb, cmpgtub, sadub, cmp, cmpi, predicateLogic, mul, mulu, mac, macu, msu, div, divu, mfpl, mfph, mtpl, mtph, lb, lbu, lh, lhu, lw, sb, sh, sw, ll, sc, ldsw, ldshu, stsw, stsh, fenceS, fenceF, fenceIo, isync, csrr, csrw, csrs, csrc, wait, regsync, cline, rdpm, syscall, lnext, lstat, ldead, mtx, mfx, lset, lget, lgetr, lput, lclose, ldraw, lend, vadd, vsub, vmul, vmac, vminmax, vunary, vdiv, vcvtf, vcvti, viadd, vlogic, vshi, vcmp, vsel, vbcast, vins, vext, vtrn, vld, vst, vgath, vsin, vbiq, vgen, dyn, snext, sstat, sout, sin, sbar, send, nop, prefetch
    (s1.chip.prepared 0 false = some d1 ∧ (d1.core 0).takes 1 = false) ∧
    -- eret
    (s1.chip.prepared 0 false = some d1 ∧ (d1.core 0).takes 1 = false ∧ (d1.core 0).slot = none) ∧
    -- illegalInstruction
    (s1.chip.prepared 0 false = some d1 ∧ (d1.core 0).takes 1 = false ∧ (Word.bits 268435456 31 28 = 8 ∨ Word.bits 268435456 31 28 = 1 ∧
      ¬(32 ≤ Word.bits 268435456 27 22 ∧ Word.bits 268435456 27 22 < 36))) :=
  ⟨⟨prep_eq (by decide +kernel), by decide +kernel⟩,
    by refine ⟨prep_eq ?_, ?_, ?_⟩ <;> decide +kernel,
    by refine ⟨prep_eq ?_, ?_, ?_⟩ <;> decide +kernel⟩

/-- states and operands that meet the hypotheses of `Obligations.DramAccesses`, clause by clause -/
theorem witness_DramAccesses :
    -- lb, lbu
    ((st m1).chip.prepared 0 false = some n1 ∧ (n1.core 0).takes 0 = true ∧
      DirectDram 0 n1 ((n1.core 0).rd 1 + BitVec.signExtend 32 (0 : BitVec 8)) 1 4100 ∧ 1 = 1) ∧
    -- lh, lhu
    ((st m1).chip.prepared 0 false = some n1 ∧ (n1.core 0).takes 0 = true ∧
      DirectDram 0 n1 ((n1.core 0).rd 1 + BitVec.signExtend 32 (0 : BitVec 8)) 2 4100 ∧ 2 = 2) ∧
    -- lw
    ((st m1).chip.prepared 0 false = some n1 ∧ (n1.core 0).takes 0 = true ∧
      DirectDram 0 n1 ((n1.core 0).rd 1 + BitVec.signExtend 32 (0 : BitVec 8)) 4 4100 ∧ 4 = 4) ∧
    -- sb
    ((st m2).chip.prepared 0 false = some n2 ∧ (n2.core 0).takes 0 = true ∧
      DirectDram 0 n2 ((n2.core 0).rd 1 + BitVec.signExtend 32 (0 : BitVec 8)) 1 4100) ∧
    -- sh
    ((st m2).chip.prepared 0 false = some n2 ∧ (n2.core 0).takes 0 = true ∧
      DirectDram 0 n2 ((n2.core 0).rd 1 + BitVec.signExtend 32 (0 : BitVec 8)) 2 4100) ∧
    -- sw
    ((st m2).chip.prepared 0 false = some n2 ∧ (n2.core 0).takes 0 = true ∧
      DirectDram 0 n2 ((n2.core 0).rd 1 + BitVec.signExtend 32 (0 : BitVec 8)) 4 4100) :=
  ⟨by refine ⟨prep_eq ?_, ?_, by unfold DirectDram; decide +kernel, ?_⟩ <;> decide +kernel,
    by refine ⟨prep_eq ?_, ?_, by unfold DirectDram; decide +kernel, ?_⟩ <;> decide +kernel,
    by refine ⟨prep_eq ?_, ?_, by unfold DirectDram; decide +kernel, ?_⟩ <;> decide +kernel,
    ⟨prep_eq (by decide +kernel), by decide +kernel, by unfold DirectDram; decide +kernel⟩,
    ⟨prep_eq (by decide +kernel), by decide +kernel, by unfold DirectDram; decide +kernel⟩,
    ⟨prep_eq (by decide +kernel), by decide +kernel, by unfold DirectDram; decide +kernel⟩⟩

/-- states and operands that meet the hypotheses of `Obligations.LoadResults`, clause by clause -/
theorem witness_LoadResults :
    -- lb, lbu
    ((st m1).chip.prepared 0 false = some n1 ∧ (n1.core 0).takes 0 = true ∧
      ∃ q1 z1, checkAccess 0 Use.load ((n1.core 0).rd 1 + BitVec.signExtend 32 (0 : BitVec 8)) 1 false n1 = (Except.ok q1, z1) ∧
      z1.accessWaits 0 false q1 = false ∧ ∃ z2, fireWatch 0 Use.load ((n1.core 0).rd 1 + BitVec.signExtend 32 (0 : BitVec 8)) 1 z1 = (Fired.no, z2) ∧
      ∃ q3 z3, finishLoad 0 ((n1.core 0).rd 1 + BitVec.signExtend 32 (0 : BitVec 8)) q1 z2 = (Loaded.value q3, z3)) ∧
    -- lh, lhu
    ((st m1).chip.prepared 0 false = some n1 ∧ (n1.core 0).takes 0 = true ∧
      ∃ q1 z1, checkAccess 0 Use.load ((n1.core 0).rd 1 + BitVec.signExtend 32 (0 : BitVec 8)) 2 false n1 = (Except.ok q1, z1) ∧
      z1.accessWaits 0 false q1 = false ∧ ∃ z2, fireWatch 0 Use.load ((n1.core 0).rd 1 + BitVec.signExtend 32 (0 : BitVec 8)) 2 z1 = (Fired.no, z2) ∧
      ∃ q3 z3, finishLoad 0 ((n1.core 0).rd 1 + BitVec.signExtend 32 (0 : BitVec 8)) q1 z2 = (Loaded.value q3, z3)) ∧
    -- lw
    ((st m1).chip.prepared 0 false = some n1 ∧ (n1.core 0).takes 0 = true ∧
      ∃ q1 z1, checkAccess 0 Use.load ((n1.core 0).rd 1 + BitVec.signExtend 32 (0 : BitVec 8)) 4 false n1 = (Except.ok q1, z1) ∧
      z1.accessWaits 0 false q1 = false ∧ ∃ z2, fireWatch 0 Use.load ((n1.core 0).rd 1 + BitVec.signExtend 32 (0 : BitVec 8)) 4 z1 = (Fired.no, z2) ∧
      ∃ q3 z3, finishLoad 0 ((n1.core 0).rd 1 + BitVec.signExtend 32 (0 : BitVec 8)) q1 z2 = (Loaded.value q3, z3)) :=
  ⟨by refine ⟨prep_eq ?_, ?_, ⟨_, _, okPair ?_, ?_, ⟨_, fstPair ?_, ⟨_, _, valuePair ?_⟩⟩⟩⟩ <;> decide +kernel,
    by refine ⟨prep_eq ?_, ?_, ⟨_, _, okPair ?_, ?_, ⟨_, fstPair ?_, ⟨_, _, valuePair ?_⟩⟩⟩⟩ <;> decide +kernel,
    by refine ⟨prep_eq ?_, ?_, ⟨_, _, okPair ?_, ?_, ⟨_, fstPair ?_, ⟨_, _, valuePair ?_⟩⟩⟩⟩ <;> decide +kernel⟩

/-- states and operands that meet the hypotheses of `Obligations.StoreResults`, clause by clause -/
theorem witness_StoreResults :
    -- sb
    ((st m1).chip.prepared 0 false = some n1 ∧ (n1.core 0).takes 0 = true ∧
      ∃ q1 z1, checkAccess 0 Use.store ((n1.core 0).rd 1 + BitVec.signExtend 32 (0 : BitVec 8)) 1 false n1 = (Except.ok q1, z1) ∧
      z1.accessWaits 0 true q1 = false ∧ ∃ z2, fireWatch 0 Use.store ((n1.core 0).rd 1 + BitVec.signExtend 32 (0 : BitVec 8)) 1 z1 = (Fired.no, z2) ∧
      ∃ z3, finishStore 0 ((n1.core 0).rd 1 + BitVec.signExtend 32 (0 : BitVec 8)) q1 (List.map (fun j => BitVec.extractLsb' (8 * j) 8 ((n1.core 0).rd 2)) (List.range 1)) z2 = (false, z3)) ∧
    -- sh
    ((st m1).chip.prepared 0 false = some n1 ∧ (n1.core 0).takes 0 = true ∧
      ∃ q1 z1, checkAccess 0 Use.store ((n1.core 0).rd 1 + BitVec.signExtend 32 (0 : BitVec 8)) 2 false n1 = (Except.ok q1, z1) ∧
      z1.accessWaits 0 true q1 = false ∧ ∃ z2, fireWatch 0 Use.store ((n1.core 0).rd 1 + BitVec.signExtend 32 (0 : BitVec 8)) 2 z1 = (Fired.no, z2) ∧
      ∃ z3, finishStore 0 ((n1.core 0).rd 1 + BitVec.signExtend 32 (0 : BitVec 8)) q1 (List.map (fun j => BitVec.extractLsb' (8 * j) 8 ((n1.core 0).rd 2)) (List.range 2)) z2 = (false, z3)) ∧
    -- sw
    ((st m1).chip.prepared 0 false = some n1 ∧ (n1.core 0).takes 0 = true ∧
      ∃ q1 z1, checkAccess 0 Use.store ((n1.core 0).rd 1 + BitVec.signExtend 32 (0 : BitVec 8)) 4 false n1 = (Except.ok q1, z1) ∧
      z1.accessWaits 0 true q1 = false ∧ ∃ z2, fireWatch 0 Use.store ((n1.core 0).rd 1 + BitVec.signExtend 32 (0 : BitVec 8)) 4 z1 = (Fired.no, z2) ∧
      ∃ z3, finishStore 0 ((n1.core 0).rd 1 + BitVec.signExtend 32 (0 : BitVec 8)) q1 (List.map (fun j => BitVec.extractLsb' (8 * j) 8 ((n1.core 0).rd 2)) (List.range 4)) z2 = (false, z3)) :=
  ⟨by refine ⟨prep_eq ?_, ?_, ⟨_, _, okPair ?_, ?_, ⟨_, fstPair ?_, ⟨_, fstPair ?_⟩⟩⟩⟩ <;> decide +kernel,
    by refine ⟨prep_eq ?_, ?_, ⟨_, _, okPair ?_, ?_, ⟨_, fstPair ?_, ⟨_, fstPair ?_⟩⟩⟩⟩ <;> decide +kernel,
    by refine ⟨prep_eq ?_, ?_, ⟨_, _, okPair ?_, ?_, ⟨_, fstPair ?_, ⟨_, fstPair ?_⟩⟩⟩⟩ <;> decide +kernel⟩

/-- states and operands that meet the hypotheses of `Obligations.ReservationPair`, clause by clause -/
theorem witness_ReservationPair :
    -- ll
    ((st m1).chip.prepared 0 false = some n1 ∧ (n1.core 0).takes 0 = true ∧
      ∃ q1 z1, checkAccess 0 Use.load ((n1.core 0).rd 1 + BitVec.signExtend 32 (0 : BitVec 8)) 4 true n1 = (Except.ok [q1], z1) ∧
      z1.accessWaits 0 false [q1] = false ∧
      ∃ z2, fireWatch 0 Use.load ((n1.core 0).rd 1 + BitVec.signExtend 32 (0 : BitVec 8)) 4 z1 = (Fired.no, z2) ∧
      ∃ q3 z3, finishLoad 0 ((n1.core 0).rd 1 + BitVec.signExtend 32 (0 : BitVec 8)) [q1] z2 = (Loaded.value q3, z3)) ∧
    -- ll
    ((st m5).chip.prepared 0 false = some n5 ∧ (n5.core 0).takes 0 = true ∧
      BitVec.toNat ((n5.core 0).rd 1 + BitVec.signExtend 32 (0 : BitVec 8)) % 4 ≠ 0) ∧
    -- sc
    ((st m1).chip.prepared 0 false = some n1 ∧ (n1.core 0).takes 0 = true ∧ (¬∃ r, (n1.core 0).resv = some r ∧
      r.va = (n1.core 0).rd 2 + BitVec.signExtend 32 (0 : BitVec 8) &&& ~~~63) ∧
      ∃ q1 z1, checkAccess 0 Use.store ((n1.core 0).rd 2 + BitVec.signExtend 32 (0 : BitVec 8)) 4 true n1 = (Except.ok q1, z1)) ∧
    -- sc
    ((st m5).chip.prepared 0 false = some n5 ∧ (n5.core 0).takes 0 = true ∧
      BitVec.toNat ((n5.core 0).rd 2 + BitVec.signExtend 32 (0 : BitVec 8)) % 4 ≠ 0 ∧ (¬∃ r, (n5.core 0).resv = some r ∧
      r.va = (n5.core 0).rd 2 + BitVec.signExtend 32 (0 : BitVec 8) &&& ~~~63)) :=
  ⟨by refine ⟨prep_eq ?_, ?_, ⟨_, _, onePair ?_, ?_, ⟨_, fstPair ?_, ⟨_, _, valuePair ?_⟩⟩⟩⟩ <;> decide +kernel,
    by refine ⟨prep_eq ?_, ?_, ?_⟩ <;> decide +kernel,
    by refine ⟨prep_eq ?_, ?_, ?_, ⟨_, _, okPair ?_⟩⟩ <;> decide +kernel,
    by refine ⟨prep_eq ?_, ?_, ?_, ?_⟩ <;> decide +kernel⟩

end Sys2Proof.Tests.A2B

namespace Sys2Proof.Tests.A3

def c1 : Chip := regs R 0 [(1, 0x80000003), (2, 0xFFFFFFFE)]
def s1 := st c1
def d1 := prep c1 0 false
def m1 : Chip := ((((dram (regs R 0 [(1, 0x1004), (2, 0xF1F2F3F4), (3, 0x1003)])).setByte 0x10004 0x81).setByte 0x10005 0x82).modCore 0 fun x => { x with useUbase := 0, pc := 0x2000, sbase := 0x10000 })
def n1 := prep m1 0 false
def m8 : Chip := ((regs R 8 [(2, 0xF1F2F3F4)]).setReg SYS_RUN_LO 0x101).setByte 0x1020000004 0x77
def n8 := prep m8 8 false
def b8 : Chip := m8.modCore 8 fun x => { x with sbuf := [⟨0x1020000010, 0xAABBCCDD, 15⟩], posted := [⟨true, false, []⟩], loadHeld := true }
def er : Chip := c1.modCore 0 fun x => { x with prod := some ⟨0x123456789A, 5⟩, estat := 0x507, etgt := 12, epc := 44, eph := 3, epl := 4, resv := some ⟨1,2⟩ }
def us : Chip := c1.modCore 0 fun x => { x with status := 0 }
def ir : Chip := { c1 with count := 100000, icu := { c1.icu with src := [(600, { c1.src 600 with st := 1, tgt := 0, cfg := 1, record := { (c1.src 600).record with postmark := 5, released := true } })] } }
def ie : Chip := ir.modCore 0 fun x => { x with status := 3 }
def ib : Chip := c1.modCore 0 fun x => { x with busErrs := [0x123] }
def ih : Chip := c1.modCore 0 fun x => { x with dbg := { x.dbg with haltReq := true } }
def w1 : Chip := (ie.modCore 0 fun x => { x with waiting := true })

/-- states and operands that meet the hypotheses of `Obligations.ShortWindow`, clause by clause -/
theorem witness_ShortWindow :
    -- ldsw
    ((st m1).chip.prepared 0 false = some n1 ∧ (n1.core 0).takes 0 = true ∧ 0 < 8 ∧
      ∃ q1 z1, checkAccess 0 Use.load ((n1.core 0).sbase + BitVec.zeroExtend 32 (4 : BitVec 16)) 4 false n1 = (Except.ok q1, z1) ∧
      z1.accessWaits 0 false q1 = false ∧
      ∃ z2, fireWatch 0 Use.load ((n1.core 0).sbase + BitVec.zeroExtend 32 (4 : BitVec 16)) 4 z1 = (Fired.no, z2) ∧
      ∃ q3 z3, finishLoad 0 ((n1.core 0).sbase + BitVec.zeroExtend 32 (4 : BitVec 16)) q1 z2 = (Loaded.value q3, z3)) ∧
    -- ldshu
    ((st m1).chip.prepared 0 false = some n1 ∧ (n1.core 0).takes 0 = true ∧ 0 < 8 ∧
      ∃ q1 z1, checkAccess 0 Use.load ((n1.core 0).sbase + BitVec.zeroExtend 32 (4 : BitVec 16)) 2 false n1 = (Except.ok q1, z1) ∧
      z1.accessWaits 0 false q1 = false ∧
      ∃ z2, fireWatch 0 Use.load ((n1.core 0).sbase + BitVec.zeroExtend 32 (4 : BitVec 16)) 2 z1 = (Fired.no, z2) ∧
      ∃ q3 z3, finishLoad 0 ((n1.core 0).sbase + BitVec.zeroExtend 32 (4 : BitVec 16)) q1 z2 = (Loaded.value q3, z3)) ∧
    -- stsw
    ((st m1).chip.prepared 0 false = some n1 ∧ (n1.core 0).takes 0 = true ∧ 0 < 8 ∧
      ∃ q1 z1, checkAccess 0 Use.store ((n1.core 0).sbase + BitVec.zeroExtend 32 (4 : BitVec 16)) 4 false n1 = (Except.ok q1, z1) ∧
      z1.accessWaits 0 true q1 = false ∧
      ∃ z2, fireWatch 0 Use.store ((n1.core 0).sbase + BitVec.zeroExtend 32 (4 : BitVec 16)) 4 z1 = (Fired.no, z2) ∧
      ∃ z3, finishStore 0 ((n1.core 0).sbase + BitVec.zeroExtend 32 (4 : BitVec 16)) q1 (leBytes 4 (BitVec.toNat ((n1.core 0).rd 4))) z2 = (false, z3)) ∧
    -- stsh
    ((st m1).chip.prepared 0 false = some n1 ∧ (n1.core 0).takes 0 = true ∧ 0 < 8 ∧
      ∃ q1 z1, checkAccess 0 Use.store ((n1.core 0).sbase + BitVec.zeroExtend 32 (4 : BitVec 16)) 2 false n1 = (Except.ok q1, z1) ∧
      z1.accessWaits 0 true q1 = false ∧
      ∃ z2, fireWatch 0 Use.store ((n1.core 0).sbase + BitVec.zeroExtend 32 (4 : BitVec 16)) 2 z1 = (Fired.no, z2) ∧
      ∃ z3, finishStore 0 ((n1.core 0).sbase + BitVec.zeroExtend 32 (4 : BitVec 16)) q1 (leBytes 2 (BitVec.toNat ((n1.core 0).rd 4))) z2 = (false, z3)) ∧
    -- ldsw
    ((st m8).chip.prepared 8 false = some n8 ∧ (n8.core 8).takes 0 = true ∧ 8 ≤ 8 ∧
      ∃ z1, fireWatch 8 Use.load (BitVec.zeroExtend 32 (4 : BitVec 16)) 4 n8 = (Fired.no, z1) ∧
      ∃ q2 z2, finishLoad 8 (BitVec.zeroExtend 32 (4 : BitVec 16)) (List.map (fun p => ((⟨(ownRam 8).fst + BitVec.toNat p.fst, false, false⟩ : Phys), p.snd)) (pieces (BitVec.zeroExtend 32 (4 : BitVec 16)) 4)) z1 = (Loaded.value q2, z2)) ∧
    -- ldshu
    ((st m8).chip.prepared 8 false = some n8 ∧ (n8.core 8).takes 0 = true ∧ 8 ≤ 8 ∧
      ∃ z1, fireWatch 8 Use.load (BitVec.zeroExtend 32 (4 : BitVec 16)) 2 n8 = (Fired.no, z1) ∧
      ∃ q2 z2, finishLoad 8 (BitVec.zeroExtend 32 (4 : BitVec 16)) (List.map (fun p => ((⟨(ownRam 8).fst + BitVec.toNat p.fst, false, false⟩ : Phys), p.snd)) (pieces (BitVec.zeroExtend 32 (4 : BitVec 16)) 2)) z1 = (Loaded.value q2, z2)) ∧
    -- stsw
    ((st m8).chip.prepared 8 false = some n8 ∧ (n8.core 8).takes 0 = true ∧ 8 ≤ 8 ∧
      n8.accessWaits 8 true (List.map (fun p => ((⟨(ownRam 8).fst + BitVec.toNat p.fst, false, false⟩ : Phys), p.snd)) (pieces (BitVec.zeroExtend 32 (4 : BitVec 16)) 4)) = false ∧
      ∃ z1, fireWatch 8 Use.store (BitVec.zeroExtend 32 (4 : BitVec 16)) 4 n8 = (Fired.no, z1) ∧
      ∃ z2, finishStore 8 (BitVec.zeroExtend 32 (4 : BitVec 16)) (List.map (fun p => ((⟨(ownRam 8).fst + BitVec.toNat p.fst, false, false⟩ : Phys), p.snd)) (pieces (BitVec.zeroExtend 32 (4 : BitVec 16)) 4)) (leBytes 4 (BitVec.toNat ((n8.core 8).rd 2))) z1 = (false, z2)) ∧
    -- stsh
    ((st m8).chip.prepared 8 false = some n8 ∧ (n8.core 8).takes 0 = true ∧ 8 ≤ 8 ∧
      n8.accessWaits 8 true (List.map (fun p => ((⟨(ownRam 8).fst + BitVec.toNat p.fst, false, false⟩ : Phys), p.snd)) (pieces (BitVec.zeroExtend 32 (4 : BitVec 16)) 2)) = false ∧
      ∃ z1, fireWatch 8 Use.store (BitVec.zeroExtend 32 (4 : BitVec 16)) 2 n8 = (Fired.no, z1) ∧
      ∃ z2, finishStore 8 (BitVec.zeroExtend 32 (4 : BitVec 16)) (List.map (fun p => ((⟨(ownRam 8).fst + BitVec.toNat p.fst, false, false⟩ : Phys), p.snd)) (pieces (BitVec.zeroExtend 32 (4 : BitVec 16)) 2)) (leBytes 2 (BitVec.toNat ((n8.core 8).rd 2))) z1 = (false, z2)) :=
  ⟨by refine ⟨prep_eq ?_, ?_, ?_, ⟨_, _, okPair ?_, ?_, ⟨_, fstPair ?_, ⟨_, _, valuePair ?_⟩⟩⟩⟩ <;> decide +kernel,
    by refine ⟨prep_eq ?_, ?_, ?_, ⟨_, _, okPair ?_, ?_, ⟨_, fstPair ?_, ⟨_, _, valuePair ?_⟩⟩⟩⟩ <;> decide +kernel,
    by refine ⟨prep_eq ?_, ?_, ?_, ⟨_, _, okPair ?_, ?_, ⟨_, fstPair ?_, ⟨_, fstPair ?_⟩⟩⟩⟩ <;> decide +kernel,
    by refine ⟨prep_eq ?_, ?_, ?_, ⟨_, _, okPair ?_, ?_, ⟨_, fstPair ?_, ⟨_, fstPair ?_⟩⟩⟩⟩ <;> decide +kernel,
    by refine ⟨prep_eq ?_, ?_, ?_, ⟨_, fstPair ?_, ⟨_, _, valuePair ?_⟩⟩⟩ <;> decide +kernel,
    by refine ⟨prep_eq ?_, ?_, ?_, ⟨_, fstPair ?_, ⟨_, _, valuePair ?_⟩⟩⟩ <;> decide +kernel,
    by refine ⟨prep_eq ?_, ?_, ?_, ?_, ⟨_, fstPair ?_, ⟨_, fstPair ?_⟩⟩⟩ <;> decide +kernel,
    by refine ⟨prep_eq ?_, ?_, ?_, ?_, ⟨_, fstPair ?_, ⟨_, fstPair ?_⟩⟩⟩ <;> decide +kernel⟩

/-- states and operands that meet the hypotheses of `Obligations.FencesAndPipeline`, clause by clause -/
theorem witness_FencesAndPipeline_1 :
    -- fenceS, fenceF
    (s1.chip.prepared 0 false = some d1 ∧ (d1.core 0).takes 0 = true ∧ 0 < 8) ∧
    -- fenceIo
    (s1.chip.prepared 0 false = some d1 ∧ (d1.core 0).takes 0 = true ∧ d1.enableWaits 0 = false) ∧
    -- isync
    (s1.chip.prepared 0 false = some d1 ∧ (d1.core 0).takes 0 = true) ∧
    -- fenceS, fenceF
    ((st m8).chip.prepared 8 false = some n8 ∧ (n8.core 8).takes 0 = true ∧ 8 ≤ 8 ∧ n8.enableWaits 8 = false) ∧
    -- fenceIo
    ((st m8).chip.prepared 8 false = some n8 ∧ (n8.core 8).takes 0 = true ∧ n8.enableWaits 8 = false) ∧
    -- isync
    ((st m8).chip.prepared 8 false = some n8 ∧ (n8.core 8).takes 0 = true) ∧
    -- loadDataReturn
    (((st b8).chip.core 8).loadHeld = true) ∧
    -- storeAck
    (((st b8).chip.core 8).posted = ((st b8).chip.core 8).posted.head (by decide +kernel) :: ((st b8).chip.core 8).posted.tail ∧
      ((((st b8).chip.core 8).posted.head (by decide +kernel)).enable = false ∨ (st b8).chip.enableWaits 8 = false)) ∧
    -- fetchLineRead
    ((8 < 8 ∨ (st b8).chip.canRun 8 = false ∨ ¬536870981 &&& ~~~31 ∈ ((st b8).chip.core 8).fetchLines)) :=
  ⟨by refine ⟨prep_eq ?_, ?_, ?_⟩ <;> decide +kernel,
    by refine ⟨prep_eq ?_, ?_, ?_⟩ <;> decide +kernel,
    ⟨prep_eq (by decide +kernel), by decide +kernel⟩,
    by refine ⟨prep_eq ?_, ?_, ?_, ?_⟩ <;> decide +kernel,
    by refine ⟨prep_eq ?_, ?_, ?_⟩ <;> decide +kernel,
    ⟨prep_eq (by decide +kernel), by decide +kernel⟩,
    by and_intros <;> decide +kernel⟩

/-- states and operands that meet the hypotheses of `Obligations.ReturnFromException`, clause by clause -/
theorem witness_ReturnFromException :
    -- eret
    ((st er).chip.prepared 0 false = some (prep er 0 false) ∧ ((prep er 0 false).core 0).takes 0 = true ∧ ((prep er 0 false).core 0).slot = none ∧
      ((prep er 0 false).core 0).sup = true ∧ ((prep er 0 false).core 0).dbg.stepping = false ∧ ((prep er 0 false).core 0).dbg.haltHit = none) :=
  by refine ⟨prep_eq ?_, ?_, ?_, ?_, ?_, ?_⟩ <;> decide +kernel

/-- states and operands that meet the hypotheses of `Obligations.ControlRegisterUse`, clause by clause -/
theorem witness_ControlRegisterUse :
    -- csrw, csrs, csrc
    ((st us).chip.prepared 0 false = some (prep us 0 false) ∧ ((prep us 0 false).core 0).takes 0 = true ∧ ((prep us 0 false).core 0).sup = false ∧
      csrAssigned 0 = true) ∧
    -- csrr
    ((st us).chip.prepared 0 false = some (prep us 0 false) ∧ ((prep us 0 false).core 0).takes 0 = true ∧ ((prep us 0 false).core 0).sup = false ∧
      csrAssigned 0 = true ∧ csrUser ((st us).chip.core 0) 0 = false) ∧
    -- eret
    ((st us).chip.prepared 0 false = some (prep us 0 false) ∧ ((prep us 0 false).core 0).takes 0 = true ∧ ((prep us 0 false).core 0).sup = false ∧
      ((prep us 0 false).core 0).slot = none) ∧
    -- wait, regsync, cline
    ((st us).chip.prepared 0 false = some (prep us 0 false) ∧ ((prep us 0 false).core 0).takes 0 = true ∧ ((prep us 0 false).core 0).sup = false) ∧
    -- csrr, csrw, csrs, csrc
    (s1.chip.prepared 0 false = some d1 ∧ (d1.core 0).takes 0 = true ∧ csrAssigned 1023 = false) ∧
    -- csrr
    (s1.chip.prepared 0 false = some d1 ∧ csrAssigned 8 = true ∧ ((d1.core 0).sup = true ∨ csrUser (s1.chip.core 0) 8 = true)) ∧
    -- csrw, csrs, csrc
    (s1.chip.prepared 0 false = some d1 ∧ csrAssigned 8 = true ∧ (d1.core 0).sup = true) :=
  ⟨by refine ⟨prep_eq ?_, ?_, ?_, ?_⟩ <;> decide +kernel,
    by refine ⟨prep_eq ?_, ?_, ?_, ?_, ?_⟩ <;> decide +kernel,
    by refine ⟨prep_eq ?_, ?_, ?_, ?_⟩ <;> decide +kernel,
    by refine ⟨prep_eq ?_, ?_, ?_⟩ <;> decide +kernel,
    by refine ⟨prep_eq ?_, ?_, ?_⟩ <;> decide +kernel,
    by refine ⟨prep_eq ?_, ?_, ?_⟩ <;> decide +kernel,
    by refine ⟨prep_eq ?_, ?_, ?_⟩ <;> decide +kernel⟩

/-- states and operands that meet the hypotheses of `Obligations.SystemInstructionResults`, clause by clause -/
theorem witness_SystemInstructionResults :
    -- regsync
    (s1.chip.prepared 0 false = some d1 ∧ (d1.core 0).takes 0 = true ∧ (d1.core 0).sup = true) ∧
    -- wait
    (s1.chip.prepared 0 false = some d1 ∧ (d1.core 0).takes 0 = true ∧ (d1.core 0).sup = true ∧ coreIrq 0 d1 = false) ∧
    -- cline
    (s1.chip.prepared 0 false = some d1 ∧ (d1.core 0).takes 0 = true ∧ ((d1.core 0).sup = true ∨ 0 = 0) ∧ 0 < 8 ∧ 0 ≠ 3 ∧
      ∃ z1, clineAt 0 1 d1 = (none, z1)) ∧
    -- rdpm, syscall
    (s1.chip.prepared 0 false = some d1 ∧ (d1.core 0).takes 0 = true) ∧
    -- regsync
    ((st ir).chip.prepared 0 false = some (prep ir 0 false) ∧ ((prep ir 0 false).core 0).takes 0 = true ∧ ((prep ir 0 false).core 0).sup = true) ∧
    -- wait
    ((st ir).chip.prepared 0 false = some (prep ir 0 false) ∧ ((prep ir 0 false).core 0).takes 0 = true ∧ ((prep ir 0 false).core 0).sup = true ∧
      coreIrq 0 (prep ir 0 false) = true) ∧
    -- cline
    ((st ir).chip.prepared 0 false = some (prep ir 0 false) ∧ ((prep ir 0 false).core 0).takes 0 = true ∧
      (((prep ir 0 false).core 0).sup = true ∨ 1 = 0) ∧ 0 < 8 ∧ 1 ≠ 3 ∧ ∃ z1, clineAt 0 1 (prep ir 0 false) = (none, z1)) ∧
    -- rdpm, syscall
    ((st ir).chip.prepared 0 false = some (prep ir 0 false) ∧ ((prep ir 0 false).core 0).takes 0 = true) :=
  ⟨by refine ⟨prep_eq ?_, ?_, ?_⟩ <;> decide +kernel,
    by refine ⟨prep_eq ?_, ?_, ?_, ?_⟩ <;> decide +kernel,
    by refine ⟨prep_eq ?_, ?_, ?_, ?_, ?_, ⟨_, fstPair ?_⟩⟩ <;> decide +kernel,
    ⟨prep_eq (by decide +kernel), by decide +kernel⟩,
    by refine ⟨prep_eq ?_, ?_, ?_⟩ <;> decide +kernel,
    by refine ⟨prep_eq ?_, ?_, ?_, ?_⟩ <;> decide +kernel,
    by refine ⟨prep_eq ?_, ?_, ?_, ?_, ?_, ⟨_, fstPair ?_⟩⟩ <;> decide +kernel,
    ⟨prep_eq (by decide +kernel), by decide +kernel⟩⟩

/-- states and operands that meet the hypotheses of `Obligations.InterruptEntry`, clause by clause -/
theorem witness_InterruptEntry :
    -- interruptEntry, add, lw, sw, b, eret, wait, illegalInstruction
    ((st ie).chip.coreFree 0 = true ∧ ((st ie).chip.core 0).slot = none ∧ (st ie).chip.drawingOn 0 = false ∧
      ((st ie).chip.core 0).dbg.stepping = false ∧ ((st ie).chip.core 0).dbg.haltHit = none ∧ ((st ie).chip.core 0).dbg.haltReq = false ∧
      ((st ie).chip.core 0).busErrs = [] ∧ coreIrq 0 (st ie).chip = true ∧ ((st ie).chip.core 0).waiting = false ∧
      ((st ie).chip.core 0).status.bit 1 = true) ∧
    -- storeBusErrorReport
    ((st ib).chip.coreFree 0 = true ∧ ((st ib).chip.core 0).slot = none ∧ (st ib).chip.drawingOn 0 = false ∧
      ((st ib).chip.core 0).dbg.stepping = false ∧ ((st ib).chip.core 0).dbg.haltHit = none ∧ ((st ib).chip.core 0).dbg.haltReq = false ∧
      ((st ib).chip.core 0).busErrs = ((st ib).chip.core 0).busErrs.head (by decide +kernel) :: ((st ib).chip.core 0).busErrs.tail) ∧
    -- interruptEntry, add, lw, sw, b, eret, wait, illegalInstruction
    ((st ib).chip.coreFree 0 = true ∧ ((st ib).chip.core 0).slot = none ∧ (st ib).chip.drawingOn 0 = false ∧
      ((st ib).chip.core 0).dbg.stepping = false ∧ ((st ib).chip.core 0).dbg.haltHit = none ∧ ((st ib).chip.core 0).dbg.haltReq = false ∧
      ((st ib).chip.core 0).busErrs = ((st ib).chip.core 0).busErrs.head (by decide +kernel) :: ((st ib).chip.core 0).busErrs.tail ∧
      ((st ib).chip.core 0).waiting = false) ∧
    -- interruptEntry, add, lw, sw, b, eret, wait, illegalInstruction
    ((st ih).chip.coreFree 0 = true ∧ ((st ih).chip.core 0).slot = none ∧ (st ih).chip.drawingOn 0 = false ∧
      ((st ih).chip.core 0).dbg.stepping = false ∧ ((st ih).chip.core 0).dbg.haltHit = none ∧ ((st ih).chip.core 0).waiting = false ∧
      ((st ih).chip.core 0).dbg.haltReq = true) ∧
    -- waitResume
    ((st w1).chip.coreFree 0 = true ∧ ((st w1).chip.core 0).slot = none ∧ (st w1).chip.drawingOn 0 = false ∧
      ((st w1).chip.core 0).dbg.stepping = false ∧ ((st w1).chip.core 0).dbg.haltHit = none ∧ ((st w1).chip.core 0).dbg.haltReq = false ∧
      ((st w1).chip.core 0).busErrs = [] ∧ coreIrq 0 (st w1).chip = true ∧ ((st w1).chip.core 0).waiting = true ∧
      ((st w1).chip.core 0).status.bit 1 = true) :=
  by and_intros <;> decide +kernel

/-- states and operands that meet the hypotheses of `Obligations.HintsIllegalWordsAndOverflow`, clause by clause -/
theorem witness_HintsIllegalWordsAndOverflow :
    -- nop, prefetch
    (s1.chip.prepared 0 false = some d1) ∧
    -- illegalInstruction
    (s1.chip.prepared 0 false = some d1 ∧ (d1.core 0).takes (BitVec.extractLsb' 28 4 (67108864 : Word)) = true ∧ (d1.core 0).slot = none ∧
      Word.bits 67108864 27 22 < 60) ∧
    -- illegalInstruction
    (s1.chip.prepared 0 false = some d1 ∧ (d1.core 0).takes (BitVec.extractLsb' 28 4 (264241152 : Word)) = true ∧ Word.bits 264241152 27 22 = 63) ∧
    -- pmcOverflow
    (Core.wraps 0 (s1.chip.core 0) 9 = false) :=
  ⟨(prep_eq (by decide +kernel)),
    by refine ⟨prep_eq ?_, ?_, ?_, ?_⟩ <;> decide +kernel,
    by refine ⟨prep_eq ?_, ?_, ?_⟩ <;> decide +kernel,
    by and_intros <;> decide +kernel⟩

end Sys2Proof.Tests.A3

namespace Sys2Proof.Tests.B1

def m8 : Chip := ((regs R 8 [(2, 0xF1F2F3F4)]).setReg SYS_RUN_LO 0x101).setByte 0x1020000004 0x77
def b8 : Chip := m8.modCore 8 fun x => { x with sbuf := [⟨0x1020000010, 15, 0xAABBCCDD⟩], posted := [⟨true, false, []⟩], loadHeld := true }
def sl0 : Chip := (regs R 8 [(1, 0x2045), (2, 0x77)]).setReg SYS_RUN_LO 0x101
def w1 : Chip := (regs R 0 [])
def s8 : Chip := sl0.modCore 8 fun x => { x with status := 0x11 }
def lu : LineUnit := ⟨4, 0, false, 4, 4, true, 0, 9, 0, 0x11223344, 0x99, false, false, false, false, 3, [(5, 0x55), (0x200, 0x66)], [], []⟩
def cm : Composer := ⟨[(3, 5)], some lu, none, 0, false⟩
def s8a : Chip := s8.setComp 0 cm
def s8c : Chip := s8.setComp 0 { cm with offered := none, held := none }
def grp0 : Group := ⟨[0, 1], [0, 1], false, 0, 64, 15, false, [], [], []⟩
def s8d : Chip := ((s8.setGrp 0 grp0).setF (OUT_CTL_RUNNING 0) 1)
def s8e (h : LineUnit) : Chip := s8d.setComp 0 { cm with offered := none, held := some h }
def pr (c : Chip) := prep c 8 false
def w2 : Chip := (s8e lu)

/-- states and operands that meet the hypotheses of `Obligations.FencesAndPipeline`, clause by clause -/
theorem witness_FencesAndPipeline_2 :
    -- storeBufferDrain
    (((st b8).chip.core 8).sbuf = ((st b8).chip.core 8).sbuf.head (by decide +kernel) :: ((st b8).chip.core 8).sbuf.tail ∧
      (((st b8).chip.core 8).sbuf.head (by decide +kernel)).mask = 15 ∧ inOwnRam 8 (((st b8).chip.core 8).sbuf.head (by decide +kernel)).pa = true ∧
      (((st b8).chip.core 8).sbuf.head (by decide +kernel)).pa % 4 = 0 ∧
      (st b8).chip.reachable 8 (((st b8).chip.core 8).sbuf.head (by decide +kernel)).pa ((st b8).chip.region 8 (((st b8).chip.core 8).sbuf.head (by decide +kernel)).pa) = true) :=
  by and_intros <;> decide +kernel

/-- states and operands that meet the hypotheses of `Obligations.CoprocessorExceptions`, clause by clause -/
theorem witness_CoprocessorExceptions :
    -- lnext, lstat, ldead, mtx, mfx, lset, lget, lgetr, lput, lclose, ldraw, lend
    ((st w1).chip.prepared 0 false = some (prep R 0 false) ∧ ((prep R 0 false).core 0).takes 0 = true ∧
      (Core.kind 0 = 1 → ((prep R 0 false).core 0).status.bit 4 = false)) ∧
    -- vadd, vsub, vmul, vmac, vminmax, vunary, vdiv, vcvtf, vcvti, viadd, vlogic, vshi, vcmp, vsel, vbcast, vins, vext, vtrn, vsin, vld, vst, vgath, vbiq, vgen, dyn, snext, sstat, sout, sin, sbar, send
    ((st w1).chip.prepared 0 false = some (prep R 0 false) ∧ ((prep R 0 false).core 0).takes 0 = true ∧
      (Core.kind 0 = 2 → ((prep R 0 false).core 0).status.bit 5 = false)) :=
  ⟨by refine ⟨prep_eq ?_, ?_, ?_⟩ <;> decide +kernel,
    by refine ⟨prep_eq ?_, ?_, ?_⟩ <;> decide +kernel⟩

/-- states and operands that meet the hypotheses of `Obligations.LineUnits`, clause by clause -/
theorem witness_LineUnits_1 :
    -- lnext
    ((st s8a).chip.prepared 8 false = some (prep s8a 8 false) ∧ ((prep s8a 8 false).core 8).takes 0 = true ∧ Core.kind 8 = 1 ∧
      ((prep s8a 8 false).core 8).status.bit 4 = true ∧ ∃ q1, ((prep s8a 8 false).comp (8 - 8)).offered = some q1 ∧
      (((prep s8a 8 false).comp (8 - 8)).held = none ∨ ∃ h', ((prep s8a 8 false).comp (8 - 8)).held = some h' ∧ h'.abandoned = true)) ∧
    -- lstat, mtx, mfx
    ((st s8a).chip.prepared 8 false = some (prep s8a 8 false) ∧ ((prep s8a 8 false).core 8).takes 0 = true ∧ Core.kind 8 = 1 ∧
      ((prep s8a 8 false).core 8).status.bit 4 = true) ∧
    -- ldead
    ((st s8a).chip.prepared 8 false = some (prep s8a 8 false) ∧ ((prep s8a 8 false).core 8).takes 0 = true ∧ Core.kind 8 = 1 ∧
      ((prep s8a 8 false).core 8).status.bit 4 = true ∧ ((prep s8a 8 false).comp (8 - 8)).held = none) ∧
    -- lnext
    ((st s8c).chip.prepared 8 false = some (prep s8c 8 false) ∧ ((prep s8c 8 false).core 8).takes 0 = true ∧ Core.kind 8 = 1 ∧
      ((prep s8c 8 false).core 8).status.bit 4 = true ∧ ((prep s8c 8 false).comp (8 - 8)).offered = none) ∧
    -- lnext
    ((st w2).chip.prepared 8 false = some (pr (s8e lu)) ∧ ((pr (s8e lu)).core 8).takes 0 = true ∧ Core.kind 8 = 1 ∧
      ((pr (s8e lu)).core 8).status.bit 4 = true ∧ ((pr (s8e lu)).comp (8 - 8)).offered = none) ∧
    -- lstat, mtx, mfx
    ((st w2).chip.prepared 8 false = some (pr (s8e lu)) ∧ ((pr (s8e lu)).core 8).takes 0 = true ∧ Core.kind 8 = 1 ∧
      ((pr (s8e lu)).core 8).status.bit 4 = true) ∧
    -- ldead
    ((st w2).chip.prepared 8 false = some (pr (s8e lu)) ∧ ((pr (s8e lu)).core 8).takes 0 = true ∧ Core.kind 8 = 1 ∧
      ((pr (s8e lu)).core 8).status.bit 4 = true ∧ ∃ q1, ((pr (s8e lu)).comp (8 - 8)).held = some q1 ∧ ∃ q2, (pr (s8e lu)).groupOf (8 - 8) = some q2 ∧
      (pr (s8e lu)).running q2 = true) ∧
    -- lset
    ((st w2).chip.prepared 8 false = some (pr (s8e lu)) ∧ ((pr (s8e lu)).core 8).takes 0 = true ∧ Core.kind 8 = 1 ∧
      ((pr (s8e lu)).core 8).status.bit 4 = true ∧ ∃ q1, ((pr (s8e lu)).comp (8 - 8)).held = some q1 ∧ q1.abandoned = false ∧ q1.drawn = false ∧
      pidxWritable ((((pr (s8e lu)).core 8).rd 1).bits 9 0) = true) ∧
    -- lget
    ((st w2).chip.prepared 8 false = some (pr (s8e lu)) ∧ ((pr (s8e lu)).core 8).takes 0 = true ∧ Core.kind 8 = 1 ∧
      ((pr (s8e lu)).core 8).status.bit 4 = true ∧ ∃ q1, ((pr (s8e lu)).comp (8 - 8)).held = some q1 ∧
      sget (fun x => false) q1.mark ((((pr (s8e lu)).core 8).rd 2).bits 9 0) = false) ∧
    -- lgetr
    ((st w2).chip.prepared 8 false = some (pr (s8e lu)) ∧ ((pr (s8e lu)).core 8).takes 0 = true ∧ Core.kind 8 = 1 ∧
      ((pr (s8e lu)).core 8).status.bit 4 = true ∧ ∃ q1, ((pr (s8e lu)).comp (8 - 8)).held = some q1 ∧ 7 < 80 ∧
      sget (fun x => false) q1.mark (512 + 7) = false) ∧
    -- lgetr
    ((st w2).chip.prepared 8 false = some (pr (s8e lu)) ∧ ((pr (s8e lu)).core 8).takes 0 = true ∧ Core.kind 8 = 1 ∧
      ((pr (s8e lu)).core 8).status.bit 4 = true ∧ ∃ q1, ((pr (s8e lu)).comp (8 - 8)).held = some q1 ∧ 80 ≤ 80 ∧
      sget (fun x => false) q1.mark (512 + 80) = false) :=
  ⟨by refine ⟨prep_eq ?_, ?_, ?_, ?_, ⟨_, someEq ?_, ?_⟩⟩ <;> decide +kernel,
    by refine ⟨prep_eq ?_, ?_, ?_, ?_⟩ <;> decide +kernel,
    by refine ⟨prep_eq ?_, ?_, ?_, ?_, ?_⟩ <;> decide +kernel,
    by refine ⟨prep_eq ?_, ?_, ?_, ?_, ?_⟩ <;> decide +kernel,
    by refine ⟨prep_eq ?_, ?_, ?_, ?_, ?_⟩ <;> decide +kernel,
    by refine ⟨prep_eq ?_, ?_, ?_, ?_⟩ <;> decide +kernel,
    by refine ⟨prep_eq ?_, ?_, ?_, ?_, ⟨_, someEq ?_, ⟨_, someEq ?_, ?_⟩⟩⟩ <;> decide +kernel,
    by refine ⟨prep_eq ?_, ?_, ?_, ?_, ⟨_, someEq ?_, ?_, ?_, ?_⟩⟩ <;> decide +kernel,
    by refine ⟨prep_eq ?_, ?_, ?_, ?_, ⟨_, someEq ?_, ?_⟩⟩ <;> decide +kernel,
    by refine ⟨prep_eq ?_, ?_, ?_, ?_, ⟨_, someEq ?_, ?_, ?_⟩⟩ <;> decide +kernel,
    by refine ⟨prep_eq ?_, ?_, ?_, ?_, ⟨_, someEq ?_, ?_, ?_⟩⟩ <;> decide +kernel⟩

end Sys2Proof.Tests.B1

namespace Sys2Proof.Tests.B2

def s8 : Chip := ((regs R 8 [(1, 0x2045), (2, 0x77)]).setReg SYS_RUN_LO 0x101).modCore 8 fun x => { x with status := 0x11 }
def lu : LineUnit := ⟨4, 0, false, 4, 4, true, 0, 9, 0, 0x11223344, 0x99, false, false, false, false, 3, [(5, 0x55), (0x200, 0x66)], [], []⟩
def grp0 : Group := ⟨[0, 1], [0, 1], false, 0, 64, 15, false, [], [], []⟩
def base : Chip := (((s8.setGrp 0 grp0).setF (OUT_CTL_RUNNING 0) 1).modOut 0 fun x => { x with timing := { x.timing with vactive := 100 } })
def mk (x : Sparse Word) (h : Option LineUnit) (f : Group → Group) : Chip := (base.modGrp 0 f).setComp 0 ⟨x, none, h, 0, true⟩
def pr (c : Chip) := prep c 8 false
def cA := mk [] none id
def xs : Sparse Word := [(0, 0x005), (1, 0x3FFFFFFF), (2, 0x1), (3, 0x00050006)]
def cB := mk xs (some lu) id
def cC := mk xs (some { lu with lputs := 64 }) id
def cD := mk xs (some lu) fun g => { g with log := List.replicate 512 ⟨0, none, 0, 0, 0, 4, false⟩ }
def cE := mk xs (some { lu with drawn := true, closed := true }) id
def cF := mk xs (some { lu with abandoned := true }) id
def cG := mk xs (some { lu with closed := true }) fun g => { g with closed := [0,1,2,3,4] }

/-- states and operands that meet the hypotheses of `Obligations.LineUnits`, clause by clause -/
theorem witness_LineUnits_2 :
    -- lset, lget, lgetr, lput, lclose, ldraw, lend
    ((st cA).chip.prepared 8 false = some (pr cA) ∧ ((pr cA).core 8).takes 0 = true ∧ Core.kind 8 = 1 ∧ ((pr cA).core 8).status.bit 4 = true ∧
      ((pr cA).comp (8 - 8)).held = none) ∧
    -- lput
    ((st cB).chip.prepared 8 false = some (pr cB) ∧ ((pr cB).core 8).takes 0 = true ∧ Core.kind 8 = 1 ∧ ((pr cB).core 8).status.bit 4 = true ∧
      ∃ q1, ((pr cB).comp (8 - 8)).held = some q1 ∧ ∃ q2, (pr cB).groupOf (8 - 8) = some q2 ∧
      ∃ q3, lputTarget ((pr cB).xreg (8 - 8) (4 * 0 + 0)) ((pr cB).xreg (8 - 8) (4 * 0 + 1)) ((pr cB).xreg (8 - 8) (4 * 0 + 2)) = some q3 ∧
      q1.abandoned = false ∧ q1.closed = false ∧ q1.line ≤ ((pr cB).xreg (8 - 8) (4 * 0 + 3)).bits 13 0 ∧
      ((pr cB).xreg (8 - 8) (4 * 0 + 3)).bits 13 0 ≤ q1.line + 15 ∧
      ((pr cB).xreg (8 - 8) (4 * 0 + 3)).bits 13 0 < ((pr cB).out q1.out).timing.vactive ∧ q1.lputs < ((pr cB).grp q2).lputMax ∧
      ((pr cB).grp q2).log.length < 512) ∧
    -- lclose
    ((st cB).chip.prepared 8 false = some (pr cB) ∧ ((pr cB).core 8).takes 0 = true ∧ Core.kind 8 = 1 ∧ ((pr cB).core 8).status.bit 4 = true ∧
      ∃ q1, ((pr cB).comp (8 - 8)).held = some q1 ∧ ∃ q2, (pr cB).groupOf (8 - 8) = some q2) ∧
    -- lput
    ((st cC).chip.prepared 8 false = some (pr cC) ∧ ((pr cC).core 8).takes 0 = true ∧ Core.kind 8 = 1 ∧ ((pr cC).core 8).status.bit 4 = true ∧
      ∃ q1, ((pr cC).comp (8 - 8)).held = some q1 ∧ ∃ q2, (pr cC).groupOf (8 - 8) = some q2 ∧
      ∃ q3, lputTarget ((pr cC).xreg (8 - 8) (4 * 0 + 0)) ((pr cC).xreg (8 - 8) (4 * 0 + 1)) ((pr cC).xreg (8 - 8) (4 * 0 + 2)) = some q3 ∧
      q1.abandoned = false ∧ q1.closed = false ∧ q1.line ≤ ((pr cC).xreg (8 - 8) (4 * 0 + 3)).bits 13 0 ∧
      ((pr cC).xreg (8 - 8) (4 * 0 + 3)).bits 13 0 ≤ q1.line + 15 ∧
      ((pr cC).xreg (8 - 8) (4 * 0 + 3)).bits 13 0 < ((pr cC).out q1.out).timing.vactive ∧ ((pr cC).grp q2).lputMax ≤ q1.lputs) ∧
    -- lput
    ((st cD).chip.prepared 8 false = some (pr cD) ∧ ((pr cD).core 8).takes 0 = true ∧ Core.kind 8 = 1 ∧ ((pr cD).core 8).status.bit 4 = true ∧
      ∃ q1, ((pr cD).comp (8 - 8)).held = some q1 ∧ ∃ q2, (pr cD).groupOf (8 - 8) = some q2 ∧
      ∃ q3, lputTarget ((pr cD).xreg (8 - 8) (4 * 0 + 0)) ((pr cD).xreg (8 - 8) (4 * 0 + 1)) ((pr cD).xreg (8 - 8) (4 * 0 + 2)) = some q3 ∧
      q1.abandoned = false ∧ q1.closed = false ∧ q1.line ≤ ((pr cD).xreg (8 - 8) (4 * 0 + 3)).bits 13 0 ∧
      ((pr cD).xreg (8 - 8) (4 * 0 + 3)).bits 13 0 ≤ q1.line + 15 ∧
      ((pr cD).xreg (8 - 8) (4 * 0 + 3)).bits 13 0 < ((pr cD).out q1.out).timing.vactive ∧ q1.lputs < ((pr cD).grp q2).lputMax ∧
      512 ≤ ((pr cD).grp q2).log.length) ∧
    -- ldraw
    ((st cE).chip.prepared 8 false = some (pr cE) ∧ ((pr cE).core 8).takes 0 = true ∧ Core.kind 8 = 1 ∧ ((pr cE).core 8).status.bit 4 = true ∧
      ∃ q1, ((pr cE).comp (8 - 8)).held = some q1 ∧ ∃ q2, (pr cE).groupOf (8 - 8) = some q2 ∧ q1.abandoned = false ∧ q1.drawn = true) ∧
    -- lend
    ((st cE).chip.prepared 8 false = some (pr cE) ∧ ((pr cE).core 8).takes 0 = true ∧ Core.kind 8 = 1 ∧ ((pr cE).core 8).status.bit 4 = true ∧
      ∃ q1, ((pr cE).comp (8 - 8)).held = some q1 ∧ ∃ q2, (pr cE).groupOf (8 - 8) = some q2 ∧ (q1.abandoned = true ∨ q1.drawn = true)) ∧
    -- ldraw
    ((st cF).chip.prepared 8 false = some (pr cF) ∧ ((pr cF).core 8).takes 0 = true ∧ Core.kind 8 = 1 ∧ ((pr cF).core 8).status.bit 4 = true ∧
      ∃ q1, ((pr cF).comp (8 - 8)).held = some q1 ∧ ∃ q2, (pr cF).groupOf (8 - 8) = some q2 ∧ q1.abandoned = true) ∧
    -- ldraw, lend
    ((st cG).chip.prepared 8 false = some (pr cG) ∧ ((pr cG).core 8).takes 0 = true ∧ Core.kind 8 = 1 ∧ ((pr cG).core 8).status.bit 4 = true ∧
      ∃ q1, ((pr cG).comp (8 - 8)).held = some q1 ∧ ∃ q2, (pr cG).groupOf (8 - 8) = some q2 ∧ q1.abandoned = false ∧ q1.drawn = false ∧
      ((pr cG).grp q2).belowClosed q1.u = true ∧ q1.closed = true) :=
  ⟨by refine ⟨prep_eq ?_, ?_, ?_, ?_, ?_⟩ <;> decide +kernel,
    by refine ⟨prep_eq ?_, ?_, ?_, ?_, ⟨_, someEq ?_, ⟨_, someEq ?_, ⟨_, someEq ?_, ?_, ?_, ?_, ?_, ?_, ?_, ?_⟩⟩⟩⟩ <;> decide +kernel,
    by refine ⟨prep_eq ?_, ?_, ?_, ?_, ⟨_, someEq ?_, ⟨_, someEq ?_⟩⟩⟩ <;> decide +kernel,
    by refine ⟨prep_eq ?_, ?_, ?_, ?_, ⟨_, someEq ?_, ⟨_, someEq ?_, ⟨_, someEq ?_, ?_, ?_, ?_, ?_, ?_, ?_⟩⟩⟩⟩ <;> decide +kernel,
    by refine ⟨prep_eq ?_, ?_, ?_, ?_, ⟨_, someEq ?_, ⟨_, someEq ?_, ⟨_, someEq ?_, ?_, ?_, ?_, ?_, ?_, ?_, ?_⟩⟩⟩⟩ <;> decide +kernel,
    by refine ⟨prep_eq ?_, ?_, ?_, ?_, ⟨_, someEq ?_, ⟨_, someEq ?_, ?_, ?_⟩⟩⟩ <;> decide +kernel,
    by refine ⟨prep_eq ?_, ?_, ?_, ?_, ⟨_, someEq ?_, ⟨_, someEq ?_, ?_⟩⟩⟩ <;> decide +kernel,
    by refine ⟨prep_eq ?_, ?_, ?_, ?_, ⟨_, someEq ?_, ⟨_, someEq ?_, ?_⟩⟩⟩ <;> decide +kernel,
    by refine ⟨prep_eq ?_, ?_, ?_, ?_, ⟨_, someEq ?_, ⟨_, someEq ?_, ?_, ?_, ?_, ?_⟩⟩⟩ <;> decide +kernel⟩

end Sys2Proof.Tests.B2

namespace Sys2Proof.Tests.B3

def h56 : Chip := ((regs R 56 [(1, 0x1234), (2, 0x47), (4, 0x1001), (5, 0x40)]).setReg SYS_RUN_HI 0x01000001).modCore 56 fun x => { x with status := 0x21 }
def f (x : Nat) : Word := BitVec.ofNat 32 x
def ln (c : Chip) (r : Nat) (l : List Nat) : Chip := c.setLanes 56 r (l.map fun x => ⟨f x, false⟩)
def L1 : Chip := ln (ln (ln h56 2 [0x3F800000, 0xBF800000, 0x40490FDB, 0, 0x80000000, 0x7F000000, 0x00800000, 0x41200000]) 3 [0x40000000,0x3F800000,0x3F000000,1,2,0x7F7FFFFF,0x33800000,0xC1200000]) 1 [0,1,0x80000000,5,0,0x3F800000,0,9]
def d := prep L1 56 false
def L2 : Chip := L1.setLanes 56 2 [⟨1, true⟩, ⟨1, true⟩]

/-- states and operands that meet the hypotheses of `Obligations.LaneInstructions`, clause by clause -/
theorem witness_LaneInstructions :
    -- vadd, vsub, vmul, vdiv, vmac, vunary, vcvtf, vcvti, viadd, vlogic, vshi, vcmp, vsel, vsin, vbcast, vins
    ((st L1).chip.prepared 56 false = some d ∧ (d.core 56).takes 0 = true ∧ Core.kind 56 = 2 ∧ (d.core 56).status.bit 5 = true) ∧
    -- vminmax
    ((st L1).chip.prepared 56 false = some d ∧ (d.core 56).takes 0 = true ∧ Core.kind 56 = 2 ∧ (d.core 56).status.bit 5 = true ∧
      (∀ (j : Nat), j < 8 → F32.isNan (d.lane 56 2 j).val = false ∧ F32.isNan (d.lane 56 3 j).val = false)) ∧
    -- vext
    ((st L1).chip.prepared 56 false = some d ∧ (d.core 56).takes 0 = true ∧ Core.kind 56 = 2 ∧ (d.core 56).status.bit 5 = true ∧
      (d.lane 56 2 5).mark = false) ∧
    -- vtrn
    ((st L1).chip.prepared 56 false = some d ∧ (d.core 56).takes 0 = true ∧ Core.kind 56 = 2 ∧ (d.core 56).status.bit 5 = true ∧
      (1 % 8 ≠ 0 ∨ 2 % 8 ≠ 0 ∨ 1 = 2)) ∧
    -- vtrn
    ((st L1).chip.prepared 56 false = some d ∧ (d.core 56).takes 0 = true ∧ Core.kind 56 = 2 ∧ (d.core 56).status.bit 5 = true ∧ 8 % 8 = 0 ∧
      16 % 8 = 0 ∧ 8 ≠ 16) ∧
    -- vbcast, vins, vunary, vshi
    ((st L2).chip.prepared 56 false = some (prep L2 56 false) ∧ ((prep L2 56 false).core 56).takes 0 = true ∧ Core.kind 56 = 2 ∧
      ((prep L2 56 false).core 56).status.bit 5 = true) ∧
    -- vtrn
    ((st L2).chip.prepared 56 false = some (prep L2 56 false) ∧ ((prep L2 56 false).core 56).takes 0 = true ∧ Core.kind 56 = 2 ∧
      ((prep L2 56 false).core 56).status.bit 5 = true ∧ (8 % 8 ≠ 0 ∨ 2 % 8 ≠ 0 ∨ 8 = 2)) :=
  ⟨by refine ⟨prep_eq ?_, ?_, ?_, ?_⟩ <;> decide +kernel,
    by refine ⟨prep_eq ?_, ?_, ?_, ?_, ?_⟩ <;> decide +kernel,
    by refine ⟨prep_eq ?_, ?_, ?_, ?_, ?_⟩ <;> decide +kernel,
    by refine ⟨prep_eq ?_, ?_, ?_, ?_, ?_⟩ <;> decide +kernel,
    by refine ⟨prep_eq ?_, ?_, ?_, ?_, ?_, ?_, ?_⟩ <;> decide +kernel,
    by refine ⟨prep_eq ?_, ?_, ?_, ?_⟩ <;> decide +kernel,
    by refine ⟨prep_eq ?_, ?_, ?_, ?_, ?_⟩ <;> decide +kernel⟩

end Sys2Proof.Tests.B3

namespace Sys2Proof.Tests.B4

def h56 (l : List (Nat × Word)) : Chip := ((regs R 56 l).setReg SYS_RUN_HI 0x01000001).modCore 56 fun x => { x with status := 0x21 }
def f (x : Nat) : Word := BitVec.ofNat 32 x
def ln (c : Chip) (r : Nat) (l : List Nat) : Chip := c.setLanes 56 r (l.map fun x => ⟨f x, false⟩)
def p (c : Chip) := prep c 56 false
def c1 := (ln (ln (h56 [(4, 0x30000100)]) 2 [0x3F800000, 0xBF800000, 0x40490FDB, 0]) 1 [4,8,1,3,2,0,9,7]).setBytes 0x1030000100 [1,2,3,4,5,6,7,8]
def c3 := (ln (h56 [(4, 0x30000100), (5, 3)]) 2 [0x3F800000, 0xBF800000, 0x40490FDB, 0, 0x40000000]).setBytes 0x1030000100 ((List.range 288).map fun i => BitVec.ofNat 8 (if i % 4 = 3 then 0x3F else i))
def c4 : Chip := (ln c3 3 [0x3F800000, 0xBF800000, 0x40490FDB, 0, 0x40000000]).modDyn 3 fun x => { x with link := true, la := 3, mode := 1, att := 0x3F000000, rel := 0x3E000000, thr := 0x3F000000 }
def v (w0 w1 : Nat) := (h56 [(4, 0x30000100)]).setBytes 0x1030000100 ((List.range 16).flatMap fun i => leBytes 4 (([w0, w1, 100, 0x10000, 0x8000, 0x3F800000,0x3F000000,0,0x3D000000,5,6,7,0,0,0,0]:List Nat).getD i 0))
def w1 : Chip := (v 0 0)

/-- states and operands that meet the hypotheses of `Obligations.VectorMemoryAccesses`, clause by clause -/
theorem witness_VectorMemoryAccesses :
    -- vld
    ((st c1).chip.prepared 56 false = some (p c1) ∧ ((p c1).core 56).takes 0 = true ∧ Core.kind 56 = 2 ∧ ((p c1).core 56).status.bit 5 = true ∧
      ∃ q1 z1, cp2Places 56 Use.load 32 [((p c1).core 56).rd 4] (p c1) = (Except.ok [q1], z1) ∧ z1.accessWaits 56 false [(q1, 32)] = false ∧
      ∃ z2, fireWatches 56 Use.load [((p c1).core 56).rd 4] 32 z1 = (Fired.no, z2) ∧
      (busLoad 56 false (q1).pa 32 (cp2Ready 56 false (q1) z2)).err = false) ∧
    -- vst
    ((st c1).chip.prepared 56 false = some (p c1) ∧ ((p c1).core 56).takes 0 = true ∧ Core.kind 56 = 2 ∧ ((p c1).core 56).status.bit 5 = true ∧
      ∃ q1 z1, cp2Places 56 Use.store 32 [((p c1).core 56).rd 4] (p c1) = (Except.ok [q1], z1) ∧ z1.accessWaits 56 true [(q1, 32)] = false ∧
      ∃ z2, fireWatch 56 Use.store (((p c1).core 56).rd 4) 32 z1 = (Fired.no, z2) ∧ inOwnRam 56 (q1).pa = true) ∧
    -- vgath
    ((st c1).chip.prepared 56 false = some (p c1) ∧ ((p c1).core 56).takes 0 = true ∧ Core.kind 56 = 2 ∧ ((p c1).core 56).status.bit 5 = true ∧
      ∃ q1 z1, cp2Places 56 Use.load 4 (List.map (fun x => ((p c1).core 56).rd 4 + x.val * 4) ((p c1).lanesOf 56 1)) (p c1) = (Except.ok q1, z1) ∧
      z1.accessWaits 56 false (List.map (fun p => (p, 4)) q1) = false ∧
      ∃ z2, fireWatches 56 Use.load (List.map (fun x => ((p c1).core 56).rd 4 + x.val * 4) ((p c1).lanesOf 56 1)) 4 z1 = (Fired.no, z2) ∧
      ∃ q3 z3, cp2Read 56 1 ((List.map (fun x => ((p c1).core 56).rd 4 + x.val * 4) ((p c1).lanesOf 56 1)).zip q1) z2 = (Except.ok q3, z3) ∧
      (∀ (p : Phys), p ∈ q1 → inOwnRam 56 p.pa = true)) :=
  ⟨by refine ⟨prep_eq ?_, ?_, ?_, ?_, ⟨_, _, onePair ?_, ?_, ⟨_, fstPair ?_, ?_⟩⟩⟩ <;> decide +kernel,
    by refine ⟨prep_eq ?_, ?_, ?_, ?_, ⟨_, _, onePair ?_, ?_, ⟨_, fstPair ?_, ?_⟩⟩⟩ <;> decide +kernel,
    by refine ⟨prep_eq ?_, ?_, ?_, ?_, ⟨_, _, okPair ?_, ?_, ⟨_, fstPair ?_, ⟨_, _, okPair ?_, ?_⟩⟩⟩⟩ <;> decide +kernel⟩

/-- states and operands that meet the hypotheses of `Obligations.SoundUnits`, clause by clause -/
theorem witness_SoundUnits :
    -- vbiq
    ((st c3).chip.prepared 56 false = some (p c3) ∧ ((p c3).core 56).takes 0 = true ∧ Core.kind 56 = 2 ∧ ((p c3).core 56).status.bit 5 = true ∧
      ownPlace 56 (((p c3).core 56).rd 4) 288 32 (p c3) = (Except.ok 69524783360, p c3) ∧
      (p c3).reachable 56 69524783360 ((p c3).region 56 69524783360) = true ∧ (p c3).flips = [] ∧ (p c3).poison = [] ∧ (p c3).memc.hard = [] ∧
      (∀ (j : Nat), j < 72 → (p c3).defined (69524783360 + 4 * j) = true) ∧ (∀ (j : Nat), j < 8 → ((p c3).lane 56 2 j).mark = false)) ∧
    -- dyn
    ((st c4).chip.prepared 56 false = some (p c4) ∧ ((p c4).core 56).takes 0 = true ∧ Core.kind 56 = 2 ∧ ((p c4).core 56).status.bit 5 = true ∧
      ((p c4).dynOn ((((p c4).core 56).rd 5).bits 3 0)).link = true ∧ (∀ (i : Nat), i < 8 → ((p c4).lane 56 2 i).mark = false ∧
      ((p c4).lane 56 ((2 + 1) % 32) i).mark = false)) :=
  ⟨by refine ⟨prep_eq ?_, ?_, ?_, ?_, by rfl, ?_, ?_, ?_, ?_, ?_, ?_⟩ <;> decide +kernel,
    by refine ⟨prep_eq ?_, ?_, ?_, ?_, ?_, ?_⟩ <;> decide +kernel⟩

/-- states and operands that meet the hypotheses of `Obligations.VoiceResults`, clause by clause -/
theorem witness_VoiceResults :
    -- vgen
    ((st w1).chip.prepared 56 false = some (p (v 0 0)) ∧ ((p (v 0 0)).core 56).takes 0 = true ∧ Core.kind 56 = 2 ∧
      ((p (v 0 0)).core 56).status.bit 5 = true ∧ ownPlace 56 (((p (v 0 0)).core 56).rd 4) 64 64 (p (v 0 0)) = (Except.ok 69524783360, p (v 0 0)) ∧
      (p (v 0 0)).reachable 56 69524783360 ((p (v 0 0)).region 56 69524783360) = true ∧ (p (v 0 0)).flips = [] ∧ (p (v 0 0)).poison = [] ∧
      (p (v 0 0)).memc.hard = [] ∧ (∀ (j : Nat), j < 16 → (p (v 0 0)).defined (69524783360 + 4 * j) = true) ∧
      (p (v 0 0)).le (69524783360 + 4 * 0) 4 % 8 ≠ 5 ∧
      (openVoice (List.map (fun i => { val := BitVec.ofNat 32 ((p (v 0 0)).le (69524783360 + 4 * i) 4), mark := false }) (List.range 16)) [] (ownRam 56).fst).sounds = false) :=
  by refine ⟨prep_eq ?_, ?_, ?_, ?_, by rfl, ?_, ?_, ?_, ?_, ?_, ?_, ?_⟩ <;> decide +kernel

end Sys2Proof.Tests.B4

namespace Sys2Proof.Tests.B5

def h56 (l : List (Nat × Word)) : Chip := ((regs R 56 l).setReg SYS_RUN_HI 0x01000001).modCore 56 fun x => { x with status := 0x21 }
def f (x : Nat) : Word := BitVec.ofNat 32 x
def p (c : Chip) := prep c 56 false
def r0 : HornRun := ⟨0, 0x123456, false, true, true, 0x1000⟩
def run (hs : List Nat) (bars : Sparse Nat) : BlockRun := ⟨0x123456, false, hs, [], bars, [], (List.range 8).map fun i => (2*64 + 8 + i, some (f (i+9)))⟩
def c0 : Chip := h56 [(4, 0x102)]
def c1 : Chip := c0.modHorn 0 fun u => { u with offers := [r0] }
def c2 : Chip := (c0.modDom 0 fun x => { x with run := true, ctl := 0x200, runs := [run [0] [(0,1)]] }).modHorn 0 fun u => { u with cur := some r0, barred := true }
def c3 : Chip := (c0.modDom 0 fun x => { x with run := true, ctl := 0x200, runs := [run [0,1] [(0,1)]] }).modHorn 0 fun u => { u with cur := some r0, barred := true }

/-- states and operands that meet the hypotheses of `Obligations.RunInstructions`, clause by clause -/
theorem witness_RunInstructions :
    -- snext
    ((st c0).chip.prepared 56 false = some (p c0) ∧ ((p c0).core 56).takes 0 = true ∧ Core.kind 56 = 2 ∧ ((p c0).core 56).status.bit 5 = true ∧
      ((p c0).hornU (56 - 56)).offers = []) ∧
    -- sstat
    ((st c0).chip.prepared 56 false = some (p c0) ∧ ((p c0).core 56).takes 0 = true ∧ Core.kind 56 = 2 ∧ ((p c0).core 56).status.bit 5 = true) ∧
    -- sbar, send, sout
    ((st c0).chip.prepared 56 false = some (p c0) ∧ ((p c0).core 56).takes 0 = true ∧ Core.kind 56 = 2 ∧ ((p c0).core 56).status.bit 5 = true ∧
      ((p c0).hornU (56 - 56)).cur = none) ∧
    -- snext
    ((st c1).chip.prepared 56 false = some (p c1) ∧ ((p c1).core 56).takes 0 = true ∧ Core.kind 56 = 2 ∧ ((p c1).core 56).status.bit 5 = true ∧
      ((p c1).hornU (56 - 56)).offers = ((p c1).hornU (56 - 56)).offers.head (by decide +kernel) :: ((p c1).hornU (56 - 56)).offers.tail ∧
      (((p c1).hornU (56 - 56)).offers.head (by decide +kernel)).dom < 4) ∧
    -- sstat, send
    ((st c2).chip.prepared 56 false = some (p c2) ∧ ((p c2).core 56).takes 0 = true ∧ Core.kind 56 = 2 ∧ ((p c2).core 56).status.bit 5 = true ∧
      ∃ q1, ((p c2).hornU (56 - 56)).cur = some q1) ∧
    -- sbar
    ((st c2).chip.prepared 56 false = some (p c2) ∧ ((p c2).core 56).takes 0 = true ∧ Core.kind 56 = 2 ∧ ((p c2).core 56).status.bit 5 = true ∧
      ∃ q1, ((p c2).hornU (56 - 56)).cur = some q1 ∧ ((p c2).hornU (56 - 56)).barred = true ∧ ∃ q2, (p c2).runOf q1 = some q2 ∧
      (∀ (j : Nat), j ∈ q2.horns → j ∈ q2.ended ∨ q2.barCount (56 - 56) ≤ q2.barCount j)) ∧
    -- sout
    ((st c2).chip.prepared 56 false = some (p c2) ∧ ((p c2).core 56).takes 0 = true ∧ Core.kind 56 = 2 ∧ ((p c2).core 56).status.bit 5 = true ∧
      ∃ q1, ((p c2).hornU (56 - 56)).cur = some q1 ∧ (((p c2).core 56).rd 4).bits 13 8 * 8 < (p c2).blk q1.dom ∧
      (∀ (j : Nat), j < 8 → ((p c2).lane 56 3 j).mark = false)) ∧
    -- sin
    ((st c2).chip.prepared 56 false = some (p c2) ∧ ((p c2).core 56).takes 0 = true ∧ Core.kind 56 = 2 ∧ ((p c2).core 56).status.bit 5 = true ∧
      ∃ q1, ((p c2).hornU (56 - 56)).cur = some q1 ∧ ∃ q2, (p c2).runOf q1 = some q2 ∧ (((p c2).core 56).rd 4).bits 7 0 < 32 ∧
      (((p c2).core 56).rd 4).bits 13 8 * 8 + 8 ≤ (p c2).blk q1.dom ∧
      (∀ (j : Nat), j < 8 → sget noSample q2.input ((((p c2).core 56).rd 4).bits 7 0 * 64 + (((p c2).core 56).rd 4).bits 13 8 * 8 + j) ≠ none)) ∧
    -- sbar
    ((st c3).chip.prepared 56 false = some (p c3) ∧ ((p c3).core 56).takes 0 = true ∧ Core.kind 56 = 2 ∧ ((p c3).core 56).status.bit 5 = true ∧
      ∃ q1, ((p c3).hornU (56 - 56)).cur = some q1 ∧ ((p c3).hornU (56 - 56)).barred = true ∧ ∃ q2, (p c3).runOf q1 = some q2 ∧ (∃ j, j ∈ q2.horns ∧
      ¬j ∈ q2.ended ∧ q2.barCount j < q2.barCount (56 - 56))) :=
  ⟨by refine ⟨prep_eq ?_, ?_, ?_, ?_, ?_⟩ <;> decide +kernel,
    by refine ⟨prep_eq ?_, ?_, ?_, ?_⟩ <;> decide +kernel,
    by refine ⟨prep_eq ?_, ?_, ?_, ?_, ?_⟩ <;> decide +kernel,
    by refine ⟨prep_eq ?_, ?_, ?_, ?_, ?_, ?_⟩ <;> decide +kernel,
    by refine ⟨prep_eq ?_, ?_, ?_, ?_, ⟨_, someEq ?_⟩⟩ <;> decide +kernel,
    by refine ⟨prep_eq ?_, ?_, ?_, ?_, ⟨_, someEq ?_, ?_, ⟨_, someEq ?_, ?_⟩⟩⟩ <;> decide +kernel,
    by refine ⟨prep_eq ?_, ?_, ?_, ?_, ⟨_, someEq ?_, ?_, ?_⟩⟩ <;> decide +kernel,
    by refine ⟨prep_eq ?_, ?_, ?_, ?_, ⟨_, someEq ?_, ⟨_, someEq ?_, ?_, ?_, ?_⟩⟩⟩ <;> decide +kernel,
    by refine ⟨prep_eq ?_, ?_, ?_, ?_, ⟨_, someEq ?_, ?_, ⟨_, someEq ?_, ?_⟩⟩⟩ <;> decide +kernel⟩

end Sys2Proof.Tests.B5

namespace Sys2Proof.Tests.C1

def r : Chip := { R with count := 100000 }
def m0 : Chip := (r.setF MEM_CTL_SCRUB_EN 1).setF MEM_DLT_SEL_ARRAY 0x20
def m1 : Chip := ({ m0 with memc := { m0.memc with training := some (some 0) } }.setF DRAMC_CONFIG_CAP 1).setF DRAMC_STATUS_TRAINED 15
def r0 : Chip := r.setF MEM_CTL_EMERG 0
def w5 : Chip := { m0 with memc := { m0.memc with scrubPos := 2359300 } }
def w6 : Chip := { w5 with memc := { w5.memc with waiting := [(0x20, [⟨50, 70, false, false, true, true, 0x1000000020, [1,2,3,4]⟩])] } }
def m3 : Chip := { r0 with memc := { r0.memc with grant := [(0x20, some ⟨70, 100, 0, some ⟨50, 70, false, false, true, true, 0x1000000020, [1,2,3,4]⟩, false⟩)] } }

/-- states and operands that meet the hypotheses of `Obligations.PostmarkEvents`, clause by clause -/
theorem witness_PostmarkEvents :
    -- postNowLoRead
    ((st r).chip.answersRead 0 POST_NOW_LO = true) ∧
    -- replicaCheck
    (Int.natAbs 0 ≤ (st r).chip.tolerance ∧ ↑(st r).chip.now + 0 ≥ ↑(BitVec.toNat ((st r).chip.replica 3)) ∧ ↑(st r).chip.now + 0 < 2 ^ 64) ∧
    -- replicaCheck
    ((st r).chip.now + Int.natAbs 0 < 2 ^ 64) ∧
    -- epochCrossing
    (((st r).chip.now / 2 ^ 48 + 1) * 2 ^ 48 < 2 ^ 64) ∧
    -- replicaCheck
    ((st r).chip.tolerance < Int.natAbs 9) ∧
    -- replicaCheck
    ((st r).chip.tolerance < (-9).natAbs) ∧
    -- replicaCheck
    ((st r).chip.now + (-9).natAbs < 2 ^ 64) :=
  by and_intros <;> decide +kernel

/-- states and operands that meet the hypotheses of `Obligations.MemoryUpkeep`, clause by clause -/
theorem witness_MemoryUpkeep_1 :
    -- scrubRead
    ((st w5).chip.mainRuns = true ∧ (st w5).chip.fb MEM_CTL_SCRUB_EN = true ∧
      ∃ a b e, (st w5).chip.scrubNext 130 (st w5).chip.memc.scrubPos = some (a, b, e) ∧
      (st w5).chip.arbiterIdle (((st w5).chip.scrubNext 130 (st w5).chip.memc.scrubPos).get (by decide +kernel)).snd.fst = true ∧
      32 ≤ (((st w5).chip.scrubNext 130 (st w5).chip.memc.scrubPos).get (by decide +kernel)).snd.fst ∧
      (st w5).chip.defined (arrayWord (((st w5).chip.scrubNext 130 (st w5).chip.memc.scrubPos).get (by decide +kernel)).snd.fst (((st w5).chip.scrubNext 130 (st w5).chip.memc.scrubPos).get (by decide +kernel)).snd.snd).snd = true ∧
      (st w5).chip.poisoned (arrayWord (((st w5).chip.scrubNext 130 (st w5).chip.memc.scrubPos).get (by decide +kernel)).snd.fst (((st w5).chip.scrubNext 130 (st w5).chip.memc.scrubPos).get (by decide +kernel)).snd.snd).snd = false ∧
      sget noErr (st w5).chip.flips (arrayWord (((st w5).chip.scrubNext 130 (st w5).chip.memc.scrubPos).get (by decide +kernel)).snd.fst (((st w5).chip.scrubNext 130 (st w5).chip.memc.scrubPos).get (by decide +kernel)).snd.snd).snd = { data := 0, chk := 0 } ∧
      (st w5).chip.stuck (arrayWord (((st w5).chip.scrubNext 130 (st w5).chip.memc.scrubPos).get (by decide +kernel)).snd.fst (((st w5).chip.scrubNext 130 (st w5).chip.memc.scrubPos).get (by decide +kernel)).snd.snd).fst (arrayWord (((st w5).chip.scrubNext 130 (st w5).chip.memc.scrubPos).get (by decide +kernel)).snd.fst (((st w5).chip.scrubNext 130 (st w5).chip.memc.scrubPos).get (by decide +kernel)).snd.snd).snd = false) ∧
    -- scrubRead
    ((st w6).chip.mainRuns = true ∧ (st w6).chip.fb MEM_CTL_SCRUB_EN = true ∧
      ∃ a b e, (st w6).chip.scrubNext 130 (st w6).chip.memc.scrubPos = some (a, b, e) ∧
      (st w6).chip.arbiterIdle (((st w6).chip.scrubNext 130 (st w6).chip.memc.scrubPos).get (by decide +kernel)).snd.fst = false) ∧
    -- scrubPassOverrun
    ((st m0).chip.mainRuns = true ∧ ((st m0).chip.fb MEM_CTL_SCRUB_EN || (st m0).chip.fb DRAMC_CONFIG_SCRUB_EN) = true) ∧
    -- dramcEnable
    ((st m0).chip.takesWrite 0 DRAMC_CONFIG = true ∧ ((st m0).chip.reg DRAMC_CONFIG).bit 31 = false) ∧
    -- dramTrainingDone
    ((st m1).chip.memc.training.isSome = true ∧ (st m1).chip.channelsOut [] = []) ∧
    -- dramTrainingDone
    ((st m1).chip.memc.training.isSome = true ∧ (st m1).chip.channelsOut [2] = [((st m1).chip.channelsOut [2]).head (by decide +kernel)]) ∧
    -- dramTrainingDone
    ((st m1).chip.memc.training.isSome = true ∧ 2 ≤ ((st m1).chip.channelsOut [1, 3]).length) ∧
    -- dramChannelFail
    (((st m1).chip.reg DRAMC_STATUS).bit 2 = true) :=
  ⟨by refine ⟨?_, ?_, ⟨_, _, _, someEq ?_, ?_, ?_, ?_, ?_, ?_, ?_⟩⟩ <;> decide +kernel,
    by refine ⟨?_, ?_, ⟨_, _, _, someEq ?_, ?_⟩⟩ <;> decide +kernel,
    by and_intros <;> decide +kernel⟩

/-- states and operands that meet the hypotheses of `Obligations.ArbiterOrder`, clause by clause -/
theorem witness_ArbiterOrder :
    -- arbiterGrant
    (∃ q1, (st m3).chip.grantAt 32 = some q1 ∧ ∃ q2, q1.cur = some q2 ∧ (st m3).chip.fb MEM_CTL_EMERG = false ∧ (st m3).chip.waitingAt 32 = []) ∧
    -- hogCutoff
    (∃ q1, (st m3).chip.grantAt 32 = some q1 ∧ ∃ q2, q1.cur = some q2 ∧ (st m3).chip.fb MEM_CTL_HOG = true ∧ 64 ≤ q1.origin ∧ q1.origin ≤ 96) ∧
    -- hogCutoff
    ((st r0).chip.grantAt 32 = none) :=
  ⟨by refine ⟨_, someEq ?_, ⟨_, someEq ?_, ?_, ?_⟩⟩ <;> decide +kernel,
    by refine ⟨_, someEq ?_, ⟨_, someEq ?_, ?_, ?_, ?_⟩⟩ <;> decide +kernel,
    by and_intros <;> decide +kernel⟩

end Sys2Proof.Tests.C1

namespace Sys2Proof.Tests.C2

def r : Chip := ({ R with count := 100000 }.setReg SYS_EXPERT 0xFFFFFFFF).setF MEM_CTL_EMERG 0
def m0 : Chip := (r.setF MEM_CTL_SCRUB_EN 1).setF MEM_DLT_SEL_ARRAY 0x20

/-- states and operands that meet the hypotheses of `Obligations.MemoryUpkeep`, clause by clause -/
theorem witness_MemoryUpkeep_2 :
    -- dltInstall, dltRemove
    ((st m0).chip.takesWrite 0 MEM_DLT_ENTRY = true ∧ (st m0).chip.f MEM_DLT_SEL_INDEX < dltSize ((st m0).chip.f MEM_DLT_SEL_ARRAY)) :=
  by and_intros <;> decide +kernel

end Sys2Proof.Tests.C2

namespace Sys2Proof.Tests.D1

def r : Chip := { R with count := 100000 }
def rn : Chip := { r with power := { r.power with state := .dormant } }

/-- states and operands that meet the hypotheses of `Obligations.RegisterAccess`, clause by clause -/
theorem witness_RegisterAccess :
    -- regWrite
    (0 ≠ 62 ∧ 1 ≠ 24 ∧ (st rn).chip.answersRead 0 (1 * 4096 + 4) = false) :=
  by and_intros <;> decide +kernel

end Sys2Proof.Tests.D1

namespace Sys2Proof.Tests.D2

def src (s : IrqSrc) (cfg : Word) (stt : Nat) (tgt pm : Nat) : IrqSrc := { s with cfg := cfg, st := stt, tgt := tgt, record := { s.record with postmark := pm, origin := 3 } }
def r0 : Chip := { R with count := 100000 }.setReg SYS_EXPERT 0xFFFFFFFF
def wi (l : List (Nat × IrqSrc)) : Chip := { r0 with icu := { r0.icu with src := l } }
def a : Chip := wi [(600, src (r0.src 600) 1 1 0 50), (601, src (r0.src 601) 5 1 0 40), (602, src (r0.src 602) 5 1 5 10)]
def b : Chip := wi [(600, src (r0.src 600) 0 2 0 50), (601, src (r0.src 601) 5 2 0 40), (602, { src (r0.src 602) 5 2 0 40 with refire := true }), (604, src (r0.src 604) 5 0 0 40)]
def e : Chip := wi [(1024+32*4+3, src (r0.src (1024+32*4+3)) 5 0 4 50)]
def nap : Chip := { e with power := { e.power with state := .nap } }

/-- states and operands that meet the hypotheses of `Obligations.InterruptController`, clause by clause -/
theorem witness_InterruptController_1 :
    -- icuClaimRead
    (∃ q1, icuBank 0 = some q1 ∧ (st a).chip.answersRead 0 ICU_CLAIM = true ∧ ∃ q2, (st a).chip.claimable q1 = some q2) ∧
    -- icuEoiWrite
    (∃ q1, icuBank 0 = some q1 ∧ (st a).chip.takesWrite 0 ICU_EOI = true ∧
      (((st a).chip.src (srcKey q1 (Word.bits 39321624 9 0))).st ≠ 2 ∨ ((st a).chip.src (srcKey q1 (Word.bits 39321624 9 0))).tgt ≠ q1)) ∧
    -- icuCfgWrite
    (∃ q1, (st a).chip.icuSel = some q1 ∧ (st a).chip.takesWrite 0 ICU_CFG = true) ∧
    -- icuEoiWrite
    (∃ q1, icuBank 0 = some q1 ∧ (st b).chip.takesWrite 0 ICU_EOI = true ∧ (32 ≤ Word.bits 600 9 0 ∨ q1 < 64) ∧
      ((st b).chip.src (srcKey q1 (Word.bits 600 9 0))).st = 2 ∧ ((st b).chip.src (srcKey q1 (Word.bits 600 9 0))).tgt = q1 ∧
      ((st b).chip.src (srcKey q1 (Word.bits 600 9 0))).cfg.bit 0 = false) ∧
    -- icuEoiWrite
    (∃ q1, icuBank 0 = some q1 ∧ (st b).chip.takesWrite 0 ICU_EOI = true ∧ (32 ≤ Word.bits 602 9 0 ∨ q1 < 64) ∧
      ((st b).chip.src (srcKey q1 (Word.bits 602 9 0))).st = 2 ∧ ((st b).chip.src (srcKey q1 (Word.bits 602 9 0))).tgt = q1 ∧
      ((st b).chip.src (srcKey q1 (Word.bits 602 9 0))).cfg.bit 0 = true ∧ ((st b).chip.src (srcKey q1 (Word.bits 602 9 0))).refire = true ∧
      srcAssigned (srcKey q1 (Word.bits 602 9 0)) = true ∧
      tgtOk (if 1024 ≤ srcKey q1 (Word.bits 602 9 0) then ((st b).chip.src (srcKey q1 (Word.bits 602 9 0))).tgt else ((st b).chip.src (srcKey q1 (Word.bits 602 9 0))).cfg.bits 14 8) = true) ∧
    -- icuSsetWrite
    ((st a).chip.takesWrite 0 ICU_SSET = true ∧ Word.bits 39321624 9 0 < 512) ∧
    -- recordEligible, modRelease
    ((st a).chip.mainRuns = true) ∧
    -- icuSsetWrite
    ((st b).chip.takesWrite 0 ICU_SSET = true ∧ 512 ≤ Word.bits 604 9 0 ∧ ((st b).chip.src (Word.bits 604 9 0)).sense = 2 ∧
      ((st b).chip.src (Word.bits 604 9 0)).cfg.bit 0 = true ∧ ((st b).chip.src (Word.bits 604 9 0)).st = 0 ∧
      ((st b).chip.src (Word.bits 604 9 0)).level = false ∧ tgtOk ((st b).chip.src (Word.bits 604 9 0)).tgt = true) ∧
    -- icuSwiWrite
    ((st e).chip.takesWrite 0 ICU_SWI = true ∧ Word.bits 772 5 0 ≠ 62 ∧
      ((st e).chip.src (srcKey (Word.bits 772 5 0) (Word.bits 772 10 8))).sense = 2 ∧
      ((st e).chip.src (srcKey (Word.bits 772 5 0) (Word.bits 772 10 8))).cfg.bit 0 = true ∧
      ((st e).chip.src (srcKey (Word.bits 772 5 0) (Word.bits 772 10 8))).st = 0 ∧
      ((st e).chip.src (srcKey (Word.bits 772 5 0) (Word.bits 772 10 8))).level = false ∧
      tgtOk ((st e).chip.src (srcKey (Word.bits 772 5 0) (Word.bits 772 10 8))).tgt = true) ∧
    -- napWakeLatch
    ((st nap).chip.power.state = Power.nap ∧ srcAssigned (srcKey 4 3) = true ∧ ((st nap).chip.src (srcKey 4 3)).cfg.bit 0 = true) :=
  ⟨by refine ⟨_, someEq ?_, ?_, ⟨_, someEq ?_⟩⟩ <;> decide +kernel,
    by refine ⟨_, someEq ?_, ?_, ?_⟩ <;> decide +kernel,
    ⟨_, someEq (by decide +kernel), by decide +kernel⟩,
    by refine ⟨_, someEq ?_, ?_, ?_, ?_, ?_, ?_⟩ <;> decide +kernel,
    by refine ⟨_, someEq ?_, ?_, ?_, ?_, ?_, ?_, ?_, ?_, ?_⟩ <;> decide +kernel,
    by and_intros <;> decide +kernel⟩

end Sys2Proof.Tests.D2

namespace Sys2Proof.Tests.D3

def src (s : IrqSrc) (cfg : Word) (stt : Nat) (tgt pm : Nat) : IrqSrc := { s with cfg := cfg, st := stt, tgt := tgt, record := { s.record with postmark := pm, origin := 3 } }
def r0 : Chip := { R with count := 100000, pins := { R.pins with level := [(2,true)] } }.setReg SYS_EXPERT 0xFFFFFFFF
def wi (l : List (Nat × IrqSrc)) : Chip := { r0 with icu := { r0.icu with src := l } }
def a (n : Nat) : Chip := wi [(130, src (r0.src 130) 5 n 0 50)]
def w1 : Chip := (a 0)
def w2 : Chip := (a 1)
def w3 : Chip := (a 2)

/-- states and operands that meet the hypotheses of `Obligations.InterruptController`, clause by clause -/
theorem witness_InterruptController_2 :
    -- sourceEvent
    ((st w1).chip.mainRuns = true ∧ 0 ≠ 62 ∧ ((st w1).chip.src (srcKey 0 130)).cfg.bit 0 = true ∧ ((st w1).chip.src (srcKey 0 130)).sense = 2 ∧
      ((st w1).chip.src (srcKey 0 130)).level = false ∧ (st w1).chip.srcInput (srcKey 0 130) = true ∧ srcAssigned (srcKey 0 130) = true ∧
      ((st w1).chip.src (srcKey 0 130)).st = 0 ∧ tgtOk ((st w1).chip.src (srcKey 0 130)).tgt = true) ∧
    -- sourceEvent
    ((st w2).chip.mainRuns = true ∧ 0 ≠ 62 ∧ ((st w2).chip.src (srcKey 0 130)).cfg.bit 0 = true ∧ ((st w2).chip.src (srcKey 0 130)).sense = 2 ∧
      ((st w2).chip.src (srcKey 0 130)).level = false ∧ (st w2).chip.srcInput (srcKey 0 130) = true ∧ srcAssigned (srcKey 0 130) = true ∧
      ((st w2).chip.src (srcKey 0 130)).st = 1) ∧
    -- sourceEvent
    ((st w3).chip.mainRuns = true ∧ 0 ≠ 62 ∧ ((st w3).chip.src (srcKey 0 130)).cfg.bit 0 = true ∧ ((st w3).chip.src (srcKey 0 130)).sense = 2 ∧
      ((st w3).chip.src (srcKey 0 130)).level = false ∧ (st w3).chip.srcInput (srcKey 0 130) = true ∧ srcAssigned (srcKey 0 130) = true ∧
      ((st w3).chip.src (srcKey 0 130)).st = 2 ∧ ((st w3).chip.src (srcKey 0 130)).refire = false) :=
  by and_intros <;> decide +kernel

end Sys2Proof.Tests.D3

namespace Sys2Proof.Tests.E1

def r0 : Chip := R.setReg SYS_EXPERT 0xFFFFFFFF
def t (cs top cnt : Nat) : Chip := ((((r0.setF (TMR_XCFG_CMPEN 5) 1).setReg (TMR_CS 5) (BitVec.ofNat 32 cs)).setReg (TMR_TOP 5) (BitVec.ofNat 32 top)).setReg (TMR_XCOUNT 5) (BitVec.ofNat 32 cnt)).setReg (TMR_XCMPACT 5) 8
def w1 : Chip := (t 1 10 10)
def w3 : Chip := (t 1 10 7)
def c : Chip := ({ t 0x40000 10 3 with tmr := { r0.tmr with capture := [(5,true)] } }.setF (TMR_XCFG_ARM 5) 1).setReg (TMR_XPHASE 5) 4

/-- states and operands that meet the hypotheses of `Obligations.TimerResults`, clause by clause -/
theorem witness_TimerResults :
    -- timerTick
    ((st w1).chip.counting 5 = true) ∧
    -- timerWrap
    ((st w1).chip.counting 5 = true ∧ (st w1).chip.wraps 5 = true) ∧
    -- tmrXcapRead
    ((st w1).chip.answersRead 0 (TMR_XCAP 5) = true) ∧
    -- tmrCsWrite
    ((st w1).chip.takesWrite 0 (TMR_CS 5) = true) ∧
    -- tmrTopWrite
    ((st w1).chip.takesWrite 0 (TMR_TOP 5) = true) ∧
    -- tmrXcmpWrite
    ((st w1).chip.takesWrite 0 (TMR_XCMP 5) = true) ∧
    -- groupStart, groupStop
    ((st w1).chip.takesWrite 0 TMR_XGSTART = true) ∧
    -- compareEvent
    ((st w3).chip.counting 5 = true ∧ (st w3).chip.compares 5 = true) ∧
    -- captureEvent
    (sget off (st c).chip.tmr.capture 5 = true) :=
  by and_intros <;> decide +kernel

end Sys2Proof.Tests.E1

namespace Sys2Proof.Tests.E2

def t (w ctl rem tmo : Nat) : Chip := ((R.setReg (WDT_CTL w) (BitVec.ofNat 32 ctl)).setF (WDT_REMAIN_US w) rem).setF (WDT_TIMEOUT_US w) tmo
def w1 : Chip := (t 3 1 1 5)
def w2 : Chip := (t 3 1 2 5)
def w4 : Chip := (t 3 0 100 5)
def w6 : Chip := (t 0 1 1 5)
def w7 : Chip := { t 3 1 100 5 with wdt := { R.wdt with kick := [(3,true)] } }
def w8 : Chip := (t 3 1 3 16)

/-- states and operands that meet the hypotheses of `Obligations.WatchdogResults`, clause by clause -/
theorem witness_WatchdogResults :
    -- wdtExpire
    ((st w1).chip.fb (WDT_CTL_EN 3) = true ∧ (st w1).chip.power.seq = none ∧ (st w1).chip.power.state = Power.run ∧ (st w1).chip.wdtHeld 3 = false ∧
      sget off (st w1).chip.wdt.stopped 3 = false ∧ (st w1).chip.f (WDT_REMAIN_US 3) ≤ 1 ∧ 3 ≠ 0 ∧ (st w1).chip.fb (WDT_CTL_ACTION 3) = false) ∧
    -- wdtKick
    ((st w1).chip.mainRuns = true ∧ 0 = (st w1).chip.wdtSvc 3) ∧
    -- wdtKick
    ((st w1).chip.mainRuns = true ∧ (0 ≠ (st w1).chip.wdtSvc 3 ∨ 131073 ≠ 42330 ∧ (131073 ≠ 23205 ∨ sget off (st w1).chip.wdt.kick 3 = false)) ∧
      (st w1).chip.fb (WDT_CTL_BADEXP 3) = false) ∧
    -- wdtCtlWrite
    ((st w1).chip.mainRuns = true ∧ ((st w1).chip.reg (WDT_CTL 3)).bit 1 = false) ∧
    -- wdtTick
    ((st w2).chip.fb (WDT_CTL_EN 3) = true ∧ (st w2).chip.power.seq = none ∧ (st w2).chip.power.state = Power.run ∧ (st w2).chip.wdtHeld 3 = false ∧
      sget off (st w2).chip.wdt.stopped 3 = false ∧ 2 ≤ (st w2).chip.f (WDT_REMAIN_US 3)) ∧
    -- wdtTick
    ((st w4).chip.fb (WDT_CTL_EN 3) = false) ∧
    -- wdtExpire
    ((st w6).chip.fb (WDT_CTL_EN 0) = true ∧ (st w6).chip.power.seq = none ∧ (st w6).chip.power.state = Power.run ∧ (st w6).chip.wdtHeld 0 = false ∧
      sget off (st w6).chip.wdt.stopped 0 = false ∧ (st w6).chip.f (WDT_REMAIN_US 0) ≤ 1 ∧ 0 = 0) ∧
    -- wdtKick
    ((st w7).chip.mainRuns = true ∧ 0 = (st w7).chip.wdtSvc 3 ∧ sget off (st w7).chip.wdt.kick 3 = true ∧ (st w7).chip.fb (WDT_CTL_EN 3) = true) ∧
    -- wdtWarn
    ((st w8).chip.fb (WDT_CTL_EN 3) = true ∧ (st w8).chip.power.seq = none ∧ (st w8).chip.power.state = Power.run ∧ (st w8).chip.wdtHeld 3 = false ∧
      sget off (st w8).chip.wdt.stopped 3 = false ∧ 2 ≤ (st w8).chip.f (WDT_REMAIN_US 3) ∧ sget off (st w8).chip.wdt.warned 3 = false ∧
      (st w8).chip.f (WDT_REMAIN_US 3) - 1 ≤ (st w8).chip.wdtWarn 3) :=
  by and_intros <;> decide +kernel

end Sys2Proof.Tests.E2

namespace Sys2Proof.Tests.F1

def r0 : Chip := R.setReg SYS_EXPERT 0xFFFFFFFF
def r1 : Chip := { r0.setF (GPIO_OWN_VALID 1) 1 with pins := { r0.pins with frozen := [(1, true)] } }.setF (GPIO_OWN_OWNER 1) 5
def r2 : Chip := { r0 with pins := { r0.pins with hold := [(4, some ⟨[33], []⟩)] } }

/-- states and operands that meet the hypotheses of `Obligations.PinResults`, clause by clause -/
theorem witness_PinResults :
    -- pmuxFuncWrite
    ((st r2).chip.takesWrite 0 (PMUX_FUNC 4) = true ∧ ∃ q1, sget (fun x => none) (st r2).chip.pins.hold 4 = some q1) ∧
    -- pmuxHoldEnd
    (∃ q1, sget (fun x => none) (st r2).chip.pins.hold 4 = some q1 ∧ q1.deferred = [] ∧ 33 ∈ q1.pins) ∧
    -- gpioOutWrite
    (((st r0).chip.fb (GPIO_OWN_VALID 0) = false ∨ (st r0).chip.f (GPIO_OWN_OWNER 0) = 0) ∧ (st r0).chip.takesWrite 0 (GPIO_OUT 0) = true) ∧
    -- gpioSetWrite
    (((st r0).chip.fb (GPIO_OWN_VALID 0) = false ∨ (st r0).chip.f (GPIO_OWN_OWNER 0) = 0) ∧ (st r0).chip.takesWrite 0 (GPIO_SET 0) = true) ∧
    -- gpioClrWrite
    (((st r0).chip.fb (GPIO_OWN_VALID 0) = false ∨ (st r0).chip.f (GPIO_OWN_OWNER 0) = 0) ∧ (st r0).chip.takesWrite 0 (GPIO_CLR 0) = true) ∧
    -- gpioOeWrite
    (((st r0).chip.fb (GPIO_OWN_VALID 0) = false ∨ (st r0).chip.f (GPIO_OWN_OWNER 0) = 0) ∧ (st r0).chip.takesWrite 0 (GPIO_OE 0) = true) ∧
    -- pinFilterAccept
    ((st r0).chip.mainRuns = true ∧ (st r0).chip.power.state ≠ Power.dormant ∧ ((st r0).chip.pad 5).enable = false) ∧
    -- pmuxFuncWrite
    ((st r0).chip.takesWrite 0 (PMUX_FUNC 4) = true ∧ sget (fun x => none) (st r0).chip.pins.hold 4 = none ∧ (st r0).chip.bankFrozen (4 / 4) = false ∧
      (∀ (j : Fin 8), pinFn (8 * 4 + ↑j) (Word.bits 0 (4 * ↑j + 3) (4 * ↑j)) ≠ PinFn.none)) ∧
    -- gpioOutWrite
    ((st r1).chip.fb (GPIO_OWN_VALID 1) = true ∧ (st r1).chip.f (GPIO_OWN_OWNER 1) ≠ 0 ∧ (st r1).chip.takesWrite 0 (GPIO_OUT 1) = true) ∧
    -- gpioRelease
    ((st r1).chip.takesWrite 0 (GPIO_CFG 1) = true ∧ (st r1).chip.bankFrozen 1 = true ∧ 33 / 32 = 1) :=
  ⟨⟨by decide +kernel, ⟨_, someEq (by decide +kernel)⟩⟩,
    by refine ⟨_, someEq ?_, ?_, ?_⟩ <;> decide +kernel,
    by and_intros <;> decide +kernel⟩

end Sys2Proof.Tests.F1

namespace Sys2Proof.Tests.F2

def w1 : Chip := R
def c1 : Chip := { R with zow := { R.zow with treset := true } }.setF ZOW_CTL_T_ACCEPT 1
def c2 : Chip := { R with power := { R.power with pgood := false, state := .off } }
def c3 : Chip := { R with power := { R.power with seq := some ⟨2,2⟩, nresetLow := true } }

/-- states and operands that meet the hypotheses of `Obligations.ResetResults`, clause by clause -/
theorem witness_ResetResults :
    -- nresetDeassert
    (∃ q1, (st c3).chip.power.seq = some q1 ∧ (st c3).chip.power.pmHold = false) ∧
    -- sysResetKey
    ((st w1).chip.power.seq = none ∧ (st w1).chip.takesWrite 0 SYS_RESET = true) ∧
    -- nresetAssert
    ((st w1).chip.power.seq = none ∧ (st w1).chip.mainPowered = true) ∧
    -- sysResetKey
    ((st w1).chip.takesWrite 0 SYS_RESET = true ∧ 5 ≠ 23294) ∧
    -- sysUrstWrite
    ((st w1).chip.takesWrite 0 SYS_URST = true ∧ urstValid 2 = true) ∧
    -- sysRunWrite
    ((st w1).chip.takesWrite 0 (if decide (32 ≤ 1) = true then SYS_RUN_HI else SYS_RUN_LO) = true) ∧
    -- tReset
    ((st c1).chip.power.seq = none ∧ (st c1).chip.mainRuns = true ∧ (st c1).chip.zow.treset = true ∧ (st c1).chip.fb ZOW_CTL_T_ACCEPT = true) ∧
    -- pgoodRise
    ((st c2).chip.power.seq = none ∧ (st c2).chip.power.vsb = true ∧ (st c2).chip.power.mainEn = true ∧ (st c2).chip.power.pgood = false ∧
      (st c2).chip.power.state ≠ Power.dormant) :=
  ⟨⟨_, someEq (by decide +kernel), by decide +kernel⟩,
    by and_intros <;> decide +kernel⟩

end Sys2Proof.Tests.F2

namespace Sys2Proof.Tests.F3A

def pd (d : Nat) (x : Domain) (c : Chip) : Chip := { c with power := { c.power with domain := [(d, x)] } }.setF SYS_PD_SEL_DOMAIN d
def w1 : Chip := (pd 20 ⟨true,false,true⟩ (R.setReg COMP_RETIRE_LO 0x4))
def w2 : Chip := (pd 20 ⟨true,true,true⟩ (R.setReg COMP_RETIRE_LO 0x4))
def w3 : Chip := (pd 20 ⟨true,false,true⟩ R)
def off : Chip := { R with power := { R.power with mainEn := false, pgood := false, state := .off } }

/-- states and operands that meet the hypotheses of `Obligations.PowerAndFuses`, clause by clause -/
theorem witness_PowerAndFuses_1 :
    -- sysPdCtlWrite
    ((st w1).chip.takesWrite 0 SYS_PD_CTL = true ∧ (st w1).chip.f SYS_PD_SEL_DOMAIN < 118 ∧
      (st w1).chip.switchable ((st w1).chip.f SYS_PD_SEL_DOMAIN) = true ∧
      (sget domain0 (st w1).chip.power.domain ((st w1).chip.f SYS_PD_SEL_DOMAIN)).pwr = true ∧
      (sget domain0 (st w1).chip.power.domain ((st w1).chip.f SYS_PD_SEL_DOMAIN)).iso = false ∧ Word.bit 3 0 = true ∧ Word.bit 3 1 = true) ∧
    -- pdRampDone
    ((sget domain0 (st w1).chip.power.domain 20).pwr = true) ∧
    -- mainEnAutoRise
    ((st w1).chip.power.vsb = true ∧ (st w1).chip.power.mainEnHeld = false) ∧
    -- pgoodFall
    ((st w1).chip.power.mainEn = true ∧ (st w1).chip.power.pgood = true) ∧
    -- sysPdCtlWrite
    ((st w2).chip.takesWrite 0 SYS_PD_CTL = true ∧ (st w2).chip.f SYS_PD_SEL_DOMAIN < 118 ∧
      (st w2).chip.switchable ((st w2).chip.f SYS_PD_SEL_DOMAIN) = true ∧
      (sget domain0 (st w2).chip.power.domain ((st w2).chip.f SYS_PD_SEL_DOMAIN)).pwr = true ∧
      (sget domain0 (st w2).chip.power.domain ((st w2).chip.f SYS_PD_SEL_DOMAIN)).iso = true ∧
      (sget domain0 (st w2).chip.power.domain ((st w2).chip.f SYS_PD_SEL_DOMAIN)).ok = true ∧ Word.bit 1 0 = true ∧ Word.bit 1 1 = false) ∧
    -- sysPdCtlWrite
    ((st w3).chip.takesWrite 0 SYS_PD_CTL = true ∧ (st w3).chip.f SYS_PD_SEL_DOMAIN < 118 ∧
      (st w3).chip.switchable ((st w3).chip.f SYS_PD_SEL_DOMAIN) = false) ∧
    -- pdRampDone
    ((sget domain0 (st off).chip.power.domain 20).pwr = true) ∧
    -- mainEnAutoRise
    ((st off).chip.power.vsb = true ∧ (st off).chip.power.mainEnHeld = false) :=
  by and_intros <;> decide +kernel

end Sys2Proof.Tests.F3A

namespace Sys2Proof.Tests.F3B

def idleC : Chip := (List.range 62).foldl (fun c k => c.modCore k fun x => { x with waiting := true }) R
def w1 : Chip := (idleC.setF SYS_SLEEP_MODE 1)
def w2 : Chip := { idleC with power := { idleC.power with state := .nap, napLatch := [4] } }

/-- states and operands that meet the hypotheses of `Obligations.PowerAndFuses`, clause by clause -/
theorem witness_PowerAndFuses_2 :
    -- napEntry
    ((st w1).chip.mainRuns = true ∧ (st w1).chip.f SYS_SLEEP_MODE = 1 ∧ napBlock (st w1).chip = 0) ∧
    -- napWake
    ((st w2).chip.power.state = Power.nap ∧ (st w2).chip.power.napLatch ≠ []) :=
  by and_intros <;> decide +kernel

end Sys2Proof.Tests.F3B

namespace Sys2Proof.Tests.F3C

def idleC : Chip := (List.range 62).foldl (fun c k => c.modCore k fun x => { x with waiting := true }) R
def dm (k : Bool) : Chip := nextState (exec .dormantEntry (st (idleC.setF SYS_SLEEP_MODE 2))) |>.chip
def w1 : Chip := { dm true with power := { (dm true).power with wakeLatched := true } }

/-- states and operands that meet the hypotheses of `Obligations.PowerAndFuses`, clause by clause -/
theorem witness_PowerAndFuses_3 :
    -- dormantWake, pgoodTimeout
    ((st w1).chip.power.state = Power.dormant ∧ (st w1).chip.power.vsb = true ∧ (st w1).chip.power.wakeLatched = true) :=
  by and_intros <;> decide +kernel

end Sys2Proof.Tests.F3C

namespace Sys2Proof.Tests.G1

def x0 : Chip := R.setReg SYS_EXPERT 0xFFFFFFFF
def x1 : Chip := { x0 with power := { x0.power with fuses := { x0.power.fuses with title := [(1, ⟨[1], true, false⟩)], rollback := 64 } } }
def x2 (o : Nat) : Chip := { x0 with power := { x0.power with fuseOp := some (o, 2, [5,6]) } }
def w2 : Chip := (x2 1)

/-- states and operands that meet the hypotheses of `Obligations.PowerAndFuses`, clause by clause -/
theorem witness_PowerAndFuses_4 :
    -- match
    ((st x0).chip.takesWrite 0 SYS_XFUSE_CMD = true ∧ (st x0).chip.fb SYS_XFUSE_CMD_BUSY = false ∧
      fuseRefusal (0 + 1) (if 0 = 3 then 0 else 1) (st x0).chip = 0) ∧
    -- match
    ((st x0).chip.takesWrite 0 SYS_XFUSE_CMD = true ∧ (st x0).chip.fb SYS_XFUSE_CMD_BUSY = false ∧
      fuseRefusal (1 + 1) (if 1 = 3 then 0 else 1) (st x0).chip = 0) ∧
    -- match
    ((st x0).chip.takesWrite 0 SYS_XFUSE_CMD = true ∧ (st x0).chip.fb SYS_XFUSE_CMD_BUSY = false ∧
      fuseRefusal (1 + 1) (if 1 = 3 then 0 else 3) (st x0).chip ≠ 0) ∧
    -- match
    ((st x0).chip.takesWrite 0 SYS_XFUSE_CMD = true ∧ (st x0).chip.fb SYS_XFUSE_CMD_BUSY = false ∧
      fuseRefusal (2 + 1) (if 2 = 3 then 0 else 3) (st x0).chip ≠ 0) ∧
    -- match
    ((st x0).chip.takesWrite 0 SYS_XFUSE_CMD = true ∧ (st x0).chip.fb SYS_XFUSE_CMD_BUSY = false ∧
      fuseRefusal (3 + 1) (if 3 = 3 then 0 else 3) (st x0).chip = 0) ∧
    -- match
    ((st x1).chip.takesWrite 0 SYS_XFUSE_CMD = true ∧ (st x1).chip.fb SYS_XFUSE_CMD_BUSY = false ∧
      fuseRefusal (0 + 1) (if 0 = 3 then 0 else 1) (st x1).chip ≠ 0) ∧
    -- fuseOpDone
    ((st w2).chip.power.fuseOp = some (1, ((st w2).chip.power.fuseOp.get (by decide +kernel)).snd.fst, ((st w2).chip.power.fuseOp.get (by decide +kernel)).snd.snd)) :=
  by and_intros <;> decide +kernel

end Sys2Proof.Tests.G1

namespace Sys2Proof.Tests.G2

def dst (n : Nat) (c : Chip) : Chip := c.setF (DMA_CH_STAT_STATE 2) n
def hd : Chip := R.setF (DMA_HEAD_ADDR 2) (0x1000000400/32)
def w1 : Chip := (dst 2 hd)
def ad (a : Nat) := a + 0x1000000000
def env (l : List Nat) (c : Chip) : Chip := c.setBytes (ad 0x400) (l.flatMap fun x => leBytes 4 x)
def f1 : Chip := ((env [0x8C, 0x1000, 0x2000, 0x1010, 64, 0, 0, 0] (dst 1 hd)).setF (DMA_CH_CUR_ADDR 2) (ad 0x400/32)).setRegBit DMA_ENABLE 2 true
def f2 : Chip := (env [0x83, 0x1000, 0x2000, 0x1010, 64, 0, 0, 0] f1)
def b (l : List Nat) : List DmaByte := l.map fun x => ⟨BitVec.ofNat 8 x, 0⟩
def wrt (tot : Nat) (fl : Nat) (rd wr : Nat) (bf : List DmaByte) : Chip := { f1 with dma := [(2, ⟨[fl, 0x1000, 0x2000, 0x1010, tot, 0, 0, 0], none, rd, wr, 0, 0, bf, false⟩)] }
def x1 := wrt 128 0xCC 64 0 (b (List.range 64))
def x2 := wrt 64 0xCC 64 0 (b (List.range 64))

/-- states and operands that meet the hypotheses of `Obligations.DmaResults`, clause by clause -/
theorem witness_DmaResults :
    -- dmaEnvelopeFetch
    ((st f1).chip.dmaRuns = true ∧ (st f1).chip.dmaState 2 = 1 ∧ (st f1).chip.unitFrozen 8 = false ∧ ((st f1).chip.dmaCh 2).env = [] ∧
      ((st f1).chip.dmaCh 2).slot = none ∧ ∃ q1 z1, fetchList 32 ((st f1).chip.f (DMA_CH_CUR_ADDR 2) * 32) (st f1).chip = (some q1, z1) ∧
      (envelope (List.map (fun k => numAt q1 (4 * k) 4) (List.range 8))).invalid = false ∧
      (envelope (List.map (fun k => numAt q1 (4 * k) 4) (List.range 8))).total ≠ 0) ∧
    -- dmaEnvelopeFetch
    ((st f2).chip.dmaRuns = true ∧ (st f2).chip.dmaState 2 = 1 ∧ (st f2).chip.unitFrozen 8 = false ∧ ((st f2).chip.dmaCh 2).env = [] ∧
      ((st f2).chip.dmaCh 2).slot = none ∧ ∃ q1 z1, fetchList 32 ((st f2).chip.f (DMA_CH_CUR_ADDR 2) * 32) (st f2).chip = (some q1, z1) ∧
      (envelope (List.map (fun k => numAt q1 (4 * k) 4) (List.range 8))).invalid = true) ∧
    -- dmaReadReturn
    ((st x1).chip.dmaReadDue 2 = true ∧ mainRegion (st x1).chip.dramTop ((st x1).chip.dmaReadBeat 2).fst = Region.pattern ∧
      0 < ((st x1).chip.dmaReadBeat 2).snd.snd ∧ CleanPattern (st x1).chip ((st x1).chip.dmaReadBeat 2).fst ((st x1).chip.dmaReadBeat 2).snd.snd) ∧
    -- dmaReadReturn
    ((st x1).chip.dmaReadDue 2 = true ∧ mainRegion (st x1).chip.dramTop ((st x1).chip.dmaReadBeat 2).fst = Region.pattern ∧
      0 < ((st x1).chip.dmaReadBeat 2).snd.snd ∧ CleanPattern (st x1).chip ((st x1).chip.dmaReadBeat 2).fst ((st x1).chip.dmaReadBeat 2).snd.snd ∧
      ((st x1).chip.dmaCh 2).tries < (st x1).chip.dmaRetries) ∧
    -- dmaWriteAck
    ((st x1).chip.dmaWriteDue 2 = true ∧ 0 < ((st x1).chip.dmaWriteUnit 2).snd.snd ∧
      ((st x1).chip.dmaWriteUnit 2).snd.snd ≤ ((st x1).chip.dmaCh 2).buf.length ∧
      ((List.take ((st x1).chip.dmaWriteUnit 2).snd.snd ((st x1).chip.dmaCh 2).buf).all fun b => b.bad == 0) = true ∧
      mainRegion (st x1).chip.dramTop ((st x1).chip.dmaWriteUnit 2).fst = Region.pattern ∧
      CleanPattern (st x1).chip ((st x1).chip.dmaWriteUnit 2).fst ((st x1).chip.dmaWriteUnit 2).snd.snd) ∧
    -- dmaWriteAck
    ((st x1).chip.dmaWriteDue 2 = true ∧ 0 < ((st x1).chip.dmaWriteUnit 2).snd.snd ∧
      ((st x1).chip.dmaWriteUnit 2).snd.snd ≤ ((st x1).chip.dmaCh 2).buf.length ∧
      ((List.take ((st x1).chip.dmaWriteUnit 2).snd.snd ((st x1).chip.dmaCh 2).buf).all fun b => b.bad == 0) = true ∧
      mainRegion (st x1).chip.dramTop ((st x1).chip.dmaWriteUnit 2).fst = Region.pattern ∧
      CleanPattern (st x1).chip ((st x1).chip.dmaWriteUnit 2).fst ((st x1).chip.dmaWriteUnit 2).snd.snd ∧
      ((st x1).chip.dmaCh 2).wr + ((st x1).chip.dmaWriteUnit 2).snd.snd < (envelope ((st x1).chip.dmaCh 2).env).total ∧
      ((st x1).chip.dmaCh 2).abortReq = false ∧ (st x1).chip.regBit DMA_ENABLE 2 = true) ∧
    -- dmaWriteAck
    ((st x2).chip.dmaWriteDue 2 = true ∧ 0 < ((st x2).chip.dmaWriteUnit 2).snd.snd ∧
      ((st x2).chip.dmaWriteUnit 2).snd.snd ≤ ((st x2).chip.dmaCh 2).buf.length ∧
      ((List.take ((st x2).chip.dmaWriteUnit 2).snd.snd ((st x2).chip.dmaCh 2).buf).all fun b => b.bad == 0) = true ∧
      mainRegion (st x2).chip.dramTop ((st x2).chip.dmaWriteUnit 2).fst = Region.pattern ∧
      CleanPattern (st x2).chip ((st x2).chip.dmaWriteUnit 2).fst ((st x2).chip.dmaWriteUnit 2).snd.snd ∧
      ((st x2).chip.dmaCh 2).wr + ((st x2).chip.dmaWriteUnit 2).snd.snd = (envelope ((st x2).chip.dmaCh 2).env).total ∧
      ((st x2).chip.dmaCh 2).abortReq = false ∧ (envelope ((st x2).chip.dmaCh 2).env).last = true) ∧
    -- dmaGo
    ((st hd).chip.dmaRuns = true ∧ (st hd).chip.fb DMA_STATUS_ENGINE_HALT = false ∧ (st hd).chip.dmaState 2 ≠ 1 ∧ (st hd).chip.dmaState 2 ≠ 2 ∧
      memRegion (mainRegion (st hd).chip.dramTop ((st hd).chip.f (DMA_HEAD_ADDR 2) * 32)) = true) ∧
    -- dmaGo
    ((st w1).chip.dmaRuns = true ∧ (st w1).chip.fb DMA_STATUS_ENGINE_HALT = false ∧ ((st w1).chip.dmaState 2 = 1 ∨ (st w1).chip.dmaState 2 = 2)) ∧
    -- dmaResume
    ((st w1).chip.dmaRuns = true ∧ (st w1).chip.dmaState 2 = 2) ∧
    -- dmaAbort, dmaEngineFault
    ((st w1).chip.dmaRuns = true ∧ ((st w1).chip.dmaState 2 = 1 ∨ (st w1).chip.dmaState 2 = 2)) ∧
    -- dmaPause, dmaAbort
    ((st f1).chip.dmaRuns = true ∧ (st f1).chip.dmaState 2 = 1) :=
  ⟨by refine ⟨?_, ?_, ?_, ?_, ?_, ⟨_, _, somePair ?_, ?_, ?_⟩⟩ <;> decide +kernel,
    by refine ⟨?_, ?_, ?_, ?_, ?_, ⟨_, _, somePair ?_, ?_⟩⟩ <;> decide +kernel,
    by refine ⟨?_, ?_, ?_, by unfold CleanPattern; decide +kernel⟩ <;> decide +kernel,
    by refine ⟨?_, ?_, ?_, by unfold CleanPattern; decide +kernel, ?_⟩ <;> decide +kernel,
    by refine ⟨?_, ?_, ?_, ?_, ?_, by unfold CleanPattern; decide +kernel⟩ <;> decide +kernel,
    by refine ⟨?_, ?_, ?_, ?_, ?_, by unfold CleanPattern; decide +kernel, ?_, ?_, ?_⟩ <;> decide +kernel,
    by refine ⟨?_, ?_, ?_, ?_, ?_, by unfold CleanPattern; decide +kernel, ?_, ?_, ?_⟩ <;> decide +kernel,
    by and_intros <;> decide +kernel⟩

end Sys2Proof.Tests.G2

namespace Sys2Proof.Tests.G3

def pe : PressEng := ⟨[], 0x1000000400, [], 0, 0, [], 0, false, none, none⟩
def run (p : PressEng) : Chip := { R.setF PRESS_STATUS_STATE 1 with press := p }
def w1 : Chip := R
def w2 : Chip := (R.setF PRESS_STATUS_RESULT 1)
def cmd (op : Nat) : List Nat := [op + 0x10 + 2*2^13, 0x1000, 0x1010, 0x2000, 256, 256, 4 + 2 * 65536, 0, 0x11223344, 0, 0,0,0,0,0,0]
def put (l : List Nat) (c : Chip) : Chip := c.setBytes 0x1000000400 (l.flatMap fun x => leBytes 4 x)
def w3 : Chip := (put (cmd 2) (run pe))
def w5 : Chip := (run { pe with cmd := cmd 1 })
def w6 : Chip := (run { pe with cmd := cmd 2 })
def w7 : Chip := (run { pe with cmd := cmd 3 })
def w8 : Chip := (run { pe with cmd := cmd 4 })
def w9 : Chip := (run { pe with cmd := cmd 1, row := 2 })
def w10 : Chip := (run { pe with cmd := cmd 2, row := 2 })
def w11 : Chip := (run { pe with cmd := cmd 3, row := 2 })
def w12 : Chip := (run { pe with cmd := cmd 4, row := 2 })
def w13 : Chip := (run { pe with cmd := cmd 5 })
def w14 : Chip := (run { pe with cmd := cmd 6 })
def w15 : Chip := (run { pe with cmd := cmd 0 })
def rr (op : Nat) : Chip := (run { pe with cmd := cmd op, row := 1, flight := [⟨0, 0, 4, 0, none⟩] }).setBytes 0x1000001000 [1,2,3,0xC4,5,6,7,8]
def w16 : Chip := (rr 1)
def w17 : Chip := (rr 3)
def w18 : Chip := (rr 4)
def w19 : Chip := (run { pe with cmd := cmd 1, row := 1, flight := [⟨0, 0, 4, 0, some [(0x1000002004, [1,2,3,4])]⟩] })

/-- states and operands that meet the hypotheses of `Obligations.PressResults`, clause by clause -/
theorem witness_PressResults :
    -- pressCommandFetch
    ((st w3).chip.pressIssues = true ∧ (st w3).chip.press.cmd = [] ∧ (st w3).chip.press.flight = [] ∧
      ∃ q1 z1, fetchList 64 (st w3).chip.press.next ((st w3).chip.setF PRESS_CUR_ADDR ((st w3).chip.press.next / 64)) = (some q1, z1) ∧
      pressInvalid (List.map (fun i => numAt q1 (4 * i) 4) (List.range 16)) = false) ∧
    -- pressReadReturn
    ((st w16).chip.mainRuns = true ∧ (st w16).chip.f PRESS_STATUS_STATE = 1 ∧ (st w16).chip.press.cmd ≠ [] ∧ (st w16).chip.unitFrozen 9 = false ∧
      (st w16).chip.press.flight = (st w16).chip.press.flight.head (by decide +kernel) :: (st w16).chip.press.flight.tail ∧
      ((st w16).chip.press.flight.head (by decide +kernel)).data = none ∧
      (((st w16).chip.written (pressCmd (st w16).chip.press.cmd) ((st w16).chip.press.flight.head (by decide +kernel))).all fun i => (st w16).chip.answers ((pressCmd (st w16).chip.press.cmd).srcAt i ((st w16).chip.press.flight.head (by decide +kernel)).row) && ((pressCmd (st w16).chip.press.cmd).op != 4 || (st w16).chip.answers ((pressCmd (st w16).chip.press.cmd).dstAt i ((st w16).chip.press.flight.head (by decide +kernel)).row))) = true ∧
      ∃ q1 z1, chunkData (pressCmd (st w16).chip.press.cmd) ((st w16).chip.press.flight.head (by decide +kernel)).row ((st w16).chip.written (pressCmd (st w16).chip.press.cmd) ((st w16).chip.press.flight.head (by decide +kernel))) (st w16).chip = (some q1, z1)) ∧
    -- pressGo
    ((st w1).chip.mainRuns = true ∧ (st w1).chip.domainUp 92 = true ∧ (st w1).chip.f PRESS_STATUS_STATE = 0) ∧
    -- pressDeadTimeEnd
    ((st w1).chip.press.flight = []) ∧
    -- pressAbort
    ((st w2).chip.mainRuns = true ∧ (st w2).chip.domainUp 92 = true ∧ (st w2).chip.f PRESS_STATUS_STATE = 0 ∧
      (st w2).chip.f PRESS_STATUS_RESULT = 1) ∧
    -- pressGo
    ((st w3).chip.mainRuns = true ∧ (st w3).chip.domainUp 92 = true ∧ (st w3).chip.f PRESS_STATUS_STATE ≠ 0) ∧
    -- pressAbort
    ((st w3).chip.mainRuns = true ∧ (st w3).chip.domainUp 92 = true ∧ (st w3).chip.f PRESS_STATUS_STATE = 1 ∧ (st w3).chip.press.flight = []) ∧
    -- pressCopy
    ((st w5).chip.pressIssues = true ∧ (st w5).chip.press.cmd ≠ [] ∧ (pressCmd (st w5).chip.press.cmd).op = 1 ∧
      (pressCmd (st w5).chip.press.cmd).w ≠ 0 ∧ (st w5).chip.press.row < (pressCmd (st w5).chip.press.cmd).h ∧ (st w5).chip.press.flight.length < 8 ∧
      (∀ (y : PressChunk), y ∈ (st w5).chip.press.flight → y.row = if (pressCmd (st w5).chip.press.cmd).ydir = true then (pressCmd (st w5).chip.press.cmd).h - 1 - (st w5).chip.press.row else (st w5).chip.press.row) ∧
      (st w5).chip.burstOver (pressCmd (st w5).chip.press.cmd) = false) ∧
    -- pressFill
    ((st w6).chip.pressIssues = true ∧ (st w6).chip.press.cmd ≠ [] ∧ (pressCmd (st w6).chip.press.cmd).op = 2 ∧
      (pressCmd (st w6).chip.press.cmd).w ≠ 0 ∧ (st w6).chip.press.row < (pressCmd (st w6).chip.press.cmd).h ∧ (st w6).chip.press.flight.length < 8 ∧
      (∀ (y : PressChunk), y ∈ (st w6).chip.press.flight → y.row = if (pressCmd (st w6).chip.press.cmd).ydir = true then (pressCmd (st w6).chip.press.cmd).h - 1 - (st w6).chip.press.row else (st w6).chip.press.row) ∧
      (st w6).chip.burstOver (pressCmd (st w6).chip.press.cmd) = false) ∧
    -- pressConvert
    ((st w7).chip.pressIssues = true ∧ (st w7).chip.press.cmd ≠ [] ∧ (pressCmd (st w7).chip.press.cmd).op = 3 ∧
      (pressCmd (st w7).chip.press.cmd).w ≠ 0 ∧ (st w7).chip.press.row < (pressCmd (st w7).chip.press.cmd).h ∧ (st w7).chip.press.flight.length < 8 ∧
      (∀ (y : PressChunk), y ∈ (st w7).chip.press.flight → y.row = if (pressCmd (st w7).chip.press.cmd).ydir = true then (pressCmd (st w7).chip.press.cmd).h - 1 - (st w7).chip.press.row else (st w7).chip.press.row) ∧
      (st w7).chip.burstOver (pressCmd (st w7).chip.press.cmd) = false) ∧
    -- pressBlend
    ((st w8).chip.pressIssues = true ∧ (st w8).chip.press.cmd ≠ [] ∧ (pressCmd (st w8).chip.press.cmd).op = 4 ∧
      (pressCmd (st w8).chip.press.cmd).w ≠ 0 ∧ (st w8).chip.press.row < (pressCmd (st w8).chip.press.cmd).h ∧ (st w8).chip.press.flight.length < 8 ∧
      (∀ (y : PressChunk), y ∈ (st w8).chip.press.flight → y.row = if (pressCmd (st w8).chip.press.cmd).ydir = true then (pressCmd (st w8).chip.press.cmd).h - 1 - (st w8).chip.press.row else (st w8).chip.press.row) ∧
      (st w8).chip.burstOver (pressCmd (st w8).chip.press.cmd) = false) ∧
    -- pressCopy
    ((st w9).chip.pressIssues = true ∧ (st w9).chip.press.cmd ≠ [] ∧ (pressCmd (st w9).chip.press.cmd).op = 1 ∧
      ((pressCmd (st w9).chip.press.cmd).w = 0 ∨ (pressCmd (st w9).chip.press.cmd).h ≤ (st w9).chip.press.row) ∧ (st w9).chip.press.flight = []) ∧
    -- pressFill
    ((st w10).chip.pressIssues = true ∧ (st w10).chip.press.cmd ≠ [] ∧ (pressCmd (st w10).chip.press.cmd).op = 2 ∧
      ((pressCmd (st w10).chip.press.cmd).w = 0 ∨ (pressCmd (st w10).chip.press.cmd).h ≤ (st w10).chip.press.row) ∧ (st w10).chip.press.flight = []) ∧
    -- pressConvert
    ((st w11).chip.pressIssues = true ∧ (st w11).chip.press.cmd ≠ [] ∧ (pressCmd (st w11).chip.press.cmd).op = 3 ∧
      ((pressCmd (st w11).chip.press.cmd).w = 0 ∨ (pressCmd (st w11).chip.press.cmd).h ≤ (st w11).chip.press.row) ∧ (st w11).chip.press.flight = []) ∧
    -- pressBlend
    ((st w12).chip.pressIssues = true ∧ (st w12).chip.press.cmd ≠ [] ∧ (pressCmd (st w12).chip.press.cmd).op = 4 ∧
      ((pressCmd (st w12).chip.press.cmd).w = 0 ∨ (pressCmd (st w12).chip.press.cmd).h ≤ (st w12).chip.press.row) ∧ (st w12).chip.press.flight = []) ∧
    -- pressClip
    ((st w13).chip.pressIssues = true ∧ (st w13).chip.press.cmd ≠ [] ∧ (pressCmd (st w13).chip.press.cmd).op = 5) ∧
    -- pressJump
    ((st w14).chip.pressIssues = true ∧ (st w14).chip.press.cmd ≠ [] ∧ (pressCmd (st w14).chip.press.cmd).op = 6) ∧
    -- pressEnd
    ((st w15).chip.pressIssues = true ∧ (st w15).chip.press.cmd ≠ [] ∧ (pressCmd (st w15).chip.press.cmd).op = 0) ∧
    -- pressCopy
    ((st w16).chip.pressIssues = true ∧ (st w16).chip.press.cmd ≠ [] ∧ (pressCmd (st w16).chip.press.cmd).op = 1 ∧
      (pressCmd (st w16).chip.press.cmd).w ≠ 0 ∧ (st w16).chip.press.row < (pressCmd (st w16).chip.press.cmd).h ∧
      (st w16).chip.press.flight.length < 8 ∧ (∃ y, y ∈ (st w16).chip.press.flight ∧
      y.row ≠ if (pressCmd (st w16).chip.press.cmd).ydir = true then (pressCmd (st w16).chip.press.cmd).h - 1 - (st w16).chip.press.row else (st w16).chip.press.row)) ∧
    -- pressConvert
    ((st w17).chip.pressIssues = true ∧ (st w17).chip.press.cmd ≠ [] ∧ (pressCmd (st w17).chip.press.cmd).op = 3 ∧
      (pressCmd (st w17).chip.press.cmd).w ≠ 0 ∧ (st w17).chip.press.row < (pressCmd (st w17).chip.press.cmd).h ∧
      (st w17).chip.press.flight.length < 8 ∧ (∃ y, y ∈ (st w17).chip.press.flight ∧
      y.row ≠ if (pressCmd (st w17).chip.press.cmd).ydir = true then (pressCmd (st w17).chip.press.cmd).h - 1 - (st w17).chip.press.row else (st w17).chip.press.row)) ∧
    -- pressBlend
    ((st w18).chip.pressIssues = true ∧ (st w18).chip.press.cmd ≠ [] ∧ (pressCmd (st w18).chip.press.cmd).op = 4 ∧
      (pressCmd (st w18).chip.press.cmd).w ≠ 0 ∧ (st w18).chip.press.row < (pressCmd (st w18).chip.press.cmd).h ∧
      (st w18).chip.press.flight.length < 8 ∧ (∃ y, y ∈ (st w18).chip.press.flight ∧
      y.row ≠ if (pressCmd (st w18).chip.press.cmd).ydir = true then (pressCmd (st w18).chip.press.cmd).h - 1 - (st w18).chip.press.row else (st w18).chip.press.row)) ∧
    -- pressWriteAck
    ((st w19).chip.mainRuns = true ∧ (st w19).chip.f PRESS_STATUS_STATE ≠ 0 ∧
      (st w19).chip.press.flight = (st w19).chip.press.flight.head (by decide +kernel) :: (st w19).chip.press.flight.tail ∧
      ((st w19).chip.press.flight.head (by decide +kernel)).data = some [(((((st w19).chip.press.flight.head (by decide +kernel)).data.get (by decide +kernel)).head (by decide +kernel)).fst, ((((st w19).chip.press.flight.head (by decide +kernel)).data.get (by decide +kernel)).head (by decide +kernel)).snd)] ∧
      (st w19).chip.answers ((((st w19).chip.press.flight.head (by decide +kernel)).data.get (by decide +kernel)).head (by decide +kernel)).fst = true ∧
      ((((st w19).chip.press.flight.head (by decide +kernel)).data.get (by decide +kernel)).head (by decide +kernel)).snd.length = 4 ∧
      ((((st w19).chip.press.flight.head (by decide +kernel)).data.get (by decide +kernel)).head (by decide +kernel)).fst % 4 = 0 ∧
      mainRegion (st w19).chip.dramTop ((((st w19).chip.press.flight.head (by decide +kernel)).data.get (by decide +kernel)).head (by decide +kernel)).fst = Region.pattern) :=
  ⟨by refine ⟨?_, ?_, ?_, ⟨_, _, somePair ?_, ?_⟩⟩ <;> decide +kernel,
    by refine ⟨?_, ?_, ?_, ?_, ?_, ?_, ?_, ⟨_, _, somePair ?_⟩⟩ <;> decide +kernel,
    by and_intros <;> decide +kernel⟩

end Sys2Proof.Tests.G3

namespace Sys2Proof.Tests.H1

def ep : Chip := ((R.setF PCIE_CTL_EN 1).setF PCIE_CTL_MODE 1)
def up (m : Nat) : Chip := (R.setF PCIE_CTL_MODE m).setF PCIE_STATUS_UP 1
def w1 : Chip := { up 1 with hosts := { R.hosts with msixPend := true } }
def w2 : Chip := ((up 2).setF PCIE_CFGADDR_BUS 1)

/-- states and operands that meet the hypotheses of `Obligations.HostInterfaces`, clause by clause -/
theorem witness_HostInterfaces_1 :
    -- pcieLinkUp
    ((st ep).chip.mainRuns = true ∧ (st ep).chip.domainUp (blockDomain 18) = true ∧ (st ep).chip.fb PCIE_CTL_EN = true ∧ (st ep).chip.pcieMode ≠ 0 ∧
      (st ep).chip.fb PCIE_STATUS_UP = false) ∧
    -- pcieFundamentalReset
    ((st ep).chip.mainRuns = true ∧ (st ep).chip.domainUp (blockDomain 18) = true ∧ (st ep).chip.pcieMode = 1) ∧
    -- pcieCompletionTimeout
    ((st ep).chip.mainRuns = true ∧ (st ep).chip.domainUp (blockDomain 18) = true ∧ (0 < 64 ∨ 96 ≤ 0)) ∧
    -- pcieLinkDown
    ((st w1).chip.mainRuns = true ∧ (st w1).chip.domainUp (blockDomain 18) = true ∧ (st w1).chip.fb PCIE_STATUS_UP = true) ∧
    -- pcieInboundRequest
    ((st w1).chip.mainRuns = true ∧ (st w1).chip.domainUp (blockDomain 18) = true ∧ (st w1).chip.fb PCIE_STATUS_UP = true ∧
      (st w1).chip.pcieMode = 1 ∧ (st w1).chip.domainUp (blockDomain 9) = true) ∧
    -- pcieInboundRequest
    ((st w1).chip.mainRuns = true ∧ (st w1).chip.domainUp (blockDomain 18) = true ∧ (st w1).chip.fb PCIE_STATUS_UP = true ∧
      (st w1).chip.pcieMode = 1) ∧
    -- pcieCfgdataAccess
    ((st w2).chip.mainRuns = true ∧ (st w2).chip.domainUp (blockDomain 18) = true ∧ (st w2).chip.pcieMode = 2 ∧
      (st w2).chip.f PCIE_CFGADDR_BUS ≠ 0) :=
  by and_intros <;> decide +kernel

end Sys2Proof.Tests.H1

namespace Sys2Proof.Tests.H2

def w1 : Chip := R
def w2 : Chip := (dram (R.setF STOR_STATUS_BUSY 1))
def w3 : Chip := ((dram (R.setF STOR_STATUS_BUSY 1)).setF STOR_BLK_CNT_DIR 1)
def w4 : Chip := ({ R.setF STOR_QCMD_GO 1 with hosts := { R.hosts with qRx := [1,2,3,4,5,6], sample := [(3, some 500)], peak := [(3, some 500)] } }.setF USB_CTL_EN 1)
def vals : List Int := (List.range 28).map fun i => if i = 16 then 900 else if i = 3 then 1000 else (200:Int)

/-- states and operands that meet the hypotheses of `Obligations.HostInterfaces`, clause by clause -/
theorem witness_HostInterfaces_2 :
    -- storEnable, storQdataAccess
    ((st w1).chip.mainRuns = true ∧ (st w1).chip.domainUp (blockDomain 19) = true ∧ (st w1).chip.domainUp (blockDomain 20) = true) ∧
    -- storBlkGo
    ((st w1).chip.mainRuns = true ∧ (st w1).chip.domainUp (blockDomain 19) = true ∧ (st w1).chip.domainUp (blockDomain 20) = true ∧
      (st w1).chip.fb STOR_STATUS_BUSY = false) ∧
    -- storQcmdGo
    ((st w1).chip.mainRuns = true ∧ (st w1).chip.domainUp (blockDomain 19) = true ∧ (st w1).chip.domainUp (blockDomain 20) = true ∧
      (st w1).chip.fb STOR_QCMD_GO = false) ∧
    -- cardChange
    ((st w1).chip.mainRuns = true ∧ (st w1).chip.domainUp (blockDomain 19) = true ∧ (st w1).chip.domainUp (blockDomain 20) = true ∧
      (st w1).chip.fb STOR_STATUS_PRESENT ≠ true) ∧
    -- sensSample
    ((st w1).chip.mainRuns = true ∧ (st w1).chip.domainUp (blockDomain 19) = true ∧ (st w1).chip.domainUp (blockDomain 20) = true ∧ vals.length = 28 ∧
      vals[16]? = some 900 ∧ vals[3]? = some 1000) ∧
    -- daybSwgo
    ((st w1).chip.mainRuns = true ∧ (st w1).chip.domainUp (blockDomain 19) = true ∧ (st w1).chip.domainUp (blockDomain 20) = true ∧
      Word.bits 20483 11 0 < 2048) ∧
    -- storBlkDone
    ((st w2).chip.mainRuns = true ∧ (st w2).chip.domainUp (blockDomain 19) = true ∧ (st w2).chip.domainUp (blockDomain 20) = true ∧
      (st w2).chip.fb STOR_STATUS_BUSY = true) ∧
    -- storBlkDone
    ((st w3).chip.mainRuns = true ∧ (st w3).chip.domainUp (blockDomain 19) = true ∧ (st w3).chip.domainUp (blockDomain 20) = true ∧
      (st w3).chip.fb STOR_STATUS_BUSY = true ∧
      (st w3).chip.f STOR_BLK_ADDR_ADDR * 256 + (st w3).chip.f STOR_BLK_CNT_COUNT * 512 ≤ (st w3).chip.dramTop ∧
      (st w3).chip.fb STOR_BLK_CNT_DIR = true) ∧
    -- storQcmdDone
    ((st w4).chip.mainRuns = true ∧ (st w4).chip.domainUp (blockDomain 19) = true ∧ (st w4).chip.domainUp (blockDomain 20) = true ∧
      (st w4).chip.fb STOR_QCMD_GO = true) ∧
    -- storQdataAccess
    ((st w4).chip.mainRuns = true ∧ (st w4).chip.domainUp (blockDomain 19) = true ∧ (st w4).chip.domainUp (blockDomain 20) = true ∧
      4 ≤ (st w4).chip.hosts.qRx.length) ∧
    -- usbConnectChange, usbOvercurrent
    ((st w4).chip.mainRuns = true ∧ (st w4).chip.domainUp (blockDomain 19) = true ∧ (st w4).chip.domainUp (blockDomain 20) = true ∧
      (st w4).chip.fb USB_CTL_EN = true) ∧
    -- daybSwgo
    ((st w4).chip.mainRuns = true ∧ (st w4).chip.domainUp (blockDomain 19) = true ∧ (st w4).chip.domainUp (blockDomain 20) = true ∧
      2048 ≤ Word.bits 305834224 11 0 ∧ (st w4).chip.dayb.frozen = false) :=
  by and_intros <;> decide +kernel

end Sys2Proof.Tests.H2

namespace Sys2Proof.Tests.I1

def fr (cmd : Nat) (body : List Byte) (sg : Bool) : List Byte := leBytes 1 1 ++ leBytes 1 cmd ++ leBytes 2 0x77 ++ leBytes 2 body.length ++ leBytes 1 sg.toNat ++ leBytes 1 0 ++ body ++ (if sg then List.replicate 112 3 else [])
def R1 : Chip := { R with count := 20000000000 }
def onT (t : Nat) (l : List Byte) (c : Chip) : Chip := c.modTrans t fun x => { x with req := l, state := 2, since := 5 }
def w2 : Chip := (R1.modTrans 0 fun x => { x with state := 1, req := [1,1] })
def w3 : Chip := (onT 1 (fr 1 [] false) R1)
def w4 : Chip := (onT 0 (fr 2 [] false) R1)
def w5 : Chip := (onT 0 (fr 3 [] false) R1)
def w6 : Chip := (onT 0 (fr 4 [] false) R1)
def w8 : Chip := (onT 0 (fr 5 (leBytes 8 0x200000000) false) R1)
def w9 : Chip := (onT 0 (fr 5 (leBytes 8 0) false) R1)
def w10 : Chip := (onT 0 (fr 6 [] false) { R1 with pm := { R1.pm with repair := [(5, 6)] } })
def stg (c : Chip) : Chip := { c with pm := { c.pm with staging := some ⟨0, 1, 5⟩, holdsFlash := true } }
def f15 := fr 0x15 (leBytes 12 7) false
def w11 : Chip := (stg (onT 0 f15 R1))
def f16 (n : Nat) := fr 0x16 (leBytes 4 n) false
def w13 : Chip := (stg (onT 0 (f16 1) R1))

/-- states and operands that meet the hypotheses of `Obligations.PostmasterOpenCommands`, clause by clause -/
theorem witness_PostmasterOpenCommands_1 :
    -- info
    (NextFrame (st w3).chip 1 (fr 1 [] false) 1 0) ∧
    -- nonce
    (NextFrame (st w4).chip 0 (fr 2 [] false) 2 0) ∧
    -- status
    (NextFrame (st w5).chip 0 (fr 3 [] false) 3 0) ∧
    -- sensors
    (NextFrame (st w6).chip 0 (fr 4 [] false) 4 0 ∧ (st w6).chip.mainRuns = true) ∧
    -- daybook
    (NextFrame (st w8).chip 0 (fr 5 (leBytes 8 8589934592) false) 5 8 ∧ 1 ≤ frameNum (frameBody (fr 5 (leBytes 8 8589934592) false)) 4 4 ∧
      frameNum (frameBody (fr 5 (leBytes 8 8589934592) false)) 4 4 ≤ 30 ∧ ∃ q1, (st w8).chip.dayb.epoch = some q1) ∧
    -- daybook
    (NextFrame (st w9).chip 0 (fr 5 (leBytes 8 0) false) 5 8 ∧
      (frameNum (frameBody (fr 5 (leBytes 8 0) false)) 4 4 = 0 ∨ 31 ≤ frameNum (frameBody (fr 5 (leBytes 8 0) false)) 4 4)) ∧
    -- repair
    (NextFrame (st w10).chip 0 (fr 6 [] false) 6 0) ∧
    -- stageTimeout
    (∃ q1, (st w11).chip.pm.staging = some q1 ∧ q1.last + 10 * 10 ^ 9 ≤ (st w11).chip.now) ∧
    -- stageEnd
    (NextFrame (st w13).chip 0 (f16 1) 22 4 ∧ ∃ q1, (st w13).chip.stagingOf 0 = some q1 ∧ frameNum (frameBody (f16 1)) 0 4 < 2) ∧
    -- smbBlockWriteAppend
    ((st R1).chip.pmUp = true ∧ (fr 1 [] false).length ≤ 255 ∧ ((st R1).chip.trans 0).state ≠ 2) ∧
    -- smbBlockWriteSubmit
    ((st R1).chip.pmUp = true ∧ (fr 1 [] false).length ≤ 255 ∧ ((st R1).chip.trans 0).state ≠ 2 ∧
      frameOk ((if ((st R1).chip.trans 0).state = 1 then ((st R1).chip.trans 0).req else []) ++ fr 1 [] false) = true ∧
      pmCommand (frameCmd ((if ((st R1).chip.trans 0).state = 1 then ((st R1).chip.trans 0).req else []) ++ fr 1 [] false)) = true) ∧
    -- smbBlockRead, smbReadState, pmRestart
    ((st R1).chip.pmUp = true) ∧
    -- udpFrame
    ((st R1).chip.pmUp = true ∧ ((st R1).chip.trans 1).state ≠ 2 ∧ frameOk (fr 1 [] false) = true ∧ pmCommand (frameCmd (fr 1 [] false)) = true) ∧
    -- smbBlockWriteAppend
    ((st w2).chip.pmUp = true ∧ (List.drop 2 (fr 34 [] false)).length ≤ 255 ∧ ((st w2).chip.trans 0).state ≠ 2) ∧
    -- smbBlockWriteSubmit
    ((st w2).chip.pmUp = true ∧ (List.drop 2 (fr 34 [] false)).length ≤ 255 ∧ ((st w2).chip.trans 0).state ≠ 2 ∧
      frameOk ((if ((st w2).chip.trans 0).state = 1 then ((st w2).chip.trans 0).req else []) ++ List.drop 2 (fr 34 [] false)) = true ∧
      pmCommand (frameCmd ((if ((st w2).chip.trans 0).state = 1 then ((st w2).chip.trans 0).req else []) ++ List.drop 2 (fr 34 [] false))) = true) ∧
    -- smbBlockWriteAppend
    ((st R1).chip.pmUp = true ∧ [1].length ≤ 255 ∧ ((st R1).chip.trans 0).state ≠ 2) ∧
    -- smbBlockWriteSubmit
    ((st R1).chip.pmUp = true ∧ [1].length ≤ 255 ∧ ((st R1).chip.trans 0).state ≠ 2 ∧
      frameOk ((if ((st R1).chip.trans 0).state = 1 then ((st R1).chip.trans 0).req else []) ++ [1]) = false) ∧
    -- smbBlockWriteAppend
    ((st w3).chip.pmUp = true ∧ ([] : List Byte).length ≤ 255 ∧ ((st w3).chip.trans 0).state ≠ 2) ∧
    -- smbBlockWriteSubmit
    ((st w3).chip.pmUp = true ∧ ([] : List Byte).length ≤ 255 ∧ ((st w3).chip.trans 0).state ≠ 2 ∧
      frameOk ((if ((st w3).chip.trans 0).state = 1 then ((st w3).chip.trans 0).req else []) ++ []) = false) ∧
    -- udpFrame
    ((st w8).chip.pmUp = true ∧ ((st w8).chip.trans 1).state ≠ 2 ∧ frameOk (fr 5 (leBytes 8 8589934592) false) = true ∧
      pmCommand (frameCmd (fr 5 (leBytes 8 8589934592) false)) = true) ∧
    -- udpFrame
    ((st w11).chip.pmUp = true ∧ ((st w11).chip.trans 1).state ≠ 2 ∧ frameOk f15 = true ∧ pmCommand (frameCmd f15) = true) ∧
    -- udpFrame
    ((st w13).chip.pmUp = true ∧ ((st w13).chip.trans 1).state ≠ 2 ∧ frameOk (f16 1) = true ∧ pmCommand (frameCmd (f16 1)) = true) :=
  ⟨(by unfold NextFrame; decide +kernel),
    (by unfold NextFrame; decide +kernel),
    (by unfold NextFrame; decide +kernel),
    ⟨by unfold NextFrame; decide +kernel, by decide +kernel⟩,
    by refine ⟨by unfold NextFrame; decide +kernel, ?_, ?_, ⟨_, someEq ?_⟩⟩ <;> decide +kernel,
    ⟨by unfold NextFrame; decide +kernel, by decide +kernel⟩,
    (by unfold NextFrame; decide +kernel),
    ⟨_, someEq (by decide +kernel), by decide +kernel⟩,
    ⟨by unfold NextFrame; decide +kernel, ⟨_, someEq (by decide +kernel), by decide +kernel⟩⟩,
    by and_intros <;> decide +kernel⟩

end Sys2Proof.Tests.I1

namespace Sys2Proof.Tests.I2

def fr (cmd : Nat) (body : List Byte) (sg : Bool) : List Byte := leBytes 1 1 ++ leBytes 1 cmd ++ leBytes 2 0x77 ++ leBytes 2 body.length ++ leBytes 1 sg.toNat ++ leBytes 1 0 ++ body ++ (if sg then List.replicate 112 3 else [])
def R1 : Chip := { R with count := 20000000000 }
def onT (t : Nat) (l : List Byte) (c : Chip) : Chip := c.modTrans t fun x => { x with req := l, state := 2, since := 5 }
def stg (c : Chip) : Chip := { c with pm := { c.pm with staging := some ⟨0, 1, 5⟩, holdsFlash := true } }
def f15 := fr 0x15 (leBytes 16 7) false
def w1 : Chip := (stg (onT 0 f15 R1))
def w2 : Chip := ((onT 0 f15 R1))
def w3 : Chip := { R1 with flips := [(0x1E00000000, ⟨4, 0⟩)] }

/-- states and operands that meet the hypotheses of `Obligations.PostmasterOpenCommands`, clause by clause -/
theorem witness_PostmasterOpenCommands_2 :
    -- stageData
    (NextFrame (st w1).chip 0 f15 21 16 ∧ 8 ≤ 16 ∧ 16 ≤ 1024 ∧ ∃ q1, (st w1).chip.stagingOf 0 = some q1) ∧
    -- stageData
    (NextFrame (st w2).chip 0 f15 21 16 ∧ 8 ≤ 16 ∧ 16 ≤ 1024 ∧ (st w2).chip.stagingOf 0 = none) ∧
    -- pmScrub
    ((st w3).chip.pmUp = true ∧ 128849018880 ≤ 128849018880 ∧ 128849018880 < 128849543168 ∧
      popcount 64 (sget noErr (st w3).chip.flips 128849018880).data + popcount 8 (sget noErr (st w3).chip.flips 128849018880).chk = 1) :=
  ⟨by refine ⟨by unfold NextFrame; decide +kernel, ?_, ?_, ⟨_, someEq ?_⟩⟩ <;> decide +kernel,
    by refine ⟨by unfold NextFrame; decide +kernel, ?_, ?_, ?_⟩ <;> decide +kernel,
    by and_intros <;> decide +kernel⟩

end Sys2Proof.Tests.I2

namespace Sys2Proof.Tests.I3

def key : List Byte := List.replicate 32 9
def nce : List Byte := (List.range 16).map (BitVec.ofNat 8 ·)
def fr (cmd : Nat) (body : List Byte) (sg : Bool) : List Byte := leBytes 1 1 ++ leBytes 1 cmd ++ leBytes 2 0x77 ++ leBytes 2 body.length ++ leBytes 1 sg.toNat ++ leBytes 1 0 ++ body ++ (if sg then nce ++ key ++ List.replicate 64 3 else [])
def R1 : Chip := { R with count := 20000000000, power := { R.power with fuses := { R.power.fuses with title := [(0, ⟨[1, 2, 3], true, false⟩)], debug := [(0, ⟨[1, 2, 3], true, false⟩)] } } }
def onT (t : Nat) (l : List Byte) (c : Chip) : Chip := c.modTrans t fun x => { x with req := l, state := 2, since := 5, nonce := some (nce, 19999999999) }
def w (l : List Nat) : List Byte := l.flatMap (leBytes 4)
def w1 : Chip := { R1 with power := { R1.power with state := .dormant } }
def w2 : Chip := { R1 with power := { R1.power with state := .off, mainEn := false, pgood := false } }
def w3 : Chip := { R1 with power := { R1.power with seq := some ⟨2, 2⟩, pmHold := true, nresetLow := false } }
def w4 : Chip := (R1.setF SYS_BOOT_RESULT 2)
def fub : List Byte := (List.range 64).map (BitVec.ofNat 8 ·)
def R2 : Chip := { R1 with fu := { R1.fu with ready := true } }
def R3 : Chip := { (R2.modTrans 0 fun x => { x with req := fr 0x07 fub false }) with pm := { R2.pm with fuWait := some 0 }, fu := { R2.fu with slots := [(63, ⟨4, 63, 5, 0, false, 63⟩)] } }

/-- states and operands that meet the hypotheses of `Obligations.PostmasterSignedCommands`, clause by clause -/
theorem witness_PostmasterSignedCommands :
    -- repairClear
    (NextFrame (st (onT 0 (fr 24 [] true) R1)).chip 0 (fr 24 [] true) 24 0) ∧
    -- netSet
    (NextFrame (st (onT 0 (fr 25 (w [1, 2, 3, 4]) true) R1)).chip 0 (fr 25 (w [1, 2, 3, 4]) true) 25 16 ∧
      frameNum (frameBody (fr 25 (w [1, 2, 3, 4]) true)) 0 4 = 1) ∧
    -- power
    (NextFrame (st (onT 0 (fr 16 (w [0]) true) R1)).chip 0 (fr 16 (w [0]) true) 16 4 ∧ frameNum (frameBody (fr 16 (w [0]) true)) 0 4 = 0) ∧
    -- power
    (NextFrame (st (onT 0 (fr 16 (w [2]) true) R1)).chip 0 (fr 16 (w [2]) true) 16 4 ∧ frameNum (frameBody (fr 16 (w [2]) true)) 0 4 = 2 ∧
      (st (onT 0 (fr 16 (w [2]) true) R1)).chip.power.state ≠ Power.dormant) ∧
    -- power
    (NextFrame (st (onT 0 (fr 16 (w [2]) true) w1)).chip 0 (fr 16 (w [2]) true) 16 4 ∧ frameNum (frameBody (fr 16 (w [2]) true)) 0 4 = 2 ∧
      (st (onT 0 (fr 16 (w [2]) true) w1)).chip.power.state = Power.dormant) ∧
    -- reset
    (NextFrame (st (onT 0 (fr 17 [] true) R1)).chip 0 (fr 17 [] true) 17 0 ∧ (st (onT 0 (fr 17 [] true) R1)).chip.mainState = 0) ∧
    -- reset
    (NextFrame (st (onT 0 (fr 17 [] true) w2)).chip 0 (fr 17 [] true) 17 0 ∧ (st (onT 0 (fr 17 [] true) w2)).chip.mainState ≠ 0) ∧
    -- profileSet
    (NextFrame (st (onT 0 (fr 18 (w [259]) true) R1)).chip 0 (fr 18 (w [259]) true) 18 4 ∧ (st (onT 0 (fr 18 (w [259]) true) R1)).chip.mainState = 0 ∧
      Word.of (frameNum (frameBody (fr 18 (w [259]) true)) 0 4) &&& 263 = Word.of (frameNum (frameBody (fr 18 (w [259]) true)) 0 4)) ∧
    -- hold
    (NextFrame (st (onT 0 (fr 19 (w [1]) true) R1)).chip 0 (fr 19 (w [1]) true) 19 4 ∧ frameNum (frameBody (fr 19 (w [1]) true)) 0 4 = 1 ∧
      (st (onT 0 (fr 19 (w [1]) true) R1)).chip.mainPowered = true ∧ (st (onT 0 (fr 19 (w [1]) true) R1)).chip.power.seq = none) ∧
    -- hold
    (NextFrame (st (onT 0 (fr 19 (w [0]) true) w3)).chip 0 (fr 19 (w [0]) true) 19 4 ∧ frameNum (frameBody (fr 19 (w [0]) true)) 0 4 = 0 ∧
      ∃ q1, (st (onT 0 (fr 19 (w [0]) true) w3)).chip.power.seq = some q1 ∧ (st (onT 0 (fr 19 (w [0]) true) w3)).chip.power.nresetLow = false) ∧
    -- twin
    (NextFrame (st (onT 0 (fr 23 (w [1]) true) R1)).chip 0 (fr 23 (w [1]) true) 23 4 ∧ (st (onT 0 (fr 23 (w [1]) true) R1)).chip.mainState = 0 ∧
      (st (onT 0 (fr 23 (w [1]) true) R1)).chip.answersRead 63 ZOW_CMD = true) ∧
    -- stageBegin
    (NextFrame (st (onT 0 (fr 20 (w [1]) true) w4)).chip 0 (fr 20 (w [1]) true) 20 4 ∧ frameNum (frameBody (fr 20 (w [1]) true)) 0 4 < 2 ∧
      (st (onT 0 (fr 20 (w [1]) true) w4)).chip.pm.staging = none ∧ (st (onT 0 (fr 20 (w [1]) true) w4)).chip.mayStage = true ∧
      (st (onT 0 (fr 20 (w [1]) true) w4)).chip.activeSlot ≠ some (frameNum (frameBody (fr 20 (w [1]) true)) 0 4)) ∧
    -- stageBegin
    (NextFrame (st (onT 0 (fr 20 (w [1]) true) R1)).chip 0 (fr 20 (w [1]) true) 20 4 ∧ frameNum (frameBody (fr 20 (w [1]) true)) 0 4 < 2 ∧
      (st (onT 0 (fr 20 (w [1]) true) R1)).chip.pm.staging = none ∧
      ((st (onT 0 (fr 20 (w [1]) true) R1)).chip.mayStage = false ∨ (st (onT 0 (fr 20 (w [1]) true) R1)).chip.activeSlot = some (frameNum (frameBody (fr 20 (w [1]) true)) 0 4))) ∧
    -- overtempTrip
    ((st (onT 0 (fr 24 [] true) R1)).chip.power.vsb = true ∧ (st (onT 0 (fr 24 [] true) R1)).chip.mainPowered = true ∧ 920 ≤ 1000) ∧
    -- overtempTrip
    ((st (onT 0 (fr 25 (w [1, 2, 3, 4]) true) R1)).chip.power.vsb = true ∧ (st (onT 0 (fr 25 (w [1, 2, 3, 4]) true) R1)).chip.mainPowered = true ∧
      920 ≤ 1000) ∧
    -- overtempTrip
    ((st (onT 0 (fr 16 (w [0]) true) R1)).chip.power.vsb = true ∧ (st (onT 0 (fr 16 (w [0]) true) R1)).chip.mainPowered = true ∧ 920 ≤ 1000) ∧
    -- overtempTrip
    ((st (onT 0 (fr 7 ([11] ++ List.drop 1 fub) false) R2)).chip.power.vsb = true ∧
      (st (onT 0 (fr 7 ([11] ++ List.drop 1 fub) false) R2)).chip.mainPowered = true ∧ 920 ≤ 1000) ∧
    -- overtempTrip
    ((st R3).chip.power.vsb = true ∧ (st R3).chip.mainPowered = true ∧ 920 ≤ 1000) :=
  ⟨(by unfold NextFrame; decide +kernel),
    ⟨by unfold NextFrame; decide +kernel, by decide +kernel⟩,
    ⟨by unfold NextFrame; decide +kernel, by decide +kernel⟩,
    ⟨by unfold NextFrame; decide +kernel, by decide +kernel, by decide +kernel⟩,
    ⟨by unfold NextFrame; decide +kernel, by decide +kernel, by decide +kernel⟩,
    ⟨by unfold NextFrame; decide +kernel, by decide +kernel⟩,
    ⟨by unfold NextFrame; decide +kernel, by decide +kernel⟩,
    ⟨by unfold NextFrame; decide +kernel, by decide +kernel, by decide +kernel⟩,
    by refine ⟨by unfold NextFrame; decide +kernel, ?_, ?_, ?_⟩ <;> decide +kernel,
    by refine ⟨by unfold NextFrame; decide +kernel, ?_, ⟨_, someEq ?_, ?_⟩⟩ <;> decide +kernel,
    ⟨by unfold NextFrame; decide +kernel, by decide +kernel, by decide +kernel⟩,
    by refine ⟨by unfold NextFrame; decide +kernel, ?_, ?_, ?_, ?_⟩ <;> decide +kernel,
    by refine ⟨by unfold NextFrame; decide +kernel, ?_, ?_, ?_⟩ <;> decide +kernel,
    by and_intros <;> decide +kernel⟩

end Sys2Proof.Tests.I3

namespace Sys2Proof.Tests.J1

def key : List Byte := List.replicate 32 9
def nce : List Byte := (List.range 16).map (BitVec.ofNat 8 ·)
def fr (cmd : Nat) (body : List Byte) (sg : Bool) : List Byte := leBytes 1 1 ++ leBytes 1 cmd ++ leBytes 2 0x77 ++ leBytes 2 body.length ++ leBytes 1 sg.toNat ++ leBytes 1 0 ++ body ++ (if sg then nce ++ key ++ List.replicate 64 3 else [])
def R1 : Chip := { R with count := 20000000000, power := { R.power with fuses := { R.power.fuses with title := [(0, ⟨[1, 2, 3], true, false⟩)], debug := [(0, ⟨[1, 2, 3], true, false⟩)] } } }
def T (c : Chip) : Chip := c.modTrans 1 fun x => { x with nonce := some (nce, 19999999999) }
def R2 : Chip := T { R1 with dbgPort := { R1.dbgPort with nonce := some (nce, 19999999999) } }
def jt : Chip := { R2.setF DBG_STATUS_SESSION 1 with power := { R2.power with seq := some ⟨2, 2⟩ } }.setF DBG_STATUS_LEVEL 7
def jt2 : Chip := (R2.setF DBG_STATUS_SESSION 1).setF DBG_STATUS_LEVEL 7
def ns : Chip := { R2.setF DBG_STATUS_SESSION 2 with dbgPort := { R2.dbgPort with session := some ⟨2, 0xAABB, 19000000000⟩ } }
def w1 : Chip := { ns with count := 60000000000 }
def sess : Chip := (R2.setF DBG_STATUS_SESSION 2).setF DBG_STATUS_LEVEL 7
def hal (c : Chip) : Chip := c.modCore 0 fun x => { x with dbg := { x.dbg with halted := true, dpc := 0x40, haltReq := true } }
def w3 : Chip := (hal sess)
def hq : Chip := sess.modCore 0 fun x => { x with dbg := { x.dbg with haltReq := true } }

/-- states and operands that meet the hypotheses of `Obligations.DebugAccess`, clause by clause -/
theorem witness_DebugAccess :
    -- sessionTimeout
    (∃ q1, (st w1).chip.dbgPort.session = some q1 ∧ q1.kind = 2 ∧ q1.last + 30 * 10 ^ 9 ≤ (st w1).chip.now ∧ (st w1).chip.f DBG_STATUS_SESSION = 2) ∧
    -- dbgDamGo
    ((st sess).chip.fb DBG_STATUS_SESSION = true ∧ (st sess).chip.mainRuns = true ∧ (st sess).chip.granted 0 = true ∧
      CleanPattern (st sess).chip (16 * 2 ^ 32 + (st sess).chip.f DBG_DAM_ADDR_ADDR * 4) 4) ∧
    -- idcode, bypass, samplePreload, challenge, tapReset
    ((st R2).chip.power.vsb = true) ∧
    -- response
    ((st R2).chip.power.vsb = true ∧ (st R2).chip.fb DBG_STATUS_SESSION = false) ∧
    -- dbgreg
    ((st R2).chip.power.vsb = true ∧ (st R2).chip.f DBG_STATUS_SESSION ≠ 1) ∧
    -- dbgOpen
    ((st R2).chip.pmUp = true ∧ frameOk (fr 64 (leBytes 4 1) true) = true ∧ frameCmd (fr 64 (leBytes 4 1) true) = 64 ∧
      frameLen (fr 64 (leBytes 4 1) true) = 4 ∧ (st R2).chip.fb DBG_STATUS_SESSION = false) ∧
    -- extest
    ((st jt).chip.power.vsb = true ∧ (st jt).chip.granted 1 = true ∧ (st jt).chip.power.seq = some { cls := 2, source := 2 }) ∧
    -- dbgreg
    ((st jt2).chip.power.vsb = true ∧ (st jt2).chip.f DBG_STATUS_SESSION = 1 ∧ (st jt2).chip.mainRuns = true ∧
      98304 + (BitVec.ofNat 12 (DBG_STATUS - 98304)).toNat = DBG_STATUS) ∧
    -- dbgreg
    ((st jt2).chip.power.vsb = true ∧ (st jt2).chip.f DBG_STATUS_SESSION = 1 ∧ (st jt2).chip.mainRuns = true ∧
      98304 + (BitVec.ofNat 12 (DBG_IRQ_EN - 98304)).toNat = DBG_IRQ_EN) ∧
    -- dbgReg
    ((st jt2).chip.pmUp = true ∧ frameOk (fr 65 (leBytes 8 1) true) = true ∧ frameCmd (fr 65 (leBytes 8 1) true) = 65 ∧
      frameLen (fr 65 (leBytes 8 1) true) % 8 = 0 ∧ (st jt2).chip.netSession 43707 = false) ∧
    -- dbgClose
    ((st ns).chip.pmUp = true ∧ frameOk (fr 66 [] false) = true ∧ frameCmd (fr 66 [] false) = 66 ∧ frameLen (fr 66 [] false) = 0 ∧
      (st ns).chip.netSession 43707 = true) ∧
    -- dbgHaltWrite
    ((st sess).chip.fb DBG_STATUS_SESSION = true ∧ (st sess).chip.mainRuns = true ∧ (st sess).chip.granted 0 = true ∧ Word.bit 1 (0 % 32) = true ∧
      (st sess).chip.regBit (if decide (32 ≤ 0) = true then SYS_RUN_HI else SYS_RUN_LO) (0 % 32) = true ∧
      (st sess).chip.domainUp (coreDomain 0) = true ∧ ((st sess).chip.core 0).dbg.halted = false) ∧
    -- dbgFeed
    ((st sess).chip.fb DBG_STATUS_SESSION = true ∧ (st sess).chip.mainRuns = true ∧
      (st sess).chip.mayFeed ((st sess).chip.f DBG_FEED_SEL_CORE) = true ∧
      ((st sess).chip.core ((st sess).chip.f DBG_FEED_SEL_CORE)).dbg.halted = false) ∧
    -- dbgResume
    ((st w3).chip.fb DBG_STATUS_SESSION = true ∧ (st w3).chip.mainRuns = true ∧ Word.bit 1 (0 % 32) = true ∧
      ((st w3).chip.core 0).dbg.halted = true) ∧
    -- dbgStep
    ((st w3).chip.fb DBG_STATUS_SESSION = true ∧ (st w3).chip.mainRuns = true ∧ ((st w3).chip.core 0).dbg.halted = true) ∧
    -- coreHalt
    (((st hq).chip.core 0).dbg.haltReq = true ∧ (st hq).chip.coreFree 0 = true ∧ ((st hq).chip.core 0).slot = none ∧
      (st hq).chip.drawingOn 0 = false) :=
  ⟨by refine ⟨_, someEq ?_, ?_, ?_, ?_⟩ <;> decide +kernel,
    by refine ⟨?_, ?_, ?_, by unfold CleanPattern; decide +kernel⟩ <;> decide +kernel,
    by and_intros <;> decide +kernel⟩

end Sys2Proof.Tests.J1

namespace Sys2Proof.Tests.K1

def R1 : Chip := { R with count := 20000000000 }
def slotW (n : Nat) (st : Nat) (ws : List Nat) (c : Chip) : Chip := { c.setBytes (0x1D30000000 + 64 * n) (ws.flatMap (leBytes 4)) with fu := { c.fu with slots := (n, ⟨st, 0, 77, 0, false, 0⟩) :: c.fu.slots } }
def full : Chip := { R1 with fu := { R1.fu with slots := (List.range 63).map fun i => (i, ⟨1, 0, 0, 0, false, 0⟩) } }
def w1 : Chip := (full.setReg SYS_EXPERT 0xFFFFFFFF)
def w3 : Chip := (slotW 0 2 [1,5,0,1,3] R1)
def w4 : Chip := (slotW 0 2 [99,5,0,1,3] R1)
def w5 : Chip := (slotW 0 3 [1,5,0,1,3] R1)

/-- states and operands that meet the hypotheses of `Obligations.PoBoxSlots`, clause by clause -/
theorem witness_PoBoxSlots :
    -- poboxPost
    ((st R1).chip.mainRuns = true ∧ ∃ q1, (st R1).chip.selected 0 = some q1 ∧ (st R1).chip.ownsSlot 0 q1 = false) ∧
    -- poboxPost
    ((st full).chip.mainRuns = true ∧ ∃ q1, (st full).chip.selected 0 = some q1 ∧ (st full).chip.ownsSlot 0 q1 = true ∧
      ((st full).chip.boxSlot q1).state = 1 ∧ (st full).chip.fu.role ≠ 2) ∧
    -- poboxRelease
    ((st full).chip.mainRuns = true ∧ ∃ q1, (st full).chip.selected 0 = some q1 ∧ (st full).chip.ownsSlot 0 q1 = true ∧
      (((st full).chip.boxSlot q1).state = 1 ∨ ((st full).chip.boxSlot q1).state = 4)) ∧
    -- poboxPost
    ((st w3).chip.mainRuns = true ∧ ∃ q1, (st w3).chip.selected 0 = some q1 ∧ (st w3).chip.ownsSlot 0 q1 = true ∧
      ((st w3).chip.boxSlot q1).state ≠ 1) ∧
    -- poboxAbort
    ((st w3).chip.mainRuns = true ∧ ∃ q1, (st w3).chip.selected 0 = some q1 ∧ (st w3).chip.ownsSlot 0 q1 = true ∧
      ((st w3).chip.boxSlot q1).state = 2 ∧ ((st w3).chip.boxSlot q1).discard = false) ∧
    -- poboxServe
    (∃ q1, (st w3).chip.nextPosted = some q1 ∧ (st w3).chip.fuServes = true ∧ (st w3).chip.busySlot = none ∧
      opKnown ((st w3).chip.boxWord q1 0 % 256) = true) ∧
    -- poboxServe
    (∃ q1, (st w4).chip.nextPosted = some q1 ∧ (st w4).chip.fuServes = true ∧ (st w4).chip.busySlot = none ∧
      opKnown ((st w4).chip.boxWord q1 0 % 256) = false ∧ ((st w4).chip.boxSlot q1).abort = 0 ∧ ((st w4).chip.boxSlot q1).discard = false) ∧
    -- poboxAbort
    ((st w5).chip.mainRuns = true ∧ ∃ q1, (st w5).chip.selected 0 = some q1 ∧ (st w5).chip.ownsSlot 0 q1 = true ∧
      ((st w5).chip.boxSlot q1).state = 3) ∧
    -- poboxClaimRead
    ((st R1).chip.mainRuns = true ∧ 0 < 63 ∧ ((st R1).chip.boxSlot 0).state = 0 ∧ (∀ (m : Nat), m < 0 → ((st R1).chip.boxSlot m).state ≠ 0)) ∧
    -- poboxClaimRead
    ((st full).chip.mainRuns = true ∧ (∀ (m : Nat), m < 63 → ((st full).chip.boxSlot m).state ≠ 0)) ∧
    -- poboxXforce
    ((st w1).chip.mainRuns = true ∧ (st w1).chip.expert 22 = true ∧ Word.bit 2147483653 31 = true ∧ Word.bits 2147483653 5 0 < 63 ∧
      (((st w1).chip.boxSlot (Word.bits 2147483653 5 0)).state = 1 ∨ ((st w1).chip.boxSlot (Word.bits 2147483653 5 0)).state = 4)) ∧
    -- poboxXinj
    ((st w1).chip.mainRuns = true ∧ (st w1).chip.expert 22 = true ∧ (st w1).chip.fu.sealed = false) :=
  ⟨by refine ⟨?_, ⟨_, someEq ?_, ?_⟩⟩ <;> decide +kernel,
    by refine ⟨?_, ⟨_, someEq ?_, ?_, ?_, ?_⟩⟩ <;> decide +kernel,
    by refine ⟨?_, ⟨_, someEq ?_, ?_, ?_⟩⟩ <;> decide +kernel,
    by refine ⟨?_, ⟨_, someEq ?_, ?_, ?_⟩⟩ <;> decide +kernel,
    by refine ⟨?_, ⟨_, someEq ?_, ?_, ?_, ?_⟩⟩ <;> decide +kernel,
    by refine ⟨_, someEq ?_, ?_, ?_, ?_⟩ <;> decide +kernel,
    by refine ⟨_, someEq ?_, ?_, ?_, ?_, ?_, ?_⟩ <;> decide +kernel,
    by refine ⟨?_, ⟨_, someEq ?_, ?_, ?_⟩⟩ <;> decide +kernel,
    by and_intros <;> decide +kernel⟩

end Sys2Proof.Tests.K1

namespace Sys2Proof.Tests.K2

def keyS : List Byte := [1, 2, 3]
def R1 : Chip := { R with count := 20000000000 }
def fu (f : Franking → Franking) (c : Chip) : Chip := { c with fu := f c.fu }
def slotW (n : Nat) (st : Nat) (ws : List Nat) (c : Chip) : Chip := { c.setBytes (0x1D30000000 + 64 * n) (ws.flatMap (leBytes 4)) with fu := { c.fu with slots := (n, ⟨st, 0, 77, 0, false, 0⟩) :: c.fu.slots } }
def w1 : Chip := slotW 5 3 [1, 9, 0, 2, 1, 3] R1
def run : Chip := fu (fun u => { u with rom := false, recovery := false, recoveryHard := false, unarchived := 0, seals := [(0, ⟨keyS, true, false⟩)], storeOk := true }) R1
def w4 : Chip := slotW 5 3 [2, 9, 0, 1, 20, 1] run
def runS : Chip := fu (fun u => { u with sealed := true }) run
def w5 : Chip := slotW 5 3 [2, 9, 0, 1, 20, 1] runS
def w10 : Chip := slotW 5 3 [4, 9, 0, 1, 2] (fu (fun u => { u with reports := [(1, (List.range 1248).map (BitVec.ofNat 8 ·))] }) runS)
def w11 : Chip := slotW 5 3 [4, 9, 0, 1, 2] runS
def w12 : Chip := slotW 5 3 [5, 9, 0, 1, 2] runS
def w13 : Chip := slotW 5 3 [6, 9, 0, 1, 2] runS

/-- states and operands that meet the hypotheses of `Obligations.FrankingOperations`, clause by clause -/
theorem witness_FrankingOperations_1 :
    -- read
    (Serving (st w1).chip 5 1 ∧ 1 ≤ (st w1).chip.boxWord 5 3 ∧ (st w1).chip.boxWord 5 3 ≤ 5 ∧
      (∀ (i : Nat), i < (st w1).chip.boxWord 5 3 → (st w1).chip.boxWord 5 (4 + i) < 128)) ∧
    -- commit
    (Serving (st w4).chip 5 2 ∧ (st w4).chip.tkey 5 ≠ 0 ∧ 1 ≤ (st w4).chip.boxWord 5 3 ∧ (st w4).chip.boxWord 5 3 ≤ 4 ∧
      List.find? (fun e => e.tkey == (st w4).chip.tkey 5) (st w4).chip.fu.journal = none ∧ (st w4).chip.commitHeld = false ∧
      (st w4).chip.fu.sealed = false) ∧
    -- commit
    (Serving (st w5).chip 5 2 ∧ (st w5).chip.tkey 5 ≠ 0 ∧ 1 ≤ (st w5).chip.boxWord 5 3 ∧ (st w5).chip.boxWord 5 3 ≤ 4 ∧
      List.find? (fun e => e.tkey == (st w5).chip.tkey 5) (st w5).chip.fu.journal = none ∧ (st w5).chip.commitHeld = false ∧
      (st w5).chip.fu.sealed = true ∧
      ∃ q1, (st w5).chip.checkChanges (List.map (fun i => ((st w5).chip.boxWord 5 (4 + 2 * i), sextInt 32 ((st w5).chip.boxWord 5 (5 + 2 * i)))) (List.range ((st w5).chip.boxWord 5 3))) (st w5).chip.fu.copyA.val = Except.error q1) ∧
    -- reportRead
    (Serving (st w10).chip 5 4 ∧ (st w10).chip.boxWord 5 3 < 4 ∧ (st w10).chip.boxWord 5 4 < 32 ∧
      ∃ q1, List.find? (fun r => r.fst == (st w10).chip.boxWord 5 3) (st w10).chip.fu.reports = some q1) ∧
    -- reportRead
    (Serving (st w11).chip 5 4 ∧ (st w11).chip.boxWord 5 3 < 4 ∧ (st w11).chip.boxWord 5 4 < 32 ∧
      List.find? (fun r => r.fst == (st w11).chip.boxWord 5 3) (st w11).chip.fu.reports = none) ∧
    -- ident
    (Serving (st w12).chip 5 5) ∧
    -- time
    (Serving (st w13).chip 5 6) :=
  ⟨by refine ⟨by unfold Serving; decide +kernel, ?_, ?_, ?_⟩ <;> decide +kernel,
    by refine ⟨by unfold Serving; decide +kernel, ?_, ?_, ?_, ?_, ?_, ?_⟩ <;> decide +kernel,
    by refine ⟨by unfold Serving; decide +kernel, ?_, ?_, ?_, ?_, ?_, ?_, ⟨_, errEq ?_⟩⟩ <;> decide +kernel,
    by refine ⟨by unfold Serving; decide +kernel, ?_, ?_, ⟨_, someEq ?_⟩⟩ <;> decide +kernel,
    by refine ⟨by unfold Serving; decide +kernel, ?_, ?_, ?_⟩ <;> decide +kernel,
    (by unfold Serving; decide +kernel),
    (by unfold Serving; decide +kernel)⟩

end Sys2Proof.Tests.K2

namespace Sys2Proof.Tests.K3

def keyS : List Byte := [1, 2, 3]
def R1 : Chip := { R with count := 20000000000 }
def fu (f : Franking → Franking) (c : Chip) : Chip := { c with fu := f c.fu }
def slotW (n : Nat) (st : Nat) (ws : List Nat) (c : Chip) : Chip := { c.setBytes (0x1D30000000 + 64 * n) (ws.flatMap (leBytes 4)) with fu := { c.fu with slots := (n, ⟨st, 0, 77, 0, false, 0⟩) :: c.fu.slots } }
def run : Chip := fu (fun u => { u with rom := false, recovery := false, recoveryHard := false, unarchived := 0, seals := [(0, ⟨keyS, true, false⟩)], storeOk := true }) R1
def runS : Chip := fu (fun u => { u with sealed := true }) run
def kw : List Nat := List.replicate 8 0x09090909
def w1 : Chip := slotW 63 3 ([7, 9, 0, 0] ++ kw) runS
def door (c : Chip) := c.setF FU_PIN_IN_DOOR 8
def w2 : Chip := slotW 63 3 ([7, 9, 0, 0] ++ kw) (door runS)
def w4 : Chip := slotW 63 3 ([8, 9, 0, 0] ++ kw) run
def w6 : Chip := slotW 5 3 [9, 9, 0, 3, 2] runS
def w7 : Chip := slotW 63 3 [10, 9, 0, 48, 2, 3] runS
def w8 : Chip := slotW 63 3 [11, 9, 0, 48, 2, 3] runS
def w9 : Chip := slotW 63 3 [12, 9, 0, 48, 2, 3] runS
def w10 : Chip := slotW 63 3 [12, 9, 0, 48, 2, 3] run
def w11 : Chip := slotW 63 3 [13, 9, 0, 48, 2, 3] run
def w12 : Chip := slotW 63 3 [13, 9, 0, 4800, 2, 3] (runS.setF FU_RTC_STAT_VALID 1)
def w13 : Chip := slotW 63 3 [14, 9, 0, 4800, 2, 3] runS
def w15 : Chip := slotW 63 3 [15, 9, 0, 4800, 2, 3] runS
def w16 : Chip := slotW 63 3 [16, 9, 0, 0x3FF, 2, 3] runS

/-- states and operands that meet the hypotheses of `Obligations.FrankingOperations`, clause by clause -/
theorem witness_FrankingOperations_2 :
    -- sealBreak
    (Serving (st w1).chip 63 7 ∧ (st w1).chip.logicDoor = false) ∧
    -- sealBreak
    (Serving (st w2).chip 63 7 ∧ (st w2).chip.unenrolled = false ∧ (st w2).chip.logicDoor = true) ∧
    -- reseal
    (Serving (st w4).chip 63 8 ∧ (st w4).chip.unenrolled = false ∧ (st w4).chip.fu.rom = false) ∧
    -- notice
    (Serving (st w6).chip 5 9 ∧ (st w6).chip.boxWord 5 3 < 16) ∧
    -- stage
    (Serving (st w7).chip 63 10 ∧ (st w7).chip.boxWord 63 3 ≤ 4048 ∧ (st w7).chip.boxWord 63 3 % 4 = 0) ∧
    -- fwWrite
    (Serving (st w8).chip 63 11 ∧ (st w8).chip.boxWord 63 3 ≤ 262096 ∧ (st w8).chip.boxWord 63 3 % 4 = 0 ∧ (st w8).chip.fu.storeOk = true) ∧
    -- fwActivate
    (Serving (st w9).chip 63 12 ∧ (st w9).chip.fu.sealed = true) ∧
    -- fwActivate
    (Serving (st w10).chip 63 12 ∧ (st w10).chip.fu.sealed = false ∧ (st w10).chip.enrolment = none) ∧
    -- clockSet
    (Serving (st w11).chip 63 13 ∧ ((st w11).chip.fu.sealed = false ∨ (st w11).chip.fb FU_RTC_STAT_VALID = false)) ∧
    -- clockSet
    (Serving (st w12).chip 63 13 ∧ (st w12).chip.fu.sealed = true ∧ (st w12).chip.fb FU_RTC_STAT_VALID = true ∧
      (st w12).chip.rtc + 60 < (st w12).chip.boxWord 63 3) ∧
    -- meterInit
    (Serving (st w13).chip 63 14 ∧ (st w13).chip.fu.sealed = true) ∧
    -- recoverAck
    (Serving (st w15).chip 63 15) ∧
    -- faultClear
    (Serving (st w16).chip 63 16 ∧ (st w16).chip.boxWord 63 3 < 65536) :=
  ⟨⟨by unfold Serving; decide +kernel, by decide +kernel⟩,
    ⟨by unfold Serving; decide +kernel, by decide +kernel, by decide +kernel⟩,
    ⟨by unfold Serving; decide +kernel, by decide +kernel, by decide +kernel⟩,
    ⟨by unfold Serving; decide +kernel, by decide +kernel⟩,
    ⟨by unfold Serving; decide +kernel, by decide +kernel, by decide +kernel⟩,
    by refine ⟨by unfold Serving; decide +kernel, ?_, ?_, ?_⟩ <;> decide +kernel,
    ⟨by unfold Serving; decide +kernel, by decide +kernel⟩,
    ⟨by unfold Serving; decide +kernel, by decide +kernel, by decide +kernel⟩,
    ⟨by unfold Serving; decide +kernel, by decide +kernel⟩,
    by refine ⟨by unfold Serving; decide +kernel, ?_, ?_, ?_⟩ <;> decide +kernel,
    ⟨by unfold Serving; decide +kernel, by decide +kernel⟩,
    (by unfold Serving; decide +kernel),
    ⟨by unfold Serving; decide +kernel, by decide +kernel⟩⟩

end Sys2Proof.Tests.K3

namespace Sys2Proof.Tests.K5

def keyS : List Byte := [1, 2, 3]
def R1 : Chip := { R with count := 20000000000 }
def fu (f : Franking → Franking) (c : Chip) : Chip := { c with fu := f c.fu }
def slotW (n : Nat) (st : Nat) (ws : List Nat) (c : Chip) : Chip := { c.setBytes (0x1D30000000 + 64 * n) (ws.flatMap (leBytes 4)) with fu := { c.fu with slots := (n, ⟨st, 0, 77, 0, false, 0⟩) :: c.fu.slots } }
def run : Chip := fu (fun u => { u with rom := false, recovery := false, recoveryHard := false, unarchived := 0, seals := [(0, ⟨keyS, true, false⟩)], storeOk := true }) R1
def runS : Chip := fu (fun u => { u with sealed := true }) run
def w3 : Chip := slotW 5 3 [2, 9, 0, 1, 20, 3] (fu (fun u => { u with journal := ⟨7, 6, 9, 9, 0, 0, 0, [(20,1)], 0, [44]⟩ :: u.journal }) runS)

/-- states and operands that meet the hypotheses of `Obligations.FrankingOperations`, clause by clause -/
theorem witness_FrankingOperations_3 :
    -- commit
    (Serving (st w3).chip 5 2 ∧ (st w3).chip.tkey 5 ≠ 0 ∧ 1 ≤ (st w3).chip.boxWord 5 3 ∧ (st w3).chip.boxWord 5 3 ≤ 4 ∧
      ∃ q1, List.find? (fun e => e.tkey == (st w3).chip.tkey 5) (st w3).chip.fu.journal = some q1) :=
  by refine ⟨by unfold Serving; decide +kernel, ?_, ?_, ?_, ⟨_, someEq ?_⟩⟩ <;> decide +kernel

end Sys2Proof.Tests.K5

namespace Sys2Proof.Tests.L1

def fu (f : Franking → Franking) (c : Chip) : Chip := { c with fu := f c.fu }
def run : Chip := (fu (fun u => { u with rom := false, recovery := false, recoveryHard := false, unarchived := 0, storeOk := true }) R).setByte 0x1D10000000 7
def w1 : Chip := (fu (fun u => { u with vdd := false, ready := false }) run)
def pb (c : Chip) : Chip := c.setBytes (0x1D10000000 + 0x40 + 0xE00 + 16*2) ([20*256 + 1*16, 10 + 1000*65536, 10+1000*65536, 0].flatMap (leBytes 4))
def P (c : Chip) (f : PulseIn → PulseIn) : Chip := (pb c).modPulse 2 f
def w4 : Chip := (P (run.setRegBit FU_PIN_IN 2 true) fun x => { x with active := true })
def w6 : Chip := (P run fun x => { x with jam := true, counted := 3 })
def O (c : Chip) (f : MeterOut → MeterOut) : Chip := c.modMeterOut 2 f
def y0 : MeterOut := ⟨5, 0, false, 0, false⟩
def w7 : Chip := (O run fun _ => y0)
def w8 : Chip := (O (run.setRegBit FU_MOUT 2 true) fun _ => { y0 with phase := 1, active := true })
def w9 : Chip := (O run fun _ => { y0 with phase := 2, active := true })
def w10 : Chip := (fu (fun u => { u with spiRx := [1,2,3,4,5], mirRx := [7,8], mirTx := [1], wdtLocked := true }) (run.setF FU_SPI_CMD_GO 1))
def w11 : Chip := (fu (fun u => { u with spiRx := [1,2,3,4,5], mirRx := [7,8], mirTx := [1], rtcSet := some 77 }) ((run.setF FU_SPI_CMD_GO 1).setF FU_SPI_CMD_LEN 5))
def w13 : Chip := (fu (fun u => { u with unarchived := 2 }) run)
def mainOff (c : Chip) : Chip := { c with power := { c.power with state := .off, mainEn := false, pgood := false } }
def w15 : Chip := (mainOff (run.setF (FU_NOTICE_RECT_A_ON 1) 1))
def w16 : Chip := (run.setRegBit FU_PIN_IN 9 true)
def w17 : Chip := (fu (fun u => { u with role := 1, acksDue := [4] }) run)
def w19 : Chip := (fu (fun u => { u with role := 2 }) (run.setF ZOW_STATUS_STATE 5))

/-- states and operands that meet the hypotheses of `Obligations.FrankingPins`, clause by clause -/
theorem witness_FrankingPins :
    -- rtcSecond
    ((st w11).chip.power.vsbF = true ∧ ∃ q1, (st w11).chip.fu.rtcSet = some q1) ∧
    -- archiveWrite
    ((st w13).chip.fu.vdd = true ∧ (st w13).chip.fu.ready = true ∧ 0 < (st w13).chip.fu.unarchived ∧
      ∃ q1, (st w13).chip.fu.journal[(st w13).chip.fu.unarchived - 1]? = some q1 ∧ (st w13).chip.fu.doors = [] ∧ (st w13).chip.fu.doorOvf = 0) ∧
    -- fuWdtExpire, fuWdtKick, oscTrim, tamperTrip, fuSpiDataAccess, fuMirSend, meterReadback
    ((st run).chip.fu.vdd = true) ∧
    -- fuSpiGo
    ((st run).chip.fu.vdd = true ∧ (st run).chip.fb FU_SPI_CMD_GO = false) ∧
    -- fuMirDataAccess
    ((st run).chip.fu.vdd = true ∧ (st run).chip.fu.mirTx.length < 128) ∧
    -- pulseEdge
    ((st run).chip.fu.vdd = true ∧ (st run).chip.fu.vddio = true ∧ (st run).chip.regBit FU_PIN_IN 2 ≠ true) ∧
    -- archiveWrite
    ((st run).chip.fu.vdd = true ∧ (st run).chip.fu.ready = true) ∧
    -- rtcSecond
    ((st run).chip.power.vsbF = true ∧ (st run).chip.fu.rtcSet = none) ∧
    -- doorOpen
    ((st run).chip.power.vsbF = true ∧ (st run).chip.regBit FU_PIN_IN (8 + 1) = false ∧ (st run).chip.fu.vdd = true ∧
      (st run).chip.fu.unarchived < 896 ∧ (st run).chip.fu.role ≠ 2 ∧ (st run).chip.fu.demoted = false) ∧
    -- doorOpen
    ((st w1).chip.power.vsbF = true ∧ (st w1).chip.regBit FU_PIN_IN (8 + 1) = false ∧ (st w1).chip.fu.vdd = false ∧
      (st w1).chip.fu.doors.length < 16) ∧
    -- pulseJam
    ((st w4).chip.fu.vdd = true ∧ (st w4).chip.fu.vddio = true ∧ (st w4).chip.pulseCounted 2 = true ∧ ((st w4).chip.pulseIn 2).active = true ∧
      ((st w4).chip.pulseIn 2).jam = false) ∧
    -- pulseResume
    ((st w6).chip.fu.vdd = true ∧ ((st w6).chip.pulseIn 2).jam = true ∧ ((st w6).chip.pulseIn 2).active = false) ∧
    -- pulseCommit
    ((st w6).chip.fu.vdd = true ∧ (st w6).chip.fu.ready = true ∧ (st w6).chip.fu.demoted = false ∧ (st w6).chip.fu.role ≠ 2 ∧
      (st w6).chip.fu.unarchived < 896 ∧ 0 < ((st w6).chip.pulseIn 2).counted) ∧
    -- meterPulseStart
    ((st w7).chip.fu.vdd = true ∧ (st w7).chip.mayPulse = true ∧ 0 < ((st w7).chip.meterOut 2).pending ∧ ((st w7).chip.meterOut 2).fault = false ∧
      ((st w7).chip.meterOut 2).phase = 0) ∧
    -- meterPulseOff
    ((st w8).chip.fu.vdd = true ∧ ((st w8).chip.meterOut 2).phase = 1) ∧
    -- meterPulseEnd
    ((st w9).chip.fu.vdd = true ∧ ((st w9).chip.meterOut 2).phase = 2) ∧
    -- fuSpiDataAccess
    ((st w10).chip.fu.vdd = true ∧ 4 ≤ (st w10).chip.fu.spiRx.length) ∧
    -- fuSpiDone
    ((st w10).chip.fu.vdd = true ∧ (st w10).chip.fb FU_SPI_CMD_GO = true) ∧
    -- fuMirDataAccess
    ((st w10).chip.fu.vdd = true ∧ (st w10).chip.fu.mirRx = (st w10).chip.fu.mirRx.head (by decide +kernel) :: (st w10).chip.fu.mirRx.tail) ∧
    -- noticeGraceExpire
    ((st w15).chip.fu.vdd = true ∧ (st w15).chip.fu.ready = true ∧ (st w15).chip.usesNotice 1 = true ∧ (st w15).chip.mainRuns = false) ∧
    -- doorClose
    ((st w16).chip.power.vsbF = true ∧ (st w16).chip.regBit FU_PIN_IN (8 + 1) = true) ∧
    -- mirrorAckTimeout
    ((st w17).chip.fu.role = 1 ∧ (st w17).chip.fu.acksDue ≠ []) ∧
    -- fuDemote
    ((st w17).chip.fu.role = 1 ∧ (st w17).chip.fu.demoted = false ∧ (st w17).chip.anyRunning = false) ∧
    -- mirrorCommitReceive
    ((st w19).chip.paired = true ∧ (st w19).chip.fu.role = 2 ∧ (st w19).chip.fu.vdd = true ∧ (st w19).chip.fu.heldCommits = [] ∧
      (⟨3, 0, 5, 0, 1, 2, 3, [(2, 1)], 0, []⟩ : JEntry).gen = ((st w19).chip.fu.copyA.gen + 1) % 2 ^ 32) ∧
    -- mirrorCommitReceive
    ((st w19).chip.paired = true ∧ (st w19).chip.fu.role = 2) :=
  ⟨⟨by decide +kernel, ⟨_, someEq (by decide +kernel)⟩⟩,
    by refine ⟨?_, ?_, ?_, ⟨_, someEq ?_, ?_, ?_⟩⟩ <;> decide +kernel,
    by and_intros <;> decide +kernel⟩

end Sys2Proof.Tests.L1

namespace Sys2Proof.Tests.M1

def fu (f : Franking → Franking) (c : Chip) : Chip := { c with fu := f c.fu }
def zw (f : Zow → Zow) (c : Chip) : Chip := { c with zow := f c.zow }
def id2 : List Byte := List.replicate 32 8
def ro : Chip := fu (fun u => { u with rom := false, recovery := false, recoveryHard := false, storeOk := true, seals := [(0, ⟨id2, true, false⟩)], manifest := id2 }) R
def pr : Peer := ⟨id2, true, [id2], id2, true, ro.f SYS_PROFILE_CUR, false, none, false, 2, false, 1, false, 3, 5, [1, 2, 3, 4, 5]⟩
def fr : LinkFrame := ⟨0, true, 0, [], none, some (2, 0x55), false, true, true, none, [], 0⟩
def s0 (n : Nat) (c : Chip) : Chip := (c.setF ZOW_STATUS_STATE n).setF ZOW_CTL_EN 1
def pref (n : Nat) (c : Chip) : Chip := c.setF ZOW_CTL_ROLE_PREF n
def w1 : Chip := (s0 1 ro)
def w3 : Chip := (pref 1 (s0 2 ro))
def w4 : Chip := (pref 2 (s0 2 ro))
def w5 : Chip := (s0 3 ro)
def w6 : Chip := (zw (fun z => { z with goodOffsets := 15 }) (s0 3 ro))
def mir (c : Chip) := c.setF ZOW_STATUS_ROLE 2
def lead (c : Chip) := c.setF ZOW_STATUS_ROLE 1
def w7 : Chip := (mir (s0 5 ro))
def w8 : Chip := (fu (fun u => { u with stale := true }) (mir (s0 5 ro)))
def w9 : Chip := ((lead (s0 5 ro)).setF ZOW_LANE_LOCK 31)
def w10 : Chip := (mir (s0 4 ro))
def w11 : Chip := (fu (fun u => { u with journal := [] }) (mir (s0 4 ro)))
def w12 : Chip := (zw (fun z => { z with peerGen := 5 }) (fu (fun u => { u with journal := [] }) (mir (s0 4 ro))))

/-- states and operands that meet the hypotheses of `Obligations.ZowynResults`, clause by clause -/
theorem witness_ZowynResults_1 :
    -- zowAuthDone
    ((st w3).chip.zowUp = true ∧ (st w3).chip.zowState = 2 ∧ ∃ q1, (st w3).chip.decideRole pr = some q1 ∧ (st w3).chip.admission pr (some q1) = 0) ∧
    -- zowAuthDone
    ((st w4).chip.zowUp = true ∧ (st w4).chip.zowState = 2 ∧ ∃ q1, (st w4).chip.decideRole { pr with pref := 1 } = some q1 ∧
      (st w4).chip.admission { pr with pref := 1 } (some q1) = 0) ∧
    -- zowEnable
    ((st ro).chip.zowUp = true ∧ (st ro).chip.zowState = 0) ∧
    -- zowEnable
    ((st w1).chip.zowUp = true ∧ (st w1).chip.zowState ≠ 0) ∧
    -- zowTrainDone
    ((st w1).chip.zowUp = true ∧ (st w1).chip.fb ZOW_CTL_EN = true ∧
      ((st w1).chip.zowState = 0 ∨ (st w1).chip.zowState = 1 ∨ (st w1).chip.zowState = 6) ∧
      ((st w1).chip.xf ZOW_XLINK_FORCE 0 ≠ 1 ∨ min 2 ((st w1).chip.xf ZOW_XLINK_RATE 2) = 1)) ∧
    -- zowTrainTimeout
    ((st w1).chip.zowUp = true ∧ (st w1).chip.zowState = 1) ∧
    -- heartbeatSend, heartbeatReceive
    ((st w3).chip.zowUp = true ∧ (st w3).chip.linkUp = true) ∧
    -- zowFrameReceive
    ((st w3).chip.zowUp = true ∧ (st w3).chip.linkUp = true ∧ fr.crcOk = true ∧ fr.seq % 4096 = (st w3).chip.zow.frameExpect ∧ fr.detach = false) ∧
    -- zowAuthDone
    ((st w3).chip.zowUp = true ∧ (st w3).chip.zowState = 2 ∧
      (st w3).chip.admission { ident := pr.ident, authOk := false, seals := pr.seals, manifest := pr.manifest, sameTitle := pr.sameTitle, profile := pr.profile, rom := pr.rom, partner := pr.partner, meters := pr.meters, pref := pr.pref, running := pr.running, gen := pr.gen, door := pr.door, count := pr.count, delay := pr.delay, base := pr.base } ((st w3).chip.decideRole { ident := pr.ident, authOk := false, seals := pr.seals, manifest := pr.manifest, sameTitle := pr.sameTitle, profile := pr.profile, rom := pr.rom, partner := pr.partner, meters := pr.meters, pref := pr.pref, running := pr.running, gen := pr.gen, door := pr.door, count := pr.count, delay := pr.delay, base := pr.base }) ≠ 0) ∧
    -- syncProbe
    ((st w5).chip.zowUp = true ∧ 3 ≤ (st w5).chip.zowState ∧ (st w5).chip.zowState < 6 ∧
      ((((0 + 100 : Nat) : Int) - 0 - (((0 + 300 : Nat) : Int) - ((0 + 200 : Nat) : Int))) / 2).natAbs ≤ 20 ∧ (st w5).chip.zow.goodOffsets < 15) ∧
    -- syncProbe
    ((st w6).chip.zowUp = true ∧ 3 ≤ (st w6).chip.zowState ∧ (st w6).chip.zowState < 6 ∧
      ((((0 + 100 : Nat) : Int) - 0 - (((0 + 300 : Nat) : Int) - ((0 + 200 : Nat) : Int))) / 2).natAbs ≤ 20 ∧ 15 ≤ (st w6).chip.zow.goodOffsets) ∧
    -- mirrorKeepalive
    ((st w7).chip.zowUp = true ∧ (st w7).chip.paired = true) ∧
    -- takeover
    ((st w7).chip.zowUp = true ∧ (st w7).chip.isMirror = true ∧ (st w7).chip.paired = true ∧ (st w7).chip.fnLevel InFn.twinPeer = false ∧
      (st w7).chip.fu.stale = false ∧ (st w7).chip.fb ZOW_STATUS_DIVERGED = false) ∧
    -- takeover
    ((st w7).chip.zowUp = true ∧ (st w7).chip.isMirror = true ∧ (st w7).chip.paired = true) ∧
    -- zowFrameReceive
    ((st w7).chip.zowUp = true ∧ (st w7).chip.linkUp = true ∧
      (({ fr with seq := 3 } : LinkFrame).crcOk = false ∨ ({ fr with seq := 3 } : LinkFrame).seq % 4096 ≠ (st w7).chip.zow.frameExpect)) ∧
    -- takeover
    ((st w8).chip.zowUp = true ∧ (st w8).chip.isMirror = true ∧ (st w8).chip.paired = true ∧ (st w8).chip.fnLevel InFn.twinPeer = false ∧
      (st w8).chip.fu.stale = true) ∧
    -- laneFail
    ((st w9).chip.zowUp = true ∧ (st w9).chip.linkUp = true ∧ (st w9).chip.f ZOW_LANE_LOCK = 31 ∧ 2 ≠ 4) ∧
    -- leaseRenew
    ((st w9).chip.zowUp = true ∧ (st w9).chip.isLead = true ∧ (st w9).chip.zow.leadWait = false) ∧
    -- zowResync
    ((st w10).chip.zowUp = true ∧ (st w10).chip.zowState = 4 ∧ (st w10).chip.fu.vdd = true ∧ (st w10).chip.isMirror = true ∧
      (st w10).chip.fu.journal ≠ [] ∧ (∀ (e : JEntry), e ∈ (st w10).chip.fu.journal ++ (st w10).chip.fu.archive → ¬e ∈ [])) ∧
    -- zowResync
    ((st w11).chip.zowUp = true ∧ (st w11).chip.zowState = 4 ∧ (st w11).chip.fu.vdd = true ∧ (st w11).chip.isMirror = true ∧
      (st w11).chip.fu.journal = [] ∧ entriesAfter (st w11).chip.fu.copyA.gen [] = [] ∧
      genAfter (st w11).chip.zow.peerGen (st w11).chip.fu.copyA.gen ≠ some true) ∧
    -- zowResync
    ((st w12).chip.zowUp = true ∧ (st w12).chip.zowState = 4 ∧ (st w12).chip.fu.vdd = true ∧ (st w12).chip.isMirror = true ∧
      (st w12).chip.fu.journal = [] ∧ genAfter (st w12).chip.zow.peerGen (st w12).chip.fu.copyA.gen = some true) :=
  ⟨by refine ⟨?_, ?_, ⟨_, someEq ?_, ?_⟩⟩ <;> decide +kernel,
    by refine ⟨?_, ?_, ⟨_, someEq ?_, ?_⟩⟩ <;> decide +kernel,
    by and_intros <;> decide +kernel⟩

end Sys2Proof.Tests.M1

namespace Sys2Proof.Tests.M2

def fu (f : Franking → Franking) (c : Chip) : Chip := { c with fu := f c.fu }
def zw (f : Zow → Zow) (c : Chip) : Chip := { c with zow := f c.zow }
def id2 : List Byte := List.replicate 32 8
def ro : Chip := fu (fun u => { u with rom := false, recovery := false, recoveryHard := false, storeOk := true, seals := [(0, ⟨id2, true, false⟩)], manifest := id2 }) R
def s0 (n : Nat) (c : Chip) : Chip := (c.setF ZOW_STATUS_STATE n).setF ZOW_CTL_EN 1
def mir (c : Chip) := s0 5 (c.setF ZOW_STATUS_ROLE 2)
def lead (c : Chip) := s0 5 (c.setF ZOW_STATUS_ROLE 1)
def ln : CapLine := ⟨0x1000000040, 2^64-1, (List.range 64).map (BitVec.ofNat 8 ·), []⟩
def fo : Follow := ⟨100, 77, true, false⟩
def sn (m : List Nat) : Snap := ⟨4, 5, m, [1,2,3,4], []⟩
def w1 : Chip := (mir ro)
def w7 : Chip := zw (fun z => { z with snapSeq := 4 }) w1
def fs : Chip := (zw (fun z => { z with follow := [(1, some fo)] }) ((mir ro).setF (OUT_CTL_EN 1) 1)).setF (OUT_CTL_RUNNING 1) 1
def se (n : Nat) : Chip := zw (fun z => { z with ownSeals := [(1, [(9, n)])], cleanFrames := 5 }) ((mir ro).setF ZOW_CTL_SEAL_EN 1)
def w2 : Chip := (se 0x1234)
def w4 : Chip := ((zw (fun z => { z with peerEligible := true, peerDoor := true, bulkLeft := some 0 }) (lead ro)).setF ZOW_BULK_LEN_LEN 5)
def w5 : Chip := (((mir ro).setF ZOW_STATUS_STATE 4).setF FU_PIN_IN_DOOR 8)

/-- states and operands that meet the hypotheses of `Obligations.ZowynResults`, clause by clause -/
theorem witness_ZowynResults_2 :
    -- replicationApply
    ((st w1).chip.zowUp = true ∧ (st w1).chip.paired = true ∧ (st w1).chip.isMirror = true ∧
      sget (fun x => []) (st w1).chip.zow.heldLines (6 + 2) = [] ∧ (st w1).chip.zow.snapsHeld = [] ∧
      sget (fun x => 0) (st w1).chip.zow.applied (6 + 2) < 2 ^ 32 ∧ ln.mask = 2 ^ 64 - 1 ∧ ln.data.length = 64 ∧ ln.pa % 64 = 0 ∧
      CleanPattern (st w1).chip ln.pa 64 ∧ ln.bad = []) ∧
    -- sealReceive
    ((st w2).chip.zowUp = true ∧ (st w2).chip.paired = true ∧ (st w2).chip.fb ZOW_CTL_SEAL_EN = true ∧
      ∃ q1, List.find? (fun p => p.fst == 9) (sget (fun x => []) (st w2).chip.zow.ownSeals 1) = some q1) ∧
    -- bulkDone
    ((st w4).chip.zowUp = true ∧ (st w4).chip.paired = true ∧ ∃ q1, (st w4).chip.zow.bulkLeft = some q1) ∧
    -- snapshotPost
    ((st ro).chip.zowUp = true ∧ (st ro).chip.isMirror = false ∧ (0 = 0 ∨ 4032 < 0)) ∧
    -- snapshotPost
    ((st ro).chip.zowUp = true ∧ (st ro).chip.isMirror = false ∧ 0 < 100 ∧ 100 ≤ 4032 ∧
      (memRegion (mainRegion (st ro).chip.dramTop ((st ro).chip.f ZOW_SNAP_SRC_ADDR * 256)) && (st ro).chip.answers ((st ro).chip.f ZOW_SNAP_SRC_ADDR * 256) && memRegion (mainRegion (st ro).chip.dramTop ((st ro).chip.f ZOW_SNAP_SRC_ADDR * 256 + 100 - 1))) = false) ∧
    -- followReceive
    ((st w1).chip.zowUp = true ∧ (st w1).chip.paired = true ∧ (st w1).chip.isMirror = true) ∧
    -- snapshotReceive
    ((st w1).chip.zowUp = true ∧ (st w1).chip.paired = true ∧ (st w1).chip.isMirror = true ∧
      genAfter (sn [0, 0, 0, 0, 0]).seq (st w1).chip.zow.snapSeq = some true ∧ (st w1).chip.zow.snapsHeld = [] ∧
      (∀ (i : Nat), i < 5 → genAfter ((sn [0, 0, 0, 0, 0]).marks.getD i 0) (sget (fun x => 0) (st w1).chip.zow.applied (6 + i)) ≠ some true)) ∧
    -- replicationApply
    ((st w1).chip.zowUp = true ∧ (st w1).chip.paired = true ∧ (st w1).chip.isMirror = true ∧
      sget (fun x => []) (st w1).chip.zow.heldLines (6 + 2) = [] ∧ (st w1).chip.zow.snapsHeld = [] ∧
      sget (fun x => 0) (st w1).chip.zow.applied (6 + 2) < 2 ^ 32) ∧
    -- snapshotReceive
    ((st w7).chip.zowUp = true ∧ (st w7).chip.paired = true ∧ (st w7).chip.isMirror = true ∧
      genAfter (sn [0, 0, 0, 0, 0]).seq (st w7).chip.zow.snapSeq ≠ some true) ∧
    -- snapshotReceive
    ((st w1).chip.zowUp = true ∧ (st w1).chip.paired = true ∧ (st w1).chip.isMirror = true ∧
      genAfter (sn [1, 0, 0, 0, 0]).seq (st w1).chip.zow.snapSeq = some true ∧ (st w1).chip.zow.snapsHeld = [] ∧ (∃ i, i < 5 ∧
      genAfter ((sn [1, 0, 0, 0, 0]).marks.getD i 0) (sget (fun x => 0) (st w1).chip.zow.applied (6 + i)) = some true)) ∧
    -- followFrameStart
    ((st fs).chip.zowUp = true ∧ sget (fun x => none) (st fs).chip.zow.follow 1 = some fo ∧ (st fs).chip.follows 1 = true ∧
      (st fs).chip.beamRuns 1 = true) ∧
    -- snapshotReceive
    ((st fs).chip.zowUp = true ∧ (st fs).chip.paired = true ∧ (st fs).chip.isMirror = true ∧
      genAfter (sn [1]).seq (st fs).chip.zow.snapSeq = some true ∧ (st fs).chip.zow.snapsHeld = [] ∧ (∃ i, i < 5 ∧
      genAfter ((sn [1]).marks.getD i 0) (sget (fun x => 0) (st fs).chip.zow.applied (6 + i)) = some true)) ∧
    -- bulkGo
    ((st w4).chip.zowUp = true ∧ (st w4).chip.isLead = true ∧ (st w4).chip.paired = true ∧ (st w4).chip.f ZOW_BULK_LEN_LEN ≠ 0) ∧
    -- handover
    ((st w4).chip.zowUp = true ∧ (st w4).chip.isLead = true ∧ (st w4).chip.paired = true ∧ (st w4).chip.zow.peerEligible = true) ∧
    -- detach
    ((st w4).chip.zowUp = true ∧ (st w4).chip.isLead = true ∧ (st w4).chip.linkUp = true) ∧
    -- treset
    ((st w4).chip.zowUp = true ∧ (st w4).chip.isLead = true ∧ (st w4).chip.paired = true) ∧
    -- seed
    ((st w4).chip.zowUp = true ∧ (st w4).chip.isLead = true ∧ within 3 6 (st w4).chip.zowState = true ∧ (st w4).chip.zow.peerDoor = true) ∧
    -- clearDiv
    ((st w4).chip.zowUp = true ∧ (st w4).chip.isLead = true) ∧
    -- seed
    ((st w5).chip.zowUp = true ∧ within 3 6 (st w5).chip.zowState = true ∧ (st w5).chip.isMirror = true ∧ (st w5).chip.logicDoor = true) :=
  ⟨by refine ⟨?_, ?_, ?_, ?_, ?_, ?_, ?_, ?_, ?_, by unfold CleanPattern; decide +kernel, ?_⟩ <;> decide +kernel,
    by refine ⟨?_, ?_, ?_, ⟨_, someEq ?_⟩⟩ <;> decide +kernel,
    by refine ⟨?_, ?_, ⟨_, someEq ?_⟩⟩ <;> decide +kernel,
    by and_intros <;> decide +kernel⟩

end Sys2Proof.Tests.M2

namespace Sys2Proof.Tests.N1

def ti : Timing := ⟨148500000, 1024, 1100, 1030, 1050, false, false, 32, 10, 2, 60, 70, 0, false, false, false, false, 0⟩
def w1 : Chip := R
def rn (f : Output → Output) (c : Chip) : Chip := ((c.setF (OUT_CTL_RUNNING 1) 1).setF (OUT_CTL_EN 1) 1).modOut 1 fun y => f { y with timing := ti }
def w4 : Chip := (rn id R)
def w5 : Chip := (rn (fun y => { y with v := 41 }) R)
def w8 : Chip := (rn (fun y => { y with v := 59 }) R)
def w11 : Chip := (rn (fun y => { y with v := 3, binBusy := true }) R)
def w12 : Chip := (rn (fun y => { y with v := 3, binned := true }) R)
def lg (l : List LineWrite) (c : Chip) := c.modGrp 1 fun g => { g with log := l }
def w13 : Chip := (lg [⟨1, some 2, 0x1122334455667788, 0, 0, 4, true⟩, ⟨1, none, 0x1122334455667788, 5, 0, 4, true⟩] (rn (fun y => { y with v := 13, binned := true }) R))

/-- states and operands that meet the hypotheses of `Obligations.DisplayResults`, clause by clause -/
theorem witness_DisplayResults_1 :
    -- unitOffer
    ((st w12).chip.mainRuns = true ∧ ∃ q1, (st w12).chip.groupOf 13 = some q1 ∧ ∃ a b e, (st w12).chip.mayOffer q1 13 = some (a, b, e)) ∧
    -- lineTimedWritePerform
    ((st w13).chip.running 1 = true ∧ (st w13).chip.outUp 1 = true ∧ ∃ q1, (st w13).chip.beamLine 1 = some q1 ∧
      ∃ q2, firstWrite (List.filter (fun w => w.out == 1 && w.closed && (w.line.blt q1 || w.line == q1 && w.pixel.blt (match ((st w13).chip.out 1).lateFrom with | some p => min p ((st w13).chip.out 1).timing.hactive | none => ((st w13).chip.out 1).timing.hactive) && w.pixel.ble ((st w13).chip.beamX ((st w13).chip.lead 1)))) ((st w13).chip.grp ((st w13).chip.logGroup 1)).log) = some q2) ∧
    -- sceneReady, outEnable
    ((st w1).chip.outUp 1 = true) ∧
    -- outEnable
    ((st w1).chip.outUp 1 = true ∧ (st w1).chip.running 1 = false ∧ (st w1).chip.lead 1 = 1 ∧ ((st w1).chip.wantedTiming 1).ok = false) ∧
    -- outCapRead
    ((st w1).chip.answersRead (0) (OUT_CAP 1) = true) ∧
    -- sorterRetire
    ((st w1).chip.takesWrite 3 (retireReg 13).fst = true ∧ (st w1).chip.retired 13 = false) ∧
    -- sorterRestore
    ((st w1).chip.takesWrite 3 (retireReg 13).fst = true) ∧
    -- lineStart
    ((st w4).chip.beamRuns 1 = true ∧ (st w4).chip.frameDue 1 = false ∧ ((st w4).chip.out 1).halfLine = false) ∧
    -- outSegmentRead
    ((st w5).chip.running 1 = true ∧ (st w5).chip.outUp 1 = true ∧ ((st w5).chip.out 1).starting = false ∧
      ((st w5).chip.out 1).rdLine < ((st w5).chip.out 1).lines ∧ (st w5).chip.segmentDue 1 = true) ∧
    -- frameStart
    ((st w8).chip.beamRuns 1 = true ∧ (st w8).chip.frameDue 1 = true ∧ (st w8).chip.fb (OUT_CTL_EN 1) = true) ∧
    -- binDone
    (((st w11).chip.out 1).binBusy = true ∧ (st w11).chip.mainRuns = true ∧ (st w11).chip.power.failed.contains (97 + 1) = false) :=
  ⟨by refine ⟨?_, ⟨_, someEq ?_, ⟨_, _, _, someEq ?_⟩⟩⟩ <;> decide +kernel,
    by refine ⟨?_, ?_, ⟨_, someEq ?_, ⟨_, someEq ?_⟩⟩⟩ <;> decide +kernel,
    by and_intros <;> decide +kernel⟩

end Sys2Proof.Tests.N1

namespace Sys2Proof.Tests.N2

def ti : Timing := ⟨148500000, 1024, 1100, 1030, 1050, false, false, 32, 10, 2, 60, 70, 0, false, false, false, false, 0⟩
def setT (o : Nat) (c : Chip) : Chip := ((((((((((c.setF (OUT_PIXCLK_KHZ o) 148500).setF (OUT_HTIME_HACTIVE o) 1024).setF (OUT_HTIME_HTOTAL o) 1100).setF (OUT_HSYNC_HS_START o) 1030).setF (OUT_HSYNC_HS_END o) 1050).setF (OUT_VTIME_VACTIVE o) 32).setF (OUT_VTIME_VSTART o) 10).setF (OUT_VTIME_VSYNC o) 2).setF (OUT_VRANGE_VTOTAL_MIN o) 60).setF (OUT_VRANGE_VTOTAL_MAX o) 70)
def rn (f : Output → Output) (c : Chip) : Chip := ((c.setF (OUT_CTL_RUNNING 1) 1).setF (OUT_CTL_EN 1) 1).modOut 1 fun y => f { y with timing := ti }
def w2 : Chip := (setT 2 R)
def w3 : Chip := ((setT 2 R).setF (OUT_CTL_RUNNING 2) 1)
def bc (e : Nat) : Chip := { ((rn (fun y => { y with v := 20 }) R).setF (OUT_CAP_CTL_EN 1) 1).setF (OUT_CAP_CTL_EDGE 1) e with pins := { R.pins with beam := [(1, some true)] } }
def w8 : Chip := (bc 0)

/-- states and operands that meet the hypotheses of `Obligations.DisplayResults`, clause by clause -/
theorem witness_DisplayResults_2 :
    -- beamCapture
    (∃ q1, sget (fun x => none) (st w8).chip.pins.beam 1 = some q1 ∧ (st w8).chip.running 1 = true ∧ (st w8).chip.outUp 1 = true ∧
      (st w8).chip.fb (OUT_CAP_CTL_EN 1) = true ∧ (st w8).chip.capEdge 1 q1 = true ∧ 100 < ((st w8).chip.out ((st w8).chip.lead 1)).timing.htotal ∧
      (st w8).chip.f (OUT_CAP_CTL_COMP 1) ≤ ((st w8).chip.out ((st w8).chip.lead 1)).v * ((st w8).chip.out ((st w8).chip.lead 1)).timing.htotal + 100 ∧
      ((st w8).chip.out ((st w8).chip.lead 1)).timing.vstart ≤ (((st w8).chip.out ((st w8).chip.lead 1)).v * ((st w8).chip.out ((st w8).chip.lead 1)).timing.htotal + 100 - (st w8).chip.f (OUT_CAP_CTL_COMP 1)) / ((st w8).chip.out ((st w8).chip.lead 1)).timing.htotal ∧
      (((st w8).chip.out ((st w8).chip.lead 1)).v * ((st w8).chip.out ((st w8).chip.lead 1)).timing.htotal + 100 - (st w8).chip.f (OUT_CAP_CTL_COMP 1)) / ((st w8).chip.out ((st w8).chip.lead 1)).timing.htotal < ((st w8).chip.out ((st w8).chip.lead 1)).timing.vstart + ((st w8).chip.out ((st w8).chip.lead 1)).lines ∧
      (((st w8).chip.out ((st w8).chip.lead 1)).v * ((st w8).chip.out ((st w8).chip.lead 1)).timing.htotal + 100 - (st w8).chip.f (OUT_CAP_CTL_COMP 1)) % ((st w8).chip.out ((st w8).chip.lead 1)).timing.htotal < ((st w8).chip.out ((st w8).chip.lead 1)).timing.hactive) ∧
    -- pairWrite
    ((st w2).chip.outUp 2 = true ∧ 2 % 2 = 0 ∧ (st w2).chip.fb (OUT_CTL_EN 2) = false ∧ (st w2).chip.fb (OUT_CTL_PAIR 2) ≠ true ∧
      (st w2).chip.running 2 = false ∧ (st w2).chip.running (2 + 1) = false ∧ (st w2).chip.outKind 2 ≠ 2 ∧ (st w2).chip.outKind (2 + 1) ≠ 2) ∧
    -- pairWrite
    ((st w3).chip.outUp 2 = true ∧ 2 % 2 = 0 ∧ (st w3).chip.fb (OUT_CTL_EN 2) = false ∧ (st w3).chip.fb (OUT_CTL_PAIR 2) ≠ true ∧
      ((st w3).chip.running 2 = true ∨ (st w3).chip.running (2 + 1) = true)) ∧
    -- frameDone
    ((st w3).chip.running 2 = true ∧ (st w3).chip.outUp 2 = true ∧ ((st w3).chip.out 2).starting = false ∧ ((st w3).chip.out 2).doneFrame = false ∧
      ((st w3).chip.out 2).lines ≤ ((st w3).chip.out 2).rdLine) :=
  ⟨by refine ⟨_, someEq ?_, ?_, ?_, ?_, ?_, ?_, ?_, ?_, ?_, ?_⟩ <;> decide +kernel,
    by and_intros <;> decide +kernel⟩

end Sys2Proof.Tests.N2

namespace Sys2Proof.Tests.O1

def w1 : Chip := R
def P (f : Port → Port) (c : Chip) : Chip := c.setPort 1 (f (c.port 1))
def w2 : Chip := (P (fun p => { p with pend := some (2, true, false, false) }) R)
def w3 : Chip := (P (fun p => { p with pend := some (2, false, true, false) }) R)
def hp (c : Chip) : Chip := (c.setF (OUT_LINK_HPD 1) 1).setReg SYS_EXPERT 0xFFFFFFFF
def w5 : Chip := (hp R)
def w8 : Chip := (((hp R).setF (OUT_AUX_CMD_BUSY 1) 1).setF (OUT_AUX_CMD_LEN 1) 3)

/-- states and operands that meet the hypotheses of `Obligations.PortResults`, clause by clause -/
theorem witness_PortResults :
    -- xbarWrite
    ((st w1).chip.outUp 1 = true ∧ ((st w1).chip.port 1).pend = none) ∧
    -- hpdRise, auxStart
    ((st w1).chip.outUp 1 = true) ∧
    -- xbarWrite
    ((st w2).chip.outUp 1 = true ∧
      ((st w2).chip.port 1).pend = some ((((st w2).chip.port 1).pend.get (by decide +kernel)).fst, (((st w2).chip.port 1).pend.get (by decide +kernel)).snd.fst, (((st w2).chip.port 1).pend.get (by decide +kernel)).snd.snd.fst, (((st w2).chip.port 1).pend.get (by decide +kernel)).snd.snd.snd)) ∧
    -- xbarDone
    ((st w3).chip.outUp 1 = true ∧
      ((st w3).chip.port 1).pend = some ((((st w3).chip.port 1).pend.get (by decide +kernel)).fst, (((st w3).chip.port 1).pend.get (by decide +kernel)).snd.fst, true, (((st w3).chip.port 1).pend.get (by decide +kernel)).snd.snd.snd) ∧
      ((((st w3).chip.port 1).pend.get (by decide +kernel)).snd.snd.snd = true ∨ (((st w3).chip.port 1).pend.get (by decide +kernel)).snd.fst = false)) ∧
    -- linkTrained
    ((st w5).chip.outUp 1 = true ∧ (st w5).chip.fb (OUT_LINK_HPD 1) = true ∧ ((st w5).chip.port 1).training = false) ∧
    -- linkFail
    ((st w5).chip.outUp 1 = true ∧ (st w5).chip.fb (OUT_LINK_HPD 1) = true) ∧
    -- retrain
    ((st w5).chip.outUp 1 = true ∧ (st w5).chip.fb (OUT_LINK_HPD 1) = true ∧ (st w5).chip.expert (12 + 1) = true) ∧
    -- auxDone
    ((st w8).chip.outUp 1 = true ∧ (st w8).chip.fb (OUT_AUX_CMD_BUSY 1) = true) :=
  by and_intros <;> decide +kernel

end Sys2Proof.Tests.O1

namespace Sys2Proof.Tests.P1

def w1 : Chip := R
def D (i : Nat) (f : AudDomain → AudDomain) (c : Chip) : Chip := c.modDom i fun x => f { x with run := true, sn := some 4 }
def w3 : Chip := (D 0 (fun x => { x with play := [(2*64+5, 0x3F000000)] }) ((((R.setF (AIO_TDM_EN 0) 1).setF (AIO_TDM_SAMPW 0) 2).setF (AIO_TDM_SLOTW 0) 2)))
def w4 : Chip := (D 0 (fun x => { x with sn := some 7 }) (R.setReg AUD_CTL 1))
def w6 : Chip := (D 0 (fun x => { x with swap := some (0, 0) }) R)
def w7 : Chip := (D 1 (fun x => { x with ctl := 0x10 }) (R.setReg AUD_CTL 0x10))
def w8 : Chip := (R.setF (AUD_VCQ_WR 0) 9)
def rx : Chip := D 0 id (((R.setF (AIO_TDM_EN 1) 1).setF (AIO_TDM_RXEN 1) 1))
def br : Chip := (((R.setF (AUD_BR_CFG_SRC 3) 1)).modBridge 3 fun x => { x with on := true }).modDom 1 fun x => { x with ctl := 0x10 }
def w9 : Chip := (br.setReg AUD_CTL 0x10)

/-- states and operands that meet the hypotheses of `Obligations.AudioResults`, clause by clause -/
theorem witness_AudioResults :
    -- domainStart
    ((st w1).chip.audUp = true ∧ ((st w1).chip.reg AUD_CTL).bit 0 = false ∧ ((st w1).chip.adom 0).run = false ∧
      (slipRefused 0 ((st w1).chip.f (AUD_SLIP_NEXT_OFFSET 0) * 256) ((st w1).chip.setReg AUD_CTL (writeWord false AUD_CTL ((st w1).chip.reg AUD_CTL) (((st w1).chip.reg AUD_CTL).setBit 0 true)))).fst = false) ∧
    -- domainStart
    ((st w1).chip.audUp = true) ∧
    -- vcqWrWrite
    ((st w1).chip.audUp = true ∧
      ((st w1).chip.f (AUD_VCQ_WR 0) + 64 - (st w1).chip.f (AUD_VCQ_RD 0)) % 64 ≤ (5 + 64 - (st w1).chip.f (AUD_VCQ_RD 0)) % 64) ∧
    -- audVendRead
    ((st w1).chip.answersRead 0 AUD_VEND = true) ∧
    -- audSnLoRead
    ((st w1).chip.answersRead 0 (AUD_SN_LO 0) = true) ∧
    -- slipGo
    ((st w3).chip.audUp = true ∧ ((st w3).chip.adom 0).run = true ∧ ((st w3).chip.adom 0).swap = none ∧
      (slipRefused 0 ((st w3).chip.f (AUD_SLIP_NEXT_OFFSET 0) * 256) ((st w3).chip.setReg (AUD_SLIP_NEXT 0) (writeWord false (AUD_SLIP_NEXT 0) ((st w3).chip.reg (AUD_SLIP_NEXT 0)) ((((st w3).chip.reg (AUD_SLIP_NEXT 0)).setBit 31 true).setBit 31 false)))).fst = false) ∧
    -- audioTick
    ((st w3).chip.audUp = true ∧ ((st w3).chip.adom 0).run = true ∧ (st w3).chip.unitFrozen (10 + 0) = false ∧ (0 = 2 → (st w3).chip.vTicks = true) ∧
      (match ((st w3).chip.adom 0).sn with | some n => (n + 1) % 2 ^ 64 | none => 0) % (st w3).chip.blk 0 ≠ 0) ∧
    -- audioTick
    ((st w4).chip.audUp = true ∧ ((st w4).chip.adom 0).run = true ∧ (st w4).chip.unitFrozen (10 + 0) = false ∧ (0 = 2 → (st w4).chip.vTicks = true) ∧
      (match ((st w4).chip.adom 0).sn with | some n => (n + 1) % 2 ^ 64 | none => 0) % (st w4).chip.blk 0 = 0 ∧
      ((st w4).chip.reg AUD_CTL).bit 0 = true) ∧
    -- slipGo
    ((st w6).chip.audUp = true ∧ ((st w6).chip.adom 0).run = true ∧ ((st w6).chip.adom 0).swap.isSome = true) ∧
    -- audclkBLoss
    ((st w7).chip.audUp = true ∧ ((st w7).chip.adom 1).run = true ∧ ((st w7).chip.audCtl 1).bit 4 = true) ∧
    -- vcqWrWrite
    ((st w8).chip.audUp = true ∧
      (5 + 64 - (st w8).chip.f (AUD_VCQ_RD 0)) % 64 < ((st w8).chip.f (AUD_VCQ_WR 0) + 64 - (st w8).chip.f (AUD_VCQ_RD 0)) % 64) ∧
    -- rxSample
    ((st rx).chip.audUp = true ∧ (st rx).chip.fb (AIO_TDM_EN 1) = true ∧ (st rx).chip.fb (AIO_TDM_RXEN 1) = true ∧ (st rx).chip.tdmRateOk 1 = true ∧
      ((st rx).chip.adom ((st rx).chip.tdmDom 1)).run = true) ∧
    -- bridgeRatioMeasure
    ((st w9).chip.audUp = true ∧ ((st w9).chip.bridgeOn 3).on = true ∧ (st w9).chip.bridgeMeasured 3 = true) :=
  by and_intros <;> decide +kernel

end Sys2Proof.Tests.P1
end

section
/-! O5: the machine right after reset. -/

namespace Sys2Proof.Machine

/-- No core is listed at reset, so each holds its start state. -/
theorem core_at_reset (k : Nat) : State.reset.chip.core k = Core.reset k := rfl

theorem Core.kind_sorter {k : Nat} (hlo : 8 ≤ k) (hhi : k < 56) : Core.kind k = 1 := by
  simp [Core.kind, hhi, Nat.not_lt.mpr hlo]

theorem Core.kind_horn {k : Nat} (hlo : 56 ≤ k) (hhi : k < 62) : Core.kind k = 2 := by
  have h8 : ¬ k < 8 := by omega
  simp [Core.kind, h8, hhi, Nat.not_lt.mpr hlo]

theorem Core.reset_pc (k : Nat) : (Core.reset k).pc = Word.of (Core.startPc k) := rfl

theorem Core.startPc_sorter {k : Nat} (hlo : 8 ≤ k) (hhi : k < 56) : Core.startPc k = 0x20000000 + (k - 8) * 0x10000 := by
  simp only [Core.startPc, Core.kind_sorter hlo hhi]

theorem Core.startPc_horn {k : Nat} (hlo : 56 ≤ k) (hhi : k < 62) : Core.startPc k = 0x30000000 + (k - 56) * 0x40000 := by
  simp only [Core.startPc, Core.kind_horn hlo hhi]

/-- The sorters' cores start 64 KiB apart, each in its own local RAM. -/
theorem Core.reset_pc_sorter {i : Nat} (h : i < 48) : (Core.reset (8 + i)).pc.toNat = 0x20000000 + i * 0x10000 := by
  rw [Core.reset_pc, Core.startPc_sorter (by omega) (by omega), Word.toNat_of]
  omega

/-- The horns' cores start 256 KiB apart, each in its own local RAM. -/
theorem Core.reset_pc_horn {i : Nat} (h : i < 6) : (Core.reset (56 + i)).pc.toNat = 0x30000000 + i * 0x40000 := by
  rw [Core.reset_pc, Core.startPc_horn (by omega) (by omega), Word.toNat_of]
  omega

/-- Settles O5: the registers are read from the chip at reset, the cores' states from `Core.reset`. -/
theorem resetState : Obligations.ResetState := by
  unfold Obligations.ResetState
  simp only [core_at_reset]
  refine ⟨rfl, rfl, reset_memory_wf, ?safe, ?runs, ?runLo, ?runHi, ?boot, ?wdtEn, ?wdtRemain, ?expert, ?top, ?dram,
    ?courier, ?franking, ?postmaster, fun i => Core.reset_pc_sorter i.isLt, fun h => Core.reset_pc_horn h.isLt, fun k => ?core⟩
  case core => exact ⟨rfl, rfl, rfl, rfl, rfl, rfl, rfl, rfl, rfl, rfl, rfl, rfl⟩
  all_goals decide

end Sys2Proof.Machine
end

section
/-! O41: a register write.  What it does to the word of a register: the fields of a register lie apart, so that each becomes what its own
access code says, whatever the other fields do. -/

namespace Sys2Proof.Word

/-- A field is a number of as many bits as it is wide. -/
theorem bits_lt (w : Word) (msb lsb : Nat) : w.bits msb lsb < 2 ^ (msb + 1 - lsb) :=
  Nat.mod_lt _ (Nat.two_pow_pos _)

end Sys2Proof.Word

namespace Sys2Proof.Machine

/-- Two fields share no bit. -/
@[reducible] def FieldDef.Apart (f g : FieldDef) : Prop := f.msb < g.lsb ∨ g.msb < f.lsb

/-- A field lies in a word, its bits in the order of the table. -/
@[reducible] def FieldDef.InWord (f : FieldDef) : Prop := f.lsb ≤ f.msb ∧ f.msb < 32

/-- The fields of a register: each in the word, no two sharing a bit. -/
@[reducible] def FieldsApart (l : List FieldDef) : Prop := (∀ f ∈ l, f.InWord) ∧ l.Pairwise FieldDef.Apart

/-- What a field that reads `o` becomes on a write of `n` to it (R5). -/
def Acc.written (sealBroken : Bool) (o n : Nat) : Acc → Nat
  | .rw => n
  | .w1c => o - (o &&& n)
  | .w1s => o ||| n
  | .sl => if sealBroken then n else o
  | .ro | .wo | .rs => o

/-- The register tables give every register fields that lie apart. -/
theorem blockRegs_apart (b : Nat) : ∀ d ∈ blockRegs b, FieldsApart d.fields := by
  unfold blockRegs
  split <;> decide

theorem regFields_apart (k : Nat) : FieldsApart (regFields k) := by
  unfold regFields
  split
  next d hd => exact blockRegs_apart _ d (List.mem_of_find?_eq_some hd)
  next => exact ⟨by simp, .nil⟩

/-- The step of a write for one field leaves the fields apart from it. -/
theorem bits_writeField_other (sb : Bool) (old v w : Word) {f g : FieldDef} (hf : f.InWord) (h : f.Apart g) :
    (writeField sb old v w f).bits g.msb g.lsb = w.bits g.msb g.lsb := by
  have hset (n : Nat) : (w.setBits f.msb f.lsb n).bits g.msb g.lsb = w.bits g.msb g.lsb :=
    Word.bits_setBits_other w n hf.1 hf.2 h.symm
  unfold writeField
  cases f.acc with
  | rw | w1c | w1s => exact hset _
  | sl =>
    cases sb
    · rfl
    · exact hset _
  | ro | wo | rs => rfl

/-- The steps of a write for a list of fields leave a field apart from them all. -/
theorem bits_writeFields_other (sb : Bool) (old v : Word) {g : FieldDef} (l : List FieldDef) (w : Word)
    (hl : ∀ f ∈ l, f.InWord) (h : ∀ f ∈ l, f.Apart g) :
    (l.foldl (writeField sb old v) w).bits g.msb g.lsb = w.bits g.msb g.lsb := by
  induction l generalizing w with
  | nil => rfl
  | cons f l ih =>
    rw [List.forall_mem_cons] at hl h
    rw [List.foldl_cons, ih _ hl.2 h.2, bits_writeField_other sb old v w hl.1 h.1]

/-- The step of a write for a field gives it what its access code says. -/
theorem bits_writeField_same (sb : Bool) (old v w : Word) {f : FieldDef} (hf : f.InWord)
    (hw : w.bits f.msb f.lsb = old.bits f.msb f.lsb) :
    (writeField sb old v w f).bits f.msb f.lsb = f.acc.written sb (old.bits f.msb f.lsb) (v.bits f.msb f.lsb) := by
  have ho := Word.bits_lt old f.msb f.lsb
  have hv := Word.bits_lt v f.msb f.lsb
  have hset {n : Nat} (hn : n < 2 ^ (f.msb + 1 - f.lsb)) : (w.setBits f.msb f.lsb n).bits f.msb f.lsb = n :=
    (Word.bits_setBits_same w n hf.1 hf.2).trans (Nat.mod_eq_of_lt hn)
  unfold writeField
  cases f.acc with
  | rw => exact hset hv
  | w1c => exact hset (lt_of_le_of_lt (Nat.sub_le _ _) ho)
  | w1s => exact hset (Nat.or_lt_two_pow ho hv)
  | sl =>
    cases sb
    · exact hw
    · exact hset hv
  | ro | wo | rs => exact hw

/-- A write of fields that lie apart gives each what its access code says. -/
theorem bits_writeFields (sb : Bool) (old v : Word) {f : FieldDef} (l : List FieldDef) (w : Word) (hl : FieldsApart l) (hf : f ∈ l)
    (hw : w.bits f.msb f.lsb = old.bits f.msb f.lsb) :
    (l.foldl (writeField sb old v) w).bits f.msb f.lsb = f.acc.written sb (old.bits f.msb f.lsb) (v.bits f.msb f.lsb) := by
  induction l generalizing w with
  | nil => cases hf
  | cons g l ih =>
    obtain ⟨hin, hap⟩ := hl
    rw [List.forall_mem_cons] at hin
    rw [List.pairwise_cons] at hap
    rw [List.foldl_cons]
    rcases List.mem_cons.mp hf with rfl | hmem
    · rw [bits_writeFields_other sb old v l _ hin.2 fun g hg => (hap.1 g hg).symm, bits_writeField_same sb old v w hin.1 hw]
    · exact ih _ ⟨hin.2, hap.2⟩ hmem ((bits_writeField_other sb old v w hin.1 (hap.1 f hmem)).trans hw)

/-- A register write gives each field what its access code says (R5, R7). -/
theorem bits_writeWord (sb : Bool) (k : Nat) (old v : Word) {f : FieldDef} (hf : f ∈ regFields k) :
    (writeWord sb k old v).bits f.msb f.lsb = f.acc.written sb (old.bits f.msb f.lsb) (v.bits f.msb f.lsb) :=
  bits_writeFields sb old v _ _ (regFields_apart k) hf rfl

end Sys2Proof.Machine
end

section
/-! O41: which registers a write command reaches, and what it does there. -/

namespace Sys2Proof.Machine

/-- The plain registers are words of blocks other than DBG. -/
theorem plainRegisters_place : ∀ k ∈ plainRegisters, k % 4 = 0 ∧ k / 0x1000 ≠ 0x18 := by decide

/-- An expert register ignores a write while its block is not under expert control (R13). -/
theorem writeReg_of_not_expert {c : Chip} {k : Nat} (o : Nat) (v : Word) (hx : 0x100 ≤ k % 0x1000) (he : c.expert (k / 0x1000) = false) :
    writeReg o k v c = c := by
  unfold writeReg
  rw [if_pos]
  simp [hx, he]

/-- A write of a plain register is a write by the access codes alone: the dispatch by offset has no branch for it. -/
theorem writeReg_plain {c : Chip} {o k : Nat} (v : Word) (hk : k ∈ plainRegisters) (h : c.takesWrite o k = true) :
    writeReg o k v c = plainWrite k v c := by
  rw [writeReg_eq v h]
  clear h
  revert k
  simp only [plainRegisters, List.forall_mem_cons, List.not_mem_nil, false_imp_iff, implies_true, and_true]
  and_intros <;> rfl

/-- REG_WRITE outside DBG is a write command to the register, whoever sends it. -/
theorem exec_regWrite (o : BitVec 12) {b : Fin 26} (off : BitVec 12) (v : Word) (s : State) (hb : b.val ≠ 0x18) :
    exec (.regWrite o b off v) s = .next (s.at (writeCmd o.toNat (b.val * 0x1000 + off.toNat) v s.chip)) := by
  have hb' : b ≠ 0x18 := fun h => hb (congrArg Fin.val h)
  have he : exec (.regWrite o b off v) s = execRegWrite o b off v s := rfl
  rw [he, execRegWrite]
  simp [hb', State.at]

/-- What a command answered to an origin is what that origin reads. -/
theorem Chip.answer_answerTo (c : Chip) (o : Nat) (a : Answer) : sget (fun _ => Answer.none) (c.answerTo o a).answer o = a :=
  sget_sset_same _ _ _

/-- Settles O41: the fields by `bits_writeWord`, the commands by what `writeCmd` does where the block answers and where it does not. -/
theorem registerAccess : Obligations.RegisterAccess := by
  unfold Obligations.RegisterAccess
  refine ⟨fun k sb old v f hf => ?fields, fun o b off v s => ?_⟩
  case fields =>
    have h := bits_writeWord sb k old v hf
    dsimp only
    cases hacc : f.acc <;> rwa [hacc] at h
  have hoff := off.isLt
  have hk : b.val * 0x1000 + off.toNat < 0x1A000 := by omega
  have hblock : (b.val * 0x1000 + off.toNat) / 0x1000 = b.val := by omega
  have hmod : (b.val * 0x1000 + off.toNat) % 0x1000 = off.toNat := by omega
  refine ⟨fun hplain htakes => ?plain, fun h4 hx hb he hr => ?expert, fun ho hb hr => ?silent⟩
  case plain =>
    obtain ⟨h4, hdbg⟩ := plainRegisters_place _ hplain
    rw [exec_regWrite o off v s (hblock ▸ hdbg), writeCmd_eq v (takesWrite_reads htakes) hk h4, writeReg_plain v hplain htakes,
      plainWrite]
  case expert =>
    rw [exec_regWrite o off v s hb, writeCmd_eq v hr hk (by omega), writeReg_of_not_expert _ v (hmod.symm ▸ hx) (hblock.symm ▸ he)]
    rfl
  case silent =>
    refine ⟨_, exec_regWrite o off v s hb, rfl, ?_⟩
    rw [writeCmd_busError v ho hr hk]
    exact ⟨Chip.answer_answerTo _ _ _, rfl, rfl, rfl⟩

end Sys2Proof.Machine
end

section
/-! SUPPORT. What a command answers, what the fields of a register read, and what an entry of the Daybook leaves as it was. -/

namespace Sys2Proof.Machine

/-- A command that leaves the chip `d` answers what holds of `d`. -/
theorem Answers.of_next {i : Instr} {s : State} {d : Chip} {P : Chip → Prop} (he : exec i s = .next (s.at d)) (h : P d) :
    Answers i s P := ⟨_, he, rfl, h⟩

/-! ### Registers and fields -/

theorem Chip.reg_setF_other (c : Chip) {x : Fld} {k : Nat} (v : Nat) (h : k ≠ x.key) : (c.setF x v).reg k = c.reg k :=
  Chip.reg_setReg_other c _ h

theorem Chip.reg_flag_other (c : Chip) {x : Fld} {k : Nat} (h : k ≠ x.key) : (c.flag x).reg k = c.reg k :=
  Chip.reg_setF_other c 1 h

theorem Chip.f_congr {c d : Chip} {x : Fld} (h : d.reg x.key = c.reg x.key) : d.f x = c.f x := by
  unfold Chip.f
  rw [h]

theorem Chip.fb_congr {c d : Chip} {x : Fld} (h : d.reg x.key = c.reg x.key) : d.fb x = c.fb x := by
  unfold Chip.fb
  rw [Chip.f_congr h]

/-- A field of one bit reads what it was set to. -/
theorem Chip.fb_setF_same (c : Chip) (x : Fld) (v : Nat) (hl : x.lsb ≤ x.msb) (hm : x.msb < 32) :
    (c.setF x v).fb x = (v % 2 ^ (x.msb + 1 - x.lsb) != 0) := by
  unfold Chip.fb
  rw [Chip.f_setF_same c x v hl hm]

theorem Chip.fb_setF_other (c : Chip) (x y : Fld) (v : Nat) (hl : x.lsb ≤ x.msb) (hm : x.msb < 32)
    (h : y.key ≠ x.key ∨ y.msb < x.lsb ∨ x.msb < y.lsb) : (c.setF x v).fb y = c.fb y := by
  unfold Chip.fb
  rw [Chip.f_setF_other c x y v hl hm h]

/-- A flag that is set reads 1. -/
theorem Chip.fb_flag_same (c : Chip) (x : Fld) (h : x.lsb = x.msb) (hm : x.msb < 32) : (c.flag x).fb x = true := by
  have hw : x.msb + 1 - x.lsb = 1 := by omega
  rw [Chip.flag, Chip.fb_setF_same c x 1 h.le hm, hw]
  rfl

/-! ### The Daybook -/

/-- An entry is refused, or it changes the Daybook and may set ERR_EV. -/
theorem Chip.journalAt_cases (c : Chip) (pm cls kind o fl item data : Nat) :
    c.journalAt pm cls kind o fl item data = c
    ∨ ∃ x, c.journalAt pm cls kind o fl item data = { c with dayb := x }
      ∨ c.journalAt pm cls kind o fl item data = ({ c with dayb := x } : Chip).flag DAYB_EVT_ERR_EV := by
  unfold Chip.journalAt
  dsimp only
  split
  · exact .inl rfl
  · split
    · exact .inr ⟨_, .inr rfl⟩
    · exact .inr ⟨_, .inl rfl⟩

/-- What the Daybook and its flag leave alone, an entry leaves alone. -/
theorem Chip.journal_keeps {α : Type} (p : Chip → α) (hd : ∀ (c : Chip) x, p { c with dayb := x } = p c)
    (hf : ∀ c : Chip, p (c.flag DAYB_EVT_ERR_EV) = p c) (c : Chip) (cls kind o fl item data : Nat) :
    p (c.journal cls kind o fl item data) = p c := by
  rcases c.journalAt_cases (c.stamp o) cls kind o fl item data with h | ⟨x, h | h⟩
  · exact congrArg p h
  · exact (congrArg p h).trans (hd c x)
  · exact (congrArg p h).trans ((hf _).trans (hd c x))

/-- An entry of an origin that is not refused comes first in the ring (R596, R598). -/
theorem Chip.journalAt_ring {c : Chip} (pm cls kind : Nat) {o : Nat} (fl item data : Nat) (h : (c.dayb.frozen && mainOrigin o) = false) :
    ∃ l, (c.journalAt pm cls kind o fl item data).dayb.ring
      = ⟨c.dayb.next, short48 pm, o, cls, Config.islandOf o, kind, fl, item, data⟩ :: l := by
  unfold Chip.journalAt
  rw [h]
  simp only [Bool.false_eq_true, if_false]
  split <;> exact ⟨_, rfl⟩

theorem Chip.journal_ring {c : Chip} (cls kind : Nat) {o : Nat} (fl item data : Nat) (h : (c.dayb.frozen && mainOrigin o) = false) :
    ∃ l, (c.journal cls kind o fl item data).dayb.ring
      = ⟨c.dayb.next, short48 (c.stamp o), o, cls, Config.islandOf o, kind, fl, item, data⟩ :: l :=
  Chip.journalAt_ring _ cls kind fl item data h

/-- An epoch entry is kept in entry 0 (R30). -/
theorem Chip.journal_epoch {c : Chip} (kind : Nat) {o : Nat} (fl item data : Nat) (h : (c.dayb.frozen && mainOrigin o) = false) :
    (c.journal 5 kind o fl item data).dayb.epoch
      = some ⟨c.dayb.next, short48 (c.stamp o), o, 5, Config.islandOf o, kind, fl, item, data⟩ := by
  unfold Chip.journal Chip.journalAt
  rw [h]
  rfl

theorem Chip.journal_count (c : Chip) (cls kind o fl item data : Nat) : (c.journal cls kind o fl item data).count = c.count :=
  c.journal_keeps Chip.count (fun _ _ => rfl) (fun _ => rfl) cls kind o fl item data
theorem Chip.journal_replicas (c : Chip) (cls kind o fl item data : Nat) :
    (c.journal cls kind o fl item data).replicas = c.replicas :=
  c.journal_keeps Chip.replicas (fun _ _ => rfl) (fun _ => rfl) cls kind o fl item data
theorem Chip.reg_journal (c : Chip) (cls kind o fl item data : Nat) {k : Nat} (h : k ≠ DAYB_EVT) :
    (c.journal cls kind o fl item data).reg k = c.reg k :=
  c.journal_keeps (Chip.reg · k) (fun _ _ => rfl) (fun _ => Chip.reg_flag_other _ h) cls kind o fl item data

/-- POST is no main-side origin: its entries are not refused. -/
theorem post_not_refused (b : Bool) : (b && mainOrigin 252) = false := Bool.and_false b

end Sys2Proof.Machine
end

section
/-! O38, O37: the postmark. The count and its crossings, a nanosecond, the clock, and the replicas. -/

namespace Sys2Proof.Machine

/-! ### Setting the count -/

/-- What an epoch crossing leaves alone, setting the count leaves alone but for the count itself (R30). -/
theorem Chip.setCount_keeps {α : Type} (p : Chip → α) (hd : ∀ (c : Chip) x, p { c with dayb := x } = p c)
    (hf : ∀ (c : Chip) x, p (c.flag x) = p c) (c : Chip) (n : Nat) :
    p (c.setCount n) = p { c with count := BitVec.ofNat 64 n } := by
  unfold Chip.setCount
  dsimp only
  split
  · exact (hf _ _).trans (Chip.journal_keeps p hd (fun c => hf c _) _ _ _ _ _ _ _)
  · rfl

theorem Chip.setCount_count (c : Chip) (n : Nat) : (c.setCount n).count = BitVec.ofNat 64 n :=
  c.setCount_keeps Chip.count (fun _ _ => rfl) (fun _ _ => rfl) n
theorem Chip.setCount_mem (c : Chip) (n : Nat) : (c.setCount n).mem = c.mem :=
  c.setCount_keeps Chip.mem (fun _ _ => rfl) (fun _ _ => rfl) n
theorem Chip.setCount_cores (c : Chip) (n : Nat) : (c.setCount n).cores = c.cores :=
  c.setCount_keeps Chip.cores (fun _ _ => rfl) (fun _ _ => rfl) n
theorem Chip.setCount_power (c : Chip) (n : Nat) : (c.setCount n).power = c.power :=
  c.setCount_keeps Chip.power (fun _ _ => rfl) (fun _ _ => rfl) n
theorem Chip.setCount_zow (c : Chip) (n : Nat) : (c.setCount n).zow = c.zow :=
  c.setCount_keeps Chip.zow (fun _ _ => rfl) (fun _ _ => rfl) n

/-- Without a crossing of a multiple of 2^48, setting the count does nothing else (R30). -/
theorem Chip.setCount_within_epoch (c : Chip) {n : Nat} (h : n / 2 ^ 48 ≤ c.now / 2 ^ 48) :
    c.setCount n = { c with count := BitVec.ofNat 64 n } :=
  if_neg (Nat.not_lt.mpr h)

/-! ### One nanosecond -/

/-- Without VSB no time passes. -/
theorem passTime_off {c : Chip} (h : c.power.vsb = false) : passTime c = c := by
  simp [passTime, h]

/-- A nanosecond without a correction. -/
theorem passTime_steady {c : Chip} (hv : c.power.vsb = true) (hs : c.slew = 0) : passTime c = c.setCount (c.now + 1) := by
  simp only [passTime, hv, hs]; rfl

/-- A nanosecond with a correction `d` of a Mirror that slews (R47). -/
theorem passTime_slewing {c : Chip} (hv : c.power.vsb = true) (hs : c.slew ≠ 0) :
    passTime c = ({ c with zow := { c.zow with offset := c.zow.offset - c.slew, slewAt := c.now } } : Chip).setCount
      ((c.now : Int) + 1 + c.slew).toNat := by
  simp only [passTime, hv, if_neg hs]; rfl

/-- Without VSB the chip stays, and with it what the correction and the count leave alone. -/
theorem passTime_keeps {α : Type} (p : Chip → α) (hz : ∀ (c : Chip) x, p { c with zow := x } = p c)
    (hn : ∀ (c : Chip) n, p (c.setCount n) = p c) (c : Chip) : p (passTime c) = p c := by
  unfold passTime
  dsimp only
  split
  · rfl
  · rw [hn]
    split
    · rfl
    · exact hz c _

/-- A Mirror alone slews, by a measured offset, no sooner than 20,000 ns after the correction before (R47). -/
theorem Chip.slew_eq_zero {c : Chip} (h : c.isMirror = false ∨ c.zow.offset = 0 ∨ c.now < c.zow.slewAt + 20000) : c.slew = 0 := by
  unfold Chip.slew
  split
  next hg =>
    simp only [Bool.and_eq_true, Nat.ble_eq] at hg
    obtain ⟨⟨hm, -⟩, hle⟩ := hg
    rcases h with h | h | h
    · rw [hm] at h; cases h
    · rw [h]; rfl
    · omega
  next => rfl

/-- The master count as a number gives it back. -/
theorem Chip.count_eq_ofNat_now (c : Chip) : BitVec.ofNat 64 c.now = c.count := (BitVec.ofNat_toNat ..).trans (BitVec.setWidth_eq _)

/-- Settles O38: what `passTime` makes of the count with each correction, the frame by `passTime_keeps`. -/
theorem idleStepIsOneNanosecond : Obligations.IdleStepIsOneNanosecond := by
  unfold Obligations.IdleStepIsOneNanosecond
  intro s hidle
  dsimp only
  generalize hc : s.chip = c
  refine ⟨?step, passTime_keeps _ (fun _ _ => rfl) Chip.setCount_mem c, passTime_keeps _ (fun _ _ => rfl) Chip.setCount_cores c,
    passTime_keeps _ (fun _ _ => rfl) Chip.setCount_power c, passTime_off, fun hv hs => ?steady, fun hv hs => ?ahead, fun hv hs => ?behind,
    Chip.slew_eq_zero, fun hm => ?stopped⟩
  case step => simp only [step, hidle, idle, State.at, hc]
  case steady =>
    rw [passTime_steady hv hs, Chip.setCount_count, BitVec.ofNat_add, Chip.count_eq_ofNat_now]
    refine ⟨rfl, fun hlast => ?_⟩
    rw [Chip.setCount_within_epoch c (by omega), BitVec.ofNat_add, Chip.count_eq_ofNat_now]
    rfl
  case ahead =>
    have hn : ((c.now : Int) + 1 + 1).toNat = c.now + 2 := by omega
    rw [passTime_slewing hv (by rw [hs]; decide), hs, Chip.setCount_count, Chip.setCount_zow, hn, BitVec.ofNat_add, Chip.count_eq_ofNat_now]
    exact ⟨rfl, rfl, rfl⟩
  case behind =>
    have hn : ((c.now : Int) + 1 + -1).toNat = c.now := by omega
    rw [passTime_slewing hv (by rw [hs]; decide), hs, Chip.setCount_count, Chip.setCount_zow, hn, Chip.count_eq_ofNat_now]
    exact ⟨rfl, rfl, rfl⟩
  case stopped => simp only [bootTick, hm, Bool.not_false, if_true]

/-! ### The count and its clock -/

/-- LOCKED and FREERUN, each as it was set. -/
theorem fb_locked_freerun (c : Chip) (l r : Nat) :
    ((c.setF POST_STATUS_LOCKED l).setF POST_STATUS_FREERUN r).fb POST_STATUS_LOCKED = (l % 2 != 0)
    ∧ ((c.setF POST_STATUS_LOCKED l).setF POST_STATUS_FREERUN r).fb POST_STATUS_FREERUN = (r % 2 != 0) :=
  ⟨(Chip.fb_setF_other _ _ _ _ (by decide) (by decide) (by decide)).trans (Chip.fb_setF_same _ _ _ (by decide) (by decide)),
    Chip.fb_setF_same _ _ _ (by decide) (by decide)⟩

/-- A crossing of a multiple of 2^48 sets EPOCH_EV and makes the entry of the epoch it comes to (R30). -/
theorem Chip.setCount_crossing {c : Chip} {n : Nat} (h : c.now / 2 ^ 48 < n / 2 ^ 48) :
    (c.setCount n).fb POST_STATUS_EPOCH_EV = true
    ∧ ∃ e, (c.setCount n).dayb.epoch = some e ∧ e.cls = 5 ∧ e.origin = 252 ∧ e.data = n / 2 ^ 48 := by
  have he : c.setCount n = (({ c with count := BitVec.ofNat 64 n } : Chip).journal 5 2 252 0 (n / 2 ^ 48 * 2 ^ 48) (n / 2 ^ 48)).flag
      POST_STATUS_EPOCH_EV := if_pos h
  rw [he]
  exact ⟨Chip.fb_flag_same _ _ rfl (by decide), _, Chip.journal_epoch 2 0 _ _ (post_not_refused _), rfl, rfl, rfl⟩

theorem readReg_nowLo (o : Nat) (peek : Bool) (c : Chip) : readReg o peek POST_NOW_LO c = readNowLo o peek c := rfl

theorem readNowLo_word (o : Nat) (peek : Bool) (c : Chip) : (readNowLo o peek c).1 = c.count.extractLsb' 0 32 :=
  show c.count.setWidth 32 = _ from BitVec.setWidth_eq_extractLsb' (by decide)
theorem readNowLo_count (o : Nat) (peek : Bool) (c : Chip) : (readNowLo o peek c).2.count = c.count := by
  cases peek <;> rfl
theorem readNowLo_mem (o : Nat) (peek : Bool) (c : Chip) : (readNowLo o peek c).2.mem = c.mem := by
  cases peek <;> rfl

/-- A read that is no peek keeps the high half for its own origin alone (R32). -/
theorem nowHi_readNowLo (o : Nat) (peek : Bool) (c : Chip) (j : Nat) :
    sget (fun _ => 0) (readNowLo o peek c).2.nowHi j
      = if j = o ∧ peek = false then c.count.extractLsb' 32 32 else sget (fun _ => 0) c.nowHi j := by
  cases peek
  case true => simp [readNowLo]
  case false =>
    have hhi : (c.count >>> 32).truncate 32 = c.count.extractLsb' 32 32 := by
      apply BitVec.eq_of_toNat_eq
      simp
    simp [readNowLo, sget_sset, hhi]

theorem exec_postNowLoRead (o : BitVec 12) (peek : Bool) (s : State) :
    exec (.postNowLoRead o peek) s = .next (s.at (readCmd o.toNat POST_NOW_LO peek s.chip)) := rfl

theorem exec_epochCrossing (s : State) :
    exec .epochCrossing s = .next (s.at (s.chip.setCount ((s.chip.now / 2 ^ 48 + 1) * 2 ^ 48))) := rfl

/-! ### Replicas -/

/-- What an island's replica reads. -/
theorem Chip.toNat_replica (c : Chip) (i : Nat) :
    (c.replica i).toNat = max (sget replica0 c.replicas i).low ((c.now : Int) + (sget replica0 c.replicas i).err).toNat % 2 ^ 64 :=
  BitVec.toNat_ofNat ..

/-- A replica set to an error: it reads the master with it, but no less than before (R24). -/
theorem Chip.toNat_replica_setReplica (c : Chip) (i : Nat) (err : Int) :
    ((c.setReplica i err).replica i).toNat = max (c.replica i).toNat ((c.now : Int) + err).toNat % 2 ^ 64 := by
  rw [Chip.toNat_replica]
  simp only [Chip.setReplica, sget_sset_same, Chip.now]

theorem Chip.now_lt (c : Chip) : c.now < 2 ^ 64 := c.count.isLt

/-- A replica set to no error never decreases, and comes to the master or stays ahead of it (R24, R26). -/
theorem Chip.toNat_replica_reloaded (c : Chip) (i : Nat) :
    ((c.setReplica i 0).replica i).toNat = max (c.replica i).toNat c.now := by
  have hr := (c.replica i).isLt
  have hn := c.now_lt
  rw [Chip.toNat_replica_setReplica, Int.add_zero, Int.toNat_natCast, Nat.mod_eq_of_lt (Nat.max_lt.mpr ⟨hr, hn⟩)]

/-- What a replica check outside the tolerance leaves: the island reloaded, and the record of it (R26). -/
def replicaReload (i : Nat) (err : Int) (c : Chip) : Chip :=
  let c := (c.setReplica i err).setReplica i 0
  let c := c.setF POST_FAULT_ISL_ISLAND i
  let c := c.countF POST_FAULT_ISL_COUNT
  let c := c.flag POST_STATUS_REPL_FAULT
  c.journal 1 0 252 0 i 0

theorem exec_replicaCheck (i : Fin 236) (err : Int) (s : State) :
    exec (.replicaCheck i err) s =
      .next (s.at (if err.natAbs ≤ s.chip.tolerance then s.chip.setReplica i err else replicaReload i err s.chip)) := rfl

theorem answers_replicaCheck_inside {i : Fin 236} {err : Int} {s : State} {P : Chip → Prop} (h : err.natAbs ≤ s.chip.tolerance)
    (hp : P (s.chip.setReplica i err)) : Answers (.replicaCheck i err) s P :=
  .of_next (exec_replicaCheck i err s) (by rwa [if_pos h])

theorem answers_replicaCheck_outside {i : Fin 236} {err : Int} {s : State} {P : Chip → Prop} (h : s.chip.tolerance < err.natAbs)
    (hp : P (replicaReload i err s.chip)) : Answers (.replicaCheck i err) s P :=
  .of_next (exec_replicaCheck i err s) (by rwa [if_neg (Nat.not_le.mpr h)])

/-- A reload names the island and sets REPL_FAULT (R26). -/
theorem replicaReload_fault (i : Fin 236) (err : Int) (c : Chip) :
    (replicaReload i err c).fb POST_STATUS_REPL_FAULT = true ∧ (replicaReload i err c).f POST_FAULT_ISL_ISLAND = i.val := by
  have hi := i.isLt
  constructor
  · exact (Chip.fb_congr (Chip.reg_journal _ _ _ _ _ _ _ (by decide))).trans (Chip.fb_flag_same _ _ rfl (by decide))
  · calc (replicaReload i err c).f POST_FAULT_ISL_ISLAND
        = ((((c.setReplica i err).setReplica i 0).setF POST_FAULT_ISL_ISLAND i).countF POST_FAULT_ISL_COUNT).f POST_FAULT_ISL_ISLAND :=
          (Chip.f_congr (Chip.reg_journal _ _ _ _ _ _ _ (by decide))).trans (Chip.f_congr (Chip.reg_flag_other _ (by decide)))
      _ = i.val % 2 ^ 8 := (Chip.f_setF_other _ _ _ _ (by decide) (by decide) (by decide)).trans (Chip.f_setF_same _ _ _ (by decide) (by decide))
      _ = i.val := Nat.mod_eq_of_lt (by omega)

theorem replicaReload_count (i : Nat) (err : Int) (c : Chip) : (replicaReload i err c).count = c.count := Chip.journal_count ..

/-- A replica found off comes to the master, or is held where it was found or had been, whichever is the highest (R24, R26). -/
theorem toNat_replica_replicaReload (i : Nat) (err : Int) (c : Chip) :
    ((replicaReload i err c).replica i).toNat = max (max (c.replica i).toNat ((c.now : Int) + err).toNat % 2 ^ 64) c.now := by
  rw [← Chip.toNat_replica_setReplica]
  refine Eq.trans ?_ (Chip.toNat_replica_reloaded (c.setReplica i err) i)
  rw [Chip.toNat_replica, Chip.toNat_replica, Chip.now, replicaReload_count, replicaReload, Chip.journal_replicas]
  rfl

/-- Settles O37: each command's chip read off field by field; the replicas by what a set replica reads. -/
theorem postmarkEvents : Obligations.PostmarkEvents := by
  unfold Obligations.PostmarkEvents
  intro o i err s
  dsimp only
  have hr := (s.chip.replica i).isLt
  have hn := s.chip.now_lt
  refine ⟨fun hread peek => ?nowLo, .of_next rfl ?loss, .of_next rfl ?lock, fun htol hge hlt => ?inside, fun htol => ?outside,
    fun hlt => ?rising, fun hlt => ?epoch⟩
  case nowLo =>
    refine .of_next (exec_postNowLoRead o peek s) ?_
    rw [readCmd_eq peek hread (by decide) (by decide), readReg_nowLo]
    exact ⟨(Chip.answer_answerTo _ _ _).trans (congrArg Answer.data (readNowLo_word _ _ _)), readNowLo_count _ _ _, readNowLo_mem _ _ _,
      nowHi_readNowLo o.toNat peek s.chip⟩
  case loss | lock =>
    obtain ⟨hlocked, hfree⟩ := fb_locked_freerun { s.chip with refclk := _ } _ _
    exact ⟨hlocked, hfree, rfl, rfl, rfl⟩
  case inside =>
    refine answers_replicaCheck_inside htol ⟨?_, rfl, rfl, rfl⟩
    rw [Chip.toNat_replica_setReplica]
    omega
  case outside =>
    obtain ⟨hfault, hisland⟩ := replicaReload_fault i err s.chip
    refine answers_replicaCheck_outside htol ⟨hfault, hisland, replicaReload_count _ _ _, fun hle hrep => ?_, fun hpos hrep hlt => ?_,
      fun _ => ?_⟩
    · apply BitVec.eq_of_toNat_eq
      rw [toNat_replica_replicaReload]
      change _ = s.chip.now
      omega
    · rw [toNat_replica_replicaReload]
      omega
    · obtain ⟨l, hl⟩ := Chip.journal_ring (c := _) 1 0 0 i.val 0 (post_not_refused _)
      exact ⟨_, l, hl, rfl, rfl, rfl⟩
  case rising =>
    rcases Nat.lt_or_ge s.chip.tolerance err.natAbs with htol | htol
    · refine answers_replicaCheck_outside htol ?_
      rw [toNat_replica_replicaReload]
      omega
    · refine answers_replicaCheck_inside htol ?_
      rw [Chip.toNat_replica_setReplica]
      omega
  case epoch =>
    have hdiv : (s.chip.now / 2 ^ 48 + 1) * 2 ^ 48 / 2 ^ 48 = s.chip.now / 2 ^ 48 + 1 := by omega
    obtain ⟨hev, e, he⟩ := Chip.setCount_crossing (c := s.chip) (n := (s.chip.now / 2 ^ 48 + 1) * 2 ^ 48) (by omega)
    rw [hdiv] at he
    refine .of_next (exec_epochCrossing s) ⟨?_, hev, e, he⟩
    rw [Chip.now, Chip.setCount_count, BitVec.toNat_ofNat]
    omega

end Sys2Proof.Machine
end

section
/-! SUPPORT. Frames: what the end of a session, a reset of the units, and a check of memory leave as it was. -/

namespace Sys2Proof.Machine

/-! ### What a session's end and a reset of the units leave as it was -/

/-- What each change keeps, all of them keep. -/
theorem forAll_same {α β : Type} {p : Chip → β} {f : α → Chip → Chip} (h : ∀ a c, p (f a c) = p c) (l : List α) (c : Chip) :
    p (forAll l f c) = p c :=
  forAll_keeps (P := fun d => p d = p c) (fun a d hd => (h a d).trans hd) l c rfl

@[simp] theorem Chip.journal_power (c : Chip) (cls kind o fl item data : Nat) : (c.journal cls kind o fl item data).power = c.power :=
  c.journal_keeps Chip.power (fun _ _ => rfl) (fun _ => rfl) cls kind o fl item data
@[simp] theorem Chip.journal_cores (c : Chip) (cls kind o fl item data : Nat) : (c.journal cls kind o fl item data).cores = c.cores :=
  c.journal_keeps Chip.cores (fun _ _ => rfl) (fun _ => rfl) cls kind o fl item data
@[simp] theorem Chip.journal_memc (c : Chip) (cls kind o fl item data : Nat) : (c.journal cls kind o fl item data).memc = c.memc :=
  c.journal_keeps Chip.memc (fun _ _ => rfl) (fun _ => rfl) cls kind o fl item data

/-- Only an epoch entry changes entry 0 (R30). -/
theorem Chip.journal_epoch_other (c : Chip) {cls : Nat} (kind o fl item data : Nat) (h : cls ≠ 5) :
    (c.journal cls kind o fl item data).dayb.epoch = c.dayb.epoch := by
  unfold Chip.journal Chip.journalAt
  simp only [if_neg h]
  repeat' split
  all_goals rfl

section
variable {α : Type} (p : Chip → α)

/-- The end of a session touches the cores, DBG and the Daybook alone (R607). -/
theorem endSession_keeps (hj : ∀ (c : Chip) kind o fl item data, p (c.journal 0 kind o fl item data) = p c)
    (hk : ∀ (c : Chip) k f, p (c.modCore k f) = p c) (hs : ∀ (c : Chip) w, p (c.setReg DBG_STATUS w) = p c)
    (he : ∀ (c : Chip) w, p (c.setReg DBG_EVT w) = p c) (hd : ∀ (c : Chip) x, p { c with dbgPort := x } = p c) (c : Chip) :
    p (endSession c) = p c := by
  unfold endSession
  split
  · rfl
  · refine (he _ _).trans ((hd _ _).trans ((hs _ _).trans ((hs _ _).trans ?_)))
    exact (forAll_same (fun k c => hk c k _) _ _).trans (hj _ _ _ _ _ _)

/-- The end of a link touches ZOW, its register fields, TWIN_SYNC and the Franking Unit's hold alone. -/
theorem linkDown_keeps (hr : ∀ (c : Chip) k w, k ∈ [ZOW_EVT, ZOW_STATUS, ZOW_LANE, POST_STATUS] → p (c.setReg k w) = p c)
    (hz : ∀ (c : Chip) f, p (c.modZow f) = p c) (hf : ∀ (c : Chip) f, p (c.modFu f) = p c) (st : Nat) (c : Chip) :
    p (linkDown st c) = p c := by
  have hset : ∀ (c : Chip) (x : Fld) v, x.key ∈ [ZOW_EVT, ZOW_STATUS, ZOW_LANE, POST_STATUS] → p (c.setF x v) = p c :=
    fun c x v h => hr c _ _ h
  unfold linkDown
  refine (hf _ _).trans ((hz _ _).trans ?_)
  refine (hset _ _ _ (by decide)).trans ((hset _ _ _ (by decide)).trans ((hset _ _ _ (by decide)).trans
    ((hset _ _ _ (by decide)).trans ((hset _ _ _ (by decide)).trans ?_))))
  split
  · exact hr _ _ _ (by decide)
  · rfl

/-- A reset of every unit of the main side touches, besides what no register holds, the registers of the link alone. -/
theorem unitsAfter_keeps (hr : ∀ (c : Chip) k w, k ∈ [ZOW_EVT, ZOW_STATUS, ZOW_LANE, POST_STATUS] → p (c.setReg k w) = p c)
    (hz : ∀ (c : Chip) f, p (c.modZow f) = p c) (hf : ∀ (c : Chip) f, p (c.modFu f) = p c)
    (hp : ∀ (c : Chip) x, p { c with pins := x } = p c)
    (hu : ∀ (c : Chip) x1 x2 x3 x4 x5 x6 x7 x8,
      p { c with icu := x1, tmr := x2, wdt := x3, disp := x4, press := x5, dma := x6, aud := x7, hosts := x8 } = p c)
    (cls : Nat) (c : Chip) : p (unitsAfter cls c) = p c := by
  unfold unitsAfter
  refine (hf _ _).trans ((hu _ _ _ _ _ _ _ _ _).trans ?_)
  unfold zowUnitReset
  refine (hz _ _).trans ((linkDown_keeps p hr hz hf 0 _).trans ?_)
  exact (forAll_same (fun _ c => hf c _) _ _).trans (hp _ _)
end

@[simp] theorem endSession_count (c : Chip) : (endSession c).count = c.count :=
  endSession_keeps Chip.count (fun _ _ _ _ _ _ => Chip.journal_count ..) (fun _ _ _ => rfl) (fun _ _ => rfl) (fun _ _ => rfl) (fun _ _ => rfl) c
@[simp] theorem endSession_power (c : Chip) : (endSession c).power = c.power :=
  endSession_keeps Chip.power (fun _ _ _ _ _ _ => Chip.journal_power ..) (fun _ _ _ => rfl) (fun _ _ => rfl) (fun _ _ => rfl) (fun _ _ => rfl) c
@[simp] theorem endSession_epoch (c : Chip) : (endSession c).dayb.epoch = c.dayb.epoch :=
  endSession_keeps (fun c => c.dayb.epoch) (fun _ _ _ _ _ _ => Chip.journal_epoch_other _ _ _ _ _ _ (by decide)) (fun _ _ _ => rfl)
    (fun _ _ => rfl) (fun _ _ => rfl) (fun _ _ => rfl) c
theorem endSession_rstcause (c : Chip) : (endSession c).reg SYS_RSTCAUSE = c.reg SYS_RSTCAUSE :=
  endSession_keeps (Chip.reg · SYS_RSTCAUSE) (fun _ _ _ _ _ _ => Chip.reg_journal _ _ _ _ _ _ _ (by decide)) (fun _ _ _ => rfl)
    (fun c _ => Chip.reg_setReg_other c _ (by decide)) (fun c _ => Chip.reg_setReg_other c _ (by decide)) (fun _ _ => rfl) c

theorem Chip.fb_dbgPort (c : Chip) (x : Debug) (y : Fld) : ({ c with dbgPort := x } : Chip).fb y = c.fb y := rfl

/-- No session is open after its end. -/
theorem endSession_closed (c : Chip) : (endSession c).fb DBG_STATUS_SESSION = false := by
  unfold endSession
  split
  next h => simpa using h
  next =>
    refine (Chip.fb_congr (Chip.reg_flag_other _ (by decide))).trans ((Chip.fb_dbgPort _ _ _).trans ?_)
    exact (Chip.fb_setF_other _ _ _ _ (by decide) (by decide) (by decide)).trans (Chip.fb_setF_same _ _ 0 (by decide) (by decide))

@[simp] theorem unitsAfter_count (cls : Nat) (c : Chip) : (unitsAfter cls c).count = c.count :=
  unitsAfter_keeps Chip.count (fun _ _ _ _ => rfl) (fun _ _ => rfl) (fun _ _ => rfl) (fun _ _ => rfl) (fun _ _ _ _ _ _ _ _ _ => rfl) cls c
@[simp] theorem unitsAfter_power (cls : Nat) (c : Chip) : (unitsAfter cls c).power = c.power :=
  unitsAfter_keeps Chip.power (fun _ _ _ _ => rfl) (fun _ _ => rfl) (fun _ _ => rfl) (fun _ _ => rfl) (fun _ _ _ _ _ _ _ _ _ => rfl) cls c
@[simp] theorem unitsAfter_dayb (cls : Nat) (c : Chip) : (unitsAfter cls c).dayb = c.dayb :=
  unitsAfter_keeps Chip.dayb (fun _ _ _ _ => rfl) (fun _ _ => rfl) (fun _ _ => rfl) (fun _ _ => rfl) (fun _ _ _ _ _ _ _ _ _ => rfl) cls c
@[simp] theorem unitsAfter_cores (cls : Nat) (c : Chip) : (unitsAfter cls c).cores = c.cores :=
  unitsAfter_keeps Chip.cores (fun _ _ _ _ => rfl) (fun _ _ => rfl) (fun _ _ => rfl) (fun _ _ => rfl) (fun _ _ _ _ _ _ _ _ _ => rfl) cls c
theorem unitsAfter_reg (cls : Nat) (c : Chip) {k : Nat} (h : k ∉ [ZOW_EVT, ZOW_STATUS, ZOW_LANE, POST_STATUS]) :
    (unitsAfter cls c).reg k = c.reg k :=
  unitsAfter_keeps (Chip.reg · k) (fun c _ _ hj => Chip.reg_setReg_other c _ fun e => h (e ▸ hj)) (fun _ _ => rfl) (fun _ _ => rfl)
    (fun _ _ => rfl) (fun _ _ _ _ _ _ _ _ _ => rfl) cls c

/-! ### What the checks of memory leave as it was -/

/-- What `p` reads is none of what a check or a store of memory changes: registers, the Daybook, the repair list, the bytes with their
poison and bit errors, and of the memory controller anything but its requests and grants. -/
structure MemBlind {α : Type} (p : Chip → α) : Prop where
  reg : ∀ (c : Chip) k w, p (c.setReg k w) = p c
  dayb : ∀ (c : Chip) x, p { c with dayb := x } = p c
  pm : ∀ (c : Chip) x, p { c with pm := x } = p c
  mem : ∀ (c : Chip) x, p { c with mem := x } = p c
  poison : ∀ (c : Chip) x, p { c with poison := x } = p c
  flips : ∀ (c : Chip) x, p { c with flips := x } = p c
  free : ∀ (c : Chip) x, p { c with free := x } = p c
  memc : ∀ (c : Chip) x, x.waiting = c.memc.waiting → x.grant = c.memc.grant → p { c with memc := x } = p c

theorem memBlind_power : MemBlind Chip.power :=
  ⟨fun _ _ _ => rfl, fun _ _ => rfl, fun _ _ => rfl, fun _ _ => rfl, fun _ _ => rfl, fun _ _ => rfl, fun _ _ => rfl, fun _ _ _ _ => rfl⟩

namespace MemBlind
variable {α : Type} {p : Chip → α} (h : MemBlind p)
include h

theorem setF (c : Chip) (x : Fld) (v : Nat) : p (c.setF x v) = p c := h.reg c _ _
theorem flag (c : Chip) (x : Fld) : p (c.flag x) = p c := h.reg c _ _
theorem countF (c : Chip) (x : Fld) : p (c.countF x) = p c := h.reg c _ _
theorem setPoison (c : Chip) (k : Nat) (b : Bool) : p (c.setPoison k b) = p c := h.poison c _
theorem setFlip (c : Chip) (k : Nat) (e : BitErr) : p (c.setFlip k e) = p c := h.flips c _
theorem setValid (c : Chip) (k : Nat) : p (c.setValid k) = p c := h.memc c _ rfl rfl
theorem setDirty (c : Chip) (pa : Nat) (l : Option DirtyLine) : p (c.setDirty pa l) = p c := h.memc c _ rfl rfl
theorem setDlt (c : Chip) (a i : Nat) (e : DltEntry) : p (c.setDlt a i e) = p c := h.memc c _ rfl rfl
theorem setByte (c : Chip) (pa : Nat) (b : Byte) : p (c.setByte pa b) = p c := h.mem c _

theorem journal (c : Chip) (cls kind o fl item data : Nat) : p (c.journal cls kind o fl item data) = p c :=
  c.journal_keeps p h.dayb (fun c => h.flag c _) cls kind o fl item data

theorem repairAdd (c : Chip) (kind id off : Nat) : p (c.repairAdd kind id off) = p c := by
  unfold Chip.repairAdd
  dsimp only
  split
  · rfl
  · exact h.pm c _

theorem setBytes (bs : List Byte) (c : Chip) (pa : Nat) : p (c.setBytes pa bs) = p c := by
  induction bs generalizing c pa with
  | nil => rfl
  | cons b t ih => exact (ih _ _).trans (h.setByte c pa b)

theorem putBytes (c : Chip) (l : List (Nat × Byte)) : p (c.putBytes l) = p c :=
  forAll_same (f := fun q c => c.setByte q.1 q.2) (fun q c => h.setByte c q.1 q.2) l c

theorem dltAlloc (c : Chip) (a off k : Nat) : p (c.dltAlloc a off k) = p c := by
  unfold Chip.dltAlloc
  split
  · exact h.flag c _
  · exact (h.repairAdd _ _ _ _).trans ((h.journal _ _ _ _ _ _ _).trans ((h.flag _ _).trans (h.setDlt c _ _ _)))

theorem verify (c : Chip) (r : Region) (k : Nat) : p (c.verify r k) = p c := by
  unfold Chip.verify
  split
  · exact h.dltAlloc c _ _ _
  · rfl

theorem correctedSram (c : Chip) (a pa : Nat) (spec scrub : Bool) : p (c.correctedSram a pa spec scrub) = p c := by
  unfold Chip.correctedSram
  exact (h.journal _ _ _ _ _ _ _).trans ((h.flag _ _).trans ((h.setF _ _ _).trans ((h.setF _ _ _).trans ((h.setF _ _ _).trans
    ((h.setF _ _ _).trans ((h.setF _ _ _).trans (h.countF c _)))))))

theorem retirePage (c : Chip) (page : Nat) : p (c.retirePage page) = p c := by
  unfold Chip.retirePage
  split
  · rfl
  · split
    · exact h.flag c _
    · exact (h.flag _ _).trans ((h.setF _ _ _).trans (h.memc c _ rfl rfl))

theorem countPage (c : Chip) (pa : Nat) : p (c.countPage pa) = p c := by
  have hretire : ∀ (b : Bool) (d : Chip), p (if b then d.retirePage (pa / 4096) else d) = p d := by
    intro b d
    split
    · exact h.retirePage d _
    · rfl
  exact (hretire _ _).trans (h.memc c _ rfl rfl)

theorem correctedDram (c : Chip) (pa : Nat) (spec scrub : Bool) : p (c.correctedDram pa spec scrub) = p c := by
  unfold Chip.correctedDram
  exact (h.countPage _ _).trans ((h.journal _ _ _ _ _ _ _).trans ((h.flag _ _).trans ((h.setF _ _ _).trans ((h.setF _ _ _).trans
    ((h.setF _ _ _).trans (h.countF c _))))))

theorem corrected (c : Chip) (r : Region) (pa : Nat) (spec scrub : Bool) : p (c.corrected r pa spec scrub) = p c := by
  unfold Chip.corrected
  split
  · exact h.correctedDram c _ _ _
  · exact h.correctedSram c _ _ _ _

theorem xorWord (c : Chip) (k n mask : Nat) : p (c.xorWord k n mask) = p c := h.setBytes _ c k

theorem firstUse (c : Chip) (r : Region) (k : Nat) : p (c.firstUse r k) = p c := by
  have hdata : ∀ (d v : Nat), p ((({ c with free := v } : Chip).setBytes k (leBytes (eccWidth r) d)).setValid k) = p c :=
    fun d v => (h.setValid _ _).trans ((h.setBytes _ _ _).trans (h.free c _))
  unfold Chip.firstUse
  split
  · rfl
  · dsimp only [Chip.freeBits]
    split
    · exact (h.setPoison _ _ _).trans (hdata _ _)
    · split
      · exact (h.setFlip _ _ _).trans (hdata _ _)
      · exact hdata _ _

theorem checkWord (c : Chip) (r : Region) (k : Nat) (spec scrub : Bool) : p (c.checkWord r k spec scrub) = p c := by
  refine Eq.trans ?_ (h.firstUse c r k)
  unfold Chip.checkWord
  dsimp only
  generalize c.firstUse r k = d
  split
  · rfl
  · split
    · exact (h.setPoison _ _ _).trans (h.setFlip d _ _)
    next m ce _ =>
      have hfix : p (if d.flipAt k = ⟨0, 0⟩ then d else (d.setFlip k ⟨0, 0⟩).xorWord k (eccWidth r) m) = p d := by
        split
        · rfl
        · exact (h.xorWord _ _ _ _).trans (h.setFlip d _ _)
      have hrecord : ∀ (b : Bool) (e : Chip), p (if b then (e.corrected r k spec scrub).verify r k else e) = p e := by
        intro b e
        split
        · exact (h.verify _ _ _).trans (h.corrected e _ _ _ _)
        · rfl
      exact (hrecord _ _).trans hfix

theorem checkLine (c : Chip) (a : Nat) (l : DirtyLine) (pa : Nat) (spec scrub : Bool) : p (c.checkLine a l pa spec scrub) = p c := by
  unfold Chip.checkLine
  dsimp only
  split
  · rfl
  · split
    · exact h.setDirty c _ _
    next m ce _ =>
      have hfix : ∀ (e : BitErr) (x : Option DirtyLine), p (if e = ⟨0, 0⟩ then c else (c.setDirty pa x).xorWord (pa - pa % 4) 4 m) = p c := by
        intro e x
        split
        · rfl
        · exact (h.xorWord _ _ _ _).trans (h.setDirty c _ _)
      have hrecord : ∀ (d : Chip), p (if ce then d.correctedSram a (pa - pa % 64) spec scrub else d) = p d := by
        intro d
        split
        · exact h.correctedSram d _ _ _ _
        · rfl
      exact (hrecord _).trans (hfix _ _)

theorem eccCheck (c : Chip) (r : Region) (pa : Nat) (spec scrub : Bool) : p (c.eccCheck r pa spec scrub) = p c := by
  unfold Chip.eccCheck
  split
  · exact h.checkLine c _ _ _ _ _
  · exact h.checkWord c _ _ _ _

theorem eccRange (c : Chip) (r : Region) (n pa : Nat) : p (c.eccRange r n pa) = p c := by
  refine forAll_same (fun i c => ?_) _ c
  split
  · exact h.eccCheck c _ _ _ _
  · rfl

theorem plant (c : Chip) (r : Region) (k : Nat) : p (c.plant r k) = p c := by
  unfold Chip.plant
  split <;> split
  · exact (h.setF _ _ _).trans (h.setFlip c _ _)
  · rfl
  · exact (h.setF _ _ _).trans (h.setFlip c _ _)
  · rfl

theorem freshWord (c : Chip) (r : Region) (k : Nat) : p (c.freshWord r k) = p c := by
  have hclean : p (if memRegion r then ((c.setFlip k ⟨0, 0⟩).setPoison k false).setValid k else (c.setFlip k ⟨0, 0⟩).setPoison k false) = p c := by
    split
    · exact (h.setValid _ _).trans ((h.setPoison _ _ _).trans (h.setFlip c _ _))
    · exact (h.setPoison _ _ _).trans (h.setFlip c _ _)
  unfold Chip.freshWord
  dsimp only
  split
  · exact (h.verify _ _ _).trans hclean
  · exact hclean

theorem writeBack (c : Chip) (pa : Nat) : p (c.writeBack pa) = p c := by
  unfold Chip.writeBack
  split
  · rfl
  · dsimp only
    refine (forAll_same (fun j c => ?_) _ _).trans ((h.setDirty _ _ _).trans (h.eccRange c _ _ _))
    exact (h.plant _ _ _).trans ((h.setPoison _ _ _).trans (h.freshWord c _ _))

theorem writeBackAll (c : Chip) : p c.writeBackAll = p c := forAll_same (fun la c => h.writeBack c la) _ c

end MemBlind

/-- Nothing is written back where no line is dirty. -/
theorem writeBackAll_clean {c : Chip} (h : c.memc.cache = []) : c.writeBackAll = c := by
  unfold Chip.writeBackAll
  rw [h]
  rfl

end Sys2Proof.Machine
end

section
/-! O47: supplies, Nap and Dormant, power domains, fuses and the boot. -/

namespace Sys2Proof.Machine

/-! ### The main side without its rails -/

/-- The power control once the main side has lost its rails. -/
def PowerCtl.railsLost (x : PowerCtl) : PowerCtl :=
  { x with state := .off, pgood := false, seq := none, domain := [], urst := [], failed := [], boot := none, retained := none }

/-- The main side as its rails go, before its units are reset. -/
def railsGone (c : Chip) : Chip :=
  (({ c with cores := c.cores.filter (fun p => Nat.ble 62 p.1), power := c.power.railsLost } : Chip).wipeMain).loadReplicas (Nat.blt · 112)

theorem mainOff_eq (c : Chip) : c.mainOff = unitsAfter 1 (railsGone (endSession c)) := rfl

@[simp] theorem mainOff_count (c : Chip) : c.mainOff.count = c.count := by
  rw [mainOff_eq, unitsAfter_count]
  exact endSession_count c
@[simp] theorem mainOff_power (c : Chip) : c.mainOff.power = c.power.railsLost := by
  rw [mainOff_eq, unitsAfter_power]
  exact congrArg PowerCtl.railsLost (endSession_power c)
@[simp] theorem mainOff_epoch (c : Chip) : c.mainOff.dayb.epoch = c.dayb.epoch := by
  rw [mainOff_eq, unitsAfter_dayb]
  exact endSession_epoch c
theorem mainOff_rstcause (c : Chip) : c.mainOff.reg SYS_RSTCAUSE = c.reg SYS_RSTCAUSE := by
  rw [mainOff_eq, unitsAfter_reg _ _ (by decide)]
  exact endSession_rstcause c
/-- The debug session ends with the main side (R606). -/
theorem mainOff_session (c : Chip) : c.mainOff.fb DBG_STATUS_SESSION = false := by
  rw [mainOff_eq, Chip.fb_congr (unitsAfter_reg _ _ (by decide))]
  exact endSession_closed c

/-- A core left out of the list holds its start state. -/
theorem sget_filter_above (t : Sparse Core) {n k : Nat} (h : k < n) : sget Core.reset (t.filter fun p => Nat.ble n p.1) k = Core.reset k := by
  induction t with
  | nil => rfl
  | cons e t ih =>
    by_cases he : Nat.ble n e.1 = true
    · have hne : e.1 ≠ k := by rw [Nat.ble_eq] at he; omega
      rw [List.filter_cons_of_pos (by simpa using he)]
      simpa only [sget, if_neg hne] using ih
    · rw [List.filter_cons_of_neg (by simpa using he)]
      exact ih

/-- The cores of the main side lose their state with its rails. -/
theorem core_mainOff (c : Chip) {k : Nat} (h : k < 62) : c.mainOff.core k = Core.reset k := by
  rw [Chip.core, mainOff_eq, unitsAfter_cores]
  exact sget_filter_above _ h

/-! ### MAIN_EN -/

theorem setMainEn_keeps {α : Type} (p : Chip → α) (hj : ∀ (c : Chip) data, p (c.journal 0 9 63 0 0 data) = p c)
    (hp : ∀ (c : Chip) x, p { c with power := x } = p c) (c : Chip) (b : Bool) : p (c.setMainEn b) = p c := by
  unfold Chip.setMainEn
  split
  · rfl
  · exact (hj _ _).trans (hp _ _)

@[simp] theorem setMainEn_mem (c : Chip) (b : Bool) : (c.setMainEn b).mem = c.mem :=
  setMainEn_keeps Chip.mem (fun _ _ => Chip.journal_mem ..) (fun _ _ => rfl) c b
@[simp] theorem setMainEn_memc (c : Chip) (b : Bool) : (c.setMainEn b).memc = c.memc :=
  setMainEn_keeps Chip.memc (fun _ _ => Chip.journal_memc ..) (fun _ _ => rfl) c b

@[simp] theorem setMainEn_power (c : Chip) (b : Bool) : (c.setMainEn b).power = { c.power with mainEn := b } := by
  unfold Chip.setMainEn
  split
  next h => rw [← h]
  next => exact Chip.journal_power ..

/-- A change of MAIN_EN has its entry (R554). -/
theorem setMainEn_entry {c : Chip} {b : Bool} (h : c.power.mainEn ≠ b) :
    ∃ e l, (c.setMainEn b).dayb.ring = e :: l ∧ e.cls = 0 ∧ e.kind = 9 ∧ e.data = b.toNat := by
  unfold Chip.setMainEn
  rw [if_neg h]
  obtain ⟨l, hl⟩ := Chip.journal_ring (c := { c with power := { c.power with mainEn := b } }) 0 9 0 0 b.toNat (o := 63) (Bool.and_false _)
  exact ⟨_, l, hl, rfl, rfl, rfl⟩

/-! ### A P -/

theorem applyProfile_keeps {α : Type} (p : Chip → α) (hf : ∀ (c : Chip) x v, p (c.setF x v) = p c)
    (hp : ∀ (c : Chip) x, p { c with power := { c.power with stickyInForce := x } } = p c) (cls : Nat) (c : Chip) :
    p (c.applyProfile cls) = p c := by
  unfold Chip.applyProfile
  split
  · exact (hp _ _).trans ((hf _ _ _).trans ((hf _ _ _).trans (hf _ _ _)))
  · split
    · exact (hf _ _ _).trans (hf _ _ _)
    · rfl

@[simp] theorem applyProfile_count (cls : Nat) (c : Chip) : (c.applyProfile cls).count = c.count :=
  applyProfile_keeps Chip.count (fun _ _ _ => rfl) (fun _ _ => rfl) cls c
@[simp] theorem applyProfile_dayb (cls : Nat) (c : Chip) : (c.applyProfile cls).dayb = c.dayb :=
  applyProfile_keeps Chip.dayb (fun _ _ _ => rfl) (fun _ _ => rfl) cls c
@[simp] theorem applyProfile_vsb (cls : Nat) (c : Chip) : (c.applyProfile cls).power.vsb = c.power.vsb :=
  applyProfile_keeps (fun c => c.power.vsb) (fun _ _ _ => rfl) (fun _ _ => rfl) cls c
@[simp] theorem applyProfile_mainEn (cls : Nat) (c : Chip) : (c.applyProfile cls).power.mainEn = c.power.mainEn :=
  applyProfile_keeps (fun c => c.power.mainEn) (fun _ _ _ => rfl) (fun _ _ => rfl) cls c

@[simp] theorem loadReplicas_count (c : Chip) (sel : Nat → Bool) : (c.loadReplicas sel).count = c.count := rfl

/-- What a P's reset of the main side leaves of AON-M. -/
theorem doReset_cold_aon (c : Chip) (source : Nat) :
    (doReset 0 source c).count = c.count ∧ (doReset 0 source c).power.vsb = c.power.vsb
    ∧ (doReset 0 source c).power.mainEn = c.power.mainEn ∧ (doReset 0 source c).dayb.epoch = c.dayb.epoch := by
  unfold doReset
  refine ⟨?_, ?_, ?_, ?_⟩
  · simp [Chip.journal_count, Chip.accum, Chip.wipeMain, Chip.wipe, unitsBefore]
  · simp [Chip.accum, Chip.wipeMain, Chip.wipe, unitsBefore, Chip.loadReplicas]
  · simp [Chip.accum, Chip.wipeMain, Chip.wipe, unitsBefore, Chip.loadReplicas]
  · rw [Chip.journal_epoch_other _ _ _ _ _ _ (by decide)]
    simp [Chip.accum, Chip.wipeMain, Chip.wipe, unitsBefore, Chip.loadReplicas]

/-- What `SYS_RSTCAUSE` reads once a class and a source are recorded in it (R544). -/
theorem rstcause_recorded (c : Chip) (cls source : Nat) (h : cls < 6) :
    (((c.setF SYS_RSTCAUSE_CLASS cls).setF SYS_RSTCAUSE_SOURCE source).accum cls).f SYS_RSTCAUSE_CLASS = cls
    ∧ (((c.setF SYS_RSTCAUSE_CLASS cls).setF SYS_RSTCAUSE_SOURCE source).accum cls).regBit SYS_RSTCAUSE (8 + cls) = true := by
  constructor
  · calc (((c.setF SYS_RSTCAUSE_CLASS cls).setF SYS_RSTCAUSE_SOURCE source).accum cls).f SYS_RSTCAUSE_CLASS
        = ((c.setF SYS_RSTCAUSE_CLASS cls).setF SYS_RSTCAUSE_SOURCE source).f SYS_RSTCAUSE_CLASS :=
          Chip.f_setF_other _ ⟨SYS_RSTCAUSE, 8 + cls, 8 + cls⟩ _ _ (Nat.le_refl _) (by simp only; omega)
            (.inr (.inl (by simp only [SYS_RSTCAUSE_CLASS]; omega)))
      _ = cls % 2 ^ 4 := (Chip.f_setF_other _ _ _ _ (by decide) (by decide) (by decide)).trans (Chip.f_setF_same _ _ _ (by decide) (by decide))
      _ = cls := Nat.mod_eq_of_lt (by omega)
  · unfold Chip.accum Chip.setRegBit Chip.regBit
    rw [Chip.reg_setReg_same]
    exact Word.bit_setBit_same _ _ (by omega)

/-- A reset records its class and its source (R544). -/
theorem doReset_rstcause (c : Chip) (cls source : Nat) (h : cls < 6) :
    (doReset cls source c).f SYS_RSTCAUSE_CLASS = cls ∧ (doReset cls source c).regBit SYS_RSTCAUSE (8 + cls) = true := by
  obtain ⟨e, he⟩ : ∃ e : Chip, (doReset cls source c).reg SYS_RSTCAUSE
      = (((e.setF SYS_RSTCAUSE_CLASS cls).setF SYS_RSTCAUSE_SOURCE source).accum cls).reg SYS_RSTCAUSE :=
    ⟨_, Chip.reg_journal _ _ _ _ _ _ _ (by decide)⟩
  obtain ⟨hcls, hbit⟩ := rstcause_recorded e cls source h
  exact ⟨(Chip.f_congr he).trans hcls, (congrArg (Word.bit · (8 + cls)) he).trans hbit⟩

/-- AON-M as VSB brings it up, before the P (R543). -/
def aonAfresh (c : Chip) : Chip :=
  { c with
    count := 0
    nowHi := []
    replicas := []
    dayb := ⟨[], none, 0, false⟩
    pm := pmReset
    dbgPort := ⟨1, 0, 0, none, none⟩
    power := { c.power with vsb := true, mainEn := false, pmHold := false, mainEnHeld := false, stickyInForce := false }
    cores := c.cores.filter fun p => p.1 == 62 }

/-- The P that VSB brings: epoch 0, the main side's reset, and the Postmaster's restart. -/
def pReset (c : Chip) : Chip :=
  let c := doReset 0 0 (epochEntry (aonAfresh c))
  let (cause, c) := c.freeBits 64
  c.journal 0 7 63 0 0 cause

theorem exec_vsbRise (s : State) : exec .vsbRise s = .next (s.at (pReset s.chip).mainOff) := rfl

theorem epochEntry_count (c : Chip) : (epochEntry c).count = c.count := Chip.journal_count ..
theorem epochEntry_power (c : Chip) : (epochEntry c).power = c.power := Chip.journal_power ..
theorem epochEntry_epoch {c : Chip} : ((epochEntry c).dayb.epoch).isSome = true := by
  rw [epochEntry, Chip.journal_epoch 2 0 _ _ (post_not_refused _)]
  rfl

theorem pReset_aon (c : Chip) :
    (pReset c).count = 0 ∧ (pReset c).power.vsb = true ∧ (pReset c).power.mainEn = false ∧ (pReset c).dayb.epoch.isSome = true
    ∧ (pReset c).f SYS_RSTCAUSE_CLASS = 0 ∧ (pReset c).regBit SYS_RSTCAUSE 8 = true := by
  obtain ⟨hcount, hvsb, hmain, hepoch⟩ := doReset_cold_aon (epochEntry (aonAfresh c)) 0
  obtain ⟨hcls, hbit⟩ := doReset_rstcause (epochEntry (aonAfresh c)) 0 0 (by decide)
  have hreg : (pReset c).reg SYS_RSTCAUSE = (doReset 0 0 (epochEntry (aonAfresh c))).reg SYS_RSTCAUSE :=
    Chip.reg_journal _ _ _ _ _ _ _ (by decide)
  refine ⟨?_, ?_, ?_, ?_, (Chip.f_congr hreg).trans hcls, (congrArg (Word.bit · 8) hreg).trans hbit⟩
  · simp only [pReset, Chip.freeBits, Chip.journal_count, hcount, epochEntry_count]
    rfl
  · simp only [pReset, Chip.freeBits, Chip.journal_power, hvsb, epochEntry_power]
    rfl
  · simp only [pReset, Chip.freeBits, Chip.journal_power, hmain, epochEntry_power]
    rfl
  · simp only [pReset, Chip.freeBits, Chip.journal_epoch_other _ _ _ _ _ _ (show (0 : Nat) ≠ 5 by decide), hepoch, epochEntry_epoch]

/-! ### Power domains -/

/-- A table whose entries of key `i` all change to `x`, or are dropped as `x` is the default, reads `x` there, or the default. -/
theorem sget_filterMap {f : Nat × Replica → Option (Nat × Replica)} {i : Nat} {x : Replica}
    (hi : ∀ p, p.1 = i → f p = some (i, x) ∨ f p = none) (ho : ∀ p, p.1 ≠ i → ∀ q, f p = some q → q.1 ≠ i) (t : Sparse Replica) :
    sget replica0 (t.filterMap f) i = x ∨ sget replica0 (t.filterMap f) i = replica0 i := by
  induction t with
  | nil => exact .inr rfl
  | cons p t ih =>
    by_cases hp : p.1 = i
    · rcases hi p hp with h | h
      · rw [List.filterMap_cons_some h]
        exact .inl (if_pos rfl)
      · rwa [List.filterMap_cons_none h]
    · cases h : f p with
      | none => rwa [List.filterMap_cons_none h]
      | some q =>
        rw [List.filterMap_cons_some h]
        simpa only [sget, if_neg (ho p hp q h)] using ih

/-- Replicas loaded from the master have no error; one that is listed keeps what it has reached (R19, R24). -/
theorem sget_loadReplicas (c : Chip) {sel : Nat → Bool} {i : Nat} (h : sel (Config.islandDomain i) = true) :
    sget replica0 (c.loadReplicas sel).replicas i = ⟨0, (c.replica i).toNat⟩ ∨ sget replica0 (c.loadReplicas sel).replicas i = ⟨0, 0⟩ := by
  refine sget_filterMap (fun p hp => ?_) (fun p hp q hq => ?_) c.replicas
  · subst hp
    rw [if_pos h]
    split
    · exact .inr rfl
    · exact .inl rfl
  · split at hq
    · split at hq
      · cases hq
      · cases hq; exact hp
    · cases hq; exact hp

/-- A replica that is loaded, and was not ahead, reads the master count. -/
theorem replica_loadReplicas {c : Chip} {sel : Nat → Bool} {i : Nat} (h : sel (Config.islandDomain i) = true)
    (hle : (c.replica i).toNat ≤ c.now) : (c.loadReplicas sel).replica i = c.count := by
  have hn := c.now_lt
  apply BitVec.eq_of_toNat_eq
  rw [Chip.toNat_replica]
  change _ = c.now
  rcases sget_loadReplicas c h with hr | hr
  · rw [hr]
    change max (c.replica i).toNat ((c.now : Int) + 0).toNat % 2 ^ 64 = c.now
    omega
  · rw [hr]
    change max 0 ((c.now : Int) + 0).toNat % 2 ^ 64 = c.now
    omega

/-! ### Nap and Dormant -/

theorem pend_keeps {α : Type} (p : Chip → α) (hs : ∀ c j y, p (c.setSrc j y) = p c) (hf : ∀ c : Chip, p (c.flag ICU_STAT_CFG_ERR) = p c)
    (key origin pm : Nat) (refire : Bool) (c : Chip) : p (pend key origin pm refire c) = p c := by
  unfold pend
  dsimp only
  split
  · rfl
  · split
    · exact hf c
    · exact hs c _ _

theorem Chip.fb_power (c : Chip) (x : PowerCtl) (y : Fld) : ({ c with power := x } : Chip).fb y = c.fb y := rfl

/-- The sources caught in Nap pend: nothing but the interrupt controller and the latch changes (R509). -/
theorem wakeSources_keeps {α : Type} (p : Chip → α) (hs : ∀ c j y, p (c.setSrc j y) = p c)
    (hf : ∀ c : Chip, p (c.flag ICU_STAT_CFG_ERR) = p c) (c : Chip) :
    p (wakeSources c) = p { c with power := { c.power with napLatch := [] } } := by
  unfold wakeSources
  refine forAll_same (fun key d => ?_) _ _
  dsimp only
  split
  · exact (pend_keeps p hs hf _ _ _ _ _).trans (hs d _ _)
  · exact hs d _ _

/-- The chip after Nap (R550). -/
def napOver (c : Chip) : Chip :=
  wakeSources (({ c.loadReplicas (Nat.blt · 112) with power := { c.power with state := .run } } : Chip).flag SYS_EVT_WAKE)

theorem exec_napWake {s : State} (hn : s.chip.power.state = .nap) (hl : s.chip.power.napLatch ≠ []) :
    exec .napWake s = .next (s.at (napOver s.chip)) := by
  have he : exec .napWake s = execNapWake s := rfl
  rw [he, execNapWake, State.go_eq, if_pos (by simp [hn, hl])]
  rfl

theorem napOver_results (c : Chip) : (napOver c).power.state = .run ∧ (napOver c).power.napLatch = [] ∧ (napOver c).fb SYS_EVT_WAKE = true
    ∧ (napOver c).cores = c.cores ∧ (napOver c).mem = c.mem := by
  have hpow := wakeSources_keeps Chip.power (fun _ _ _ => rfl) (fun _ => rfl)
    (({ c.loadReplicas (Nat.blt · 112) with power := { c.power with state := .run } } : Chip).flag SYS_EVT_WAKE)
  refine ⟨congrArg PowerCtl.state hpow, congrArg PowerCtl.napLatch hpow, ?_,
    wakeSources_keeps Chip.cores (fun _ _ _ => rfl) (fun _ => rfl) _, wakeSources_keeps Chip.mem (fun _ _ _ => rfl) (fun _ => rfl) _⟩
  exact (wakeSources_keeps (Chip.fb · SYS_EVT_WAKE) (fun _ _ _ => rfl) (fun c => Chip.fb_congr (Chip.reg_flag_other c (by decide))) _).trans
    ((Chip.fb_power _ _ _).trans (Chip.fb_flag_same _ _ rfl (by decide)))

/-- The chip that goes Dormant: MAIN_EN low, every dirty line written back, the registers retained (R551). -/
def dormantState (c : Chip) : Chip :=
  let c := (c.setMainEn false).writeBackAll
  { c.wipeArrays with
    cores := c.cores.filter (fun p => Nat.ble 62 p.1)
    memc := { c.memc with dlt := [], waiting := [], grant := [] }
    disp := { c.disp with sorters := [] }
    aud := { c.aud with horn := [] }
    power := { c.power with state := .dormant, pgood := false, boot := none, retained := some c.regs } }

theorem exec_dormantEntry {s : State} (hm : s.chip.mainRuns = true) (hmode : s.chip.f SYS_SLEEP_MODE = 2) (hb : napBlock s.chip = 0) :
    exec .dormantEntry s = .next (s.at (dormantState s.chip)) := by
  have he : exec .dormantEntry s = execDormantEntry s := rfl
  rw [he, execDormantEntry, State.go_eq, if_pos (by simp [hm, hmode, hb])]
  rfl

theorem dormantState_power (c : Chip) : (dormantState c).power = { c.power with
    mainEn := false
    state := .dormant
    pgood := false
    boot := none
    retained := some (c.setMainEn false).writeBackAll.regs } := by
  have h : (c.setMainEn false).writeBackAll.power = { c.power with mainEn := false } :=
    (memBlind_power.writeBackAll _).trans (setMainEn_power c false)
  simp only [dormantState, h]

/-- DRAM keeps its bytes where no line was dirty; the on-chip arrays lie above it. -/
theorem byte_dormantState {c : Chip} (h : c.memc.cache = []) {a : Nat} (ha : a < 0x800000000) : (dormantState c).byte a = c.byte a := by
  have hclean : (c.setMainEn false).writeBackAll = c.setMainEn false := writeBackAll_clean (by rw [setMainEn_memc, h])
  have hmem : (dormantState c).mem = swipe c.mem 0x1000000000 0x1D00000000 := by
    simp only [dormantState, hclean, Chip.wipeArrays, Chip.wipe, setMainEn_mem]
  rw [Chip.byte, hmem, byte_swipe, if_neg (by omega)]
  rfl

theorem exec_dormantWake {kept : Bool} {s : State} (hd : s.chip.power.state = .dormant) (hv : s.chip.power.vsb = true)
    (hw : s.chip.power.wakeLatched = true) : exec (.dormantWake kept) s = .next (s.at (dormantWake kept s.chip)) := by
  have he : exec (.dormantWake kept) s = execDormantWake kept s := rfl
  rw [he, execDormantWake, State.go_eq, if_pos (by simp [hd, hv, hw])]
  rfl

/-- The wake of Dormant before DRAM is looked at: the rails, the retained registers, Courier 0 alone released (R552). -/
def dormantOver (c : Chip) : Chip :=
  let c := (c.setMainEn true).loadReplicas (Nat.blt · 112)
  let c : Chip := { c with
    regs := (match c.power.retained with | some r => r | none => c.regs)
    power := { c.power with state := .run, pgood := true, retained := none, boot := some { bootReset with phase := 9 }, wakeLatched := false } }
  ((c.setReg SYS_RUN_LO 1).setReg SYS_RUN_HI 0).flag SYS_RSTCAUSE_DORMANT_WAKE

theorem dormantWake_eq (kept : Bool) (c : Chip) : dormantWake kept c = if kept then dormantOver c else (dormantOver c).wipeDram := rfl

theorem dormantOver_results (c : Chip) : (dormantOver c).power.state = .run ∧ (dormantOver c).power.mainEn = true
    ∧ (dormantOver c).power.pgood = true ∧ (dormantOver c).power.wakeLatched = false
    ∧ (dormantOver c).fb SYS_RSTCAUSE_DORMANT_WAKE = true ∧ (dormantOver c).reg SYS_RUN_LO = 1 ∧ (dormantOver c).reg SYS_RUN_HI = 0
    ∧ (dormantOver c).mem = c.mem := by
  have hpow : (c.setMainEn true).power.mainEn = true := by rw [setMainEn_power]
  refine ⟨rfl, hpow, rfl, rfl, Chip.fb_flag_same _ _ rfl (by decide), ?_, ?_, setMainEn_mem c true⟩
  · exact (Chip.reg_flag_other _ (by decide)).trans ((Chip.reg_setReg_other _ _ (by decide)).trans (Chip.reg_setReg_same _ _ _))
  · exact (Chip.reg_flag_other _ (by decide)).trans (Chip.reg_setReg_same _ _ _)

theorem Chip.reg_wipeDram (c : Chip) (k : Nat) : c.wipeDram.reg k = c.reg k := rfl
theorem Chip.power_wipeDram (c : Chip) : c.wipeDram.power = c.power := rfl

/-- Whether the board kept the memory supplies tells only what DRAM holds (R552, R553). -/
theorem dormantWake_results (kept : Bool) (c : Chip) :
    let d := dormantWake kept c
    d.power.state = .run ∧ d.power.mainEn = true ∧ d.power.pgood = true ∧ d.power.wakeLatched = false
    ∧ d.fb SYS_RSTCAUSE_DORMANT_WAKE = true ∧ d.reg SYS_RUN_LO = 1 ∧ d.reg SYS_RUN_HI = 0 ∧ (kept = true → d.mem = c.mem) := by
  obtain ⟨hrun, hmain, hgood, hlatch, hflag, hlo, hhi, hmem⟩ := dormantOver_results c
  rw [dormantWake_eq]
  cases kept
  · simp only [Bool.false_eq_true, if_false, false_imp_iff, and_true]
    rw [Chip.power_wipeDram, Chip.reg_wipeDram, Chip.reg_wipeDram, Chip.fb_congr (Chip.reg_wipeDram _ _)]
    exact ⟨hrun, hmain, hgood, hlatch, hflag, hlo, hhi⟩
  · exact ⟨hrun, hmain, hgood, hlatch, hflag, hlo, hhi, fun _ => hmem⟩

/-- The wake that PGOOD did not follow (R552). -/
def pgoodLate (c : Chip) : Chip :=
  let c := c.setMainEn true
  let c : Chip := { c with power := { c.power with mainEn := false, wakeLatched := false } }
  c.journal 0 9 63 4 0 0

theorem exec_pgoodTimeout {s : State} (hd : s.chip.power.state = .dormant) (hw : s.chip.power.wakeLatched = true) :
    exec .pgoodTimeout s = .next (s.at (pgoodLate s.chip)) := by
  have he : exec .pgoodTimeout s = execPgoodTimeout s := rfl
  rw [he, execPgoodTimeout, State.go_eq, if_pos (by simp [hd, hw])]
  rfl

theorem pgoodLate_power (c : Chip) : (pgoodLate c).power = { c.power with mainEn := false, wakeLatched := false } := by
  simp only [pgoodLate, Chip.journal_power, setMainEn_power]

theorem pgoodLate_mem (c : Chip) : (pgoodLate c).mem = c.mem := by
  simp only [pgoodLate, Chip.journal_mem, setMainEn_mem]

theorem pgoodLate_entry (c : Chip) : ∃ e l, (pgoodLate c).dayb.ring = e :: l ∧ e.kind = 9 ∧ e.data = 0 := by
  obtain ⟨l, hl⟩ := Chip.journal_ring (c := { c.setMainEn true with power := { (c.setMainEn true).power with mainEn := false, wakeLatched := false } })
    0 9 4 0 0 (o := 63) (Bool.and_false _)
  exact ⟨_, l, hl, rfl, rfl⟩

/-! ### The supplies -/

theorem exec_mainEnAutoRise {s : State} (hv : s.chip.power.vsb = true) (hh : s.chip.power.mainEnHeld = false) :
    exec .mainEnAutoRise s = .next (s.at (s.chip.setMainEn true)) := by
  have he : exec .mainEnAutoRise s = execMainEnAutoRise s := rfl
  rw [he, execMainEnAutoRise, State.go_eq, if_pos (by simp [hv, hh])]
  rfl

theorem Chip.core_power (c : Chip) (x : PowerCtl) (k : Nat) : ({ c with power := x } : Chip).core k = c.core k := rfl

/-- The chip without VSB (R548). -/
def vsbDown (c : Chip) : Chip :=
  let c := c.mainOff
  { c with power := { c.power with
    vsb := false
    mainEn := false
    pgood := false
    state := if c.power.vsbF then .keep else .off } }

theorem exec_vsbFall (s : State) : exec .vsbFall s = .next (s.at (vsbDown s.chip)) := rfl

theorem vsbDown_power (c : Chip) : (vsbDown c).power = { c.power.railsLost with
    vsb := false
    mainEn := false
    state := if c.power.vsbF then .keep else .off } := by
  simp only [vsbDown, mainOff_power]
  rfl

theorem core_vsbDown (c : Chip) {k : Nat} (h : k < 62) : (vsbDown c).core k = Core.reset k :=
  (Chip.core_power _ _ k).trans (core_mainOff c h)

theorem exec_pgoodFall {s : State} (hm : s.chip.power.mainEn = true) (hg : s.chip.power.pgood = true) :
    exec .pgoodFall s = .next (s.at (s.chip.mainOff.journal 0 9 63 0 0 0)) := by
  have he : exec .pgoodFall s = execPgoodFall s := rfl
  rw [he, execPgoodFall, State.go_eq, if_pos (by simp [hm, hg])]
  rfl

theorem exec_napEntry {s : State} (hm : s.chip.mainRuns = true) (hmode : s.chip.f SYS_SLEEP_MODE = 1) (hb : napBlock s.chip = 0) :
    exec .napEntry s = .next (s.at { s.chip with power := { s.chip.power with state := .nap } }) := by
  have he : exec .napEntry s = execNapEntry s := rfl
  rw [he, execNapEntry, State.go_eq, if_pos (by simp [hm, hmode, hb])]
  rfl

/-! ### Switching a power domain -/

theorem exec_sysPdCtlWrite {o : BitVec 12} {v : Word} {s : State} (h : s.chip.takesWrite o.toNat SYS_PD_CTL = true) :
    exec (.sysPdCtlWrite o v) s = .next (s.at (writePdCtl v s.chip)) := by
  have he : exec (.sysPdCtlWrite o v) s = .next (s.at (writeCmd o.toNat SYS_PD_CTL v s.chip)) := rfl
  have hw : writeReg o.toNat SYS_PD_CTL v s.chip = writePdCtl v s.chip := by
    rw [writeReg_eq v h]
    rfl
  rw [he, writeCmd_eq v (takesWrite_reads h) (by decide) (by decide), hw]

/-- A domain reads as it was set. -/
theorem domain_setDomain (c : Chip) (d : Nat) (x : Domain) : sget domain0 (c.setDomain d x).power.domain d = x := sget_sset_same _ _ _

/-- Where the condition of R556 does not hold, a write sets PD_ERR alone (R557). -/
theorem writePdCtl_refused {c : Chip} (v : Word) (hd : c.f SYS_PD_SEL_DOMAIN < 118) (hs : c.switchable (c.f SYS_PD_SEL_DOMAIN) = false) :
    writePdCtl v c = c.flag SYS_EVT_PD_ERR := by
  unfold writePdCtl
  rw [if_neg (by simpa using hd), hs]
  rfl

/-- A change whose own condition holds is made where the condition of R556 does. -/
theorem pdChange_made {c : Chip} {d : Nat} (hs : c.switchable d = true) (f : Chip → Chip) : pdChange d true f c = f c := by
  simp [pdChange, hs]

section
variable {c : Chip} {v : Word} (hd : c.f SYS_PD_SEL_DOMAIN < 118) (hs : c.switchable (c.f SYS_PD_SEL_DOMAIN) = true)
include hd hs

/-- ISO is set on a domain that is on (R557). -/
theorem writePdCtl_isolates (hp : (sget domain0 c.power.domain (c.f SYS_PD_SEL_DOMAIN)).pwr = true)
    (hi : (sget domain0 c.power.domain (c.f SYS_PD_SEL_DOMAIN)).iso = false) (h0 : v.bit 0 = true) (h1 : v.bit 1 = true) :
    writePdCtl v c = c.setDomain (c.f SYS_PD_SEL_DOMAIN) { sget domain0 c.power.domain (c.f SYS_PD_SEL_DOMAIN) with iso := true } := by
  unfold writePdCtl
  rw [if_neg (by simpa using hd), hs]
  simp [h0, h1, hi, hp, pdChange_made hs, domain_setDomain]

/-- An isolated domain is switched off (R557). -/
theorem writePdCtl_switchesOff (hp : (sget domain0 c.power.domain (c.f SYS_PD_SEL_DOMAIN)).pwr = true)
    (hi : (sget domain0 c.power.domain (c.f SYS_PD_SEL_DOMAIN)).iso = true) (h0 : v.bit 0 = false) (h1 : v.bit 1 = true) :
    writePdCtl v c = (c.loseDomain (c.f SYS_PD_SEL_DOMAIN)).setDomain (c.f SYS_PD_SEL_DOMAIN)
      { sget domain0 c.power.domain (c.f SYS_PD_SEL_DOMAIN) with pwr := false, ok := false } := by
  unfold writePdCtl
  rw [if_neg (by simpa using hd), hs]
  simp [h0, h1, hi, hp, pdChange_made hs]

/-- A domain that is ready comes out of isolation, and its islands' replicas are loaded (R19, R557). -/
theorem writePdCtl_releases (hp : (sget domain0 c.power.domain (c.f SYS_PD_SEL_DOMAIN)).pwr = true)
    (hi : (sget domain0 c.power.domain (c.f SYS_PD_SEL_DOMAIN)).iso = true)
    (hok : (sget domain0 c.power.domain (c.f SYS_PD_SEL_DOMAIN)).ok = true) (h0 : v.bit 0 = true) (h1 : v.bit 1 = false) :
    writePdCtl v c = (c.loadReplicas (· == c.f SYS_PD_SEL_DOMAIN)).setDomain (c.f SYS_PD_SEL_DOMAIN)
      { sget domain0 c.power.domain (c.f SYS_PD_SEL_DOMAIN) with iso := false } := by
  unfold writePdCtl
  rw [if_neg (by simpa using hd), hs]
  simp [h0, h1, hi, hp, hok, pdChange_made hs]
end

/-- The arrays of a domain that is switched off are lost, its registers are not (R160, R557). -/
theorem loseDomain_regs {c : Chip} (h : c.memc.cache = []) (d : Nat) : (c.loseDomain d).regs = c.regs := by
  have hwipe : (c.wipeDomain d).regs = c.regs := by
    unfold Chip.wipeDomain
    repeat' split
    all_goals rfl
  unfold Chip.loseDomain
  dsimp only
  repeat' split
  · rw [writeBackAll_clean h]
  · exact hwipe
  · exact hwipe
  · exact hwipe
  · rfl

/-! ### Fuses -/

/-- The word that a fuse command writes: its OP, its SLOT and GO. -/
def fuseWord (op slot : Nat) : Word := Word.of (2 ^ 31 + 16 * slot + op)

theorem fuseWord_bits : ∀ (op slot : Fin 4), (fuseWord (op.val + 1) slot).bits 2 0 = op.val + 1 ∧ (fuseWord (op.val + 1) slot).bits 5 4 = slot
    ∧ (fuseWord (op.val + 1) slot).bit 31 = true := by decide

theorem writeReg_fuseCmd {c : Chip} {o : Nat} (v : Word) (h : c.takesWrite o SYS_XFUSE_CMD = true) :
    writeReg o SYS_XFUSE_CMD v c = writeFuseCmd v c := by
  rw [writeReg_eq v h]
  rfl

/-- A fuse command that the block takes is the write of its word. -/
theorem fuseCmd_eq {c : Chip} {o : BitVec 12} (op slot : Nat) (h : c.takesWrite o.toNat SYS_XFUSE_CMD = true) :
    fuseCmd o op slot c = writeFuseCmd (fuseWord op slot) c := by
  unfold fuseCmd
  rw [writeCmd_eq _ (takesWrite_reads h) (by decide) (by decide), writeReg_fuseCmd _ h]
  rfl

/-- OP and SLOT as a command gives them. -/
def Chip.fuseAsked (c : Chip) (op slot : Nat) : Chip := (c.setF SYS_XFUSE_CMD_OP op).setF SYS_XFUSE_CMD_SLOT slot

theorem fb_busy_fuseAsked (c : Chip) (op slot : Nat) : (c.fuseAsked op slot).fb SYS_XFUSE_CMD_BUSY = c.fb SYS_XFUSE_CMD_BUSY :=
  (Chip.fb_setF_other _ _ _ _ (by decide) (by decide) (by decide)).trans (Chip.fb_setF_other _ _ _ _ (by decide) (by decide) (by decide))

theorem fuseRefusal_fuseAsked (c : Chip) (op slot x y : Nat) : fuseRefusal x y (c.fuseAsked op slot) = fuseRefusal x y c := by
  have hlock : (c.fuseAsked op slot).fb SYS_BOOT_FUSE_LOCK = c.fb SYS_BOOT_FUSE_LOCK :=
    Chip.fb_congr ((Chip.reg_setF_other _ _ (by decide)).trans (Chip.reg_setF_other _ _ (by decide)))
  unfold fuseRefusal
  rw [hlock]
  rfl

/-- An operation that may start: BUSY, and the data taken at GO (R567). -/
def fuseStart (op slot : Nat) (c : Chip) : Chip :=
  let c := (c.setF SYS_XFUSE_CMD_BUSY 1).setF SYS_XFUSE_CMD_RESULT 0
  { c with power := { c.power with fuseOp := some (op, slot, fuseData c) } }

/-- While none is in progress, a fuse command starts its operation or is refused with a RESULT (R567). -/
theorem writeFuseCmd_idle {c : Chip} (op slot : Fin 4) (hb : c.fb SYS_XFUSE_CMD_BUSY = false) :
    writeFuseCmd (fuseWord (op.val + 1) slot) c =
      if fuseRefusal (op.val + 1) slot c = 0 then fuseStart (op.val + 1) slot (c.fuseAsked (op.val + 1) slot)
      else (c.fuseAsked (op.val + 1) slot).setF SYS_XFUSE_CMD_RESULT (fuseRefusal (op.val + 1) slot c) := by
  obtain ⟨hop, hslot, hgo⟩ := fuseWord_bits op slot
  have hbusy := fb_busy_fuseAsked c (op.val + 1) slot
  rw [hb] at hbusy
  have href := fuseRefusal_fuseAsked c (op.val + 1) slot (op.val + 1) slot
  unfold writeFuseCmd
  rw [hop, hslot, hgo]
  unfold Chip.fuseAsked at hbusy href
  simp only [hbusy, href, Bool.not_true, Bool.or_false, Bool.false_eq_true, if_false]
  unfold Chip.fuseAsked
  split
  next h0 => rw [if_pos h0]; rfl
  next hr => rw [if_neg hr]

/-- The RESULT of a refusal is one of those that R567 lists. -/
theorem fuseRefusal_lt (op slot : Nat) (c : Chip) : fuseRefusal op slot c < 8 := by
  unfold fuseRefusal
  dsimp only
  repeat' split
  all_goals decide

/-- The start of an operation changes no register but SYS_XFUSE_CMD's BUSY and RESULT. -/
theorem fuseStart_f (op slot : Nat) (c : Chip) (x : Fld) :
    (fuseStart op slot c).f x = ((c.setF SYS_XFUSE_CMD_BUSY 1).setF SYS_XFUSE_CMD_RESULT 0).f x := rfl

theorem fuseStart_fuseOp (op slot : Nat) (c : Chip) : ∃ l, (fuseStart op slot c).power.fuseOp = some (op, slot, l) := ⟨_, rfl⟩

@[simp] theorem fuseStart_fuses (op slot : Nat) (c : Chip) : (fuseStart op slot c).power.fuses = c.power.fuses := by
  simp only [fuseStart, Chip.setF_power]

@[simp] theorem fuseStart_mem (op slot : Nat) (c : Chip) : (fuseStart op slot c).mem = c.mem := by
  simp only [fuseStart, Chip.setF_mem]

@[simp] theorem Chip.fuseAsked_power (c : Chip) (op slot : Nat) : (c.fuseAsked op slot).power = c.power := by
  simp only [Chip.fuseAsked, Chip.setF_power]

@[simp] theorem Chip.fuseAsked_mem (c : Chip) (op slot : Nat) : (c.fuseAsked op slot).mem = c.mem := by
  simp only [Chip.fuseAsked, Chip.setF_mem]

theorem fuseStart_busy (op slot : Nat) (c : Chip) : (fuseStart op slot c).fb SYS_XFUSE_CMD_BUSY = true := by
  unfold Chip.fb
  rw [fuseStart_f, Chip.f_setF_other _ _ _ _ (by decide) (by decide) (by decide), Chip.f_setF_same _ _ _ (by decide) (by decide)]
  rfl

/-- OP and SLOT stand as the command gave them. -/
theorem fuseStart_asked (op slot : Fin 4) (c : Chip) :
    (fuseStart (op.val + 1) slot (c.fuseAsked (op.val + 1) slot)).f SYS_XFUSE_CMD_OP = op.val + 1
    ∧ (fuseStart (op.val + 1) slot (c.fuseAsked (op.val + 1) slot)).f SYS_XFUSE_CMD_SLOT = slot := by
  have hop := op.isLt
  have hslot := slot.isLt
  constructor
  · rw [fuseStart_f, Chip.f_setF_other _ _ _ _ (by decide) (by decide) (by decide), Chip.f_setF_other _ _ _ _ (by decide) (by decide) (by decide),
      Chip.fuseAsked, Chip.f_setF_other _ _ _ _ (by decide) (by decide) (by decide), Chip.f_setF_same _ _ _ (by decide) (by decide)]
    exact Nat.mod_eq_of_lt (by simp only [SYS_XFUSE_CMD_OP]; omega)
  · rw [fuseStart_f, Chip.f_setF_other _ _ _ _ (by decide) (by decide) (by decide), Chip.f_setF_other _ _ _ _ (by decide) (by decide) (by decide),
      Chip.fuseAsked, Chip.f_setF_same _ _ _ (by decide) (by decide)]
    exact Nat.mod_eq_of_lt (by simp only [SYS_XFUSE_CMD_SLOT]; omega)

/-- A command that asks for operation `op` at `slot`, while none is in progress: started, or refused with its RESULT (R567). -/
theorem fuse_command {o : BitVec 12} {op slot : Fin 4} {s : State} {cmd : Instr}
    (he : exec cmd s = .next (s.at (fuseCmd o (op.val + 1) slot s.chip))) (ht : s.chip.takesWrite o.toNat SYS_XFUSE_CMD = true)
    (hb : s.chip.fb SYS_XFUSE_CMD_BUSY = false) :
    (fuseRefusal (op.val + 1) slot s.chip = 0 → Answers cmd s fun d => d.fb SYS_XFUSE_CMD_BUSY = true ∧ d.f SYS_XFUSE_CMD_OP = op.val + 1
      ∧ d.f SYS_XFUSE_CMD_SLOT = slot ∧ (∃ l, d.power.fuseOp = some (op.val + 1, slot.val, l)) ∧ d.power.fuses = s.chip.power.fuses
      ∧ d.mem = s.chip.mem)
    ∧ (fuseRefusal (op.val + 1) slot s.chip ≠ 0 → Answers cmd s fun d =>
      d.f SYS_XFUSE_CMD_RESULT = fuseRefusal (op.val + 1) slot s.chip ∧ d.fb SYS_XFUSE_CMD_BUSY = false ∧ d.power = s.chip.power
      ∧ d.mem = s.chip.mem) := by
  rw [fuseCmd_eq _ _ ht, writeFuseCmd_idle op slot hb] at he
  refine ⟨fun h0 => ?start, fun hr => ?refuse⟩
  case start =>
    rw [if_pos h0] at he
    obtain ⟨hop, hslot⟩ := fuseStart_asked op slot s.chip
    exact .of_next he ⟨fuseStart_busy _ _ _, hop, hslot, fuseStart_fuseOp _ _ _, by simp, by simp⟩
  case refuse =>
    rw [if_neg hr] at he
    refine .of_next he ⟨?_, ?_, by simp, by simp⟩
    · exact (Chip.f_setF_same _ _ _ (by decide) (by decide)).trans (Nat.mod_eq_of_lt (fuseRefusal_lt _ _ _))
    · rw [Chip.fb_setF_other _ _ _ _ (by decide) (by decide) (by decide), fb_busy_fuseAsked, hb]

/-- No operation may start once FUSE_LOCK is set (R567). -/
theorem fuseRefusal_locked {c : Chip} (h : c.fb SYS_BOOT_FUSE_LOCK = true) (op slot : Nat) : fuseRefusal op slot c = 1 := by
  unfold fuseRefusal
  rw [h]
  rfl

/-- The operations' own conditions (R567). -/
theorem fuseRefusal_unlocked {c : Chip} (h : c.fb SYS_BOOT_FUSE_LOCK = false) (n : Fin 4) :
    let t := sget keySlot0 c.power.fuses.title n
    (t.programmed = false → t.revoked = false → fuseRefusal 1 n c = 0)
    ∧ (t.programmed = true → fuseRefusal 1 n c = 2)
    ∧ (2 ≤ n.val → fuseRefusal 2 n c = 5)
    ∧ (t.revoked = false → (∀ m : Fin 4, m ≠ n → (sget keySlot0 c.power.fuses.title m).programmed = false) → fuseRefusal 3 n c = 3)
    ∧ (64 ≤ c.power.fuses.rollback → fuseRefusal 4 0 c = 4) := by
  refine ⟨fun hp hr => ?_, fun hp => ?_, fun hn => ?_, fun hr hothers => ?last, fun hfull => ?_⟩
  case last =>
    have hnone : ((List.range 4).any fun i => i != n && (sget keySlot0 c.power.fuses.title i).programmed
        && !(sget keySlot0 c.power.fuses.title i).revoked) = false := by
      rw [List.any_eq_false]
      intro i hi
      by_cases hin : i = n.val
      · simp [hin]
      · have := hothers ⟨i, List.mem_range.mp hi⟩ (fun e => hin (congrArg Fin.val e))
        simp [this]
    simp only [fuseRefusal, h, hr, hnone, Bool.false_eq_true, if_false]
  all_goals simp_all [fuseRefusal]

/-- The chip after the end of a fuse operation (R567). -/
def fuseEnd (op slot : Nat) (l : List Byte) (c : Chip) : Chip :=
  let c := { c with power := { c.power with fuseOp := none, fuses := c.power.fuses.burn op slot l } }
  ((c.setF SYS_XFUSE_CMD_BUSY 0).setF SYS_XFUSE_CMD_RESULT 0).setRegBit SYS_XFUSE_CMD 31 false

theorem exec_fuseOpDone {s : State} {op slot : Nat} {l : List Byte} (h : s.chip.power.fuseOp = some (op, slot, l)) :
    exec .fuseOpDone s = .next (s.at (fuseEnd op slot l s.chip)) := by
  have he : exec .fuseOpDone s = execFuseOpDone s := rfl
  rw [he, execFuseOpDone, State.go_eq]
  simp only [h]
  rfl

/-- Clearing GO leaves a field below it. -/
theorem fuseEnd_f (op slot : Nat) (l : List Byte) (c : Chip) {x : Fld} (hx : x.msb < 31) :
    (fuseEnd op slot l c).f x = ((c.setF SYS_XFUSE_CMD_BUSY 0).setF SYS_XFUSE_CMD_RESULT 0).f x :=
  Chip.f_setF_other _ ⟨SYS_XFUSE_CMD, 31, 31⟩ x _ (by decide) (by decide) (.inr (.inl hx))

/-- The end of an operation: BUSY clears, RESULT is 0 (R567). -/
theorem fuseEnd_result (op slot : Nat) (l : List Byte) (c : Chip) :
    (fuseEnd op slot l c).fb SYS_XFUSE_CMD_BUSY = false ∧ (fuseEnd op slot l c).f SYS_XFUSE_CMD_RESULT = 0 := by
  unfold Chip.fb
  rw [fuseEnd_f _ _ _ _ (by decide), fuseEnd_f _ _ _ _ (by decide), Chip.f_setF_same _ _ _ (by decide) (by decide),
    Chip.f_setF_other _ _ _ _ (by decide) (by decide) (by decide), Chip.f_setF_same _ _ _ (by decide) (by decide)]
  exact ⟨rfl, rfl⟩

@[simp] theorem fuseEnd_mem (op slot : Nat) (l : List Byte) (c : Chip) : (fuseEnd op slot l c).mem = c.mem := by
  simp only [fuseEnd, Chip.setRegBit_mem, Chip.setF_mem]

theorem Fuses.burn_title (f : Fuses) (slot : Nat) (l : List Byte) :
    f.burn 1 slot l = { f with title := smod keySlot0 f.title slot fun t => { t with digest := l, programmed := true } } := rfl

/-- The fuses are burnt, and the operation is over. -/
theorem fuseEnd_power (op slot : Nat) (l : List Byte) (c : Chip) :
    (fuseEnd op slot l c).power = { c.power with fuseOp := none, fuses := c.power.fuses.burn op slot l } := by
  simp only [fuseEnd, Chip.setRegBit_power, Chip.setF_power]


/-! ### The boot ROM's steps -/

/-- A Courier that is not released does not jump. -/
theorem romJump_held {c : Chip} {k : Nat} (h : c.regBit SYS_RUN_LO k = false) : romJump k c = c := by
  simp [romJump, h]

/-- While Couriers 1 to 7 are held, an idle step is the next step of the ROM. -/
theorem bootTick_eq_bootPhase {c : Chip} {b : Boot} (hb : c.power.boot = some b) (hm : c.mainRuns = true)
    (hheld : ∀ j, 1 ≤ j → j < 8 → c.regBit SYS_RUN_LO j = false) (hw : c.romWaits b = false) : bootTick c = bootPhase b c := by
  have hjump : forAll [1, 2, 3, 4, 5, 6, 7] romJump c = c := by
    simp only [forAll, List.foldl_cons, List.foldl_nil]
    simp only [romJump_held, hheld, Nat.le_refl, Nat.reduceLeDiff, Nat.reduceLT]
  simp only [bootTick, hm, hjump, hb, hw, Bool.not_true, Bool.false_eq_true, if_false]

/-- What the end of a boot with a RESULT leaves (R570). -/
def BootEnded (result : Nat) (c d : Chip) : Prop :=
  d.f SYS_BOOT_RESULT = result ∧ d.fb (WDT_CTL_EN 0) = false ∧ (d.core 0).waiting = true
    ∧ d.power.boot = none ∧ d.mem = c.mem ∧ (∀ k, 0 < k → d.core k = c.core k)
    ∧ (c.dayb.frozen = false → ∃ e l, d.dayb.ring = e :: l ∧ e.cls = 0 ∧ e.kind = 8 ∧ e.origin = 251)

theorem Chip.core_journal (c : Chip) (cls kind o fl item data k : Nat) : (c.journal cls kind o fl item data).core k = c.core k :=
  c.journal_keeps (Chip.core · k) (fun _ _ => rfl) (fun _ => rfl) cls kind o fl item data

theorem bootFail_ended {result : Nat} (h : result < 8) (c : Chip) : BootEnded result c (bootFail result c) := by
  refine ⟨?result, ?watchdog, ?waits, rfl, Chip.journal_mem _ _ _ _ _ _ _, fun k hk => ?others, fun hf => ?entry⟩
  case result =>
    calc (bootFail result c).f SYS_BOOT_RESULT
        = ((c.setF SYS_BOOT_RESULT result).journal 0 8 251 0 0 ((c.setF SYS_BOOT_RESULT result).reg SYS_BOOT).toNat).f SYS_BOOT_RESULT :=
          Chip.f_congr (Chip.reg_setF_other _ _ (by decide))
      _ = result % 2 ^ 3 := (Chip.f_congr (Chip.reg_journal _ _ _ _ _ _ _ (by decide))).trans (Chip.f_setF_same _ _ _ (by decide) (by decide))
      _ = result := Nat.mod_eq_of_lt h
  case watchdog => exact Chip.fb_setF_same _ (WDT_CTL_EN 0) 0 (by decide) (by decide)
  case waits => exact congrArg Core.waiting (Chip.core_setCore_same _ 0 _)
  case others =>
    exact (Chip.core_setCore_other _ _ (by omega)).trans (Chip.core_journal (c.setF SYS_BOOT_RESULT result) _ _ _ _ _ _ k)
  case entry =>
    obtain ⟨l, hl⟩ := Chip.journal_ring (c := c.setF SYS_BOOT_RESULT result) 0 8 0 0 _ (o := 251) (by rw [Chip.setF_dayb, hf]; rfl)
    exact ⟨_, l, hl, rfl, rfl, rfl⟩

/-- The slot that step 3 tries. -/
def Chip.triedSlot (c : Chip) (b : Boot) : Nat := if b.second then b.slot else c.firstSlot

/-- A slot whose manifest does not pass fails (R566, R570). -/
theorem bootManifest_bad {c : Chip} {b : Boot} (hmute : c.flashMute = false) (hhead : c.headerOk = true)
    (hbad : manifestSlot c.power.fuses (c.manifest (c.triedSlot b))
      ((segmentIds (c.manifest (c.triedSlot b))).all fun i => c.segmentFits (c.triedSlot b) (c.manifest (c.triedSlot b)) i) = none) :
    bootManifest b c = slotFails { b with slot := c.triedSlot b } c := by
  unfold bootManifest
  rw [hmute, hhead]
  simp only [Chip.triedSlot] at hbad
  simp only [hbad, Chip.triedSlot, Bool.not_true, Bool.false_eq_true, if_false]

/-- A slot that fails at step 3 before the ROM wrote a register leaves the chip as it was: the other slot is next, or none (R570). -/
theorem slotFails_unwritten {b : Boot} (hp : b.phase = 3) (hw : b.written = []) (c : Chip) :
    slotFails b c = if b.second then bootFail 2 (c.setBoot (some { b with slot := 1 - b.slot, second := true, entries := [] }))
      else c.setBoot (some { b with slot := 1 - b.slot, second := true, entries := [] }) := by
  obtain ⟨phase, fill, slot, second, key, entries, written⟩ := b
  subst hp hw
  rfl

/-- An entry of the profile that may not be applied is skipped (R561). -/
theorem bootEntry_skips {b : Boot} {k : Nat} {v : Word} {t : List (Nat × Word)} (h : b.entries = (k, v) :: t) (hk : bootSkips k = true)
    (c : Chip) : bootEntry b c = (c.setBoot (some { b with entries := t })).flag SYS_EVT_PROFILE_ERR := by
  simp only [bootEntry, h, hk, if_true]

/-- Courier 0 at the entry of the image: supervisor mode, no translation (R569 step 8). -/
theorem core_enterImage (k : Nat) (pc : Word) (c : Chip) :
    (enterImage k pc c).core k = { c.core k with
      pc := pc, ubase := 0, useUbase := 0, useRT := false, status := ((c.core k).status.setBit 2 false).setBit 0 true } :=
  Chip.core_setCore_same _ _ _


theorem bootPhase_manifest {b : Boot} (h : b.phase = 3) (c : Chip) : bootPhase b c = bootManifest b c := by
  simp only [bootPhase, h]
theorem bootPhase_entry {b : Boot} (h : b.phase = 4) (c : Chip) : bootPhase b c = bootEntry b c := by
  simp only [bootPhase, h]
theorem bootPhase_fill {b : Boot} (h : b.phase = 5) (c : Chip) : bootPhase b c = bootFill b c := by
  simp only [bootPhase, h]
theorem bootPhase_enter {b : Boot} (h : b.phase = 8) (c : Chip) :
    bootPhase b c = (enterImage 0 (Word.of (frameNum (c.manifest b.slot) 12 4)) c).setBoot none := by
  simp only [bootPhase, h]

theorem bootManifest_mute {b : Boot} {c : Chip} (h : c.flashMute = true) : bootManifest b c = bootFail 5 c := by
  simp only [bootManifest, h, if_true]

theorem bootManifest_headless {b : Boot} {c : Chip} (hmute : c.flashMute = false) (h : c.headerOk = false) :
    bootManifest b c = bootFail 2 c := by
  simp only [bootManifest, hmute, h, Bool.false_eq_true, if_false, Bool.not_false, if_true]

/-- DRAM that is enabled and did not train ends the boot (R570). -/
theorem bootFill_untrained {b : Boot} {c : Chip} (he : c.fb DRAMC_CONFIG_ENABLE = true) (ht : c.dramTop = 0) :
    bootFill b c = bootFail 4 (c.setBoot (some { b with phase := 6 })) :=
  if_pos (by simpa using ⟨he, ht⟩)

/-- Settles O47: the domains by what a write of SYS_PD_CTL makes of each state, the supplies by what the loss of the rails keeps, the fuses by
the start and the end of an operation, the boot by the ROM's next step. -/
theorem powerAndFuses : Obligations.PowerAndFuses := by
  unfold Obligations.PowerAndFuses
  refine ⟨fun o v d0 kept s => ?power, fun o n op s => ?fuses, fun c b hb hm hheld hw => ?boot⟩
  case power =>
    refine ⟨fun ht hd => ?domains, fun hp => ?ramp, ?rise, ?fall, fun hv hh => ?mainEn, fun hm hg => ?pgood, fun hm hmode hb => ?nap,
      fun hn hl => ?napWake, fun hm hmode hb => ?dormant, fun hd hv hw => ?wake⟩
    case domains =>
      refine ⟨fun hs hp hi h0 h1 => ?isolates, fun hs hp hi h0 h1 => ?off, fun hs hp hi hok h0 h1 => ?releases, fun hs => ?refused⟩
      case isolates =>
        refine .of_next (exec_sysPdCtlWrite ht) ?_
        rw [writePdCtl_isolates hd hs hp hi h0 h1]
        exact ⟨domain_setDomain _ _ _, rfl, rfl⟩
      case off =>
        refine .of_next (exec_sysPdCtlWrite ht) ?_
        rw [writePdCtl_switchesOff hd hs hp hi h0 h1]
        exact ⟨domain_setDomain _ _ _, fun hc => loseDomain_regs hc _⟩
      case releases =>
        refine .of_next (exec_sysPdCtlWrite ht) ?_
        rw [writePdCtl_releases hd hs hp hi hok h0 h1]
        exact ⟨domain_setDomain _ _ _, rfl, rfl, fun i hisl hle => replica_loadReplicas (c := s.chip) (sel := (· == s.chip.f SYS_PD_SEL_DOMAIN)) (beq_iff_eq.mpr hisl) hle⟩
      case refused =>
        refine .of_next (exec_sysPdCtlWrite ht) ?_
        rw [writePdCtl_refused v hd hs]
        exact ⟨Chip.fb_flag_same _ _ rfl (by decide), rfl, fun j hj => Chip.reg_flag_other _ hj, rfl⟩
    case ramp =>
      have he : exec (.pdRampDone d0) s = .next (s.at (if (sget domain0 s.chip.power.domain d0).pwr
          then s.chip.setDomain d0 { sget domain0 s.chip.power.domain d0 with ok := true } else s.chip)) := rfl
      rw [if_pos hp] at he
      exact .of_next he ⟨domain_setDomain _ _ _, rfl, rfl⟩
    case rise =>
      obtain ⟨hcount, hvsb, hmain, hepoch, hcls, hbit⟩ := pReset_aon s.chip
      have hcause := mainOff_rstcause (pReset s.chip)
      refine .of_next (exec_vsbRise s) ⟨(mainOff_count _).trans hcount, ?_, ?_, ?_, (Chip.f_congr hcause).trans hcls,
        (congrArg (Word.bit · 8) hcause).trans hbit, ?_, mainOff_session _⟩
      · rw [mainOff_power]; exact hvsb
      · rw [mainOff_power]; exact hmain
      · rw [mainOff_power]; rfl
      · rw [mainOff_epoch]; exact hepoch
    case fall =>
      refine .of_next (exec_vsbFall s) ?_
      rw [vsbDown_power]
      exact ⟨rfl, rfl, rfl, rfl, fun k hk => core_vsbDown s.chip hk⟩
    case mainEn =>
      refine .of_next (exec_mainEnAutoRise hv hh) ⟨?_, setMainEn_mem _ _, fun hlow _ => setMainEn_entry (by rw [hlow]; decide)⟩
      rw [setMainEn_power]
    case pgood =>
      refine .of_next (exec_pgoodFall hm hg) ?_
      rw [Chip.journal_power, mainOff_power]
      exact ⟨rfl, rfl, rfl, fun k hk => (Chip.core_journal _ _ _ _ _ _ _ k).trans (core_mainOff _ hk)⟩
    case nap => exact .of_next (exec_napEntry hm hmode hb) ⟨rfl, rfl, rfl, rfl⟩
    case napWake =>
      obtain ⟨hrun, hlatch, hwake, hcores, hmem⟩ := napOver_results s.chip
      exact .of_next (exec_napWake hn hl) ⟨hrun, hlatch, hwake, hcores, hmem⟩
    case dormant =>
      refine .of_next (exec_dormantEntry hm hmode hb) ?_
      rw [dormantState_power]
      exact ⟨rfl, rfl, rfl, rfl, fun k hk => sget_filter_above _ hk, fun hc a ha => byte_dormantState hc ha⟩
    case wake =>
      refine ⟨.of_next (exec_dormantWake hd hv hw) (dormantWake_results kept s.chip), .of_next (exec_pgoodTimeout hd hw) ?_⟩
      rw [pgoodLate_power]
      exact ⟨hd, rfl, rfl, pgoodLate_mem _, fun _ => pgoodLate_entry _⟩
  case fuses =>
    refine ⟨fun ht hb => ?command, fun hl => fuseRefusal_locked hl _ _, fun hl => fuseRefusal_unlocked hl n, fun slot l hop => ?title,
      fun slot l hop => ?rollback⟩
    case command =>
      match op with
      | 0 | 1 | 2 => exact fuse_command (slot := n) rfl ht hb
      | 3 => exact fuse_command (op := 3) (slot := 0) rfl ht hb
    case title =>
      obtain ⟨hbusy, hres⟩ := fuseEnd_result 1 slot l s.chip
      refine .of_next (exec_fuseOpDone hop) ⟨hbusy, hres, ?_⟩
      simp only [fuseEnd_power, fuseEnd_mem, Fuses.burn_title, sget_smod_same, true_and, and_true]
      exact fun j hj => sget_smod_other _ _ hj
    case rollback =>
      refine .of_next (exec_fuseOpDone hop) ?_
      rw [fuseEnd_power, fuseEnd_mem]
      exact ⟨rfl, rfl, rfl⟩
  case boot =>
    rw [bootTick_eq_bootPhase hb hm hheld hw]
    refine ⟨fun hp hmute => ?mute, fun hp hmute hhead => ?headless, fun hp hmute hhead hnone hbad => ?bad, fun k v t hp hent hskip => ?skips, fun hp hent => ?applied,
      fun hp he ht => ?untrained, fun hp => ?enters⟩
    case mute =>
      rw [bootPhase_manifest hp, bootManifest_mute hmute]
      exact bootFail_ended (by decide) c
    case headless =>
      rw [bootPhase_manifest hp, bootManifest_headless hmute hhead]
      exact bootFail_ended (by decide) c
    case bad =>
      rw [bootPhase_manifest hp, bootManifest_bad hmute hhead hbad, slotFails_unwritten (b := { b with slot := c.triedSlot b }) hp hnone]
      refine ⟨fun hsec => ?_, fun hsec => ?_⟩
      · rw [if_pos hsec]
        exact bootFail_ended (by decide) (c.setBoot _)
      · rw [if_neg (by simp [hsec])]
        exact ⟨rfl, rfl, rfl, rfl⟩
    case skips =>
      rw [bootPhase_entry hp, bootEntry_skips hent hskip]
      exact ⟨Chip.fb_flag_same _ _ rfl (by decide), rfl, rfl, rfl, fun j hj => Chip.reg_flag_other _ hj⟩
    case applied =>
      rw [bootPhase_entry hp, bootEntry, hent]
    case untrained =>
      rw [bootPhase_fill hp, bootFill_untrained he ht]
      exact bootFail_ended (by decide) (c.setBoot _)
    case enters =>
      rw [bootPhase_enter hp]
      rw [show ∀ d : Chip, (d.setBoot none).core 0 = d.core 0 from fun _ => rfl, core_enterImage]
      exact ⟨rfl, rfl, rfl, rfl, Word.bit_setBit_same _ _ (by decide),
        (Word.bit_setBit_other _ _ (by decide) (by decide)).trans (Word.bit_setBit_same _ _ (by decide)), rfl, rfl, rfl,
        fun k hk => Chip.core_setCore_other _ _ (by omega)⟩

end Sys2Proof.Machine
end

section
/-! THE WAITING REQUESTS ARE INVISIBLE TO A SERVED BEAT (R190).  Nothing that the beat of a request can do reads the queues of the
arbiters: `Chip.requeue` replaces their table, and every function that a load or a store reaches commutes with it.  One equation per
function, in the order of the definitions; each follows from those of the functions that it calls.  An equation that holds by
computation is proved by `(rfl)`: `simp` then cites it, and the kernel need not compute it again in every use. -/
namespace Sys2Proof.Machine

/-- A change of the table of waiting requests that leaves the empty table, which a reset writes, as it is. -/
structure Requeue where
  map : Sparse (List BusReq) → Sparse (List BusReq)
  map_nil : map [] = []

def MemCtl.requeue (m : MemCtl) (h : Requeue) : MemCtl := { m with waiting := h.map m.waiting }

/-- The chip with its table of waiting requests changed by `h`. -/
def Chip.requeue (c : Chip) (h : Requeue) : Chip := { c with memc := c.memc.requeue h }

def Load.requeue (l : Load) (h : Requeue) : Load := { l with chip := l.chip.requeue h }

variable (h : Requeue) (c : Chip)

theorem Chip.requeue_of_waiting_nil {c : Chip} (hw : c.memc.waiting = []) : c.requeue h = c := by
  simp only [Chip.requeue, MemCtl.requeue, hw, h.map_nil]
  rw [← hw]

/-! ### Records, branches and pairs -/

@[simp] theorem Chip.regs_requeue : (c.requeue h).regs = c.regs := (rfl)
@[simp] theorem Chip.count_requeue : (c.requeue h).count = c.count := (rfl)
@[simp] theorem Chip.refclk_requeue : (c.requeue h).refclk = c.refclk := (rfl)
@[simp] theorem Chip.nowHi_requeue : (c.requeue h).nowHi = c.nowHi := (rfl)
@[simp] theorem Chip.replicas_requeue : (c.requeue h).replicas = c.replicas := (rfl)
@[simp] theorem Chip.mem_requeue : (c.requeue h).mem = c.mem := (rfl)
@[simp] theorem Chip.poison_requeue : (c.requeue h).poison = c.poison := (rfl)
@[simp] theorem Chip.flips_requeue : (c.requeue h).flips = c.flips := (rfl)
@[simp] theorem Chip.cores_requeue : (c.requeue h).cores = c.cores := (rfl)
@[simp] theorem Chip.power_requeue : (c.requeue h).power = c.power := (rfl)
@[simp] theorem Chip.dayb_requeue : (c.requeue h).dayb = c.dayb := (rfl)
@[simp] theorem Chip.pm_requeue : (c.requeue h).pm = c.pm := (rfl)
@[simp] theorem Chip.hosts_requeue : (c.requeue h).hosts = c.hosts := (rfl)
@[simp] theorem Chip.dbgPort_requeue : (c.requeue h).dbgPort = c.dbgPort := (rfl)
@[simp] theorem Chip.zow_requeue : (c.requeue h).zow = c.zow := (rfl)
@[simp] theorem Chip.answer_requeue : (c.requeue h).answer = c.answer := (rfl)
@[simp] theorem Chip.icu_requeue : (c.requeue h).icu = c.icu := (rfl)
@[simp] theorem Chip.tmr_requeue : (c.requeue h).tmr = c.tmr := (rfl)
@[simp] theorem Chip.wdt_requeue : (c.requeue h).wdt = c.wdt := (rfl)
@[simp] theorem Chip.pins_requeue : (c.requeue h).pins = c.pins := (rfl)
@[simp] theorem Chip.disp_requeue : (c.requeue h).disp = c.disp := (rfl)
@[simp] theorem Chip.fu_requeue : (c.requeue h).fu = c.fu := (rfl)
@[simp] theorem Chip.press_requeue : (c.requeue h).press = c.press := (rfl)
@[simp] theorem Chip.dma_requeue : (c.requeue h).dma = c.dma := (rfl)
@[simp] theorem Chip.aud_requeue : (c.requeue h).aud = c.aud := (rfl)
@[simp] theorem Chip.free_requeue : (c.requeue h).free = c.free := (rfl)
@[simp] theorem Chip.memc_requeue : (c.requeue h).memc = c.memc.requeue h := (rfl)

@[simp] theorem Chip.mk_requeue (count refclk nowHi replicas mem poison flips memc regs cores power dayb pm hosts dbgPort zow answer icu
    tmr wdt pins disp fu press dma aud free) :
    Chip.mk count refclk nowHi replicas mem poison flips (memc.requeue h) regs cores power dayb pm hosts dbgPort zow answer icu tmr wdt
      pins disp fu press dma aud free =
    (Chip.mk count refclk nowHi replicas mem poison flips memc regs cores power dayb pm hosts dbgPort zow answer icu tmr wdt
      pins disp fu press dma aud free).requeue h := (rfl)

@[simp] theorem MemCtl.mk_requeue (m : MemCtl) (dlt grant scrubPos dscrubPos valid filled hard cache cand retired training failedCh
    openRow) :
    MemCtl.mk dlt (m.requeue h).waiting grant scrubPos dscrubPos valid filled hard cache cand retired training failedCh openRow =
    (MemCtl.mk dlt m.waiting grant scrubPos dscrubPos valid filled hard cache cand retired training failedCh openRow).requeue h := (rfl)

@[simp] theorem MemCtl.dlt_requeue (m : MemCtl) : (m.requeue h).dlt = m.dlt := (rfl)
@[simp] theorem MemCtl.grant_requeue (m : MemCtl) : (m.requeue h).grant = m.grant := (rfl)
@[simp] theorem MemCtl.scrubPos_requeue (m : MemCtl) : (m.requeue h).scrubPos = m.scrubPos := (rfl)
@[simp] theorem MemCtl.dscrubPos_requeue (m : MemCtl) : (m.requeue h).dscrubPos = m.dscrubPos := (rfl)
@[simp] theorem MemCtl.valid_requeue (m : MemCtl) : (m.requeue h).valid = m.valid := (rfl)
@[simp] theorem MemCtl.filled_requeue (m : MemCtl) : (m.requeue h).filled = m.filled := (rfl)
@[simp] theorem MemCtl.hard_requeue (m : MemCtl) : (m.requeue h).hard = m.hard := (rfl)
@[simp] theorem MemCtl.cache_requeue (m : MemCtl) : (m.requeue h).cache = m.cache := (rfl)
@[simp] theorem MemCtl.cand_requeue (m : MemCtl) : (m.requeue h).cand = m.cand := (rfl)
@[simp] theorem MemCtl.retired_requeue (m : MemCtl) : (m.requeue h).retired = m.retired := (rfl)
@[simp] theorem MemCtl.training_requeue (m : MemCtl) : (m.requeue h).training = m.training := (rfl)
@[simp] theorem MemCtl.failedCh_requeue (m : MemCtl) : (m.requeue h).failedCh = m.failedCh := (rfl)
@[simp] theorem MemCtl.openRow_requeue (m : MemCtl) : (m.requeue h).openRow = m.openRow := (rfl)
@[simp] theorem Load.err_requeue (l : Load) : (l.requeue h).err = l.err := (rfl)
@[simp] theorem Load.chip_requeue (l : Load) : (l.requeue h).chip = l.chip.requeue h := (rfl)
@[simp] theorem Load.mk_requeue (v : Nat) (p e : Bool) : Load.mk v p e (c.requeue h) = (Load.mk v p e c).requeue h := (rfl)

@[simp] theorem ite_requeue (p : Prop) [Decidable p] (a b : Chip) :
    (if p then a.requeue h else b.requeue h) = (if p then a else b).requeue h := (apply_ite (Chip.requeue · h) p a b).symm

theorem ite_pair_requeue {α : Type} {p : Prop} [Decidable p] {a b x y : α × Chip} (ht : a = (x.1, x.2.requeue h))
    (he : b = (y.1, y.2.requeue h)) :
    (if p then a else b) = ((if p then x else y).1, (if p then x else y).2.requeue h) := by split <;> assumption

theorem foldl_requeue {α β : Type} (f : α × Chip → β → α × Chip) (l : List β) (a : α) (c : Chip)
    (hf : ∀ a c i, f (a, c.requeue h) i = ((f (a, c) i).1, (f (a, c) i).2.requeue h)) :
    l.foldl f (a, c.requeue h) = ((l.foldl f (a, c)).1, (l.foldl f (a, c)).2.requeue h) := by
  induction l generalizing a c with
  | nil => rfl
  | cons i l ih => simp only [List.foldl_cons, hf, ih]

/-! ### What the functions below read of the chip -/

@[simp] theorem Chip.reg_requeue (k : Nat) : (c.requeue h).reg k = c.reg k := (rfl)
@[simp] theorem Chip.f_requeue (x : Fld) : (c.requeue h).f x = c.f x := (rfl)
@[simp] theorem Chip.fb_requeue (x : Fld) : (c.requeue h).fb x = c.fb x := (rfl)
@[simp] theorem Chip.regBit_requeue (k n : Nat) : (c.requeue h).regBit k n = c.regBit k n := (rfl)
@[simp] theorem Chip.expert_requeue (b : Nat) : (c.requeue h).expert b = c.expert b := (rfl)
@[simp] theorem Chip.xf_requeue (x : Fld) (derived : Nat) : (c.requeue h).xf x derived = c.xf x derived := (rfl)
@[simp] theorem Chip.now_requeue : (c.requeue h).now = c.now := (rfl)
@[simp] theorem Chip.replica_requeue (i : Nat) : (c.requeue h).replica i = c.replica i := (rfl)
@[simp] theorem Chip.stamp_requeue (o : Nat) : (c.requeue h).stamp o = c.stamp o := (rfl)
@[simp] theorem Chip.domainUp_requeue (d : Nat) : (c.requeue h).domainUp d = c.domainUp d := (rfl)
@[simp] theorem Chip.dramTop_requeue : (c.requeue h).dramTop = c.dramTop := (rfl)
@[simp] theorem Chip.region_requeue (o pa : Nat) : (c.requeue h).region o pa = c.region o pa := (rfl)
@[simp] theorem Chip.dramChannel_requeue (pa : Nat) : (c.requeue h).dramChannel pa = c.dramChannel pa := (rfl)
@[simp] theorem Chip.channelByte_requeue (pa : Nat) : (c.requeue h).channelByte pa = c.channelByte pa := (rfl)
@[simp] theorem Chip.byte_requeue (pa : Nat) : (c.requeue h).byte pa = c.byte pa := (rfl)
@[simp] theorem Chip.bytes_requeue (pa n : Nat) : (c.requeue h).bytes pa n = c.bytes pa n := by
  induction n generalizing pa with
  | zero => rfl
  | succ n ih => simp [Chip.bytes, ih]
@[simp] theorem Chip.le_requeue (pa n : Nat) : (c.requeue h).le pa n = c.le pa n := by simp [Chip.le]
@[simp] theorem Chip.poisoned_requeue (k : Nat) : (c.requeue h).poisoned k = c.poisoned k := (rfl)
@[simp] theorem Chip.dlt_requeue (a i : Nat) : (c.requeue h).dlt a i = c.dlt a i := (rfl)
@[simp] theorem Chip.dltFree_requeue (a i n : Nat) : (c.requeue h).dltFree a i n = c.dltFree a i n := by
  induction n generalizing i with
  | zero => rfl
  | succ n ih => simp [Chip.dltFree, ih]
@[simp] theorem Chip.stuck_requeue (r : Region) (k : Nat) : (c.requeue h).stuck r k = c.stuck r k := (rfl)
@[simp] theorem Chip.retThresh_requeue : (c.requeue h).retThresh = c.retThresh := (rfl)
@[simp] theorem Chip.flipAt_requeue (k : Nat) : (c.requeue h).flipAt k = c.flipAt k := (rfl)
@[simp] theorem Chip.defined_requeue (k : Nat) : (c.requeue h).defined k = c.defined k := (rfl)
@[simp] theorem Chip.dirty_requeue (pa : Nat) : (c.requeue h).dirty pa = c.dirty pa := (rfl)
@[simp] theorem Chip.wordPoison_requeue (r : Region) (pa : Nat) : (c.requeue h).wordPoison r pa = c.wordPoison r pa := (rfl)
@[simp] theorem Chip.paired_requeue : (c.requeue h).paired = c.paired := (rfl)
@[simp] theorem Chip.isLead_requeue : (c.requeue h).isLead = c.isLead := (rfl)
@[simp] theorem Chip.isMirror_requeue : (c.requeue h).isMirror = c.isMirror := (rfl)
@[simp] theorem Chip.windowOf_requeue (pa : Nat) : (c.requeue h).windowOf pa = c.windowOf pa := (rfl)
@[simp] theorem Chip.line64_requeue (pa mask : Nat) : (c.requeue h).line64 pa mask = c.line64 pa mask := (rfl)
@[simp] theorem Chip.core_requeue (k : Nat) : (c.requeue h).core k = c.core k := (rfl)
@[simp] theorem Chip.storeWidth_requeue (r : Region) (pa : Nat) : (c.requeue h).storeWidth r pa = c.storeWidth r pa := (rfl)
@[simp] theorem Chip.anyPoison_requeue (r : Region) (pa n : Nat) : (c.requeue h).anyPoison r pa n = c.anyPoison r pa n := (rfl)
@[simp] theorem Chip.deadDram_requeue (r : Region) (pa : Nat) : (c.requeue h).deadDram r pa = c.deadDram r pa := (rfl)
@[simp] theorem readNowHi_requeue (o : Nat) : readNowHi o (c.requeue h) = readNowHi o c := (rfl)
@[simp] theorem readPostStatus_requeue : readPostStatus (c.requeue h) = readPostStatus c := (rfl)
@[simp] theorem readDltEntry_requeue : readDltEntry (c.requeue h) = readDltEntry c := (rfl)
@[simp] theorem Chip.channelsOut_requeue (failed : List Nat) : (c.requeue h).channelsOut failed = c.channelsOut failed := (rfl)
@[simp] theorem Chip.pcieMode_requeue : (c.requeue h).pcieMode = c.pcieMode := (rfl)
@[simp] theorem readPcieStatus_requeue : readPcieStatus (c.requeue h) = readPcieStatus c := (rfl)
@[simp] theorem readSensVal_requeue : readSensVal (c.requeue h) = readSensVal c := (rfl)
@[simp] theorem readDayStat_requeue : readDayStat (c.requeue h) = readDayStat c := (rfl)
@[simp] theorem readDayData_requeue (k : Nat) : readDayData k (c.requeue h) = readDayData k c := (rfl)
@[simp] theorem readRepSel_requeue : readRepSel (c.requeue h) = readRepSel c := (rfl)
@[simp] theorem readRepData_requeue (k : Nat) : readRepData k (c.requeue h) = readRepData k c := (rfl)
@[simp] theorem Chip.src_requeue (key : Nat) : (c.requeue h).src key = c.src key := (rfl)
@[simp] theorem Chip.srcInput_requeue (key : Nat) : (c.requeue h).srcInput key = c.srcInput key := (rfl)
@[simp] theorem Chip.srcOrigin_requeue (key : Nat) : (c.requeue h).srcOrigin key = c.srcOrigin key := (rfl)
@[simp] theorem Chip.srcStamp_requeue (key : Nat) : (c.requeue h).srcStamp key = c.srcStamp key := (rfl)
@[simp] theorem Chip.icuNow_requeue : (c.requeue h).icuNow = c.icuNow := (rfl)
@[simp] theorem Chip.icuWin_requeue : (c.requeue h).icuWin = c.icuWin := (rfl)
@[simp] theorem Chip.claimable_requeue (t : Nat) : (c.requeue h).claimable t = c.claimable t := (rfl)
@[simp] theorem readClaimPm_requeue (o : Nat) (hi : Bool) : readClaimPm o hi (c.requeue h) = readClaimPm o hi c := (rfl)
@[simp] theorem Chip.icuSel_requeue : (c.requeue h).icuSel = c.icuSel := (rfl)
@[simp] theorem readIcuCfg_requeue : readIcuCfg (c.requeue h) = readIcuCfg c := (rfl)
@[simp] theorem Chip.tout_requeue (k : Nat) : (c.requeue h).tout k = c.tout k := (rfl)
@[simp] theorem Chip.muxCode_requeue (p : Nat) : (c.requeue h).muxCode p = c.muxCode p := (rfl)
@[simp] theorem readPmuxStat_requeue : readPmuxStat (c.requeue h) = readPmuxStat c := (rfl)
@[simp] theorem Chip.filterTime_requeue (p : Nat) : (c.requeue h).filterTime p = c.filterTime p := (rfl)
@[simp] theorem Chip.pad_requeue (p : Nat) : (c.requeue h).pad p = c.pad p := (rfl)
@[simp] theorem Chip.bankFrozen_requeue (b : Nat) : (c.requeue h).bankFrozen b = c.bankFrozen b := (rfl)
@[simp] theorem readGpioCfg_requeue (b : Nat) : readGpioCfg b (c.requeue h) = readGpioCfg b c := (rfl)
@[simp] theorem readGpioIn_requeue (b : Nat) : readGpioIn b (c.requeue h) = readGpioIn b c := (rfl)
@[simp] theorem Chip.out_requeue (o : Nat) : (c.requeue h).out o = c.out o := (rfl)
@[simp] theorem Chip.grp_requeue (g : Nat) : (c.requeue h).grp g = c.grp g := (rfl)
@[simp] theorem Chip.comp_requeue (s : Nat) : (c.requeue h).comp s = c.comp s := (rfl)
@[simp] theorem Chip.groupOf_requeue (s : Nat) : (c.requeue h).groupOf s = c.groupOf s := (rfl)
@[simp] theorem Chip.running_requeue (o : Nat) : (c.requeue h).running o = c.running o := (rfl)
@[simp] theorem Chip.unitPlace_requeue (g u : Nat) : (c.requeue h).unitPlace g u = c.unitPlace g u := (rfl)
@[simp] theorem Chip.rightHalf_requeue (o : Nat) : (c.requeue h).rightHalf o = c.rightHalf o := (rfl)
@[simp] theorem Chip.pulseIn_requeue (i : Nat) : (c.requeue h).pulseIn i = c.pulseIn i := (rfl)
@[simp] theorem Chip.meterOut_requeue (k : Nat) : (c.requeue h).meterOut k = c.meterOut k := (rfl)
@[simp] theorem Chip.boxSlot_requeue (s : Nat) : (c.requeue h).boxSlot s = c.boxSlot s := (rfl)
@[simp] theorem Chip.fuNow_requeue : (c.requeue h).fuNow = c.fuNow := (rfl)
@[simp] theorem fuStatus_requeue : fuStatus (c.requeue h) = fuStatus c := (rfl)
@[simp] theorem Chip.defWord_requeue (m w : Nat) : (c.requeue h).defWord m w = c.defWord m w := (rfl)
@[simp] theorem Chip.applyEntry_requeue (x : MeterCopy) (e : JEntry) : (c.requeue h).applyEntry x e = c.applyEntry x e := (rfl)
@[simp] theorem Chip.newEntry_requeue (source cause arg tkey : Nat) (changes : List (Nat × Int)) (data : Nat) (vals : List Nat) :
    (c.requeue h).newEntry source cause arg tkey changes data vals = c.newEntry source cause arg tkey changes data vals := (rfl)
@[simp] theorem Chip.pulseChanges_requeue (i : Nat) : (c.requeue h).pulseChanges i = c.pulseChanges i := (rfl)
@[simp] theorem Chip.pulseBad_requeue (p : Nat × Int) : (c.requeue h).pulseBad p = c.pulseBad p := (rfl)
@[simp] theorem Chip.pulsesRefused_requeue (acc l : List (Nat × Int)) : (c.requeue h).pulsesRefused acc l = c.pulsesRefused acc l := by
  induction l generalizing acc with
  | nil => rfl
  | cons p t ih => simp [Chip.pulsesRefused, ih]
@[simp] theorem Chip.boxWord_requeue (s w : Nat) : (c.requeue h).boxWord s w = c.boxWord s w := (rfl)
@[simp] theorem Chip.tkey_requeue (s : Nat) : (c.requeue h).tkey s = c.tkey s := (rfl)
@[simp] theorem readPoboxSel_requeue (o : Nat) : readPoboxSel o (c.requeue h) = readPoboxSel o c := (rfl)
@[simp] theorem Chip.selected_requeue (o : Nat) : (c.requeue h).selected o = c.selected o := (rfl)
@[simp] theorem Chip.ownsSlot_requeue (o s : Nat) : (c.requeue h).ownsSlot o s = c.ownsSlot o s := (rfl)
@[simp] theorem readPoboxSlot_requeue (o : Nat) : readPoboxSlot o (c.requeue h) = readPoboxSlot o c := (rfl)
@[simp] theorem readPoboxData_requeue (o k : Nat) : readPoboxData o k (c.requeue h) = readPoboxData o k c := (rfl)
@[simp] theorem Chip.sealBroken_requeue : (c.requeue h).sealBroken = c.sealBroken := (rfl)
@[simp] theorem Chip.mayPulse_requeue : (c.requeue h).mayPulse = c.mayPulse := (rfl)
@[simp] theorem readFuMirStat_requeue : readFuMirStat (c.requeue h) = readFuMirStat c := (rfl)
@[simp] theorem Chip.analog_requeue (o : Nat) : (c.requeue h).analog o = c.analog o := (rfl)
@[simp] theorem readFuView_requeue : readFuView (c.requeue h) = readFuView c := (rfl)
@[simp] theorem Chip.lead_requeue (o : Nat) : (c.requeue h).lead o = c.lead o := (rfl)
@[simp] theorem Chip.halves_requeue (o : Nat) : (c.requeue h).halves o = c.halves o := (rfl)
@[simp] theorem Chip.port_requeue (d : Nat) : (c.requeue h).port d = c.port d := (rfl)
@[simp] theorem Chip.outKind_requeue (o : Nat) : (c.requeue h).outKind o = c.outKind o := (rfl)
@[simp] theorem Chip.sinkRefuses_requeue (o : Nat) : (c.requeue h).sinkRefuses o = c.sinkRefuses o := (rfl)
@[simp] theorem Chip.wantedTiming_requeue (o : Nat) : (c.requeue h).wantedTiming o = c.wantedTiming o := (rfl)
@[simp] theorem readBeam_requeue (o : Nat) : readBeam o (c.requeue h) = readBeam o c := (rfl)
@[simp] theorem Chip.linkFits_requeue (d : Nat) : (c.requeue h).linkFits d = c.linkFits d := (rfl)
@[simp] theorem Chip.answers_requeue (pa : Nat) : (c.requeue h).answers pa = c.answers pa := (rfl)
@[simp] theorem Chip.stores_requeue (pa : Nat) : (c.requeue h).stores pa = c.stores pa := (rfl)
@[simp] theorem Chip.pressRow_requeue : (c.requeue h).pressRow = c.pressRow := (rfl)
@[simp] theorem Chip.dmaCh_requeue (i : Nat) : (c.requeue h).dmaCh i = c.dmaCh i := (rfl)
@[simp] theorem Chip.dmaState_requeue (i : Nat) : (c.requeue h).dmaState i = c.dmaState i := (rfl)
@[simp] theorem Chip.adom_requeue (d : Nat) : (c.requeue h).adom d = c.adom d := (rfl)
@[simp] theorem Chip.stateBase_requeue : (c.requeue h).stateBase = c.stateBase := (rfl)
@[simp] theorem Chip.dynReg_requeue (b i : Nat) : (c.requeue h).dynReg b i = c.dynReg b i := (rfl)
@[simp] theorem Chip.dynDom_requeue (b : Nat) : (c.requeue h).dynDom b = c.dynDom b := (rfl)
@[simp] theorem Chip.dynCoef_requeue (b i : Nat) : (c.requeue h).dynCoef b i = c.dynCoef b i := (rfl)
@[simp] theorem Chip.snOf_requeue (d : Nat) : (c.requeue h).snOf d = c.snOf d := (rfl)
@[simp] theorem readSnHi_requeue (o d : Nat) : readSnHi o d (c.requeue h) = readSnHi o d c := (rfl)
@[simp] theorem Chip.tdmRateOk_requeue (p : Nat) : (c.requeue h).tdmRateOk p = c.tdmRateOk p := (rfl)
@[simp] theorem Chip.bridgeCoef_requeue : (c.requeue h).bridgeCoef = c.bridgeCoef := (rfl)
@[simp] theorem Chip.zowState_requeue : (c.requeue h).zowState = c.zowState := (rfl)
@[simp] theorem Chip.linkUp_requeue : (c.requeue h).linkUp = c.linkUp := (rfl)
@[simp] theorem readZowStatus_requeue : readZowStatus (c.requeue h) = readZowStatus c := (rfl)
@[simp] theorem readZowWin_requeue (w : Nat) : readZowWin w (c.requeue h) = readZowWin w c := (rfl)
@[simp] theorem Chip.marks_requeue : (c.requeue h).marks = c.marks := (rfl)
@[simp] theorem hostsReset_requeue : hostsReset (c.requeue h) = hostsReset c := (rfl)
@[simp] theorem Chip.wdtWarn_requeue (w : Nat) : (c.requeue h).wdtWarn w = c.wdtWarn w := (rfl)
@[simp] theorem Chip.wdtSvc_requeue (w : Nat) : (c.requeue h).wdtSvc w = c.wdtSvc w := (rfl)
@[simp] theorem Chip.comesOn_requeue (cls : Nat) : (c.requeue h).comesOn cls = c.comesOn cls := (rfl)
@[simp] theorem Chip.causeHeld_requeue : (c.requeue h).causeHeld = c.causeHeld := (rfl)
@[simp] theorem releasable_requeue (k : Nat) : releasable k (c.requeue h) = releasable k c := (rfl)
@[simp] theorem Chip.switchable_requeue (d : Nat) : (c.requeue h).switchable d = c.switchable d := (rfl)
@[simp] theorem readPdCtl_requeue : readPdCtl (c.requeue h) = readPdCtl c := (rfl)
@[simp] theorem readSleep_requeue : readSleep (c.requeue h) = readSleep c := (rfl)
@[simp] theorem readFuseStat_requeue : readFuseStat (c.requeue h) = readFuseStat c := (rfl)
@[simp] theorem fuseRefusal_requeue (op slot : Nat) : fuseRefusal op slot (c.requeue h) = fuseRefusal op slot c := (rfl)
@[simp] theorem fuseData_requeue : fuseData (c.requeue h) = fuseData c := (rfl)
@[simp] theorem Chip.coefIndex_requeue : (c.requeue h).coefIndex = c.coefIndex := (rfl)
@[simp] theorem readGstat_requeue (o : Nat) : readGstat o (c.requeue h) = readGstat o c := (rfl)
@[simp] theorem readRetData_requeue : readRetData (c.requeue h) = readRetData c := (rfl)
@[simp] theorem readHalted_requeue (hi : Bool) : readHalted hi (c.requeue h) = readHalted hi c := (rfl)
@[simp] theorem readFuUsec_requeue : readFuUsec (c.requeue h) = readFuUsec c := (rfl)
@[simp] theorem Chip.reachable_requeue (o pa : Nat) (r : Region) : (c.requeue h).reachable o pa r = c.reachable o pa r := (rfl)
@[simp] theorem fuseByte_requeue (i : Nat) : fuseByte (c.requeue h) i = fuseByte c i := (rfl)

/-! ### What a served beat does: functions of Machine/Ops -/

@[simp] theorem forAll_requeue {α : Type} (l : List α) (f : α → Chip → Chip) (hf : ∀ a c, f a (c.requeue h) = (f a c).requeue h) :
    forAll l f (c.requeue h) = (forAll l f c).requeue h := by
  induction l generalizing c with
  | nil => rfl
  | cons a l ih => simpa [forAll, hf] using ih (f a c)
@[simp] theorem Chip.setReg_requeue (k : Nat) (w : Word) : (c.requeue h).setReg k w = (c.setReg k w).requeue h := by simp [Chip.setReg]
@[simp] theorem Chip.setF_requeue (x : Fld) (v : Nat) : (c.requeue h).setF x v = (c.setF x v).requeue h := by simp [Chip.setF]
@[simp] theorem Chip.flag_requeue (x : Fld) : (c.requeue h).flag x = (c.flag x).requeue h := by simp [Chip.flag]
@[simp] theorem Chip.countF_requeue (x : Fld) : (c.requeue h).countF x = (c.countF x).requeue h := by simp [Chip.countF]
@[simp] theorem Chip.setRegBit_requeue (k n : Nat) (b : Bool) : (c.requeue h).setRegBit k n b = (c.setRegBit k n b).requeue h := by
  simp [Chip.setRegBit]
@[simp] theorem Chip.resetBlock_requeue (mask b : Nat) : (c.requeue h).resetBlock mask b = (c.resetBlock mask b).requeue h := by
  simp [Chip.resetBlock]
@[simp] theorem Chip.answerTo_requeue (o : Nat) (a : Answer) : (c.requeue h).answerTo o a = (c.answerTo o a).requeue h := by
  simp [Chip.answerTo]
@[simp] theorem Chip.freeBits_requeue (w : Nat) : (c.requeue h).freeBits w = ((c.freeBits w).1, (c.freeBits w).2.requeue h) := by
  simp [Chip.freeBits]
@[simp] theorem Chip.freeWord_requeue : (c.requeue h).freeWord = ((c.freeWord).1, (c.freeWord).2.requeue h) := by simp [Chip.freeWord]
@[simp] theorem freeBytes_requeue (n : Nat) : freeBytes n (c.requeue h) = ((freeBytes n c).1, (freeBytes n c).2.requeue h) := by
  induction n generalizing c with
  | zero => rfl
  | succ n ih => simp [freeBytes, ih]
@[simp] theorem Chip.journalAt_requeue (pm cls kind origin flags item data : Nat) :
    (c.requeue h).journalAt pm cls kind origin flags item data = (c.journalAt pm cls kind origin flags item data).requeue h := by
  simp [Chip.journalAt]
@[simp] theorem Chip.journal_requeue (cls kind origin flags item data : Nat) :
    (c.requeue h).journal cls kind origin flags item data = (c.journal cls kind origin flags item data).requeue h := by simp [Chip.journal]
@[simp] theorem Chip.repairAdd_requeue (kind id off : Nat) :
    (c.requeue h).repairAdd kind id off = (c.repairAdd kind id off).requeue h := by
  simp [Chip.repairAdd]
@[simp] theorem Chip.forgetWaits_requeue (m : Nat → Bool) : (c.requeue h).forgetWaits m = (c.forgetWaits m).requeue h := by
  simp [Chip.forgetWaits]
@[simp] theorem Chip.setByte_requeue (pa : Nat) (b : Byte) : (c.requeue h).setByte pa b = (c.setByte pa b).requeue h := by
  simp [Chip.setByte]
@[simp] theorem Chip.setBytes_requeue (pa : Nat) (l : List Byte) : (c.requeue h).setBytes pa l = (c.setBytes pa l).requeue h := by
  induction l generalizing pa c with
  | nil => rfl
  | cons b l ih => simp [Chip.setBytes, ih]
@[simp] theorem Chip.setPoison_requeue (k : Nat) (b : Bool) : (c.requeue h).setPoison k b = (c.setPoison k b).requeue h := by
  simp [Chip.setPoison]

/-! ### What a served beat does: functions of Machine/Memory -/

@[simp] theorem Chip.setDlt_requeue (a i : Nat) (e : DltEntry) : (c.requeue h).setDlt a i e = (c.setDlt a i e).requeue h := by
  simp [Chip.setDlt]
@[simp] theorem Chip.dltAlloc_requeue (a off k : Nat) : (c.requeue h).dltAlloc a off k = (c.dltAlloc a off k).requeue h := by
  simp only [Chip.dltAlloc, Chip.dltFree_requeue]
  split <;> simp
@[simp] theorem Chip.verify_requeue (r : Region) (k : Nat) : (c.requeue h).verify r k = (c.verify r k).requeue h := by simp [Chip.verify]
@[simp] theorem Chip.correctedSram_requeue (a pa : Nat) (spec scrub : Bool) :
    (c.requeue h).correctedSram a pa spec scrub = (c.correctedSram a pa spec scrub).requeue h := by simp [Chip.correctedSram]
@[simp] theorem Chip.retirePage_requeue (page : Nat) : (c.requeue h).retirePage page = (c.retirePage page).requeue h := by
  simp [Chip.retirePage]
@[simp] theorem Chip.countPage_requeue (pa : Nat) : (c.requeue h).countPage pa = (c.countPage pa).requeue h := by simp [Chip.countPage]
@[simp] theorem Chip.correctedDram_requeue (pa : Nat) (spec scrub : Bool) :
    (c.requeue h).correctedDram pa spec scrub = (c.correctedDram pa spec scrub).requeue h := by simp [Chip.correctedDram]
@[simp] theorem Chip.corrected_requeue (r : Region) (pa : Nat) (spec scrub : Bool) :
    (c.requeue h).corrected r pa spec scrub = (c.corrected r pa spec scrub).requeue h := by
  unfold Chip.corrected
  split <;> simp
@[simp] theorem Chip.setFlip_requeue (k : Nat) (e : BitErr) : (c.requeue h).setFlip k e = (c.setFlip k e).requeue h := by
  simp [Chip.setFlip]
@[simp] theorem Chip.xorWord_requeue (k n mask : Nat) : (c.requeue h).xorWord k n mask = (c.xorWord k n mask).requeue h := by
  simp [Chip.xorWord]
@[simp] theorem Chip.setValid_requeue (k : Nat) : (c.requeue h).setValid k = (c.setValid k).requeue h := by simp [Chip.setValid]
@[simp] theorem Chip.firstUse_requeue (r : Region) (k : Nat) : (c.requeue h).firstUse r k = (c.firstUse r k).requeue h := by
  simp [Chip.firstUse]
@[simp] theorem Chip.checkWord_requeue (r : Region) (k : Nat) (spec scrub : Bool) :
    (c.requeue h).checkWord r k spec scrub = (c.checkWord r k spec scrub).requeue h := by
  simp only [Chip.checkWord, Chip.poisoned_requeue, Chip.flipAt_requeue, Chip.le_requeue, Chip.stuck_requeue, Chip.firstUse_requeue,
    Chip.setPoison_requeue, Chip.setFlip_requeue, Chip.xorWord_requeue, Chip.verify_requeue, Chip.corrected_requeue, ite_requeue]
  (repeat' split) <;> rfl
@[simp] theorem Chip.setDirty_requeue (pa : Nat) (l : Option DirtyLine) : (c.requeue h).setDirty pa l = (c.setDirty pa l).requeue h := by
  simp [Chip.setDirty]
@[simp] theorem Chip.checkLine_requeue (a : Nat) (l : DirtyLine) (pa : Nat) (spec scrub : Bool) :
    (c.requeue h).checkLine a l pa spec scrub = (c.checkLine a l pa spec scrub).requeue h := by
  simp only [Chip.checkLine, Chip.le_requeue]
  (repeat' split) <;> simp
@[simp] theorem Chip.eccCheck_requeue (r : Region) (pa : Nat) (spec scrub : Bool) :
    (c.requeue h).eccCheck r pa spec scrub = (c.eccCheck r pa spec scrub).requeue h := by
  simp only [Chip.eccCheck, Chip.dirty_requeue]
  split <;> simp
@[simp] theorem Chip.markPoison_requeue (r : Region) (pa : Nat) : (c.requeue h).markPoison r pa = (c.markPoison r pa).requeue h := by
  simp only [Chip.markPoison, Chip.dirty_requeue]
  split <;> simp
@[simp] theorem Chip.eccRange_requeue (r : Region) (n pa : Nat) : (c.requeue h).eccRange r n pa = (c.eccRange r n pa).requeue h := by
  simp [Chip.eccRange]
@[simp] theorem Chip.loseLine_requeue (pa : Nat) : (c.requeue h).loseLine pa = (c.loseLine pa).requeue h := by
  simp only [Chip.loseLine, Chip.dirty_requeue]
  split <;> simp
@[simp] theorem Chip.loseCaches_requeue : (c.requeue h).loseCaches = (c.loseCaches).requeue h := by simp [Chip.loseCaches]
@[simp] theorem Chip.capture_requeue (stream : Nat) (l : CapLine) : (c.requeue h).capture stream l = (c.capture stream l).requeue h := by
  simp [Chip.capture]
@[simp] theorem Chip.setCore_requeue (k : Nat) (x : Core) : (c.requeue h).setCore k x = (c.setCore k x).requeue h := by simp [Chip.setCore]
@[simp] theorem Chip.modCore_requeue (k : Nat) (f : Core → Core) : (c.requeue h).modCore k f = (c.modCore k f).requeue h := by
  simp [Chip.modCore]
@[simp] theorem Chip.plant_requeue (r : Region) (k : Nat) : (c.requeue h).plant r k = (c.plant r k).requeue h := by
  unfold Chip.plant
  split <;> simp
@[simp] theorem Chip.freshWord_requeue (r : Region) (k : Nat) : (c.requeue h).freshWord r k = (c.freshWord r k).requeue h := by
  simp [Chip.freshWord]
@[simp] theorem Chip.putBytes_requeue (l : List (Nat × Byte)) : (c.requeue h).putBytes l = (c.putBytes l).requeue h := by
  simp [Chip.putBytes]
@[simp] theorem Chip.storeWord_requeue (r : Region) (k : Nat) (l : List (Nat × Byte)) :
    (c.requeue h).storeWord r k l = (c.storeWord r k l).requeue h := by simp [Chip.storeWord]
@[simp] theorem Chip.storeLine_requeue (d : DirtyLine) (k : Nat) (l : List (Nat × Byte)) :
    (c.requeue h).storeLine d k l = (c.storeLine d k l).requeue h := by simp [Chip.storeLine]
@[simp] theorem Chip.storeIn_requeue (r : Region) (pa : Nat) (l : List (Nat × Byte)) :
    (c.requeue h).storeIn r pa l = (c.storeIn r pa l).requeue h := by
  simp only [Chip.storeIn, Chip.dirty_requeue]
  split <;> simp
@[simp] theorem Chip.storeChunks_requeue (r : Region) (fuel pa : Nat) (l : List Byte) :
    (c.requeue h).storeChunks r fuel pa l = (c.storeChunks r fuel pa l).requeue h := by
  induction fuel generalizing pa c l with
  | zero => rfl
  | succ n ih =>
    cases l with
    | nil => rfl
    | cons b l => simp [Chip.storeChunks, ih]
@[simp] theorem Chip.writeBack_requeue (pa : Nat) : (c.requeue h).writeBack pa = (c.writeBack pa).requeue h := by
  simp only [Chip.writeBack, Chip.dirty_requeue]
  split <;> simp
@[simp] theorem Chip.writeBackAll_requeue : (c.requeue h).writeBackAll = (c.writeBackAll).requeue h := by simp [Chip.writeBackAll]
@[simp] theorem Chip.writeBackSlice_requeue (s : Nat) : (c.requeue h).writeBackSlice s = (c.writeBackSlice s).requeue h := by
  simp [Chip.writeBackSlice]
@[simp] theorem Chip.memStore_requeue (r : Region) (pa : Nat) (bs : List Byte) :
    (c.requeue h).memStore r pa bs = (c.memStore r pa bs).requeue h := by
  simp only [Chip.memStore, Chip.paired_requeue, Chip.windowOf_requeue, Chip.isMirror_requeue]
  split <;> simp

/-! ### What a served beat does: functions of Machine/Post -/

@[simp] theorem readNowLo_requeue (o : Nat) (peek : Bool) :
    readNowLo o peek (c.requeue h) = ((readNowLo o peek c).1, (readNowLo o peek c).2.requeue h) := by simp [readNowLo]
@[simp] theorem Chip.loadReplicas_requeue (sel : Nat → Bool) : (c.requeue h).loadReplicas sel = (c.loadReplicas sel).requeue h := by
  simp [Chip.loadReplicas]

/-! ### What a served beat does: functions of Machine/MemCtl -/

@[simp] theorem writeDltEntry_requeue (v : Word) : writeDltEntry v (c.requeue h) = (writeDltEntry v c).requeue h := by simp [writeDltEntry]
@[simp] theorem Chip.startTraining_requeue (master : Option Nat) :
    (c.requeue h).startTraining master = (c.startTraining master).requeue h := by simp [Chip.startTraining]
@[simp] theorem writeDramcConfig_requeue (o : Nat) (v : Word) :
    writeDramcConfig o v (c.requeue h) = (writeDramcConfig o v c).requeue h := by
  simp [writeDramcConfig]
@[simp] theorem Chip.wipe_requeue (lo hi : Nat) : (c.requeue h).wipe lo hi = (c.wipe lo hi).requeue h := by simp [Chip.wipe]
@[simp] theorem Chip.wipeDram_requeue : (c.requeue h).wipeDram = (c.wipeDram).requeue h := by simp [Chip.wipeDram]
@[simp] theorem Chip.openRowOf_requeue (pa : Nat) : (c.requeue h).openRowOf pa = (c.openRowOf pa).requeue h := by simp [Chip.openRowOf]

/-! ### What a served beat does: functions of Machine/Hosts -/

@[simp] theorem pcieDown_requeue : pcieDown (c.requeue h) = (pcieDown c).requeue h := by simp [pcieDown]
@[simp] theorem writePcieCtl_requeue (v : Word) : writePcieCtl v (c.requeue h) = (writePcieCtl v c).requeue h := by simp [writePcieCtl]
@[simp] theorem readCfgData_requeue (reply : Option Word) :
    readCfgData reply (c.requeue h) = ((readCfgData reply c).1, (readCfgData reply c).2.requeue h) := by
  simp only [readCfgData, Chip.pcieMode_requeue, Chip.f_requeue, Chip.reg_requeue, Chip.freeWord_requeue, Chip.flag_requeue]
  (repeat' split) <;> rfl
@[simp] theorem setVsel_requeue (b : Bool) : setVsel b (c.requeue h) = (setVsel b c).requeue h := by simp [setVsel]
@[simp] theorem writeStorCtl_requeue (v : Word) : writeStorCtl v (c.requeue h) = (writeStorCtl v c).requeue h := by simp [writeStorCtl]
@[simp] theorem writeBlkCnt_requeue (v : Word) : writeBlkCnt v (c.requeue h) = (writeBlkCnt v c).requeue h := by simp [writeBlkCnt]
@[simp] theorem writeQcmd_requeue (v : Word) : writeQcmd v (c.requeue h) = (writeQcmd v c).requeue h := by
  simp only [writeQcmd, Chip.fb_requeue, Chip.reg_requeue, Chip.pm_requeue, Chip.setReg_requeue, Chip.flag_requeue, Chip.setF_requeue]
  (repeat' split) <;> rfl
@[simp] theorem readQdata_requeue (peek : Bool) :
    readQdata peek (c.requeue h) = ((readQdata peek c).1, (readQdata peek c).2.requeue h) := by
  simp [readQdata]
@[simp] theorem writeQdata_requeue (v : Word) : writeQdata v (c.requeue h) = (writeQdata v c).requeue h := by simp [writeQdata]
@[simp] theorem writeSensEvt_requeue (v : Word) : writeSensEvt v (c.requeue h) = (writeSensEvt v c).requeue h := by simp [writeSensEvt]
@[simp] theorem writeSwgo_requeue (v : Word) : writeSwgo v (c.requeue h) = (writeSwgo v c).requeue h := by simp [writeSwgo]

/-! ### What a served beat does: functions of Machine/CoreBase -/

@[simp] theorem haltCore_requeue (k causes hit : Nat) : haltCore k causes hit (c.requeue h) = (haltCore k causes hit c).requeue h := by
  simp [haltCore]

/-! ### What a served beat does: functions of Machine/Session -/

@[simp] theorem resumeCore_requeue (k : Nat) : resumeCore k (c.requeue h) = (resumeCore k c).requeue h := by simp [resumeCore]
@[simp] theorem sessionEntry_requeue (what kind level : Nat) :
    sessionEntry what kind level (c.requeue h) = (sessionEntry what kind level c).requeue h := by simp [sessionEntry]
@[simp] theorem endSession_requeue : endSession (c.requeue h) = (endSession c).requeue h := by
  simp only [endSession, Chip.fb_requeue]
  split
  · rfl
  · simp only [Chip.f_requeue, sessionEntry_requeue]
    rw [forAll_requeue]
    · simp only [Chip.setF_requeue]
      generalize Chip.setF _ DBG_STATUS_LEVEL _ = d
      simp
    · simp

/-! ### What a served beat does: functions of Machine/Icu -/

@[simp] theorem Chip.setSrc_requeue (key : Nat) (x : IrqSrc) : (c.requeue h).setSrc key x = (c.setSrc key x).requeue h := by
  simp [Chip.setSrc]
@[simp] theorem pend_requeue (key origin pm : Nat) (refire : Bool) :
    pend key origin pm refire (c.requeue h) = (pend key origin pm refire c).requeue h := by simp [pend]
@[simp] theorem edgeEvent_requeue (key origin pm : Nat) :
    edgeEvent key origin pm (c.requeue h) = (edgeEvent key origin pm c).requeue h := by
  simp only [edgeEvent, Chip.src_requeue]
  (repeat' split) <;> simp
@[simp] theorem senseLevel_requeue (key : Nat) (level : Bool) (origin pm : Nat) :
    senseLevel key level origin pm (c.requeue h) = (senseLevel key level origin pm c).requeue h := by
  simp only [senseLevel, Chip.src_requeue, Chip.setSrc_requeue, edgeEvent_requeue, pend_requeue]
  (repeat' split) <;> rfl
@[simp] theorem senseSrc_requeue (key pm : Nat) : senseSrc key pm (c.requeue h) = (senseSrc key pm c).requeue h := by simp [senseSrc]
@[simp] theorem pulseSrc_requeue (key origin : Nat) : pulseSrc key origin (c.requeue h) = (pulseSrc key origin c).requeue h := by
  simp [pulseSrc]
@[simp] theorem endService_requeue (key : Nat) : endService key (c.requeue h) = (endService key c).requeue h := by simp [endService]
@[simp] theorem readClaim_requeue (o : Nat) (peek : Bool) :
    readClaim o peek (c.requeue h) = ((readClaim o peek c).1, (readClaim o peek c).2.requeue h) := by
  simp only [readClaim, Chip.claimable_requeue]
  (repeat' split) <;> simp
@[simp] theorem writeEoi_requeue (o : Nat) (v : Word) : writeEoi o v (c.requeue h) = (writeEoi o v c).requeue h := by
  unfold writeEoi
  split <;> simp
@[simp] theorem writeIcuCfg_requeue (v : Word) : writeIcuCfg v (c.requeue h) = (writeIcuCfg v c).requeue h := by
  simp only [writeIcuCfg, Chip.icuSel_requeue]
  split <;> simp
@[simp] theorem writeIcuSwi_requeue (o : Nat) (v : Word) : writeIcuSwi o v (c.requeue h) = (writeIcuSwi o v c).requeue h := by
  simp [writeIcuSwi]
@[simp] theorem writeIcuSset_requeue (o : Nat) (v : Word) : writeIcuSset o v (c.requeue h) = (writeIcuSset o v c).requeue h := by
  simp [writeIcuSset]
@[simp] theorem icuCoreReset_requeue (k : Nat) : icuCoreReset k (c.requeue h) = (icuCoreReset k c).requeue h := by simp [icuCoreReset]
@[simp] theorem discardEntry_requeue (pos : Nat) (p : Nat × IrqSrc) :
    discardEntry pos p (c.requeue h) = (discardEntry pos p c).requeue h := by
  simp [discardEntry]
@[simp] theorem icuUnitReset_requeue : icuUnitReset (c.requeue h) = (icuUnitReset c).requeue h := by simp [icuUnitReset]

/-! ### What a served beat does: functions of Machine/Timer -/

@[simp] theorem readXcap_requeue (k : Nat) (peek : Bool) :
    readXcap k peek (c.requeue h) = ((readXcap k peek c).1, (readXcap k peek c).2.requeue h) := by simp [readXcap]
@[simp] theorem startChannel_requeue (k : Nat) (n : Word) : startChannel k n (c.requeue h) = (startChannel k n c).requeue h := by
  simp [startChannel]
@[simp] theorem writeTmrCs_requeue (k : Nat) (v : Word) : writeTmrCs k v (c.requeue h) = (writeTmrCs k v c).requeue h := by
  simp [writeTmrCs]
@[simp] theorem writeXcfg_requeue (k : Nat) (v : Word) : writeXcfg k v (c.requeue h) = (writeXcfg k v c).requeue h := by simp [writeXcfg]
@[simp] theorem writeXcmp_requeue (k : Nat) (v : Word) : writeXcmp k v (c.requeue h) = (writeXcmp k v c).requeue h := by simp [writeXcmp]
@[simp] theorem groupStart_requeue (go : Nat) : groupStart go (c.requeue h) = (groupStart go c).requeue h := by simp [groupStart]
@[simp] theorem groupStop_requeue (stop : Nat) : groupStop stop (c.requeue h) = (groupStop stop c).requeue h := by simp [groupStop]
@[simp] theorem writeXgstart_requeue (v : Word) : writeXgstart v (c.requeue h) = (writeXgstart v c).requeue h := by simp [writeXgstart]
@[simp] theorem timersReset_requeue : timersReset (c.requeue h) = (timersReset c).requeue h := by simp [timersReset]

/-! ### What a served beat does: functions of Machine/Gpio -/

@[simp] theorem freezePad_requeue (p : Nat) : freezePad p (c.requeue h) = (freezePad p c).requeue h := by simp [freezePad]
@[simp] theorem thawPad_requeue (p : Nat) : thawPad p (c.requeue h) = (thawPad p c).requeue h := by simp [thawPad]
@[simp] theorem setPinCode_requeue (p f : Nat) : setPinCode p f (c.requeue h) = (setPinCode p f c).requeue h := by simp [setPinCode]
@[simp] theorem ownedWrite_requeue (o b : Nat) (f : Chip → Chip) (hf : ∀ c, f (c.requeue h) = (f c).requeue h) :
    ownedWrite o b f (c.requeue h) = (ownedWrite o b f c).requeue h := by simp [ownedWrite, hf]
@[simp] theorem writeGpioOut_requeue (o b : Nat) (v : Word) : writeGpioOut o b v (c.requeue h) = (writeGpioOut o b v c).requeue h := by
  simp [writeGpioOut]
@[simp] theorem writeGpioSet_requeue (o b : Nat) (v : Word) : writeGpioSet o b v (c.requeue h) = (writeGpioSet o b v c).requeue h := by
  simp [writeGpioSet]
@[simp] theorem writeGpioClr_requeue (o b : Nat) (v : Word) : writeGpioClr o b v (c.requeue h) = (writeGpioClr o b v c).requeue h := by
  simp [writeGpioClr]
@[simp] theorem writeGpioOe_requeue (o b : Nat) (v : Word) : writeGpioOe o b v (c.requeue h) = (writeGpioOe o b v c).requeue h := by
  simp [writeGpioOe]
@[simp] theorem releaseBank_requeue (b : Nat) : releaseBank b (c.requeue h) = (releaseBank b c).requeue h := by simp [releaseBank]
@[simp] theorem writeGpioCfg_requeue (b : Nat) (v : Word) : writeGpioCfg b v (c.requeue h) = (writeGpioCfg b v c).requeue h := by
  simp [writeGpioCfg]
@[simp] theorem applyPmux_requeue (i : Nat) (v : Word) : applyPmux i v (c.requeue h) = (applyPmux i v c).requeue h := by simp [applyPmux]
@[simp] theorem writePmux_requeue (o i : Nat) (v : Word) : writePmux o i v (c.requeue h) = (writePmux o i v c).requeue h := by
  simp only [writePmux, Chip.pins_requeue]
  split <;> simp
@[simp] theorem endHold_requeue (i : Nat) (x : Hold) : endHold i x (c.requeue h) = (endHold i x c).requeue h := by simp [endHold]
@[simp] theorem pmuxUnitReset_requeue : pmuxUnitReset (c.requeue h) = (pmuxUnitReset c).requeue h := by
  refine forAll_requeue h _ _ _ fun i c => ?_
  simp only [Chip.pins_requeue]
  split <;> simp
@[simp] theorem gpioUnitReset_requeue : gpioUnitReset (c.requeue h) = (gpioUnitReset c).requeue h := by simp [gpioUnitReset]
@[simp] theorem freezeBank_requeue (b : Nat) : freezeBank b (c.requeue h) = (freezeBank b c).requeue h := by simp [freezeBank]
@[simp] theorem pinsReset_requeue (cold : Bool) : pinsReset cold (c.requeue h) = (pinsReset cold c).requeue h := by simp [pinsReset]

/-! ### What a served beat does: functions of Machine/Scene -/

@[simp] theorem Chip.setOut_requeue (o : Nat) (x : Output) : (c.requeue h).setOut o x = (c.setOut o x).requeue h := by simp [Chip.setOut]
@[simp] theorem Chip.modOut_requeue (o : Nat) (f : Output → Output) : (c.requeue h).modOut o f = (c.modOut o f).requeue h := by
  simp [Chip.modOut]
@[simp] theorem Chip.setGrp_requeue (g : Nat) (x : Group) : (c.requeue h).setGrp g x = (c.setGrp g x).requeue h := by simp [Chip.setGrp]
@[simp] theorem Chip.modGrp_requeue (g : Nat) (f : Group → Group) : (c.requeue h).modGrp g f = (c.modGrp g f).requeue h := by
  simp [Chip.modGrp]
@[simp] theorem Chip.setComp_requeue (s : Nat) (x : Composer) : (c.requeue h).setComp s x = (c.setComp s x).requeue h := by
  simp [Chip.setComp]
@[simp] theorem Chip.modComp_requeue (s : Nat) (f : Composer → Composer) : (c.requeue h).modComp s f = (c.modComp s f).requeue h := by
  simp [Chip.modComp]

/-! ### What a served beat does: functions of Machine/Sorter -/

@[simp] theorem Chip.revt_requeue (g n : Nat) : (c.requeue h).revt g n = (c.revt g n).requeue h := by simp [Chip.revt]
@[simp] theorem xstat_requeue (g line half s : Nat) (dropped : Bool) :
    xstat g line half s dropped (c.requeue h) = (xstat g line half s dropped c).requeue h := by simp [xstat]
@[simp] theorem closeUnit_requeue (g u : Nat) : closeUnit g u (c.requeue h) = (closeUnit g u c).requeue h := by simp [closeUnit]
@[simp] theorem abandonUnit_requeue (s : Nat) : abandonUnit s (c.requeue h) = (abandonUnit s c).requeue h := by
  simp only [abandonUnit, Chip.comp_requeue, Chip.groupOf_requeue]
  split <;> simp
@[simp] theorem dropUnit_requeue (g u s : Nat) : dropUnit g u s (c.requeue h) = (dropUnit g u s c).requeue h := by simp [dropUnit]
@[simp] theorem retireSorter_requeue (s : Nat) : retireSorter s (c.requeue h) = (retireSorter s c).requeue h := by
  simp only [retireSorter, Chip.journal_requeue, Chip.repairAdd_requeue, Chip.setRegBit_requeue, ite_requeue, Chip.groupOf_requeue]
  split <;> simp
@[simp] theorem writeRetire_requeue (hi : Bool) (v : Word) : writeRetire hi v (c.requeue h) = (writeRetire hi v c).requeue h := by
  simp [writeRetire]

/-! ### What a served beat does: functions of Machine/Franking -/

@[simp] theorem Chip.modFu_requeue (f : Franking → Franking) : (c.requeue h).modFu f = (c.modFu f).requeue h := by simp [Chip.modFu]
@[simp] theorem Chip.modPulse_requeue (i : Nat) (f : PulseIn → PulseIn) : (c.requeue h).modPulse i f = (c.modPulse i f).requeue h := by
  simp [Chip.modPulse]
@[simp] theorem Chip.modMeterOut_requeue (k : Nat) (f : MeterOut → MeterOut) :
    (c.requeue h).modMeterOut k f = (c.modMeterOut k f).requeue h := by simp [Chip.modMeterOut]
@[simp] theorem Chip.modSlot_requeue (s : Nat) (f : BoxSlot → BoxSlot) : (c.requeue h).modSlot s f = (c.modSlot s f).requeue h := by
  simp [Chip.modSlot]
@[simp] theorem Chip.zowSend_requeue (stream : Nat) : (c.requeue h).zowSend stream = (c.zowSend stream).requeue h := by simp [Chip.zowSend]
@[simp] theorem fuDo_requeue (f : Chip → Chip) (hf : ∀ c, f (c.requeue h) = (f c).requeue h) :
    fuDo f (c.requeue h) = (fuDo f c).requeue h := by simp [fuDo, hf]
@[simp] theorem recordEntry_requeue (e : JEntry) : recordEntry e (c.requeue h) = (recordEntry e c).requeue h := by
  simp only [recordEntry, Chip.applyEntry_requeue, Chip.modFu_requeue, ← ite_requeue, Chip.zowSend_requeue]
  rfl
@[simp] theorem recordOnly_requeue (source cause arg data : Nat) :
    recordOnly source cause arg data (c.requeue h) = (recordOnly source cause arg data c).requeue h := by simp [recordOnly]
@[simp] theorem driveOutput_requeue (m : Nat) (d : Int) : driveOutput m d (c.requeue h) = (driveOutput m d c).requeue h := by
  simp [driveOutput]
@[simp] theorem fuCommit_requeue (source cause arg tkey : Nat) (changes : List (Nat × Int)) (data : Nat) (vals : List Nat) :
    fuCommit source cause arg tkey changes data vals (c.requeue h) = (fuCommit source cause arg tkey changes data vals c).requeue h := by
  simp [fuCommit]
@[simp] theorem commitEvent_requeue (e : FuEv) : commitEvent e (c.requeue h) = (commitEvent e c).requeue h := by
  unfold commitEvent
  split <;> simp
@[simp] theorem fuEventOf_requeue (e : FuEv) : fuEventOf e (c.requeue h) = (fuEventOf e c).requeue h := by simp [fuEventOf]
@[simp] theorem fuEvent_requeue (source cause arg : Nat) (changes : List (Nat × Int)) (data : Nat) :
    fuEvent source cause arg changes data (c.requeue h) = (fuEvent source cause arg changes data c).requeue h := by simp [fuEvent]
@[simp] theorem jamInput_requeue (i : Nat) : jamInput i (c.requeue h) = (jamInput i c).requeue h := by simp [jamInput]
@[simp] theorem commitPulses_requeue (l : List Nat) (i0 : Nat) (acc : List (Nat × Int)) :
    commitPulses l i0 acc (c.requeue h) = (commitPulses l i0 acc c).requeue h := by
  induction l generalizing i0 acc c with
  | nil => simp [commitPulses]
  | cons j t ih => simp [commitPulses, ih]
@[simp] theorem Chip.doneBit_requeue (s : Nat) : (c.requeue h).doneBit s = (c.doneBit s).requeue h := by simp [Chip.doneBit]
@[simp] theorem putReceipt_requeue (s : Nat) (words : List Nat) :
    putReceipt s words (c.requeue h) = (putReceipt s words c).requeue h := by
  simp [putReceipt]

/-! ### What a served beat does: functions of Machine/PoBox -/

@[simp] theorem writePoboxSel_requeue (o : Nat) (v : Word) : writePoboxSel o v (c.requeue h) = (writePoboxSel o v c).requeue h := by
  simp [writePoboxSel]
@[simp] theorem readClaimSlot_requeue (o : Nat) (peek : Bool) :
    readClaimSlot o peek (c.requeue h) = ((readClaimSlot o peek c).1, (readClaimSlot o peek c).2.requeue h) := by
  simp only [readClaimSlot, Chip.boxSlot_requeue]
  (repeat' split) <;> simp
@[simp] theorem writePoboxData_requeue (o k : Nat) (v : Word) :
    writePoboxData o k v (c.requeue h) = (writePoboxData o k v c).requeue h := by
  simp only [writePoboxData, Chip.selected_requeue]
  split <;> simp
@[simp] theorem takeMirrored_requeue (s : Nat) : takeMirrored s (c.requeue h) = (takeMirrored s c).requeue h := by
  simp only [takeMirrored, Chip.boxSlot_requeue, Chip.fu_requeue, Chip.tkey_requeue, putReceipt_requeue, Chip.modFu_requeue]
  (repeat' split) <;> rfl
@[simp] theorem postSlot_requeue (o s : Nat) : postSlot o s (c.requeue h) = (postSlot o s c).requeue h := by simp [postSlot]
@[simp] theorem mirrorReceipt_requeue (s : Nat) : mirrorReceipt s (c.requeue h) = (mirrorReceipt s c).requeue h := by simp [mirrorReceipt]
@[simp] theorem abortSlot_requeue (s : Nat) (late : Bool) : abortSlot s late (c.requeue h) = (abortSlot s late c).requeue h := by
  simp only [abortSlot, Chip.boxSlot_requeue]
  split <;> simp
@[simp] theorem releaseSlot_requeue (s : Nat) : releaseSlot s (c.requeue h) = (releaseSlot s c).requeue h := by simp [releaseSlot]
@[simp] theorem poboxCmd_requeue (o : Nat) (f : Nat → Chip → Chip) (hf : ∀ a c, f a (c.requeue h) = (f a c).requeue h) :
    poboxCmd o f (c.requeue h) = (poboxCmd o f c).requeue h := by
  simp only [poboxCmd, Chip.selected_requeue]
  split <;> simp [hf]
@[simp] theorem writePoboxCmd_requeue (o : Nat) (v : Word) : writePoboxCmd o v (c.requeue h) = (writePoboxCmd o v c).requeue h := by
  simp [writePoboxCmd]
@[simp] theorem writeXforce_requeue (v : Word) : writeXforce v (c.requeue h) = (writeXforce v c).requeue h := by simp [writeXforce]
@[simp] theorem writeXinj_requeue (v : Word) : writeXinj v (c.requeue h) = (writeXinj v c).requeue h := by simp [writeXinj]
@[simp] theorem slotsReset_requeue : slotsReset (c.requeue h) = (slotsReset c).requeue h := by simp [slotsReset]

/-! ### What a served beat does: functions of Machine/FrankPins -/

@[simp] theorem writeFuWdt_requeue (v : Word) : writeFuWdt v (c.requeue h) = (writeFuWdt v c).requeue h := by simp [writeFuWdt]
@[simp] theorem writeFuSpiCmd_requeue (v : Word) : writeFuSpiCmd v (c.requeue h) = (writeFuSpiCmd v c).requeue h := by simp [writeFuSpiCmd]
@[simp] theorem popBytes_requeue (l : List Byte) : popBytes l (c.requeue h) = ((popBytes l c).1, (popBytes l c).2.requeue h) := by
  simp [popBytes]
@[simp] theorem readFuSpiData_requeue (peek : Bool) :
    readFuSpiData peek (c.requeue h) = ((readFuSpiData peek c).1, (readFuSpiData peek c).2.requeue h) := by simp [readFuSpiData]
@[simp] theorem writeFuSpiData_requeue (v : Word) : writeFuSpiData v (c.requeue h) = (writeFuSpiData v c).requeue h := by
  simp [writeFuSpiData]
@[simp] theorem readFuMirData_requeue (peek : Bool) :
    readFuMirData peek (c.requeue h) = ((readFuMirData peek c).1, (readFuMirData peek c).2.requeue h) := by
  simp only [readFuMirData, Chip.fu_requeue]
  split <;> simp
@[simp] theorem writeFuMirData_requeue (v : Word) : writeFuMirData v (c.requeue h) = (writeFuMirData v c).requeue h := by
  simp [writeFuMirData]
@[simp] theorem sendMirror_requeue : sendMirror (c.requeue h) = (sendMirror c).requeue h := by simp [sendMirror]

/-! ### What a served beat does: functions of Machine/Output -/

@[simp] theorem outEvt_requeue (o n : Nat) : outEvt o n (c.requeue h) = (outEvt o n c).requeue h := by simp [outEvt]
@[simp] theorem Chip.setPort_requeue (d : Nat) (p : Port) : (c.requeue h).setPort d p = (c.setPort d p).requeue h := by simp [Chip.setPort]
@[simp] theorem latchTiming_requeue (o x : Nat) : latchTiming o x (c.requeue h) = (latchTiming o x c).requeue h := by simp [latchTiming]
@[simp] theorem turnPort_requeue (d s : Nat) (e : Bool) : turnPort d s e (c.requeue h) = (turnPort d s e c).requeue h := by simp [turnPort]
@[simp] theorem portBlank_requeue (o : Nat) : portBlank o (c.requeue h) = (portBlank o c).requeue h := by
  refine forAll_requeue h _ _ _ fun d c => ?_
  simp only [Chip.port_requeue]
  split <;> simp
@[simp] theorem startOutput_requeue (o : Nat) : startOutput o (c.requeue h) = (startOutput o c).requeue h := by simp [startOutput]
@[simp] theorem writeOutCtl_requeue (o : Nat) (v : Word) : writeOutCtl o v (c.requeue h) = (writeOutCtl o v c).requeue h := by
  simp [writeOutCtl]
@[simp] theorem writeFrameCount_requeue (o : Nat) (v : Word) : writeFrameCount o v (c.requeue h) = (writeFrameCount o v c).requeue h := by
  simp [writeFrameCount]
@[simp] theorem readOutCap_requeue (o : Nat) (peek : Bool) :
    readOutCap o peek (c.requeue h) = ((readOutCap o peek c).1, (readOutCap o peek c).2.requeue h) := by simp [readOutCap]
@[simp] theorem outUnitReset_requeue (o : Nat) : outUnitReset o (c.requeue h) = (outUnitReset o c).requeue h := by
  unfold outUnitReset
  rw [forAll_requeue]
  · simp
  · intro s c
    simp only [Chip.comp_requeue]
    split <;> simp

/-! ### What a served beat does: functions of Machine/Ports -/

@[simp] theorem writeXbar_requeue (d : Nat) (v : Word) : writeXbar d v (c.requeue h) = (writeXbar d v c).requeue h := by
  simp only [writeXbar, Chip.port_requeue]
  split <;> simp
@[simp] theorem retrain_requeue (d : Nat) : retrain d (c.requeue h) = (retrain d c).requeue h := by simp [retrain]

/-! ### What a served beat does: functions of Machine/Press -/

@[simp] theorem rdMem_requeue (n pa : Nat) : rdMem n pa (c.requeue h) = ((rdMem n pa c).1, (rdMem n pa c).2.requeue h) := by
  simp only [rdMem, Chip.dramTop_requeue]
  split <;> simp
@[simp] theorem Chip.modPress_requeue (f : PressEng → PressEng) : (c.requeue h).modPress f = (c.modPress f).requeue h := by
  simp [Chip.modPress]
@[simp] theorem endList_requeue (result cause : Nat) : endList result cause (c.requeue h) = (endList result cause c).requeue h := by
  simp [endList]
@[simp] theorem stopList_requeue (result cause : Nat) : stopList result cause (c.requeue h) = (stopList result cause c).requeue h := by
  simp [stopList]
@[simp] theorem pressGo_requeue : pressGo (c.requeue h) = (pressGo c).requeue h := by simp [pressGo]
@[simp] theorem pressAbort_requeue (late : Bool) : pressAbort late (c.requeue h) = (pressAbort late c).requeue h := by
  simp only [pressAbort, Chip.f_requeue]
  split <;> simp
@[simp] theorem writePressCtl_requeue (v : Word) : writePressCtl v (c.requeue h) = (writePressCtl v c).requeue h := by simp [writePressCtl]
@[simp] theorem pressUnitReset_requeue : pressUnitReset (c.requeue h) = (pressUnitReset c).requeue h := by
  simp only [pressUnitReset, Chip.f_requeue]
  split
  · rfl
  · rw [forAll_requeue]
    · simp
    · intro x c
      cases x.data <;> simp

/-! ### What a served beat does: functions of Machine/Dma -/

@[simp] theorem Chip.modDma_requeue (i : Nat) (f : DmaCh → DmaCh) : (c.requeue h).modDma i f = (c.modDma i f).requeue h := by
  simp [Chip.modDma]
@[simp] theorem setDmaState_requeue (i st : Nat) : setDmaState i st (c.requeue h) = (setDmaState i st c).requeue h := by simp [setDmaState]
@[simp] theorem dmaHalt_requeue (i result cause off : Nat) :
    dmaHalt i result cause off (c.requeue h) = (dmaHalt i result cause off c).requeue h := by simp [dmaHalt]
@[simp] theorem dmaGo_requeue (i : Nat) : dmaGo i (c.requeue h) = (dmaGo i c).requeue h := by simp [dmaGo]
@[simp] theorem dmaPauseNow_requeue (i : Nat) : dmaPauseNow i (c.requeue h) = (dmaPauseNow i c).requeue h := by simp [dmaPauseNow]
@[simp] theorem dmaEnable_requeue (i : Nat) (v outstanding : Bool) :
    dmaEnable i v outstanding (c.requeue h) = (dmaEnable i v outstanding c).requeue h := by simp [dmaEnable]
@[simp] theorem dmaAbort_requeue (i : Nat) (outstanding : Bool) :
    dmaAbort i outstanding (c.requeue h) = (dmaAbort i outstanding c).requeue h := by simp [dmaAbort]
@[simp] theorem writeDmaGo_requeue (v : Word) : writeDmaGo v (c.requeue h) = (writeDmaGo v c).requeue h := by simp [writeDmaGo]
@[simp] theorem writeDmaAbort_requeue (v : Word) : writeDmaAbort v (c.requeue h) = (writeDmaAbort v c).requeue h := by simp [writeDmaAbort]
@[simp] theorem writeDmaEnable_requeue (v : Word) : writeDmaEnable v (c.requeue h) = (writeDmaEnable v c).requeue h := by
  simp [writeDmaEnable]
@[simp] theorem dmaStopAll_requeue (cause : Nat) : dmaStopAll cause (c.requeue h) = (dmaStopAll cause c).requeue h := by simp [dmaStopAll]
@[simp] theorem dmaUnitReset_requeue : dmaUnitReset (c.requeue h) = (dmaUnitReset c).requeue h := by simp [dmaUnitReset]

/-! ### What a served beat does: functions of Machine/Audio -/

@[simp] theorem Chip.modAud_requeue (f : Audio → Audio) : (c.requeue h).modAud f = (c.modAud f).requeue h := by simp [Chip.modAud]
@[simp] theorem Chip.modDom_requeue (d : Nat) (f : AudDomain → AudDomain) : (c.requeue h).modDom d f = (c.modDom d f).requeue h := by
  simp [Chip.modDom]
@[simp] theorem Chip.modHorn_requeue (x : Nat) (f : HornUnit → HornUnit) : (c.requeue h).modHorn x f = (c.modHorn x f).requeue h := by
  simp [Chip.modHorn]
@[simp] theorem Chip.modBridge_requeue (b : Nat) (f : BridgeOn → BridgeOn) :
    (c.requeue h).modBridge b f = (c.modBridge b f).requeue h := by
  simp [Chip.modBridge]
@[simp] theorem Chip.modDyn_requeue (b : Nat) (f : DynOn → DynOn) : (c.requeue h).modDyn b f = (c.modDyn b f).requeue h := by
  simp [Chip.modDyn]
@[simp] theorem audEvt_requeue (n : Nat) : audEvt n (c.requeue h) = (audEvt n c).requeue h := by simp [audEvt]
@[simp] theorem aioEvt_requeue (n : Nat) : aioEvt n (c.requeue h) = (aioEvt n c).requeue h := by simp [aioEvt]
@[simp] theorem audioStore_requeue (off : Nat) (b : List Byte) : audioStore off b (c.requeue h) = (audioStore off b c).requeue h := by
  simp [audioStore]
@[simp] theorem audioWord_requeue (off : Nat) : audioWord off (c.requeue h) = ((audioWord off c).1, (audioWord off c).2.requeue h) := by
  simp [audioWord]
@[simp] theorem audioZero_requeue (off n : Nat) : audioZero off n (c.requeue h) = (audioZero off n c).requeue h := by simp [audioZero]
@[simp] theorem nodeTable_requeue (off : Nat) : nodeTable off (c.requeue h) = ((nodeTable off c).1, (nodeTable off c).2.requeue h) := by
  simp only [nodeTable, audioWord_requeue]
  exact foldl_requeue h _ _ _ _ (by simp)
@[simp] theorem slipRefused_requeue (d off : Nat) :
    slipRefused d off (c.requeue h) = ((slipRefused d off c).1, (slipRefused d off c).2.requeue h) := by simp [slipRefused]
@[simp] theorem zeroNodes_requeue (l : List (Nat × Nat × Nat)) : zeroNodes l (c.requeue h) = (zeroNodes l c).requeue h := by
  simp [zeroNodes]
@[simp] theorem dynReload_requeue (b : Nat) : dynReload b (c.requeue h) = (dynReload b c).requeue h := by simp [dynReload]
@[simp] theorem writeDyn_requeue (i : Nat) (v : Word) : writeDyn i v (c.requeue h) = (writeDyn i v c).requeue h := by
  unfold writeDyn
  split <;> simp
@[simp] theorem writeXdyn_requeue (i : Nat) (v : Word) : writeXdyn i v (c.requeue h) = (writeXdyn i v c).requeue h := by simp [writeXdyn]
@[simp] theorem startDomain_requeue (d : Nat) : startDomain d (c.requeue h) = (startDomain d c).requeue h := by simp [startDomain]
@[simp] theorem writeAudCtl_requeue (v : Word) : writeAudCtl v (c.requeue h) = (writeAudCtl v c).requeue h := by simp [writeAudCtl]
@[simp] theorem writeSlipNext_requeue (d : Nat) (v : Word) : writeSlipNext d v (c.requeue h) = (writeSlipNext d v c).requeue h := by
  simp [writeSlipNext]
@[simp] theorem writeHmap_requeue (v : Word) : writeHmap v (c.requeue h) = (writeHmap v c).requeue h := by simp [writeHmap]
@[simp] theorem writeVcq_requeue (d : Nat) (v : Word) : writeVcq d v (c.requeue h) = (writeVcq d v c).requeue h := by simp [writeVcq]
@[simp] theorem readVend_requeue (peek : Bool) : readVend peek (c.requeue h) = ((readVend peek c).1,
  (readVend peek c).2.requeue h) := by
  simp only [readVend, Chip.aud_requeue]
  split <;> simp
@[simp] theorem readSnLo_requeue (o d : Nat) (peek : Bool) :
    readSnLo o d peek (c.requeue h) = ((readSnLo o d peek c).1, (readSnLo o d peek c).2.requeue h) := by simp [readSnLo]
@[simp] theorem writePort_requeue (key : Nat) (v : Word) : writePort key v (c.requeue h) = (writePort key v c).requeue h := by
  simp [writePort]
@[simp] theorem writeBridge_requeue (b : Nat) (v : Word) : writeBridge b v (c.requeue h) = (writeBridge b v c).requeue h := by
  simp [writeBridge]
@[simp] theorem hornReset_requeue (x : Nat) : hornReset x (c.requeue h) = (hornReset x c).requeue h := by simp [hornReset]

/-! ### What a served beat does: functions of Machine/Zow -/

@[simp] theorem Chip.modZow_requeue (f : Zow → Zow) : (c.requeue h).modZow f = (c.modZow f).requeue h := by simp [Chip.modZow]
@[simp] theorem zowEvt_requeue (n : Nat) : zowEvt n (c.requeue h) = (zowEvt n c).requeue h := by simp [zowEvt]
@[simp] theorem setZowState_requeue (n : Nat) : setZowState n (c.requeue h) = (setZowState n c).requeue h := by simp [setZowState]
@[simp] theorem linkDown_requeue (st : Nat) : linkDown st (c.requeue h) = (linkDown st c).requeue h := by simp [linkDown]
@[simp] theorem writeZowWin_requeue (w : Nat) (v : Word) : writeZowWin w v (c.requeue h) = (writeZowWin w v c).requeue h := by
  simp [writeZowWin]
@[simp] theorem writeZowCtl_requeue (v : Word) : writeZowCtl v (c.requeue h) = (writeZowCtl v c).requeue h := by simp [writeZowCtl]
@[simp] theorem markStale_requeue : markStale (c.requeue h) = (markStale c).requeue h := by simp [markStale]
@[simp] theorem zowStore_requeue (pa : Nat) (b : List Byte) : zowStore pa b (c.requeue h) = (zowStore pa b c).requeue h := by
  simp [zowStore]
@[simp] theorem writeSnapshot_requeue (x : Snap) : writeSnapshot x (c.requeue h) = (writeSnapshot x c).requeue h := by simp [writeSnapshot]
@[simp] theorem writeSnapPost_requeue (v : Word) : writeSnapPost v (c.requeue h) = (writeSnapPost v c).requeue h := by simp [writeSnapPost]
@[simp] theorem zowCmd_requeue (ok : Bool) (f : Chip → Chip) (hf : ∀ c, f (c.requeue h) = (f c).requeue h) :
    zowCmd ok f (c.requeue h) = (zowCmd ok f c).requeue h := by simp [zowCmd, hf]
@[simp] theorem bulkGo_requeue : bulkGo (c.requeue h) = (bulkGo c).requeue h := by simp [bulkGo]
@[simp] theorem handover_requeue : handover (c.requeue h) = (handover c).requeue h := by simp [handover]
@[simp] theorem detach_requeue : detach (c.requeue h) = (detach c).requeue h := by simp [detach]
@[simp] theorem treset_requeue : treset (c.requeue h) = (treset c).requeue h := by simp [treset]
@[simp] theorem seedState_requeue : seedState (c.requeue h) = (seedState c).requeue h := by simp [seedState]
@[simp] theorem seedLead_requeue : seedLead (c.requeue h) = (seedLead c).requeue h := by simp [seedLead]
@[simp] theorem clearDiv_requeue : clearDiv (c.requeue h) = (clearDiv c).requeue h := by simp [clearDiv]
@[simp] theorem writeZowCmd_requeue (v : Word) : writeZowCmd v (c.requeue h) = (writeZowCmd v c).requeue h := by simp [writeZowCmd]
@[simp] theorem zowUnitReset_requeue : zowUnitReset (c.requeue h) = (zowUnitReset c).requeue h := by simp [zowUnitReset]

/-! ### What a served beat does: functions of Machine/Units -/

@[simp] theorem unitsBefore_requeue (cls : Nat) : unitsBefore cls (c.requeue h) = (unitsBefore cls c).requeue h := by simp [unitsBefore]
@[simp] theorem unitsAfter_requeue (cls : Nat) : unitsAfter cls (c.requeue h) = (unitsAfter cls c).requeue h := by simp [unitsAfter]
@[simp] theorem stopCore_requeue (k : Nat) : stopCore k (c.requeue h) = (stopCore k c).requeue h := by simp [stopCore]
@[simp] theorem composerReset_requeue (s : Nat) : composerReset s (c.requeue h) = (composerReset s c).requeue h := by simp [composerReset]
@[simp] theorem storReset_requeue : storReset (c.requeue h) = (storReset c).requeue h := by simp [storReset]
@[simp] theorem blockReset_requeue (b : Nat) : blockReset b (c.requeue h) = (blockReset b c).requeue h := by
  unfold blockReset
  (repeat' split) <;> simp
@[simp] theorem unitReset_requeue (u : Nat) : unitReset u (c.requeue h) = (unitReset u c).requeue h := by
  unfold unitReset
  cases domainCore u <;> simp

/-! ### What a served beat does: functions of Machine/Watchdog -/

@[simp] theorem wdtCheckWarn_requeue (w : Nat) : wdtCheckWarn w (c.requeue h) = (wdtCheckWarn w c).requeue h := by simp [wdtCheckWarn]
@[simp] theorem wdtRecheck_requeue (w : Nat) : wdtRecheck w (c.requeue h) = (wdtRecheck w c).requeue h := by simp [wdtRecheck]
@[simp] theorem wdtLoad_requeue (w : Nat) : wdtLoad w (c.requeue h) = (wdtLoad w c).requeue h := by simp [wdtLoad]
@[simp] theorem startWatchdog0_requeue : startWatchdog0 (c.requeue h) = (startWatchdog0 c).requeue h := by simp [startWatchdog0]

/-! ### What a served beat does: functions of Machine/Power -/

@[simp] theorem Chip.accum_requeue (cls : Nat) : (c.requeue h).accum cls = (c.accum cls).requeue h := by simp [Chip.accum]
@[simp] theorem Chip.wipeMain_requeue : (c.requeue h).wipeMain = (c.wipeMain).requeue h := by simp [Chip.wipeMain]
@[simp] theorem Chip.applyProfile_requeue (cls : Nat) : (c.requeue h).applyProfile cls = (c.applyProfile cls).requeue h := by
  simp [Chip.applyProfile]
@[simp] theorem Chip.dramAfterReset_requeue (before : Word) (top : Nat) (training : Bool) :
    (c.requeue h).dramAfterReset before top training = (c.dramAfterReset before top training).requeue h := by simp [Chip.dramAfterReset]
@[simp] theorem doReset_requeue (cls source : Nat) : doReset cls source (c.requeue h) = (doReset cls source c).requeue h := by
  simp only [doReset, unitsBefore_requeue, Chip.reg_requeue, Chip.f_requeue, Chip.memc_requeue, MemCtl.training_requeue,
    Chip.loseCaches_requeue, ite_requeue, Chip.comesOn_requeue, Chip.loadReplicas_requeue]
  generalize Chip.loadReplicas _ _ = d
  simp only [Chip.count_requeue, Chip.refclk_requeue, Chip.nowHi_requeue, Chip.replicas_requeue, Chip.mem_requeue,
    Chip.poison_requeue, Chip.flips_requeue, Chip.regs_requeue, Chip.cores_requeue, Chip.power_requeue,
    Chip.dayb_requeue, Chip.pm_requeue, Chip.hosts_requeue, Chip.dbgPort_requeue, Chip.zow_requeue, Chip.answer_requeue,
    Chip.icu_requeue, Chip.tmr_requeue, Chip.wdt_requeue, Chip.pins_requeue, Chip.disp_requeue, Chip.fu_requeue,
    Chip.press_requeue, Chip.dma_requeue, Chip.aud_requeue, Chip.free_requeue, MemCtl.dlt_requeue, MemCtl.valid_requeue,
    MemCtl.filled_requeue, MemCtl.hard_requeue, MemCtl.cache_requeue, MemCtl.cand_requeue, MemCtl.retired_requeue,
    MemCtl.failedCh_requeue]
  generalize hK : ({ d with regs := _, cores := _, memc := _, power := _ } : Chip) = K
  have hw : K.requeue h = K := Chip.requeue_of_waiting_nil h (by rw [← hK])
  conv_lhs => rw [← hw]
  clear hK hw
  simp only [Chip.wipeMain_requeue, Chip.setF_requeue, Chip.dramAfterReset_requeue, ite_requeue, unitsAfter_requeue,
    Chip.applyProfile_requeue]
  generalize Chip.applyProfile _ _ = e
  simp only [Chip.f_requeue, Chip.modFu_requeue, ite_requeue, Chip.setF_requeue, Chip.accum_requeue]
  generalize Chip.accum _ _ = g
  simp
@[simp] theorem bootStart_requeue (cls : Nat) : bootStart cls (c.requeue h) = (bootStart cls c).requeue h := by simp [bootStart]
@[simp] theorem causeReset_requeue (cls source : Nat) : causeReset cls source (c.requeue h) = (causeReset cls source c).requeue h := by
  simp only [causeReset, Chip.power_requeue]
  split <;> simp
@[simp] theorem writeSysReset_requeue (v : Word) : writeSysReset v (c.requeue h) = (writeSysReset v c).requeue h := by simp [writeSysReset]
@[simp] theorem writeSysUrst_requeue (v : Word) : writeSysUrst v (c.requeue h) = (writeSysUrst v c).requeue h := by simp [writeSysUrst]
@[simp] theorem releaseCores_requeue (key base n : Nat) (v : Word) :
    releaseCores key base n v (c.requeue h) = (releaseCores key base n v c).requeue h := by simp [releaseCores]
@[simp] theorem writeSysRun_requeue (hi : Bool) (v : Word) : writeSysRun hi v (c.requeue h) = (writeSysRun hi v c).requeue h := by
  simp [writeSysRun]
@[simp] theorem Chip.setDomain_requeue (d : Nat) (x : Domain) : (c.requeue h).setDomain d x = (c.setDomain d x).requeue h := by
  simp [Chip.setDomain]
@[simp] theorem Chip.wipeDomain_requeue (d : Nat) : (c.requeue h).wipeDomain d = (c.wipeDomain d).requeue h := by simp [Chip.wipeDomain]
@[simp] theorem Chip.loseDomain_requeue (d : Nat) : (c.requeue h).loseDomain d = (c.loseDomain d).requeue h := by simp [Chip.loseDomain]
@[simp] theorem domainOn_requeue (d : Nat) : domainOn d (c.requeue h) = (domainOn d c).requeue h := by simp [domainOn]
@[simp] theorem pdChange_requeue (d : Nat) (ok : Bool) (f : Chip → Chip) (hf : ∀ c, f (c.requeue h) = (f c).requeue h) :
    pdChange d ok f (c.requeue h) = (pdChange d ok f c).requeue h := by simp [pdChange, hf]
@[simp] theorem writePdCtl_requeue (v : Word) : writePdCtl v (c.requeue h) = (writePdCtl v c).requeue h := by simp [writePdCtl]
@[simp] theorem writeFuseCmd_requeue (v : Word) : writeFuseCmd v (c.requeue h) = (writeFuseCmd v c).requeue h := by
  simp only [writeFuseCmd, Chip.setF_requeue, Chip.fb_requeue, fuseRefusal_requeue]
  (repeat' split) <;> simp
@[simp] theorem writeExpert_requeue (v : Word) : writeExpert v (c.requeue h) = (writeExpert v c).requeue h := by simp [writeExpert]
@[simp] theorem writeBoot_requeue (v : Word) : writeBoot v (c.requeue h) = (writeBoot v c).requeue h := by simp [writeBoot]

/-! ### What a served beat does: functions of Machine/WdtCommands -/

@[simp] theorem wdtExpire_requeue (w : Nat) : wdtExpire w (c.requeue h) = (wdtExpire w c).requeue h := by simp [wdtExpire]
@[simp] theorem writeWdtCtl_requeue (w : Nat) (v : Word) : writeWdtCtl w v (c.requeue h) = (writeWdtCtl w v c).requeue h := by
  simp [writeWdtCtl]
@[simp] theorem writeWdtLocked_requeue (w key : Nat) (v : Word) :
    writeWdtLocked w key v (c.requeue h) = (writeWdtLocked w key v c).requeue h := by simp [writeWdtLocked]
@[simp] theorem writeWdtKick_requeue (o w : Nat) (v : Word) : writeWdtKick o w v (c.requeue h) = (writeWdtKick o w v c).requeue h := by
  simp [writeWdtKick]

/-! ### What a served beat does: functions of Machine/Regs -/

@[simp] theorem only_requeue (w : Word) : only (c.requeue h) w = ((only c w).1, (only c w).2.requeue h) := by simp [only]
@[simp] theorem readLow_requeue (o : Nat) (peek : Bool) (k : Nat) :
    readLow o peek k (c.requeue h) = ((readLow o peek k c).1, (readLow o peek k c).2.requeue h) := by
  unfold readLow
  repeat refine ite_pair_requeue h (by simp) ?_
  split
  · simp
  · refine ite_pair_requeue h ?_ (by simp)
    simp only []
    split <;> simp
@[simp] theorem readMid_requeue (peek : Bool) (k : Nat) :
    readMid peek k (c.requeue h) = ((readMid peek k c).1, (readMid peek k c).2.requeue h) := by
  simp only [readMid, Chip.coefIndex_requeue]
  (repeat' split) <;> simp
@[simp] theorem readSound_requeue (o : Nat) (peek : Bool) (k : Nat) :
    readSound o peek k (c.requeue h) = ((readSound o peek k c).1, (readSound o peek k c).2.requeue h) := by
  simp only [readSound, Chip.f_requeue]
  (repeat' split) <;> simp
@[simp] theorem readHigh_requeue (o : Nat) (peek : Bool) (k : Nat) :
    readHigh o peek k (c.requeue h) = ((readHigh o peek k c).1, (readHigh o peek k c).2.requeue h) := by
  unfold readHigh
  repeat refine ite_pair_requeue h (by simp) ?_
  split <;> simp
@[simp] theorem readReg_requeue (o : Nat) (peek : Bool) (k : Nat) :
    readReg o peek k (c.requeue h) = ((readReg o peek k c).1, (readReg o peek k c).2.requeue h) := by
  unfold readReg
  exact ite_pair_requeue h (by simp) (ite_pair_requeue h (by simp) (ite_pair_requeue h (by simp) (by simp)))
@[simp] theorem plainWrite_requeue (k : Nat) (v : Word) : plainWrite k v (c.requeue h) = (plainWrite k v c).requeue h := by
  simp [plainWrite]
@[simp] theorem writeLow_requeue (o k : Nat) (v : Word) : writeLow o k v (c.requeue h) = (writeLow o k v c).requeue h := by
  simp only [writeLow, apply_ite (Chip.requeue · h), writeSysReset_requeue, writeExpert_requeue, writeBoot_requeue,
    writePdCtl_requeue, writeSysUrst_requeue, writeSysRun_requeue, writeFuseCmd_requeue, writeIcuCfg_requeue, writeEoi_requeue,
    writeIcuSwi_requeue, writeIcuSset_requeue, writeXgstart_requeue]
  repeat refine if_congr Iff.rfl rfl ?_
  (repeat' split) <;> simp
@[simp] theorem writeOut_requeue (o k : Nat) (v : Word) : writeOut o k v (c.requeue h) = (writeOut o k v c).requeue h := by
  unfold writeOut
  split <;> simp
@[simp] theorem writeMid_requeue (o k : Nat) (v : Word) : writeMid o k v (c.requeue h) = (writeMid o k v c).requeue h := by
  simp only [writeMid, apply_ite (Chip.requeue · h), writeDmaGo_requeue, writeDmaAbort_requeue, writeDmaEnable_requeue,
    writePressCtl_requeue, writeDltEntry_requeue, writeDramcConfig_requeue, writeRetire_requeue, Chip.coefIndex_requeue]
  repeat refine if_congr Iff.rfl rfl ?_
  (repeat' split) <;> simp
@[simp] theorem writeSound_requeue (k : Nat) (v : Word) : writeSound k v (c.requeue h) = (writeSound k v c).requeue h := by
  simp only [writeSound, apply_ite (Chip.requeue · h), writeAudCtl_requeue, writeHmap_requeue, writeDyn_requeue, writeXdyn_requeue,
    writePort_requeue]
  repeat refine if_congr Iff.rfl rfl ?_
  split <;> simp
@[simp] theorem requestHalt_requeue (k : Nat) : requestHalt k (c.requeue h) = (requestHalt k c).requeue h := by simp [requestHalt]
@[simp] theorem writeHalt_requeue (hi : Bool) (v : Word) : writeHalt hi v (c.requeue h) = (writeHalt hi v c).requeue h := by
  simp [writeHalt]
@[simp] theorem writeResume_requeue (hi : Bool) (v : Word) : writeResume hi v (c.requeue h) = (writeResume hi v c).requeue h := by
  simp [writeResume]
@[simp] theorem writeStep_requeue (v : Word) : writeStep v (c.requeue h) = (writeStep v c).requeue h := by simp [writeStep]
@[simp] theorem writeDbg_requeue (o k : Nat) (v : Word) : writeDbg o k v (c.requeue h) = (writeDbg o k v c).requeue h := by simp [writeDbg]
@[simp] theorem writeHigh_requeue (o k : Nat) (v : Word) : writeHigh o k v (c.requeue h) = (writeHigh o k v c).requeue h := by
  simp only [writeHigh, apply_ite (Chip.requeue · h), writePcieCtl_requeue, writeStorCtl_requeue, writeBlkCnt_requeue,
    writeQcmd_requeue, writeQdata_requeue, writeZowCtl_requeue, writeZowCmd_requeue, writeSnapPost_requeue, writePoboxSel_requeue,
    writePoboxCmd_requeue, writeXforce_requeue, writeXinj_requeue, writeSwgo_requeue, writeSensEvt_requeue, writeDbg_requeue]
  repeat refine if_congr Iff.rfl rfl ?_
  split <;> simp
@[simp] theorem writeReg_requeue (o k : Nat) (v : Word) : writeReg o k v (c.requeue h) = (writeReg o k v c).requeue h := by simp [writeReg]
@[simp] theorem readFuReg_requeue (k : Nat) : readFuReg k (c.requeue h) = ((readFuReg k c).1, (readFuReg k c).2.requeue h) := by
  simp only [readFuReg, readFuUsec_requeue]
  (repeat' split) <;> simp
@[simp] theorem writeFuReg_requeue (k : Nat) (v : Word) : writeFuReg k v (c.requeue h) = (writeFuReg k v c).requeue h := by
  simp [writeFuReg]

/-! ### What a served beat does: functions of Machine/Bus -/

@[simp] theorem busError_requeue : busError (c.requeue h) = (busError c).requeue h := by simp [busError]
@[simp] theorem memLoad_requeue (r : Region) (pa n : Nat) : memLoad r pa n (c.requeue h) = (memLoad r pa n c).requeue h := by simp [memLoad]
@[simp] theorem windowLoad_requeue (n : Nat) : windowLoad n (c.requeue h) = (windowLoad n c).requeue h := by
  simp only [windowLoad, Chip.freeBits_requeue]
  (repeat' split) <;> simp
@[simp] theorem busLoad_requeue (o : Nat) (peek : Bool) (pa n : Nat) :
    busLoad o peek pa n (c.requeue h) = (busLoad o peek pa n c).requeue h := by
  simp only [busLoad, Chip.region_requeue, Chip.reachable_requeue, fuseByte_requeue, Chip.le_requeue, Chip.anyPoison_requeue,
    busError_requeue, readReg_requeue, readFuReg_requeue, Chip.freeBits_requeue, windowLoad_requeue, memLoad_requeue]
  (repeat' split) <;> rfl
@[simp] theorem burnSealWord_requeue (i : Nat) (bs : List Byte) : burnSealWord i bs (c.requeue h) = (burnSealWord i bs c).requeue h := by
  simp [burnSealWord]
@[simp] theorem busStore_requeue (o pa : Nat) (bs : List Byte) :
    busStore o pa bs (c.requeue h) = ((busStore o pa bs c).1, (busStore o pa bs c).2.requeue h) := by
  simp only [busStore, Chip.region_requeue, Chip.reachable_requeue, Chip.deadDram_requeue, writeReg_requeue, writeFuReg_requeue,
    burnSealWord_requeue, Chip.memStore_requeue, Chip.storeChunks_requeue]
  (repeat' split) <;> rfl

/-! ### What a served beat does: functions of Machine/Arbiter -/

@[simp] theorem Chip.serve_requeue (r : BusReq) : (c.requeue h).serve r = (c.serve r).requeue h := by
  simp only [Chip.serve, Chip.dramTop_requeue, Chip.openRowOf_requeue]
  cases mainRegion c.dramTop r.pa
  all_goals
    simp only [busStore_requeue, busLoad_requeue]
    generalize busStore r.origin r.pa r.bytes _ = p
    rcases p with ⟨_ | _, e⟩ <;> simp

end Sys2Proof.Machine
end

section
/-! O40.  The arbiters: the queue, the choice of the oldest request, the grant of a beat and its cut-off (R190 to R202). -/
namespace Sys2Proof.Machine

/-! ### Queues and grants -/

@[simp] theorem Chip.waitingAt_setWaiting (c : Chip) (arb : Nat) (q : List BusReq) : (c.setWaiting arb q).waitingAt arb = q :=
  sget_sset_same _ _ _
@[simp] theorem Chip.grantAt_setWaiting (c : Chip) (arb a : Nat) (q : List BusReq) : (c.setWaiting arb q).grantAt a = c.grantAt a := rfl
@[simp] theorem Chip.grantAt_setGrant (c : Chip) (arb : Nat) (g : Option Grant) : (c.setGrant arb g).grantAt arb = g :=
  sget_sset_same _ _ _
@[simp] theorem Chip.waitingAt_setGrant (c : Chip) (arb a : Nat) (g : Option Grant) : (c.setGrant arb g).waitingAt a = c.waitingAt a := rfl
@[simp] theorem Chip.mem_setGrant (c : Chip) (arb : Nat) (g : Option Grant) : (c.setGrant arb g).mem = c.mem := rfl
@[simp] theorem Chip.mem_setWaiting (c : Chip) (arb : Nat) (q : List BusReq) : (c.setWaiting arb q).mem = c.mem := rfl
theorem Chip.fb_setWaiting (c : Chip) (arb : Nat) (q : List BusReq) (x : Fld) : (c.setWaiting arb q).fb x = c.fb x := rfl
theorem Chip.servable_setWaiting (c : Chip) (arb : Nat) (q : List BusReq) : (c.setWaiting arb q).servable = c.servable := rfl

theorem Chip.waitingAt_congr {c d : Chip} (h : d.memc.waiting = c.memc.waiting) (arb : Nat) : d.waitingAt arb = c.waitingAt arb := by
  unfold Chip.waitingAt
  rw [h]
theorem Chip.grantAt_congr {c d : Chip} (h : d.memc.grant = c.memc.grant) (arb : Nat) : d.grantAt arb = c.grantAt arb := by
  unfold Chip.grantAt
  rw [h]

/-! ### The oldest request (R34) -/

theorem older_iff (a b : BusReq) : older a b = true ↔ a.postmark < b.postmark ∨ (a.postmark = b.postmark ∧ a.origin < b.origin) := by
  simp [older]

theorem oldest_mem {q : List BusReq} {m : BusReq} (h : oldest q = some m) : m ∈ q := by
  induction q with
  | nil => cases h
  | cons x t ih =>
    unfold oldest at h
    split at h
    · simp_all
    · split at h <;> simp_all

theorem oldest_eq_none {q : List BusReq} (h : oldest q = none) : q = [] := by
  cases q with
  | nil => rfl
  | cons x t =>
    unfold oldest at h
    split at h
    · cases h
    · split at h <;> cases h

/-- A request that is older than every other one is the oldest. -/
theorem oldest_eq_some {q : List BusReq} {r : BusReq} (hr : r ∈ q) (h : ∀ r' ∈ q, r' = r ∨ older r r' = true) : oldest q = some r := by
  have hirr : ∀ a b : BusReq, older a b = true → older b a = false := by
    intro a b hab
    rw [older_iff] at hab
    rw [← Bool.not_eq_true, older_iff]
    omega
  induction q with
  | nil => cases hr
  | cons x t ih =>
    have hx := h x List.mem_cons_self
    have ht : ∀ r' ∈ t, r' = r ∨ older r r' = true := fun r' hr' => h r' (List.mem_cons_of_mem _ hr')
    unfold oldest
    by_cases hrt : r ∈ t
    · rw [ih hrt ht]
      rcases hx with rfl | hx
      · simp
      · simp [hx]
    · have hxr : x = r := ((List.mem_cons.mp hr).resolve_right hrt).symm
      subst hxr
      cases hm : oldest t with
      | none => rfl
      | some m =>
        have hmt := oldest_mem hm
        have hmr : older m x = false := hirr _ _ ((ht m hmt).resolve_left fun e => hrt (e ▸ hmt))
        simp [hmr]

/-! ### The steps of a grant -/

/-- The request chosen from those that can be served is granted. -/
def grantChosen (arb : Nat) (hard : Bool) (c : Chip) : Chip :=
  match c.choose arb ((c.waitingAt arb).filter (c.servable arb)) with
  | none => c
  | some r => grantBeat arb r ⟨0, 0⟩ hard c

theorem exec_arbiterGrant (arb : Fin 256) (reqs : List BusReq) (hard : Bool) (s : State) :
    exec (.arbiterGrant arb reqs ⟨0, 0⟩ hard none) s =
      .next (s.at (grantChosen arb hard (endRun arb (beatBoundary arb (joinQueue arb reqs s.chip))))) := rfl

theorem takesReq_assigned {c : Chip} {arb : Nat} {r : BusReq} (h : c.takesReq arb r = true) :
    mainRegion c.dramTop r.pa ≠ .unassigned := by
  intro hr
  simp [Chip.takesReq, Chip.arbitersOf, hr, memRegion] at h

theorem forAll_fixed {α : Type} {l : List α} {f : α → Chip → Chip} {c : Chip} (h : ∀ a ∈ l, f a c = c) : forAll l f c = c := by
  induction l with
  | nil => rfl
  | cons a t ih =>
    have ha : f a c = c := h a List.mem_cons_self
    exact (congrArg (forAll t f) ha).trans (ih fun b hb => h b (List.mem_cons_of_mem _ hb))

/-- Requests that the arbiter takes join its queue, and nothing else happens. -/
theorem joinQueue_of_takesReq {c : Chip} {arb : Nat} {reqs : List BusReq} (h : ∀ x ∈ reqs, c.takesReq arb x = true) :
    joinQueue arb reqs c = c.setWaiting arb (c.waitingAt arb ++ reqs) := by
  unfold joinQueue
  rw [List.filter_eq_self.mpr h]
  refine forAll_fixed fun r hr => ?_
  have hregion : mainRegion (c.setWaiting arb (c.waitingAt arb ++ reqs)).dramTop r.pa ≠ .unassigned := takesReq_assigned (h r hr)
  simp [hregion]

theorem beatBoundary_of_idle {c : Chip} {arb : Nat} (h : c.grantAt arb = none) : beatBoundary arb c = c := by
  simp only [beatBoundary, h]

theorem endRun_of_idle {c : Chip} {arb : Nat} (h : c.grantAt arb = none) : endRun arb c = c := by
  simp only [endRun, h]

theorem emergencyReq_nil (c : Chip) : c.emergencyReq [] = none := by
  simp [Chip.emergencyReq, oldest]

/-- With no emergency and no grant in progress the oldest request is chosen (R190). -/
theorem choose_oldest {c : Chip} {arb : Nat} (q : List BusReq) (he : c.fb MEM_CTL_EMERG = false) (hg : c.grantAt arb = none) :
    c.choose arb q = oldest q := by
  simp [Chip.choose, Chip.emergencyReq, he, hg]

theorem choose_nil {c : Chip} {arb : Nat} (hg : c.grantAt arb = none) : c.choose arb [] = none := by
  simp [Chip.choose, emergencyReq_nil, hg, oldest]

/-- The port's cycle is counted in its owner alone. -/
theorem portCost_keeps {α : Type} {p : Chip → α} (hk : ∀ (c : Chip) k f, p (c.modCore k f) = p c) (arb : Nat) (c : Chip) :
    p (portCost arb c) = p c := by
  unfold portCost
  split
  · split
    · exact hk c _ _
    · rfl
  · rfl

/-- The chip on which the beat of `r` begins: `r` waits no longer, and its port's cycle is counted. -/
def Chip.beginBeat (c : Chip) (arb : Nat) (r : BusReq) : Chip := portCost arb (c.setWaiting arb ((c.waitingAt arb).erase r))

theorem beginBeat_keeps {α : Type} {p : Chip → α} (hk : ∀ (c : Chip) k f, p (c.modCore k f) = p c)
    (hw : ∀ (c : Chip) arb q, p (c.setWaiting arb q) = p c) (c : Chip) (arb : Nat) (r : BusReq) : p (c.beginBeat arb r) = p c :=
  (portCost_keeps hk arb _).trans (hw c _ _)

theorem Chip.waitingAt_beginBeat (c : Chip) (arb : Nat) (r : BusReq) : (c.beginBeat arb r).waitingAt arb = (c.waitingAt arb).erase r :=
  (portCost_keeps (p := fun c => c.waitingAt arb) (fun _ _ _ => rfl) arb _).trans (Chip.waitingAt_setWaiting _ _ _)

theorem grantBeat_cuttable {c : Chip} {arb : Nat} {r : BusReq} (hard : Bool) (h : cuttable r.origin = true) :
    ∃ beats row, grantBeat arb r ⟨0, 0⟩ hard c = (c.beginBeat arb r).setGrant arb (some ⟨r.origin, beats, row, some r, hard⟩) := by
  simp only [grantBeat, Chip.meets, if_pos, h]
  exact ⟨_, _, rfl⟩

theorem grantBeat_served {c : Chip} {arb : Nat} {r : BusReq} (hard : Bool) (h : cuttable r.origin = false) :
    grantBeat arb r ⟨0, 0⟩ hard c = (c.beginBeat arb r).serve r := by
  simp [grantBeat, Chip.meets, h, Chip.beginBeat]

/-- With no emergency and no grant in progress, a grant is that of the oldest request to the chip where all of them wait. -/
theorem arbiterGrant_oldest {arb : Fin 256} {reqs : List BusReq} {hard : Bool} {s : State} {r : BusReq}
    (he : s.chip.fb MEM_CTL_EMERG = false) (hg : s.chip.grantAt arb = none) (ht : ∀ x ∈ reqs, s.chip.takesReq arb x = true)
    (hs : ∀ x ∈ s.chip.waitingAt arb ++ reqs, s.chip.servable arb x = true) (hr : r ∈ s.chip.waitingAt arb ++ reqs)
    (ho : ∀ r' ∈ s.chip.waitingAt arb ++ reqs, r' = r ∨ r.postmark < r'.postmark ∨ (r.postmark = r'.postmark ∧ r.origin < r'.origin)) :
    exec (.arbiterGrant arb reqs ⟨0, 0⟩ hard none) s =
      .next (s.at (grantBeat arb r ⟨0, 0⟩ hard (s.chip.setWaiting arb (s.chip.waitingAt arb ++ reqs)))) := by
  have hold : oldest (s.chip.waitingAt arb ++ reqs) = some r :=
    oldest_eq_some hr fun r' h' => (ho r' h').imp_right (older_iff r r').mpr
  rw [exec_arbiterGrant, joinQueue_of_takesReq ht]
  generalize hd : s.chip.setWaiting arb (s.chip.waitingAt arb ++ reqs) = d
  have hdg : d.grantAt arb = none := hd ▸ hg
  have hde : d.fb MEM_CTL_EMERG = false := hd ▸ he
  have hdq : (d.waitingAt arb).filter (d.servable arb) = s.chip.waitingAt arb ++ reqs := by
    rw [← hd, Chip.waitingAt_setWaiting, Chip.servable_setWaiting, List.filter_eq_self.mpr hs]
  rw [beatBoundary_of_idle hdg, endRun_of_idle hdg]
  simp only [grantChosen, hdq, choose_oldest _ hde hdg, hold]

/-! ### A word stored in the pattern store -/

theorem putBytes_placed (bs : List Byte) (c : Chip) (pa : Nat) : c.putBytes (placed pa bs) = c.setBytes pa bs := by
  induction bs generalizing c pa with
  | nil => rfl
  | cons b t ih => exact ih (c.setByte pa b) (pa + 1)

theorem length_placed (bs : List Byte) (pa : Nat) : (placed pa bs).length = bs.length := by
  induction bs generalizing pa with
  | nil => rfl
  | cons b t ih => simp [placed, ih]

theorem Chip.byte_setBytes (bs : List Byte) (c : Chip) (pa a : Nat) :
    (c.setBytes pa bs).byte a = if pa ≤ a ∧ a < pa + bs.length then bs.getD (a - pa) 0 else c.byte a := by
  induction bs generalizing c pa with
  | nil => exact (if_neg (by simp only [List.length_nil]; omega)).symm
  | cons b t ih =>
    refine (ih (c.setByte pa b) (pa + 1)).trans ?_
    rw [List.length_cons]
    obtain rfl | hne := eq_or_ne a pa
    · rw [if_neg (by omega), if_pos (by omega), Chip.byte_setByte_same, Nat.sub_self]
      rfl
    · rw [Chip.byte_setByte_other _ _ hne]
      by_cases hin : pa + 1 ≤ a ∧ a < pa + 1 + t.length
      · rw [if_pos hin, if_pos (by omega), show a - pa = a - (pa + 1) + 1 by omega]
        rfl
      · rw [if_neg hin, if_neg (by omega)]

/-- The whole aligned word stored (R164): fresh check bits, then its bytes. -/
theorem memStore_pattern_word {pa : Nat} {bs : List Byte} (ha : pa % 4 = 0) (hl : bs.length = 4) (c : Chip) :
    c.memStore .pattern pa bs = c.storeWord .pattern pa (placed pa bs) := by
  have hkey : eccKey .pattern pa = pa := by simp [eccKey, eccWidth, ha]
  have hchunk : c.storeChunks .pattern 4 pa bs = (c.storeIn .pattern pa (placed pa (bs.take 4))).storeChunks .pattern 3 (pa + 4) (bs.drop 4) := by
    cases bs with
    | nil => cases hl
    | cons b t => simp [Chip.storeChunks, Chip.storeWidth, eccWidth, ha]
  have hin : c.storeIn .pattern pa (placed pa bs) = c.storeWord .pattern (eccKey .pattern pa) (placed pa bs) := rfl
  have hmem : c.memStore .pattern pa bs = c.storeChunks .pattern bs.length pa bs := rfl
  rw [hmem, hl, hchunk, List.take_of_length_le hl.le, List.drop_of_length_le hl.le, hin, hkey]
  rfl

theorem MemBlind.storeWord_pattern {α : Type} {p : Chip → α} (h : MemBlind p) (hk : ∀ (c : Chip) x, p { c with cores := x } = p c)
    {l : List (Nat × Byte)} (hl : l.length = 4) (k : Nat) (c : Chip) : p (c.storeWord .pattern k l) = p c := by
  have hw : l.length = eccWidth .pattern := hl
  unfold Chip.storeWord
  rw [if_pos hw]
  exact (hk _ _).trans ((h.plant _ _ _).trans ((h.putBytes _ _).trans (h.freshWord c _ _)))

theorem mem_storeWord_pattern {l : List (Nat × Byte)} (hl : l.length = 4) (k : Nat) (c : Chip) :
    (c.storeWord .pattern k l).mem = ((c.freshWord .pattern k).putBytes l).mem := by
  have hw : l.length = eccWidth .pattern := hl
  unfold Chip.storeWord
  rw [if_pos hw]
  exact Chip.plant_mem _ _ _

theorem memBlind_waiting : MemBlind (fun c => c.memc.waiting) :=
  ⟨fun _ _ _ => rfl, fun _ _ => rfl, fun _ _ => rfl, fun _ _ => rfl, fun _ _ => rfl, fun _ _ => rfl, fun _ _ => rfl, fun _ _ h _ => h⟩
theorem memBlind_grant : MemBlind (fun c => c.memc.grant) :=
  ⟨fun _ _ _ => rfl, fun _ _ => rfl, fun _ _ => rfl, fun _ _ => rfl, fun _ _ => rfl, fun _ _ => rfl, fun _ _ => rfl, fun _ _ _ h => h⟩

theorem serve_pattern {c : Chip} {r : BusReq} (hw : r.write = true) (hp : mainRegion c.dramTop r.pa = .pattern) (ho : r.origin < 62)
    (hr : c.reachable r.origin r.pa .pattern = true) : c.serve r = c.memStore .pattern r.pa r.bytes := by
  have hreg : c.region r.origin r.pa = .pattern := by
    unfold Chip.region
    rw [if_neg (by omega), if_neg (by omega), hp]
  have hstore : busStore r.origin r.pa r.bytes c = (false, c.memStore .pattern r.pa r.bytes) := by
    simp [busStore, hreg, hr]
  simp only [Chip.serve, hp, hw, hstore, if_pos]

/-! ### A grant in progress completes -/

/-- The queue of arbiter `arb` emptied. -/
def dropQueue (arb : Nat) : Requeue where
  map w := sset (fun _ => []) w arb []
  map_nil := rfl

/-- A served beat reads no queue: it does the same where the queue of an arbiter is emptied first. -/
theorem serve_setWaiting_nil (c : Chip) (arb : Nat) (r : BusReq) : (c.setWaiting arb []).serve r = (c.serve r).setWaiting arb [] :=
  Chip.serve_requeue (dropQueue arb) c r

/-- With no request waiting, the beat in transfer completes at the beat boundary (R192). -/
theorem beatBoundary_completes {c : Chip} {arb : Nat} {g : Grant} {r : BusReq} (hg : c.grantAt arb = some g) (hr : g.cur = some r)
    (hw : c.waitingAt arb = []) : ∃ g', beatBoundary arb c = (c.serve r).setGrant arb g' := by
  simp only [beatBoundary, completeBeat, hg, hr, hw, emergencyReq_nil]
  exact ⟨_, rfl⟩

/-- With no request waiting, no run goes on (R195). -/
theorem endRun_of_queue_empty {c : Chip} {arb : Nat} (hw : c.waitingAt arb = []) :
    (endRun arb c).grantAt arb = none ∧ (endRun arb c).waitingAt arb = [] ∧ (endRun arb c).mem = c.mem := by
  cases hg : c.grantAt arb with
  | none => rw [endRun_of_idle hg]; exact ⟨hg, hw, rfl⟩
  | some g =>
    have hend : endRun arb c = c.setGrant arb none := by simp [endRun, hg, hw]
    rw [hend]
    exact ⟨Chip.grantAt_setGrant _ _ _, hw, rfl⟩

theorem grantChosen_of_queue_empty {c : Chip} {arb : Nat} (hard : Bool) (hg : c.grantAt arb = none) (hw : c.waitingAt arb = []) :
    grantChosen arb hard c = c := by
  simp only [grantChosen, hw, List.filter_nil, choose_nil hg]

/-! ### The hog cut-off (R200 to R202) -/

/-- What `p` reads is none of what the Press and a DMA channel change when their beat is cut off. -/
structure CutBlind {α : Type} (p : Chip → α) : Prop where
  reg : ∀ (c : Chip) k w, k / 0x1000 ≠ 9 → p (c.setReg k w) = p c
  press : ∀ (c : Chip) x, p { c with press := x } = p c
  dma : ∀ (c : Chip) x, p { c with dma := x } = p c

namespace CutBlind
variable {α : Type} {p : Chip → α} (h : CutBlind p)
include h

theorem endList (result cause : Nat) (c : Chip) : p (endList result cause c) = p c :=
  (h.press _ _).trans ((h.reg _ _ _ (by decide)).trans ((h.reg _ _ _ (by decide)).trans ((h.reg _ _ _ (by decide)).trans
    (h.reg c _ _ (by decide)))))

theorem stopList (result cause : Nat) (c : Chip) : p (stopList result cause c) = p c := by
  unfold Machine.stopList
  dsimp only
  split
  · exact (h.endList _ _ _).trans (h.press c _)
  · exact (h.reg _ _ _ (by decide)).trans (h.press c _)

theorem chunkFails (x : PressChunk) (cause : Nat) (c : Chip) : p (chunkFails x cause c) = p c := by
  unfold Machine.chunkFails
  dsimp only
  split
  · split
    · exact (h.endList _ _ _).trans (h.press c _)
    · exact h.press c _
  · exact (h.stopList _ _ _).trans ((h.reg _ _ _ (by decide)).trans (h.press c _))

theorem pressCut (pa : Nat) (write emergency : Bool) (c : Chip) : p (pressCut pa write emergency c) = p c := by
  unfold Machine.pressCut
  split
  · rfl
  · split
    · unfold retryChunk
      repeat' split
      · exact h.chunkFails _ _ _
      · rfl
      · exact h.chunkFails _ _ _
      · exact h.press c _
    · rfl

section
variable {i : Nat} (hi : i < 32)
include hi

theorem dmaStat (x : Fld) (hx : x.key = DMA_CH_STAT i) (v : Nat) (c : Chip) : p (c.setF x v) = p c :=
  h.reg c _ _ (by rw [hx]; unfold DMA_CH_STAT; omega)

theorem setDmaState (st : Nat) (c : Chip) : p (setDmaState i st c) = p c :=
  (h.reg _ _ _ (by decide)).trans (h.dmaStat hi _ rfl _ c)

theorem dmaHalt (result cause off : Nat) (c : Chip) : p (dmaHalt i result cause off c) = p c :=
  (h.dma _ _).trans ((h.reg _ _ _ (by decide)).trans ((h.reg _ _ _ (by unfold DMA_CH_OFF; omega)).trans ((h.dmaStat hi _ rfl _ _).trans
    ((h.dmaStat hi _ rfl _ _).trans (h.setDmaState hi _ c)))))

theorem dmaPauseNow (c : Chip) : p (dmaPauseNow i c) = p c :=
  (h.dma _ _).trans ((h.dmaStat hi _ rfl _ _).trans (h.setDmaState hi _ c))

theorem dmaCut (write emergency : Bool) (c : Chip) : p (dmaCut i write emergency c) = p c := by
  have hcount : ∀ x, p (countRetry i { c with dma := x }) = p c := fun x => (h.dmaStat hi _ rfl _ _).trans (h.dma c x)
  unfold Machine.dmaCut
  split
  · split
    · unfold dmaWriteRetry
      dsimp only
      repeat' split
      · exact h.dmaHalt hi _ _ _ c
      · exact h.dmaPauseNow hi c
      · rfl
      · exact h.dmaHalt hi _ _ _ c
      · exact hcount _
    · rfl
  · split
    · unfold dmaReadRetry
      dsimp only
      repeat' split
      · rfl
      · exact h.dma c _
      · exact hcount _
    · rfl
end

/-- A hog cut-off changes of what `p` reads what its record changes (R201). -/
theorem cutGrant (hw : ∀ (c : Chip) arb q, p (c.setWaiting arb q) = p c) (arb : Nat) {g : Grant} (r : BusReq) (emergency : Bool) (c : Chip)
    (hlo : 64 ≤ g.origin) (hhi : g.origin ≤ 96) : p (cutGrant arb g r emergency c) = p (c.recordCut g.origin arb emergency) := by
  have hretry : ∀ d : Chip, p (if d.retries r then d.setWaiting arb (r :: d.waitingAt arb) else d) = p d := by
    intro d
    split
    · exact hw d _ _
    · rfl
  refine (hretry _).trans ?_
  split
  · exact h.pressCut _ _ _ _
  · exact h.dmaCut (by omega) _ _ _

end CutBlind

theorem cutBlind_grantAt (arb : Nat) : CutBlind (Chip.grantAt · arb) := ⟨fun _ _ _ _ => rfl, fun _ _ => rfl, fun _ _ => rfl⟩
theorem cutBlind_reg {k : Nat} (hk : k / 0x1000 = 9) : CutBlind (Chip.reg · k) :=
  ⟨fun c _ _ h => Chip.reg_setReg_other c _ fun e => h (e ▸ hk), fun _ _ => rfl, fun _ _ => rfl⟩

theorem grantAt_recordCut (c : Chip) (o arb : Nat) (emergency : Bool) : (c.recordCut o arb emergency).grantAt arb = none :=
  Chip.grantAt_setGrant _ arb none

/-- The record of a cut-off for holding too long (R201). -/
theorem recordCut_hog (c : Chip) {o arb : Nat} (ho : o < 4096) (ha : arb < 256) :
    (c.recordCut o arb false).fb MEM_STATUS_HOG = true ∧ (c.recordCut o arb false).f MEM_CUT_ORIGIN = o
    ∧ (c.recordCut o arb false).f MEM_CUT_ARBITER = arb := by
  have hreg : ∀ (d : Chip) (g : Sparse (Option Grant)) (k : Nat) kind o item data, k ≠ DAYB_EVT →
      ({ d.journal 1 kind o 0 item data with memc := { (d.journal 1 kind o 0 item data).memc with grant := g } } : Chip).reg k = d.reg k :=
    fun d _ _ _ _ _ _ hk => Chip.reg_journal d _ _ _ _ _ _ hk
  refine ⟨?_, ?_, ?_⟩
  · refine (Chip.fb_congr (hreg _ _ _ _ _ _ _ (by decide))).trans ?_
    rw [Chip.fb_congr (Chip.reg_setF_other _ _ (by decide)), Chip.fb_congr (Chip.reg_setF_other _ _ (by decide)),
      Chip.fb_congr (Chip.reg_setF_other _ _ (by decide))]
    exact Chip.fb_flag_same _ _ rfl (by decide)
  · refine (Chip.f_congr (hreg _ _ _ _ _ _ _ (by decide))).trans ?_
    rw [Chip.f_setF_other _ _ _ _ (by decide) (by decide) (by decide), Chip.f_setF_other _ _ _ _ (by decide) (by decide) (by decide),
      Chip.f_setF_same _ _ _ (by decide) (by decide)]
    exact Nat.mod_eq_of_lt ho
  · refine (Chip.f_congr (hreg _ _ _ _ _ _ _ (by decide))).trans ?_
    rw [Chip.f_setF_other _ _ _ _ (by decide) (by decide) (by decide), Chip.f_setF_same _ _ _ (by decide) (by decide)]
    exact Nat.mod_eq_of_lt ha

/-! ### The obligation -/

/-- The oldest request, of no DMA channel and not the Press's, is served at once: a word stored in the pattern store. -/
theorem serves_oldest_word {q : List BusReq} {c d : Chip} {arb : Nat} {r : BusReq} (hard : Bool)
    (hd : d = grantBeat arb r ⟨0, 0⟩ hard (c.setWaiting arb q)) (hq : q.Nodup) (hg : c.grantAt arb = none)
    (hc : cuttable r.origin = false) (hw : r.write = true) (hp : mainRegion c.dramTop r.pa = .pattern)
    (hr : c.reachable r.origin r.pa .pattern = true) (ho : r.origin < 62) (ha : r.pa % 4 = 0) (hl : r.bytes.length = 4) :
    (∀ x, x ∈ d.waitingAt arb ↔ x ∈ q ∧ x ≠ r) ∧ d.grantAt arb = none
    ∧ ∀ a, d.byte a = if r.pa ≤ a ∧ a < r.pa + 4 then r.bytes.getD (a - r.pa) 0 else c.byte a := by
  let b := (c.setWaiting arb q).beginBeat arb r
  have hlen : (placed r.pa r.bytes).length = 4 := (length_placed _ _).trans hl
  have hbp : mainRegion b.dramTop r.pa = .pattern :=
    (beginBeat_keeps (p := fun c => mainRegion c.dramTop r.pa) (fun _ _ _ => rfl) (fun _ _ _ => rfl) _ _ _).trans hp
  have hbr : b.reachable r.origin r.pa .pattern = true :=
    (beginBeat_keeps (p := fun c => c.reachable r.origin r.pa .pattern) (fun _ _ _ => rfl) (fun _ _ _ => rfl) _ _ _).trans hr
  have hdb : d = b.storeWord .pattern r.pa (placed r.pa r.bytes) := by
    rw [hd, grantBeat_served hard hc]
    exact (serve_pattern hw hbp ho hbr).trans (memStore_pattern_word ha hl b)
  refine ⟨fun x => ?_, ?_, fun a => ?_⟩
  · have hwait : d.waitingAt arb = q.erase r := by
      rw [hdb, Chip.waitingAt_congr (memBlind_waiting.storeWord_pattern (fun _ _ => rfl) hlen _ _)]
      exact (Chip.waitingAt_beginBeat _ _ _).trans (by rw [Chip.waitingAt_setWaiting])
    rw [hwait, hq.mem_erase_iff, and_comm]
  · rw [hdb, Chip.grantAt_congr (memBlind_grant.storeWord_pattern (fun _ _ => rfl) hlen _ _)]
    exact (beginBeat_keeps (p := fun c => c.grantAt arb) (fun _ _ _ => rfl) (fun _ _ _ => rfl) _ _ _).trans hg
  · have hmem : d.mem = ((b.freshWord .pattern r.pa).setBytes r.pa r.bytes).mem := by
      rw [hdb, mem_storeWord_pattern hlen, putBytes_placed]
    have hfresh : (b.freshWord .pattern r.pa).byte a = c.byte a := by
      unfold Chip.byte
      rw [Chip.freshWord_mem]
      exact congrArg (fun m => sget memDefault m a) (beginBeat_keeps (p := Chip.mem) (fun _ _ _ => rfl) (fun _ _ _ => rfl) _ _ _)
    have hbyte := Chip.byte_setBytes r.bytes (b.freshWord .pattern r.pa) r.pa a
    rw [hl, hfresh] at hbyte
    rw [← hbyte]
    unfold Chip.byte
    rw [hmem]

/-- The oldest request, of a DMA channel or of the Press, is in transfer until it completes or is cut off (R195). -/
theorem holds_oldest_beat {q : List BusReq} {c d : Chip} {arb : Nat} {r : BusReq} (hard : Bool)
    (hd : d = grantBeat arb r ⟨0, 0⟩ hard (c.setWaiting arb q)) (hq : q.Nodup) (hc : cuttable r.origin = true) :
    (∀ x, x ∈ d.waitingAt arb ↔ x ∈ q ∧ x ≠ r) ∧ d.mem = c.mem
    ∧ ∃ g, d.grantAt arb = some g ∧ g.origin = r.origin ∧ g.cur = some r := by
  obtain ⟨beats, row, hgrant⟩ := grantBeat_cuttable (c := c.setWaiting arb q) (arb := arb) hard hc
  rw [hd, hgrant]
  refine ⟨fun x => ?_, ?_, _, Chip.grantAt_setGrant _ _ _, rfl, rfl⟩
  · rw [Chip.waitingAt_setGrant, Chip.waitingAt_beginBeat, Chip.waitingAt_setWaiting, hq.mem_erase_iff, and_comm]
  · exact beginBeat_keeps (p := Chip.mem) (fun _ _ _ => rfl) (fun _ _ _ => rfl) _ _ _

/-- With no request waiting, the beat in transfer completes, and no grant is left (R192). -/
theorem completes_beat {arb : Fin 256} (hard : Bool) {s : State} {g : Grant} {r : BusReq} (hg : s.chip.grantAt arb = some g)
    (hr : g.cur = some r) (hw : s.chip.waitingAt arb = []) :
    Answers (.arbiterGrant arb [] ⟨0, 0⟩ hard none) s fun d => d.grantAt arb = none ∧ d.mem = (s.chip.serve r).mem := by
  have hjoin : joinQueue arb [] s.chip = s.chip.setWaiting arb [] := by
    rw [joinQueue_of_takesReq (by simp), hw, List.append_nil]
  obtain ⟨g', hbeat⟩ := beatBoundary_completes (c := s.chip.setWaiting arb []) hg hr (Chip.waitingAt_setWaiting _ _ _)
  rw [serve_setWaiting_nil] at hbeat
  have hqueue : (((s.chip.serve r).setWaiting arb []).setGrant arb g').waitingAt arb = [] := by
    rw [Chip.waitingAt_setGrant, Chip.waitingAt_setWaiting]
  obtain ⟨hidle, hempty, hmem⟩ := endRun_of_queue_empty hqueue
  refine .of_next (exec_arbiterGrant arb [] hard s) ?_
  rw [hjoin, hbeat, grantChosen_of_queue_empty hard hidle hempty]
  exact ⟨hidle, hmem⟩

theorem exec_hogCutoff_cut {arb : Fin 256} {s : State} {g : Grant} {r : BusReq} (hg : s.chip.grantAt arb = some g)
    (hr : g.cur = some r) (hh : s.chip.fb MEM_CTL_HOG = true) :
    exec (.hogCutoff arb) s = .next (s.at (cutGrant arb g r false s.chip)) := by
  have hx : exec (.hogCutoff arb) s = execHogCutoff arb s := rfl
  rw [hx]
  simp only [execHogCutoff, State.go, hg, hr, hh, if_pos]
  rfl

theorem exec_hogCutoff_idle {arb : Fin 256} {s : State} (hg : s.chip.grantAt arb = none) : exec (.hogCutoff arb) s = .next s := by
  have hx : exec (.hogCutoff arb) s = execHogCutoff arb s := rfl
  rw [hx]
  simp only [execHogCutoff, State.go, hg]

/-- Settles O40: the queue's oldest request is the one chosen; a served beat reads no queue, so the beat in transfer completes as it
would alone; and a cut-off changes the cut-off's own registers and the holder's alone. -/
theorem arbiterOrder : Obligations.ArbiterOrder := by
  unfold Obligations.ArbiterOrder
  intro arb reqs hard s
  refine ⟨fun he hg ht hs hq r hr ho => ⟨fun hc hw hp hreach hor ha hl => ?_, fun hc => ?_⟩, fun g r hg hr _ hw => ?_,
    fun g r hg hr hh hlo hhi => ?_, exec_hogCutoff_idle⟩
  · exact .of_next (arbiterGrant_oldest he hg ht hs hr ho) (serves_oldest_word hard rfl hq hg hc hw hp hreach hor ha hl)
  · exact .of_next (arbiterGrant_oldest he hg ht hs hr ho) (holds_oldest_beat hard rfl hq hc)
  · exact completes_beat hard hg hr hw
  · obtain ⟨hhog, horg, harb⟩ := recordCut_hog s.chip (o := g.origin) (arb := arb) (by omega) arb.isLt
    have hreg : ∀ k, k / 0x1000 = 9 → (cutGrant arb g r false s.chip).reg k = (s.chip.recordCut g.origin arb false).reg k :=
      fun k hk => (cutBlind_reg hk).cutGrant (fun _ _ _ => rfl) arb r false s.chip hlo hhi
    refine .of_next (exec_hogCutoff_cut hg hr hh) ⟨(Chip.fb_congr (hreg _ (by decide))).trans hhog,
      (Chip.f_congr (hreg _ (by decide))).trans horg, (Chip.f_congr (hreg _ (by decide))).trans harb, ?_⟩
    exact ((cutBlind_grantAt arb).cutGrant (fun _ _ _ => rfl) arb r false s.chip hlo hhi).trans (grantAt_recordCut _ _ _ _)

end Sys2Proof.Machine
end

section
/-! O11, O7: the packed predicates, the bit facts of the ALU group, and its results. -/

namespace Sys2Proof.Machine

/-! ### Predicates -/

theorem predicate_eq_bit {n : Nat} (q : BitVec 8) (h : n ≠ 0) : predicate q n = q.toNat.testBit n := by
  simp [predicate, h]

/-- A packed predicate is written as a bit of a word is. -/
theorem toNat_setPredicate {n : Nat} (q : BitVec 8) (b : Bool) (h : n ≠ 0) :
    (setPredicate q n b).toNat = (Word.setBit (q.setWidth 32) n b).toNat % 2 ^ 8 := by
  have hmask : (b.toNat <<< n) &&& ((2 ^ (n + 1 - n) - 1) <<< n) = b.toNat * 2 ^ n := by
    rw [Word.and_mask, Nat.shiftLeft_eq, Nat.mul_div_cancel _ (Nat.two_pow_pos n)]
    cases b <;> simp
  have hq : q.toNat % 2 ^ 32 = q.toNat := Nat.mod_eq_of_lt (by have := q.isLt; omega)
  rw [setPredicate, if_neg h, Word.setBit, Word.setBits]
  rw [hmask, BitVec.toNat_ofNat, BitVec.toNat_setWidth, hq, Word.toNat_of,
    Nat.mod_mod_of_dvd _ (by decide : 2 ^ 8 ∣ 2 ^ 32), Nat.add_sub_cancel_left, Nat.shiftLeft_eq]
  simp

theorem testBit_setPredicate {n m : Nat} (q : BitVec 8) (b : Bool) (hn : n ≠ 0) (hn8 : n < 8) (hm : m < 8) :
    (setPredicate q n b).toNat.testBit m = if m = n then b else q.toNat.testBit m := by
  have hq : q.toNat % 2 ^ 32 = q.toNat := Nat.mod_eq_of_lt (by have := q.isLt; omega)
  rw [toNat_setPredicate q b hn, Nat.testBit_mod_two_pow, decide_eq_true hm, Bool.true_and]
  split
  · subst m
    exact Word.bit_setBit_same _ b (by omega)
  · refine (Word.bit_setBit_other (q.setWidth 32) b (by omega) ‹_›).trans ?_
    rw [Word.bit, BitVec.toNat_setWidth, hq]

/-! ### General registers -/

theorem Core.rd_wr_same (x : Core) {n : Nat} (v : Word) (h : n ≠ 0) : (x.wr n v).rd n = v := by
  simp [Core.rd, Core.wr, h]

theorem Core.rd_wr_other (x : Core) {n m : Nat} (v : Word) (h : m ≠ n) : (x.wr n v).rd m = x.rd m := by
  unfold Core.rd Core.wr
  split
  · rfl
  · split
    · rfl
    · exact sget_sset_other _ v h

/-- Settles O11: reads of what was written, in the registers and in the packed predicates. -/
theorem hardwiredRegisters : Obligations.HardwiredRegisters := by
  unfold Obligations.HardwiredRegisters
  intro x q n m v b
  refine ⟨rfl, rfl, rfl, rfl, x.rd_wr_same v, x.rd_wr_other v, fun h1 h8 => ?_, fun hn hm h => ?_⟩
  · rw [predicate_eq_bit _ (by omega), testBit_setPredicate q b (by omega) h8 h8, if_pos rfl]
  · rcases Nat.eq_zero_or_pos n with rfl | hn0
    · rfl
    · rcases Nat.eq_zero_or_pos m with rfl | hm0
      · rfl
      · rw [predicate_eq_bit _ (by omega), predicate_eq_bit _ (by omega), testBit_setPredicate q b (by omega) hn hm, if_neg h]

end Sys2Proof.Machine
end

section
/-! O7: the results of the ALU register group. -/

namespace Sys2Proof.Machine

section
variable {k : Nat} {cond : BitVec 4} {s : State} {d : Chip} (h : s.chip.prepared k false = some d)
include h

/-- An instruction with no check of decode completes with its change of the core. -/
theorem instr_ordinary (f : Core → Core) : instr k cond ordinary (onCore k f) s = .next (s.ran k (d.complete k cond f)) :=
  instr_onCore h (dd := ordinary) (decodeFault_plain ..) rfl f

/-- The same in the terms of any function that agrees with the instruction's own. -/
theorem instr_ordinary_congr {f g : Core → Core} (hfg : ∀ x, f x = g x) :
    instr k cond ordinary (onCore k f) s = .next (s.ran k (d.complete k cond g)) :=
  funext hfg ▸ instr_ordinary h f

theorem instr_alu2 (rd ra rb : Nat) {f g : Word → Word → Word} (hfg : ∀ a b, f a b = g a b) :
    instr k cond ordinary (alu2 k rd ra rb f) s = .next (s.ran k (d.complete k cond fun x => x.wr rd (g (x.rd ra) (x.rd rb)))) :=
  instr_ordinary_congr h fun x => congrArg (x.wr rd) (hfg _ _)

theorem instr_alu1 (rd ra : Nat) {f g : Word → Word} (hfg : ∀ a, f a = g a) :
    instr k cond ordinary (alu1 k rd ra f) s = .next (s.ran k (d.complete k cond fun x => x.wr rd (g (x.rd ra)))) :=
  instr_ordinary_congr h fun x => congrArg (x.wr rd) (hfg _)

end

/-! ### Words as numbers -/

theorem toNat_append_add {n m : Nat} (x : BitVec n) (y : BitVec m) : (x ++ y).toNat = x.toNat * 2 ^ m + y.toNat := by
  rw [BitVec.toNat_append, ← Nat.shiftLeft_add_eq_or_of_lt y.isLt, Nat.shiftLeft_eq]

/-- A byte of a word as a number. -/
theorem bits_eq_div_mod (w : Word) (msb lsb : Nat) : w.bits msb lsb = w.toNat / 2 ^ lsb % 2 ^ (msb + 1 - lsb) := by
  rw [Word.bits, Nat.shiftRight_eq_div_pow]

theorem countP_testBit (n a : Nat) : (List.range n).countP (fun i => a.testBit i) = popcount n a := by
  induction n generalizing a with
  | zero => rfl
  | succ n ih =>
    have hsucc : ((fun i => a.testBit i) ∘ Nat.succ) = fun i => (a / 2).testBit i := funext fun i => Nat.testBit_succ a i
    rw [List.range_succ_eq_map, List.countP_cons, List.countP_map, hsucc, ih, popcount, Nat.testBit_zero]
    by_cases h : a % 2 = 1 <;> simp [h] <;> omega

theorem clz32_eq {a : Word} {i : Nat} (hb : a.bit i = true) (hz : ∀ j, i < j → j < 32 → a.bit j = false) :
    clz32 a = Word.of (31 - i) := by
  have h0 : a ≠ 0 := by rintro rfl; simp [Word.bit] at hb
  have hn : a.toNat ≠ 0 := fun h => h0 (BitVec.eq_of_toNat_eq h)
  have hlt : a.toNat < 2 ^ (i + 1) := Nat.lt_pow_two_of_testBit _ fun j hj => by
    by_cases h32 : j < 32
    · exact hz j hj h32
    · exact Nat.testBit_lt_two_pow (lt_of_lt_of_le a.isLt (Nat.pow_le_pow_right (by decide) (Nat.le_of_not_lt h32)))
  rw [clz32, if_neg h0, (Nat.log2_eq_iff hn).mpr ⟨Nat.ge_two_pow_of_testBit hb, hlt⟩]

/-- The first `n + 1` packed predicates as a number: bit 0 reads 1. -/
theorem sum_predicates (q : BitVec 8) (n : Nat) :
    (List.range (n + 1)).foldl (fun a i => a + (predicate q i).toNat * 2 ^ i) 0 = q.toNat % 2 ^ (n + 1) / 2 * 2 + 1 := by
  induction n with
  | zero => simp [predicate]
  | succ n ih =>
    have hbit : (q.toNat.testBit (n + 1)).toNat = q.toNat / 2 ^ (n + 1) % 2 := Nat.toNat_testBit ..
    have hmod : q.toNat % 2 ^ (n + 1 + 1) = q.toNat % 2 ^ (n + 1) + 2 ^ (n + 1) * (q.toNat / 2 ^ (n + 1) % 2) := Nat.mod_pow_succ
    rw [List.range_succ, List.foldl_append, ih, hmod]
    simp only [List.foldl_cons, List.foldl_nil, predicate_eq_bit q (Nat.succ_ne_zero n), hbit]
    rw [show (2 : Nat) ^ (n + 1) * (q.toNat / 2 ^ (n + 1) % 2) = 2 * (2 ^ n * (q.toNat / 2 ^ (n + 1) % 2)) by ring,
      show q.toNat / 2 ^ (n + 1) % 2 * 2 ^ (n + 1) = 2 * (2 ^ n * (q.toNat / 2 ^ (n + 1) % 2)) by ring]
    omega

theorem packPredicates_eq (q : BitVec 8) :
    packPredicates q = Word.of ((List.range 8).foldl (fun n i => n + (predicate q i).toNat * 2 ^ i) 0) := by
  rw [sum_predicates q 7, Nat.mod_eq_of_lt q.isLt, packPredicates]

theorem predicate_unpackPredicates (a : Word) {n : Nat} (h1 : 1 ≤ n) (h8 : n < 8) : predicate (unpackPredicates a) n = a.bit n := by
  obtain ⟨m, rfl⟩ : ∃ m, n = m + 1 := ⟨n - 1, by omega⟩
  rw [predicate_eq_bit _ (by omega), unpackPredicates, BitVec.toNat_ofNat, Nat.testBit_mod_two_pow, Nat.testBit_succ,
    Nat.mul_div_cancel _ (by decide), ← Nat.testBit_succ, show (256 : Nat) = 2 ^ 8 from rfl, Nat.testBit_mod_two_pow, Word.bit]
  simp [h8]

theorem rotateRight_mod (a : Word) (n : Nat) : a.rotateRight (n % 32) = (a >>> (n % 32)) ||| (a <<< (32 - n % 32)) := by
  rw [BitVec.rotateRight_def, Nat.mod_mod]

theorem min_signed (a b : Word) : (if a.slt b then a else b) = if a.toInt ≤ b.toInt then a else b := by
  rcases lt_trichotomy a.toInt b.toInt with h | h | h
  · rw [if_pos (BitVec.slt_iff_toInt_lt.mpr h), if_pos h.le]
  · rw [BitVec.toInt_inj.mp h, ite_self, ite_self]
  · rw [if_neg (by rw [BitVec.slt_iff_toInt_lt]; omega), if_neg (by omega)]

theorem max_signed (a b : Word) : (if a.slt b then b else a) = if a.toInt ≤ b.toInt then b else a := by
  rcases lt_trichotomy a.toInt b.toInt with h | h | h
  · rw [if_pos (BitVec.slt_iff_toInt_lt.mpr h), if_pos h.le]
  · rw [BitVec.toInt_inj.mp h, ite_self, ite_self]
  · rw [if_neg (by rw [BitVec.slt_iff_toInt_lt]; omega), if_neg (by omega)]

theorem min_unsigned (a b : Word) : (if a.ult b then a else b) = if a.toNat ≤ b.toNat then a else b := by
  rcases lt_trichotomy a.toNat b.toNat with h | h | h
  · rw [if_pos (BitVec.ult_iff_toNat_lt.mpr h), if_pos h.le]
  · rw [BitVec.eq_of_toNat_eq h, ite_self, ite_self]
  · rw [if_neg (by rw [BitVec.ult_iff_toNat_lt]; omega), if_neg (by omega)]

theorem max_unsigned (a b : Word) : (if a.ult b then b else a) = if a.toNat ≤ b.toNat then b else a := by
  rcases lt_trichotomy a.toNat b.toNat with h | h | h
  · rw [if_pos (BitVec.ult_iff_toNat_lt.mpr h), if_pos h.le]
  · rw [BitVec.eq_of_toNat_eq h, ite_self, ite_self]
  · rw [if_neg (by rw [BitVec.ult_iff_toNat_lt]; omega), if_neg (by omega)]

theorem zext_half (a : Word) : (a.truncate 16).zeroExtend 32 = a &&& 0xFFFF := by
  apply BitVec.eq_of_toNat_eq
  have h : a.toNat &&& 65535 = a.toNat % 2 ^ 16 := Nat.and_two_pow_sub_one_eq_mod a.toNat 16
  simp [h]
  omega

theorem toNat_byteAt (a : Word) (i : Nat) : (a.extractLsb' i 8).toNat = a.toNat / 2 ^ i % 256 := by
  rw [BitVec.extractLsb'_toNat, Nat.shiftRight_eq_div_pow]

theorem foldl_range_four {α : Type} (f : α → Nat → α) (a : α) : (List.range 4).foldl f a = f (f (f (f a 0) 1) 2) 3 := rfl

/-- The number of four lanes. -/
theorem foldl_lanes (v : Nat → Nat) :
    (List.range 4).foldl (fun r i => r + v i * 256 ^ i) 0 = v 0 + v 1 * 256 + v 2 * 65536 + v 3 * 16777216 := by
  have h2 : 256 ^ 2 = 65536 := by norm_num
  have h3 : 256 ^ 3 = 16777216 := by norm_num
  rw [foldl_range_four, pow_zero, pow_one, mul_one, Nat.zero_add, h2, h3]

theorem permLanes_eq (a : Word) (sel : Nat) {l0 l1 l2 l3 : Nat} (h0 : nbits sel 1 0 = l0) (h1 : nbits sel 3 2 = l1) (h2 : nbits sel 5 4 = l2)
    (h3 : nbits sel 7 6 = l3) : permLanes a sel = Word.of (a.bits (8 * l0 + 7) (8 * l0) + a.bits (8 * l1 + 7) (8 * l1) * 256
      + a.bits (8 * l2 + 7) (8 * l2) * 65536 + a.bits (8 * l3 + 7) (8 * l3) * 16777216) := by
  subst h0 h1 h2 h3
  exact congrArg Word.of (foldl_lanes fun i => a.bits (8 * nbits sel (2 * i + 1) (2 * i) + 7) (8 * nbits sel (2 * i + 1) (2 * i)))

theorem byteLane_eq_div_mod (w : Word) (i : Nat) : w.bits (8 * i + 7) (8 * i) = w.toNat / 2 ^ (8 * i) % 256 := by
  rw [bits_eq_div_mod, show 8 * i + 7 + 1 - 8 * i = 8 by omega]
  rfl

theorem permLanes_reversed (a : Word) :
    permLanes a 0x1B = a.extractLsb' 0 8 ++ a.extractLsb' 8 8 ++ a.extractLsb' 16 8 ++ a.extractLsb' 24 8 := by
  apply BitVec.eq_of_toNat_eq
  rw [permLanes_eq a 0x1B (l0 := 3) (l1 := 2) (l2 := 1) (l3 := 0) rfl rfl rfl rfl, toNat_append_add, toNat_append_add, toNat_append_add,
    toNat_byteAt, toNat_byteAt, toNat_byteAt, toNat_byteAt, Word.toNat_of, byteLane_eq_div_mod, byteLane_eq_div_mod, byteLane_eq_div_mod,
    byteLane_eq_div_mod]
  simp only [Nat.reduceMul, Nat.reducePow]
  omega

theorem popcount_word (a : Word) : Word.of (popcount 32 a.toNat) = Word.of ((List.range 32).countP fun i => a.bit i) := by
  unfold Word.bit
  rw [countP_testBit]

/-- Settles O7: each instruction completes with its own function, which the facts about words say in the table's terms. -/
theorem aluRegisterResults : Obligations.AluRegisterResults := by
  unfold Obligations.AluRegisterResults
  intro k cond rd ra rb s d h
  refine ⟨instr_ordinary h _, instr_ordinary h _, instr_ordinary h _, instr_ordinary h _, instr_ordinary h _, instr_ordinary h _,
    instr_ordinary h _, instr_ordinary h _, instr_ordinary h _, instr_ordinary h _,
    (instr_alu2 h rd.toNat ra.toNat rb.toNat fun a b : Word => rotateRight_mod a b.toNat :),
    (instr_alu2 h rd.toNat ra.toNat rb.toNat min_signed :), (instr_alu2 h rd.toNat ra.toNat rb.toNat max_signed :),
    (instr_alu2 h rd.toNat ra.toNat rb.toNat min_unsigned :), (instr_alu2 h rd.toNat ra.toNat rb.toNat max_unsigned :),
    (instr_alu1 h rd.toNat ra.toNat popcount_word :), instr_ordinary h _, instr_ordinary h _,
    (instr_alu1 h rd.toNat ra.toNat zext_half :), (instr_alu1 h rd.toNat ra.toNat permLanes_reversed :),
    (instr_ordinary_congr h fun x => congrArg (x.wr rd.toNat) (packPredicates_eq x.q) :),
    ⟨fun x => unpackPredicates (x.rd ra.toNat), instr_ordinary h _, fun x n => predicate_unpackPredicates _⟩,
    ⟨clz32, instr_ordinary h _, rfl, fun a i hz _ hb => clz32_eq hb hz⟩⟩

end Sys2Proof.Machine
end

section
/-! O8, O9: the results of the immediate instructions and of the byte-lane group. -/

namespace Sys2Proof.Machine

theorem rotateRight_lt (a : Word) (n : BitVec 5) : a.rotateRight n.toNat = (a >>> n.toNat) ||| (a <<< (32 - n.toNat)) := by
  rw [BitVec.rotateRight_def, Nat.mod_eq_of_lt n.isLt]

theorem upperHalf_eq (imm : BitVec 16) : imm.zeroExtend 32 <<< 16 = imm ++ (0 : BitVec 16) := by
  apply BitVec.eq_of_toNat_eq
  have := imm.isLt
  rw [toNat_append_add, BitVec.toNat_shiftLeft, BitVec.toNat_setWidth, Nat.shiftLeft_eq,
    show (0 : BitVec 16).toNat = 0 from rfl]
  omega

theorem lowerHalf_replaced (a : Word) (imm : BitVec 16) : (a &&& 0xFFFF0000) ||| imm.zeroExtend 32 = a.extractLsb' 16 16 ++ imm := by
  apply BitVec.eq_of_toNat_eq
  have hmask : a.toNat &&& 0xFFFF0000 = (a.toNat / 2 ^ 16 % 2 ^ 16) <<< 16 := (Word.and_mask a.toNat 16 16).trans (Nat.shiftLeft_eq ..).symm
  have himm : imm.toNat % 2 ^ 32 = imm.toNat := Nat.mod_eq_of_lt (by have := imm.isLt; omega)
  rw [BitVec.toNat_or, BitVec.toNat_and, BitVec.toNat_setWidth, himm, toNat_append_add, BitVec.extractLsb'_toNat, Nat.shiftRight_eq_div_pow]
  exact (congrArg (· ||| imm.toNat) hmask).trans ((Nat.shiftLeft_add_eq_or_of_lt imm.isLt _).symm.trans (by rw [Nat.shiftLeft_eq]))

/-! ### Lanes -/

theorem byteLane_lt (w : Word) (i : Nat) : w.bits (8 * i + 7) (8 * i) < 256 := by
  rw [byteLane_eq_div_mod]
  exact Nat.mod_lt _ (by decide)

/-- A word made of four lanes has these lanes. -/
theorem byteLane_ofLanes {v : Nat → Nat} (hv : ∀ i, v i < 256) {j : Nat} (hj : j < 4) :
    (Word.of ((List.range 4).foldl (fun r i => r + v i * 256 ^ i) 0)).bits (8 * j + 7) (8 * j) = v j := by
  rw [foldl_lanes, byteLane_eq_div_mod, Word.toNat_of]
  have h0 := hv 0
  have h1 := hv 1
  have h2 := hv 2
  have h3 := hv 3
  interval_cases j <;> simp only [Nat.reduceMul, Nat.reducePow] <;> omega

theorem byteLane_permLanes (a : Word) (sel : Nat) {j : Nat} (hj : j < 4) :
    (permLanes a sel).bits (8 * j + 7) (8 * j)
      = a.bits (8 * nbits sel (2 * j + 1) (2 * j) + 7) (8 * nbits sel (2 * j + 1) (2 * j)) :=
  byteLane_ofLanes (fun _ => byteLane_lt _ _) hj

theorem byteLane_lanes (f : Nat → Nat → Nat) (a b : Word) {j : Nat} (hj : j < 4) :
    (lanes f a b).bits (8 * j + 7) (8 * j) = f (a.bits (8 * j + 7) (8 * j)) (b.bits (8 * j + 7) (8 * j)) % 256 :=
  byteLane_ofLanes (v := fun i => f (a.bits (8 * i + 7) (8 * i)) (b.bits (8 * i + 7) (8 * i)) % 256) (fun _ => Nat.mod_lt _ (by decide)) hj

theorem sumAbs_eq (a b : Word) : sumAbs a b
    = Word.of (((List.range 4).map fun i => ((a.bits (8 * i + 7) (8 * i) : Int) - b.bits (8 * i + 7) (8 * i)).natAbs).sum) := by
  have habs (x y : Nat) : ((x : Int) - y).natAbs = x - y + (y - x) := by omega
  unfold sumAbs
  rw [foldl_range_four, show List.range 4 = [0, 1, 2, 3] from rfl]
  simp only [List.map_cons, List.map_nil, List.sum_cons, List.sum_nil, habs]
  congr 1
  omega

/-- Settles O8: each instruction completes with its own function; the halves and the permuted lanes by the facts about words. -/
theorem aluImmediateResults : Obligations.AluImmediateResults := by
  unfold Obligations.AluImmediateResults
  intro k cond rd ra imm imm16 n sel s d h
  refine ⟨instr_ordinary h _, instr_ordinary h _, instr_ordinary h _, instr_ordinary h _, instr_ordinary h _, instr_ordinary h _,
    instr_ordinary h _, (instr_alu1 h rd.toNat ra.toNat fun a => rotateRight_lt a n :),
    (instr_ordinary_congr h fun x => congrArg (x.wr rd.toNat) (upperHalf_eq imm16) :),
    (instr_ordinary_congr h fun x => congrArg (x.wr rd.toNat) (lowerHalf_replaced (x.rd rd.toNat) imm16) :),
    ⟨fun a => permLanes a sel.toNat, instr_ordinary h _, fun a i hi => byteLane_permLanes a sel.toNat hi⟩⟩

/-- A lane operation completes with the operation that agrees with it on bytes. -/
theorem instr_lanes {k : Nat} {cond : BitVec 4} {s : State} {d : Chip} (h : s.chip.prepared k false = some d) (rd ra rb : Nat)
    {f g : Nat → Nat → Nat} (hfg : ∀ a b, a < 256 → b < 256 → f a b % 256 = g a b) :
    ∃ F : Word → Word → Word,
      instr k cond ordinary (alu2 k rd ra rb (lanes f)) s
        = .next (s.ran k (d.complete k cond fun x => x.wr rd (F (x.rd ra) (x.rd rb))))
      ∧ ∀ a b j, j < 4 → (F a b).bits (8 * j + 7) (8 * j) = g (a.bits (8 * j + 7) (8 * j)) (b.bits (8 * j + 7) (8 * j)) :=
  ⟨lanes f, instr_ordinary h _, fun a b _ hj => (byteLane_lanes f a b hj).trans (hfg _ _ (byteLane_lt _ _) (byteLane_lt _ _))⟩

theorem instr_lanes_self {k : Nat} {cond : BitVec 4} {s : State} {d : Chip} (h : s.chip.prepared k false = some d) (rd ra rb : Nat)
    {f : Nat → Nat → Nat} (hf : ∀ a b, a < 256 → b < 256 → f a b < 256) :
    ∃ F : Word → Word → Word,
      instr k cond ordinary (alu2 k rd ra rb (lanes f)) s
        = .next (s.ran k (d.complete k cond fun x => x.wr rd (F (x.rd ra) (x.rd rb))))
      ∧ ∀ a b j, j < 4 → (F a b).bits (8 * j + 7) (8 * j) = f (a.bits (8 * j + 7) (8 * j)) (b.bits (8 * j + 7) (8 * j)) :=
  instr_lanes h rd ra rb fun a b ha hb => Nat.mod_eq_of_lt (hf a b ha hb)

/-- Settles O9: each lane operation by what it does to a pair of bytes. -/
theorem byteLaneResults : Obligations.ByteLaneResults := by
  unfold Obligations.ByteLaneResults
  intro k cond rd ra rb s d h
  refine ⟨instr_lanes_self h rd.toNat ra.toNat rb.toNat fun a b _ _ => Nat.mod_lt _ (by decide),
    instr_lanes h rd.toNat ra.toNat rb.toNat (f := fun a b => (a + 256 - b) % 256) (g := fun a b => (256 + a - b) % 256) fun a b _ _ => ?_,
    instr_lanes_self h rd.toNat ra.toNat rb.toNat fun a b _ _ => ?_,
    instr_lanes_self h rd.toNat ra.toNat rb.toNat fun a b ha _ => ?_, instr_lanes_self h rd.toNat ra.toNat rb.toNat fun a b ha _ => ?_,
    instr_lanes_self h rd.toNat ra.toNat rb.toNat fun a b ha hb => ?_, instr_lanes_self h rd.toNat ra.toNat rb.toNat fun a b ha hb => ?_,
    instr_lanes_self h rd.toNat ra.toNat rb.toNat fun a b _ _ => ?_, instr_lanes_self h rd.toNat ra.toNat rb.toNat fun a b _ _ => ?_,
    (instr_alu2 h rd.toNat ra.toNat rb.toNat sumAbs_eq :)⟩
  · simp only [Nat.mod_mod, Nat.add_comm]
  · exact Nat.lt_of_le_of_lt (Nat.min_le_left 255 _) (by decide)
  · exact Nat.lt_of_le_of_lt (Nat.sub_le a b) ha
  · exact Nat.lt_of_le_of_lt (Nat.min_le_left a b) ha
  · exact Nat.max_lt.mpr ⟨ha, hb⟩
  · omega
  · split <;> decide
  · split <;> decide

end Sys2Proof.Machine
end

section
/-! O10: the results of CMP, CMPI and predicate logic. -/

namespace Sys2Proof.Machine

/-- A word that is assigned, of no coprocessor, and that needs no privilege and may stand in a slot passes the checks of decode. -/
theorem decodeFault_legal {k : Nat} {x : Core} {dd : Decoded} (hi : dd.illegal = false) (hn : dd.noSlot = false) (hs : dd.sup = false)
    (hc : dd.cp = none) : decodeFault k x dd = none := by
  simp [decodeFault, hi, hn, hs, hc]

/-- A word that no encoding assigns, of no coprocessor, is illegal (R66). -/
theorem decodeFault_illegal {k : Nat} {x : Core} {dd : Decoded} (hi : dd.illegal = true) (hc : dd.cp = none) :
    decodeFault k x dd = some (0x01, dd.word) := by
  simp [decodeFault, hi, hc]

/-- An instruction whose condition holds raises the exception that decode finds. -/
theorem instr_decodeFault {k : Nat} {cond : BitVec 4} {s : State} {d : Chip} (h : s.chip.prepared k false = some d) {dd : Decoded}
    (hn : dd.noSlot = false) (ht : (d.core k).takes cond = true) {cause : Nat} {a : Word} (hd : decodeFault k (d.core k) dd = some (cause, a))
    (op : Chip → Res) : instr k cond dd op s = .next (s.ran k (d.except k cause a)) := by
  unfold instr
  rw [State.go_eq, runAt_prepared h]
  simp only [Core.takes, Bool.and_eq_true, bne_iff_ne] at ht
  simp only [operate, if_neg ht.1, hn, hd, ht.2, Bool.false_and, Bool.false_eq_true, if_false, Bool.not_true]
  rfl

/-- The table of comb (R73), by number. -/
def combTable (comb : Nat) (old r : Bool) : Bool := [r, old && r, old || r, !r].getD comb false

/-- The table of cc (R72), by number. -/
def compareTable (cc : Nat) (a b : Word) : Bool :=
  [a == b, a != b, decide (a.toInt < b.toInt), decide (b.toInt ≤ a.toInt), decide (a.toNat < b.toNat), decide (b.toNat ≤ a.toNat),
    a &&& b != 0, a &&& b == 0].getD cc false

theorem combine_eq_combTable (comb : BitVec 2) (old r : Bool) : combine comb.toNat old r = combTable comb.toNat old r := by
  revert comb old r
  decide

theorem predLogic_eq_getD (op : BitVec 2) (a b : Bool) (h : op ≠ 3) :
    predLogic op.toNat a b = [a && b, a || b, a != b].getD op.toNat false := by
  revert op a b
  decide

theorem not_slt_eq (a b : Word) : (!a.slt b) = decide (b.toInt ≤ a.toInt) := by
  rw [BitVec.slt_eq_decide, ← decide_not, decide_eq_decide]
  exact Int.not_lt

theorem not_ult_eq (a b : Word) : (!a.ult b) = decide (b.toNat ≤ a.toNat) := by
  rw [BitVec.ult_eq_decide, ← decide_not, decide_eq_decide]
  exact Nat.not_lt

theorem cmpResult_eq_compareTable {cc : Nat} (a b : Word) (h : cc < 8) : cmpResult cc a b = compareTable cc a b := by
  interval_cases cc
  · exact (beq_eq_decide a b).symm
  · exact (decide_not ..).trans (congrArg (!·) (beq_eq_decide a b).symm)
  · exact BitVec.slt_eq_decide ..
  · exact not_slt_eq a b
  · exact BitVec.ult_eq_decide ..
  · exact not_ult_eq a b
  · exact (decide_not ..).trans (congrArg (!·) (beq_eq_decide ..).symm)
  · exact (beq_eq_decide ..).symm

theorem cmpiResult_signed {cc : Nat} (a : Word) (imm : BitVec 9) (h : cc < 4) :
    cmpiResult cc a imm = cmpResult cc a (imm.signExtend 32) := if_pos h

theorem cmpiResult_unsigned {cc : Nat} (a : Word) (imm : BitVec 9) (h4 : 4 ≤ cc) (h6 : cc < 6) :
    cmpiResult cc a imm = cmpResult cc a (imm.zeroExtend 32) := by
  rw [cmpiResult, if_neg (by omega), if_pos h6]

theorem cmpiResult_bit {cc : BitVec 3} (a : Word) (imm : BitVec 9) (h6 : 6 ≤ cc.toNat) (hi : imm.toNat < 32) :
    cmpiResult cc.toNat a imm = (a.bit imm.toNat == (cc == 6)) := by
  have hcc : cc = 6 ∨ cc = 7 := by
    revert cc
    decide
  rw [cmpiResult, if_neg (by omega), if_neg (by omega), Nat.mod_eq_of_lt hi]
  rcases hcc with rfl | rfl <;> cases a.bit imm.toNat <;> rfl

section
variable {k : Nat} {cond : BitVec 4} {s : State} {d : Chip} (h : s.chip.prepared k false = some d)
include h

/-- An assigned form of CMPI completes with the combined result (R72, R73). -/
theorem instr_cmpi {qd : BitVec 3} {comb : BitVec 2} {ra : BitVec 5} {cc : BitVec 3} {imm : BitVec 9}
    (hl : (Nat.ble 6 cc.toNat && Nat.ble 32 imm.toNat) = false) {f : Word → Bool} (hf : ∀ a, cmpiResult cc.toNat a imm = f a) :
    instr k cond (cmpiDecoded cond qd comb ra cc imm) (bodyCmpi k qd comb ra cc imm) s = .next (s.ran k (d.complete k cond fun x =>
      { x with q := setPredicate x.q qd.toNat (combTable comb.toNat (predicate x.q qd.toNat) (f (x.rd ra.toNat))) })) := by
  refine (instr_onCore h (decodeFault_legal hl rfl rfl rfl) rfl _).trans ?_
  simp only [Core.setQ, combine_eq_combTable, hf]

end

theorem predLogicWord_eq (cond : BitVec 4) (qd qa qb : BitVec 3) (na nb : Bool) :
    (predDecoded cond qd qa qb na nb 3).word
      = cond ++ (0x03 : BitVec 6) ++ qd ++ qa ++ qb ++ BitVec.ofBool na ++ BitVec.ofBool nb ++ (3 : BitVec 11) := by
  apply BitVec.eq_of_toNat_eq
  unfold predDecoded
  simp only [toNat_append_add]
  norm_num
  rw [show (3 : BitVec 2).toNat = 3 from rfl, show (3 : BitVec 11).toNat = 3 from rfl, show (0 : BitVec 9).toNat = 0 from rfl]
  omega

/-- Settles O10: each assigned form completes with the combined result of the tables; the unassigned ones meet decode's check. -/
theorem compareResults : Obligations.CompareResults := by
  unfold Obligations.CompareResults
  intro k cond qd qa qb comb ra rb cc imm na nb op s d h
  have hcc := cc.isLt
  have legal (h : cc.toNat < 6 ∨ imm.toNat < 32) : (Nat.ble 6 cc.toNat && Nat.ble 32 imm.toNat) = false := by
    rw [← Bool.not_eq_true, Bool.and_eq_true, Nat.ble_eq, Nat.ble_eq]
    omega
  refine ⟨instr_ordinary_congr h fun x => ?_, fun h4 => ?_, fun h45 => ?_, fun h6 hi => ?_, fun h6 hi ht => ?_, fun h3 => ?_, fun ht => ?_⟩
  · exact congrArg (fun b => { x with q := setPredicate x.q qd.toNat b })
      ((combine_eq_combTable ..).trans (congrArg _ (cmpResult_eq_compareTable _ _ hcc)))
  · exact (instr_cmpi h (legal (by omega)) fun a => (cmpiResult_signed a imm h4).trans (cmpResult_eq_compareTable _ _ hcc) :)
  · have h45 : 4 ≤ cc.toNat ∧ cc.toNat < 6 := by rcases h45 with rfl | rfl <;> decide
    exact (instr_cmpi h (legal (by omega)) fun a => (cmpiResult_unsigned a imm h45.1 h45.2).trans (cmpResult_eq_compareTable _ _ hcc) :)
  · exact (instr_cmpi h (legal (.inr hi)) fun a => cmpiResult_bit a imm h6 hi :)
  · exact instr_decodeFault h rfl ht (decodeFault_illegal (dd := cmpiDecoded cond qd comb ra cc imm) (by simp [cmpiDecoded, h6, hi]) rfl) _
  · refine (instr_onCore h (decodeFault_legal (beq_false_of_ne h3) rfl rfl rfl) rfl _).trans ?_
    simp only [predLogic_eq_getD op _ _ h3]
  · exact predLogicWord_eq cond qd qa qb na nb ▸ instr_decodeFault h rfl ht (decodeFault_illegal rfl rfl) _

end Sys2Proof.Machine
end

section
/-! SUPPORT. What the passing of an instruction changes of a core: the events counted, the position in the program, the product. -/

namespace Sys2Proof.Machine

/-! ### Events and retirement -/

theorem Core.bump_eq (x : Core) (n : Nat) : ∃ a b, x.bump n = { x with pmcnt := a, pmovf := b } := by
  unfold Core.bump
  dsimp only
  split
  · exact ⟨_, _, rfl⟩
  · exact ⟨_, _, rfl⟩

/-- An event changes the programmable counters and their flags alone (R154, R156). -/
theorem Core.event_eq (k ev : Nat) (x : Core) : ∃ a b, x.event k ev = { x with pmcnt := a, pmovf := b } := by
  have counts : ∀ (l : List Nat) (y : Core), ∃ a b, l.foldl
      (fun x n => if x.pmctl.bit n && (sget zeroWord x.pmsel n).bits 7 0 = ev then x.bump n else x) y = { y with pmcnt := a, pmovf := b } := by
    intro l
    induction l with
    | nil => exact fun y => ⟨y.pmcnt, y.pmovf, rfl⟩
    | cons n l ih =>
      intro y
      rw [List.foldl_cons]
      split
      · obtain ⟨a, b, hb⟩ := y.bump_eq n
        rw [hb]
        exact ih _
      · exact ih y
  unfold Core.event
  split
  · exact ⟨x.pmcnt, x.pmovf, rfl⟩
  · exact counts _ x

/-- A retirement changes counters and their flags alone (R154, R156). -/
theorem Core.retire_eq (k : Nat) (x : Core) : ∃ a b r, x.retire k = { x with pmcnt := a, pmovf := b, pmret := r } := by
  unfold Core.retire
  dsimp only
  split
  · split
    · obtain ⟨a, b, h⟩ := Core.event_eq k 0x02 { x with pmret := x.pmret + 1, pmovf := x.pmovf.setBit 9 true }
      exact ⟨a, b, _, h⟩
    · obtain ⟨a, b, h⟩ := Core.event_eq k 0x02 { x with pmret := x.pmret + 1 }
      exact ⟨a, b, _, h⟩
  · obtain ⟨a, b, h⟩ := Core.event_eq k 0x02 x
    exact ⟨a, b, x.pmret, h⟩

/-- The pending product after one position has passed. -/
def passed (p : Option Product) : Option Product := p.map fun p => ⟨p.val, p.left - 1⟩

theorem Core.passPosition_eq (x : Core) : x.passPosition = { x with prod := passed x.prod } := by
  unfold Core.passPosition passed
  split
  next p h => rw [h]; rfl
  next h => cases x; subst h; rfl

/-- Where execution goes on after the instruction at the pc (R86). -/
def Core.follows (x : Core) : Word := match x.slot with | some s => s.cont | none => x.pc + 4

theorem Core.advance_retire (k : Nat) (x : Core) :
    x.advance k = ({ x with prod := passed x.prod, pc := x.follows, slot := none } : Core).retire k := by
  unfold Core.advance Core.follows
  rw [Core.passPosition_eq]
  cases hs : x.slot with
  | some s => rfl
  | none => cases x; subst hs; rfl

/-- An instruction that completes moves the core on, counts its retirement, and lets a position of the shadow pass (R77, R86, R156). -/
theorem Core.advance_eq (k : Nat) (x : Core) : ∃ a b r,
    x.advance k = { x with prod := passed x.prod, pc := x.follows, slot := none, pmcnt := a, pmovf := b, pmret := r } := by
  rw [Core.advance_retire]
  exact Core.retire_eq k _

/-! ### The pending product -/

theorem halves_append (v : DWord) : (v >>> 32).truncate 32 ++ v.truncate 32 = v := by
  apply BitVec.eq_of_toNat_eq
  have := v.isLt
  rw [toNat_append_add, BitVec.toNat_setWidth, BitVec.toNat_setWidth, BitVec.toNat_ushiftRight, Nat.shiftRight_eq_div_pow]
  omega

theorem Core.showProduct_none {x : Core} (h : x.prod = none) : x.showProduct = x := by
  simp [Core.showProduct, h]

theorem Core.showProduct_some {x : Core} {p : Product} (h : x.prod = some p) :
    x.showProduct = { x with ph := (p.val >>> 32).truncate 32, pl := p.val.truncate 32, prod := none } := by
  simp [Core.showProduct, h]

@[simp] theorem Core.showProduct_prod (x : Core) : x.showProduct.prod = none := by
  cases h : x.prod with
  | none => rw [x.showProduct_none h, h]
  | some p => rw [x.showProduct_some h]

@[simp] theorem Core.showProduct_showProduct (x : Core) : x.showProduct.showProduct = x.showProduct :=
  Core.showProduct_none x.showProduct_prod

@[simp] theorem Core.showProduct_rd (x : Core) (n : Nat) : x.showProduct.rd n = x.rd n := by
  cases h : x.prod with
  | none => rw [x.showProduct_none h]
  | some p => rw [x.showProduct_some h]; rfl

theorem Core.ripen_of_left {x : Core} {p : Product} (h : x.prod = some p) (hp : p.left ≠ 0) : x.ripen = x := by
  simp [Core.ripen, h, hp]

theorem Core.ripen_of_over {x : Core} {p : Product} (h : x.prod = some p) (hp : p.left = 0) : x.ripen = x.showProduct := by
  simp [Core.ripen, h, hp]

theorem Core.ripen_of_none {x : Core} (h : x.prod = none) : x.ripen = x := by
  simp [Core.ripen, h]

end Sys2Proof.Machine
end

section
/-! O12: the product instructions, division, and the shadow. -/

namespace Sys2Proof.Machine

/-! ### Products and quotients as numbers -/

theorem signExtend_mul (a b : Word) : a.signExtend 64 * b.signExtend 64 = BitVec.ofInt 64 (a.toInt * b.toInt) := by
  apply BitVec.eq_of_toInt_eq
  rw [BitVec.toInt_mul, BitVec.toInt_signExtend_of_le (by decide), BitVec.toInt_signExtend_of_le (by decide), BitVec.toInt_ofInt]

theorem zeroExtend_mul (a b : Word) : a.zeroExtend 64 * b.zeroExtend 64 = BitVec.ofNat 64 (a.toNat * b.toNat) := by
  apply BitVec.eq_of_toNat_eq
  rw [BitVec.toNat_mul, BitVec.toNat_setWidth, BitVec.toNat_setWidth, BitVec.toNat_ofNat, ← Nat.mul_mod]

/-- The quotient of R76 truncates towards zero; that of the least number by -1 wraps to itself. -/
theorem divPair_eq (a b : Word) : divPair a b = if b = 0 then a ++ (0xFFFFFFFF : Word)
    else BitVec.ofInt 32 (a.toInt.tmod b.toInt) ++ BitVec.ofInt 32 (a.toInt.tdiv b.toInt) := by
  unfold divPair
  split
  · rfl
  · split
    next h =>
      obtain ⟨rfl, rfl⟩ := h
      decide
    next =>
      have hquot : a.sdiv b = BitVec.ofInt 32 (a.toInt.tdiv b.toInt) :=
        BitVec.eq_of_toInt_eq ((BitVec.toInt_sdiv a b).trans (BitVec.toInt_ofInt ..).symm)
      rw [hquot, ← BitVec.toInt_srem, BitVec.ofInt_toInt]

theorem divuPair_eq (a b : Word) : divuPair a b = if b = 0 then a ++ (0xFFFFFFFF : Word)
    else BitVec.ofNat 32 (a.toNat % b.toNat) ++ BitVec.ofNat 32 (a.toNat / b.toNat) := by
  unfold divuPair
  split
  · rfl
  · rw [← BitVec.toNat_umod, ← BitVec.toNat_udiv, BitVec.ofNat_toNat, BitVec.ofNat_toNat, BitVec.setWidth_eq, BitVec.setWidth_eq]
    rfl

/-- A product instruction completes with its result pending, in the terms of any function that agrees with its own. -/
theorem instr_product {k : Nat} {cond : BitVec 4} {s : State} {d : Chip} (h : s.chip.prepared k false = some d) (ra rb shadow : Nat)
    {f g : DWord → Word → Word → DWord} (hfg : ∀ p a b, f p a b = g p a b) :
    instr k cond ordinary (product k ra rb shadow f) s = .next (s.ran k (d.complete k cond fun x =>
      { x.showProduct with prod := some ⟨g (x.showProduct.ph ++ x.showProduct.pl) (x.rd ra) (x.rd rb), shadow + 1⟩ })) :=
  instr_ordinary_congr h fun x => by
    simp only [Core.setProduct, Core.showProduct_showProduct, Core.showProduct_rd, hfg]
    rfl

/-- Settles O12: the results by the facts about products and quotients; the shadow by what an advance makes of a pending product. -/
theorem productOperations : Obligations.ProductOperations := by
  unfold Obligations.ProductOperations
  refine ⟨fun k cond rd ra rb s d h => ?_, fun k x p hp hleft => ?_, fun k s v hp => ?_⟩
  · refine ⟨(instr_product h ra.toNat rb.toNat 2 fun _ a b => signExtend_mul a b :),
      (instr_product h ra.toNat rb.toNat 2 fun _ a b => zeroExtend_mul a b :),
      (instr_product h ra.toNat rb.toNat 2 fun p a b => congrArg (p + ·) (signExtend_mul a b) :),
      (instr_product h ra.toNat rb.toNat 2 fun p a b => congrArg (p + ·) (zeroExtend_mul a b) :),
      (instr_product h ra.toNat rb.toNat 2 fun p a b => congrArg (p - ·) (signExtend_mul a b) :),
      (instr_product h ra.toNat rb.toNat 12 fun _ a b => divPair_eq a b :),
      (instr_product h ra.toNat rb.toNat 12 fun _ a b => divuPair_eq a b :),
      instr_ordinary h _, instr_ordinary h _, instr_ordinary h _, instr_ordinary h _⟩
  · obtain ⟨a, b, r, ha⟩ := x.advance_eq k
    rw [ha, hp]
    exact ⟨rfl, rfl, rfl, x.ripen_of_left hp (by omega)⟩
  · have hripe : (s.chip.core k).ripen = _ := (Core.ripen_of_over hp rfl).trans (Core.showProduct_some hp)
    have hcore : ((s.chip.modCore k Core.ripen).core k) = _ := (Chip.core_modCore_same ..).trans hripe
    refine ⟨_, rfl, ?_, ?_, ?_⟩
    · rw [hcore]
      exact halves_append v
    · rw [hcore]
    · rw [hcore]
      exact congrArg (fun c => ({ s with chip := c } : State)) (by exact Chip.modCore_congr hripe)

end Sys2Proof.Machine
end

section
/-! O13 to O15: conditions, branches and slots. -/

namespace Sys2Proof.Machine

/-! ### An instruction without effect -/

theorem complete_id (c : Chip) (k : Nat) (cond : BitVec 4) : c.complete k cond id = endStep k (c.modCore k (Core.advance k)) := by
  unfold Chip.complete
  exact congrArg _ (Chip.modCore_congr (by simp))

/-- A word of the hint space has no effect, whatever it would be otherwise (R67). -/
theorem instr_hint {k : Nat} {s : State} {d : Chip} (h : s.chip.prepared k false = some d) (dd : Decoded) (op : Chip → Res)
    (cond : BitVec 4) : instr k 8 dd op s = .next (s.ran k (d.complete k cond id)) := by
  rw [complete_id]
  unfold instr
  rw [State.go_eq, runAt_prepared h]
  rfl

/-- Outside a slot a false condition leaves an instruction that may not stand in one without effect, too (R65). -/
theorem instr_not_taken_outside {k : Nat} {cond : BitVec 4} {s : State} {d : Chip} (h : s.chip.prepared k false = some d) {dd : Decoded}
    (hs : (d.core k).slot = none) (ht : (d.core k).takes cond = false) (op : Chip → Res) :
    instr k cond dd op s = .next (s.ran k (d.complete k cond id)) := by
  by_cases h8 : cond = 8
  · exact h8 ▸ instr_hint h dd op cond
  · have hc : condTrue (d.core k).q cond = false := by rwa [Core.takes, bne_iff_ne.mpr h8, Bool.true_and] at ht
    rw [complete_id]
    unfold instr
    rw [State.go_eq, runAt_prepared h]
    simp only [operate, if_neg h8, hs, hc, Option.isSome_none, Bool.and_false, Bool.false_eq_true, if_false, Bool.not_false, if_true]
    rfl

/-- Settles O13: every instruction is `instr` with its own operation, which a false condition leaves out. -/
theorem falseConditionHasNoEffect : Obligations.FalseConditionHasNoEffect := by
  unfold Obligations.FalseConditionHasNoEffect
  intro k cond i4 r1 r2 r3 i7 i8 i9 i10 i12 i13 i16 p1 p2 p3 m1 b1 b2 low word s d h ht
  refine ⟨?_, fun hs => instr_not_taken_outside h hs ht _, instr_hint h _ _ 8, instr_hint h _ _ 8, fun hw => ?_⟩
  · repeat refine List.forall_mem_cons.mpr ⟨instr_not_taken h rfl ht _, ?_⟩
    exact List.forall_mem_nil _
  · have hcond : (word.extractLsb' 28 4).toNat = word.bits 31 28 := rfl
    rcases hw with hw | ⟨hw, hmajor⟩
    · have h8 : word.extractLsb' 28 4 = 8 := BitVec.eq_of_toNat_eq (hcond.trans hw)
      refine Eq.trans ?_ (instr_hint h ⟨word, within 0x20 0x24 (word.bits 27 22), false,
        if Nat.ble 0x3C (word.bits 27 22) then some (word.bits 27 22 - 0x3C) else none, true⟩ Res.done cond)
      rw [← h8]
      rfl
    · have hc : word.extractLsb' 28 4 = cond := BitVec.eq_of_toNat_eq (hcond.trans hw)
      have hslot : within 0x20 0x24 (word.bits 27 22) = false := by
        rw [← Bool.not_eq_true, within_iff]
        exact hmajor
      exact (congrArg (fun x => instr k x _ Res.done s) hc).trans (instr_not_taken h hslot ht Res.done)

/-! ### Branches -/

theorem Core.branch_eq (k : Nat) (x : Core) (taken : Bool) (target : Word) (annul : Bool) : ∃ a b r,
    x.branch k taken target annul = { x with
      prod := passed x.prod, slot := some ⟨if taken then target else x.pc + 8, annul && !taken⟩, pc := x.pc + 4,
      pmcnt := a, pmovf := b, pmret := r } := by
  unfold Core.branch
  rw [Core.passPosition_eq]
  obtain ⟨a, b, r, hr⟩ := Core.retire_eq k { x with
    prod := passed x.prod, slot := some ⟨if taken then target else x.pc + 8, annul && !taken⟩, pc := x.pc + 4 }
  obtain ⟨a', b', he⟩ := Core.event_eq k 0x03 { x with
    prod := passed x.prod, slot := some ⟨if taken then target else x.pc + 8, annul && !taken⟩, pc := x.pc + 4,
    pmcnt := a, pmovf := b, pmret := r }
  exact ⟨a', b', r, (congrArg (Core.event k 0x03) hr).trans he⟩

/-- An operation that changes the core by `f` and its predictor, and goes on at `target`. -/
def Jumps (k : Nat) (d : Chip) (f : Core → Core) (target : Word) (annul : Bool) (r : Res) : Prop :=
  ∃ p, r = .branch (d.modCore k fun x => { f x with pred := p }) true target annul

theorem jump_jumps (k : Nat) (target : Core → Word) (link : Core → Core) (call annul : Bool) (d : Chip) :
    Jumps k d link (target (d.core k)) annul (jump k target link call annul d) := by
  unfold Jumps jump
  dsimp only
  split
  · exact ⟨_, congrArg (Res.branch · _ _ _) (Chip.modCore_congr rfl)⟩
  · exact ⟨(link (d.core k)).pred, congrArg (Res.branch · _ _ _) (Chip.modCore_congr rfl)⟩

/-- Popping the return stack changes the predictor alone (R126). -/
theorem bodyJr_jumps (k : Nat) (annul : Bool) (ra : BitVec 5) (d : Chip) :
    Jumps k d id ((d.core k).rd ra.toNat) annul (bodyJr k annul ra d) := by
  have straight := jump_jumps k (fun x => x.rd ra.toNat) id false annul d
  unfold bodyJr popReturn
  dsimp only
  split
  · split
    · obtain ⟨p, hp⟩ := jump_jumps k (fun x => x.rd ra.toNat) id false annul
        (d.modCore k fun x => { x with pred := { x.pred with ras := x.pred.ras.tail } })
      rw [Chip.modCore_modCore, Chip.core_modCore_same] at hp
      exact ⟨p, hp⟩
    · exact straight
  · exact straight

/-- Training changes the predictor alone, before the branch completes (R124). -/
theorem settle_trainWith (k : Nat) (cond : BitVec 4) (c : Chip) (t : Bool) (a : Word) (n : Bool) :
    ∃ p, settle k (trainWith k cond (.branch c t a n)) = c.modCore k fun x => ({ x with pred := p } : Core).branch k t a n := by
  unfold trainWith
  dsimp only
  split
  · refine ⟨(c.core k).pred.train (c.core k).pc (cond != 0) t a, ?_⟩
    rw [settle, Chip.modCore_modCore]
    exact Chip.modCore_congr rfl
  · exact ⟨(c.core k).pred, by rw [settle]; exact Chip.modCore_congr rfl⟩

/-- The core after a branch with the effect `f` where it is taken (R86). -/
def Core.Branched (x : Core) (f : Core → Core) (taken : Bool) (target : Word) (annul : Bool) (y : Core) : Prop :=
  ∃ p a b r, y = { if taken then f x else x with
    pred := p, prod := passed (if taken then f x else x).prod, pc := (if taken then f x else x).pc + 4, pmcnt := a, pmovf := b, pmret := r,
    slot := some ⟨if taken then target else (if taken then f x else x).pc + 8, annul && !taken⟩ }

theorem branch_branched (k : Nat) (x : Core) (f : Core → Core) (p : Predictor) (taken : Bool) (target : Word) (annul : Bool) :
    x.Branched f taken target annul (({ if taken then f x else x with pred := p } : Core).branch k taken target annul) := by
  obtain ⟨a, b, r, h⟩ := Core.branch_eq k { if taken then f x else x with pred := p } taken target annul
  exact ⟨p, a, b, r, h⟩

/-- Outside a slot a branch completes as taken where its condition holds, and as not taken where it does not (R86). -/
theorem instrBranch_outside {k : Nat} {cond : BitVec 4} {s : State} {d : Chip} (h : s.chip.prepared k true = some d) (annul : Bool)
    {dd : Decoded} (hd : decodeFault k (d.core k) dd = none) (h8 : cond ≠ 8) {op : Chip → Res} {f : Core → Core} {target : Word}
    (hop : Jumps k d f target annul (op d)) :
    ∃ y, instrBranch k cond annul dd op s = .next (s.ran k (d.setCore k y))
      ∧ (d.core k).Branched f (condTrue (d.core k).q cond) target annul y := by
  have hran (e : Chip) (he : settle k (operateBranch k cond annul dd op d) = e) :
      instrBranch k cond annul dd op s = .next (s.ran k e) := by
    unfold instrBranch
    rw [State.go_eq, runAt_prepared h, he]
    rfl
  unfold operateBranch at hran
  simp only [if_neg h8, hd] at hran
  cases hc : condTrue (d.core k).q cond with
  | true =>
    obtain ⟨p, hp⟩ := hop
    obtain ⟨p', hp'⟩ := settle_trainWith k cond (d.modCore k fun x => { f x with pred := p }) true target annul
    rw [Chip.modCore_modCore] at hp'
    refine ⟨_, hran _ (by rw [hc, if_pos rfl, hp, hp']; rfl), branch_branched k _ f p' true target annul⟩
  | false =>
    obtain ⟨p, hp⟩ := settle_trainWith k cond d false 0 annul
    exact ⟨_, hran _ (by rw [hc, if_neg (by decide), hp]; rfl), branch_branched k _ f p false 0 annul⟩

/-- A branch encoding outside a slot passes the checks of decode. -/
theorem decodeFault_branch {k : Nat} {x : Core} {dd : Decoded} (hi : dd.illegal = false) (hs : dd.sup = false) (hc : dd.cp = none)
    (hx : x.slot = none) : decodeFault k x dd = none := by
  simp [decodeFault, hi, hs, hc, hx]

/-- A branch encoding or ERET in a slot is a slot fault (R88). -/
theorem decodeFault_slot {k : Nat} {x : Core} {dd : Decoded} {sl : Slot} (hi : dd.illegal = false) (hn : dd.noSlot = true)
    (hx : x.slot = some sl) : decodeFault k x dd = some (0x02, dd.word) := by
  simp [decodeFault, hi, hn, hx]

theorem dispBytes_eq (disp : BitVec 21) : dispBytes disp = disp.signExtend 32 * 4 := by
  rw [dispBytes, BitVec.shiftLeft_eq_mul_twoPow]
  rfl

theorem bodyB_jumps (k : Nat) (annul : Bool) (disp : BitVec 21) (d : Chip) :
    Jumps k d id ((d.core k).pc + disp.signExtend 32 * 4) annul (bodyB k annul disp d) := by
  rw [← dispBytes_eq]
  exact jump_jumps k (fun x => x.pc + dispBytes disp) id false annul d

theorem bodyBl_jumps (k : Nat) (annul : Bool) (disp : BitVec 21) (d : Chip) :
    Jumps k d (fun x => x.wr 31 (x.pc + 8)) ((d.core k).pc + disp.signExtend 32 * 4) annul (bodyBl k annul disp d) := by
  rw [← dispBytes_eq]
  exact jump_jumps k (fun x => x.pc + dispBytes disp) (fun x => x.wr 31 (x.pc + 8)) true annul d

theorem bodyJlr_jumps (k : Nat) (annul : Bool) (ra rd : BitVec 5) (d : Chip) :
    Jumps k d (fun x => x.wr rd.toNat (x.pc + 8)) ((d.core k).rd ra.toNat) annul (bodyJlr k annul ra rd d) :=
  jump_jumps k (fun x => x.rd ra.toNat) (fun x => x.wr rd.toNat (x.pc + 8)) (rd == 31) annul d

/-- A core with the link of a branch at its pc, if it writes one (R85). -/
def linked (link : Option (BitVec 5)) (x : Core) : Core :=
  match link with
  | some r => x.wr r.toNat (x.pc + 8)
  | none => x

theorem linked_rd (link : Option (BitVec 5)) (x : Core) (n : Nat) :
    (linked link x).rd n = if link.map BitVec.toNat = some n ∧ n ≠ 0 then x.pc + 8 else x.rd n := by
  cases link with
  | none => simp [linked]
  | some r =>
    by_cases hr : n = r.toNat
    · subst hr
      by_cases h0 : r.toNat = 0
      · simp [linked, h0, Core.wr]
      · simp [linked, h0, Core.rd_wr_same]
    · simp [linked, Core.rd_wr_other _ _ hr, Ne.symm hr]

theorem linked_keeps (link : Option (BitVec 5)) (x : Core) : (linked link x).pc = x.pc ∧ (linked link x).q = x.q
    ∧ (linked link x).status = x.status ∧ (linked link x).resv = x.resv := by
  cases link with
  | none => exact ⟨rfl, rfl, rfl, rfl⟩
  | some r => unfold linked Core.wr; dsimp only; split <;> exact ⟨rfl, rfl, rfl, rfl⟩

/-- What O14 says of a branch whose link register, if any, is `link`. -/
theorem branch_leaves {k : Nat} {cond : BitVec 4} {s : State} {d : Chip} (h : s.chip.prepared k true = some d) (annul : Bool)
    {dd : Decoded} (hd : decodeFault k (d.core k) dd = none) (h8 : cond ≠ 8) {op : Chip → Res} {f : Core → Core} {target : Word}
    (hop : Jumps k d f target annul (op d)) (link : Option (BitVec 5)) (hf : f (d.core k) = linked link (d.core k)) :
    ∃ e, instrBranch k cond annul dd op s = .next (s.ran k e) ∧ e.mem = d.mem ∧ e.regs = d.regs
      ∧ (e.core k).pc = (d.core k).pc + 4
      ∧ (e.core k).slot = some ⟨if condTrue (d.core k).q cond then target else (d.core k).pc + 8, annul && !condTrue (d.core k).q cond⟩
      ∧ (∀ n, (e.core k).rd n = if condTrue (d.core k).q cond ∧ link.map BitVec.toNat = some n ∧ n ≠ 0 then (d.core k).pc + 8
          else (d.core k).rd n)
      ∧ (e.core k).q = (d.core k).q ∧ (e.core k).status = (d.core k).status ∧ (e.core k).resv = (d.core k).resv
      ∧ ∀ j, j ≠ k → e.core j = d.core j := by
  obtain ⟨y, hy, p, a, b, r, rfl⟩ := instrBranch_outside h annul hd h8 hop
  refine ⟨_, hy, rfl, rfl, ?_⟩
  rw [Chip.core_setCore_same]
  generalize condTrue (d.core k).q cond = taken
  obtain ⟨hpc, hq, hst, hrs⟩ := linked_keeps link (d.core k)
  cases taken with
  | true =>
    simp only [if_pos, hf, hpc]
    exact ⟨trivial, trivial, fun n => (linked_rd link _ n).trans (by simp), hq, hst, hrs, fun j hj => Chip.core_setCore_other _ _ hj⟩
  | false => exact ⟨rfl, rfl, fun n => (by simp; rfl), rfl, rfl, rfl, fun j hj => Chip.core_setCore_other _ _ hj⟩

/-- Settles O14: each branch jumps to its own target with its own link. -/
theorem branchResults : Obligations.BranchResults := by
  unfold Obligations.BranchResults
  intro k cond annul disp ra rd s d h hslot h8
  have hd (dd : Decoded) (hi : dd.illegal = false) (hs : dd.sup = false) (hc : dd.cp = none) : decodeFault k (d.core k) dd = none :=
    decodeFault_branch hi hs hc hslot
  exact ⟨branch_leaves h annul (hd _ rfl rfl rfl) h8 (bodyB_jumps k annul disp d) none rfl,
    branch_leaves h annul (hd _ rfl rfl rfl) h8 (bodyBl_jumps k annul disp d) (some 31) rfl,
    branch_leaves h annul (hd _ rfl rfl rfl) h8 (bodyJr_jumps k annul ra d) none rfl,
    branch_leaves h annul (hd _ rfl rfl rfl) h8 (bodyJlr_jumps k annul ra rd d) (some rd) rfl⟩

/-! ### Slots -/

section
variable {k : Nat} {s : State} {sl : Slot} (hr : s.chip.canRun k = true) (hs : (s.chip.core k).slot = some sl) (ha : sl.annulled = true)
include hs ha

theorem chip_annulled : s.chip.annulled k = true := by
  rw [Chip.annulled, hs]
  exact ha

include hr

/-- An annulled slot passes, whatever instruction it holds (R88). -/
theorem instr_annulled (cond : BitVec 4) (dd : Decoded) (op : Chip → Res) :
    instr k cond dd op s = .next (s.ran k (endStep k (s.chip.modCore k (Core.advance k)))) :=
  congrArg (fun c => Host.Outcome.next ({ s with chip := c } : State)) (runAt_annulled false hr (chip_annulled hs ha) _)

theorem instrBranch_annulled (cond : BitVec 4) (annul : Bool) (dd : Decoded) (op : Chip → Res) :
    instrBranch k cond annul dd op s = .next (s.ran k (endStep k (s.chip.modCore k (Core.advance k)))) :=
  congrArg (fun c => Host.Outcome.next ({ s with chip := c } : State)) (runAt_annulled true hr (chip_annulled hs ha) _)

end

/-- A branch encoding in a slot raises the slot fault with its word, whatever its condition but 8 (R88). -/
theorem instrBranch_slotFault {k : Nat} {cond : BitVec 4} {s : State} {d : Chip} (h : s.chip.prepared k true = some d) {sl : Slot}
    (hs : (d.core k).slot = some sl) (h8 : cond ≠ 8) (annul : Bool) {dd : Decoded} (hi : dd.illegal = false) (hn : dd.noSlot = true)
    (op : Chip → Res) : instrBranch k cond annul dd op s = .next (s.ran k (d.except k 0x02 dd.word)) := by
  unfold instrBranch
  rw [State.go_eq, runAt_prepared h]
  simp only [operateBranch, if_neg h8, decodeFault_slot hi hn hs]
  rfl

/-- So does ERET. -/
theorem instr_slotFault {k : Nat} {cond : BitVec 4} {s : State} {d : Chip} (h : s.chip.prepared k false = some d) {sl : Slot}
    (hs : (d.core k).slot = some sl) (h8 : cond ≠ 8) {dd : Decoded} (hi : dd.illegal = false) (hn : dd.noSlot = true)
    (op : Chip → Res) : instr k cond dd op s = .next (s.ran k (d.except k 0x02 dd.word)) := by
  have hf := decodeFault_slot (k := k) (dd := { dd with illegal := dd.illegal && condTrue (d.core k).q cond }) (by simp [hi]) hn hs
  simp only [hn] at hf
  unfold instr
  rw [State.go_eq, runAt_prepared h]
  simp only [operate, if_neg h8, hn, hs, Option.isSome_some, Bool.and_self, if_true, hf]
  rfl

/-- Two fields of zeros next to each other are one. -/
theorem append_zeros {n : Nat} (x : BitVec n) (i j : Nat) :
    (x ++ BitVec.ofNat i 0 ++ BitVec.ofNat j 0).toNat = (x ++ BitVec.ofNat (i + j) 0).toNat := by
  simp [Nat.shiftLeft_add]

/-- Settles O15: an annulled slot by what `runAt` makes of it, a slot fault by decode's check. -/
theorem branchSlots : Obligations.BranchSlots := by
  unfold Obligations.BranchSlots
  refine ⟨fun k cond annul disp rd ra rb off word s sl hs => ⟨fun x hx => ?_, fun hr ha => ?_⟩,
    fun k cond annul disp ra rd s d sl hs h8 => ⟨fun h => ⟨instrBranch_slotFault h hs h8 annul rfl rfl _,
      instrBranch_slotFault h hs h8 annul rfl rfl _, ?_, instrBranch_slotFault h hs h8 annul rfl rfl _⟩, fun h => ?_⟩⟩
  · obtain ⟨a, b, r, he⟩ := x.advance_eq k
    rw [he]
    exact ⟨by simp [Core.follows, hx], rfl⟩
  · simp only [List.forall_mem_cons]
    exact ⟨instr_annulled hr hs ha _ _ _, instr_annulled hr hs ha _ _ _, instr_annulled hr hs ha _ _ _, instrBranch_annulled hr hs ha _ _ _ _,
      instrBranch_annulled hr hs ha _ _ _ _, instr_annulled hr hs ha _ _ _, instr_annulled hr hs ha _ _ _, List.forall_mem_nil _⟩
  · have hw : (jumpWord cond 0x22 annul ra 0).word
        = cond ++ (0x22 : BitVec 6) ++ BitVec.ofBool annul ++ (0 : BitVec 4) ++ ra ++ (0 : BitVec 12) :=
      BitVec.eq_of_toNat_eq (append_zeros _ 5 7)
    exact hw ▸ instrBranch_slotFault h hs h8 annul rfl rfl _
  · have hw : cp0Word cond 4 0 0 = cond ++ (0x3C : BitVec 6) ++ (4 : BitVec 4) ++ (0 : BitVec 18) :=
      BitVec.eq_of_toNat_eq (append_zeros _ 5 13)
    exact hw ▸ instr_slotFault h hs h8 rfl rfl _

end Sys2Proof.Machine
end

section
/-! O29, O30: hints, illegal words, coprocessors, and counters before their wrap. -/

namespace Sys2Proof.Machine

/-! ### Coprocessors -/

theorem cpFault_eq {k n : Nat} {x : Core} (h1 : n = 1 ∨ n = 2) (hx : Core.kind k = n → x.status.bit (3 + n) = false) :
    cpFault k x n = some (BitVec.ofNat 32 (n + if Core.kind k = n then 256 else 0)) := by
  have hcp : hasCp k n = decide (Core.kind k = n) := by rcases h1 with rfl | rfl <;> simp [hasCp]
  unfold cpFault
  rw [hcp]
  by_cases hk : Core.kind k = n
  · rw [if_neg (by simp [hk]), if_neg (by omega), hx hk, if_pos hk]
    rfl
  · rw [if_pos (by simp [hk]), if_neg hk]
    rfl

/-- The coprocessor exception ranks above all but the checks of slot and privilege: the rest of the word is not looked at (R119). -/
theorem decodeFault_coprocessor {k n : Nat} {x : Core} {dd : Decoded} {a : Word} (hn : dd.noSlot = false) (hs : dd.sup = false)
    (hc : dd.cp = some n) (hf : cpFault k x n = some a) : decodeFault k x dd = some (0x04, a) := by
  simp [decodeFault, hn, hs, hc, hf]

/-- Settles O30: decode finds the coprocessor exception first. -/
theorem coprocessorExceptions : Obligations.CoprocessorExceptions := by
  unfold Obligations.CoprocessorExceptions
  intro k cond i4 r1 r2 r3 i7 p1 m1 b1 s d h ht
  refine ⟨fun h1 => ?_, fun h2 => ?_⟩
  · have hf := cpFault_eq (.inl rfl) h1
    repeat refine List.forall_mem_cons.mpr ⟨instr_decodeFault h rfl ht (decodeFault_coprocessor rfl rfl rfl hf) _, ?_⟩
    exact List.forall_mem_nil _
  · have hf := cpFault_eq (.inr rfl) h2
    repeat refine List.forall_mem_cons.mpr ⟨instr_decodeFault h rfl ht (decodeFault_coprocessor rfl rfl rfl hf) _, ?_⟩
    exact List.forall_mem_nil _

/-! ### Illegal words -/

/-- An illegal word whose condition holds raises the exception that decode finds, outside a slot whatever its major (R66). -/
theorem instr_illegal_outside {k : Nat} {cond : BitVec 4} {s : State} {d : Chip} (h : s.chip.prepared k false = some d) {dd : Decoded}
    (hs : (d.core k).slot = none) (ht : (d.core k).takes cond = true) (hi : dd.illegal = true) (hc : dd.cp = none)
    (op : Chip → Res) : instr k cond dd op s = .next (s.ran k (d.except k 0x01 dd.word)) := by
  unfold instr
  rw [State.go_eq, runAt_prepared h]
  simp only [Core.takes, Bool.and_eq_true, bne_iff_ne] at ht
  simp only [operate, if_neg ht.1, hs, decodeFault_illegal hi hc, ht.2, Option.isSome_none, Bool.and_false, Bool.false_eq_true, if_false,
    Bool.not_true]
  rfl

/-! ### Counters -/

/-- The core whose counter `n` has wrapped (R154). -/
def Core.wrapped (x : Core) (n : Nat) : Core :=
  { if n < 8 then { x with pmcnt := sset (fun _ => 0) x.pmcnt n 0 } else if n = 8 then { x with pmcyc := 0 } else { x with pmret := 0 } with
    pmovf := x.pmovf.setBit n true }

theorem wrapped_results (x : Core) (n : Fin 10) : (x.wrapped n).pmovf = x.pmovf.setBit n true ∧ (x.wrapped n).g = x.g
    ∧ (x.wrapped n).pc = x.pc ∧ (n.val < 8 → sget (fun _ => (0 : DWord)) (x.wrapped n).pmcnt n = 0)
    ∧ (n.val = 8 → (x.wrapped n).pmcyc = 0) ∧ (n.val = 9 → (x.wrapped n).pmret = 0) := by
  unfold Core.wrapped
  split
  · exact ⟨rfl, rfl, rfl, fun _ => sget_sset_same x.pmcnt n.val 0, by omega, by omega⟩
  · split
    · exact ⟨rfl, rfl, rfl, by omega, fun _ => rfl, by omega⟩
    · exact ⟨rfl, rfl, rfl, by omega, by omega, fun _ => rfl⟩

theorem exec_pmcOverflow_wraps {k : Fin 64} {n : Fin 10} {s : State} (hw : (s.chip.core k).wraps k n = true) :
    exec (.pmcOverflow k n) s = .next (s.ran k (s.chip.modCore k fun x => x.wrapped n)) := by
  have hx : exec (.pmcOverflow k n) s = execPmcOverflow k n s := rfl
  rw [hx, execPmcOverflow, State.go_eq, if_pos hw, State.ran, State.at]
  refine congrArg (fun c => Host.Outcome.next ({ s with chip := pmcIrq k (s.chip.core k).pmovf c } : State)) (Chip.modCore_congr ?_)
  unfold Core.wrapped
  dsimp only
  split
  · rfl
  · split <;> rfl

theorem exec_pmcOverflow_not {k : Fin 64} {n : Fin 10} {s : State} (hw : (s.chip.core k).wraps k n = false) :
    exec (.pmcOverflow k n) s = .next s := by
  have hx : exec (.pmcOverflow k n) s = execPmcOverflow k n s := rfl
  rw [hx, execPmcOverflow, State.go_eq, hw, if_neg (by decide)]

/-- Settles O29: hints and illegal words by decode's checks, the counter by what its wrap makes of the core. -/
theorem hintsIllegalWordsAndOverflow : Obligations.HintsIllegalWordsAndOverflow := by
  unfold Obligations.HintsIllegalWordsAndOverflow
  intro k low ra off word n s
  refine ⟨fun d h => ⟨(instr_hint h ordinary Res.done 8).trans (by rw [complete_id]),
    (instr_hint h ordinary Res.done 8).trans (by rw [complete_id]), fun ht hs hm => ?_, fun ht hm => ?_⟩, exec_pmcOverflow_not, fun hw => ?_⟩
  · refine instr_illegal_outside h hs ht rfl (if_neg ?_) Res.done
    rw [Nat.ble_eq]
    omega
  · refine instr_decodeFault h ?_ ht (decodeFault_coprocessor ?_ rfl (n := 3) ?_ rfl) Res.done
    · rw [hm]; rfl
    · rw [hm]; rfl
    · rw [hm]; rfl
  · have hres := wrapped_results (s.chip.core k) n
    refine ⟨_, exec_pmcOverflow_wraps hw, ?_, ?_⟩
    · rw [Chip.core_modCore_same]; rfl
    · rw [Chip.core_modCore_same]
      exact hres

end Sys2Proof.Machine
end

section
/-! O6: the frame of what completes and of what raises an exception. -/

namespace Sys2Proof.Machine

/-! ### Sensing one source -/

section
variable {α : Type} {p : Chip → α} {key : Nat} (hs : ∀ c y, p (Chip.setSrc c key y) = p c) (hf : ∀ c : Chip, p (c.flag ICU_STAT_CFG_ERR) = p c)
include hs hf

theorem pend_keepsAt (o pm : Nat) (r : Bool) (c : Chip) : p (pend key o pm r c) = p c := by
  unfold pend
  dsimp only
  split
  · rfl
  · split
    · exact hf c
    · exact hs c _

theorem edgeEvent_keepsAt (o pm : Nat) (c : Chip) : p (edgeEvent key o pm c) = p c := by
  unfold edgeEvent
  dsimp only
  split
  · rfl
  · split
    · exact pend_keepsAt hs hf o pm false c
    · exact hs c _
    · exact hs c _

theorem senseLevel_keepsAt (l : Bool) (o pm : Nat) (c : Chip) : p (senseLevel key l o pm c) = p c := by
  unfold senseLevel
  dsimp only
  split
  · rfl
  · have edge (d : Chip) : p (edgeEvent key o pm d) = p d := edgeEvent_keepsAt hs hf o pm d
    refine Eq.trans ?_ (hs c { c.src key with level := l })
    split
    · split
      · exact edge _
      · rfl
    · split
      · rfl
      · exact edge _
    · exact edge _
    · split
      · exact pend_keepsAt hs hf o pm false _
      · rfl

end

/-- What sensing the core's source 30 leaves alone, an overflow of its counters leaves alone (R154). -/
theorem pmcIrq_keepsAt {α : Type} {p : Chip → α} {k : Nat} (hs : ∀ c y, p (Chip.setSrc c (srcKey k 30) y) = p c)
    (hf : ∀ c : Chip, p (c.flag ICU_STAT_CFG_ERR) = p c) (old : Word) (c : Chip) : p (pmcIrq k old c) = p c := by
  unfold pmcIrq raisePrivate
  dsimp only
  rw [if_pos rfl]
  split
  · exact senseLevel_keepsAt hs hf ..
  · rfl

/-! ### The end of a step -/

theorem Core.ripen_eq (x : Core) : ∃ pl ph pr, x.ripen = { x with pl := pl, ph := ph, prod := pr } := by
  unfold Core.ripen Core.showProduct
  split
  · split
    · exact ⟨_, _, _, rfl⟩
    · exact ⟨x.pl, x.ph, x.prod, rfl⟩
  · exact ⟨x.pl, x.ph, x.prod, rfl⟩

/-- A halt makes a product visible whose shadow is over, and ends the reservation and a WAIT (R609). -/
theorem Core.halt_eq (x : Core) (causes hit : Nat) : ∃ pl ph pr d,
    x.halt causes hit = { x with pl := pl, ph := ph, prod := pr, resv := none, waiting := false, dbg := d } := by
  obtain ⟨pl, ph, pr, hr⟩ := x.ripen_eq
  unfold Core.halt
  rw [hr]
  exact ⟨pl, ph, pr, _, rfl⟩

theorem Core.halt_of_prod_none {x : Core} (h : x.prod = none) (causes hit : Nat) : ∃ d,
    x.halt causes hit = { x with resv := none, waiting := false, dbg := d } := by
  unfold Core.halt
  rw [Core.ripen_of_none h]
  exact ⟨_, rfl⟩

/-- At the end of a step the core halts, or nothing happens (R89, R610). -/
theorem endStep_cases (k : Nat) (c : Chip) : endStep k c = c ∨ ∃ causes hit, endStep k c = haltCore k causes hit c := by
  unfold endStep
  dsimp only
  split
  · exact .inl rfl
  · split
    · exact .inr ⟨_, _, rfl⟩
    · split
      · exact .inr ⟨_, _, rfl⟩
      · exact .inl rfl

/-- Without a step and without a halt asked for, nothing happens. -/
theorem endStep_running {k : Nat} {c : Chip} (hs : (c.core k).dbg.stepping = false) (hh : (c.core k).dbg.haltHit = none) :
    endStep k c = c := by
  unfold endStep
  simp only [hs, hh, Bool.false_eq_true, if_false, ite_self]

section
variable (k : Nat) (c : Chip)

/-- What a halt leaves alone, the end of a step leaves alone. -/
theorem endStep_keeps {α : Type} {p : Chip → α} (hp : ∀ causes hit, p (haltCore k causes hit c) = p c) : p (endStep k c) = p c := by
  rcases endStep_cases k c with h | ⟨causes, hit, h⟩
  · rw [h]
  · rw [h, hp]

@[simp] theorem endStep_mem : (endStep k c).mem = c.mem := endStep_keeps k c fun _ _ => rfl
@[simp] theorem endStep_count : (endStep k c).count = c.count := endStep_keeps k c fun _ _ => rfl
@[simp] theorem endStep_power : (endStep k c).power = c.power := endStep_keeps k c fun _ _ => rfl

theorem endStep_reg {r : Nat} (h : r ≠ DBG_EVT) : (endStep k c).reg r = c.reg r :=
  endStep_keeps k c (p := fun d => d.reg r) fun _ _ => Chip.reg_flag_other _ h

theorem core_endStep_other {j : Nat} (h : j ≠ k) : (endStep k c).core j = c.core j :=
  endStep_keeps k c (p := fun d => d.core j) fun causes hit =>
    Chip.core_modCore_other c (fun x => x.halt causes hit) h

/-- At the end of a step the core has halted, or it is as it was. -/
theorem core_endStep : (endStep k c).core k = c.core k ∨ ∃ causes hit, (endStep k c).core k = (c.core k).halt causes hit := by
  rcases endStep_cases k c with h | ⟨causes, hit, h⟩
  · exact .inl (congrArg (fun e => Chip.core e k) h)
  · exact .inr ⟨causes, hit, (congrArg (fun e => Chip.core e k) h).trans (Chip.core_modCore_same c k fun x => x.halt causes hit)⟩

/-- What a halt of the core leaves alone, the end of a step leaves alone. -/
theorem core_endStep_keeps {α : Type} {p : Core → α} (hp : ∀ x causes hit, p (Core.halt x causes hit) = p x) :
    p ((endStep k c).core k) = p (c.core k) := by
  rcases core_endStep k c with h | ⟨causes, hit, h⟩
  · rw [h]
  · rw [h, hp]

end

/-! ### Exceptions -/

theorem Core.noFlush_eq (x : Core) : ∃ p, x.noFlush = { x with pred := p } := by
  unfold Core.noFlush
  split
  · exact ⟨_, rfl⟩
  · exact ⟨x.pred, rfl⟩

/-- After an instruction: what its passing and a halt behind it change of the core. -/
theorem core_endStep_advance (k : Nat) (c : Chip) (y : Core) (h : c.core k = y.advance k) : ∃ a b r pl ph pr rs w d,
    (endStep k c).core k = { y with
      pc := y.follows, slot := none, pmcnt := a, pmovf := b, pmret := r, pl := pl, ph := ph, prod := pr, resv := rs, waiting := w, dbg := d } := by
  obtain ⟨a, b, r, ha⟩ := y.advance_eq k
  rw [ha] at h
  rcases core_endStep k c with he | ⟨causes, hit, he⟩
  · exact ⟨a, b, r, _, _, _, _, _, _, he.trans h⟩
  · obtain ⟨pl, ph, pr, d, hd⟩ := (c.core k).halt_eq causes hit
    rw [h] at hd
    rw [h] at he
    exact ⟨a, b, r, pl, ph, pr, none, false, d, he.trans hd⟩

/-- After an exception entry: what a halt behind it changes of the core. -/
theorem core_endStep_entered {k : Nat} {c : Chip} (h : (c.core k).prod = none) : ∃ rs w d,
    (endStep k c).core k = { c.core k with resv := rs, waiting := w, dbg := d } := by
  rcases core_endStep k c with he | ⟨causes, hit, he⟩
  · exact ⟨_, _, _, he⟩
  · obtain ⟨d, hd⟩ := Core.halt_of_prod_none h causes hit
    exact ⟨none, false, d, he.trans hd⟩

/-- The predictor has no part in a product's becoming visible. -/
theorem Core.ripen_pred (x : Core) (p : Predictor) : ({ x with pred := p } : Core).ripen = { x.ripen with pred := p } := by
  obtain ⟨g, q, pl, ph, pc, prod, _⟩ := x
  cases prod with
  | none => rfl
  | some pr => by_cases h0 : pr.left = 0 <;> simp [Core.ripen, Core.showProduct, h0]

/-- What exception entry changes of the core (R114). -/
theorem Core.trap_eq (x : Core) (cause : Nat) (addr : Word) : ∃ es epl eph epc etgt cz ea pc p,
    x.trap cause addr = { x with
      estat := es, epl := epl, eph := eph, epc := epc, etgt := etgt, cause := cz, eaddr := ea, pc := pc, pred := p,
      pl := x.ripen.pl, ph := x.ripen.ph, status := (x.status.setBit 0 true).setBit 1 false,
      resv := none, prod := none, slot := none, waiting := false } := by
  obtain ⟨p, hp⟩ := x.noFlush_eq
  obtain ⟨pl, ph, pr, he⟩ := x.ripen_eq
  unfold Core.trap Core.enter
  rw [hp, Core.ripen_pred, he]
  exact ⟨_, _, _, _, _, _, _, _, _, rfl⟩

/-- Settles O6: completion by what an advance and the end of a step change, exceptions by what their entry changes, and the overflow
interrupt by what sensing one source changes. -/
theorem completionFrame : Obligations.CompletionFrame := by
  unfold Obligations.CompletionFrame
  intro c k cond f cause addr
  refine ⟨⟨⟨?_, ?_, ?_, fun r hr => ?_, fun j hj => ?_⟩, ?_⟩, ⟨⟨?_, ?_, ?_, fun r hr => ?_, fun j hj => ?_⟩, ?_⟩, fun old => ⟨?_, ?_, ?_,
      fun j => ?_, fun r hr => ?_, fun j hj => ?_, fun h => ?_⟩⟩
  · exact endStep_mem _ _
  · exact endStep_count _ _
  · exact endStep_power _ _
  · exact endStep_reg _ _ hr
  · exact (core_endStep_other _ _ hj).trans (Chip.core_modCore_other c _ hj)
  · have hm := Chip.core_modCore_same c k fun x => (if x.takes cond then f x else x).advance k
    obtain ⟨a, b, r, pl, ph, pr, rs, w, dbg, hz⟩ := core_endStep_advance k _ _ hm
    dsimp only [Chip.complete]
    generalize (if (c.core k).takes cond = true then f (c.core k) else c.core k) = y at hm hz ⊢
    rw [hz]
    refine ⟨rfl, rfl, rfl, rfl, rfl, rfl, rfl, rfl, rfl, rfl, rfl, rfl, rfl, rfl, rfl, rfl, rfl, rfl, rfl, rfl, rfl, rfl, rfl, rfl, rfl,
        rfl, rfl, fun hs hh => ?_⟩
    obtain ⟨a', b', r', ha⟩ := y.advance_eq k
    rw [ha] at hm
    have hdbg := congrArg Core.dbg hm
    rw [← hz, endStep_running ((congrArg CoreDebug.stepping hdbg).trans hs) ((congrArg CoreDebug.haltHit hdbg).trans hh), hm]
    refine ⟨rfl, rfl, rfl, rfl, rfl, ?_⟩
    cases y.prod <;> simp [passed]
  · exact endStep_mem _ _
  · exact endStep_count _ _
  · exact endStep_power _ _
  · exact endStep_reg _ _ hr
  · exact (core_endStep_other _ _ hj).trans (Chip.core_modCore_other c _ hj)
  · have hm := Chip.core_modCore_same c k fun x => x.trap cause addr
    obtain ⟨es, epl, eph, epc, etgt, cz, ea, pc, p, ht⟩ := (c.core k).trap_eq cause addr
    rw [ht] at hm
    obtain ⟨rs, w, dbg, hz⟩ := core_endStep_entered (congrArg Core.prod hm)
    dsimp only [Chip.except]
    rw [hz, hm]
    refine ⟨rfl, rfl, rfl, rfl, rfl, rfl, rfl, rfl, rfl, rfl, rfl, rfl, rfl, fun n h2 h32 => ?_⟩
    exact (Word.bit_setBit_other _ _ (by decide) (by omega)).trans (Word.bit_setBit_other _ _ (by decide) (by omega))
  · exact pmcIrq_keepsAt (fun _ _ => rfl) (fun _ => rfl) old c
  · exact pmcIrq_keepsAt (fun _ _ => rfl) (fun _ => rfl) old c
  · exact pmcIrq_keepsAt (fun _ _ => rfl) (fun _ => rfl) old c
  · exact pmcIrq_keepsAt (p := fun d => d.core j) (fun _ _ => rfl) (fun _ => rfl) old c
  · exact pmcIrq_keepsAt (p := fun d => d.reg r) (fun _ _ => rfl) (fun _ => Chip.reg_flag_other _ hr) old c
  · exact pmcIrq_keepsAt (p := fun d => d.src j) (fun _ _ => sget_sset_other _ _ hj) (fun _ => rfl) old c
  · exact if_neg (by simp [h])

end Sys2Proof.Machine
end

section
/-! O24, O25: exception entry and the return from it. -/

namespace Sys2Proof.Machine

/-! ### The saved state word -/

theorem testBit_decide (n i : Nat) : n.testBit i = decide (n / 2 ^ i % 2 = 1) := Nat.testBit_eq_decide_div_mod_eq

/-- The fields of csr_estat (R114). -/
theorem estatOf_fields (x : Core) (inslot imprecise : Bool) {n : Nat} (hn : n ≤ 12) :
    let w := estatOf x inslot imprecise n
    w.bit 0 = x.status.bit 0 ∧ w.bit 1 = x.status.bit 1 ∧ w.bit 2 = inslot ∧ w.bit 3 = imprecise ∧ w.bits 7 4 = 0 ∧ w.bits 31 12 = 0
      ∧ w.bits 11 8 = n := by
  unfold estatOf
  generalize x.status.bit 0 = a
  generalize x.status.bit 1 = b
  have ha := a.toNat_lt
  have hb := b.toNat_lt
  have hc := inslot.toNat_lt
  have hd := imprecise.toNat_lt
  have hlt : a.toNat + 2 * b.toNat + 4 * inslot.toNat + 8 * imprecise.toNat + 256 * n < 2 ^ 32 := by omega
  dsimp only
  unfold Word.bit
  simp only [bits_eq_div_mod, Word.toNat_of, Nat.mod_eq_of_lt hlt, testBit_decide]
  have one (b : Bool) {m : Nat} (h : m = b.toNat) : decide (m = 1) = b := by cases b <;> simp [h]
  refine ⟨one a ?_, one b ?_, one inslot ?_, one imprecise ?_, ?_, ?_, ?_⟩ <;> omega

/-- A product that is pending behind `ripen` has a position of its shadow left. -/
theorem Core.ripen_prod (x : Core) : x.ripen.prod = none ∨ ∃ p, x.ripen.prod = some p ∧ x.prod = some p ∧ p.left ≠ 0 := by
  cases hx : x.prod with
  | none => exact .inl (by rw [Core.ripen_of_none hx, hx])
  | some p =>
    by_cases h0 : p.left = 0
    · exact .inl (by rw [Core.ripen_of_over hx h0, Core.showProduct_some hx])
    · exact .inr ⟨p, by rw [Core.ripen_of_left hx h0, hx], rfl, h0⟩

theorem vectorOf_word (cause : Nat) :
    Word.of (vectorOf cause) = (if cause = 0x0C then 0x200 else if cause = 0x10 then 0x100 else 0 : Word) := by
  unfold vectorOf
  split
  · rfl
  · split <;> rfl

/-- Settles O24: the entry writes the fields of csr_estat beside each other, and a pending product has at most 12 positions left. -/
theorem exceptionEntry : Obligations.ExceptionEntry := by
  unfold Obligations.ExceptionEntry
  intro x cause addr epc slot hleft hcause
  obtain ⟨pl, ph, pr, hr⟩ := x.ripen_eq
  have hp := x.ripen_prod
  dsimp only
  unfold Core.enter
  rw [hr] at hp ⊢
  dsimp only at hp ⊢
  have hc : (Word.of cause).toNat = cause := by
    rw [Word.toNat_of]
    exact Nat.mod_eq_of_lt (by omega)
  have rest : ∀ sl, slot = some sl → (match slot with | some s => s.cont | none => x.etgt) = sl.cont := by
    rintro sl rfl
    rfl
  have hi : ((x.status.setBit 0 true).setBit 1 false).bit 0 = true :=
    (Word.bit_setBit_other _ _ (by decide) (by decide)).trans (Word.bit_setBit_same _ _ (by decide))
  have hn (n : Nat) (h2 : 2 ≤ n) (h : n < 32) : ((x.status.setBit 0 true).setBit 1 false).bit n = x.status.bit n :=
    (Word.bit_setBit_other _ _ (by decide) (by omega)).trans (Word.bit_setBit_other _ _ (by decide) (by omega))
  rcases hp with hp | ⟨p, hp, hx, h0⟩
  · subst hp
    obtain ⟨f0, f1, f2, f3, f4, f5, f6⟩ := estatOf_fields x slot.isSome (cause == 0x0B) (Nat.zero_le 12)
    exact ⟨f0, f1, f2, f3, f4, f5, ⟨f6, rfl, rfl⟩, rfl, hc, rfl, rest, hi, Word.bit_setBit_same _ _ (by decide), hn, rfl, rfl, rfl,
      congrArg _ (vectorOf_word cause), rfl, rfl, rfl, rfl, rfl, rfl, rfl, rfl, rfl, rfl, rfl⟩
  · subst hp
    obtain ⟨f0, f1, f2, f3, f4, f5, f6⟩ := estatOf_fields x slot.isSome (cause == 0x0B) (hleft p hx)
    exact ⟨f0, f1, f2, f3, f4, f5, ⟨by omega, f6, halves_append p.val⟩, rfl, hc, rfl, rest, hi, Word.bit_setBit_same _ _ (by decide), hn,
        rfl, rfl, rfl,
      congrArg _ (vectorOf_word cause), rfl, rfl, rfl, rfl, rfl, rfl, rfl, rfl, rfl, rfl, rfl⟩

/-! ### Instructions of CP0 -/

/-- An assigned word of CP0 passes the checks of decode outside a slot, or where it may stand in one, with the privilege it needs (R121). -/
theorem decodeFault_cp0 {k : Nat} {x : Core} {dd : Decoded} (hi : dd.illegal = false) (hn : (dd.noSlot && x.slot.isSome) = false)
    (hs : (dd.sup && !x.sup) = false) (hc : dd.cp = some 0) : decodeFault k x dd = none := by
  unfold decodeFault
  simp [hi, hn, hs, hc, cpFault, hasCp]

/-- Outside a slot, an instruction whose condition holds settles what its operation gives. -/
theorem instr_taken_outside {k : Nat} {cond : BitVec 4} {s : State} {d : Chip} (h : s.chip.prepared k false = some d) {dd : Decoded}
    (hd : decodeFault k (d.core k) dd = none) (hs : (d.core k).slot = none) (ht : (d.core k).takes cond = true)
    (op : Chip → Res) : instr k cond dd op s = .next (s.ran k (settle k (op d))) := by
  unfold instr
  rw [State.go_eq, runAt_prepared h]
  simp only [Core.takes, Bool.and_eq_true, bne_iff_ne] at ht
  simp only [operate, if_neg ht.1, hs, hd, ht.2, Option.isSome_none, Bool.and_false, Bool.false_eq_true, if_false, Bool.not_true]
  rfl

/-- What a return from an exception leaves of the core (R115). -/
theorem Core.eret_eq (x : Core) : ∃ pl ph,
    x.eret = { x with
      pl := pl, ph := ph, status := (x.status.setBit 0 (x.estat.bit 0)).setBit 1 (x.estat.bit 1), resv := none,
      prod := if x.estat.bits 11 8 = 0 then none else some ⟨x.eph ++ x.epl, min 12 (x.estat.bits 11 8)⟩,
      slot := if x.estat.bit 2 then some ⟨x.etgt, false⟩ else none, pc := x.epc }
    ∧ (ph ++ pl : DWord) = (match x.prod with | some p => p.val | none => x.pair) := by
  have hmin (n : Nat) (v : Product) : (if min 12 n = 0 then none else some v) = if n = 0 then none else some v := if_congr (by omega) rfl rfl
  unfold Core.eret
  dsimp only
  cases hx : x.prod with
  | none =>
    rw [Core.showProduct_none hx, hmin]
    exact ⟨x.pl, x.ph, rfl, rfl⟩
  | some p =>
    rw [Core.showProduct_some hx]
    dsimp only
    rw [hmin]
    exact ⟨_, _, rfl, halves_append p.val⟩

/-- Settles O25: the return writes the core as `eret_eq` says, and what follows it changes counters alone. -/
theorem returnFromException : Obligations.ReturnFromException := by
  unfold Obligations.ReturnFromException
  intro k cond s d h ht hslot hsup hstep hhit
  have hd : decodeFault k (d.core k) ⟨cp0Word cond 4 0 0, true, true, some 0, false⟩ = none :=
    decodeFault_cp0 rfl (by simp [hslot]) (by simp [hsup]) rfl
  obtain ⟨pl, ph, he, hpair⟩ := (d.core k).eret_eq
  obtain ⟨a, b, r, hr⟩ := Core.retire_eq k (d.core k).eret
  rw [he] at hr
  have hset : settle k (bodyEret k d) = d.modCore k fun x => x.eret.retire k := by
    have hcore := Chip.core_modCore_same d k fun x => x.eret.retire k
    rw [he, hr] at hcore
    have hdbg := congrArg Core.dbg hcore
    simp only [settle, bodyEret, Chip.modCore_modCore]
    exact endStep_running ((congrArg CoreDebug.stepping hdbg).trans hstep) ((congrArg CoreDebug.haltHit hdbg).trans hhit)
  refine ⟨d.modCore k fun x => x.eret.retire k, (instr_taken_outside h hd hslot ht _).trans (by rw [hset]), rfl, rfl, ?_⟩
  have hcore := Chip.core_modCore_same d k fun x => x.eret.retire k
  rw [he, hr] at hcore
  dsimp only
  rw [hcore]
  exact ⟨(Word.bit_setBit_other _ _ (by decide) (by decide)).trans (Word.bit_setBit_same _ _ (by decide)),
    Word.bit_setBit_same _ _ (by decide),
    fun n h2 h => (Word.bit_setBit_other _ _ (by decide) (by omega)).trans (Word.bit_setBit_other _ _ (by decide) (by omega)),
    rfl, rfl, rfl, rfl, hpair, rfl, rfl, rfl, rfl, rfl, rfl, fun j hj => Chip.core_modCore_other d _ hj⟩

end Sys2Proof.Machine
end

section
/-! O26: control registers. -/

namespace Sys2Proof.Machine

/-! ### Privilege and assigned numbers -/

/-- A word of CP0 that no encoding assigns is illegal in either mode (R66). -/
theorem decodeFault_cp0_illegal {k : Nat} {x : Core} {dd : Decoded} (hi : dd.illegal = true) (hc : dd.cp = some 0) :
    decodeFault k x dd = some (0x01, dd.word) := by
  unfold decodeFault
  simp [hi, hc, cpFault, hasCp]

/-- A privileged word of CP0 raises the privilege exception in user mode (R121). -/
theorem decodeFault_cp0_user {k : Nat} {x : Core} {dd : Decoded} (hi : dd.illegal = false) (hn : (dd.noSlot && x.slot.isSome) = false)
    (hs : dd.sup = true) (hx : x.sup = false) : decodeFault k x dd = some (0x03, dd.word) := by
  unfold decodeFault
  simp [hi, hn, hs, hx]

/-- Outside a slot, an instruction whose condition holds raises the exception that decode finds. -/
theorem instr_decodeFault_outside {k : Nat} {cond : BitVec 4} {s : State} {d : Chip} (h : s.chip.prepared k false = some d) {dd : Decoded}
    (hs : (d.core k).slot = none) (ht : (d.core k).takes cond = true) {cause : Nat} {a : Word}
    (hd : decodeFault k (d.core k) dd = some (cause, a)) (op : Chip → Res) :
    instr k cond dd op s = .next (s.ran k (d.except k cause a)) := by
  unfold instr
  rw [State.go_eq, runAt_prepared h]
  simp only [Core.takes, Bool.and_eq_true, bne_iff_ne] at ht
  simp only [operate, if_neg ht.1, hs, hd, ht.2, Option.isSome_none, Bool.and_false, Bool.false_eq_true, if_false, Bool.not_true]
  rfl

section
variable {k : Nat} {cond : BitVec 4} {s : State} {d : Chip} (h : s.chip.prepared k false = some d)
  {op : BitVec 4} {ga : BitVec 5} {csr : BitVec 10} {sup : Bool}
include h

/-- A privileged word of CP0 that may stand in a slot raises the privilege exception in user mode. -/
theorem instr_cp0_user (ht : (d.core k).takes cond = true) (hx : (d.core k).sup = false) (w : Word) {sup : Bool} (hsup : sup = true)
    (f : Chip → Res) : instr k cond ⟨w, false, sup, some 0, false⟩ f s = .next (s.ran k (d.except k 0x03 w)) :=
  instr_decodeFault h rfl ht (decodeFault_cp0_user rfl rfl hsup hx) f

theorem instr_csr_user (ht : (d.core k).takes cond = true) (hx : (d.core k).sup = false) (ha : csrAssigned csr.toNat = true)
    (hsup : sup = true) (f : Chip → Res) : instr k cond (csrDecoded cond op ga csr sup) f s
      = .next (s.ran k (d.except k 0x03 (cp0Word cond op ga (csr.zeroExtend 13)))) := by
  unfold csrDecoded
  rw [ha]
  exact instr_cp0_user h ht hx _ hsup f

theorem instr_csr_unassigned (ht : (d.core k).takes cond = true) (ha : csrAssigned csr.toNat = false) (f : Chip → Res) :
    instr k cond (csrDecoded cond op ga csr sup) f s = .next (s.ran k (d.except k 0x01 (cp0Word cond op ga (csr.zeroExtend 13)))) := by
  unfold csrDecoded
  rw [ha]
  exact instr_decodeFault h rfl ht (decodeFault_cp0_illegal rfl rfl) f

/-- An access to an assigned control register where it is allowed completes with its change of the core. -/
theorem instr_csr (ha : csrAssigned csr.toNat = true) (hs : (sup && !(d.core k).sup) = false) (f : Core → Core) :
    instr k cond (csrDecoded cond op ga csr sup) (onCore k f) s = .next (s.ran k (d.complete k cond f)) := by
  unfold csrDecoded
  rw [ha]
  exact instr_onCore h (decodeFault_cp0 rfl rfl hs rfl) rfl f

end

/-! ### What a write leaves -/

@[simp] theorem Core.showProduct_g (x : Core) : x.showProduct.g = x.g := by
  cases h : x.prod with
  | none => rw [x.showProduct_none h]
  | some q => rw [x.showProduct_some h]

@[simp] theorem Core.showProduct_resv (x : Core) : x.showProduct.resv = x.resv := by
  cases h : x.prod with
  | none => rw [x.showProduct_none h]
  | some q => rw [x.showProduct_some h]

theorem Core.setCsr_g (k : Nat) (x : Core) (n : Nat) (v : Word) : (x.setCsr k n v).g = x.g := by
  unfold Core.setCsr Core.writeCmp
  repeat' split
  all_goals simp

theorem Core.setCsr_resv (k : Nat) (x : Core) {n : Nat} (h : n ≠ 0x010) (v : Word) : (x.setCsr k n v).resv = x.resv := by
  unfold Core.setCsr Core.writeCmp
  repeat' split
  all_goals simp at h ⊢

theorem and_ones (v : Word) : v &&& 0xFFFFFFFF = v := BitVec.and_allOnes

/-- Settles O26: decode gives the faults, the body the change of the core, and a write leaves the writable bits of its register. -/
theorem controlRegisterUse : Obligations.ControlRegisterUse := by
  unfold Obligations.ControlRegisterUse
  refine ⟨fun k cond ga csr s d h ht => ⟨fun hx => ⟨fun ha => ?_, fun hs => ?_, ?_⟩, fun ha => ?_⟩,
    fun k cond ga csr s d h ha => ⟨fun hu => ?_, fun hx => ?_⟩, fun k x v => ?_⟩
  · exact ⟨instr_csr_user h ht hx ha rfl _, instr_csr_user h ht hx ha rfl _, instr_csr_user h ht hx ha rfl _,
      fun hu => instr_csr_user h ht hx ha (by rw [hu]; rfl) _⟩
  · exact instr_decodeFault_outside h hs ht (decodeFault_cp0_user rfl (by simp [hs]) rfl hx) _
  · exact ⟨instr_cp0_user h ht hx _ rfl _, instr_cp0_user h ht hx _ rfl _, instr_cp0_user h ht hx _ rfl _, instr_cp0_user h ht hx _ rfl _⟩
  · exact ⟨instr_csr_unassigned h ht ha _, instr_csr_unassigned h ht ha _, instr_csr_unassigned h ht ha _, instr_csr_unassigned h ht ha _⟩
  · refine instr_csr h ha ?_ _
    rcases hu with hu | hu <;> simp [hu]
  · have hs : (true && !(d.core k).sup) = false := by rw [hx]; rfl
    exact ⟨instr_csr h ha hs _, instr_csr h ha hs _, instr_csr h ha hs _⟩
  · refine ⟨?_, ?_, ⟨rfl, rfl⟩, rfl, rfl, rfl, rfl, fun n hn => x.setCsr_resv k hn v, fun n => x.setCsr_g k n v⟩
    · have plain : v = v &&& 0xFFFFFFFF := (and_ones v).symm
      simp only [List.forall_mem_cons]
      exact ⟨rfl, rfl, plain, rfl, plain, plain, plain, plain, rfl, plain, plain, rfl, rfl, rfl, List.forall_mem_nil _⟩
    · show (if k < 8 then ({ x with sbase := v &&& 0xFFFF0000 } : Core) else x).csr k 0x012 = _
      by_cases hk : k < 8
      · rw [if_pos hk, if_pos hk]
        exact if_pos hk
      · rw [if_neg hk, if_neg hk]
        exact if_neg hk

end Sys2Proof.Machine
end

section
/-! O27: REGSYNC, CLINE, RDPM, WAIT and SYSCALL. -/

namespace Sys2Proof.Machine

/-! ### What the writing back of a line leaves of the L2 -/

theorem dltAlloc_cache (c : Chip) (a off k : Nat) : (c.dltAlloc a off k).memc.cache = c.memc.cache := by
  have repair (d : Chip) (kind id off : Nat) : (d.repairAdd kind id off).memc = d.memc := by
    unfold Chip.repairAdd
    dsimp only
    split <;> rfl
  have journal (d : Chip) (cls kind o fl item data : Nat) : (d.journal cls kind o fl item data).memc = d.memc :=
    Chip.journal_keeps Chip.memc (fun _ _ => rfl) (fun _ => rfl) d cls kind o fl item data
  unfold Chip.dltAlloc
  split
  · rfl
  · dsimp only
    rw [repair, journal]
    rfl

theorem verify_cache (c : Chip) (r : Region) (k : Nat) : (c.verify r k).memc.cache = c.memc.cache := by
  unfold Chip.verify
  split
  · exact dltAlloc_cache ..
  · rfl

theorem freshWord_cache (c : Chip) (r : Region) (k : Nat) : (c.freshWord r k).memc.cache = c.memc.cache := by
  have hvalid (d : Chip) : (if memRegion r then d.setValid k else d).memc.cache = d.memc.cache := by split <;> rfl
  have hclean := hvalid ((c.setFlip k ⟨0, 0⟩).setPoison k false)
  unfold Chip.freshWord
  dsimp only
  generalize (if memRegion r then ((c.setFlip k ⟨0, 0⟩).setPoison k false).setValid k else (c.setFlip k ⟨0, 0⟩).setPoison k false) = d
    at hclean ⊢
  split
  · exact (verify_cache d r k).trans hclean
  · exact hclean

theorem plant_cache (c : Chip) (r : Region) (k : Nat) : (c.plant r k).memc.cache = c.memc.cache := by
  unfold Chip.plant
  split <;> split <;> rfl

/-- A line that has been written back is dirty no more (R160). -/
theorem writeBack_dirty (c : Chip) (pa : Nat) : (c.writeBack pa).dirty pa = none := by
  unfold Chip.writeBack
  split
  next h => exact h
  · dsimp only
    have hcache (d : Chip) (p : Nat) : (forAll (List.range 8)
        (fun j c => (((c.freshWord .dram (pa - pa % 64 + 8 * j)).setPoison (pa - pa % 64 + 8 * j) (p.testBit j)).plant .dram
          (pa - pa % 64 + 8 * j))) d).memc.cache = d.memc.cache :=
      forAll_same (p := fun d => d.memc.cache) 
        (fun j d => (plant_cache ((d.freshWord .dram (pa - pa % 64 + 8 * j)).setPoison (pa - pa % 64 + 8 * j) (p.testBit j)) _ _).trans
          (freshWord_cache d _ _)) _ d
    unfold Chip.dirty
    rw [hcache]
    exact sget_sset_same (α := Option DirtyLine) _ _ none

/-! ### What an operation settles to -/

theorem settle_done (k : Nat) (c : Chip) (f : Core → Core) :
    settle k (.done (c.modCore k f)) = endStep k (c.modCore k fun x => (f x).advance k) := by
  rw [settle, Chip.modCore_modCore]

/-- The word that REGSYNC, or a read by the region table, holds for an entry: gone for the entries in question (R108). -/
theorem sget_swipe_ctx {α : Type} (m : Sparse (Option α)) (ctx n : Nat) :
    sget (fun _ => none) (swipe m (ctx * 64) (ctx * 64 + 64)) n = if n / 64 = ctx then none else sget (fun _ => none) m n := by
  rw [sget_swipe]
  exact if_congr (by omega) rfl rfl

/-- The words of the region table that REGSYNC lets go (R108). -/
def Core.regsync (ga : BitVec 5) (x : Core) : Core :=
  let ctx := (x.rd ga.toNat).bits 7 0
  { x with held := if ga = 0 then [] else swipe x.held (ctx * 64) (ctx * 64 + 64) }

theorem sget_regsync (ga : BitVec 5) (x : Core) (n : Nat) : sget (fun _ => none) (x.regsync ga).held n =
    if ga = 0 ∨ n / 64 = (x.rd ga.toNat).bits 7 0 then none else sget (fun _ => none) x.held n := by
  unfold Core.regsync
  dsimp only
  by_cases hga : ga = 0
  · rw [if_pos hga, if_pos (.inl hga)]
    rfl
  · rw [if_neg hga, sget_swipe_ctx]
    simp only [hga, false_or]

/-- Settles O27: each body settles to its change of the core or of memory, and goes on. -/
theorem systemInstructionResults : Obligations.SystemInstructionResults := by
  unfold Obligations.SystemInstructionResults
  intro k cond ga gb kind code s d h ht
  have system {dd : Decoded} (hi : dd.illegal = false) (hn : dd.noSlot = false) (hs : (dd.sup && !(d.core k).sup) = false)
      (hc : dd.cp = some 0) (op : Chip → Res) : instr k cond dd op s = .next (s.ran k (settle k (op d))) :=
    instr_taken h (decodeFault_cp0 hi (by rw [hn]; rfl) hs hc) hn ht op
  refine ⟨fun hx => ?_, ⟨fun hx hk => ?_, fun hx hk hkind => ?_⟩, ?_, ?_⟩
  · have hsup : (true && !(d.core k).sup) = false := by rw [hx]; rfl
    refine ⟨⟨_, system rfl rfl hsup rfl _, rfl, ?_⟩, fun hirq => ?_, fun hirq => ?_⟩
    · obtain ⟨a, b, r, pl, ph, pr, rs, w, dbg, hz⟩ :=
        core_endStep_advance k _ _ (Chip.core_modCore_same d k fun x => (x.regsync ga).advance k)
      have hcore := (pmcIrq_core k (s.chip.core k).pmovf _ k).trans
        ((congrArg (Chip.core · k) (settle_done k d (Core.regsync ga))).trans hz)
      exact ⟨(congrArg Core.g hcore :), fun n =>
        (congrArg (fun x => sget (fun _ => none) (Core.held x) n) hcore :).trans (sget_regsync ga (d.core k) n)⟩
    · refine (system rfl rfl hsup rfl _).trans ?_
      rw [bodyWait, if_pos hirq]
      rfl
    · refine (system rfl rfl hsup rfl _).trans ?_
      rw [bodyWait, if_neg (by simp [hirq])]
      rfl
  · have hsup : ((kind == 1 || kind == 2) && !(d.core k).sup) = false := by
      rcases hx with hx | rfl | rfl <;> simp [*]
    refine (system rfl rfl hsup rfl _).trans ?_
    rw [bodyCline, if_pos (by simpa [Nat.ble_eq] using hk)]
    rfl
  · have hsup : ((kind == 1 || kind == 2) && !(d.core k).sup) = false := by
      rcases hx with hx | rfl <;> simp [*]
    have hbody : bodyCline k ga kind d = match clineAt k ga d with
        | (some pa, c) => .done (if kind == 1 then c.loseLine pa else c.writeBack pa)
        | (none, c) => .done c := if_neg (by
          rw [Bool.or_eq_true, not_or, Nat.ble_eq, beq_iff_eq]
          exact ⟨by omega, hkind⟩)
    refine ⟨fun pa e he => ⟨(system rfl rfl hsup rfl _).trans ?_, writeBack_dirty e pa⟩, fun e he => (system rfl rfl hsup rfl _).trans ?_⟩
    · rw [hbody, he]
      simp only [beq_iff_eq]
      rfl
    · rw [hbody, he]
      rfl
  · refine (system rfl rfl rfl rfl _).trans ?_
    unfold bodyRdpm
    rw [settle_done]
    rfl
  · refine (system rfl rfl rfl rfl _).trans ?_
    have hcode : Word.of code.toNat = code.zeroExtend 32 := BitVec.eq_of_toNat_eq (by simp)
    rw [← hcode]
    rfl

end Sys2Proof.Machine
end

section
/-! O28: interrupt points. -/

namespace Sys2Proof.Machine

/-- Exception entry asks neither for a halt nor counts. -/
theorem Core.enter_leaves (x : Core) (cause : Nat) (addr epc : Word) (slot : Option Slot) :
    (x.enter cause addr epc slot).dbg = x.dbg ∧ (x.enter cause addr epc slot).pmovf = x.pmovf := by
  obtain ⟨pl, ph, pr, hr⟩ := x.ripen_eq
  unfold Core.enter
  rw [hr]
  exact ⟨rfl, rfl⟩

/-- Where no overflow flag is new, none raises an interrupt (R154). -/
theorem pmcIrq_same {k : Nat} {old : Word} {c : Chip} (h : (c.core k).pmovf = old) : pmcIrq k old c = c := by
  unfold pmcIrq
  dsimp only
  rw [h]
  simp

/-- A core after its WAIT (R121). -/
def Core.woken (k : Nat) (x : Core) : Core := ({ x with waiting := false } : Core).advance k

theorem Core.woken_eq (k : Nat) (x : Core) : ∃ a b r,
    x.woken k = { x with prod := passed x.prod, pc := x.follows, slot := none, waiting := false, pmcnt := a, pmovf := b, pmret := r } :=
  Core.advance_eq k _

section
variable {k : Nat} {c : Chip}

theorem pointEvent_halt (hat : c.atPoint k = true) (hq : (c.core k).dbg.haltReq = true) :
    pointEvent k c = some (haltCore k 1 0 c) := by
  simp [pointEvent, hat, hq]

theorem pointEvent_busError (hat : c.atPoint k = true) (hq : (c.core k).dbg.haltReq = false) {a : Word} {l : List Word}
    (hb : (c.core k).busErrs = a :: l) : pointEvent k c = some (reportBusError k c) := by
  simp [pointEvent, hat, hq, hb]

/-- A store bus error that has arrived is taken (R112). -/
theorem reportBusError_taken (hslot : (c.core k).slot = none) (hs : (c.core k).dbg.stepping = false)
    (hh : (c.core k).dbg.haltHit = none) {a : Word} {l : List Word} (hb : (c.core k).busErrs = a :: l) :
    reportBusError k c = c.setCore k (({ c.core k with busErrs := l } : Core).enter 0x0B a (c.core k).pc none) := by
  have hdbg := (congrArg Core.dbg (Chip.core_setCore_same c k _)).trans (Core.enter_leaves { c.core k with busErrs := l } 0x0B a (c.core k).pc none).1
  unfold reportBusError
  dsimp only
  split
  next a' l' hb' _ =>
    cases hb.symm.trans hb'
    exact endStep_running ((congrArg CoreDebug.stepping hdbg).trans hs) ((congrArg CoreDebug.haltHit hdbg).trans hh)
  next hno => exact (hno a l hb hslot).elim

/-- An interrupt that is pending and enabled is taken (R113). -/
theorem pointEvent_interrupt (hat : c.atPoint k = true) (hq : (c.core k).dbg.haltReq = false) (hs : (c.core k).dbg.stepping = false)
    (hb : (c.core k).busErrs = []) (hirq : coreIrq k c = true) (hie : (c.core k).status.bit 1 = true) :
    pointEvent k c = some ((c.setCore k ((c.core k).enter 0x10 0 (c.core k).pc none)).interruptEntered k) := by
  simp [pointEvent, hat, hq, hb, Chip.irqDue, hirq, hie, hs, enterInterrupt]

/-- Without a halt asked for, a bus error or an interrupt that is enabled nothing comes before the next instruction. -/
theorem pointEvent_none (hq : (c.core k).dbg.haltReq = false) (hb : (c.core k).busErrs = []) (hie : (c.core k).status.bit 1 = false) :
    pointEvent k c = none := by
  simp [pointEvent, hq, hb, Chip.irqDue, hie]

theorem takeDue_point {d : Chip} (hr : c.canRun k = true) (hp : pointEvent k c = some d) : takeDue k c = d := by
  simp [takeDue, hr, hp]

theorem takeDue_none (hp : pointEvent k c = none) : takeDue k c = c := by
  simp [takeDue, hp]

theorem wakeCore_awake (hw : (c.core k).waiting = false) : wakeCore k c = c := by
  simp [wakeCore, hw]

/-- A WAIT that an interrupt ends is over, and execution goes on after it (R121). -/
theorem wakeCore_woken (hf : c.coreFree k = true) (hw : (c.core k).waiting = true) (hirq : coreIrq k c = true)
    (hs : (c.core k).dbg.stepping = false) (hh : (c.core k).dbg.haltHit = none) : wakeCore k c = c.modCore k (Core.woken k) := by
  obtain ⟨a, b, r, hwk⟩ := (c.core k).woken_eq k
  have hdbg := (congrArg Core.dbg (Chip.core_modCore_same c k (Core.woken k))).trans (congrArg Core.dbg hwk)
  unfold wakeCore
  rw [hf, hw, hirq]
  exact endStep_running ((congrArg CoreDebug.stepping hdbg).trans hs) ((congrArg CoreDebug.haltHit hdbg).trans hh)

/-- After its WAIT the core stands at an interrupt point, and can run. -/
theorem woken_atPoint (hf : c.coreFree k = true) (hd : c.drawingOn k = false) :
    (c.modCore k (Core.woken k)).canRun k = true ∧ (c.modCore k (Core.woken k)).atPoint k = true := by
  obtain ⟨a, b, r, hwk⟩ := (c.core k).woken_eq k
  have hcore := (Chip.core_modCore_same c k (Core.woken k)).trans hwk
  have hon : (c.modCore k (Core.woken k)).coreOn k = c.coreOn k := rfl
  have hdraw : (c.modCore k (Core.woken k)).drawingOn k = c.drawingOn k := rfl
  simp only [Chip.coreFree, Bool.and_eq_true] at hf
  simp [Chip.canRun, Chip.coreFree, Chip.atPoint, hcore, hon, hdraw, hf, hd]

/-- With IE set the interrupt that ended the WAIT is taken behind it. -/
theorem takeDue_woken (hf : c.coreFree k = true) (hd : c.drawingOn k = false) (hs : (c.core k).dbg.stepping = false)
    (hq : (c.core k).dbg.haltReq = false) (hb : (c.core k).busErrs = []) (hirq : coreIrq k c = true) :
    let w := c.modCore k (Core.woken k)
    takeDue k w = if (c.core k).status.bit 1 then (w.setCore k ((w.core k).enter 0x10 0 (w.core k).pc none)).interruptEntered k else w := by
  obtain ⟨a, b, r, hwk⟩ := (c.core k).woken_eq k
  have hcore := (Chip.core_modCore_same c k (Core.woken k)).trans hwk
  have hdbg := congrArg Core.dbg hcore
  have hst := congrArg (fun x => Word.bit (Core.status x) 1) hcore
  have hb' := (congrArg Core.busErrs hcore).trans hb
  have hq' := (congrArg CoreDebug.haltReq hdbg).trans hq
  obtain ⟨hrun, hat⟩ := woken_atPoint hf hd
  dsimp only at hst ⊢
  split
  next hie =>
    exact takeDue_point hrun (pointEvent_interrupt hat hq' ((congrArg CoreDebug.stepping hdbg).trans hs) hb' hirq (hst.trans hie))
  next hie => exact takeDue_none (pointEvent_none hq' hb' (hst.trans (by simpa using hie)))

end

section
variable {k : Nat} {s : State} {d : Chip} (hr : s.chip.canRun k = true) (hp : pointEvent k s.chip = some d)
include hr hp

theorem instr_point (cond : BitVec 4) (dd : Decoded) (op : Chip → Res) : instr k cond dd op s = .next (s.at d) := by
  unfold instr
  rw [State.go_eq, runAt_point false hr hp]
  rfl

theorem instrBranch_point (cond : BitVec 4) (annul : Bool) (dd : Decoded) (op : Chip → Res) :
    instrBranch k cond annul dd op s = .next (s.at d) := by
  unfold instrBranch
  rw [State.go_eq, runAt_point true hr hp]
  rfl

end

/-- INTERRUPT_ENTRY of a core that does not wait takes what is due. -/
theorem execInterruptEntry_point {k : Fin 64} {s : State} {d : Chip} (hr : s.chip.canRun k = true) (hp : pointEvent k s.chip = some d)
    (hov : (d.core k).pmovf = (s.chip.core k).pmovf) : exec (.interruptEntry k) s = .next (s.at d) := by
  have hw : (s.chip.core k).waiting = false := by
    simp only [Chip.canRun, Bool.and_eq_true, Bool.not_eq_true'] at hr
    exact hr.2
  show s.go (fun c => pmcIrq k (c.core k).pmovf (takeDue k (wakeCore k c))) = _
  rw [State.go_eq, wakeCore_awake hw, takeDue_point hr hp, pmcIrq_same hov]
  rfl

/-- What is due at an interrupt point comes before whatever the core would run. -/
theorem exec_point {k : Fin 64} {s : State} {d : Chip} (hr : s.chip.canRun k = true) (hp : pointEvent k s.chip = some d)
    (hov : (d.core k).pmovf = (s.chip.core k).pmovf) (cond : BitVec 4) (rd ra rb : BitVec 5) (off : BitVec 12) (annul : Bool)
    (disp : BitVec 21) (word : Word) :
    ∀ i ∈ ([.interruptEntry k, .add k cond rd ra rb, .lw k cond rd ra off, .sw k cond rd ra off, .b k cond annul disp,
      .eret k cond, .wait k cond, .illegalInstruction k word] : List Instr), exec i s = .next (s.at d) := by
  simp only [List.forall_mem_cons]
  exact ⟨execInterruptEntry_point hr hp hov, instr_point hr hp _ _ _, instr_point hr hp _ _ _, instr_point hr hp _ _ _,
    instrBranch_point hr hp _ _ _ _, instr_point hr hp _ _ _, instr_point hr hp _ _ _, instr_point hr hp _ _ _, List.forall_mem_nil _⟩

/-- Settles O28: what is due at the point comes first; a WAIT that an interrupt ends is over before it. -/
theorem interruptEntry : Obligations.InterruptEntry := by
  unfold Obligations.InterruptEntry
  intro k cond rd ra rb off annul disp word s c x entry woken anyOf hfree hslot hdraw hstep hhit
  have hat : c.atPoint k = true := by
    rw [Chip.atPoint, hdraw, hslot]
    rfl
  have hrun (hw : x.waiting = false) : c.canRun k = true := by
    rw [Chip.canRun, hfree, hw]
    rfl
  have hx : (c.core k).waiting = x.waiting := rfl
  have hset (y : Core) : (c.setCore k y).core k = y := Chip.core_setCore_same c k y
  have wake (hw : x.waiting = true) (hirq : coreIrq k c = true) (d : Chip) (hd : takeDue k (c.modCore k (Core.woken k)) = d) :
      ∀ i ∈ ([.waitResume k, .interruptEntry k] : List Instr), exec i s = .next (s.ran k d) := by
    have hwake := (congrArg (takeDue k) (wakeCore_woken hfree hw hirq hstep hhit)).trans hd
    have hresume : exec (.waitResume k) s
        = s.go fun c => if (c.core k).waiting then pmcIrq k (c.core k).pmovf (takeDue k (wakeCore k c)) else c := rfl
    have hentry : exec (.interruptEntry k) s = s.go fun c => pmcIrq k (c.core k).pmovf (takeDue k (wakeCore k c)) := rfl
    simp only [List.forall_mem_cons]
    refine ⟨?_, ?_, List.forall_mem_nil _⟩
    · rw [hresume, State.go_eq, if_pos hw, hwake]
      rfl
    · rw [hentry, State.go_eq, hwake]
      rfl
  refine ⟨fun hw hq => ?_, fun hq a l hb => ⟨?_, fun hw => ?_⟩,
    fun hq hb hirq => ⟨fun hw hie => ?_, fun hw hie => ?_, fun hw hie => ?_, fun hw hie => ?_⟩, fun hw hirq => ?_⟩
  · obtain ⟨pl, ph, pr, dbg, hh⟩ := (c.core k).halt_eq 1 0
    have hov := (congrArg Core.pmovf (Chip.core_modCore_same c k fun x => x.halt 1 0)).trans (congrArg Core.pmovf hh)
    exact exec_point (hrun hw) (pointEvent_halt hat hq) hov cond rd ra rb off annul disp word
  · show s.go (fun c => if c.coreFree k && c.atPoint k then reportBusError k c else c) = _
    have hguard : (s.chip.coreFree k && s.chip.atPoint k) = true := by rw [hfree, hat]; rfl
    rw [State.go_eq, if_pos hguard, reportBusError_taken hslot hstep hhit hb]
    rfl
  · have hov := (congrArg Core.pmovf (hset _)).trans (Core.enter_leaves { c.core k with busErrs := l } 0x0B a (c.core k).pc none).2
    exact exec_point (hrun hw) ((pointEvent_busError hat hq hb).trans (congrArg some (reportBusError_taken hslot hstep hhit hb))) hov cond
        rd ra rb off annul disp word
  · have hov := (congrArg Core.pmovf (hset _)).trans (Core.enter_leaves (c.core k) 0x10 0 (c.core k).pc none).2
    exact exec_point (hrun hw) (pointEvent_interrupt hat hq hstep hb hirq hie) hov cond rd ra rb off annul disp word
  · show s.go (fun c => pmcIrq k (c.core k).pmovf (takeDue k (wakeCore k c))) = _
    rw [State.go_eq, wakeCore_awake hw, takeDue_none (pointEvent_none hq hb hie), pmcIrq_same rfl]
  · refine wake hw hirq _ ?_
    rw [takeDue_woken hfree hdraw hstep hq hb hirq, if_pos hie]
    rfl
  · refine wake hw hirq _ ?_
    rw [takeDue_woken hfree hdraw hstep hq hb hirq, if_neg (Bool.eq_false_iff.mp hie)]
    rfl
  · show s.go (fun c => if (c.core k).waiting then pmcIrq k (c.core k).pmovf (takeDue k (wakeCore k c)) else c) = _
    have hsleep : wakeCore k c = c := by simp [wakeCore, hirq]
    have hstay : takeDue k c = c := by simp [takeDue, Chip.canRun, hx, hw]
    rw [State.go_eq, if_pos hw, hsleep, hstay, pmcIrq_same rfl]

end Sys2Proof.Machine
end

section
/-! O17, O18, O20, O21: loads, stores, reservations and the short window. -/

namespace Sys2Proof.Machine

/-! ### The outcomes of a load and of a store -/

section
variable {k n : Nat} {ea : Word} {ps : List (Phys × Nat)} {c e f g : Chip}

theorem loadPlaced_value {h : Nat → Core → Core} {v : Nat} (hw : c.accessWaits k false ps = false) (hf : fireWatch k .load ea n c = (.no, f))
    (hl : finishLoad k ea ps f = (.value v, g)) : loadPlaced k n ea ps h c = .done (g.modCore k (h v)) := by
  simp [loadPlaced, hw, hf, watchedRead, hl]

theorem loadPlaced_trap {h : Nat → Core → Core} {cause : Nat} {a : Word} (hw : c.accessWaits k false ps = false)
    (hf : fireWatch k .load ea n c = (.no, f)) (hl : finishLoad k ea ps f = (.trap cause a, g)) :
    loadPlaced k n ea ps h c = .trap g cause a := by
  simp [loadPlaced, hw, hf, watchedRead, hl]

theorem loadPlaced_waits {h : Nat → Core → Core} (hw : c.accessWaits k false ps = true) : loadPlaced k n ea ps h c = .hold c := by
  simp [loadPlaced, hw]

theorem storePlaced_stored {h : Core → Core} {v : Nat} (hw : c.accessWaits k true ps = false) (hf : fireWatch k .store ea n c = (.no, f))
    (hs : finishStore k ea ps (leBytes n v) f = (false, g)) : storePlaced k n ea ps v h c = .done (g.modCore k h) := by
  simp [storePlaced, hw, hf, watchedWrite, hs]

theorem storePlaced_waits {h : Core → Core} {v : Nat} (hw : c.accessWaits k true ps = true) : storePlaced k n ea ps v h c = .hold c := by
  simp [storePlaced, hw]

variable {locked : Bool}

theorem loadBody_ok {h : Nat → List (Phys × Nat) → Core → Core} (hc : checkAccess k .load ea n locked c = (.ok ps, e)) :
    loadBody k n locked ea h c = loadPlaced k n ea ps (fun v => h v ps) e := by
  simp [loadBody, hc]

theorem loadBody_error {h : Nat → List (Phys × Nat) → Core → Core} {cause : Nat} {a : Word}
    (hc : checkAccess k .load ea n locked c = (.error (cause, a), e)) : loadBody k n locked ea h c = .trap e cause a := by
  simp [loadBody, hc]

theorem storeBody_ok {h : Core → Core} {v : Nat} (hc : checkAccess k .store ea n locked c = (.ok ps, e)) :
    storeBody k n locked ea v h c = storePlaced k n ea ps v h e := by
  simp [storeBody, hc]

theorem storeBody_error {h : Core → Core} {v cause : Nat} {a : Word} (hc : checkAccess k .store ea n locked c = (.error (cause, a), e)) :
    storeBody k n locked ea v h c = .trap e cause a := by
  simp [storeBody, hc]

/-- A locked access that is not aligned fails its first check (R96). -/
theorem checkAccess_misaligned {u : Use} (h : ea.toNat % n ≠ 0) : checkAccess k u ea n true c = (.error (0x09, ea), c) := by
  simp [checkAccess, natural, h]

end

/-- The low bytes of a word, as a store takes them. -/
theorem leBytes_low (v : Word) (n : Nat) : leBytes n v.toNat = (List.range n).map fun j => v.extractLsb' (8 * j) 8 := by
  have bytes (n a : Nat) : leBytes n a = (List.range n).map fun j => BitVec.ofNat 8 (a / 256 ^ j) := by
    induction n generalizing a with
    | zero => rfl
    | succ n ih =>
      rw [List.range_succ_eq_map, List.map_cons, List.map_map, leBytes, ih]
      simp [Function.comp_def, Nat.div_div_eq_div_mul, Nat.pow_succ, Nat.mul_comm]
  rw [bytes]
  refine List.map_congr_left fun j _ => BitVec.eq_of_toNat_eq ?_
  rw [toNat_byteAt, BitVec.toNat_ofNat, pow_mul]
  norm_num

/-! ### Loads and stores as commands -/

section
variable {k : Fin 64} {cond : BitVec 4} {s : State} {d : Chip} (h : s.chip.prepared k false = some d) (ht : (d.core k).takes cond = true)
include h ht

theorem instr_body (op : Chip → Res) : instr k cond ordinary op s = .next (s.ran k (settle k (op d))) :=
  instr_taken h (decodeFault_plain ..) rfl ht op

/-- Every outcome of a load that no watch meets (R81, R99, R110). -/
theorem instr_loadTo (n : Nat) (rd : BitVec 5) (ext : Nat → Word) (ea : Chip → Word) :
    let i := instr k cond ordinary (fun c => loadTo k n rd ext (ea c) c) s
    (∀ ps e f v g, checkAccess k .load (ea d) n false d = (.ok ps, e) → e.accessWaits k false ps = false →
        fireWatch k .load (ea d) n e = (.no, f) → finishLoad k (ea d) ps f = (.value v, g) →
        i = .next (s.ran k (endStep k (g.modCore k fun x => ((x.wr rd.toNat (ext v)).loadRetires k).advance k))))
      ∧ (∀ ps e, checkAccess k .load (ea d) n false d = (.ok ps, e) → e.accessWaits k false ps = true → i = .next (s.ran k e))
      ∧ (∀ cause a e, checkAccess k .load (ea d) n false d = (.error (cause, a), e) → i = .next (s.ran k (e.except k cause a)))
      ∧ (∀ ps e f cause a g, checkAccess k .load (ea d) n false d = (.ok ps, e) → e.accessWaits k false ps = false →
        fireWatch k .load (ea d) n e = (.no, f) → finishLoad k (ea d) ps f = (.trap cause a, g) → i = .next (s.ran k (g.except k cause a))) := by
  intro i
  have hi : i = _ := instr_body h ht _
  unfold loadTo at hi
  refine ⟨fun ps e f v g hc hw hf hl => ?_, fun ps e hc hw => ?_, fun cause a e hc => ?_, fun ps e f cause a g hc hw hf hl => ?_⟩
  · rw [hi, loadBody_ok hc, loadPlaced_value hw hf hl, settle_done]
  · rw [hi, loadBody_ok hc, loadPlaced_waits hw]
    rfl
  · rw [hi, loadBody_error hc]
    rfl
  · rw [hi, loadBody_ok hc, loadPlaced_trap hw hf hl]
    rfl

/-- Every outcome of a store that no watch meets and that does not reset its own core (R81, R99, R110). -/
theorem instr_storeFrom (n : Nat) (rd : BitVec 5) (ea : Chip → Word) :
    let i := instr k cond ordinary (fun c => storeFrom k n rd (ea c) c) s
    (∀ ps e f g, checkAccess k .store (ea d) n false d = (.ok ps, e) → e.accessWaits k true ps = false →
        fireWatch k .store (ea d) n e = (.no, f) → finishStore k (ea d) ps (leBytes n ((d.core k).rd rd.toNat).toNat) f = (false, g) →
        i = .next (s.ran k (endStep k (g.modCore k (Core.advance k)))))
      ∧ (∀ ps e, checkAccess k .store (ea d) n false d = (.ok ps, e) → e.accessWaits k true ps = true → i = .next (s.ran k e))
      ∧ (∀ cause a e, checkAccess k .store (ea d) n false d = (.error (cause, a), e) → i = .next (s.ran k (e.except k cause a))) := by
  intro i
  have hi : i = _ := instr_body h ht _
  unfold storeFrom at hi
  refine ⟨fun ps e f g hc hw hf hs => ?_, fun ps e hc hw => ?_, fun cause a e hc => ?_⟩
  · rw [hi, storeBody_ok hc, storePlaced_stored hw hf hs, settle_done]
  · rw [hi, storeBody_ok hc, storePlaced_waits hw]
    rfl
  · rw [hi, storeBody_error hc]
    rfl

end

/-- Settles O17: every load is `loadTo` at its effective address. -/
theorem loadResults : Obligations.LoadResults := by
  unfold Obligations.LoadResults
  intro k cond rd ra off s d h ht
  have load (n : Nat) (ext : Nat → Word) := instr_loadTo h ht n rd ext fun c => effAddr c k ra off
  exact ⟨load 1 _, load 1 _, load 2 _, load 2 _, load 4 _⟩

/-- Settles O18: every store is `storeFrom` at its effective address. -/
theorem storeResults : Obligations.StoreResults := by
  unfold Obligations.StoreResults
  intro k cond rd ra off s d h ht
  have store (n : Nat) := instr_storeFrom h ht n rd fun c => effAddr c k ra off
  simp only [leBytes_low] at store
  exact ⟨store 1, store 2, store 4⟩

/-! ### Reservations -/

theorem granule_mask : (~~~63 : Word) = 0xFFFFFFC0 := by decide

/-- The core holds a reservation on the granule of `ea`. -/
def Core.reserves (x : Core) (ea : Word) : Bool := match x.resv with | some r => r.va == ea &&& 0xFFFFFFC0 | none => false

theorem Core.reserves_iff (x : Core) (ea : Word) : x.reserves ea = true ↔ ∃ r, x.resv = some r ∧ r.va = ea &&& ~~~63 := by
  unfold Core.reserves
  rw [granule_mask]
  cases x.resv <;> simp

section
variable {k : Nat} {rd ra : BitVec 5} {qd : BitVec 3} {off : BitVec 9} {off' : BitVec 12} {c e : Chip} {ea : Word}

/-- LL is a word load that sets the reservation on its granule (R96). -/
theorem bodyLl_value {p : Phys × Nat} {f g : Chip} {v : Nat} (he : effAddr c k ra off' = ea) (hc : checkAccess k .load ea 4 true c = (.ok [p], e))
    (hw : e.accessWaits k false [p] = false) (hf : fireWatch k .load ea 4 e = (.no, f)) (hl : finishLoad k ea [p] f = (.value v, g)) :
    bodyLl k rd ra off' c = .done (g.modCore k fun x =>
      { (x.wr rd.toNat (BitVec.ofNat 32 v)).loadRetires k with resv := some ⟨ea &&& ~~~63, p.1.pa - p.1.pa % 64⟩ }) := by
  subst he
  rw [granule_mask]
  exact (loadBody_ok hc).trans (loadPlaced_value hw hf hl)

/-- SC with a valid reservation on the granule of its address stores, in-order behind the core's own buffered stores (R96). -/
theorem bodySc_held (he : (c.core k).rd ra.toNat + off.signExtend 32 = ea) (hr : (c.core k).reserves ea = true) :
    bodySc k rd ra qd off c = storeBody k 4 true ea ((c.core k).rd rd.toNat).toNat
      (fun x => { x with q := setPredicate x.q qd.toNat true, resv := none }) (if inOrder k then drainAll k c else c) := by
  subst he
  exact if_pos hr

/-- SC without one checks its access alone, and reports that nothing was stored (R96). -/
theorem bodySc_free (he : (c.core k).rd ra.toNat + off.signExtend 32 = ea) (hr : (c.core k).reserves ea = false) {ps : List (Phys × Nat)}
    (hc : checkAccess k .store ea 4 true c = (.ok ps, e)) : bodySc k rd ra qd off c
      = .done (e.modCore k fun x => { x with q := setPredicate x.q qd.toNat false, resv := none }) := by
  subst he
  refine (if_neg (Bool.eq_false_iff.mp hr)).trans ?_
  rw [hc]

theorem bodySc_error (he : (c.core k).rd ra.toNat + off.signExtend 32 = ea) (hr : (c.core k).reserves ea = false) {cause : Nat} {a : Word}
    (hc : checkAccess k .store ea 4 true c = (.error (cause, a), e)) : bodySc k rd ra qd off c = .trap e cause a := by
  subst he
  refine (if_neg (Bool.eq_false_iff.mp hr)).trans ?_
  rw [hc]

end

/-- Settles O20: LL is a load that sets the reservation, SC a store under one, and both clear what they must. -/
theorem reservationPair : Obligations.ReservationPair := by
  unfold Obligations.ReservationPair
  have free {x : Core} {ea : Word} (h : ¬ ∃ r, x.resv = some r ∧ r.va = ea &&& ~~~63) : x.reserves ea = false :=
    Bool.eq_false_iff.mpr (mt (x.reserves_iff ea).mp h)
  refine ⟨fun k cond rd ra off s d h ht => ⟨fun p e f v g hc hw hf hl => ?_, fun hm => ?_⟩,
    fun k cond rd ra qd off s d h ht => ⟨fun hh ps e hc => ?_, fun hh ps e f g hc hw hf hs => ?_, fun hm hh => ?_⟩⟩
  · refine (instr_body h ht _).trans ?_
    rw [bodyLl_value rfl hc hw hf hl, settle_done]
    rfl
  · refine (instr_body h ht _).trans ?_
    unfold bodyLl
    dsimp only
    rw [loadBody_error (checkAccess_misaligned (ea := effAddr d k ra off) hm)]
    rfl
  · refine (instr_body h ht _).trans ?_
    rw [bodySc_free rfl (free hh) hc, settle_done]
  · refine (instr_body h ht _).trans ?_
    have hord : (if inOrder k then drainAll k d else d) = if k.val < 8 then d else drainAll k d := by
      by_cases hk : k.val < 8
      · rw [if_pos hk, if_neg (by simp [inOrder, Nat.ble_eq, hk])]
      · rw [if_neg hk, if_pos (by simpa [inOrder, Nat.ble_eq] using hk)]
    rw [bodySc_held rfl ((Core.reserves_iff ..).mpr hh), hord, storeBody_ok hc, storePlaced_stored hw hf hs, settle_done]
  · refine (instr_body h ht _).trans ?_
    rw [bodySc_error rfl (free hh) (checkAccess_misaligned hm)]
    rfl

/-! ### The short window -/

/-- The places of the short window are no device. -/
theorem shortPieces_device (k : Nat) (a : BitVec 16) (n : Nat) : (shortPieces k a n).any (fun p => p.1.device) = false := by
  simp [shortPieces]

theorem inOrder_iff (k : Nat) : inOrder k = true ↔ 8 ≤ k := by simp [inOrder, Nat.ble_eq]

section
variable {k : Nat} {rd : BitVec 5} {a : BitVec 16} {n : Nat}

theorem shortLoad_own (hk : 8 ≤ k) (c : Chip) : shortLoad k n rd a c
    = loadPlaced k n (a.zeroExtend 32) (shortPieces k a n) (fun v x => x.wr rd.toNat (Word.of v)) c :=
  if_pos ((inOrder_iff k).mpr hk)

theorem shortLoad_courier (hk : k < 8) (c : Chip) : shortLoad k n rd a c = loadTo k n rd Word.of ((c.core k).sbase + a.zeroExtend 32) c :=
  if_neg (by rw [inOrder_iff]; omega)

theorem shortStore_own (hk : 8 ≤ k) (c : Chip) : shortStore k n rd a c
    = storePlaced k n (a.zeroExtend 32) (shortPieces k a n) ((c.core k).rd rd.toNat).toNat (fun x => x) c :=
  if_pos ((inOrder_iff k).mpr hk)

theorem shortStore_courier (hk : k < 8) (c : Chip) : shortStore k n rd a c = storeFrom k n rd ((c.core k).sbase + a.zeroExtend 32) c :=
  if_neg (by rw [inOrder_iff]; omega)

end

/-- The registers after a load: its retirement and a halt behind it change none. -/
theorem core_rd_loaded (k : Nat) (g : Chip) (rd : BitVec 5) (w : Word) (j : Nat) :
    ((endStep k (g.modCore k fun x => ((x.wr rd.toNat w).loadRetires k).advance k)).core k).rd j
      = if j = rd.toNat ∧ j ≠ 0 then w else (g.core k).rd j := by
  obtain ⟨a, b, r, pl, ph, pr, rs, wt, dbg, hz⟩ := core_endStep_advance k _ _
    (Chip.core_modCore_same g k fun x => ((x.wr rd.toNat w).loadRetires k).advance k)
  have hg : (((g.core k).wr rd.toNat w).loadRetires k).rd j = ((g.core k).wr rd.toNat w).rd j := by
    unfold Core.loadRetires
    split <;> rfl
  refine (congrArg (fun x => Core.rd x j) hz).trans (Eq.trans ?_ (hg.trans ?_))
  · rfl
  · by_cases hj : j = rd.toNat ∧ j ≠ 0
    · rw [if_pos hj, hj.1, Core.rd_wr_same _ _ (hj.1 ▸ hj.2)]
    · rw [if_neg hj]
      by_cases h0 : j = 0
      · subst h0
        rfl
      · exact Core.rd_wr_other _ _ fun e => hj ⟨e, h0⟩

section
variable {k : Fin 64} {cond : BitVec 4} {s : State} {d : Chip} (h : s.chip.prepared k false = some d) (ht : (d.core k).takes cond = true)
include h ht

/-- A short load of an in-order core reads its own local RAM (R83). -/
theorem instr_shortLoad_own (hk : 8 ≤ k.val) (n : Nat) (rd : BitVec 5) (a : BitVec 16) {f g : Chip} {v : Nat}
    (hf : fireWatch k .load (a.zeroExtend 32) n d = (.no, f)) (hl : finishLoad k (a.zeroExtend 32) (shortPieces k a n) f = (.value v, g)) :
    instr k cond ordinary (shortLoad k n rd a) s
      = .next (s.ran k (endStep k (g.modCore k fun x => (x.wr rd.toNat (BitVec.ofNat 32 v)).advance k))) := by
  have hw : d.accessWaits k false (shortPieces k a n) = false := by simp [Chip.accessWaits, shortPieces_device]
  rw [instr_body h ht, shortLoad_own hk, loadPlaced_value hw hf hl, settle_done]
  rfl

/-- A short store of an in-order core writes its own local RAM (R83). -/
theorem instr_shortStore_own (hk : 8 ≤ k.val) (n : Nat) (rd : BitVec 5) (a : BitVec 16) {f g : Chip}
    (hw : d.accessWaits k true (shortPieces k a n) = false) (hf : fireWatch k .store (a.zeroExtend 32) n d = (.no, f))
    (hs : finishStore k (a.zeroExtend 32) (shortPieces k a n) (leBytes n ((d.core k).rd rd.toNat).toNat) f = (false, g)) :
    instr k cond ordinary (shortStore k n rd a) s = .next (s.ran k (endStep k (g.modCore k (Core.advance k)))) := by
  rw [instr_body h ht, shortStore_own hk, storePlaced_stored hw hf hs, settle_done]

/-- A short load of a Courier is a load at its offset from csr_sbase (R82). -/
theorem instr_shortLoad_courier (hk : k.val < 8) (n : Nat) (rd : BitVec 5) (a : BitVec 16) : instr k cond ordinary (shortLoad k n rd a) s
    = instr k cond ordinary (fun c => loadTo k n rd Word.of ((c.core k).sbase + a.zeroExtend 32) c) s := by
  rw [instr_body h ht, instr_body h ht, shortLoad_courier hk]

theorem instr_shortStore_courier (hk : k.val < 8) (n : Nat) (rd : BitVec 5) (a : BitVec 16) : instr k cond ordinary (shortStore k n rd a) s
    = instr k cond ordinary (fun c => storeFrom k n rd ((c.core k).sbase + a.zeroExtend 32) c) s := by
  rw [instr_body h ht, instr_body h ht, shortStore_courier hk]

end

/-- Settles O21: the window is a load or a store at its own places, or at csr_sbase. -/
theorem shortWindow : Obligations.ShortWindow := by
  unfold Obligations.ShortWindow
  intro k cond rd a s d h ht va ea own loads stores
  have load (i : Instr) (n : Nat) (hi : exec i s = instr k cond ordinary (shortLoad k n rd a) s) : loads i n :=
    ⟨fun hk f v g hf hl => hi.trans (instr_shortLoad_own h ht hk n rd a hf hl), fun hk ps e f v g hc hw hf hl =>
      ⟨_, (hi.trans (instr_shortLoad_courier h ht hk n rd a)).trans
        ((instr_loadTo h ht n rd Word.of fun c => (c.core k).sbase + a.zeroExtend 32).1 ps e f v g hc hw hf hl),
        core_rd_loaded k g rd (Word.of v)⟩⟩
  have store (i : Instr) (n : Nat) (hi : exec i s = instr k cond ordinary (shortStore k n rd a) s) : stores i n :=
    ⟨fun hk hw f g hf hs => hi.trans (instr_shortStore_own h ht hk n rd a hw hf hs), fun hk ps e f g hc hw hf hs =>
      (hi.trans (instr_shortStore_courier h ht hk n rd a)).trans
        ((instr_storeFrom h ht n rd fun c => (c.core k).sbase + a.zeroExtend 32).1 ps e f g hc hw hf hs)⟩
  exact ⟨load _ 4 rfl, load _ 2 rfl, store _ 4 rfl, store _ 2 rfl⟩

end Sys2Proof.Machine
end

section
/-! SUPPORT. What stores to memory do to the cores: they end reservations, and nothing else. -/

namespace Sys2Proof.Machine

theorem memBlind_cores : MemBlind Chip.cores :=
  ⟨fun _ _ _ => rfl, fun _ _ => rfl, fun _ _ => rfl, fun _ _ => rfl, fun _ _ => rfl, fun _ _ => rfl, fun _ _ => rfl, fun _ _ _ _ => rfl⟩

/-- A store to the granule of `pa` ends the core's reservation on it (R95). -/
def Core.lose (pa : Nat) (x : Core) : Core :=
  { x with resv := match x.resv with | some r => if r.pa = pa - pa % 64 then none else some r | none => none }

theorem Core.lose_congr {pa pa' : Nat} (h : pa - pa % 64 = pa' - pa' % 64) (x : Core) : x.lose pa = x.lose pa' := by
  unfold Core.lose
  rw [h]

/-- A change of every entry that leaves the default as it is. -/
theorem sget_map_snd {α : Type} {d : Nat → α} {f : α → α} (hd : ∀ k, f (d k) = d k) (k : Nat) :
    ∀ t : Sparse α, sget d (t.map fun p => (p.1, f p.2)) k = f (sget d t k)
  | [] => (hd k).symm
  | (a, x) :: t => by
    rw [List.map_cons, sget, sget]
    split
    · rfl
    · exact sget_map_snd hd k t

theorem clearResv_eq_map (pa : Nat) (t : Sparse Core) : clearResv pa t = t.map fun p => (p.1, p.2.lose pa) := by
  refine List.map_congr_left fun p _ => ?_
  obtain ⟨a, x⟩ := p
  obtain ⟨g, q, pl, ph, pc, pr, sl, resv, _⟩ := x
  cases resv with
  | none => rfl
  | some r => by_cases h : r.pa = pa - pa % 64 <;> simp [Core.lose, h]

theorem core_clearResv (c : Chip) (pa k : Nat) : ({ c with cores := clearResv pa c.cores } : Chip).core k = (c.core k).lose pa :=
  (congrArg (fun t => sget Core.reset t k) (clearResv_eq_map pa c.cores)).trans (sget_map_snd (f := Core.lose pa) (fun _ => rfl) k c.cores)

/-- A store to one word ends the reservations on its granule. -/
theorem core_storeWord (c : Chip) (r : Region) (a : Nat) (l : List (Nat × Byte)) (k : Nat) :
    (c.storeWord r a l).core k = (c.core k).lose a := by
  have hcheck : (if l.length = eccWidth r then c.freshWord r a else c.checkWord r a false false).cores = c.cores := by
    split
    · exact memBlind_cores.freshWord c r a
    · exact memBlind_cores.checkWord c r a false false
  refine (core_clearResv _ a k).trans (congrArg (Core.lose a) ?_)
  exact congrArg (fun t => sget Core.reset t k) ((memBlind_cores.plant _ r a).trans ((memBlind_cores.putBytes _ l).trans hcheck))

/-- A store to one word of a dirty line ends the reservations on its granule. -/
theorem core_storeLine (c : Chip) (d : DirtyLine) (a : Nat) (l : List (Nat × Byte)) (k : Nat) :
    (c.storeLine d a l).core k = (c.core k).lose a := by
  have hcheck : (if l.length = 4 then c else c.checkLine (l2Slice a) d a false false).cores = c.cores := by
    split
    · rfl
    · exact memBlind_cores.checkLine c _ _ _ _ _
  refine (core_clearResv _ a k).trans (congrArg (Core.lose a) ?_)
  exact congrArg (fun t => sget Core.reset t k) ((memBlind_cores.setF _ _ _).trans
    ((memBlind_cores.putBytes _ l).trans ((memBlind_cores.setDirty _ _ _).trans hcheck)))

theorem granule_word (pa : Nat) {w : Nat} (hw : w = 4 ∨ w = 8) : (pa - pa % w) - (pa - pa % w) % 64 = pa - pa % 64 := by
  rcases hw with rfl | rfl <;> omega

theorem eccWidth_eq (r : Region) : eccWidth r = 4 ∨ eccWidth r = 8 := by
  unfold eccWidth
  split
  · exact .inr rfl
  · exact .inl rfl

/-- A store inside one word ends the reservations on its granule, and changes nothing else of any core (R95). -/
theorem core_storeIn (c : Chip) (r : Region) (pa : Nat) (l : List (Nat × Byte)) (k : Nat) :
    (c.storeIn r pa l).core k = (c.core k).lose pa := by
  unfold Chip.storeIn
  split
  · exact (core_storeLine c _ _ l k).trans (Core.lose_congr (granule_word pa (.inl rfl)) _)
  · exact (core_storeWord c r _ l k).trans (Core.lose_congr (granule_word pa (eccWidth_eq r)) _)

end Sys2Proof.Machine
end

section
/-! O22: fences and the events of the memory pipeline. -/

namespace Sys2Proof.Machine

/-! ### The store buffer drains -/

/-- A drained entry leaves the core as it is: its own reservation stays (R95). -/
theorem core_drainStore (e : SbEntry) (k : Nat) (c : Chip) : (drainStore e k c).core k = c.core k := by
  unfold drainStore
  dsimp only
  rw [Chip.core_modCore_same]
  split
  · rw [core_storeIn]
    rfl
  · rfl

/-- A core whose oldest entry has drained. -/
def Core.drained (x : Core) : Core := { x with sbuf := x.sbuf.tail }

theorem core_drainOldest (k : Nat) (c : Chip) : (drainOldest k c).core k = (c.core k).drained := by
  have empty {x : Core} (h : x.sbuf = []) : x.drained = x := by
    cases x
    subst h
    rfl
  unfold drainOldest
  split
  next h => exact (empty h).symm
  next e t h =>
    rw [core_drainStore, Chip.core_modCore_same, Core.drained, h]
    rfl

/-- Two drains empty a store buffer of two entries (R146). -/
theorem sbuf_drainAll {k : Nat} {c : Chip} (h : (c.core k).sbuf.length ≤ 2) : ((drainAll k c).core k).sbuf = [] := by
  unfold drainAll
  rw [core_drainOldest, core_drainOldest, Core.drained, Core.drained]
  refine List.eq_nil_of_length_eq_zero ?_
  simp only [List.length_tail]
  omega

/-! ### Bytes stored -/

theorem Chip.byte_setByte (c : Chip) (p a : Nat) (b : Byte) : (c.setByte p b).byte a = if a = p then b else c.byte a := by
  unfold Chip.byte Chip.setByte
  dsimp only
  by_cases h : a = p
  · subst h
    rw [if_pos rfl, sget_sset_same]
  · rw [if_neg h, sget_sset_other _ _ h]

/-- Bytes at successive addresses. -/
def bytesAt (pa n : Nat) (f : Nat → Byte) : List (Nat × Byte) := (List.range n).map fun i => (pa + i, f i)

theorem byte_putBytes (c : Chip) (pa n a : Nat) (f : Nat → Byte) :
    (c.putBytes (bytesAt pa n f)).byte a = if pa ≤ a ∧ a < pa + n then f (a - pa) else c.byte a := by
  induction n with
  | zero =>
    rw [if_neg (by omega)]
    rfl
  | succ n ih =>
    have hs : c.putBytes (bytesAt pa (n + 1) f) = (c.putBytes (bytesAt pa n f)).setByte (pa + n) (f n) := by
      unfold Chip.putBytes forAll bytesAt
      rw [List.range_succ, List.map_append, List.foldl_append]
      rfl
    rw [hs, Chip.byte_setByte, ih]
    by_cases h : a = pa + n
    · subst h
      rw [if_pos rfl, if_pos ⟨by omega, by omega⟩, Nat.add_sub_cancel_left]
    · rw [if_neg h]
      exact if_congr (by omega) rfl rfl

/-- Bytes stored depend on the bytes before them alone. -/
theorem putBytes_mem (l : List (Nat × Byte)) (c d : Chip) (h : c.mem = d.mem) : (c.putBytes l).mem = (d.putBytes l).mem := by
  induction l generalizing c d with
  | nil => exact h
  | cons p t ih => exact ih _ _ (congrArg (fun m => sset memDefault m p.1 p.2) h)

/-- A store to a word whose check leaves memory alone writes its bytes, and nothing else of memory. -/
theorem storeWord_mem (c : Chip) (r : Region) (k : Nat) (l : List (Nat × Byte))
    (h : l.length = eccWidth r ∨ (c.checkWord r k false false).mem = c.mem) : (c.storeWord r k l).mem = (c.putBytes l).mem := by
  have hmem : (if l.length = eccWidth r then c.freshWord r k else c.checkWord r k false false).mem = c.mem := by
    split
    next => exact Chip.freshWord_mem c r k
    next hl => exact h.resolve_left hl
  exact (Chip.plant_mem _ r k).trans (putBytes_mem l _ _ hmem)

theorem ownRam_high {k : Nat} (h : 0 < (ownRam k).2) : 0x800000000 ≤ (ownRam k).1 := by
  unfold ownRam at h ⊢
  split at h <;> simp_all <;> omega

theorem inOwnRam_region {c : Chip} {k pa : Nat} (h : inOwnRam k pa = true) : c.region k pa ≠ .dram := by
  simp only [inOwnRam, Bool.and_eq_true, within_iff] at h
  obtain ⟨-, hlo, hhi⟩ := h
  have hpa := ownRam_high (k := k) (by omega)
  have hw : within 0 0x800000000 pa = false := by
    rw [← Bool.not_eq_true, within_iff]
    omega
  unfold Chip.region
  split
  · unfold fuRegion
    repeat' split
    all_goals simp
  · split
    · unfold pmRegion
      repeat' split
      all_goals simp
    · unfold mainRegion
      rw [hw]
      repeat' split
      all_goals simp at *

/-- A whole buffered word as bytes with their addresses. -/
theorem SbEntry.bytes_whole {e : SbEntry} (h : e.mask = 15) : e.bytes = bytesAt e.pa 4 fun i => e.data.extractLsb' (8 * i) 8 := by
  have hbyte (i : Nat) : BitVec.ofNat 8 (e.data.bits (8 * i + 7) (8 * i)) = e.data.extractLsb' (8 * i) 8 := by
    apply BitVec.eq_of_toNat_eq
    rw [toNat_byteAt, BitVec.toNat_ofNat, byteLane_eq_div_mod, Nat.mod_mod]
  unfold SbEntry.bytes bytesAt
  rw [h]
  simp only [hbyte]
  rfl

/-- An entry that reaches own local RAM writes its bytes, and nothing else of memory. -/
theorem drainStore_mem {e : SbEntry} {k : Nat} {c : Chip} (hm : e.mask = 15) (ho : inOwnRam k e.pa = true)
    (hr : c.reachable k e.pa (c.region k e.pa) = true) : (drainStore e k c).mem = (c.putBytes e.bytes).mem := by
  have hne := inOwnRam_region (c := c) ho
  have hwidth : e.bytes.length = eccWidth (c.region k e.pa) := by
    rw [SbEntry.bytes_whole hm]
    unfold eccWidth
    split
    · contradiction
    · rfl
  have hstore : c.storeIn (c.region k e.pa) e.pa e.bytes = c.storeWord (c.region k e.pa) (eccKey (c.region k e.pa) e.pa) e.bytes := by
    unfold Chip.storeIn
    rw [if_neg hne]
  unfold drainStore
  dsimp only
  rw [if_pos hr, hstore]
  exact storeWord_mem c _ _ _ (.inl hwidth)

/-- STORE_BUFFER_DRAIN of a whole word of own local RAM (R146). -/
theorem byte_drainOldest {k : Nat} {c : Chip} {e : SbEntry} {t : List SbEntry} (h : (c.core k).sbuf = e :: t) (hm : e.mask = 15)
    (ho : inOwnRam k e.pa = true) (hr : c.reachable k e.pa (c.region k e.pa) = true) (a : Nat) :
    (drainOldest k c).byte a = if e.pa ≤ a ∧ a < e.pa + 4 then e.data.extractLsb' (8 * (a - e.pa)) 8 else c.byte a := by
  have hd : drainOldest k c = drainStore e k (c.modCore k fun x => { x with sbuf := t }) := by
    unfold drainOldest
    rw [h]
  have hmem : (drainOldest k c).mem = (c.putBytes e.bytes).mem := by
    rw [hd, drainStore_mem hm ho (show (c.modCore k fun x => { x with sbuf := t }).reachable k e.pa _ = true from hr)]
    exact putBytes_mem _ _ _ rfl
  rw [← byte_putBytes c e.pa 4 a fun i => e.data.extractLsb' (8 * i) 8, ← SbEntry.bytes_whole hm]
  exact congrArg (fun m => sget memDefault m a) hmem

/-! ### Events counted -/

theorem Core.events_eq {α : Type} (k ev : Nat) (l : List α) (x : Core) :
    ∃ a b, l.foldl (fun x _ => x.event k ev) x = { x with pmcnt := a, pmovf := b } := by
  induction l generalizing x with
  | nil => exact ⟨x.pmcnt, x.pmovf, rfl⟩
  | cons _ t ih =>
    obtain ⟨a, b, h⟩ := x.event_eq k ev
    obtain ⟨a', b', h'⟩ := ih { x with pmcnt := a, pmovf := b }
    exact ⟨a', b', (congrArg (fun y => t.foldl (fun x _ => Core.event k ev x) y) h).trans h'⟩

theorem line_mask : (~~~31 : Word) = 0xFFFFFFE0 := by decide

theorem courier_or_inOrder (k : Nat) : (inOrder k = false ↔ k < 8) := by
  rw [← Bool.not_eq_true, inOrder_iff]
  omega

section
variable {k : Fin 64} {line : Word} {useless : Bool} {s : State}

/-- The line read of a fetch, and the event of one that a taken branch made useless (R145). -/
def Core.readsLine (k : Nat) (line : Word) (useless : Bool) (x : Core) : Core :=
  if useless && x.lineUseless line then ({ x with line := some line } : Core).event k 0x0D else { x with line := some line }

theorem Core.readsLine_eq (k : Nat) (line : Word) (useless : Bool) (x : Core) : ∃ a b,
    x.readsLine k line useless = { x with line := some line, pmcnt := a, pmovf := b } := by
  unfold Core.readsLine
  split
  · exact Core.event_eq k 0x0D _
  · exact ⟨x.pmcnt, x.pmovf, rfl⟩

/-- The core reads the line for its fetch: it is in-order, can run, and the line is one its fetch may need (R145). -/
def Chip.readsFor (c : Chip) (k : Nat) (line : Word) : Bool := inOrder k && c.canRun k && (c.core k).fetchLines.contains line

theorem exec_fetchLineRead_not (h : k.val < 8 ∨ s.chip.canRun k = false ∨ line &&& 0xFFFFFFE0 ∉ (s.chip.core k).fetchLines) :
    exec (.fetchLineRead k line 0 useless) s = .next s := by
  have hno : s.chip.readsFor k (line &&& 0xFFFFFFE0) = false := by
    unfold Chip.readsFor
    rcases h with h | h | h
    · rw [(courier_or_inOrder k).mpr h]
      rfl
    · simp [h]
    · rw [List.contains_eq_mem, decide_eq_false h, Bool.and_false]
  refine congrArg (fun c => Host.Outcome.next { s with chip := c }) ?_
  exact if_neg (Bool.eq_false_iff.mp hno)

/-- FETCH_LINE_READ without a wait: the line is the one read, and counters alone change beside it (R145). -/
theorem exec_fetchLineRead {p : Phys} {e : Chip}
    (hk : 8 ≤ k.val) (hr : s.chip.canRun k = true) (hl : line &&& ~~~31 ∈ (s.chip.core k).fetchLines)
    (ht : translate k .fetch (line &&& ~~~31) s.chip = (some p, e)) (ho : inOwnCode k p.pa = true) :
    ∃ u, exec (.fetchLineRead k line 0 useless) s = .next u ∧ u.pending = s.pending ∧ (u.chip.core k).line = some (line &&& ~~~31)
      ∧ (u.chip.core k).g = (e.core k).g ∧ (u.chip.core k).pc = (e.core k).pc ∧ u.chip.mem = e.mem := by
  rw [line_mask] at hl ht ⊢
  have hyes : s.chip.readsFor k (line &&& 0xFFFFFFE0) = true := by
    unfold Chip.readsFor
    rw [(inOrder_iff k).mpr hk, hr]
    simpa using hl
  have hexec : exec (.fetchLineRead k line 0 useless) s
      = .next (s.at (pmcIrq k (e.core k).pmovf (e.modCore k (Core.readsLine k (line &&& 0xFFFFFFE0) useless)))) := by
    refine congrArg (fun c => Host.Outcome.next { s with chip := c }) ((if_pos hyes).trans ?_)
    rw [ht]
    exact if_pos ho
  obtain ⟨a, b, hx⟩ := (e.core k).readsLine_eq k (line &&& 0xFFFFFFE0) useless
  have hcore := (pmcIrq_core k (e.core k).pmovf _ k).trans ((Chip.core_modCore_same e k _).trans hx)
  exact ⟨_, hexec, rfl, (congrArg Core.line hcore :), (congrArg Core.g hcore :), (congrArg Core.pc hcore :), pmcIrq_mem ..⟩

end

/-- What an instruction that fences the stores of its core settles to (R94, R149). -/
theorem settle_fenceStores (k : Nat) (c : Chip) :
    (k < 8 → settle k (fenceStores k c) = endStep k (c.modCore k (Core.advance k)))
    ∧ (8 ≤ k → c.enableWaits k = false → settle k (fenceStores k c) = endStep k ((ackAll k (drainAll k c)).modCore k (Core.advance k)))
    ∧ (8 ≤ k → c.enableWaits k = true → settle k (fenceStores k c) = c) := by
  refine ⟨fun hk => ?_, fun hk hw => ?_, fun hk hw => ?_⟩
  · simp only [fenceStores, (courier_or_inOrder k).mpr hk]
    rfl
  · simp only [fenceStores, (inOrder_iff k).mpr hk, hw]
    rfl
  · simp only [fenceStores, (inOrder_iff k).mpr hk, hw]
    rfl

theorem Core.ackFirst_all (x : Core) :
    x.ackFirst x.posted.length = { x with posted := [], busErrs := x.busErrs ++ x.posted.flatMap Posted.errs } := by
  simp [Core.ackFirst]

section
variable {k : Nat} {c : Chip} {e : Posted} {t : List Posted}

/-- STORE_ACK of an access whose acknowledgement does not wait (R112, R148). -/
theorem ackOldest_done (hp : (c.core k).posted = e :: t) (hw : e.enable = false ∨ c.enableWaits k = false) :
    ackOldest k c = c.modCore k fun x => { x with busErrs := x.busErrs ++ e.errs, posted := t } := by
  have hno : (e.enable && c.enableWaits k) = false := by rcases hw with hw | hw <;> simp [hw]
  unfold ackOldest
  rw [hp]
  dsimp only
  rw [if_neg (Bool.eq_false_iff.mp hno)]
  refine Chip.modCore_congr ?_
  simp [Core.ackFirst, hp]

theorem ackOldest_waits (hp : (c.core k).posted = e :: t) (he : e.enable = true) (hw : c.enableWaits k = true) : ackOldest k c = c := by
  unfold ackOldest
  rw [hp]
  dsimp only
  exact if_pos (by rw [he, hw]; rfl)

end

/-- Settles O22: the fences drain and acknowledge, and each event of the pipeline changes what it names. -/
theorem fencesAndPipeline : Obligations.FencesAndPipeline := by
  unfold Obligations.FencesAndPipeline
  have hload (k : Fin 64) (cycles : Nat) (s : State) : exec (.loadDataReturn k cycles) s = s.go fun c => if (c.core k).loadHeld then
      pmcIrq k (c.core k).pmovf
        (c.modCore k fun x => (List.range cycles).foldl (fun x _ => x.event k 0x11) { x with loadHeld := false })
      else c := rfl
  have hack (k : Fin 64) (s : State) : exec (.storeAck k) s = s.go (ackOldest k) := rfl
  refine ⟨fun k cond s d h ht => ⟨?_, fun hw => ?_, fun hw => ?_, fun k' c hlen => sbuf_drainAll hlen, fun k' c => ?_, ?_⟩,
    fun k cycles line useless s => ⟨fun hx => ?_, fun hx => ?_, fun e t hp hw => ?_, fun e t hp he hw => ?_,
      fun e t hb hm ho _ hr => ?_, fun p e hk hr hl ht ho => exec_fetchLineRead hk hr hl ht ho, fun hno => ?_⟩⟩
  · have fence (op : Chip → Res) (hop : op d = fenceStores k d) := (instr_body h ht op).trans (by rw [hop])
    simp only [List.forall_mem_cons]
    obtain ⟨hcourier, hfence, hwait⟩ := settle_fenceStores k d
    refine ⟨⟨fun hk => (fence (bodyFenceS k) rfl).trans (by rw [hcourier hk]), fun hk hw => (fence (bodyFenceS k) rfl).trans (by rw [hfence hk hw]),
      fun hk hw => (fence (bodyFenceS k) rfl).trans (by rw [hwait hk hw])⟩, ⟨?_, ?_, ?_⟩, List.forall_mem_nil _⟩
    · exact fun hk => (fence (bodyFenceF k) rfl).trans (by rw [hcourier hk])
    · exact fun hk hw => (fence (bodyFenceF k) rfl).trans (by rw [hfence hk hw])
    · exact fun hk hw => (fence (bodyFenceF k) rfl).trans (by rw [hwait hk hw])
  · refine (instr_body h ht _).trans ?_
    rw [bodyFenceIo, if_neg (by simp [hw])]
    rfl
  · refine (instr_body h ht _).trans ?_
    rw [bodyFenceIo, if_pos hw]
    rfl
  · exact (Chip.core_modCore_same c k' _).trans (Core.ackFirst_all _)
  · refine (instr_body h ht _).trans ?_
    unfold bodyIsync onCore
    rw [settle_done]
  · rw [hload, State.go_eq, if_pos hx]
    obtain ⟨a, b, hf⟩ := Core.events_eq k 0x11 (List.range cycles) { s.chip.core k with loadHeld := false }
    have hcore := (Chip.core_modCore_same s.chip k fun x => (List.range cycles).foldl (fun x _ => x.event k 0x11) { x with loadHeld :=
        false }).trans hf
    exact ⟨_, rfl, (congrArg Core.loadHeld hcore :), (congrArg Core.g hcore :), (congrArg Core.pc hcore :), (congrArg Core.q hcore :),
      congrArg (s.chip.setCore k) (hcore.trans hf.symm).symm⟩
  · rw [hload, State.go_eq, if_neg (by simp [hx])]
  · rw [hack, State.go_eq, ackOldest_done hp hw]
    rfl
  · rw [hack, State.go_eq, ackOldest_waits hp he hw]
  · refine ⟨_, rfl, rfl, ?_, ?_, fun a => byte_drainOldest hb hm ho hr a⟩
    · refine (congrArg Core.sbuf (core_drainOldest k s.chip)).trans ?_
      rw [Core.drained, hb, List.tail_cons]
    · exact (congrArg Core.resv (core_drainOldest k s.chip) :)
  · exact exec_fetchLineRead_not (by rw [line_mask] at hno; exact hno)

end Sys2Proof.Machine
end

section
/-! O23: translation through the region table, and the checks of an aligned word access. -/

namespace Sys2Proof.Machine

/-! ### The walk over words that the core holds -/

/-- An entry governs `va`: it matches, and its TYPE is valid (R105, R106). -/
def governs (va : Nat) (w0 w2 : Word) : Bool := entryMatches w0 va && !w2.bit 6

/-- The place that an entry gives (R105, R106). -/
def entryPlace (k va : Nat) (w0 w1 w2 : Word) : Phys :=
  let size := w0.bits 4 0
  let pa := w1.bits 27 0 * 4096 / 2 ^ size * 2 ^ size + va % 2 ^ size
  ⟨pa, w2.bits 5 4 == 3 || courierDevice k pa, cacheable k (w2.bits 5 4) pa⟩

section
variable {k : Nat} {c : Chip} {ctx : Nat} {w : Nat → Nat → Word}
  (h : ∀ i j, i < 16 → j < 3 → sget (fun _ => none) (c.core k).held (ctx * 64 + i * 4 + j) = some (w i j))
include h

/-- A word that the core holds is not read again (R108). -/
theorem tableWord_held {i : Nat} (j : Nat) (hi : i < 16) (hj : j < 3) (pa : Nat) :
    tableWord k (ctx * 64 + i * 4 + j) pa c = (some (w i j), c) := by
  unfold tableWord
  rw [h i j hi hj]

/-- With its words held, the walk gives the lowest entry that governs the address, and reads nothing (R106). -/
theorem walk_held (u : Use) (va base : Nat) (n i : Nat) (hn : i + n ≤ 16) :
    walk k u va base ctx n i c = (((List.range' i n).find? fun i => governs va (w i 0) (w i 2)).map fun i =>
      (entryPlace k va (w i 0) (w i 1) (w i 2), permits (c.core k).sup u (w i 2)), c) := by
  induction n generalizing i with
  | zero => rfl
  | succ n ih =>
    have h0 := tableWord_held h (i := i) 0 (by omega) (by decide) (base + i * 16)
    have h1 := tableWord_held h (i := i) 1 (by omega) (by decide) (base + i * 16 + 4)
    have h2 := tableWord_held h (i := i) 2 (by omega) (by decide) (base + i * 16 + 8)
    rw [Nat.add_zero] at h0
    unfold walk
    simp only [h0, h1, h2, ih (i + 1) (by omega), List.range'_succ, List.find?_cons, governs]
    cases hm : entryMatches (w i 0) va with
    | false => rfl
    | true =>
      cases hv : (w i 2).bit 6 with
      | true => rfl
      | false => rfl

end

/-! ### Translation -/

theorem ble_eq_decide (a b : Nat) : Nat.ble a b = decide (a ≤ b) := by
  rw [Bool.eq_iff_iff, Nat.ble_eq, decide_eq_true_iff]

theorem blt_eq_decide (a b : Nat) : Nat.blt a b = decide (a < b) := ble_eq_decide (a + 1) b

/-- The place of an access that is permitted there. -/
def permitted (o : Option (Phys × Bool)) : Option Phys := o.bind fun q => if q.2 then some q.1 else none

theorem translate_eq (k : Nat) (u : Use) (va : Word) (c : Chip) :
    translate k u va c = (permitted (locate k u va c).1, (locate k u va c).2) := by
  unfold translate permitted
  rcases locate k u va c with ⟨_ | ⟨p, _ | _⟩, d⟩ <;> rfl

/-- What a governing entry lets through (R107). -/
theorem permitted_entry (k va : Nat) (sup : Bool) (u : Use) (w0 w1 w2 : Word) :
    permitted (some (entryPlace k va w0 w1 w2, permits sup u w2))
      = if w2.bit (match u with | .load => 0 | .store => 1 | .fetch => 2) = true ∧ (sup = true ∨ w2.bit 3 = true) then
          some (entryPlace k va w0 w1 w2) else none := by
  have hp : permits sup u w2 = true
      ↔ w2.bit (match u with | .load => 0 | .store => 1 | .fetch => 2) = true ∧ (sup = true ∨ w2.bit 3 = true) := by
    unfold permits
    rw [Bool.and_eq_true, Bool.or_eq_true]
    cases u <;> rfl
  exact if_congr hp rfl rfl

/-! ### The checks of an aligned word access -/

theorem pieces_word {va : Word} (h : va.toNat % 4 = 0) : pieces va 4 = [(va, 4)] := by
  unfold pieces
  rw [h]
  rfl

section
variable {k : Nat} {u : Use} {va : Word} {c e : Chip} {p : Phys} {ok : Bool} (hl : locate k u va c = (some (p, ok), e)) (ha : va.toNat % 4 = 0)
include hl ha

theorem placePieces_word : placePieces k u (pieces va 4) c = ((if ok then none else some va, [(p, 4)]), e) := by
  rw [pieces_word ha, placePieces, hl]
  rfl

/-- A locked access of a device region fails its form, whatever the entry permits (R96). -/
theorem checkAccess_device (hd : p.device = true) : checkAccess k u va 4 true c = (.error (0x09, va), e) := by
  simp [checkAccess, natural, ha, placePieces_word hl ha, hd]

theorem checkAccess_normal (hd : p.device = false) : checkAccess k u va 4 false c
    = (if ok then .ok [(p, 4)] else .error (if u = .store then 0x08 else 0x07, va), e) := by
  cases ok <;> cases u <;> simp [checkAccess, natural, ha, placePieces_word hl ha, hd]

end

/-- Settles O23: a held walk is a search for the lowest entry, and the checks look at the one piece of an aligned word. -/
theorem translationByLowestEntry : Obligations.TranslationByLowestEntry := by
  unfold Obligations.TranslationByLowestEntry
  intro k u va c w
  refine ⟨fun hx => ?_, fun hx hw => ?_, fun p ok e hl hd ha => checkAccess_device hl ha hd, fun p e hl hd ha => checkAccess_normal hl ha hd,
    fun p e hl hd ha => checkAccess_normal hl ha hd⟩
  · rw [translate_eq, show locate k u va c = _ from if_neg (by simp [hx])]
    simp [permitted]
  · have hwalk := walk_held hw u va.toNat ((c.core k).useRtbase * 0x10000 + (c.core k).useCtx * 256) 16 0 (by decide)
    have hsearch (i : Nat) : governs va.toNat (w i 0) (w i 2) = ((w i 0).bit 5 && decide (12 ≤ (w i 0).bits 4 0)
        && va.toNat / 2 ^ (w i 0).bits 4 0 == (w i 0).bits 31 12 * 4096 / 2 ^ (w i 0).bits 4 0 && !(w i 2).bit 6) := by
      unfold governs entryMatches
      dsimp only
      rw [ble_eq_decide]
    rw [translate_eq, show locate k u va c = _ from (if_pos hx).trans hwalk, ← List.range_eq_range']
    simp only [hsearch]
    cases (List.range 16).find? fun i => (w i 0).bit 5 && decide (12 ≤ (w i 0).bits 4 0)
        && va.toNat / 2 ^ (w i 0).bits 4 0 == (w i 0).bits 31 12 * 4096 / 2 ^ (w i 0).bits 4 0 && !(w i 2).bit 6 with
    | none => rfl
    | some i =>
      refine congrArg (·, c) ((permitted_entry k va.toNat (c.core k).sup u (w i 0) (w i 1) (w i 2)).trans ?_)
      simp only [entryPlace, cacheable, blt_eq_decide] <;> rfl

end Sys2Proof.Machine
end

section
/-! O19: a Courier's aligned loads from and stores to DRAM. -/

namespace Sys2Proof.Machine

/-! ### An access that reaches DRAM directly -/

/-- Without a comparator no watch fires (R613). -/
theorem fireWatch_none {k : Nat} {c : Chip} (h : (c.core k).dbg.cmp = []) (u : Use) (va : Word) (n : Nat) :
    fireWatch k u va n c = (.no, c) := by
  have harmed (i : Nat) : (c.core k).cmpArmed i = false := by
    have hctl : (c.core k).cmpCtl i = 0 := by
      unfold Core.cmpCtl
      rw [h]
      rfl
    unfold Core.cmpArmed
    rw [hctl]
    rfl
  unfold fireWatch fireWatches
  simp [harmed, fireAll]

theorem pieces_natural {va : Word} {n : Nat} (hn : n = 1 ∨ n = 2 ∨ n = 4) (h : va.toNat % n = 0) : pieces va n = [(va, n)] := by
  have hfit : n ≤ 4 - va.toNat % 4 := by rcases hn with rfl | rfl | rfl <;> omega
  exact if_pos hfit

section
variable {k : Nat} {c : Chip} {ea : Word} {n pa : Nat} (h : DirectDram k c ea n pa) (hn : n = 1 ∨ n = 2 ∨ n = 4)

section
include h

theorem direct_locate (u : Use) : locate k u ea c = (some (⟨pa, false, false⟩, true), c) := by
  obtain ⟨hk, hrt, -, -, -, hpa, -, hlt, -⟩ := h
  have hdev : courierDevice k pa = false := by
    unfold courierDevice
    rw [Bool.and_eq_false_iff]
    right
    rw [← Bool.not_eq_true, within_iff]
    omega
  have hloc : locate k u ea c = (some (⟨(c.core k).useUbase * 0x100000000 + ea.toNat, courierDevice k _, false⟩, true), c) :=
    if_neg (show ¬ (c.core k).useRT = true by simp [hrt])
  rw [hloc, ← hpa, hdev]

theorem direct_region : c.region k pa = .dram := by
  obtain ⟨hk, -, -, -, -, -, htop, hlt, -⟩ := h
  unfold Chip.region mainRegion
  rw [if_neg (by omega), if_neg (by omega), if_pos ((within_iff ..).mpr ⟨Nat.zero_le _, hlt⟩), if_pos htop]

theorem direct_reachable : c.reachable k pa .dram = true := by
  obtain ⟨hk, -, -, hm, -, -, -, -, hup, -⟩ := h
  have h62 : k ≠ 62 := by omega
  simp [Chip.reachable, hm, h62, Chip.regionDomain, hup]

/-- The check of the word finds nothing, and leaves everything as it is (R162). -/
theorem direct_checkWord : c.checkWord .dram (pa - pa % 8) false false = c := by
  obtain ⟨-, -, -, -, -, -, -, -, -, hflip, hpoison, hdef, -⟩ := h
  have hfirst : c.firstUse .dram (pa - pa % 8) = c := if_pos (by simp [hdef])
  have hstuck : c.stuck .dram (pa - pa % 8) = false := rfl
  unfold Chip.checkWord
  rw [hfirst]
  simp [hpoison, Chip.flipAt, hflip, hstuck, eccResult, BitErr.count, popcount]

end
include h hn

theorem direct_place (u : Use) : checkAccess k u ea n false c = (.ok [(⟨pa, false, false⟩, n)], c) := by
  obtain ⟨-, -, -, -, hal, -⟩ := id h
  unfold checkAccess
  rw [pieces_natural hn hal]
  simp [placePieces, direct_locate h u]

/-- The word is the only one the access checks. -/
theorem direct_eccRange : c.eccRange .dram n pa = c := by
  obtain ⟨-, -, -, -, hal, hpa, -, -, -, -, -, -, hdirty, -⟩ := id h
  have hcheck : c.eccCheck .dram pa false false = c := by
    unfold Chip.eccCheck
    rw [if_pos rfl, hdirty]
    exact direct_checkWord h
  have hrest (i : Nat) (hi : i < n) (h0 : i ≠ 0) : (pa + i) % 4 ≠ 0 := by
    rcases hn with rfl | rfl | rfl <;> omega
  have one (i : Nat) (hi : i < n) :
      (if i = 0 || (pa + i) % 4 = 0 then c.eccCheck .dram (pa + i) false false else c) = c := by
    by_cases h0 : i = 0
    · subst h0
      simpa using hcheck
    · simp [h0, hrest i hi h0]
  unfold Chip.eccRange forAll
  have all (l : List Nat) (hl : ∀ i ∈ l, i < n) :
      l.foldl (fun c i => if i = 0 || (pa + i) % 4 = 0 then c.eccCheck .dram (pa + i) false false else c) c = c := by
    induction l with
    | nil => rfl
    | cons i t ih =>
      rw [List.foldl_cons, one i (hl i List.mem_cons_self)]
      exact ih fun j hj => hl j (List.mem_cons_of_mem i hj)
  exact all (List.range n) fun i hi => List.mem_range.mp hi

theorem direct_load : busLoad k false pa n c = ⟨c.le pa n, false, false, c⟩ := by
  obtain ⟨-, -, -, -, hal, hpa, -, -, -, -, hpoison, -, hdirty, hch, -⟩ := id h
  have hany : c.anyPoison .dram pa n = false := by
    unfold Chip.anyPoison
    rw [List.any_eq_false]
    intro i hi
    have hin := List.mem_range.mp hi
    have hline : c.dirty (pa + i) = c.dirty pa := by
      have : (pa + i) - (pa + i) % 64 = pa - pa % 64 := by rcases hn with rfl | rfl | rfl <;> omega
      unfold Chip.dirty
      rw [this]
    have hkey : eccKey .dram (pa + i) = pa - pa % 8 := by
      show (pa + i) - (pa + i) % 8 = _
      rcases hn with rfl | rfl | rfl <;> omega
    unfold Chip.wordPoison
    rw [if_pos rfl, hline, hdirty, hkey]
    simp [hpoison]
  have hdead : c.deadDram .dram pa = false := by simp [Chip.deadDram, hch]
  unfold busLoad
  rw [direct_region h]
  simp only [direct_reachable h]
  unfold memLoad
  rw [direct_eccRange h hn]
  simp [hany, hdead]

/-- The load brings the bytes at its place, and changes nothing (R61, R81). -/
theorem direct_finishLoad : finishLoad k ea [(⟨pa, false, false⟩, n)] c = (.value (c.le pa n), c) := by
  obtain ⟨hk, -, -, -, -, -, -, hlt, -⟩ := id h
  have hord : inOrder k = false := (courier_or_inOrder k).mpr hk
  have hown : inOwnRam k pa = false := by simp [inOwnRam, hord]
  have hfuse : secretFuse pa = false := by
    unfold secretFuse
    rw [Bool.or_eq_false_iff, ← Bool.not_eq_true, ← Bool.not_eq_true, within_iff, within_iff]
    omega
  have hpiece : loadPiece k ⟨pa, false, false⟩ n c = ⟨c.le pa n, false, false, c⟩ := by
    simp [loadPiece, direct_load h hn, hown, hfuse]
  simp [finishLoad, loadPieces, hpiece, retireAccess, hord]

end

/-! ### Loads -/

theorem le_one (c : Chip) (pa : Nat) : c.le pa 1 = (c.byte pa).toNat := by
  simp [Chip.le, Chip.bytes, leNat]

theorem le_two (c : Chip) (pa : Nat) : c.le pa 2 = (c.byte (pa + 1) ++ c.byte pa).toNat := by
  rw [toNat_append_add]
  simp only [Chip.le, Chip.bytes, leNat]
  ring

theorem le_four (c : Chip) (pa : Nat) :
    c.le pa 4 = (c.byte (pa + 3) ++ c.byte (pa + 2) ++ c.byte (pa + 1) ++ c.byte pa).toNat := by
  rw [toNat_append_add, toNat_append_add, toNat_append_add]
  simp only [Chip.le, Chip.bytes, leNat]
  ring

theorem ofNat_toNat_zext {n : Nat} (x : BitVec n) : BitVec.ofNat 32 x.toNat = x.zeroExtend 32 := by
  apply BitVec.eq_of_toNat_eq
  simp

/-- A load that has retired changed its register, and the core's place in the program. -/
theorem Core.loaded_eq (k : Nat) (x : Core) (n : Nat) (w : Word) : ∃ g p a b r,
    ((x.wr n w).loadRetires k).advance k
      = { x with g := g, pred := p, prod := passed x.prod, pc := x.follows, slot := none, pmcnt := a, pmovf := b, pmret := r } := by
  obtain ⟨g, hg⟩ : ∃ g, x.wr n w = { x with g := g } := by
    unfold Core.wr
    split
    · exact ⟨x.g, rfl⟩
    · exact ⟨_, rfl⟩
  obtain ⟨p, hl⟩ : ∃ p, (x.wr n w).loadRetires k = { x with g := g, pred := p } := by
    unfold Core.loadRetires
    rw [hg]
    split
    · exact ⟨_, rfl⟩
    · exact ⟨x.pred, rfl⟩
  obtain ⟨a, b, r, ha⟩ := Core.advance_eq k { x with g := g, pred := p }
  exact ⟨g, p, a, b, r, (congrArg (Core.advance k) hl).trans ha⟩

section
variable {k : Fin 64} {cond : BitVec 4} {s : State} {d : Chip} (hp : s.chip.prepared k false = some d) (ht : (d.core k).takes cond = true)
include hp ht

/-- A load from DRAM writes its register, and leaves memory and all else of the machine's state as it was. -/
theorem instr_loadDirect {n pa : Nat} (hn : n = 1 ∨ n = 2 ∨ n = 4) (rd ra : BitVec 5) (off : BitVec 12) (ext : Nat → Word)
    (h : DirectDram k d ((d.core k).rd ra.toNat + off.signExtend 32) n pa) :
    ∃ e, instr k cond ordinary (fun c => loadTo k n rd ext (effAddr c k ra off) c) s = .next (s.ran k e)
      ∧ (∀ j, (e.core k).rd j = if j = rd.toNat ∧ j ≠ 0 then ext (d.le pa n) else (d.core k).rd j)
      ∧ e.mem = d.mem ∧ e.regs = d.regs ∧ (e.core k).q = (d.core k).q ∧ (e.core k).status = (d.core k).status
      ∧ ∀ j, j ≠ k.val → e.core j = d.core j := by
  obtain ⟨-, -, hcmp, -, -, -, -, -, -, -, -, -, -, -, -, hstep, hhit⟩ := id h
  have hwait : d.accessWaits k false [(⟨pa, false, false⟩, n)] = false := by simp [Chip.accessWaits]
  refine ⟨_, (instr_loadTo hp ht n rd ext fun c => effAddr c k ra off).1 _ d d (d.le pa n) d (direct_place h hn .load) hwait
    (fireWatch_none hcmp ..) (direct_finishLoad h hn), core_rd_loaded k d rd _, ?_⟩
  obtain ⟨g, p, a, b, r, hx⟩ := (d.core k).loaded_eq k rd.toNat (ext (d.le pa n))
  have hcore := (Chip.core_modCore_same d k fun x => ((x.wr rd.toNat (ext (d.le pa n))).loadRetires k).advance k).trans hx
  have hdbg := congrArg Core.dbg hcore
  rw [endStep_running ((congrArg CoreDebug.stepping hdbg).trans hstep) ((congrArg CoreDebug.haltHit hdbg).trans hhit)]
  exact ⟨rfl, rfl, (congrArg Core.q hcore :), (congrArg Core.status hcore :), fun j hj => Chip.core_modCore_other d _ hj⟩

end

/-! ### Stores -/

theorem storeChunks_nil (c : Chip) (r : Region) (fuel pa : Nat) : c.storeChunks r fuel pa [] = c := by
  cases fuel <;> rfl

theorem placed_eq_bytesAt (v : Word) (n pa : Nat) : placed pa (leBytes n v.toNat) = bytesAt pa n fun i => v.extractLsb' (8 * i) 8 := by
  have all (l : List Byte) (pa : Nat) : placed pa l = (List.range l.length).map fun i => (pa + i, l.getD i 0) := by
    induction l generalizing pa with
    | nil => rfl
    | cons b t ih =>
      rw [placed, ih, List.length_cons, List.range_succ_eq_map, List.map_cons, List.map_map]
      simp [Function.comp_def, Nat.add_assoc, Nat.add_comm 1]
  rw [leBytes_low, all]
  unfold bytesAt
  rw [List.length_map, List.length_range]
  refine List.map_congr_left fun i hi => ?_
  have hin := List.mem_range.mp hi
  simp [hin]

/-- A store to the granule of a store that is done twice ends reservations once. -/
theorem Core.lose_lose (x : Core) (pa : Nat) : (x.lose pa).lose pa = x.lose pa := by
  obtain ⟨g, q, pl, ph, pc, pr, sl, resv, _⟩ := x
  cases resv with
  | none => rfl
  | some r => by_cases hr : r.pa = pa - pa % 64 <;> simp [Core.lose, hr]

section
variable {k : Nat} {c : Chip} {ea : Word} {n pa : Nat} (h : DirectDram k c ea n pa) (hn : n = 1 ∨ n = 2 ∨ n = 4) {bs : List Byte}
  (hb : bs.length = n)
include h

/-- The store goes into the SECDED word at its place, in one piece. -/
theorem direct_busStore (hn : n = 1 ∨ n = 2 ∨ n = 4) (hb : bs.length = n) :
    busStore k pa bs c = (false, c.storeWord .dram (pa - pa % 8) (placed pa bs)) := by
  obtain ⟨-, -, -, -, hal, hpa, -, -, -, -, -, -, hdirty, hch, hpair, -⟩ := id h
  have hdead : c.deadDram .dram pa = false := by simp [Chip.deadDram, hch]
  have hin : c.storeIn .dram pa (placed pa bs) = c.storeWord .dram (pa - pa % 8) (placed pa bs) := by
    unfold Chip.storeIn
    rw [if_pos rfl, hdirty]
    rfl
  have hchunk : c.storeChunks .dram bs.length pa bs = c.storeIn .dram pa (placed pa bs) := by
    have hfit : bs.length ≤ 8 - pa % 8 := by rcases hn with rfl | rfl | rfl <;> omega
    have hwidth : c.storeWidth .dram pa = 8 := by simp [Chip.storeWidth, hdirty, eccWidth]
    obtain ⟨b, t, rfl⟩ : ∃ b t, bs = b :: t := List.exists_cons_of_length_pos (by omega)
    have hcons : c.storeChunks .dram (b :: t).length pa (b :: t) = (c.storeIn .dram pa (placed pa ((b :: t).take (8 - pa % 8)))).storeChunks
        .dram t.length (pa + (8 - pa % 8)) ((b :: t).drop (8 - pa % 8)) := by
      rw [List.length_cons, ← hwidth]
      rfl
    rw [hcons, List.take_of_length_le hfit, List.drop_eq_nil_of_le hfit, storeChunks_nil]
  unfold busStore
  rw [direct_region h]
  simp only [direct_reachable h]
  simp [hdead, Chip.memStore, hpair, hchunk, hin]

/-- The store is performed at once: nothing is posted, and the reservations on its granule end (R95, R148). -/
theorem direct_finishStore (hn : n = 1 ∨ n = 2 ∨ n = 4) (hb : bs.length = n) :
    finishStore k ea [(⟨pa, false, false⟩, n)] bs c
      = (false, (c.storeWord .dram (pa - pa % 8) (placed pa bs)).modCore k (Core.lose pa)) := by
  obtain ⟨hk, -, -, -, -, -, -, hlt, -⟩ := id h
  have hord : inOrder k = false := (courier_or_inOrder k).mpr hk
  have hown : inOwnRam k pa = false := by simp [inOwnRam, hord]
  have hguard : fuseGuard k pa c = false := by
    have h62 : k ≠ 62 := by omega
    simp [fuseGuard, h62]
  have htake : bs.take n = bs := List.take_of_length_le (by omega)
  have hpiece : storePiece k ea ⟨pa, false, false⟩ bs c = ([], c.storeWord .dram (pa - pa % 8) (placed pa bs)) := by
    have hfar : Nat.blt pa 0x800000000 = true := by
      rw [blt_eq_decide]
      simpa using hlt
    simp [storePiece, hown, hord, hguard, direct_busStore h hn hb, postStore, hfar]
  have hstay : selfReset k c (c.storeWord .dram (pa - pa % 8) (placed pa bs)) = false := by
    unfold selfReset
    rw [core_storeWord]
    simp [Core.lose]
  unfold finishStore storePieces
  rw [htake, hpiece]
  simp only [storePieces, hstay, List.append_nil]
  have hretire (d : Chip) : retireAccess k [(⟨pa, false, false⟩, n)] d = d := by simp [retireAccess]
  rw [hretire]
  refine congrArg (Prod.mk false) ((if_pos trivial).trans (Chip.modCore_congr ?_))
  generalize (c.storeWord .dram (pa - pa % 8) (placed pa bs)).core k = x
  obtain ⟨g, q, pl, ph, pc, pr, sl, resv, _⟩ := x
  cases resv with
  | none => rfl
  | some r =>
    by_cases hr : r.pa = pa - pa % 64
    · simp [Core.lose, hr]
    · have hr' := Ne.symm hr
      simp [Core.lose, hr, hr']

end

section
variable {k : Fin 64} {cond : BitVec 4} {s : State} {d : Chip} (hp : s.chip.prepared k false = some d) (ht : (d.core k).takes cond = true)
include hp ht

/-- A store to DRAM writes its bytes and ends the reservations on its granule, and leaves the registers of every core as they were. -/
theorem instr_storeDirect {n pa : Nat} (hn : n = 1 ∨ n = 2 ∨ n = 4) (rd ra : BitVec 5) (off : BitVec 12)
    (h : DirectDram k d ((d.core k).rd ra.toNat + off.signExtend 32) n pa) :
    ∃ e, instr k cond ordinary (fun c => storeFrom k n rd (effAddr c k ra off) c) s = .next (s.ran k e)
      ∧ (∀ a, e.byte a = if pa ≤ a ∧ a < pa + n then ((d.core k).rd rd.toNat).extractLsb' (8 * (a - pa)) 8 else d.byte a)
      ∧ ∀ j, ∃ pr pc sl a b r, e.core j = { (d.core j).lose pa with prod := pr, pc := pc, slot := sl, pmcnt := a, pmovf := b, pmret := r } := by
  obtain ⟨-, -, hcmp, -, -, -, -, -, -, -, -, -, -, -, hpair, hstep, hhit⟩ := id h
  have hwait : d.accessWaits k true [(⟨pa, false, false⟩, n)] = false := by simp [Chip.accessWaits, Chip.writeWaits, hpair]
  have hlen : (leBytes n ((d.core k).rd rd.toNat).toNat).length = n := leBytes_length ..
  refine ⟨_, (instr_storeFrom hp ht n rd fun c => effAddr c k ra off).1 _ d d _ (direct_place h hn .store) hwait
    (fireWatch_none hcmp ..) (direct_finishStore h hn hlen), ?_⟩
  rw [Chip.modCore_modCore]
  generalize hst : d.storeWord .dram (pa - pa % 8) (placed pa (leBytes n ((d.core k).rd rd.toNat).toNat)) = st
  have hcore (j : Nat) : st.core j = (d.core j).lose pa := by
    rw [← hst, core_storeWord]
    exact Core.lose_congr (granule_word pa (.inr rfl)) _
  have hbyte (a : Nat) : st.byte a = if pa ≤ a ∧ a < pa + n then ((d.core k).rd rd.toNat).extractLsb' (8 * (a - pa)) 8 else d.byte a := by
    rw [← byte_putBytes d pa n a fun i => ((d.core k).rd rd.toNat).extractLsb' (8 * i) 8, ← placed_eq_bytesAt, ← hst]
    exact congrArg (fun m => sget memDefault m a) (storeWord_mem d _ _ _ (.inr (congrArg Chip.mem (direct_checkWord h))))
  obtain ⟨a, b, r, ha⟩ := Core.advance_eq k ((d.core k).lose pa)
  have hlost : (st.core k).lose pa = (d.core k).lose pa := by rw [hcore, Core.lose_lose]
  have hnow := (Chip.core_modCore_same st k fun x => (x.lose pa).advance k).trans ((congrArg (Core.advance k) hlost).trans ha)
  have hdbg := congrArg Core.dbg hnow
  rw [endStep_running ((congrArg CoreDebug.stepping hdbg).trans hstep) ((congrArg CoreDebug.haltHit hdbg).trans hhit)]
  refine ⟨hbyte, fun j => ?_⟩
  by_cases hj : j = k.val
  · subst hj
    exact ⟨_, _, _, a, b, r, hnow⟩
  · exact ⟨_, _, _, _, _, _, (Chip.core_modCore_other st _ hj).trans (hcore j)⟩

end

/-- Settles O19: a load reads the bytes at its place, a store writes them there, and each leaves the rest as `instr_loadDirect` and
`instr_storeDirect` say. -/
theorem dramAccesses : Obligations.DramAccesses := by
  unfold Obligations.DramAccesses
  constructor
  · intro k cond rd ra off s d n pa hp ht h reads
    have load (hn : n = 1 ∨ n = 2 ∨ n = 4) (i : Instr) (ext : Nat → Word) {w : Word} (hw : ext (d.le pa n) = w)
        (hi : exec i s = instr k cond ordinary (fun c => loadTo k n rd ext (effAddr c k ra off) c) s) : reads i w := by
      subst hw
      obtain ⟨e, he, hrest⟩ := instr_loadDirect hp ht hn rd ra off ext h
      exact ⟨e, hi.trans he, hrest⟩
    refine ⟨fun hn => ?_, fun hn => ?_, fun hn => ?_⟩ <;> subst hn
    · exact ⟨load (.inl rfl) (.lb k cond rd ra off) (fun v => (BitVec.ofNat 8 v).signExtend 32) (by simp [le_one]) rfl,
        load (.inl rfl) (.lbu k cond rd ra off) Word.of ((congrArg Word.of (le_one d pa)).trans (ofNat_toNat_zext _)) rfl⟩
    · exact ⟨load (.inr (.inl rfl)) (.lh k cond rd ra off) (fun v => (BitVec.ofNat 16 v).signExtend 32) (by simp [le_two]) rfl,
        load (.inr (.inl rfl)) (.lhu k cond rd ra off) Word.of ((congrArg Word.of (le_two d pa)).trans (ofNat_toNat_zext _)) rfl⟩
    · exact load (.inr (.inr rfl)) (.lw k cond rd ra off) Word.of 
        (((congrArg Word.of (le_four d pa)).trans (ofNat_toNat_zext _)).trans (BitVec.setWidth_eq _)) rfl
  · intro k cond rd ra off s d n pa i hp ht h hi
    have hn : n = 1 ∨ n = 2 ∨ n = 4 := by
      rcases hi with ⟨-, h1⟩ | ⟨-, h2⟩ | ⟨-, h4⟩
      · exact .inl h1
      · exact .inr (.inl h2)
      · exact .inr (.inr h4)
    have hx : exec i s = instr k cond ordinary (fun c => storeFrom k n rd (effAddr c k ra off) c) s := by
      rcases hi with ⟨rfl, rfl⟩ | ⟨rfl, rfl⟩ | ⟨rfl, rfl⟩ <;> rfl
    obtain ⟨e, he, hbyte, hcore⟩ := instr_storeDirect hp ht hn rd ra off h
    refine ⟨e, hx.trans he, hbyte, fun j m => ?_, fun j => ?_, fun j => ?_, fun j => ?_⟩ <;>
      (obtain ⟨pr, pc, sl, a, b, r, hj⟩ := hcore j; rw [hj]; rfl)

end Sys2Proof.Machine
end

section
/-! SUPPORT. The product shadows of the cores, and how the parts of a command leave them alone. -/

namespace Sys2Proof.Machine

/-- The product that each core of a table has pending. -/
def coreProds (m : Sparse Core) (k : Nat) : Option Product := (sget Core.reset m k).prod

/-- The product that each core has pending. -/
def Chip.prods (c : Chip) : Nat → Option Product := coreProds c.cores

/-- The bound of one core: no more than 12 positions of a shadow are left (R77). -/
def ShadowOk (p : Option Product) : Prop := ∀ q, p = some q → q.left ≤ 12

/-- The bound of every core. -/
structure ShadowsOk (p : Nat → Option Product) : Prop where
  core : ∀ k, ShadowOk (p k)

theorem coreProds_cores (c : Chip) : coreProds c.cores = c.prods := (rfl)

theorem prods_eq {c d : Chip} (h : d.cores = c.cores) : d.prods = c.prods := congrArg coreProds h

/-- A chip put together anew: its products are those of its cores. -/
theorem prods_mk {count refclk nowHi replicas mem poison flips memc regs cores power dayb pm hosts dbgPort zow answer icu tmr wdt pins disp
    fu
    press dma aud free} : (Chip.mk count refclk nowHi replicas mem poison flips memc regs cores power dayb pm hosts dbgPort zow answer icu
        tmr
      wdt pins disp fu press dma aud free).prods = coreProds cores := (rfl)

/-! ### One core changed -/

theorem coreProds_sset (m : Sparse Core) (k : Nat) (x : Core) (j : Nat) :
    coreProds (sset Core.reset m k x) j = if j = k then x.prod else coreProds m j := by
  rw [coreProds, sget_sset]
  split <;> rfl

theorem prods_setCore (c : Chip) (k : Nat) (x : Core) (j : Nat) : (c.setCore k x).prods j = if j = k then x.prod else c.prods j :=
  coreProds_sset c.cores k x j

/-- A core replaced by one with the same product pending. -/
theorem setCore_prods {c : Chip} {k : Nat} {x : Core} (h : x.prod = (c.core k).prod) : (c.setCore k x).prods = c.prods := by
  funext j
  rw [prods_setCore, h]
  split
  case isTrue hj => rw [hj]; rfl
  case isFalse => rfl

/-- A change of a core that leaves its product alone. -/
theorem modCore_prods {f : Core → Core} (h : ∀ x, (f x).prod = x.prod) (c : Chip) (k : Nat) : (c.modCore k f).prods = c.prods :=
  setCore_prods (h _)

theorem clearResv_prods (pa : Nat) (m : Sparse Core) : coreProds (clearResv pa m) = coreProds m := by
  funext k
  rw [coreProds, clearResv_eq_map, sget_map_snd (f := Core.lose pa) (fun _ => rfl) k m]
  rfl

theorem ShadowsOk.setCore {c : Chip} {k : Nat} {x : Core} (hc : ShadowsOk c.prods) (hx : ShadowOk x.prod) :
    ShadowsOk (c.setCore k x).prods := by
  refine ⟨fun j => ?_⟩
  rw [prods_setCore]
  split
  · exact hx
  · exact hc.core j

/-- A change of one core that keeps its bound keeps everyone's. -/
theorem ShadowsOk.modCore {c : Chip} {k : Nat} {f : Core → Core} (hc : ShadowsOk c.prods)
    (hf : ∀ x, ShadowOk x.prod → ShadowOk (f x).prod) : ShadowsOk (c.modCore k f).prods :=
  hc.setCore (hf _ (hc.core k))

/-- The chip that an instruction's operation leaves. -/
def Res.chip : Res → Chip
  | .done c => c
  | .trap c _ _ => c
  | .stop c _ => c
  | .branch c _ _ _ => c
  | .jumped c => c
  | .syscall c _ => c
  | .hold c => c

theorem done_chip (c : Chip) : (Res.done c).chip = c := (rfl)
theorem trap_chip (c : Chip) (cause : Nat) (addr : Word) : (Res.trap c cause addr).chip = c := (rfl)
theorem stop_chip (c : Chip) (hit : Nat) : (Res.stop c hit).chip = c := (rfl)
theorem branch_chip (c : Chip) (taken : Bool) (target : Word) (annul : Bool) : (Res.branch c taken target annul).chip = c := (rfl)
theorem jumped_chip (c : Chip) : (Res.jumped c).chip = c := (rfl)
theorem syscall_chip (c : Chip) (code : Nat) : (Res.syscall c code).chip = c := (rfl)
theorem hold_chip (c : Chip) : (Res.hold c).chip = c := (rfl)

/-! ### Ways to put a command together -/

theorem ite_chip (p : Prop) [Decidable p] (a b : Res) : (if p then a else b).chip = if p then a.chip else b.chip :=
  apply_ite Res.chip p a b

theorem ite_snd {α : Type} (p : Prop) [Decidable p] (a b : α × Chip) : (if p then a else b).2 = if p then a.2 else b.2 :=
  apply_ite Prod.snd p a b

theorem ite_prods (p : Prop) [Decidable p] (a b : Chip) : (if p then a else b).prods = if p then a.prods else b.prods :=
  apply_ite Chip.prods p a b

theorem ite_prod (p : Prop) [Decidable p] (a b : Core) : (if p then a else b).prod = if p then a.prod else b.prod :=
  apply_ite Core.prod p a b

theorem of_ite_snd {α : Type} {p : Prop} [Decidable p] {a b : α × Chip} {q : Nat → Option Product}
    (ha : a.2.prods = q) (hb : b.2.prods = q) : (if p then a else b).2.prods = q := by
  split
  · exact ha
  · exact hb

/-- The chip that an operation leaves, under the name that a match gave it. -/
theorem prods_of_eq {α : Type} {p : α × Chip} {a : α} {c d : Chip} (h : p = (a, d)) (hp : p.2.prods = c.prods) : d.prods = c.prods := by
  rw [← hp, h]

theorem foldl_prod {α : Type} {f : Core → α → Core} (h : ∀ x a, (f x a).prod = x.prod) (l : List α) (x : Core) :
    (l.foldl f x).prod = x.prod := by
  induction l generalizing x with
  | nil => rfl
  | cons a t ih => exact (ih _).trans (h x a)

theorem forAll_prods {α : Type} {f : α → Chip → Chip} (h : ∀ a c, (f a c).prods = c.prods) (l : List α) (c : Chip) :
    (forAll l f c).prods = c.prods :=
  forAll_same (p := Chip.prods) h l c

theorem foldl_snd_prods {α β : Type} {f : β × Chip → α → β × Chip} (h : ∀ b a, (f b a).2.prods = b.2.prods) (l : List α) (b : β × Chip) :
    (l.foldl f b).2.prods = b.2.prods := by
  induction l generalizing b with
  | nil => rfl
  | cons a t ih => exact (ih _).trans (h b a)

theorem foldl_snd_snd_prods {α β γ : Type} {f : β × γ × Chip → α → β × γ × Chip} (h : ∀ b a, (f b a).2.2.prods = b.2.2.prods)
    (l : List α) (b : β × γ × Chip) : (l.foldl f b).2.2.prods = b.2.2.prods := by
  induction l generalizing b with
  | nil => rfl
  | cons a t ih => exact (ih _).trans (h b a)

end Sys2Proof.Machine
end

section
/-! SUPPORT. Every operation of the model that leaves each core's pending product alone, in the order of the model's files. -/

namespace Sys2Proof.Machine

/-! ### Registers, fields, the Daybook and error records -/

theorem Chip.setReg_prods (c : Chip) (k : Nat) (w : Word) : (c.setReg k w).prods = c.prods := prods_eq (Chip.setReg_cores ..)

theorem Chip.setF_prods (c : Chip) (x : Fld) (v : Nat) : (c.setF x v).prods = c.prods := prods_eq (Chip.setF_cores ..)

theorem Chip.flag_prods (c : Chip) (x : Fld) : (c.flag x).prods = c.prods := prods_eq (Chip.flag_cores ..)

theorem Chip.countF_prods (c : Chip) (x : Fld) : (c.countF x).prods = c.prods := prods_eq (Chip.countF_cores ..)

theorem Chip.setRegBit_prods (c : Chip) (k n : Nat) (b : Bool) : (c.setRegBit k n b).prods = c.prods := prods_eq (Chip.setRegBit_cores ..)

theorem Chip.resetBlock_prods (c : Chip) (mask b : Nat) : (c.resetBlock mask b).prods = c.prods := by
  simp only [Chip.resetBlock, prods_mk, coreProds_cores]

theorem Chip.answerTo_prods (c : Chip) (o : Nat) (a : Answer) : (c.answerTo o a).prods = c.prods := by
  simp only [Chip.answerTo, prods_mk, coreProds_cores]

theorem Chip.freeBits_prods (c : Chip) (w : Nat) : (c.freeBits w).2.prods = c.prods := by
  simp only [Chip.freeBits, prods_mk, coreProds_cores]

theorem Chip.freeWord_prods (c : Chip) : c.freeWord.2.prods = c.prods := by
  simp only [Chip.freeWord, Chip.freeBits_prods]

theorem freeBytes_prods (a : Nat) (c : Chip) : (freeBytes a c).2.prods = c.prods := by
  induction a generalizing c with
  | zero => simp only [freeBytes]
  | succ n ih => simp only [freeBytes, Chip.freeBits_prods, ih]

theorem Chip.journal_prods (c : Chip) (cls kind origin flags item data : Nat) :
    (c.journal cls kind origin flags item data).prods = c.prods := prods_eq (Chip.journal_cores ..)

theorem Chip.repairAdd_prods (c : Chip) (kind id off : Nat) : (c.repairAdd kind id off).prods = c.prods := by
  simp only [Chip.repairAdd, ite_prods, ite_self, prods_mk, coreProds_cores]

theorem Chip.poisonRecord_prods (c : Chip) (origin addr : Nat) : (c.poisonRecord origin addr).prods = c.prods := by
  simp only [Chip.poisonRecord, Chip.journal_prods]

theorem Chip.freezeDaybook_prods (c : Chip) : c.freezeDaybook.prods = c.prods := by
  simp only [Chip.freezeDaybook, ite_prods, ite_self, prods_mk, coreProds_cores, Chip.flag_prods]

theorem Chip.deviceFatal_prods (c : Chip) (origin cause : Nat) : (c.deviceFatal origin cause).prods = c.prods := by
  simp only [Chip.deviceFatal, prods_mk, coreProds_cores, Chip.freezeDaybook_prods, Chip.journal_prods]

theorem Chip.forgetWaits_prods (c : Chip) (m : Nat → Bool) : (c.forgetWaits m).prods = c.prods := by
  simp only [Chip.forgetWaits, prods_mk, coreProds_cores]

theorem Chip.setByte_prods (c : Chip) (pa : Nat) (b : Byte) : (c.setByte pa b).prods = c.prods := prods_eq (Chip.setByte_cores ..)

theorem Chip.setBytes_prods (c : Chip) (pa : Nat) (a : List Byte) : (c.setBytes pa a).prods = c.prods := by
  induction a generalizing c pa with
  | nil => simp only [Chip.setBytes]
  | cons b t ih => simp only [Chip.setBytes, Chip.setByte_prods, ih]

theorem Chip.setPoison_prods (c : Chip) (k : Nat) (b : Bool) : (c.setPoison k b).prods = c.prods := prods_eq (Chip.setPoison_cores ..)

/-! ### Memory and its integrity (R162 to R173) -/

theorem Chip.setDlt_prods (c : Chip) (a i : Nat) (e : DltEntry) : (c.setDlt a i e).prods = c.prods := prods_eq (Chip.setDlt_cores ..)

theorem Chip.setHard_prods (c : Chip) (k : Nat) (b : Bool) : (c.setHard k b).prods = c.prods := prods_eq (Chip.setHard_cores ..)

theorem Chip.dltAlloc_prods (c : Chip) (a off k : Nat) : (c.dltAlloc a off k).prods = c.prods := by
  unfold Chip.dltAlloc
  split <;> simp only [Chip.setDlt_prods, Chip.repairAdd_prods, Chip.flag_prods, Chip.journal_prods]

theorem Chip.verify_prods (c : Chip) (r : Region) (k : Nat) : (c.verify r k).prods = c.prods := by
  simp only [Chip.verify, ite_prods, ite_self, Chip.dltAlloc_prods]

theorem Chip.correctedSram_prods (c : Chip) (a pa : Nat) (spec scrub : Bool) : (c.correctedSram a pa spec scrub).prods = c.prods := by
  simp only [Chip.correctedSram, Chip.setF_prods, Chip.flag_prods, Chip.countF_prods, Chip.journal_prods]

theorem Chip.retirePage_prods (c : Chip) (page : Nat) : (c.retirePage page).prods = c.prods := by
  simp only [Chip.retirePage, ite_prods, ite_self, prods_mk, coreProds_cores, Chip.setF_prods, Chip.flag_prods]

theorem Chip.countPage_prods (c : Chip) (pa : Nat) : (c.countPage pa).prods = c.prods := by
  simp only [Chip.countPage, ite_prods, ite_self, prods_mk, coreProds_cores, Chip.retirePage_prods]

theorem Chip.correctedDram_prods (c : Chip) (pa : Nat) (spec scrub : Bool) : (c.correctedDram pa spec scrub).prods = c.prods := by
  simp only [Chip.correctedDram, Chip.countPage_prods, Chip.setF_prods, Chip.flag_prods, Chip.countF_prods, Chip.journal_prods]

theorem Chip.corrected_prods (c : Chip) (r : Region) (pa : Nat) (spec scrub : Bool) : (c.corrected r pa spec scrub).prods = c.prods := by
  unfold Chip.corrected
  split <;> simp only [Chip.correctedDram_prods, Chip.correctedSram_prods]

theorem Chip.setFlip_prods (c : Chip) (k : Nat) (e : BitErr) : (c.setFlip k e).prods = c.prods := prods_eq (Chip.setFlip_cores ..)

theorem Chip.xorWord_prods (c : Chip) (k n mask : Nat) : (c.xorWord k n mask).prods = c.prods := by
  simp only [Chip.xorWord, Chip.setBytes_prods]

theorem Chip.setValid_prods (c : Chip) (k : Nat) : (c.setValid k).prods = c.prods := prods_eq (Chip.setValid_cores ..)

theorem Chip.firstUse_prods (c : Chip) (r : Region) (k : Nat) : (c.firstUse r k).prods = c.prods := by
  simp only [Chip.firstUse, ite_prods, ite_self, Chip.setPoison_prods, Chip.setValid_prods, Chip.setFlip_prods, Chip.setBytes_prods,
      Chip.freeBits_prods]

theorem Chip.checkWord_prods (c : Chip) (r : Region) (k : Nat) (spec scrub : Bool) : (c.checkWord r k spec scrub).prods = c.prods := by
  simp only [Chip.checkWord, ite_prods, Chip.firstUse_prods]
  repeat' split
  all_goals simp only [Chip.setPoison_prods, Chip.corrected_prods, Chip.setFlip_prods, Chip.verify_prods, Chip.firstUse_prods,
      Chip.xorWord_prods]

theorem Chip.setDirty_prods (c : Chip) (pa : Nat) (l : Option DirtyLine) :
    (c.setDirty pa l).prods = c.prods := prods_eq (Chip.setDirty_cores ..)

theorem Chip.checkLine_prods (c : Chip) (a : Nat) (l : DirtyLine) (pa : Nat) (spec scrub : Bool) :
    (c.checkLine a l pa spec scrub).prods = c.prods := by
  simp only [Chip.checkLine, ite_prods]
  repeat' split
  all_goals simp only [Chip.correctedSram_prods, Chip.xorWord_prods, Chip.setDirty_prods]

theorem Chip.eccCheck_prods (c : Chip) (r : Region) (pa : Nat) (spec scrub : Bool) : (c.eccCheck r pa spec scrub).prods = c.prods := by
  unfold Chip.eccCheck
  split <;> simp only [Chip.checkLine_prods, Chip.checkWord_prods]

theorem Chip.markPoison_prods (c : Chip) (r : Region) (pa : Nat) : (c.markPoison r pa).prods = c.prods := by
  unfold Chip.markPoison
  split <;> simp only [Chip.setPoison_prods, Chip.setDirty_prods]

theorem Chip.eccRange_prods (c : Chip) (r : Region) (n pa : Nat) : (c.eccRange r n pa).prods = c.prods := by
  simp only [Chip.eccRange, ite_prods, ite_self, forAll_prods, implies_true, Chip.eccCheck_prods]

theorem Chip.fillLine_prods (c : Chip) (pa : Nat) : (c.fillLine pa).prods = c.prods := by
  unfold Chip.fillLine
  split <;> simp only [Chip.eccRange_prods, Chip.setDirty_prods]

theorem Chip.loseLine_prods (c : Chip) (pa : Nat) : (c.loseLine pa).prods = c.prods := by
  unfold Chip.loseLine
  split <;> simp only [forAll_prods, implies_true, Chip.setPoison_prods, Chip.setBytes_prods, Chip.freeBits_prods, Chip.setDirty_prods]

theorem Chip.loseCaches_prods (c : Chip) : c.loseCaches.prods = c.prods := by
  simp only [Chip.loseCaches, forAll_prods, implies_true, Chip.loseLine_prods]

theorem Chip.capture_prods (c : Chip) (stream : Nat) (l : CapLine) : (c.capture stream l).prods = c.prods := by
  simp only [Chip.capture, prods_mk, coreProds_cores]

theorem Chip.plant_prods (c : Chip) (r : Region) (k : Nat) : (c.plant r k).prods = c.prods := by
  unfold Chip.plant
  split <;> simp only [ite_prods, ite_self, Chip.setF_prods, Chip.setFlip_prods]

theorem Chip.freshWord_prods (c : Chip) (r : Region) (k : Nat) : (c.freshWord r k).prods = c.prods := by
  simp only [Chip.freshWord, ite_prods, ite_self, Chip.setPoison_prods, Chip.setValid_prods, Chip.setFlip_prods, Chip.verify_prods]

theorem Chip.putBytes_prods (c : Chip) (l : List (Nat × Byte)) : (c.putBytes l).prods = c.prods := by
  simp only [Chip.putBytes, forAll_prods, implies_true, Chip.setByte_prods]

theorem Chip.storeWord_prods (c : Chip) (r : Region) (k : Nat) (l : List (Nat × Byte)) : (c.storeWord r k l).prods = c.prods := by
  simp only [Chip.storeWord, ite_prods, ite_self, prods_mk, coreProds_cores, clearResv_prods, Chip.checkWord_prods, Chip.plant_prods,
      Chip.putBytes_prods, Chip.freshWord_prods]

theorem Chip.storeLine_prods (c : Chip) (d : DirtyLine) (k : Nat) (l : List (Nat × Byte)) : (c.storeLine d k l).prods = c.prods := by
  simp only [Chip.storeLine, ite_prods, ite_self, prods_mk, coreProds_cores, clearResv_prods, Chip.checkLine_prods, Chip.setF_prods,
      Chip.setDirty_prods, Chip.putBytes_prods]

theorem Chip.storeIn_prods (c : Chip) (r : Region) (pa : Nat) (l : List (Nat × Byte)) : (c.storeIn r pa l).prods = c.prods := by
  unfold Chip.storeIn
  split <;> simp only [Chip.storeLine_prods, Chip.storeWord_prods]

theorem Chip.storeChunks_prods (c : Chip) (r : Region) (fuel a : Nat) (l : List Byte) : (c.storeChunks r fuel a l).prods = c.prods := by
  fun_induction Chip.storeChunks with
  | case1 => rfl
  | case2 => rfl
  | case3 => simp only [*, Chip.storeIn_prods]

theorem Chip.writeBack_prods (c : Chip) (pa : Nat) : (c.writeBack pa).prods = c.prods := by
  unfold Chip.writeBack
  split <;> simp only [forAll_prods, implies_true, Chip.setPoison_prods, Chip.eccRange_prods, Chip.plant_prods, Chip.setDirty_prods,
      Chip.freshWord_prods]

theorem Chip.writeBackAll_prods (c : Chip) : c.writeBackAll.prods = c.prods := by
  simp only [Chip.writeBackAll, forAll_prods, implies_true, Chip.writeBack_prods]

theorem Chip.writeBackSlice_prods (c : Chip) (s : Nat) : (c.writeBackSlice s).prods = c.prods := by
  simp only [Chip.writeBackSlice, forAll_prods, implies_true, Chip.writeBack_prods]

theorem Chip.memStore_prods (c : Chip) (r : Region) (pa : Nat) (bs : List Byte) : (c.memStore r pa bs).prods = c.prods := by
  unfold Chip.memStore
  split <;> simp only [ite_prods, ite_self, Chip.setRegBit_prods, Chip.storeChunks_prods, Chip.capture_prods]

/-! ### The postmark (R20 to R32) -/

theorem epochEntry_prods (c : Chip) : (epochEntry c).prods = c.prods := by
  simp only [epochEntry, Chip.journal_prods]

theorem Chip.setCount_prods (c : Chip) (n : Nat) : (c.setCount n).prods = c.prods := prods_eq (Chip.setCount_cores ..)

theorem passTime_prods (c : Chip) : (passTime c).prods = c.prods := by
  simp only [passTime, ite_prods, ite_self, prods_mk, coreProds_cores, Chip.setCount_prods]

theorem readNowLo_prods (o : Nat) (peek : Bool) (c : Chip) : (readNowLo o peek c).2.prods = c.prods := by
  simp only [readNowLo, ite_prods, ite_self, prods_mk, coreProds_cores]

theorem Chip.setReplica_prods (c : Chip) (i : Nat) (err : Int) : (c.setReplica i err).prods = c.prods := by
  simp only [Chip.setReplica, prods_mk, coreProds_cores]

theorem Chip.raiseReplica_prods (c : Chip) (i : Nat) : (c.raiseReplica i).prods = c.prods := by
  simp only [Chip.raiseReplica, prods_mk, coreProds_cores]

theorem Chip.loadReplicas_prods (c : Chip) (sel : Nat → Bool) : (c.loadReplicas sel).prods = c.prods := by
  simp only [Chip.loadReplicas, prods_mk, coreProds_cores]

theorem Chip.stepCount_prods (c : Chip) (target : Nat) : (c.stepCount target).prods = c.prods := by
  simp only [Chip.stepCount, ite_prods, ite_self, Chip.flag_prods, Chip.setCount_prods, Chip.journal_prods]

/-! ### Scrubbing, dead letters, DRAM training (chapter 04) -/

theorem writeDltEntry_prods (v : Word) (c : Chip) : (writeDltEntry v c).prods = c.prods := by
  simp only [writeDltEntry, ite_prods, ite_self, Chip.setDlt_prods]

theorem Chip.upsetWord_prods (c : Chip) (r : Region) (pa : Nat) (u : BitErr) : (c.upsetWord r pa u).prods = c.prods := by
  simp only [Chip.upsetWord, Chip.setFlip_prods]

theorem cacheError_prods (a pa : Nat) (u : BitErr) (hard spec scrub : Bool) (c : Chip) :
    (cacheError a pa u hard spec scrub c).prods = c.prods := by
  unfold cacheError
  split
  all_goals try simp only [ite_prods, ite_self, Chip.checkLine_prods, Chip.setDirty_prods, Chip.dltAlloc_prods]
  all_goals split <;> simp only [Chip.correctedSram_prods]

theorem scrubWord_prods (r : Region) (pa : Nat) (upset : BitErr) (hard : Bool) (c : Chip) :
    (scrubWord r pa upset hard c).prods = c.prods := by
  unfold scrubWord
  repeat' split
  all_goals simp only [ite_prods, ite_self, Chip.upsetWord_prods, Chip.eccCheck_prods, Chip.countF_prods, Chip.setHard_prods]

theorem scrubChip_prods (line : Nat) (upset : BitErr) (hard : Bool) (c : Chip) : (scrubChip line upset hard c).prods = c.prods := by
  unfold scrubChip
  split <;> simp only [ite_prods, ite_self, prods_mk, coreProds_cores, cacheError_prods, Chip.countF_prods, scrubWord_prods]

theorem scrubDram_prods (upset : BitErr) (c : Chip) : (scrubDram upset c).prods = c.prods := by
  simp only [scrubDram, ite_prods, ite_self, prods_mk, coreProds_cores, scrubWord_prods]

theorem Chip.startTraining_prods (c : Chip) (master : Option Nat) : (c.startTraining master).prods = c.prods := by
  simp only [Chip.startTraining, prods_mk, coreProds_cores, Chip.setF_prods]

theorem writeDramcConfig_prods (o : Nat) (v : Word) (c : Chip) : (writeDramcConfig o v c).prods = c.prods := by
  simp only [writeDramcConfig, ite_prods, ite_self, prods_mk, coreProds_cores, Chip.setF_prods, Chip.setReg_prods, Chip.startTraining_prods]

theorem Chip.wipe_prods (c : Chip) (lo hi : Nat) : (c.wipe lo hi).prods = c.prods := by
  simp only [Chip.wipe, prods_mk, coreProds_cores]

theorem Chip.fillZero_prods (c : Chip) (lo hi : Nat) : (c.fillZero lo hi).prods = c.prods := by
  simp only [Chip.fillZero, prods_mk, coreProds_cores, Chip.wipe_prods]

theorem Chip.wipeDram_prods (c : Chip) : c.wipeDram.prods = c.prods := by
  simp only [Chip.wipeDram, Chip.wipe_prods]

theorem Chip.endTraining_prods (c : Chip) (failed : List Nat) : (c.endTraining failed).prods = c.prods := by
  simp only [Chip.endTraining]
  split <;> simp only [ite_prods, ite_self, prods_mk, coreProds_cores, Chip.wipeDram_prods, Chip.setF_prods]

theorem Chip.recordCut_prods (c : Chip) (holder arbiter : Nat) (emergency : Bool) :
    (c.recordCut holder arbiter emergency).prods = c.prods := by
  simp only [Chip.recordCut, ite_prods, ite_self, prods_mk, coreProds_cores, Chip.setF_prods, Chip.flag_prods, Chip.journal_prods]

theorem Chip.openRowOf_prods (c : Chip) (pa : Nat) : (c.openRowOf pa).prods = c.prods := by
  simp only [Chip.openRowOf, prods_mk, coreProds_cores]

/-! ### The host interfaces (chapter 15) -/

theorem pcieDown_prods (c : Chip) : (pcieDown c).prods = c.prods := by
  simp only [pcieDown, ite_prods, ite_self, Chip.setReg_prods, Chip.flag_prods]

theorem writePcieCtl_prods (v : Word) (c : Chip) : (writePcieCtl v c).prods = c.prods := by
  simp only [writePcieCtl, ite_prods, ite_self, Chip.setF_prods, pcieDown_prods, Chip.setReg_prods]

theorem readCfgData_prods (reply : Option Word) (c : Chip) : (readCfgData reply c).2.prods = c.prods := by
  unfold readCfgData
  repeat' split
  all_goals simp only [Chip.freeWord_prods, Chip.flag_prods]

theorem setVsel_prods (b : Bool) (c : Chip) : (setVsel b c).prods = c.prods := by
  simp only [setVsel, prods_mk, coreProds_cores]

theorem writeStorCtl_prods (v : Word) (c : Chip) : (writeStorCtl v c).prods = c.prods := by
  simp only [writeStorCtl, ite_prods, ite_self, setVsel_prods, Chip.setF_prods, Chip.setReg_prods]

theorem writeBlkCnt_prods (v : Word) (c : Chip) : (writeBlkCnt v c).prods = c.prods := by
  simp only [writeBlkCnt, ite_prods, ite_self, Chip.setF_prods, Chip.setReg_prods, Chip.flag_prods]

theorem dramStore_prods (a a1 : Nat) (a2 : List Byte) (c : Chip) : (dramStore a a1 a2 c).prods = c.prods := by
  induction a generalizing a1 a2 c with
  | zero => simp only [dramStore]
  | succ n ih => simp only [dramStore, ite_prods, ite_self, Chip.memStore_prods, ih]

theorem writeQcmd_prods (v : Word) (c : Chip) : (writeQcmd v c).prods = c.prods := by
  simp only [writeQcmd, ite_prods, ite_self, Chip.setF_prods, Chip.setReg_prods, Chip.flag_prods]

theorem readQdata_prods (peek : Bool) (c : Chip) : (readQdata peek c).2.prods = c.prods := by
  simp only [readQdata, ite_prods, ite_self, prods_mk, coreProds_cores, freeBytes_prods]

theorem writeQdata_prods (v : Word) (c : Chip) : (writeQdata v c).prods = c.prods := by
  simp only [writeQdata, prods_mk, coreProds_cores]

theorem sampleChannel_prods (n : Nat) (v : Int) (c : Chip) : (sampleChannel n v c).prods = c.prods := by
  simp only [sampleChannel, ite_prods, ite_self, prods_mk, coreProds_cores, Chip.flag_prods, Chip.journal_prods]

theorem writeSensEvt_prods (v : Word) (c : Chip) : (writeSensEvt v c).prods = c.prods := by
  simp only [writeSensEvt, ite_prods, ite_self, prods_mk, coreProds_cores, Chip.setReg_prods]

theorem writeSwgo_prods (v : Word) (c : Chip) : (writeSwgo v c).prods = c.prods := by
  simp only [writeSwgo, ite_prods, ite_self, Chip.repairAdd_prods, Chip.flag_prods, Chip.journal_prods]

/-! ### A core as a whole (R77 to R80, R114) -/

theorem Core.wr_prod (x : Core) (n : Nat) (v : Word) : (x.wr n v).prod = x.prod := by
  unfold Core.wr
  split <;> dsimp only

theorem Core.bump_prod (x : Core) (n : Nat) : (x.bump n).prod = x.prod := by
  simp only [Core.bump]
  split <;> dsimp only

theorem Core.event_prod (k ev : Nat) (x : Core) : (Core.event k ev x).prod = x.prod := by
  simp only [Core.event, ite_prod, ite_self, foldl_prod, implies_true, Core.bump_prod]

theorem Core.retire_prod (k : Nat) (x : Core) : (Core.retire k x).prod = x.prod := by
  unfold Core.retire
  split
  all_goals try simp only [Core.event_prod]
  all_goals split <;> dsimp only

/-! ### Debug sessions (R606 to R609) -/

theorem sessionEntry_prods (what kind level : Nat) (c : Chip) : (sessionEntry what kind level c).prods = c.prods := by
  simp only [sessionEntry, Chip.journal_prods]

/-! ### The interrupt controller (R493 to R511) -/

theorem Chip.setSrc_prods (c : Chip) (key : Nat) (x : IrqSrc) : (c.setSrc key x).prods = c.prods := prods_eq (Chip.setSrc_cores ..)

theorem msixSend_prods (c : Chip) : (msixSend c).prods = c.prods := by
  simp only [msixSend, ite_prods, ite_self, prods_mk, coreProds_cores]

theorem pend_prods (key origin pm : Nat) (refire : Bool) (c : Chip) : (pend key origin pm refire c).prods = c.prods := by
  simp only [pend, ite_prods, ite_self, Chip.flag_prods, Chip.setSrc_prods]

theorem edgeEvent_prods (key origin pm : Nat) (c : Chip) : (edgeEvent key origin pm c).prods = c.prods := by
  simp only [edgeEvent, ite_prods]
  repeat' split
  all_goals simp only [pend_prods, Chip.setSrc_prods]

theorem senseLevel_prods (key : Nat) (level : Bool) (origin pm : Nat) (c : Chip) : (senseLevel key level origin pm c).prods = c.prods := by
  simp only [senseLevel, ite_prods]
  repeat' split
  all_goals simp only [pend_prods, edgeEvent_prods, Chip.setSrc_prods]

theorem senseSrc_prods (key pm : Nat) (c : Chip) : (senseSrc key pm c).prods = c.prods := by
  simp only [senseSrc, senseLevel_prods]

theorem pulseSrc_prods (key origin : Nat) (c : Chip) : (pulseSrc key origin c).prods = c.prods := by
  simp only [pulseSrc, senseLevel_prods]

theorem raisePrivate_prods (k n : Nat) (c : Chip) : (raisePrivate k n c).prods = c.prods := by
  simp only [raisePrivate, ite_prods, ite_self, pulseSrc_prods, senseSrc_prods]

theorem endService_prods (key : Nat) (c : Chip) : (endService key c).prods = c.prods := by
  simp only [endService, ite_prods, ite_self, pend_prods, Chip.setSrc_prods]

theorem readClaim_prods (o : Nat) (peek : Bool) (c : Chip) : (readClaim o peek c).2.prods = c.prods := by
  unfold readClaim
  split
  all_goals try dsimp only
  all_goals split <;> simp only [ite_snd, ite_prods, ite_self, prods_mk, coreProds_cores, Chip.setSrc_prods]

theorem writeEoi_prods (o : Nat) (v : Word) (c : Chip) : (writeEoi o v c).prods = c.prods := by
  unfold writeEoi
  split <;> simp only [ite_prods, ite_self, endService_prods, Chip.flag_prods]

theorem lateRecord_prods (x : IrqSrc) (c : Chip) : (lateRecord x c).prods = c.prods := by
  simp only [lateRecord, ite_prods, ite_self, Chip.flag_prods, Chip.journal_prods]

theorem releaseRec_prods (key : Nat) (c : Chip) : (releaseRec key c).prods = c.prods := by
  simp only [releaseRec, ite_prods, ite_self, msixSend_prods, Chip.setSrc_prods]

theorem recordsEligible_prods (c : Chip) : (recordsEligible c).prods = c.prods := by
  simp only [recordsEligible, ite_prods, ite_self, forAll_prods, implies_true, releaseRec_prods, lateRecord_prods, Chip.setSrc_prods]

theorem moderatedRelease_prods (c : Chip) : (moderatedRelease c).prods = c.prods := by
  simp only [moderatedRelease, ite_prods, ite_self, forAll_prods, implies_true, releaseRec_prods]

theorem Chip.interruptEntered_prods (c : Chip) (k : Nat) : (c.interruptEntered k).prods = c.prods := by
  simp only [Chip.interruptEntered, prods_mk, coreProds_cores]

theorem writeIcuCfg_prods (v : Word) (c : Chip) : (writeIcuCfg v c).prods = c.prods := by
  unfold writeIcuCfg
  split <;> simp only [ite_prods, ite_self, pend_prods, Chip.flag_prods, Chip.setSrc_prods]

theorem writeIcuSwi_prods (o : Nat) (v : Word) (c : Chip) : (writeIcuSwi o v c).prods = c.prods := by
  simp only [writeIcuSwi, ite_prods, ite_self, pulseSrc_prods]

theorem writeIcuSset_prods (o : Nat) (v : Word) (c : Chip) : (writeIcuSset o v c).prods = c.prods := by
  simp only [writeIcuSset, ite_prods, ite_self, pulseSrc_prods, Chip.flag_prods]

theorem icuCoreReset_prods (k : Nat) (c : Chip) : (icuCoreReset k c).prods = c.prods := by
  simp only [icuCoreReset, ite_prods, ite_self, forAll_prods, implies_true, endService_prods]

theorem discardEntry_prods (pos : Nat) (p : Nat × IrqSrc) (c : Chip) : (discardEntry pos p c).prods = c.prods := by
  simp only [discardEntry, Chip.journal_prods]

theorem icuUnitReset_prods (c : Chip) : (icuUnitReset c).prods = c.prods := by
  simp only [icuUnitReset, ite_prods, ite_self, prods_mk, coreProds_cores, forAll_prods, implies_true, discardEntry_prods, pend_prods,
      Chip.setSrc_prods]

theorem wakeSources_prods (c : Chip) : (wakeSources c).prods = c.prods := by
  simp only [wakeSources, ite_prods, ite_self, prods_mk, coreProds_cores, forAll_prods, implies_true, pend_prods, Chip.setSrc_prods]

/-! ### Timer channels (R512 to R520) -/

theorem captureInput_prods (k sel : Nat) (c : Chip) : (captureInput k sel c).prods = c.prods := by
  simp only [captureInput, ite_prods, ite_self, prods_mk, coreProds_cores]

theorem compareEvent_prods (k : Nat) (c : Chip) : (compareEvent k c).prods = c.prods := by
  simp only [compareEvent, prods_mk, coreProds_cores, captureInput_prods, Chip.flag_prods]

theorem timerTick_prods (k : Nat) (c : Chip) : (timerTick k c).prods = c.prods := by
  simp only [timerTick, ite_prods, ite_self, prods_mk, coreProds_cores, Chip.setF_prods, compareEvent_prods, Chip.setReg_prods,
      Chip.flag_prods]

theorem readXcap_prods (k : Nat) (peek : Bool) (c : Chip) : (readXcap k peek c).2.prods = c.prods := by
  simp only [readXcap, ite_prods, ite_self, Chip.setF_prods]

theorem startChannel_prods (k : Nat) (n : Word) (c : Chip) : (startChannel k n c).prods = c.prods := by
  simp only [startChannel, prods_mk, coreProds_cores, Chip.setF_prods, Chip.setReg_prods]

theorem writeTmrCs_prods (k : Nat) (v : Word) (c : Chip) : (writeTmrCs k v c).prods = c.prods := by
  simp only [writeTmrCs, ite_prods, ite_self, Chip.setReg_prods, startChannel_prods]

theorem writeXcfg_prods (k : Nat) (v : Word) (c : Chip) : (writeXcfg k v c).prods = c.prods := by
  simp only [writeXcfg, prods_mk, coreProds_cores, Chip.setReg_prods]

theorem writeXcmp_prods (k : Nat) (v : Word) (c : Chip) : (writeXcmp k v c).prods = c.prods := by
  simp only [writeXcmp, Chip.setReg_prods]

theorem groupStart_prods (go : Nat) (c : Chip) : (groupStart go c).prods = c.prods := by
  simp only [groupStart, ite_prods, ite_self, forAll_prods, implies_true, startChannel_prods]

theorem groupStop_prods (stop : Nat) (c : Chip) : (groupStop stop c).prods = c.prods := by
  simp only [groupStop, ite_prods, ite_self, forAll_prods, implies_true, Chip.setF_prods]

theorem writeXgstart_prods (v : Word) (c : Chip) : (writeXgstart v c).prods = c.prods := by
  simp only [writeXgstart, groupStop_prods, groupStart_prods]

theorem timersReset_prods (c : Chip) : (timersReset c).prods = c.prods := by
  simp only [timersReset, prods_mk, coreProds_cores]

/-! ### Pins and banks (R527 to R542) -/

theorem freezePad_prods (p : Nat) (c : Chip) : (freezePad p c).prods = c.prods := by
  simp only [freezePad, prods_mk, coreProds_cores]

theorem thawPad_prods (p : Nat) (c : Chip) : (thawPad p c).prods = c.prods := by
  simp only [thawPad, prods_mk, coreProds_cores]

theorem setPinCode_prods (p f : Nat) (c : Chip) : (setPinCode p f c).prods = c.prods := by
  simp only [setPinCode, prods_mk, coreProds_cores]

theorem ownedWrite_prods {f : Chip → Chip} {c : Chip} (h : (f c).prods = c.prods) (o b : Nat) : (ownedWrite o b f c).prods = c.prods := by
  simp only [ownedWrite, ite_prods, h, Chip.setRegBit_prods, ite_self]

theorem writeGpioOut_prods (o b : Nat) (v : Word) (c : Chip) : (writeGpioOut o b v c).prods = c.prods := by
  simp only [writeGpioOut, Chip.setReg_prods, ownedWrite_prods]

theorem writeGpioSet_prods (o b : Nat) (v : Word) (c : Chip) : (writeGpioSet o b v c).prods = c.prods := by
  simp only [writeGpioSet, Chip.setReg_prods, ownedWrite_prods]

theorem writeGpioClr_prods (o b : Nat) (v : Word) (c : Chip) : (writeGpioClr o b v c).prods = c.prods := by
  simp only [writeGpioClr, Chip.setReg_prods, ownedWrite_prods]

theorem writeGpioOe_prods (o b : Nat) (v : Word) (c : Chip) : (writeGpioOe o b v c).prods = c.prods := by
  simp only [writeGpioOe, Chip.setReg_prods, ownedWrite_prods]

theorem releaseBank_prods (b : Nat) (c : Chip) : (releaseBank b c).prods = c.prods := by
  simp only [releaseBank, ite_prods, ite_self, prods_mk, coreProds_cores, forAll_prods, implies_true, setPinCode_prods, thawPad_prods]

theorem writeGpioCfg_prods (b : Nat) (v : Word) (c : Chip) : (writeGpioCfg b v c).prods = c.prods := by
  simp only [writeGpioCfg, ite_prods, ite_self, Chip.setReg_prods, releaseBank_prods]

theorem applyPmux_prods (i : Nat) (v : Word) (c : Chip) : (applyPmux i v c).prods = c.prods := by
  simp only [applyPmux, ite_prods, ite_self, prods_mk, coreProds_cores, forAll_prods, implies_true, Chip.setReg_prods, Chip.flag_prods,
      freezePad_prods]

theorem writePmux_prods (o i : Nat) (v : Word) (c : Chip) : (writePmux o i v c).prods = c.prods := by
  unfold writePmux
  split <;> simp only [prods_mk, coreProds_cores, applyPmux_prods]

theorem applyDeferred_prods (i : Nat) (l : List (Option Nat × Word)) (c : Chip) : (applyDeferred i l c).prods = c.prods := by
  induction l generalizing c with
  | nil => rfl
  | cons b t ih =>
    simp only [applyDeferred]
    split <;> simp only [ih, applyPmux_prods, prods_mk, coreProds_cores]

theorem endHold_prods (i : Nat) (h : Hold) (c : Chip) : (endHold i h c).prods = c.prods := by
  simp only [endHold, prods_mk, coreProds_cores, forAll_prods, implies_true, setPinCode_prods, thawPad_prods]

theorem pmuxUnitReset_prods (c : Chip) : (pmuxUnitReset c).prods = c.prods := by
  unfold pmuxUnitReset
  refine forAll_prods (fun _ _ => ?_) _ _
  split <;> simp only [endHold_prods]

theorem gpioUnitReset_prods (c : Chip) : (gpioUnitReset c).prods = c.prods := by
  simp only [gpioUnitReset, prods_mk, coreProds_cores, forAll_prods, implies_true, senseSrc_prods]

theorem pinEdge_prods (p : Nat) (level : Bool) (c : Chip) : (pinEdge p level c).prods = c.prods := by
  unfold pinEdge
  repeat' split
  all_goals simp only [ite_prods, ite_self, prods_mk, coreProds_cores, captureInput_prods]

theorem acceptLevel_prods (p : Nat) (level : Bool) (c : Chip) : (acceptLevel p level c).prods = c.prods := by
  simp only [acceptLevel, ite_prods, ite_self, prods_mk, coreProds_cores, senseSrc_prods, pinEdge_prods]

theorem dormantPin_prods (p : Nat) (level : Bool) (c : Chip) : (dormantPin p level c).prods = c.prods := by
  simp only [dormantPin, ite_prods, ite_self, prods_mk, coreProds_cores, senseSrc_prods]

theorem freezeBank_prods (b : Nat) (c : Chip) : (freezeBank b c).prods = c.prods := by
  simp only [freezeBank, ite_prods, ite_self, prods_mk, coreProds_cores, forAll_prods, implies_true, freezePad_prods]

/-! ### The scene and the binner (R203 to R236) -/

theorem Chip.modOut_prods (c : Chip) (o : Nat) (f : Output → Output) : (c.modOut o f).prods = c.prods := prods_eq (Chip.modOut_cores ..)

theorem Chip.setGrp_prods (c : Chip) (g : Nat) (x : Group) : (c.setGrp g x).prods = c.prods := by
  simp only [Chip.setGrp, prods_mk, coreProds_cores]

theorem Chip.modGrp_prods (c : Chip) (g : Nat) (f : Group → Group) : (c.modGrp g f).prods = c.prods := prods_eq (Chip.modGrp_cores ..)

theorem Chip.modComp_prods (c : Chip) (s : Nat) (f : Composer → Composer) :
    (c.modComp s f).prods = c.prods := prods_eq (Chip.modComp_cores ..)

theorem rdBytes_prods (n pa : Nat) (c : Chip) : (rdBytes n pa c).2.prods = c.prods := by
  simp only [rdBytes]
  split <;> simp only [Chip.eccRange_prods, Chip.freeBits_prods]

theorem sceneWord_prods (o off : Nat) (c : Chip) : (sceneWord o off c).2.prods = c.prods := by
  simp only [sceneWord, ite_snd, ite_prods, ite_self, rdBytes_prods]

theorem readStamp_prods (base n : Nat) (c : Chip) : (readStamp base n c).2.prods = c.prods := by
  simp only [readStamp, rdBytes_prods]

theorem enterBand_prods (o b word : Nat) (a : Bins × Chip) : (enterBand o b word a).2.prods = a.2.prods := by
  simp only [enterBand, ite_snd, ite_prods, ite_self, Chip.memStore_prods]

theorem binStamp_prods (o base : Nat) (matrixOk bad : Bool) (a : Bins × Chip) (n : Nat) :
    (binStamp o base matrixOk bad a n).2.prods = a.2.prods := by
  simp only [binStamp, ite_snd, ite_prods, ite_self, foldl_snd_prods, implies_true, readStamp_prods, enterBand_prods]

theorem writeHeaders_prods (o : Nat) (b : Bins) (c : Chip) : (writeHeaders o b c).prods = c.prods := by
  simp only [writeHeaders, forAll_prods, implies_true, Chip.memStore_prods]

theorem binFrame_prods (o wait : Nat) (c : Chip) : (binFrame o wait c).prods = c.prods := by
  simp only [binFrame, ite_prods, ite_self, foldl_snd_prods, implies_true, Chip.modOut_prods, Chip.setF_prods, sceneWord_prods,
      Chip.flag_prods, writeHeaders_prods, binStamp_prods]

theorem sceneLatch_prods (o : Nat) (c : Chip) : (sceneLatch o c).prods = c.prods := by
  simp only [sceneLatch, ite_prods, ite_self, Chip.setReg_prods, Chip.flag_prods]

theorem descWords_prods (o off a : Nat) (c : Chip) : (descWords o off a c).2.prods = c.prods := by
  induction a generalizing o off c with
  | zero => simp only [descWords]
  | succ n ih => simp only [descWords, sceneWord_prods, ih]

theorem checkPage_prods (o k mb : Nat) (ranked : Bool) (c : Chip) : (checkPage o k mb ranked c).2.prods = c.prods := by
  simp only [checkPage, descWords_prods]

theorem checkBitmap_prods (o j : Nat) (ranked : Bool) (c : Chip) : (checkBitmap o j ranked c).2.prods = c.prods := by
  simp only [checkBitmap, descWords_prods]

theorem checkScene_prods (o : Nat) (c : Chip) : (checkScene o c).prods = c.prods := by
  unfold checkScene
  split
  · rfl
  split
  next h1 =>
  split
  next h2 =>
  split
  next h3 =>
  split
  next h4 =>
  split
  next h5 =>
  split
  next h6 =>
  split
  next h7 =>
  replace h4 := prods_of_eq h4 (foldl_snd_prods (fun a j => by split; next h => exact prods_of_eq h (checkPage_prods ..)) _ _)
  replace h5 := prods_of_eq h5 (foldl_snd_prods (fun a j => by split; next h => exact prods_of_eq h (checkBitmap_prods ..)) _ _)
  simp only [ite_prods, Chip.flag_prods, ite_self]
  calc _ = _ := prods_of_eq h7 (sceneWord_prods ..)
    _ = _ := prods_of_eq h6 (sceneWord_prods ..)
    _ = _ := h5.trans h4
    _ = _ := prods_of_eq h3 (sceneWord_prods ..)
    _ = _ := prods_of_eq h2 (sceneWord_prods ..)
    _ = _ := prods_of_eq h1 (sceneWord_prods ..)

/-! ### The pixels of a line (R210 to R245) -/

theorem palEntry_prods (k : LineCtx) (x p e : Nat) (c : Chip) : (palEntry k x p e c).2.prods = c.prods := by
  unfold palEntry
  split <;> simp only [rdBytes_prods]

theorem indexedPx_prods (k : LineCtx) (x v base pal : Nat) (zeroOpaque : Bool) (c : Chip) :
    (indexedPx k x v base pal zeroOpaque c).2.prods = c.prods := by
  simp only [indexedPx, ite_snd, ite_prods, ite_self, palEntry_prods]

theorem imagePx_prods (k : LineCtx) (x base n fmt idx pal : Nat) (zeroOpaque : Bool) (c : Chip) :
    (imagePx k x base n fmt idx pal zeroOpaque c).2.prods = c.prods := by
  simp only [imagePx, ite_snd, ite_prods, ite_self, rdBytes_prods, indexedPx_prods]

theorem readMatrix_prods (k : LineCtx) (m : Nat) (c : Chip) : (readMatrix k m c).2.prods = c.prods := by
  unfold readMatrix
  split <;> simp only [ite_snd, ite_prods, ite_self, rdBytes_prods, sceneWord_prods]

theorem pagePx_prods (k : LineCtx) (s : PageOn) (x : Nat) (c : Chip) : (pagePx k s x c).2.prods = c.prods := by
  simp only [pagePx, ite_snd, ite_prods, ite_self, rdBytes_prods, Chip.freeBits_prods, imagePx_prods]

theorem srcPx_prods (k : LineCtx) (j : Nat) (a b : Int) (c : Chip) : (srcPx k j a b c).2.prods = c.prods := by
  simp only [srcPx, rdBytes_prods]

theorem columnPx_prods (k : LineCtx) (j : Nat) (a row : Int) (pv : Nat) (c : Chip) : (columnPx k j a row pv c).2.prods = c.prods :=
  foldl_snd_snd_prods (fun _ _ => srcPx_prods ..) _ _

theorem bitmapPx_prods (k : LineCtx) (j rank x : Nat) (c : Chip) : (bitmapPx k j rank x c).2.prods = c.prods := by
  unfold bitmapPx
  extract_lets
  split
  · rfl
  · split
    next h =>
    refine (congrArg (fun t => t.2.2.prods) h).symm.trans (foldl_snd_snd_prods (fun t i => ?_) _ _)
    split
    next hp => exact prods_of_eq hp (columnPx_prods ..)

theorem stampPx_prods (k : LineCtx) (rank : Nat) (t : StampOn) (x : Nat) (c : Chip) : (stampPx k rank t x c).2.prods = c.prods := by
  simp only [stampPx, ite_snd, ite_prods, ite_self, imagePx_prods]

theorem bandEntry_prods (k : LineCtx) (base : Nat) (a : Band × Chip) (i : Nat) : (bandEntry k base a i).2.prods = a.2.prods := by
  grind [bandEntry, rdBytes_prods, readStamp_prods, readMatrix_prods]

theorem readBand_prods (k : LineCtx) (c : Chip) : (readBand k c).2.prods = c.prods := by
  simp only [readBand, ite_snd, ite_prods, ite_self, foldl_snd_prods, implies_true, rdBytes_prods, sceneWord_prods, bandEntry_prods]

theorem composePx_prods (k : LineCtx) (sh : Sheets) (x : Nat) (c : Chip) : (composePx k sh x c).2.prods = c.prods := by
  unfold composePx
  split <;> simp only [foldl_snd_prods, implies_true, pagePx_prods, stampPx_prods, bitmapPx_prods]

/-! ### Sorter groups and units (R249 to R283) -/

theorem Chip.revt_prods (c : Chip) (g n : Nat) : (c.revt g n).prods = c.prods := by
  simp only [Chip.revt, Chip.setRegBit_prods]

theorem routeErr_prods (s : Nat) (c : Chip) : (routeErr s c).prods = c.prods := by
  unfold routeErr
  split <;> simp only [Chip.revt_prods]

theorem regroup_prods (g : Nat) (c : Chip) : (regroup g c).prods = c.prods := by
  simp only [regroup, ite_prods, ite_self, forAll_prods, implies_true, Chip.setGrp_prods, Chip.setF_prods, Chip.modComp_prods,
      Chip.modGrp_prods, Chip.revt_prods]

theorem xstat_prods (g line half s : Nat) (dropped : Bool) (c : Chip) : (xstat g line half s dropped c).prods = c.prods := by
  simp only [xstat, Chip.modOut_prods, Chip.setReg_prods, Chip.revt_prods]

theorem closeUnit_prods (g u : Nat) (c : Chip) : (closeUnit g u c).prods = c.prods := by
  simp only [closeUnit, Chip.modGrp_prods]

theorem abandonUnit_prods (s : Nat) (c : Chip) : (abandonUnit s c).prods = c.prods := by
  unfold abandonUnit
  split <;> simp only [ite_prods, ite_self, closeUnit_prods, Chip.modComp_prods, xstat_prods]

theorem abandonHeld_prods (s : Nat) (c : Chip) : (abandonHeld s c).prods = c.prods := by
  unfold abandonHeld
  split <;> simp only [ite_prods, ite_self, abandonUnit_prods]

theorem dropUnit_prods (g u s : Nat) (c : Chip) : (dropUnit g u s c).prods = c.prods := by
  simp only [dropUnit, closeUnit_prods, xstat_prods]

theorem dropOffered_prods (s : Nat) (c : Chip) : (dropOffered s c).prods = c.prods := by
  unfold dropOffered
  split <;> simp only [Chip.modComp_prods, dropUnit_prods]

theorem endUnits_prods (o : Nat) (c : Chip) : (endUnits o c).prods = c.prods := by
  simp only [endUnits, forAll_prods, implies_true, Chip.modComp_prods, abandonHeld_prods]

theorem dropAtLine_prods (o i : Nat) (c : Chip) : (dropAtLine o i c).prods = c.prods := by
  simp only [dropAtLine]
  split <;> simp only [ite_prods, ite_self, Chip.modComp_prods, dropUnit_prods]

theorem localWord_prods (s off : Nat) (c : Chip) : (localWord s off c).2.prods = c.prods := by
  simp only [localWord, rdBytes_prods]

theorem routeEntries_prods (s off a a1 : Nat) (c : Chip) : (routeEntries s off a a1 c).2.prods = c.prods := by
  induction a generalizing s off a1 c with
  | zero => simp only [routeEntries]
  | succ n ih => simp only [routeEntries, localWord_prods, ih]

theorem routeLookup_prods (s off l : Nat) (c : Chip) : (routeLookup s off l c).2.prods = c.prods := by
  simp only [routeLookup, localWord_prods, routeEntries_prods]

theorem loadParams_prods (o : Nat) (c : Chip) : (loadParams o c).2.prods = c.prods := by
  unfold loadParams
  split
  · rfl
  · refine foldl_snd_prods (fun a i => ?_) _ _
    split
    · rfl
    · exact sceneWord_prods ..

theorem offerUnit_prods (g s : Nat) (c : Chip) : (offerUnit g s c).prods = c.prods := by
  unfold offerUnit
  split <;> simp only [ite_prods, ite_self, routeLookup_prods, loadParams_prods, Chip.modComp_prods, Chip.revt_prods]

theorem drawnSheets_prods (k : LineCtx) (c : Chip) : (drawnSheets k c).2.prods = c.prods := by
  unfold drawnSheets
  split
  · rfl
  · simp only [ite_snd, ite_prods, readBand_prods, ite_self]
    refine (foldl_snd_prods (fun a n => ?_) _ _).trans ?_
    · split <;> simp only [ite_snd, ite_prods, readMatrix_prods, ite_self]
    · simp only [sceneWord_prods]

theorem setRing_prods (o slot x v : Nat) (c : Chip) : (setRing o slot x v c).prods = c.prods := by
  simp only [setRing, prods_mk, coreProds_cores]

theorem setCommit_prods (o slot seg : Nat) (b : Bool) (c : Chip) : (setCommit o slot seg b c).prods = c.prods := by
  simp only [setCommit, prods_mk, coreProds_cores]

theorem lineOverflow_prods (o line : Nat) (c : Chip) : (lineOverflow o line c).prods = c.prods := by
  simp only [lineOverflow, ite_prods, ite_self, Chip.setF_prods, Chip.flag_prods]

theorem drawUnit_prods (g : Nat) (h : LineUnit) (c : Chip) : (drawUnit g h c).prods = c.prods := by
  simp only [drawUnit, ite_prods, ite_self, forAll_prods, implies_true, sceneWord_prods, setCommit_prods, setRing_prods, Chip.revt_prods,
      drawnSheets_prods, composePx_prods, lineOverflow_prods]

theorem retireSorter_prods (s : Nat) (c : Chip) : (retireSorter s c).prods = c.prods := by
  simp only [retireSorter]
  split <;> simp only [ite_prods, ite_self, forAll_prods, implies_true, Chip.setRegBit_prods, Chip.modComp_prods, dropUnit_prods,
      Chip.modGrp_prods, Chip.repairAdd_prods, abandonUnit_prods, Chip.revt_prods, Chip.journal_prods]

theorem writeRetire_prods (hi : Bool) (v : Word) (c : Chip) : (writeRetire hi v c).prods = c.prods := by
  simp only [writeRetire, ite_prods, ite_self, forAll_prods, implies_true, Chip.setRegBit_prods, retireSorter_prods]

theorem unitFatal_prods (o item : Nat) (c : Chip) : (unitFatal o item c).prods = c.prods := by
  simp only [unitFatal, ite_prods, prods_mk, coreProds_cores, Chip.deviceFatal_prods, Chip.journal_prods]
  repeat' split
  all_goals simp only [prods_mk, coreProds_cores, retireSorter_prods, Chip.journal_prods]

/-! ### The Franking Unit (R397 to R425) -/

theorem Chip.modFu_prods (c : Chip) (f : Franking → Franking) : (c.modFu f).prods = c.prods := prods_eq (Chip.modFu_cores ..)

theorem Chip.modPulse_prods (c : Chip) (i : Nat) (f : PulseIn → PulseIn) : (c.modPulse i f).prods = c.prods := by
  simp only [Chip.modPulse, Chip.modFu_prods]

theorem Chip.modMeterOut_prods (c : Chip) (k : Nat) (f : MeterOut → MeterOut) : (c.modMeterOut k f).prods = c.prods := by
  simp only [Chip.modMeterOut, Chip.modFu_prods]

theorem Chip.modSlot_prods (c : Chip) (s : Nat) (f : BoxSlot → BoxSlot) : (c.modSlot s f).prods = c.prods := by
  simp only [Chip.modSlot, Chip.modFu_prods]

theorem Chip.zowSend_prods (c : Chip) (stream : Nat) : (c.zowSend stream).prods = c.prods := by
  simp only [Chip.zowSend, ite_prods, ite_self, prods_mk, coreProds_cores]

theorem fuDo_prods {f : Chip → Chip} {c : Chip} (h : (f c).prods = c.prods) : (fuDo f c).prods = c.prods := by
  simp only [fuDo, ite_prods, h, Chip.flag_prods, ite_self]

theorem recordEntry_prods (e : JEntry) (c : Chip) : (recordEntry e c).prods = c.prods := by
  simp only [recordEntry, ite_prods, ite_self, Chip.zowSend_prods, Chip.modFu_prods]

theorem recordOnly_prods (source cause arg data : Nat) (c : Chip) : (recordOnly source cause arg data c).prods = c.prods := by
  simp only [recordOnly, recordEntry_prods]

theorem driveOutput_prods (m : Nat) (d : Int) (c : Chip) : (driveOutput m d c).prods = c.prods := by
  simp only [driveOutput, ite_prods, ite_self, Chip.modMeterOut_prods, recordOnly_prods]

theorem fuCommit_prods (source cause arg tkey : Nat) (changes : List (Nat × Int)) (data : Nat) (vals : List Nat) (c : Chip) :
    (fuCommit source cause arg tkey changes data vals c).prods = c.prods := by
  simp only [fuCommit, forAll_prods, implies_true, driveOutput_prods, recordEntry_prods]

theorem commitEvent_prods (e : FuEv) (c : Chip) : (commitEvent e c).prods = c.prods := by
  unfold commitEvent
  split <;> simp only [forAll_prods, implies_true, driveOutput_prods, recordEntry_prods, fuCommit_prods]

theorem fuEventOf_prods (e : FuEv) (c : Chip) : (fuEventOf e c).prods = c.prods := by
  simp only [fuEventOf, ite_prods, ite_self, Chip.zowSend_prods, commitEvent_prods, Chip.modFu_prods]

theorem fuEvent_prods (source cause arg : Nat) (changes : List (Nat × Int)) (data : Nat) (c : Chip) :
    (fuEvent source cause arg changes data c).prods = c.prods := by
  simp only [fuEvent, fuEventOf_prods]

theorem commitEvents_prods (l : List FuEv) (c : Chip) : (commitEvents l c).prods = c.prods := by
  simp only [commitEvents, ite_prods, ite_self, forAll_prods, implies_true, commitEvent_prods]

theorem issueEvents_prods (c : Chip) : (issueEvents c).prods = c.prods := by
  simp only [issueEvents, commitEvents_prods, Chip.modFu_prods]

theorem loadSeg_prods (k : Nat) (s : Seg) (c : Chip) : (loadSeg k s c).prods = c.prods := by
  simp only [loadSeg, ite_prods, ite_self, Chip.storeChunks_prods, Chip.modFu_prods]

theorem runImage_prods (k : Nat) (c : Chip) : (runImage k c).prods = c.prods := by
  simp only [runImage, forAll_prods, implies_true, loadSeg_prods, Chip.setF_prods, Chip.modFu_prods]

theorem romMode_prods (c : Chip) : (romMode c).prods = c.prods := by
  simp only [romMode, Chip.modFu_prods]

theorem jamInput_prods (i : Nat) (c : Chip) : (jamInput i c).prods = c.prods := by
  simp only [jamInput, Chip.modPulse_prods, fuEvent_prods]

theorem commitPulses_prods (l : List Nat) (i0 : Nat) (acc : List (Nat × Int)) (c : Chip) : (commitPulses l i0 acc c).prods = c.prods := by
  induction l generalizing i0 acc c with
  | nil => simp only [commitPulses, ite_prods, fuCommit_prods, ite_self]
  | cons i t ih => simp only [commitPulses, ite_prods, ih, jamInput_prods, Chip.modPulse_prods, fuCommit_prods, ite_self]

theorem rebuild_prods (c : Chip) : (rebuild c).prods = c.prods := by
  simp only [rebuild, Chip.modFu_prods]

theorem recover_prods (c : Chip) : (recover c).prods = c.prods := by
  simp only [recover, fuEvent_prods, Chip.modFu_prods]

theorem chooseImage_prods (c : Chip) : (chooseImage c).2.prods = c.prods := by
  simp only [chooseImage, ite_snd, ite_prods, ite_self, runImage_prods, romMode_prods]

theorem takeShadow_prods (i : Nat) (c : Chip) : (takeShadow i c).prods = c.prods := by
  simp only [takeShadow, Chip.modPulse_prods]

theorem commitShadows_prods (c : Chip) : (commitShadows c).prods = c.prods := by
  simp only [commitShadows, ite_prods, ite_self, forAll_prods, implies_true, takeShadow_prods, commitPulses_prods]

theorem giveShadows_prods (c : Chip) : (giveShadows c).prods = c.prods := by
  simp only [giveShadows, forAll_prods, implies_true, Chip.modPulse_prods]

theorem commitDoor_prods (c : Chip) : (commitDoor c).prods = c.prods := by
  unfold commitDoor
  split <;> simp only [ite_prods, ite_self, fuEventOf_prods, Chip.modFu_prods]

theorem commitDoors_prods (c : Chip) : (commitDoors c).prods = c.prods := by
  simp only [commitDoors, ite_prods, ite_self, forAll_prods, implies_true, commitDoor_prods, fuEventOf_prods, Chip.modFu_prods]

theorem interruptPulses_prods (c : Chip) : (interruptPulses c).prods = c.prods := by
  simp only [interruptPulses, ite_prods, ite_self, forAll_prods, implies_true, Chip.modMeterOut_prods, fuEvent_prods]

theorem endFuLevel_prods (c : Chip) : (endFuLevel c).prods = c.prods := by
  simp only [endFuLevel, Chip.setF_prods]

theorem Chip.doneBit_prods (c : Chip) (s : Nat) : (c.doneBit s).prods = c.prods := by
  simp only [Chip.doneBit, ite_prods, ite_self, Chip.setRegBit_prods]

theorem putReceipt_prods (s : Nat) (words : List Nat) (c : Chip) : (putReceipt s words c).prods = c.prods := by
  simp only [putReceipt, ite_prods, ite_self, Chip.doneBit_prods, Chip.modSlot_prods, Chip.setBytes_prods]

theorem finishBusy_prods (c : Chip) : (finishBusy c).prods = c.prods := by
  refine forAll_prods (fun s c => ?_) _ c
  split
  · extract_lets t
    split <;> exact putReceipt_prods ..
  · rfl

/-! ### The PO Box (R426 to R437) -/

theorem writePoboxSel_prods (o : Nat) (v : Word) (c : Chip) : (writePoboxSel o v c).prods = c.prods := by
  simp only [writePoboxSel, ite_prods, ite_self, Chip.modFu_prods]

theorem readClaimSlot_prods (o : Nat) (peek : Bool) (c : Chip) : (readClaimSlot o peek c).2.prods = c.prods := by
  unfold readClaimSlot
  split <;> simp only [ite_snd, ite_prods, ite_self, Chip.modSlot_prods, Chip.modFu_prods]

theorem writePoboxData_prods (o k : Nat) (v : Word) (c : Chip) : (writePoboxData o k v c).prods = c.prods := by
  unfold writePoboxData
  split <;> simp only [ite_prods, ite_self, Chip.setBytes_prods, Chip.flag_prods]

theorem takeMirrored_prods (s : Nat) (c : Chip) : (takeMirrored s c).prods = c.prods := by
  unfold takeMirrored
  split
  all_goals try dsimp only
  all_goals split <;> simp only [Chip.modFu_prods, putReceipt_prods]

theorem postSlot_prods (o s : Nat) (c : Chip) : (postSlot o s c).prods = c.prods := by
  simp only [postSlot, ite_prods, ite_self, Chip.modSlot_prods, takeMirrored_prods, Chip.flag_prods]

theorem mirrorReceipt_prods (s : Nat) (c : Chip) : (mirrorReceipt s c).prods = c.prods := by
  simp only [mirrorReceipt, ite_prods, ite_self, Chip.zowSend_prods]

theorem abortSlot_prods (s : Nat) (late : Bool) (c : Chip) : (abortSlot s late c).prods = c.prods := by
  unfold abortSlot
  split <;> simp only [Chip.modSlot_prods, mirrorReceipt_prods, Chip.flag_prods, putReceipt_prods]

theorem releaseSlot_prods (s : Nat) (c : Chip) : (releaseSlot s c).prods = c.prods := by
  simp only [releaseSlot, ite_prods, ite_self, Chip.modSlot_prods, Chip.flag_prods]

theorem poboxCmd_prods {f : Nat → Chip → Chip} {c : Chip} (h : ∀ s, (f s c).prods = c.prods) (o : Nat) :
    (poboxCmd o f c).prods = c.prods := by
  unfold poboxCmd
  split <;> simp only [ite_prods, h, Chip.flag_prods, ite_self]

theorem writePoboxCmd_prods (o : Nat) (v : Word) (c : Chip) : (writePoboxCmd o v c).prods = c.prods := by
  simp only [writePoboxCmd, ite_prods, ite_self, implies_true, releaseSlot_prods, postSlot_prods, poboxCmd_prods, abortSlot_prods]

theorem writeXforce_prods (v : Word) (c : Chip) : (writeXforce v c).prods = c.prods := by
  simp only [writeXforce, ite_prods, ite_self, Chip.modSlot_prods, Chip.flag_prods]

theorem writeXinj_prods (v : Word) (c : Chip) : (writeXinj v c).prods = c.prods := by
  simp only [writeXinj, ite_prods, ite_self, Chip.setF_prods]

theorem answerSlot_prods (s status : Nat) (dup : Bool) (gen pm : Nat) (data : List Nat) (c : Chip) :
    (answerSlot s status dup gen pm data c).prods = c.prods := by
  simp only [answerSlot, mirrorReceipt_prods, putReceipt_prods]

theorem answerPlain_prods (s status : Nat) (data : List Nat) (c : Chip) : (answerPlain s status data c).prods = c.prods := by
  simp only [answerPlain, answerSlot_prods]

theorem answerCommit_prods (s : Nat) (data : List Nat) (c : Chip) : (answerCommit s data c).prods = c.prods := by
  simp only [answerCommit, answerSlot_prods]

theorem serveOp_prods {body : Nat → Chip → Chip} {c : Chip} (h : ∀ s, (body s c).prods = c.prods) (op : Nat) :
    (serveOp op body c).prods = c.prods := by
  unfold serveOp
  split
  · rfl
  · split
    · rfl
    · refine fuDo_prods ?_
      split
      · exact answerPlain_prods ..
      · split
        · exact answerPlain_prods ..
        · exact h _

theorem opRead_prods (s : Nat) (c : Chip) : (opRead s c).prods = c.prods := by
  simp only [opRead, ite_prods, ite_self, answerPlain_prods]

theorem opCommit_prods (s : Nat) (c : Chip) : (opCommit s c).prods = c.prods := by
  simp only [opCommit, ite_prods, answerPlain_prods]
  repeat' split
  all_goals simp only [answerPlain_prods, answerSlot_prods, fuCommit_prods, answerCommit_prods]

theorem opReport_prods (s : Nat) (c : Chip) : (opReport s c).prods = c.prods := by
  simp only [opReport, answerPlain_prods, Chip.modFu_prods]

theorem opReportRead_prods (s : Nat) (c : Chip) : (opReportRead s c).prods = c.prods := by
  simp only [opReportRead, ite_prods, answerPlain_prods]
  repeat' split
  all_goals simp only [answerPlain_prods]

theorem opIdent_prods (s : Nat) (c : Chip) : (opIdent s c).prods = c.prods := by
  simp only [opIdent, answerPlain_prods]

theorem opTime_prods (s : Nat) (c : Chip) : (opTime s c).prods = c.prods := by
  simp only [opTime, answerPlain_prods]

theorem opSealBreak_prods (s : Nat) (c : Chip) : (opSealBreak s c).prods = c.prods := by
  unfold opSealBreak
  split <;> simp only [answerPlain_prods, fuCommit_prods, Chip.modFu_prods, answerCommit_prods]

theorem opReseal_prods (s : Nat) (c : Chip) : (opReseal s c).prods = c.prods := by
  unfold opReseal
  repeat' split
  all_goals simp only [endFuLevel_prods, answerPlain_prods, fuCommit_prods, Chip.modFu_prods, answerCommit_prods]

theorem opNotice_prods (s : Nat) (c : Chip) : (opNotice s c).prods = c.prods := by
  simp only [opNotice, ite_prods, ite_self, answerPlain_prods, fuCommit_prods, Chip.modFu_prods, answerCommit_prods]

theorem opStage_prods (s : Nat) (c : Chip) : (opStage s c).prods = c.prods := by
  simp only [opStage, ite_prods, ite_self, answerPlain_prods, Chip.modFu_prods]

theorem opFwWrite_prods (s : Nat) (c : Chip) : (opFwWrite s c).prods = c.prods := by
  simp only [opFwWrite, ite_prods, ite_self, answerPlain_prods, Chip.modFu_prods]

theorem burnSeal_prods (p : Nat × List Byte) (c : Chip) : (burnSeal p c).prods = c.prods := by
  simp only [burnSeal, Chip.modFu_prods]

theorem opClockSet_prods (s : Nat) (c : Chip) : (opClockSet s c).prods = c.prods := by
  simp only [opClockSet, ite_prods, ite_self, answerPlain_prods, Chip.setF_prods, fuCommit_prods, Chip.modFu_prods, answerCommit_prods]

theorem opMeterInit_prods (s : Nat) (c : Chip) : (opMeterInit s c).prods = c.prods := by
  simp only [opMeterInit, ite_prods, ite_self, answerPlain_prods, fuCommit_prods, Chip.modFu_prods, answerCommit_prods]

theorem opRecoverAck_prods (s : Nat) (c : Chip) : (opRecoverAck s c).prods = c.prods := by
  simp only [opRecoverAck, fuCommit_prods, Chip.modFu_prods, answerCommit_prods]

theorem opFaultClear_prods (s : Nat) (c : Chip) : (opFaultClear s c).prods = c.prods := by
  simp only [opFaultClear, ite_prods, ite_self, forAll_prods, implies_true, answerPlain_prods, Chip.modMeterOut_prods, Chip.modPulse_prods,
      fuCommit_prods, answerCommit_prods]

/-! ### The Franking Unit's supplies, clock and pins (R399 to R450) -/

theorem releaseOutputs_prods (c : Chip) : (releaseOutputs c).prods = c.prods := by
  simp only [releaseOutputs, Chip.setF_prods, interruptPulses_prods]

theorem writeFuWdt_prods (v : Word) (c : Chip) : (writeFuWdt v c).prods = c.prods := by
  simp only [writeFuWdt, ite_prods, ite_self, Chip.setF_prods, Chip.modFu_prods]

theorem countPulse_prods (i : Nat) (c : Chip) : (countPulse i c).prods = c.prods := by
  simp only [countPulse, ite_prods, ite_self, Chip.modPulse_prods]

theorem classifyEdge_prods (i : Nat) (level : Bool) (us : Nat) (c : Chip) : (classifyEdge i level us c).prods = c.prods := by
  simp only [classifyEdge, ite_prods, ite_self, Chip.modPulse_prods, fuEvent_prods, countPulse_prods, jamInput_prods]

theorem storeDoor_prods (d : Nat) (c : Chip) : (storeDoor d c).prods = c.prods := by
  simp only [storeDoor, Chip.modFu_prods]

theorem writeFuSpiCmd_prods (v : Word) (c : Chip) : (writeFuSpiCmd v c).prods = c.prods := by
  simp only [writeFuSpiCmd, ite_prods, ite_self, Chip.setF_prods, Chip.setReg_prods, Chip.modFu_prods]

theorem popBytes_prods (l : List Byte) (c : Chip) : (popBytes l c).2.prods = c.prods := by
  simp only [popBytes, freeBytes_prods]

theorem readFuSpiData_prods (peek : Bool) (c : Chip) : (readFuSpiData peek c).2.prods = c.prods := by
  simp only [readFuSpiData, ite_prods, ite_self, Chip.modFu_prods, popBytes_prods]

theorem writeFuSpiData_prods (v : Word) (c : Chip) : (writeFuSpiData v c).prods = c.prods := by
  simp only [writeFuSpiData, Chip.modFu_prods]

theorem regAccess_prods {rd : Chip → Word × Chip} {wr : Word → Chip → Chip} {c : Chip}
    (hr : (rd c).2.prods = c.prods) (hw : ∀ v, (wr v c).prods = c.prods) (o : Nat) (w : Option Word) :
    (regAccess o rd wr w c).prods = c.prods := by
  unfold regAccess
  split
  · exact hr
  · exact hw _

theorem readFuMirData_prods (peek : Bool) (c : Chip) : (readFuMirData peek c).2.prods = c.prods := by
  unfold readFuMirData
  split <;> simp only [ite_prods, ite_self, Chip.freeWord_prods, Chip.modFu_prods]

theorem writeFuMirData_prods (v : Word) (c : Chip) : (writeFuMirData v c).prods = c.prods := by
  simp only [writeFuMirData, ite_prods, ite_self, Chip.modFu_prods]

theorem sendMirror_prods (c : Chip) : (sendMirror c).prods = c.prods := by
  simp only [sendMirror, Chip.zowSend_prods, Chip.modFu_prods]

theorem coverFrom_prods (a : List Nat) (a1 : List (Nat × Int)) (c : Chip) : (coverFrom a a1 c).prods = c.prods := by
  fun_induction coverFrom <;> simp only [*, Chip.modPulse_prods]

theorem coverPulses_prods (e : JEntry) (c : Chip) : (coverPulses e c).prods = c.prods := by
  simp only [coverPulses, ite_prods, ite_self, coverFrom_prods]

theorem applyMirrored_prods (e : JEntry) (c : Chip) : (applyMirrored e c).prods = c.prods := by
  simp only [applyMirrored, recordEntry_prods, coverPulses_prods]

theorem applyHeld_prods (a : Nat) (c : Chip) : (applyHeld a c).prods = c.prods := by
  fun_induction applyHeld <;> simp only [*, Chip.modFu_prods, applyMirrored_prods]

theorem receiveCommit_prods (e : JEntry) (c : Chip) : (receiveCommit e c).prods = c.prods := by
  -- unfolded before it is applied: the kernel would otherwise evaluate the match on `genAfter`
  have h : ∀ f, receiveCommit = f → (f e c).prods = c.prods := by
    delta receiveCommit
    rintro _ rfl
    beta_reduce
    split
    · exact Chip.modFu_prods ..
    · rfl
    · simp only [ite_prods, applyHeld_prods, Chip.modFu_prods, ite_self]
  exact h _ rfl

theorem mirrorOutputs_prods (l : List (Nat × Nat × Nat × Bool)) (c : Chip) : (mirrorOutputs l c).prods = c.prods := by
  simp only [mirrorOutputs, forAll_prods, implies_true, Chip.modMeterOut_prods]

theorem noticeFault_prods (o hit : Nat) (c : Chip) : (noticeFault o hit c).prods = c.prods := by
  simp only [noticeFault, ite_prods, ite_self, fuEvent_prods, Chip.modFu_prods, fuDo_prods]

/-! ### The Notice blenders (R453 to R455) -/

theorem rdNotice_prods (n pa : Nat) (c : Chip) : (rdNotice n pa c).2.prods = c.prods := by
  simp only [rdNotice, Chip.eccRange_prods]

theorem readRegion_prods (o r : Nat) (c : Chip) : (readRegion o r c).2.prods = c.prods := by
  simp only [readRegion, rdNotice_prods]

theorem readRegions_prods (o : Nat) (c : Chip) : (readRegions o c).2.prods = c.prods := by
  simp only [readRegions, foldl_snd_prods, implies_true, readRegion_prods]

theorem overlayPx_prods (o : Nat) (gs : List NoticeRegion) (x y v : Nat) (c : Chip) : (overlayPx o gs x y v c).2.prods = c.prods := by
  unfold overlayPx
  repeat' split
  all_goals simp only [ite_snd, ite_self, rdNotice_prods]

theorem noticeLate_prods (o hit : Nat) (c : Chip) : (noticeLate o hit c).prods = c.prods := by
  simp only [noticeLate, noticeFault_prods, Chip.flag_prods]

theorem noticeCheck_prods (o : Nat) (c : Chip) : (noticeCheck o c).prods = c.prods := by
  simp only [noticeCheck, ite_prods, ite_self, noticeFault_prods, Chip.setRegBit_prods, noticeLate_prods, Chip.modFu_prods,
      Chip.flag_prods, readRegions_prods]

theorem noticeFrame_prods (o : Nat) (c : Chip) : (noticeFrame o c).prods = c.prods := by
  simp only [noticeFrame, ite_prods, ite_self, Chip.setF_prods, Chip.setReg_prods, Chip.modFu_prods, Chip.flag_prods, fuDo_prods]

/-! ### The display outputs (R285 to R322) -/

theorem outEvt_prods (o n : Nat) (c : Chip) : (outEvt o n c).prods = c.prods := by
  simp only [outEvt, Chip.setRegBit_prods]

theorem Chip.setPort_prods (c : Chip) (d : Nat) (p : Port) : (c.setPort d p).prods = c.prods := prods_eq (Chip.setPort_cores ..)

theorem latchTiming_prods (o h : Nat) (c : Chip) : (latchTiming o h c).prods = c.prods := by
  simp only [latchTiming, ite_prods, ite_self, Chip.modOut_prods, outEvt_prods]

theorem performWrite_prods (w : LineWrite) (c : Chip) : (performWrite w c).prods = c.prods := by
  unfold performWrite
  split <;> simp only [Chip.modGrp_prods, Chip.setReg_prods, Chip.memStore_prods]

theorem performDue_prods (o : Nat) (due : LineWrite → Bool) (a : Nat) (c : Chip) : (performDue o due a c).prods = c.prods := by
  fun_induction performDue <;> simp only [*, performWrite_prods]

theorem performBefore_prods (o line : Nat) (c : Chip) : (performBefore o line c).prods = c.prods := by
  simp only [performBefore, performDue_prods]

theorem frameStartHalf_prods (o h : Nat) (ready late : Bool) (n : Word) (wrap : Bool) (c : Chip) :
    (frameStartHalf o h ready late n wrap c).prods = c.prods := by
  simp only [frameStartHalf, ite_prods, ite_self, prods_mk, coreProds_cores, noticeFrame_prods, sceneLatch_prods, Chip.modOut_prods,
      Chip.setF_prods, outEvt_prods, Chip.setReg_prods, performDue_prods, latchTiming_prods]

theorem checkLink_prods (d : Nat) (c : Chip) : (checkLink d c).prods = c.prods := by
  simp only [checkLink, ite_prods, ite_self, Chip.setF_prods, outEvt_prods, Chip.setPort_prods]

theorem turnPort_prods (d s : Nat) (e : Bool) (c : Chip) : (turnPort d s e c).prods = c.prods := by
  simp only [turnPort, ite_prods, ite_self, Chip.setF_prods, Chip.setPort_prods]

theorem portFrame_prods (o : Nat) (c : Chip) : (portFrame o c).prods = c.prods := by
  simp only [portFrame, ite_prods, ite_self, forAll_prods, implies_true, checkLink_prods, Chip.setPort_prods]

theorem handOff_prods (c : Chip) : (handOff c).prods = c.prods := by
  simp only [handOff, prods_mk, coreProds_cores, giveShadows_prods, Chip.setF_prods, Chip.setRegBit_prods, Chip.modFu_prods]

theorem frameStart_prods (o : Nat) (ready late mid : Bool) (num : Option Word) (c : Chip) :
    (frameStart o ready late mid num c).prods = c.prods := by
  simp only [frameStart, ite_prods, ite_self, prods_mk, coreProds_cores, forAll_prods, implies_true, Chip.zowSend_prods,
      captureInput_prods, Chip.modOut_prods, endUnits_prods, Chip.setF_prods, regroup_prods, outEvt_prods, checkScene_prods,
      portFrame_prods, handOff_prods, frameStartHalf_prods]

theorem portBlank_prods (o : Nat) (c : Chip) : (portBlank o c).prods = c.prods := by
  refine forAll_prods (fun d c => ?_) _ c
  extract_lets p
  split <;> simp only [ite_prods, turnPort_prods, ite_self]

theorem stopInstead_prods (o : Nat) (c : Chip) : (stopInstead o c).prods = c.prods := by
  simp only [stopInstead, forAll_prods, implies_true, Chip.modOut_prods, Chip.setF_prods, portBlank_prods]

theorem dueFrame_prods (o : Nat) (c : Chip) : (dueFrame o c).prods = c.prods := by
  simp only [dueFrame, ite_prods, ite_self, stopInstead_prods, Chip.setRegBit_prods, frameStart_prods]

theorem lineEvents_prods (h v : Nat) (c : Chip) : (lineEvents h v c).prods = c.prods := by
  simp only [lineEvents, ite_prods, ite_self, outEvt_prods, performDue_prods, portBlank_prods, Chip.flag_prods, dropAtLine_prods,
      performBefore_prods]

theorem stopAtBlank_prods (o v : Nat) (c : Chip) : (stopAtBlank o v c).prods = c.prods := by
  simp only [stopAtBlank, ite_prods, ite_self, forAll_prods, implies_true, Chip.setF_prods]

theorem nextLine_prods (o : Nat) (c : Chip) : (nextLine o c).prods = c.prods := by
  simp only [nextLine, forAll_prods, implies_true, Chip.modOut_prods, stopAtBlank_prods, lineEvents_prods]

theorem lineStart_prods (o : Nat) (c : Chip) : (lineStart o c).prods = c.prods := by
  simp only [lineStart, ite_prods, ite_self, dueFrame_prods, nextLine_prods]

theorem missLine_prods (o i : Nat) (c : Chip) : (missLine o i c).prods = c.prods := by
  unfold missLine
  split
  all_goals try simp only [abandonHeld_prods]
  all_goals split <;> simp only [dropOffered_prods, dropAtLine_prods]

theorem startFill_prods (o bit : Nat) (c : Chip) : (startFill o bit c).prods = c.prods := by
  simp only [startFill, ite_prods, ite_self, Chip.modOut_prods, outEvt_prods]

theorem stagePx_prods (o line : Nat) (gs : List NoticeRegion) (bad : Bool) (x : Nat) (c : Chip) :
    (stagePx o line gs bad x c).prods = c.prods := by
  simp only [stagePx, ite_prods, ite_self, Chip.modOut_prods, Chip.poisonRecord_prods, noticeLate_prods, startFill_prods, overlayPx_prods]

theorem readSegment_prods (o : Nat) (parity : Option Nat) (c : Chip) : (readSegment o parity c).prods = c.prods := by
  simp only [readSegment, ite_prods, ite_self, forAll_prods, implies_true, Chip.modOut_prods, noticeLate_prods, setCommit_prods,
      stagePx_prods]
  repeat' split
  all_goals simp only [Chip.modOut_prods, startFill_prods, missLine_prods, readRegions_prods]

theorem compareSeal_prods (o frame crc other : Nat) (c : Chip) : (compareSeal o frame crc other c).prods = c.prods := by
  simp only [compareSeal, ite_prods, ite_self, prods_mk, coreProds_cores, Chip.setF_prods, Chip.setRegBit_prods, Chip.setReg_prods,
      Chip.countF_prods]

theorem ownSeal_prods (o frame crc : Nat) (c : Chip) : (ownSeal o frame crc c).prods = c.prods := by
  unfold ownSeal
  split
  all_goals try dsimp only
  all_goals split <;> simp only [prods_mk, coreProds_cores, Chip.zowSend_prods, compareSeal_prods]

theorem frameDone_prods (o : Nat) (c : Chip) : (frameDone o c).prods = c.prods := by
  simp only [frameDone, ite_prods, ite_self, ownSeal_prods, Chip.modOut_prods, outEvt_prods, Chip.setReg_prods, noticeCheck_prods]

theorem startOutput_prods (o : Nat) (c : Chip) : (startOutput o c).prods = c.prods := by
  simp only [startOutput, ite_prods, ite_self, forAll_prods, implies_true, Chip.modOut_prods, Chip.setF_prods, outEvt_prods,
      latchTiming_prods]

theorem writeOutCtl_prods (o : Nat) (v : Word) (c : Chip) : (writeOutCtl o v c).prods = c.prods := by
  simp only [writeOutCtl, ite_prods, ite_self, Chip.modOut_prods, Chip.setF_prods, outEvt_prods, Chip.setReg_prods, startOutput_prods]

theorem writeFrameCount_prods (o : Nat) (v : Word) (c : Chip) : (writeFrameCount o v c).prods = c.prods := by
  simp only [writeFrameCount, Chip.modOut_prods]

theorem beamCapture_prods (o x : Nat) (c : Chip) : (beamCapture o x c).prods = c.prods := by
  simp only [beamCapture, ite_prods, ite_self, outEvt_prods, Chip.setReg_prods]

theorem readOutCap_prods (o : Nat) (peek : Bool) (c : Chip) : (readOutCap o peek c).2.prods = c.prods := by
  simp only [readOutCap, ite_prods, ite_self, Chip.setRegBit_prods]

theorem outUnitReset_prods (o : Nat) (c : Chip) : (outUnitReset o c).prods = c.prods := by
  simp only [outUnitReset, Chip.modOut_prods]
  refine (forAll_prods (fun h c => ?_) _ _).trans (forAll_prods (fun s c => ?_) _ c)
  · simp only [portBlank_prods, Chip.setF_prods]
  · split <;> simp only [ite_prods, abandonUnit_prods, ite_self]

/-! ### The ports and the analog pins (R306 to R319) -/

theorem writeXbar_prods (d : Nat) (v : Word) (c : Chip) : (writeXbar d v c).prods = c.prods := by
  simp only [writeXbar]
  split <;> simp only [ite_prods, ite_self, Chip.setF_prods, Chip.setPort_prods, turnPort_prods]

theorem retrain_prods (d : Nat) (c : Chip) : (retrain d c).prods = c.prods := by
  simp only [retrain, ite_prods, ite_self, Chip.setF_prods, Chip.setPort_prods]

/-! ### The Press (R324 to R342) -/

theorem rdMem_prods (n pa : Nat) (c : Chip) : (rdMem n pa c).2.prods = c.prods := by
  simp only [rdMem]
  split <;> simp only [Chip.eccRange_prods]

theorem fetchList_prods (n pa : Nat) (c : Chip) : (fetchList n pa c).2.prods = c.prods := by
  simp only [fetchList, ite_snd, ite_prods, ite_self, rdMem_prods]

theorem Chip.modPress_prods (c : Chip) (f : PressEng → PressEng) : (c.modPress f).prods = c.prods := prods_eq (Chip.modPress_cores ..)

theorem endList_prods (result cause : Nat) (c : Chip) : (endList result cause c).prods = c.prods := by
  simp only [endList, Chip.setF_prods, Chip.flag_prods, Chip.modPress_prods]

theorem stopList_prods (result cause : Nat) (c : Chip) : (stopList result cause c).prods = c.prods := by
  simp only [stopList, ite_prods, ite_self, endList_prods, Chip.setF_prods, Chip.modPress_prods]

theorem completeCmd_prods (c : Chip) : (completeCmd c).prods = c.prods := by
  simp only [completeCmd, ite_prods, ite_self, Chip.setReg_prods, Chip.flag_prods, Chip.modPress_prods]

theorem pressGo_prods (c : Chip) : (pressGo c).prods = c.prods := by
  simp only [pressGo, ite_prods, ite_self, Chip.setReg_prods, Chip.flag_prods, Chip.modPress_prods]

theorem pressAbort_prods (late : Bool) (c : Chip) : (pressAbort late c).prods = c.prods := by
  unfold pressAbort
  split <;> simp only [ite_prods, ite_self, stopList_prods, Chip.setReg_prods, Chip.flag_prods]

theorem writePressCtl_prods (v : Word) (c : Chip) : (writePressCtl v c).prods = c.prods := by
  simp only [writePressCtl, ite_prods, ite_self, pressGo_prods, Chip.setF_prods, pressAbort_prods]

theorem chunkFails_prods (x : PressChunk) (cause : Nat) (c : Chip) : (chunkFails x cause c).prods = c.prods := by
  unfold chunkFails
  split <;> simp only [ite_prods, ite_self, stopList_prods, endList_prods, Chip.setReg_prods, Chip.modPress_prods]

theorem burstEnd_prods (c : Chip) : (burstEnd c).prods = c.prods := by
  simp only [burstEnd, Chip.modPress_prods]

theorem burstAdd_prods (r : Option Nat) (m : Nat) (lastOfRow : Bool) (c : Chip) : (burstAdd r m lastOfRow c).prods = c.prods := by
  simp only [burstAdd, ite_prods, ite_self, burstEnd_prods, Chip.modPress_prods]

theorem issueChunk_prods (k : PressCmd) (c : Chip) : (issueChunk k c).prods = c.prods := by
  simp only [issueChunk, ite_prods, ite_self, completeCmd_prods, burstAdd_prods, chunkFails_prods, burstEnd_prods, Chip.modPress_prods]

theorem rectStep_prods (op : Nat) (c : Chip) : (rectStep op c).prods = c.prods := by
  simp only [rectStep, ite_prods, ite_self, issueChunk_prods]

theorem plainStep_prods {f : List Nat → Chip → Chip} {c : Chip} (h : ∀ l, (f l c).prods = c.prods) (op : Nat) :
    (plainStep op f c).prods = c.prods := by
  simp only [plainStep, ite_prods, h, ite_self]

theorem elemData_prods (k : PressCmd) (i j : Nat) (c : Chip) : (elemData k i j c).2.prods = c.prods := by
  simp only [elemData, ite_snd, ite_prods, rdMem_prods]
  repeat' split
  all_goals simp only [rdMem_prods]

theorem chunkData_prods (k : PressCmd) (j : Nat) (l : List Nat) (c : Chip) : (chunkData k j l c).2.prods = c.prods := by
  induction l generalizing c with
  | nil => rfl
  | cons i t ih => grind [chunkData, elemData_prods]

theorem retryChunk_prods (x : PressChunk) (emergency : Bool) (c : Chip) : (retryChunk x emergency c).prods = c.prods := by
  simp only [retryChunk, ite_prods, ite_self, chunkFails_prods, Chip.modPress_prods]

theorem chunkRead_prods (k : PressCmd) (x : PressChunk) (c : Chip) : (chunkRead k x c).prods = c.prods := by
  have h := chunkData_prods k x.row (c.written k x) c
  unfold chunkRead
  extract_lets l
  split
  · rfl
  split
  · exact chunkFails_prods ..
  split <;> grind [chunkFails_prods, Chip.poisonRecord_prods, Chip.modPress_prods]

theorem chunkWrite_prods (x : PressChunk) (d : List (Nat × List Byte)) (c : Chip) : (chunkWrite x d c).prods = c.prods := by
  unfold chunkWrite
  split
  all_goals try simp only [chunkFails_prods]
  all_goals split <;> simp only [ite_prods, ite_self, forAll_prods, implies_true, endList_prods, completeCmd_prods, Chip.modPress_prods,
      Chip.memStore_prods]

theorem pressCut_prods (pa : Nat) (write emergency : Bool) (c : Chip) : (pressCut pa write emergency c).prods = c.prods := by
  unfold pressCut
  split
  all_goals try dsimp only
  all_goals split <;> simp only [retryChunk_prods]

theorem pressUnitReset_prods (c : Chip) : (pressUnitReset c).prods = c.prods := by
  unfold pressUnitReset
  split
  · rfl
  · simp only [endList_prods, Chip.setReg_prods]
    refine forAll_prods (fun x c => ?_) _ c
    split <;> simp only [forAll_prods, ite_prods, Chip.memStore_prods, ite_self, implies_true]

/-! ### The DMA channels (R343 to R356) -/

theorem Chip.modDma_prods (c : Chip) (i : Nat) (f : DmaCh → DmaCh) : (c.modDma i f).prods = c.prods := prods_eq (Chip.modDma_cores ..)

theorem setDmaState_prods (i st : Nat) (c : Chip) : (setDmaState i st c).prods = c.prods := by
  simp only [setDmaState, Chip.setF_prods, Chip.setRegBit_prods]

theorem dmaHalt_prods (i result cause off : Nat) (c : Chip) : (dmaHalt i result cause off c).prods = c.prods := by
  simp only [dmaHalt, Chip.modDma_prods, Chip.setF_prods, Chip.setRegBit_prods, Chip.setReg_prods, setDmaState_prods]

theorem dmaComplete_prods (i : Nat) (late : Bool) (c : Chip) : (dmaComplete i late c).prods = c.prods := by
  simp only [dmaComplete, ite_prods, ite_self, Chip.modDma_prods, Chip.setF_prods, Chip.setRegBit_prods, Chip.setReg_prods, dmaHalt_prods,
      setDmaState_prods]

theorem dmaUse_prods (i fuel : Nat) (c : Chip) : (dmaUse i fuel c).prods = c.prods := by
  induction fuel generalizing c with
  | zero => rfl
  | succ n ih =>
    unfold dmaUse
    extract_lets d
    split
    · rfl
    · split <;> simp only [ite_prods, ih, dmaHalt_prods, dmaComplete_prods, Chip.setF_prods, Chip.modDma_prods, ite_self]

theorem dmaGo_prods (i : Nat) (c : Chip) : (dmaGo i c).prods = c.prods := by
  simp only [dmaGo, ite_prods, ite_self, Chip.modDma_prods, Chip.setF_prods, Chip.setReg_prods, Chip.flag_prods, dmaHalt_prods,
      setDmaState_prods]

theorem dmaPauseNow_prods (i : Nat) (c : Chip) : (dmaPauseNow i c).prods = c.prods := by
  simp only [dmaPauseNow, Chip.modDma_prods, Chip.setF_prods, setDmaState_prods]

theorem dmaEnable_prods (i : Nat) (v outstanding : Bool) (c : Chip) : (dmaEnable i v outstanding c).prods = c.prods := by
  simp only [dmaEnable, ite_prods, ite_self, Chip.setRegBit_prods, dmaPauseNow_prods, setDmaState_prods]

theorem dmaAbort_prods (i : Nat) (outstanding : Bool) (c : Chip) : (dmaAbort i outstanding c).prods = c.prods := by
  simp only [dmaAbort, ite_prods, ite_self, Chip.modDma_prods, dmaHalt_prods]

theorem writeDmaGo_prods (v : Word) (c : Chip) : (writeDmaGo v c).prods = c.prods := by
  simp only [writeDmaGo, ite_prods, ite_self, forAll_prods, implies_true, dmaGo_prods]

theorem writeDmaAbort_prods (v : Word) (c : Chip) : (writeDmaAbort v c).prods = c.prods := by
  simp only [writeDmaAbort, ite_prods, ite_self, forAll_prods, implies_true, dmaAbort_prods]

theorem writeDmaEnable_prods (v : Word) (c : Chip) : (writeDmaEnable v c).prods = c.prods := by
  simp only [writeDmaEnable, ite_prods, ite_self, forAll_prods, implies_true, dmaEnable_prods]

theorem dmaStopAll_prods (cause : Nat) (c : Chip) : (dmaStopAll cause c).prods = c.prods := by
  simp only [dmaStopAll, ite_prods, ite_self, forAll_prods, implies_true, dmaHalt_prods]

theorem dmaUnitReset_prods (c : Chip) : (dmaUnitReset c).prods = c.prods := by
  simp only [dmaUnitReset, prods_mk, coreProds_cores, Chip.forgetWaits_prods, dmaStopAll_prods]

/-! ### Audio (R357 to R396) -/

theorem Chip.modAud_prods (c : Chip) (f : Audio → Audio) : (c.modAud f).prods = c.prods := prods_eq (Chip.modAud_cores ..)

theorem Chip.modDom_prods (c : Chip) (d : Nat) (f : AudDomain → AudDomain) :
    (c.modDom d f).prods = c.prods := prods_eq (Chip.modDom_cores ..)

theorem Chip.modHorn_prods (c : Chip) (h : Nat) (f : HornUnit → HornUnit) : (c.modHorn h f).prods = c.prods := by
  simp only [Chip.modHorn, Chip.modAud_prods]

theorem Chip.modBridge_prods (c : Chip) (b : Nat) (f : BridgeOn → BridgeOn) : (c.modBridge b f).prods = c.prods := by
  simp only [Chip.modBridge, Chip.modAud_prods]

theorem Chip.modDyn_prods (c : Chip) (b : Nat) (f : DynOn → DynOn) : (c.modDyn b f).prods = c.prods := by
  simp only [Chip.modDyn, Chip.modAud_prods]

theorem audEvt_prods (n : Nat) (c : Chip) : (audEvt n c).prods = c.prods := by
  simp only [audEvt, Chip.setRegBit_prods]

theorem aioEvt_prods (n : Nat) (c : Chip) : (aioEvt n c).prods = c.prods := by
  simp only [aioEvt, Chip.setRegBit_prods]

theorem audioStore_prods (off : Nat) (b : List Byte) (c : Chip) : (audioStore off b c).prods = c.prods := by
  simp only [audioStore, Chip.memStore_prods]

theorem audioWord_prods (off : Nat) (c : Chip) : (audioWord off c).2.prods = c.prods := by
  simp only [audioWord, Chip.eccCheck_prods]

theorem audioZero_prods (off n : Nat) (c : Chip) : (audioZero off n c).prods = c.prods := by
  simp only [audioZero, forAll_prods, implies_true, audioStore_prods]

theorem nodeTable_prods (off : Nat) (c : Chip) : (nodeTable off c).2.prods = c.prods := by
  simp only [nodeTable, foldl_snd_prods, implies_true, audioWord_prods]

theorem slipRefused_prods (d off : Nat) (c : Chip) : (slipRefused d off c).2.prods = c.prods := by
  simp only [slipRefused, audioWord_prods, nodeTable_prods]

theorem zeroNodes_prods (l : List (Nat × Nat × Nat)) (c : Chip) : (zeroNodes l c).prods = c.prods := by
  simp only [zeroNodes, forAll_prods, implies_true, audioZero_prods]

theorem dynReload_prods (b : Nat) (c : Chip) : (dynReload b c).prods = c.prods := by
  simp only [dynReload, Chip.modAud_prods]

theorem dynLatch_prods (b : Nat) (c : Chip) : (dynLatch b c).prods = c.prods := by
  simp only [dynLatch, Chip.modDyn_prods]

theorem writeDyn_prods (i : Nat) (v : Word) (c : Chip) : (writeDyn i v c).prods = c.prods := by
  unfold writeDyn
  split <;> simp only [ite_prods, ite_self, dynReload_prods, audEvt_prods, Chip.modAud_prods]

theorem writeXdyn_prods (i : Nat) (v : Word) (c : Chip) : (writeXdyn i v c).prods = c.prods := by
  simp only [writeXdyn, Chip.modAud_prods]

theorem startDomain_prods (d : Nat) (c : Chip) : (startDomain d c).prods = c.prods := by
  simp only [startDomain, ite_prods, ite_self, forAll_prods, implies_true, slipRefused_prods, Chip.modDyn_prods, Chip.modDom_prods,
      dynReload_prods, Chip.setF_prods, audEvt_prods, nodeTable_prods, zeroNodes_prods]

theorem stopDomain_prods (d : Nat) (c : Chip) : (stopDomain d c).prods = c.prods := by
  simp only [stopDomain, Chip.modDom_prods, Chip.setF_prods, Chip.modAud_prods]

theorem writeAudCtl_prods (v : Word) (c : Chip) : (writeAudCtl v c).prods = c.prods := by
  simp only [writeAudCtl, ite_prods, ite_self, forAll_prods, implies_true, startDomain_prods, Chip.setReg_prods]

theorem writeSlipNext_prods (d : Nat) (v : Word) (c : Chip) : (writeSlipNext d v c).prods = c.prods := by
  simp only [writeSlipNext, ite_prods, ite_self, slipRefused_prods, Chip.modDom_prods, Chip.setF_prods, audEvt_prods, Chip.setReg_prods,
      nodeTable_prods, zeroNodes_prods]

theorem writeHmap_prods (v : Word) (c : Chip) : (writeHmap v c).prods = c.prods := by
  simp only [writeHmap, ite_prods, ite_self, audEvt_prods, Chip.setReg_prods]

theorem writeVcq_prods (d : Nat) (v : Word) (c : Chip) : (writeVcq d v c).prods = c.prods := by
  simp only [writeVcq, ite_prods, ite_self, Chip.setF_prods, audEvt_prods]

theorem applyVoices_prods (d k n : Nat) (c : Chip) : (applyVoices d k n c).prods = c.prods := by
  have hlate (p : Prop) [Decidable p] (c : Chip) : (if p then audEvt 6 c else c).prods = c.prods := by
    rw [ite_prods, audEvt_prods, ite_self]
  induction n generalizing c with
  | zero => rfl
  | succ n ih =>
    change (ite _ c _).prods = c.prods
    split
    · rfl
    split
    · simp only [Chip.eccCheck_prods]
    extract_lets c1 word voice c2
    have hc1 : c1.prods = c.prods := (hlate ..).trans (by simp only [Chip.eccCheck_prods])
    have hc2 : c2.prods = c1.prods := by
      unfold c2
      split
      · simp only [ite_prods, audEvt_prods, Chip.memStore_prods, ite_self]
      · exact audEvt_prods ..
    rw [ih, Chip.setF_prods, hc2, hc1]

theorem voiceEnded_prods (v : Nat) (c : Chip) : (voiceEnded v c).prods = c.prods := by
  simp only [voiceEnded, ite_prods, ite_self, Chip.setF_prods, audEvt_prods, Chip.modAud_prods]

theorem readVend_prods (peek : Bool) (c : Chip) : (readVend peek c).2.prods = c.prods := by
  unfold readVend
  split <;> simp only [ite_prods, ite_self, Chip.modAud_prods]

theorem readSnLo_prods (o d : Nat) (peek : Bool) (c : Chip) : (readSnLo o d peek c).2.prods = c.prods := by
  simp only [readSnLo, ite_prods, ite_self, Chip.modAud_prods]

theorem pointFault_prods (bit d p : Nat) (c : Chip) : (pointFault bit d p c).prods = c.prods := by
  simp only [pointFault, Chip.setF_prods, audEvt_prods]

theorem feedBridges_prods (d first n : Nat) (pts : Sparse Word) (c : Chip) : (feedBridges d first n pts c).prods = c.prods := by
  simp only [feedBridges, ite_prods, ite_self, forAll_prods, implies_true, Chip.modBridge_prods]

theorem tryCommit_prods (d k : Nat) (c : Chip) : (tryCommit d k c).prods = c.prods := by
  simp only [tryCommit, ite_prods, ite_self, forAll_prods, implies_true, Chip.modDom_prods, feedBridges_prods, pointFault_prods]

theorem swapSlip_prods (d k : Nat) (c : Chip) : (swapSlip d k c).prods = c.prods := by
  simp only [swapSlip]
  split <;> simp only [ite_prods, ite_self, forAll_prods, implies_true, Chip.modDom_prods, Chip.setF_prods, audEvt_prods, nodeTable_prods,
      audioStore_prods]

theorem offerRun_prods (d k off : Nat) (old fade first : Bool) (c : Chip) : (offerRun d k off old fade first c).prods = c.prods := by
  simp only [offerRun, Chip.modDom_prods]
  refine foldl_snd_prods (fun p h => ?_) _ _
  simp only [ite_snd, ite_prods, Chip.modHorn_prods, audioWord_prods, ite_self]

theorem offerBlock_prods (d k : Nat) (c : Chip) : (offerBlock d k c).prods = c.prods := by
  simp only [offerBlock, tryCommit_prods, Chip.modDom_prods, offerRun_prods]
  split <;> simp only [ite_prods, ite_self, Chip.modDom_prods, offerRun_prods]

theorem playBlock_prods (d k : Nat) (c : Chip) : (playBlock d k c).prods = c.prods := by
  unfold playBlock
  split
  all_goals try dsimp only
  all_goals split <;> simp only [ite_prods, ite_self, Chip.modDom_prods, audEvt_prods, Chip.setReg_prods, feedBridges_prods]

theorem startBridges_prods (d k : Nat) (c : Chip) : (startBridges d k c).prods = c.prods := by
  refine forAll_prods (fun b c => ?_) _ c
  split
  · split <;> simp only [audEvt_prods, Chip.setF_prods, Chip.modBridge_prods]
  · rfl

theorem blockStart_prods (d k : Nat) (c : Chip) : (blockStart d k c).prods = c.prods := by
  simp only [blockStart, ite_prods, ite_self, forAll_prods, implies_true, startBridges_prods, playBlock_prods, swapSlip_prods,
      applyVoices_prods, offerBlock_prods, dynLatch_prods]

theorem sendSamples_prods (d : Nat) (f : Nat → Word) (c : Chip) : (sendSamples d f c).prods = c.prods := by
  simp only [sendSamples, forAll_prods, implies_true, Chip.modAud_prods]

theorem writePort_prods (key : Nat) (v : Word) (c : Chip) : (writePort key v c).prods = c.prods := by
  simp only [writePort, ite_prods, ite_self, Chip.setReg_prods, aioEvt_prods]

theorem writeBridge_prods (b : Nat) (v : Word) (c : Chip) : (writeBridge b v c).prods = c.prods := by
  simp only [writeBridge, ite_prods, ite_self, Chip.setReg_prods, Chip.modBridge_prods]

theorem hornReset_prods (h : Nat) (c : Chip) : (hornReset h c).prods = c.prods := by
  simp only [hornReset, Chip.modHorn_prods]

/-! ### Twin operation (R457 to R492) -/

theorem Chip.modZow_prods (c : Chip) (f : Zow → Zow) : (c.modZow f).prods = c.prods := prods_eq (Chip.modZow_cores ..)

theorem zowEvt_prods (n : Nat) (c : Chip) : (zowEvt n c).prods = c.prods := by
  simp only [zowEvt, Chip.setRegBit_prods]

theorem setZowState_prods (n : Nat) (c : Chip) : (setZowState n c).prods = c.prods := by
  simp only [setZowState, Chip.setF_prods]

theorem linkDown_prods (st : Nat) (c : Chip) : (linkDown st c).prods = c.prods := by
  simp only [linkDown, ite_prods, ite_self, Chip.setF_prods, Chip.modZow_prods, setZowState_prods, Chip.modFu_prods, zowEvt_prods]

theorem writeZowWin_prods (w : Nat) (v : Word) (c : Chip) : (writeZowWin w v c).prods = c.prods := by
  simp only [writeZowWin, ite_prods, ite_self, Chip.setReg_prods]

theorem writeZowCtl_prods (v : Word) (c : Chip) : (writeZowCtl v c).prods = c.prods := by
  simp only [writeZowCtl, ite_prods, ite_self, Chip.setF_prods, Chip.setReg_prods, setZowState_prods, linkDown_prods]

theorem refuse_prods (n : Nat) (c : Chip) : (refuse n c).prods = c.prods := by
  simp only [refuse, Chip.setF_prods, zowEvt_prods, linkDown_prods]

theorem rejoin_prods (fork : Nat) (peer : List JEntry) (c : Chip) : (rejoin fork peer c).prods = c.prods := by
  simp only [rejoin, forAll_prods, implies_true, recordEntry_prods, Chip.modFu_prods]

theorem markStale_prods (c : Chip) : (markStale c).prods = c.prods := by
  simp only [markStale, fuEvent_prods, Chip.modFu_prods, fuDo_prods]

theorem replayed_prods (g : Nat) (c : Chip) : (replayed g c).prods = c.prods := by
  simp only [replayed, ite_prods, ite_self, fuCommit_prods, Chip.modFu_prods, fuDo_prods]

theorem deliverFrame_prods (f : LinkFrame) (c : Chip) : (deliverFrame f c).prods = c.prods := by
  unfold deliverFrame
  repeat' split
  all_goals simp only [ite_prods, ite_self, forAll_prods, implies_true, commitEvents_prods, Chip.setF_prods, replayed_prods,
      Chip.modZow_prods, Chip.modFu_prods, fuDo_prods, linkDown_prods]

theorem takeShadows_prods (c : Chip) : (takeShadows c).prods = c.prods := by
  simp only [takeShadows, Chip.modFu_prods, applyHeld_prods, issueEvents_prods, interruptPulses_prods, commitShadows_prods]

theorem takeOverHand_prods (c : Chip) : (takeOverHand c).prods = c.prods := by
  simp only [takeOverHand, Chip.setF_prods, Chip.modZow_prods, Chip.modFu_prods, issueEvents_prods, commitShadows_prods, zowEvt_prods]

theorem zowStore_prods (pa : Nat) (b : List Byte) (c : Chip) : (zowStore pa b c).prods = c.prods := by
  simp only [zowStore, ite_prods, ite_self, Chip.storeChunks_prods]

theorem writeSnapshot_prods (x : Snap) (c : Chip) : (writeSnapshot x c).prods = c.prods := by
  simp only [writeSnapshot, ite_prods, ite_self, forAll_prods, implies_true, zowStore_prods, Chip.setReg_prods, Chip.markPoison_prods,
      zowEvt_prods]

theorem writeSnapPost_prods (v : Word) (c : Chip) : (writeSnapPost v c).prods = c.prods := by
  simp only [writeSnapPost, ite_prods, ite_self, Chip.zowSend_prods, Chip.setF_prods, Chip.modZow_prods, rdMem_prods, Chip.answerTo_prods,
      zowEvt_prods, writeSnapshot_prods]

theorem releaseSnaps_prods (a : Nat) (c : Chip) : (releaseSnaps a c).prods = c.prods := by
  fun_induction releaseSnaps <;> simp only [*, Chip.modZow_prods, writeSnapshot_prods]

theorem applyLine_prods (l : CapLine) (c : Chip) : (applyLine l c).prods = c.prods := by
  simp only [applyLine, ite_prods, ite_self, forAll_prods, implies_true, zowStore_prods, Chip.markPoison_prods]

theorem applyLines_prods (st n : Nat) (c : Chip) : (applyLines st n c).prods = c.prods := by
  induction n generalizing c with
  | zero => rfl
  | succ n ih =>
    unfold applyLines
    extract_lets
    split <;> simp only [ih, applyLine_prods, Chip.modZow_prods]

theorem zowCmd_prods {f : Chip → Chip} {c : Chip} (h : (f c).prods = c.prods) (ok : Bool) : (zowCmd ok f c).prods = c.prods := by
  simp only [zowCmd, ite_prods, h, zowEvt_prods, ite_self]

theorem bulkGo_prods (c : Chip) : (bulkGo c).prods = c.prods := by
  simp only [bulkGo, ite_prods, ite_self, forAll_prods, implies_true, zowCmd_prods, Chip.modZow_prods, Chip.capture_prods, zowEvt_prods]

theorem handover_prods (c : Chip) : (handover c).prods = c.prods := by
  simp only [handover, Chip.zowSend_prods, zowCmd_prods, Chip.modZow_prods, Chip.modFu_prods, fuDo_prods, commitPulses_prods]

theorem detach_prods (c : Chip) : (detach c).prods = c.prods := by
  simp only [detach, markStale_prods, Chip.zowSend_prods, zowCmd_prods, linkDown_prods]

theorem treset_prods (c : Chip) : (treset c).prods = c.prods := by
  simp only [treset, Chip.zowSend_prods, zowCmd_prods]

theorem seedState_prods (c : Chip) : (seedState c).prods = c.prods := by
  simp only [seedState, ite_prods, ite_self, setZowState_prods]

theorem seedLead_prods (c : Chip) : (seedLead c).prods = c.prods := by
  simp only [seedLead, Chip.zowSend_prods, zowCmd_prods, seedState_prods]

theorem seedMirror_prods (gen : Nat) (vals : List (Nat × Nat)) (c : Chip) : (seedMirror gen vals c).prods = c.prods := by
  simp only [seedMirror, Chip.modFu_prods, seedState_prods]

theorem clearDiv_prods (c : Chip) : (clearDiv c).prods = c.prods := by
  simp only [clearDiv, Chip.zowSend_prods, Chip.setF_prods, zowCmd_prods]

theorem writeZowCmd_prods (v : Word) (c : Chip) : (writeZowCmd v c).prods = c.prods := by
  simp only [writeZowCmd, ite_prods, ite_self, seedLead_prods, treset_prods, handover_prods, detach_prods, bulkGo_prods, clearDiv_prods]

theorem zowUnitReset_prods (c : Chip) : (zowUnitReset c).prods = c.prods := by
  simp only [zowUnitReset, Chip.modZow_prods, linkDown_prods]

/-! ### What a reset does to the units (R545, R555) -/

theorem unitsAfter_prods (cls : Nat) (c : Chip) : (unitsAfter cls c).prods = c.prods := prods_eq (unitsAfter_cores ..)

theorem composerReset_prods (s : Nat) (c : Chip) : (composerReset s c).prods = c.prods := by
  simp only [composerReset, Chip.modComp_prods, abandonUnit_prods]

theorem storReset_prods (c : Chip) : (storReset c).prods = c.prods := by
  simp only [storReset, ite_prods, ite_self, prods_mk, coreProds_cores, Chip.flag_prods, Chip.journal_prods]

theorem blockReset_prods (b : Nat) (c : Chip) : (blockReset b c).prods = c.prods := by
  unfold blockReset
  split
  all_goals try simp only [
      Chip.resetBlock_prods, outUnitReset_prods]
  all_goals split <;> simp only [prods_mk, coreProds_cores, forAll_prods, implies_true, Chip.modDom_prods, pcieDown_prods,
      pmuxUnitReset_prods, pressUnitReset_prods, dmaUnitReset_prods, timersReset_prods, zowUnitReset_prods, gpioUnitReset_prods,
      storReset_prods, icuUnitReset_prods]

/-! ### The watchdogs' counts (R521 to R524) -/

theorem wdtCheckWarn_prods (w : Nat) (c : Chip) : (wdtCheckWarn w c).prods = c.prods := by
  simp only [wdtCheckWarn, ite_prods, ite_self, prods_mk, coreProds_cores, Chip.flag_prods]

theorem wdtRecheck_prods (w : Nat) (c : Chip) : (wdtRecheck w c).prods = c.prods := by
  simp only [wdtRecheck, ite_prods, ite_self, wdtCheckWarn_prods]

theorem wdtLoad_prods (w : Nat) (c : Chip) : (wdtLoad w c).prods = c.prods := by
  simp only [wdtLoad, prods_mk, coreProds_cores, Chip.setReg_prods, wdtCheckWarn_prods]

theorem startWatchdog0_prods (c : Chip) : (startWatchdog0 c).prods = c.prods := by
  simp only [startWatchdog0, Chip.setF_prods, Chip.setReg_prods, wdtLoad_prods]

/-! ### Reset, power and fuses (chapter 14) -/

theorem Chip.accum_prods (c : Chip) (cls : Nat) : (c.accum cls).prods = c.prods := by
  simp only [Chip.accum, Chip.setRegBit_prods]

theorem Chip.wipeMain_prods (c : Chip) : c.wipeMain.prods = c.prods := by
  simp only [Chip.wipeMain, Chip.wipe_prods]

theorem Chip.applyProfile_prods (c : Chip) (cls : Nat) : (c.applyProfile cls).prods = c.prods := by
  simp only [Chip.applyProfile, ite_prods, ite_self, prods_mk, coreProds_cores, Chip.setF_prods]

theorem Chip.dramAfterReset_prods (c : Chip) (before : Word) (top : Nat) (training : Bool) :
    (c.dramAfterReset before top training).prods = c.prods := by
  simp only [Chip.dramAfterReset, ite_prods, ite_self, Chip.wipeDram_prods, Chip.setF_prods, Chip.startTraining_prods]

theorem Chip.setDomain_prods (c : Chip) (d : Nat) (x : Domain) : (c.setDomain d x).prods = c.prods := by
  simp only [Chip.setDomain, prods_mk, coreProds_cores]

theorem Chip.wipeDomain_prods (c : Chip) (d : Nat) : (c.wipeDomain d).prods = c.prods := by
  simp only [Chip.wipeDomain, ite_prods, ite_self, Chip.wipe_prods]

theorem Chip.loseDomain_prods (c : Chip) (d : Nat) : (c.loseDomain d).prods = c.prods := by
  simp only [Chip.loseDomain, ite_prods, ite_self, prods_mk, coreProds_cores, Chip.writeBackAll_prods, Chip.wipeDomain_prods]

theorem Chip.setMainEn_prods (c : Chip) (b : Bool) : (c.setMainEn b).prods = c.prods := by
  simp only [Chip.setMainEn, ite_prods, ite_self, prods_mk, coreProds_cores, Chip.journal_prods]

theorem dormantWake_prods (dramKept : Bool) (c : Chip) : (dormantWake dramKept c).prods = c.prods := by
  simp only [dormantWake, ite_prods, ite_self, prods_mk, coreProds_cores, Chip.setMainEn_prods, Chip.wipeDram_prods,
      Chip.loadReplicas_prods, Chip.setReg_prods, Chip.flag_prods]

theorem writeFuseCmd_prods (v : Word) (c : Chip) : (writeFuseCmd v c).prods = c.prods := by
  simp only [writeFuseCmd, ite_prods, Chip.setF_prods]
  repeat' split
  all_goals simp only [prods_mk, coreProds_cores, Chip.setF_prods]

theorem writeExpert_prods (v : Word) (c : Chip) : (writeExpert v c).prods = c.prods := by
  simp only [writeExpert, ite_prods, ite_self, prods_mk, coreProds_cores, forAll_prods, implies_true, wdtRecheck_prods, Chip.setReg_prods]

theorem writeBoot_prods (v : Word) (c : Chip) : (writeBoot v c).prods = c.prods := by
  simp only [writeBoot, ite_prods, ite_self, Chip.setF_prods, Chip.setRegBit_prods]

/-! ### The watchdogs' commands (R521 to R525) -/

theorem writeWdtCtl_prods (w : Nat) (v : Word) (c : Chip) : (writeWdtCtl w v c).prods = c.prods := by
  simp only [writeWdtCtl, ite_prods, ite_self, prods_mk, coreProds_cores, Chip.setReg_prods, wdtLoad_prods]

theorem writeWdtLocked_prods (w key : Nat) (v : Word) (c : Chip) : (writeWdtLocked w key v c).prods = c.prods := by
  simp only [writeWdtLocked, ite_prods, ite_self, wdtRecheck_prods, Chip.setReg_prods]

/-! ### Reads and writes of registers (R5 to R15) -/

theorem only_prods (c : Chip) (w : Word) : (only c w).2.prods = c.prods := by
  simp only [only]

theorem readLow_prods (o : Nat) (peek : Bool) (k : Nat) (c : Chip) : (readLow o peek k c).2.prods = c.prods := by
  have hfree (w : Word) : (only c w).2.prods = c.prods := rfl
  unfold readLow
  repeat' refine of_ite_snd ?_ ?_
  all_goals try simp only [hfree, readNowLo_prods, readClaim_prods]
  split
  · exact readXcap_prods ..
  · refine of_ite_snd ?_ (hfree _)
    extract_lets
    split <;> exact hfree _

theorem readMid_prods (peek : Bool) (k : Nat) (c : Chip) : (readMid peek k c).2.prods = c.prods := by
  unfold readMid
  repeat' split
  all_goals simp only [only_prods, readOutCap_prods]

theorem readSound_prods (o : Nat) (peek : Bool) (k : Nat) (c : Chip) : (readSound o peek k c).2.prods = c.prods := by
  unfold readSound
  repeat' split
  all_goals simp only [readSnLo_prods, only_prods, readVend_prods]

theorem readHigh_prods (o : Nat) (peek : Bool) (k : Nat) (c : Chip) : (readHigh o peek k c).2.prods = c.prods := by
  have hfree (w : Word) : (only c w).2.prods = c.prods := rfl
  unfold readHigh
  repeat' refine of_ite_snd ?_ ?_
  all_goals try simp only [hfree, Chip.freeWord_prods, Chip.freeBits_prods, readQdata_prods, readClaimSlot_prods]
  split <;> exact hfree _

theorem readReg_prods (o : Nat) (peek : Bool) (k : Nat) (c : Chip) : (readReg o peek k c).2.prods = c.prods := by
  simp only [readReg, ite_snd, ite_prods, ite_self, readHigh_prods, readLow_prods, readMid_prods, readSound_prods]

theorem plainWrite_prods (k : Nat) (v : Word) (c : Chip) : (plainWrite k v c).prods = c.prods := by
  simp only [plainWrite, Chip.setReg_prods]

theorem writeOut_prods (o k : Nat) (v : Word) (c : Chip) : (writeOut o k v c).prods = c.prods := by
  unfold writeOut
  split <;> simp only [ite_prods, ite_self, retrain_prods, writeOutCtl_prods, plainWrite_prods, writeFrameCount_prods, writeXbar_prods]

theorem writeMid_prods (o k : Nat) (v : Word) (c : Chip) : (writeMid o k v c).prods = c.prods := by
  simp only [writeMid, ite_prods, ite_self, writeDmaEnable_prods, writePressCtl_prods, plainWrite_prods, writeRetire_prods,
      writeDltEntry_prods, writeOut_prods, writeDramcConfig_prods, writeDmaGo_prods, writeDmaAbort_prods]
  repeat' split
  all_goals simp only [prods_mk, coreProds_cores]

theorem writeSound_prods (k : Nat) (v : Word) (c : Chip) : (writeSound k v c).prods = c.prods := by
  unfold writeSound
  repeat' split
  all_goals simp only [writePort_prods, writeDyn_prods, plainWrite_prods, writeBridge_prods, writeXdyn_prods, writeAudCtl_prods,
      writeVcq_prods, writeHmap_prods, writeSlipNext_prods]

theorem requestHalt_prods (k : Nat) (c : Chip) : (requestHalt k c).prods = c.prods := by
  simp only [requestHalt, ite_prods, ite_self, modCore_prods, ite_prod, implies_true, Chip.flag_prods]

theorem writeHalt_prods (hi : Bool) (v : Word) (c : Chip) : (writeHalt hi v c).prods = c.prods := by
  simp only [writeHalt, ite_prods, ite_self, forAll_prods, implies_true, requestHalt_prods]

theorem readFuReg_prods (k : Nat) (c : Chip) : (readFuReg k c).2.prods = c.prods := by
  simp only [readFuReg, ite_snd, ite_prods, ite_self, only_prods, readFuSpiData_prods, readFuMirData_prods]

theorem writeFuReg_prods (k : Nat) (v : Word) (c : Chip) : (writeFuReg k v c).prods = c.prods := by
  simp only [writeFuReg, ite_prods, ite_self, plainWrite_prods, writeFuSpiData_prods, Chip.modFu_prods, sendMirror_prods,
      writeFuMirData_prods, writeFuWdt_prods, writeFuSpiCmd_prods]

/-! ### Accesses by physical address (R8 to R18) -/

theorem busError_prods (c : Chip) : (busError c).chip.prods = c.prods := by
  simp only [busError]

theorem memLoad_prods (r : Region) (pa n : Nat) (c : Chip) : (memLoad r pa n c).chip.prods = c.prods := by
  simp only [memLoad, Chip.eccRange_prods]

theorem windowLoad_prods (n : Nat) (c : Chip) : (windowLoad n c).chip.prods = c.prods := by
  simp only [windowLoad]
  repeat' split
  all_goals simp only [Chip.freeBits_prods, busError_prods]

theorem busLoad_prods (o : Nat) (peek : Bool) (pa n : Nat) (c : Chip) : (busLoad o peek pa n c).chip.prods = c.prods := by
  simp only [busLoad]
  repeat' split
  all_goals simp only [memLoad_prods, readFuReg_prods, windowLoad_prods, readReg_prods, Chip.freeBits_prods, busError_prods]

theorem burnSealWord_prods (i : Nat) (bs : List Byte) (c : Chip) : (burnSealWord i bs c).prods = c.prods := by
  simp only [burnSealWord, ite_prods, ite_self, Chip.modFu_prods]

theorem readCmd_prods (o k : Nat) (peek : Bool) (c : Chip) : (readCmd o k peek c).prods = c.prods := by
  simp only [readCmd, busLoad_prods, Chip.answerTo_prods]

/-! ### Operands and translation (R103 to R109) -/

theorem tableWord_prods (k idx pa : Nat) (c : Chip) : (tableWord k idx pa c).2.prods = c.prods := by
  unfold tableWord
  split <;> simp only [ite_snd, ite_prods, ite_self, modCore_prods, implies_true, Chip.poisonRecord_prods, busLoad_prods]

theorem walk_prods (k : Nat) (u : Use) (va base ctx n i : Nat) (c : Chip) : (walk k u va base ctx n i c).2.prods = c.prods := by
  induction n generalizing i c with
  | zero => rfl
  | succ n ih => grind [walk, tableWord_prods]

theorem locate_prods (k : Nat) (u : Use) (va : Word) (c : Chip) : (locate k u va c).2.prods = c.prods := by
  simp only [locate, ite_snd, ite_prods, ite_self, walk_prods]

theorem translate_prods (k : Nat) (u : Use) (va : Word) (c : Chip) : (translate k u va c).2.prods = c.prods := by
  grind [translate, locate_prods]

theorem placePieces_prods (k : Nat) (u : Use) (l : List (Word × Nat)) (c : Chip) : (placePieces k u l c).2.prods = c.prods := by
  induction l generalizing c with
  | nil => rfl
  | cons p t ih => grind [placePieces, locate_prods]

theorem drainStore_prods (e : SbEntry) (k : Nat) (c : Chip) : (drainStore e k c).prods = c.prods := by
  simp only [drainStore, ite_prods, ite_self, modCore_prods, implies_true, Chip.storeIn_prods]

theorem drainOldest_prods (k : Nat) (c : Chip) : (drainOldest k c).prods = c.prods := by
  unfold drainOldest
  split <;> simp only [modCore_prods, implies_true, drainStore_prods]

theorem drainAll_prods (k : Nat) (c : Chip) : (drainAll k c).prods = c.prods := by
  simp only [drainAll, drainOldest_prods]

theorem drainBefore_prods (k : Nat) (c : Chip) : (drainBefore k c).prods = c.prods := by
  simp only [drainBefore, ite_prods, ite_self, modCore_prods, implies_true, Core.event_prod, drainAll_prods]

theorem sbufStore_prods (k pa : Nat) (bs : List Byte) (c : Chip) : (sbufStore k pa bs c).prods = c.prods := by
  simp only [sbufStore]
  split <;> simp only [ite_prods, ite_self, modCore_prods, implies_true, Core.event_prod, drainOldest_prods]

theorem Core.ackFirst_prod (n : Nat) (x : Core) : (Core.ackFirst n x).prod = x.prod := (rfl)

theorem ackAll_prods (k : Nat) (c : Chip) : (ackAll k c).prods = c.prods := by
  simp only [ackAll, modCore_prods, implies_true, Core.ackFirst_prod]

theorem ackDevice_prods (k : Nat) (c : Chip) : (ackDevice k c).prods = c.prods := by
  simp only [ackDevice, modCore_prods, implies_true, Core.ackFirst_prod]

theorem ackOldest_prods (k : Nat) (c : Chip) : (ackOldest k c).prods = c.prods := by
  simp only [ackOldest, ite_prods, ite_self, modCore_prods, implies_true, Core.ackFirst_prod]

theorem loadPiece_prods (k : Nat) (p : Phys) (n : Nat) (c : Chip) : (loadPiece k p n c).chip.prods = c.prods := by
  simp only [loadPiece]
  repeat' split
  all_goals simp only [busLoad_prods, ackDevice_prods]

theorem loadPieces_prods (k : Nat) (a : List (Phys × Nat)) (c : Chip) : (loadPieces k a c).chip.prods = c.prods := by
  induction a generalizing k c with
  | nil => simp only [loadPieces]
  | cons b t ih => simp only [loadPieces, loadPiece_prods, ih]

theorem mayMiss_prods (k ev : Nat) (c : Chip) : (mayMiss k ev c).prods = c.prods := by
  simp only [mayMiss, ite_prods, ite_self, modCore_prods, implies_true, Core.event_prod, Chip.freeBits_prods]

theorem retireAccess_prods (k : Nat) (ps : List (Phys × Nat)) (c : Chip) : (retireAccess k ps c).prods = c.prods := by
  simp only [retireAccess, ite_prods, ite_self, modCore_prods, implies_true, Core.event_prod, mayMiss_prods]

theorem finishLoad_prods (k : Nat) (ea : Word) (ps : List (Phys × Nat)) (c : Chip) : (finishLoad k ea ps c).2.prods = c.prods := by
  simp only [finishLoad, ite_snd, ite_prods, ite_self, modCore_prods, implies_true, Chip.poisonRecord_prods, loadPieces_prods,
      retireAccess_prods]

theorem checkAccess_prods (k : Nat) (u : Use) (ea : Word) (n : Nat) (locked : Bool) (c : Chip) :
    (checkAccess k u ea n locked c).2.prods = c.prods := by
  simp only [checkAccess, ite_snd, ite_prods, placePieces_prods]
  repeat' split
  all_goals simp only [placePieces_prods]

/-! ### How a core runs one instruction (R110, R143, R614) -/

theorem Core.fire_prod (x : Core) (l : List Nat) (hit : Word) : (x.fire l hit).prod = x.prod := (rfl)

theorem fireAll_prods (k : Nat) (l : List Nat) (a : Word) (c : Chip) : (fireAll k l a c).2.prods = c.prods := by
  unfold fireAll
  split <;> simp only [ite_snd, ite_prods, ite_self, modCore_prods, implies_true, Core.fire_prod, raisePrivate_prods]

theorem fireBreak_prods (k : Nat) (branch : Bool) (c : Chip) : (fireBreak k branch c).2.prods = c.prods := by
  simp only [fireBreak, ite_snd, ite_prods, ite_self, fireAll_prods]

theorem fireWatches_prods (k : Nat) (u : Use) (vas : List Word) (n : Nat) (c : Chip) : (fireWatches k u vas n c).2.prods = c.prods := by
  grind [fireWatches, fireAll_prods, modCore_prods]

theorem fireWatch_prods (k : Nat) (u : Use) (va : Word) (n : Nat) (c : Chip) : (fireWatch k u va n c).2.prods = c.prods := by
  simp only [fireWatch, fireWatches_prods]

theorem fetchFault_prods (k : Nat) (c : Chip) : (fetchFault k c).2.prods = c.prods := by
  grind [fetchFault, translate_prods, busLoad_prods, mayMiss_prods, Chip.poisonRecord_prods, modCore_prods]

theorem trainWith_prods (k : Nat) (cond : BitVec 4) (r : Res) : (trainWith k cond r).chip.prods = r.chip.prods := by
  unfold trainWith
  split
  · split
    · simp only [Res.chip, modCore_prods, implies_true]
    · rfl
  · rfl

theorem pmcIrq_prods (k : Nat) (old : Word) (c : Chip) : (pmcIrq k old c).prods = c.prods := by
  simp only [pmcIrq, ite_prods, ite_self, raisePrivate_prods]

theorem breakpointTrap_prods {r : Res} {c d : Chip} (hr : r.chip.prods = d.prods) (hc : c.prods = d.prods) (a : Word) :
    (breakpointTrap a r c).chip.prods = d.prods := by
  unfold breakpointTrap
  split
  · exact hr
  · exact hr
  · exact hc

theorem onCore_prods {k : Nat} {f : Core → Core} (h : ∀ x, (f x).prod = x.prod) (c : Chip) : (onCore k f c).chip.prods = c.prods :=
  modCore_prods h c k

theorem watchedRead_prods {f : Fired × Chip} {read : Chip → Res} {d : Chip} (hf : f.2.prods = d.prods)
    (h : ∀ c, (read c).chip.prods = c.prods) : (watchedRead f read).chip.prods = d.prods := by
  unfold watchedRead
  split
  · exact hf
  · exact breakpointTrap_prods ((h _).trans hf) hf _
  · exact (h _).trans hf

theorem loadPlaced_prods {f : Nat → Core → Core} (h : ∀ v x, (f v x).prod = x.prod) (k n : Nat) (ea : Word) (ps : List (Phys × Nat))
    (c : Chip) : (loadPlaced k n ea ps f c).chip.prods = c.prods := by
  unfold loadPlaced
  split
  · rfl
  · refine watchedRead_prods (fireWatch_prods ..) fun c => ?_
    split
    case h_1 hl => exact prods_of_eq hl (finishLoad_prods ..)
    case h_2 hl => exact (modCore_prods (h _) ..).trans (prods_of_eq hl (finishLoad_prods ..))

theorem loadBody_prods {f : Nat → List (Phys × Nat) → Core → Core} (h : ∀ v ps x, (f v ps x).prod = x.prod) (k n : Nat) (locked : Bool)
    (ea : Word) (c : Chip) : (loadBody k n locked ea f c).chip.prods = c.prods := by
  unfold loadBody
  split
  case h_1 hl => exact prods_of_eq hl (checkAccess_prods ..)
  case h_2 hl => exact (loadPlaced_prods (fun v => h v _) ..).trans (prods_of_eq hl (checkAccess_prods ..))

/-! ### The integer, lane and predicate instructions (R69 to R74) -/

theorem alu2_prods (k rd ra rb : Nat) (f : Word → Word → Word) (c : Chip) : (alu2 k rd ra rb f c).chip.prods = c.prods := by
  simp only [alu2, implies_true, onCore_prods, Core.wr_prod]

theorem alu1_prods (k rd ra : Nat) (f : Word → Word) (c : Chip) : (alu1 k rd ra f c).chip.prods = c.prods := by
  simp only [alu1, implies_true, onCore_prods, Core.wr_prod]

theorem Core.setQ_prod (x : Core) (qd comb : Nat) (r : Bool) : (x.setQ qd comb r).prod = x.prod := (rfl)

theorem bodyAdd_prods (k : Nat) (rd ra rb : BitVec 5) (c : Chip) : (bodyAdd k rd ra rb c).chip.prods = c.prods := by
  simp only [bodyAdd, alu2_prods]

theorem bodySub_prods (k : Nat) (rd ra rb : BitVec 5) (c : Chip) : (bodySub k rd ra rb c).chip.prods = c.prods := by
  simp only [bodySub, alu2_prods]

theorem bodyAnd_prods (k : Nat) (rd ra rb : BitVec 5) (c : Chip) : (bodyAnd k rd ra rb c).chip.prods = c.prods := by
  simp only [bodyAnd, alu2_prods]

theorem bodyOr_prods (k : Nat) (rd ra rb : BitVec 5) (c : Chip) : (bodyOr k rd ra rb c).chip.prods = c.prods := by
  simp only [bodyOr, alu2_prods]

theorem bodyXor_prods (k : Nat) (rd ra rb : BitVec 5) (c : Chip) : (bodyXor k rd ra rb c).chip.prods = c.prods := by
  simp only [bodyXor, alu2_prods]

theorem bodyAndn_prods (k : Nat) (rd ra rb : BitVec 5) (c : Chip) : (bodyAndn k rd ra rb c).chip.prods = c.prods := by
  simp only [bodyAndn, alu2_prods]

theorem bodyNor_prods (k : Nat) (rd ra rb : BitVec 5) (c : Chip) : (bodyNor k rd ra rb c).chip.prods = c.prods := by
  simp only [bodyNor, alu2_prods]

theorem bodySll_prods (k : Nat) (rd ra rb : BitVec 5) (c : Chip) : (bodySll k rd ra rb c).chip.prods = c.prods := by
  simp only [bodySll, alu2_prods]

theorem bodySrl_prods (k : Nat) (rd ra rb : BitVec 5) (c : Chip) : (bodySrl k rd ra rb c).chip.prods = c.prods := by
  simp only [bodySrl, alu2_prods]

theorem bodySra_prods (k : Nat) (rd ra rb : BitVec 5) (c : Chip) : (bodySra k rd ra rb c).chip.prods = c.prods := by
  simp only [bodySra, alu2_prods]

theorem bodyRor_prods (k : Nat) (rd ra rb : BitVec 5) (c : Chip) : (bodyRor k rd ra rb c).chip.prods = c.prods := by
  simp only [bodyRor, alu2_prods]

theorem bodyMin_prods (k : Nat) (rd ra rb : BitVec 5) (c : Chip) : (bodyMin k rd ra rb c).chip.prods = c.prods := by
  simp only [bodyMin, alu2_prods]

theorem bodyMax_prods (k : Nat) (rd ra rb : BitVec 5) (c : Chip) : (bodyMax k rd ra rb c).chip.prods = c.prods := by
  simp only [bodyMax, alu2_prods]

theorem bodyMinu_prods (k : Nat) (rd ra rb : BitVec 5) (c : Chip) : (bodyMinu k rd ra rb c).chip.prods = c.prods := by
  simp only [bodyMinu, alu2_prods]

theorem bodyMaxu_prods (k : Nat) (rd ra rb : BitVec 5) (c : Chip) : (bodyMaxu k rd ra rb c).chip.prods = c.prods := by
  simp only [bodyMaxu, alu2_prods]

theorem bodyClz_prods (k : Nat) (rd ra : BitVec 5) (c : Chip) : (bodyClz k rd ra c).chip.prods = c.prods := by
  simp only [bodyClz, alu1_prods]

theorem bodyPopc_prods (k : Nat) (rd ra : BitVec 5) (c : Chip) : (bodyPopc k rd ra c).chip.prods = c.prods := by
  simp only [bodyPopc, alu1_prods]

theorem bodySexb_prods (k : Nat) (rd ra : BitVec 5) (c : Chip) : (bodySexb k rd ra c).chip.prods = c.prods := by
  simp only [bodySexb, alu1_prods]

theorem bodySexh_prods (k : Nat) (rd ra : BitVec 5) (c : Chip) : (bodySexh k rd ra c).chip.prods = c.prods := by
  simp only [bodySexh, alu1_prods]

theorem bodyZexh_prods (k : Nat) (rd ra : BitVec 5) (c : Chip) : (bodyZexh k rd ra c).chip.prods = c.prods := by
  simp only [bodyZexh, alu1_prods]

theorem bodyBswap_prods (k : Nat) (rd ra : BitVec 5) (c : Chip) : (bodyBswap k rd ra c).chip.prods = c.prods := by
  simp only [bodyBswap, alu1_prods]

theorem bodyMfq_prods (k : Nat) (rd : BitVec 5) (c : Chip) : (bodyMfq k rd c).chip.prods = c.prods := by
  simp only [bodyMfq, implies_true, onCore_prods, Core.wr_prod]

theorem bodyMtq_prods (k : Nat) (ra : BitVec 5) (c : Chip) : (bodyMtq k ra c).chip.prods = c.prods := by
  simp only [bodyMtq, implies_true, onCore_prods]

theorem bodyAddi_prods (k : Nat) (rd ra : BitVec 5) (imm : BitVec 12) (c : Chip) : (bodyAddi k rd ra imm c).chip.prods = c.prods := by
  simp only [bodyAddi, alu1_prods]

theorem bodyAndi_prods (k : Nat) (rd ra : BitVec 5) (imm : BitVec 12) (c : Chip) : (bodyAndi k rd ra imm c).chip.prods = c.prods := by
  simp only [bodyAndi, alu1_prods]

theorem bodyOri_prods (k : Nat) (rd ra : BitVec 5) (imm : BitVec 12) (c : Chip) : (bodyOri k rd ra imm c).chip.prods = c.prods := by
  simp only [bodyOri, alu1_prods]

theorem bodyXori_prods (k : Nat) (rd ra : BitVec 5) (imm : BitVec 12) (c : Chip) : (bodyXori k rd ra imm c).chip.prods = c.prods := by
  simp only [bodyXori, alu1_prods]

theorem bodyShi_prods (k : Nat) (rd ra : BitVec 5) (kind : BitVec 2) (n : BitVec 5) (c : Chip) :
    (bodyShi k rd ra kind n c).chip.prods = c.prods := by
  simp only [bodyShi, alu1_prods]

theorem bodyLui_prods (k : Nat) (rd : BitVec 5) (imm : BitVec 16) (c : Chip) : (bodyLui k rd imm c).chip.prods = c.prods := by
  simp only [bodyLui, implies_true, onCore_prods, Core.wr_prod]

theorem bodyLli_prods (k : Nat) (rd : BitVec 5) (imm : BitVec 16) (c : Chip) : (bodyLli k rd imm c).chip.prods = c.prods := by
  simp only [bodyLli, implies_true, onCore_prods, Core.wr_prod]

theorem bodyPermb_prods (k : Nat) (rd ra : BitVec 5) (sel : BitVec 8) (c : Chip) : (bodyPermb k rd ra sel c).chip.prods = c.prods := by
  simp only [bodyPermb, alu1_prods]

theorem bodyAddb_prods (k : Nat) (rd ra rb : BitVec 5) (c : Chip) : (bodyAddb k rd ra rb c).chip.prods = c.prods := by
  simp only [bodyAddb, alu2_prods]

theorem bodySubb_prods (k : Nat) (rd ra rb : BitVec 5) (c : Chip) : (bodySubb k rd ra rb c).chip.prods = c.prods := by
  simp only [bodySubb, alu2_prods]

theorem bodyAddusb_prods (k : Nat) (rd ra rb : BitVec 5) (c : Chip) : (bodyAddusb k rd ra rb c).chip.prods = c.prods := by
  simp only [bodyAddusb, alu2_prods]

theorem bodySubusb_prods (k : Nat) (rd ra rb : BitVec 5) (c : Chip) : (bodySubusb k rd ra rb c).chip.prods = c.prods := by
  simp only [bodySubusb, alu2_prods]

theorem bodyMinub_prods (k : Nat) (rd ra rb : BitVec 5) (c : Chip) : (bodyMinub k rd ra rb c).chip.prods = c.prods := by
  simp only [bodyMinub, alu2_prods]

theorem bodyMaxub_prods (k : Nat) (rd ra rb : BitVec 5) (c : Chip) : (bodyMaxub k rd ra rb c).chip.prods = c.prods := by
  simp only [bodyMaxub, alu2_prods]

theorem bodyAvgub_prods (k : Nat) (rd ra rb : BitVec 5) (c : Chip) : (bodyAvgub k rd ra rb c).chip.prods = c.prods := by
  simp only [bodyAvgub, alu2_prods]

theorem bodyCmpeqb_prods (k : Nat) (rd ra rb : BitVec 5) (c : Chip) : (bodyCmpeqb k rd ra rb c).chip.prods = c.prods := by
  simp only [bodyCmpeqb, alu2_prods]

theorem bodyCmpgtub_prods (k : Nat) (rd ra rb : BitVec 5) (c : Chip) : (bodyCmpgtub k rd ra rb c).chip.prods = c.prods := by
  simp only [bodyCmpgtub, alu2_prods]

theorem bodySadub_prods (k : Nat) (rd ra rb : BitVec 5) (c : Chip) : (bodySadub k rd ra rb c).chip.prods = c.prods := by
  simp only [bodySadub, alu2_prods]

theorem bodyCmp_prods (k : Nat) (qd : BitVec 3) (comb : BitVec 2) (ra rb : BitVec 5) (cc : BitVec 3) (c : Chip) :
    (bodyCmp k qd comb ra rb cc c).chip.prods = c.prods := by
  simp only [bodyCmp, implies_true, onCore_prods, Core.setQ_prod]

theorem bodyCmpi_prods (k : Nat) (qd : BitVec 3) (comb : BitVec 2) (ra : BitVec 5) (cc : BitVec 3) (imm : BitVec 9) (c : Chip) :
    (bodyCmpi k qd comb ra cc imm c).chip.prods = c.prods := by
  simp only [bodyCmpi, implies_true, onCore_prods, Core.setQ_prod]

theorem bodyPredicateLogic_prods (k : Nat) (qd qa qb : BitVec 3) (na nb : Bool) (op : BitVec 2) (c : Chip) :
    (bodyPredicateLogic k qd qa qb na nb op c).chip.prods = c.prods := by
  simp only [bodyPredicateLogic, implies_true, onCore_prods]

/-! ### The transfers of the DMA channels (R343 to R354) -/

theorem countRetry_prods (i : Nat) (c : Chip) : (countRetry i c).prods = c.prods := by
  simp only [countRetry, Chip.countF_prods]

theorem bufferRead_prods (i n : Nat) (l : List DmaByte) (c : Chip) : (bufferRead i n l c).prods = c.prods := by
  simp only [bufferRead, Chip.modDma_prods]

theorem dmaReadRetry_prods (i : Nat) (free : Bool) (c : Chip) : (dmaReadRetry i free c).prods = c.prods := by
  simp only [dmaReadRetry, ite_prods, ite_self, bufferRead_prods, Chip.modDma_prods, countRetry_prods]

theorem dmaReadDone_prods (i : Nat) (c : Chip) : (dmaReadDone i c).prods = c.prods := by
  simp only [dmaReadDone, ite_prods, ite_self, bufferRead_prods, busLoad_prods]

theorem dmaPartial_prods (i cause off : Nat) (c : Chip) : (dmaPartial i cause off c).prods = c.prods := by
  simp only [dmaPartial, dmaHalt_prods]

theorem dmaUnitDone_prods (i n : Nat) (c : Chip) : (dmaUnitDone i n c).prods = c.prods := by
  simp only [dmaUnitDone, ite_prods, ite_self, Chip.modDma_prods, dmaUse_prods, dmaComplete_prods, dmaPauseNow_prods, dmaHalt_prods,
      setDmaState_prods]

theorem dmaWriteRetry_prods (i : Nat) (free : Bool) (c : Chip) : (dmaWriteRetry i free c).prods = c.prods := by
  simp only [dmaWriteRetry, ite_prods, ite_self, Chip.modDma_prods, countRetry_prods, dmaPauseNow_prods, dmaHalt_prods, dmaPartial_prods]

theorem acked_prods (m : List (Option Nat)) (c : Chip) : (acked m c).prods = c.prods := by
  simp only [acked, ite_prods, ite_self, forAll_prods, implies_true, dmaUnitDone_prods]

theorem dmaCut_prods (i : Nat) (write emergency : Bool) (c : Chip) : (dmaCut i write emergency c).prods = c.prods := by
  simp only [dmaCut, ite_prods, ite_self, dmaReadRetry_prods, dmaWriteRetry_prods]

/-! ### The arbiters (R190 to R202) -/

theorem Chip.setGrant_prods (c : Chip) (arb : Nat) (g : Option Grant) : (c.setGrant arb g).prods = c.prods := by
  simp only [Chip.setGrant, prods_mk, coreProds_cores]

theorem Chip.setWaiting_prods (c : Chip) (arb : Nat) (q : List BusReq) : (c.setWaiting arb q).prods = c.prods := by
  simp only [Chip.setWaiting, prods_mk, coreProds_cores]

theorem Chip.meets_prods (c : Chip) (arb : Nat) (r : BusReq) (upset : BitErr) (hard : Bool) :
    (c.meets arb r upset hard).prods = c.prods := by
  simp only [Chip.meets, ite_prods, ite_self, Chip.upsetWord_prods, cacheError_prods, Chip.setHard_prods]

theorem endRun_prods (arb : Nat) (c : Chip) : (endRun arb c).prods = c.prods := by
  unfold endRun
  split <;> simp only [ite_prods, ite_self, Chip.setGrant_prods]

theorem cutGrant_prods (arb : Nat) (g : Grant) (r : BusReq) (emergency : Bool) (c : Chip) :
    (cutGrant arb g r emergency c).prods = c.prods := by
  simp only [cutGrant, ite_prods, ite_self, Chip.recordCut_prods, pressCut_prods, dmaCut_prods, Chip.setWaiting_prods]

theorem portCost_prods (arb : Nat) (c : Chip) : (portCost arb c).prods = c.prods := by
  unfold portCost
  split <;> simp only [ite_prods, ite_self, modCore_prods, implies_true, Core.event_prod]

theorem joinQueue_prods (arb : Nat) (reqs : List BusReq) (c : Chip) : (joinQueue arb reqs c).prods = c.prods := by
  simp only [joinQueue, ite_prods, ite_self, forAll_prods, implies_true, Chip.answerTo_prods, Chip.setWaiting_prods]

/-! ### The product instructions (R75 to R80) -/

theorem bodyMfpl_prods (k : Nat) (rd : BitVec 5) (c : Chip) : (bodyMfpl k rd c).chip.prods = c.prods := by
  simp only [bodyMfpl, implies_true, onCore_prods, Core.wr_prod]

theorem bodyMfph_prods (k : Nat) (rd : BitVec 5) (c : Chip) : (bodyMfph k rd c).chip.prods = c.prods := by
  simp only [bodyMfph, implies_true, onCore_prods, Core.wr_prod]

/-! ### Branches and the predictor (R85 to R135) -/

theorem jump_prods {link : Core → Core} (h : ∀ x, (link x).prod = x.prod) (k : Nat) (target : Core → Word) (call annul : Bool) (c : Chip) :
    (jump k target link call annul c).chip.prods = c.prods := by
  simp only [jump, Res.chip, modCore_prods, ite_prod, h, ite_self, implies_true]

theorem popReturn_prods (k : Nat) (c : Chip) : (popReturn k c).prods = c.prods := by
  simp only [popReturn, ite_prods, ite_self, modCore_prods, implies_true]

theorem bodyB_prods (k : Nat) (annul : Bool) (disp : BitVec 21) (c : Chip) : (bodyB k annul disp c).chip.prods = c.prods := by
  simp only [bodyB, implies_true, jump_prods]

theorem bodyBl_prods (k : Nat) (annul : Bool) (disp : BitVec 21) (c : Chip) : (bodyBl k annul disp c).chip.prods = c.prods := by
  simp only [bodyBl, implies_true, Core.wr_prod, jump_prods]

theorem bodyJr_prods (k : Nat) (annul : Bool) (ra : BitVec 5) (c : Chip) : (bodyJr k annul ra c).chip.prods = c.prods := by
  simp only [bodyJr, ite_prods, ite_self, implies_true, popReturn_prods, jump_prods]

theorem bodyJlr_prods (k : Nat) (annul : Bool) (ra rd : BitVec 5) (c : Chip) : (bodyJlr k annul ra rd c).chip.prods = c.prods := by
  simp only [bodyJlr, implies_true, Core.wr_prod, jump_prods]

theorem wrongLoad_prods (k pa : Nat) (c : Chip) : (wrongLoad k pa c).prods = c.prods := by
  simp only [wrongLoad, ite_prods, ite_self, modCore_prods, implies_true, Core.event_prod, Chip.eccCheck_prods]

/-! ### Loads, stores and fences (R81 to R102) -/

theorem Core.loadRetires_prod (k : Nat) (x : Core) : (Core.loadRetires k x).prod = x.prod := by
  simp only [Core.loadRetires, ite_prod, ite_self]

theorem loadTo_prods (k n : Nat) (rd : BitVec 5) (ext : Nat → Word) (ea : Word) (c : Chip) :
    (loadTo k n rd ext ea c).chip.prods = c.prods := by
  simp only [loadTo, implies_true, Core.loadRetires_prod, Core.wr_prod, loadBody_prods]

theorem bodyLb_prods (k : Nat) (rd ra : BitVec 5) (off : BitVec 12) (c : Chip) : (bodyLb k rd ra off c).chip.prods = c.prods := by
  grind [bodyLb, Res.chip, loadTo_prods]

theorem bodyLbu_prods (k : Nat) (rd ra : BitVec 5) (off : BitVec 12) (c : Chip) : (bodyLbu k rd ra off c).chip.prods = c.prods := by
  grind [bodyLbu, Res.chip, loadTo_prods]

theorem bodyLh_prods (k : Nat) (rd ra : BitVec 5) (off : BitVec 12) (c : Chip) : (bodyLh k rd ra off c).chip.prods = c.prods := by
  grind [bodyLh, Res.chip, loadTo_prods]

theorem bodyLhu_prods (k : Nat) (rd ra : BitVec 5) (off : BitVec 12) (c : Chip) : (bodyLhu k rd ra off c).chip.prods = c.prods := by
  grind [bodyLhu, Res.chip, loadTo_prods]

theorem bodyLw_prods (k : Nat) (rd ra : BitVec 5) (off : BitVec 12) (c : Chip) : (bodyLw k rd ra off c).chip.prods = c.prods := by
  grind [bodyLw, Res.chip, loadTo_prods]

theorem bodyLl_prods (k : Nat) (rd ra : BitVec 5) (off : BitVec 12) (c : Chip) : (bodyLl k rd ra off c).chip.prods = c.prods := by
  simp only [bodyLl, implies_true, Core.loadRetires_prod, Core.wr_prod, loadBody_prods]

theorem shortLoad_prods (k n : Nat) (rd : BitVec 5) (a : BitVec 16) (c : Chip) : (shortLoad k n rd a c).chip.prods = c.prods := by
  simp only [shortLoad, ite_prods, ite_self, implies_true, ite_chip, Core.wr_prod, loadPlaced_prods, loadTo_prods]

theorem bodyLdsw_prods (k : Nat) (rd : BitVec 5) (a : BitVec 16) (c : Chip) : (bodyLdsw k rd a c).chip.prods = c.prods := by
  simp only [bodyLdsw, shortLoad_prods]

theorem bodyLdshu_prods (k : Nat) (rd : BitVec 5) (a : BitVec 16) (c : Chip) : (bodyLdshu k rd a c).chip.prods = c.prods := by
  simp only [bodyLdshu, shortLoad_prods]

theorem fenceStores_prods (k : Nat) (c : Chip) : (fenceStores k c).chip.prods = c.prods := by
  unfold fenceStores
  split <;> simp only [ite_prods, ite_self, Res.chip, ackAll_prods, drainAll_prods]

theorem bodyFenceS_prods (k : Nat) (c : Chip) : (bodyFenceS k c).chip.prods = c.prods := by
  grind [bodyFenceS, Res.chip, fenceStores_prods]

theorem bodyFenceF_prods (k : Nat) (c : Chip) : (bodyFenceF k c).chip.prods = c.prods := by
  grind [bodyFenceF, Res.chip, fenceStores_prods]

theorem bodyFenceIo_prods (k : Nat) (c : Chip) : (bodyFenceIo k c).chip.prods = c.prods := by
  unfold bodyFenceIo
  split <;> simp only [Res.chip, ackAll_prods, drainAll_prods]

theorem bodyIsync_prods (k : Nat) (c : Chip) : (bodyIsync k c).chip.prods = c.prods := by
  simp only [bodyIsync, implies_true, onCore_prods]

/-! ### CP0, interrupts and waiting (R112 to R121) -/

theorem Core.writeCmp_prod (k : Nat) (x : Core) (n : Nat) (v : Word) : (Core.writeCmp k x n v).prod = x.prod := by
  simp only [Core.writeCmp, ite_prod, ite_self]

theorem bodyCsrr_prods (k : Nat) (ga : BitVec 5) (csr : BitVec 10) (c : Chip) : (bodyCsrr k ga csr c).chip.prods = c.prods := by
  simp only [bodyCsrr, implies_true, onCore_prods, Core.wr_prod]

theorem bodyWait_prods (k : Nat) (c : Chip) : (bodyWait k c).chip.prods = c.prods := by
  unfold bodyWait
  split <;> simp only [modCore_prods, implies_true, Res.chip]

theorem bodyRegsync_prods (k : Nat) (ga : BitVec 5) (c : Chip) : (bodyRegsync k ga c).chip.prods = c.prods := by
  simp only [bodyRegsync, implies_true, onCore_prods]

theorem clineAt_prods (k : Nat) (ga : BitVec 5) (c : Chip) : (clineAt k ga c).2.prods = c.prods := by
  grind [clineAt, locate_prods]

theorem bodyCline_prods (k : Nat) (ga : BitVec 5) (kind : BitVec 2) (c : Chip) : (bodyCline k ga kind c).chip.prods = c.prods := by
  unfold bodyCline
  split
  · rfl
  split
  case h_1 h => simp only [done_chip, ite_prods, Chip.loseLine_prods, Chip.writeBack_prods, ite_self, prods_of_eq h (clineAt_prods ..)]
  case h_2 h => exact prods_of_eq h (clineAt_prods ..)

theorem bodyRdpm_prods (k : Nat) (ga gb : BitVec 5) (c : Chip) : (bodyRdpm k ga gb c).chip.prods = c.prods := by
  simp only [bodyRdpm, modCore_prods, implies_true, Core.wr_prod, Res.chip]

theorem bodySyscall_prods (k : Nat) (code : BitVec 13) (c : Chip) : (bodySyscall k code c).chip.prods = c.prods := by
  simp only [bodySyscall, Res.chip]

/-! ### CP1 (R260 to R279) -/

theorem Chip.setXreg_prods (c : Chip) (s i : Nat) (v : Word) : (c.setXreg s i v).prods = c.prods := by
  simp only [Chip.setXreg, Chip.modComp_prods]

theorem bodyLnext_prods (k : Nat) (gd ge : BitVec 5) (c : Chip) : (bodyLnext k gd ge c).chip.prods = c.prods := by
  simp only [bodyLnext]
  split <;> simp only [ite_prods, ite_self, modCore_prods, implies_true, Core.wr_prod, ite_chip, done_chip, hold_chip, Chip.modComp_prods,
      Chip.setXreg_prods]

theorem bodyLstat_prods (k : Nat) (gd : BitVec 5) (c : Chip) : (bodyLstat k gd c).chip.prods = c.prods := by
  simp only [bodyLstat, implies_true, onCore_prods, Core.wr_prod]

theorem bodyLdead_prods (k : Nat) (gd : BitVec 5) (c : Chip) : (bodyLdead k gd c).chip.prods = c.prods := by
  unfold bodyLdead
  split <;> simp only [ite_prods, ite_self, implies_true, ite_chip, Chip.freeWord_prods, onCore_prods, Core.wr_prod]

theorem bodyMtx_prods (k : Nat) (xd : BitVec 4) (ga : BitVec 5) (c : Chip) : (bodyMtx k xd ga c).chip.prods = c.prods := by
  simp only [bodyMtx, Res.chip, Chip.setXreg_prods]

theorem bodyMfx_prods (k : Nat) (gd : BitVec 5) (xa : BitVec 4) (c : Chip) : (bodyMfx k gd xa c).chip.prods = c.prods := by
  simp only [bodyMfx, implies_true, onCore_prods, Core.wr_prod]

theorem withUnit_prods {f : LineUnit → Chip → Res} {c : Chip} (h : ∀ u, (f u c).chip.prods = c.prods) (k : Nat) :
    (withUnit k f c).chip.prods = c.prods := by
  unfold withUnit
  split
  · exact h _
  · exact routeErr_prods ..

theorem Chip.setHeld_prods (c : Chip) (k : Nat) (h : LineUnit) : (c.setHeld k h).prods = c.prods := by
  simp only [Chip.setHeld, Chip.modComp_prods]

theorem bodyLset_prods (k : Nat) (gi gv : BitVec 5) (c : Chip) : (bodyLset k gi gv c).chip.prods = c.prods := by
  simp only [bodyLset, ite_prods, ite_self, implies_true, ite_chip, done_chip, Chip.setHeld_prods, withUnit_prods, routeErr_prods]

theorem getParam_prods (k i : Nat) (gd : BitVec 5) (h : LineUnit) (c : Chip) : (getParam k i gd h c).chip.prods = c.prods := by
  simp only [getParam, ite_prods, ite_self, implies_true, ite_chip, trap_chip, Chip.freeWord_prods, Chip.poisonRecord_prods, onCore_prods,
      Core.wr_prod]

theorem bodyLget_prods (k : Nat) (gd gi : BitVec 5) (c : Chip) : (bodyLget k gd gi c).chip.prods = c.prods := by
  simp only [bodyLget, implies_true, withUnit_prods, getParam_prods]

theorem bodyLgetr_prods (k : Nat) (gd : BitVec 5) (n : BitVec 7) (c : Chip) : (bodyLgetr k gd n c).chip.prods = c.prods := by
  simp only [bodyLgetr, implies_true, withUnit_prods, getParam_prods]

theorem bodyLput_prods (k : Nat) (a : BitVec 2) (c : Chip) : (bodyLput k a c).chip.prods = c.prods := by
  refine withUnit_prods (fun h => ?_) k
  extract_lets s x line
  split
  · simp only [ite_chip, ite_prods, done_chip, hold_chip, routeErr_prods, Chip.revt_prods, Chip.setHeld_prods, Chip.modGrp_prods, ite_self]
  · simp only [ite_chip, ite_prods, done_chip, routeErr_prods, ite_self]

theorem closeHeld_prods (k : Nat) (h : LineUnit) (c : Chip) : (closeHeld k h c).prods = c.prods := by
  unfold closeHeld
  split <;> simp only [Chip.setHeld_prods, closeUnit_prods]

theorem bodyLclose_prods (k : Nat) (c : Chip) : (bodyLclose k c).chip.prods = c.prods := by
  simp only [bodyLclose, ite_prods, ite_self, implies_true, done_chip, closeHeld_prods, withUnit_prods]

theorem drawHeld_prods (k : Nat) (h : LineUnit) (c : Chip) : (drawHeld k h c).2.prods = c.prods := by
  simp only [drawHeld]
  split <;> simp only [ite_snd, ite_prods, ite_self, Chip.setHeld_prods, closeHeld_prods, drawUnit_prods]

theorem bodyLdraw_prods (k : Nat) (c : Chip) : (bodyLdraw k c).chip.prods = c.prods := by
  refine withUnit_prods (fun h => ?_) k
  split
  · rfl
  split
  · exact routeErr_prods ..
  split
  case h_1 hd => exact prods_of_eq hd (drawHeld_prods ..)
  case h_2 hd => exact prods_of_eq hd (drawHeld_prods ..)

theorem endHeld_prods (k : Nat) (c : Chip) : (endHeld k c).prods = c.prods := by
  simp only [endHeld, Chip.modComp_prods]

theorem bodyLend_prods (k : Nat) (c : Chip) : (bodyLend k c).chip.prods = c.prods := by
  refine withUnit_prods (fun h => ?_) k
  split
  · exact endHeld_prods ..
  split
  case h_1 hd => exact (endHeld_prods ..).trans (prods_of_eq hd (drawHeld_prods ..))
  case h_2 hd => exact prods_of_eq hd (drawHeld_prods ..)

/-! ### Lanes of CP2 (R364 to R375) -/

theorem Chip.setLane_prods (c : Chip) (k r i : Nat) (l : Lane) : (c.setLane k r i l).prods = c.prods := by
  simp only [Chip.setLane, Chip.modHorn_prods]

theorem Chip.setLanes_prods (c : Chip) (k r : Nat) (l : List Lane) : (c.setLanes k r l).prods = c.prods := by
  simp only [Chip.setLanes, forAll_prods, implies_true, Chip.setLane_prods]

theorem lane1_prods (k : Nat) (d a : BitVec 5) (f : Word → Word) (c : Chip) : (lane1 k d a f c).chip.prods = c.prods := by
  simp only [lane1, Res.chip, Chip.setLanes_prods]

theorem lane2_prods (k : Nat) (d a b : BitVec 5) (f : Word → Word → Word) (c : Chip) : (lane2 k d a b f c).chip.prods = c.prods := by
  simp only [lane2, Res.chip, Chip.setLanes_prods]

theorem bodyVadd_prods (k : Nat) (d a b : BitVec 5) (c : Chip) : (bodyVadd k d a b c).chip.prods = c.prods := by
  simp only [bodyVadd, lane2_prods]

theorem bodyVsub_prods (k : Nat) (d a b : BitVec 5) (c : Chip) : (bodyVsub k d a b c).chip.prods = c.prods := by
  simp only [bodyVsub, lane2_prods]

theorem bodyVmul_prods (k : Nat) (d a b : BitVec 5) (c : Chip) : (bodyVmul k d a b c).chip.prods = c.prods := by
  simp only [bodyVmul, lane2_prods]

theorem bodyVmac_prods (k : Nat) (d a b : BitVec 5) (c : Chip) : (bodyVmac k d a b c).chip.prods = c.prods := by
  simp only [bodyVmac, Res.chip, Chip.setLanes_prods]

theorem minMax_prods (greater : Bool) (a b : Word) (c : Chip) : (minMax greater a b c).2.prods = c.prods := by
  simp only [minMax, ite_snd, ite_prods, ite_self, Chip.freeWord_prods]

theorem bodyVminmax_prods (k : Nat) (d a b : BitVec 5) (greater : Bool) (c : Chip) :
    (bodyVminmax k d a b greater c).chip.prods = c.prods := by
  simp only [bodyVminmax, Res.chip, forAll_prods, implies_true, Chip.setLane_prods, minMax_prods]

theorem bodyVunary_prods (k : Nat) (d a : BitVec 5) (m : Nat) (c : Chip) : (bodyVunary k d a m c).chip.prods = c.prods := by
  unfold bodyVunary
  split <;> simp only [lane1_prods]

theorem bodyVdiv_prods (k : Nat) (d a b : BitVec 5) (c : Chip) : (bodyVdiv k d a b c).chip.prods = c.prods := by
  simp only [bodyVdiv, lane2_prods]

theorem bodyVcvtf_prods (k : Nat) (d a : BitVec 5) (m : BitVec 2) (c : Chip) : (bodyVcvtf k d a m c).chip.prods = c.prods := by
  simp only [bodyVcvtf, lane1_prods]

theorem bodyVcvti_prods (k : Nat) (d a : BitVec 5) (m : BitVec 2) (c : Chip) : (bodyVcvti k d a m c).chip.prods = c.prods := by
  simp only [bodyVcvti, lane1_prods]

theorem bodyViadd_prods (k : Nat) (d a b : BitVec 5) (sub : Bool) (c : Chip) : (bodyViadd k d a b sub c).chip.prods = c.prods := by
  simp only [bodyViadd, lane2_prods]

theorem bodyVlogic_prods (k : Nat) (d a b : BitVec 5) (m : BitVec 2) (c : Chip) : (bodyVlogic k d a b m c).chip.prods = c.prods := by
  simp only [bodyVlogic, lane2_prods]

theorem bodyVshi_prods (k : Nat) (d a n : BitVec 5) (m : BitVec 2) (c : Chip) : (bodyVshi k d a n m c).chip.prods = c.prods := by
  simp only [bodyVshi, lane1_prods]

theorem bodyVcmp_prods (k : Nat) (d a b : BitVec 5) (m : BitVec 2) (c : Chip) : (bodyVcmp k d a b m c).chip.prods = c.prods := by
  simp only [bodyVcmp, lane2_prods]

theorem bodyVsel_prods (k : Nat) (d a b : BitVec 5) (c : Chip) : (bodyVsel k d a b c).chip.prods = c.prods := by
  simp only [bodyVsel, Res.chip, Chip.setLanes_prods]

theorem bodyVbcast_prods (k : Nat) (d ga : BitVec 5) (c : Chip) : (bodyVbcast k d ga c).chip.prods = c.prods := by
  simp only [bodyVbcast, Res.chip, Chip.setLanes_prods]

theorem bodyVins_prods (k : Nat) (d ga : BitVec 5) (n : BitVec 3) (c : Chip) : (bodyVins k d ga n c).chip.prods = c.prods := by
  simp only [bodyVins, Res.chip, Chip.setLane_prods]

theorem bodyVext_prods (k : Nat) (gd a : BitVec 5) (n : BitVec 3) (c : Chip) : (bodyVext k gd a n c).chip.prods = c.prods := by
  simp only [bodyVext, ite_prods, ite_self, implies_true, ite_chip, trap_chip, Chip.freeWord_prods, Chip.poisonRecord_prods, onCore_prods,
      Core.wr_prod]

theorem bodyVtrn_prods (k : Nat) (d a : BitVec 5) (c : Chip) : (bodyVtrn k d a c).chip.prods = c.prods := by
  simp only [bodyVtrn, Res.chip, forAll_prods, implies_true, Chip.setLanes_prods]

theorem bodyVsin_prods (k : Nat) (d a : BitVec 5) (c : Chip) : (bodyVsin k d a c).chip.prods = c.prods := by
  simp only [bodyVsin, lane1_prods]

/-! ### Memory accesses, biquads and runs of CP2 (R366 to R389) -/

theorem cp2Places_prods (k : Nat) (u : Use) (al : Nat) (eas : List Word) (c : Chip) : (cp2Places k u al eas c).2.prods = c.prods := by
  unfold cp2Places
  split
  · rfl
  · split
    case h_1 h => exact prods_of_eq h (placePieces_prods ..)
    case h_2 h => exact prods_of_eq h (placePieces_prods ..)

theorem cp2Ready_prods (k : Nat) (store : Bool) (p : Phys) (c : Chip) : (cp2Ready k store p c).prods = c.prods := by
  simp only [cp2Ready, ite_prods, ite_self, ackDevice_prods, drainBefore_prods]

theorem cp2Read_prods (k n : Nat) (l : List (Word × Phys)) (c : Chip) : (cp2Read k n l c).2.prods = c.prods := by
  induction l generalizing c with
  | nil => rfl
  | cons p t ih => grind [cp2Read, busLoad_prods, cp2Ready_prods]

theorem cp2Load_prods {f : List Lane → Chip → Chip} (h : ∀ l c, (f l c).prods = c.prods) (k n al : Nat) (eas : List Word) (c : Chip) :
    (cp2Load k n al eas f c).chip.prods = c.prods := by
  unfold cp2Load
  split
  case h_1 hp => exact prods_of_eq hp (cp2Places_prods ..)
  case h_2 hp =>
    rw [← prods_of_eq hp (cp2Places_prods ..)]
    split
    · rfl
    · refine watchedRead_prods (fireWatches_prods ..) fun c => ?_
      split
      case h_1 hr => exact prods_of_eq hr (cp2Read_prods ..)
      case h_2 hr =>
        refine (h _ _).trans ?_
        simp only [ite_prods, modCore_prods, ite_self, implies_true]
        exact prods_of_eq hr (cp2Read_prods ..)

theorem bodyVld_prods (k : Nat) (d ga : BitVec 5) (c : Chip) : (bodyVld k d ga c).chip.prods = c.prods := by
  simp only [bodyVld, implies_true, Chip.setLanes_prods, cp2Load_prods]

theorem bodyVgath_prods (k : Nat) (d a gb : BitVec 5) (c : Chip) : (bodyVgath k d a gb c).chip.prods = c.prods := by
  simp only [bodyVgath, implies_true, Chip.setLanes_prods, cp2Load_prods]

theorem ownPlace_prods (k : Nat) (ea : Word) (n al : Nat) (c : Chip) : (ownPlace k ea n al c).2.prods = c.prods := by
  unfold ownPlace
  split
  case h_1 h => exact prods_of_eq h (cp2Places_prods ..)
  case h_2 h =>
    rw [← prods_of_eq h (cp2Places_prods ..)]
    grind [translate_prods, fireWatch_prods, drainBefore_prods]

/-- A place that is refused: the answer holds the chip as the checks left it. -/
theorem ownPlace_chip (k : Nat) (ea : Word) (n al : Nat) (c : Chip) :
    ∀ r, (ownPlace k ea n al c).1 = .error r → r.chip = (ownPlace k ea n al c).2 := by
  have herr {r : Res} {d : Chip} (h : r.chip = d) :
      ∀ r', ((.error r, d) : Except Res Nat × Chip).1 = .error r' → r'.chip = ((.error r, d) : Except Res Nat × Chip).2 := by
    rintro _ ⟨⟩
    exact h
  unfold ownPlace
  split
  · exact herr rfl
  extract_lets pa
  split
  · exact herr rfl
  split
  · exact herr rfl
  split
  · exact herr rfl
  · exact herr rfl
  split
  · exact herr rfl
  · exact herr rfl
  · rintro _ ⟨⟩

theorem ownPlace_error {k : Nat} {ea : Word} {n al : Nat} {c d : Chip} {r : Res} (h : ownPlace k ea n al c = (.error r, d)) :
    r.chip.prods = c.prods := by
  rw [ownPlace_chip k ea n al c r (congrArg Prod.fst h), ownPlace_prods]

theorem ownWords_prods (k pa n : Nat) (c : Chip) : (ownWords k pa n c).2.prods = c.prods := by
  simp only [ownWords, busLoad_prods]

theorem bodyDyn_prods (k : Nat) (d a gb : BitVec 5) (c : Chip) : (bodyDyn k d a gb c).chip.prods = c.prods := by
  unfold bodyDyn
  rw [done_chip]
  refine forAll_prods (fun i c => ?_) _ c
  extract_lets l r x
  simp only [Chip.setLane_prods, ite_snd, ite_prods, Chip.freeWord_prods, Chip.modDyn_prods, ite_self]

theorem bodySnext_prods (k : Nat) (gd ge : BitVec 5) (c : Chip) : (bodySnext k gd ge c).chip.prods = c.prods := by
  unfold bodySnext
  split <;> simp only [modCore_prods, implies_true, Core.wr_prod, Res.chip, Chip.modHorn_prods]

theorem Chip.modRun_prods (c : Chip) (r : HornRun) (f : BlockRun → BlockRun) : (c.modRun r f).prods = c.prods := by
  simp only [Chip.modRun, Chip.modDom_prods]

theorem bodySstat_prods (k : Nat) (gd : BitVec 5) (bank : Bool) (c : Chip) : (bodySstat k gd bank c).chip.prods = c.prods := by
  unfold bodySstat
  split
  all_goals try simp only [implies_true, onCore_prods, Core.wr_prod, Chip.freeBits_prods]
  all_goals split <;> simp only [implies_true, Chip.freeWord_prods, onCore_prods, Core.wr_prod]

theorem bodySbar_prods (k : Nat) (c : Chip) : (bodySbar k c).chip.prods = c.prods := by
  simp only [bodySbar]
  repeat' split
  all_goals simp only [done_chip, hold_chip, Chip.modHorn_prods, Chip.modRun_prods]

theorem bodySend_prods (k : Nat) (c : Chip) : (bodySend k c).chip.prods = c.prods := by
  simp only [bodySend]
  split <;> simp only [done_chip, tryCommit_prods, Chip.modHorn_prods, Chip.modRun_prods]

theorem bodySout_prods (k : Nat) (a gb : BitVec 5) (c : Chip) : (bodySout k a gb c).chip.prods = c.prods := by
  simp only [bodySout]
  split <;> simp only [ite_prods, ite_self, ite_chip, done_chip, Chip.modHorn_prods, Chip.poisonRecord_prods, pointFault_prods]

theorem inputSample_prods (r : HornRun) (p i : Nat) (c : Chip) : (inputSample r p i c).2.prods = c.prods := by
  simp only [inputSample]
  split <;> simp only [Chip.freeWord_prods]

theorem bodySin_prods (k : Nat) (d gb : BitVec 5) (c : Chip) : (bodySin k d gb c).chip.prods = c.prods := by
  simp only [bodySin, done_chip]
  refine forAll_prods (fun i c => ?_) _ c
  simp only [Chip.setLane_prods]
  split <;> simp only [ite_snd, ite_prods, inputSample_prods, Chip.freeWord_prods, ite_self]

/-! ### Voices (R371 to R378) -/

theorem freeTone_prods (c : Chip) : (freeTone c).2.prods = c.prods := by
  simp only [freeTone, Chip.freeWord_prods]

theorem voiceBytes_prods (v : Voice) (off n : Nat) (c : Chip) : (voiceBytes v off n c).2.prods = c.prods := by
  simp only [voiceBytes, ite_snd, ite_prods, ite_self, memLoad_prods, Chip.freeBits_prods]

theorem pcmSample_prods (v : Voice) (n i : Nat) (c : Chip) : (pcmSample v n i c).2.prods = c.prods := by
  simp only [pcmSample, voiceBytes_prods]

theorem pcmTone_prods (n : Nat) (v : Voice) (c : Chip) : (pcmTone n v c).2.prods = c.prods := by
  simp only [pcmTone, ite_snd, ite_prods, ite_self, Chip.freeBits_prods, pcmSample_prods]

theorem waveTone_prods (v : Voice) (c : Chip) : (waveTone v c).2.prods = c.prods := by
  simp only [waveTone, ite_snd, ite_prods, ite_self, pcmSample_prods, freeTone_prods]

theorem adpcmPass_prods (a : Nat) (a1 : Voice) (c : Chip) : (adpcmPass a a1 c).2.prods = c.prods := by
  induction a generalizing a1 c with
  | zero => simp only [adpcmPass]
  | succ n ih => simp only [adpcmPass, ite_snd, ite_prods, ite_self, voiceBytes_prods, ih]

theorem adpcmTone_prods (v : Voice) (c : Chip) : (adpcmTone v c).2.prods = c.prods := by
  simp only [adpcmTone, adpcmPass_prods]

theorem fmOperator_prods (v : Voice) (outs : List Word) (k : Nat) (c : Chip) : (fmOperator v outs k c).2.prods = c.prods := by
  simp only [fmOperator, ite_snd, ite_prods, ite_self, Chip.freeWord_prods]

theorem fmTone_prods (v : Voice) (c : Chip) : (fmTone v c).2.prods = c.prods := by
  simp only [fmTone, foldl_snd_prods, implies_true, fmOperator_prods]

theorem voiceTone_prods (v : Voice) (c : Chip) : (voiceTone v c).2.prods = c.prods := by
  unfold voiceTone
  split <;> simp only [fmTone_prods, waveTone_prods, pcmTone_prods, adpcmTone_prods]

theorem moveGain_prods (g tgt step : Word) (c : Chip) : (moveGain g tgt step c).2.prods = c.prods := by
  simp only [moveGain, ite_snd, ite_prods, ite_self, Chip.freeWord_prods]

theorem voiceRun_prods (a : Nat) (a1 : Voice) (c : Chip) : (voiceRun a a1 c).2.prods = c.prods := by
  induction a generalizing a1 c with
  | zero => simp only [voiceRun]
  | succ n ih => simp only [voiceRun, ite_snd, ite_prods, ite_self, voiceTone_prods, moveGain_prods, ih]

/-! ### The boot ROM (R560 to R570) -/

theorem Chip.program_prods (c : Chip) (a : Nat) (bs : List Byte) : (c.program a bs).prods = c.prods := by
  simp only [Chip.program, prods_mk, coreProds_cores]

theorem Chip.eraseFlash_prods (c : Chip) (lo hi : Nat) : (c.eraseFlash lo hi).prods = c.prods := by
  simp only [Chip.eraseFlash, prods_mk, coreProds_cores]

theorem Chip.setBoot_prods (c : Chip) (b : Option Boot) : (c.setBoot b).prods = c.prods := prods_eq (Chip.setBoot_cores ..)

theorem bootFail_prods (result : Nat) (c : Chip) : (bootFail result c).prods = c.prods := by
  have h (d : Chip) : (d.setCore 0 { d.core 0 with waiting := true }).prods = d.prods := setCore_prods rfl
  unfold bootFail
  extract_lets c1 c2
  rw [Chip.setBoot_prods, h]
  simp only [c1, c2, Chip.setF_prods, Chip.journal_prods]

theorem fillArrays_prods (c : Chip) : (fillArrays c).prods = c.prods := by
  simp only [fillArrays, forAll_prods, implies_true, Chip.fillZero_prods]

theorem bootProfile_prods (b : Boot) (c : Chip) : (bootProfile b c).prods = c.prods := by
  simp only [bootProfile, ite_prods, ite_self, Chip.setF_prods, Chip.setBoot_prods, bootFail_prods, Chip.flag_prods]

theorem bootFill_prods (b : Boot) (c : Chip) : (bootFill b c).prods = c.prods := by
  simp only [bootFill, ite_prods, ite_self, Chip.fillZero_prods, Chip.setBoot_prods, bootFail_prods]

theorem bootReport_prods (b : Boot) (c : Chip) : (bootReport b c).prods = c.prods := by
  simp only [bootReport, ite_prods, ite_self, Chip.setF_prods, Chip.setBoot_prods, Chip.setReg_prods, wdtLoad_prods]

theorem enterImage_prods (k : Nat) (pc : Word) (c : Chip) : (enterImage k pc c).prods = c.prods :=
  setCore_prods rfl

theorem romJump_prods (k : Nat) (c : Chip) : (romJump k c).prods = c.prods := by
  simp only [romJump, ite_prods, ite_self, enterImage_prods]

/-! ### The Postmaster (R584 to R602) -/

theorem Chip.modPm_prods (c : Chip) (f : Postmaster → Postmaster) : (c.modPm f).prods = c.prods := prods_eq (Chip.modPm_cores ..)

theorem Chip.modTrans_prods (c : Chip) (t : Nat) (f : Transport → Transport) : (c.modTrans t f).prods = c.prods := by
  simp only [Chip.modTrans, Chip.modPm_prods]

theorem respond_prods (t : Nat) (req : List Byte) (status : Nat) (body : List Byte) (c : Chip) :
    (respond t req status body c).prods = c.prods := by
  simp only [respond, Chip.modTrans_prods]

theorem takeNonce_prods (t : Nat) (l : List Byte) (c : Chip) : (takeNonce t l c).prods = c.prods := by
  simp only [takeNonce, ite_prods, ite_self, Chip.modTrans_prods]

theorem submit_prods (t : Nat) (req : List Byte) (c : Chip) : (submit t req c).prods = c.prods := by
  simp only [submit, ite_prods, ite_self, takeNonce_prods, Chip.modTrans_prods, respond_prods]

theorem signedEntry_prods (l : List Byte) (ok : Bool) (c : Chip) : (signedEntry l ok c).prods = c.prods := by
  simp only [signedEntry, ite_prods, ite_self, Chip.journal_prods]

theorem serve_prods {body : Nat → List Byte → Chip → Nat × List Byte × Chip} {c : Chip}
    (h : ∀ t l c, (body t l c).2.2.prods = c.prods) (cmd : Nat) (signed : List Byte → Bool) (size : Nat → Bool) :
    (serve cmd signed size body c).prods = c.prods := by
  unfold serve
  split
  · rfl
  · simp only [ite_prods, h, respond_prods, takeNonce_prods, signedEntry_prods, ite_self]

theorem fuReceipt_prods (t : Nat) (c : Chip) : (fuReceipt t c).prods = c.prods := by
  simp only [fuReceipt, Chip.modPm_prods, Chip.modSlot_prods, respond_prods]

theorem fuGiveUp_prods (t : Nat) (c : Chip) : (fuGiveUp t c).prods = c.prods := by
  simp only [fuGiveUp, Chip.modPm_prods, Chip.modSlot_prods, respond_prods]

theorem fuPost_prods (t : Nat) (l : List Byte) (c : Chip) : (fuPost t l c).prods = c.prods := by
  simp only [fuPost, ite_prods, ite_self, Chip.modPm_prods, Chip.modSlot_prods, Chip.setBytes_prods, respond_prods]

theorem endStaging_prods (c : Chip) : (endStaging c).prods = c.prods := by
  simp only [endStaging, Chip.modPm_prods]

/-! ### The TAP and debug sessions (R603 to R619) -/

theorem feedResult_prods (res cause : Nat) (c : Chip) : (feedResult res cause c).prods = c.prods := by
  simp only [feedResult, Chip.setF_prods]

theorem feedFence_prods (k : Nat) (c : Chip) : (feedFence k c).prods = c.prods := by
  simp only [feedFence, modCore_prods, implies_true, ackAll_prods, drainAll_prods]

theorem sessionRead_prods (k : Nat) (c : Chip) : (sessionRead k c).2.prods = c.prods := by
  simp only [sessionRead, ite_snd, ite_prods, ite_self, readReg_prods]

theorem openSession_prods (kind sender level : Nat) (c : Chip) : (openSession kind sender level c).prods = c.prods := by
  simp only [openSession, prods_mk, coreProds_cores, sessionEntry_prods, Chip.setF_prods]

theorem failSession_prods (kind level : Nat) (c : Chip) : (failSession kind level c).prods = c.prods := by
  simp only [failSession, sessionEntry_prods, Chip.flag_prods]

theorem tap_prods {f : Chip → Chip} {c : Chip} (h : (f c).prods = c.prods) : (tap f c).prods = c.prods := by
  simp only [tap, ite_prods, h, ite_self]

theorem Chip.modDebug_prods (c : Chip) (f : Debug → Debug) : (c.modDebug f).prods = c.prods := prods_eq (Chip.modDebug_cores ..)

theorem captureBoundary_prods (c : Chip) : (captureBoundary c).2.prods = c.prods := by
  simp only [captureBoundary, Chip.freeBits_prods]

theorem debugAnswer_prods (l : List Byte) (status : Nat) (body : List Byte) (c : Chip) : (debugAnswer l status body c).prods = c.prods := by
  simp only [debugAnswer, Chip.modTrans_prods]

theorem debugFrame_prods {f : Chip → Chip} {c : Chip} (h : (f c).prods = c.prods) (cmd : Nat) (l : List Byte)
    (size : Nat → Bool) : (debugFrame cmd l size f c).prods = c.prods := by
  simp only [debugFrame, ite_prods, h, debugAnswer_prods, ite_self]

theorem refresh_prods (c : Chip) : (refresh c).prods = c.prods := by
  simp only [refresh, Chip.modDebug_prods]

/-! ### PCI Express (R575 to R578) -/

theorem inboundRead_prods (pa n : Nat) (c : Chip) : (inboundRead pa n c).2.prods = c.prods := by
  refine foldl_snd_prods (fun a p => ?_) _ _
  split <;> simp only [ite_snd, busLoad_prods, ite_self]

theorem unsupported_prods (write : Bool) (c : Chip) : (unsupported write c).prods = c.prods := by
  simp only [unsupported, ite_prods, ite_self, Chip.flag_prods, Chip.answerTo_prods]

theorem writeMsixMask_prods (m : Bool) (c : Chip) : (writeMsixMask m c).prods = c.prods := by
  simp only [writeMsixMask, ite_prods, ite_self, prods_mk, coreProds_cores, msixSend_prods]

end Sys2Proof.Machine
end

section
/-! SUPPORT. The bound of the shadows under every act that does change a product: completion, exceptions, halts and resets (R77). -/

namespace Sys2Proof.Machine

/-! ### One core -/

theorem shadowOk_none : ShadowOk none := fun _ h => nomatch h

theorem shadowOk_of_left {v : DWord} {n : Nat} (h : n ≤ 12) : ShadowOk (some ⟨v, n⟩) := by
  rintro _ ⟨⟩
  exact h

theorem Core.showProduct_shadowOk (x : Core) : ShadowOk x.showProduct.prod := x.showProduct_prod ▸ shadowOk_none

theorem Core.ripen_shadowOk {x : Core} (h : ShadowOk x.prod) : ShadowOk x.ripen.prod := by
  rcases x.ripen_prod with hn | ⟨p, hp, hx, _⟩
  · exact hn ▸ shadowOk_none
  · exact hp ▸ hx ▸ h

/-- One position passes: of 13 at most 12 are left. -/
theorem Core.passPosition_shadowOk {x : Core} (h : ∀ p, x.prod = some p → p.left ≤ 13) : ShadowOk x.passPosition.prod := by
  unfold Core.passPosition
  split
  case h_1 p hp =>
    have hl := h p hp
    exact shadowOk_of_left (by omega)
  case h_2 hn => exact hn ▸ shadowOk_none

theorem Core.advance_prod (k : Nat) (x : Core) : (x.advance k).prod = x.passPosition.prod := by
  unfold Core.advance
  extract_lets y z
  rw [Core.retire_prod]
  unfold z
  split <;> rfl

theorem Core.branch_prod (k : Nat) (x : Core) (t : Bool) (a : Word) (n : Bool) : (x.branch k t a n).prod = x.passPosition.prod := by
  simp only [Core.branch, Core.event_prod, Core.retire_prod]

theorem Core.enter_prod (x : Core) (cause : Nat) (addr epc : Word) (slot : Option Slot) : (x.enter cause addr epc slot).prod = none := by
  unfold Core.enter
  rfl

theorem Core.enter_shadowOk (x : Core) (cause : Nat) (addr epc : Word) (slot : Option Slot) : ShadowOk (x.enter cause addr epc slot).prod :=
  x.enter_prod cause addr epc slot ▸ shadowOk_none

theorem Core.trap_shadowOk (x : Core) (cause : Nat) (addr : Word) : ShadowOk (x.trap cause addr).prod := Core.enter_shadowOk _ _ _ _ _

theorem Core.halt_shadowOk {x : Core} (h : ShadowOk x.prod) (causes hit : Nat) : ShadowOk (x.halt causes hit).prod := Core.ripen_shadowOk h

theorem Core.resume_shadowOk {x : Core} (h : ShadowOk x.prod) : ShadowOk x.resume.prod := by
  unfold Core.resume
  split
  · exact h
  · extract_lets n y
    change ShadowOk y.prod
    unfold y
    split
    · split
      · exact Core.showProduct_shadowOk x
      · exact shadowOk_of_left (Nat.min_le_left ..)
    · exact h

theorem Core.eret_shadowOk (x : Core) : ShadowOk x.eret.prod := by
  unfold Core.eret
  extract_lets y n
  change ShadowOk (if n = 0 then none else some _)
  split
  · exact shadowOk_none
  · exact shadowOk_of_left (Nat.min_le_left ..)

theorem Core.reset_shadowOk (k : Nat) : ShadowOk (Core.reset k).prod := shadowOk_none

theorem Core.started_shadowOk (k : Nat) : ShadowOk (Core.started k).prod := by
  unfold Core.started
  split <;> exact shadowOk_none

/-- A control register written: only csr_dpc of a halted core touches the product, which becomes visible (R609). -/
theorem Core.setCsr_shadowOk {x : Core} (h : ShadowOk x.prod) (k n : Nat) (v : Word) : ShadowOk (x.setCsr k n v).prod := by
  unfold Core.setCsr
  split
  · exact (Core.writeCmp_prod ..).symm ▸ h
  split
  · split <;> exact h
  split
  · exact h
  split
  any_goals exact h
  · split <;> exact h
  · split
    · exact Core.showProduct_shadowOk x
    · exact h

/-! ### The whole chip -/

/-- The entries of some keys kept: the other keys have their default. -/
theorem sget_filter_key {α : Type} (d : Nat → α) (q : Nat → Bool) (k : Nat) :
    ∀ t : Sparse α, sget d (t.filter fun p => q p.1) k = if q k then sget d t k else d k
  | [] => (ite_self _).symm
  | (a, x) :: t => by
    have ih := sget_filter_key d q k t
    by_cases ha : q a
    · rw [List.filter_cons_of_pos (p := fun p : Nat × α => q p.1) ha, sget, sget, ih]
      by_cases hk : a = k
      · rw [if_pos hk, if_pos hk, if_pos (hk ▸ ha)]
      · rw [if_neg hk, if_neg hk]
    · rw [List.filter_cons_of_neg (p := fun p : Nat × α => q p.1) ha, ih, sget]
      by_cases hk : a = k
      · rw [if_neg (hk ▸ ha), if_neg (hk ▸ ha)]
      · rw [if_neg hk]

namespace ShadowsOk

theorem congr {p q : Nat → Option Product} (h : ShadowsOk p) (e : q = p) : ShadowsOk q := e ▸ h

theorem ite {p : Prop} [Decidable p] {a b : Nat → Option Product} (ha : ShadowsOk a) (hb : ShadowsOk b) :
    ShadowsOk (if p then a else b) := by
  split
  · exact ha
  · exact hb

theorem of_ite {p : Prop} [Decidable p] {a b : Chip} (ha : ShadowsOk a.prods) (hb : ShadowsOk b.prods) :
    ShadowsOk (if p then a else b).prods :=
  ite_prods p a b ▸ ite ha hb

theorem of_forAll {α : Type} {f : α → Chip → Chip} (h : ∀ a c, ShadowsOk c.prods → ShadowsOk (f a c).prods) (l : List α) {c : Chip}
    (hc : ShadowsOk c.prods) : ShadowsOk (forAll l f c).prods :=
  forAll_keeps (P := fun c => ShadowsOk c.prods) h l c hc

theorem of_foldl {α : Type} {f : Chip → α → Chip} (h : ∀ c a, ShadowsOk c.prods → ShadowsOk (f c a).prods) (l : List α) {c : Chip}
    (hc : ShadowsOk c.prods) : ShadowsOk (l.foldl f c).prods :=
  of_forAll (f := fun a c => f c a) (fun a c => h c a) l hc

/-- Cores taken out of the table are as after reset. -/
theorem of_filter {c : Chip} (h : ShadowsOk c.prods) (q : Nat → Bool) : ShadowsOk (coreProds (c.cores.filter fun p => q p.1)) := by
  refine ⟨fun k => ?_⟩
  rw [coreProds, sget_filter_key]
  split
  · exact h.core k
  · exact Core.reset_shadowOk k

end ShadowsOk

end Sys2Proof.Machine
end

section
/-! SUPPORT. The bound of the shadows under halts, resets, power and register writes (R54, R77, R546, R609). -/

namespace Sys2Proof.Machine

open ShadowsOk

variable {c : Chip} (h : ShadowsOk c.prods)
include h

/-! ### Debug sessions (R606 to R609) -/

theorem haltCore_shadowsOk (k causes hit : Nat) : ShadowsOk (haltCore k causes hit c).prods := by
  rw [haltCore, Chip.flag_prods]
  exact h.modCore fun _ hx => Core.halt_shadowOk hx causes hit

theorem resumeCore_shadowsOk (k : Nat) : ShadowsOk (resumeCore k c).prods := h.modCore fun _ hx => Core.resume_shadowOk hx

theorem endSession_shadowsOk : ShadowsOk (endSession c).prods := by
  simp only [endSession, ite_prods, Chip.flag_prods, prods_mk, coreProds_cores, Chip.setF_prods]
  refine ite h (of_forAll (fun k d hd => ?_) _ ?_)
  · exact hd.setCore (Core.resume_shadowOk (hd.core k))
  · rwa [sessionEntry_prods]

theorem endNetSession_shadowsOk : ShadowsOk (endNetSession c).prods := by
  rw [endNetSession, ite_prods]
  exact ite (endSession_shadowsOk h) h

/-! ### The Franking Unit's reset (R402) -/

/-- The FU reset starts core 62 afresh; the rest of it leaves every core alone. -/
theorem fuReset_shadowsOk (why : FuCause) : ShadowsOk (fuReset why c).prods := by
  have hs : ShadowsOk ((c.resetBlock 128 0x1A).setCore 62 (Core.reset 62)).prods :=
    setCore (h.congr (Chip.resetBlock_prods ..)) (Core.reset_shadowOk 62)
  cases why <;> simpa only [fuReset, Chip.modFu_prods, ite_prods, ite_self, finishBusy_prods, interruptPulses_prods, commitDoors_prods,
      Chip.setF_prods, forAll_prods, fuEventOf_prods, fuEvent_prods, commitShadows_prods, recover_prods, rebuild_prods, chooseImage_prods,
      Chip.modPulse_prods, endFuLevel_prods, implies_true] using hs

theorem opFwActivate_shadowsOk (s : Nat) : ShadowsOk (opFwActivate s c).prods := by
  simp only [opFwActivate, ite_prods, answerPlain_prods]
  refine ite h (ite h (fuReset_shadowsOk ?_ _))
  simpa only [Chip.modFu_prods, answerCommit_prods, fuCommit_prods, forAll_prods, burnSeal_prods, implies_true] using h

/-! ### Resets (R54, R546) -/

theorem unitsBefore_shadowsOk (cls : Nat) : ShadowsOk (unitsBefore cls c).prods := by
  simp only [unitsBefore, ite_prods, forAll_prods, freezeBank_prods, implies_true]
  exact ite (endSession_shadowsOk h) h

theorem stopCore_shadowsOk (k : Nat) : ShadowsOk (stopCore k c).prods := by
  simp only [stopCore, icuCoreReset_prods]
  refine setCore ?_ (Core.reset_shadowOk k)
  simpa only [ite_prods, prods_mk, coreProds_cores, Chip.setRegBit_prods, ite_self] using h

theorem unitReset_shadowsOk (u : Nat) : ShadowsOk (unitReset u c).prods := by
  have hstop {d : Chip} (hd : ShadowsOk d.prods) :
      ShadowsOk (match domainCore u with | some k => stopCore k d | none => d).prods := by
    split
    · exact stopCore_shadowsOk hd _
    · exact hd
  simp only [unitReset, prods_mk, coreProds_cores, ite_prods, blockReset_prods, forAll_prods, composerReset_prods, hornReset_prods,
      ite_self, implies_true]
  refine hstop ?_
  simpa only [ite_prods, Chip.writeBackAll_prods, Chip.writeBackSlice_prods, ite_self] using h

theorem doReset_shadowsOk (cls source : Nat) : ShadowsOk (doReset cls source c).prods := by
  simp only [doReset, Chip.journal_prods, prods_mk, coreProds_cores, Chip.accum_prods, Chip.setF_prods, ite_prods, Chip.modFu_prods,
      Chip.applyProfile_prods, unitsAfter_prods, Chip.wipeMain_prods, Chip.dramAfterReset_prods, ite_self]
  refine of_filter ?_ (Nat.ble 62 ·)
  simpa only [Chip.loadReplicas_prods, ite_prods, Chip.loseCaches_prods, ite_self] using unitsBefore_shadowsOk h cls

theorem bootStart_shadowsOk (cls : Nat) : ShadowsOk (bootStart cls c).prods := by
  simp only [bootStart, ite_prods]
  refine ite (haltCore_shadowsOk ?_ ..) ?_ <;> simpa only [prods_mk, coreProds_cores, startWatchdog0_prods, Chip.setF_prods] using h

theorem causeReset_shadowsOk (cls source : Nat) : ShadowsOk (causeReset cls source c).prods := by
  unfold causeReset
  split
  · simp only [ite_prods, prods_mk, coreProds_cores]
    exact ite (doReset_shadowsOk h ..) (bootStart_shadowsOk (doReset_shadowsOk h ..) _)
  · simp only [ite_prods, prods_mk, coreProds_cores, Chip.accum_prods]
    exact ite (doReset_shadowsOk h ..) h

theorem releaseReset_shadowsOk : ShadowsOk (releaseReset c).prods := by
  unfold releaseReset
  split
  · simp only [ite_prods]
    refine ite h (bootStart_shadowsOk ?_ _)
    simpa only [prods_mk, coreProds_cores] using h
  · exact h

theorem writeSysReset_shadowsOk (v : Word) : ShadowsOk (writeSysReset v c).prods := by
  simp only [writeSysReset, ite_prods, Chip.flag_prods]
  exact ite (causeReset_shadowsOk h ..) h

theorem writeSysUrst_shadowsOk (v : Word) : ShadowsOk (writeSysUrst v c).prods := by
  simp only [writeSysUrst, ite_prods, Chip.flag_prods]
  exact ite (unitReset_shadowsOk h _) h

theorem releaseCores_shadowsOk (key base n : Nat) (v : Word) : ShadowsOk (releaseCores key base n v c).prods := by
  refine of_forAll (fun i d hd => ?_) _ h
  simp only [ite_prods, Chip.flag_prods]
  refine ite hd (ite (setCore ?_ (Core.started_shadowOk _)) hd)
  rwa [Chip.setRegBit_prods]

theorem writeSysRun_shadowsOk (hi : Bool) (v : Word) : ShadowsOk (writeSysRun hi v c).prods := by
  simp only [writeSysRun, ite_prods]
  exact ite (releaseCores_shadowsOk h ..) (releaseCores_shadowsOk h ..)

theorem domainOn_shadowsOk (d : Nat) : ShadowsOk (domainOn d c).prods := by
  simp only [domainOn, forAll_prods, Chip.resetBlock_prods, implies_true]
  refine unitReset_shadowsOk ?_ d
  rwa [Chip.wipeDomain_prods]

theorem pdChange_shadowsOk {f : Chip → Chip} (hf : ShadowsOk (f c).prods) (d : Nat) (ok : Bool) : ShadowsOk (pdChange d ok f c).prods := by
  simp only [pdChange, ite_prods, Chip.flag_prods]
  exact ite hf h

theorem writePdCtl_shadowsOk (v : Word) : ShadowsOk (writePdCtl v c).prods := by
  unfold writePdCtl
  extract_lets d x c1 y c2 z
  have h1 : ShadowsOk c1.prods := of_ite (pdChange_shadowsOk h (h.congr (Chip.setDomain_prods ..)) ..) h
  have h2 : ShadowsOk c2.prods :=
    of_ite (pdChange_shadowsOk h1 ((h1.congr (Chip.loseDomain_prods ..)).congr (Chip.setDomain_prods ..)) ..)
      (of_ite (pdChange_shadowsOk h1 (domainOn_shadowsOk (h1.congr (Chip.setDomain_prods ..)) _) ..) h1)
  exact of_ite h (of_ite (h.congr (Chip.flag_prods ..))
    (of_ite (pdChange_shadowsOk h2 ((h2.congr (Chip.loadReplicas_prods ..)).congr (Chip.setDomain_prods ..)) ..) h2))

theorem mainOff_shadowsOk : ShadowsOk c.mainOff.prods := by
  simp only [Chip.mainOff, unitsAfter_prods, Chip.loadReplicas_prods, Chip.wipeMain_prods, prods_mk]
  exact of_filter (endSession_shadowsOk h) (Nat.ble 62 ·)

/-! ### Watchdogs (R515) -/

theorem wdtExpire_shadowsOk (w : Nat) : ShadowsOk (wdtExpire w c).prods := by
  simp only [wdtExpire, ite_prods, wdtLoad_prods]
  refine ite (causeReset_shadowsOk ?_ ..) (ite (unitReset_shadowsOk ?_ _) ?_) <;> rwa [Chip.flag_prods]

theorem writeWdtKick_shadowsOk (o w : Nat) (v : Word) : ShadowsOk (writeWdtKick o w v c).prods := by
  simp only [writeWdtKick, ite_prods, wdtLoad_prods, prods_mk, coreProds_cores, Chip.flag_prods]
  refine ite h (ite h (ite (wdtExpire_shadowsOk ?_ _) h))
  simpa only [Chip.flag_prods, prods_mk, coreProds_cores] using h

theorem wdtTick_shadowsOk (w : Nat) : ShadowsOk (wdtTick w c).prods := by
  simp only [wdtTick, ite_prods, wdtCheckWarn_prods, Chip.setReg_prods, prods_mk, coreProds_cores]
  refine ite h (ite h (ite (ite h (ite (wdtExpire_shadowsOk ?_ _) h)) h))
  simpa only [wdtCheckWarn_prods, Chip.setReg_prods, prods_mk, coreProds_cores] using h

end Sys2Proof.Machine
end

section
/-! SUPPORT. The bound of the shadows under every register write and every store (R77). -/

namespace Sys2Proof.Machine

open ShadowsOk

variable {c : Chip} (h : ShadowsOk c.prods)
include h

/-! ### Register writes -/

theorem writeLow_shadowsOk (o k : Nat) (v : Word) : ShadowsOk (writeLow o k v c).prods := by
  unfold writeLow
  refine of_ite (writeSysReset_shadowsOk h v) (of_ite (h.congr (writeExpert_prods ..)) (of_ite (h.congr (writeBoot_prods ..))
    (of_ite (writePdCtl_shadowsOk h v) (of_ite (writeSysUrst_shadowsOk h v) (of_ite (writeSysRun_shadowsOk h false v) (of_ite
        (writeSysRun_shadowsOk h true v)
    (of_ite (h.congr (writeFuseCmd_prods ..)) (of_ite (h.congr (writeIcuCfg_prods ..)) (of_ite (h.congr (writeEoi_prods ..))
    (of_ite (h.congr (writeIcuSwi_prods ..)) (of_ite (h.congr (writeIcuSset_prods ..)) (of_ite (h.congr (writeXgstart_prods ..))
        ?_))))))))))))
  split
  · split
    · exact h.congr (writeTmrCs_prods ..)
    · exact h.congr (writeXcmp_prods ..)
    · exact h.congr (writeXcfg_prods ..)
    · exact h.congr (plainWrite_prods ..)
  · extract_lets w
    split
    · exact h.congr (writeWdtCtl_prods ..)
    · exact h.congr (writeWdtLocked_prods ..)
    · exact writeWdtKick_shadowsOk h ..
    · exact h.congr (writeWdtLocked_prods ..)
    · exact h.congr (plainWrite_prods ..)
  · extract_lets b
    refine of_ite ?_ (h.congr (plainWrite_prods ..))
    split
    · exact h.congr (writeGpioOut_prods ..)
    · exact h.congr (writeGpioSet_prods ..)
    · exact h.congr (writeGpioClr_prods ..)
    · exact h.congr (writeGpioOe_prods ..)
    · exact h.congr (writeGpioCfg_prods ..)
    · exact h.congr (plainWrite_prods ..)
  · split
    · exact h.congr (writePmux_prods ..)
    · exact h.congr (plainWrite_prods ..)
  · exact h.congr (plainWrite_prods ..)

theorem writeResume_shadowsOk (hi : Bool) (v : Word) : ShadowsOk (writeResume hi v c).prods := by
  refine of_forAll (fun i d hd => ?_) _ h
  exact of_ite (resumeCore_shadowsOk hd _) hd

theorem writeStep_shadowsOk (v : Word) : ShadowsOk (writeStep v c).prods :=
  of_ite ((resumeCore_shadowsOk h _).setCore ((resumeCore_shadowsOk h _).core _)) h

theorem writeDbg_shadowsOk (o k : Nat) (v : Word) : ShadowsOk (writeDbg o k v c).prods :=
  of_ite (h.congr (plainWrite_prods ..)) (of_ite h (of_ite (h.congr (writeHalt_prods ..)) (of_ite (h.congr (writeHalt_prods ..))
    (of_ite (writeResume_shadowsOk h ..) (of_ite (writeResume_shadowsOk h ..) (of_ite (writeStep_shadowsOk h v)
    (of_ite (h.setCore (h.core _)) (of_ite (h.congr (plainWrite_prods ..)) (h.congr (plainWrite_prods ..))))))))))

theorem writeHigh_shadowsOk (o k : Nat) (v : Word) : ShadowsOk (writeHigh o k v c).prods := by
  unfold writeHigh
  refine of_ite (h.congr (writePcieCtl_prods ..)) (of_ite (h.congr (writeStorCtl_prods ..)) (of_ite (h.congr (writeBlkCnt_prods ..))
    (of_ite (h.congr (writeQcmd_prods ..)) (of_ite (h.congr (writeQdata_prods ..)) (of_ite (h.congr (writeZowCtl_prods ..))
    (of_ite (h.congr (writeZowCmd_prods ..)) (of_ite (h.congr (writeSnapPost_prods ..)) (of_ite (h.congr (writePoboxSel_prods ..))
    (of_ite (h.congr (writePoboxCmd_prods ..)) (of_ite (h.congr (writeXforce_prods ..)) (of_ite (h.congr (writeXinj_prods ..))
    (of_ite (h.congr (writeSwgo_prods ..)) (of_ite (h.congr (writeSensEvt_prods ..)) (of_ite (writeDbg_shadowsOk h o k v) ?_))))))))))))))
  split
  · exact h.congr (writeZowWin_prods ..)
  · exact h.congr (writePoboxData_prods ..)
  · exact h.congr (plainWrite_prods ..)

theorem writeReg_shadowsOk (o k : Nat) (v : Word) : ShadowsOk (writeReg o k v c).prods :=
  of_ite h (of_ite (writeLow_shadowsOk h ..) (of_ite (h.congr (writeMid_prods ..)) (of_ite (h.congr (writeSound_prods ..))
      (writeHigh_shadowsOk h ..))))

/-! ### Stores -/

/-- A store on the bus: in memory it leaves every product alone, and in a block it writes a register. -/
theorem busStore_shadowsOk (o pa : Nat) (bs : List Byte) : ShadowsOk (busStore o pa bs c).2.prods := by
  unfold busStore
  generalize c.region o pa = r
  rw [ite_snd]
  refine of_ite h ?_
  cases r
  case block b =>
    rw [ite_snd]
    exact of_ite (writeReg_shadowsOk h ..) h
  case fuDevice =>
    rw [ite_snd]
    exact of_ite (h.congr (writeFuReg_prods ..)) h
  case fuFuse => exact h.congr (burnSealWord_prods ..)
  case dram =>
    rw [ite_snd]
    exact of_ite h (h.congr (Chip.memStore_prods ..))
  case pattern | audio | palette | sorterRam | hornRam => exact h.congr (Chip.memStore_prods ..)
  case fuSram | keepBank | notice | fuPobox | pmRam => exact h.congr (Chip.storeChunks_prods ..)
  case pmDevice | pcieWindow | rom | fuRom | pmRom | unassigned => exact h

theorem busStore_shadowsOk_of_eq {o pa : Nat} {bs : List Byte} {err : Bool} {d : Chip} (e : busStore o pa bs c = (err,
    d)) : ShadowsOk d.prods := by
  have hs := busStore_shadowsOk h o pa bs
  rwa [e] at hs

theorem busPoison_shadowsOk (o pa : Nat) (bs : List Byte) : ShadowsOk (busPoison o pa bs c).2.prods := by
  unfold busPoison
  generalize c.region o pa = r
  split
  case h_1 e => exact busStore_shadowsOk_of_eq h e
  case h_2 e =>
    have hd := busStore_shadowsOk_of_eq h e
    refine hd.congr ?_
    cases r <;> simp only [forAll_prods, Chip.markPoison_prods, implies_true]

theorem writeCmd_shadowsOk (o k : Nat) (v : Word) : ShadowsOk (writeCmd o k v c).prods := by
  unfold writeCmd
  split
  case h_1 e => exact (busStore_shadowsOk_of_eq h e).congr (Chip.answerTo_prods ..)
  case h_2 e => exact busStore_shadowsOk_of_eq h e

theorem storePiece_shadowsOk (k : Nat) (va : Word) (p : Phys) (bs : List Byte) : ShadowsOk (storePiece k va p bs c).2.prods := by
  have hfill (d : Chip) : (if p.cached && d.reachable k p.pa (d.region k p.pa) && !d.deadDram .dram p.pa then d.fillLine p.pa else d).prods
      = d.prods := by
    rw [ite_prods, Chip.fillLine_prods, ite_self]
  unfold storePiece
  simp only [ite_snd]
  refine of_ite (h.congr (sbufStore_prods ..)) (of_ite ?_ (busStore_shadowsOk ?_ ..))
  · simpa only [ite_prods, ackDevice_prods, drainBefore_prods, ite_self] using h
  · simpa only [ite_prods, ackDevice_prods, drainBefore_prods, Chip.fillLine_prods, ite_self] using h

theorem storePieces_shadowsOk (k : Nat) (va : Word) (l : List (Phys × Nat)) (bs : List Byte) : ShadowsOk (storePieces k va l bs c).2.prods
    := by
  induction l generalizing va bs c with
  | nil => exact h
  | cons p t ih => exact ih (storePiece_shadowsOk h ..) ..

theorem finishStore_shadowsOk (k : Nat) (ea : Word) (ps : List (Phys × Nat)) (bs : List Byte) : ShadowsOk (finishStore k ea ps bs
    c).2.prods := by
  unfold finishStore
  split
  case h_1 posts d e =>
    have hd : ShadowsOk d.prods := (storePieces_shadowsOk h k ea ps bs).congr (by rw [e])
    rw [ite_snd]
    refine of_ite hd ?_
    extract_lets d1 d2
    have h1 : ShadowsOk d1.prods := by
      refine hd.modCore fun x hx => ?_
      split
      · split <;> exact hx
      · exact hx
    have h2 : ShadowsOk d2.prods := h1.congr (retireAccess_prods ..)
    exact of_ite h2 (h2.setCore (h2.core _))

end Sys2Proof.Machine
end

section
/-! SUPPORT. The bound of the shadows under a core's instructions (R77, R86, R114): an instruction's operation may leave 13 positions, of
which its own completion passes one. -/

namespace Sys2Proof.Machine

open ShadowsOk

/-! ### Points between instructions -/

section
variable {c : Chip} (h : ShadowsOk c.prods)
include h

theorem endStep_shadowsOk (k : Nat) : ShadowsOk (endStep k c).prods := by
  rcases endStep_cases k c with e | ⟨causes, hit, e⟩
  · exact h.congr (congrArg Chip.prods e)
  · exact (haltCore_shadowsOk h k causes hit).congr (congrArg Chip.prods e)

theorem reportBusError_shadowsOk (k : Nat) : ShadowsOk (reportBusError k c).prods := by
  unfold reportBusError
  extract_lets x
  split
  · exact endStep_shadowsOk (h.setCore (Core.enter_shadowOk _ _ _ _ _)) k
  · exact h

theorem enterInterrupt_shadowsOk (k : Nat) : ShadowsOk (enterInterrupt k c).prods := by
  unfold enterInterrupt
  extract_lets x d
  have hd : ShadowsOk d.prods := (h.setCore (x := x.enter 0x10 0 x.pc none) (Core.enter_shadowOk _ _ _ _ _)).congr
      (Chip.interruptEntered_prods ..)
  exact of_ite (haltCore_shadowsOk hd ..) hd

theorem pointEvent_shadowsOk (k : Nat) {d : Chip} (e : pointEvent k c = some d) : ShadowsOk d.prods := by
  unfold pointEvent at e
  extract_lets x at e
  split at e
  · cases e
  split at e
  · cases e
    exact haltCore_shadowsOk h ..
  split at e
  · cases e
    exact reportBusError_shadowsOk h k
  split at e
  · cases e
    exact enterInterrupt_shadowsOk h k
  · cases e

theorem takeDue_shadowsOk (k : Nat) : ShadowsOk (takeDue k c).prods := by
  refine of_ite ?_ h
  cases e : pointEvent k c with
  | none => exact h
  | some d => exact pointEvent_shadowsOk h k e

theorem advance_shadowsOk (k : Nat) : ShadowsOk (c.modCore k (Core.advance k)).prods := by
  refine h.modCore fun x hx => ?_
  rw [Core.advance_prod]
  exact Core.passPosition_shadowOk fun p hp => (hx p hp).trans (by decide)

theorem wakeCore_shadowsOk (k : Nat) : ShadowsOk (wakeCore k c).prods := by
  refine of_ite (endStep_shadowsOk (h.setCore ?_) k) h
  rw [Core.advance_prod]
  exact Core.passPosition_shadowOk fun p hp => (h.core k p hp).trans (by decide)

end

/-! ### The result of an operation -/

/-- The bound while an instruction of core `k` runs: one position more, which its completion passes. -/
def RunsOk (k : Nat) (p : Nat → Option Product) : Prop := ∀ j q, p j = some q → q.left ≤ if j = k then 13 else 12

/-- What an operation on core `k` may leave: 13 positions where the instruction is complete, 12 otherwise. -/
def Res.Ok (k : Nat) : Res → Prop
  | .done c => RunsOk k c.prods
  | r => ShadowsOk r.chip.prods

theorem ShadowsOk.runs {p : Nat → Option Product} (h : ShadowsOk p) (k : Nat) : RunsOk k p := by
  intro j q hq
  have := h.core j q hq
  split <;> omega

theorem RunsOk.advance {c : Chip} {k : Nat} (h : RunsOk k c.prods) : ShadowsOk (c.modCore k (Core.advance k)).prods := by
  refine ⟨fun j => ?_⟩
  rw [Chip.modCore, prods_setCore]
  split
  case isTrue hj =>
    rw [Core.advance_prod]
    exact Core.passPosition_shadowOk fun p hp => (h k p hp).trans (by simp)
  case isFalse hj => exact fun q hq => (h j q hq).trans (by simp [hj])

/-- An operation that keeps every bound is within what it may leave. -/
theorem Res.ok_of_chip {r : Res} (h : ShadowsOk r.chip.prods) (k : Nat) : r.Ok k := by
  cases r with
  | done c => exact h.runs k
  | _ => exact h

theorem settle_shadowsOk {k : Nat} {r : Res} (h : r.Ok k) : ShadowsOk (settle k r).prods := by
  cases r with
  | done c => exact endStep_shadowsOk h.advance k
  | trap c cause addr => exact endStep_shadowsOk (ShadowsOk.modCore h fun _ _ => Core.trap_shadowOk _ _ _) k
  | stop c hit => exact haltCore_shadowsOk h ..
  | branch c t a n =>
    refine ShadowsOk.modCore h fun x hx => ?_
    rw [Core.branch_prod]
    exact Core.passPosition_shadowOk fun p hp => (hx p hp).trans (by decide)
  | jumped c => exact endStep_shadowsOk (h.congr (modCore_prods (Core.retire_prod k) ..)) k
  | syscall c code => exact endStep_shadowsOk (ShadowsOk.modCore h fun _ _ => Core.enter_shadowOk _ _ _ _ _) k
  | hold c => exact h

theorem breakpointTrap_ok {k : Nat} {r : Res} {c : Chip} (hr : r.Ok k) (hc : ShadowsOk c.prods) (a : Word) : (breakpointTrap a r c).Ok k :=
    by
  cases r with
  | trap => exact hr
  | syscall => exact hr
  | _ => exact hc

theorem trainWith_ok {k : Nat} {r : Res} (h : r.Ok k) (cond : BitVec 4) : (trainWith k cond r).Ok k := by
  cases r with
  | branch c t a n => exact Res.ok_of_chip (ShadowsOk.congr h (trainWith_prods k cond (.branch c t a n))) k
  | _ => exact h

/-- The operations of instructions on core `k`: they keep the bound, up to the position that completion passes. -/
def BodyOk (k : Nat) (body : Chip → Res) : Prop := ∀ c, ShadowsOk c.prods → (body c).Ok k

theorem bodyOk_of_prods {body : Chip → Res} (h : ∀ c, (body c).chip.prods = c.prods) (k : Nat) : BodyOk k body :=
  fun c hc => Res.ok_of_chip (hc.congr (h c)) k

theorem bodyOk_of_chip {k : Nat} {body : Chip → Res} (h : ∀ c, ShadowsOk c.prods → ShadowsOk (body c).chip.prods) : BodyOk k body :=
  fun c hc => Res.ok_of_chip (h c hc) k

theorem operate_bodyOk {k : Nat} {op : Chip → Res} (h : BodyOk k op) (cond : BitVec 4) (d : Decoded) : BodyOk k (operate k cond d op) := by
  intro c hc
  unfold operate
  extract_lets x
  split
  · exact hc.runs k
  split
  · split
    · exact hc
    · exact hc.runs k
  split
  · exact hc.runs k
  split
  · exact hc
  · exact h c hc

theorem operateBranch_bodyOk {k : Nat} {op : Chip → Res} (h : BodyOk k op) (cond : BitVec 4) (annul : Bool) (d : Decoded) :
    BodyOk k (operateBranch k cond annul d op) := by
  intro c hc
  unfold operateBranch
  extract_lets x
  split
  · exact hc.runs k
  split
  · exact hc
  · refine trainWith_ok ?_ cond
    split
    · exact h c hc
    · exact hc

/-! ### One instruction -/

theorem perform_shadowsOk {k : Nat} {body : Chip → Res} (hb : BodyOk k body) (branch : Bool) {c : Chip} (h : ShadowsOk c.prods) :
    ShadowsOk (perform k branch body c).prods := by
  have hr : ShadowsOk (c.modCore k Core.ripen).prods := h.modCore fun _ hx => Core.ripen_shadowOk hx
  unfold perform
  split
  case h_1 e => exact settle_shadowsOk (Res.ok_of_chip (hr.congr (prods_of_eq e (fetchFault_prods ..))) k)
  case h_2 e =>
    have hf := hr.congr (prods_of_eq e (fetchFault_prods ..))
    split
    case h_1 e => exact settle_shadowsOk (Res.ok_of_chip (hf.congr (prods_of_eq e (fireBreak_prods ..))) k)
    case h_2 e =>
      have hd := hf.congr (prods_of_eq e (fireBreak_prods ..))
      exact settle_shadowsOk (breakpointTrap_ok (hb _ hd) hd _)
    case h_3 e => exact settle_shadowsOk (hb _ (hf.congr (prods_of_eq e (fireBreak_prods ..))))

theorem runAt_shadowsOk {k : Nat} {body : Chip → Res} (hb : BodyOk k body) (branch : Bool) {c : Chip} (h : ShadowsOk c.prods) :
    ShadowsOk (runAt k branch body c).prods := by
  refine of_ite h ?_
  split
  case h_1 e => exact pointEvent_shadowsOk h k e
  case h_2 =>
    rw [pmcIrq_prods]
    exact of_ite (endStep_shadowsOk (advance_shadowsOk h k) k) (perform_shadowsOk hb branch h)

end Sys2Proof.Machine
end

section
/-! SUPPORT. The bound of the shadows under the operations of single instructions: products, stores, control registers, the DSP's stores
(R75 to R79, R81, R95, R115, R121, R367). -/

namespace Sys2Proof.Machine

open ShadowsOk

/-! ### Products (R75, R77) -/

/-- A change of one core that leaves at most 13 positions. -/
theorem onCore_bodyOk {k : Nat} {f : Core → Core} (h : ∀ x, ShadowOk x.prod → ∀ p,
    (f x).prod = some p → p.left ≤ 13) : BodyOk k (onCore k f) := by
  intro c hc j q hq
  change (c.setCore k (f (c.core k))).prods j = some q at hq
  rw [prods_setCore] at hq
  split at hq
  case isTrue hj => exact (h _ (hc.core k) q hq).trans (by simp [hj])
  case isFalse hj => exact (hc.core j q hq).trans (by simp [hj])

/-- A product instruction leaves its shadow and the position of the instruction itself. -/
theorem product_bodyOk (k ra rb : Nat) {shadow : Nat} (hs : shadow ≤ 12) (f : DWord → Word → Word → DWord) :
    BodyOk k (product k ra rb shadow f) := by
  refine onCore_bodyOk fun x _ => ?_
  rintro _ ⟨⟩
  exact Nat.succ_le_succ hs

theorem bodyMul_bodyOk (k : Nat) (ra rb : BitVec 5) : BodyOk k (bodyMul k ra rb) := product_bodyOk k _ _ (shadow := 2) (by decide) _
theorem bodyMulu_bodyOk (k : Nat) (ra rb : BitVec 5) : BodyOk k (bodyMulu k ra rb) := product_bodyOk k _ _ (shadow := 2) (by decide) _
theorem bodyMac_bodyOk (k : Nat) (ra rb : BitVec 5) : BodyOk k (bodyMac k ra rb) := product_bodyOk k _ _ (shadow := 2) (by decide) _
theorem bodyMacu_bodyOk (k : Nat) (ra rb : BitVec 5) : BodyOk k (bodyMacu k ra rb) := product_bodyOk k _ _ (shadow := 2) (by decide) _
theorem bodyMsu_bodyOk (k : Nat) (ra rb : BitVec 5) : BodyOk k (bodyMsu k ra rb) := product_bodyOk k _ _ (shadow := 2) (by decide) _
theorem bodyDiv_bodyOk (k : Nat) (ra rb : BitVec 5) : BodyOk k (bodyDiv k ra rb) := product_bodyOk k _ _ (shadow := 12) (by decide) _
theorem bodyDivu_bodyOk (k : Nat) (ra rb : BitVec 5) : BodyOk k (bodyDivu k ra rb) := product_bodyOk k _ _ (shadow := 12) (by decide) _

theorem onCore_shadowsOk {k : Nat} {f : Core → Core} {c : Chip} (h : ShadowsOk c.prods) (hf : ∀ x, ShadowOk x.prod → ShadowOk (f x).prod) :
    ShadowsOk (onCore k f c).chip.prods :=
  h.modCore hf

section
variable {c : Chip} (h : ShadowsOk c.prods)
include h

theorem bodyMtpl_shadowsOk (k : Nat) (ra : BitVec 5) : ShadowsOk (bodyMtpl k ra c).chip.prods :=
  onCore_shadowsOk h fun x _ => x.showProduct_shadowOk

theorem bodyMtph_shadowsOk (k : Nat) (ra : BitVec 5) : ShadowsOk (bodyMtph k ra c).chip.prods :=
  onCore_shadowsOk h fun x _ => x.showProduct_shadowOk

/-! ### Control registers and ERET (R115, R121) -/

theorem bodyCsrw_shadowsOk (k : Nat) (ga : BitVec 5) (csr : BitVec 10) : ShadowsOk (bodyCsrw k ga csr c).chip.prods :=
  onCore_shadowsOk h fun _ hx => Core.setCsr_shadowOk hx _ _ _

theorem bodyCsrs_shadowsOk (k : Nat) (ga : BitVec 5) (csr : BitVec 10) : ShadowsOk (bodyCsrs k ga csr c).chip.prods :=
  onCore_shadowsOk h fun _ hx => Core.setCsr_shadowOk hx _ _ _

theorem bodyCsrc_shadowsOk (k : Nat) (ga : BitVec 5) (csr : BitVec 10) : ShadowsOk (bodyCsrc k ga csr c).chip.prods :=
  onCore_shadowsOk h fun _ hx => Core.setCsr_shadowOk hx _ _ _

theorem bodyEret_shadowsOk (k : Nat) : ShadowsOk (bodyEret k c).chip.prods := h.modCore fun x _ => x.eret_shadowOk

end

/-! ### Stores (R81, R84, R95) -/

theorem watchedWrite_chip_shadowsOk {f : Fired × Chip} {write : Chip → Res} (hf : ShadowsOk f.2.prods)
    (hw : ∀ c, ShadowsOk c.prods → ShadowsOk (write c).chip.prods) : ShadowsOk (watchedWrite f write).chip.prods := by
  unfold watchedWrite
  split
  · exact hf
  · exact hf
  · exact hw _ hf

section
variable {c : Chip} (h : ShadowsOk c.prods)
include h

theorem storePlaced_shadowsOk {f : Core → Core} (hf : ∀ x, (f x).prod = x.prod) (k n : Nat) (ea : Word) (ps : List (Phys × Nat)) (v : Nat) :
    ShadowsOk (storePlaced k n ea ps v f c).chip.prods := by
  unfold storePlaced
  split
  · exact h
  · refine watchedWrite_chip_shadowsOk (h.congr (fireWatch_prods ..)) fun d hd => ?_
    have hs := finishStore_shadowsOk hd k ea ps (leBytes n v)
    split
    case h_1 e => rwa [e] at hs
    case h_2 e =>
      rw [e] at hs
      exact hs.congr (modCore_prods hf ..)

theorem storeBody_shadowsOk {f : Core → Core} (hf : ∀ x, (f x).prod = x.prod) (k n : Nat) (locked : Bool) (ea : Word) (v : Nat) :
    ShadowsOk (storeBody k n locked ea v f c).chip.prods := by
  unfold storeBody
  split
  case h_1 e => exact h.congr (prods_of_eq e (checkAccess_prods ..))
  case h_2 e => exact storePlaced_shadowsOk (h.congr (prods_of_eq e (checkAccess_prods ..))) hf ..

theorem storeFrom_shadowsOk (k n : Nat) (rd : BitVec 5) (ea : Word) : ShadowsOk (storeFrom k n rd ea c).chip.prods :=
  storeBody_shadowsOk h (fun _ => rfl) ..

theorem shortStore_shadowsOk (k n : Nat) (rd : BitVec 5) (a : BitVec 16) : ShadowsOk (shortStore k n rd a c).chip.prods := by
  unfold shortStore
  split
  · exact storePlaced_shadowsOk h (fun _ => rfl) ..
  · exact storeFrom_shadowsOk h ..

theorem bodySc_shadowsOk (k : Nat) (rd ra : BitVec 5) (qd : BitVec 3) (off : BitVec 9) : ShadowsOk (bodySc k rd ra qd off c).chip.prods :=
    by
  unfold bodySc
  extract_lets x ea report
  have hreport (b : Bool) (y : Core) : (report b y).prod = y.prod := rfl
  rw [ite_chip]
  refine of_ite (storeBody_shadowsOk ?_ (hreport true) k 4 true ea _) ?_
  · exact of_ite (h.congr (drainAll_prods ..)) h
  split
  case h_1 e => exact h.congr (prods_of_eq e (checkAccess_prods ..))
  case h_2 e => exact (h.congr (prods_of_eq e (checkAccess_prods ..))).congr (modCore_prods (hreport false) ..)

/-! ### The DSP's stores (R365, R367, R371) -/

theorem storeLanes_shadowsOk (k pa : Nat) (l : List Lane) : ShadowsOk (storeLanes k pa l c).2.prods := by
  unfold storeLanes
  extract_lets r
  split
  case h_1 e => exact busStore_shadowsOk_of_eq h e
  case h_2 e =>
    refine (busStore_shadowsOk_of_eq h e).congr (forAll_prods (fun x d => ?_) ..)
    rw [ite_prods, Chip.poisonRecord_prods, Chip.markPoison_prods, ite_self]

theorem ownStore_shadowsOk (k pa : Nat) (l : List Lane) : ShadowsOk (ownStore k pa l c).prods := by
  unfold ownStore
  extract_lets r d
  refine (busStore_shadowsOk h k pa _).congr (forAll_prods (fun x d => ?_) ..)
  rw [ite_prods, Chip.markPoison_prods, ite_self]

theorem bodyVst_shadowsOk (k : Nat) (a ga : BitVec 5) : ShadowsOk (bodyVst k a ga c).chip.prods := by
  unfold bodyVst
  extract_lets ea
  split
  case h_1 e => exact h.congr (prods_of_eq e (cp2Places_prods ..))
  case h_2 e =>
    have hc := h.congr (prods_of_eq e (cp2Places_prods ..))
    split
    · exact hc
    · refine watchedWrite_chip_shadowsOk (hc.congr (fireWatch_prods ..)) fun d hd => of_foldl (fun d p hd => ?_) _ hd
      split
      case h_1 e =>
        have hl := storeLanes_shadowsOk (hd.congr (cp2Ready_prods k true p d)) k p.pa (d.lanesOf k a.toNat)
        rw [e] at hl
        exact of_ite hl (hl.setCore (hl.core _))

theorem bodyVbiq_shadowsOk (k : Nat) (d a gb : BitVec 5) : ShadowsOk (bodyVbiq k d a gb c).chip.prods := by
  unfold bodyVbiq
  split
  case h_1 e => exact h.congr (ownPlace_error e)
  case h_2 e =>
    simp only [done_chip, Chip.setLanes_prods]
    refine ownStore_shadowsOk (h.congr ?_) ..
    rw [ownWords_prods]
    exact prods_of_eq e (ownPlace_prods ..)

theorem bodyVgen_shadowsOk (k : Nat) (d ga : BitVec 5) : ShadowsOk (bodyVgen k d ga c).chip.prods := by
  unfold bodyVgen
  split
  case h_1 e => exact h.congr (ownPlace_error e)
  case h_2 e =>
    have h0 := h.congr (prods_of_eq e (ownPlace_prods ..))
    split
    next e =>
    have h1 := h0.congr (prods_of_eq e (ownWords_prods ..))
    extract_lets base w0 table fm
    split
    next e =>
    have h2 := h1.congr (prods_of_eq e (of_ite_snd (ownWords_prods ..) rfl))
    split
    next e =>
    have h3 := h2.congr (prods_of_eq e (of_ite_snd (foldl_snd_prods (fun a _ => by exact Chip.freeWord_prods a.2) ..) rfl))
    extract_lets v was
    split
    · rwa [done_chip, Chip.setLanes_prods]
    split
    next e =>
    have h4 := h3.congr (prods_of_eq e (voiceRun_prods ..))
    extract_lets c1 c2 c3 dom vrec c4
    have h5 : ShadowsOk c1.prods := of_ite (ownStore_shadowsOk h4 ..) h4
    have h6 : ShadowsOk c2.prods := ownStore_shadowsOk h5 ..
    have h7 : ShadowsOk c3.prods := of_ite (ownStore_shadowsOk h6 ..) h6
    have h8 : ShadowsOk c4.prods := of_ite (h7.congr (voiceEnded_prods ..)) h7
    rwa [done_chip, Chip.setLanes_prods]

end

end Sys2Proof.Machine
end

section
/-! SUPPORT. The bound of the shadows under a fed word (R611, R612): a fed product is visible to the next fed word. -/

namespace Sys2Proof.Machine

open ShadowsOk

/-! ### The operation of a fed word -/

theorem fedAlu_chip_prods (k : Nat) (w : Word) (c : Chip) : ((fedAlu k w).op c).chip.prods = c.prods := by
  unfold fedAlu
  split <;> simp only [fedOk, fedBad, done_chip, bodyAdd_prods, bodySub_prods, bodyAnd_prods, bodyOr_prods, bodyXor_prods, bodyAndn_prods,
      bodyNor_prods, bodySll_prods, bodySrl_prods, bodySra_prods, bodyRor_prods, bodyMin_prods, bodyMax_prods, bodyMinu_prods,
      bodyMaxu_prods, bodyClz_prods, bodyPopc_prods, bodySexb_prods, bodySexh_prods, bodyZexh_prods, bodyBswap_prods, bodyMfq_prods,
      bodyMtq_prods]

theorem fedLane_chip_prods (k : Nat) (w : Word) (c : Chip) : ((fedLane k w).op c).chip.prods = c.prods := by
  unfold fedLane
  split <;> simp only [fedOk, fedBad, done_chip, bodyAddb_prods, bodySubb_prods, bodyAddusb_prods, bodySubusb_prods, bodyMinub_prods,
      bodyMaxub_prods, bodyAvgub_prods, bodyCmpeqb_prods, bodyCmpgtub_prods, bodySadub_prods]

theorem fedFence_chip_prods (k : Nat) (w : Word) (c : Chip) : ((fedFence k w).op c).chip.prods = c.prods := by
  unfold fedFence
  split <;> simp only [fedOk, fedBad, done_chip, bodyFenceS_prods, bodyFenceF_prods, bodyFenceIo_prods, bodyIsync_prods]

theorem fedCp1_chip_prods (k : Nat) (w : Word) (c : Chip) : ((fedCp1 k w).op c).chip.prods = c.prods := by
  unfold fedCp1
  split <;> simp only [fedBad, done_chip, bodyLstat_prods, bodyLdead_prods, bodyMtx_prods, bodyMfx_prods, bodyLset_prods, bodyLget_prods,
      bodyLgetr_prods, bodyLput_prods, bodyLclose_prods, bodyLdraw_prods, bodyLend_prods]

theorem fedCp0_chip_shadowsOk (k : Nat) (w : Word) {c : Chip} (h : ShadowsOk c.prods) : ShadowsOk ((fedCp0 k w).op c).chip.prods := by
  unfold fedCp0
  split
  case h_2 => exact bodyCsrw_shadowsOk h ..
  case h_3 => exact bodyCsrs_shadowsOk h ..
  case h_4 => exact bodyCsrc_shadowsOk h ..
  all_goals simpa only [fedBad, done_chip, bodyCsrr_prods, bodyRegsync_prods, bodyCline_prods, bodyRdpm_prods] using h

theorem fedCp2_chip_shadowsOk (k : Nat) (w : Word) {c : Chip} (h : ShadowsOk c.prods) : ShadowsOk ((fedCp2 k w).op c).chip.prods := by
  unfold fedCp2
  extract_lets d a b m n z mk
  split
  case h_20 => exact bodyVst_shadowsOk h ..
  case h_23 => exact bodyVbiq_shadowsOk h ..
  case h_24 => exact bodyVgen_shadowsOk h ..
  all_goals simpa only [mk, fedBad, done_chip, bodyVadd_prods, bodyVsub_prods, bodyVmul_prods, bodyVmac_prods, bodyVminmax_prods,
      bodyVunary_prods, bodyVdiv_prods, bodyVcvtf_prods, bodyVcvti_prods, bodyViadd_prods, bodyVlogic_prods, bodyVshi_prods,
      bodyVcmp_prods, bodyVsel_prods, bodyVbcast_prods, bodyVins_prods, bodyVext_prods, bodyVtrn_prods, bodyVld_prods, bodyVgath_prods,
      bodyVsin_prods, bodyDyn_prods, bodySstat_prods, bodySout_prods, bodySin_prods, bodySend_prods] using h

/-- Words of the product group that are no product: the registers of the pair moved. -/
theorem fedProduct_chip_shadowsOk (k : Nat) {w : Word} (hw : Nat.blt (w.bits 6 0) 0x10 = false) {c : Chip} (h : ShadowsOk c.prods) :
    ShadowsOk ((fedProduct k w).op c).chip.prods := by
  unfold fedProduct
  split
  case h_1 e | h_2 e | h_3 e | h_4 e | h_5 e | h_6 e | h_7 e => exact absurd hw (by rw [e]; decide)
  case h_8 => exact h.congr (bodyMfpl_prods ..)
  case h_9 => exact h.congr (bodyMfph_prods ..)
  case h_10 => exact bodyMtpl_shadowsOk h ..
  case h_11 => exact bodyMtph_shadowsOk h ..
  case h_12 => exact h

theorem fedProduct_bodyOk (k : Nat) (w : Word) : BodyOk k (fedProduct k w).op := by
  unfold fedProduct
  split
  case h_1 => exact bodyMul_bodyOk _ _ _
  case h_2 => exact bodyMulu_bodyOk _ _ _
  case h_3 => exact bodyMac_bodyOk _ _ _
  case h_4 => exact bodyMacu_bodyOk _ _ _
  case h_5 => exact bodyMsu_bodyOk _ _ _
  case h_6 => exact bodyDiv_bodyOk _ _ _
  case h_7 => exact bodyDivu_bodyOk _ _ _
  case h_8 => exact bodyOk_of_prods (bodyMfpl_prods k _) k
  case h_9 => exact bodyOk_of_prods (bodyMfph_prods k _) k
  case h_10 => exact bodyOk_of_chip fun _ h => bodyMtpl_shadowsOk h ..
  case h_11 => exact bodyOk_of_chip fun _ h => bodyMtph_shadowsOk h ..
  case h_12 => exact fun _ h => h.runs k

/-- A fed word that is no product keeps every bound. -/
theorem fedDecode_chip_shadowsOk (k : Nat) {w : Word} (hw : (w.bits 27 22 == 2 && Nat.blt (w.bits 6 0) 0x10) = false) {c : Chip}
    (h : ShadowsOk c.prods) : ShadowsOk ((fedDecode k w).op c).chip.prods := by
  unfold fedDecode
  extract_lets d a b qd comb hi
  split
  case h_1 => exact h.congr (fedAlu_chip_prods ..)
  case h_2 => exact h.congr (fedLane_chip_prods ..)
  case h_3 e => exact fedProduct_chip_shadowsOk k (by rw [e] at hw; exact hw) h
  case h_20 | h_21 | h_22 => exact storeFrom_shadowsOk h ..
  case h_24 => exact bodySc_shadowsOk h ..
  case h_27 | h_28 => exact shortStore_shadowsOk h ..
  case h_29 => exact h.congr (fedFence_chip_prods ..)
  case h_30 => exact fedCp0_chip_shadowsOk k w h
  case h_31 => exact h.congr (fedCp1_chip_prods ..)
  case h_32 => exact fedCp2_chip_shadowsOk k w h
  all_goals simpa only [fedOk, fedBad, done_chip, bodyPredicateLogic_prods, bodyCmp_prods, bodyCmpi_prods, bodyPermb_prods, bodyAddi_prods,
      bodyAndi_prods, bodyOri_prods, bodyXori_prods, bodyShi_prods, bodyLui_prods, bodyLli_prods, bodyLb_prods, bodyLbu_prods,
      bodyLh_prods, bodyLhu_prods, bodyLw_prods, bodyLl_prods, bodyLdsw_prods, bodyLdshu_prods] using h

theorem fedDecode_bodyOk (k : Nat) (w : Word) : BodyOk k (fedDecode k w).op := by
  cases hw : (w.bits 27 22 == 2 && Nat.blt (w.bits 6 0) 0x10) with
  | false => exact bodyOk_of_chip fun _ h => fedDecode_chip_shadowsOk k hw h
  | true =>
    have he : w.bits 27 22 = 2 := by simpa using (Bool.and_eq_true_iff.1 hw).1
    have hd : fedDecode k w = fedProduct k w := by simp only [fedDecode, he]
    exact hd ▸ fedProduct_bodyOk k w

/-! ### A fed word performed -/

/-- Under a false condition nothing is performed. -/
theorem operate_chip_of_false {k : Nat} {cond : BitVec 4} {c : Chip} (hc : condTrue (c.core k).q cond = false) (d : Decoded) (op : Chip →
    Res) :
    (operate k cond d op c).chip = c := by
  unfold operate
  extract_lets x
  split
  · rfl
  split
  · split <;> rfl
  split
  · rfl
  case isFalse hn => exact absurd hc (by simpa using hn)

theorem operate_chip_shadowsOk {op : Chip → Res} {c : Chip} (hop : ShadowsOk (op c).chip.prods) (h : ShadowsOk c.prods) (k : Nat)
    (cond : BitVec 4) (d : Decoded) : ShadowsOk (operate k cond d op c).chip.prods := by
  unfold operate
  extract_lets x
  split
  · exact h
  split
  · split <;> exact h
  split
  · exact h
  split
  · exact h
  · exact hop

/-- A fed word that is no product under a true condition keeps every bound. -/
theorem fed_shadowsOk {k : Nat} {w : Word} {c : Chip} (hw : fedIsProduct (c.core k) w = false) (h : ShadowsOk c.prods) :
    ShadowsOk (operate k (w.extractLsb' 28 4) (fedDecode k w).dec (fedDecode k w).op c).chip.prods := by
  rcases Bool.and_eq_false_iff.1 hw with hp | hc
  · exact operate_chip_shadowsOk (fedDecode_chip_shadowsOk k hp h) h ..
  · rwa [operate_chip_of_false hc]

theorem feedResult_shadowsOk {c : Chip} (h : ShadowsOk c.prods) (res cause : Nat) : ShadowsOk (feedResult res cause c).prods :=
  h.congr (feedResult_prods ..)

/-- What is left of a fed product is shown at once. -/
theorem RunsOk.showProduct {c : Chip} {k : Nat} (h : RunsOk k c.prods) : ShadowsOk (c.modCore k Core.showProduct).prods := by
  refine ⟨fun j => ?_⟩
  rw [Chip.modCore, prods_setCore]
  split
  case isTrue hj => exact Core.showProduct_shadowOk _
  case isFalse hj => exact fun q hq => (h j q hq).trans (by simp [hj])

theorem feedDone_shadowsOk {k : Nat} {product : Bool} {c : Chip} (hr : RunsOk k c.prods) (h : product = false → ShadowsOk c.prods)
    (held : List Word) : ShadowsOk (feedDone k product held c).prods := by
  have hshown : ShadowsOk (if product then (feedFence k c).modCore k Core.showProduct else feedFence k c).prods := by
    cases product with
    | true => exact RunsOk.showProduct (by rwa [feedFence_prods])
    | false => exact (h rfl).congr (feedFence_prods ..)
  unfold feedDone
  extract_lets d e
  have he : ShadowsOk e.prods := hshown
  refine of_ite (feedResult_shadowsOk he 0 0) (feedResult_shadowsOk (he.congr ?_) 1 0x0B)
  simp only [modCore_prods, implies_true]

theorem feedWord_shadowsOk (w : Word) {c : Chip} (h : ShadowsOk c.prods) : ShadowsOk (feedWord w c).prods := by
  unfold feedWord
  extract_lets k e d held
  have hd : ShadowsOk d.prods := h.congr (feedFence_prods ..)
  refine of_ite h (of_ite (feedResult_shadowsOk h ..) (of_ite (feedResult_shadowsOk h ..) ?_))
  have hr : (operate k (w.extractLsb' 28 4) e.dec e.op d).Ok k := operate_bodyOk (fedDecode_bodyOk k w) _ _ d hd
  have hs (hp : fedIsProduct (d.core k) w = false) : ShadowsOk (operate k (w.extractLsb' 28 4) e.dec e.op d).chip.prods := fed_shadowsOk hp
      hd
  cases ho : operate k (w.extractLsb' 28 4) e.dec e.op d with
  | done c' =>
    rw [ho] at hr hs
    have hc : RunsOk k c'.prods := hr
    exact feedDone_shadowsOk hc hs held
  | trap c' cause a =>
    rw [ho] at hr
    have hc : ShadowsOk c'.prods := hr
    exact feedResult_shadowsOk (hc.congr (feedFence_prods k c')) 1 cause
  | hold c' =>
    rw [ho] at hr
    have hc : ShadowsOk c'.prods := hr
    exact of_ite (hc.congr (Chip.setF_prods ..)) hc
  | stop | branch | jumped | syscall =>
    rw [ho] at hr
    exact hr

end Sys2Proof.Machine
end

section
/-! SUPPORT. The bound of the shadows under what reaches the cores from outside them: debug accesses, DMA, the arbiters, the boot ROM, the
Postmaster and PCIe. -/

namespace Sys2Proof.Machine

open ShadowsOk

variable {c : Chip} (h : ShadowsOk c.prods)
include h

/-! ### The debug session (R603, R618) -/

theorem damAccess_shadowsOk : ShadowsOk (damAccess c).prods := by
  unfold damAccess
  extract_lets pa v l
  have hl : ∃ b, l = busLoad 250 b pa 4 c := ⟨_, rfl⟩
  clear_value l v pa
  obtain ⟨b, rfl⟩ := hl
  have hl : ShadowsOk (busLoad 250 b pa 4 c).chip.prods := h.congr (busLoad_prods ..)
  refine of_ite (of_ite h (of_ite ((feedWord_shadowsOk v h).congr (Chip.setF_prods ..)) ?_)) (of_ite ?_ (of_ite ?_ ?_))
  · split
    case h_1 e => exact (busStore_shadowsOk_of_eq h e).congr (Chip.setF_prods ..)
  all_goals simpa only [Chip.setF_prods, Chip.setReg_prods] using hl

theorem writeDam_shadowsOk (v : Word) : ShadowsOk (writeDam v c).prods := by
  have hp : ShadowsOk (plainWrite DBG_DAM_CTL (v.setBit 31 false) c).prods := h.congr (plainWrite_prods ..)
  exact of_ite (damAccess_shadowsOk hp) hp

theorem sessionWrite_shadowsOk (k : Nat) (v : Word) : ShadowsOk (sessionWrite k v c).prods :=
  of_ite h (of_ite (feedWord_shadowsOk v h) (of_ite (writeDam_shadowsOk h v) (writeReg_shadowsOk h ..)))

theorem debugAccesses_shadowsOk (b : List Byte) (i n : Nat) : ShadowsOk (debugAccesses b i n c).2.prods := by
  induction n generalizing i c with
  | zero => exact h
  | succ n ih =>
    unfold debugAccesses
    extract_lets a k
    split
    next e =>
    refine ih ?_ (i + 1)
    have hs := congrArg (fun p => p.2.prods) e
    rw [ite_snd, ite_prods] at hs
    exact (ite (sessionWrite_shadowsOk h ..) (h.congr (sessionRead_prods ..))).congr hs.symm

/-! ### DMA and the arbiters (R192, R353) -/

theorem dmaWriteDone_shadowsOk (i : Nat) : ShadowsOk (dmaWriteDone i c).prods := by
  unfold dmaWriteDone
  split
  next pa r n _ =>
  extract_lets d u good k b fail
  have hfail (e : Chip) : (fail e).prods = e.prods := by
    simp only [fail, dmaPartial_prods, ite_prods, Chip.poisonRecord_prods, ite_self]
  refine of_ite (h.congr (hfail c)) (of_ite (h.congr (dmaPartial_prods ..)) ?_)
  split
  case h_1 e => exact (busStore_shadowsOk_of_eq h e).congr (dmaPartial_prods ..)
  case h_2 e =>
    have hd := busStore_shadowsOk_of_eq h e
    exact of_ite hd (of_ite (hd.congr (dmaUnitDone_prods ..)) (hd.congr (hfail _)))

theorem Chip.serve_shadowsOk (r : BusReq) : ShadowsOk (c.serve r).prods := by
  unfold Chip.serve
  extract_lets d l
  have hd : ShadowsOk d.prods := by
    unfold d
    split
    · exact h.congr (Chip.openRowOf_prods ..)
    · exact h
  refine of_ite ?_ ?_
  · split
    case h_1 e => exact (busStore_shadowsOk_of_eq hd e).congr (Chip.answerTo_prods ..)
    case h_2 e => exact busStore_shadowsOk_of_eq hd e
  · have hl : ShadowsOk l.chip.prods := hd.congr (busLoad_prods ..)
    exact of_ite (hl.congr (Chip.answerTo_prods ..)) hl

theorem completeBeat_shadowsOk (arb : Nat) : ShadowsOk (completeBeat arb c).prods := by
  unfold completeBeat
  split
  · split
    · exact (Chip.serve_shadowsOk h _).congr (Chip.setGrant_prods ..)
    · exact h
  · exact h

theorem grantBeat_shadowsOk (arb : Nat) (r : BusReq) (upset : BitErr) (hard : Bool) : ShadowsOk (grantBeat arb r upset hard c).prods := by
  have hm : ShadowsOk ((portCost arb (c.setWaiting arb ((c.waitingAt arb).erase r))).meets arb r upset hard).prods := by
    simpa only [Chip.meets_prods, portCost_prods, Chip.setWaiting_prods] using h
  exact of_ite (hm.congr (Chip.setGrant_prods ..)) (Chip.serve_shadowsOk hm r)

theorem beatBoundary_shadowsOk (arb : Nat) : ShadowsOk (beatBoundary arb c).prods := by
  unfold beatBoundary
  split
  · split
    · exact of_ite (h.congr (cutGrant_prods ..)) (completeBeat_shadowsOk h arb)
    · exact h
  · exact h

/-! ### The boot ROM (R560 to R570) -/

theorem slotFails_shadowsOk (b : Boot) : ShadowsOk (slotFails b c).prods := by
  unfold slotFails
  extract_lets d e
  have he : ShadowsOk e.prods := of_forAll (fun k d hd => busStore_shadowsOk hd ..) _ (h.congr (Chip.setBoot_prods ..))
  exact of_ite (he.congr (bootFail_prods ..)) he

theorem bootManifest_shadowsOk (b : Boot) : ShadowsOk (bootManifest b c).prods := by
  unfold bootManifest
  refine of_ite (h.congr (bootFail_prods ..)) (of_ite (h.congr (bootFail_prods ..)) ?_)
  extract_lets b m p seg d
  split
  · exact slotFails_shadowsOk h b
  · have hd : ShadowsOk d.prods := h.congr (forAll_prods (fun _ _ => Chip.memStore_prods ..) ..)
    exact of_ite (hd.congr (bootProfile_prods ..)) (slotFails_shadowsOk hd b)

theorem bootEntry_shadowsOk (b : Boot) : ShadowsOk (bootEntry b c).prods := by
  unfold bootEntry
  split
  · exact h.congr (Chip.setBoot_prods ..)
  · extract_lets b'
    refine of_ite ?_ ?_
    · simpa only [Chip.flag_prods, Chip.setBoot_prods] using h
    split
    case h_1 e => exact (busStore_shadowsOk_of_eq (h.congr (Chip.setBoot_prods ..)) e).congr (Chip.setBoot_prods ..)
    case h_2 e => exact busStore_shadowsOk_of_eq (h.congr (Chip.setBoot_prods ..)) e

omit h in
theorem loadSegment_shadowsOk (s : Nat) (m : List Byte) (r : Bool × Chip) (i : Nat) (h : ShadowsOk r.2.prods) :
    ShadowsOk (loadSegment s m r i).2.prods := by
  unfold loadSegment
  extract_lets c data q
  have hq : ShadowsOk q.2.prods := List.foldlRecOn _ _ (motive := fun r : Bool × Chip => ShadowsOk r.2.prods) h fun _ hr _ _ =>
      busStore_shadowsOk hr ..
  simp only [ite_snd, ite_prods]
  exact ite h (ite h hq)

theorem bootLoad_shadowsOk (b : Boot) : ShadowsOk (bootLoad b c).prods := by
  unfold bootLoad
  extract_lets m
  refine of_ite (h.congr (bootFail_prods ..)) ?_
  have hl : ShadowsOk ((segmentIds m).foldl (loadSegment b.slot m) (true, c.setBoot (some { b with phase := 7 }))).2.prods :=
    List.foldlRecOn _ _ (motive := fun r : Bool × Chip => ShadowsOk r.2.prods) (h.congr (Chip.setBoot_prods ..))
      fun r hr i _ => loadSegment_shadowsOk b.slot m r i hr
  split
  case h_1 e => exact hl.congr (by rw [e])
  case h_2 e => exact slotFails_shadowsOk (hl.congr (by rw [e])) b

theorem bootPhase_shadowsOk (b : Boot) : ShadowsOk (bootPhase b c).prods := by
  unfold bootPhase
  split
  · simpa only [Chip.setBoot_prods, ite_prods, fillArrays_prods, ite_self] using h
  · exact bootManifest_shadowsOk h b
  · exact bootEntry_shadowsOk h b
  · exact h.congr (bootFill_prods ..)
  · exact bootLoad_shadowsOk h b
  · exact h.congr (bootReport_prods ..)
  · simpa only [Chip.setBoot_prods, enterImage_prods] using h
  · simpa only [Chip.setBoot_prods, enterImage_prods, fillArrays_prods] using h

theorem bootTick_shadowsOk : ShadowsOk (bootTick c).prods := by
  unfold bootTick
  refine of_ite h ?_
  extract_lets d
  have hd : ShadowsOk d.prods := h.congr (forAll_prods romJump_prods ..)
  split
  · exact hd
  · exact of_ite hd (bootPhase_shadowsOk hd _)

/-- One nanosecond of the idle device. -/
theorem idle_shadowsOk : ShadowsOk (idle c).prods := bootTick_shadowsOk (h.congr (passTime_prods c))

/-! ### Power, PCIe, fuses -/

theorem pmPowerOff_shadowsOk : ShadowsOk (pmPowerOff c).prods := by
  simp only [pmPowerOff, prods_mk, coreProds_cores]
  exact mainOff_shadowsOk (h.congr (Chip.setMainEn_prods ..))

theorem pmPowerOn_shadowsOk : ShadowsOk (pmPowerOn c).prods := by
  simp only [pmPowerOn, Chip.setMainEn_prods, prods_mk, coreProds_cores]
  exact of_ite (mainOff_shadowsOk h) h

theorem inboundWrite_shadowsOk (poison : Bool) (pa : Nat) (bs : List Byte) : ShadowsOk (inboundWrite poison pa bs c).prods := by
  refine List.foldlRecOn _ _ (motive := fun a : Bool × List Byte × Chip => ShadowsOk a.2.2.prods) h fun a ha p _ => ?_
  split
  · exact ha
  · split
    next err d e =>
    have hd : ShadowsOk d.prods := by
      have hs := congrArg (fun p => p.2.prods) e
      rw [ite_snd, ite_prods] at hs
      exact (ite (busPoison_shadowsOk ha ..) (busStore_shadowsOk ha ..)).congr hs.symm
    exact of_ite (hd.congr (Chip.flag_prods ..)) hd

theorem inboundAt_shadowsOk (write poison : Bool) (pa n : Nat) (bs : List Byte) : ShadowsOk (inboundAt write poison pa n bs c).prods := by
  refine of_ite (of_ite h (inboundWrite_shadowsOk h ..)) ?_
  simpa only [Chip.answerTo_prods, inboundRead_prods] using h

theorem rootRequest_shadowsOk (write poison : Bool) (a n : Nat) (bs : List Byte) : ShadowsOk (rootRequest write poison a n bs c).prods := by
  refine of_ite ?_ (of_ite (inboundAt_shadowsOk h ..) (h.congr (unsupported_prods ..)))
  simpa only [Chip.flag_prods, Chip.setRegBit_prods] using h

theorem fuseCmd_shadowsOk (o : Origin) (op slot : Nat) : ShadowsOk (fuseCmd o op slot c).prods := writeCmd_shadowsOk h ..

end Sys2Proof.Machine
end

section
/-! SUPPORT. The bound of the shadows under every command. -/

namespace Sys2Proof.Machine

/-- A command that keeps the bound. -/
structure KeepsShadows (e : State → Out) : Prop where
  keep : ∀ s t, ShadowsOk s.chip.prods → e s = .next t → ShadowsOk t.chip.prods

theorem keeps_go {f : Chip → Chip} (hf : ∀ c, ShadowsOk c.prods → ShadowsOk (f c).prods) : KeepsShadows fun s => s.go f := by
  refine ⟨?_⟩
  rintro s _ h ⟨⟩
  exact hf _ h

theorem keeps_go_of_prods {f : Chip → Chip} (hf : ∀ c, (f c).prods = c.prods) : KeepsShadows fun s => s.go f :=
  keeps_go fun c h => h.congr (hf c)

theorem keeps_instr {k : Nat} {body : Chip → Res} (hb : BodyOk k body) (cond : BitVec 4) (d : Decoded) : KeepsShadows (instr k cond d body)
    :=
  keeps_go fun _ h => runAt_shadowsOk (operate_bodyOk hb cond d) false h

theorem keeps_instrBranch {k : Nat} {body : Chip → Res} (hb : BodyOk k body) (cond : BitVec 4) (annul : Bool) (d : Decoded) :
    KeepsShadows (instrBranch k cond annul d body) :=
  keeps_go fun _ h => runAt_shadowsOk (operateBranch_bodyOk hb cond annul d) true h

/-! ### The frames that commands come in: FU operations, PM requests, the TAP, debug frames -/

theorem fuDo_shadowsOk {f : Chip → Chip} {c : Chip} (h : ShadowsOk (f c).prods) : ShadowsOk (fuDo f c).prods := by
  simp only [fuDo, ite_prods, Chip.flag_prods, ite_self]
  exact h

theorem serveOp_shadowsOk {body : Nat → Chip → Chip} (hb : ∀ s c, ShadowsOk c.prods → ShadowsOk (body s c).prods) (op : Nat) {c : Chip}
    (h : ShadowsOk c.prods) : ShadowsOk (serveOp op body c).prods := by
  unfold serveOp
  split
  · exact h
  next s _ =>
  refine ShadowsOk.of_ite h (fuDo_shadowsOk (ShadowsOk.of_ite (h.congr (answerPlain_prods ..)) ?_))
  split
  · exact h.congr (answerPlain_prods ..)
  · exact hb s c h

theorem serve_shadowsOk {body : Nat → List Byte → Chip → Nat × List Byte × Chip}
    (hb : ∀ t l c,
        ShadowsOk c.prods → ShadowsOk (body t l c).2.2.prods) (cmd : Nat) (signed : List Byte → Bool) (size : Nat → Bool) {c : Chip}
    (h : ShadowsOk c.prods) : ShadowsOk (serve cmd signed size body c).prods := by
  unfold serve
  split
  · exact h
  next t _ =>
  simp only [ite_prods, respond_prods]
  have hn (l : List Byte) : ShadowsOk (takeNonce t l c).prods := h.congr (takeNonce_prods ..)
  have hs (l : List Byte) (ok : Bool) : ShadowsOk (signedEntry l ok (takeNonce t l c)).prods := (hn l).congr (signedEntry_prods ..)
  exact h.ite ((hn _).ite (((hb _ _ _ (hs _ _)).ite (hs _ _)).ite (hb _ _ _ (hn _))))

theorem tap_shadowsOk {f : Chip → Chip} (hf : ∀ c, ShadowsOk c.prods → ShadowsOk (f c).prods) {c : Chip} (h : ShadowsOk c.prods) :
    ShadowsOk (tap f c).prods :=
  ShadowsOk.of_ite (hf c h) h

theorem debugFrame_shadowsOk {f : Chip → Chip} (hf : ∀ c, ShadowsOk c.prods → ShadowsOk (f c).prods) (cmd : Nat) (l : List Byte)
    (size : Nat → Bool) {c : Chip} (h : ShadowsOk c.prods) : ShadowsOk (debugFrame cmd l size f c).prods := by
  simp only [debugFrame, ite_prods, debugAnswer_prods]
  exact h.ite (h.ite (h.ite (h.ite (h.ite (hf c h)))))

end Sys2Proof.Machine
end

section
/-! SUPPORT. The commands that change a product, or that need more than a rewrite to see that they do not. -/

namespace Sys2Proof.Machine

open ShadowsOk

/-! ### Instructions -/

theorem execMul_keeps (k : Fin 64) (cond : BitVec 4) (ra rb : BitVec 5) : KeepsShadows (execMul k cond ra rb) :=
  keeps_instr (bodyMul_bodyOk k ra rb) _ _

theorem execMulu_keeps (k : Fin 64) (cond : BitVec 4) (ra rb : BitVec 5) : KeepsShadows (execMulu k cond ra rb) :=
  keeps_instr (bodyMulu_bodyOk k ra rb) _ _

theorem execMac_keeps (k : Fin 64) (cond : BitVec 4) (ra rb : BitVec 5) : KeepsShadows (execMac k cond ra rb) :=
  keeps_instr (bodyMac_bodyOk k ra rb) _ _

theorem execMacu_keeps (k : Fin 64) (cond : BitVec 4) (ra rb : BitVec 5) : KeepsShadows (execMacu k cond ra rb) :=
  keeps_instr (bodyMacu_bodyOk k ra rb) _ _

theorem execMsu_keeps (k : Fin 64) (cond : BitVec 4) (ra rb : BitVec 5) : KeepsShadows (execMsu k cond ra rb) :=
  keeps_instr (bodyMsu_bodyOk k ra rb) _ _

theorem execDiv_keeps (k : Fin 64) (cond : BitVec 4) (ra rb : BitVec 5) : KeepsShadows (execDiv k cond ra rb) :=
  keeps_instr (bodyDiv_bodyOk k ra rb) _ _

theorem execDivu_keeps (k : Fin 64) (cond : BitVec 4) (ra rb : BitVec 5) : KeepsShadows (execDivu k cond ra rb) :=
  keeps_instr (bodyDivu_bodyOk k ra rb) _ _

theorem execSb_keeps (k : Fin 64) (cond : BitVec 4) (rd ra : BitVec 5) (off : BitVec 12) : KeepsShadows (execSb k cond rd ra off) :=
  keeps_instr (bodyOk_of_chip fun _ h => storeFrom_shadowsOk h ..) _ _

theorem execSh_keeps (k : Fin 64) (cond : BitVec 4) (rd ra : BitVec 5) (off : BitVec 12) : KeepsShadows (execSh k cond rd ra off) :=
  keeps_instr (bodyOk_of_chip fun _ h => storeFrom_shadowsOk h ..) _ _

theorem execSw_keeps (k : Fin 64) (cond : BitVec 4) (rd ra : BitVec 5) (off : BitVec 12) : KeepsShadows (execSw k cond rd ra off) :=
  keeps_instr (bodyOk_of_chip fun _ h => storeFrom_shadowsOk h ..) _ _

theorem execStsw_keeps (k : Fin 64) (cond : BitVec 4) (rd : BitVec 5) (a : BitVec 16) : KeepsShadows (execStsw k cond rd a) :=
  keeps_instr (bodyOk_of_chip fun _ h => shortStore_shadowsOk h ..) _ _

theorem execStsh_keeps (k : Fin 64) (cond : BitVec 4) (rd : BitVec 5) (a : BitVec 16) : KeepsShadows (execStsh k cond rd a) :=
  keeps_instr (bodyOk_of_chip fun _ h => shortStore_shadowsOk h ..) _ _

theorem done_bodyOk (k : Nat) : BodyOk k Res.done := bodyOk_of_prods (fun _ => rfl) k

theorem execNop_keeps (k : Fin 64) (low : BitVec 28) : KeepsShadows (execNop k low) := keeps_instr (done_bodyOk k) _ _

theorem execPrefetch_keeps (k : Fin 64) (ra : BitVec 5) (off : BitVec 12) : KeepsShadows (execPrefetch k ra off) := keeps_instr
    (done_bodyOk k) _ _

theorem execIllegalInstruction_keeps (k : Fin 64) (word : Word) : KeepsShadows (execIllegalInstruction k word) :=
  keeps_instr (done_bodyOk k) _ _

theorem execCsrr_keeps (k : Fin 64) (cond : BitVec 4) (ga : BitVec 5) (csr : BitVec 10) : KeepsShadows (execCsrr k cond ga csr) :=
  ⟨fun s => (keeps_instr (bodyOk_of_prods (bodyCsrr_prods k ga csr) k) cond (csrDecoded cond 0 ga csr (!csrUser (s.chip.core k)
      csr.toNat))).keep s⟩

/-! ### A core's pipeline (R77, R112) -/

theorem execProductVisible_keeps (k : Fin 64) : KeepsShadows (execProductVisible k) :=
  keeps_go fun _ h => h.modCore fun _ => Core.ripen_shadowOk

theorem wokenInterrupt_shadowsOk {c : Chip} (h : ShadowsOk c.prods) (k : Nat) (old : Word) :
    ShadowsOk (pmcIrq k old (takeDue k (wakeCore k c))).prods :=
  (takeDue_shadowsOk (wakeCore_shadowsOk h k) k).congr (pmcIrq_prods ..)

theorem execInterruptEntry_keeps (k : Fin 64) : KeepsShadows (execInterruptEntry k) := keeps_go fun _ h => wokenInterrupt_shadowsOk h ..

theorem execWaitResume_keeps (k : Fin 64) : KeepsShadows (execWaitResume k) :=
  keeps_go fun _ h => of_ite (wokenInterrupt_shadowsOk h ..) h

theorem Core.foldl_event_prod (k n : Nat) {α : Type} (l : List α) (x : Core) : (l.foldl (fun x _ => x.event k n) x).prod = x.prod :=
  foldl_prod (fun x _ => x.event_prod k n) l x

theorem execLoadDataReturn_keeps (k : Fin 64) (cycles : Nat) : KeepsShadows (execLoadDataReturn k cycles) :=
  keeps_go_of_prods fun _ => by
    simp only [ite_prods, pmcIrq_prods, modCore_prods, Core.foldl_event_prod, implies_true, ite_self]

theorem execBranchMispredict_keeps (k : Fin 8) (wrong : List (Nat × Bool)) (ret : Bool) (path : WrongPath) :
    KeepsShadows (execBranchMispredict k wrong ret path) :=
  keeps_go_of_prods fun _ => by
    simp only [pmcIrq_prods, forAll_prods, wrongLoad_prods, modCore_prods, Core.foldl_event_prod, ite_prod, Core.event_prod, implies_true,
        ite_self]

theorem execFetchLineRead_keeps (k : Fin 64) (line : Word) (defer : Nat) (useless : Bool) : KeepsShadows (execFetchLineRead k line defer
    useless) :=
  keeps_go_of_prods fun c => by
    extract_lets line
    rw [ite_prods]
    split
    · split
      next e =>
        rw [ite_prods, pmcIrq_prods]
        simp only [modCore_prods, Core.foldl_event_prod, ite_prod, Core.event_prod, implies_true, ite_self,
            prods_of_eq e (translate_prods ..)]
      · rfl
    · rfl

/-! ### Registers, the arbiters, DMA, the Press, PCIe -/

theorem execRegWrite_keeps (o : Origin) (b : Fin 26) (off : BitVec 12) (v : Word) : KeepsShadows (execRegWrite o b off v) :=
  keeps_go fun _ h => of_ite (sessionWrite_shadowsOk h ..) (writeCmd_shadowsOk h ..)

theorem execArbiterGrant_keeps (arb : Fin 256) (reqs : List BusReq) (upset : BitErr) (hard : Bool) (fatal : Option (Fin 4097)) :
    KeepsShadows (execArbiterGrant arb reqs upset hard fatal) :=
  keeps_go fun c h => by
    extract_lets d e
    have hd : ShadowsOk d.prods := (beatBoundary_shadowsOk (h.congr (joinQueue_prods ..)) arb).congr (endRun_prods ..)
    have he : ShadowsOk e.prods := by
      unfold e
      split
      · exact hd
      · exact grantBeat_shadowsOk hd ..
    split
    · exact he
    · exact of_ite (he.congr (Chip.deviceFatal_prods ..)) (of_ite (he.congr (unitFatal_prods ..)) he)

theorem execDmaWriteAck_keeps (i : Fin 32) (transient : Bool) : KeepsShadows (execDmaWriteAck i transient) :=
  keeps_go fun _ h => of_ite h (of_ite (h.congr (dmaWriteRetry_prods ..)) (dmaWriteDone_shadowsOk h i))

theorem execPressCommandFetch_keeps : KeepsShadows execPressCommandFetch :=
  keeps_go_of_prods fun c => by
    extract_lets a d
    have hd : d.prods = c.prods := Chip.setF_prods ..
    rw [ite_prods]
    split
    · split
      next e => exact (endList_prods ..).trans ((prods_of_eq e (fetchList_prods ..)).trans hd)
      next e =>
        simp only [ite_prods, endList_prods, Chip.modPress_prods, ite_self]
        exact (prods_of_eq e (fetchList_prods ..)).trans hd
    · rfl

theorem execPcieInboundRequest_keeps (target : Inbound) (write : Bool) (bytes : List Byte) (poison : Bool) (len : Fin 513) :
    KeepsShadows (execPcieInboundRequest target write bytes poison len) :=
  keeps_go fun c h => by
    extract_lets bs
    refine of_ite h ?_
    split
    · exact inboundAt_shadowsOk h ..
    · exact inboundAt_shadowsOk h ..
    · exact h.congr (writeMsixMask_prods ..)
    · exact rootRequest_shadowsOk h ..
    · exact h.congr (unsupported_prods ..)

/-! ### The Franking Unit (R402, R408) -/

theorem execVddFuRise_keeps : KeepsShadows execVddFuRise :=
  keeps_go fun _ h => fuDo_shadowsOk (fuReset_shadowsOk (h.congr (Chip.modFu_prods ..)) _)

theorem execFuWdtExpire_keeps : KeepsShadows execFuWdtExpire :=
  keeps_go fun _ h => of_ite (fuDo_shadowsOk (fuReset_shadowsOk h _)) h

theorem execTamperTrip_keeps (n : Fin 3) : KeepsShadows (execTamperTrip n) :=
  keeps_go fun c h => by
    have ht : ShadowsOk (c.setF FU_TAMPER_TRIP (c.f FU_TAMPER_TRIP ||| 2 ^ n.val)).prods := h.congr (Chip.setF_prods ..)
    exact of_ite (fuDo_shadowsOk (fuReset_shadowsOk ht _)) ht

theorem execFwActivate_keeps : KeepsShadows execFwActivate :=
  keeps_go fun _ h => serveOp_shadowsOk (fun s _ h => opFwActivate_shadowsOk h s) _ h

/-! ### Power and resets (R54, R546, R577) -/

theorem execVsbRise_keeps : KeepsShadows execVsbRise :=
  keeps_go fun c h => by
    extract_lets p d e f
    have hd : ShadowsOk d.prods := h.of_filter (· == 62)
    have hf : ShadowsOk f.prods := doReset_shadowsOk (hd.congr (epochEntry_prods d)) ..
    split
    next e =>
    refine mainOff_shadowsOk ?_
    rw [Chip.journal_prods]
    exact hf.congr (prods_of_eq e (Chip.freeBits_prods ..))

theorem execVsbFall_keeps : KeepsShadows execVsbFall := 
  keeps_go fun _ h => by
    simp only [prods_mk, coreProds_cores]
    exact mainOff_shadowsOk h

theorem execPgoodRise_keeps (p : BitVec 3) : KeepsShadows (execPgoodRise p) :=
  keeps_go fun _ h => of_ite (causeReset_shadowsOk (by simpa only [Chip.setF_prods, prods_mk, coreProds_cores] using h) ..) h

theorem execPgoodFall_keeps : KeepsShadows execPgoodFall :=
  keeps_go fun _ h => of_ite ((mainOff_shadowsOk h).congr (Chip.journal_prods ..)) h

theorem execNresetAssert_keeps : KeepsShadows execNresetAssert :=
  keeps_go fun c h => by
    extract_lets p d
    have hd : ShadowsOk d.prods := h
    exact of_ite (causeReset_shadowsOk hd ..) hd

theorem execDormantEntry_keeps : KeepsShadows execDormantEntry :=
  keeps_go fun c h => by
    have hd : ShadowsOk (c.setMainEn false).writeBackAll.prods := by simpa only [Chip.writeBackAll_prods, Chip.setMainEn_prods] using h
    exact of_ite (hd.of_filter (Nat.ble 62)) h

/-! ### The Postmaster's requests (R592) -/

theorem execPmRestart_keeps : KeepsShadows execPmRestart :=
  keeps_go fun c h => by
    extract_lets d e f
    have hf : ShadowsOk f.prods := by
      rw [Chip.modPm_prods]
      exact setCore (endNetSession_shadowsOk (h.congr (endStaging_prods c))) (Core.reset_shadowOk 63)
    refine of_ite h ?_
    split
    next e =>
    rw [Chip.journal_prods]
    exact hf.congr (prods_of_eq e (Chip.freeBits_prods ..))

theorem execDaybook_keeps : KeepsShadows execDaybook :=
  keeps_go fun _ h => serve_shadowsOk (fun _ b c h => by
    extract_lets seq n e
    split
    · exact h
    · exact h) _ _ _ h

theorem execPower_keeps : KeepsShadows execPower :=
  keeps_go fun _ h => serve_shadowsOk (fun _ b c h => by
    split
    · exact pmPowerOff_shadowsOk h
    · exact pmPowerOn_shadowsOk h
    · split
      · exact h
      · exact h
    · exact h) _ _ _ h

theorem execReset_keeps : KeepsShadows execReset :=
  keeps_go fun _ h => serve_shadowsOk (fun _ _ c h => by
    split
    · exact causeReset_shadowsOk h ..
    · exact h) _ _ _ h

theorem execProfileSet_keeps : KeepsShadows execProfileSet :=
  keeps_go fun _ h => serve_shadowsOk (fun _ b c h => by
    extract_lets w d
    split
    · exact h
    split
    · exact h
    · refine causeReset_shadowsOk ?_ ..
      simpa only [d, Chip.setF_prods] using h) _ _ _ h

theorem execHold_keeps : KeepsShadows execHold :=
  keeps_go fun _ h => serve_shadowsOk (fun _ b c h => by
    split
    · refine releaseReset_shadowsOk ?_
      exact h
    · extract_lets again p d
      have hd : ShadowsOk d.prods := h
      exact of_ite (causeReset_shadowsOk hd ..) hd
    · exact h) _ _ _ h

theorem execStageBegin_keeps (erased : Bool) (held : List Byte) : KeepsShadows (execStageBegin erased held) :=
  keeps_go fun _ h => serve_shadowsOk (fun t b c h => h.congr (by
    extract_lets slot d
    repeat' split
    all_goals simp only [d, Chip.eraseFlash_prods, Chip.program_prods, Chip.modPm_prods])) _ _ _ h

theorem execStageData_keeps (readBack : Bool) (held : List Byte) : KeepsShadows (execStageData readBack held) :=
  keeps_go fun _ h => serve_shadowsOk (fun t b c h => h.congr (by
    split
    · rfl
    · simp only [apply_ite Prod.snd, ite_prods, Chip.program_prods, Chip.modPm_prods, ite_self])) _ _ _ h

theorem execStageEnd_keeps (reads header : Bool) (held : List Byte) : KeepsShadows (execStageEnd reads header held) :=
  keeps_go fun _ h => serve_shadowsOk (fun t b c h => h.congr (by
    split
    · rfl
    · simp only [apply_ite Prod.snd, ite_prods, endStaging_prods]
      split
      · rfl
      · split <;> simp only [apply_ite Prod.snd, ite_prods, endStaging_prods, Chip.program_prods, ite_self])) _ _ _ h

theorem execTwin_keeps : KeepsShadows execTwin :=
  keeps_go fun _ h => serve_shadowsOk (fun _ b c h => by
    extract_lets d l
    split
    · exact h
    · exact (busStore_shadowsOk h ..).congr (busLoad_prods ..)) _ _ _ h

theorem execNetSet_keeps : KeepsShadows execNetSet :=
  keeps_go fun _ h => serve_shadowsOk (fun _ b c h => h.congr (by
    split
    all_goals simp only [Chip.modPm_prods, Chip.freeWord_prods])) _ _ _ h

theorem execOvertempTrip_keeps (ch : Fin 16) (v : Int) : KeepsShadows (execOvertempTrip ch v) :=
  keeps_go fun _ h => of_ite (pmPowerOff_shadowsOk (h.congr (Chip.journal_prods ..))) h

/-! ### The debug port (R603, R618) -/

theorem execDbgreg_keeps (write : Bool) (off : BitVec 12) (data : Word) : KeepsShadows (execDbgreg write off data) :=
  keeps_go fun _ h => tap_shadowsOk (fun c h => by
    extract_lets d
    have hd : ShadowsOk d.prods := h.congr (Chip.modDebug_prods ..)
    refine of_ite hd (of_ite (sessionWrite_shadowsOk hd ..) ?_)
    split
    next e => exact (hd.congr (prods_of_eq e (sessionRead_prods ..))).congr (Chip.modDebug_prods ..)) h

theorem execTapReset_keeps : KeepsShadows execTapReset :=
  keeps_go fun _ h => tap_shadowsOk (fun c h => by
    extract_lets d
    have hd : ShadowsOk d.prods := h.congr (Chip.modDebug_prods ..)
    exact of_ite (endSession_shadowsOk hd) hd) h

theorem execDbgReg_keeps (sender : BitVec 48) (frame : List Byte) : KeepsShadows (execDbgReg sender frame) :=
  keeps_go fun _ h => debugFrame_shadowsOk (fun c h => by
    refine of_ite (h.congr (debugAnswer_prods ..)) ?_
    split
    next r d e =>
    have hd : ShadowsOk d.prods :=
      (debugAccesses_shadowsOk (h.congr (refresh_prods c)) (frameBody frame) 0 (frameLen frame / 8)).congr (by rw [e])
    exact hd.congr (debugAnswer_prods ..)) _ _ _ h

theorem execDbgClose_keeps (sender : BitVec 48) (frame : List Byte) : KeepsShadows (execDbgClose sender frame) :=
  keeps_go fun _ h => debugFrame_shadowsOk (fun _ h =>
    of_ite ((endSession_shadowsOk h).congr (debugAnswer_prods ..)) (h.congr (debugAnswer_prods ..))) _ _ _ h

theorem execSessionTimeout_keeps : KeepsShadows execSessionTimeout :=
  keeps_go fun c h => by
    split
    · exact of_ite (endNetSession_shadowsOk h) h
    · exact h

end Sys2Proof.Machine
end

section
/-! SUPPORT. The commands one by one: each keeps the bound, by the frame or by the bound of what it is put together from. -/

namespace Sys2Proof.Machine

open ShadowsOk

/-! ### The postmark (R20 to R32) -/

theorem execRefclkLoss_keeps : KeepsShadows execRefclkLoss :=
  keeps_go_of_prods fun _ => Chip.setF_prods ..

theorem execRefclkLock_keeps : KeepsShadows execRefclkLock :=
  keeps_go_of_prods fun _ => Chip.setF_prods ..

theorem execReplicaCheck_keeps (i : Fin 236) (err : Int) : KeepsShadows (execReplicaCheck i err) :=
  keeps_go_of_prods fun _ => by
    simp only [ite_prods, ite_self, Chip.setReplica_prods, Chip.setF_prods, Chip.flag_prods, Chip.countF_prods, Chip.journal_prods]

theorem execEpochCrossing_keeps : KeepsShadows execEpochCrossing :=
  keeps_go_of_prods fun _ => Chip.setCount_prods ..

/-! ### Scrubbing, dead letters, DRAM training (chapter 04) -/

theorem execScrubRead_keeps (dram : Bool) (line : Fin 0x800000000) (upset : BitErr) (hard : Bool) :
    KeepsShadows (execScrubRead dram line upset hard) :=
  keeps_go_of_prods fun _ => by simp only [ite_prods, ite_self, scrubDram_prods, scrubChip_prods]

theorem execScrubPassOverrun_keeps : KeepsShadows execScrubPassOverrun :=
  keeps_go_of_prods fun _ => by simp only [ite_prods, ite_self, Chip.flag_prods]

theorem execDramChannelFail_keeps (ch : Fin 4) : KeepsShadows (execDramChannelFail ch) :=
  keeps_go_of_prods fun _ => by
    simp only [ite_prods, ite_self, prods_mk, coreProds_cores, Chip.setF_prods, Chip.repairAdd_prods, Chip.flag_prods, Chip.journal_prods]

/-! ### The host interfaces (chapter 15) -/

theorem execPcieLinkUp_keeps (gen width : Fin 4) (l1 : Bool) : KeepsShadows (execPcieLinkUp gen width l1) :=
  keeps_go_of_prods fun _ => by simp only [ite_prods, ite_self, Chip.setF_prods, Chip.flag_prods]

theorem execPcieLinkDown_keeps : KeepsShadows execPcieLinkDown :=
  keeps_go_of_prods fun _ => by simp only [ite_prods, ite_self, pcieDown_prods]

theorem execPcieCfgdataAccess_keeps (o : BitVec 12) (write : Bool) (reply : Option Word) :
    KeepsShadows (execPcieCfgdataAccess o write reply) :=
  keeps_go_of_prods fun _ => by simp only [ite_prods, ite_self, readCfgData_prods, Chip.answerTo_prods]

theorem execStorEnable_keeps (kind : BitVec 2) (dev : Option (Fin 5 × Fin 3 × Word)) : KeepsShadows (execStorEnable kind dev) :=
  keeps_go_of_prods fun _ => by
    simp only [ite_prods]
    repeat' split
    all_goals simp only [setVsel_prods, Chip.setF_prods, Chip.setReg_prods, writeStorCtl_prods]

theorem execStorBlkGo_keeps (v : Word) : KeepsShadows (execStorBlkGo v) :=
  keeps_go_of_prods fun _ => by simp only [ite_prods, ite_self, writeBlkCnt_prods]

theorem execStorBlkDone_keeps (ok : Bool) (data : List Byte) : KeepsShadows (execStorBlkDone ok data) :=
  keeps_go_of_prods fun _ => by simp only [ite_prods, ite_self, Chip.setF_prods, Chip.flag_prods, dramStore_prods]

theorem execStorQcmdGo_keeps (v : Word) : KeepsShadows (execStorQcmdGo v) :=
  keeps_go_of_prods fun _ => by simp only [ite_prods, ite_self, writeQcmd_prods]

theorem execStorQcmdDone_keeps (data : List Byte) : KeepsShadows (execStorQcmdDone data) :=
  keeps_go_of_prods fun _ => by simp only [ite_prods, ite_self, prods_mk, coreProds_cores, Chip.setF_prods, Chip.flag_prods]

theorem execStorQdataAccess_keeps (o : BitVec 12) (write : Bool) (v : Word) : KeepsShadows (execStorQdataAccess o write v) :=
  keeps_go_of_prods fun _ => by simp only [ite_prods, ite_self, Chip.answerTo_prods, writeQdata_prods, readQdata_prods]

theorem execCardChange_keeps (present : Bool) : KeepsShadows (execCardChange present) :=
  keeps_go_of_prods fun _ => by simp only [ite_prods, ite_self, Chip.setF_prods, Chip.flag_prods]

theorem execUsbConnectChange_keeps (p : Fin 2) (speed : Fin 4) : KeepsShadows (execUsbConnectChange p speed) :=
  keeps_go_of_prods fun _ => by simp only [ite_prods, ite_self, Chip.setF_prods, Chip.setRegBit_prods]

theorem execUsbOvercurrent_keeps (p : Fin 2) : KeepsShadows (execUsbOvercurrent p) :=
  keeps_go_of_prods fun _ => by simp only [ite_prods, ite_self, Chip.setF_prods, Chip.setRegBit_prods]

theorem execSensSample_keeps (vals : List Int) : KeepsShadows (execSensSample vals) :=
  keeps_go_of_prods fun _ => by
    simp only [ite_prods]
    repeat' split
    all_goals simp only [prods_mk, coreProds_cores, forAll_prods, implies_true, sampleChannel_prods, Chip.raiseReplica_prods]

theorem execDaybSwgo_keeps (v : Word) : KeepsShadows (execDaybSwgo v) :=
  keeps_go_of_prods fun _ => by simp only [ite_prods, ite_self, writeSwgo_prods]

/-! ### The interrupt controller (R493 to R511) -/

theorem execSourceEvent_keeps (n : Fin 1024) (k : Fin 64) (age : Fin 141) : KeepsShadows (execSourceEvent n k age) :=
  keeps_go_of_prods fun _ => by simp only [ite_prods, ite_self, senseSrc_prods]

theorem execRecordEligible_keeps : KeepsShadows execRecordEligible :=
  keeps_go_of_prods fun _ => by simp only [ite_prods, ite_self, recordsEligible_prods]

theorem execModRelease_keeps : KeepsShadows execModRelease :=
  keeps_go_of_prods fun _ => by simp only [ite_prods, ite_self, moderatedRelease_prods]

theorem execNapWakeLatch_keeps (n : Fin 1024) (k : Fin 64) (level : Bool) : KeepsShadows (execNapWakeLatch n k level) :=
  keeps_go_of_prods fun _ => by simp only [ite_prods, ite_self, prods_mk, coreProds_cores]

/-! ### Timer channels (R512 to R520) -/

theorem execTimerTick_keeps (k : Fin 32) : KeepsShadows (execTimerTick k) :=
  keeps_go_of_prods fun _ => by simp only [ite_prods, ite_self, timerTick_prods]

theorem execTimerWrap_keeps (k : Fin 32) : KeepsShadows (execTimerWrap k) :=
  keeps_go_of_prods fun _ => by simp only [ite_prods, ite_self, timerTick_prods]

theorem execCompareEvent_keeps (k : Fin 32) : KeepsShadows (execCompareEvent k) :=
  keeps_go_of_prods fun _ => by simp only [ite_prods, ite_self, timerTick_prods]

theorem execCaptureEvent_keeps (k : Fin 32) : KeepsShadows (execCaptureEvent k) :=
  keeps_go_of_prods fun _ => by simp only [ite_prods, ite_self, prods_mk, coreProds_cores, Chip.setReg_prods, Chip.flag_prods]

/-! ### Pins and banks (R527 to R542) -/

theorem execPinFilterAccept_keeps (p : Fin 192) (level : Bool) : KeepsShadows (execPinFilterAccept p level) :=
  keeps_go_of_prods fun _ => by simp only [ite_prods, ite_self, dormantPin_prods, acceptLevel_prods]

theorem execGateChange_keeps (k : Fin 32) : KeepsShadows (execGateChange k) :=
  keeps_go_of_prods fun _ => by simp only [prods_mk, coreProds_cores]

theorem execBankSupplyChange_keeps (b : Fin 6) (present : Bool) : KeepsShadows (execBankSupplyChange b present) :=
  keeps_go_of_prods fun _ => by simp only [prods_mk, coreProds_cores]

/-! ### The scene and the binner (R203 to R236) -/

theorem execBinDone_keeps (o : Fin 4) (wait : Nat) : KeepsShadows (execBinDone o wait) :=
  keeps_go_of_prods fun _ => by simp only [ite_prods, ite_self, binFrame_prods]

/-! ### Sorter groups and units (R249 to R283) -/

theorem execUnitOffer_keeps (s : Fin 48) : KeepsShadows (execUnitOffer s) :=
  keeps_go_of_prods fun _ => by
    split <;> simp only [ite_prods, ite_self, offerUnit_prods]

/-! ### The PO Box (R426 to R437) -/

theorem execPoboxClaimRead_keeps (o : Fin 256) (peek : Bool) : KeepsShadows (execPoboxClaimRead o peek) :=
  keeps_go_of_prods fun _ => by simp only [ite_prods, ite_self, prods_mk, coreProds_cores, readClaimSlot_prods]

theorem execPoboxPost_keeps (o : Fin 256) : KeepsShadows (execPoboxPost o) :=
  keeps_go_of_prods fun _ => by simp only [ite_prods, ite_self, implies_true, postSlot_prods, poboxCmd_prods]

theorem execPoboxAbort_keeps (o : Fin 256) (late : Bool) : KeepsShadows (execPoboxAbort o late) :=
  keeps_go_of_prods fun _ => by simp only [ite_prods, ite_self, implies_true, poboxCmd_prods, abortSlot_prods]

theorem execPoboxRelease_keeps (o : Fin 256) : KeepsShadows (execPoboxRelease o) :=
  keeps_go_of_prods fun _ => by simp only [ite_prods, ite_self, implies_true, releaseSlot_prods, poboxCmd_prods]

theorem execPoboxXforce_keeps (v : Word) : KeepsShadows (execPoboxXforce v) :=
  keeps_go_of_prods fun _ => by simp only [ite_prods, ite_self, writeXforce_prods]

theorem execPoboxXinj_keeps (v : Word) : KeepsShadows (execPoboxXinj v) :=
  keeps_go_of_prods fun _ => by simp only [ite_prods, ite_self, writeXinj_prods]

theorem execPoboxServe_keeps : KeepsShadows execPoboxServe :=
  keeps_go_of_prods fun _ => by
    simp only [ite_prods]
    repeat' split
    all_goals simp only [answerPlain_prods, Chip.modSlot_prods, fuDo_prods]

theorem execRead_keeps : KeepsShadows execRead :=
  keeps_go_of_prods fun _ => by simp only [implies_true, serveOp_prods, opRead_prods]

theorem execCommit_keeps : KeepsShadows execCommit :=
  keeps_go_of_prods fun _ => by simp only [implies_true, opCommit_prods, serveOp_prods]

theorem execReport_keeps : KeepsShadows execReport :=
  keeps_go_of_prods fun _ => by simp only [implies_true, serveOp_prods, opReport_prods]

theorem execReportRead_keeps : KeepsShadows execReportRead :=
  keeps_go_of_prods fun _ => by simp only [implies_true, serveOp_prods, opReportRead_prods]

theorem execIdent_keeps : KeepsShadows execIdent :=
  keeps_go_of_prods fun _ => by simp only [implies_true, serveOp_prods, opIdent_prods]

theorem execTime_keeps : KeepsShadows execTime :=
  keeps_go_of_prods fun _ => by simp only [implies_true, serveOp_prods, opTime_prods]

theorem execSealBreak_keeps : KeepsShadows execSealBreak :=
  keeps_go_of_prods fun _ => by simp only [implies_true, opSealBreak_prods, serveOp_prods]

theorem execReseal_keeps : KeepsShadows execReseal :=
  keeps_go_of_prods fun _ => by simp only [implies_true, serveOp_prods, opReseal_prods]

theorem execNotice_keeps : KeepsShadows execNotice :=
  keeps_go_of_prods fun _ => by simp only [implies_true, serveOp_prods, opNotice_prods]

theorem execStage_keeps : KeepsShadows execStage :=
  keeps_go_of_prods fun _ => by simp only [implies_true, serveOp_prods, opStage_prods]

theorem execFwWrite_keeps : KeepsShadows execFwWrite :=
  keeps_go_of_prods fun _ => by simp only [implies_true, serveOp_prods, opFwWrite_prods]

theorem execClockSet_keeps : KeepsShadows execClockSet :=
  keeps_go_of_prods fun _ => by simp only [implies_true, serveOp_prods, opClockSet_prods]

theorem execMeterInit_keeps : KeepsShadows execMeterInit :=
  keeps_go_of_prods fun _ => by simp only [implies_true, opMeterInit_prods, serveOp_prods]

theorem execRecoverAck_keeps : KeepsShadows execRecoverAck :=
  keeps_go_of_prods fun _ => by simp only [implies_true, serveOp_prods, opRecoverAck_prods]

theorem execFaultClear_keeps : KeepsShadows execFaultClear :=
  keeps_go_of_prods fun _ => by simp only [implies_true, serveOp_prods, opFaultClear_prods]

/-! ### The Franking Unit's supplies, clock and pins (R399 to R450) -/

theorem execFuKeepEntry_keeps : KeepsShadows execFuKeepEntry :=
  keeps_go_of_prods fun _ => by simp only [prods_mk, coreProds_cores, Chip.setF_prods, Chip.modFu_prods, fuDo_prods]

theorem execVsbFRise_keeps : KeepsShadows execVsbFRise :=
  keeps_go_of_prods fun _ => by simp only [prods_mk, coreProds_cores, Chip.setF_prods, Chip.setReg_prods, Chip.modFu_prods, fuDo_prods]

theorem execVddioFuChange_keeps (present : Bool) : KeepsShadows (execVddioFuChange present) :=
  keeps_go_of_prods fun _ => by simp only [ite_prods, ite_self, releaseOutputs_prods, Chip.modFu_prods, fuDo_prods]

theorem execFuWdtKick_keeps (v : Word) : KeepsShadows (execFuWdtKick v) :=
  keeps_go_of_prods fun _ => by simp only [ite_prods, ite_self, writeFuWdt_prods]

theorem execRtcSecond_keeps : KeepsShadows execRtcSecond :=
  keeps_go_of_prods fun _ => by
    simp only [ite_prods]
    repeat' split
    all_goals simp only [Chip.setF_prods, Chip.setReg_prods, Chip.modFu_prods]

theorem execRtcXtalStop_keeps : KeepsShadows execRtcXtalStop :=
  keeps_go_of_prods fun _ => by simp only [Chip.setF_prods, fuDo_prods]

theorem execOscTrim_keeps (meas : Fin 262144) (code : Fin 256) : KeepsShadows (execOscTrim meas code) :=
  keeps_go_of_prods fun _ => by simp only [ite_prods, ite_self, Chip.setF_prods]

theorem execPulseEdge_keeps (i : Fin 8) (level : Bool) (us : Nat) : KeepsShadows (execPulseEdge i level us) :=
  keeps_go_of_prods fun _ => by simp only [ite_prods, ite_self, Chip.setRegBit_prods, Chip.setReg_prods, classifyEdge_prods, fuDo_prods]

theorem execPulseJam_keeps (i : Fin 8) : KeepsShadows (execPulseJam i) :=
  keeps_go_of_prods fun _ => by simp only [ite_prods, ite_self, jamInput_prods, fuDo_prods]

theorem execPulseResume_keeps (i : Fin 8) : KeepsShadows (execPulseResume i) :=
  keeps_go_of_prods fun _ => by simp only [ite_prods, ite_self, Chip.modPulse_prods, fuDo_prods]

theorem execPulseCommit_keeps : KeepsShadows execPulseCommit :=
  keeps_go_of_prods fun _ => by simp only [ite_prods, ite_self, fuDo_prods, commitPulses_prods]

theorem execMeterPulseStart_keeps (k : Fin 8) : KeepsShadows (execMeterPulseStart k) :=
  keeps_go_of_prods fun _ => by simp only [ite_prods, ite_self, Chip.setRegBit_prods, Chip.modMeterOut_prods]

theorem execMeterPulseOff_keeps (k : Fin 8) : KeepsShadows (execMeterPulseOff k) :=
  keeps_go_of_prods fun _ => by simp only [ite_prods, ite_self, Chip.setRegBit_prods, Chip.modMeterOut_prods]

theorem execMeterPulseEnd_keeps (k : Fin 8) : KeepsShadows (execMeterPulseEnd k) :=
  keeps_go_of_prods fun _ => by simp only [ite_prods, ite_self, Chip.modMeterOut_prods]

theorem execMeterReadback_keeps (k : Fin 8) (high : Bool) : KeepsShadows (execMeterReadback k high) :=
  keeps_go_of_prods fun _ => by simp only [ite_prods, ite_self, Chip.setRegBit_prods, Chip.modMeterOut_prods, fuEvent_prods, fuDo_prods]

theorem execDoorOpen_keeps (d : Fin 4) : KeepsShadows (execDoorOpen d) :=
  keeps_go_of_prods fun _ => by
    simp only [ite_prods, ite_self, Chip.setRegBit_prods, storeDoor_prods, fuEvent_prods, Chip.flag_prods, fuDo_prods]

theorem execDoorClose_keeps (d : Fin 4) : KeepsShadows (execDoorClose d) :=
  keeps_go_of_prods fun _ => by simp only [ite_prods, ite_self, Chip.setRegBit_prods]

theorem execArchiveWrite_keeps (ok : Bool) : KeepsShadows (execArchiveWrite ok) :=
  keeps_go_of_prods fun _ => by simp only [ite_prods, ite_self, commitDoors_prods, Chip.modFu_prods, fuDo_prods]

theorem execFuSpiGo_keeps (v : Word) : KeepsShadows (execFuSpiGo v) :=
  keeps_go_of_prods fun _ => by simp only [ite_prods, ite_self, writeFuSpiCmd_prods]

theorem execFuSpiDone_keeps (ok : Bool) (data : List Byte) : KeepsShadows (execFuSpiDone ok data) :=
  keeps_go_of_prods fun _ => by simp only [ite_prods, ite_self, Chip.setF_prods, Chip.modFu_prods]

theorem execFuSpiDataAccess_keeps (w : Option Word) : KeepsShadows (execFuSpiDataAccess w) :=
  keeps_go_of_prods fun _ => by simp only [ite_prods, ite_self, implies_true, writeFuSpiData_prods, readFuSpiData_prods, regAccess_prods]

theorem execFuMirDataAccess_keeps (w : Option Word) : KeepsShadows (execFuMirDataAccess w) :=
  keeps_go_of_prods fun _ => by simp only [ite_prods, ite_self, implies_true, readFuMirData_prods, regAccess_prods, writeFuMirData_prods]

theorem execFuMirSend_keeps : KeepsShadows execFuMirSend :=
  keeps_go_of_prods fun _ => by simp only [ite_prods, ite_self, sendMirror_prods]

theorem execMirrorCommitReceive_keeps (e : Option JEntry) (receipt : Option (Nat × List Word)) (outs : List (Nat × Nat × Nat × Bool))
    (tagOk : Bool) :
    KeepsShadows (execMirrorCommitReceive e receipt outs tagOk) :=
  keeps_go_of_prods fun _ => by
    simp only [ite_prods]
    repeat' split
    all_goals simp only [implies_true, forAll_prods, Chip.zowSend_prods, takeMirrored_prods, mirrorOutputs_prods, receiveCommit_prods,
        Chip.modFu_prods, fuDo_prods]

theorem execMirrorAckTimeout_keeps : KeepsShadows execMirrorAckTimeout :=
  keeps_go_of_prods fun _ => by simp only [ite_prods, ite_self, fuEvent_prods, Chip.modFu_prods, fuDo_prods]

theorem execFuDemote_keeps : KeepsShadows execFuDemote :=
  keeps_go_of_prods fun _ => by simp only [ite_prods, ite_self, Chip.setF_prods, Chip.modFu_prods, fuDo_prods]

theorem execNoticeGraceExpire_keeps (o : Fin 4) : KeepsShadows (execNoticeGraceExpire o) :=
  keeps_go_of_prods fun _ => by simp only [ite_prods, ite_self, noticeFault_prods, Chip.modFu_prods]

/-! ### The display outputs (R285 to R322) -/

theorem execLineTimedWritePerform_keeps (o : Fin 4) : KeepsShadows (execLineTimedWritePerform o) :=
  keeps_go_of_prods fun _ => by
    dsimp only
    split <;> simp only [ite_prods, ite_self, performDue_prods]

theorem execLineStart_keeps (o : Fin 4) : KeepsShadows (execLineStart o) :=
  keeps_go_of_prods fun _ => by simp only [ite_prods, ite_self, lineStart_prods]

theorem execFrameStart_keeps (o : Fin 4) : KeepsShadows (execFrameStart o) :=
  keeps_go_of_prods fun _ => by simp only [ite_prods, ite_self, dueFrame_prods]

theorem execOutSegmentRead_keeps (o : Fin 4) (parity : Option (Fin 512)) : KeepsShadows (execOutSegmentRead o parity) :=
  keeps_go_of_prods fun _ => by simp only [ite_prods, ite_self, readSegment_prods]

theorem execFrameDone_keeps (o : Fin 4) : KeepsShadows (execFrameDone o) :=
  keeps_go_of_prods fun _ => by simp only [ite_prods, ite_self, frameDone_prods]

theorem execOutEnable_keeps (o : Fin 4) (en : Bool) : KeepsShadows (execOutEnable o en) :=
  keeps_go_of_prods fun _ => by simp only [ite_prods, ite_self, writeOutCtl_prods]

theorem execPairWrite_keeps (o : Fin 4) (pair : Bool) : KeepsShadows (execPairWrite o pair) :=
  keeps_go_of_prods fun _ => by simp only [ite_prods, ite_self, writeOutCtl_prods]

theorem execSceneReady_keeps (o : Fin 4) : KeepsShadows (execSceneReady o) :=
  keeps_go_of_prods fun _ => by simp only [ite_prods, ite_self, Chip.setF_prods]

theorem execBeamCapture_keeps (o : Fin 4) (x : Fin 16384) : KeepsShadows (execBeamCapture o x) :=
  keeps_go_of_prods fun _ => by
    dsimp only
    split <;> simp only [ite_prods, ite_self, prods_mk, coreProds_cores, beamCapture_prods]

/-! ### The ports and the analog pins (R306 to R319) -/

theorem execXbarWrite_keeps (d src : Fin 4) (en : Bool) : KeepsShadows (execXbarWrite d src en) :=
  keeps_go_of_prods fun _ => by simp only [ite_prods, ite_self, writeXbar_prods]

theorem execXbarDone_keeps (d : Fin 4) : KeepsShadows (execXbarDone d) :=
  keeps_go_of_prods fun _ => by
    dsimp only
    split <;> simp only [ite_prods, ite_self, Chip.setF_prods, outEvt_prods, Chip.setPort_prods]

theorem execHpdRise_keeps (d : Fin 4) : KeepsShadows (execHpdRise d) :=
  keeps_go_of_prods fun _ => by simp only [ite_prods, ite_self, Chip.setF_prods, Chip.setPort_prods]

theorem execLinkTrained_keeps (d : Fin 4) (rates : List Nat) (lanes : Fin 3) (async : Bool) (range : Nat × Nat) :
    KeepsShadows (execLinkTrained d rates lanes async range) :=
  keeps_go_of_prods fun _ => by
    simp only [ite_prods]
    repeat' split
    all_goals simp only [Chip.setF_prods, outEvt_prods, Chip.setPort_prods]

theorem execLinkFail_keeps (d : Fin 4) (hpdFell : Bool) : KeepsShadows (execLinkFail d hpdFell) :=
  keeps_go_of_prods fun _ => by simp only [ite_prods, ite_self, Chip.setF_prods, outEvt_prods, Chip.setPort_prods]

theorem execRetrain_keeps (d : Fin 4) : KeepsShadows (execRetrain d) :=
  keeps_go_of_prods fun _ => by simp only [ite_prods, ite_self, retrain_prods]

theorem execAuxStart_keeps (d : Fin 4) : KeepsShadows (execAuxStart d) :=
  keeps_go_of_prods fun _ => by simp only [ite_prods, ite_self, Chip.setF_prods]

theorem execAuxDone_keeps (d result : Fin 4) (data : List Byte) : KeepsShadows (execAuxDone d result data) :=
  keeps_go_of_prods fun _ => by simp only [ite_prods, ite_self, forAll_prods, implies_true, Chip.setF_prods, Chip.setReg_prods]

/-! ### The Press (R324 to R342) -/

theorem execPressGo_keeps : KeepsShadows execPressGo :=
  keeps_go_of_prods fun _ => by simp only [ite_prods, ite_self, pressGo_prods]

theorem execPressAbort_keeps (late : Bool) : KeepsShadows (execPressAbort late) :=
  keeps_go_of_prods fun _ => by simp only [ite_prods, ite_self, pressAbort_prods]

theorem execPressCopy_keeps : KeepsShadows execPressCopy :=
  keeps_go_of_prods fun _ => rectStep_prods ..

theorem execPressFill_keeps : KeepsShadows execPressFill :=
  keeps_go_of_prods fun _ => rectStep_prods ..

theorem execPressConvert_keeps : KeepsShadows execPressConvert :=
  keeps_go_of_prods fun _ => rectStep_prods ..

theorem execPressBlend_keeps : KeepsShadows execPressBlend :=
  keeps_go_of_prods fun _ => rectStep_prods ..

theorem execPressClip_keeps : KeepsShadows execPressClip :=
  keeps_go_of_prods fun _ => by simp only [implies_true, completeCmd_prods, plainStep_prods, Chip.modPress_prods]

theorem execPressJump_keeps : KeepsShadows execPressJump :=
  keeps_go_of_prods fun _ => by simp only [implies_true, completeCmd_prods, plainStep_prods, Chip.modPress_prods]

theorem execPressEnd_keeps : KeepsShadows execPressEnd :=
  keeps_go_of_prods fun _ => by simp only [implies_true, endList_prods, completeCmd_prods, plainStep_prods]

theorem execPressReadReturn_keeps : KeepsShadows execPressReadReturn :=
  keeps_go_of_prods fun _ => by
    simp only [ite_prods]
    repeat' split
    all_goals simp only [chunkRead_prods]

theorem execPressWriteAck_keeps : KeepsShadows execPressWriteAck :=
  keeps_go_of_prods fun _ => by
    simp only [ite_prods]
    repeat' split
    all_goals simp only [chunkWrite_prods]

theorem execPressDeadTimeEnd_keeps : KeepsShadows execPressDeadTimeEnd :=
  keeps_go_of_prods fun _ => by simp only [ite_prods, ite_self, Chip.modPress_prods]

/-! ### The DMA channels (R343 to R356) -/

theorem execDmaGo_keeps (i : Fin 32) : KeepsShadows (execDmaGo i) :=
  keeps_go_of_prods fun _ => by simp only [ite_prods, ite_self, dmaGo_prods]

theorem execDmaPause_keeps (i : Fin 32) (outstanding : Bool) : KeepsShadows (execDmaPause i outstanding) :=
  keeps_go_of_prods fun _ => by simp only [ite_prods, ite_self, dmaEnable_prods]

theorem execDmaResume_keeps (i : Fin 32) : KeepsShadows (execDmaResume i) :=
  keeps_go_of_prods fun _ => by simp only [ite_prods, ite_self, dmaEnable_prods]

theorem execDmaAbort_keeps (i : Fin 32) (outstanding : Bool) : KeepsShadows (execDmaAbort i outstanding) :=
  keeps_go_of_prods fun _ => by simp only [ite_prods, ite_self, dmaAbort_prods]

theorem execDmaEnvelopeFetch_keeps (i : Fin 32) : KeepsShadows (execDmaEnvelopeFetch i) :=
  keeps_go_of_prods fun _ => by simp only [ite_prods, ite_self, Chip.modDma_prods, dmaUse_prods, fetchList_prods]

theorem execDmaEngineFault_keeps : KeepsShadows execDmaEngineFault :=
  keeps_go_of_prods fun _ => by simp only [ite_prods, ite_self, Chip.setF_prods, unitFatal_prods, dmaStopAll_prods]

/-! ### Audio (R357 to R396) -/

theorem execDomainStart_keeps (d : Fin 3) (en : Bool) : KeepsShadows (execDomainStart d en) :=
  keeps_go_of_prods fun _ => by simp only [ite_prods, ite_self, writeAudCtl_prods]

theorem execSlipGo_keeps (d : Fin 3) : KeepsShadows (execSlipGo d) :=
  keeps_go_of_prods fun _ => by simp only [ite_prods, ite_self, writeSlipNext_prods]

theorem execVcqWrWrite_keeps (d : Fin 3) (wr : Fin 64) : KeepsShadows (execVcqWrWrite d wr) :=
  keeps_go_of_prods fun _ => by simp only [ite_prods, ite_self, writeVcq_prods]

theorem execAudioTick_keeps (d : Fin 3) : KeepsShadows (execAudioTick d) :=
  keeps_go_of_prods fun _ => by
    simp only [ite_prods, ite_self, Chip.modDom_prods, blockStart_prods, audEvt_prods, sendSamples_prods, stopDomain_prods]

theorem execBridgeRatioMeasure_keeps (b : Fin 16) (ratio : Nat) : KeepsShadows (execBridgeRatioMeasure b ratio) :=
  keeps_go_of_prods fun _ => by simp only [ite_prods, ite_self, Chip.setF_prods, Chip.modBridge_prods]

theorem execRxSample_keeps (p : Fin 2) (slot : Fin 16) (v : Int) (late : Bool) : KeepsShadows (execRxSample p slot v late) :=
  keeps_go_of_prods fun _ => by simp only [ite_prods, ite_self, Chip.modDom_prods, aioEvt_prods]

theorem execAudclkBLoss_keeps : KeepsShadows execAudclkBLoss :=
  keeps_go_of_prods fun _ => by simp only [ite_prods, ite_self, aioEvt_prods]

/-! ### Twin operation (R457 to R492) -/

theorem execZowEnable_keeps (en : Bool) : KeepsShadows (execZowEnable en) :=
  keeps_go_of_prods fun _ => by simp only [ite_prods, ite_self, writeZowCtl_prods]

theorem execZowTrainDone_keeps (rate : Fin 3) : KeepsShadows (execZowTrainDone rate) :=
  keeps_go_of_prods fun _ => by simp only [ite_prods, ite_self, Chip.setF_prods, Chip.modZow_prods, setZowState_prods, zowEvt_prods]

theorem execZowTrainTimeout_keeps : KeepsShadows execZowTrainTimeout :=
  keeps_go_of_prods fun _ => by simp only [ite_prods, ite_self, refuse_prods]

theorem execLaneFail_keeps (l : Fin 5) (two : Fin 32) : KeepsShadows (execLaneFail l two) :=
  keeps_go_of_prods fun _ => by
    simp only [ite_prods]
    repeat' split
    all_goals simp only [Chip.setF_prods, Chip.setRegBit_prods, Chip.repairAdd_prods, zowEvt_prods, linkDown_prods, Chip.journal_prods]

theorem execZowAuthDone_keeps (p : Peer) : KeepsShadows (execZowAuthDone p) :=
  keeps_go_of_prods fun _ => by
    simp only [ite_prods]
    repeat' split
    all_goals simp only [implies_true, forAll_prods, Chip.stepCount_prods, giveShadows_prods, refuse_prods, Chip.setF_prods,
        Chip.modZow_prods, setZowState_prods, Chip.modFu_prods, fuDo_prods, recordOnly_prods, takeShadow_prods]

theorem execSyncProbe_keeps (t1 t2 t3 t4 : Nat) : KeepsShadows (execSyncProbe t1 t2 t3 t4) :=
  keeps_go_of_prods fun _ => by
    simp only [ite_prods, ite_self, Chip.zowSend_prods, Chip.setF_prods, Chip.modZow_prods, setZowState_prods]

theorem execZowResync_keeps (peer : List JEntry) (wins : List Word) : KeepsShadows (execZowResync peer wins) :=
  keeps_go_of_prods fun _ => by
    simp only [ite_prods]
    repeat' split
    all_goals simp only [refuse_prods, Chip.setF_prods, Chip.modZow_prods, setZowState_prods, fuCommit_prods, Chip.modFu_prods,
        rejoin_prods, fuDo_prods, zowEvt_prods]

theorem execZowFrameReceive_keeps (f : LinkFrame) : KeepsShadows (execZowFrameReceive f) :=
  keeps_go_of_prods fun _ => by simp only [ite_prods, ite_self, Chip.modZow_prods, deliverFrame_prods, Chip.journal_prods]

theorem execHeartbeatSend_keeps : KeepsShadows execHeartbeatSend :=
  keeps_go_of_prods fun _ => by simp only [ite_prods, ite_self, Chip.zowSend_prods, Chip.modZow_prods]

theorem execHeartbeatReceive_keeps (elig : Bool) (gen : Nat) : KeepsShadows (execHeartbeatReceive elig gen) :=
  keeps_go_of_prods fun _ => by simp only [ite_prods, ite_self, Chip.modZow_prods]

theorem execLeaseRenew_keeps : KeepsShadows execLeaseRenew :=
  keeps_go_of_prods fun _ => by simp only [ite_prods, ite_self, Chip.modZow_prods]

theorem execLeaseExpire_keeps : KeepsShadows execLeaseExpire :=
  keeps_go_of_prods fun _ => Chip.modZow_prods ..

theorem execMirrorKeepalive_keeps : KeepsShadows execMirrorKeepalive :=
  keeps_go_of_prods fun _ => by simp only [ite_prods, ite_self, Chip.zowSend_prods]

theorem execTakeover_keeps (missed held : Bool) : KeepsShadows (execTakeover missed held) :=
  keeps_go_of_prods fun _ => by
    simp only [ite_prods, ite_self, Chip.setF_prods, Chip.modZow_prods, fuDo_prods, zowEvt_prods, linkDown_prods, takeShadows_prods]

theorem execFollowReceive_keeps (o : Fin 4) (f : Follow) : KeepsShadows (execFollowReceive o f) :=
  keeps_go_of_prods fun _ => by simp only [ite_prods, ite_self, Chip.modZow_prods]

theorem execFollowFrameStart_keeps (o : Fin 4) : KeepsShadows (execFollowFrameStart o) :=
  keeps_go_of_prods fun _ => by
    dsimp only
    split <;> simp only [ite_prods, ite_self, Chip.setF_prods, frameStart_prods, Chip.modZow_prods, takeOverHand_prods, fuDo_prods,
        zowEvt_prods]

theorem execSealReceive_keeps (o : Fin 4) (frame crc : BitVec 32) : KeepsShadows (execSealReceive o frame crc) :=
  keeps_go_of_prods fun _ => by
    simp only [ite_prods]
    repeat' split
    all_goals simp only [compareSeal_prods, Chip.modZow_prods]

theorem execSnapshotPost_keeps (len : Fin 4096) : KeepsShadows (execSnapshotPost len) :=
  keeps_go_of_prods fun _ => by simp only [ite_prods, ite_self, writeSnapPost_prods]

theorem execSnapshotReceive_keeps (x : Snap) : KeepsShadows (execSnapshotReceive x) :=
  keeps_go_of_prods fun _ => by simp only [ite_prods, ite_self, Chip.modZow_prods, releaseSnaps_prods]

theorem execReplicationApply_keeps (stream : Fin 5) (seq : Nat) (l : CapLine) : KeepsShadows (execReplicationApply stream seq l) :=
  keeps_go_of_prods fun _ => by simp only [ite_prods, ite_self, applyLines_prods, Chip.modZow_prods, releaseSnaps_prods]

theorem execBulkGo_keeps : KeepsShadows execBulkGo :=
  keeps_go_of_prods fun _ => by simp only [ite_prods, ite_self, bulkGo_prods]

theorem execBulkDone_keeps : KeepsShadows execBulkDone :=
  keeps_go_of_prods fun _ => by simp only [ite_prods, ite_self, Chip.modZow_prods, zowEvt_prods]

theorem execHandover_keeps : KeepsShadows execHandover :=
  keeps_go_of_prods fun _ => by simp only [ite_prods, ite_self, handover_prods]

theorem execDetach_keeps : KeepsShadows execDetach :=
  keeps_go_of_prods fun _ => by simp only [ite_prods, ite_self, detach_prods]

theorem execTreset_keeps : KeepsShadows execTreset :=
  keeps_go_of_prods fun _ => by simp only [ite_prods, ite_self, treset_prods]

theorem execSeed_keeps (copy : Option (Nat × List (Nat × Nat))) : KeepsShadows (execSeed copy) :=
  keeps_go_of_prods fun _ => by
    simp only [ite_prods]
    repeat' split
    all_goals simp only [seedLead_prods, seedMirror_prods]

theorem execClearDiv_keeps : KeepsShadows execClearDiv :=
  keeps_go_of_prods fun _ => by simp only [ite_prods, ite_self, clearDiv_prods]

/-! ### Reset, power and fuses (chapter 14) -/

theorem execNresetDeassert_keeps : KeepsShadows execNresetDeassert :=
  keeps_go fun _ h => releaseReset_shadowsOk h ..

theorem execTReset_keeps : KeepsShadows execTReset :=
  keeps_go fun _ h => of_ite (causeReset_shadowsOk h ..) h

theorem execUnitResetDone_keeps (u : BitVec 9) : KeepsShadows (execUnitResetDone u) :=
  keeps_go_of_prods fun _ => by simp only [prods_mk, coreProds_cores]

theorem execPdRampDone_keeps (d : Fin 118) : KeepsShadows (execPdRampDone d) :=
  keeps_go_of_prods fun _ => by simp only [ite_prods, ite_self, Chip.setDomain_prods]

theorem execMainEnAutoRise_keeps : KeepsShadows execMainEnAutoRise :=
  keeps_go_of_prods fun _ => by simp only [ite_prods, ite_self, Chip.setMainEn_prods]

theorem execNapEntry_keeps : KeepsShadows execNapEntry :=
  keeps_go_of_prods fun _ => by simp only [ite_prods, ite_self, prods_mk, coreProds_cores]

theorem execNapWake_keeps : KeepsShadows execNapWake :=
  keeps_go_of_prods fun _ => by
    simp only [ite_prods, ite_self, prods_mk, coreProds_cores, Chip.loadReplicas_prods, wakeSources_prods, Chip.flag_prods]

theorem execDormantWake_keeps (dramKept : Bool) : KeepsShadows (execDormantWake dramKept) :=
  keeps_go_of_prods fun _ => by simp only [ite_prods, ite_self, dormantWake_prods]

theorem execPgoodTimeout_keeps : KeepsShadows execPgoodTimeout :=
  keeps_go_of_prods fun _ => by simp only [ite_prods, ite_self, prods_mk, coreProds_cores, Chip.setMainEn_prods, Chip.journal_prods]

theorem execFuseOpDone_keeps : KeepsShadows execFuseOpDone :=
  keeps_go_of_prods fun _ => by
    dsimp only
    split <;> simp only [prods_mk, coreProds_cores, Chip.setF_prods, Chip.setRegBit_prods]

/-! ### The watchdogs' commands (R521 to R525) -/

theorem execWdtTick_keeps (w : Fin 16) : KeepsShadows (execWdtTick w) :=
  keeps_go fun _ h => wdtTick_shadowsOk h ..

theorem execWdtWarn_keeps (w : Fin 16) : KeepsShadows (execWdtWarn w) :=
  keeps_go fun _ h => of_ite (wdtTick_shadowsOk h ..) h

theorem execWdtExpire_keeps (w : Fin 16) : KeepsShadows (execWdtExpire w) :=
  keeps_go fun _ h => of_ite (wdtTick_shadowsOk h ..) h

theorem execWdtKick_keeps (o : BitVec 12) (w : Fin 16) (v : Word) : KeepsShadows (execWdtKick o w v) :=
  keeps_go fun _ h => of_ite (writeWdtKick_shadowsOk h ..) h

theorem execWdtCtlWrite_keeps (w : Fin 16) (v : Word) : KeepsShadows (execWdtCtlWrite w v) :=
  keeps_go_of_prods fun _ => by simp only [ite_prods, ite_self, writeWdtCtl_prods]

/-! ### The integer, lane and predicate instructions (R69 to R74) -/

theorem execAdd_keeps (k : Fin 64) (cond : BitVec 4) (rd ra rb : BitVec 5) : KeepsShadows (execAdd k cond rd ra rb) :=
  keeps_instr (bodyOk_of_prods (fun _ => bodyAdd_prods ..) _) _ _

theorem execSub_keeps (k : Fin 64) (cond : BitVec 4) (rd ra rb : BitVec 5) : KeepsShadows (execSub k cond rd ra rb) :=
  keeps_instr (bodyOk_of_prods (fun _ => bodySub_prods ..) _) _ _

theorem execAnd_keeps (k : Fin 64) (cond : BitVec 4) (rd ra rb : BitVec 5) : KeepsShadows (execAnd k cond rd ra rb) :=
  keeps_instr (bodyOk_of_prods (fun _ => bodyAnd_prods ..) _) _ _

theorem execOr_keeps (k : Fin 64) (cond : BitVec 4) (rd ra rb : BitVec 5) : KeepsShadows (execOr k cond rd ra rb) :=
  keeps_instr (bodyOk_of_prods (fun _ => bodyOr_prods ..) _) _ _

theorem execXor_keeps (k : Fin 64) (cond : BitVec 4) (rd ra rb : BitVec 5) : KeepsShadows (execXor k cond rd ra rb) :=
  keeps_instr (bodyOk_of_prods (fun _ => bodyXor_prods ..) _) _ _

theorem execAndn_keeps (k : Fin 64) (cond : BitVec 4) (rd ra rb : BitVec 5) : KeepsShadows (execAndn k cond rd ra rb) :=
  keeps_instr (bodyOk_of_prods (fun _ => bodyAndn_prods ..) _) _ _

theorem execNor_keeps (k : Fin 64) (cond : BitVec 4) (rd ra rb : BitVec 5) : KeepsShadows (execNor k cond rd ra rb) :=
  keeps_instr (bodyOk_of_prods (fun _ => bodyNor_prods ..) _) _ _

theorem execSll_keeps (k : Fin 64) (cond : BitVec 4) (rd ra rb : BitVec 5) : KeepsShadows (execSll k cond rd ra rb) :=
  keeps_instr (bodyOk_of_prods (fun _ => bodySll_prods ..) _) _ _

theorem execSrl_keeps (k : Fin 64) (cond : BitVec 4) (rd ra rb : BitVec 5) : KeepsShadows (execSrl k cond rd ra rb) :=
  keeps_instr (bodyOk_of_prods (fun _ => bodySrl_prods ..) _) _ _

theorem execSra_keeps (k : Fin 64) (cond : BitVec 4) (rd ra rb : BitVec 5) : KeepsShadows (execSra k cond rd ra rb) :=
  keeps_instr (bodyOk_of_prods (fun _ => bodySra_prods ..) _) _ _

theorem execRor_keeps (k : Fin 64) (cond : BitVec 4) (rd ra rb : BitVec 5) : KeepsShadows (execRor k cond rd ra rb) :=
  keeps_instr (bodyOk_of_prods (fun _ => bodyRor_prods ..) _) _ _

theorem execMin_keeps (k : Fin 64) (cond : BitVec 4) (rd ra rb : BitVec 5) : KeepsShadows (execMin k cond rd ra rb) :=
  keeps_instr (bodyOk_of_prods (fun _ => bodyMin_prods ..) _) _ _

theorem execMax_keeps (k : Fin 64) (cond : BitVec 4) (rd ra rb : BitVec 5) : KeepsShadows (execMax k cond rd ra rb) :=
  keeps_instr (bodyOk_of_prods (fun _ => bodyMax_prods ..) _) _ _

theorem execMinu_keeps (k : Fin 64) (cond : BitVec 4) (rd ra rb : BitVec 5) : KeepsShadows (execMinu k cond rd ra rb) :=
  keeps_instr (bodyOk_of_prods (fun _ => bodyMinu_prods ..) _) _ _

theorem execMaxu_keeps (k : Fin 64) (cond : BitVec 4) (rd ra rb : BitVec 5) : KeepsShadows (execMaxu k cond rd ra rb) :=
  keeps_instr (bodyOk_of_prods (fun _ => bodyMaxu_prods ..) _) _ _

theorem execClz_keeps (k : Fin 64) (cond : BitVec 4) (rd ra : BitVec 5) : KeepsShadows (execClz k cond rd ra) :=
  keeps_instr (bodyOk_of_prods (fun _ => bodyClz_prods ..) _) _ _

theorem execPopc_keeps (k : Fin 64) (cond : BitVec 4) (rd ra : BitVec 5) : KeepsShadows (execPopc k cond rd ra) :=
  keeps_instr (bodyOk_of_prods (fun _ => bodyPopc_prods ..) _) _ _

theorem execSexb_keeps (k : Fin 64) (cond : BitVec 4) (rd ra : BitVec 5) : KeepsShadows (execSexb k cond rd ra) :=
  keeps_instr (bodyOk_of_prods (fun _ => bodySexb_prods ..) _) _ _

theorem execSexh_keeps (k : Fin 64) (cond : BitVec 4) (rd ra : BitVec 5) : KeepsShadows (execSexh k cond rd ra) :=
  keeps_instr (bodyOk_of_prods (fun _ => bodySexh_prods ..) _) _ _

theorem execZexh_keeps (k : Fin 64) (cond : BitVec 4) (rd ra : BitVec 5) : KeepsShadows (execZexh k cond rd ra) :=
  keeps_instr (bodyOk_of_prods (fun _ => bodyZexh_prods ..) _) _ _

theorem execBswap_keeps (k : Fin 64) (cond : BitVec 4) (rd ra : BitVec 5) : KeepsShadows (execBswap k cond rd ra) :=
  keeps_instr (bodyOk_of_prods (fun _ => bodyBswap_prods ..) _) _ _

theorem execMfq_keeps (k : Fin 64) (cond : BitVec 4) (rd : BitVec 5) : KeepsShadows (execMfq k cond rd) :=
  keeps_instr (bodyOk_of_prods (fun _ => bodyMfq_prods ..) _) _ _

theorem execMtq_keeps (k : Fin 64) (cond : BitVec 4) (ra : BitVec 5) : KeepsShadows (execMtq k cond ra) :=
  keeps_instr (bodyOk_of_prods (fun _ => bodyMtq_prods ..) _) _ _

theorem execAddi_keeps (k : Fin 64) (cond : BitVec 4) (rd ra : BitVec 5) (imm : BitVec 12) : KeepsShadows (execAddi k cond rd ra imm) :=
  keeps_instr (bodyOk_of_prods (fun _ => bodyAddi_prods ..) _) _ _

theorem execAndi_keeps (k : Fin 64) (cond : BitVec 4) (rd ra : BitVec 5) (imm : BitVec 12) : KeepsShadows (execAndi k cond rd ra imm) :=
  keeps_instr (bodyOk_of_prods (fun _ => bodyAndi_prods ..) _) _ _

theorem execOri_keeps (k : Fin 64) (cond : BitVec 4) (rd ra : BitVec 5) (imm : BitVec 12) : KeepsShadows (execOri k cond rd ra imm) :=
  keeps_instr (bodyOk_of_prods (fun _ => bodyOri_prods ..) _) _ _

theorem execXori_keeps (k : Fin 64) (cond : BitVec 4) (rd ra : BitVec 5) (imm : BitVec 12) : KeepsShadows (execXori k cond rd ra imm) :=
  keeps_instr (bodyOk_of_prods (fun _ => bodyXori_prods ..) _) _ _

theorem execShi_keeps (k : Fin 64) (cond : BitVec 4) (rd ra : BitVec 5) (kind : BitVec 2) (n : BitVec 5) : KeepsShadows (execShi k cond rd
    ra kind n) :=
  keeps_instr (bodyOk_of_prods (fun _ => bodyShi_prods ..) _) _ _

theorem execLui_keeps (k : Fin 64) (cond : BitVec 4) (rd : BitVec 5) (imm : BitVec 16) : KeepsShadows (execLui k cond rd imm) :=
  keeps_instr (bodyOk_of_prods (fun _ => bodyLui_prods ..) _) _ _

theorem execLli_keeps (k : Fin 64) (cond : BitVec 4) (rd : BitVec 5) (imm : BitVec 16) : KeepsShadows (execLli k cond rd imm) :=
  keeps_instr (bodyOk_of_prods (fun _ => bodyLli_prods ..) _) _ _

theorem execPermb_keeps (k : Fin 64) (cond : BitVec 4) (rd ra : BitVec 5) (sel : BitVec 8) : KeepsShadows (execPermb k cond rd ra sel) :=
  keeps_instr (bodyOk_of_prods (fun _ => bodyPermb_prods ..) _) _ _

theorem execAddb_keeps (k : Fin 64) (cond : BitVec 4) (rd ra rb : BitVec 5) : KeepsShadows (execAddb k cond rd ra rb) :=
  keeps_instr (bodyOk_of_prods (fun _ => bodyAddb_prods ..) _) _ _

theorem execSubb_keeps (k : Fin 64) (cond : BitVec 4) (rd ra rb : BitVec 5) : KeepsShadows (execSubb k cond rd ra rb) :=
  keeps_instr (bodyOk_of_prods (fun _ => bodySubb_prods ..) _) _ _

theorem execAddusb_keeps (k : Fin 64) (cond : BitVec 4) (rd ra rb : BitVec 5) : KeepsShadows (execAddusb k cond rd ra rb) :=
  keeps_instr (bodyOk_of_prods (fun _ => bodyAddusb_prods ..) _) _ _

theorem execSubusb_keeps (k : Fin 64) (cond : BitVec 4) (rd ra rb : BitVec 5) : KeepsShadows (execSubusb k cond rd ra rb) :=
  keeps_instr (bodyOk_of_prods (fun _ => bodySubusb_prods ..) _) _ _

theorem execMinub_keeps (k : Fin 64) (cond : BitVec 4) (rd ra rb : BitVec 5) : KeepsShadows (execMinub k cond rd ra rb) :=
  keeps_instr (bodyOk_of_prods (fun _ => bodyMinub_prods ..) _) _ _

theorem execMaxub_keeps (k : Fin 64) (cond : BitVec 4) (rd ra rb : BitVec 5) : KeepsShadows (execMaxub k cond rd ra rb) :=
  keeps_instr (bodyOk_of_prods (fun _ => bodyMaxub_prods ..) _) _ _

theorem execAvgub_keeps (k : Fin 64) (cond : BitVec 4) (rd ra rb : BitVec 5) : KeepsShadows (execAvgub k cond rd ra rb) :=
  keeps_instr (bodyOk_of_prods (fun _ => bodyAvgub_prods ..) _) _ _

theorem execCmpeqb_keeps (k : Fin 64) (cond : BitVec 4) (rd ra rb : BitVec 5) : KeepsShadows (execCmpeqb k cond rd ra rb) :=
  keeps_instr (bodyOk_of_prods (fun _ => bodyCmpeqb_prods ..) _) _ _

theorem execCmpgtub_keeps (k : Fin 64) (cond : BitVec 4) (rd ra rb : BitVec 5) : KeepsShadows (execCmpgtub k cond rd ra rb) :=
  keeps_instr (bodyOk_of_prods (fun _ => bodyCmpgtub_prods ..) _) _ _

theorem execSadub_keeps (k : Fin 64) (cond : BitVec 4) (rd ra rb : BitVec 5) : KeepsShadows (execSadub k cond rd ra rb) :=
  keeps_instr (bodyOk_of_prods (fun _ => bodySadub_prods ..) _) _ _

theorem execCmp_keeps (k : Fin 64) (cond : BitVec 4) (qd : BitVec 3) (comb : BitVec 2) (ra rb : BitVec 5) (cc : BitVec 3) : KeepsShadows
    (execCmp k cond qd comb ra rb cc) :=
  keeps_instr (bodyOk_of_prods (fun _ => bodyCmp_prods ..) _) _ _

theorem execCmpi_keeps (k : Fin 64) (cond : BitVec 4) (qd : BitVec 3) (comb : BitVec 2) (ra : BitVec 5) (cc : BitVec 3) (imm : BitVec 9) :
    KeepsShadows (execCmpi k cond qd comb ra cc imm) :=
  keeps_instr (bodyOk_of_prods (fun _ => bodyCmpi_prods ..) _) _ _

theorem execPredicateLogic_keeps (k : Fin 64) (cond : BitVec 4) (qd qa qb : BitVec 3) (na nb : Bool) (op : BitVec 2) : KeepsShadows
    (execPredicateLogic k cond qd qa qb na nb op) :=
  keeps_instr (bodyOk_of_prods (fun _ => bodyPredicateLogic_prods ..) _) _ _

/-! ### The transfers of the DMA channels (R343 to R354) -/

theorem execDmaReadReturn_keeps (i : Fin 32) (transient : Bool) : KeepsShadows (execDmaReadReturn i transient) :=
  keeps_go_of_prods fun _ => by simp only [ite_prods, ite_self, dmaReadDone_prods, dmaReadRetry_prods]

theorem execPmuxHoldEnd_keeps (i : Fin 24) : KeepsShadows (execPmuxHoldEnd i) :=
  keeps_go_of_prods fun _ => by
    split <;> simp only [acked_prods, endHold_prods, applyDeferred_prods]

/-! ### The arbiters (R190 to R202) -/

theorem execHogCutoff_keeps (arb : Fin 256) : KeepsShadows (execHogCutoff arb) :=
  keeps_go_of_prods fun _ => by
    repeat' split
    all_goals simp only [cutGrant_prods]

theorem execDramTrainingDone_keeps (failed : List Nat) : KeepsShadows (execDramTrainingDone failed) :=
  keeps_go_of_prods fun _ => by
    split <;> simp only [acked_prods, Chip.endTraining_prods]

/-! ### The product instructions (R75 to R80) -/

theorem execMfpl_keeps (k : Fin 64) (cond : BitVec 4) (rd : BitVec 5) : KeepsShadows (execMfpl k cond rd) :=
  keeps_instr (bodyOk_of_prods (fun _ => bodyMfpl_prods ..) _) _ _

theorem execMfph_keeps (k : Fin 64) (cond : BitVec 4) (rd : BitVec 5) : KeepsShadows (execMfph k cond rd) :=
  keeps_instr (bodyOk_of_prods (fun _ => bodyMfph_prods ..) _) _ _

theorem execMtpl_keeps (k : Fin 64) (cond : BitVec 4) (ra : BitVec 5) : KeepsShadows (execMtpl k cond ra) :=
  keeps_instr (bodyOk_of_chip fun _ h => bodyMtpl_shadowsOk h ..) _ _

theorem execMtph_keeps (k : Fin 64) (cond : BitVec 4) (ra : BitVec 5) : KeepsShadows (execMtph k cond ra) :=
  keeps_instr (bodyOk_of_chip fun _ h => bodyMtph_shadowsOk h ..) _ _

/-! ### Branches and the predictor (R85 to R135) -/

theorem execB_keeps (k : Fin 64) (cond : BitVec 4) (annul : Bool) (disp : BitVec 21) : KeepsShadows (execB k cond annul disp) :=
  keeps_instrBranch (bodyOk_of_prods (fun _ => bodyB_prods ..) _) _ _ _

theorem execBl_keeps (k : Fin 64) (cond : BitVec 4) (annul : Bool) (disp : BitVec 21) : KeepsShadows (execBl k cond annul disp) :=
  keeps_instrBranch (bodyOk_of_prods (fun _ => bodyBl_prods ..) _) _ _ _

theorem execJr_keeps (k : Fin 64) (cond : BitVec 4) (annul : Bool) (ra : BitVec 5) : KeepsShadows (execJr k cond annul ra) :=
  keeps_instrBranch (bodyOk_of_prods (fun _ => bodyJr_prods ..) _) _ _ _

theorem execJlr_keeps (k : Fin 64) (cond : BitVec 4) (annul : Bool) (ra rd : BitVec 5) : KeepsShadows (execJlr k cond annul ra rd) :=
  keeps_instrBranch (bodyOk_of_prods (fun _ => bodyJlr_prods ..) _) _ _ _

theorem execMemorderFlush_keeps (k : Fin 8) (pc : Word) : KeepsShadows (execMemorderFlush k pc) :=
  keeps_go_of_prods fun _ => by simp only [modCore_prods, implies_true, Core.event_prod, pmcIrq_prods]

theorem execOverlapReplay_keeps (k : Fin 8) : KeepsShadows (execOverlapReplay k) :=
  keeps_go_of_prods fun _ => by simp only [modCore_prods, implies_true, Core.event_prod, pmcIrq_prods]

theorem execWaitTableClear_keeps (k : Fin 8) : KeepsShadows (execWaitTableClear k) :=
  keeps_go_of_prods fun _ => by simp only [ite_self, modCore_prods, ite_prod, implies_true]

/-! ### Loads, stores and fences (R81 to R102) -/

theorem execLb_keeps (k : Fin 64) (cond : BitVec 4) (rd ra : BitVec 5) (off : BitVec 12) : KeepsShadows (execLb k cond rd ra off) :=
  keeps_instr (bodyOk_of_prods (fun _ => bodyLb_prods ..) _) _ _

theorem execLbu_keeps (k : Fin 64) (cond : BitVec 4) (rd ra : BitVec 5) (off : BitVec 12) : KeepsShadows (execLbu k cond rd ra off) :=
  keeps_instr (bodyOk_of_prods (fun _ => bodyLbu_prods ..) _) _ _

theorem execLh_keeps (k : Fin 64) (cond : BitVec 4) (rd ra : BitVec 5) (off : BitVec 12) : KeepsShadows (execLh k cond rd ra off) :=
  keeps_instr (bodyOk_of_prods (fun _ => bodyLh_prods ..) _) _ _

theorem execLhu_keeps (k : Fin 64) (cond : BitVec 4) (rd ra : BitVec 5) (off : BitVec 12) : KeepsShadows (execLhu k cond rd ra off) :=
  keeps_instr (bodyOk_of_prods (fun _ => bodyLhu_prods ..) _) _ _

theorem execLw_keeps (k : Fin 64) (cond : BitVec 4) (rd ra : BitVec 5) (off : BitVec 12) : KeepsShadows (execLw k cond rd ra off) :=
  keeps_instr (bodyOk_of_prods (fun _ => bodyLw_prods ..) _) _ _

theorem execLl_keeps (k : Fin 64) (cond : BitVec 4) (rd ra : BitVec 5) (off : BitVec 12) : KeepsShadows (execLl k cond rd ra off) :=
  keeps_instr (bodyOk_of_prods (fun _ => bodyLl_prods ..) _) _ _

theorem execSc_keeps (k : Fin 64) (cond : BitVec 4) (rd ra : BitVec 5) (qd : BitVec 3) (off : BitVec 9) : KeepsShadows (execSc k cond rd ra
    qd off) :=
  keeps_instr (bodyOk_of_chip fun _ h => bodySc_shadowsOk h ..) _ _

theorem execLdsw_keeps (k : Fin 64) (cond : BitVec 4) (rd : BitVec 5) (a : BitVec 16) : KeepsShadows (execLdsw k cond rd a) :=
  keeps_instr (bodyOk_of_prods (fun _ => bodyLdsw_prods ..) _) _ _

theorem execLdshu_keeps (k : Fin 64) (cond : BitVec 4) (rd : BitVec 5) (a : BitVec 16) : KeepsShadows (execLdshu k cond rd a) :=
  keeps_instr (bodyOk_of_prods (fun _ => bodyLdshu_prods ..) _) _ _

theorem execFenceS_keeps (k : Fin 64) (cond : BitVec 4) : KeepsShadows (execFenceS k cond) :=
  keeps_instr (bodyOk_of_prods (fun _ => bodyFenceS_prods ..) _) _ _

theorem execFenceF_keeps (k : Fin 64) (cond : BitVec 4) : KeepsShadows (execFenceF k cond) :=
  keeps_instr (bodyOk_of_prods (fun _ => bodyFenceF_prods ..) _) _ _

theorem execFenceIo_keeps (k : Fin 64) (cond : BitVec 4) : KeepsShadows (execFenceIo k cond) :=
  keeps_instr (bodyOk_of_prods (fun _ => bodyFenceIo_prods ..) _) _ _

theorem execIsync_keeps (k : Fin 64) (cond : BitVec 4) : KeepsShadows (execIsync k cond) :=
  keeps_instr (bodyOk_of_prods (fun _ => bodyIsync_prods ..) _) _ _

theorem execStoreBusErrorReport_keeps (k : Fin 64) : KeepsShadows (execStoreBusErrorReport k) :=
  keeps_go fun _ h => of_ite (reportBusError_shadowsOk h ..) h

theorem execStoreAck_keeps (k : Fin 64) : KeepsShadows (execStoreAck k) :=
  keeps_go_of_prods fun _ => ackOldest_prods ..

theorem execStoreBufferDrain_keeps (k : Fin 64) : KeepsShadows (execStoreBufferDrain k) :=
  keeps_go_of_prods fun _ => drainOldest_prods ..

/-! ### CP0, interrupts and waiting (R112 to R121) -/

theorem execCsrw_keeps (k : Fin 64) (cond : BitVec 4) (ga : BitVec 5) (csr : BitVec 10) : KeepsShadows (execCsrw k cond ga csr) :=
  keeps_instr (bodyOk_of_chip fun _ h => bodyCsrw_shadowsOk h ..) _ _

theorem execCsrs_keeps (k : Fin 64) (cond : BitVec 4) (ga : BitVec 5) (csr : BitVec 10) : KeepsShadows (execCsrs k cond ga csr) :=
  keeps_instr (bodyOk_of_chip fun _ h => bodyCsrs_shadowsOk h ..) _ _

theorem execCsrc_keeps (k : Fin 64) (cond : BitVec 4) (ga : BitVec 5) (csr : BitVec 10) : KeepsShadows (execCsrc k cond ga csr) :=
  keeps_instr (bodyOk_of_chip fun _ h => bodyCsrc_shadowsOk h ..) _ _

theorem execEret_keeps (k : Fin 64) (cond : BitVec 4) : KeepsShadows (execEret k cond) :=
  keeps_instr (bodyOk_of_chip fun _ h => bodyEret_shadowsOk h ..) _ _

theorem execWait_keeps (k : Fin 64) (cond : BitVec 4) : KeepsShadows (execWait k cond) :=
  keeps_instr (bodyOk_of_prods (fun _ => bodyWait_prods ..) _) _ _

theorem execRegsync_keeps (k : Fin 64) (cond : BitVec 4) (ga : BitVec 5) : KeepsShadows (execRegsync k cond ga) :=
  keeps_instr (bodyOk_of_prods (fun _ => bodyRegsync_prods ..) _) _ _

theorem execCline_keeps (k : Fin 64) (cond : BitVec 4) (ga : BitVec 5) (kind : BitVec 2) : KeepsShadows (execCline k cond ga kind) :=
  keeps_instr (bodyOk_of_prods (fun _ => bodyCline_prods ..) _) _ _

theorem execRdpm_keeps (k : Fin 64) (cond : BitVec 4) (ga gb : BitVec 5) : KeepsShadows (execRdpm k cond ga gb) :=
  keeps_instr (bodyOk_of_prods (fun _ => bodyRdpm_prods ..) _) _ _

theorem execSyscall_keeps (k : Fin 64) (cond : BitVec 4) (code : BitVec 13) : KeepsShadows (execSyscall k cond code) :=
  keeps_instr (bodyOk_of_prods (fun _ => bodySyscall_prods ..) _) _ _

theorem execPmcOverflow_keeps (k : Fin 64) (n : Fin 10) : KeepsShadows (execPmcOverflow k n) :=
  keeps_go_of_prods fun _ => by simp only [ite_prods, ite_self, modCore_prods, ite_prod, implies_true, pmcIrq_prods]

/-! ### CP1 (R260 to R279) -/

theorem execLnext_keeps (k : Fin 64) (cond : BitVec 4) (gd ge : BitVec 5) : KeepsShadows (execLnext k cond gd ge) :=
  keeps_instr (bodyOk_of_prods (fun _ => bodyLnext_prods ..) _) _ _

theorem execLstat_keeps (k : Fin 64) (cond : BitVec 4) (gd : BitVec 5) : KeepsShadows (execLstat k cond gd) :=
  keeps_instr (bodyOk_of_prods (fun _ => bodyLstat_prods ..) _) _ _

theorem execLdead_keeps (k : Fin 64) (cond : BitVec 4) (gd : BitVec 5) : KeepsShadows (execLdead k cond gd) :=
  keeps_instr (bodyOk_of_prods (fun _ => bodyLdead_prods ..) _) _ _

theorem execMtx_keeps (k : Fin 64) (cond xd : BitVec 4) (ga : BitVec 5) : KeepsShadows (execMtx k cond xd ga) :=
  keeps_instr (bodyOk_of_prods (fun _ => bodyMtx_prods ..) _) _ _

theorem execMfx_keeps (k : Fin 64) (cond : BitVec 4) (gd : BitVec 5) (xa : BitVec 4) : KeepsShadows (execMfx k cond gd xa) :=
  keeps_instr (bodyOk_of_prods (fun _ => bodyMfx_prods ..) _) _ _

theorem execLset_keeps (k : Fin 64) (cond : BitVec 4) (gi gv : BitVec 5) : KeepsShadows (execLset k cond gi gv) :=
  keeps_instr (bodyOk_of_prods (fun _ => bodyLset_prods ..) _) _ _

theorem execLget_keeps (k : Fin 64) (cond : BitVec 4) (gd gi : BitVec 5) : KeepsShadows (execLget k cond gd gi) :=
  keeps_instr (bodyOk_of_prods (fun _ => bodyLget_prods ..) _) _ _

theorem execLgetr_keeps (k : Fin 64) (cond : BitVec 4) (gd : BitVec 5) (n : BitVec 7) : KeepsShadows (execLgetr k cond gd n) :=
  keeps_instr (bodyOk_of_prods (fun _ => bodyLgetr_prods ..) _) _ _

theorem execLput_keeps (k : Fin 64) (cond : BitVec 4) (a : BitVec 2) : KeepsShadows (execLput k cond a) :=
  keeps_instr (bodyOk_of_prods (fun _ => bodyLput_prods ..) _) _ _

theorem execLclose_keeps (k : Fin 64) (cond : BitVec 4) : KeepsShadows (execLclose k cond) :=
  keeps_instr (bodyOk_of_prods (fun _ => bodyLclose_prods ..) _) _ _

theorem execLdraw_keeps (k : Fin 64) (cond : BitVec 4) : KeepsShadows (execLdraw k cond) :=
  keeps_instr (bodyOk_of_prods (fun _ => bodyLdraw_prods ..) _) _ _

theorem execLend_keeps (k : Fin 64) (cond : BitVec 4) : KeepsShadows (execLend k cond) :=
  keeps_instr (bodyOk_of_prods (fun _ => bodyLend_prods ..) _) _ _

/-! ### Lanes of CP2 (R364 to R375) -/

theorem execVadd_keeps (k : Fin 64) (cond : BitVec 4) (vd va vb : BitVec 5) : KeepsShadows (execVadd k cond vd va vb) :=
  keeps_instr (bodyOk_of_prods (fun _ => bodyVadd_prods ..) _) _ _

theorem execVsub_keeps (k : Fin 64) (cond : BitVec 4) (vd va vb : BitVec 5) : KeepsShadows (execVsub k cond vd va vb) :=
  keeps_instr (bodyOk_of_prods (fun _ => bodyVsub_prods ..) _) _ _

theorem execVmul_keeps (k : Fin 64) (cond : BitVec 4) (vd va vb : BitVec 5) : KeepsShadows (execVmul k cond vd va vb) :=
  keeps_instr (bodyOk_of_prods (fun _ => bodyVmul_prods ..) _) _ _

theorem execVmac_keeps (k : Fin 64) (cond : BitVec 4) (vd va vb : BitVec 5) : KeepsShadows (execVmac k cond vd va vb) :=
  keeps_instr (bodyOk_of_prods (fun _ => bodyVmac_prods ..) _) _ _

theorem execVminmax_keeps (k : Fin 64) (cond : BitVec 4) (vd va vb : BitVec 5) (greater : Bool) : KeepsShadows (execVminmax k cond vd va vb
    greater) :=
  keeps_instr (bodyOk_of_prods (fun _ => bodyVminmax_prods ..) _) _ _

theorem execVunary_keeps (k : Fin 64) (cond : BitVec 4) (vd va : BitVec 5) (m : BitVec 2) : KeepsShadows (execVunary k cond vd va m) :=
  keeps_instr (bodyOk_of_prods (fun _ => bodyVunary_prods ..) _) _ _

theorem execVdiv_keeps (k : Fin 64) (cond : BitVec 4) (vd va vb : BitVec 5) : KeepsShadows (execVdiv k cond vd va vb) :=
  keeps_instr (bodyOk_of_prods (fun _ => bodyVdiv_prods ..) _) _ _

theorem execVcvtf_keeps (k : Fin 64) (cond : BitVec 4) (vd va : BitVec 5) (m : BitVec 2) : KeepsShadows (execVcvtf k cond vd va m) :=
  keeps_instr (bodyOk_of_prods (fun _ => bodyVcvtf_prods ..) _) _ _

theorem execVcvti_keeps (k : Fin 64) (cond : BitVec 4) (vd va : BitVec 5) (m : BitVec 2) : KeepsShadows (execVcvti k cond vd va m) :=
  keeps_instr (bodyOk_of_prods (fun _ => bodyVcvti_prods ..) _) _ _

theorem execViadd_keeps (k : Fin 64) (cond : BitVec 4) (vd va vb : BitVec 5) (sub : Bool) : KeepsShadows (execViadd k cond vd va vb sub) :=
  keeps_instr (bodyOk_of_prods (fun _ => bodyViadd_prods ..) _) _ _

theorem execVlogic_keeps (k : Fin 64) (cond : BitVec 4) (vd va vb : BitVec 5) (m : BitVec 2) : KeepsShadows (execVlogic k cond vd va vb m)
    :=
  keeps_instr (bodyOk_of_prods (fun _ => bodyVlogic_prods ..) _) _ _

theorem execVshi_keeps (k : Fin 64) (cond : BitVec 4) (vd va n : BitVec 5) (m : BitVec 2) : KeepsShadows (execVshi k cond vd va n m) :=
  keeps_instr (bodyOk_of_prods (fun _ => bodyVshi_prods ..) _) _ _

theorem execVcmp_keeps (k : Fin 64) (cond : BitVec 4) (vd va vb : BitVec 5) (m : BitVec 2) : KeepsShadows (execVcmp k cond vd va vb m) :=
  keeps_instr (bodyOk_of_prods (fun _ => bodyVcmp_prods ..) _) _ _

theorem execVsel_keeps (k : Fin 64) (cond : BitVec 4) (vd va vb : BitVec 5) : KeepsShadows (execVsel k cond vd va vb) :=
  keeps_instr (bodyOk_of_prods (fun _ => bodyVsel_prods ..) _) _ _

theorem execVbcast_keeps (k : Fin 64) (cond : BitVec 4) (vd ga : BitVec 5) : KeepsShadows (execVbcast k cond vd ga) :=
  keeps_instr (bodyOk_of_prods (fun _ => bodyVbcast_prods ..) _) _ _

theorem execVins_keeps (k : Fin 64) (cond : BitVec 4) (vd ga : BitVec 5) (n : BitVec 3) : KeepsShadows (execVins k cond vd ga n) :=
  keeps_instr (bodyOk_of_prods (fun _ => bodyVins_prods ..) _) _ _

theorem execVext_keeps (k : Fin 64) (cond : BitVec 4) (gd va : BitVec 5) (n : BitVec 3) : KeepsShadows (execVext k cond gd va n) :=
  keeps_instr (bodyOk_of_prods (fun _ => bodyVext_prods ..) _) _ _

theorem execVtrn_keeps (k : Fin 64) (cond : BitVec 4) (vd va : BitVec 5) : KeepsShadows (execVtrn k cond vd va) :=
  keeps_instr (bodyOk_of_prods (fun _ => bodyVtrn_prods ..) _) _ _

theorem execVsin_keeps (k : Fin 64) (cond : BitVec 4) (vd va : BitVec 5) : KeepsShadows (execVsin k cond vd va) :=
  keeps_instr (bodyOk_of_prods (fun _ => bodyVsin_prods ..) _) _ _

/-! ### Memory accesses, biquads and runs of CP2 (R366 to R389) -/

theorem execVld_keeps (k : Fin 64) (cond : BitVec 4) (vd ga : BitVec 5) : KeepsShadows (execVld k cond vd ga) :=
  keeps_instr (bodyOk_of_prods (fun _ => bodyVld_prods ..) _) _ _

theorem execVst_keeps (k : Fin 64) (cond : BitVec 4) (va ga : BitVec 5) : KeepsShadows (execVst k cond va ga) :=
  keeps_instr (bodyOk_of_chip fun _ h => bodyVst_shadowsOk h ..) _ _

theorem execVgath_keeps (k : Fin 64) (cond : BitVec 4) (vd va gb : BitVec 5) : KeepsShadows (execVgath k cond vd va gb) :=
  keeps_instr (bodyOk_of_prods (fun _ => bodyVgath_prods ..) _) _ _

theorem execVbiq_keeps (k : Fin 64) (cond : BitVec 4) (vd va gb : BitVec 5) : KeepsShadows (execVbiq k cond vd va gb) :=
  keeps_instr (bodyOk_of_chip fun _ h => bodyVbiq_shadowsOk h ..) _ _

theorem execDyn_keeps (k : Fin 64) (cond : BitVec 4) (vd va gb : BitVec 5) : KeepsShadows (execDyn k cond vd va gb) :=
  keeps_instr (bodyOk_of_prods (fun _ => bodyDyn_prods ..) _) _ _

theorem execSnext_keeps (k : Fin 64) (cond : BitVec 4) (gd ge : BitVec 5) : KeepsShadows (execSnext k cond gd ge) :=
  keeps_instr (bodyOk_of_prods (fun _ => bodySnext_prods ..) _) _ _

theorem execSstat_keeps (k : Fin 64) (cond : BitVec 4) (gd : BitVec 5) (bank : Bool) : KeepsShadows (execSstat k cond gd bank) :=
  keeps_instr (bodyOk_of_prods (fun _ => bodySstat_prods ..) _) _ _

theorem execSbar_keeps (k : Fin 64) (cond : BitVec 4) : KeepsShadows (execSbar k cond) :=
  keeps_instr (bodyOk_of_prods (fun _ => bodySbar_prods ..) _) _ _

theorem execSend_keeps (k : Fin 64) (cond : BitVec 4) : KeepsShadows (execSend k cond) :=
  keeps_instr (bodyOk_of_prods (fun _ => bodySend_prods ..) _) _ _

theorem execSout_keeps (k : Fin 64) (cond : BitVec 4) (va gb : BitVec 5) : KeepsShadows (execSout k cond va gb) :=
  keeps_instr (bodyOk_of_prods (fun _ => bodySout_prods ..) _) _ _

theorem execSin_keeps (k : Fin 64) (cond : BitVec 4) (vd gb : BitVec 5) : KeepsShadows (execSin k cond vd gb) :=
  keeps_instr (bodyOk_of_prods (fun _ => bodySin_prods ..) _) _ _

/-! ### Voices (R371 to R378) -/

theorem execVgen_keeps (k : Fin 64) (cond : BitVec 4) (vd ga : BitVec 5) : KeepsShadows (execVgen k cond vd ga) :=
  keeps_instr (bodyOk_of_chip fun _ h => bodyVgen_shadowsOk h ..) _ _

/-! ### The Postmaster (R584 to R602) -/

theorem execSmbBlockWriteAppend_keeps (bytes : List Byte) (pecOk : Bool) : KeepsShadows (execSmbBlockWriteAppend bytes pecOk) :=
  keeps_go_of_prods fun _ => by simp only [ite_prods, ite_self, Chip.modTrans_prods]

theorem execSmbBlockWriteSubmit_keeps (bytes : List Byte) (pecOk : Bool) : KeepsShadows (execSmbBlockWriteSubmit bytes pecOk) :=
  keeps_go_of_prods fun _ => by simp only [ite_prods, ite_self, submit_prods]

theorem execSmbBlockRead_keeps : KeepsShadows execSmbBlockRead :=
  keeps_go_of_prods fun _ => by simp only [ite_prods, ite_self, Chip.modTrans_prods, Chip.answerTo_prods]

theorem execSmbReadState_keeps : KeepsShadows execSmbReadState :=
  keeps_go_of_prods fun _ => by simp only [ite_prods, ite_self, Chip.answerTo_prods]

theorem execUdpFrame_keeps (frame : List Byte) : KeepsShadows (execUdpFrame frame) :=
  keeps_go_of_prods fun _ => by simp only [ite_prods, ite_self, submit_prods]

theorem execInfo_keeps : KeepsShadows execInfo :=
  keeps_go_of_prods fun _ => by simp only [implies_true, serve_prods]

theorem execNonce_keeps : KeepsShadows execNonce :=
  keeps_go_of_prods fun _ => by simp only [implies_true, serve_prods, Chip.modTrans_prods, freeBytes_prods]

theorem execStatus_keeps : KeepsShadows execStatus :=
  keeps_go_of_prods fun _ => by simp only [implies_true, serve_prods, Chip.freeBits_prods]

theorem execSensors_keeps : KeepsShadows execSensors :=
  keeps_go_of_prods fun _ => by simp only [implies_true, serve_prods]

theorem execRepair_keeps : KeepsShadows execRepair :=
  keeps_go_of_prods fun _ => by simp only [implies_true, serve_prods]

theorem execRepairClear_keeps : KeepsShadows execRepairClear :=
  keeps_go_of_prods fun _ => by simp only [implies_true, Chip.modPm_prods, serve_prods]

theorem execFu_keeps : KeepsShadows execFu :=
  keeps_go_of_prods fun _ => by
    simp only [ite_prods]
    repeat' split
    all_goals simp only [takeNonce_prods, fuGiveUp_prods, signedEntry_prods, respond_prods, fuReceipt_prods, fuPost_prods]

theorem execStageTimeout_keeps : KeepsShadows execStageTimeout :=
  keeps_go_of_prods fun _ => by
    split <;> simp only [ite_prods, ite_self, endStaging_prods]

theorem execPmScrub_keeps : KeepsShadows execPmScrub :=
  keeps_go_of_prods fun _ => by simp only [ite_prods, ite_self, forAll_prods, implies_true, Chip.setFlip_prods, Chip.journal_prods]

/-! ### The TAP and debug sessions (R603 to R619) -/

theorem execIdcode_keeps : KeepsShadows execIdcode :=
  keeps_go_of_prods fun _ => by simp only [tap_prods, Chip.modDebug_prods]

theorem execSamplePreload_keeps (preload : Option (BitVec 195)) : KeepsShadows (execSamplePreload preload) :=
  keeps_go_of_prods fun _ => by simp only [tap_prods, captureBoundary_prods, Chip.modDebug_prods]

theorem execExtest_keeps (value : BitVec 195) : KeepsShadows (execExtest value) :=
  keeps_go_of_prods fun _ => by simp only [ite_prods, ite_self, tap_prods, captureBoundary_prods, Chip.modDebug_prods]

theorem execChallenge_keeps : KeepsShadows execChallenge :=
  keeps_go_of_prods fun _ => by simp only [tap_prods, freeBytes_prods, Chip.modDebug_prods]

theorem execResponse_keeps (level : BitVec 8) (key : BitVec 256) (sig : BitVec 512) : KeepsShadows (execResponse level key sig) :=
  keeps_go_of_prods fun _ => by simp only [ite_prods, ite_self, tap_prods, failSession_prods, openSession_prods, Chip.modDebug_prods]

theorem execBypass_keeps : KeepsShadows execBypass :=
  keeps_go_of_prods fun _ => by simp only [tap_prods, Chip.modDebug_prods]

theorem execDbgOpen_keeps (sender : BitVec 48) (frame : List Byte) : KeepsShadows (execDbgOpen sender frame) :=
  keeps_go_of_prods fun _ => by
    simp only [ite_prods, ite_self, takeNonce_prods, failSession_prods, signedEntry_prods, openSession_prods, debugFrame_prods,
        debugAnswer_prods]

theorem execDbgHaltWrite_keeps (hi : Bool) (v : Word) : KeepsShadows (execDbgHaltWrite hi v) :=
  keeps_go fun _ h => sessionWrite_shadowsOk h ..

theorem execCoreHalt_keeps (k : Fin 63) : KeepsShadows (execCoreHalt k) :=
  keeps_go fun _ h => of_ite (haltCore_shadowsOk h ..) h

theorem execDbgResume_keeps (hi : Bool) (v : Word) : KeepsShadows (execDbgResume hi v) :=
  keeps_go fun _ h => sessionWrite_shadowsOk h ..

theorem execDbgStep_keeps (core : BitVec 6) : KeepsShadows (execDbgStep core) :=
  keeps_go fun _ h => sessionWrite_shadowsOk h ..

theorem execDbgFeed_keeps (w : Word) : KeepsShadows (execDbgFeed w) :=
  keeps_go fun _ h => sessionWrite_shadowsOk h ..

theorem execDbgDamGo_keeps (ahi : BitVec 8) (write peek : Bool) : KeepsShadows (execDbgDamGo ahi write peek) :=
  keeps_go fun _ h => sessionWrite_shadowsOk h ..

/-! ### PCI Express (R575 to R578) -/

theorem execPcieFundamentalReset_keeps : KeepsShadows execPcieFundamentalReset :=
  keeps_go fun _ h => of_ite (unitReset_shadowsOk h ..) h

theorem execPcieCompletionTimeout_keeps (o : BitVec 12) : KeepsShadows (execPcieCompletionTimeout o) :=
  keeps_go_of_prods fun _ => by simp only [ite_prods, ite_self, dmaReadRetry_prods, Chip.answerTo_prods]

/-! ### Commands that are register accesses (R5, R9) -/

theorem execPostNowLoRead_keeps (o : Origin) (peek : Bool) : KeepsShadows (execPostNowLoRead o peek) :=
  keeps_go_of_prods fun _ => readCmd_prods ..

theorem execDltInstall_keeps (o : Origin) (offset : BitVec 22) : KeepsShadows (execDltInstall o offset) :=
  keeps_go fun _ h => writeCmd_shadowsOk h ..

theorem execDltRemove_keeps (o : Origin) (offset : BitVec 22) : KeepsShadows (execDltRemove o offset) :=
  keeps_go fun _ h => writeCmd_shadowsOk h ..

theorem execDramcEnable_keeps (o : Origin) (cap rate : BitVec 4) (scrub : Bool) : KeepsShadows (execDramcEnable o cap rate scrub) :=
  keeps_go fun _ h => writeCmd_shadowsOk h ..

theorem execSorterRetire_keeps (o : Origin) (n : Fin 48) : KeepsShadows (execSorterRetire o n) :=
  keeps_go fun _ h => writeCmd_shadowsOk h ..

theorem execSorterRestore_keeps (o : Origin) (n : Fin 48) : KeepsShadows (execSorterRestore o n) :=
  keeps_go fun _ h => writeCmd_shadowsOk h ..

theorem execIcuClaimRead_keeps (o : Origin) (peek : Bool) : KeepsShadows (execIcuClaimRead o peek) :=
  keeps_go_of_prods fun _ => readCmd_prods ..

theorem execIcuEoiWrite_keeps (o : Origin) (v : Word) : KeepsShadows (execIcuEoiWrite o v) :=
  keeps_go fun _ h => writeCmd_shadowsOk h ..

theorem execIcuSwiWrite_keeps (o : Origin) (v : Word) : KeepsShadows (execIcuSwiWrite o v) :=
  keeps_go fun _ h => writeCmd_shadowsOk h ..

theorem execIcuSsetWrite_keeps (o : Origin) (v : Word) : KeepsShadows (execIcuSsetWrite o v) :=
  keeps_go fun _ h => writeCmd_shadowsOk h ..

theorem execIcuCfgWrite_keeps (o : Origin) (v : Word) : KeepsShadows (execIcuCfgWrite o v) :=
  keeps_go fun _ h => writeCmd_shadowsOk h ..

theorem execAudVendRead_keeps (o : Fin 256) (peek : Bool) : KeepsShadows (execAudVendRead o peek) :=
  keeps_go_of_prods fun _ => readCmd_prods ..

theorem execAudSnLoRead_keeps (o : Fin 256) (d : Fin 3) (peek : Bool) : KeepsShadows (execAudSnLoRead o d peek) :=
  keeps_go_of_prods fun _ => readCmd_prods ..

theorem execOutCapRead_keeps (o : Fin 4) (m : Fin 256) (peek : Bool) : KeepsShadows (execOutCapRead o m peek) :=
  keeps_go_of_prods fun _ => readCmd_prods ..

theorem execTmrXcapRead_keeps (o : Origin) (ch : Fin 32) (peek : Bool) : KeepsShadows (execTmrXcapRead o ch peek) :=
  keeps_go_of_prods fun _ => readCmd_prods ..

theorem execTmrCsWrite_keeps (o : Origin) (ch : Fin 32) (v : Word) : KeepsShadows (execTmrCsWrite o ch v) :=
  keeps_go fun _ h => writeCmd_shadowsOk h ..

theorem execTmrTopWrite_keeps (o : Origin) (ch : Fin 32) (v : Word) : KeepsShadows (execTmrTopWrite o ch v) :=
  keeps_go fun _ h => writeCmd_shadowsOk h ..

theorem execTmrXcmpWrite_keeps (o : Origin) (ch : Fin 32) (v : Word) : KeepsShadows (execTmrXcmpWrite o ch v) :=
  keeps_go fun _ h => writeCmd_shadowsOk h ..

theorem execGroupStart_keeps (o : Origin) (groups : BitVec 8) : KeepsShadows (execGroupStart o groups) :=
  keeps_go fun _ h => writeCmd_shadowsOk h ..

theorem execGroupStop_keeps (o : Origin) (groups : BitVec 8) : KeepsShadows (execGroupStop o groups) :=
  keeps_go fun _ h => writeCmd_shadowsOk h ..

theorem execGpioOutWrite_keeps (o : Origin) (b : Fin 6) (v : Word) : KeepsShadows (execGpioOutWrite o b v) :=
  keeps_go fun _ h => writeCmd_shadowsOk h ..

theorem execGpioSetWrite_keeps (o : Origin) (b : Fin 6) (v : Word) : KeepsShadows (execGpioSetWrite o b v) :=
  keeps_go fun _ h => writeCmd_shadowsOk h ..

theorem execGpioClrWrite_keeps (o : Origin) (b : Fin 6) (v : Word) : KeepsShadows (execGpioClrWrite o b v) :=
  keeps_go fun _ h => writeCmd_shadowsOk h ..

theorem execGpioOeWrite_keeps (o : Origin) (b : Fin 6) (v : Word) : KeepsShadows (execGpioOeWrite o b v) :=
  keeps_go fun _ h => writeCmd_shadowsOk h ..

theorem execPmuxFuncWrite_keeps (o : Origin) (i : Fin 24) (v : Word) : KeepsShadows (execPmuxFuncWrite o i v) :=
  keeps_go fun _ h => writeCmd_shadowsOk h ..

theorem execGpioRelease_keeps (o : Origin) (b : Fin 6) : KeepsShadows (execGpioRelease o b) :=
  keeps_go fun _ h => writeCmd_shadowsOk h ..

theorem execSysResetKey_keeps (o : Origin) (v : Word) : KeepsShadows (execSysResetKey o v) :=
  keeps_go fun _ h => writeCmd_shadowsOk h ..

theorem execSysUrstWrite_keeps (o : Origin) (u : BitVec 9) : KeepsShadows (execSysUrstWrite o u) :=
  keeps_go fun _ h => writeCmd_shadowsOk h ..

theorem execSysRunWrite_keeps (o : Origin) (hi : Bool) (v : Word) : KeepsShadows (execSysRunWrite o hi v) :=
  keeps_go fun _ h => writeCmd_shadowsOk h ..

theorem execSysPdCtlWrite_keeps (o : Origin) (v : Word) : KeepsShadows (execSysPdCtlWrite o v) :=
  keeps_go fun _ h => writeCmd_shadowsOk h ..

theorem execFuseProgramTitle_keeps (o : Origin) (slot : Fin 4) : KeepsShadows (execFuseProgramTitle o slot) :=
  keeps_go fun _ h => fuseCmd_shadowsOk h ..

theorem execFuseProgramDebug_keeps (o : Origin) (slot : Fin 4) : KeepsShadows (execFuseProgramDebug o slot) :=
  keeps_go fun _ h => fuseCmd_shadowsOk h ..

theorem execFuseRevokeTitle_keeps (o : Origin) (slot : Fin 4) : KeepsShadows (execFuseRevokeTitle o slot) :=
  keeps_go fun _ h => fuseCmd_shadowsOk h ..

theorem execFuseRaiseRollback_keeps (o : Origin) : KeepsShadows (execFuseRaiseRollback o) :=
  keeps_go fun _ h => fuseCmd_shadowsOk h ..

end Sys2Proof.Machine
end

section
/-! PROOF. O4: every step keeps each product shadow within 12 positions (R77). -/

namespace Sys2Proof.Machine

/-- Every command keeps the bound. -/
theorem exec_keepsShadows (i : Instr) : KeepsShadows (exec i) := by
  cases i with
  | regWrite o b off v => exact execRegWrite_keeps o b off v
  | postNowLoRead o peek => exact execPostNowLoRead_keeps o peek
  | refclkLoss => exact execRefclkLoss_keeps
  | refclkLock => exact execRefclkLock_keeps
  | replicaCheck n err => exact execReplicaCheck_keeps n err
  | epochCrossing => exact execEpochCrossing_keeps
  | arbiterGrant arb reqs upset hard fatal => exact execArbiterGrant_keeps arb reqs upset hard fatal
  | hogCutoff arb => exact execHogCutoff_keeps arb
  | scrubRead dram line upset hard => exact execScrubRead_keeps dram line upset hard
  | scrubPassOverrun => exact execScrubPassOverrun_keeps
  | dltInstall o offset => exact execDltInstall_keeps o offset
  | dltRemove o offset => exact execDltRemove_keeps o offset
  | dramcEnable o cap rate scrub => exact execDramcEnable_keeps o cap rate scrub
  | dramTrainingDone failed => exact execDramTrainingDone_keeps failed
  | dramChannelFail ch => exact execDramChannelFail_keeps ch
  | add k cond rd ra rb => exact execAdd_keeps k cond rd ra rb
  | sub k cond rd ra rb => exact execSub_keeps k cond rd ra rb
  | and k cond rd ra rb => exact execAnd_keeps k cond rd ra rb
  | or k cond rd ra rb => exact execOr_keeps k cond rd ra rb
  | xor k cond rd ra rb => exact execXor_keeps k cond rd ra rb
  | andn k cond rd ra rb => exact execAndn_keeps k cond rd ra rb
  | nor k cond rd ra rb => exact execNor_keeps k cond rd ra rb
  | sll k cond rd ra rb => exact execSll_keeps k cond rd ra rb
  | srl k cond rd ra rb => exact execSrl_keeps k cond rd ra rb
  | sra k cond rd ra rb => exact execSra_keeps k cond rd ra rb
  | ror k cond rd ra rb => exact execRor_keeps k cond rd ra rb
  | min k cond rd ra rb => exact execMin_keeps k cond rd ra rb
  | max k cond rd ra rb => exact execMax_keeps k cond rd ra rb
  | minu k cond rd ra rb => exact execMinu_keeps k cond rd ra rb
  | maxu k cond rd ra rb => exact execMaxu_keeps k cond rd ra rb
  | clz k cond rd ra => exact execClz_keeps k cond rd ra
  | popc k cond rd ra => exact execPopc_keeps k cond rd ra
  | sexb k cond rd ra => exact execSexb_keeps k cond rd ra
  | sexh k cond rd ra => exact execSexh_keeps k cond rd ra
  | zexh k cond rd ra => exact execZexh_keeps k cond rd ra
  | bswap k cond rd ra => exact execBswap_keeps k cond rd ra
  | mfq k cond rd => exact execMfq_keeps k cond rd
  | mtq k cond ra => exact execMtq_keeps k cond ra
  | addi k cond rd ra imm => exact execAddi_keeps k cond rd ra imm
  | andi k cond rd ra imm => exact execAndi_keeps k cond rd ra imm
  | ori k cond rd ra imm => exact execOri_keeps k cond rd ra imm
  | xori k cond rd ra imm => exact execXori_keeps k cond rd ra imm
  | shi k cond rd ra kind n => exact execShi_keeps k cond rd ra kind n
  | lui k cond rd imm => exact execLui_keeps k cond rd imm
  | lli k cond rd imm => exact execLli_keeps k cond rd imm
  | permb k cond rd ra sel => exact execPermb_keeps k cond rd ra sel
  | addb k cond rd ra rb => exact execAddb_keeps k cond rd ra rb
  | subb k cond rd ra rb => exact execSubb_keeps k cond rd ra rb
  | addusb k cond rd ra rb => exact execAddusb_keeps k cond rd ra rb
  | subusb k cond rd ra rb => exact execSubusb_keeps k cond rd ra rb
  | minub k cond rd ra rb => exact execMinub_keeps k cond rd ra rb
  | maxub k cond rd ra rb => exact execMaxub_keeps k cond rd ra rb
  | avgub k cond rd ra rb => exact execAvgub_keeps k cond rd ra rb
  | cmpeqb k cond rd ra rb => exact execCmpeqb_keeps k cond rd ra rb
  | cmpgtub k cond rd ra rb => exact execCmpgtub_keeps k cond rd ra rb
  | sadub k cond rd ra rb => exact execSadub_keeps k cond rd ra rb
  | cmp k cond qd comb ra rb cc => exact execCmp_keeps k cond qd comb ra rb cc
  | cmpi k cond qd comb ra cc imm => exact execCmpi_keeps k cond qd comb ra cc imm
  | predicateLogic k cond qd qa qb na nb op => exact execPredicateLogic_keeps k cond qd qa qb na nb op
  | mul k cond ra rb => exact execMul_keeps k cond ra rb
  | mulu k cond ra rb => exact execMulu_keeps k cond ra rb
  | mac k cond ra rb => exact execMac_keeps k cond ra rb
  | macu k cond ra rb => exact execMacu_keeps k cond ra rb
  | msu k cond ra rb => exact execMsu_keeps k cond ra rb
  | div k cond ra rb => exact execDiv_keeps k cond ra rb
  | divu k cond ra rb => exact execDivu_keeps k cond ra rb
  | mfpl k cond rd => exact execMfpl_keeps k cond rd
  | mfph k cond rd => exact execMfph_keeps k cond rd
  | mtpl k cond ra => exact execMtpl_keeps k cond ra
  | mtph k cond ra => exact execMtph_keeps k cond ra
  | productVisible k => exact execProductVisible_keeps k
  | lb k cond rd ra off => exact execLb_keeps k cond rd ra off
  | lbu k cond rd ra off => exact execLbu_keeps k cond rd ra off
  | lh k cond rd ra off => exact execLh_keeps k cond rd ra off
  | lhu k cond rd ra off => exact execLhu_keeps k cond rd ra off
  | lw k cond rd ra off => exact execLw_keeps k cond rd ra off
  | sb k cond rd ra off => exact execSb_keeps k cond rd ra off
  | sh k cond rd ra off => exact execSh_keeps k cond rd ra off
  | sw k cond rd ra off => exact execSw_keeps k cond rd ra off
  | ll k cond rd ra off => exact execLl_keeps k cond rd ra off
  | sc k cond rd ra qd off => exact execSc_keeps k cond rd ra qd off
  | ldsw k cond rd a => exact execLdsw_keeps k cond rd a
  | ldshu k cond rd a => exact execLdshu_keeps k cond rd a
  | stsw k cond rd a => exact execStsw_keeps k cond rd a
  | stsh k cond rd a => exact execStsh_keeps k cond rd a
  | fenceS k cond => exact execFenceS_keeps k cond
  | fenceF k cond => exact execFenceF_keeps k cond
  | fenceIo k cond => exact execFenceIo_keeps k cond
  | isync k cond => exact execIsync_keeps k cond
  | b k cond annul disp => exact execB_keeps k cond annul disp
  | bl k cond annul disp => exact execBl_keeps k cond annul disp
  | jr k cond annul ra => exact execJr_keeps k cond annul ra
  | jlr k cond annul ra rd => exact execJlr_keeps k cond annul ra rd
  | nop k low => exact execNop_keeps k low
  | prefetch k ra off => exact execPrefetch_keeps k ra off
  | csrr k cond ga csr => exact execCsrr_keeps k cond ga csr
  | csrw k cond ga csr => exact execCsrw_keeps k cond ga csr
  | csrs k cond ga csr => exact execCsrs_keeps k cond ga csr
  | csrc k cond ga csr => exact execCsrc_keeps k cond ga csr
  | eret k cond => exact execEret_keeps k cond
  | wait k cond => exact execWait_keeps k cond
  | waitResume k => exact execWaitResume_keeps k
  | regsync k cond ga => exact execRegsync_keeps k cond ga
  | cline k cond ga kind => exact execCline_keeps k cond ga kind
  | rdpm k cond ga gb => exact execRdpm_keeps k cond ga gb
  | syscall k cond code => exact execSyscall_keeps k cond code
  | interruptEntry k => exact execInterruptEntry_keeps k
  | storeBusErrorReport k => exact execStoreBusErrorReport_keeps k
  | loadDataReturn k cycles => exact execLoadDataReturn_keeps k cycles
  | storeAck k => exact execStoreAck_keeps k
  | storeBufferDrain k => exact execStoreBufferDrain_keeps k
  | fetchLineRead k line defer useless => exact execFetchLineRead_keeps k line defer useless
  | branchMispredict k wrong ret path => exact execBranchMispredict_keeps k wrong ret path
  | memorderFlush k pc => exact execMemorderFlush_keeps k pc
  | overlapReplay k => exact execOverlapReplay_keeps k
  | waitTableClear k => exact execWaitTableClear_keeps k
  | pmcOverflow k n => exact execPmcOverflow_keeps k n
  | frameStart o => exact execFrameStart_keeps o
  | binDone o wait => exact execBinDone_keeps o wait
  | lineStart o => exact execLineStart_keeps o
  | unitOffer n => exact execUnitOffer_keeps n
  | outSegmentRead o parity => exact execOutSegmentRead_keeps o parity
  | lineTimedWritePerform o => exact execLineTimedWritePerform_keeps o
  | frameDone o => exact execFrameDone_keeps o
  | sorterRetire o n => exact execSorterRetire_keeps o n
  | sorterRestore o n => exact execSorterRestore_keeps o n
  | lnext k cond gd ge => exact execLnext_keeps k cond gd ge
  | lstat k cond gd => exact execLstat_keeps k cond gd
  | ldead k cond gd => exact execLdead_keeps k cond gd
  | mtx k cond xd ga => exact execMtx_keeps k cond xd ga
  | mfx k cond gd xa => exact execMfx_keeps k cond gd xa
  | lset k cond gi gv => exact execLset_keeps k cond gi gv
  | lget k cond gd gi => exact execLget_keeps k cond gd gi
  | lgetr k cond gd n => exact execLgetr_keeps k cond gd n
  | lput k cond a => exact execLput_keeps k cond a
  | lclose k cond => exact execLclose_keeps k cond
  | ldraw k cond => exact execLdraw_keeps k cond
  | lend k cond => exact execLend_keeps k cond
  | outEnable o en => exact execOutEnable_keeps o en
  | sceneReady o => exact execSceneReady_keeps o
  | pairWrite o pair => exact execPairWrite_keeps o pair
  | xbarWrite d src en => exact execXbarWrite_keeps d src en
  | xbarDone d => exact execXbarDone_keeps d
  | hpdRise d => exact execHpdRise_keeps d
  | linkTrained d rates lanes async range => exact execLinkTrained_keeps d rates lanes async range
  | linkFail d hpdFell => exact execLinkFail_keeps d hpdFell
  | retrain d => exact execRetrain_keeps d
  | auxStart d => exact execAuxStart_keeps d
  | auxDone d result data => exact execAuxDone_keeps d result data
  | beamCapture o x => exact execBeamCapture_keeps o x
  | outCapRead o m peek => exact execOutCapRead_keeps o m peek
  | pressGo => exact execPressGo_keeps
  | pressAbort late => exact execPressAbort_keeps late
  | pressCommandFetch => exact execPressCommandFetch_keeps
  | pressCopy => exact execPressCopy_keeps
  | pressFill => exact execPressFill_keeps
  | pressConvert => exact execPressConvert_keeps
  | pressBlend => exact execPressBlend_keeps
  | pressClip => exact execPressClip_keeps
  | pressJump => exact execPressJump_keeps
  | pressEnd => exact execPressEnd_keeps
  | pressWriteAck => exact execPressWriteAck_keeps
  | pressDeadTimeEnd => exact execPressDeadTimeEnd_keeps
  | dmaGo n => exact execDmaGo_keeps n
  | dmaPause n outstanding => exact execDmaPause_keeps n outstanding
  | dmaResume n => exact execDmaResume_keeps n
  | dmaAbort n outstanding => exact execDmaAbort_keeps n outstanding
  | dmaReadReturn n transient => exact execDmaReadReturn_keeps n transient
  | dmaEnvelopeFetch n => exact execDmaEnvelopeFetch_keeps n
  | dmaWriteAck n transient => exact execDmaWriteAck_keeps n transient
  | dmaEngineFault => exact execDmaEngineFault_keeps
  | audioTick d => exact execAudioTick_keeps d
  | bridgeRatioMeasure b ratio => exact execBridgeRatioMeasure_keeps b ratio
  | domainStart d en => exact execDomainStart_keeps d en
  | slipGo d => exact execSlipGo_keeps d
  | vcqWrWrite d wr => exact execVcqWrWrite_keeps d wr
  | audVendRead o peek => exact execAudVendRead_keeps o peek
  | audSnLoRead o d peek => exact execAudSnLoRead_keeps o d peek
  | rxSample p slot v late => exact execRxSample_keeps p slot v late
  | audclkBLoss => exact execAudclkBLoss_keeps
  | vadd k cond vd va vb => exact execVadd_keeps k cond vd va vb
  | vsub k cond vd va vb => exact execVsub_keeps k cond vd va vb
  | vmul k cond vd va vb => exact execVmul_keeps k cond vd va vb
  | vmac k cond vd va vb => exact execVmac_keeps k cond vd va vb
  | vminmax k cond vd va vb greater => exact execVminmax_keeps k cond vd va vb greater
  | vunary k cond vd va m => exact execVunary_keeps k cond vd va m
  | vdiv k cond vd va vb => exact execVdiv_keeps k cond vd va vb
  | vcvtf k cond vd va m => exact execVcvtf_keeps k cond vd va m
  | vcvti k cond vd va m => exact execVcvti_keeps k cond vd va m
  | viadd k cond vd va vb sub => exact execViadd_keeps k cond vd va vb sub
  | vlogic k cond vd va vb m => exact execVlogic_keeps k cond vd va vb m
  | vshi k cond vd va n m => exact execVshi_keeps k cond vd va n m
  | vcmp k cond vd va vb m => exact execVcmp_keeps k cond vd va vb m
  | vsel k cond vd va vb => exact execVsel_keeps k cond vd va vb
  | vbcast k cond vd ga => exact execVbcast_keeps k cond vd ga
  | vins k cond vd ga n => exact execVins_keeps k cond vd ga n
  | vext k cond gd va n => exact execVext_keeps k cond gd va n
  | vtrn k cond vd va => exact execVtrn_keeps k cond vd va
  | vld k cond vd ga => exact execVld_keeps k cond vd ga
  | vst k cond va ga => exact execVst_keeps k cond va ga
  | vgath k cond vd va gb => exact execVgath_keeps k cond vd va gb
  | vsin k cond vd va => exact execVsin_keeps k cond vd va
  | vbiq k cond vd va gb => exact execVbiq_keeps k cond vd va gb
  | vgen k cond vd ga => exact execVgen_keeps k cond vd ga
  | dyn k cond vd va gb => exact execDyn_keeps k cond vd va gb
  | snext k cond gd ge => exact execSnext_keeps k cond gd ge
  | sstat k cond gd bank => exact execSstat_keeps k cond gd bank
  | sout k cond va gb => exact execSout_keeps k cond va gb
  | sin k cond vd gb => exact execSin_keeps k cond vd gb
  | sbar k cond => exact execSbar_keeps k cond
  | send k cond => exact execSend_keeps k cond
  | vddFuRise => exact execVddFuRise_keeps
  | fuKeepEntry => exact execFuKeepEntry_keeps
  | fuWdtExpire => exact execFuWdtExpire_keeps
  | fuWdtKick v => exact execFuWdtKick_keeps v
  | rtcSecond => exact execRtcSecond_keeps
  | rtcXtalStop => exact execRtcXtalStop_keeps
  | oscTrim meas code => exact execOscTrim_keeps meas code
  | pulseEdge n level us => exact execPulseEdge_keeps n level us
  | pulseJam n => exact execPulseJam_keeps n
  | pulseResume n => exact execPulseResume_keeps n
  | pulseCommit => exact execPulseCommit_keeps
  | meterPulseStart k => exact execMeterPulseStart_keeps k
  | meterPulseOff k => exact execMeterPulseOff_keeps k
  | meterPulseEnd k => exact execMeterPulseEnd_keeps k
  | meterReadback k high => exact execMeterReadback_keeps k high
  | doorOpen d => exact execDoorOpen_keeps d
  | tamperTrip n => exact execTamperTrip_keeps n
  | poboxClaimRead o peek => exact execPoboxClaimRead_keeps o peek
  | poboxPost o => exact execPoboxPost_keeps o
  | poboxAbort o late => exact execPoboxAbort_keeps o late
  | poboxRelease o => exact execPoboxRelease_keeps o
  | poboxXforce v => exact execPoboxXforce_keeps v
  | poboxXinj v => exact execPoboxXinj_keeps v
  | poboxServe => exact execPoboxServe_keeps
  | read => exact execRead_keeps
  | commit => exact execCommit_keeps
  | report => exact execReport_keeps
  | reportRead => exact execReportRead_keeps
  | ident => exact execIdent_keeps
  | time => exact execTime_keeps
  | sealBreak => exact execSealBreak_keeps
  | reseal => exact execReseal_keeps
  | notice => exact execNotice_keeps
  | stage => exact execStage_keeps
  | fwWrite => exact execFwWrite_keeps
  | fwActivate => exact execFwActivate_keeps
  | clockSet => exact execClockSet_keeps
  | meterInit => exact execMeterInit_keeps
  | recoverAck => exact execRecoverAck_keeps
  | faultClear => exact execFaultClear_keeps
  | archiveWrite ok => exact execArchiveWrite_keeps ok
  | fuSpiGo v => exact execFuSpiGo_keeps v
  | fuSpiDone ok data => exact execFuSpiDone_keeps ok data
  | fuSpiDataAccess w => exact execFuSpiDataAccess_keeps w
  | fuMirDataAccess w => exact execFuMirDataAccess_keeps w
  | fuMirSend => exact execFuMirSend_keeps
  | mirrorCommitReceive e receipt outs tagOk => exact execMirrorCommitReceive_keeps e receipt outs tagOk
  | mirrorAckTimeout => exact execMirrorAckTimeout_keeps
  | fuDemote => exact execFuDemote_keeps
  | noticeGraceExpire o => exact execNoticeGraceExpire_keeps o
  | zowEnable en => exact execZowEnable_keeps en
  | zowTrainDone rate => exact execZowTrainDone_keeps rate
  | zowTrainTimeout => exact execZowTrainTimeout_keeps
  | zowAuthDone p => exact execZowAuthDone_keeps p
  | syncProbe t1 t2 t3 t4 => exact execSyncProbe_keeps t1 t2 t3 t4
  | zowResync peer wins => exact execZowResync_keeps peer wins
  | zowFrameReceive f => exact execZowFrameReceive_keeps f
  | laneFail l two => exact execLaneFail_keeps l two
  | heartbeatSend => exact execHeartbeatSend_keeps
  | heartbeatReceive elig gen => exact execHeartbeatReceive_keeps elig gen
  | leaseRenew => exact execLeaseRenew_keeps
  | leaseExpire => exact execLeaseExpire_keeps
  | mirrorKeepalive => exact execMirrorKeepalive_keeps
  | takeover missed held => exact execTakeover_keeps missed held
  | followReceive o f => exact execFollowReceive_keeps o f
  | followFrameStart o => exact execFollowFrameStart_keeps o
  | sealReceive o frame crc => exact execSealReceive_keeps o frame crc
  | snapshotPost len => exact execSnapshotPost_keeps len
  | snapshotReceive x => exact execSnapshotReceive_keeps x
  | replicationApply stream seq l => exact execReplicationApply_keeps stream seq l
  | bulkGo => exact execBulkGo_keeps
  | bulkDone => exact execBulkDone_keeps
  | handover => exact execHandover_keeps
  | detach => exact execDetach_keeps
  | treset => exact execTreset_keeps
  | tReset => exact execTReset_keeps
  | seed copy => exact execSeed_keeps copy
  | clearDiv => exact execClearDiv_keeps
  | sourceEvent n k age => exact execSourceEvent_keeps n k age
  | recordEligible => exact execRecordEligible_keeps
  | modRelease => exact execModRelease_keeps
  | icuClaimRead o peek => exact execIcuClaimRead_keeps o peek
  | icuEoiWrite o v => exact execIcuEoiWrite_keeps o v
  | icuSwiWrite o v => exact execIcuSwiWrite_keeps o v
  | icuSsetWrite o v => exact execIcuSsetWrite_keeps o v
  | icuCfgWrite o v => exact execIcuCfgWrite_keeps o v
  | napWakeLatch n k level => exact execNapWakeLatch_keeps n k level
  | timerTick k => exact execTimerTick_keeps k
  | timerWrap k => exact execTimerWrap_keeps k
  | compareEvent k => exact execCompareEvent_keeps k
  | captureEvent k => exact execCaptureEvent_keeps k
  | gateChange k => exact execGateChange_keeps k
  | tmrXcapRead o ch peek => exact execTmrXcapRead_keeps o ch peek
  | tmrCsWrite o ch v => exact execTmrCsWrite_keeps o ch v
  | tmrTopWrite o ch v => exact execTmrTopWrite_keeps o ch v
  | tmrXcmpWrite o ch v => exact execTmrXcmpWrite_keeps o ch v
  | groupStart o groups => exact execGroupStart_keeps o groups
  | groupStop o groups => exact execGroupStop_keeps o groups
  | wdtTick w => exact execWdtTick_keeps w
  | wdtWarn w => exact execWdtWarn_keeps w
  | wdtExpire w => exact execWdtExpire_keeps w
  | wdtKick o w v => exact execWdtKick_keeps o w v
  | wdtCtlWrite w v => exact execWdtCtlWrite_keeps w v
  | gpioOutWrite o b v => exact execGpioOutWrite_keeps o b v
  | gpioSetWrite o b v => exact execGpioSetWrite_keeps o b v
  | gpioClrWrite o b v => exact execGpioClrWrite_keeps o b v
  | gpioOeWrite o b v => exact execGpioOeWrite_keeps o b v
  | pinFilterAccept p level => exact execPinFilterAccept_keeps p level
  | pmuxFuncWrite o n v => exact execPmuxFuncWrite_keeps o n v
  | pmuxHoldEnd n => exact execPmuxHoldEnd_keeps n
  | gpioRelease o b => exact execGpioRelease_keeps o b
  | vsbRise => exact execVsbRise_keeps
  | vsbFall => exact execVsbFall_keeps
  | mainEnAutoRise => exact execMainEnAutoRise_keeps
  | pgoodRise profileSel => exact execPgoodRise_keeps profileSel
  | pgoodFall => exact execPgoodFall_keeps
  | nresetAssert => exact execNresetAssert_keeps
  | nresetDeassert => exact execNresetDeassert_keeps
  | sysResetKey o v => exact execSysResetKey_keeps o v
  | sysUrstWrite o u => exact execSysUrstWrite_keeps o u
  | unitResetDone u => exact execUnitResetDone_keeps u
  | sysRunWrite o hi v => exact execSysRunWrite_keeps o hi v
  | sysPdCtlWrite o v => exact execSysPdCtlWrite_keeps o v
  | pdRampDone d => exact execPdRampDone_keeps d
  | napEntry => exact execNapEntry_keeps
  | napWake => exact execNapWake_keeps
  | dormantEntry => exact execDormantEntry_keeps
  | dormantWake dramKept => exact execDormantWake_keeps dramKept
  | pgoodTimeout => exact execPgoodTimeout_keeps
  | fuseProgramTitle o slot => exact execFuseProgramTitle_keeps o slot
  | fuseProgramDebug o slot => exact execFuseProgramDebug_keeps o slot
  | fuseRevokeTitle o slot => exact execFuseRevokeTitle_keeps o slot
  | fuseRaiseRollback o => exact execFuseRaiseRollback_keeps o
  | fuseOpDone => exact execFuseOpDone_keeps
  | pcieInboundRequest target write bytes poison len => exact execPcieInboundRequest_keeps target write bytes poison len
  | pcieFundamentalReset => exact execPcieFundamentalReset_keeps
  | pcieLinkUp gen width l1 => exact execPcieLinkUp_keeps gen width l1
  | pcieLinkDown => exact execPcieLinkDown_keeps
  | pcieCfgdataAccess o write reply => exact execPcieCfgdataAccess_keeps o write reply
  | pcieCompletionTimeout o => exact execPcieCompletionTimeout_keeps o
  | storEnable kind dev => exact execStorEnable_keeps kind dev
  | storBlkGo v => exact execStorBlkGo_keeps v
  | storBlkDone ok data => exact execStorBlkDone_keeps ok data
  | storQcmdGo v => exact execStorQcmdGo_keeps v
  | storQcmdDone data => exact execStorQcmdDone_keeps data
  | storQdataAccess o write v => exact execStorQdataAccess_keeps o write v
  | cardChange present => exact execCardChange_keeps present
  | usbConnectChange p speed => exact execUsbConnectChange_keeps p speed
  | usbOvercurrent p => exact execUsbOvercurrent_keeps p
  | pmRestart => exact execPmRestart_keeps
  | pmScrub => exact execPmScrub_keeps
  | smbBlockWriteAppend bytes pecOk => exact execSmbBlockWriteAppend_keeps bytes pecOk
  | smbBlockWriteSubmit bytes pecOk => exact execSmbBlockWriteSubmit_keeps bytes pecOk
  | smbBlockRead => exact execSmbBlockRead_keeps
  | smbReadState => exact execSmbReadState_keeps
  | udpFrame frame => exact execUdpFrame_keeps frame
  | info => exact execInfo_keeps
  | nonce => exact execNonce_keeps
  | status => exact execStatus_keeps
  | sensors => exact execSensors_keeps
  | daybook => exact execDaybook_keeps
  | repair => exact execRepair_keeps
  | fu => exact execFu_keeps
  | power => exact execPower_keeps
  | reset => exact execReset_keeps
  | profileSet => exact execProfileSet_keeps
  | hold => exact execHold_keeps
  | stageBegin erased held => exact execStageBegin_keeps erased held
  | stageData readBack held => exact execStageData_keeps readBack held
  | stageEnd reads header held => exact execStageEnd_keeps reads header held
  | stageTimeout => exact execStageTimeout_keeps
  | twin => exact execTwin_keeps
  | repairClear => exact execRepairClear_keeps
  | netSet => exact execNetSet_keeps
  | overtempTrip ch v => exact execOvertempTrip_keeps ch v
  | sensSample vals => exact execSensSample_keeps vals
  | daybSwgo v => exact execDaybSwgo_keeps v
  | idcode => exact execIdcode_keeps
  | samplePreload preload => exact execSamplePreload_keeps preload
  | extest value => exact execExtest_keeps value
  | challenge => exact execChallenge_keeps
  | response level key sig => exact execResponse_keeps level key sig
  | dbgreg write off data => exact execDbgreg_keeps write off data
  | bypass => exact execBypass_keeps
  | tapReset => exact execTapReset_keeps
  | dbgOpen sender frame => exact execDbgOpen_keeps sender frame
  | dbgReg sender frame => exact execDbgReg_keeps sender frame
  | dbgClose sender frame => exact execDbgClose_keeps sender frame
  | sessionTimeout => exact execSessionTimeout_keeps
  | dbgHaltWrite hi v => exact execDbgHaltWrite_keeps hi v
  | coreHalt k => exact execCoreHalt_keeps k
  | dbgResume hi v => exact execDbgResume_keeps hi v
  | dbgStep core => exact execDbgStep_keeps core
  | dbgFeed w => exact execDbgFeed_keeps w
  | dbgDamGo ahi write peek => exact execDbgDamGo_keeps ahi write peek
  | doorClose d => exact execDoorClose_keeps d
  | vsbFRise => exact execVsbFRise_keeps
  | vddioFuChange present => exact execVddioFuChange_keeps present
  | bankSupplyChange b present => exact execBankSupplyChange_keeps b present
  | pressReadReturn => exact execPressReadReturn_keeps
  | illegalInstruction k word => exact execIllegalInstruction_keeps k word

theorem step_shadowsOk {s t : State} (h : ShadowsOk s.chip.prods) (e : step s = .next t) : ShadowsOk t.chip.prods := by
  unfold step at e
  split at e
  · cases e
    exact idle_shadowsOk h
  next i rest _ => exact (exec_keepsShadows i).keep { s with pending := rest } t h e

/-- Settles O4: completion, exceptions, halts and the product instructions bound what they leave pending,
the rest of every command and of idle
time leaves it alone. -/
theorem stepKeepsShadowBound : Obligations.StepKeepsShadowBound :=
  fun _ _ h e k => (step_shadowsOk ⟨h⟩ e).core k

end Sys2Proof.Machine
end

section
/-! SUPPORT. The repair of a Courier's predictor: undoing the counter log gives back what stood before the wrong path (R128). -/

namespace Sys2Proof.Machine

/-- `p` holds the checkpoints, counter log, wait table and direction counters of `q`. -/
structure Predictor.Undone (p q : Predictor) : Prop where
  chk : p.chk = q.chk
  log : p.log = q.log
  wait : p.wait = q.wait
  dir : ∀ i, sget (fun _ => 0) p.dir i = sget (fun _ => 0) q.dir i

/-- `p` holds all that a misprediction gives back of `q` (R127, R128). -/
def Predictor.Restored (p q : Predictor) : Prop :=
  p.hist = q.hist ∧ p.ras = q.ras ∧ p.chk = q.chk ∧ p.log = q.log ∧ p.wait = q.wait
    ∧ ∀ i, sget (fun _ => 0) p.dir i = sget (fun _ => 0) q.dir i

/-- The oldest of `n + 1` log entries is undone last. -/
theorem Predictor.undo_succ (p : Predictor) (n : Nat) : p.undo (n + 1) = (p.undo n).undo 1 := by
  induction n generalizing p with
  | zero => rfl
  | succ n ih =>
    cases hlog : p.log with
    | nil => simp only [Predictor.undo, hlog]
    | cons e t =>
      have first : ∀ m, p.undo (m + 1) = ({ p with dir := sset (fun _ => 0) p.dir e.1 e.2, log := t } : Predictor).undo m := by
        intro m
        simp only [Predictor.undo, hlog]
      rw [first (n + 1), first n]
      exact ih _

/-- The newest log entry of a predictor that stands as after an update takes that update back. -/
theorem Predictor.Undone.undo_wrongUpdate {p q : Predictor} {i : Nat} {taken : Bool} (h : q.Undone (p.wrongUpdate i taken)) :
    (q.undo 1).Undone p := by
  have hlog : q.log = (i, sget (fun _ => 0) p.dir i) :: p.log := h.log
  have hundo : q.undo 1 = { q with dir := sset (fun _ => 0) q.dir i (sget (fun _ => 0) p.dir i), log := p.log } := by
    simp only [Predictor.undo, hlog]
  rw [hundo]
  refine ⟨h.chk, rfl, h.wait, fun j => (sget_sset ..).trans ?_⟩
  split
  next hj => rw [hj]
  next hj => exact (h.dir j).trans (sget_sset_other _ _ hj)

/-- Undoing as many log entries as the wrong path made updates gives back what stood before them. -/
theorem Predictor.undone_of_wrongUpdates (wrong : List (Nat × Bool)) (p : Predictor) :
    ((wrong.foldl (fun p w => p.wrongUpdate (w.1 % 16384) w.2) p).undo wrong.length).Undone p := by
  induction wrong generalizing p with
  | nil => exact ⟨rfl, rfl, rfl, fun _ => rfl⟩
  | cons w t ih =>
    rw [List.foldl_cons, List.length_cons, Predictor.undo_succ]
    exact (ih _).undo_wrongUpdate

/-- Each update of the wrong path makes one log entry. -/
theorem Predictor.length_log_wrongUpdates (wrong : List (Nat × Bool)) (p : Predictor) :
    (wrong.foldl (fun p w => p.wrongUpdate (w.1 % 16384) w.2) p).log.length = p.log.length + wrong.length := by
  induction wrong generalizing p with
  | nil => rfl
  | cons w t ih =>
    have hone : (p.wrongUpdate (w.1 % 16384) w.2).log.length = p.log.length + 1 := rfl
    rw [List.foldl_cons, ih, hone, List.length_cons]
    omega

/-- A misprediction leaves what the checkpoint of its branch held (R127, R128). -/
theorem Predictor.mispredict_restored (p : Predictor) (wrong : List (Nat × Bool)) : (p.mispredict wrong).Restored p := by
  unfold Predictor.mispredict
  extract_lets chk q r
  have hlen : q.log.length - chk.logLen = wrong.length := by
    rw [Predictor.length_log_wrongUpdates]
    exact Nat.add_sub_cancel_left ..
  have hr : r.Undone { p with chk := chk :: p.chk } := by
    have h := Predictor.undone_of_wrongUpdates wrong { p with chk := chk :: p.chk }
    rwa [← hlen] at h
  exact ⟨rfl, rfl, congrArg List.tail hr.chk, hr.log, hr.wait, hr.dir⟩

end Sys2Proof.Machine
end

section
/-! SUPPORT. What the events of a predictor change of a chip: the predictor, and the counters that count the event (R154). -/

namespace Sys2Proof.Machine

/-! ### The core of the event -/

/-- The core `y` is `x` with the predictor `p` and with other programmable counters and overflow flags. -/
def Core.Predicts (p : Predictor) (x y : Core) : Prop := ∃ a b, y = { x with pred := p, pmcnt := a, pmovf := b }

namespace Core.Predicts
variable {p : Predictor} {x y : Core} (h : Core.Predicts p x y)
include h

theorem pred : y.pred = p := by
  obtain ⟨a, b, rfl⟩ := h
  rfl

/-- No register, no position and no product changes. -/
theorem same : y.g = x.g ∧ y.pc = x.pc ∧ y.q = x.q ∧ y.status = x.status ∧ y.slot = x.slot ∧ y.prod = x.prod := by
  obtain ⟨a, b, rfl⟩ := h
  exact ⟨rfl, rfl, rfl, rfl, rfl, rfl⟩

theorem event (k ev : Nat) : Core.Predicts p x (y.event k ev) := by
  obtain ⟨a, b, rfl⟩ := h
  exact Core.event_eq k ev _

theorem events {α : Type} (k ev : Nat) (l : List α) : Core.Predicts p x (l.foldl (fun x _ => x.event k ev) y) := by
  obtain ⟨a, b, rfl⟩ := h
  exact Core.events_eq k ev l _

end Core.Predicts

theorem Core.predicts_withPred (p : Predictor) (x : Core) : Core.Predicts p x { x with pred := p } := ⟨x.pmcnt, x.pmovf, rfl⟩

theorem Core.predicts_event (k ev : Nat) (x : Core) : Core.Predicts x.pred x (x.event k ev) := Core.event_eq k ev x

/-- What a misprediction of Courier `k` makes of its core: the repair of the predictor, then the events it counts (R128, R154). -/
def Core.mispredicts (k : Nat) (wrong : List (Nat × Bool)) (ret : Bool) (groups : Nat) (x : Core) : Core :=
  let y := ({ x with pred := x.pred.mispredict wrong } : Core).event k 0x04
  (List.range groups).foldl (fun x _ => x.event k 0x0D) (if ret then y.event k 0x05 else y)

theorem Core.predicts_mispredicts (k : Nat) (wrong : List (Nat × Bool)) (ret : Bool) (groups : Nat) (x : Core) :
    Core.Predicts (x.pred.mispredict wrong) x (x.mispredicts k wrong ret groups) := by
  have hbranch := (Core.predicts_withPred (x.pred.mispredict wrong) x).event k 0x04
  refine Core.Predicts.events ?_ k 0x0D _
  split
  · exact hbranch.event k 0x05
  · exact hbranch

/-! ### The chip of the event -/

/-- A change of one core is that core replaced. -/
theorem Chip.modCore_eq_setCore (c : Chip) (k : Nat) (f : Core → Core) : c.modCore k f = c.setCore k ((c.modCore k f).core k) := by
  rw [Chip.core_modCore_same]
  rfl

/-- The chip `e` is `c` but for core `k`, which has the predictor `p` and other counters; memory and what records its errors may differ. -/
structure Chip.PredictsAt (c : Chip) (k : Nat) (p : Predictor) (e : Chip) : Prop where
  core : Core.Predicts p (c.core k) (e.core k)
  others : ∀ j, j ≠ k → e.core j = c.core j

theorem Chip.predictsAt_modCore {c : Chip} {k : Nat} {f : Core → Core} {p : Predictor} (h : Core.Predicts p (c.core k) (f (c.core k))) :
    c.PredictsAt k p (c.modCore k f) := by
  refine ⟨?_, fun j hj => Chip.core_modCore_other c f hj⟩
  rw [Chip.core_modCore_same]
  exact h

/-- A load on the wrong path changes no core but for the event that it counts (R141). -/
theorem wrongLoad_cores (k pa : Nat) (c : Chip) :
    (wrongLoad k pa c).cores = c.cores ∨ (wrongLoad k pa c).cores = (c.modCore k (Core.event k 0x0E)).cores := by
  unfold wrongLoad
  split
  · exact .inl rfl
  · have modCores : ∀ d : Chip, d.cores = c.cores → (d.modCore k (Core.event k 0x0E)).cores = (c.modCore k (Core.event k 0x0E)).cores := by
      intro d hd
      simp only [Chip.modCore, Chip.setCore, Chip.core, hd]
    refine .inr (modCores _ ?_)
    split
    · rfl
    · exact memBlind_cores.eccCheck c _ _ _ _

theorem Chip.PredictsAt.wrongLoad {c e : Chip} {k : Nat} {p : Predictor} (h : c.PredictsAt k p e) (pa : Nat) :
    c.PredictsAt k p (wrongLoad k pa e) := by
  have coreOf : ∀ {d d' : Chip}, d.cores = d'.cores → ∀ j, d.core j = d'.core j := fun hd j => congrArg (sget Core.reset · j) hd
  rcases wrongLoad_cores k pa e with hc | hc
  · refine ⟨?_, fun j hj => (coreOf hc j).trans (h.others j hj)⟩
    rw [coreOf hc]
    exact h.core
  · refine ⟨?_, fun j hj => (coreOf hc j).trans ((Chip.core_modCore_other e _ hj).trans (h.others j hj))⟩
    rw [coreOf hc, Chip.core_modCore_same]
    exact h.core.event k 0x0E

/-- BRANCH_MISPREDICT repairs the predictor of its Courier, whatever the wrong path loaded (R128, R138 to R141). -/
theorem predictsAt_mispredict (c : Chip) (k : Nat) (wrong : List (Nat × Bool)) (ret : Bool) (groups : Nat)
    (loads : List (Fin 0x10000000000)) : c.PredictsAt k ((c.core k).pred.mispredict wrong)
      (forAll loads (fun pa d => wrongLoad k pa d) (c.modCore k (Core.mispredicts k wrong ret groups))) :=
  forAll_keeps (P := c.PredictsAt k ((c.core k).pred.mispredict wrong)) (fun (pa : Fin 0x10000000000) _ h => h.wrongLoad pa) loads _
    (Chip.predictsAt_modCore (Core.predicts_mispredicts k wrong ret groups _))

theorem exec_branchMispredict (k : Fin 8) (wrong : List (Nat × Bool)) (ret : Bool) (groups : Nat) (loads : List (Fin 0x10000000000))
    (s : State) : exec (.branchMispredict k wrong ret ⟨groups, loads⟩) s
      = .next (s.ran k (forAll loads (fun pa d => wrongLoad k pa d) (s.chip.modCore k (Core.mispredicts k wrong ret groups)))) := rfl

/-! ### An event counted -/

/-- What counter `n` makes of event `ev`: where it is enabled and selects the event, it steps (R154). -/
def Core.countsOn (ev : Nat) (x : Core) (n : Nat) : Core :=
  if x.pmctl.bit n && (sget zeroWord x.pmsel n).bits 7 0 = ev then x.bump n else x

/-- Counter `n` is enabled and selects event `ev`. -/
def Core.selectsOn (ev n : Nat) (x : Core) : Prop := x.pmctl.bit n = true ∧ (sget zeroWord x.pmsel n).bits 7 0 = ev

theorem Core.bump_pmcnt (x : Core) (n : Nat) :
    (x.bump n).pmcnt = sset (fun _ => (0 : DWord)) x.pmcnt n (sget (fun _ => 0) x.pmcnt n + 1) := by
  unfold Core.bump
  dsimp only
  split <;> rfl

theorem Core.countsOn_same {ev n : Nat} {x : Core} (h : x.selectsOn ev n) :
    sget (fun _ => (0 : DWord)) (x.countsOn ev n).pmcnt n = sget (fun _ => 0) x.pmcnt n + 1 := by
  obtain ⟨hbit, hsel⟩ := h
  have hstep : x.countsOn ev n = x.bump n := if_pos (by rw [hbit, hsel]; simp)
  rw [hstep, Core.bump_pmcnt, sget_sset_same]

theorem Core.countsOn_other (ev : Nat) (x : Core) {n m : Nat} (h : m ≠ n) :
    sget (fun _ => (0 : DWord)) (x.countsOn ev n).pmcnt m = sget (fun _ => 0) x.pmcnt m := by
  unfold Core.countsOn
  split
  · rw [Core.bump_pmcnt, sget_sset_other _ _ h]
  · rfl

theorem Core.selectsOn_countsOn {ev m : Nat} {x : Core} (h : x.selectsOn ev m) (n : Nat) : (x.countsOn ev n).selectsOn ev m := by
  unfold Core.countsOn
  split
  · obtain ⟨a, b, hb⟩ := x.bump_eq n
    rw [hb]
    exact h
  · exact h

/-- Counters that are not in the list keep their value. -/
theorem Core.foldl_countsOn_other (ev : Nat) {m : Nat} (l : List Nat) (hm : m ∉ l) (x : Core) :
    sget (fun _ => (0 : DWord)) (l.foldl (Core.countsOn ev) x).pmcnt m = sget (fun _ => 0) x.pmcnt m := by
  induction l generalizing x with
  | nil => rfl
  | cons n t ih =>
    obtain ⟨hn, ht⟩ := not_or.mp (List.mem_cons.not.mp hm)
    exact (ih ht _).trans (Core.countsOn_other ev x hn)

/-- A counter of the list that selects the event steps once. -/
theorem Core.foldl_countsOn_same {ev m : Nat} (l : List Nat) (hl : l.Nodup) (hm : m ∈ l) {x : Core} (h : x.selectsOn ev m) :
    sget (fun _ => (0 : DWord)) (l.foldl (Core.countsOn ev) x).pmcnt m = sget (fun _ => 0) x.pmcnt m + 1 := by
  induction l generalizing x with
  | nil => exact absurd hm List.not_mem_nil
  | cons n t ih =>
    obtain ⟨hn, ht⟩ := List.nodup_cons.mp hl
    rcases List.mem_cons.mp hm with rfl | hmt
    · exact (Core.foldl_countsOn_other ev t hn _).trans (Core.countsOn_same h)
    · have hne : m ≠ n := fun e => hn (e ▸ hmt)
      exact (ih ht hmt (Core.selectsOn_countsOn h n)).trans (congrArg (· + 1) (Core.countsOn_other ev x hne))

/-- While the counters run, an event steps every counter of the core that is enabled and selects it, by one (R154). -/
theorem Core.pmcnt_event {k ev n : Nat} {x : Core} (hrun : x.countsNot = false) (hev : eventKind (Core.kind k) ev = true)
    (hn : n < if inOrder k then 4 else 8) (h : x.selectsOn ev n) :
    sget (fun _ => (0 : DWord)) (x.event k ev).pmcnt n = sget (fun _ => 0) x.pmcnt n + 1 := by
  have hfold : x.event k ev = (List.range (if inOrder k then 4 else 8)).foldl (Core.countsOn ev) x := if_neg (by rw [hrun, hev]; simp)
  rw [hfold]
  exact Core.foldl_countsOn_same _ List.nodup_range (List.mem_range.mpr hn) h

/-- OVERLAP_REPLAY is an event of a Courier (R134). -/
theorem eventKind_overlapReplay {k : Nat} (h : k < 8) : eventKind (Core.kind k) 0x0B = true := by
  rw [show Core.kind k = 0 from if_pos h]
  decide

/-! ### The wait table -/

/-- A flushed load of a Courier sets its entry of the wait table as it retires (R135). -/
theorem Core.loadRetires_flushed {k : Nat} (hk : k < 8) {y : Core} (h : y.pred.flushed = some y.pc) :
    (y.loadRetires k).pred = { y.pred with
      loads := y.pred.loads + 1, flushed := none, wait := sset (fun _ => false) y.pred.wait (y.pc.bits 11 2) true } := by
  unfold Core.loadRetires
  dsimp only
  rw [if_pos hk, if_pos h]

/-- What WAIT_TABLE_CLEAR makes of the core of its Courier (R135). -/
def Core.clearsWait (x : Core) : Core :=
  if Nat.ble (2 ^ 20) x.pred.loads then { x with pred := { x.pred with wait := [], loads := x.pred.loads - 2 ^ 20 } } else x

theorem exec_waitTableClear (k : Fin 8) (s : State) : exec (.waitTableClear k) s = .next (s.at (s.chip.modCore k Core.clearsWait)) := rfl

/-- After 2^20 loads the wait table is cleared, and the loads that made it due are taken off the count (R135). -/
theorem Core.predicts_clearsWait_due {x : Core} (h : 2 ^ 20 ≤ x.pred.loads) :
    Core.Predicts { x.pred with wait := [], loads := x.pred.loads - 2 ^ 20 } x x.clearsWait := by
  unfold Core.clearsWait
  rw [if_pos (Nat.ble_eq.mpr h)]
  exact Core.predicts_withPred _ x

/-- Before 2^20 loads have retired the wait table stays (R135). -/
theorem Core.predicts_clearsWait_early {x : Core} (h : x.pred.loads < 2 ^ 20) : Core.Predicts x.pred x x.clearsWait := by
  unfold Core.clearsWait
  rw [if_neg fun e => absurd (Nat.le_of_ble_eq_true e) (Nat.not_le.mpr h)]
  exact Core.predicts_withPred _ x

end Sys2Proof.Machine
end

section
/-! O16: the events of a Courier's predictor. -/

namespace Sys2Proof.Machine

/-- Settles O16: undoing the counter log takes back the wrong path, a wrong-path load changes no core but for its counters, and each
other event changes its own part of the predictor and the counters that select it. -/
theorem predictorEvents : Obligations.PredictorEvents := by
  unfold Obligations.PredictorEvents
  intro k wrong ret groups loads pc s x same apart restored
  have apartOf : ∀ {f : Core → Core} {p : Predictor}, Core.Predicts p x (f x) → apart (s.chip.modCore k f) :=
    fun h => ⟨Chip.modCore_eq_setCore .., (Chip.predictsAt_modCore h).core.same⟩
  have predOf : ∀ {f : Core → Core} {p : Predictor}, Core.Predicts p x (f x) → ((s.chip.modCore k f).core k).pred = p :=
    fun h => (Chip.predictsAt_modCore h).core.pred
  have hrestored : restored (x.pred.mispredict wrong) := x.pred.mispredict_restored wrong
  refine ⟨?mispredict, ?wrongPath, ?flush, ?retires, ?replay, ?clear, ?early⟩
  case mispredict =>
    have h := Core.predicts_mispredicts k wrong ret groups x
    exact ⟨_, exec_branchMispredict k wrong ret groups [] s, apartOf h, (predOf h).symm ▸ hrestored⟩
  case wrongPath =>
    have h := predictsAt_mispredict s.chip k wrong ret groups loads
    exact ⟨_, exec_branchMispredict k wrong ret groups loads s, h.core.same, h.core.pred.symm ▸ hrestored, h.others⟩
  case flush =>
    have h := (Core.predicts_withPred { x.pred with flushed := some pc } x).event k 0x0C
    refine ⟨s.chip.modCore k fun x => ({ x with pred := { x.pred with flushed := some pc } } : Core).event k 0x0C, rfl, apartOf h, ?_⟩
    rw [predOf h]
    exact ⟨rfl, rfl⟩
  case retires =>
    intro y hy
    rw [Core.loadRetires_flushed k.isLt hy]
    refine ⟨rfl, rfl, fun i => ?_⟩
    dsimp only
    rw [sget_sset]
    split
    next hi => rw [hi, beq_self_eq_true, Bool.true_or]
    next hi => rw [beq_false_of_ne hi, Bool.false_or]
  case replay =>
    have h := Core.predicts_event k 0x0B x
    refine ⟨s.chip.modCore k (Core.event k 0x0B), rfl, apartOf h, predOf h, fun hrun hbit hsel => ?_⟩
    rw [Chip.core_modCore_same]
    refine Core.pmcnt_event hrun (eventKind_overlapReplay k.isLt) ?_ ⟨hbit, hsel⟩
    split <;> decide
  case clear =>
    intro hdue
    have h := Core.predicts_clearsWait_due hdue
    refine ⟨_, exec_waitTableClear k s, apartOf h, ?_⟩
    rw [predOf h]
    exact ⟨rfl, fun _ => rfl⟩
  case early =>
    intro hearly
    have h := Core.predicts_clearsWait_early hearly
    exact ⟨_, exec_waitTableClear k s, apartOf h, predOf h⟩

end Sys2Proof.Machine
end

section
/-! SUPPORT. What the end of a DMA write unit (R353), and so the acknowledgement of a training's write (R648), leaves as it was. -/

namespace Sys2Proof.Machine

/-- What each change for an element of the list keeps, all of them keep. -/
theorem forAll_same_of_mem {α β : Type} {p : Chip → β} {l : List α} {f : α → Chip → Chip} (h : ∀ a ∈ l, ∀ c, p (f a c) = p c)
    (c : Chip) : p (forAll l f c) = p c := by
  induction l generalizing c with
  | nil => rfl
  | cons a t ih =>
    rw [List.forall_mem_cons] at h
    exact (ih h.2 (f a c)).trans (h.1 c)

/-- What `p` reads is neither a register of block DMA nor a channel's engine. -/
structure DmaBlind {α : Type} (p : Chip → α) : Prop where
  reg : ∀ (c : Chip) k w, k / 0x1000 = 7 → p (c.setReg k w) = p c
  dma : ∀ (c : Chip) x, p { c with dma := x } = p c

namespace DmaBlind
variable {α : Type} {p : Chip → α} (h : DmaBlind p)
include h

section
variable {i : Nat} (hi : i < 32)
include hi

theorem stat (x : Fld) (hx : x.key = DMA_CH_STAT i) (v : Nat) (c : Chip) : p (c.setF x v) = p c :=
  h.reg c _ _ (by rw [hx]; unfold DMA_CH_STAT; omega)

theorem setDmaState (st : Nat) (c : Chip) : p (setDmaState i st c) = p c :=
  (h.reg _ _ _ (by decide)).trans (h.stat hi _ rfl _ c)

theorem dmaHalt (result cause off : Nat) (c : Chip) : p (dmaHalt i result cause off c) = p c :=
  (h.dma _ _).trans ((h.reg _ _ _ (by decide)).trans ((h.reg _ _ _ (by unfold DMA_CH_OFF; omega)).trans ((h.stat hi _ rfl _ _).trans
    ((h.stat hi _ rfl _ _).trans (h.setDmaState hi _ c)))))

theorem dmaPauseNow (c : Chip) : p (dmaPauseNow i c) = p c :=
  (h.dma _ _).trans ((h.stat hi _ rfl _ _).trans (h.setDmaState hi _ c))

theorem dmaComplete (late : Bool) (c : Chip) : p (dmaComplete i late c) = p c := by
  have hdone : ∀ b : Bool, p (let d := (c.setReg (DMA_CH_DONECNT i) (c.reg (DMA_CH_DONECNT i) + 1)).setF (DMA_CH_STAT_RESULT i) 1
      if b then d.setRegBit DMA_DONE_EV i true else d) = p c := by
    intro b
    have hcount := (h.stat hi (DMA_CH_STAT_RESULT i) rfl 1 _).trans
      (h.reg c (DMA_CH_DONECNT i) (c.reg (DMA_CH_DONECNT i) + 1) (by unfold DMA_CH_DONECNT; omega))
    cases b
    · exact hcount
    · exact (h.reg _ _ _ (by decide)).trans hcount
  unfold Machine.dmaComplete
  dsimp only
  split
  · exact (h.dmaHalt hi _ _ _ _).trans ((h.stat hi _ rfl _ _).trans (hdone _))
  · split
    · exact (h.setDmaState hi _ _).trans ((h.dma _ _).trans (hdone _))
    · exact (h.dma _ _).trans ((h.reg _ _ _ (by dsimp only [DMA_CH_CUR_ADDR, DMA_CH_CUR]; omega)).trans (hdone _))

theorem dmaUse (fuel : Nat) (c : Chip) : p (dmaUse i fuel c) = p c := by
  induction fuel generalizing c with
  | zero => rfl
  | succ n ih =>
    unfold Machine.dmaUse
    dsimp only
    split
    · rfl
    · split
      · rfl
      · exact h.dmaHalt hi _ _ _ c
      · split
        · exact h.dmaHalt hi _ _ _ c
        · have hused : ∀ x, p (({ c with dma := x } : Chip).setF (DMA_CH_STAT_RETRY_USED i) 0) = p c :=
            fun x => (h.stat hi _ rfl _ _).trans (h.dma c x)
          split
          · exact (ih _).trans ((h.dmaComplete hi _ _).trans (hused _))
          · exact hused _

theorem dmaUnitDone (n : Nat) (c : Chip) : p (dmaUnitDone i n c) = p c := by
  have hpause : ∀ (b : Bool) (d : Chip), p (if b then Machine.setDmaState i 2 d else d) = p d := by
    intro b d
    cases b
    · rfl
    · exact h.setDmaState hi _ d
  unfold Machine.dmaUnitDone
  dsimp only
  split
  · exact (h.dmaUse hi _ _).trans ((hpause _ _).trans ((h.dmaComplete hi _ _).trans (h.dma c _)))
  · split
    · exact (h.dmaHalt hi _ _ _ _).trans (h.dma c _)
    · split
      · exact h.dma c _
      · exact (h.dmaPauseNow hi _).trans (h.dma c _)
end

/-- The masters whose waits end are DMA channels, and no other unit does anything then. -/
theorem acked (m : List (Option Nat)) (c : Chip) : p (acked m c) = p c := by
  refine forAll_same_of_mem (fun i hi d => ?_) c
  split
  · exact h.dmaUnitDone (List.mem_range.mp hi) _ d
  · rfl

end DmaBlind

theorem acked_memc (m : List (Option Nat)) (c : Chip) : (acked m c).memc = c.memc :=
  DmaBlind.acked ⟨fun _ _ _ _ => rfl, fun _ _ => rfl⟩ m c
theorem acked_reg (m : List (Option Nat)) (c : Chip) {k : Nat} (hk : k / 0x1000 ≠ 7) : (acked m c).reg k = c.reg k :=
  DmaBlind.acked (p := (Chip.reg · k)) ⟨fun c _ _ hj => Chip.reg_setReg_other c _ fun e => hk (e ▸ hj), fun _ _ => rfl⟩ m c
theorem acked_f (m : List (Option Nat)) (c : Chip) {x : Fld} (hx : x.key / 0x1000 ≠ 7) : (acked m c).f x = c.f x :=
  Chip.f_congr (acked_reg m c hx)

end Sys2Proof.Machine
end

section
/-! SUPPORT. A scrub read that finds one flipped bit in a word of an on-chip array (R163, R170, R172): the words that a pass visits, and
what the correction leaves. -/

namespace Sys2Proof.Machine

/-! ### The words of a pass (R161, R170) -/

/-- A position of a pass lies in an array of one of its spans. -/
theorem scrubAt_span {l : List (Nat × Nat × Nat)} {p a i : Nat} (h : scrubAt l p = some (a, i)) :
    ∃ e ∈ l, e.1 ≤ a ∧ a < e.1 + e.2.1 := by
  induction l generalizing p with
  | nil => cases h
  | cons e t ih =>
    obtain ⟨b, n, w⟩ := e
    unfold scrubAt at h
    split at h
    next hp =>
      have hdiv : p / w < n := Nat.div_lt_of_lt_mul (Nat.mul_comm n w ▸ hp)
      cases h
      exact ⟨_, List.mem_cons_self, Nat.le_add_right b _, Nat.add_lt_add_left hdiv b⟩
    next =>
      obtain ⟨e, he, hspan⟩ := ih h
      exact ⟨e, List.mem_cons_of_mem _ he, hspan⟩

/-- The arrays that are scrubbed have IDs below 0x86 (R161). -/
theorem Chip.scrubNext_array {c : Chip} {n p q a i : Nat} (h : c.scrubNext n p = some (q, a, i)) : a < 0x86 := by
  have hspans : ∀ e ∈ scrubSpans, e.1 + e.2.1 ≤ 0x86 := by decide
  induction n generalizing p with
  | zero => cases h
  | succ n ih =>
    unfold Chip.scrubNext at h
    split at h
    · cases h
    next hat =>
      split at h
      · cases h
        obtain ⟨e, he, -, hlt⟩ := scrubAt_span hat
        exact lt_of_lt_of_le hlt (hspans e he)
      · exact ih h

/-- Which words a pass visits depends on the powered domains alone. -/
theorem Chip.scrubNext_congr {c d : Chip} (h : d.power = c.power) (n p : Nat) : d.scrubNext n p = c.scrubNext n p := by
  induction n generalizing p with
  | zero => rfl
  | succ n ih =>
    unfold Chip.scrubNext Chip.domainUp
    rw [h]
    simp only [ih]

/-- A mapped array's word is on-chip, of 32 bits, and aligned. -/
theorem arrayWord_onChip (a i : Nat) : (arrayWord a i).1 ≠ .dram ∧ eccKey (arrayWord a i).1 (arrayWord a i).2 = (arrayWord a i).2 := by
  unfold arrayWord
  repeat' split
  all_goals
    refine ⟨by simp, ?_⟩
    dsimp only [eccKey, eccWidth]
    omega

/-- The ID of a mapped array's word is a number of 8 bits, as MEM_LAST_CE0 holds it. -/
theorem arrayId_arrayWord_lt {a : Nat} (i : Nat) (h : a < 0x86) : arrayId (arrayWord a i).1 (arrayWord a i).2 < 2 ^ 8 := by
  have hbits : ∀ n msb lsb, nbits n msb lsb < 2 ^ (msb + 1 - lsb) := fun n msb lsb => Nat.mod_lt _ (Nat.two_pow_pos _)
  unfold arrayWord
  repeat' split
  all_goals dsimp only [arrayId]
  · have := hbits (0x1000000000 + i / 16 * 0x800 + (a - 0x20) * 64 + i % 16 * 4) 10 6
    omega
  · omega
  · have := hbits (0x1010000000 + i / 16 * 0x200 + (a - 0x48) * 64 + i % 16 * 4) 8 6
    omega
  · omega
  · omega

/-! ### A word written back as it stands -/

theorem leBytes_leNat (l : List Byte) : leBytes l.length (leNat l) = l := by
  induction l with
  | nil => rfl
  | cons b t ih =>
    have hb := b.isLt
    have hdiv : (b.toNat + 256 * leNat t) / 256 = leNat t := by omega
    have hlow : BitVec.ofNat 8 (b.toNat + 256 * leNat t) = b := by
      apply BitVec.eq_of_toNat_eq
      rw [BitVec.toNat_ofNat]
      omega
    simp only [List.length_cons, leBytes, leNat, hdiv, hlow, ih]

theorem Chip.length_bytes (c : Chip) (pa n : Nat) : (c.bytes pa n).length = n := by
  induction n generalizing pa with
  | zero => rfl
  | succ n ih => exact congrArg (· + 1) (ih (pa + 1))

theorem Chip.getD_bytes (c : Chip) (pa : Nat) {n i : Nat} (h : i < n) : (c.bytes pa n).getD i 0 = c.byte (pa + i) := by
  induction n generalizing pa i with
  | zero => omega
  | succ n ih =>
    cases i with
    | zero => rfl
    | succ i =>
      have hi := ih (pa + 1) (Nat.lt_of_succ_lt_succ h)
      rwa [Nat.add_right_comm, Nat.add_assoc] at hi

/-- A correction of check bits alone leaves the data (R162). -/
theorem Chip.byte_xorWord_zero (c : Chip) (k n a : Nat) : (c.xorWord k n 0).byte a = c.byte a := by
  have hdata : leBytes n (Nat.xor (c.le k n) 0) = c.bytes k n := by
    have h := leBytes_leNat (c.bytes k n)
    rw [Chip.length_bytes] at h
    exact (congrArg (leBytes n) (Nat.xor_zero (c.le k n))).trans h
  unfold Chip.xorWord
  rw [hdata, Chip.byte_setBytes, Chip.length_bytes]
  split
  next hin => rw [Chip.getD_bytes c k (by omega), Nat.add_sub_cancel' hin.1]
  next => rfl

/-! ### What a write of bytes and the record of a correction leave as they were -/

section
variable {α : Type} (p : Chip → α)

theorem Chip.setBytes_keeps (hm : ∀ (c : Chip) x, p { c with mem := x } = p c) (bs : List Byte) (c : Chip) (pa : Nat) :
    p (c.setBytes pa bs) = p c := by
  induction bs generalizing c pa with
  | nil => rfl
  | cons b t ih => exact (ih _ _).trans (hm c _)

theorem Chip.correctedSram_keeps (hr : ∀ (c : Chip) k w, p (c.setReg k w) = p c) (hd : ∀ (c : Chip) x, p { c with dayb := x } = p c)
    (c : Chip) (a pa : Nat) (spec scrub : Bool) : p (c.correctedSram a pa spec scrub) = p c :=
  (Chip.journal_keeps p hd (fun c => hr c _ _) _ _ _ _ _ _ _).trans ((hr _ _ _).trans ((hr _ _ _).trans ((hr _ _ _).trans
    ((hr _ _ _).trans ((hr _ _ _).trans ((hr _ _ _).trans (hr c _ _)))))))
end

/-- The record of a correction in an on-chip array, found by the scrubber (R163, R172). -/
theorem correctedSram_record (c : Chip) {a : Nat} (pa : Nat) (spec : Bool) (ha : a < 2 ^ 8) :
    (c.correctedSram a pa spec true).f MEM_STATUS_CE_EV = 1 ∧ (c.correctedSram a pa spec true).f MEM_LAST_CE0_SCRUB = 1
    ∧ (c.correctedSram a pa spec true).f MEM_LAST_CE0_ARRAY = a := by
  have hjournal : ∀ (d : Chip) fl item x, x.key ≠ DAYB_EVT → (d.journal 1 0 208 fl item a).f x = d.f x :=
    fun d _ _ _ hx => Chip.f_congr (Chip.reg_journal d _ _ _ _ _ _ hx)
  unfold Chip.correctedSram Chip.flag
  refine ⟨?_, ?_, ?_⟩
  all_goals
    rw [hjournal _ _ _ _ (by decide)]
    simp (disch := decide) only [Chip.f_setF_other, Chip.f_setF_same]
  · decide
  · decide
  · exact Nat.mod_eq_of_lt ha

/-! ### The check of a word with one flipped bit -/

/-- The verify read of a word depends on what the memory controller knows of it. -/
theorem Chip.stuck_congr {c d : Chip} (h : d.memc = c.memc) (r : Region) (k : Nat) : d.stuck r k = c.stuck r k := by
  unfold Chip.stuck Chip.remapped Chip.dlt
  rw [h]

theorem Chip.verify_of_sound {c : Chip} {r : Region} {k : Nat} (h : c.stuck r k = false) : c.verify r k = c := by
  unfold Chip.verify
  rw [h]
  rfl

/-- A correctable error of an on-chip word that is not hard is corrected and recorded, and no spare is taken (R163). -/
theorem checkWord_corrects {c : Chip} {r : Region} {k m : Nat} (spec scrub : Bool) (hr : r ≠ .dram) (hdef : c.defined k = true)
    (hclean : c.poisoned k = false) (herr : c.flipAt k ≠ ⟨0, 0⟩) (hsound : c.stuck r k = false)
    (hecc : eccResult (eccWidth r) (c.le k (eccWidth r)) (c.flipAt k) = some (m, true)) :
    c.checkWord r k spec scrub = ((c.setFlip k ⟨0, 0⟩).xorWord k (eccWidth r) m).correctedSram (arrayId r k) k spec scrub := by
  have hfirst : c.firstUse r k = c := by simp [Chip.firstUse, hdef]
  have hrecord : ∀ d : Chip, d.corrected r k spec scrub = d.correctedSram (arrayId r k) k spec scrub := by
    intro d
    cases r with
    | dram => exact absurd rfl hr
    | _ => rfl
  have hverify := Chip.verify_of_sound (r := r) (k := k)
    (c := ((c.setFlip k ⟨0, 0⟩).xorWord k (eccWidth r) m).correctedSram (arrayId r k) k spec scrub)
    ((Chip.stuck_congr ((Chip.correctedSram_keeps Chip.memc (fun _ _ _ => rfl) (fun _ _ => rfl) _ _ _ _ _).trans
      (Chip.setBytes_keeps Chip.memc (fun _ _ => rfl) _ _ _)) r k).trans hsound)
  unfold Chip.checkWord
  simp only [hfirst, hclean, hecc, herr, Bool.false_eq_true, if_false, Bool.true_or, if_true, hrecord]
  exact hverify

theorem Chip.flipAt_setFlip (c : Chip) (k : Nat) (e : BitErr) : (c.setFlip k e).flipAt k = e := by
  unfold Chip.flipAt Chip.setFlip
  exact sget_sset_same _ _ _

/-- One flipped bit of the data is found in a check whatever the word holds (R162). -/
theorem eccResult_singleFlip (w d : Nat) : eccResult w d ⟨1, 0⟩ = some (0, true) := by
  have hcount : BitErr.count ⟨1, 0⟩ = 1 := by decide
  unfold eccResult
  rw [hcount]
  rfl

/-- The scrub read of a sound on-chip word that finds one flipped bit (R163, R172). -/
theorem scrubWord_singleFlip {c : Chip} {r : Region} {k : Nat} (hr : r ≠ .dram) (hk : eccKey r k = k) (hdef : c.defined k = true)
    (hclean : c.poisoned k = false) (hflip : c.flipAt k = ⟨0, 0⟩) (hsound : c.stuck r k = false) :
    scrubWord r k ⟨1, 0⟩ false c
      = (((c.setFlip k ⟨1, 0⟩).setFlip k ⟨0, 0⟩).xorWord k (eccWidth r) 0).correctedSram (arrayId r k) k false true := by
  have hupset : c.upsetWord r k ⟨1, 0⟩ = c.setFlip k ⟨1, 0⟩ := by
    unfold Chip.upsetWord
    simp only [hk, hflip]
    rfl
  have hread : (c.setFlip k ⟨1, 0⟩).flipAt k = ⟨1, 0⟩ := Chip.flipAt_setFlip _ _ _
  have hcheck : (c.setFlip k ⟨1, 0⟩).eccCheck r k false true = (c.setFlip k ⟨1, 0⟩).checkWord r k false true := by
    unfold Chip.eccCheck
    rw [if_neg hr, hk]
  have hword := checkWord_corrects (c := c.setFlip k ⟨1, 0⟩) (m := 0) false true hr hdef hclean (by rw [hread]; decide)
    ((Chip.stuck_congr rfl r k).trans hsound) (by rw [hread]; exact eccResult_singleFlip _ _)
  have hpoison : ((((c.setFlip k ⟨1, 0⟩).setFlip k ⟨0, 0⟩).xorWord k (eccWidth r) 0).correctedSram (arrayId r k) k false true).wordPoison
      r k = false := by
    unfold Chip.wordPoison Chip.poisoned
    rw [if_neg hr, hk, Chip.correctedSram_keeps Chip.poison (fun _ _ _ => rfl) (fun _ _ => rfl)]
    exact (congrArg (fun x => sget clean x k) (Chip.setBytes_keeps Chip.poison (fun _ _ => rfl) _ _ _)).trans hclean
  unfold scrubWord
  simp only [hupset, Bool.false_and, Bool.false_eq_true, if_false, hcheck, hword, hpoison]

end Sys2Proof.Machine
end

section
/-! O39: scrubbing, dead letters, DRAM training, and the failure of a channel. -/

namespace Sys2Proof.Machine

/-! ### Fields of records that the memory controller changes -/

/-- What the memory controller keeps outside its registers is in no field. -/
theorem Chip.f_memc (c : Chip) (x : MemCtl) (y : Fld) : ({ c with memc := x } : Chip).f y = c.f y := rfl

/-- A flag that reads 1 is set. -/
theorem Chip.fb_of_f {c : Chip} {x : Fld} (h : c.f x = 1) : c.fb x = true := by
  unfold Chip.fb
  rw [h]
  rfl

theorem Chip.repairAdd_keeps {α : Type} (p : Chip → α) (hp : ∀ (c : Chip) x, p { c with pm := x } = p c) (c : Chip)
    (kind id off : Nat) : p (c.repairAdd kind id off) = p c := by
  unfold Chip.repairAdd
  dsimp only
  split
  · rfl
  · exact hp c _

/-! ### The on-chip scrubber (R170, R171) -/

theorem exec_scrubPassOverrun_running {s : State} (hm : s.chip.mainRuns = true)
    (he : (s.chip.fb MEM_CTL_SCRUB_EN || s.chip.fb DRAMC_CONFIG_SCRUB_EN) = true) :
    exec .scrubPassOverrun s = .next (s.at (s.chip.flag MEM_STATUS_SCRUB_LATE)) := by
  have hx : exec .scrubPassOverrun s = execScrubPassOverrun s := rfl
  rw [hx, execScrubPassOverrun, State.go_eq, if_pos (by rw [hm, he]; rfl)]
  rfl

theorem exec_scrubPassOverrun_idle {s : State}
    (h : s.chip.mainRuns = false ∨ (s.chip.fb MEM_CTL_SCRUB_EN || s.chip.fb DRAMC_CONFIG_SCRUB_EN) = false) :
    exec .scrubPassOverrun s = .next s := by
  have hx : exec .scrubPassOverrun s = execScrubPassOverrun s := rfl
  rw [hx, execScrubPassOverrun, State.go_eq, if_neg]
  rw [Bool.and_eq_true]
  rintro ⟨hm, he⟩
  rcases h with h | h
  · rw [hm] at h
    cases h
  · rw [he] at h
    cases h

theorem exec_scrubRead_onChip {line : Fin 0x800000000} {upset : BitErr} {hard : Bool} {s : State} (hm : s.chip.mainRuns = true)
    (he : s.chip.fb MEM_CTL_SCRUB_EN = true) :
    exec (.scrubRead false line upset hard) s = .next (s.at (scrubChip line upset hard s.chip)) := by
  have hx : exec (.scrubRead false line upset hard) s = execScrubRead false line upset hard s := rfl
  rw [hx, execScrubRead, State.go_eq]
  simp only [hm, he, Bool.not_true, Bool.false_eq_true, if_false, if_true]
  rfl

theorem exec_scrubRead_dram {line : Fin 0x800000000} {upset : BitErr} {hard : Bool} {s : State} (hm : s.chip.mainRuns = true)
    (he : s.chip.fb DRAMC_CONFIG_SCRUB_EN = true) :
    exec (.scrubRead true line upset hard) s = .next (s.at (scrubDram upset s.chip)) := by
  have hx : exec (.scrubRead true line upset hard) s = execScrubRead true line upset hard s := rfl
  rw [hx, execScrubRead, State.go_eq]
  simp only [hm, he, Bool.not_true, Bool.false_eq_true, if_false, if_true]
  rfl

/-- Where a request waits, neither scrubber reads (R171). -/
theorem scrubChip_busy {line : Nat} {upset : BitErr} {hard : Bool} {c : Chip} {p a i : Nat}
    (hn : c.scrubNext 130 c.memc.scrubPos = some (p, a, i)) (hb : c.arbiterIdle a = false) : scrubChip line upset hard c = c := by
  unfold scrubChip
  simp only [hn, hb, Bool.not_false, if_true]

theorem scrubDram_busy {upset : BitErr} {c : Chip} (ht : c.memc.dscrubPos < c.dramTop)
    (hb : c.arbiterIdle (0xA0 + c.dramChannel c.memc.dscrubPos) = false) : scrubDram upset c = c := by
  have hbelow : Nat.ble c.dramTop c.memc.dscrubPos = false := by
    rw [← Bool.not_eq_true, Nat.ble_eq]
    omega
  unfold scrubDram
  simp only [hb, hbelow, Bool.not_false, Bool.or_true, if_true, Bool.false_eq_true, if_false]

/-- The scrubber steps past position `p`: to the next word of its pass, or, where none is left, to a new pass (R170). -/
def Chip.scrubbed (c : Chip) (p : Nat) : Chip :=
  if (c.scrubNext 130 (p + 1)).isNone then ({ c with memc := { c.memc with scrubPos := 0 } } : Chip).countF MEM_SCRUB_STAT_PASSES
  else { c with memc := { c.memc with scrubPos := p + 1 } }

theorem scrubChip_word {line : Nat} {upset : BitErr} {hard : Bool} {c : Chip} {p a i : Nat}
    (hn : c.scrubNext 130 c.memc.scrubPos = some (p, a, i)) (hidle : c.arbiterIdle a = true) (ha : 0x20 ≤ a) :
    scrubChip line upset hard c = (scrubWord (arrayWord a i).1 (arrayWord a i).2 upset hard c).scrubbed p := by
  unfold scrubChip
  simp only [hn, hidle, Bool.not_true, Bool.false_eq_true, if_false, if_neg (Nat.not_lt.mpr ha)]
  rfl

theorem Chip.scrubPos_scrubbed (c : Chip) (p : Nat) :
    (c.scrubbed p).memc.scrubPos = if (c.scrubNext 130 (p + 1)).isNone then 0 else p + 1 := by
  unfold Chip.scrubbed
  split <;> rfl

theorem Chip.scrubbed_keeps {α : Type} (q : Chip → α) (hm : ∀ (c : Chip) x, q { c with memc := x } = q c)
    (hr : ∀ (c : Chip) w, q (c.setReg MEM_SCRUB_STAT w) = q c) (c : Chip) (p : Nat) : q (c.scrubbed p) = q c := by
  unfold Chip.scrubbed
  split
  · exact (hr _ _).trans (hm c _)
  · exact hm c _

theorem Chip.f_scrubbed (c : Chip) (p : Nat) {x : Fld} (h : x.key ≠ MEM_SCRUB_STAT) : (c.scrubbed p).f x = c.f x :=
  c.scrubbed_keeps (Chip.f · x) (fun _ _ => rfl) (fun _ _ => Chip.f_congr (Chip.reg_setReg_other _ _ h)) p

/-- The scrubber's read of a sound on-chip word that finds one flipped bit: corrected, recorded, and the scrubber goes on (R163, R170). -/
theorem scrubChip_singleFlip {line : Nat} {c : Chip} {p a i : Nat} (hn : c.scrubNext 130 c.memc.scrubPos = some (p, a, i))
    (hidle : c.arbiterIdle a = true) (ha : 0x20 ≤ a) (hdef : c.defined (arrayWord a i).2 = true)
    (hclean : c.poisoned (arrayWord a i).2 = false) (hflip : sget noErr c.flips (arrayWord a i).2 = ⟨0, 0⟩)
    (hsound : c.stuck (arrayWord a i).1 (arrayWord a i).2 = false) :
    let d := scrubChip line ⟨1, 0⟩ false c
    d.fb MEM_STATUS_CE_EV = true ∧ d.fb MEM_LAST_CE0_SCRUB = true
    ∧ d.f MEM_LAST_CE0_ARRAY = arrayId (arrayWord a i).1 (arrayWord a i).2 ∧ (∀ x, d.byte x = c.byte x)
    ∧ sget noErr d.flips (arrayWord a i).2 = ⟨0, 0⟩
    ∧ d.memc.scrubPos = if (c.scrubNext 130 (p + 1)).isNone then 0 else p + 1 := by
  have hid := arrayId_arrayWord_lt i (Chip.scrubNext_array hn)
  obtain ⟨hr, hk⟩ := arrayWord_onChip a i
  dsimp only
  rw [scrubChip_word hn hidle ha]
  generalize (arrayWord a i).1 = r at *
  generalize (arrayWord a i).2 = k at *
  rw [scrubWord_singleFlip hr hk hdef hclean hflip hsound]
  obtain ⟨hev, hscrub, harray⟩ :=
    correctedSram_record (((c.setFlip k ⟨1, 0⟩).setFlip k ⟨0, 0⟩).xorWord k (eccWidth r) 0) k false hid
  refine ⟨?_, ?_, ?_, fun x => ?_, ?_, ?_⟩
  · exact Chip.fb_of_f ((Chip.f_scrubbed _ _ (by decide)).trans hev)
  · exact Chip.fb_of_f ((Chip.f_scrubbed _ _ (by decide)).trans hscrub)
  · exact (Chip.f_scrubbed _ _ (by decide)).trans harray
  · rw [Chip.scrubbed_keeps (Chip.byte · x) (fun _ _ => rfl) (fun _ _ => rfl),
      Chip.correctedSram_keeps (Chip.byte · x) (fun _ _ _ => rfl) (fun _ _ => rfl), Chip.byte_xorWord_zero]
    rfl
  · rw [Chip.scrubbed_keeps Chip.flips (fun _ _ => rfl) (fun _ _ => rfl),
      Chip.correctedSram_keeps Chip.flips (fun _ _ _ => rfl) (fun _ _ => rfl)]
    exact (congrArg (fun t => sget noErr t k) (Chip.setBytes_keeps Chip.flips (fun _ _ => rfl) _ _ _)).trans (Chip.flipAt_setFlip _ _ _)
  · rw [Chip.scrubPos_scrubbed, Chip.scrubNext_congr]
    rw [Chip.correctedSram_keeps Chip.power (fun _ _ _ => rfl) (fun _ _ => rfl)]
    exact Chip.setBytes_keeps Chip.power (fun _ _ => rfl) _ _ _

/-! ### Dead letters (R174, R177) -/

theorem writeReg_dltEntry {o : Nat} (v : Word) {c : Chip} (h : c.takesWrite o MEM_DLT_ENTRY = true) :
    writeReg o MEM_DLT_ENTRY v c = writeDltEntry v c := by
  rw [writeReg_eq v h]
  rfl

theorem exec_dltInstall {o : BitVec 12} (offset : BitVec 22) {s : State} (h : s.chip.takesWrite o.toNat MEM_DLT_ENTRY = true) :
    exec (.dltInstall o offset) s = .next (s.at (writeDltEntry (Word.of (2 ^ 31 + 4 * offset.toNat)) s.chip)) := by
  have hx : exec (.dltInstall o offset) s
      = .next (s.at (writeCmd o.toNat MEM_DLT_ENTRY (Word.of (2 ^ 31 + 4 * offset.toNat)) s.chip)) := rfl
  rw [hx, writeCmd_eq _ (takesWrite_reads h) (by decide) (by decide), writeReg_dltEntry _ h]

theorem exec_dltRemove {o : BitVec 12} (offset : BitVec 22) {s : State} (h : s.chip.takesWrite o.toNat MEM_DLT_ENTRY = true) :
    exec (.dltRemove o offset) s = .next (s.at (writeDltEntry (Word.of (4 * offset.toNat)) s.chip)) := by
  have hx : exec (.dltRemove o offset) s
      = .next (s.at (writeCmd o.toNat MEM_DLT_ENTRY (Word.of (4 * offset.toNat)) s.chip)) := rfl
  rw [hx, writeCmd_eq _ (takesWrite_reads h) (by decide) (by decide), writeReg_dltEntry _ h]

/-- A write of MEM_DLT_ENTRY sets the entry that MEM_DLT_SEL names, and nothing else (R177). -/
theorem writeDltEntry_selected (v : Word) {c : Chip} (h : c.f MEM_DLT_SEL_INDEX < dltSize (c.f MEM_DLT_SEL_ARRAY)) :
    writeDltEntry v c = c.setDlt (c.f MEM_DLT_SEL_ARRAY) (c.f MEM_DLT_SEL_INDEX) ⟨v.bit 31, v.bits 23 2 * 4⟩ := by
  unfold writeDltEntry
  exact if_pos h

theorem Chip.dlt_setDlt (c : Chip) (a i : Nat) (e : DltEntry) : (c.setDlt a i e).dlt a i = e := sget_sset_same _ _ _

/-- The word of an installation: V 1 and the OFFSET. -/
theorem installWord_fields (offset : BitVec 22) :
    (Word.of (2 ^ 31 + 4 * offset.toNat)).bit 31 = true ∧ (Word.of (2 ^ 31 + 4 * offset.toNat)).bits 23 2 = offset.toNat := by
  have hoff := offset.isLt
  unfold Word.bit Word.bits
  rw [Word.toNat_of, Nat.mod_eq_of_lt (by omega)]
  refine ⟨?_, ?_⟩
  · rw [Nat.testBit_eq_decide_div_mod_eq, decide_eq_true_eq]
    omega
  · rw [Nat.shiftRight_eq_div_pow]
    omega

/-- The word of a removal: V 0. -/
theorem removeWord_v (offset : BitVec 22) : (Word.of (4 * offset.toNat)).bit 31 = false := by
  have hoff := offset.isLt
  unfold Word.bit
  rw [Word.toNat_of, Nat.mod_eq_of_lt (by omega), Nat.testBit_lt_two_pow (by omega)]

/-! ### Training begins (R648) -/

theorem exec_dramcEnable {o : BitVec 12} (cap rate : BitVec 4) (scrub : Bool) {s : State}
    (h : s.chip.takesWrite o.toNat DRAMC_CONFIG = true) :
    exec (.dramcEnable o cap rate scrub) s
      = .next (s.at (writeDramcConfig o.toNat (Word.of (2 ^ 31 + 2 ^ 30 * scrub.toNat + 16 * rate.toNat + cap.toNat)) s.chip)) := by
  have hx : exec (.dramcEnable o cap rate scrub) s
      = .next (s.at (writeCmd o.toNat DRAMC_CONFIG (Word.of (2 ^ 31 + 2 ^ 30 * scrub.toNat + 16 * rate.toNat + cap.toNat)) s.chip)) := rfl
  have hw : ∀ v, writeReg o.toNat DRAMC_CONFIG v s.chip = writeDramcConfig o.toNat v s.chip := by
    intro v
    rw [writeReg_eq v h]
    rfl
  rw [hx, writeCmd_eq _ (takesWrite_reads h) (by decide) (by decide), hw]

/-- A mask that covers a field leaves it. -/
theorem bits_and_covered (v m : Word) {msb lsb : Nat} (h : m.bits msb lsb = 2 ^ (msb + 1 - lsb) - 1) :
    (v &&& m).bits msb lsb = v.bits msb lsb := by
  apply Nat.eq_of_testBit_eq
  intro i
  have hm : (m.bits msb lsb).testBit i = decide (i < msb + 1 - lsb) := by rw [h, Nat.testBit_two_pow_sub_one]
  rw [Word.testBit_bits] at hm
  rw [Word.testBit_bits, Word.testBit_bits, BitVec.toNat_and, Nat.testBit_and]
  by_cases hi : i < msb + 1 - lsb
  · simp only [hi, decide_true, Bool.true_and] at hm ⊢
    rw [hm, Bool.and_true]
  · simp only [hi, decide_false, Bool.false_and]

/-- The word of a write that enables DRAM: ENABLE 1 and the CAP. -/
theorem enableWord_fields (cap rate : BitVec 4) (scrub : Bool) :
    let v := Word.of (2 ^ 31 + 2 ^ 30 * scrub.toNat + 16 * rate.toNat + cap.toNat)
    v.bit 31 = true ∧ v.bits 31 31 = 1 ∧ v.bits 3 0 = cap.toNat := by
  have hcap := cap.isLt
  have hrate := rate.isLt
  have hscrub := scrub.toNat_le
  dsimp only
  unfold Word.bit Word.bits
  rw [Word.toNat_of, Nat.mod_eq_of_lt (by omega)]
  refine ⟨?_, ?_, ?_⟩
  · rw [Nat.testBit_eq_decide_div_mod_eq, decide_eq_true_eq]
    omega
  · rw [Nat.shiftRight_eq_div_pow]
    omega
  · rw [Nat.shiftRight_eq_div_pow]
    omega

/-- Setting ENABLE starts training on the written configuration (R648). -/
theorem writeDramcConfig_starts {c : Chip} (o : Nat) {v : Word} (hoff : (c.reg DRAMC_CONFIG).bit 31 = false) (hon : v.bit 31 = true) :
    writeDramcConfig o v c = (c.setReg DRAMC_CONFIG (v &&& 0xC00000FF)).startTraining (some o) := by
  unfold writeDramcConfig
  simp only [hoff, hon, Bool.not_false, Bool.and_self, Bool.false_eq_true, if_false, if_true]

/-- What a training in progress shows: the configuration as written, nothing trained, no usable DRAM, and the master that waits (R648). -/
theorem startTraining_fields (c : Chip) (m : Option Nat) :
    (∀ x : Fld, x.key = DRAMC_CONFIG → (c.startTraining m).f x = c.f x) ∧ (c.startTraining m).f DRAMC_STATUS_TRAINED = 0
    ∧ (c.startTraining m).f DRAMC_TOP_SIZE4K = 0 ∧ (c.startTraining m).memc.training = some m ∧ (c.startTraining m).mem = c.mem := by
  unfold Chip.startTraining
  refine ⟨fun x hx => ?_, ?_, ?_, rfl, rfl⟩
  · have hother : ∀ y : Fld, y.key ≠ DRAMC_CONFIG → ∀ d : Chip, (d.setF y 0).f x = d.f x :=
      fun y hy d => Chip.f_congr (Chip.reg_setF_other d 0 (hx ▸ hy.symm))
    rw [Chip.f_memc, hother _ (by decide), hother _ (by decide)]
  all_goals simp (disch := decide) only [Chip.f_memc, Chip.f_setF_other, Chip.f_setF_same, Nat.zero_mod]

/-! ### Training ends (R178, R182 to R184, R648) -/

theorem exec_dramTrainingDone {failed : List Nat} {s : State} {m : Option Nat} (h : s.chip.memc.training = some m) :
    exec (.dramTrainingDone failed) s = .next (s.at (acked [m] (s.chip.endTraining failed))) := by
  have hx : exec (.dramTrainingDone failed) s = execDramTrainingDone failed s := rfl
  rw [hx, execDramTrainingDone, State.go_eq]
  simp only [h]
  rfl

/-- The chip at the end of a training, before its results are set: the data is lost where degraded running begins or ends (R183). -/
def Chip.trainingOver (c : Chip) (out : List Nat) : Chip :=
  let d : Chip := { c with memc := { c.memc with training := none } }
  let was := if c.fb DRAMC_STATUS_DEGRADED then [c.f DRAMC_STATUS_DEG_CH] else []
  if out.length ≤ 1 && out != was then d.wipeDram else d

/-- Training is over, and no register has changed yet. -/
theorem Chip.trainingOver_keeps (c : Chip) (out : List Nat) :
    (c.trainingOver out).regs = c.regs ∧ (c.trainingOver out).memc.training = none := by
  unfold Chip.trainingOver
  extract_lets d was
  split <;> exact ⟨rfl, rfl⟩

theorem Chip.f_trainingOver (c : Chip) (out : List Nat) (x : Fld) : (c.trainingOver out).f x = c.f x := by
  unfold Chip.f Chip.reg
  rw [(c.trainingOver_keeps out).1]

theorem Chip.capacity_of_cap {c : Chip} (h : c.f DRAMC_CONFIG_CAP = 1) : c.capacity = 2 ^ 30 := by
  unfold Chip.capacity
  rw [h]
  rfl

theorem endTraining_healthy {c : Chip} {failed : List Nat} (h : c.channelsOut failed = []) :
    c.endTraining failed =
      let d := c.trainingOver []
      let e := ((d.setF DRAMC_STATUS_TRAINED 15).setF DRAMC_STATUS_DEGRADED 0).setF DRAMC_STATUS_DEG_CH 0
      e.setF DRAMC_TOP_SIZE4K (4 * e.capacity * 7 / 8 / 4096) := by
  unfold Chip.endTraining
  simp only [h]
  rfl

theorem endTraining_degraded {c : Chip} {failed : List Nat} {ch : Nat} (h : c.channelsOut failed = [ch]) :
    c.endTraining failed =
      let d := ((c.trainingOver [ch]).setF DRAMC_DEGRADE_REQ 1).setF DRAMC_DEGRADE_CH ch
      let e := ((d.setF DRAMC_STATUS_TRAINED (15 - 2 ^ ch)).setF DRAMC_STATUS_DEGRADED 1).setF DRAMC_STATUS_DEG_CH ch
      e.setF DRAMC_TOP_SIZE4K (3 * e.capacity * 7 / 8 / 4096) := by
  unfold Chip.endTraining
  simp only [h]
  rfl

theorem endTraining_unavailable {c : Chip} {failed : List Nat} (h : 2 ≤ (c.channelsOut failed).length) :
    c.endTraining failed =
      let d := c.trainingOver (c.channelsOut failed)
      (((d.setF DRAMC_STATUS_TRAINED 0).setF DRAMC_STATUS_DEGRADED 0).setF DRAMC_STATUS_DEG_CH 0).setF DRAMC_TOP_SIZE4K 0 := by
  unfold Chip.endTraining
  generalize c.channelsOut failed = out at h
  match out, h with
  | _ :: _ :: _, _ => rfl

/-- The channels out are channels of the board. -/
theorem Chip.channelsOut_lt {c : Chip} {failed : List Nat} {x : Nat} (h : x ∈ c.channelsOut failed) : x < 4 :=
  List.mem_range.mp (List.mem_of_mem_filter h)

/-- With no channel out, all four are trained, and seven eighths of their capacity are usable (R178). -/
theorem endTraining_healthy_fields {c : Chip} {failed : List Nat} (h : c.channelsOut failed = []) :
    let d := c.endTraining failed
    d.f DRAMC_STATUS_TRAINED = 15 ∧ d.f DRAMC_STATUS_DEGRADED = 0 ∧ d.memc.training = none
    ∧ (c.f DRAMC_CONFIG_CAP = 1 → d.dramTop = 7 * 2 ^ 29) := by
  rw [endTraining_healthy h]
  dsimp only
  refine ⟨?_, ?_, (c.trainingOver_keeps []).2, fun hcap => ?_⟩
  · simp (disch := decide) only [Chip.f_setF_other, Chip.f_setF_same]
    rfl
  · simp (disch := decide) only [Chip.f_setF_other, Chip.f_setF_same, Nat.zero_mod]
  · rw [Chip.capacity_of_cap (by simp (disch := decide) only [Chip.f_setF_other, Chip.f_trainingOver, hcap])]
    unfold Chip.dramTop
    rw [Chip.f_setF_same _ _ _ (by decide) (by decide)]
    decide

/-- With one channel out, DRAM runs degraded on the other three (R182, R184). -/
theorem endTraining_degraded_fields {c : Chip} {failed : List Nat} {ch : Nat} (h : c.channelsOut failed = [ch]) :
    let d := c.endTraining failed
    d.f DRAMC_STATUS_TRAINED = 15 - 2 ^ ch ∧ d.f DRAMC_STATUS_DEGRADED = 1 ∧ d.f DRAMC_STATUS_DEG_CH = ch ∧ d.memc.training = none
    ∧ (c.f DRAMC_CONFIG_CAP = 1 → d.dramTop = 21 * 2 ^ 27) := by
  have hch : ch < 2 ^ 2 := Chip.channelsOut_lt (h ▸ List.mem_singleton_self ch)
  rw [endTraining_degraded h]
  dsimp only
  refine ⟨?_, ?_, ?_, (c.trainingOver_keeps [ch]).2, fun hcap => ?_⟩
  · simp (disch := decide) only [Chip.f_setF_other, Chip.f_setF_same]
    exact Nat.mod_eq_of_lt (Nat.lt_succ_of_le (Nat.sub_le _ _))
  · simp (disch := decide) only [Chip.f_setF_other, Chip.f_setF_same]
    rfl
  · simp (disch := decide) only [Chip.f_setF_other, Chip.f_setF_same]
    exact Nat.mod_eq_of_lt hch
  · rw [Chip.capacity_of_cap (by simp (disch := decide) only [Chip.f_setF_other, Chip.f_trainingOver, hcap])]
    unfold Chip.dramTop
    rw [Chip.f_setF_same _ _ _ (by decide) (by decide)]
    decide

/-- With two or more channels out, no DRAM is usable (R184). -/
theorem endTraining_unavailable_fields {c : Chip} {failed : List Nat} (h : 2 ≤ (c.channelsOut failed).length) :
    let d := c.endTraining failed
    d.f DRAMC_STATUS_TRAINED = 0 ∧ d.dramTop = 0 ∧ d.memc.training = none := by
  rw [endTraining_unavailable h]
  dsimp only
  refine ⟨?_, ?_, (c.trainingOver_keeps (c.channelsOut failed)).2⟩
  · simp (disch := decide) only [Chip.f_setF_other, Chip.f_setF_same, Nat.zero_mod]
  · unfold Chip.dramTop
    simp (disch := decide) only [Chip.f_setF_same, Nat.zero_mod, Nat.zero_mul]

theorem dramTop_acked (m : List (Option Nat)) (c : Chip) : (acked m c).dramTop = c.dramTop :=
  congrArg (· * 4096) (acked_f m c (by decide))

/-! ### A running channel fails (R185) -/

/-- The chip that records the failure of channel `ch`, before the Daybook and the repair list hold it. -/
def Chip.channelFailed (c : Chip) (ch : Nat) : Chip :=
  let d := (c.flag DRAMC_STATUS_CH_FAIL).setF DRAMC_STATUS_FAIL_CH ch
  { d with memc := { d.memc with failedCh := if d.memc.failedCh.contains ch then d.memc.failedCh else d.memc.failedCh ++ [ch] } }

theorem Chip.channelFailed_keeps {α : Type} (p : Chip → α) (hr : ∀ (c : Chip) k w, p (c.setReg k w) = p c)
    (hm : ∀ (c : Chip) x, p { c with memc := x } = p c) (c : Chip) (ch : Nat) : p (c.channelFailed ch) = p c :=
  (hm _ _).trans ((hr _ _ _).trans (hr c _ _))

theorem exec_dramChannelFail {ch : Fin 4} {s : State} (h : (s.chip.reg DRAMC_STATUS).bit ch = true) :
    exec (.dramChannelFail ch) s
      = .next (s.at (((s.chip.channelFailed ch).journal 3 0 209 0 ch 0).repairAdd 3 ch 0)) := by
  have hx : exec (.dramChannelFail ch) s = execDramChannelFail ch s := rfl
  rw [hx, execDramChannelFail, State.go_eq, if_pos h]
  rfl

/-- The failed channels are those that were, and this one. -/
theorem Chip.mem_failedCh_channelFailed (c : Chip) (ch x : Nat) :
    x ∈ (c.channelFailed ch).memc.failedCh ↔ x = ch ∨ x ∈ c.memc.failedCh := by
  have hlist : (c.channelFailed ch).memc.failedCh = if c.memc.failedCh.contains ch then c.memc.failedCh else c.memc.failedCh ++ [ch] := rfl
  rw [hlist]
  split
  next hin =>
    refine ⟨.inr, ?_⟩
    rintro (rfl | hx)
    · exact List.contains_iff_mem.mp hin
    · exact hx
  next => rw [List.mem_append, List.mem_singleton, or_comm]

/-- A failure changes of DRAMC_STATUS only CH_FAIL and FAIL_CH, so that no address moves to another channel. -/
theorem Chip.dramChannel_channelFailed (c : Chip) (ch pa : Nat) : (c.channelFailed ch).dramChannel pa = c.dramChannel pa := by
  unfold Chip.dramChannel Chip.channelFailed Chip.fb Chip.flag
  simp (disch := decide) only [Chip.f_memc, Chip.f_setF_other]

theorem Chip.channelFailed_fields (c : Chip) {ch : Nat} (h : ch < 2 ^ 2) :
    (c.channelFailed ch).f DRAMC_STATUS_CH_FAIL = 1 ∧ (c.channelFailed ch).f DRAMC_STATUS_FAIL_CH = ch := by
  unfold Chip.channelFailed Chip.flag
  refine ⟨?_, ?_⟩
  · simp (disch := decide) only [Chip.f_memc, Chip.f_setF_other, Chip.f_setF_same]
    rfl
  · simp (disch := decide) only [Chip.f_memc, Chip.f_setF_same]
    exact Nat.mod_eq_of_lt h

/-- DRAM of the failed channel answers no more, but for the lines that the L2 holds dirty (R185). -/
theorem deadDram_of_failed {c : Chip} {pa : Nat} (hch : c.dramChannel pa ∈ c.memc.failedCh) (hd : c.dirty pa = none) :
    c.deadDram .dram pa = true := by
  simp [Chip.deadDram, hch, hd]

/-- The record of a failure: the fields, the failed channels, their addresses, and the Daybook's entry (R185). -/
theorem channelFailed_recorded (c : Chip) (ch : Fin 4) :
    let d := ((c.channelFailed ch).journal 3 0 209 0 ch 0).repairAdd 3 ch 0
    d.fb DRAMC_STATUS_CH_FAIL = true ∧ d.f DRAMC_STATUS_FAIL_CH = ch.val ∧ d.mem = c.mem
    ∧ (∀ x, x ∈ d.memc.failedCh ↔ x = ch.val ∨ x ∈ c.memc.failedCh)
    ∧ (∀ pa, c.dramChannel pa = ch.val → c.dirty pa = none → d.deadDram .dram pa = true)
    ∧ (c.dayb.frozen = false → ∃ e l, d.dayb.ring = e :: l ∧ e.cls = 3 ∧ e.origin = 209) := by
  extract_lets d
  have hreg : ∀ k, k ≠ DAYB_EVT → d.reg k = (c.channelFailed ch).reg k := fun k hk =>
    (Chip.repairAdd_keeps (Chip.reg · k) (fun _ _ => rfl) _ _ _ _).trans (Chip.reg_journal _ _ _ _ _ _ _ hk)
  have hmemc : d.memc = (c.channelFailed ch).memc :=
    (Chip.repairAdd_keeps Chip.memc (fun _ _ => rfl) _ _ _ _).trans (Chip.journal_memc _ _ _ _ _ _ _)
  have hdayb : d.dayb = ((c.channelFailed ch).journal 3 0 209 0 ch 0).dayb := Chip.repairAdd_keeps Chip.dayb (fun _ _ => rfl) _ _ _ _
  have hfailed : ∀ x, x ∈ d.memc.failedCh ↔ x = ch.val ∨ x ∈ c.memc.failedCh := by
    rw [hmemc]
    exact c.mem_failedCh_channelFailed ch
  obtain ⟨hfail, hwhich⟩ := c.channelFailed_fields ch.isLt
  refine ⟨?_, ?_, ?_, hfailed, fun pa hpa hdirty => ?_, fun hfrozen => ?_⟩
  · exact Chip.fb_of_f ((Chip.f_congr (hreg _ (by decide))).trans hfail)
  · exact (Chip.f_congr (hreg _ (by decide))).trans hwhich
  · have hentry : d.mem = (c.channelFailed ch).mem :=
      (Chip.repairAdd_keeps Chip.mem (fun _ _ => rfl) _ _ _ _).trans (Chip.journal_mem _ _ _ _ _ _ _)
    exact hentry.trans (Chip.channelFailed_keeps Chip.mem (fun _ _ _ => rfl) (fun _ _ => rfl) c ch)
  · have hsame : d.dramChannel pa = c.dramChannel pa := by
      rw [← c.dramChannel_channelFailed ch pa]
      unfold Chip.dramChannel
      rw [Chip.fb_congr (hreg _ (by decide)), Chip.f_congr (hreg _ (by decide))]
    refine deadDram_of_failed ((hfailed _).mpr (.inl (hsame.trans hpa))) ?_
    unfold Chip.dirty
    rw [hmemc]
    exact hdirty
  · have hopen : ((c.channelFailed ch).dayb.frozen && mainOrigin 209) = false := by
      rw [show (c.channelFailed ch).dayb.frozen = false from hfrozen]
      rfl
    obtain ⟨l, hring⟩ := Chip.journal_ring 3 0 0 ch 0 hopen
    exact ⟨_, l, (congrArg Daybook.ring hdayb).trans hring, rfl, rfl⟩

/-! ### The obligation -/

/-- Settles O39: the scrubbers by what a scrub read makes of a word with one flipped bit, the dead letters and the start of training by what
their register writes do, the end of training by its three outcomes and what the acknowledgement leaves, the failure by its record. -/
theorem memoryUpkeep : Obligations.MemoryUpkeep := by
  unfold Obligations.MemoryUpkeep
  intro o line offset cap rate scrub ch s
  refine ⟨fun hm he => ?overrun, exec_scrubPassOverrun_idle, fun p a i hm he hn => ⟨fun hb => ?waits, fun hidle ha => ?corrects⟩,
    fun hm he ht hb => ?dramWaits, fun ht hi => ⟨?installs, ?removes⟩, fun ht hoff => ?enables, fun failed ht => ?trained,
    fun hrun => ?fails⟩
  case overrun => exact .of_next (exec_scrubPassOverrun_running hm he) ⟨Chip.fb_flag_same _ _ rfl (by decide), rfl⟩
  case waits => rw [exec_scrubRead_onChip hm he, scrubChip_busy hn hb]; rfl
  case corrects =>
    intro r pa hdef hclean hflip hsound
    exact .of_next (exec_scrubRead_onChip hm he) (scrubChip_singleFlip hn hidle ha hdef hclean hflip hsound)
  case dramWaits => rw [exec_scrubRead_dram hm he, scrubDram_busy ht hb]; rfl
  case installs =>
    obtain ⟨hv, hoffset⟩ := installWord_fields offset
    refine .of_next (exec_dltInstall offset ht) ?_
    rw [writeDltEntry_selected _ hi, hv, hoffset]
    exact ⟨Chip.dlt_setDlt _ _ _ _, rfl, rfl⟩
  case removes =>
    refine .of_next (exec_dltRemove offset ht) ?_
    rw [writeDltEntry_selected _ hi, removeWord_v]
    exact ⟨congrArg DltEntry.valid (Chip.dlt_setDlt _ _ _ _), rfl, rfl⟩
  case enables =>
    obtain ⟨hon, henable, hcap⟩ := enableWord_fields cap rate scrub
    refine .of_next (exec_dramcEnable cap rate scrub ht) ?_
    rw [writeDramcConfig_starts _ hoff hon]
    obtain ⟨hconfig, htrained, htop, hmaster, hmem⟩ :=
      startTraining_fields (s.chip.setReg DRAMC_CONFIG (_ &&& 0xC00000FF)) (some o.toNat)
    refine ⟨?_, ?_, htrained, htop, hmaster, hmem⟩
    · refine Chip.fb_of_f ((hconfig DRAMC_CONFIG_ENABLE rfl).trans ?_)
      exact (congrArg (Word.bits · 31 31) (Chip.reg_setReg_same _ _ _)).trans ((bits_and_covered _ _ (by decide)).trans henable)
    · refine (hconfig DRAMC_CONFIG_CAP rfl).trans ?_
      exact (congrArg (Word.bits · 3 0) (Chip.reg_setReg_same _ _ _)).trans ((bits_and_covered _ _ (by decide)).trans hcap)
  case trained =>
    obtain ⟨m, hmaster⟩ := Option.isSome_iff_exists.mp ht
    refine ⟨fun hout => ?healthy, fun x hout => ?degraded, fun hout => ?unavailable⟩
    all_goals
      refine .of_next (exec_dramTrainingDone hmaster) ?_
      simp (disch := decide) only [Chip.fb, acked_f, acked_memc, dramTop_acked]
    case healthy =>
      obtain ⟨htrained, hwhole, hover, htop⟩ := endTraining_healthy_fields hout
      exact ⟨htrained, congrArg (· != 0) hwhole, hover, htop⟩
    case degraded =>
      obtain ⟨htrained, hdegraded, hwhich, hover, htop⟩ := endTraining_degraded_fields hout
      exact ⟨htrained, congrArg (· != 0) hdegraded, hwhich, hover, htop⟩
    case unavailable => exact endTraining_unavailable_fields hout
  case fails => exact .of_next (exec_dramChannelFail hrun) (channelFailed_recorded s.chip ch)

end Sys2Proof.Machine
end

section
/-! SUPPORT. What the operations outside the display units leave of them: memory checks and stores, the Daybook, the Franking Unit, the
twin, the timers. -/

namespace Sys2Proof.Machine

/-- The registers of the display units, and DRAMC_TOP, from which the composers tell what lies in DRAM. -/
def displayReg (k : Nat) : Bool := within 0xB000 0x10000 k || k == DRAMC_TOP

/-- The display side of the chip: the display's own state, the master count, and the display registers. -/
def Chip.displaySide (c : Chip) : Display × DWord × (Nat → Word) := (c.disp, c.count, fun k => if displayReg k then c.reg k else 0)

theorem Chip.disp_of_displaySide {c d : Chip} (h : d.displaySide = c.displaySide) : d.disp = c.disp := congrArg Prod.fst h

theorem Chip.count_of_displaySide {c d : Chip} (h : d.displaySide = c.displaySide) : d.count = c.count := congrArg (fun p => p.2.1) h

theorem Chip.reg_of_displaySide {c d : Chip} (h : d.displaySide = c.displaySide) {k : Nat} (hk : displayReg k = true) :
    d.reg k = c.reg k := by
  have hreg := congrFun (congrArg (fun p => p.2.2) h) k
  simpa only [Chip.displaySide, hk, if_true] using hreg

theorem ite_displaySide (p : Prop) [Decidable p] (a b : Chip) :
    (if p then a else b).displaySide = if p then a.displaySide else b.displaySide := apply_ite Chip.displaySide p a b

theorem forAll_displaySide {α : Type} {f : α → Chip → Chip} (h : ∀ a c, (f a c).displaySide = c.displaySide) (l : List α) (c : Chip) :
    (forAll l f c).displaySide = c.displaySide := forAll_same (p := Chip.displaySide) h l c

/-! ### Registers of other blocks, the Daybook, the repair list -/

theorem Chip.setReg_displaySide (c : Chip) {k : Nat} (w : Word) (hk : displayReg k = false) :
    (c.setReg k w).displaySide = c.displaySide := by
  unfold Chip.displaySide
  refine Prod.ext rfl (Prod.ext rfl (funext fun j => ?_))
  dsimp only
  split
  next hj => exact Chip.reg_setReg_other c w (fun h => by rw [h, hk] at hj; cases hj)
  next => rfl

theorem Chip.setF_displaySide (c : Chip) {x : Fld} (v : Nat) (hk : displayReg x.key = false) :
    (c.setF x v).displaySide = c.displaySide := c.setReg_displaySide _ hk

theorem Chip.flag_displaySide (c : Chip) {x : Fld} (hk : displayReg x.key = false) : (c.flag x).displaySide = c.displaySide :=
  c.setReg_displaySide _ hk

theorem Chip.countF_displaySide (c : Chip) {x : Fld} (hk : displayReg x.key = false) : (c.countF x).displaySide = c.displaySide :=
  c.setReg_displaySide _ hk

theorem Chip.setRegBit_displaySide (c : Chip) {k : Nat} (n : Nat) (b : Bool) (hk : displayReg k = false) :
    (c.setRegBit k n b).displaySide = c.displaySide := c.setReg_displaySide _ hk

theorem Chip.journal_displaySide (c : Chip) (cls kind o fl item data : Nat) :
    (c.journal cls kind o fl item data).displaySide = c.displaySide :=
  c.journal_keeps Chip.displaySide (fun _ _ => rfl) (fun c => c.flag_displaySide rfl) cls kind o fl item data

theorem Chip.poisonRecord_displaySide (c : Chip) (origin addr : Nat) : (c.poisonRecord origin addr).displaySide = c.displaySide :=
  c.journal_displaySide ..

theorem Chip.repairAdd_displaySide (c : Chip) (kind id off : Nat) : (c.repairAdd kind id off).displaySide = c.displaySide :=
  c.repairAdd_keeps Chip.displaySide (fun _ _ => rfl) kind id off

/-! ### Memory and its integrity (R162 to R189, R474) -/

theorem Chip.setBytes_displaySide (bs : List Byte) (c : Chip) (pa : Nat) : (c.setBytes pa bs).displaySide = c.displaySide := by
  induction bs generalizing c pa with
  | nil => rfl
  | cons b t ih => exact ih (c.setByte pa b) _

theorem Chip.putBytes_displaySide (c : Chip) (l : List (Nat × Byte)) : (c.putBytes l).displaySide = c.displaySide :=
  forAll_displaySide (f := fun (p : Nat × Byte) c => c.setByte p.1 p.2) (fun _ _ => rfl) l c

theorem Chip.dltAlloc_displaySide (c : Chip) (a off k : Nat) : (c.dltAlloc a off k).displaySide = c.displaySide := by
  unfold Chip.dltAlloc
  split
  · exact c.flag_displaySide rfl
  · simp (disch := decide) only [Chip.repairAdd_displaySide, Chip.journal_displaySide, Chip.flag_displaySide]
    rfl

theorem Chip.verify_displaySide (c : Chip) (r : Region) (k : Nat) : (c.verify r k).displaySide = c.displaySide := by
  simp only [Chip.verify, ite_displaySide, Chip.dltAlloc_displaySide, ite_self]

theorem Chip.correctedSram_displaySide (c : Chip) (a pa : Nat) (spec scrub : Bool) :
    (c.correctedSram a pa spec scrub).displaySide = c.displaySide := by
  simp (disch := decide) only [Chip.correctedSram, Chip.journal_displaySide, Chip.flag_displaySide, Chip.setF_displaySide,
    Chip.countF_displaySide]

theorem Chip.retirePage_displaySide (c : Chip) (page : Nat) : (c.retirePage page).displaySide = c.displaySide := by
  unfold Chip.retirePage
  split
  · rfl
  · split
    · exact c.flag_displaySide rfl
    · simp (disch := decide) only [Chip.flag_displaySide, Chip.setF_displaySide]
      rfl

theorem Chip.countPage_displaySide (c : Chip) (pa : Nat) : (c.countPage pa).displaySide = c.displaySide := by
  simp only [Chip.countPage, ite_displaySide, Chip.retirePage_displaySide, ite_self]
  rfl

theorem Chip.corrected_displaySide (c : Chip) (r : Region) (pa : Nat) (spec scrub : Bool) :
    (c.corrected r pa spec scrub).displaySide = c.displaySide := by
  unfold Chip.corrected
  split
  · simp (disch := decide) only [Chip.correctedDram, Chip.countPage_displaySide, Chip.journal_displaySide, Chip.flag_displaySide,
      Chip.setF_displaySide, Chip.countF_displaySide]
  · exact c.correctedSram_displaySide ..

theorem Chip.firstUse_displaySide (c : Chip) (r : Region) (k : Nat) : (c.firstUse r k).displaySide = c.displaySide := by
  have hdata (d v : Nat) : ((({ c with free := v } : Chip).setBytes k (leBytes (eccWidth r) d)).setValid k).displaySide = c.displaySide :=
    Chip.setBytes_displaySide ..
  unfold Chip.firstUse
  split
  · rfl
  · dsimp only [Chip.freeBits]
    repeat' split
    all_goals exact hdata _ _

theorem Chip.checkWord_displaySide (c : Chip) (r : Region) (k : Nat) (spec scrub : Bool) :
    (c.checkWord r k spec scrub).displaySide = c.displaySide := by
  rw [← c.firstUse_displaySide r k]
  unfold Chip.checkWord
  dsimp only
  generalize c.firstUse r k = d
  split
  · rfl
  · split
    · rfl
    next m ce _ =>
      have hfix : (if d.flipAt k = ⟨0, 0⟩ then d else (d.setFlip k ⟨0, 0⟩).xorWord k (eccWidth r) m).displaySide = d.displaySide := by
        split
        · rfl
        · exact Chip.setBytes_displaySide ..
      have hrecord (b : Bool) (e : Chip) :
          (if b then (e.corrected r k spec scrub).verify r k else e).displaySide = e.displaySide := by
        simp only [ite_displaySide, Chip.verify_displaySide, Chip.corrected_displaySide, ite_self]
      exact (hrecord _ _).trans hfix

theorem Chip.checkLine_displaySide (c : Chip) (a : Nat) (l : DirtyLine) (pa : Nat) (spec scrub : Bool) :
    (c.checkLine a l pa spec scrub).displaySide = c.displaySide := by
  unfold Chip.checkLine
  dsimp only
  split
  · rfl
  · split
    · rfl
    · simp only [ite_displaySide, Chip.correctedSram_displaySide, Chip.xorWord, Chip.setBytes_displaySide, ite_self]
      exact ite_self _

theorem Chip.eccCheck_displaySide (c : Chip) (r : Region) (pa : Nat) (spec scrub : Bool) :
    (c.eccCheck r pa spec scrub).displaySide = c.displaySide := by
  unfold Chip.eccCheck
  split
  · exact c.checkLine_displaySide ..
  · exact c.checkWord_displaySide ..

theorem Chip.eccRange_displaySide (c : Chip) (r : Region) (n pa : Nat) : (c.eccRange r n pa).displaySide = c.displaySide :=
  forAll_displaySide (fun i c => by simp only [ite_displaySide, Chip.eccCheck_displaySide, ite_self]) _ c

theorem Chip.plant_displaySide (c : Chip) (r : Region) (k : Nat) : (c.plant r k).displaySide = c.displaySide := by
  unfold Chip.plant
  split <;> split
  case isFalse => rfl
  case isFalse => rfl
  all_goals exact Chip.setF_displaySide _ _ rfl

theorem Chip.freshWord_displaySide (c : Chip) (r : Region) (k : Nat) : (c.freshWord r k).displaySide = c.displaySide := by
  simp only [Chip.freshWord, ite_displaySide, Chip.verify_displaySide]
  repeat' split
  all_goals rfl

theorem Chip.storeWord_displaySide (c : Chip) (r : Region) (k : Nat) (l : List (Nat × Byte)) :
    (c.storeWord r k l).displaySide = c.displaySide := by
  have hplaced (d : Chip) : ((d.putBytes l).plant r k).displaySide = d.displaySide :=
    (Chip.plant_displaySide _ _ _).trans (d.putBytes_displaySide l)
  refine (hplaced _).trans ?_
  simp only [ite_displaySide, Chip.freshWord_displaySide, Chip.checkWord_displaySide, ite_self]

theorem Chip.storeLine_displaySide (c : Chip) (l : DirtyLine) (k : Nat) (bs : List (Nat × Byte)) :
    (c.storeLine l k bs).displaySide = c.displaySide := by
  have hplaced (d : Chip) (x : Option DirtyLine) (v : Nat) :
      (((d.setDirty k x).putBytes bs).setF MEM_FLIP_CTL_ARM v).displaySide = d.displaySide :=
    (Chip.setF_displaySide _ _ rfl).trans (Chip.putBytes_displaySide _ _)
  refine (hplaced _ _ _).trans ?_
  simp only [ite_displaySide, Chip.checkLine_displaySide, ite_self]

theorem Chip.storeChunks_displaySide (r : Region) (n : Nat) (c : Chip) (pa : Nat) (bs : List Byte) :
    (c.storeChunks r n pa bs).displaySide = c.displaySide := by
  have hin (c : Chip) (pa : Nat) (l : List (Nat × Byte)) : (c.storeIn r pa l).displaySide = c.displaySide := by
    unfold Chip.storeIn
    split
    · exact c.storeLine_displaySide ..
    · exact c.storeWord_displaySide ..
  induction n generalizing c pa bs with
  | zero => rfl
  | succ n ih =>
    cases bs with
    | nil => rfl
    | cons b t => exact (ih _ _ _).trans (hin c pa _)

theorem Chip.memStore_displaySide (c : Chip) (r : Region) (pa : Nat) (bs : List Byte) :
    (c.memStore r pa bs).displaySide = c.displaySide := by
  unfold Chip.memStore
  split
  · simp (disch := decide) only [ite_displaySide, Chip.setRegBit_displaySide]
    repeat' split
    · rfl
    all_goals exact Chip.storeChunks_displaySide ..
  · exact Chip.storeChunks_displaySide ..

/-! ### Reads by the display units -/

/-- The chip that a read leaves, under the name that a match gave it. -/
theorem displaySide_of_eq {α : Type} {p : α × Chip} {a : α} {c d : Chip} (h : p = (a, d)) (hp : p.2.displaySide = c.displaySide) :
    d.displaySide = c.displaySide := by
  rw [← hp, h]

theorem foldl_snd_displaySide {α β : Type} {f : β × Chip → α → β × Chip} (h : ∀ b a, (f b a).2.displaySide = b.2.displaySide)
    (l : List α) (b : β × Chip) : (l.foldl f b).2.displaySide = b.2.displaySide :=
  List.foldlRecOn l f (motive := fun d => d.2.displaySide = b.2.displaySide) rfl fun _ hd _ _ => (h _ _).trans hd

theorem rdBytes_displaySide (n pa : Nat) (c : Chip) : (rdBytes n pa c).2.displaySide = c.displaySide := by
  simp only [rdBytes]
  split
  case h_5 => rfl
  all_goals exact Chip.eccRange_displaySide ..

theorem sceneWord_displaySide (o off : Nat) (c : Chip) : (sceneWord o off c).2.displaySide = c.displaySide := by
  simp only [sceneWord, ite_snd, ite_displaySide, rdBytes_displaySide, ite_self]

theorem descWords_displaySide (o off n : Nat) (c : Chip) : (descWords o off n c).2.displaySide = c.displaySide := by
  induction n generalizing off c with
  | zero => rfl
  | succ n ih => simp only [descWords, ih, sceneWord_displaySide]

theorem rdNotice_displaySide (n pa : Nat) (c : Chip) : (rdNotice n pa c).2.displaySide = c.displaySide := Chip.eccRange_displaySide ..

theorem readRegions_displaySide (o : Nat) (c : Chip) : (readRegions o c).2.displaySide = c.displaySide := by
  refine foldl_snd_displaySide (fun a r => ?_) _ _
  simp only [readRegion, rdNotice_displaySide]

theorem overlayPx_displaySide (o : Nat) (gs : List NoticeRegion) (x y v : Nat) (c : Chip) :
    (overlayPx o gs x y v c).2.displaySide = c.displaySide := by
  unfold overlayPx
  repeat' split
  all_goals simp only [ite_snd, ite_self, rdNotice_displaySide]

/-! ### The Franking Unit, the twin, the timers -/

theorem Chip.zowSend_displaySide (c : Chip) (stream : Nat) : (c.zowSend stream).displaySide = c.displaySide := by
  unfold Chip.zowSend
  split <;> rfl

theorem recordEntry_displaySide (e : JEntry) (c : Chip) : (recordEntry e c).displaySide = c.displaySide := by
  unfold recordEntry
  dsimp only
  split
  · exact Chip.zowSend_displaySide ..
  · rfl

theorem driveOutput_displaySide (m : Nat) (d : Int) (c : Chip) : (driveOutput m d c).displaySide = c.displaySide := by
  unfold driveOutput
  dsimp only
  repeat' split
  · rfl
  · exact recordEntry_displaySide ..
  · rfl

theorem commitEvent_displaySide (e : FuEv) (c : Chip) : (commitEvent e c).displaySide = c.displaySide := by
  unfold commitEvent
  split
  all_goals exact (forAll_displaySide (fun (p : Nat × Int) c => driveOutput_displaySide p.1 p.2 c) _ _).trans (recordEntry_displaySide ..)

theorem fuEvent_displaySide (source cause arg : Nat) (changes : List (Nat × Int)) (data : Nat) (c : Chip) :
    (fuEvent source cause arg changes data c).displaySide = c.displaySide := by
  unfold fuEvent fuEventOf
  repeat' split
  · exact Chip.zowSend_displaySide ..
  · rfl
  · exact commitEvent_displaySide ..

theorem fuDo_displaySide {f : Chip → Chip} {c : Chip} (h : (f c).displaySide = c.displaySide) :
    (fuDo f c).displaySide = c.displaySide := by
  simp (disch := decide) only [fuDo, ite_displaySide, Chip.flag_displaySide, h, ite_self]

theorem noticeFault_displaySide (o hit : Nat) (c : Chip) : (noticeFault o hit c).displaySide = c.displaySide := by
  refine fuDo_displaySide ?_
  dsimp only
  split
  · exact fuEvent_displaySide ..
  · rfl

/-- The Notice registers of an output lie in the Franking Unit's own block. -/
theorem displayReg_noticeCtl (o : Nat) : displayReg (FU_NOTICE_CTL o) = false := by
  rw [Bool.eq_false_iff, displayReg, Ne, Bool.or_eq_true, within_iff, beq_iff_eq, FU_NOTICE_CTL, DRAMC_TOP]
  omega

theorem noticeLate_displaySide (o hit : Nat) (c : Chip) : (noticeLate o hit c).displaySide = c.displaySide :=
  (noticeFault_displaySide ..).trans (c.flag_displaySide (displayReg_noticeCtl o))

theorem noticeFlag_displaySide (o : Nat) (c : Chip) : (c.flag (FU_NOTICE_CTL_MISMATCH o)).displaySide = c.displaySide :=
  c.flag_displaySide (displayReg_noticeCtl o)

theorem Chip.modFu_displaySide (c : Chip) (f : Franking → Franking) : (c.modFu f).displaySide = c.displaySide := rfl

theorem noticeCheck_displaySide (o : Nat) (c : Chip) : (noticeCheck o c).displaySide = c.displaySide := by
  simp (disch := decide) only [noticeCheck, ite_displaySide, noticeFault_displaySide, noticeFlag_displaySide, noticeLate_displaySide,
    Chip.modFu_displaySide, Chip.setRegBit_displaySide, readRegions_displaySide, ite_self]

theorem captureInput_displaySide (k sel : Nat) (c : Chip) : (captureInput k sel c).displaySide = c.displaySide := by
  unfold captureInput
  split <;> rfl

theorem handOff_displaySide (c : Chip) : (handOff c).displaySide = c.displaySide := by
  have hshadow (d : Chip) : (giveShadows d).displaySide = d.displaySide :=
    forAll_displaySide (f := fun i c => c.modPulse i fun x => { x with counted := 0, shadow := x.shadow + x.counted }) (fun _ _ => rfl) _ d
  unfold handOff
  simp (disch := decide) only [Chip.setRegBit_displaySide, Chip.setF_displaySide, hshadow]
  rfl

theorem compareSeal_displaySide (o frame crc other : Nat) (c : Chip) : (compareSeal o frame crc other c).displaySide = c.displaySide := by
  have hmissed : ((((c.countF ZOW_SEAL_MISS_COUNT).setF ZOW_SEAL_MISS_OUT o).setReg ZOW_SEAL_LAST (Word.of frame)).setRegBit
      ZOW_EVT 7 true).displaySide = c.displaySide := by
    simp (disch := decide) only [Chip.setRegBit_displaySide, Chip.setReg_displaySide, Chip.setF_displaySide, Chip.countF_displaySide]
  unfold compareSeal
  split
  · rfl
  · exact hmissed

theorem ownSeal_displaySide (o frame crc : Nat) (c : Chip) : (ownSeal o frame crc c).displaySide = c.displaySide := by
  unfold ownSeal
  split
  · rfl
  · dsimp only
    split
    · exact (compareSeal_displaySide ..).trans (c.zowSend_displaySide 4)
    · exact c.zowSend_displaySide 4

end Sys2Proof.Machine
end

section
/-! SUPPORT. What the side effects of the display's commands leave of an output: its registers, its beam and its output stage, but for the
age of COMP_XSTAT, and what they leave of memory. -/

namespace Sys2Proof.Machine

/-! ### Reads of the display's tables after a write -/

theorem Chip.out_setOut (c : Chip) (o h : Nat) (x : Output) : (c.setOut h x).out o = if o = h then x else c.out o := sget_sset ..

@[simp] theorem Chip.out_modOut_same (c : Chip) (o : Nat) (f : Output → Output) : (c.modOut o f).out o = f (c.out o) := sget_sset_same ..

theorem Chip.out_modOut_other (c : Chip) {o h : Nat} (f : Output → Output) (hne : o ≠ h) : (c.modOut h f).out o = c.out o :=
  sget_sset_other _ _ hne

@[simp] theorem Chip.grp_modGrp_same (c : Chip) (g : Nat) (f : Group → Group) : (c.modGrp g f).grp g = f (c.grp g) := sget_sset_same ..

theorem Chip.grp_modGrp_other (c : Chip) {g j : Nat} (f : Group → Group) (hne : j ≠ g) : (c.modGrp g f).grp j = c.grp j :=
  sget_sset_other _ _ hne

@[simp] theorem Chip.comp_modComp_same (c : Chip) (s : Nat) (f : Composer → Composer) : (c.modComp s f).comp s = f (c.comp s) :=
  sget_sset_same ..

theorem Chip.regBit_setRegBit_same (c : Chip) (k : Nat) {n : Nat} (b : Bool) (hn : n < 32) : (c.setRegBit k n b).regBit k n = b := by
  unfold Chip.setRegBit Chip.regBit
  rw [Chip.reg_setReg_same, Word.bit_setBit_same _ _ hn]

theorem Chip.regBit_setRegBit_other (c : Chip) {k j n i : Nat} (b : Bool) (hn : n < 32) (h : j ≠ k ∨ i ≠ n) :
    (c.setRegBit k n b).regBit j i = c.regBit j i := by
  unfold Chip.setRegBit Chip.regBit
  obtain rfl | hk := eq_or_ne j k
  · rw [Chip.reg_setReg_same, Word.bit_setBit_other _ _ hn (h.resolve_left (absurd rfl))]
  · rw [Chip.reg_setReg_other _ _ hk]

/-- A one-bit field is a bit of its register. -/
theorem Chip.fb_eq_regBit (c : Chip) (k n : Nat) : c.fb ⟨k, n, n⟩ = c.regBit k n := by
  have hbit : (c.reg k).bits n n = ((c.reg k).toNat.testBit n).toNat := by
    rw [Nat.toNat_testBit, Word.bits, Nat.add_sub_cancel_left, Nat.shiftRight_eq_div_pow, pow_one]
  unfold Chip.fb Chip.f Chip.regBit Word.bit
  rw [hbit]
  cases (c.reg k).toNat.testBit n <;> rfl

/-! ### The output side -/

/-- The registers of output `o` that its own commands write, with those of its scene. -/
def ownRegs (o : Nat) : List Nat :=
  [OUT_CTL o, OUT_SCENE o, OUT_EVT o, OUT_LINE_MATCH o, OUT_FRAME_COUNT o, OUT_SEAL o, OUT_SEAL_FRAME o, COMP_SCENE_NEXT o, COMP_SCENE_CUR o]

/-- The registers that no side effect of a command for another output writes: those of output `o`, and those that tell which sorters are
retired and what is DRAM. -/
def steadyRegs (o : Nat) : List Nat := ownRegs o ++ [COMP_RETIRE_LO, COMP_RETIRE_HI, DRAMC_TOP]

/-- The registers that the side effects for output `h` write. -/
def incidentalRegs (h : Nat) : List Nat :=
  [COMP_REVT, COMP_XSTAT h, COMP_EVT h, COMP_GSTAT h, COMP_OVF_LINE h, COMP_NOTICE_A h, COMP_NOTICE_B h, OUT_BGCOLOR h, OUT_FRAME_STAT h,
    OUT_LINK h]

/-- The right half of a pair may be number 4: what a state holds is not limited to the outputs that exist. -/
theorem incidental_apart : ∀ o < 4, ∀ h < 5, ∀ k ∈ incidentalRegs h, k ∉ steadyRegs o := by decide

theorem own_apart : ∀ o < 4, ∀ h < 5, h ≠ o → ∀ k ∈ ownRegs h, k ∉ steadyRegs o := by decide

/-- What side effects leave of output `o`, with the master count. -/
def Chip.outputSide (o : Nat) (c : Chip) : Output × DWord × List Word :=
  ({ c.out o with xstatAge := 0 }, c.count, (steadyRegs o).map c.reg)

theorem outputSide_eq {o : Nat} {c d : Chip} (hx : ({ d.out o with xstatAge := 0 } : Output) = { c.out o with xstatAge := 0 })
    (hn : d.count = c.count) (hr : ∀ k ∈ steadyRegs o, d.reg k = c.reg k) : d.outputSide o = c.outputSide o :=
  Prod.ext hx (Prod.ext hn (List.map_congr_left hr))

theorem Chip.reg_of_outputSide {o : Nat} {c d : Chip} (h : d.outputSide o = c.outputSide o) {k : Nat} (hk : k ∈ steadyRegs o) :
    d.reg k = c.reg k :=
  List.map_inj_left.mp (congrArg (fun p => p.2.2) h) k hk

theorem ite_outputSide (o : Nat) (p : Prop) [Decidable p] (a b : Chip) :
    (if p then a else b).outputSide o = if p then a.outputSide o else b.outputSide o := apply_ite (Chip.outputSide o) p a b

section
variable {o : Nat} (ho : o < 4)
include ho

theorem outputSide_of_displaySide {c d : Chip} (h : d.displaySide = c.displaySide) : d.outputSide o = c.outputSide o := by
  have hshown : ∀ o < 4, ∀ k ∈ steadyRegs o, displayReg k = true := by decide
  have hout : d.out o = c.out o := congrArg (fun x : Display => sget output0 x.outs o) (Chip.disp_of_displaySide h)
  exact outputSide_eq (by rw [hout]) (Chip.count_of_displaySide h) fun k hk => Chip.reg_of_displaySide h (hshown o ho k hk)

theorem Chip.setReg_outputSide (c : Chip) {h k : Nat} (w : Word) (hh : h < 5) (hk : k ∈ incidentalRegs h) :
    (c.setReg k w).outputSide o = c.outputSide o :=
  outputSide_eq rfl rfl fun _ hj => Chip.reg_setReg_other c w fun e => incidental_apart o ho h hh k hk (e ▸ hj)

theorem revt_outputSide (g n : Nat) (c : Chip) : (c.revt g n).outputSide o = c.outputSide o :=
  c.setReg_outputSide ho (h := 0) _ (by decide) (by simp [incidentalRegs])

theorem xstat_outputSide {g : Nat} (hg : g < 5) (line half s : Nat) (dropped : Bool) (c : Chip) :
    (xstat g line half s dropped c).outputSide o = c.outputSide o := by
  have haged (d : Chip) : (d.modOut g fun x => { x with xstatAge := 0 }).outputSide o = d.outputSide o := by
    refine outputSide_eq ?_ rfl fun _ _ => rfl
    unfold Chip.modOut
    rw [Chip.out_setOut]
    split
    next h => rw [h]
    next => rfl
  refine (revt_outputSide ho ..).trans ((haged _).trans (c.setReg_outputSide ho _ hg ?_))
  simp [incidentalRegs]

end

/-! ### Sorters and their units (R249 to R283) -/

theorem groupOf_lt {c : Chip} {s g : Nat} (h : c.groupOf s = some g) : g < 4 := List.mem_range.mp (List.mem_of_find?_eq_some h)

/-- What `p` reads is none of what the end of a unit changes: the composers, what a group counts as closed, COMP_XSTAT and its record in
COMP_REVT. -/
structure UnitBlind {α : Type} (p : Chip → α) : Prop where
  comp : ∀ (c : Chip) s f, p (c.modComp s f) = p c
  close : ∀ (c : Chip) g u, p (closeUnit g u c) = p c
  xstat : ∀ (c : Chip) {g} line half s dropped, g < 5 → p (xstat g line half s dropped c) = p c

theorem unitBlind_outputSide {o : Nat} (ho : o < 4) : UnitBlind (Chip.outputSide o) :=
  ⟨fun _ _ _ => rfl, fun _ _ _ => rfl, fun _ _ _ _ _ _ hg => xstat_outputSide ho hg ..⟩

/-- Memory, and which groups have no line-timed write to perform. -/
def Chip.unwritten (c : Chip) : Sparse Byte × (Nat → Bool) := (c.mem, fun g => (c.grp g).log.isEmpty)

theorem unitBlind_unwritten : UnitBlind Chip.unwritten := by
  refine ⟨fun _ _ _ => rfl, fun c g u => Prod.ext rfl (funext fun j => ?closed), fun c g line half s dropped _ => ?recorded⟩
  case closed =>
    unfold closeUnit Chip.unwritten
    obtain rfl | hne := eq_or_ne j g
    · simp only [Chip.grp_modGrp_same, List.isEmpty_map]
    · simp only [Chip.grp_modGrp_other _ _ hne]
  case recorded =>
    have hset (d : Chip) (k : Nat) (w : Word) : (d.setReg k w).unwritten = d.unwritten := rfl
    have haged (d : Chip) (f : Output → Output) : ((d.modOut g f).revt g 3).unwritten = d.unwritten := rfl
    exact (haged _ _).trans (hset _ _ _)

namespace UnitBlind
variable {α : Type} {p : Chip → α} (hp : UnitBlind p)
include hp

theorem abandonUnit (s : Nat) (c : Chip) : p (abandonUnit s c) = p c := by
  unfold Machine.abandonUnit
  split
  next g _ hg =>
    split
    · rfl
    · exact (hp.xstat _ _ _ _ _ ((groupOf_lt hg).trans (by decide))).trans ((hp.comp _ _ _).trans (hp.close _ _ _))
  next => rfl

theorem abandonHeld (s : Nat) (c : Chip) : p (abandonHeld s c) = p c := by
  unfold Machine.abandonHeld
  split
  · split
    · rfl
    · exact hp.abandonUnit s c
  · rfl

theorem dropUnit {g : Nat} (hg : g < 5) (u s : Nat) (c : Chip) : p (dropUnit g u s c) = p c :=
  (hp.xstat _ _ _ _ _ hg).trans (hp.close _ _ _)

theorem dropOffered (s : Nat) (c : Chip) : p (dropOffered s c) = p c := by
  unfold Machine.dropOffered
  split
  next g _ hg => exact (hp.dropUnit ((groupOf_lt hg).trans (by decide)) _ _ _).trans (hp.comp _ _ _)
  next => rfl

theorem endUnits (o : Nat) (c : Chip) : p (endUnits o c) = p c :=
  forAll_same (fun s d => (hp.comp _ _ _).trans (hp.abandonHeld s d)) _ c

theorem dropAtLine {o : Nat} (ho : o < 5) (i : Nat) (c : Chip) : p (dropAtLine o i c) = p c := by
  unfold Machine.dropAtLine
  extract_lets g u
  have hg : g < 5 := lt_of_le_of_lt (by unfold g; split <;> omega) ho
  split
  · rfl
  · split
    · exact (hp.comp _ _ _).trans (hp.dropUnit hg _ _ _)
    · rfl

theorem missLine {o : Nat} (ho : o < 5) (i : Nat) (c : Chip) : p (missLine o i c) = p c := by
  unfold Machine.missLine
  split
  · exact hp.abandonHeld _ c
  · split
    · exact hp.dropOffered _ c
    · exact hp.dropAtLine ho i c

end UnitBlind

/-! ### Ports (R306 to R311) -/

/-- What `p` reads is neither a port nor OUT_LINK. -/
structure PortBlind {α : Type} (p : Chip → α) : Prop where
  port : ∀ (c : Chip) d x, p (c.setPort d x) = p c
  link : ∀ (c : Chip) {d} w, d < 4 → p (c.setReg (OUT_LINK d) w) = p c

theorem portBlind_outputSide {o : Nat} (ho : o < 4) : PortBlind (Chip.outputSide o) :=
  ⟨fun _ _ _ => rfl, fun c d w hd => c.setReg_outputSide ho (h := d) w (hd.trans (by decide)) (by simp [incidentalRegs])⟩

theorem portBlind_unwritten : PortBlind Chip.unwritten := ⟨fun _ _ _ => rfl, fun _ _ _ _ => rfl⟩

theorem PortBlind.portBlank {α : Type} {p : Chip → α} (hp : PortBlind p) (o : Nat) (c : Chip) : p (portBlank o c) = p c := by
  have hturn {d : Nat} (hd : d < 4) (s : Nat) (e : Bool) (c : Chip) : p (turnPort d s e c) = p c := by
    unfold turnPort
    extract_lets q up c1
    have hc1 : p c1 = p c := (hp.link _ _ hd).trans (hp.port c _ _)
    split
    · exact (hp.port _ _ _).trans hc1
    · exact hc1
  refine forAll_same_of_mem (fun d hd c => ?_) c
  dsimp only
  split
  · split
    · exact hturn (List.mem_range.mp hd) _ _ c
    · rfl
  · rfl

/-! ### Line-timed writes (R270, R301) -/

theorem firstWrite_mem {l : List LineWrite} {w : LineWrite} (h : firstWrite l = some w) : w ∈ l := by
  induction l generalizing w with
  | nil => cases h
  | cons v t ih =>
    unfold firstWrite at h
    split at h
    · cases h
      exact List.mem_cons_self
    next hx =>
      split at h
      · cases h
        exact List.mem_cons_of_mem _ (ih hx)
      · cases h
        exact List.mem_cons_self

theorem performWrite_outputSide {o : Nat} (ho : o < 4) {w : LineWrite} (hw : w.out < 5) (c : Chip) :
    (performWrite w c).outputSide o = c.outputSide o := by
  unfold performWrite
  dsimp only
  split
  · exact (outputSide_of_displaySide ho (Chip.memStore_displaySide ..)).trans rfl
  · exact Chip.setReg_outputSide ho _ (h := w.out) _ hw (by simp [incidentalRegs])

theorem performDue_outputSide {o h : Nat} (ho : o < 4) (hh : h < 5) (due : LineWrite → Bool) (n : Nat) (c : Chip) :
    (performDue h due n c).outputSide o = c.outputSide o := by
  induction n generalizing c with
  | zero => rfl
  | succ n ih =>
    unfold performDue
    split
    next w hw =>
      have hout : w.out = h := by
        have hdue := List.of_mem_filter (firstWrite_mem hw)
        simp only [Bool.and_eq_true, beq_iff_eq] at hdue
        exact hdue.1.1
      exact (ih _).trans (performWrite_outputSide ho (hout ▸ hh) c)
    next => rfl

/-- Where no write waits, none is performed. -/
theorem performDue_unwritten (h : Nat) (due : LineWrite → Bool) (n : Nat) {c : Chip} (hl : ∀ g, (c.grp g).log = []) :
    performDue h due n c = c := by
  cases n with
  | zero => rfl
  | succ n =>
    unfold performDue
    rw [hl]
    rfl

end Sys2Proof.Machine
end

section
/-! SUPPORT. What a command for an output, or for the other half of its pair, may do to it beside: events are added, nothing else changes. -/

namespace Sys2Proof.Machine

/-- From `c` to `d` output `o` has kept all that side effects keep; events may have been added. -/
structure Chip.Steady (o : Nat) (c d : Chip) : Prop where
  out : ({ d.out o with xstatAge := 0 } : Output) = { c.out o with xstatAge := 0 }
  count : d.count = c.count
  reg : ∀ k ∈ steadyRegs o, k ≠ OUT_EVT o → d.reg k = c.reg k
  evt : ∀ n, c.regBit (OUT_EVT o) n = true → d.regBit (OUT_EVT o) n = true

theorem evt_mem_own (o : Nat) : OUT_EVT o ∈ ownRegs o := by simp [ownRegs]

namespace Chip.Steady
variable {o : Nat} {c d e : Chip}

theorem refl (o : Nat) (c : Chip) : c.Steady o c := ⟨rfl, rfl, fun _ _ _ => rfl, fun _ h => h⟩

theorem trans (h : c.Steady o d) (h' : d.Steady o e) : c.Steady o e :=
  ⟨h'.out.trans h.out, h'.count.trans h.count, fun k hk hne => (h'.reg k hk hne).trans (h.reg k hk hne), fun n hn => h'.evt n (h.evt n hn)⟩

/-- What is read of the output, but the age of COMP_XSTAT, reads as before. -/
theorem get (h : c.Steady o d) {β : Type} (q : Output → β) (hq : ∀ x : Output, q { x with xstatAge := 0 } = q x) :
    q (d.out o) = q (c.out o) :=
  (hq _).symm.trans ((congrArg q h.out).trans (hq _))

theorem of_eq (h : d.outputSide o = c.outputSide o) : c.Steady o d := by
  have hevt : d.reg (OUT_EVT o) = c.reg (OUT_EVT o) := Chip.reg_of_outputSide h (List.mem_append_left _ (evt_mem_own o))
  refine ⟨congrArg Prod.fst h, congrArg (fun p => p.2.1) h, fun k hk _ => Chip.reg_of_outputSide h hk, fun n hn => ?_⟩
  unfold Chip.regBit
  rwa [hevt]

theorem ite {p : Prop} [Decidable p] {a b : Chip} (ha : c.Steady o a) (hb : c.Steady o b) : c.Steady o (if p then a else b) := by
  split
  · exact ha
  · exact hb

theorem forAll {α : Type} {l : List α} {f : α → Chip → Chip} (h : ∀ a ∈ l, ∀ d : Chip, d.Steady o (f a d)) (c : Chip) :
    c.Steady o (Machine.forAll l f c) := by
  induction l generalizing c with
  | nil => exact refl o c
  | cons a t ih =>
    rw [List.forall_mem_cons] at h
    exact (h.1 c).trans (ih h.2 _)

/-- A register of another output. -/
theorem setReg_own (ho : o < 4) {h : Nat} (hh : h < 5) (hne : h ≠ o) {k : Nat} (hk : k ∈ ownRegs h) (c : Chip) (w : Word) :
    c.Steady o (c.setReg k w) :=
  of_eq (outputSide_eq rfl rfl fun _ hj => Chip.reg_setReg_other c w fun e => own_apart o ho h hh hne k hk (e ▸ hj))

/-- An event of this output or another. -/
theorem outEvt (ho : o < 4) {h n : Nat} (hh : h < 5) (hn : n < 32) (c : Chip) : c.Steady o (outEvt h n c) := by
  obtain rfl | hne := eq_or_ne h o
  · refine ⟨rfl, rfl, fun k _ hk => Chip.reg_setReg_other c _ hk, fun i hi => ?_⟩
    obtain rfl | hin := eq_or_ne i n
    · exact Chip.regBit_setRegBit_same c _ true hn
    · rwa [Machine.outEvt, Chip.regBit_setRegBit_other c true hn (.inr hin)]
  · exact setReg_own ho hh hne (evt_mem_own h) c _

end Chip.Steady

/-- An event that is set is read. -/
theorem regBit_outEvt (o : Nat) {n : Nat} (hn : n < 32) (c : Chip) : (outEvt o n c).regBit (OUT_EVT o) n = true :=
  Chip.regBit_setRegBit_same c _ true hn

/-! ### The halves of a pair (R304) -/

/-- An output comes first among those that it governs, and the other is the next. -/
theorem Chip.halves_eq (c : Chip) (o : Nat) : ∃ t, c.halves o = o :: t ∧ ∀ h ∈ t, h = o + 1 := by
  unfold Chip.halves
  split
  · exact ⟨[o + 1], rfl, fun _ => List.mem_singleton.mp⟩
  · exact ⟨[], rfl, fun _ hh => absurd hh List.not_mem_nil⟩

theorem Chip.halves_lt (c : Chip) {o h : Nat} (ho : o < 4) (hh : h ∈ c.halves o) : h < 5 := by
  obtain ⟨t, he, ht⟩ := c.halves_eq o
  rw [he] at hh
  rcases List.mem_cons.mp hh with rfl | hmem
  · omega
  · have := ht h hmem
    omega

/-- A change that each half makes of itself is, for the governing output, its own. -/
theorem out_forAll_halves (c d : Chip) (o : Nat) (f : Chip → Output → Output) :
    (forAll (d.halves o) (fun h e => e.modOut h (f e)) c).out o = f c (c.out o) := by
  have hother {t : List Nat} (ht : ∀ h ∈ t, h = o + 1) (e : Chip) : (forAll t (fun h e => e.modOut h (f e)) e).out o = e.out o :=
    forAll_same_of_mem (p := (Chip.out · o)) (fun h hh e => Chip.out_modOut_other e _ (by rw [ht h hh]; omega)) e
  obtain ⟨t, he, ht⟩ := d.halves_eq o
  rw [he]
  exact (hother ht _).trans (Chip.out_modOut_same c o _)

/-- What the halves' changes of themselves leave of the registers. -/
theorem reg_forAll_modOut (l : List Nat) (f : Chip → Output → Output) (c : Chip) (k : Nat) :
    (forAll l (fun h e => e.modOut h (f e)) c).reg k = c.reg k :=
  forAll_same (p := (Chip.reg · k)) (f := fun h e => e.modOut h (f e)) (fun _ _ => rfl) l c

end Sys2Proof.Machine
end

section
/-! O58: the line start (R285, R286, R289, R295, R296). -/

namespace Sys2Proof.Machine

/-- LINE_MATCH at the start of line `v`. -/
def lineMatch (h v : Nat) (c : Chip) : Chip := if v = c.f (OUT_LINE_MATCH_MATCH h) then outEvt h 2 c else c

/-- VBLANK_START, where line `v` is the first after the active ones of `x`. -/
def lineBlank (h v : Nat) (x : Output) (c : Chip) : Chip := if v = x.timing.vstart + x.lines then portBlank h (outEvt h 1 c) else c

/-- What the composition does at the start of line `v`: a frame not binned is late, writes are performed, a unit is dropped. -/
def lineUnits (h v : Nat) (x : Output) (c : Chip) : Chip :=
  let c := if v = x.timing.vstart && !x.binned then c.flag (COMP_EVT_BIN_LATE h) else c
  if within x.timing.vstart (x.timing.vstart + x.lines) v then
    dropAtLine h (v - x.timing.vstart) (performBefore h (x.lineOf (v - x.timing.vstart)) c)
  else if v = x.timing.vstart + x.lines then performDue h (fun _ => true) (c.grp (c.logGroup h)).log.length c
  else c

theorem lineEvents_eq (h v : Nat) (c : Chip) : lineEvents h v c = lineUnits h v (c.out h) (lineBlank h v (c.out h) (lineMatch h v c)) := rfl

section
variable {o h : Nat} (ho : o < 4) (hh : h < 5)
include ho hh

theorem lineMatch_steady (v : Nat) (c : Chip) : c.Steady o (lineMatch h v c) := .ite (.outEvt ho hh (by decide) c) (.refl o c)

theorem lineBlank_steady (v : Nat) (x : Output) (c : Chip) : c.Steady o (lineBlank h v x c) :=
  .ite ((Chip.Steady.outEvt ho hh (by decide) c).trans (.of_eq ((portBlind_outputSide ho).portBlank h _))) (.refl o c)

theorem lineUnits_steady (v : Nat) (x : Output) (c : Chip) : c.Steady o (lineUnits h v x c) := by
  have hlate (b : Bool) : (if b then c.flag (COMP_EVT_BIN_LATE h) else c).outputSide o = c.outputSide o := by
    split
    · exact c.setReg_outputSide ho _ hh (by simp [incidentalRegs, COMP_EVT_BIN_LATE])
    · rfl
  refine Chip.Steady.of_eq (Eq.trans ?_ (hlate (v = x.timing.vstart && !x.binned)))
  unfold lineUnits
  dsimp only
  generalize (if (decide (v = x.timing.vstart) && !x.binned) = true then c.flag (COMP_EVT_BIN_LATE h) else c) = d
  split
  · exact ((unitBlind_outputSide ho).dropAtLine hh _ _).trans (performDue_outputSide ho hh ..)
  · split
    · exact performDue_outputSide ho hh ..
    · rfl

theorem lineEvents_steady (v : Nat) (c : Chip) : c.Steady o (lineEvents h v c) := by
  rw [lineEvents_eq]
  exact ((lineMatch_steady ho hh v c).trans (lineBlank_steady ho hh v _ _)).trans (lineUnits_steady ho hh v _ _)

end

/-- The events of a line that comes to its output (R295). -/
theorem regBit_lineEvents {o : Nat} (ho : o < 4) (v : Nat) (c : Chip) :
    (c.f (OUT_LINE_MATCH_MATCH o) = v → (lineEvents o v c).regBit (OUT_EVT o) 2 = true)
    ∧ (v = (c.out o).timing.vstart + (c.out o).lines → (lineEvents o v c).regBit (OUT_EVT o) 1 = true) := by
  have hh : o < 5 := ho.trans (by decide)
  refine ⟨fun hmatch => ?_, fun hblank => ?_⟩
  · have hset : (lineMatch o v c).regBit (OUT_EVT o) 2 = true := by
      unfold lineMatch
      rw [if_pos hmatch.symm]
      exact regBit_outEvt o (by decide) c
    exact (lineUnits_steady ho hh v _ _).evt 2 ((lineBlank_steady ho hh v _ _).evt 2 hset)
  · have hset (d : Chip) : (lineBlank o v (c.out o) d).regBit (OUT_EVT o) 1 = true := by
      unfold lineBlank
      rw [if_pos hblank]
      exact (Chip.Steady.of_eq ((portBlind_outputSide ho).portBlank o _)).evt 1 (regBit_outEvt o (by decide) d)
    exact (lineUnits_steady ho hh v _ _).evt 1 (hset _)

theorem log_nil_of_unwritten {c d : Chip} (h : d.unwritten = c.unwritten) (hl : ∀ g, (c.grp g).log = []) (g : Nat) :
    (d.grp g).log = [] :=
  List.isEmpty_iff.mp ((congrFun (congrArg Prod.snd h) g).trans (List.isEmpty_iff.mpr (hl g)))

/-- A line without line-timed writes leaves memory alone. -/
theorem lineEvents_unwritten {h : Nat} (hh : h < 5) (v : Nat) {c : Chip} (hl : ∀ g, (c.grp g).log = []) :
    (lineEvents h v c).unwritten = c.unwritten := by
  have hregs (d : Chip) (k : Nat) (w : Word) : (d.setReg k w).unwritten = d.unwritten := rfl
  have hmatch : (lineMatch h v c).unwritten = c.unwritten := by
    unfold lineMatch
    split
    · exact hregs ..
    · rfl
  have hblank (x : Output) (d : Chip) : (lineBlank h v x d).unwritten = d.unwritten := by
    unfold lineBlank
    split
    · exact (portBlind_unwritten.portBlank h _).trans (hregs ..)
    · rfl
  have hunits (x : Output) {d : Chip} (hd : ∀ g, (d.grp g).log = []) : (lineUnits h v x d).unwritten = d.unwritten := by
    have hlate (b : Bool) : (if b then d.flag (COMP_EVT_BIN_LATE h) else d).unwritten = d.unwritten := by
      split
      · exact hregs ..
      · rfl
    refine Eq.trans ?_ (hlate (v = x.timing.vstart && !x.binned))
    have hnil := log_nil_of_unwritten (hlate (v = x.timing.vstart && !x.binned)) hd
    unfold lineUnits
    dsimp only
    generalize (if (decide (v = x.timing.vstart) && !x.binned) = true then d.flag (COMP_EVT_BIN_LATE h) else d) = e at hnil ⊢
    split
    · rw [performBefore, performDue_unwritten _ _ _ hnil]
      exact unitBlind_unwritten.dropAtLine hh _ _
    · split
      · rw [performDue_unwritten _ _ _ hnil]
      · rfl
  have hstart := (hblank (c.out h) _).trans hmatch
  exact (hunits _ (log_nil_of_unwritten hstart hl)).trans hstart

end Sys2Proof.Machine
end

section
/-! O58: the beam goes on to the next line (R285, R289). -/

namespace Sys2Proof.Machine

/-- Registers of different outputs' blocks are different registers. -/
theorem outCtl_ne {o h : Nat} (hne : o ≠ h) : OUT_CTL o ≠ OUT_CTL h := by
  unfold OUT_CTL
  omega

theorem outEvt_ne_outCtl (o h : Nat) : OUT_EVT o ≠ OUT_CTL h := by
  unfold OUT_EVT OUT_CTL
  omega

/-- The other half's control register is none of the governing output's. -/
theorem fb_setF_otherHalf {o : Nat} {t : List Nat} (ht : ∀ h ∈ t, h = o + 1) (v : Nat) (x : Fld) (hx : x.key = OUT_CTL o) (c : Chip) :
    (forAll t (fun h c => c.setF (OUT_CTL_RUNNING h) v) c).fb x = c.fb x :=
  forAll_same_of_mem (p := (Chip.fb · x))
    (fun h hh c => Chip.fb_congr (Chip.reg_setF_other c v (hx ▸ outCtl_ne (by rw [ht h hh]; omega)))) c

/-- At VBLANK_START an output that is no longer enabled stops (R289); nothing else of it changes. -/
theorem stopAtBlank_fields (o v : Nat) (c : Chip) :
    (stopAtBlank o v c).disp = c.disp ∧ (stopAtBlank o v c).mem = c.mem
    ∧ (stopAtBlank o v c).reg (OUT_EVT o) = c.reg (OUT_EVT o)
    ∧ (v = (c.out o).timing.vstart + (c.out o).lines → (stopAtBlank o v c).running o = (c.running o && c.fb (OUT_CTL_EN o))) := by
  unfold stopAtBlank
  dsimp only
  split
  next hstop =>
    rw [Bool.and_eq_true, Bool.not_eq_true'] at hstop
    refine ⟨forAll_same (p := Chip.disp) (fun _ _ => Chip.setF_disp ..) _ c, forAll_same (p := Chip.mem) (fun _ _ => Chip.setF_mem ..) _ c,
      forAll_same_of_mem (p := (Chip.reg · (OUT_EVT o)))
        (fun h _ c => Chip.reg_setF_other c 0 (outEvt_ne_outCtl o h)) c, fun _ => ?_⟩
    obtain ⟨t, he, ht⟩ := c.halves_eq o
    rw [he, hstop.2, Bool.and_false]
    exact (fb_setF_otherHalf ht 0 _ rfl _).trans (Chip.fb_setF_same c _ 0 le_rfl (show 31 < 32 by decide))
  next hgo =>
    refine ⟨rfl, rfl, rfl, fun hv => ?_⟩
    have hen : c.fb (OUT_CTL_EN o) = true := by simpa [hv] using hgo
    rw [hen, Bool.and_true]

/-- The beam starts line `v`. -/
def Output.atLine (v now : Nat) (x : Output) : Output := { x with v := v, halfLine := false, lineAt := now }

/-- The halves of output `o` start line `v`. -/
def beamAt (o v : Nat) (c : Chip) : Chip := forAll (c.halves o) (fun h c => c.modOut h (Output.atLine v c.now)) c

theorem out_beamAt (o v : Nat) (c : Chip) : (beamAt o v c).out o = (c.out o).atLine v c.now := out_forAll_halves c c o _

theorem reg_beamAt (o v : Nat) (c : Chip) (k : Nat) : (beamAt o v c).reg k = c.reg k := reg_forAll_modOut _ _ c k

theorem unwritten_beamAt (o v : Nat) (c : Chip) : (beamAt o v c).unwritten = c.unwritten :=
  forAll_same (p := Chip.unwritten) (f := fun h c => c.modOut h (Output.atLine v c.now)) (fun _ _ => rfl) _ c

/-- A line that is no frame start: the beam moves, the line's events follow, and the output may stop. -/
theorem nextLine_eq {o : Nat} {c : Chip} (h : (c.out o).halfLine = false) :
    nextLine o c = stopAtBlank o ((c.out o).v + 1)
      (forAll ((beamAt o ((c.out o).v + 1) c).halves o) (fun h => lineEvents h ((c.out o).v + 1)) (beamAt o ((c.out o).v + 1) c)) := by
  unfold nextLine
  rw [h]
  rfl

/-- The events of a line for every half: those of the governing output come first and stay. -/
theorem lineEvents_halves {o : Nat} (ho : o < 4) (v : Nat) (b c : Chip) :
    (lineEvents o v c).Steady o (forAll (b.halves o) (fun h => lineEvents h v) c)
    ∧ c.Steady o (forAll (b.halves o) (fun h => lineEvents h v) c) := by
  have hall (h : Nat) (hh : h ∈ b.halves o) : h < 5 := b.halves_lt ho hh
  obtain ⟨t, he, -⟩ := b.halves_eq o
  rw [he] at hall ⊢
  have hrest : (lineEvents o v c).Steady o (forAll t (fun h => lineEvents h v) (lineEvents o v c)) :=
    .forAll (fun h hh d => lineEvents_steady ho (hall h (List.mem_cons_of_mem _ hh)) v d) _
  exact ⟨hrest, (lineEvents_steady ho (ho.trans (by decide)) v c).trans hrest⟩

theorem unwritten_lineEvents_halves {o : Nat} (ho : o < 4) (v : Nat) (b : Chip) {c : Chip} (hl : ∀ g, (c.grp g).log = []) :
    (forAll (b.halves o) (fun h => lineEvents h v) c).unwritten = c.unwritten := by
  suffices hsuff : ∀ l : List Nat, (∀ h ∈ l, h < 5) → ∀ d : Chip, d.unwritten = c.unwritten →
      (forAll l (fun h => lineEvents h v) d).unwritten = c.unwritten from hsuff _ (fun h hh => b.halves_lt ho hh) c rfl
  intro l
  induction l with
  | nil => exact fun _ _ hd => hd
  | cons h t ih =>
    intro hall d hd
    rw [List.forall_mem_cons] at hall
    exact ih hall.2 _ ((lineEvents_unwritten hall.1 v (log_nil_of_unwritten hd hl)).trans hd)

/-- The start of a line that is no frame start. -/
theorem nextLine_fields {o : Nat} (ho : o < 4) {c : Chip} (h : (c.out o).halfLine = false) :
    let y := c.out o
    let d := nextLine o c
    (d.out o).v = y.v + 1 ∧ (d.out o).lineAt = c.now
    ∧ (c.f (OUT_LINE_MATCH_MATCH o) = y.v + 1 → d.regBit (OUT_EVT o) 2 = true)
    ∧ (y.v + 1 = y.timing.vstart + y.lines → d.regBit (OUT_EVT o) 1 = true ∧ d.running o = (c.running o && c.fb (OUT_CTL_EN o)))
    ∧ ((∀ g, (c.grp g).log = []) → d.mem = c.mem) := by
  dsimp only
  rw [nextLine_eq h]
  generalize hv : (c.out o).v + 1 = v
  have hb := out_beamAt o v c
  have hreg := reg_beamAt o v c
  have hquiet := unwritten_beamAt o v c
  generalize beamAt o v c = b at hb hreg hquiet
  obtain ⟨hown, hsteady⟩ := lineEvents_halves ho v b b
  have hunwritten := unwritten_lineEvents_halves (c := b) ho v b
  generalize forAll (b.halves o) (fun h => lineEvents h v) b = e at hown hsteady hunwritten
  obtain ⟨hdisp, hmem, hevt, hstop⟩ := stopAtBlank_fields o v e
  have hout : (stopAtBlank o v e).out o = e.out o := congrArg (fun x : Display => sget output0 x.outs o) hdisp
  have hbit (n : Nat) : (stopAtBlank o v e).regBit (OUT_EVT o) n = e.regBit (OUT_EVT o) n := congrArg (Word.bit · n) hevt
  have hctl : e.reg (OUT_CTL o) = c.reg (OUT_CTL o) :=
    (hsteady.reg _ (by simp [steadyRegs, ownRegs]) (outEvt_ne_outCtl o o).symm).trans (hreg _)
  obtain ⟨hmatch, hblank⟩ := regBit_lineEvents ho v b
  rw [hb] at hblank
  have hget {β : Type} (q : Output → β) (hq : ∀ x : Output, q { x with xstatAge := 0 } = q x) : q (e.out o) = q ((c.out o).atLine v c.now) := by
    rw [hsteady.get q hq, hb]
  refine ⟨?_, ?_, fun hm => ?_, fun hs => ⟨?_, ?_⟩, fun hl => ?_⟩
  · rw [hout]
    exact hget Output.v fun _ => rfl
  · rw [hout]
    exact hget Output.lineAt fun _ => rfl
  · rw [hbit]
    exact hown.evt 2 (hmatch ((Chip.f_congr (hreg _)).trans hm))
  · rw [hbit]
    exact hown.evt 1 (hblank hs)
  · have hend : v = (e.out o).timing.vstart + (e.out o).lines := by
      rw [hget (fun x => x.timing.vstart + x.lines) fun _ => rfl]
      exact hs
    rw [hstop hend, Chip.running, Chip.running, Chip.fb_congr (x := OUT_CTL_RUNNING o) hctl, Chip.fb_congr (x := OUT_CTL_EN o) hctl]
  · rw [hmem]
    exact congrArg Prod.fst ((hunwritten (log_nil_of_unwritten hquiet hl)).trans hquiet)

/-- LINE_START where no frame start is due. -/
theorem exec_lineStart {o : Fin 4} {s : State} (hb : s.chip.beamRuns o = true) (hf : s.chip.frameDue o = false) :
    exec (.lineStart o) s = .next (s.at (nextLine o s.chip)) := by
  have hx : exec (.lineStart o) s = execLineStart o s := rfl
  rw [hx, execLineStart, State.go_eq, if_pos hb, lineStart, hf]
  rfl

end Sys2Proof.Machine
end

section
/-! O58: what a frame start does to one output (R290 to R295, R303, R453). -/

namespace Sys2Proof.Machine

/-- From `c` to `d` the registers of output `o` are steady, whatever becomes of the output's own state. -/
structure Chip.RegsSteady (o : Nat) (c d : Chip) : Prop where
  reg : ∀ k ∈ steadyRegs o, k ≠ OUT_EVT o → d.reg k = c.reg k
  evt : ∀ n, c.regBit (OUT_EVT o) n = true → d.regBit (OUT_EVT o) n = true

theorem Chip.Steady.regs {o : Nat} {c d : Chip} (h : c.Steady o d) : c.RegsSteady o d := ⟨h.reg, h.evt⟩

theorem Chip.RegsSteady.trans {o : Nat} {c d e : Chip} (h : c.RegsSteady o d) (h' : d.RegsSteady o e) : c.RegsSteady o e :=
  ⟨fun k hk hne => (h'.reg k hk hne).trans (h.reg k hk hne), fun n hn => h'.evt n (h.evt n hn)⟩

theorem Chip.RegsSteady.of_regs {o : Nat} {c d : Chip} (h : d.regs = c.regs) : c.RegsSteady o d := by
  refine ⟨fun k _ _ => ?_, fun n hn => ?_⟩
  · unfold Chip.reg
    rw [h]
  · unfold Chip.regBit Chip.reg at hn ⊢
    rwa [h]

theorem Chip.Steady.modOut_other {o h : Nat} (hne : o ≠ h) (c : Chip) (f : Output → Output) : c.Steady o (c.modOut h f) :=
  .of_eq (outputSide_eq (by rw [Chip.out_modOut_other c f hne]) rfl fun _ _ => rfl)

theorem Chip.Steady.incidental {o h k : Nat} (ho : o < 4) (hh : h < 5) (hk : k ∈ incidentalRegs h) (c : Chip) (w : Word) :
    c.Steady o (c.setReg k w) := .of_eq (c.setReg_outputSide ho w hh hk)

/-! ### The parts of a frame start -/

/-- The frame is counted: writes left over are performed, OUT_FRAME_STAT tells of the last frame. -/
def frameStat (o h : Nat) (c : Chip) : Chip :=
  let x := c.out h
  let c := performDue h (fun _ => true) (c.grp (c.logGroup h)).log.length c
  let c := c.setF (OUT_FRAME_STAT_LAST_VTOTAL h) (if x.starting then 0 else (c.out o).v + 1)
  c.setF (OUT_FRAME_STAT_UNDERRUNS h) (if x.starting then 0 else x.unders)

/-- The events of a frame start. -/
def frameEvents (h : Nat) (late wrap : Bool) (c : Chip) : Chip :=
  let c := outEvt h 0 c
  let c := if wrap then outEvt h 6 c else c
  if late then outEvt h 7 c else c

/-- The state of an output whose frame starts, from the registers of `c`. -/
def Output.atFrame (h : Nat) (c : Chip) (x : Output) : Output :=
  { x with
    field := if x.timing.interlace && !x.starting then 1 - x.field else 0
    sealOn := c.fb (OUT_CTL_SEAL_EN h)
    crc := 0xFFFFFFFF
    rdLine := 0
    rdSeg := 0
    fill := false
    lateFrom := none
    unders := 0
    sent := []
    doneFrame := false
    nextNo := none
    binBusy := true
    binned := false
    phBase := c.f (COMP_PH_BASE_BASE h) * 4096
    stride := 1024 * max 1 (min 32 (c.xf (COMP_XCTL_STRIDE_KB h) 8))
    coefSrc := c.xf (COMP_XCTL_COEF_SRC0 h) 0 + 2 * c.xf (COMP_XCTL_COEF_SRC1 h) 0
    xstatAge := min 2 (x.xstatAge + 1) }

/-- The output's own state is set for the frame. -/
def frameOutput (h : Nat) (c : Chip) : Chip :=
  let c := c.setF (COMP_OVF_LINE_VALID h) 0
  c.modOut h (Output.atFrame h c)

/-- The rest: COMP_XSTAT grows old, the ring is free, the filters are latched, and the Notice's half is shown. -/
def frameTables (h : Nat) (c : Chip) : Chip :=
  let c := if Nat.ble 2 (c.out h).xstatAge then c.setF (COMP_XSTAT_VALID h) 0 else c
  let base := h * 2048
  let c := { c with disp := { c.disp with
    commit := swipe c.disp.commit (h * 128) (h * 128 + 128)
    coefOn := (swipe c.disp.coefOn base (base + 2048)).filter (fun p => p.1 < base)
      ++ c.disp.coef.filter (fun p => within base (base + 2048) p.1)
      ++ (swipe c.disp.coefOn base (base + 2048)).filter (fun p => Nat.ble (base + 2048) p.1) } }
  noticeFrame h c

theorem frameStartHalf_eq (o h : Nat) (ready late : Bool) (n : Word) (wrap : Bool) (c : Chip) :
    frameStartHalf o h ready late n wrap c =
      let d := latchTiming o h (frameEvents h late wrap ((frameStat o h c).setReg (OUT_FRAME_COUNT h) n))
      frameTables h (frameOutput h (if ready then sceneLatch h d else d)) := rfl

section
variable {o h : Nat} (ho : o < 4) (hh : h < 5)
include ho hh

theorem frameStat_steady (p : Nat) (c : Chip) : c.Steady o (frameStat p h c) := by
  have hstat (d : Chip) (w : Word) : d.Steady o (d.setReg (OUT_FRAME_STAT h) w) := .incidental ho hh (by simp [incidentalRegs]) d w
  exact ((Chip.Steady.of_eq (performDue_outputSide ho hh ..)).trans (hstat _ _)).trans (hstat _ _)

theorem frameEvents_steady (late wrap : Bool) (c : Chip) : c.Steady o (frameEvents h late wrap c) := by
  have hevt {n : Nat} (hn : n < 32) (b : Bool) (d : Chip) : d.Steady o (if b then outEvt h n d else d) :=
    .ite (.outEvt ho hh hn d) (.refl o d)
  exact ((Chip.Steady.outEvt ho hh (by decide) c).trans (hevt (by decide) wrap _)).trans (hevt (by decide) late _)

theorem latchTiming_regs (p : Nat) (c : Chip) : c.RegsSteady o (latchTiming p h c) := by
  have hfirst (b : Bool) : c.Steady o (if b then outEvt h 13 c else c) := .ite (.outEvt ho hh (by decide) c) (.refl o c)
  unfold latchTiming
  dsimp only
  split
  · exact (hfirst _).regs.trans (.of_regs rfl)
  · exact ((hfirst _).trans (.outEvt ho hh (by decide) _)).regs

theorem latchTiming_other (hne : h ≠ o) (p : Nat) (c : Chip) : c.Steady o (latchTiming p h c) := by
  have hfirst (b : Bool) : c.Steady o (if b then outEvt h 13 c else c) := .ite (.outEvt ho hh (by decide) c) (.refl o c)
  unfold latchTiming
  dsimp only
  split
  · exact (hfirst _).trans (.modOut_other hne.symm _ _)
  · exact (hfirst _).trans (.outEvt ho hh (by decide) _)

theorem sceneLatch_other (hne : h ≠ o) (c : Chip) : c.Steady o (sceneLatch h c) := by
  have hflag (d : Chip) (w : Word) : d.Steady o (d.setReg (COMP_EVT h) w) := .incidental ho hh (by simp [incidentalRegs]) d w
  exact .ite ((Chip.Steady.setReg_own ho hh hne (by simp [ownRegs]) c _).trans (hflag _ _)) (hflag c _)

theorem frameOutput_regs (c : Chip) : c.RegsSteady o (frameOutput h c) :=
  (Chip.Steady.incidental ho hh (k := COMP_OVF_LINE h) (by simp [incidentalRegs]) c _).regs.trans (.of_regs rfl)

theorem frameOutput_other (hne : h ≠ o) (c : Chip) : c.Steady o (frameOutput h c) :=
  (Chip.Steady.incidental ho hh (k := COMP_OVF_LINE h) (by simp [incidentalRegs]) c _).trans (.modOut_other hne.symm _ _)

theorem noticeFrame_outputSide (c : Chip) : (noticeFrame h c).outputSide o = c.outputSide o := by
  have hctl (x : Fld) (hx : x.key = FU_NOTICE_CTL h) (v : Nat) (d : Chip) : (d.setF x v).outputSide o = d.outputSide o :=
    outputSide_of_displaySide ho (d.setF_displaySide v (hx ▸ displayReg_noticeCtl h))
  have hrect (d : Chip) (a b : Word) : ((d.setReg (COMP_NOTICE_A h) a).setReg (COMP_NOTICE_B h) b).outputSide o = d.outputSide o :=
    (Chip.setReg_outputSide ho _ _ hh (by simp [incidentalRegs])).trans (d.setReg_outputSide ho _ hh (by simp [incidentalRegs]))
  have hshown (d : Chip) (a b : Word) (v : Nat) : ((((d.setF (FU_NOTICE_CTL_SHOWN h) v).flag (FU_NOTICE_CTL_FRAME_EV h)).setReg
      (COMP_NOTICE_A h) a).setReg (COMP_NOTICE_B h) b).outputSide o = d.outputSide o :=
    (hrect _ _ _).trans ((hctl _ rfl 1 _).trans (hctl _ rfl v d))
  have hfu (f : Franking → Franking) (d : Chip) : (d.modFu f).outputSide o = d.outputSide o := rfl
  have hclear (f : Franking → Franking) (d : Chip) : (fuDo (fun c => c.modFu f) d).outputSide o = d.outputSide o :=
    outputSide_of_displaySide ho (fuDo_displaySide (d.modFu_displaySide f))
  unfold noticeFrame
  split
  · rfl
  · simp only [ite_outputSide, hclear, hfu, ite_self]
    exact hshown ..

theorem frameTables_outputSide (c : Chip) : (frameTables h c).outputSide o = c.outputSide o := by
  have hold (b : Bool) : (if b then c.setF (COMP_XSTAT_VALID h) 0 else c).outputSide o = c.outputSide o := by
    split
    · exact c.setReg_outputSide ho _ hh (by simp [incidentalRegs, COMP_XSTAT_VALID])
    · rfl
  exact (noticeFrame_outputSide ho hh _).trans (hold _)

/-- The frame start of another output. -/
theorem frameStartHalf_other (hne : h ≠ o) (p : Nat) (ready late : Bool) (n : Word) (wrap : Bool) (c : Chip) :
    c.Steady o (frameStartHalf p h ready late n wrap c) := by
  rw [frameStartHalf_eq]
  have hcount := (frameStat_steady ho hh p c).trans (.setReg_own ho hh hne (k := OUT_FRAME_COUNT h) (by simp [ownRegs]) _ n)
  have htimed := (hcount.trans (frameEvents_steady ho hh late wrap _)).trans (latchTiming_other ho hh hne p _)
  exact ((htimed.trans (.ite (sceneLatch_other ho hh hne _) (.refl o _))).trans (frameOutput_other ho hh hne _)).trans
    (.of_eq (frameTables_outputSide ho hh _))

end

/-- A scene that COMP may read, or none, is latched (R207, R209). -/
theorem sceneLatch_fields {o : Nat} (ho : o < 4) (c : Chip) :
    (∀ k ∈ steadyRegs o, k ≠ COMP_SCENE_CUR o → (sceneLatch o c).reg k = c.reg k)
    ∧ (sceneLatch o c).out o = c.out o
    ∧ (c.reg (COMP_SCENE_NEXT o) = 0 ∨ c.tableIn ((c.reg (COMP_SCENE_NEXT o)).toNat * 256) 1 = true →
        (sceneLatch o c).reg (COMP_SCENE_CUR o) = c.reg (COMP_SCENE_NEXT o)) := by
  have hflag (d : Chip) (x : Fld) (hx : x.key = COMP_EVT o) (k : Nat) (hk : k ∈ steadyRegs o) : (d.flag x).reg k = d.reg k :=
    Chip.reg_setF_other d 1 fun e => incidental_apart o ho o (ho.trans (by decide)) _ (by simp [incidentalRegs]) (hx ▸ e ▸ hk)
  unfold sceneLatch
  dsimp only
  split
  next hvalid =>
    refine ⟨fun k hk hne => (hflag _ _ rfl k hk).trans (Chip.reg_setReg_other c _ hne), rfl, fun _ => ?_⟩
    rw [hflag _ _ rfl _ (by simp [steadyRegs, ownRegs]), Chip.reg_setReg_same]
  next hbad => exact ⟨fun k hk _ => hflag c _ rfl k hk, rfl, fun hvalid => absurd (by simpa using hvalid) hbad⟩

theorem tableIn_congr {c d : Chip} (h : d.reg DRAMC_TOP = c.reg DRAMC_TOP) (base size : Nat) : d.tableIn base size = c.tableIn base size := by
  unfold Chip.tableIn Chip.dramTop
  rw [Chip.f_congr (x := DRAMC_TOP_SIZE4K) h]

/-- What the start of frame `n` has made of output `o`, from what `c` was; OUT_SCENE.READY reads `left`. -/
structure FrameStarted (o : Nat) (left ready late : Bool) (n : Word) (c d : Chip) : Prop where
  scene : d.fb (OUT_SCENE_READY o) = left
  count : d.reg (OUT_FRAME_COUNT o) = n
  started : d.regBit (OUT_EVT o) 0 = true
  late : late = true → d.regBit (OUT_EVT o) 7 = true
  crc : (d.out o).crc = 0xFFFFFFFF
  sealOn : (d.out o).sealOn = c.fb (OUT_CTL_SEAL_EN o)
  latched : ready = true → c.reg (COMP_SCENE_NEXT o) = 0 ∨ c.tableIn ((c.reg (COMP_SCENE_NEXT o)).toNat * 256) 1 = true →
    d.reg (COMP_SCENE_CUR o) = c.reg (COMP_SCENE_NEXT o)

/-- The registers of an output are as many different ones. -/
theorem ownRegs_nodup : ∀ o < 4, (ownRegs o).Nodup := by decide

section
variable {o : Nat} {left ready late : Bool} {n : Word} {b c d e : Chip}

/-- What follows leaves what the frame start made. -/
theorem FrameStarted.keep (h : FrameStarted o left ready late n c d) (hr : d.RegsSteady o e) (hcrc : (e.out o).crc = (d.out o).crc)
    (hseal : (e.out o).sealOn = (d.out o).sealOn) : FrameStarted o left ready late n c e := by
  have hown : ∀ k ∈ ownRegs o, k ≠ OUT_EVT o → e.reg k = d.reg k := fun k hk => hr.reg k (List.mem_append_left _ hk)
  have hscene : e.reg (OUT_SCENE o) = d.reg (OUT_SCENE o) := hown _ (by simp [ownRegs]) (by simp only [OUT_SCENE, OUT_EVT]; omega)
  refine ⟨(Chip.fb_congr (x := OUT_SCENE_READY o) hscene).trans h.scene, (hown _ (by simp [ownRegs]) ?_).trans h.count, hr.evt 0 h.started,
    fun hl => hr.evt 7 (h.late hl), hcrc.trans h.crc, hseal.trans h.sealOn,
    fun hy hv => (hown _ (by simp [ownRegs]) ?_).trans (h.latched hy hv)⟩
  all_goals simp only [OUT_FRAME_COUNT, COMP_SCENE_CUR, OUT_EVT]; omega

theorem FrameStarted.steady (h : FrameStarted o left ready late n c d) (hs : d.Steady o e) : FrameStarted o left ready late n c e :=
  h.keep hs.regs (hs.get Output.crc fun _ => rfl) (hs.get Output.sealOn fun _ => rfl)

/-- What goes before leaves what the frame start reads. -/
theorem FrameStarted.of_steady (h : FrameStarted o left ready late n c d) (hs : b.Steady o c) : FrameStarted o left ready late n b d := by
  have hown : ∀ k ∈ steadyRegs o, k ≠ OUT_EVT o → c.reg k = b.reg k := hs.reg
  have hctl : c.reg (OUT_CTL o) = b.reg (OUT_CTL o) := hown _ (by simp [steadyRegs, ownRegs]) (by simp only [OUT_CTL, OUT_EVT]; omega)
  have hnext : c.reg (COMP_SCENE_NEXT o) = b.reg (COMP_SCENE_NEXT o) :=
    hown _ (by simp [steadyRegs, ownRegs]) (by simp only [COMP_SCENE_NEXT, OUT_EVT]; omega)
  have htop : c.reg DRAMC_TOP = b.reg DRAMC_TOP := hown _ (by simp [steadyRegs]) (by simp only [DRAMC_TOP, OUT_EVT]; omega)
  refine ⟨h.scene, h.count, h.started, h.late, h.crc, h.sealOn.trans (Chip.fb_congr (x := OUT_CTL_SEAL_EN o) hctl), fun hy hv => ?_⟩
  rw [← hnext] at hv ⊢
  rw [← tableIn_congr htop] at hv
  exact h.latched hy hv

/-- READY is taken back with the scene (R230). -/
theorem FrameStarted.take (ho : o < 4) (h : FrameStarted o ready ready late n c d) :
    FrameStarted o false ready late n c (if ready then d.setF (OUT_SCENE_READY o) 0 else d) := by
  cases ready with
  | false => exact h
  | true =>
    have hne := ownRegs_nodup o ho
    simp only [ownRegs, List.nodup_cons, List.mem_cons, List.not_mem_nil, or_false, not_or] at hne
    obtain ⟨-, ⟨hevt, -, hcount, -, -, -, hcur⟩, -⟩ := hne
    have hother {k : Nat} (hk : ¬OUT_SCENE o = k) : (d.setF (OUT_SCENE_READY o) 0).reg k = d.reg k := Chip.reg_setF_other d 0 (Ne.symm hk)
    have hbit (i : Nat) : (d.setF (OUT_SCENE_READY o) 0).regBit (OUT_EVT o) i = d.regBit (OUT_EVT o) i :=
      congrArg (Word.bit · i) (hother hevt)
    exact ⟨Chip.fb_setF_same d _ 0 le_rfl (show 0 < 32 by decide), (hother hcount).trans h.count, (hbit 0).trans h.started,
      fun hl => (hbit 7).trans (h.late hl), h.crc, h.sealOn, fun hy hv => (hother hcur).trans (h.latched hy hv)⟩

end

end Sys2Proof.Machine
end

section
/-! O58: a frame start (R230, R290 to R295). -/

namespace Sys2Proof.Machine

/-- A scene is latched where READY is set; but for COMP_SCENE_CUR the registers are steady. -/
theorem latchReady_fields {o : Nat} (ho : o < 4) (ready : Bool) (c : Chip) :
    let d := if ready then sceneLatch o c else c
    (∀ k ∈ steadyRegs o, k ≠ COMP_SCENE_CUR o → d.reg k = c.reg k)
    ∧ (ready = true → c.reg (COMP_SCENE_NEXT o) = 0 ∨ c.tableIn ((c.reg (COMP_SCENE_NEXT o)).toNat * 256) 1 = true →
        d.reg (COMP_SCENE_CUR o) = c.reg (COMP_SCENE_NEXT o)) := by
  cases ready with
  | false => exact ⟨fun _ _ _ => rfl, nofun⟩
  | true => exact ⟨(sceneLatch_fields ho c).1, fun _ => (sceneLatch_fields ho c).2.2⟩

theorem regBit_frameEvents {o : Nat} (ho : o < 4) (late wrap : Bool) (c : Chip) :
    (frameEvents o late wrap c).regBit (OUT_EVT o) 0 = true ∧ (late = true → (frameEvents o late wrap c).regBit (OUT_EVT o) 7 = true) := by
  have hevt {n : Nat} (hn : n < 32) (b : Bool) (d : Chip) : d.Steady o (if b then outEvt o n d else d) :=
    .ite (.outEvt ho (ho.trans (by decide)) hn d) (.refl o d)
  refine ⟨(hevt (by decide) late _).evt 0 ((hevt (by decide) wrap _).evt 0 (regBit_outEvt o (by decide) c)), fun hl => ?_⟩
  rw [hl]
  exact regBit_outEvt o (by decide) _

/-- The output's own state after `frameOutput`. -/
theorem frameOutput_fields (o : Nat) (c : Chip) :
    ((frameOutput o c).out o).crc = 0xFFFFFFFF ∧ ((frameOutput o c).out o).sealOn = c.fb (OUT_CTL_SEAL_EN o) := by
  have hctl : (c.setF (COMP_OVF_LINE_VALID o) 0).fb (OUT_CTL_SEAL_EN o) = c.fb (OUT_CTL_SEAL_EN o) := by
    refine Chip.fb_congr (Chip.reg_setF_other c 0 ?_)
    simp only [OUT_CTL_SEAL_EN, OUT_CTL, COMP_OVF_LINE_VALID, COMP_OVF_LINE]
    omega
  unfold frameOutput
  simp only [Chip.out_modOut_same]
  exact ⟨rfl, hctl⟩

/-- The frame start of an output itself. -/
theorem frameStartHalf_self {o : Nat} (ho : o < 4) (ready late : Bool) (n : Word) (wrap : Bool) (c : Chip) :
    FrameStarted o (c.fb (OUT_SCENE_READY o)) ready late n c (frameStartHalf o o ready late n wrap c) := by
  have hh : o < 5 := ho.trans (by decide)
  have hmem {k : Nat} (hk : k ∈ ownRegs o) : k ∈ steadyRegs o := List.mem_append_left _ hk
  have hne := ownRegs_nodup o ho
  simp only [ownRegs, List.nodup_cons, List.mem_cons, List.not_mem_nil, or_false, not_or] at hne
  obtain ⟨⟨-, hctlE, -, hctlC, -, -, -, hctlU⟩, ⟨hsceneE, -, hsceneC, -, -, -, hsceneU⟩,
    ⟨-, hevtC, -, -, hevtN, hevtU⟩, -, ⟨-, -, hcountN, hcountU⟩, -, -, hnextU, -⟩ := hne
  rw [frameStartHalf_eq]
  have hstat := frameStat_steady ho hh o c
  generalize frameStat o o c = c1 at hstat
  have hcounted (k : Nat) (hk : k ≠ OUT_FRAME_COUNT o) : (c1.setReg (OUT_FRAME_COUNT o) n).reg k = c1.reg k := Chip.reg_setReg_other c1 n hk
  have hcount : (c1.setReg (OUT_FRAME_COUNT o) n).reg (OUT_FRAME_COUNT o) = n := Chip.reg_setReg_same ..
  generalize c1.setReg (OUT_FRAME_COUNT o) n = c2 at hcounted hcount
  have hevents := (frameEvents_steady ho hh late wrap c2).regs
  obtain ⟨hstart, hlate⟩ := regBit_frameEvents ho late wrap c2
  generalize frameEvents o late wrap c2 = c3 at hevents hstart hlate
  have htimed := latchTiming_regs ho hh o c3
  dsimp only
  generalize latchTiming o o c3 = c4 at htimed
  obtain ⟨hlatch, hcur⟩ := latchReady_fields ho ready c4
  generalize (if ready then sceneLatch o c4 else c4) = c5 at hlatch hcur
  have hframe := frameOutput_regs ho hh c5
  obtain ⟨hcrc, hseal⟩ := frameOutput_fields o c5
  generalize frameOutput o c5 = c6 at hframe hcrc hseal
  have htables := Chip.Steady.of_eq (frameTables_outputSide ho hh c6)
  have h34 := hevents.trans htimed
  have hsame {k : Nat} (hk : k ∈ steadyRegs o) (he : k ≠ OUT_EVT o) (hu : k ≠ COMP_SCENE_CUR o) : c5.reg k = c2.reg k :=
    (hlatch k hk hu).trans (h34.reg k hk he)
  have hold {k : Nat} (hk : k ∈ steadyRegs o) (he : k ≠ OUT_EVT o) (hc : k ≠ OUT_FRAME_COUNT o) : c2.reg k = c.reg k :=
    (hcounted k hc).trans (hstat.reg k hk he)
  have hset {i : Nat} (hi : c3.regBit (OUT_EVT o) i = true) : c6.regBit (OUT_EVT o) i = true := by
    refine hframe.evt i ?_
    have h4 := htimed.evt i hi
    unfold Chip.regBit at h4 ⊢
    rwa [hlatch _ (hmem (evt_mem_own o)) hevtU]
  refine FrameStarted.steady ⟨?_, ?_, hset hstart, fun hl => hset (hlate hl), hcrc, ?_, fun hr hv => ?_⟩ htables
  · have hk : OUT_SCENE o ∈ steadyRegs o := hmem (by simp [ownRegs])
    have hscene : c6.reg (OUT_SCENE o) = c.reg (OUT_SCENE o) :=
      (hframe.reg _ hk hsceneE).trans ((hsame hk hsceneE hsceneU).trans (hold hk hsceneE hsceneC))
    exact Chip.fb_congr (x := OUT_SCENE_READY o) hscene
  · have hk : OUT_FRAME_COUNT o ∈ steadyRegs o := hmem (by simp [ownRegs])
    exact (hframe.reg _ hk (Ne.symm hevtC)).trans ((hsame hk (Ne.symm hevtC) hcountU).trans hcount)
  · have hk : OUT_CTL o ∈ steadyRegs o := hmem (by simp [ownRegs])
    have hctl : c5.reg (OUT_CTL o) = c.reg (OUT_CTL o) := (hsame hk hctlE hctlU).trans (hold hk hctlE hctlC)
    exact hseal.trans (Chip.fb_congr (x := OUT_CTL_SEAL_EN o) hctl)
  · have hfour {k : Nat} (hk : k ∈ steadyRegs o) (he : k ≠ OUT_EVT o) (hc : k ≠ OUT_FRAME_COUNT o) : c4.reg k = c.reg k :=
      (h34.reg k hk he).trans (hold hk he hc)
    have hnext : c4.reg (COMP_SCENE_NEXT o) = c.reg (COMP_SCENE_NEXT o) := hfour (hmem (by simp [ownRegs])) (Ne.symm hevtN) (Ne.symm hcountN)
    have htop : c4.reg DRAMC_TOP = c.reg DRAMC_TOP :=
      hfour (by simp [steadyRegs]) (by simp only [DRAMC_TOP, OUT_EVT]; omega) (by simp only [DRAMC_TOP, OUT_FRAME_COUNT]; omega)
    rw [hframe.reg _ (hmem (by simp [ownRegs])) (Ne.symm hevtU), ← hnext]
    rw [← hnext, ← tableIn_congr htop] at hv
    exact hcur hr hv

end Sys2Proof.Machine
end

section
/-! O58: FRAME_START (R230, R289 to R295). -/

namespace Sys2Proof.Machine

/-- The rest of the frame start of output `h`, whose line 0 begins unless `mid` says that it began before: the scene is checked, its events
and its ports follow, and the FU captures the time. -/
def frameRest (h : Nat) (mid : Bool) (c : Chip) : Chip :=
  let c := checkScene h c
  let c := if !mid && c.f (OUT_LINE_MATCH_MATCH h) = 0 then outEvt h 2 c else c
  let c := portFrame h c
  forAll (List.range 32) (fun k c => captureInput k (3 + h) c) c

/-- What the twin's Lead does at a frame start (R453, R455, R488). -/
def frameTwin (c : Chip) : Chip :=
  let c := if c.isLead then { c with zow := { c.zow with
      audioHeld := false
      leaseOn := c.zow.leaseOn || c.zow.leadWait
      leaseAt := if c.zow.leadWait then c.now else c.zow.leaseAt
      leadWait := false } } else c
  let c := if c.paired && c.isLead then c.zowSend 4 else c
  if c.zow.handover.isSome && c.isLead && c.fu.acksDue = [] then handOff c else c

/-- The beam of an output stands at the start of line 0, or with `mid` in its middle. -/
def Output.atTop (mid : Bool) (now : Nat) (x : Output) : Output :=
  { x with v := 0, starting := false, halfLine := mid, lineAt := if mid then x.lineAt else now }

theorem frameStart_eq (o : Nat) (ready late mid : Bool) (num : Option Word) (c : Chip) :
    frameStart o ready late mid num c =
      let hs := c.halves o
      let c := forAll hs endUnits c
      let n := c.frameNumber o num
      let wrap := c.reg (OUT_FRAME_COUNT o) == 0xFFFFFFFF && n == 0
      let c := forAll hs (fun h c => frameStartHalf o h ready late n wrap c) c
      let c := if ready then c.setF (OUT_SCENE_READY o) 0 else c
      let c := forAll hs (fun h c => c.modOut h (Output.atTop mid c.now)) c
      frameTwin (forAll hs (fun h => frameRest h mid) (forAll hs regroup c)) := rfl

section
variable {o h : Nat} (ho : o < 4) (hh : h < 5)
include ho hh

theorem checkScene_outputSide (c : Chip) : (checkScene h c).outputSide o = c.outputSide o := by
  have hevt (d : Chip) (w : Word) : (d.setReg (COMP_EVT h) w).outputSide o = d.outputSide o :=
    d.setReg_outputSide ho w hh (by simp [incidentalRegs])
  have hstamp (d : Chip) : (d.flag (COMP_EVT_STAMP_ERR h)).outputSide o = d.outputSide o := hevt d _
  have hsheet (d : Chip) : (d.flag (COMP_EVT_SHEET_ERR h)).outputSide o = d.outputSide o := hevt d _
  have hclamp (d : Chip) : (d.flag (COMP_EVT_SCALE_CLAMP h)).outputSide o = d.outputSide o := hevt d _
  have hword {off : Nat} {c d : Chip} {r : Nat × Bool} (hr : sceneWord h off c = (r, d)) : d.displaySide = c.displaySide :=
    displaySide_of_eq hr (sceneWord_displaySide h off c)
  have hpage (k mb : Nat) (ranked : Bool) (d : Chip) : (checkPage h k mb ranked d).2.displaySide = d.displaySide := by
    simp only [checkPage, descWords_displaySide]
  have hbitmap (j : Nat) (ranked : Bool) (d : Chip) : (checkBitmap h j ranked d).2.displaySide = d.displaySide := by
    simp only [checkBitmap, descWords_displaySide]
  unfold checkScene
  split
  · rfl
  split
  next lo _ c1 h1 =>
  split
  next hi _ c2 h2 =>
  split
  next mb _ c3 h3 =>
  split
  next bad c4 h4 =>
  split
  next bm c5 h5 =>
  split
  next sb _ c6 h6 =>
  split
  next sc _ c7 h7 =>
  have hpages : c4.displaySide = c3.displaySide := by
    refine displaySide_of_eq h4 (foldl_snd_displaySide (fun a k => ?_) _ _)
    split
    next hk => exact displaySide_of_eq hk (hpage ..)
  have hbitmaps : c5.displaySide = c4.displaySide := by
    refine displaySide_of_eq h5 (foldl_snd_displaySide (fun a j => ?_) _ _)
    split
    next hj => exact displaySide_of_eq hj (hbitmap ..)
  have hhead : c3.displaySide = c.displaySide := (hword h3).trans ((hword h2).trans (hword h1))
  have htail : c7.displaySide = c5.displaySide := (hword h7).trans (hword h6)
  simp only [ite_outputSide, hstamp, hsheet, hclamp, ite_self]
  exact outputSide_of_displaySide ho (htail.trans (hbitmaps.trans (hpages.trans hhead)))

theorem regroup_outputSide (c : Chip) : (regroup h c).outputSide o = c.outputSide o := by
  have hgroups (l : List Nat) (f : Group → Group) (d : Chip) : (forAll l (fun g c => c.modGrp g f) d).outputSide o = d.outputSide o :=
    forAll_same (p := Chip.outputSide o) (f := fun g c => c.modGrp g f) (fun _ _ => rfl) l d
  have hstat (d : Chip) (n m : Nat) : ((d.setF (COMP_GSTAT_N h) n).setF (COMP_GSTAT_PAIRED h) m).outputSide o = d.outputSide o :=
    (Chip.setReg_outputSide ho _ _ hh (by simp [incidentalRegs, COMP_GSTAT_PAIRED])).trans
      (d.setReg_outputSide ho _ hh (by simp [incidentalRegs, COMP_GSTAT_N]))
  have hfault (b : Bool) (d : Chip) : (if b then d.revt h 5 else d).outputSide o = d.outputSide o := by
    rw [ite_outputSide, revt_outputSide ho, ite_self]
  have hcomps (l : List (Nat × Nat)) (d : Chip) : (forAll l (fun p c => c.modComp p.1 fun x =>
      { x with offered := none, next := p.2, had := false }) d).outputSide o = d.outputSide o :=
    forAll_same (p := Chip.outputSide o) (f := fun (p : Nat × Nat) c => c.modComp p.1 fun x =>
      { x with offered := none, next := p.2, had := false }) (fun _ _ => rfl) l d
  exact (hcomps _ _).trans ((hfault _ _).trans ((hstat _ _ _).trans (hgroups _ _ c)))

omit hh in
theorem checkLink_steady (hd : h < 4) (c : Chip) : c.Steady o (checkLink h c) := by
  have hh : h < 5 := hd.trans (by decide)
  have hport (d : Chip) (x : Port) : d.Steady o (d.setPort h x) := .of_eq rfl
  have hlink (d : Chip) (v : Nat) : d.Steady o (d.setF (OUT_LINK_TRAINED h) v) :=
    .incidental ho hh (by simp [incidentalRegs, OUT_LINK_TRAINED]) d _
  unfold checkLink
  exact .ite (.ite (.ite ((hlink c 1).trans (hport _ _)) (.refl o c))
      (((hlink c 0).trans (.outEvt ho hh (by decide) _)).trans (hport _ _)))
    (.ite (hport c _) (.refl o c))

omit hh in
theorem portFrame_steady (h : Nat) (c : Chip) : c.Steady o (portFrame h c) := by
  refine .forAll (fun d hmem c => ?_) c
  have hport (x : Port) : c.Steady o (c.setPort d x) := .of_eq rfl
  have hd4 : d < 4 := List.mem_range.mp hmem
  dsimp only
  exact .ite ((hport _).trans (checkLink_steady ho hd4 _)) (hport _)

theorem frameRest_steady (mid : Bool) (c : Chip) : c.Steady o (frameRest h mid c) := by
  have hcapture (d : Chip) : (forAll (List.range 32) (fun k c => captureInput k (3 + h) c) d).outputSide o = d.outputSide o :=
    forAll_same (p := Chip.outputSide o) (fun k d => outputSide_of_displaySide ho (captureInput_displaySide k (3 + h) d)) _ d
  have hmatch (b : Bool) (d : Chip) : d.Steady o (if b then outEvt h 2 d else d) := .ite (.outEvt ho hh (by decide) d) (.refl o d)
  exact (((Chip.Steady.of_eq (checkScene_outputSide ho hh c)).trans (hmatch _ _)).trans (portFrame_steady ho h _)).trans (.of_eq (hcapture _))

end

theorem frameTwin_displaySide (c : Chip) : (frameTwin c).displaySide = c.displaySide := by
  have hzow (d : Chip) (z : Zow) : ({ d with zow := z } : Chip).displaySide = d.displaySide := rfl
  simp only [frameTwin, ite_displaySide, handOff_displaySide, Chip.zowSend_displaySide, hzow, ite_self]

theorem frameNumber_of_steady {o : Nat} {c d : Chip} (h : c.Steady o d) : d.frameNumber o none = c.frameNumber o none := by
  have hcount : d.reg (OUT_FRAME_COUNT o) = c.reg (OUT_FRAME_COUNT o) :=
    h.reg _ (by simp [steadyRegs, ownRegs]) (by simp only [OUT_FRAME_COUNT, OUT_EVT]; omega)
  unfold Chip.frameNumber
  rw [h.get Output.nextNo fun _ => rfl, hcount]

/-- The frame start of a governing output. -/
theorem frameStart_fields {o : Nat} (ho : o < 4) (late mid : Bool) (c : Chip) :
    let ready := c.fb (OUT_SCENE_READY o)
    let d := frameStart o ready late mid none c
    FrameStarted o false ready late (c.frameNumber o none) c d ∧ (d.out o).v = 0 ∧ (d.out o).starting = false := by
  dsimp only
  generalize hready : c.fb (OUT_SCENE_READY o) = ready
  rw [frameStart_eq]
  have hhalf : ∀ h ∈ c.halves o, h < 5 := fun h hh => c.halves_lt ho hh
  have hended : c.Steady o (forAll (c.halves o) endUnits c) :=
    .of_eq (forAll_same (p := Chip.outputSide o) (fun h d => (unitBlind_outputSide ho).endUnits h d) _ c)
  dsimp only
  rw [frameNumber_of_steady hended]
  generalize c.frameNumber o none = n
  have hfirst : (forAll (c.halves o) endUnits c).fb (OUT_SCENE_READY o) = ready := by
    have hscene := hended.reg (OUT_SCENE o) (by simp [steadyRegs, ownRegs]) (by simp only [OUT_SCENE, OUT_EVT]; omega)
    exact (Chip.fb_congr (x := OUT_SCENE_READY o) hscene).trans hready
  generalize forAll (c.halves o) endUnits c = c1 at hended hfirst
  generalize (c1.reg (OUT_FRAME_COUNT o) == 0xFFFFFFFF && n == 0) = wrap
  have hstarted : FrameStarted o ready ready late n c1 (forAll (c.halves o) (fun h c => frameStartHalf o h ready late n wrap c) c1) := by
    obtain ⟨t, he, ht⟩ := c.halves_eq o
    rw [he] at hhalf ⊢
    have hself := frameStartHalf_self ho ready late n wrap c1
    rw [hfirst] at hself
    exact hself.steady (.forAll (fun h hh d => frameStartHalf_other ho (hhalf h (List.mem_cons_of_mem _ hh))
      (by rw [ht h hh]; omega) o ready late n wrap d) _)
  have htaken := hstarted.take ho
  generalize (if ready then _ else _ : Chip) = c3 at htaken
  have hout := out_forAll_halves c3 c o fun c => Output.atTop mid c.now
  have hregs : c3.RegsSteady o (forAll (c.halves o) (fun h c => c.modOut h (Output.atTop mid c.now)) c3) := by
    have hreg := reg_forAll_modOut (c.halves o) (fun c => Output.atTop mid c.now) c3
    exact ⟨fun k _ _ => hreg k, fun i hi => (congrArg (Word.bit · i) (hreg (OUT_EVT o))).trans hi⟩
  have htop := htaken.keep hregs (by rw [hout]; rfl) (by rw [hout]; rfl)
  generalize forAll (c.halves o) (fun h c => c.modOut h (Output.atTop mid c.now)) c3 = c4 at hout htop
  have hgroups : c4.Steady o (forAll (c.halves o) regroup c4) := .forAll (fun h hh d => .of_eq (regroup_outputSide ho (hhalf h hh) d)) c4
  have hrest := hgroups.trans (.forAll (f := fun h => frameRest h mid) (fun h hh d => frameRest_steady ho (hhalf h hh) mid d) _)
  have hend := hrest.trans (.of_eq (outputSide_of_displaySide ho (frameTwin_displaySide _)))
  refine ⟨(htop.steady hend).of_steady hended, ?_, ?_⟩
  · rw [hend.get Output.v fun _ => rfl, hout]
    rfl
  · rw [hend.get Output.starting fun _ => rfl, hout]
    rfl

end Sys2Proof.Machine
end

section
/-! O58: FRAME_START and SCENE_READY (R230, R290). -/

namespace Sys2Proof.Machine

/-- The frame start that is due starts a frame (R289, R291). -/
theorem dueFrame_fields {o : Nat} (ho : o < 4) {c : Chip} (hen : c.fb (OUT_CTL_EN o) = true) :
    let x := c.out o
    let ready := c.fb (OUT_SCENE_READY o)
    let d := dueFrame o c
    FrameStarted o false ready (!ready && !(x.starting && x.timing.adapt)) (c.frameNumber o none) c d ∧ (d.out o).v = 0 ∧ (d.out o).starting = false := by
  have hlost (b : Bool) : (if b then c.setRegBit ZOW_EVT 9 true else c).displaySide = c.displaySide := by
    split
    · exact c.setRegBit_displaySide 9 true (by decide)
    · rfl
  have hdue : dueFrame o c = frameStart o (c.fb (OUT_SCENE_READY o)) (!c.fb (OUT_SCENE_READY o) && !((c.out o).starting && (c.out o).timing.adapt))
      ((c.out o).midLine && !(c.out o).starting) none (if !(c.out o).starting && c.follows o then c.setRegBit ZOW_EVT 9 true else c) := by
    unfold dueFrame
    rw [hen]
    rfl
  dsimp only
  rw [hdue]
  have hsame := hlost (!(c.out o).starting && c.follows o)
  generalize (if (!(c.out o).starting && c.follows o) = true then c.setRegBit ZOW_EVT 9 true else c) = d at hsame
  have hsteady := Chip.Steady.of_eq (outputSide_of_displaySide ho hsame)
  have hout : c.out o = d.out o := congrArg (fun x : Display => sget output0 x.outs o) (Chip.disp_of_displaySide hsame).symm
  have hkeep {k : Nat} (hk : k ∈ ownRegs o) (hne : k ≠ OUT_EVT o) : c.reg k = d.reg k := (hsteady.reg k (List.mem_append_left _ hk) hne).symm
  have hscene : c.reg (OUT_SCENE o) = d.reg (OUT_SCENE o) := hkeep (by simp [ownRegs]) (by simp only [OUT_SCENE, OUT_EVT]; omega)
  rw [hout, ← frameNumber_of_steady hsteady, Chip.fb_congr (x := OUT_SCENE_READY o) hscene]
  obtain ⟨hstarted, hv, hs⟩ := frameStart_fields ho (!d.fb (OUT_SCENE_READY o) && !((d.out o).starting && (d.out o).timing.adapt))
    ((d.out o).midLine && !(d.out o).starting) d
  exact ⟨hstarted.of_steady hsteady, hv, hs⟩

theorem exec_frameStart {o : Fin 4} {s : State} (hb : s.chip.beamRuns o = true) (hf : s.chip.frameDue o = true) :
    exec (.frameStart o) s = .next (s.at (dueFrame o s.chip)) := by
  have hx : exec (.frameStart o) s = execFrameStart o s := rfl
  rw [hx, execFrameStart, State.go_eq, hb, hf]
  rfl

theorem exec_sceneReady {o : Fin 4} {s : State} (hu : s.chip.outUp o = true) :
    exec (.sceneReady o) s = .next (s.at (s.chip.setF (OUT_SCENE_READY o) 1)) := by
  have hx : exec (.sceneReady o) s = execSceneReady o s := rfl
  rw [hx, execSceneReady, State.go_eq, if_pos hu]
  rfl

end Sys2Proof.Machine
end

section
/-! O58: OUT_CTL, by which an output starts, stops and pairs (R287, R289, R304, R305). -/

namespace Sys2Proof.Machine

/-! ### A write of one bit of a register -/

theorem bit_writeField {f : FieldDef} (hin : f.InWord) (hacc : f.acc = .rw ∨ f.acc = .ro) (sb : Bool) (old v w : Word) (j : Nat) :
    (writeField sb old v w f).bit j = if f.acc = .rw ∧ f.lsb ≤ j ∧ j ≤ f.msb then v.bit j else w.bit j := by
  unfold writeField
  rcases hacc with h | h
  · rw [h]
    dsimp only
    unfold Word.bit
    rw [Word.testBit_setBits _ _ _ hin.1 hin.2, Word.testBit_bits]
    by_cases hj : f.lsb ≤ j ∧ j ≤ f.msb
    · have hlow : j - f.lsb < f.msb + 1 - f.lsb := by omega
      rw [if_pos hj, if_pos ⟨rfl, hj⟩, decide_eq_true hlow, Bool.true_and, Nat.add_sub_cancel' hj.1]
    · rw [if_neg hj, if_neg fun hc => hj hc.2]
  · rw [h]
    rfl

/-- A write of RW and RO fields gives a bit what was written, where it was so before or an RW field holds it. -/
theorem bit_writeFields (sb : Bool) (old v : Word) (j : Nat) (l : List FieldDef) (w : Word) (hin : ∀ f ∈ l, f.InWord)
    (hacc : ∀ f ∈ l, f.acc = .rw ∨ f.acc = .ro) (h : w.bit j = v.bit j ∨ ∃ f ∈ l, f.acc = .rw ∧ f.lsb ≤ j ∧ j ≤ f.msb) :
    (l.foldl (writeField sb old v) w).bit j = v.bit j := by
  induction l generalizing w with
  | nil => exact h.resolve_right (by simp)
  | cons f l ih =>
    rw [List.forall_mem_cons] at hin hacc
    refine ih _ hin.2 hacc.2 ?_
    rw [bit_writeField hin.1 hacc.1]
    split
    next => exact .inl rfl
    next hf =>
      refine h.imp_right ?_
      rintro ⟨g, hg, hrw⟩
      rcases List.mem_cons.mp hg with rfl | hmem
      · exact absurd hrw hf
      · exact ⟨g, hmem, hrw⟩

/-- OUT_CTL written as it is but for one bit of an RW field takes that bit. -/
theorem writeWord_outCtl {o i : Nat} (ho : o < 4) (hi : i ∈ [0, 5]) (w : Word) (b : Bool) :
    writeWord false (OUT_CTL o) w (w.setBit i b) = w.setBit i b := by
  have hfields : ∀ o < 4, (∀ f ∈ regFields (OUT_CTL o), f.acc = .rw ∨ f.acc = .ro)
      ∧ ∀ i ∈ [0, 5], ∃ f ∈ regFields (OUT_CTL o), f.acc = .rw ∧ f.lsb ≤ i ∧ i ≤ f.msb := by decide
  refine BitVec.eq_of_toNat_eq (Nat.eq_of_testBit_eq fun j => ?_)
  refine bit_writeFields false w _ j _ w (regFields_apart _).1 (hfields o ho).1 ?_
  obtain rfl | hj := eq_or_ne j i
  · exact .inr ((hfields o ho).2 j hi)
  · have h32 : ∀ i ∈ [0, 5], i < 32 := by decide
    exact .inl (Word.bit_setBit_other w b (h32 i hi) hj).symm

theorem setBit_setBit (w : Word) {j : Nat} (a b : Bool) (hj : j < 32) : (w.setBit j a).setBit j b = w.setBit j b := by
  refine BitVec.eq_of_toNat_eq (Nat.eq_of_testBit_eq fun k => ?_)
  change Word.bit _ k = Word.bit _ k
  obtain rfl | hk := eq_or_ne k j
  · rw [Word.bit_setBit_same _ _ hj, Word.bit_setBit_same _ _ hj]
  · rw [Word.bit_setBit_other _ _ hj hk, Word.bit_setBit_other _ _ hj hk, Word.bit_setBit_other _ _ hj hk]

theorem setBit_bit (w : Word) {j : Nat} (hj : j < 32) : w.setBit j (w.bit j) = w := by
  refine BitVec.eq_of_toNat_eq (Nat.eq_of_testBit_eq fun k => ?_)
  change Word.bit _ k = Word.bit _ k
  obtain rfl | hk := eq_or_ne k j
  · rw [Word.bit_setBit_same _ _ hj]
  · rw [Word.bit_setBit_other _ _ hj hk]

/-! ### The write of EN and the write of PAIR -/

/-- A write of EN alone (R289): the output starts if it is stopped and governs itself. -/
theorem writeOutCtl_en {o : Nat} (ho : o < 4) (en : Bool) (c : Chip) :
    writeOutCtl o ((c.reg (OUT_CTL o)).setBit 0 en) c =
      let d := c.setRegBit (OUT_CTL o) 0 en
      if d.lead o = o && en && !d.running o then startOutput o d else d := by
  have hold : c.fb (OUT_CTL_PAIR o) = (c.reg (OUT_CTL o)).bit 5 := c.fb_eq_regBit (OUT_CTL o) 5
  have hpair : ((c.reg (OUT_CTL o)).setBit 0 en).bit 5 = (c.reg (OUT_CTL o)).bit 5 :=
    Word.bit_setBit_other _ en (by decide) (by decide)
  have hword : ((c.reg (OUT_CTL o)).setBit 0 en).setBit 5 ((c.reg (OUT_CTL o)).bit 5) = (c.reg (OUT_CTL o)).setBit 0 en := by
    rw [← hpair, setBit_bit _ (by decide)]
  have hsame : o % 2 = 1 || (o % 2 == 0 && (c.reg (OUT_CTL o)).bit 5) = (c.reg (OUT_CTL o)).bit 5 := by
    rcases Nat.mod_two_eq_zero_or_one o with h | h <;> simp [h]
  unfold writeOutCtl
  dsimp only
  rw [hold, hpair, Word.bit_setBit_same _ en (by decide), writeWord_outCtl ho (by simp), hword, if_pos hsame]
  rfl

/-- A write of PAIR alone on an even output that is not enabled (R305): it is taken while both outputs are stopped and drive no analog port. -/
theorem writeOutCtl_pair {o : Nat} (ho : o < 4) (he : o % 2 = 0) (pair : Bool) {c : Chip} (hen : c.fb (OUT_CTL_EN o) = false)
    (hp : c.fb (OUT_CTL_PAIR o) ≠ pair) :
    writeOutCtl o ((c.reg (OUT_CTL o)).setBit 5 pair) c =
      let d := c.setReg (OUT_CTL o) (c.reg (OUT_CTL o))
      if !d.running o && !d.running (o + 1) && d.outKind o != 2 && d.outKind (o + 1) != 2 then
        (d.setF (OUT_CTL_PAIR o) pair.toNat).modOut o fun x => { x with pairOn := pair }
      else outEvt o 14 d := by
  have hold : c.fb (OUT_CTL_PAIR o) = (c.reg (OUT_CTL o)).bit 5 := c.fb_eq_regBit (OUT_CTL o) 5
  have hstay : ((c.reg (OUT_CTL o)).setBit 5 pair).bit 0 = false :=
    (Word.bit_setBit_other _ pair (by decide) (by decide)).trans ((c.fb_eq_regBit (OUT_CTL o) 0).symm.trans hen)
  have hword : ((c.reg (OUT_CTL o)).setBit 5 pair).setBit 5 ((c.reg (OUT_CTL o)).bit 5) = c.reg (OUT_CTL o) := by
    rw [setBit_setBit _ _ _ (by decide), setBit_bit _ (by decide)]
  have hgo : ¬(o % 2 = 1 || (o % 2 == 0 && pair) = (c.reg (OUT_CTL o)).bit 5) = true := by
    simpa [he, ← hold] using Ne.symm hp
  unfold writeOutCtl
  dsimp only
  rw [hold, Word.bit_setBit_same _ pair (by decide), writeWord_outCtl ho (by simp), hword, hstay, if_neg hgo]
  simp only [Bool.and_false, Bool.false_and, Bool.false_eq_true, if_false]
  simp only [he, beq_self_eq_true, Bool.true_and]

/-! ### The output starts -/

theorem forAll_cons {α : Type} (a : α) (l : List α) (f : α → Chip → Chip) (c : Chip) : forAll (a :: l) f c = forAll l f (f a c) := rfl

/-- The beam of an output that starts. -/
def Output.atStart (now : Nat) (x : Output) : Output :=
  { x with starting := true, v := 0, field := 0, halfLine := false, lineAt := now, rdLine := 0, rdSeg := 0 }

/-- The half `h` of output `o` starts. -/
def startHalf (o h : Nat) (c : Chip) : Chip :=
  ((latchTiming o h c).setF (OUT_CTL_RUNNING h) 1).modOut h (Output.atStart c.now)

theorem startOutput_eq (o : Nat) (c : Chip) :
    startOutput o c = if (c.wantedTiming o).ok then forAll (c.halves o) (startHalf o) c
      else forAll (c.halves o) (fun h c => outEvt h 10 c) c := rfl

theorem mem_outEvt (h n : Nat) (c : Chip) : (outEvt h n c).mem = c.mem := Chip.setReg_mem ..

theorem disp_outEvt (h n : Nat) (c : Chip) : (outEvt h n c).disp = c.disp := Chip.setReg_disp ..

theorem latchTiming_mem (o h : Nat) (c : Chip) : (latchTiming o h c).mem = c.mem := by
  have hfirst (b : Bool) : (if b then outEvt h 13 c else c).mem = c.mem := by
    split
    · exact mem_outEvt ..
    · rfl
  unfold latchTiming
  dsimp only
  split
  · exact hfirst _
  · exact (mem_outEvt ..).trans (hfirst _)

theorem startHalf_mem (o h : Nat) (c : Chip) : (startHalf o h c).mem = c.mem :=
  (Chip.modOut_mem ..).trans ((Chip.setF_mem ..).trans (latchTiming_mem o h c))

theorem startHalf_other {o h : Nat} (ho : o < 4) (hh : h < 5) (hne : h ≠ o) (p : Nat) (c : Chip) : c.Steady o (startHalf p h c) :=
  ((latchTiming_other ho hh hne p c).trans (.setReg_own ho hh hne (k := OUT_CTL h) (by simp [ownRegs]) _ _)).trans (.modOut_other hne.symm _ _)

/-- A timing within the limits is taken (R287). -/
theorem out_latchTiming {o : Nat} {c : Chip} (hok : (c.wantedTiming o).ok = true) (h : Nat) :
    ((latchTiming o h c).out h).timing = c.wantedTiming o := by
  unfold latchTiming
  dsimp only
  rw [if_pos hok, Chip.out_modOut_same]

theorem fb_modOut (c : Chip) (o : Nat) (f : Output → Output) (x : Fld) : (c.modOut o f).fb x = c.fb x := rfl

/-- The governing output itself starts. -/
theorem startHalf_self {o : Nat} (ho : o < 4) {c : Chip} (hok : (c.wantedTiming o).ok = true) :
    (startHalf o o c).fb (OUT_CTL_EN o) = c.fb (OUT_CTL_EN o) ∧ (startHalf o o c).fb (OUT_CTL_RUNNING o) = true
    ∧ ((startHalf o o c).out o).starting = true ∧ ((startHalf o o c).out o).timing = c.wantedTiming o := by
  have hctl : (latchTiming o o c).reg (OUT_CTL o) = c.reg (OUT_CTL o) :=
    (latchTiming_regs ho (ho.trans (by decide)) o c).reg _ (by simp [steadyRegs, ownRegs]) (outEvt_ne_outCtl o o).symm
  have hout : ((latchTiming o o c).setF (OUT_CTL_RUNNING o) 1).out o = (latchTiming o o c).out o :=
    congrArg (fun x : Display => sget output0 x.outs o) (Chip.setF_disp ..)
  have htiming := out_latchTiming hok o
  have hen : ((latchTiming o o c).setF (OUT_CTL_RUNNING o) 1).fb (OUT_CTL_EN o) = c.fb (OUT_CTL_EN o) :=
    (Chip.fb_setF_other _ (OUT_CTL_RUNNING o) (OUT_CTL_EN o) 1 le_rfl (show 31 < 32 by decide) (.inr (.inl (show 0 < 31 by decide)))).trans
      (Chip.fb_congr (x := OUT_CTL_EN o) hctl)
  have hrun : ((latchTiming o o c).setF (OUT_CTL_RUNNING o) 1).fb (OUT_CTL_RUNNING o) = true :=
    Chip.fb_setF_same _ (OUT_CTL_RUNNING o) 1 le_rfl (show 31 < 32 by decide)
  unfold startHalf
  rw [← hout] at htiming
  generalize (latchTiming o o c).setF (OUT_CTL_RUNNING o) 1 = e at hen hrun htiming
  rw [fb_modOut, fb_modOut, Chip.out_modOut_same]
  exact ⟨hen, hrun, rfl, htiming⟩

/-- An output starts with a timing within the limits. -/
theorem startOutput_ok {o : Nat} (ho : o < 4) {c : Chip} (hok : (c.wantedTiming o).ok = true) :
    let d := startOutput o c
    d.fb (OUT_CTL_EN o) = c.fb (OUT_CTL_EN o) ∧ d.fb (OUT_CTL_RUNNING o) = true ∧ (d.out o).starting = true
    ∧ (d.out o).timing = c.wantedTiming o ∧ d.mem = c.mem := by
  have hhalf : ∀ h ∈ c.halves o, h < 5 := fun h hh => c.halves_lt ho hh
  have hmem : (forAll (c.halves o) (startHalf o) c).mem = c.mem :=
    forAll_same (p := Chip.mem) (startHalf_mem o) _ c
  obtain ⟨hen, hrun, hstart, htiming⟩ := startHalf_self ho hok
  obtain ⟨t, he, ht⟩ := c.halves_eq o
  dsimp only
  rw [startOutput_eq, if_pos hok]
  rw [he] at hhalf hmem ⊢
  rw [forAll_cons] at hmem ⊢
  have hrest : (startHalf o o c).Steady o (forAll t (startHalf o) (startHalf o o c)) :=
    .forAll (fun h hh d => startHalf_other ho (hhalf h (List.mem_cons_of_mem _ hh)) (by rw [ht h hh]; omega) o d) _
  have hctl := hrest.reg (OUT_CTL o) (by simp [steadyRegs, ownRegs]) (outEvt_ne_outCtl o o).symm
  exact ⟨(Chip.fb_congr (x := OUT_CTL_EN o) hctl).trans hen, (Chip.fb_congr (x := OUT_CTL_RUNNING o) hctl).trans hrun,
    (hrest.get Output.starting fun _ => rfl).trans hstart, (hrest.get Output.timing fun _ => rfl).trans htiming, hmem⟩

/-- An output whose timing is not within the limits shows TIMING_ERR and does not start (R287). -/
theorem startOutput_bad {o : Nat} (ho : o < 4) {c : Chip} (hbad : (c.wantedTiming o).ok = false) :
    let d := startOutput o c
    d.fb (OUT_CTL_RUNNING o) = c.fb (OUT_CTL_RUNNING o) ∧ d.regBit (OUT_EVT o) 10 = true ∧ d.mem = c.mem := by
  have hhalf : ∀ h ∈ c.halves o, h < 5 := fun h hh => c.halves_lt ho hh
  have hmem : (forAll (c.halves o) (fun h c => outEvt h 10 c) c).mem = c.mem :=
    forAll_same (p := Chip.mem) (f := fun h c => outEvt h 10 c) (fun h d => mem_outEvt h 10 d) _ c
  obtain ⟨t, he, -⟩ := c.halves_eq o
  dsimp only
  rw [startOutput_eq, hbad, if_neg Bool.false_ne_true]
  rw [he] at hhalf hmem ⊢
  rw [forAll_cons] at hmem ⊢
  have hfirst : c.Steady o (outEvt o 10 c) := .outEvt ho (ho.trans (by decide)) (by decide) c
  have hrest : (outEvt o 10 c).Steady o (forAll t (fun h c => outEvt h 10 c) (outEvt o 10 c)) :=
    .forAll (fun h hh d => .outEvt ho (hhalf h (List.mem_cons_of_mem _ hh)) (by decide) d) _
  have hctl := (hfirst.trans hrest).reg (OUT_CTL o) (by simp [steadyRegs, ownRegs]) (outEvt_ne_outCtl o o).symm
  exact ⟨Chip.fb_congr (x := OUT_CTL_RUNNING o) hctl, hrest.evt 10 (regBit_outEvt o (by decide) c), hmem⟩

end Sys2Proof.Machine
end

section
/-! O58: OUT_ENABLE and PAIR_WRITE (R287, R289, R305). -/

namespace Sys2Proof.Machine

/-- The fields that give an output's timing. -/
def timingFields (o : Nat) : List Fld :=
  [OUT_CTL_KIND o, OUT_CTL_CRT_MODE o, OUT_CTL_INTERLACE o, OUT_CTL_ADAPT o, OUT_CTL_BPC8 o, OUT_CTL_CSYNC o, OUT_PIXCLK_KHZ o,
    OUT_HTIME_HACTIVE o, OUT_HTIME_HTOTAL o, OUT_HSYNC_HS_START o, OUT_HSYNC_HS_END o, OUT_HSYNC_HPOL o, OUT_HSYNC_VPOL o,
    OUT_VTIME_VACTIVE o, OUT_VTIME_VSTART o, OUT_VTIME_VSYNC o, OUT_VRANGE_VTOTAL_MIN o, OUT_VRANGE_VTOTAL_MAX o]

/-- EN is none of them. -/
theorem timingFields_apart : ∀ o < 4, ∀ x ∈ timingFields o, x.key ≠ OUT_CTL o ∨ 0 < x.lsb := by decide

/-- A write of EN leaves the timing that an output's registers give. -/
theorem wantedTiming_setEn {o : Nat} (ho : o < 4) (en : Bool) (c : Chip) : (c.setRegBit (OUT_CTL o) 0 en).wantedTiming o = c.wantedTiming o := by
  have hdisp : (c.setRegBit (OUT_CTL o) 0 en).disp = c.disp := Chip.setRegBit_disp ..
  have hapart (x : Fld) (hx : x.key ≠ OUT_CTL o ∨ 0 < x.lsb) : (c.setRegBit (OUT_CTL o) 0 en).f x = c.f x :=
    Chip.f_setF_other c ⟨OUT_CTL o, 0, 0⟩ x en.toNat le_rfl (show 0 < 32 by decide) (hx.imp_right .inr)
  generalize c.setRegBit (OUT_CTL o) 0 en = d at hdisp hapart
  have hf : ∀ x ∈ timingFields o, d.f x = c.f x := fun x hx => hapart x (timingFields_apart o ho x hx)
  have hfb : ∀ x ∈ timingFields o, d.fb x = c.fb x := fun x hx => congrArg (· != 0) (hf x hx)
  simp only [timingFields, List.forall_mem_cons] at hf hfb
  have hport (p : Nat) : d.port p = c.port p := by
    unfold Chip.port
    rw [hdisp]
  have hhalves : d.halves o = c.halves o := by
    unfold Chip.halves Chip.out
    rw [hdisp]
  have hkind : d.outKind o = c.outKind o := by
    unfold Chip.outKind
    rw [hf.1]
  have hlink (p m l : Nat) : d.fb ⟨OUT_LINK p, m, l⟩ = c.fb ⟨OUT_LINK p, m, l⟩ := by
    unfold Chip.fb
    rw [hapart _ (.inl (by simp only [OUT_LINK, OUT_CTL]; omega))]
  have hsink : d.sinkRefuses o = c.sinkRefuses o := by
    have hrange (p : Port) : d.rangeCovers o p = c.rangeCovers o p := by
      simp only [Chip.rangeCovers, hf]
    simp only [Chip.sinkRefuses, hkind, hport, hhalves, hrange, OUT_LINK_TRAINED, OUT_LINK_SINK_ASYNC, hlink]
  simp only [Chip.wantedTiming, hkind, hsink, hf, hfb]

/-- What a write of EN alone leaves. -/
theorem setEn_fields (o : Nat) (en : Bool) (c : Chip) :
    let d := c.setRegBit (OUT_CTL o) 0 en
    d.fb (OUT_CTL_EN o) = en ∧ d.fb (OUT_CTL_RUNNING o) = c.fb (OUT_CTL_RUNNING o) ∧ d.lead o = c.lead o := by
  have hdisp : (c.setRegBit (OUT_CTL o) 0 en).disp = c.disp := Chip.setRegBit_disp ..
  refine ⟨(Chip.fb_eq_regBit _ (OUT_CTL o) 0).trans (Chip.regBit_setRegBit_same c _ en (by decide)), ?_, ?_⟩
  · exact Chip.fb_setF_other c ⟨OUT_CTL o, 0, 0⟩ (OUT_CTL_RUNNING o) en.toNat le_rfl (show 0 < 32 by decide) (.inr (.inr (show 0 < 31 by decide)))
  · unfold Chip.lead Chip.out
    rw [hdisp]

/-- EN written 1 on a stopped output with a timing within the limits (R287, R289). -/
theorem writeOutCtl_start {o : Nat} (ho : o < 4) {c : Chip} (hr : c.running o = false) (hl : c.lead o = o)
    (hok : (c.wantedTiming o).ok = true) :
    let d := writeOutCtl o ((c.reg (OUT_CTL o)).setBit 0 true) c
    d.fb (OUT_CTL_EN o) = true ∧ d.running o = true ∧ (d.out o).starting = true ∧ (d.out o).timing = c.wantedTiming o
    ∧ d.mem = c.mem := by
  obtain ⟨hen, hrun, hlead⟩ := setEn_fields o true c
  have htiming := wantedTiming_setEn ho true c
  have hmem : (c.setRegBit (OUT_CTL o) 0 true).mem = c.mem := Chip.setRegBit_mem ..
  rw [writeOutCtl_en ho]
  dsimp only
  generalize c.setRegBit (OUT_CTL o) 0 true = e at hen hrun hlead htiming hmem
  have hstopped : e.running o = false := hrun.trans hr
  rw [hstopped, hlead, hl, if_pos (by simp)]
  rw [← htiming] at hok ⊢
  obtain ⟨hen', hrun', hstart, htime, hmem'⟩ := startOutput_ok ho hok
  exact ⟨hen'.trans hen, hrun', hstart, htime, hmem'.trans hmem⟩

/-- EN written 1 on a stopped output with a timing beyond the limits (R287). -/
theorem writeOutCtl_timingErr {o : Nat} (ho : o < 4) {c : Chip} (hr : c.running o = false) (hl : c.lead o = o)
    (hbad : (c.wantedTiming o).ok = false) :
    let d := writeOutCtl o ((c.reg (OUT_CTL o)).setBit 0 true) c
    d.running o = false ∧ d.regBit (OUT_EVT o) 10 = true ∧ d.mem = c.mem := by
  obtain ⟨-, hrun, hlead⟩ := setEn_fields o true c
  have htiming := wantedTiming_setEn ho true c
  have hmem : (c.setRegBit (OUT_CTL o) 0 true).mem = c.mem := Chip.setRegBit_mem ..
  rw [writeOutCtl_en ho]
  dsimp only
  generalize c.setRegBit (OUT_CTL o) 0 true = e at hrun hlead htiming hmem
  have hstopped : e.running o = false := hrun.trans hr
  rw [hstopped, hlead, hl, if_pos (by simp)]
  rw [← htiming] at hbad
  obtain ⟨hrun', hevt, hmem'⟩ := startOutput_bad ho hbad
  exact ⟨hrun'.trans hstopped, hevt, hmem'.trans hmem⟩

/-- EN written 0: the output runs on to its next VBLANK_START (R289). -/
theorem writeOutCtl_stop {o : Nat} (ho : o < 4) (c : Chip) :
    let d := writeOutCtl o ((c.reg (OUT_CTL o)).setBit 0 false) c
    d.fb (OUT_CTL_EN o) = false ∧ d.running o = c.running o ∧ d.disp = c.disp ∧ d.mem = c.mem := by
  obtain ⟨hen, hrun, -⟩ := setEn_fields o false c
  rw [writeOutCtl_en ho]
  dsimp only
  rw [Bool.and_false, Bool.false_and, if_neg Bool.false_ne_true]
  exact ⟨hen, hrun, Chip.setRegBit_disp .., Chip.setRegBit_mem ..⟩

theorem exec_outEnable {o : Fin 4} {s : State} (hu : s.chip.outUp o = true) (en : Bool) :
    exec (.outEnable o en) s = .next (s.at (writeOutCtl o ((s.chip.reg (OUT_CTL o)).setBit 0 en) s.chip)) := by
  have hx : exec (.outEnable o en) s = execOutEnable o en s := rfl
  rw [hx, execOutEnable, State.go_eq, if_pos hu]
  rfl

/-! ### PAIR -/

/-- A register written as it reads. -/
theorem reg_setReg_self (c : Chip) (k j : Nat) : (c.setReg k (c.reg k)).reg j = c.reg j := by
  obtain rfl | hne := eq_or_ne j k
  · exact Chip.reg_setReg_same ..
  · exact Chip.reg_setReg_other c _ hne

/-- PAIR is taken while both halves are stopped and drive no analog port (R305). -/
theorem writeOutCtl_paired {o : Nat} (ho : o < 4) (he : o % 2 = 0) {pair : Bool} {c : Chip} (hen : c.fb (OUT_CTL_EN o) = false)
    (hp : c.fb (OUT_CTL_PAIR o) ≠ pair) (hr : c.running o = false) (hr1 : c.running (o + 1) = false) (hk : c.outKind o ≠ 2)
    (hk1 : c.outKind (o + 1) ≠ 2) :
    let d := writeOutCtl o ((c.reg (OUT_CTL o)).setBit 5 pair) c
    d.fb (OUT_CTL_PAIR o) = pair ∧ (d.out o).pairOn = pair ∧ d.mem = c.mem := by
  have hreg := reg_setReg_self c (OUT_CTL o)
  have hmem : (c.setReg (OUT_CTL o) (c.reg (OUT_CTL o))).mem = c.mem := Chip.setReg_mem ..
  rw [writeOutCtl_pair ho he pair hen hp]
  dsimp only
  generalize c.setReg (OUT_CTL o) (c.reg (OUT_CTL o)) = e at hreg hmem
  have hrun (h : Nat) : e.running h = c.running h := Chip.fb_congr (hreg _)
  have hkind (h : Nat) : e.outKind h = c.outKind h := by
    unfold Chip.outKind
    rw [Chip.f_congr (x := OUT_CTL_KIND h) (hreg _)]
  rw [hrun, hrun, hkind, hkind, hr, hr1, if_pos (by simp [hk, hk1])]
  have hset : (e.setF (OUT_CTL_PAIR o) pair.toNat).fb (OUT_CTL_PAIR o) = pair := by
    rw [Chip.fb_setF_same e _ _ le_rfl (show 5 < 32 by decide)]
    cases pair <;> rfl
  refine ⟨(fb_modOut ..).trans hset, ?_, (Chip.modOut_mem ..).trans ((Chip.setF_mem ..).trans hmem)⟩
  rw [Chip.out_modOut_same]

/-- PAIR is not taken while a half runs: PAIR_ERR (R305). -/
theorem writeOutCtl_pairErr {o : Nat} (ho : o < 4) (he : o % 2 = 0) {pair : Bool} {c : Chip} (hen : c.fb (OUT_CTL_EN o) = false)
    (hp : c.fb (OUT_CTL_PAIR o) ≠ pair) (hr : c.running o = true ∨ c.running (o + 1) = true) :
    let d := writeOutCtl o ((c.reg (OUT_CTL o)).setBit 5 pair) c
    d.fb (OUT_CTL_PAIR o) = !pair ∧ d.regBit (OUT_EVT o) 14 = true ∧ d.disp = c.disp ∧ d.mem = c.mem := by
  have hreg := reg_setReg_self c (OUT_CTL o)
  have hmem : (c.setReg (OUT_CTL o) (c.reg (OUT_CTL o))).mem = c.mem := Chip.setReg_mem ..
  have hdisp : (c.setReg (OUT_CTL o) (c.reg (OUT_CTL o))).disp = c.disp := Chip.setReg_disp ..
  rw [writeOutCtl_pair ho he pair hen hp]
  dsimp only
  generalize c.setReg (OUT_CTL o) (c.reg (OUT_CTL o)) = e at hreg hmem hdisp
  have hrun (h : Nat) : e.running h = c.running h := Chip.fb_congr (hreg _)
  have hbusy : (!c.running o && !c.running (o + 1) && e.outKind o != 2 && e.outKind (o + 1) != 2) = false := by
    rcases hr with h | h <;> simp [h]
  rw [hrun, hrun, hbusy, if_neg Bool.false_ne_true]
  have hctl : (outEvt o 14 e).reg (OUT_CTL o) = c.reg (OUT_CTL o) :=
    (Chip.reg_setReg_other e _ (outEvt_ne_outCtl o o).symm).trans (hreg _)
  exact ⟨(Chip.fb_congr (x := OUT_CTL_PAIR o) hctl).trans (Bool.eq_not.mpr hp), regBit_outEvt o (by decide) e,
    (disp_outEvt ..).trans hdisp, (mem_outEvt ..).trans hmem⟩

theorem exec_pairWrite {o : Fin 4} {s : State} (hu : s.chip.outUp o = true) (pair : Bool) :
    exec (.pairWrite o pair) s = .next (s.at (writeOutCtl o ((s.chip.reg (OUT_CTL o)).setBit 5 pair) s.chip)) := by
  have hx : exec (.pairWrite o pair) s = execPairWrite o pair s := rfl
  rw [hx, execPairWrite, State.go_eq, if_pos hu]
  rfl

end Sys2Proof.Machine
end

section
/-! O58: BIN_DONE (R230, R233). -/

namespace Sys2Proof.Machine

/-- The end of a binning of `n` stamps that has built `b`. -/
def binEnd (o wait n : Nat) (b : Bins) (c : Chip) : Chip :=
  let c := writeHeaders o b c
  let c := if b.ovf = [] then c else c.flag (COMP_EVT_PH_OVF o)
  let c := if b.stampErr then c.flag (COMP_EVT_STAMP_ERR o) else c
  let c := c.setF (COMP_BIN_STAT_BINNED o) (min b.binned 65536)
  let c := c.setF (COMP_BIN_CYC_CYCLES o) (min (256 + n + b.entries + wait) 0xFFFFFF)
  (c.flag (COMP_EVT_BIN_DONE o)).modOut o fun x => { x with binBusy := false, binned := true }

/-- Without a scene its words are 0. -/
theorem sceneWord_none {o : Nat} {c : Chip} (h : c.scene o = 0) (off : Nat) : sceneWord o off c = ((0, false), c) := by
  unfold sceneWord
  rw [if_pos h]

/-- A binning ends; without a scene it has met no stamp. -/
theorem binFrame_ends (o wait : Nat) (c : Chip) : ∃ n b d, binFrame o wait c = binEnd o wait n b d
    ∧ (c.scene o = 0 → n = 0 ∧ b.binned = 0 ∧ b.entries = 0) := by
  unfold binFrame
  split
  next mb _ c1 h1 =>
  split
  next sb p1 c2 h2 =>
  split
  next sc p2 c3 h3 =>
  extract_lets n bad ok matrixOk
  split
  next b c4 h4 =>
  refine ⟨_, b, _, rfl, fun h0 => ?_⟩
  rw [sceneWord_none h0] at h1
  obtain ⟨-, rfl⟩ := Prod.mk.inj h1
  rw [sceneWord_none h0] at h2
  obtain ⟨-, rfl⟩ := Prod.mk.inj h2
  rw [sceneWord_none h0] at h3
  obtain ⟨hsc, rfl⟩ := Prod.mk.inj h3
  obtain ⟨rfl, -⟩ := Prod.mk.inj hsc
  have hn : n = 0 := by decide
  rw [hn, ite_self] at h4
  obtain ⟨rfl, -⟩ := Prod.mk.inj h4
  exact ⟨hn, rfl, rfl⟩

theorem binEnd_fields (o wait n : Nat) (b : Bins) (c : Chip) :
    let d := binEnd o wait n b c
    d.fb (COMP_EVT_BIN_DONE o) = true ∧ (d.out o).binBusy = false ∧ (d.out o).binned = true
    ∧ d.f (COMP_BIN_STAT_BINNED o) = min b.binned 65536 ∧ d.f (COMP_BIN_CYC_CYCLES o) = min (256 + n + b.entries + wait) 0xFFFFFF := by
  have hstat : COMP_BIN_STAT o ≠ COMP_EVT o ∧ COMP_BIN_CYC o ≠ COMP_EVT o ∧ COMP_BIN_STAT o ≠ COMP_BIN_CYC o := by
    simp only [COMP_BIN_STAT, COMP_BIN_CYC, COMP_EVT]
    omega
  obtain ⟨hse, hce, hsc⟩ := hstat
  unfold binEnd
  dsimp only
  generalize (if b.stampErr = true then _ else _ : Chip) = e
  generalize hf : e.setF (COMP_BIN_STAT_BINNED o) (min b.binned 65536) = f
  generalize hg : f.setF (COMP_BIN_CYC_CYCLES o) (min (256 + n + b.entries + wait) 0xFFFFFF) = g
  have hlast {k : Nat} (hk : k ≠ COMP_EVT o) : (g.flag (COMP_EVT_BIN_DONE o)).reg k = g.reg k := Chip.reg_flag_other g hk
  have hcycles : g.f (COMP_BIN_CYC_CYCLES o) = min (256 + n + b.entries + wait) 0xFFFFFF := by
    have hlt : min (256 + n + b.entries + wait) 0xFFFFFF < 2 ^ 24 := by omega
    rw [← hg, Chip.f_setF_same f _ _ (Nat.zero_le _) (show 23 < 32 by decide)]
    exact Nat.mod_eq_of_lt hlt
  have hbinned : g.f (COMP_BIN_STAT_BINNED o) = min b.binned 65536 := by
    have hlt : min b.binned 65536 < 2 ^ 17 := by omega
    have hkept : g.reg (COMP_BIN_STAT o) = f.reg (COMP_BIN_STAT o) := hg ▸ Chip.reg_setF_other f _ hsc
    rw [Chip.f_congr (x := COMP_BIN_STAT_BINNED o) hkept, ← hf, Chip.f_setF_same e _ _ (Nat.zero_le _) (show 16 < 32 by decide)]
    exact Nat.mod_eq_of_lt hlt
  have hdone : (g.flag (COMP_EVT_BIN_DONE o)).fb (COMP_EVT_BIN_DONE o) = true := Chip.fb_flag_same g _ rfl (show 0 < 32 by decide)
  refine ⟨(fb_modOut ..).trans hdone, ?_, ?_, (Chip.f_congr (x := COMP_BIN_STAT_BINNED o) (hlast hse)).trans hbinned,
    (Chip.f_congr (x := COMP_BIN_CYC_CYCLES o) (hlast hce)).trans hcycles⟩
  · rw [Chip.out_modOut_same]
  · rw [Chip.out_modOut_same]

/-- The end of the binning of a frame. -/
theorem binFrame_fields (o wait : Nat) (c : Chip) :
    let d := binFrame o wait c
    d.fb (COMP_EVT_BIN_DONE o) = true ∧ (d.out o).binBusy = false ∧ (d.out o).binned = true
    ∧ (c.scene o = 0 → d.f (COMP_BIN_STAT_BINNED o) = 0 ∧ d.f (COMP_BIN_CYC_CYCLES o) = min (256 + wait) 0xFFFFFF) := by
  obtain ⟨n, b, e, hend, hnone⟩ := binFrame_ends o wait c
  obtain ⟨hdone, hbusy, hbinned, hstat, hcyc⟩ := binEnd_fields o wait n b e
  dsimp only
  rw [hend]
  refine ⟨hdone, hbusy, hbinned, fun h0 => ?_⟩
  obtain ⟨rfl, hb, he⟩ := hnone h0
  rw [hstat, hcyc, hb, he]
  exact ⟨rfl, rfl⟩

theorem exec_binDone {o : Fin 4} {s : State} {wait : Nat} (hb : (s.chip.out o).binBusy = true) (hm : s.chip.mainRuns = true)
    (hf : s.chip.power.failed.contains (97 + o.val) = false) :
    exec (.binDone o wait) s = .next (s.at (binFrame o wait s.chip)) := by
  have hx : exec (.binDone o wait) s = execBinDone o wait s := rfl
  rw [hx, execBinDone, State.go_eq, hb, hm, hf]
  rfl

end Sys2Proof.Machine
end

section
/-! O58: UNIT_OFFER (R250, R255, R258, R259). -/

namespace Sys2Proof.Machine

/-- What an offer gives the sorter: its next unit, with its place and its route. -/
theorem offerUnit_fields {g n u p i : Nat} {c : Chip} (h : c.mayOffer g n = some (u, p, i)) :
    let d := offerUnit g n c
    (d.comp n).next = u + (c.grp g).members.length ∧ (d.comp n).had = true
    ∧ ∃ k, (d.comp n).offered = some k ∧ k.u = u ∧ k.out = p ∧ k.idx = i ∧ k.line = (c.out p).lineOf i ∧ k.first = (!(c.comp n).had)
      ∧ k.closed = false ∧ (k.route, k.arg) = ((routeLookup n (c.grp g).rtab ((c.out p).lineOf i) c).1.1,
        (routeLookup n (c.grp g).rtab ((c.out p).lineOf i) c).1.2.1) := by
  have hcomp (b : Bool) (d : Chip) : (if b then d.revt g 0 else d).comp n = d.comp n := by
    split <;> rfl
  dsimp only
  unfold offerUnit
  rw [h]
  dsimp only
  rw [hcomp, Chip.comp_modComp_same]
  exact ⟨rfl, rfl, _, rfl, rfl, rfl, rfl, rfl, rfl, rfl, rfl⟩

theorem exec_unitOffer {n : Fin 48} {g : Nat} {s : State} (hm : s.chip.mainRuns = true) (hg : s.chip.groupOf n = some g) :
    exec (.unitOffer n) s = .next (s.at (offerUnit g n s.chip)) := by
  have hx : exec (.unitOffer n) s = execUnitOffer n s := rfl
  rw [hx, execUnitOffer, State.go_eq, hg]
  dsimp only
  rw [if_pos hm]
  rfl

end Sys2Proof.Machine
end

section
/-! O58: FRAME_DONE and BEAM_CAPTURE (R295, R303, R321). -/

namespace Sys2Proof.Machine

/-- The seal and its frame number are latched together with FRAME_DONE (R295, R303). -/
theorem frameDone_fields {o : Nat} (ho : o < 4) (c : Chip) :
    let y := c.out o
    let d := frameDone o c
    d.reg (OUT_SEAL o) = (if y.sealOn then ~~~y.crc else 0) ∧ d.reg (OUT_SEAL_FRAME o) = c.reg (OUT_FRAME_COUNT o)
    ∧ d.regBit (OUT_EVT o) 3 = true ∧ (d.out o).doneFrame = true := by
  have hne := ownRegs_nodup o ho
  simp only [ownRegs, List.nodup_cons, List.mem_cons, List.not_mem_nil, or_false, not_or] at hne
  obtain ⟨-, -, ⟨-, -, hevtS, hevtF, -⟩, -, -, ⟨hsealF, -⟩, -⟩ := hne
  have hsent (b : Bool) (crc : Nat) (d : Chip) :
      (noticeCheck o (if b then ownSeal o (c.reg (OUT_FRAME_COUNT o)).toNat crc d else d)).displaySide = d.displaySide := by
    rw [noticeCheck_displaySide, ite_displaySide, ownSeal_displaySide, ite_self]
  dsimp only
  unfold frameDone
  dsimp only
  generalize (if (c.out o).sealOn = true then ~~~(c.out o).crc else 0) = crc
  generalize c.reg (OUT_FRAME_COUNT o) = frame at hsent
  have hseal : ((c.setReg (OUT_SEAL o) crc).setReg (OUT_SEAL_FRAME o) frame).reg (OUT_SEAL o) = crc := by
    rw [Chip.reg_setReg_other _ _ hsealF, Chip.reg_setReg_same]
  have hframe : ((c.setReg (OUT_SEAL o) crc).setReg (OUT_SEAL_FRAME o) frame).reg (OUT_SEAL_FRAME o) = frame := Chip.reg_setReg_same ..
  generalize (c.setReg (OUT_SEAL o) crc).setReg (OUT_SEAL_FRAME o) frame = d at hseal hframe
  have hevt {k : Nat} (hk : ¬OUT_EVT o = k) : (outEvt o 3 d).reg k = d.reg k := Chip.reg_setReg_other d _ (Ne.symm hk)
  have hset := regBit_outEvt o (n := 3) (by decide) d
  generalize outEvt o 3 d = e at hevt hset
  have hend := Chip.Steady.of_eq (outputSide_of_displaySide ho (hsent (c.out o).sealOn crc.toNat (e.modOut o fun x => { x with doneFrame := true })))
  generalize noticeCheck o _ = f at hend
  have hkeep {k : Nat} (hk : k ∈ ownRegs o) (hne : ¬OUT_EVT o = k) : f.reg k = d.reg k :=
    (hend.reg k (List.mem_append_left _ hk) (Ne.symm hne)).trans (hevt hne)
  refine ⟨(hkeep (by simp [ownRegs]) hevtS).trans hseal, (hkeep (by simp [ownRegs]) hevtF).trans hframe, hend.evt 3 hset, ?_⟩
  rw [hend.get Output.doneFrame fun _ => rfl, Chip.out_modOut_same]

/-- The conditions of FRAME_DONE. -/
theorem exec_frameDone {o : Fin 4} {s : State} (hr : s.chip.running o = true) (hu : s.chip.outUp o = true)
    (hs : (s.chip.out o).starting = false) (hd : (s.chip.out o).doneFrame = false) (hl : (s.chip.out o).lines ≤ (s.chip.out o).rdLine) :
    exec (.frameDone o) s = .next (s.at (frameDone o s.chip)) := by
  have hx : exec (.frameDone o) s = execFrameDone o s := rfl
  rw [hx, execFrameDone, State.go_eq]
  dsimp only
  rw [hr, hu, hs, hd, Nat.ble_eq_true_of_le hl]
  rfl

/-- The edge is kept where the position, moved back, is an active pixel; CAPTURED that is still set becomes LOST (R321). -/
theorem beamCapture_fields {o x : Nat} {c : Chip} :
    let l := c.out (c.lead o)
    let pos := l.v * l.timing.htotal + x - c.f (OUT_CAP_CTL_COMP o)
    let v := pos / l.timing.htotal
    let col := pos % l.timing.htotal
    c.f (OUT_CAP_CTL_COMP o) ≤ l.v * l.timing.htotal + x → l.timing.vstart ≤ v → v < l.timing.vstart + l.lines → col < l.timing.hactive →
      let d := beamCapture o x c
      d.reg (OUT_CAP o) = Word.of (v + 65536 * col + 2 ^ 30 * l.field) ∧ d.regBit (OUT_EVT o) 8 = true
      ∧ d.regBit (OUT_EVT o) 9 = (c.regBit (OUT_EVT o) 8 || c.regBit (OUT_EVT o) 9) ∧ d.mem = c.mem := by
  dsimp only
  intro hcomp hlow hhigh hcol
  have hcap : OUT_CAP o ≠ OUT_EVT o := by
    simp only [OUT_CAP, OUT_EVT]
    omega
  unfold beamCapture
  dsimp only
  generalize c.out (c.lead o) = l at hcomp hlow hhigh hcol ⊢
  have hpos : ((l.v : Int) * (l.timing.htotal : Int) + (x : Int) - (c.f (OUT_CAP_CTL_COMP o) : Int))
      = ((l.v * l.timing.htotal + x - c.f (OUT_CAP_CTL_COMP o) : Nat) : Int) := by
    push_cast [hcomp]
    rfl
  rw [hpos, Int.toNat_natCast]
  generalize l.v * l.timing.htotal + x - c.f (OUT_CAP_CTL_COMP o) = pos at hlow hhigh hcol ⊢
  have hactive : (decide ((pos : Int) < 0) || !within l.timing.vstart (l.timing.vstart + l.lines) (pos / l.timing.htotal)
      || Nat.ble l.timing.hactive (pos % l.timing.htotal)) = false := by
    have hin := (within_iff l.timing.vstart (l.timing.vstart + l.lines) (pos / l.timing.htotal)).mpr ⟨hlow, hhigh⟩
    have hble : Nat.ble l.timing.hactive (pos % l.timing.htotal) = false :=
      Bool.eq_false_iff.mpr fun h => absurd (Nat.le_of_ble_eq_true h) (Nat.not_le.mpr hcol)
    rw [hin, hble]
    simp
  rw [hactive, if_neg Bool.false_ne_true]
  have hlost : (if c.regBit (OUT_EVT o) 8 then outEvt o 9 c else c).regBit (OUT_EVT o) 9 = (c.regBit (OUT_EVT o) 8 || c.regBit (OUT_EVT o) 9) := by
    cases c.regBit (OUT_EVT o) 8
    · rfl
    · exact regBit_outEvt o (by decide) c
  have hmem : (if c.regBit (OUT_EVT o) 8 then outEvt o 9 c else c).mem = c.mem := by
    split
    · exact mem_outEvt ..
    · rfl
  generalize (if c.regBit (OUT_EVT o) 8 then outEvt o 9 c else c) = e at hlost hmem
  generalize Word.of _ = w
  have hword : (e.setReg (OUT_CAP o) w).reg (OUT_CAP o) = w := Chip.reg_setReg_same ..
  have hevt : (e.setReg (OUT_CAP o) w).regBit (OUT_EVT o) 9 = e.regBit (OUT_EVT o) 9 :=
    congrArg (Word.bit · 9) (Chip.reg_setReg_other e w hcap.symm)
  have hkept : (e.setReg (OUT_CAP o) w).mem = e.mem := Chip.setReg_mem ..
  generalize e.setReg (OUT_CAP o) w = f at hword hevt hkept
  exact ⟨(Chip.reg_setReg_other f _ hcap).trans hword, regBit_outEvt o (by decide) f,
    (Chip.regBit_setRegBit_other f true (by decide) (.inr (by decide))).trans (hevt.trans hlost), (mem_outEvt ..).trans (hkept.trans hmem)⟩

/-- The edge on its way to output `o` has passed the synchroniser. -/
def Chip.takeEdge (o : Nat) (c : Chip) : Chip := { c with pins := { c.pins with beam := sset (fun _ => none) c.pins.beam o none } }

theorem exec_beamCapture {o : Fin 4} {x : Fin 16384} {s : State} {level : Bool} (hp : sget (fun _ => none) s.chip.pins.beam o = some level)
    (hr : s.chip.running o = true) (hu : s.chip.outUp o = true) (he : s.chip.fb (OUT_CAP_CTL_EN o) = true)
    (hl : s.chip.capEdge o level = true) (hx : x.val < (s.chip.out (s.chip.lead o)).timing.htotal) :
    exec (.beamCapture o x) s = .next (s.at (beamCapture o x (s.chip.takeEdge o))) := by
  have hexec : exec (.beamCapture o x) s = execBeamCapture o x s := rfl
  have hgo : (s.chip.running o && s.chip.outUp o && s.chip.fb (OUT_CAP_CTL_EN o) && s.chip.capEdge o level
      && Nat.blt x (s.chip.out (s.chip.lead o)).timing.htotal) = true := by
    simp [hr, hu, he, hl, hx]
  rw [hexec, execBeamCapture, State.go_eq, hp]
  dsimp only
  exact congrArg (fun d => (.next (s.at d) : Out)) (if_pos hgo)

end Sys2Proof.Machine
end

section
/-! O58: a read of OUT_CAP (R322). -/

namespace Sys2Proof.Machine

theorem readReg_outCap {o : Nat} (ho : o < 4) (r : Nat) (peek : Bool) (c : Chip) : readReg r peek (OUT_CAP o) c = readOutCap o peek c := by
  have hplace : ∀ o < 4, ¬OUT_CAP o < 0x7000 ∧ OUT_CAP o < 0x10000 ∧ OUT_CAP o ≠ MEM_DLT_ENTRY ∧ OUT_CAP o ≠ DRAMC_RETDATA
      ∧ OUT_CAP o ≠ COMP_COEF_DATA ∧ within 0xC000 0x10000 (OUT_CAP o) = true ∧ OUT_CAP o % 0x1000 = 0x44
      ∧ OUT_CAP o / 0x1000 - 0x0C = o := by decide
  obtain ⟨hlow, hmid, hdlt, hret, hcoef, hin, hoff, hblock⟩ := hplace o ho
  unfold readReg readMid
  rw [if_neg hlow, if_pos hmid, if_neg hdlt, if_neg hret, if_neg hcoef, if_pos hin]
  dsimp only
  rw [hoff, hblock]
  rfl

/-- A read of OUT_CAP gives the word; it takes CAPTURED back, but not a peek (R322). -/
theorem readOutCap_fields {o : Nat} (peek : Bool) (c : Chip) :
    let d := (readOutCap o peek c).2
    d.regBit (OUT_EVT o) 8 = (peek && c.regBit (OUT_EVT o) 8) ∧ (∀ j, j ≠ OUT_EVT o → d.reg j = c.reg j) ∧ d.mem = c.mem := by
  unfold readOutCap
  cases peek
  · exact ⟨Chip.regBit_setRegBit_same c _ false (by decide), fun j hj => Chip.reg_setReg_other c _ hj, Chip.setRegBit_mem ..⟩
  · exact ⟨rfl, fun _ _ => rfl, rfl⟩

theorem exec_outCapRead {o : Fin 4} {r : Fin 256} {s : State} (h : s.chip.answersRead r (OUT_CAP o) = true) (peek : Bool) :
    exec (.outCapRead o r peek) s =
      .next (s.at ((readOutCap o peek s.chip).2.answerTo r (.data (s.chip.reg (OUT_CAP o))))) := by
  have hx : exec (.outCapRead o r peek) s = execOutCapRead o r peek s := rfl
  have hplace : ∀ o : Fin 4, OUT_CAP o < 0x1A000 ∧ OUT_CAP o % 4 = 0 := by decide
  obtain ⟨hlt, h4⟩ := hplace o
  rw [hx, execOutCapRead, State.go_eq, readCmd_eq peek h hlt h4, readReg_outCap o.isLt]
  rfl

end Sys2Proof.Machine
end

section
/-! O58: SORTER_RETIRE and SORTER_RESTORE (R281, R283). -/

namespace Sys2Proof.Machine

/-- Chips whose registers read alike, with one display and one memory. -/
structure Chip.Alike (c d : Chip) : Prop where
  disp : d.disp = c.disp
  mem : d.mem = c.mem
  reg : ∀ k, d.reg k = c.reg k

theorem Chip.Alike.trans {c d e : Chip} (h : c.Alike d) (h' : d.Alike e) : c.Alike e :=
  ⟨h'.disp.trans h.disp, h'.mem.trans h.mem, fun k => (h'.reg k).trans (h.reg k)⟩

/-- A bit written as it reads. -/
theorem Chip.alike_setRegBit (c : Chip) {k i : Nat} {b : Bool} (hi : i < 32) (hb : c.regBit k i = b) : c.Alike (c.setRegBit k i b) := by
  refine ⟨Chip.setRegBit_disp .., Chip.setRegBit_mem .., fun j => ?_⟩
  have hsame : (c.reg k).setBit i b = c.reg k := hb ▸ setBit_bit (c.reg k) hi
  unfold Chip.setRegBit
  rw [hsame]
  exact reg_setReg_self c k j

/-! ### A write of COMP_RETIRE, bit by bit -/

/-- The register of a half of COMP_RETIRE. -/
def retireKey (hi : Bool) : Nat := if hi then COMP_RETIRE_HI else COMP_RETIRE_LO

/-- One bit of a write of COMP_RETIRE. -/
def retireBit (hi : Bool) (v : Word) (i : Nat) (c : Chip) : Chip :=
  if v.bit i then (if c.regBit (retireKey hi) i then c else retireSorter (i + if hi then 32 else 0) c) else c.setRegBit (retireKey hi) i false

theorem writeRetire_eq (hi : Bool) (v : Word) (c : Chip) :
    writeRetire hi v c = forAll (List.range (if hi then 16 else 32)) (retireBit hi v) c := rfl

/-- Bits written as they read change nothing. -/
theorem forAll_retireBit_alike {hi : Bool} {v : Word} {l : List Nat} {c : Chip} (hl : ∀ i ∈ l, i < 32 ∧ c.regBit (retireKey hi) i = v.bit i) :
    c.Alike (forAll l (retireBit hi v) c) := by
  induction l generalizing c with
  | nil => exact ⟨rfl, rfl, fun _ => rfl⟩
  | cons i l ih =>
    rw [List.forall_mem_cons] at hl
    obtain ⟨⟨h32, hi'⟩, hl⟩ := hl
    have hstep : c.Alike (retireBit hi v i c) := by
      unfold retireBit
      split
      next hv =>
        rw [if_pos (hi'.trans hv)]
        exact ⟨rfl, rfl, fun _ => rfl⟩
      next hv => exact c.alike_setRegBit h32 (hi'.trans (Bool.eq_false_iff.mpr hv))
    refine hstep.trans (ih fun j hj => ⟨(hl j hj).1, ?_⟩)
    exact (congrArg (Word.bit · j) (hstep.reg _)).trans (hl j hj).2

/-- A write of COMP_RETIRE as it reads but for bit `i` is the step of that bit between two that change nothing. -/
theorem writeRetire_one {hi b : Bool} {i : Nat} (hlt : i < if hi then 16 else 32) (c : Chip)
    (hstep : ∀ d : Chip, c.Alike d → ∀ j < 32, j ≠ i →
      (retireBit hi ((c.reg (retireKey hi)).setBit i b) i d).regBit (retireKey hi) j = c.regBit (retireKey hi) j) :
    ∃ d, c.Alike d ∧ (retireBit hi ((c.reg (retireKey hi)).setBit i b) i d).Alike
      (writeRetire hi ((c.reg (retireKey hi)).setBit i b) c) := by
  have h32 : (if hi then 16 else 32) ≤ 32 := by cases hi <;> decide
  have hbit {j : Nat} (hj : j ≠ i) : ((c.reg (retireKey hi)).setBit i b).bit j = c.regBit (retireKey hi) j :=
    Word.bit_setBit_other _ b (hlt.trans_le h32) hj
  obtain ⟨l, t, hsplit⟩ := List.append_of_mem (List.mem_range.mpr hlt)
  have hnodup : (l ++ i :: t).Nodup := hsplit ▸ List.nodup_range
  have hrange : ∀ j ∈ l ++ i :: t, j < 32 := fun j hj => (List.mem_range.mp (hsplit ▸ hj)).trans_le h32
  have hout := (List.nodup_cons.mp (List.nodup_middle.mp hnodup)).1
  have hbefore : c.Alike (forAll l (retireBit hi ((c.reg (retireKey hi)).setBit i b)) c) :=
    forAll_retireBit_alike fun j hj => ⟨hrange j (List.mem_append_left _ hj),
      (hbit fun e => hout (List.mem_append_left _ (e ▸ hj))).symm⟩
  refine ⟨_, hbefore, ?_⟩
  rw [writeRetire_eq, hsplit]
  unfold forAll
  rw [List.foldl_append, List.foldl_cons]
  refine forAll_retireBit_alike fun j hj => ?_
  have hne : j ≠ i := fun e => hout (List.mem_append_right _ (e ▸ hj))
  have hj32 := hrange j (List.mem_append_right _ (List.mem_cons_of_mem _ hj))
  exact ⟨hj32, (hstep _ hbefore j hj32 hne).trans (hbit hne).symm⟩

/-! ### The sorter (R281, R283) -/

/-- What is a part of it is as blind to the end of a unit. -/
theorem UnitBlind.map {α β : Type} {p : Chip → α} (hp : UnitBlind p) (q : α → β) : UnitBlind (fun c => q (p c)) :=
  ⟨fun c s f => congrArg q (hp.comp c s f), fun c g u => congrArg q (hp.close c g u),
    fun c _ line half s dropped hg => congrArg q (hp.xstat c line half s dropped hg)⟩

/-- Memory is none of what the end of a unit changes. -/
theorem unitBlind_mem : UnitBlind Chip.mem := unitBlind_unwritten.map Prod.fst

/-- The end of a retired sorter's units in group `g`: the one held is abandoned, the `rest` are dropped while the output runs. -/
def retireUnits (g s : Nat) (run : Bool) (rest : List Nat) (f : Composer → Composer) (c : Chip) : Chip :=
  let c := abandonUnit s c
  let c := if run then forAll rest (fun u c => dropUnit g u s c) c else c
  (c.modComp s f).modGrp g fun x => { x with gone := s :: x.gone }

/-- The retirement of a sorter is recorded and its bit set (R281, R602). -/
def retireRecord (s : Nat) (c : Chip) : Chip :=
  ((c.journal 0 0 (8 + s) 0 s 0).repairAdd 2 s 0).setRegBit (retireReg s).1 (retireReg s).2 true

/-- A sorter that is in no group, or gone from its group before, has no units to end. -/
theorem retireSorter_cases (s : Nat) (c : Chip) :
    let d := retireRecord s c
    (retireSorter s c = d ∧ ∀ g, d.groupOf s = some g → s ∈ (d.grp g).gone)
    ∨ ∃ g run rest f, d.groupOf s = some g ∧ retireSorter s c = (retireUnits g s run rest f d).revt g 4 := by
  have hbit (e : Chip) : (if s < 32 then e.setRegBit COMP_RETIRE_LO s true else e.setRegBit COMP_RETIRE_HI (s - 32) true)
      = e.setRegBit (retireReg s).1 (retireReg s).2 true := by
    unfold retireReg
    split <;> rfl
  unfold retireSorter retireRecord
  dsimp only
  rw [hbit]
  generalize ((c.journal 0 0 (8 + s) 0 s 0).repairAdd 2 s 0).setRegBit (retireReg s).1 (retireReg s).2 true = d
  split
  next hnone => exact .inl ⟨rfl, fun g hg => absurd hg (by rw [hnone]; exact nofun)⟩
  next g hg =>
    split
    next hgone =>
      refine .inl ⟨rfl, fun j hj => ?_⟩
      obtain rfl := Option.some.inj (hg.symm.trans hj)
      simpa using hgone
    next => exact .inr ⟨g, _, _, _, hg, rfl⟩

theorem retireUnits_blind {α : Type} {p : Chip → α} (hp : UnitBlind p) (hgrp : ∀ c g (f : Group → Group), p (c.modGrp g f) = p c)
    {s g : Nat} (hg : g < 4) (run : Bool) (rest : List Nat) (f : Composer → Composer) (c : Chip) :
    p (retireUnits g s run rest f c) = p c := by
  have hdrop : p (if run then forAll rest (fun u c => dropUnit g u s c) (abandonUnit s c) else abandonUnit s c) = p c := by
    split
    · exact (forAll_same (f := fun u c => dropUnit g u s c) (fun u d => hp.dropUnit (hg.trans (by decide)) u s d) rest _).trans (hp.abandonUnit s c)
    · exact hp.abandonUnit s c
  exact (hgrp _ g fun x => { x with gone := s :: x.gone }).trans ((hp.comp _ s f).trans hdrop)

/-- What the record of a retirement leaves of the display and memory. -/
theorem retireRecord_fields (s : Nat) (c : Chip) :
    (∀ k ∈ [COMP_RETIRE_LO, COMP_RETIRE_HI], (retireRecord s c).reg k = (c.setRegBit (retireReg s).1 (retireReg s).2 true).reg k)
    ∧ (retireRecord s c).disp = c.disp ∧ (retireRecord s c).mem = c.mem := by
  have hside : ((c.journal 0 0 (8 + s) 0 s 0).repairAdd 2 s 0).displaySide = c.displaySide :=
    (Chip.repairAdd_displaySide ..).trans (Chip.journal_displaySide ..)
  have hmem : ((c.journal 0 0 (8 + s) 0 s 0).repairAdd 2 s 0).mem = c.mem := (Chip.repairAdd_mem ..).trans (Chip.journal_mem ..)
  unfold retireRecord
  generalize (c.journal 0 0 (8 + s) 0 s 0).repairAdd 2 s 0 = d at hside hmem
  have hshown : ∀ k ∈ [COMP_RETIRE_LO, COMP_RETIRE_HI], displayReg k = true := by decide
  refine ⟨fun k hk => ?_, (Chip.setRegBit_disp ..).trans (Chip.disp_of_displaySide hside), (Chip.setRegBit_mem ..).trans hmem⟩
  unfold Chip.setRegBit
  obtain rfl | hne := eq_or_ne k (retireReg s).1
  · rw [Chip.reg_setReg_same, Chip.reg_setReg_same, Chip.reg_of_displaySide hside (hshown _ hk)]
  · rw [Chip.reg_setReg_other _ _ hne, Chip.reg_setReg_other _ _ hne, Chip.reg_of_displaySide hside (hshown _ hk)]

/-- A retired sorter's bit is set, and it is gone from its group (R281). -/
theorem retireSorter_fields (s : Nat) (c : Chip) :
    (∀ k ∈ [COMP_RETIRE_LO, COMP_RETIRE_HI], (retireSorter s c).reg k = (c.setRegBit (retireReg s).1 (retireReg s).2 true).reg k)
    ∧ (∀ g, c.groupOf s = some g → s ∈ ((retireSorter s c).grp g).gone) ∧ (retireSorter s c).mem = c.mem := by
  obtain ⟨hreg, hdisp, hmem⟩ := retireRecord_fields s c
  have hgroup : c.groupOf s = (retireRecord s c).groupOf s := by
    unfold Chip.groupOf Chip.grp
    rw [hdisp]
  rw [hgroup]
  obtain ⟨he, hgone⟩ | ⟨g, run, rest, f, hg, he⟩ := retireSorter_cases s c
  · rw [he]
    exact ⟨hreg, hgone, hmem⟩
  · have hside (k : Nat) (hk : k ∈ [COMP_RETIRE_LO, COMP_RETIRE_HI]) : (retireSorter s c).reg k = (retireRecord s c).reg k := by
      have hmem : k ∈ steadyRegs 0 := List.mem_append_right _ (by simp at hk ⊢; tauto)
      rw [he]
      exact Chip.reg_of_outputSide ((revt_outputSide (by decide) g 4 _).trans
        (retireUnits_blind (unitBlind_outputSide (by decide)) (fun _ _ _ => rfl) (groupOf_lt hg) run rest f _)) hmem
    refine ⟨fun k hk => (hside k hk).trans (hreg k hk), fun j hj => ?_, ?_⟩
    · obtain rfl := Option.some.inj (hg.symm.trans hj)
      have hrevt (d : Chip) : (d.revt g 4).grp g = d.grp g := rfl
      rw [he, hrevt, retireUnits, Chip.grp_modGrp_same]
      exact List.mem_cons_self
    · rw [he]
      exact (Chip.setRegBit_mem ..).trans ((retireUnits_blind unitBlind_mem (fun _ _ _ => rfl) (groupOf_lt hg) run rest f _).trans hmem)

/-! ### The commands -/

/-- Which half of COMP_RETIRE a sorter's bit is in. -/
theorem retireReg_place : ∀ n : Fin 48, (retireReg n).1 = retireKey (decide (32 ≤ n.val)) ∧ (retireReg n).1 ∈ [COMP_RETIRE_LO, COMP_RETIRE_HI]
    ∧ ((retireReg n).2 < if decide (32 ≤ n.val) then 16 else 32) ∧ (retireReg n).2 < 32
    ∧ (retireReg n).2 + (if decide (32 ≤ n.val) then 32 else 0) = n := by decide

theorem retireReg_inj : ∀ n : Fin 48, ∀ k < 48, k ≠ n.val → (retireReg k).1 ≠ (retireReg n).1 ∨ (retireReg k).2 ≠ (retireReg n).2 := by decide

theorem retired_eq (n : Nat) (c : Chip) : c.retired n = c.regBit (retireReg n).1 (retireReg n).2 := by
  unfold Chip.retired retireReg
  split <;> rfl

/-- A chip on which sorter `n`'s bit has been written `b`. -/
theorem retired_setRegBit {n : Fin 48} {b : Bool} {c d : Chip}
    (h : ∀ k ∈ [COMP_RETIRE_LO, COMP_RETIRE_HI], d.reg k = (c.setRegBit (retireReg n).1 (retireReg n).2 b).reg k) :
    d.retired n = b ∧ ∀ k, k < 48 → k ≠ n.val → d.retired k = c.retired k := by
  obtain ⟨-, -, -, hn, -⟩ := retireReg_place n
  have hbit (k : Fin 48) : d.retired k = (c.setRegBit (retireReg n).1 (retireReg n).2 b).regBit (retireReg k).1 (retireReg k).2 := by
    obtain ⟨-, hmem, -⟩ := retireReg_place k
    exact (retired_eq k d).trans (congrArg (Word.bit · (retireReg k).2) (h _ hmem))
  refine ⟨(hbit n).trans (Chip.regBit_setRegBit_same c _ b hn), fun k hk hne => ?_⟩
  rw [hbit ⟨k, hk⟩, Chip.regBit_setRegBit_other c b hn (retireReg_inj n k hk hne), retired_eq]

theorem Chip.Alike.groupOf {c d : Chip} (h : c.Alike d) (s : Nat) : d.groupOf s = c.groupOf s := by
  unfold Chip.groupOf Chip.grp
  rw [h.disp]

/-- Reads after a bit is set do not tell alike chips apart. -/
theorem Chip.Alike.setRegBit_reg {c d : Chip} (h : c.Alike d) (k i : Nat) (b : Bool) (j : Nat) :
    (d.setRegBit k i b).reg j = (c.setRegBit k i b).reg j := by
  unfold Chip.setRegBit
  obtain rfl | hne := eq_or_ne j k
  · rw [Chip.reg_setReg_same, Chip.reg_setReg_same, h.reg]
  · rw [Chip.reg_setReg_other _ _ hne, Chip.reg_setReg_other _ _ hne, h.reg]

/-- A write of COMP_RETIRE that changes sorter `n`'s bit to `b` does what the step of that bit does. -/
theorem writeRetire_bit (n : Fin 48) {b : Bool} {c : Chip} {f : Chip → Chip}
    (hf : ∀ d, c.Alike d → retireBit (decide (32 ≤ n.val)) ((c.reg (retireReg n).1).setBit (retireReg n).2 b) (retireReg n).2 d = f d)
    (hreg : ∀ d, c.Alike d → ∀ k ∈ [COMP_RETIRE_LO, COMP_RETIRE_HI], (f d).reg k = (c.setRegBit (retireReg n).1 (retireReg n).2 b).reg k) :
    let e := writeRetire (decide (32 ≤ n.val)) ((c.reg (retireReg n).1).setBit (retireReg n).2 b) c
    e.retired n = b ∧ (∀ k, k < 48 → k ≠ n.val → e.retired k = c.retired k) ∧ ∃ d, c.Alike d ∧ (f d).Alike e := by
  obtain ⟨hkey, hin, hlt, h32, -⟩ := retireReg_place n
  have hone := writeRetire_one (b := b) hlt c
  rw [← hkey] at hone
  obtain ⟨d, hd, he⟩ := hone fun d hd j _ hne => by
    rw [hf d hd]
    exact (congrArg (Word.bit · j) (hreg d hd _ hin)).trans (Chip.regBit_setRegBit_other c b h32 (.inr hne))
  rw [hf d hd] at he
  obtain ⟨hself, hother⟩ := retired_setRegBit fun k hk => (he.reg k).trans (hreg d hd k hk)
  exact ⟨hself, hother, d, hd, he⟩

/-- SORTER_RETIRE's write (R281). -/
theorem writeRetire_retire (n : Fin 48) {c : Chip} (hn : c.retired n = false) :
    let e := writeRetire (decide (32 ≤ n.val)) ((c.reg (retireReg n).1).setBit (retireReg n).2 true) c
    e.retired n = true ∧ (∀ k, k < 48 → k ≠ n.val → e.retired k = c.retired k) ∧ (∀ g, c.groupOf n = some g → n.val ∈ (e.grp g).gone)
    ∧ e.mem = c.mem := by
  obtain ⟨hkey, -, -, h32, hsorter⟩ := retireReg_place n
  rw [retired_eq] at hn
  have hstep (d : Chip) (hd : c.Alike d) :
      retireBit (decide (32 ≤ n.val)) ((c.reg (retireReg n).1).setBit (retireReg n).2 true) (retireReg n).2 d = retireSorter n d := by
    have hclear : d.regBit (retireReg n).1 (retireReg n).2 = false := (congrArg (Word.bit · _) (hd.reg _)).trans hn
    unfold retireBit
    rw [if_pos (Word.bit_setBit_same _ true h32), ← hkey, hclear, hsorter]
    rfl
  obtain ⟨hself, hother, d, hd, he⟩ := writeRetire_bit n hstep fun d hd k hk =>
    ((retireSorter_fields n d).1 k hk).trans (hd.setRegBit_reg ..)
  obtain ⟨-, hgone, hmem⟩ := retireSorter_fields n d
  refine ⟨hself, hother, fun g hg => ?_, he.mem.trans (hmem.trans hd.mem)⟩
  have hgrp : (writeRetire (decide (32 ≤ n.val)) ((c.reg (retireReg n).1).setBit (retireReg n).2 true) c).grp g = (retireSorter n d).grp g := by
    unfold Chip.grp
    rw [he.disp]
  rw [hgrp]
  exact hgone g ((hd.groupOf n).trans hg)

/-- SORTER_RESTORE's write (R283). -/
theorem writeRetire_restore (n : Fin 48) (c : Chip) :
    let e := writeRetire (decide (32 ≤ n.val)) ((c.reg (retireReg n).1).setBit (retireReg n).2 false) c
    e.retired n = false ∧ (∀ k, k < 48 → k ≠ n.val → e.retired k = c.retired k) ∧ e.disp = c.disp ∧ e.mem = c.mem := by
  obtain ⟨hkey, -, -, h32, -⟩ := retireReg_place n
  have hstep (d : Chip) (_ : c.Alike d) :
      retireBit (decide (32 ≤ n.val)) ((c.reg (retireReg n).1).setBit (retireReg n).2 false) (retireReg n).2 d
        = d.setRegBit (retireReg n).1 (retireReg n).2 false := by
    unfold retireBit
    rw [Word.bit_setBit_same _ false h32, ← hkey]
    rfl
  obtain ⟨hself, hother, d, hd, he⟩ := writeRetire_bit n hstep fun d hd k _ => hd.setRegBit_reg ..
  exact ⟨hself, hother, he.disp.trans ((Chip.setRegBit_disp ..).trans hd.disp), he.mem.trans ((Chip.setRegBit_mem ..).trans hd.mem)⟩

theorem writeCmd_retire {n : Fin 48} {m : Nat} {c : Chip} (h : c.takesWrite m (retireReg n).1 = true) (v : Word) :
    writeCmd m (retireReg n).1 v c = writeRetire (decide (32 ≤ n.val)) v c := by
  have hplace : ∀ hi, retireKey hi < 0x1A000 ∧ retireKey hi % 4 = 0 ∧ ¬retireKey hi < 0x7000 ∧ retireKey hi < 0x10000 := by decide
  have hmid : ∀ hi, writeMid m (retireKey hi) v c = writeRetire hi v c := by
    intro hi
    cases hi <;> rfl
  obtain ⟨hkey, -⟩ := retireReg_place n
  rw [hkey] at h ⊢
  obtain ⟨hlt, h4, hlow, hhigh⟩ := hplace (decide (32 ≤ n.val))
  rw [writeCmd_eq v (takesWrite_reads h) hlt h4, writeReg_eq v h, if_neg hlow, if_pos hhigh, hmid]

theorem exec_sorterRetire (m : BitVec 12) {n : Fin 48} {s : State} (h : s.chip.takesWrite m.toNat (retireReg n).1 = true) :
    exec (.sorterRetire m n) s = .next (s.at (writeRetire (decide (32 ≤ n.val))
      ((s.chip.reg (retireReg n).1).setBit (retireReg n).2 true) s.chip)) := by
  have hx : exec (.sorterRetire m n) s = execSorterRetire m n s := rfl
  rw [hx, execSorterRetire, State.go_eq, writeCmd_retire h]
  rfl

theorem exec_sorterRestore (m : BitVec 12) {n : Fin 48} {s : State} (h : s.chip.takesWrite m.toNat (retireReg n).1 = true) :
    exec (.sorterRestore m n) s = .next (s.at (writeRetire (decide (32 ≤ n.val))
      ((s.chip.reg (retireReg n).1).setBit (retireReg n).2 false) s.chip)) := by
  have hx : exec (.sorterRestore m n) s = execSorterRestore m n s := rfl
  rw [hx, execSorterRestore, State.go_eq, writeCmd_retire h]
  rfl

end Sys2Proof.Machine
end

section
/-! O58: LINE_TIMED_WRITE_PERFORM (R270, R301). -/

namespace Sys2Proof.Machine

/-! ### A whole-word store in a memory of 32-bit words -/

/-- The bytes after a store of a whole word. -/
theorem byte_storeWord {r : Region} {bs : List Byte} (hl : bs.length = eccWidth r) (k pa a : Nat) (c : Chip) :
    (c.storeWord r k (placed pa bs)).byte a = if pa ≤ a ∧ a < pa + bs.length then bs.getD (a - pa) 0 else c.byte a := by
  have hw : (placed pa bs).length = eccWidth r := (length_placed bs pa).trans hl
  have hmem : (c.storeWord r k (placed pa bs)).mem = ((c.freshWord r k).setBytes pa bs).mem := by
    unfold Chip.storeWord
    rw [if_pos hw]
    dsimp only
    rw [Chip.plant_mem, putBytes_placed]
  have hfresh : (c.freshWord r k).byte a = c.byte a := congrArg (fun m => sget memDefault m a) (Chip.freshWord_mem ..)
  have hbyte := Chip.byte_setBytes bs (c.freshWord r k) pa a
  rw [hfresh] at hbyte
  rw [← hbyte]
  unfold Chip.byte
  rw [hmem]

/-- A store that begins with a word of a palette. -/
theorem storeChunks_palette (c : Chip) (o fuel : Nat) {pa : Nat} (hpa : pa % 4 = 0) {bs : List Byte} (hl : bs.length ≠ 0) :
    c.storeChunks (.palette o) (fuel + 1) pa bs
      = (c.storeWord (.palette o) (eccKey (.palette o) pa) (placed pa (bs.take 4))).storeChunks (.palette o) fuel (pa + 4) (bs.drop 4) := by
  have hwidth : c.storeWidth (.palette o) pa = 4 := rfl
  cases bs with
  | nil => exact absurd rfl hl
  | cons b t =>
    rw [Chip.storeChunks, hwidth, hpa]
    · rfl
    · exact nofun

/-- An entry of a palette is stored as two words (R239). -/
theorem byte_memStore_palette {o pa : Nat} (hpa : pa % 4 = 0) {bs : List Byte} (hl : bs.length = 8) (a : Nat) (c : Chip) :
    (c.memStore (.palette o) pa bs).byte a = if pa ≤ a ∧ a < pa + 8 then bs.getD (a - pa) 0 else c.byte a := by
  have hlow : (bs.take 4).length = 4 := by simp [hl]
  have hhigh : (bs.drop 4).length = 4 := by simp [hl]
  have hstore : c.memStore (.palette o) pa bs
      = (c.storeWord (.palette o) (eccKey (.palette o) pa) (placed pa (bs.take 4))).storeWord (.palette o) (eccKey (.palette o) (pa + 4))
          (placed (pa + 4) (bs.drop 4)) := by
    have hplain : c.memStore (.palette o) pa bs = c.storeChunks (.palette o) bs.length pa bs := rfl
    rw [hplain, hl, storeChunks_palette c o 7 hpa (by omega), storeChunks_palette _ o 6 (by omega) (by omega),
      List.take_of_length_le hhigh.le, List.drop_of_length_le hhigh.le]
    rfl
  rw [hstore, byte_storeWord hhigh, byte_storeWord hlow, hlow, hhigh]
  by_cases hin : pa ≤ a ∧ a < pa + 8
  · rw [if_pos hin]
    split
    next hupper =>
      rw [List.getD_eq_getElem?_getD, List.getD_eq_getElem?_getD, List.getElem?_drop]
      congr 2
      omega
    next hupper =>
      have hlower : pa ≤ a ∧ a < pa + 4 := by omega
      rw [if_pos hlower, List.getD_eq_getElem?_getD, List.getD_eq_getElem?_getD, List.getElem?_take_of_lt (by omega)]
  · rw [if_neg hin, if_neg (by omega), if_neg (by omega)]

/-! ### The first write that is due -/

theorem performDue_one {o : Nat} {due : LineWrite → Bool} {c : Chip} {w : LineWrite}
    (h : firstWrite ((c.grp (c.logGroup o)).log.filter fun w => w.out == o && w.closed && due w) = some w) :
    performDue o due 1 c = performWrite w c ∧ w.out = o := by
  refine ⟨?_, ?_⟩
  · unfold performDue
    rw [h]
    rfl
  · have hdue := List.of_mem_filter (firstWrite_mem h)
    simp only [Bool.and_eq_true, beq_iff_eq] at hdue
    exact hdue.1.1

/-- A write that is performed leaves its place; it takes OUT_BGCOLOR or an entry of the palette (R270). -/
theorem performWrite_fields (w : LineWrite) (c : Chip) :
    let g := c.logGroup w.out
    let d := performWrite w c
    (d.grp g).log = (c.grp g).log.erase w
    ∧ (w.entry = none → d.reg (OUT_BGCOLOR w.out) = Word.of (w.val % 2 ^ 30) ∧ (∀ j, j ≠ OUT_BGCOLOR w.out → d.reg j = c.reg j) ∧ d.mem = c.mem)
    ∧ ∀ e, w.entry = some e → ∀ a, d.byte a =
        let b := 0x1018000000 + w.out * 0x20000 + e * 8
        if b ≤ a ∧ a < b + 8 then (leBytes 8 w.val).getD (a - b) 0 else c.byte a := by
  have herase : ((c.modGrp (c.logGroup w.out) fun x => { x with log := x.log.erase w }).grp (c.logGroup w.out)).log
      = (c.grp (c.logGroup w.out)).log.erase w := by
    rw [Chip.grp_modGrp_same]
  have hbytes (a : Nat) : (c.modGrp (c.logGroup w.out) fun x => { x with log := x.log.erase w }).byte a = c.byte a := rfl
  have hregs (k : Nat) : (c.modGrp (c.logGroup w.out) fun x => { x with log := x.log.erase w }).reg k = c.reg k := rfl
  have hmem : (c.modGrp (c.logGroup w.out) fun x => { x with log := x.log.erase w }).mem = c.mem := rfl
  dsimp only
  unfold performWrite
  dsimp only
  generalize (c.modGrp (c.logGroup w.out) fun x => { x with log := x.log.erase w }) = f at herase hbytes hregs hmem
  cases hentry : w.entry with
  | none =>
    refine ⟨herase, fun _ => ⟨Chip.reg_setReg_same .., fun j hj => (Chip.reg_setReg_other f _ hj).trans (hregs j), ?_⟩, nofun⟩
    exact (Chip.setReg_mem ..).trans hmem
  | some e =>
    dsimp only
    refine ⟨?_, nofun, fun e' he a => ?_⟩
    · unfold Chip.grp at herase ⊢
      rw [Chip.disp_of_displaySide (Chip.memStore_displaySide ..)]
      exact herase
    · obtain rfl := Option.some.inj he
      rw [byte_memStore_palette (by omega) (leBytes_length 8 w.val), hbytes]

/-- The write `w` is due while the beam stands in line `l`: in an earlier line, or at a pixel of this one that the beam has reached and that
is no fill pixel (R301). -/
def Chip.writeDue (c : Chip) (o l : Nat) (w : LineWrite) : Bool :=
  let x := c.out o
  let lim := match x.lateFrom with | some p => min p x.timing.hactive | none => x.timing.hactive
  Nat.blt w.line l || (w.line == l && Nat.blt w.pixel lim && Nat.ble w.pixel (c.beamX (c.lead o)))

theorem exec_lineTimedWrite {o : Fin 4} {s : State} {l : Nat} (hr : s.chip.running o = true) (hu : s.chip.outUp o = true)
    (hl : s.chip.beamLine o = some l) :
    exec (.lineTimedWritePerform o) s = .next (s.at (performDue o (s.chip.writeDue o l) 1 s.chip)) := by
  have hx : exec (.lineTimedWritePerform o) s = execLineTimedWritePerform o s := rfl
  rw [hx, execLineTimedWritePerform, State.go_eq, hl]
  dsimp only
  rw [hr, hu]
  rfl

end Sys2Proof.Machine
end

section
/-! O58: the output stage reads a segment (R253, R297 to R300). -/

namespace Sys2Proof.Machine

/-! ### What the reads of a segment leave of the output -/

/-- From `c` to `d` output `o` reads on in the same line: a line that shows fill pixels shows them on, events are added. -/
structure Chip.Reads (o : Nat) (c d : Chip) : Prop where
  line : (d.out o).rdLine = (c.out o).rdLine
  fill : (c.out o).fill = true → (d.out o).fill = true
  evt : ∀ n, c.regBit (OUT_EVT o) n = true → d.regBit (OUT_EVT o) n = true

namespace Chip.Reads
variable {o : Nat} {c d e : Chip}

theorem refl (o : Nat) (c : Chip) : c.Reads o c := ⟨rfl, id, fun _ => id⟩

theorem trans (h : c.Reads o d) (h' : d.Reads o e) : c.Reads o e :=
  ⟨h'.line.trans h.line, fun hc => h'.fill (h.fill hc), fun n hn => h'.evt n (h.evt n hn)⟩

theorem of_steady (h : c.Steady o d) : c.Reads o d :=
  ⟨h.get Output.rdLine fun _ => rfl, fun hc => (h.get Output.fill fun _ => rfl).trans hc, h.evt⟩

theorem of_side (ho : o < 4) (h : d.displaySide = c.displaySide) : c.Reads o d := of_steady (.of_eq (outputSide_of_displaySide ho h))

theorem ite {p : Prop} [Decidable p] {a b : Chip} (ha : c.Reads o a) (hb : c.Reads o b) : c.Reads o (if p then a else b) := by
  split
  · exact ha
  · exact hb

theorem forAll {α : Type} {l : List α} {f : α → Chip → Chip} (h : ∀ a (d : Chip), d.Reads o (f a d)) (c : Chip) :
    c.Reads o (Machine.forAll l f c) := by
  induction l generalizing c with
  | nil => exact refl o c
  | cons a t ih => exact (h a c).trans (ih _)

/-- A change of the output that keeps its line and its fill. -/
theorem modOut (c : Chip) {f : Output → Output} (hline : ∀ x, (f x).rdLine = x.rdLine) (hfill : ∀ x : Output, x.fill = true → (f x).fill = true) :
    c.Reads o (c.modOut o f) := by
  refine ⟨?_, fun hc => ?_, fun _ => id⟩
  · rw [Chip.out_modOut_same, hline]
  · rw [Chip.out_modOut_same]
    exact hfill _ hc

end Chip.Reads

/-- A line that shows its first fill pixel: the event is set, and the line is one of fill pixels. -/
theorem startFill_reads {o n : Nat} (ho : o < 4) (hn : n < 32) (c : Chip) :
    c.Reads o (startFill o n c) ∧ (startFill o n c).regBit (OUT_EVT o) n = true ∧ ((startFill o n c).out o).fill = true := by
  have hevt := Chip.Reads.of_steady (.outEvt ho (ho.trans (by decide)) hn c)
  have hset := regBit_outEvt o hn c
  unfold startFill
  dsimp only
  generalize outEvt o n c = d at hevt hset
  split
  next hfill => exact ⟨hevt, hset, hfill⟩
  next =>
    refine ⟨hevt.trans (.modOut d (fun _ => rfl) fun _ _ => rfl), hset, ?_⟩
    rw [Chip.out_modOut_same]

/-! ### The parts of a pixel -/

/-- A pixel read with an error makes the rest of its line fill pixels. -/
def stageIn (o : Nat) (bad : Bool) (r : Nat) (c : Chip) : Chip :=
  if !(c.out o).fill && (bad || r.testBit 30) then (startFill o 5 c).poisonRecord (104 + o) 0 else c

/-- The value of a pixel: what the ring holds, or OUT_BGCOLOR. -/
def Chip.stageValue (o line x r : Nat) (c : Chip) : Nat := if (c.out o).fill then c.fillPx o line x else r % 2 ^ 30

/-- A pixel enters the seal. -/
def stageCrc (o v : Nat) (c : Chip) : Chip :=
  c.modOut o fun y => { y with crc := (leBytes 4 (v + 2 ^ 30 * (c.out o).fill.toNat)).foldl crcByte y.crc }

/-- A pixel is overlaid and sent. -/
def stageOut (o line : Nat) (gs : List NoticeRegion) (x v : Nat) (c : Chip) : Chip :=
  let ((w, late), c) := overlayPx o gs (x + c.colOffset o) line v c
  let c := if late then noticeLate o ((gs.find? fun g => g.has (x + c.colOffset o) line).elim 0 fun g => 2 ^ g.idx) c else c
  c.modOut o fun y => { y with sent := (if y.timing.bpc8 && y.timing.kind != 2 then narrow8 w else w) :: y.sent }

theorem stagePx_eq (o line : Nat) (gs : List NoticeRegion) (bad : Bool) (x : Nat) (c : Chip) :
    stagePx o line gs bad x c =
      let r := sget z0 c.disp.ring ((o * 16 + (c.out o).rdLine % 16) * 4096 + x)
      let d := stageIn o bad r c
      let v := d.stageValue o line x r
      stageOut o line gs x v (stageCrc o v d) := rfl

section
variable {o : Nat} (ho : o < 4)
include ho

theorem stageIn_reads (bad : Bool) (r : Nat) (c : Chip) : c.Reads o (stageIn o bad r c) :=
  .ite ((startFill_reads ho (by decide) c).1.trans (.of_side ho (Chip.poisonRecord_displaySide ..))) (.refl o c)

omit ho in
theorem stageCrc_reads (v : Nat) (c : Chip) : c.Reads o (stageCrc o v c) := .modOut c (fun _ => rfl) fun _ => id

theorem stageOut_reads (line : Nat) (gs : List NoticeRegion) (x v : Nat) (c : Chip) : c.Reads o (stageOut o line gs x v c) := by
  have hread : c.Reads o (overlayPx o gs (x + c.colOffset o) line v c).2 := .of_side ho (overlayPx_displaySide ..)
  unfold stageOut
  dsimp only
  generalize overlayPx o gs (x + c.colOffset o) line v c = p at hread
  refine hread.trans (Chip.Reads.trans ?_ (.modOut _ (fun _ => rfl) fun _ => id))
  exact .ite (.of_side ho (noticeLate_displaySide ..)) (.refl o p.2)

theorem stagePx_reads (line : Nat) (gs : List NoticeRegion) (bad : Bool) (x : Nat) (c : Chip) : c.Reads o (stagePx o line gs bad x c) := by
  rw [stagePx_eq]
  exact ((stageIn_reads ho bad _ c).trans (stageCrc_reads _ _)).trans (stageOut_reads ho line gs x _ _)

end

/-! ### The parts of a segment -/

/-- The first segment of a line begins the line. -/
def segBegin (o j : Nat) (c : Chip) : Chip := if j = 0 then c.modOut o fun x => { x with fill := false, lateFrom := none, sent := [] } else c

/-- A segment that is not committed: UNDERRUN, fill pixels, and the line's unit is missed (R279, R298). -/
def segLate (o i j : Nat) (c : Chip) : Chip :=
  if !(c.out o).fill && !c.committed o (i % 16) j then
    missLine o i ((startFill o 4 c).modOut o fun x => { x with lateFrom := some (512 * j) })
  else c

/-- The pixels of a segment, under the notices' regions. -/
def segPixels (o j line hactive : Nat) (parity : Option Nat) (c : Chip) : Chip :=
  let ((gs, p), c) := if c.fu.vdd && c.fu.ready then readRegions o c else (([], false), c)
  let c := if p then noticeLate o 256 c else c
  forAll ((List.range 512).filter fun k => Nat.blt (512 * j + k) hactive) (fun k c =>
    stagePx o line gs (parity == some k) (512 * j + k) c) c

/-- A line read to its end is free again; else its next segment follows. -/
def segEnd (o i j segs : Nat) (c : Chip) : Chip :=
  if Nat.ble segs (j + 1) then
    (forAll (List.range segs) (fun k c => setCommit o (i % 16) k false c) c).modOut o fun x => { x with rdLine := i + 1, rdSeg := 0 }
  else c.modOut o fun x => { x with rdSeg := j + 1 }

theorem readSegment_eq (o : Nat) (parity : Option Nat) (c : Chip) :
    readSegment o parity c =
      let x := c.out o
      segEnd o x.rdLine x.rdSeg ((x.timing.hactive + 511) / 512)
        (segPixels o x.rdSeg (x.lineOf x.rdLine) x.timing.hactive parity (segLate o x.rdLine x.rdSeg (segBegin o x.rdSeg c))) := rfl

theorem segBegin_line (o j : Nat) (c : Chip) : ((segBegin o j c).out o).rdLine = (c.out o).rdLine := by
  unfold segBegin
  split
  · rw [Chip.out_modOut_same]
  · rfl

/-- A line begins without fill pixels. -/
theorem segBegin_fill {o : Nat} {c : Chip} (h : (c.out o).rdSeg = 0 ∨ (c.out o).fill = false) :
    ((segBegin o (c.out o).rdSeg c).out o).fill = false := by
  unfold segBegin
  split
  · rw [Chip.out_modOut_same]
  next hj => exact h.resolve_left hj

theorem committed_segBegin (o j slot seg : Nat) (c : Chip) : (segBegin o j c).committed o slot seg = c.committed o slot seg := by
  unfold segBegin
  split <;> rfl

theorem segLate_reads {o : Nat} (ho : o < 4) (i j : Nat) (c : Chip) : c.Reads o (segLate o i j c) := by
  have hfill := (startFill_reads ho (n := 4) (by decide) c).1
  have hmiss (d : Chip) : d.Reads o (missLine o i d) :=
    .of_steady (.of_eq ((unitBlind_outputSide ho).missLine (ho.trans (by decide)) i d))
  unfold segLate
  split
  · generalize startFill o 4 c = d at hfill
    exact (hfill.trans (.modOut d (f := fun x => { x with lateFrom := some (512 * j) }) (fun _ => rfl) fun _ => id)).trans (hmiss _)
  · exact .refl o c

/-- A segment that is not committed makes the rest of the line fill pixels. -/
theorem segLate_late {o i j : Nat} (ho : o < 4) {c : Chip} (hf : (c.out o).fill = false) (hc : c.committed o (i % 16) j = false) :
    (segLate o i j c).regBit (OUT_EVT o) 4 = true ∧ ((segLate o i j c).out o).fill = true := by
  have hstart := (startFill_reads ho (n := 4) (by decide) c).2
  have hmiss (d : Chip) : d.Reads o (missLine o i d) :=
    .of_steady (.of_eq ((unitBlind_outputSide ho).missLine (ho.trans (by decide)) i d))
  unfold segLate
  rw [hf, hc, if_pos (by rfl)]
  generalize startFill o 4 c = d at hstart
  obtain ⟨hset, hfill⟩ := hstart
  have hafter := (Chip.Reads.modOut (o := o) d (f := fun x => { x with lateFrom := some (512 * j) }) (fun _ => rfl) fun _ => id).trans (hmiss _)
  exact ⟨hafter.evt 4 hset, hafter.fill hfill⟩

theorem segPixels_reads {o : Nat} (ho : o < 4) (j line hactive : Nat) (parity : Option Nat) (c : Chip) :
    c.Reads o (segPixels o j line hactive parity c) := by
  have hregions : c.Reads o (if c.fu.vdd && c.fu.ready then readRegions o c else (([], false), c)).2 := by
    rw [ite_snd]
    exact .ite (.of_side ho (readRegions_displaySide o c)) (.refl o c)
  unfold segPixels
  dsimp only
  generalize (if (c.fu.vdd && c.fu.ready) = true then readRegions o c else (([], false), c)) = p at hregions
  refine (hregions.trans (.ite (.of_side ho (noticeLate_displaySide ..)) (.refl o p.2))).trans (.forAll (fun k d => ?_) _)
  exact stagePx_reads ho line p.1.1 (parity == some k) (512 * j + k) d

/-- The segments of a line that has been read are committed no longer. -/
theorem committed_forAll_setCommit {o slot : Nat} {l : List Nat} {j : Nat} (hj : j ∈ l) (c : Chip) :
    (forAll l (fun k c => setCommit o slot k false c) c).committed o slot j = false := by
  have hstep (k : Nat) (d : Chip) (h : k = j ∨ d.committed o slot j = false) : (setCommit o slot k false d).committed o slot j = false := by
    unfold setCommit Chip.committed at *
    rw [sget_sset]
    split
    · rfl
    next hne => exact h.resolve_left fun e => hne (e ▸ rfl)
  have hstay (t : List Nat) (d : Chip) (h : d.committed o slot j = false) :
      (forAll t (fun k c => setCommit o slot k false c) d).committed o slot j = false := by
    induction t generalizing d with
    | nil => exact h
    | cons k t ih => exact ih _ (hstep k d (.inr h))
  induction l generalizing c with
  | nil => cases hj
  | cons k t ih =>
    rcases List.mem_cons.mp hj with rfl | hmem
    · exact hstay t _ (hstep j c (.inl rfl))
    · exact ih hmem _

theorem segEnd_fields (o i j segs : Nat) {c : Chip} (hl : (c.out o).rdLine = i) :
    let d := segEnd o i j segs c
    (if j + 1 < segs then (d.out o).rdLine = i ∧ (d.out o).rdSeg = j + 1
      else (d.out o).rdLine = i + 1 ∧ (d.out o).rdSeg = 0 ∧ ∀ k, k < segs → d.committed o (i % 16) k = false)
    ∧ (d.out o).fill = (c.out o).fill ∧ (d.out o).sent = (c.out o).sent ∧ (∀ k, d.reg k = c.reg k) ∧ d.mem = c.mem := by
  have hfree (l : List Nat) : (forAll l (fun k c => setCommit o (i % 16) k false c) c).out o = c.out o
      ∧ (∀ k, (forAll l (fun k c => setCommit o (i % 16) k false c) c).reg k = c.reg k)
      ∧ (forAll l (fun k c => setCommit o (i % 16) k false c) c).mem = c.mem :=
    ⟨forAll_same (p := (Chip.out · o)) (f := fun k c => setCommit o (i % 16) k false c) (fun _ _ => rfl) l c,
      fun k => forAll_same (p := (Chip.reg · k)) (f := fun k c => setCommit o (i % 16) k false c) (fun _ _ => rfl) l c,
      forAll_same (p := Chip.mem) (f := fun k c => setCommit o (i % 16) k false c) (fun _ _ => rfl) l c⟩
  dsimp only
  unfold segEnd
  by_cases hlast : j + 1 < segs
  · have hble : ¬Nat.ble segs (j + 1) = true := fun h => absurd (Nat.le_of_ble_eq_true h) (Nat.not_le.mpr hlast)
    rw [if_pos hlast, if_neg hble, Chip.out_modOut_same]
    exact ⟨⟨hl, rfl⟩, rfl, rfl, fun _ => rfl, rfl⟩
  · have hdone (k : Nat) (hk : k < segs) := committed_forAll_setCommit (o := o) (slot := i % 16) (List.mem_range.mpr hk) c
    obtain ⟨hout, hreg, hmem⟩ := hfree (List.range segs)
    rw [if_neg hlast, if_pos (Nat.ble_eq_true_of_le (Nat.not_lt.mp hlast)), Chip.out_modOut_same]
    generalize forAll (List.range segs) (fun k c => setCommit o (i % 16) k false c) c = d at hdone hout hreg hmem
    rw [hout]
    exact ⟨⟨rfl, rfl, hdone⟩, rfl, rfl, hreg, hmem⟩

/-- A segment read: the next one follows, or the line is done; a segment that is not committed makes an underrun (R297, R298). -/
theorem readSegment_fields {o : Nat} (ho : o < 4) (parity : Option Nat) (c : Chip) :
    let y := c.out o
    let segs := (y.timing.hactive + 511) / 512
    let d := readSegment o parity c
    (if y.rdSeg + 1 < segs then (d.out o).rdLine = y.rdLine ∧ (d.out o).rdSeg = y.rdSeg + 1
      else (d.out o).rdLine = y.rdLine + 1 ∧ (d.out o).rdSeg = 0 ∧ ∀ j, j < segs → d.committed o (y.rdLine % 16) j = false)
    ∧ (c.committed o (y.rdLine % 16) y.rdSeg = false → y.rdSeg = 0 ∨ y.fill = false → d.regBit (OUT_EVT o) 4 = true ∧ (d.out o).fill = true) := by
  dsimp only
  rw [readSegment_eq]
  have hline := segBegin_line o (c.out o).rdSeg c
  have hcommit := committed_segBegin o (c.out o).rdSeg ((c.out o).rdLine % 16) (c.out o).rdSeg c
  have hfill : (c.out o).rdSeg = 0 ∨ (c.out o).fill = false → _ := segBegin_fill
  dsimp only
  generalize segBegin o (c.out o).rdSeg c = b at hline hcommit hfill
  have hlate := segLate_reads ho (c.out o).rdLine (c.out o).rdSeg b
  have hpixels := segPixels_reads ho (c.out o).rdSeg ((c.out o).lineOf (c.out o).rdLine) (c.out o).timing.hactive parity
    (segLate o (c.out o).rdLine (c.out o).rdSeg b)
  obtain ⟨hplace, hkept, -, hreg, -⟩ := segEnd_fields o (c.out o).rdLine (c.out o).rdSeg (((c.out o).timing.hactive + 511) / 512)
    ((hlate.trans hpixels).line.trans hline)
  refine ⟨hplace, fun hc hf => ?_⟩
  obtain ⟨hset, hfilled⟩ := segLate_late ho (hfill hf) (hcommit.trans hc)
  exact ⟨(congrArg (Word.bit · 4) (hreg _)).trans (hpixels.evt 4 hset), hkept.trans (hpixels.fill hfilled)⟩

/-! ### The commands -/

theorem exec_outSegmentRead_idle {o : Fin 4} {s : State} (h : s.chip.segmentDue o = false) (parity : Option (Fin 512)) :
    exec (.outSegmentRead o parity) s = .next s := by
  have hx : exec (.outSegmentRead o parity) s = execOutSegmentRead o parity s := rfl
  rw [hx, execOutSegmentRead, State.go_eq]
  dsimp only
  rw [h, Bool.and_false]
  rfl

theorem exec_outSegmentRead {o : Fin 4} {s : State} (hr : s.chip.running o = true) (hu : s.chip.outUp o = true)
    (hs : (s.chip.out o).starting = false) (hl : (s.chip.out o).rdLine < (s.chip.out o).lines) (hd : s.chip.segmentDue o = true)
    (parity : Option (Fin 512)) :
    exec (.outSegmentRead o parity) s = .next (s.at (readSegment o (parity.map (·.val)) s.chip)) := by
  have hx : exec (.outSegmentRead o parity) s = execOutSegmentRead o parity s := rfl
  have hgo : (s.chip.running o && s.chip.outUp o && !(s.chip.out o).starting && Nat.blt (s.chip.out o).rdLine (s.chip.out o).lines
      && s.chip.segmentDue o) = true := by
    simp [hr, hu, hs, hl, hd]
  rw [hx, execOutSegmentRead, State.go_eq]
  dsimp only
  rw [if_pos hgo]
  rfl

end Sys2Proof.Machine
end

section
/-! O58: a committed segment is sent as the ring holds it (R299, R300). -/

namespace Sys2Proof.Machine

/-- Output `o` sends what its ring holds: no fill pixels, no Franking Unit, no fault pattern, all the bits of a pixel. -/
structure Chip.SendsRing (o i : Nat) (ring : Sparse Nat) (mem : Sparse Byte) (c : Chip) : Prop where
  fill : (c.out o).fill = false
  bpc8 : (c.out o).timing.bpc8 = false
  line : (c.out o).rdLine = i
  ring : c.disp.ring = ring
  fu : (c.fu.vdd && c.fu.ready) = false
  notice : (c.reg (COMP_NOTICE_A o)).bit 31 = false
  mem : c.mem = mem

/-- Changes of the seal and of what was sent leave it so. -/
theorem Chip.SendsRing.modOut {o i : Nat} {ring : Sparse Nat} {mem : Sparse Byte} {c : Chip} (h : c.SendsRing o i ring mem) {f : Output → Output}
    (hf : ∀ x, (f x).fill = x.fill ∧ (f x).timing = x.timing ∧ (f x).rdLine = x.rdLine) : (c.modOut o f).SendsRing o i ring mem := by
  obtain ⟨hfill, htiming, hline⟩ := hf (c.out o)
  refine ⟨?_, ?_, ?_, h.ring, h.fu, h.notice, h.mem⟩
  · rw [Chip.out_modOut_same, hfill, h.fill]
  · rw [Chip.out_modOut_same, htiming, h.bpc8]
  · rw [Chip.out_modOut_same, hline, h.line]

/-- Without the Franking Unit and without the fault pattern a pixel is not overlaid (R404, R454). -/
theorem overlayPx_none {o i : Nat} {ring : Sparse Nat} {mem : Sparse Byte} {c : Chip} (h : c.SendsRing o i ring mem) (gs : List NoticeRegion)
    (x y v : Nat) : overlayPx o gs x y v c = ((v, false), c) := by
  have hfault : c.faultAt o gs x y = false := by
    unfold Chip.faultAt rectHas
    rw [h.fu, h.notice]
    rfl
  unfold overlayPx
  rw [hfault, h.fu]
  rfl

theorem stagePx_ring {o i : Nat} {ring : Sparse Nat} {mem : Sparse Byte} {c : Chip} (h : c.SendsRing o i ring mem) (line : Nat)
    (gs : List NoticeRegion) {x v : Nat} (hv : sget z0 ring ((o * 16 + i % 16) * 4096 + x) = v) (hlt : v < 2 ^ 30) :
    (stagePx o line gs false x c).SendsRing o i ring mem ∧ ((stagePx o line gs false x c).out o).sent = v :: (c.out o).sent := by
  have hin : stageIn o false v c = c := by
    unfold stageIn
    rw [h.fill, Nat.testBit_lt_two_pow hlt]
    rfl
  have hvalue : c.stageValue o line x v = v := by
    unfold Chip.stageValue
    rw [h.fill, if_neg Bool.false_ne_true, Nat.mod_eq_of_lt hlt]
  have hcrc : (stageCrc o v c).SendsRing o i ring mem := h.modOut fun _ => ⟨rfl, rfl, rfl⟩
  have hsent : ((stageCrc o v c).out o).sent = (c.out o).sent := by
    unfold stageCrc
    rw [Chip.out_modOut_same]
  rw [stagePx_eq, h.ring, h.line, hv]
  dsimp only
  rw [hin, hvalue]
  generalize stageCrc o v c = d at hcrc hsent
  unfold stageOut
  rw [overlayPx_none hcrc]
  dsimp only
  rw [if_neg Bool.false_ne_true]
  refine ⟨hcrc.modOut fun _ => ⟨rfl, rfl, rfl⟩, ?_⟩
  rw [Chip.out_modOut_same, hcrc.bpc8, hsent]
  rfl

/-- A run of pixels without a parity error, sent in order. -/
theorem forAll_stagePx_ring {o i base : Nat} {ring : Sparse Nat} {mem : Sparse Byte} (line : Nat) (gs : List NoticeRegion) {px : Nat → Nat}
    {l : List Nat} (hl : ∀ k ∈ l, sget z0 ring ((o * 16 + i % 16) * 4096 + (base + k)) = px k ∧ px k < 2 ^ 30) {c : Chip}
    (h : c.SendsRing o i ring mem) :
    let d := forAll l (fun k c => stagePx o line gs ((none : Option Nat) == some k) (base + k) c) c
    d.SendsRing o i ring mem ∧ (d.out o).sent = l.reverse.map px ++ (c.out o).sent := by
  induction l generalizing c with
  | nil => exact ⟨h, rfl⟩
  | cons k t ih =>
    rw [List.forall_mem_cons] at hl
    obtain ⟨hstep, hsent⟩ := stagePx_ring h line gs hl.1.1 hl.1.2
    have hparity : ((none : Option Nat) == some k) = false := rfl
    obtain ⟨hrest, hall⟩ := ih hl.2 hstep
    rw [forAll_cons, hparity]
    refine ⟨hrest, ?_⟩
    rw [hall, hsent, List.reverse_cons, List.map_append, List.append_assoc]
    rfl

/-- A committed segment of a line without fill pixels is sent as the ring holds it. -/
theorem readSegment_ring {o : Nat} {c : Chip} (hc : c.committed o ((c.out o).rdLine % 16) (c.out o).rdSeg = true) (hj : (c.out o).rdSeg ≠ 0)
    (hf : (c.out o).fill = false) (hfu : (c.fu.vdd && c.fu.ready) = false) (hn : (c.reg (COMP_NOTICE_A o)).bit 31 = false)
    (hb : (c.out o).timing.bpc8 = false) (hin : 512 * (c.out o).rdSeg + 512 ≤ (c.out o).timing.hactive) {px : Nat → Nat}
    (hpx : ∀ k, k < 512 → sget z0 c.disp.ring ((o * 16 + (c.out o).rdLine % 16) * 4096 + (512 * (c.out o).rdSeg + k)) = px k ∧ px k < 2 ^ 30) :
    ((readSegment o none c).out o).sent = (List.range 512).reverse.map px ++ (c.out o).sent ∧ (readSegment o none c).mem = c.mem := by
  have hsends : c.SendsRing o (c.out o).rdLine c.disp.ring c.mem := ⟨hf, hb, rfl, rfl, hfu, hn, rfl⟩
  have hbegin : segBegin o (c.out o).rdSeg c = c := if_neg hj
  have hlate : segLate o (c.out o).rdLine (c.out o).rdSeg c = c := by
    unfold segLate
    rw [hc, Bool.not_true, Bool.and_false]
    rfl
  have hall : (List.range 512).filter (fun k => Nat.blt (512 * (c.out o).rdSeg + k) (c.out o).timing.hactive) = List.range 512 := by
    refine List.filter_eq_self.mpr fun k hk => ?_
    have hk512 := List.mem_range.mp hk
    simp only [Nat.blt_eq]
    omega
  have hpixels (line : Nat) : segPixels o (c.out o).rdSeg line (c.out o).timing.hactive none c
      = forAll (List.range 512) (fun k d => stagePx o line [] ((none : Option Nat) == some k) (512 * (c.out o).rdSeg + k) d) c := by
    unfold segPixels
    rw [hfu, if_neg Bool.false_ne_true]
    dsimp only
    rw [if_neg Bool.false_ne_true, hall]
  have hrun := forAll_stagePx_ring ((c.out o).lineOf (c.out o).rdLine) [] (fun k hk => hpx k (List.mem_range.mp hk)) hsends
  rw [readSegment_eq]
  dsimp only at hrun ⊢
  rw [hbegin, hlate, hpixels]
  generalize forAll (List.range 512) _ c = d at hrun ⊢
  obtain ⟨hsent, hlist⟩ := hrun
  obtain ⟨-, -, hend, -, hmem⟩ := segEnd_fields o (c.out o).rdLine (c.out o).rdSeg (((c.out o).timing.hactive + 511) / 512) hsent.line
  exact ⟨hend.trans hlist, hmem.trans hsent.mem⟩

end Sys2Proof.Machine
end

section
/-! O58: the display. -/

namespace Sys2Proof.Machine

/-- READY is written (R290). -/
theorem sceneReady_fields (o : Nat) (c : Chip) :
    let d := c.setF (OUT_SCENE_READY o) 1
    d.fb (OUT_SCENE_READY o) = true ∧ (∀ j, j ≠ OUT_SCENE o → d.reg j = c.reg j) ∧ d.mem = c.mem :=
  ⟨Chip.fb_setF_same c _ 1 le_rfl (show 0 < 32 by decide), fun _ hj => Chip.reg_setF_other c 1 hj, Chip.setF_mem ..⟩

/-- The number of a frame that no follow message gives: what was written, or the next (R294). -/
theorem frameNumber_none (c : Chip) (o : Nat) :
    c.frameNumber o none = match (c.out o).nextNo with | some k => k | none => c.reg (OUT_FRAME_COUNT o) + 1 := by
  unfold Chip.frameNumber
  cases (c.out o).nextNo <;> rfl

/-- Settles O58: an output's start, its lines and its frames by what they leave steady of it (`Chip.Steady`), the other commands by the fields
that they change. -/
theorem displayResults : Obligations.DisplayResults := by
  unfold Obligations.DisplayResults
  intro o n m x s
  dsimp only
  have ho := o.isLt
  refine ⟨fun hup => ⟨?ready, ?start, ?refuse, ?stop, ?pair⟩, fun hruns => ⟨?line, ?frame⟩, ?bin, ?offer, ?perform, ?idle, ?read, ?done, ?capture,
    ?capRead, fun htakes => ⟨?retire, ?restore⟩⟩
  case ready => exact .of_next (exec_sceneReady hup) (sceneReady_fields o s.chip)
  case start => exact fun hr hl hok => .of_next (exec_outEnable hup true) (writeOutCtl_start ho hr hl hok)
  case refuse => exact fun hr hl hbad => .of_next (exec_outEnable hup true) (writeOutCtl_timingErr ho hr hl hbad)
  case stop => exact .of_next (exec_outEnable hup false) (writeOutCtl_stop ho s.chip)
  case pair =>
    refine fun pair he hen hp => ⟨fun hr hr1 hk hk1 => ?_, fun hr => ?_⟩
    · exact .of_next (exec_pairWrite hup pair) (writeOutCtl_paired ho he hen hp hr hr1 hk hk1)
    · exact .of_next (exec_pairWrite hup pair) (writeOutCtl_pairErr ho he hen hp hr)
  case line => exact fun hf hh => .of_next (exec_lineStart hruns hf) (nextLine_fields ho hh)
  case frame =>
    intro hf hen
    obtain ⟨hstarted, hv, hstarting⟩ := dueFrame_fields ho hen
    refine .of_next (exec_frameStart hruns hf) ⟨hstarted.count.trans (frameNumber_none s.chip o), hstarted.started, hv, hstarting, hstarted.crc, hstarted.sealOn, hstarted.scene,
      fun hready hstart => hstarted.late ?_, fun hready => hstarted.latched hready⟩
    rw [hready, hstart]
    rfl
  case bin => exact fun hb hm hf wait => .of_next (exec_binDone hb hm hf) (binFrame_fields o wait s.chip)
  case offer => exact fun g u p i hm hg hoffer => .of_next (exec_unitOffer hm hg) (offerUnit_fields hoffer)
  case perform =>
    intro l w hr hu hl hw
    obtain ⟨hone, hout⟩ := performDue_one (due := s.chip.writeDue o l) hw
    obtain ⟨hlog, hback, hentry⟩ := performWrite_fields w s.chip
    rw [hout] at hlog hback hentry
    have hexec := exec_lineTimedWrite hr hu hl
    rw [hone] at hexec
    exact .of_next hexec ⟨hlog, hback, hentry⟩
  case idle => exact fun hd parity => exec_outSegmentRead_idle hd parity
  case read =>
    intro hr hu hs hl hd parity
    obtain ⟨hplace, hlate⟩ := readSegment_fields ho (parity.map (·.val)) s.chip
    refine .of_next (exec_outSegmentRead hr hu hs hl hd parity) ⟨hplace, hlate, fun hc hj hf hp hfu hn hb hin hpx => ?_⟩
    subst hp
    exact readSegment_ring hc hj hf hfu hn hb hin fun k hk => ⟨congrArg (sget (fun _ => 0) s.chip.disp.ring) (Nat.add_assoc ..).symm, hpx k hk⟩
  case done => exact fun hr hu hs hd hl => .of_next (exec_frameDone hr hu hs hd hl) (frameDone_fields ho s.chip)
  case capture =>
    intro level hp hr hu he hedge hx hcomp hlow hhigh hcol
    exact .of_next (exec_beamCapture hp hr hu he hedge hx) (beamCapture_fields (c := s.chip.takeEdge o) hcomp hlow hhigh hcol)
  case capRead =>
    intro r hr peek
    obtain ⟨hevt, hreg, hmem⟩ := readOutCap_fields (o := o) peek s.chip
    exact .of_next (exec_outCapRead hr peek) ⟨Chip.answer_answerTo .., hevt, hreg, hmem⟩
  case retire => exact fun hn => .of_next (exec_sorterRetire m htakes) (writeRetire_retire n hn)
  case restore => exact .of_next (exec_sorterRestore m htakes) (writeRetire_restore n s.chip)

end Sys2Proof.Machine
end
